-- ==== Sys2Proof/Word.lean ====
section
/-! DEFINITION. The word types of the block and their plainest helpers. -/

namespace Sys2Proof

/-- One byte. -/
abbrev Byte := BitVec 8

/-- A 64-bit word, the unit of registers and of every memory structure (00_scope R4, R5). -/
abbrev Word := BitVec 64

/-- A packet sequence number (03_transport R64). -/
abbrev Psn := BitVec 24

/-- A message sequence number (03_transport R57). -/
abbrev Msn := BitVec 16

/-- A ring count: free-running, 32 bits (02_queues R25). -/
abbrev Count32 := BitVec 32

end Sys2Proof
end

