-- ==== Sys2Proof/Syntax.lean ====
section
/-! DEFINITION. The commands of the LK7400 block: one constructor of `Instr` for each row of
spec/opcode_table.json, with the operands that come from outside the step, and the plain data types
those operands are made of. A command is either something the outside does to the device (a register
access, a doorbell, a packet, a pin edge) or the occurrence of one of the device's own events (a timer
expires, a transfer ends, an engine takes its next step). -/

namespace Sys2Proof

/-- Eight 64-bit words: a work entry, an RQ entry, a receive entry (02_queues R28, R34; 04_matching R80). -/
structure Words8 where
  w0 : Word
  w1 : Word
  w2 : Word
  w3 : Word
  w4 : Word
  w5 : Word
  w6 : Word
  w7 : Word
deriving DecidableEq, Repr

/-- A packet: the fields of the header of Table 3.3, in the spec's names, and the payload bytes. -/
structure Packet where
  dstNode : Nat
  srcNode : Nat
  vl      : Nat
  hops    : Nat
  age     : BitVec 16
  type    : Nat
  tc      : Nat
  dstQp   : Nat
  dstGen  : Nat
  srcQp   : Nat
  srcGen  : Nat
  node    : Bool
  ord     : Bool
  ackReq  : Bool
  solicit : Bool
  retx    : Bool
  flowNew : Bool
  psn     : Psn
  msn     : Msn
  pkey    : BitVec 16
  flowlet : Nat
  cn      : Nat
  offset  : Nat
  msgLen  : Nat
  w4      : Word
  w5      : Word
  w6      : Word
  inc     : BitVec 16
  hcrc    : BitVec 32
  payload : List Byte
deriving DecidableEq, Repr

/-- An admin command as its function posted it: the issuing function's requester index (R6) and the
eight words of the entry (02_queues R45); word 1 is the cookie. -/
structure AdminCmd where
  fn : Nat
  e  : Words8
deriving DecidableEq, Repr

/-- What a read of a host-memory structure gave, once its addresses were translated (log 56): its
64-byte entries, or the status with which the read itself failed (Table 2.11). -/
inductive Fetched where
  | entries (es : List Words8)
  | failed  (status : Nat)
deriving DecidableEq, Repr

/-- What a read of bytes in host memory gave: the bytes, or the status with which it failed. -/
inductive FetchedBytes where
  | bytes  (bs : List Byte)
  | failed (status : Nat)
deriving DecidableEq, Repr

/-- How a PCI Express completion ends (12_host R272; 07_translation R159). -/
inductive HostStatus where
  | ok
  | ur
  | ca
  | poisoned
deriving DecidableEq, Repr

/-- A PSN space: that of a CONNECTED queue pair, or that of the node-pair context of a peer (Table 3.1). -/
inductive SpaceId where
  | conn (qp : Nat)
  | node (n : Nat)
deriving DecidableEq, Repr

/-- What the slice sends its next packet for (03_transport R64): a job of a queue pair, named by the
free-running ring count of its first entry, or a response message named by its identifier. -/
inductive SendWhat where
  | job  (qp : Nat) (ring : Count32)
  | resp (id : Nat)
deriving DecidableEq, Repr

/-- The identity of a message in placement (03_transport R70): SEND-type by
(SRC_NODE, SRC_QP, DST_QP, MSN), a response by the space and REQ_PSN it answers. -/
inductive MsgId where
  | send (srcNode srcQp dstQp : Nat) (msn : Msn)
  | resp (sp : SpaceId) (reqPsn : Psn)
deriving DecidableEq, Repr

/-- One flit on a link: its 2-bit kind and its 64 bytes as eight words (Table 10.1). -/
structure Flit where
  kind : Nat
  ws   : Words8
deriving DecidableEq, Repr

/-- The trailer of a block, without its CRC (Table 10.2). `body` is the 14-bit field [27:14]. -/
structure Trailer where
  bsn  : BitVec 12
  fmt  : Bool
  nak  : Bool
  body : BitVec 14
  lpar : BitVec 4
deriving DecidableEq, Repr

/-- A block on a link: eight flits, the trailer and the block CRC (10_link R215, R216). -/
structure Block where
  flits : List Flit
  trl   : Trailer
  crc   : BitVec 32
deriving DecidableEq, Repr

/-- What a fabric lane's decoder reported while a block was received (11_lanes R246 to R248): the codewords it decoded, each with
the symbols it corrected, none for an uncorrectable one; and a marker it found. -/
structure LaneRx where
  lane      : Nat
  codewords : List (Option Nat)
  marker    : Option (BitVec 120)
deriving DecidableEq, Repr

/-- A block as a port's lanes hand it over: on a fabric port its image; on a span port the code groups of each symbol time on the
active data lanes, ascending, after the COM row that stood before it, if one did (11_lanes R257, R258). -/
inductive BlockRx where
  | fabric (b : Block)
  | span   (com : Option (List (BitVec 10))) (rows : List (List (BitVec 10)))
deriving DecidableEq, Repr

/-- The first marker of a fabric lane after a training, and when it arrived, in ns from the first of the port (11_lanes R247). -/
structure LaneMark where
  lane   : Nat
  marker : BitVec 120
  skew   : Nat
deriving DecidableEq, Repr

/-- What the lanes found when a training ended: the first markers of fabric lanes, or the data lanes of a span port that locked
(11_lanes R247, R261). -/
inductive LaneEnds where
  | fabric (marks : List LaneMark)
  | span   (locked : BitVec 16)
deriving DecidableEq, Repr

/-- A region the boot reads from the flash (14_start R311, R316). -/
inductive FlashRegion where
  | directory
  | slotA
  | slotB
  | blob
deriving DecidableEq, Repr

/-- A component of a firmware image as the check of its bytes found it (Table 14.3): its CODE, whether
it lies within the slot, its length, its listed digest and the digest its bytes hash to. -/
structure Component where
  code     : Nat
  inSlot   : Bool
  len      : Nat
  listed   : BitVec 384
  computed : BitVec 384
deriving DecidableEq, Repr

/-- A firmware image as read (14_start R312): the header fields the checks of R313 use. -/
structure Image where
  magicFormatOk : Bool
  version       : BitVec 32
  svn           : Nat
  raiseSvn      : Bool
  count         : Nat
  components    : List Component
  manifest      : BitVec 384
  beniusKey     : BitVec 768
  beniusSig     : BitVec 768
  ownerKey      : BitVec 768
  ownerSig      : BitVec 768
deriving DecidableEq, Repr

/-- A copy of the image directory as read (Table 14.2): the fields its check uses; a region is its flash offset and its length. -/
structure Directory where
  magic  : BitVec 32
  format : BitVec 32
  prefer : BitVec 32
  slotA  : Nat × Nat
  slotB  : Nat × Nat
  config : Nat × Nat
  crcOk  : Bool
deriving DecidableEq, Repr

/-- One section of the configuration blob (Table 14.7): its type, its payload words, and whether its
header is well formed (length inside the body, reserved bits 0). -/
structure Section where
  type   : Nat
  wellFormed : Bool
  ws     : List Word
deriving DecidableEq, Repr

/-- The configuration blob as read (14_start R318); `count` is SECTIONS. -/
structure Blob where
  magicFormatOk : Bool
  lengthFits    : Bool
  count         : Nat
  version       : BitVec 32
  listed        : BitVec 384
  computed      : BitVec 384
  hdrDigest     : BitVec 384
  ownerKey      : BitVec 768
  ownerSig      : BitVec 768
  sections      : List Section
deriving DecidableEq, Repr

/-- What a flash region read gave (14_start R310, R311, R313, R318): of the directory, whether the part offers octal mode, its size in
bytes, and the two copies. -/
inductive FlashData where
  | dir   (octal : Bool) (size : Nat) (first second : Directory)
  | image (i : Image)
  | blob  (b : Blob)
deriving DecidableEq, Repr

/-- A signed token (14_start R330; 18_recorder R392): words 0 to 7 and the signature. -/
structure Token where
  body : Words8
  sig  : BitVec 768
deriving DecidableEq, Repr

/-- What reading a token, once its address was translated, gave (log 56). -/
inductive FetchedToken where
  | token  (t : Token)
  | failed (status : Nat)
deriving DecidableEq, Repr

/-- What reading a firmware image through an address space gave (14_start R332). -/
inductive FetchedImage where
  | image  (i : Image)
  | failed (status : Nat)
deriving DecidableEq, Repr

/-- What reading an owner key gave (Table 14.14). -/
inductive FetchedKey where
  | key    (k : BitVec 768)
  | failed (status : Nat)
deriving DecidableEq, Repr

/-- The PCI Express operation of a host AtomicOp on BAR4 (13_semaphore R296). -/
inductive AtomicForm where
  | wide (operand : Word)
  | low  (operand : BitVec 32)
  | high (operand : BitVec 32)
deriving DecidableEq, Repr

/-- An SPDM transport endpoint (14_start R327): the DOE mailbox of H0, that of H1, MCTP over SMBus. -/
inductive Endpoint where
  | doe0
  | doe1
  | mctp
deriving DecidableEq, Repr

/-- A DOE data object type (12_host R285). -/
inductive DoeType where
  | discovery
  | cmaSpdm
  | securedCma
  | other
deriving DecidableEq, Repr

/-- An MCTP control message (14_start R309). -/
inductive MctpMsg where
  | setEndpointId (eid : BitVec 8)
  | getEndpointId
  | other (code : BitVec 8)
deriving DecidableEq, Repr

/-- What a slice of the self-test found (17_self_test R380): nothing, or its first failure. -/
inductive SliceFinding where
  | pass
  | fail (address : BitVec 32) (bit : Nat) (expected : Word)
deriving DecidableEq, Repr

/-- Where a CE or UC occurrence found its error, as Table 16.2 needs it for the reaction: nothing further, the
packet that a pipeline's parity error or an uncorrectable grain spoils, the object that owns a lost word, or an
address. -/
inductive FaultDetail where
  | none
  | packet (p : Packet)
  | grain (p : Packet)
  | ownerQp   (qp : Nat)
  | ownerMctx (ctx : Nat)
  | ownerGroup (grp : Nat)
  | address (a : Word)
deriving DecidableEq, Repr

/-- The commands: one constructor per row of spec/opcode_table.json, in the table's order.
Each docstring gives the row's mnemonic, its rule and its summary. -/
inductive Instr where
  /-- REGISTER_WRITE (R11). A write to a BAR0 register that has no row of its own sets its rw, w1c or
      w1s fields. At offset 2 ^ 37 a physical function's configuration write gives AtomicOp Requester
      Enable bit 0 of the value (R123), and at 2 ^ 37 + 8 it gives Device Control the low 16 bits (R271). -/
  | registerWrite (rid off size : Nat) (val : Word)
  /-- DOORBELL_SQ_PRODUCER (R27). A TYPE 0 doorbell is checked and advances the SQ producer count, or
      the admin SQ producer count. -/
  | doorbellSqProducer (fn off size : Nat) (w : Word)
  /-- DOORBELL_RQ_PRODUCER (R27). A TYPE 1 doorbell advances the RQ producer count and may release
      messages that wait for an RQ entry. -/
  | doorbellRqProducer (fn off size : Nat) (w : Word) (entries : Fetched)
  /-- DOORBELL_CQ_CONSUMER (R27). A TYPE 2 doorbell advances a CQ or admin CQ consumer count and may
      end a stall. -/
  | doorbellCqConsumer (fn off size : Nat) (w : Word)
  /-- DOORBELL_CQ_ARM (R41). A TYPE 3 doorbell advances the CQ consumer count and arms the CQ for its
      next completion. -/
  | doorbellCqArm (fn off size : Nat) (w : Word)
  /-- DOORBELL_CQ_ARM_SOLICITED (R41). A TYPE 4 doorbell advances the CQ consumer count and arms the
      CQ for its next solicited or failed completion. -/
  | doorbellCqArmSolicited (fn off size : Nat) (w : Word)
  /-- DOORBELL_EQ_CONSUMER (R43). A TYPE 5 doorbell advances an EQ consumer count and lets lost events
      be reported. -/
  | doorbellEqConsumer (fn off size : Nat) (w : Word)
  /-- DOORBELL_EQ_ARM (R42). A TYPE 6 doorbell advances an EQ consumer count and arms its MSI-X vector
      for the next event. -/
  | doorbellEqArm (fn off size : Nat) (w : Word)
  /-- RING_APERTURE_WRITE (R24). A host write through the BAR2 ring aperture stores entries into a
      device-resident ring in HBM. -/
  | ringApertureWrite (fn off : Nat) (data : List Byte)
  /-- JOB_START (R31). A slice starts the next job of an SQ once its LAST entry is covered and any
      fence, flow, window or sequence wait has ended. -/
  | jobStart (qp : Nat) (fetched : Fetched)
  /-- COMPLETION_WRITE (R38). A completion is written to its CQ in ring order once its job and every
      earlier job are complete and the CQ has room. -/
  | completionWrite (cq : Nat)
  /-- CQ_STALL_TIMEOUT (R39). A CQ that stays full for its stall limit while a completion waits enters
      ERROR. -/
  | cqStallTimeout (cq : Nat)
  /-- QP_DRAIN_END (R49). A draining queue pair whose last started job and message complete returns to
      INIT or READY and writes QP_DRAINED. -/
  | qpDrainEnd (qp : Nat)
  /-- QP_DRAIN_TIMEOUT (R49). A queue-pair drain forced after 100 ms completes jobs still in flight
      with DRAINING. -/
  | qpDrainTimeout (qp : Nat)
  /-- CQ_DRAIN_END (R49). A draining CQ with no completion write in progress becomes DISABLED, or
      READY if an enable is held. -/
  | cqDrainEnd (cq : Nat)
  /-- CQ_DRAIN_TIMEOUT (R49). A CQ drain forced after 100 ms abandons the writes still in progress. -/
  | cqDrainTimeout (cq : Nat)
  /-- QP_QUARANTINE_END (R50). A destroyed queue pair's quarantine ends after twice the stale limit
      and its identifier is free. -/
  | qpQuarantineEnd (qp : Nat)
  /-- ADMIN_SQ_ENABLE (R44). A write of TEN_ADMIN_SQ ENABLE starts fetching with counts at 0, or stops
      fetching, or is held during a reset drain. -/
  | adminSqEnable (rid fn : Nat) (val : Word)
  /-- ADMIN_CQ_ENABLE (R44). A write of TEN_ADMIN_CQ ENABLE starts or stops writing command
      completions, setting counts to 0 on enable. -/
  | adminCqEnable (rid fn : Nat) (val : Word)
  /-- ADMIN_COMPLETION_WRITE (R44). A waiting command completion is written to the admin CQ once it is
      enabled and has room, raising vector 0. -/
  | adminCompletionWrite (fn : Nat)
  /-- CREATE_QP (R47). The CREATE_QP command creates a queue pair in RESET with an advanced generation
      and a doorbell slot. -/
  | createQp (c : AdminCmd)
  /-- MODIFY_QP (R47). The MODIFY_QP command makes one of the state changes of Table 2.10 or completes
      MALFORMED. -/
  | modifyQp (c : AdminCmd)
  /-- QUERY_QP (R45). The QUERY_QP command returns the state, enable, cause and ring positions of a
      queue pair. -/
  | queryQp (c : AdminCmd)
  /-- DESTROY_QP (R50). The DESTROY_QP command flushes a queue pair and moves it to QUARANTINE. -/
  | destroyQp (c : AdminCmd)
  /-- CREATE_CQ (R45). The CREATE_CQ command creates a READY completion queue with a doorbell slot. -/
  | createCq (c : AdminCmd)
  /-- MODIFY_CQ (R49). The MODIFY_CQ command enables a CQ or starts its drain. -/
  | modifyCq (c : AdminCmd)
  /-- QUERY_CQ (R45). The QUERY_CQ command returns a CQ's state, enable and producer count. -/
  | queryCq (c : AdminCmd)
  /-- DESTROY_CQ (R45). The DESTROY_CQ command frees a CQ unless a queue pair is bound to it. -/
  | destroyCq (c : AdminCmd)
  /-- CREATE_EQ (R45). The CREATE_EQ command creates an event queue with a vector and doorbell slot. -/
  | createEq (c : AdminCmd)
  /-- DESTROY_EQ (R45). The DESTROY_EQ command frees an EQ unless a queue pair or CQ is bound to it. -/
  | destroyEq (c : AdminCmd)
  /-- ALLOC_HBM (R14). The ALLOC_HBM command allocates HBM from the device-resident ring region and
      optionally maps it into the ring aperture. -/
  | allocHbm (c : AdminCmd)
  /-- FREE_HBM (R45). The FREE_HBM command frees an allocation unless a bound ring or open window lies
      in it. -/
  | freeHbm (c : AdminCmd)
  /-- TRANSPORT_PACKET_SEND (R64). A slice sends the next data packet of a job or response once the
      PSN window, policer and credit allow. -/
  | transportPacketSend (what : SendWhat)
  /-- TRANSPORT_PACKET_RECEIVE (R72). A packet reaching its target queue pair passes the ordered
      checks of R72 and is discarded, refused by NAK or accepted and placed. -/
  | transportPacketReceive (p : Packet)
  /-- ACK_DELAY_EXPIRY (R66). ACK_DELAY after the first unacknowledged accepted packet, the receiver
      sends a coalesced ACK. -/
  | ackDelayExpiry (sp : SpaceId)
  /-- ACK_RECEIVE (R67). An ACK advances SEND_UNA, marks SACKed PSNs and completes jobs whose packets
      are all acknowledged. -/
  | ackReceive (p : Packet)
  /-- NAK_RECEIVE (R68). A NAK is acted on by reason: go-back, BUSY resend schedule, or failing the
      job and moving its queue pair to ERROR. -/
  | nakReceive (p : Packet)
  /-- BUSY_BACKOFF_EXPIRY (R68). When a NAK BUSY backoff ends, the refused packet is resent with a new
      PSN and RETX = 1. -/
  | busyBackoffExpiry (sp : SpaceId) (psn : Psn)
  /-- RETRANSMIT_TIMEOUT (R69). A PSN space's retransmit timer expires: unacknowledged packets are
      resent and RTO doubles, or the space fails RETRY_EXCEEDED. -/
  | retransmitTimeout (sp : SpaceId)
  /-- BUSY_LIMIT_EXPIRY (R69). A packet refused BUSY for longer than BUSY_LIMIT fails its job with
      RETRY_EXCEEDED. -/
  | busyLimitExpiry (sp : SpaceId) (psn : Psn)
  /-- FLOW_ENTRY_RELEASE (R58). A flow entry quiet for twice the stale limit is released, letting a
      waiting job take one. -/
  | flowEntryRelease (qp dstNode dstQp : Nat)
  /-- SYNC_RECEIVE (R74). A SYNC sets the receive state, may fail jobs of a changed incarnation, is
      answered with SYNC_ACK and makes the context ACTIVE. -/
  | syncReceive (p : Packet)
  /-- SYNC_ACK_RECEIVE (R74). A SYNC_ACK for the latest SYNC_ID sets the receive state, makes the
      context ACTIVE and releases held work. -/
  | syncAckReceive (p : Packet)
  /-- PLACEMENT_ABANDON (R431). A message in placement whose count has not grown for GATE_HOLD is
      abandoned and its receive completes INCOMPLETE. -/
  | placementAbandon (m : MsgId)
  /-- CREATE_MCTX (R78). The CREATE_MCTX command creates a READY matching context attached to a queue
      pair. -/
  | createMctx (c : AdminCmd)
  /-- DESTROY_MCTX (R79). The DESTROY_MCTX command flushes a context, discards its stored messages and
      moves it to QUARANTINE. -/
  | destroyMctx (c : AdminCmd)
  /-- QUERY_MCTX (R78). The QUERY_MCTX command returns a context's state, posted count and store
      charge. -/
  | queryMctx (c : AdminCmd)
  /-- POST_RECV (R83). The POST_RECV command matches each entry against the unexpected store or
      appends it to the posted list. -/
  | postRecv (c : AdminCmd) (list : Fetched)
  /-- CANCEL_RECV (R85). The CANCEL_RECV command removes the oldest posted entry with the given
      cookie. -/
  | cancelRecv (c : AdminCmd)
  /-- PROBE (R85). The PROBE command searches the unexpected store without removing anything and
      writes a reply. -/
  | probe (c : AdminCmd)
  /-- GATE_HOLD_EXPIRY (R89). A message held for GATE_HOLD removes missing MSNs before it and is
      presented in order. -/
  | gateHoldExpiry (srcNode srcQp dstQp : Nat) (msn : Msn)
  /-- GATE_ENTRY_RELEASE (R90). A gate entry idle for four times the stale limit is released. -/
  | gateEntryRelease (srcNode srcQp dstQp : Nat)
  /-- RENDEZVOUS_GET_ISSUE (R95). The target issues the next rendezvous GET_REQ or closing GET once
      fewer than four are outstanding. -/
  | rendezvousGetIssue (recv : Nat)
  /-- SPILL_RESTORE (R100). When on-die room frees, a slice moves spilled posted entries back on die
      in list order. -/
  | spillRestore (slice : Nat)
  /-- OPEN_WINDOW (R109). The OPEN_WINDOW command opens a window entry and returns its key. -/
  | openWindow (c : AdminCmd)
  /-- REVOKE_WINDOW (R110). The REVOKE_WINDOW command advances GEN, sets REVOKING and ends outstanding
      GETs with late NAKs. -/
  | revokeWindow (c : AdminCmd)
  /-- REVOKE_COMPLETE (R110). Once no access is in flight and sent responses are settled, the window
      enters QUARANTINE and the revoke completes. -/
  | revokeComplete (window : Nat)
  /-- QUERY_WINDOW (R109). The QUERY_WINDOW command returns a window's state, generation and accesses
      in flight. -/
  | queryWindow (c : AdminCmd)
  /-- WINDOW_QUARANTINE_END (R111). A revoked window index becomes FREE after twice the stale limit. -/
  | windowQuarantineEnd (window : Nat)
  /-- HOST_ATOMICOP_COMPLETE (R116). A host AtomicOp completion returns the old value, or on UR, CA or
      poison ends the atomic with a late NAK OP. -/
  | hostAtomicopComplete (tag : Nat) (status : HostStatus) (old : Word)
  /-- HOST_READ_COMPLETE (R272). A completion for a device read on a host port delivers data to the
      waiting work or fails it on error. -/
  | hostReadComplete (tag : Nat) (status : HostStatus) (data : List Byte)
  /-- HOST_COMPLETION_TIMEOUT (R271). A non-posted host request reaches its completion timeout and
      fails the work that waits on it. -/
  | hostCompletionTimeout (tag : Nat)
  /-- CREATE_GROUP (R126). The CREATE_GROUP command reads the tree, reserves staging and creates a
      JOINING group. -/
  | createGroup (c : AdminCmd) (tree : FetchedBytes)
  /-- DESTROY_GROUP (R150). The DESTROY_GROUP command moves the group to ERROR with reason DESTROYED
      and starts its flush. -/
  | destroyGroup (c : AdminCmd)
  /-- GROUP_DESTROY_COMPLETE (R150). Once the flush completions are written, the destroyed group
      enters QUARANTINE and the command completes. -/
  | groupDestroyComplete (group : Nat)
  /-- QUERY_GROUP (R126). The QUERY_GROUP command returns a group's state, generation, OP_SEQ, reason
      and unjoined edges. -/
  | queryGroup (c : AdminCmd)
  /-- GROUP_QUARANTINE_END (R128). A destroyed group index becomes FREE after twice the stale limit. -/
  | groupQuarantineEnd (group : Nat)
  /-- JOIN_INTERVAL_EXPIRY (R127). Every JOIN_INTERVAL a JOINING vertex sends CREDIT on each edge not
      yet joined. -/
  | joinIntervalExpiry (group : Nat)
  /-- COLL_UP_RECEIVE (R137). An UP packet is checked and its chunk is taken into the combining of the
      operation. -/
  | collUpReceive (ingress : Nat) (p : Packet)
  /-- COLL_DOWN_RECEIVE (R139). A DOWN packet is checked, placed at DST for local jobs and forwarded
      to the children. -/
  | collDownReceive (ingress : Nat) (p : Packet)
  /-- COLL_CREDIT (R138). A CREDIT packet raises the sender's LIMIT on the channel and joins the edge. -/
  | collCredit (ingress : Nat) (p : Packet)
  /-- COLL_ABORT (R145). An ABORT for the group's GEN moves a JOINING or READY group to ERROR. -/
  | collAbort (ingress : Nat) (p : Packet)
  /-- COLL_CHUNK_SEND (R139). A vertex sends an UP or DOWN chunk once it holds all its inputs and has
      credit. -/
  | collChunkSend (group : Nat) (up : Bool) (child : Nat)
  /-- COLL_KEEPALIVE (R146). Every EDGE_TIMEOUT/8 a vertex sends CREDIT on each edge on which it still
      owes a packet. -/
  | collKeepalive (group : Nat)
  /-- EDGE_TIMEOUT (R146). An awaited channel silent for EDGE_TIMEOUT moves the group to ERROR with
      reason TIMEOUT. -/
  | edgeTimeout (group node : Nat)
  /-- OP_TIMEOUT (R146). An operation still active OP_TIMEOUT after its first job started moves the
      group to ERROR. -/
  | opTimeout (group : Nat)
  /-- CREATE_ASID (R153). The CREATE_ASID command creates an address space with its root and grant. -/
  | createAsid (c : AdminCmd)
  /-- MODIFY_ASID (R168). The MODIFY_ASID command replaces ROOT and invalidates the whole address
      space. -/
  | modifyAsid (c : AdminCmd)
  /-- DESTROY_ASID (R153). The DESTROY_ASID command frees an unbound ASID and empties the cache of it. -/
  | destroyAsid (c : AdminCmd)
  /-- INVALIDATE (R168). The INVALIDATE command removes cached translations of a range and stops walks
      from filling. -/
  | invalidate (c : AdminCmd)
  /-- INVALIDATE_COMPLETE (R168). Once every access using a removed entry has been issued, the
      INVALIDATE completes. -/
  | invalidateComplete (asid : Nat)
  /-- RESUME (R170). The RESUME command ends a queue pair's mark trap by re-walk or by ABORT. -/
  | resume (c : AdminCmd)
  /-- WALK_START (R159). A walk for an access with no cached translation starts when one of the 64
      walkers is free. -/
  | walkStart
  /-- WALK_READ_COMPLETE (R159). A page-table read returns and the walk descends, aborts, faults,
      traps or fills the cache. -/
  | walkReadComplete (walk : Nat) (status : HostStatus) (entry : Word)
  /-- TRAP_START (R164). An access lacking a mark takes a trap slot, pauses its job and writes
      MARK_REQUEST. -/
  | trapStart (qp : Nat)
  /-- MARK_TIMEOUT (R165). A trap without RESUME for MARK_TIMEOUT fails the job and moves the queue
      pair to ERROR. -/
  | markTimeout (qp : Nat)
  /-- PACKET_INPUT (R18). A fully buffered packet passes the input pipeline: HCRC, hop, age, route
      choice and grain allocation. -/
  | packetInput (ingress : Nat) (p : Packet)
  /-- EPOCH_FLIP (R178). A write of FLIP to RTE_EPOCH starts a bank swap, or is rejected while BUSY. -/
  | epochFlip (rid : Nat) (val : Word)
  /-- EPOCH_FLIP_COMPLETE (R178). Once every pipeline has changed banks, EPOCH advances, BUSY clears
      and EPOCH_FLIP is recorded. -/
  | epochFlipComplete
  /-- ROUTE_COPY (R178). A write of COPY to RTE_EPOCH starts copying the active bank into the shadow
      bank. -/
  | routeCopy (rid : Nat) (val : Word)
  /-- ROUTE_COPY_COMPLETE (R178). The bank copy ends and BUSY clears. -/
  | routeCopyComplete
  /-- ROUTE_SHADOW_WRITE (R178). A write to a shadow route entry is taken, or discarded with REJECT
      while BUSY. -/
  | routeShadowWrite (rid off : Nat) (val : Word)
  /-- PORT_ROLE_WRITE (R175). A write to RTE_PORT_ROLE sets a port's role and FAR_NODE and writes
      PORT_ROLE. -/
  | portRoleWrite (rid port : Nat) (val : Word)
  /-- STALE_LIMIT_WRITE (R189). A write of RTE_CTL.STALE_LIMIT changes the stale limit and writes
      STALE_CHANGE. -/
  | staleLimitWrite (rid : Nat) (val : Word)
  /-- SET_PKEYS (R190). The SET_PKEYS command replaces a function's key set. -/
  | setPkeys (c : AdminCmd)
  /-- OUTPUT_QUEUE_JOIN (R197). A packet joins its output lane queue once fully buffered, TC0 being
      coloured and possibly demoted as it joins. -/
  | outputQueueJoin (port : Nat)
  /-- OUTPUT_SELECT (R199). When the link is free for a new packet, the scheduler selects TC0, TC1 or
      a weighted class and sets CN. -/
  | outputSelect (port : Nat)
  /-- INJECTION_ADMIT (R203). A packet waiting at the injection policer of its class is admitted when
      its bucket allows. -/
  | injectionAdmit (cls : Nat)
  /-- TCS_STAGE_WRITE (R207). A write to a TCS rw field changes the staged value, or is discarded with
      CAUSE 0x6 while BUSY. -/
  | tcsStageWrite (rid off : Nat) (val : Word)
  /-- TCS_COMMIT (R207). A write of COMMIT checks the staged set and accepts or rejects it, writing
      QOS_COMMIT. -/
  | tcsCommit (rid : Nat) (val : Word)
  /-- COMMIT_IN_FORCE (R209). An accepted commit comes into force for every port and BUSY clears. -/
  | commitInForce
  /-- BLOCK_TRANSMIT (R217). The link layer sends the next block, new, replayed or idle, with a fresh
      trailer. -/
  | blockTransmit (port : Nat)
  /-- BLOCK_RECEIVE (R221). A received block is CRC-checked, its trailer applied, and it is accepted,
      discarded or NAKed. `lanes` is what the decoders of a fabric port's lanes reported. -/
  | blockReceive (port : Nat) (rx : BlockRx) (lanes : List LaneRx)
  /-- REPLAY_TIMEOUT (R223). With UNA stuck for REPLAY_TO the sender replays from UNA, or requests a
      retrain after REPLAY_LIMIT replays. -/
  | replayTimeout (port : Nat)
  /-- CREDIT_FLIT (R226). A CREDIT control flit updates SEEN and the credit of sixteen lanes. -/
  | creditFlit (port : Nat) (half : Bool) (totals : List (BitVec 24))
  /-- INIT (R231). An INIT control flit is checked for loopback, miswiring and usable lanes. -/
  | init (port peerPort peerNode : Nat) (usable : BitVec 4) (ident : Word)
  /-- PROBE_FLIT (R231). A PROBE control flit is answered with a PROBE_ECHO. -/
  | probeFlit (port : Nat) (probeId : BitVec 8) (time : Word)
  /-- PROBE_ECHO (R231). A PROBE_ECHO gives a credit round trip, and an excessive one holds the port. -/
  | probeEcho (port : Nat) (probeId : BitVec 8) (time : Word)
  /-- CHANGE_REQ (R232). A CHANGE_REQ is accepted with a resulting lane set, kept, or resolved against
      an own request by key. -/
  | changeReq (port : Nat) (reqId : BitVec 8) (op : Nat) (lanes : BitVec 4) (peerPort : Nat) (ident : Word) (speed : Bool)
  /-- CHANGE_ACK (R232). A CHANGE_ACK moves the requester into CHANGE, or breaks the port when LANES
      is 0. -/
  | changeAck (port : Nat) (reqId : BitVec 8) (lanes : BitVec 4) (ident : Word)
  /-- PAUSE (R232). A PAUSE flit may let the side hand its lanes to the retrain. -/
  | pause (port : Nat) (reqId : BitVec 8)
  /-- TIME (R237). A TIME control flit yields a fabric-time offset and round-trip measurement for the
      port. -/
  | time (port : Nat) (locked : Bool) (tTx echoTx echoRx rx : Word)
  /-- PAUSE_WAIT_EXPIRY (R232). PAUSE_WAIT after sending PAUSE, a side hands its lanes to the retrain. -/
  | pauseWaitExpiry (port : Nat)
  /-- LANE_TRAINING_COMPLETE (R231). The lanes report trained, starting the INIT exchange or resuming
      an UP port after a change. `deskew` is the largest skew that a span port corrected, in symbol
      times. -/
  | laneTrainingComplete (port : Nat) (lanes : BitVec 4) (ends : LaneEnds) (us deskew : Nat)
  /-- CHANGE_LIMIT_EXPIRY (R228). A port not back in UP within CHANGE_LIMIT, or an INIT lasting that
      long, goes DOWN. -/
  | changeLimitExpiry (port : Nat)
  /-- CREDIT_TIMEOUT (R228). A head packet waiting CREDIT_TO for credit breaks the port. -/
  | creditTimeout (port vl : Nat)
  /-- GRACE_EXPIRY (R229). A port not UP again within GRACE has its held packets re-routed or
      discarded as REROUTE. -/
  | graceExpiry (port : Nat)
  /-- TRAINING_RETRY (R230). Every training retry interval the lanes of a DOWN, enabled, unheld port
      try to train. -/
  | trainingRetry (port : Nat)
  /-- FAIL_WINDOW_EXPIRY (R235). A lane's blame window ends and its blame count for the window
      restarts. -/
  | failWindowExpiry (port lane : Nat)
  /-- LNK_RETRAIN (R232). A LNK_CMD write with OP 1 requests a retrain of the port. -/
  | lnkRetrain (rid port : Nat)
  /-- LNK_WIDTH_CHANGE (R232). A LNK_CMD write with OP 2 requests a width change to LANES. -/
  | lnkWidthChange (rid port : Nat) (lanes : BitVec 4)
  /-- LNK_RELEASE_HOLD (R230). A LNK_CMD write with OP 3 releases a held port so that it trains. -/
  | lnkReleaseHold (rid port : Nat)
  /-- PORT_ENABLE (R253). A write of LNK_CTL.ENABLE = 1 lets the port train, sending the exit signal
      from electrical idle. -/
  | portEnable (rid port : Nat) (val : Word)
  /-- PORT_DISABLE (R253). A write of LNK_CTL.ENABLE = 0 announces electrical idle and takes the port
      DOWN with cause 1. -/
  | portDisable (rid port : Nat) (val : Word)
  /-- SYNC_INTERVAL_TICK (R238). Each SYNC_INTERVAL a TIME flit is sent and the largest offset
      measured is slewed, stepped or refused. -/
  | syncIntervalTick
  /-- LANE_LOST (R249). An active lane losing signal, lock or markers breaks its port with cause 5 and
      is blamed. -/
  | laneLost (port : Nat) (lanes : BitVec 4) (clockLane : Bool)
  /-- EI_NEXT_RECEIVE (R253). A marker with EI_NEXT makes the far end take its port DOWN with cause 12
      without blame. -/
  | eiNextReceive (port : Nat)
  /-- EXIT_SIGNAL_DETECT (R253). Detection of the exit signal sets WAKE_SEEN, raises Fathom's wake
      input and starts training if enabled. -/
  | exitSignalDetect (port : Nat) (lanes : BitVec 4)
  /-- CRD_SEQUENCE (R258). A span CRD sequence applies one credit total, or is discarded on a code or
      CRC error. Each row is the code groups of one symbol time on the active data lanes, ascending:
      the row of CRD, that of VL, the three of the total, and that of the CRC-8. -/
  | crdSequence (port : Nat) (crd vl : List (BitVec 10)) (total : List (List (BitVec 10))) (crc8 : List (BitVec 10))
  /-- SPAN_EI_ENTRY (R262). A span transmitter that has met the idle conditions stops its lanes in
      electrical idle. -/
  | spanEiEntry (span : Nat)
  /-- SPAN_EI_EXIT (R263). A span transmitter leaves electrical idle with clock, COM run and EIE
      before the next block. -/
  | spanEiExit (span : Nat)
  /-- SPAN_SPEED_WRITE (R260). A write of SPN_CTL.SPEED differing from SPEED_NOW requests a speed
      change. -/
  | spanSpeedWrite (rid span : Nat) (val : Word)
  /-- SPAN_REQ_READ (R302). A SPAN_REQ READ from a span peer reads a local cell and is answered with
      SPAN_RESP. -/
  | spanReqRead (span : Nat) (p : Packet)
  /-- SPAN_REQ_WRITE (R302). A SPAN_REQ WRITE performs a cell command for a span peer. -/
  | spanReqWrite (span : Nat) (p : Packet)
  /-- SPAN_REQ_ATOMIC (R302). A SPAN_REQ ATOMIC performs a cell command and returns the cell word. -/
  | spanReqAtomic (span : Nat) (p : Packet)
  /-- NOTICE (R300). A SPAN_REQ NOTICE orphans the named identity's cells, or all cells of the peer,
      and records its INC. -/
  | notice (span : Nat) (p : Packet)
  /-- SPAN_RESP (R302). A SPAN_RESP completes the waiting read, AtomicOp or NOTICE of a peer request. -/
  | spanResp (span : Nat) (p : Packet)
  /-- SPAN_REQ_TIMEOUT (R303). A peer request unanswered for 20 µs is dropped and counted, a read
      completing with 0. -/
  | spanReqTimeout (span tag : Nat)
  /-- NOTICE_RESEND (R304). An unanswered NOTICE is resent every 20 µs. -/
  | noticeResend (span : Nat)
  /-- CELL_CLAIM (R295). A CLAIM command on a lock cell grants it if free. -/
  | cellClaim (rid off size : Nat) (cmd : Word)
  /-- CELL_RELEASE (R295). A RELEASE command frees a held, unorphaned cell of the same owner, origin
      and token. -/
  | cellRelease (rid off size : Nat) (cmd : Word)
  /-- CELL_FORCE (R301). A FORCE command by the group's supervisor frees a held cell and writes
      SEM_FORCE. -/
  | cellForce (rid off size : Nat) (cmd : Word)
  /-- CELL_ATOMICOP (R296). A host AtomicOp on BAR4 performs a cell command and returns the cell word. -/
  | cellAtomicop (rid off : Nat) (form : AtomicForm)
  /-- CELL_READ (R298). A read of a cell is checked for rights and returns the cell word, locally or
      through a span request. -/
  | cellRead (rid off size : Nat)
  /-- FUNCTION_LEVEL_RESET (R280). A Function Level Reset starts a reset drain of the function. -/
  | functionLevelReset (fn : Nat)
  /-- D3HOT_TO_D0 (R279). A D3hot to D0 transition starts a reset drain of the function. -/
  | d3hotToD0 (fn : Nat)
  /-- VF_ENABLE_CLEAR (R279). Clearing VF Enable starts a reset drain of every virtual function of the
      port. -/
  | vfEnableClear (host : Nat)
  /-- PERST_ASSERT (R279). Assertion of PERSTh_N starts a reset drain of every function of the port. -/
  | perstAssert (host : Nat)
  /-- PERST_DEASSERT (R339). Deassertion of PERSTh_N sets the host port domain's ENABLE if it is off. -/
  | perstDeassert (host : Nat)
  /-- HOT_RESET (R279). A Hot Reset starts a reset drain of every function of the port. -/
  | hotReset (host : Nat)
  /-- HOST_LINK_DOWN (R279). The host link going down starts a reset drain of every function of the
      port. -/
  | hostLinkDown (host : Nat)
  /-- HOST_LINK_CHANGE (R291). A change of host link state, speed, width or PERST level sets CHANGE
      and writes HOST_LINK. -/
  | hostLinkChange (host : Nat) (up : Bool) (speed width : Nat) (flit : Bool) (l0p l1 : Bool)
  /-- RESET_DRAIN_END (R280). A reset drain ends when its waits are over, quarantines begin,
      FUNC_RESET is written and the function becomes ready or disabled. -/
  | resetDrainEnd (fn : Nat)
  /-- RESET_DRAIN_TIMEOUT (R280). A reset drain forced after 100 ms abandons its waits and sets
      FORCED. -/
  | resetDrainTimeout (fn : Nat)
  /-- BUS_MASTER_ENABLE_WRITE (R281). A write of Bus Master Enable makes the function READY or
      DISABLED, or is held during a drain. -/
  | busMasterEnableWrite (fn : Nat) (bme : Bool)
  /-- MSIX_UNMASK (R283). Unmasking a vector re-samples its cause and sends or clears the pending
      message. -/
  | msixUnmask (fn vec : Nat)
  /-- IDE_INTEGRITY_FAIL (R284). An IDE stream failing integrity or decryption enters Insecure, holds
      its requests and writes IDE_FAIL. -/
  | ideIntegrityFail (host stream : Nat)
  /-- DOE_REQUEST (R285). A data object written to the DOE mailbox is served or sets DOE Error. -/
  | doeRequest (host : Nat) (type : DoeType) (length : Nat)
  /-- DOE_ABORT (R285). A DOE Abort ends the mailbox exchange in progress. -/
  | doeAbort (host : Nat)
  /-- IRC_SOURCE_RISE (R288). A source becoming claimable at an open target makes the controller
      deliver an interrupt and start the mask window. -/
  | ircSourceRise (source : Nat)
  /-- IRC_WINDOW_END (R288). A target's mask window ends and the target is re-sampled. -/
  | ircWindowEnd (target : Nat)
  /-- IRC_CLAIM (R289). A read of IRC_CLAIM marks the highest-priority claimable source in service and
      returns it. -/
  | ircClaim (rid target : Nat)
  /-- IRC_EOI (R289). A write of IRC_EOI ends a source's service and re-samples the target. -/
  | ircEoi (rid target : Nat) (val : Word)
  /-- IRC_CONFIG_WRITE (R288). A write to IRC_SRC or IRC_TGT re-samples the targets. -/
  | ircConfigWrite (rid off : Nat) (val : Word)
  /-- PWR_GOOD_RISE (R314). A rise of PWR_GOOD samples straps, advances the boot count and runs the
      boot ROM. -/
  | pwrGoodRise (bootSrc : Bool) (spanPos : BitVec 2)
  /-- FLASH_READ_COMPLETE (R313). A flash region read ends and the image, directory or blob is
      checked, measured and applied or rejected. -/
  | flashReadComplete (region : FlashRegion) (data : FlashData) (offset : Nat)
  /-- FLASH_READ_TIMEOUT (R310). A flash read not complete within 10 ms fails its region with reason
      READ. -/
  | flashReadTimeout (region : FlashRegion) (offset : Nat)
  /-- BOOT_DONE (R314). When every enabled port is UP or has tried training once, the device writes
      BOOT_DONE and ALIVE starts. -/
  | bootDone
  /-- MCTP_CONTROL (R309). An MCTP control message over SMBus is answered, including Set Endpoint ID. -/
  | mctpControl (m : MctpMsg)
  /-- GET_VERSION (R326). The SPDM GET_VERSION request is answered. -/
  | getVersion (ep : Endpoint)
  /-- GET_CAPABILITIES (R326). The SPDM GET_CAPABILITIES request is answered. -/
  | getCapabilities (ep : Endpoint)
  /-- NEGOTIATE_ALGORITHMS (R326). The SPDM NEGOTIATE_ALGORITHMS request is answered. -/
  | negotiateAlgorithms (ep : Endpoint)
  /-- GET_DIGESTS (R326). The SPDM GET_DIGESTS request returns certificate chain digests. -/
  | getDigests (ep : Endpoint)
  /-- GET_CERTIFICATE (R326). The SPDM GET_CERTIFICATE request returns the slot 0 chain. -/
  | getCertificate (ep : Endpoint) (slot offset length : Nat)
  /-- CHALLENGE (R326). The SPDM CHALLENGE request is answered with a signed response. -/
  | challenge (ep : Endpoint) (nonce : BitVec 256)
  /-- GET_MEASUREMENTS (R327). The SPDM GET_MEASUREMENTS request returns a signed snapshot of the
      measurement registers and boot log. -/
  | getMeasurements (ep : Endpoint) (index : Nat) (nonce : BitVec 256)
  /-- KEY_EXCHANGE (R326). The SPDM KEY_EXCHANGE request starts a secured session. -/
  | keyExchange (ep : Endpoint) (session : Nat)
  /-- FINISH (R326). The SPDM FINISH request completes a session's establishment. -/
  | finish (ep : Endpoint) (session : Nat)
  /-- END_SESSION (R326). The SPDM END_SESSION request ends a session. -/
  | endSession (ep : Endpoint) (session : Nat)
  /-- HEARTBEAT (R326). The SPDM HEARTBEAT request keeps a session alive. -/
  | heartbeat (ep : Endpoint) (session : Nat)
  /-- KEY_UPDATE (R326). The SPDM KEY_UPDATE request updates a session's keys. -/
  | keyUpdate (ep : Endpoint) (session : Nat)
  /-- VENDOR_DEFINED_REQUEST (R284). An SPDM vendor-defined request over DOE carries IDE_KM to install
      or refresh IDE keys. -/
  | vendorDefinedRequest (ep : Endpoint) (session stream : Nat)
  /-- CHUNK_SEND (R326). The SPDM CHUNK_SEND request takes a chunk of a large message. -/
  | chunkSend (ep : Endpoint) (handle seq : Nat) (last : Bool)
  /-- CHUNK_GET (R326). The SPDM CHUNK_GET request returns a chunk of a large response. -/
  | chunkGet (ep : Endpoint) (handle seq : Nat)
  /-- SPDM_UNSUPPORTED_REQUEST (R326). An SPDM request outside Table 14.10 is answered with ERROR
      UnsupportedRequest. -/
  | spdmUnsupportedRequest (ep : Endpoint) (code : BitVec 8)
  /-- GET_BOOT_STAT (R328). The GET_BOOT_STAT vendor message returns boot, firmware, life-cycle and
      identity registers. -/
  | getBootStat
  /-- READ_EVR (R391). The READ_EVR vendor message returns a header and recorder slots below USED. -/
  | readEvr (first count : Nat)
  /-- READ_FATHOM (R353). The READ_FATHOM vendor message returns a page of Fathom status. -/
  | readFathom (page : Nat)
  /-- RESET (R328). The RESET vendor message in recovery mode is answered and resets the device as
      PWR_GOOD does. -/
  | reset (bootSrc : Bool) (spanPos : BitVec 2)
  /-- FW_STAGE (R332). The FW_STAGE command verifies an image and holds it for a core pair. -/
  | fwStage (c : AdminCmd) (image : FetchedImage)
  /-- FW_ACTIVATE (R332). The FW_ACTIVATE command checks its conditions and has the standby core load
      the staged component. -/
  | fwActivate (c : AdminCmd)
  /-- FW_STANDBY_LOADED (R332). The standby core has loaded the component; the pair hands over, MR7 is
      extended and FW_UPDATE is written. -/
  | fwStandbyLoaded (pair : Nat) (digestOk : Bool)
  /-- FW_STANDBY_RELOADED (R332). The demoted core has reloaded the new component and is the ready
      standby; UPD_DONE is set. -/
  | fwStandbyReloaded (pair : Nat) (ok : Bool)
  /-- LC_ADVANCE (R330). The LC_ADVANCE command verifies a token and burns the next life-cycle state,
      writing LC_CHANGE. -/
  | lcAdvance (c : AdminCmd) (token : FetchedToken)
  /-- SET_OWNER_KEY (R331). The SET_OWNER_KEY command burns the owner key hash and sets OWNER_EN. -/
  | setOwnerKey (c : AdminCmd) (key : FetchedKey)
  /-- DOMAIN_ENABLE (R340). A write of PWR_DOM_CTL.ENABLE = 1 powers a domain up, or is held during a
      drain, or refused when isolated. -/
  | domainEnable (rid dom : Nat) (val : Word)
  /-- DOMAIN_DISABLE (R339). A write of PWR_DOM_CTL.ENABLE = 0 starts a domain's drain, or is refused
      and captured in PWR_REJECT. -/
  | domainDisable (rid dom : Nat) (val : Word)
  /-- DOMAIN_WAKE (R342). A write of PWR_DOM_CTL.WAKE wakes a sleeping domain. -/
  | domainWake (rid dom : Nat) (val : Word)
  /-- THROTTLE_WRITE (R345). A write of the software THROTTLE level changes a domain's effective level
      and writes THROTTLE. -/
  | throttleWrite (rid dom : Nat) (val : Word)
  /-- DOMAIN_DRAIN_END (R339). A domain drain ends, power is removed, a held enable powers it up again
      and DOMAIN_STATE is written. -/
  | domainDrainEnd (dom : Nat)
  /-- DOMAIN_DRAIN_TIMEOUT (R340). A domain drain forced after 100 ms ends as Table 15.2 states and
      sets FORCED. -/
  | domainDrainTimeout (dom : Nat)
  /-- DOMAIN_POWER_UP_COMPLETE (R338). A powering-up or waking domain reaches ON and serves the
      requests that waited. -/
  | domainPowerUpComplete (dom : Nat)
  /-- ENG_IDLE_EXPIRY (R341). A domain with SLEEP_EN idle for ENG_IDLE starts its entry into SLEEP. -/
  | engIdleExpiry (dom : Nat)
  /-- SLEEP_ENTRY_COMPLETE (R341). A domain's sleep entry has written back its state and its power is
      removed. -/
  | sleepEntryComplete (dom : Nat)
  /-- PORT_IDLE_EXPIRY (R344). Fathom puts an idle, sleep-enabled fabric port to sleep by clearing
      ENABLE and setting SLEPT. -/
  | portIdleExpiry (port : Nat)
  /-- CHANNEL_SAMPLE (R349). A Fathom channel is sampled, filtered, and its rules are evaluated and
      their actions applied. -/
  | channelSample (channel : Nat) (x : BitVec 16)
  /-- RULE_WRITE (R352). A write to FTH_RULE_A makes an ACTIVE rule leave, with undo, before the new
      condition applies. -/
  | ruleWrite (rid rule : Nat) (val : Word)
  /-- VCORE_TARGET_STEP (R337). Every 100 µs Fathom moves the VDD_CORE target by at most one step
      toward its table value. -/
  | vcoreTargetStep
  /-- THERMAL_TRIP (R346). A 120 °C comparator trip asserts THERMTRIP_N. -/
  | thermalTrip (channel : Nat) (raw : BitVec 16)
  /-- CLOCK_CHECK (R347). Every 10 µs Fathom checks each clock input, declaring loss or return and
      writing CLOCK. -/
  | clockCheck (input : Nat) (present within1 within01 : Bool)
  /-- CLOCK_HOLDOVER_EXPIRY (R347). A REFCLK_FAB not back 10 ms after loss raises its fatal clock
      fault. -/
  | clockHoldoverExpiry (quadrant : Nat)
  /-- PPS_EDGE (R354). A PPS_IN rising edge disciplines or sets the calendar and may change its
      source. -/
  | ppsEdge
  /-- PPS_LOSS (R347). No PPS edge within 1.1 s of the previous one declares PPS_IN lost. -/
  | ppsLoss
  /-- CAL_SET_NOW (R354). A write of SET_NOW sets the calendar to FTH_CAL_SET and writes CAL_SET. -/
  | calSetNow (rid : Nat)
  /-- CAL_SET_AT_PPS (R354). A write of SET_AT_PPS arms the calendar to be set at the next PPS edge. -/
  | calSetAtPps (rid : Nat)
  /-- LIFETIME_SECOND_SAMPLE (R395). Once per second Fathom adds the second to the lifetime
      accumulators. -/
  | lifetimeSecondSample
  /-- LIFETIME_HOURLY_WRITE (R395). Once an hour the lifetime counts are written into MRAM. -/
  | lifetimeHourlyWrite
  /-- CE_OCCURRENCE (R360). A CE source occurs, is counted and at the threshold sets PEND, writes
      FAULT_CE and may start a repair. -/
  | ceOccurrence (source : Nat) (detail : FaultDetail)
  /-- UC_OCCURRENCE (R361). A UC source occurs, sets PEND, writes FAULT_UC and carries out its
      containing reaction. -/
  | ucOccurrence (source : Nat) (detail : FaultDetail)
  /-- FT_OCCURRENCE (R362). An FT source occurs and the device enters the fatal state, freezing the
      data path. -/
  | ftOccurrence (source : Nat)
  /-- CE_WINDOW_EXPIRY (R360). At the end of each CE_WINDOW the window counts return to 0. -/
  | ceWindowExpiry
  /-- FAULT_PEND_CLEAR (R361). A write of 1 to a PEND bit clears it if allowed, writing FAULT_CLEARED,
      or sets CLR_REFUSED. -/
  | faultPendClear (rid k : Nat) (val : Word)
  /-- FAULT_FORCE (R366). A write of FORCE = 1 raises one occurrence of the source, or is refused for
      an FT source. -/
  | faultForce (rid source : Nat) (val : Word)
  /-- BANK_REPAIR_COMPLETE (R367). The copy of a failed bank onto a spare ends, the spare replaces the
      bank and REPAIR is written. -/
  | bankRepairComplete (bank copyUs : Nat)
  /-- HBM_REBUILD_COMPLETE (R368). The rebuild of a failed HBM channel onto the spare ends and REPAIR
      is written. -/
  | hbmRebuildComplete (iface copyUs : Nat)
  /-- HEARTBEAT_TIMEOUT (R369). A core missing three heartbeats is failed and reset, and the standby
      takes over if it was active. -/
  | heartbeatTimeout (core : Nat)
  /-- ALIVE_TOGGLE (R364). Every 500 µs after STAGE 6, outside the fatal state, ALIVE toggles. -/
  | aliveToggle
  /-- SELFTEST_PERIOD (R376). Every PERIOD the controller attempts the next runnable slice of the
      rotation. -/
  | selftestPeriod
  /-- SLICE_END (R380). A slice ends, returning what it borrowed or repairing a failure and writing
      ST_RESULT. -/
  | sliceEnd (finding : SliceFinding)
  /-- SLICE_COMMAND (R376). A write of STC_CMD with KIND 1–5 runs a commanded slice in place of the
      next periodic attempt. -/
  | sliceCommand (rid : Nat) (val : Word)
  /-- FULL_TEST (R379). A write of STC_CMD with KIND 6 runs the destructive full test where permitted. -/
  | fullTest (rid : Nat) (val : Word)
  /-- FULL_TEST_END (R379). The full test ends and RESET_NEEDED reads 1. -/
  | fullTestEnd (finding : SliceFinding)
  /-- FUSE (R381). A write of STC_CMD with KIND 7 burns bank-to-spare replacements into the repair
      fuses. -/
  | fuse (rid : Nat) (val : Word)
  /-- RECORD_SLOT_WRITE (R388). The recorder front end writes the next queued record into the next
      slot. -/
  | recordSlotWrite
  /-- EVR_CLEAR (R392). The EVR_CLEAR command verifies its token, advances ERA and starts zeroing the
      slots. -/
  | evrClear (c : AdminCmd) (token : FetchedToken)
  /-- EVR_CLEAR_COMPLETE (R393). The slots are zero, USED and LOST reset, and RECORDER_CLEARED is
      written as the first record of the era. -/
  | evrClearComplete
  /-- EVR_RD_IDX_WRITE (R391). A write of EVR_RD_IDX copies a recorder slot into EVR_RD_DATA. -/
  | evrRdIdxWrite (rid : Nat) (val : Word)
  /-- SNAP (R403). A write of CNT_CTL.SNAP starts a counter snapshot, or is rejected while BUSY. -/
  | snap (rid : Nat) (val : Word)
  /-- SNAP_AT_ARRIVAL (R403). Fabric time reaching CNT_SNAP_AT.AT while armed starts a snapshot. -/
  | snapAtArrival
  /-- SNAP_COMPLETE (R403). The snapshot captures end, SNAP_TIME is set, SEQ advances and BUSY clears. -/
  | snapComplete
  /-- CLR_PORTS (R402). A write of CNT_CTL.CLR_PORTS clears every fixed port counter and its OVF. -/
  | clrPorts (rid : Nat) (val : Word)
  /-- BW_WINDOW_END (R404). At each bandwidth window end every port stores its grain totals and WSEQ
      advances. -/
  | bwWindowEnd
  /-- BW_WINDOW_WRITE (R404). A write of CNT_BW_CTL.WINDOW cuts the current window short at the next
      multiple and sets SHORT. -/
  | bwWindowWrite (rid : Nat) (val : Word)
  /-- COUNTER_VALUE_WRITE (R400). A write to CNT_VAL replaces a counter's value or clears OVF. -/
  | counterValueWrite (rid n : Nat) (val : Word)
  /-- AO_POWER_ON (R419). VDD_AO becoming valid ends the always-on power-on reset and starts Fathom. -/
  | aoPowerOn
  /-- PWR_GOOD_FALL (R421). A fall of PWR_GOOD stops every domain but 92, idles transmitters and
      starts the closing lifetime write. -/
  | pwrGoodFall
  /-- CLOSING_WRITE_COMPLETE (R395). The closing lifetime write ends and the store is marked closed. -/
  | closingWriteComplete
  /-- INSPECT_START (R429). A write to INS_CMD checks TYPE and INDEX and starts a snapshot of an
      internal object. -/
  | inspectStart (rid window : Nat) (val : Word)
  /-- INSPECT_COMPLETE (R429). The holding unit finishes copying the object and all INS_DATA words
      change together with STATUS DONE. -/
  | inspectComplete (window : Nat)
  /-- MCTX_QUARANTINE_END (R77). A destroyed matching context index leaves QUARANTINE after twice the
      stale limit and becomes free. -/
  | mctxQuarantineEnd (ctx : Nat)
  /-- REGISTER_READ (R4). A BAR0 register read clears the rc fields whose bits it returns in full, and
      is captured in TOP_ACCESS_ERR when its domain is off, switching, asleep or waking. An offset from
      2 ^ 36 on is that offset less 2 ^ 36 of the function's BAR2, which reads 0 (R24, R273). -/
  | registerRead (rid off size : Nat)
  /-- HBM_ACCESS_COMPLETE (R116). An HBM read, write or atomic issued by a slice, the translation unit
      or the atomic unit completes and its data or result is delivered to the waiting work. -/
  | hbmAccessComplete (tag : Nat)
  /-- VDD_AO_LOSS (R354). Loss of VDD_AO stops the always-on domain and clears TIME_VALID, so the next
      boot counts an unclean power-down if the closing write had not ended. -/
  | vddAoLoss
  /-- TRAINING_FAIL (R250). A lane training ends without lock and alignment within its bound: a warm
      training from DOWN makes the next attempt cold, and a training in a change breaks the port. -/
  | trainingFail (port : Nat)
  /-- BANK_COPY_COMPLETE (R367). A bank-to-spare or spare-to-bank copy ends: the spare takes the
      bank's place in the rotation, or the bank returns and the spare becomes free for the next stage. -/
  | bankCopyComplete (bank copyUs : Nat)
  /-- CORE_RELOAD_COMPLETE (R369). A management core failed and reset by its partner finishes
      reloading as standby, BOOT_FW shows STANDBY 2 and the core fault's cause ends. -/
  | coreReloadComplete (core : Nat)
deriving DecidableEq, Repr

end Sys2Proof
end

