-- ==== Sys2Proof/Decode.lean ====
section
/-! DEFINITION. The commands that words spell. spec/opcode_table.json gives no row any bits ("fields" is empty in every row): the block's
commands are register accesses, packets, pins and its own events, none of which has an encoding of its own. -/

namespace Sys2Proof

/-- The command that a word spells by the table's bits: none. -/
def decodeTableWord (_nbits _w : Nat) : Option Instr := none

end Sys2Proof
end

