-- ==== Sys2Proof/Machine/Bits.lean ====
section
/-! DEFINITION. Bit fields of a word, byte lists, and finite tables kept in ascending key order. -/

namespace Sys2Proof.Machine

open Sys2Proof

/-- A field of a word: its lowest bit and its width. -/
structure Fld where
  lo : Nat
  n  : Nat
deriving DecidableEq, Repr

/-- The value of `n` bits of a word from bit `lo`. -/
def bitsOf (w : Word) (lo n : Nat) : Nat := w.toNat / 2 ^ lo % 2 ^ n

/-- One bit of a word. -/
def bitAt (w : Word) (i : Nat) : Bool := bitsOf w i 1 == 1

/-- The value of a field. -/
def getF (w : Word) (f : Fld) : Nat := bitsOf w f.lo f.n

/-- The word with a field replaced by the low bits of `v`. -/
def putF (w : Word) (f : Fld) (v : Nat) : Word :=
  BitVec.ofNat 64 (w.toNat % 2 ^ f.lo + v % 2 ^ f.n * 2 ^ f.lo
    + w.toNat / 2 ^ (f.lo + f.n) * 2 ^ (f.lo + f.n))

/-- A word from a number, modulo 2^64. -/
def w64 (n : Nat) : Word := BitVec.ofNat 64 n

/-- 1 for true, 0 for false. -/
def b2n (b : Bool) : Nat := if b then 1 else 0

/-- A value brought to the nearest limit of a range (the registers' "taken as the nearest limit"). -/
def clamp (lo hi v : Nat) : Nat := if v < lo then lo else if hi < v then hi else v

/-- Addition that saturates at `top`. -/
def satAdd (top a b : Nat) : Nat := if a + b < top then a + b else top

/-- The least multiple of `m` not below `n`, divided by `m`. -/
def ceilDiv (n m : Nat) : Nat := (n + m - 1) / m

/-! ### Bytes -/

/-- Byte `i` of a word, little-endian (00_scope R5). -/
def byteOf (w : Word) (i : Nat) : Byte := BitVec.ofNat 8 (w.toNat / 256 ^ i)

/-- The first `n` bytes of a word, little-endian. -/
def bytesOf (w : Word) (n : Nat) : List Byte := (List.range n).map (byteOf w)

/-- The number that bytes spell, little-endian. -/
def natOfBytes : List Byte → Nat
  | [] => 0
  | b :: bs => b.toNat + 256 * natOfBytes bs

/-- The word that bytes spell, little-endian. -/
def wordOfBytes (bs : List Byte) : Word := w64 (natOfBytes bs)

/-- The bytes of words, in order. -/
def bytesOfWords (ws : List Word) : List Byte := ws.flatMap (bytesOf · 8)

/-- The words of a 64-byte entry. -/
def Words8.toList (e : Words8) : List Word := [e.w0, e.w1, e.w2, e.w3, e.w4, e.w5, e.w6, e.w7]

/-- Word `i` of a list of words; 0 beyond its end. -/
def wordAt (ws : List Word) (i : Nat) : Word := ws.getD i 0

/-- A 64-byte entry from the first eight words of a list. -/
def words8 (ws : List Word) : Words8 :=
  ⟨wordAt ws 0, wordAt ws 1, wordAt ws 2, wordAt ws 3, wordAt ws 4, wordAt ws 5, wordAt ws 6, wordAt ws 7⟩

/-- The part of a byte list from `off`, `n` bytes. -/
def slice (bs : List Byte) (off n : Nat) : List Byte := (bs.drop off).take n

/-- The eight-word entry that 64 bytes spell. -/
def entryOfBytes (bs : List Byte) : Words8 :=
  words8 ((List.range 8).map fun i => wordOfBytes (slice bs (8 * i) 8))

/-! ### Tables: association lists in strictly ascending key order -/

/-- A finite table: pairs in strictly ascending key order. -/
abbrev Tbl (α : Type) := List (Nat × α)

namespace Tbl

/-- The entry at a key. -/
def get? {α : Type} (t : Tbl α) (k : Nat) : Option α :=
  match t with
  | [] => none
  | (j, a) :: t => if j = k then some a else get? t k

/-- The table with the entry at a key set. -/
def set {α : Type} (t : Tbl α) (k : Nat) (a : α) : Tbl α :=
  match t with
  | [] => [(k, a)]
  | (j, b) :: t => if k < j then (k, a) :: (j, b) :: t else if k = j then (k, a) :: t else (j, b) :: set t k a

/-- The table without the entry at a key. -/
def erase {α : Type} (t : Tbl α) (k : Nat) : Tbl α :=
  match t with
  | [] => []
  | (j, b) :: t => if j = k then t else (j, b) :: erase t k

/-- The table with the entry at a key changed, if there is one. -/
def upd {α : Type} (t : Tbl α) (k : Nat) (f : α → α) : Tbl α :=
  match get? t k with
  | some a => set t k (f a)
  | none => t

/-- The entries without their keys. -/
def vals {α : Type} (t : Tbl α) : List α := t.map Prod.snd

/-- The keys. -/
def keys {α : Type} (t : Tbl α) : List Nat := t.map Prod.fst

/-- The numbers rise strictly. -/
def rising : List Nat → Bool
  | a :: b :: l => decide (a < b) && rising (b :: l)
  | _ => true

/-- The keys rise strictly. -/
def wf {α : Type} (t : Tbl α) : Bool := rising (keys t)

end Tbl

/-- The lowest number from `lo` that is not in an ascending list of keys (0 upward from `lo`). -/
def firstFree : Nat → List Nat → Nat
  | lo, [] => lo
  | lo, k :: ks => if k < lo then firstFree lo ks else if k = lo then firstFree (lo + 1) ks else lo

end Sys2Proof.Machine
end

