-- ==== Sys2Proof/Machine/FpOps.lean ====
section
/-! DEFINITION. The arithmetic of collective operations (06_collectives R133, R140 to R142): integers of 64 bits, and IEEE 754
values taken apart exactly and rounded once. -/

namespace Sys2Proof.Machine

open Sys2Proof

/-- A floating-point value: a finite one is (−1)^neg · m · 2^e. -/
inductive Fp where
  | nan
  | inf (neg : Bool)
  | fin (neg : Bool) (m : Nat) (e : Int)
deriving DecidableEq, Repr

/-- Bits of the significand, exponent of the least subnormal, and width of the exponent field, of FP64 and FP32. -/
def fpP (dbl : Bool) : Nat := if dbl then 53 else 24
def fpMin (dbl : Bool) : Int := if dbl then -1074 else -149
def fpW (dbl : Bool) : Nat := if dbl then 11 else 8

/-- The bits of infinity, without sign. -/
def fpInf (dbl : Bool) : Nat := (2 ^ fpW dbl - 1) * 2 ^ (fpP dbl - 1)

/-- The sign bit's weight. -/
def fpSign (dbl : Bool) : Nat := 2 ^ (fpP dbl - 1 + fpW dbl)

/-- The canonical quiet NaN (R133). -/
def fpNan (dbl : Bool) : Nat := if dbl then 0x7FF8000000000000 else 0x7FC00000

/-- The value that bits spell. -/
def fpDec (dbl : Bool) (b : Nat) : Fp :=
  let neg := b / fpSign dbl % 2 == 1
  let a := b % fpSign dbl
  if fpInf dbl < a then .nan
  else if a = fpInf dbl then .inf neg
  else
    let x := a / 2 ^ (fpP dbl - 1)
    let f := a % 2 ^ (fpP dbl - 1)
    if x = 0 then .fin neg f (fpMin dbl) else .fin neg (f + 2 ^ (fpP dbl - 1)) (fpMin dbl + (x - 1 : Nat))

/-- The bits of m · 2^e rounded once to nearest even, subnormals kept; a magnitude beyond the largest finite value gives
infinity. -/
def fpRound (dbl neg : Bool) (m : Nat) (e : Int) : Nat :=
  let s := if neg then fpSign dbl else 0
  if m = 0 then s
  else
    let top : Int := (Nat.log2 m : Int) + e - (fpP dbl - 1 : Nat)
    let t := if top < fpMin dbl then fpMin dbl else top
    let q := if t ≤ e then m * 2 ^ (e - t).toNat
      else
        let k := (t - e).toNat
        let q := m / 2 ^ k
        let r := m % 2 ^ k
        if 2 ^ (k - 1) < r || (r = 2 ^ (k - 1) && q % 2 = 1) then q + 1 else q
    let b := (t - fpMin dbl).toNat * 2 ^ (fpP dbl - 1) + q
    s + if fpInf dbl ≤ b then fpInf dbl else b

/-- The bits of a value. -/
def fpBits (dbl : Bool) : Fp → Nat
  | .nan => fpNan dbl
  | .inf neg => (if neg then fpSign dbl else 0) + fpInf dbl
  | .fin neg m e => fpRound dbl neg m e

/-- The exact integer m with a sign. -/
def signed (neg : Bool) (m : Nat) : Int := if neg then -(m : Int) else m

/-- IEEE 754 addition, rounded to nearest even (R133). -/
def fpAdd (dbl : Bool) (a b : Nat) : Nat :=
  match fpDec dbl a, fpDec dbl b with
  | .nan, _ => fpNan dbl
  | _, .nan => fpNan dbl
  | .inf x, .inf y => if x = y then fpBits dbl (.inf x) else fpNan dbl
  | .inf x, _ => fpBits dbl (.inf x)
  | _, .inf y => fpBits dbl (.inf y)
  | .fin n1 m1 e1, .fin n2 m2 e2 =>
    let e := if e1 < e2 then e1 else e2
    let t := signed n1 (m1 * 2 ^ (e1 - e).toNat) + signed n2 (m2 * 2 ^ (e2 - e).toNat)
    if t = 0 then (if n1 && n2 then fpSign dbl else 0) else fpRound dbl (decide (t < 0)) t.natAbs e

/-- The order of finite and infinite values with −0 below +0, as an integer. -/
def fpKey (dbl : Bool) (b : Nat) : Int :=
  let a : Int := (b % fpSign dbl : Nat)
  if b / fpSign dbl % 2 = 1 then -a - 1 else a

/-- MIN and MAX (R133). -/
def fpPick (dbl max : Bool) (a b : Nat) : Nat :=
  match fpDec dbl a, fpDec dbl b with
  | .nan, _ => fpNan dbl
  | _, .nan => fpNan dbl
  | _, _ => if (fpKey dbl a < fpKey dbl b) == max then b else a

/-- A 64-bit word as a signed integer. -/
def toS64 (n : Nat) : Int := (BitVec.ofNat 64 n).toInt

/-- A signed integer modulo 2^64. -/
def ofS64 (z : Int) : Nat := (BitVec.ofInt 64 z).toNat

/-- Two elements combined (R133): DTYPE 0 INT64, 1 UINT64, 2 FP32, 3 FP64; OPERATOR 0 SUM, 1 MIN, 2 MAX, 3 AND, 4 OR, 5 XOR. -/
def elemOp (dtype oper a b : Nat) : Nat :=
  if 2 ≤ dtype then
    let dbl := dtype == 3
    match oper with
    | 0 => fpAdd dbl a b
    | 1 => fpPick dbl false a b
    | _ => fpPick dbl true a b
  else
    let less := if dtype = 0 then decide (toS64 a < toS64 b) else decide (a < b)
    match oper with
    | 0 => (a + b) % 2 ^ 64
    | 1 => if less then a else b
    | 2 => if less then b else a
    | 3 => a &&& b
    | 4 => a ||| b
    | _ => a ^^^ b

/-- The size of an element in bytes. -/
def elemSize (dtype : Nat) : Nat := if dtype = 2 then 4 else 8

/-! ### Slice-sum (R140 to R142) -/

/-- The exponent code of a contribution (R140). -/
def expCode (dbl : Bool) (b : Nat) : Nat :=
  match fpDec dbl b with
  | .nan => 2 ^ 12
  | .inf false => 2 ^ 13
  | .inf true => 2 ^ 14
  | .fin _ m e => if m = 0 then 0 else ((Nat.log2 m : Int) + e + 1 + 1100).toNat

/-- Codes combined: the maximum of [11:0], the OR of [14:12]. -/
def expMix (a b : Nat) : Nat :=
  Nat.max (a % 2 ^ 12) (b % 2 ^ 12) + ((a / 2 ^ 12 % 8) ||| (b / 2 ^ 12 % 8)) * 2 ^ 12

/-- F of a group code (R141): e_max − 129. -/
def sliceF (code : Nat) : Int := ((code % 2 ^ 12 : Nat) : Int) - 1100 - 129

/-- The three slices of a contribution on the frame of a group code (R141). -/
def slicesOf (dbl : Bool) (code b : Nat) : Int × Int × Int :=
  match fpDec dbl b with
  | .fin neg m e =>
    if code / 2 ^ 12 % 8 != 0 || code % 2 ^ 12 = 0 then (0, 0, 0)
    else
      let k := e - sliceF code
      let x := if 0 ≤ k then m * 2 ^ k.toNat else m / 2 ^ (-k).toNat
      (signed neg (x / 2 ^ 86), signed neg (x / 2 ^ 43 % 2 ^ 43), signed neg (x % 2 ^ 43))
  | _ => (0, 0, 0)

/-- The result of the slices of a sum (R142). -/
def sliceResult (dbl : Bool) (code : Nat) (s0 s1 s2 : Int) : Nat :=
  let t := s0 * 2 ^ 86 + s1 * 2 ^ 43 + s2
  let nan := code / 2 ^ 12 % 2 == 1
  let pos := code / 2 ^ 13 % 2 == 1
  let neg := code / 2 ^ 14 % 2 == 1
  if nan || (pos && neg) then fpNan dbl
  else if pos then fpInf dbl
  else if neg then fpSign dbl + fpInf dbl
  else if code % 2 ^ 12 = 0 || t = 0 then 0
  else fpRound dbl (decide (t < 0)) t.natAbs (sliceF code)

/-! ### Chunks as lists of elements -/

/-- The elements of `z` bytes each that bytes spell. -/
def elems (z : Nat) (bs : List Byte) : List Nat :=
  (List.range (bs.length / z)).map fun i => natOfBytes (slice bs (z * i) z)

/-- The bytes of elements of `z` bytes each. -/
def unelems (z : Nat) (es : List Nat) : List Byte := es.flatMap fun n => (List.range z).map fun i => BitVec.ofNat 8 (n / 256 ^ i)

/-- Two chunks combined element by element. -/
def zipElems (z : Nat) (f : Nat → Nat → Nat) (a b : List Byte) : List Byte :=
  unelems z (List.zipWith f (elems z a) (elems z b))

/-- A NaN becomes the canonical quiet NaN (R133). -/
def fpCanon (dbl : Bool) (b : Nat) : Nat :=
  match fpDec dbl b with
  | .nan => fpNan dbl
  | _ => b

/-- The result of a FIXED reduction as the root delivers it: every NaN of a floating-point type is canonical (R133). -/
def canonChunk (dtype : Nat) (bs : List Byte) : List Byte :=
  if 2 ≤ dtype then unelems (elemSize dtype) ((elems (elemSize dtype) bs).map (fpCanon (dtype == 3))) else bs

/-- A local chunk as its exponent codes (R140). -/
def codesOf (dtype : Nat) (bs : List Byte) : List Byte :=
  unelems 2 ((elems (elemSize dtype) bs).map (expCode (dtype == 3)))

/-- A local chunk as slices on the frame of the group's codes (R141). -/
def slicesChunk (dtype : Nat) (codes bs : List Byte) : List Byte :=
  (List.zipWith (fun c b =>
    let t := slicesOf (dtype == 3) c b
    unelems 8 [ofS64 t.1, ofS64 t.2.1, ofS64 t.2.2]) (elems 2 codes) (elems (elemSize dtype) bs)).flatten

/-- The root's rounding of a chunk of slices (R142). -/
def roundChunk (dtype : Nat) (codes bs : List Byte) : List Byte :=
  unelems (elemSize dtype) ((List.range (codes.length / 2)).map fun i =>
    let w := fun k => toS64 (natOfBytes (slice bs (24 * i + 8 * k) 8))
    sliceResult (dtype == 3) (natOfBytes (slice codes (2 * i) 2)) (w 0) (w 1) (w 2))

end Sys2Proof.Machine
end

