-- ==== Sys2Proof/Config.lean ====
section
/-! DEFINITION. What the manual leaves open or what lies outside it: the free values, and the cryptographic
functions that the manual names by their standards. All are opaque: nothing in the package can evaluate them, so a
statement about a model holds whatever they are. -/

namespace Sys2Proof.Config

open Sys2Proof

/-- A value that the manual leaves open (log 4), one per use: `State.free` numbers the uses. -/
opaque freeValue : Nat → Word

/-- SHA-384 of a byte string (log 5). -/
opaque sha384 : List Byte → BitVec 384

/-- Whether an ECDSA P-384 signature (r, then s) over a digest verifies under a public key (log 5). -/
opaque ecdsaVerify : BitVec 768 → BitVec 384 → BitVec 768 → Bool

/-- HMAC-SHA-384 of a message under the unique device secret (14_start R325; log 5). -/
opaque hmacUds : List Byte → BitVec 384

/-- The public key that verifies Benius tokens (14_start R330; the manual names the signer only). -/
opaque beniusTokenKey : BitVec 768

/-- The digest of the boot ROM, held in ROM (14_start Table 14.8, component 0x01). -/
opaque romDigest : BitVec 384

/-- The digest of the fuse configuration: state, OWNER_EN, the two key hashes, MIN (14_start Table 14.8, component 0x07; the manual
does not say how they are laid out). -/
opaque fuseDigest : Nat → Bool → BitVec 384 → BitVec 384 → Nat → BitVec 384

/-- The owner's public key, of which the fuses hold the hash (14_start R330 gives a token no key). -/
opaque ownerTokenKey : BitVec 384 → BitVec 768

/-- The body of an MCTP control answer, by the message's code and the endpoint ID (14_start R309). -/
opaque mctpBody : Nat → BitVec 8 → List Byte

/-- The version of the boot ROM (14_start Table 14.9, BOOT_INFO). -/
opaque romVersion : BitVec 8

/-- The certificates an SPDM slot holds (14_start R325, Table 14.10), as bytes. -/
opaque certificate : BitVec 384 → List Byte

/-- The body of an SPDM answer beyond what the manual gives, by request code and the state it depends on
(14_start R326: the layouts are those of SPDM 1.3). -/
opaque spdmBody : Nat → List Word → List Byte

/-- The fused table of R337: the VDD_CORE step (0 to 10 above 0.70 V) for a temperature in the unit of Table 15.3. -/
opaque fusedVcore : Nat → Nat

/-- The receiver's estimate of a fabric lane's margin (11_lanes R254), by lane and by the 10 µs in which it was last updated
(log 52). -/
opaque laneMargin : Nat → Nat → BitVec 8

/-- The functions' quotas (02_queues R45, 07_translation R153 name them and give no figure; log 14): by 8 times the function's
requester index plus the kind of object, how many it may have; no entry, no limit. -/
opaque quotas : List (Nat × Nat)

/-- The set of the TLB that a leaf goes into, of 16,384, by address space, page and size (07_translation R166 gives 8 ways and no
index; log 25). -/
opaque tlbSet : Nat → Nat → Nat → BitVec 14

/-- The nominal VDD_HBM, in mV (the manual gives channel 95 its limits in per cent of it and no value; log 4). -/
opaque vddHbm : Nat

end Sys2Proof.Config
end

