-- ==== Sys2Proof/Machine/LineCode.lean ====
section
/-! DEFINITION. The line code of the span links (11_lanes R256 to R258): 8b/10b code groups and their running disparity, the
special symbols, and blocks as rows of code groups over the active data lanes. The code tables are those of the standard that
R256 names (IEEE 802.3 Clause 36), which the manual does not print (PRESUMED, log 51). -/

namespace Sys2Proof.Machine

open Sys2Proof

/-! ### Symbols (R256, Table 11.4) -/

/-- What a code group stands for: a data byte or a special symbol. -/
inductive Sym where
  | data (b : Byte)
  | com | sof | eof | idl | eie | crd
deriving DecidableEq, Repr

/-- The special symbols with the x and y of their code Kx.y (Table 11.4). -/
def specials : List (Sym × Nat × Nat) :=
  [(.com, 28, 5), (.sof, 27, 7), (.eof, 29, 7), (.idl, 28, 3), (.eie, 28, 7), (.crd, 23, 7)]

/-- The six bits abcdei of x at negative running disparity, a first. -/
def sixBits : List Nat :=
  [0b100111, 0b011101, 0b101101, 0b110001, 0b110101, 0b101001, 0b011001, 0b111000,
   0b111001, 0b100101, 0b010101, 0b110100, 0b001101, 0b101100, 0b011100, 0b010111,
   0b011011, 0b100011, 0b010011, 0b110010, 0b001011, 0b101010, 0b011010, 0b111010,
   0b110011, 0b100110, 0b010110, 0b110110, 0b001110, 0b101110, 0b011110, 0b101011]

/-- The four bits fghj of y at negative running disparity: of a data byte, and of a special symbol. -/
def fourBits : List Nat := [0b1011, 0b1001, 0b0101, 0b1100, 0b1101, 0b1010, 0b0110, 0b1110]
def fourBitsK : List Nat := [0b1011, 0b0110, 0b1010, 0b1100, 0b1101, 0b0101, 0b1001, 0b0111]

/-- The ones of a number of few bits. -/
def onesIn (n v : Nat) : Nat := (List.range n).foldl (fun a i => a + v / 2 ^ i % 2) 0

/-- The six bits of x at a running disparity (true: positive), and the disparity after them. -/
def code6 (k : Bool) (x : Nat) (rd : Bool) : Nat × Bool :=
  let v := if k && x == 28 then 0b001111 else sixBits.getD x 0
  let even := onesIn 6 v == 3
  (if rd && (!even || x == 7) then 63 - v else v, if even then rd else !rd)

/-- The alternative seventh code of a data byte is used where five equal bits would follow one another. -/
def alt7 (x : Nat) (rd : Bool) : Bool := if rd then x == 11 || x == 13 || x == 14 else x == 17 || x == 18 || x == 20

/-- The four bits of y after the six of x, at a running disparity, and the disparity after them. -/
def code4 (k : Bool) (x y : Nat) (rd : Bool) : Nat × Bool :=
  let v := if k then fourBitsK.getD y 0 else if y == 7 && alt7 x rd then 0b0111 else fourBits.getD y 0
  let even := onesIn 4 v == 2
  (if rd && (k || !even || y == 3) then 15 - v else v, if even then rd else !rd)

/-- A code group: bit 9 is a, sent first. -/
def codeXY (k : Bool) (x y : Nat) (rd : Bool) : BitVec 10 × Bool :=
  let a := code6 k x rd
  let b := code4 k x y a.2
  (BitVec.ofNat 10 (a.1 * 16 + b.1), b.2)

/-- A symbol at a running disparity: its code group and the disparity after it. -/
def encodeSym (rd : Bool) : Sym → BitVec 10 × Bool
  | .data b => codeXY false (b.toNat % 32) (b.toNat / 32) rd
  | s => match specials.find? fun k => k.1 == s with
    | some (_, x, y) => codeXY true x y rd
    | none => (0, rd)

/-- The symbol of a code group at a running disparity; none for another control symbol, an invalid group or a disparity error,
which are code errors (R256). -/
def symOf (rd : Bool) (g : BitVec 10) : Option Sym :=
  match specials.find? fun k => (codeXY true k.2.1 k.2.2 rd).1 == g with
  | some k => some k.1
  | none =>
    match (List.range 32).find? fun x => (code6 false x rd).1 == g.toNat / 16 with
    | none => none
    | some x =>
      match (List.range 8).find? fun y => (code4 false x y (code6 false x rd).2).1 == g.toNat % 16 with
      | none => none
      | some y => some (.data (BitVec.ofNat 8 (x + 32 * y)))

/-- The running disparity after a code group: after a valid one the code's own, after another by its ones. -/
def rdAfter (rd : Bool) (g : BitVec 10) : Bool :=
  match symOf rd g with
  | some s => (encodeSym rd s).2
  | none => if 5 < onesIn 10 g.toNat then true else if onesIn 10 g.toNat < 5 then false else rd

/-! ### Rows over the active data lanes (R257, R258) -/

/-- One symbol time: a code group on each active data lane, ascending. -/
abbrev Row10 := List (BitVec 10)

/-- The data lanes of a set of groups, ascending (R233). -/
def dataLanes (m : BitVec 4) : List Nat := (List.range 16).filter fun l => m.getLsbD (l / 4)

/-- A disparity of each data lane with one lane's set. -/
def setRd (rds : BitVec 16) (l : Nat) (b : Bool) : BitVec 16 :=
  if b then rds ||| BitVec.ofNat 16 (2 ^ l) else rds &&& ~~~ BitVec.ofNat 16 (2 ^ l)

/-- A row of symbols as code groups, and the running disparities after it. -/
def encodeRow : List Nat → BitVec 16 → List Sym → Row10 × BitVec 16
  | l :: ls, rds, y :: ys =>
    let e := encodeSym (rds.getLsbD l) y
    let r := encodeRow ls (setRd rds l e.2) ys
    (e.1 :: r.1, r.2)
  | _, rds, _ => ([], rds)

/-- Rows of symbols as code groups. -/
def encodeRows (ls : List Nat) : BitVec 16 → List (List Sym) → List Row10 × BitVec 16
  | rds, [] => ([], rds)
  | rds, r :: rs =>
    let a := encodeRow ls rds r
    let b := encodeRows ls a.2 rs
    (a.1 :: b.1, b.2)

/-- A row of code groups as symbols, none where a lane shows a code error or nothing, and the disparities after it. -/
def decodeRow : List Nat → BitVec 16 → Row10 → List (Option Sym) × BitVec 16
  | l :: ls, rds, g :: gs =>
    let rd := rds.getLsbD l
    let r := decodeRow ls (setRd rds l (rdAfter rd g)) gs
    (symOf rd g :: r.1, r.2)
  | ls, rds, _ => (ls.map fun _ => none, rds)

/-- Rows of code groups as symbols. -/
def decodeRows (ls : List Nat) : BitVec 16 → List Row10 → List (List (Option Sym)) × BitVec 16
  | rds, [] => ([], rds)
  | rds, r :: rs =>
    let a := decodeRow ls rds r
    let b := decodeRows ls a.2 rs
    (a.1 :: b.1, b.2)

/-- The same symbol on every lane, for some symbol times. -/
def symRows (n times : Nat) (y : Sym) : List (List Sym) := List.replicate times (List.replicate n y)

/-- The symbols of slot `t` of a block on `n` lanes (R257): byte j of the image in slot j / n of lane j mod n, IDL in the last slot
of a lane whose share is one byte short. -/
def slotRow (n : Nat) (image : List Byte) (t : Nat) : List Sym :=
  let part := slice image (t * n) n
  (part.map Sym.data) ++ List.replicate (n - part.length) .idl

/-- A block image as rows of symbols (R257): SOF, the data slots, EOF. -/
def blockRows (n : Nat) (image : List Byte) : List (List Sym) :=
  symRows n 1 .sof ++ (List.range (ceilDiv image.length n)).map (slotRow n image) ++ symRows n 1 .eof

/-- A symbol that is wrong in row `r` of the `rows` of a block (R259): a code error, a missing SOF or EOF, or a control symbol other
than IDL inside the block. -/
def symWrong (rows r : Nat) (y : Option Sym) : Bool :=
  match y with
  | none => true
  | some y =>
    if r = 0 then y != .sof
    else if r + 1 = rows then y != .eof
    else match y with
      | .data _ => false
      | .idl => false
      | _ => true

/-- The lanes at which the rows of a block show an error, one entry for each error (R259). Missing rows are errors of every lane. -/
def blockErrors (ls : List Nat) (rows : Nat) (got : List (List (Option Sym))) : List Nat :=
  (List.range rows).flatMap fun r =>
    let row := got.getD r []
    (List.range ls.length).flatMap fun j => if symWrong rows r (row.getD j none) then [ls.getD j 0] else []

/-- The bytes that the data slots of a block carry; 0 where a slot holds none. -/
def blockBytes (n : Nat) (got : List (List (Option Sym))) : List Byte :=
  ((got.drop 1).take (ceilDiv 522 n)).flatMap (fun row => (List.range n).map fun j =>
    match row.getD j none with
    | some (.data b) => b
    | _ => 0) |>.take 522

/-- The lanes that a row does not show COM on (R258). -/
def comMissing (ls : List Nat) (row : List (Option Sym)) : List Nat :=
  (List.range ls.length).flatMap fun j => if row.getD j none = some .com then [] else [ls.getD j 0]

/-- The groups of some data lanes. -/
def groupsOf (ls : List Nat) : BitVec 4 := ls.foldl (fun m l => m ||| BitVec.ofNat 4 (2 ^ (l / 4))) 0

end Sys2Proof.Machine
end

