-- ==== Sys2Proof/Machine/RegTable.lean ====
section
/-! DEFINITION. The BAR0 register map (21_registers Table 21.1) and every register's field table: the
offset of each register (`R.<NAME>`), the place of each field (`F.<REGISTER>_<FIELD>`), and the rows that the
generic register access (R3, R4, R11, R12) is driven by. Names, bits, access types and reset values are
those of the field tables of the chapters. -/

namespace Sys2Proof.Machine

open Sys2Proof

/-- Access types (Table 0.4). -/
inductive Access where
  | rw | ro | wo | w1c | w1s | rc
deriving DecidableEq, Repr

/-- One field of a register: its bits, its access type and its reset value. -/
structure RegField where
  hi    : Nat
  lo    : Nat
  acc   : Access
  reset : Nat
deriving DecidableEq, Repr

/-- The power domain a register lies in (21_registers R426 and the chapters): a fixed one, one per index,
the domain of the port, that of the lane's port, or, for a register that no chapter places, the `n` domains of its block from `lo`
on (R426, Table 1.1; log 12). -/
inductive DomRule where
  | fixed (d : Nat)
  | plus (d : Nat)
  | port
  | lane
  | block (lo n : Nat)
deriving DecidableEq, Repr

/-- One register or register array: base offset, element counts and strides, domain, fields. -/
structure RegRow where
  base   : Nat
  n1     : Nat
  s1     : Nat
  n2     : Nat
  s2     : Nat
  dom    : DomRule
  fields : List RegField
deriving DecidableEq, Repr

/-- TOP_ID: device identification (R427). -/
def R.TOP_ID : Nat := 0x00000000
/-- TOP_DOM_ON[i]: domains on (R427). -/
def R.TOP_DOM_ON (i : Nat) : Nat := 0x00000008 + 8 * i
/-- TOP_ACCESS_ERR: register access error (R12). -/
def R.TOP_ACCESS_ERR : Nat := 0x00000040
/-- TOP_HBM_STAT[i]: HBM interface status (R427). -/
def R.TOP_HBM_STAT (i : Nat) : Nat := 0x00000100 + 8 * i
/-- HST_PORT_STAT[i]: host port status (R292). -/
def R.HST_PORT_STAT (i : Nat) : Nat := 0x00100000 + 8 * i
/-- HST_IDE_STAT[i]: IDE status (R292). -/
def R.HST_IDE_STAT (i : Nat) : Nat := 0x00100010 + 8 * i
/-- HST_VF_FLR[i][k]: finished virtual function resets (R292). -/
def R.HST_VF_FLR (i k : Nat) : Nat := 0x00100100 + 128 * i + 8 * k
/-- TEN_CQ_CTL: completion queue control (R44). -/
def R.TEN_CQ_CTL : Nat := 0x00300100
/-- TEN_XPORT_TMR: transport timers (R69). -/
def R.TEN_XPORT_TMR : Nat := 0x00300120
/-- TEN_XPORT_CTL: transport control (R69). -/
def R.TEN_XPORT_CTL : Nat := 0x00300128
/-- TEN_ADMIN_SQ[i]: admin send queue of function f (R44). -/
def R.TEN_ADMIN_SQ (i : Nat) : Nat := 0x00310000 + 16 * i
/-- TEN_ADMIN_CQ[i]: admin completion queue of function f (R44). -/
def R.TEN_ADMIN_CQ (i : Nat) : Nat := 0x00310008 + 16 * i
/-- MAT_CTL: matching control (R105). -/
def R.MAT_CTL : Nat := 0x00400000
/-- MAT_SLICE_STAT[i]: matching slice status (R105). -/
def R.MAT_SLICE_STAT (i : Nat) : Nat := 0x00400100 + 8 * i
/-- RMA_CTL: remote memory access control (R123). -/
def R.RMA_CTL : Nat := 0x00500000
/-- RMA_REFUSE[i]: refusal counters (R123). -/
def R.RMA_REFUSE (i : Nat) : Nat := 0x00500100 + 8 * i
/-- RMA_WIN_STAT: window usage (R123). -/
def R.RMA_WIN_STAT : Nat := 0x00500200
/-- COL_CTL: collective control (R151). -/
def R.COL_CTL : Nat := 0x00600000
/-- COL_STAT[i]: cluster status (R151). -/
def R.COL_STAT (i : Nat) : Nat := 0x00600100 + 8 * i
/-- COL_DISCARD[i]: discarded collective packets (R151). -/
def R.COL_DISCARD (i : Nat) : Nat := 0x00600200 + 8 * i
/-- XLT_CTL: translation control (R173). -/
def R.XLT_CTL : Nat := 0x00700000
/-- XLT_STAT: translation status (R173). -/
def R.XLT_STAT : Nat := 0x00700008
/-- XLT_RAT_BASE[i]: region entry base (R173). -/
def R.XLT_RAT_BASE (i : Nat) : Nat := 0x00700100 + 16 * i
/-- XLT_RAT_LIMIT[i]: region entry limit (R173). -/
def R.XLT_RAT_LIMIT (i : Nat) : Nat := 0x00700108 + 16 * i
/-- RTE_NODE: own node ID (R195). -/
def R.RTE_NODE : Nat := 0x00800000
/-- RTE_CTL: routing control (R195). -/
def R.RTE_CTL : Nat := 0x00800008
/-- RTE_AR_CTL: adaptive routing control (R195). -/
def R.RTE_AR_CTL : Nat := 0x00800010
/-- RTE_HASH: path hash seed (R195). -/
def R.RTE_HASH : Nat := 0x00800018
/-- RTE_EPOCH: route table epoch (R195). -/
def R.RTE_EPOCH : Nat := 0x00800020
/-- RTE_DISCARD_LAST: first discard captured (R195). -/
def R.RTE_DISCARD_LAST : Nat := 0x00800440
/-- RTE_PORT_ROLE[i]: port role (R195). -/
def R.RTE_PORT_ROLE (i : Nat) : Nat := 0x00800100 + 8 * i
/-- RTE_DISCARD[i]: discard counters (R195). -/
def R.RTE_DISCARD (i : Nat) : Nat := 0x00800400 + 8 * i
/-- RTE_TBL_ACT[i][k]: active route entry (R195). -/
def R.RTE_TBL_ACT (i k : Nat) : Nat := 0x00810000 + 16 * i + 8 * k
/-- RTE_TBL_SHD[i][k]: see the table beside RTE. -/
def R.RTE_TBL_SHD (i k : Nat) : Nat := 0x00830000 + 16 * i + 8 * k
/-- TCS_COMMIT: commit and status (R212). -/
def R.TCS_COMMIT : Nat := 0x00900000
/-- TCS_POOL: common pool (R212). -/
def R.TCS_POOL : Nat := 0x00900008
/-- TCS_SHARE[i]: class share of the common pool (R212). -/
def R.TCS_SHARE (i : Nat) : Nat := 0x00900040 + 8 * i
/-- TCS_IPOL[i]: injection policer of class c (R212). -/
def R.TCS_IPOL (i : Nat) : Nat := 0x00900080 + 8 * i
/-- TCS_PORT[i]: port scheduling (R212). -/
def R.TCS_PORT (i : Nat) : Nat := 0x00900400 + 8 * i
/-- TCS_RES_A[i]: lane reservations of TC0–TC3 (R212). -/
def R.TCS_RES_A (i : Nat) : Nat := 0x00900800 + 16 * i
/-- TCS_RES_B[i]: lane reservations of TC4–TC7 (R212). -/
def R.TCS_RES_B (i : Nat) : Nat := 0x00900808 + 16 * i
/-- TCS_OPOL[i]: output policer of port p and class c (R212). -/
def R.TCS_OPOL (i : Nat) : Nat := 0x00901000 + 8 * i
/-- TCS_DEMOTE[i]: see the table beside TCS. -/
def R.TCS_DEMOTE (i : Nat) : Nat := 0x00903000 + 8 * i
/-- LNK_CTL[i]: link control (R242). -/
def R.LNK_CTL (i : Nat) : Nat := 0x00A00000 + 8 * i
/-- LNK_CMD[i]: link command (R242). -/
def R.LNK_CMD (i : Nat) : Nat := 0x00A00400 + 8 * i
/-- LNK_STATE[i]: link state (R242). -/
def R.LNK_STATE (i : Nat) : Nat := 0x00A00800 + 8 * i
/-- LNK_PEER_ID[i]: peer identity (R242). -/
def R.LNK_PEER_ID (i : Nat) : Nat := 0x00A01000 + 8 * i
/-- LNK_BLAME[i]: lane blame (R242). -/
def R.LNK_BLAME (i : Nat) : Nat := 0x00A01400 + 8 * i
/-- LNK_TIME_PORT[i]: fabric time of port p (R240). -/
def R.LNK_TIME_PORT (i : Nat) : Nat := 0x00A01800 + 8 * i
/-- LNK_TMR_A: link timers (R242). -/
def R.LNK_TMR_A : Nat := 0x00A00C00
/-- LNK_TMR_B: pause and lane failure (R242). -/
def R.LNK_TMR_B : Nat := 0x00A00C08
/-- LNK_TIME_CTL: fabric time control (R240). -/
def R.LNK_TIME_CTL : Nat := 0x00A00C10
/-- LNK_TIME_STAT: fabric time status (R240). -/
def R.LNK_TIME_STAT : Nat := 0x00A00C18
/-- LNK_FT: fabric time (R240). -/
def R.LNK_FT : Nat := 0x00A00C20
/-- LNK_CNT[i][k]: link counters (R242). -/
def R.LNK_CNT (i k : Nat) : Nat := 0x00A10000 + 64 * i + 8 * k
/-- LAN_CTL[i]: lane control (R268). -/
def R.LAN_CTL (i : Nat) : Nat := 0x00B00000 + 8 * i
/-- LAN_STAT[i]: lane status (R268). -/
def R.LAN_STAT (i : Nat) : Nat := 0x00B00800 + 8 * i
/-- LAN_FEC[i]: lane FEC counts (R268). -/
def R.LAN_FEC (i : Nat) : Nat := 0x00B01000 + 8 * i
/-- LAN_FEC_CTL: FEC blame threshold (R268). -/
def R.LAN_FEC_CTL : Nat := 0x00B01800
/-- SPN_GROUP: span group (R269). -/
def R.SPN_GROUP : Nat := 0x00C00000
/-- SPN_CTL[i]: span port control (R269). -/
def R.SPN_CTL (i : Nat) : Nat := 0x00C00100 + 8 * i
/-- SPN_STAT[i]: span port status (R269). -/
def R.SPN_STAT (i : Nat) : Nat := 0x00C00200 + 8 * i
/-- SPN_LANE_ERR[i][k]: span lane errors (R269). -/
def R.SPN_LANE_ERR (i k : Nat) : Nat := 0x00C01000 + 128 * i + 8 * k
/-- IRC_SRC[i]: source control (R292). -/
def R.IRC_SRC (i : Nat) : Nat := 0x00D00000 + 8 * i
/-- IRC_LEVEL[i]: source levels (R292). -/
def R.IRC_LEVEL (i : Nat) : Nat := 0x00D00800 + 8 * i
/-- IRC_TGT[i]: target control (R292). -/
def R.IRC_TGT (i : Nat) : Nat := 0x00D00900 + 8 * i
/-- IRC_CLAIM[i]: claim (R292). -/
def R.IRC_CLAIM (i : Nat) : Nat := 0x00D00A00 + 8 * i
/-- IRC_EOI[i]: end of interrupt (R292). -/
def R.IRC_EOI (i : Nat) : Nat := 0x00D00B00 + 8 * i
/-- SEM_GRP[i]: group rights (R305). -/
def R.SEM_GRP (i : Nat) : Nat := 0x00E00000 + 8 * i
/-- SEM_STAT: semaphore status (R305). -/
def R.SEM_STAT : Nat := 0x00E00400
/-- SEM_DENY: first refusal captured (R305). -/
def R.SEM_DENY : Nat := 0x00E00408
/-- SEM_CNT[i]: semaphore counters (R305). -/
def R.SEM_CNT (i : Nat) : Nat := 0x00E00500 + 8 * i
/-- BOOT_STAT: boot status (R334). -/
def R.BOOT_STAT : Nat := 0x00F00000
/-- BOOT_FW[i]: firmware pair (R334). -/
def R.BOOT_FW (i : Nat) : Nat := 0x00F00010 + 8 * i
/-- KMU_DEV_ID: device identity (R334). -/
def R.KMU_DEV_ID : Nat := 0x01000000
/-- KMU_LC: life cycle (R334). -/
def R.KMU_LC : Nat := 0x01000008
/-- KMU_SVN: rollback floor (R334). -/
def R.KMU_SVN : Nat := 0x01000010
/-- KMU_MR[i][k]: measurement register (R334). -/
def R.KMU_MR (i k : Nat) : Nat := 0x01000100 + 64 * i + 8 * k
/-- PWR_DOM_CTL[i]: domain control (R357). -/
def R.PWR_DOM_CTL (i : Nat) : Nat := 0x01100000 + 8 * i
/-- PWR_DOM_STAT[i]: domain status (R357). -/
def R.PWR_DOM_STAT (i : Nat) : Nat := 0x01100400 + 8 * i
/-- PWR_REJECT: refused domain write (R357). -/
def R.PWR_REJECT : Nat := 0x01100800
/-- PWR_SLEEP: idle times (R357). -/
def R.PWR_SLEEP : Nat := 0x01100808
/-- PWR_PORT_SLEEP: see the table beside PWR. -/
def R.PWR_PORT_SLEEP : Nat := 0x01100810
/-- PWR_PORT_NOSLEEP: see the table beside PWR. -/
def R.PWR_PORT_NOSLEEP : Nat := 0x01100818
/-- PWR_PORT_SLEPT: see the table beside PWR. -/
def R.PWR_PORT_SLEPT : Nat := 0x01100820
/-- PWR_CLK_STAT: clock status (R357). -/
def R.PWR_CLK_STAT : Nat := 0x01100900
/-- FTH_CHAN[i]: channel (R357). -/
def R.FTH_CHAN (i : Nat) : Nat := 0x01200000 + 8 * i
/-- FTH_CAL: calendar (R357). -/
def R.FTH_CAL : Nat := 0x01200800
/-- FTH_CAL_SET: see the table beside FTH. -/
def R.FTH_CAL_SET : Nat := 0x01200808
/-- FTH_TIME: see the table beside FTH. -/
def R.FTH_TIME : Nat := 0x01200810
/-- FTH_RULE_A[i]: rule condition (R357). -/
def R.FTH_RULE_A (i : Nat) : Nat := 0x01201000 + 16 * i
/-- FTH_RULE_B[i]: rule argument (R357). -/
def R.FTH_RULE_B (i : Nat) : Nat := 0x01201008 + 16 * i
/-- FLT_CTL: fault control (R373). -/
def R.FLT_CTL : Nat := 0x01300000
/-- FLT_STAT: fault status (R373). -/
def R.FLT_STAT : Nat := 0x01300008
/-- FLT_PEND[i]: pending sources (R373). -/
def R.FLT_PEND (i : Nat) : Nat := 0x01300100 + 8 * i
/-- FLT_ACTIVE[i]: causes standing (R373). -/
def R.FLT_ACTIVE (i : Nat) : Nat := 0x01300200 + 8 * i
/-- FLT_SRC[i]: source control (R373). -/
def R.FLT_SRC (i : Nat) : Nat := 0x01301000 + 8 * i
/-- STC_CTL: self-test control (R383). -/
def R.STC_CTL : Nat := 0x01400000
/-- STC_CMD: commanded slice (R383). -/
def R.STC_CMD : Nat := 0x01400008
/-- STC_STAT: self-test status (R383). -/
def R.STC_STAT : Nat := 0x01400010
/-- STC_RESULT: first failure captured (R383). -/
def R.STC_RESULT : Nat := 0x01400018
/-- EVR_STAT: recorder status (R398). -/
def R.EVR_STAT : Nat := 0x01500000
/-- EVR_LOST: lost records (R398). -/
def R.EVR_LOST : Nat := 0x01500008
/-- EVR_CTL: recorder control (R398). -/
def R.EVR_CTL : Nat := 0x01500010
/-- EVR_RD_IDX: slot to read (R398). -/
def R.EVR_RD_IDX : Nat := 0x01500018
/-- EVR_RD_DATA[i]: slot copy (R398). -/
def R.EVR_RD_DATA (i : Nat) : Nat := 0x01500100 + 8 * i
/-- LIF_STAT: lifetime status (R398). -/
def R.LIF_STAT : Nat := 0x01600000
/-- LIF_DATA[i]: lifetime word (R398). -/
def R.LIF_DATA (i : Nat) : Nat := 0x01601000 + 8 * i
/-- CNT_CTL: counter control (R405). -/
def R.CNT_CTL : Nat := 0x01700000
/-- CNT_SNAP_TIME: snapshot time (R405). -/
def R.CNT_SNAP_TIME : Nat := 0x01700008
/-- CNT_SNAP_AT: armed snapshot (R405). -/
def R.CNT_SNAP_AT : Nat := 0x01700010
/-- CNT_BW_CTL: bandwidth windows (R405). -/
def R.CNT_BW_CTL : Nat := 0x01700018
/-- CNT_SEL[i]: counter selection (R405). -/
def R.CNT_SEL (i : Nat) : Nat := 0x01701000 + 8 * i
/-- CNT_VAL[i]: counter value (R405). -/
def R.CNT_VAL (i : Nat) : Nat := 0x01702000 + 8 * i
/-- CNT_SHD[i]: counter shadow (R405). -/
def R.CNT_SHD (i : Nat) : Nat := 0x01703000 + 8 * i
/-- CNT_BW[i]: see the table beside CNT. -/
def R.CNT_BW (i : Nat) : Nat := 0x01704000 + 8 * i
/-- CNT_PORT[i][k]: fixed counter (R405). -/
def R.CNT_PORT (i k : Nat) : Nat := 0x01710000 + 64 * i + 8 * k
/-- CNT_PORT_SHD[i][k]: fixed counter shadow (R405). -/
def R.CNT_PORT_SHD (i k : Nat) : Nat := 0x01712000 + 64 * i + 8 * k
/-- INS_CMD[i]: inspection command and status (R428). -/
def R.INS_CMD (i : Nat) : Nat := 0x01800000 + 4096 * i
/-- INS_DATA[i][k]: snapshot word k (R428). -/
def R.INS_DATA (i k : Nat) : Nat := 0x01800100 + 4096 * i + 8 * k

def F.TOP_ID_PRODUCT : Fld := ⟨48, 16⟩
def F.TOP_ID_STEPPING : Fld := ⟨40, 8⟩
def F.TOP_ID_MAP : Fld := ⟨32, 8⟩
def F.TOP_DOM_ON_ON : Fld := ⟨0, 64⟩
def F.TOP_ACCESS_ERR_VALID : Fld := ⟨63, 1⟩
def F.TOP_ACCESS_ERR_LOST : Fld := ⟨62, 1⟩
def F.TOP_ACCESS_ERR_CAUSE : Fld := ⟨48, 8⟩
def F.TOP_ACCESS_ERR_REQUESTER : Fld := ⟨32, 16⟩
def F.TOP_ACCESS_ERR_DOMAIN : Fld := ⟨24, 8⟩
def F.TOP_ACCESS_ERR_WRITE : Fld := ⟨23, 1⟩
def F.TOP_ACCESS_ERR_OFFSET : Fld := ⟨0, 23⟩
def F.TOP_HBM_STAT_TRAINED : Fld := ⟨63, 1⟩
def F.TOP_HBM_STAT_SELF_REFRESH : Fld := ⟨62, 1⟩
def F.TOP_HBM_STAT_SPARE_FOR : Fld := ⟨52, 4⟩
def F.TOP_HBM_STAT_SPARE_USED : Fld := ⟨51, 1⟩
def F.TOP_HBM_STAT_REBUILDING : Fld := ⟨50, 1⟩
def F.TOP_HBM_STAT_FAILED : Fld := ⟨0, 16⟩
def F.HST_PORT_STAT_CHANGE : Fld := ⟨63, 1⟩
def F.HST_PORT_STAT_L1 : Fld := ⟨13, 1⟩
def F.HST_PORT_STAT_L0P : Fld := ⟨12, 1⟩
def F.HST_PORT_STAT_FLIT : Fld := ⟨11, 1⟩
def F.HST_PORT_STAT_PERST : Fld := ⟨10, 1⟩
def F.HST_PORT_STAT_LINK_UP : Fld := ⟨9, 1⟩
def F.HST_PORT_STAT_WIDTH : Fld := ⟨4, 5⟩
def F.HST_PORT_STAT_SPEED : Fld := ⟨0, 4⟩
def F.HST_IDE_STAT_FAIL_STREAM : Fld := ⟨12, 4⟩
def F.HST_IDE_STAT_FAIL : Fld := ⟨9, 1⟩
def F.HST_IDE_STAT_SEL_SECURE : Fld := ⟨1, 8⟩
def F.HST_IDE_STAT_LINK_SECURE : Fld := ⟨0, 1⟩
def F.HST_VF_FLR_DONE : Fld := ⟨0, 64⟩
def F.TEN_CQ_CTL_STALL_DEFAULT : Fld := ⟨0, 16⟩
def F.TEN_XPORT_TMR_ACK_DELAY : Fld := ⟨48, 8⟩
def F.TEN_XPORT_TMR_ACK_COUNT : Fld := ⟨40, 8⟩
def F.TEN_XPORT_TMR_RETRY_LIMIT : Fld := ⟨32, 4⟩
def F.TEN_XPORT_TMR_RTO_MAX : Fld := ⟨16, 16⟩
def F.TEN_XPORT_TMR_RTO_INIT : Fld := ⟨0, 16⟩
def F.TEN_XPORT_CTL_BUSY_BACKOFF : Fld := ⟨24, 4⟩
def F.TEN_XPORT_CTL_FLOW_LOG : Fld := ⟨16, 5⟩
def F.TEN_XPORT_CTL_BUSY_LIMIT : Fld := ⟨0, 16⟩
def F.TEN_ADMIN_SQ_BASE : Fld := ⟨12, 52⟩
def F.TEN_ADMIN_SQ_LOG_SIZE : Fld := ⟨8, 4⟩
def F.TEN_ADMIN_SQ_ENABLE : Fld := ⟨0, 1⟩
def F.TEN_ADMIN_CQ_BASE : Fld := ⟨12, 52⟩
def F.TEN_ADMIN_CQ_LOG_SIZE : Fld := ⟨8, 4⟩
def F.TEN_ADMIN_CQ_ENABLE : Fld := ⟨0, 1⟩
def F.MAT_CTL_BUSY_BACKOFF : Fld := ⟨48, 4⟩
def F.MAT_CTL_GATE_HOLD : Fld := ⟨32, 16⟩
def F.MAT_CTL_RQ_HOLD : Fld := ⟨24, 8⟩
def F.MAT_CTL_EAGER_MAX : Fld := ⟨0, 17⟩
def F.MAT_SLICE_STAT_HELD : Fld := ⟨41, 16⟩
def F.MAT_SLICE_STAT_SPILLED : Fld := ⟨17, 24⟩
def F.MAT_SLICE_STAT_ON_DIE : Fld := ⟨0, 17⟩
def F.RMA_CTL_FAULT_EVENTS : Fld := ⟨3, 1⟩
def F.RMA_CTL_RO_SPRAY : Fld := ⟨2, 1⟩
def F.RMA_CTL_ATOM_H1 : Fld := ⟨1, 1⟩
def F.RMA_CTL_ATOM_H0 : Fld := ⟨0, 1⟩
def F.RMA_REFUSE_COUNT : Fld := ⟨0, 48⟩
def F.RMA_WIN_STAT_QUARANTINED : Fld := ⟨25, 25⟩
def F.RMA_WIN_STAT_OPEN : Fld := ⟨0, 25⟩
def F.COL_CTL_OP_TIMEOUT : Fld := ⟨48, 16⟩
def F.COL_CTL_EDGE_TIMEOUT : Fld := ⟨32, 16⟩
def F.COL_CTL_JOIN_INTERVAL : Fld := ⟨16, 8⟩
def F.COL_CTL_CWIN : Fld := ⟨0, 8⟩
def F.COL_STAT_STAGING : Fld := ⟨32, 32⟩
def F.COL_STAT_ACTIVE : Fld := ⟨16, 16⟩
def F.COL_STAT_GROUPS : Fld := ⟨0, 16⟩
def F.COL_DISCARD_COUNT : Fld := ⟨0, 48⟩
def F.XLT_CTL_MARK_TIMEOUT : Fld := ⟨16, 16⟩
def F.XLT_CTL_PREFETCH : Fld := ⟨0, 4⟩
def F.XLT_STAT_BAD_ENTRY : Fld := ⟨48, 16⟩
def F.XLT_STAT_SPEC_DROP : Fld := ⟨32, 16⟩
def F.XLT_STAT_TRAPS : Fld := ⟨16, 14⟩
def F.XLT_STAT_WALKS : Fld := ⟨0, 7⟩
def F.XLT_RAT_BASE_ENABLE : Fld := ⟨63, 1⟩
def F.XLT_RAT_BASE_TYPE : Fld := ⟨61, 2⟩
def F.XLT_RAT_BASE_H1 : Fld := ⟨60, 1⟩
def F.XLT_RAT_BASE_H0 : Fld := ⟨59, 1⟩
def F.XLT_RAT_BASE_BASE : Fld := ⟨12, 40⟩
def F.XLT_RAT_LIMIT_LIMIT : Fld := ⟨12, 40⟩
def F.RTE_NODE_VALID : Fld := ⟨63, 1⟩
def F.RTE_NODE_NODE_ID : Fld := ⟨0, 18⟩
def F.RTE_CTL_STALE_LIMIT : Fld := ⟨0, 7⟩
def F.RTE_AR_CTL_NM_BIAS : Fld := ⟨48, 16⟩
def F.RTE_AR_CTL_CN_GRAINS : Fld := ⟨40, 8⟩
def F.RTE_AR_CTL_FLOWLET_CN : Fld := ⟨36, 4⟩
def F.RTE_AR_CTL_CN_STEP : Fld := ⟨16, 16⟩
def F.RTE_HASH_SEED : Fld := ⟨0, 32⟩
def F.RTE_EPOCH_REJECT : Fld := ⟨19, 1⟩
def F.RTE_EPOCH_BUSY : Fld := ⟨18, 1⟩
def F.RTE_EPOCH_COPY : Fld := ⟨17, 1⟩
def F.RTE_EPOCH_FLIP : Fld := ⟨16, 1⟩
def F.RTE_EPOCH_EPOCH : Fld := ⟨0, 8⟩
def F.RTE_DISCARD_LAST_VALID : Fld := ⟨63, 1⟩
def F.RTE_DISCARD_LAST_LOST : Fld := ⟨62, 1⟩
def F.RTE_DISCARD_LAST_KIND : Fld := ⟨59, 3⟩
def F.RTE_DISCARD_LAST_INGRESS : Fld := ⟨52, 7⟩
def F.RTE_DISCARD_LAST_SRC_NODE : Fld := ⟨18, 18⟩
def F.RTE_DISCARD_LAST_DST_NODE : Fld := ⟨0, 18⟩
def F.RTE_PORT_ROLE_ROLE : Fld := ⟨18, 3⟩
def F.RTE_PORT_ROLE_FAR_NODE : Fld := ⟨0, 18⟩
def F.RTE_DISCARD_COUNT : Fld := ⟨0, 48⟩
def F.RTE_TBL_ACT_WORD : Fld := ⟨0, 64⟩
def F.RTE_TBL_SHD_WORD : Fld := ⟨0, 64⟩
def F.TCS_COMMIT_CLASS : Fld := ⟨19, 3⟩
def F.TCS_COMMIT_PORT : Fld := ⟨12, 7⟩
def F.TCS_COMMIT_CAUSE : Fld := ⟨8, 4⟩
def F.TCS_COMMIT_REJECT : Fld := ⟨3, 1⟩
def F.TCS_COMMIT_PENDING : Fld := ⟨2, 1⟩
def F.TCS_COMMIT_BUSY : Fld := ⟨1, 1⟩
def F.TCS_COMMIT_COMMIT : Fld := ⟨0, 1⟩
def F.TCS_POOL_RESERVED : Fld := ⟨32, 22⟩
def F.TCS_POOL_FREE : Fld := ⟨0, 22⟩
def F.TCS_SHARE_SHARE : Fld := ⟨0, 22⟩
def F.TCS_IPOL_PBS : Fld := ⟨48, 16⟩
def F.TCS_IPOL_CBS : Fld := ⟨32, 16⟩
def F.TCS_IPOL_PIR : Fld := ⟨16, 14⟩
def F.TCS_IPOL_CIR : Fld := ⟨0, 14⟩
def F.TCS_PORT_RTT_MAX : Fld := ⟨48, 16⟩
def F.TCS_PORT_W : Fld := ⟨0, 48⟩
def F.TCS_RES_A_RES : Fld := ⟨0, 64⟩
def F.TCS_RES_B_RES : Fld := ⟨0, 64⟩
def F.TCS_OPOL_PBS : Fld := ⟨48, 16⟩
def F.TCS_OPOL_CBS : Fld := ⟨32, 16⟩
def F.TCS_OPOL_PIR : Fld := ⟨16, 14⟩
def F.TCS_OPOL_CIR : Fld := ⟨0, 14⟩
def F.TCS_DEMOTE_COUNT : Fld := ⟨0, 48⟩
def F.LNK_CTL_LANES_ALLOWED : Fld := ⟨4, 4⟩
def F.LNK_CTL_NO_WIRE_CHECK : Fld := ⟨1, 1⟩
def F.LNK_CTL_ENABLE : Fld := ⟨0, 1⟩
def F.LNK_CMD_STATUS : Fld := ⟨13, 3⟩
def F.LNK_CMD_LANES : Fld := ⟨4, 4⟩
def F.LNK_CMD_OP : Fld := ⟨0, 3⟩
def F.LNK_STATE_RTT : Fld := ⟨48, 16⟩
def F.LNK_STATE_PEER_PORT : Fld := ⟨41, 7⟩
def F.LNK_STATE_PEER_NODE : Fld := ⟨23, 18⟩
def F.LNK_STATE_FAILED : Fld := ⟨19, 4⟩
def F.LNK_STATE_ACTIVE : Fld := ⟨15, 4⟩
def F.LNK_STATE_CAUSE : Fld := ⟨4, 4⟩
def F.LNK_STATE_HELD : Fld := ⟨3, 1⟩
def F.LNK_STATE_STATE : Fld := ⟨0, 3⟩
def F.LNK_PEER_ID_DEV_ID : Fld := ⟨0, 64⟩
def F.LNK_BLAME_BLAME : Fld := ⟨0, 64⟩
def F.LNK_TIME_PORT_VALID : Fld := ⟨63, 1⟩
def F.LNK_TIME_PORT_HALF_RTT : Fld := ⟨32, 16⟩
def F.LNK_TIME_PORT_OFS : Fld := ⟨0, 32⟩
def F.LNK_TMR_A_GRACE : Fld := ⟨48, 16⟩
def F.LNK_TMR_A_CREDIT_TO : Fld := ⟨32, 16⟩
def F.LNK_TMR_A_CHANGE_LIMIT : Fld := ⟨16, 16⟩
def F.LNK_TMR_A_REPLAY_TO : Fld := ⟨8, 8⟩
def F.LNK_TMR_A_REPLAY_LIMIT : Fld := ⟨0, 4⟩
def F.LNK_TMR_B_PAUSE_WAIT : Fld := ⟨16, 8⟩
def F.LNK_TMR_B_FAIL_WINDOW : Fld := ⟨8, 8⟩
def F.LNK_TMR_B_FAIL_COUNT : Fld := ⟨0, 8⟩
def F.LNK_TIME_CTL_STEP_MAX : Fld := ⟨16, 32⟩
def F.LNK_TIME_CTL_DEADBAND : Fld := ⟨8, 8⟩
def F.LNK_TIME_CTL_SYNC_INTERVAL : Fld := ⟨0, 8⟩
def F.LNK_TIME_STAT_LOCKED : Fld := ⟨63, 1⟩
def F.LNK_TIME_STAT_STEPS : Fld := ⟨32, 16⟩
def F.LNK_TIME_STAT_LAST_STEP : Fld := ⟨0, 32⟩
def F.LNK_FT_FT : Fld := ⟨0, 64⟩
def F.LNK_CNT_COUNT : Fld := ⟨0, 48⟩
def F.LAN_CTL_RECAL : Fld := ⟨5, 1⟩
def F.LAN_CTL_PRECODE : Fld := ⟨4, 1⟩
def F.LAN_CTL_RX_INVERT : Fld := ⟨3, 1⟩
def F.LAN_CTL_TX_INVERT : Fld := ⟨2, 1⟩
def F.LAN_CTL_MEDIUM : Fld := ⟨0, 2⟩
def F.LAN_STAT_TRAIN_US : Fld := ⟨48, 16⟩
def F.LAN_STAT_MARGIN : Fld := ⟨32, 8⟩
def F.LAN_STAT_WAKE_SEEN : Fld := ⟨7, 1⟩
def F.LAN_STAT_ORDER_ERR : Fld := ⟨6, 1⟩
def F.LAN_STAT_PEER_EI : Fld := ⟨5, 1⟩
def F.LAN_STAT_WARM : Fld := ⟨4, 1⟩
def F.LAN_STAT_EI : Fld := ⟨3, 1⟩
def F.LAN_STAT_ALIGNED : Fld := ⟨2, 1⟩
def F.LAN_STAT_LOCK : Fld := ⟨1, 1⟩
def F.LAN_STAT_SIGNAL : Fld := ⟨0, 1⟩
def F.LAN_FEC_UNCORR : Fld := ⟨40, 24⟩
def F.LAN_FEC_CORR : Fld := ⟨0, 40⟩
def F.LAN_FEC_CTL_BLAME_SYM : Fld := ⟨0, 4⟩
def F.SPN_GROUP_VALID : Fld := ⟨63, 1⟩
def F.SPN_GROUP_SIZE : Fld := ⟨2, 3⟩
def F.SPN_GROUP_POS : Fld := ⟨0, 2⟩
def F.SPN_CTL_IDLE_RUN : Fld := ⟨8, 8⟩
def F.SPN_CTL_CRD_EN : Fld := ⟨2, 1⟩
def F.SPN_CTL_EI_EN : Fld := ⟨1, 1⟩
def F.SPN_CTL_SPEED : Fld := ⟨0, 1⟩
def F.SPN_STAT_DISCARD : Fld := ⟨48, 16⟩
def F.SPN_STAT_DESKEW : Fld := ⟨4, 4⟩
def F.SPN_STAT_PEER_EI : Fld := ⟨3, 1⟩
def F.SPN_STAT_EI : Fld := ⟨2, 1⟩
def F.SPN_STAT_SPEED_NOW : Fld := ⟨1, 1⟩
def F.SPN_STAT_CLK_LOCK : Fld := ⟨0, 1⟩
def F.SPN_LANE_ERR_COUNT : Fld := ⟨0, 48⟩
def F.IRC_SRC_TARGETS : Fld := ⟨8, 6⟩
def F.IRC_SRC_PRIORITY : Fld := ⟨0, 4⟩
def F.IRC_LEVEL_LEVEL : Fld := ⟨0, 64⟩
def F.IRC_TGT_WINDOW_RUN : Fld := ⟨63, 1⟩
def F.IRC_TGT_VECTOR : Fld := ⟨32, 11⟩
def F.IRC_TGT_WINDOW : Fld := ⟨16, 10⟩
def F.IRC_TGT_THRESHOLD : Fld := ⟨0, 4⟩
def F.IRC_CLAIM_PRIORITY : Fld := ⟨9, 4⟩
def F.IRC_CLAIM_SOURCE : Fld := ⟨0, 9⟩
def F.IRC_EOI_SOURCE : Fld := ⟨0, 9⟩
def F.SEM_GRP_SUPER : Fld := ⟨48, 16⟩
def F.SEM_GRP_USER : Fld := ⟨32, 16⟩
def F.SEM_GRP_PEERS : Fld := ⟨8, 4⟩
def F.SEM_GRP_USER_EN : Fld := ⟨4, 1⟩
def F.SEM_GRP_SUPER_EN : Fld := ⟨3, 1⟩
def F.SEM_GRP_MGMT : Fld := ⟨2, 1⟩
def F.SEM_GRP_PF : Fld := ⟨1, 1⟩
def F.SEM_STAT_ORPHAN_NEW : Fld := ⟨63, 1⟩
def F.SEM_STAT_ORPHANS : Fld := ⟨0, 15⟩
def F.SEM_DENY_VALID : Fld := ⟨63, 1⟩
def F.SEM_DENY_LOST : Fld := ⟨62, 1⟩
def F.SEM_DENY_WRITE : Fld := ⟨33, 1⟩
def F.SEM_DENY_FORCE : Fld := ⟨32, 1⟩
def F.SEM_DENY_REQUESTER : Fld := ⟨16, 16⟩
def F.SEM_DENY_CELL : Fld := ⟨0, 14⟩
def F.SEM_CNT_COUNT : Fld := ⟨0, 48⟩
def F.BOOT_STAT_UPD_DONE : Fld := ⟨63, 1⟩
def F.BOOT_STAT_FAILOVER : Fld := ⟨62, 1⟩
def F.BOOT_STAT_FAIL_A : Fld := ⟨48, 8⟩
def F.BOOT_STAT_FAIL_B : Fld := ⟨40, 8⟩
def F.BOOT_STAT_FAIL_CFG : Fld := ⟨32, 8⟩
def F.BOOT_STAT_RECOVERY : Fld := ⟨24, 8⟩
def F.BOOT_STAT_SLOT : Fld := ⟨18, 1⟩
def F.BOOT_STAT_FLASH_MODE : Fld := ⟨16, 2⟩
def F.BOOT_STAT_STAGE : Fld := ⟨0, 4⟩
def F.BOOT_FW_VERSION : Fld := ⟨32, 32⟩
def F.BOOT_FW_SVN : Fld := ⟨26, 6⟩
def F.BOOT_FW_UPD : Fld := ⟨16, 4⟩
def F.BOOT_FW_REASON : Fld := ⟨8, 8⟩
def F.BOOT_FW_STANDBY : Fld := ⟨4, 2⟩
def F.BOOT_FW_ACTIVE : Fld := ⟨0, 2⟩
def F.KMU_DEV_ID_PRODUCT : Fld := ⟨48, 16⟩
def F.KMU_DEV_ID_LOT : Fld := ⟨32, 16⟩
def F.KMU_DEV_ID_SERIAL : Fld := ⟨0, 32⟩
def F.KMU_LC_OWNER_EN : Fld := ⟨11, 1⟩
def F.KMU_LC_PENDING : Fld := ⟨8, 3⟩
def F.KMU_LC_STATE : Fld := ⟨0, 3⟩
def F.KMU_SVN_MIN : Fld := ⟨0, 6⟩
def F.KMU_MR_VALUE : Fld := ⟨0, 64⟩
def F.PWR_DOM_CTL_WAKE : Fld := ⟨11, 1⟩
def F.PWR_DOM_CTL_THROTTLE : Fld := ⟨8, 3⟩
def F.PWR_DOM_CTL_SLEEP_EN : Fld := ⟨1, 1⟩
def F.PWR_DOM_CTL_ENABLE : Fld := ⟨0, 1⟩
def F.PWR_DOM_STAT_WAKES : Fld := ⟨48, 16⟩
def F.PWR_DOM_STAT_DROPS : Fld := ⟨32, 16⟩
def F.PWR_DOM_STAT_DRAIN_US : Fld := ⟨16, 16⟩
def F.PWR_DOM_STAT_THROTTLE_NOW : Fld := ⟨9, 3⟩
def F.PWR_DOM_STAT_FORCED : Fld := ⟨8, 1⟩
def F.PWR_DOM_STAT_STATE : Fld := ⟨0, 3⟩
def F.PWR_REJECT_VALID : Fld := ⟨63, 1⟩
def F.PWR_REJECT_LOST : Fld := ⟨62, 1⟩
def F.PWR_REJECT_REQUESTER : Fld := ⟨32, 16⟩
def F.PWR_REJECT_CAUSE : Fld := ⟨8, 8⟩
def F.PWR_REJECT_DOMAIN : Fld := ⟨0, 7⟩
def F.PWR_SLEEP_PORT_IDLE : Fld := ⟨16, 8⟩
def F.PWR_SLEEP_ENG_IDLE : Fld := ⟨0, 16⟩
def F.PWR_PORT_SLEEP_SLEEP_EN : Fld := ⟨0, 64⟩
def F.PWR_PORT_NOSLEEP_NOSLEEP : Fld := ⟨0, 64⟩
def F.PWR_PORT_SLEPT_SLEPT : Fld := ⟨0, 64⟩
def F.PWR_CLK_STAT_HOLDOVER : Fld := ⟨24, 4⟩
def F.PWR_CLK_STAT_LOSS : Fld := ⟨16, 8⟩
def F.PWR_CLK_STAT_OK : Fld := ⟨0, 8⟩
def F.FTH_CHAN_FILTERED : Fld := ⟨48, 16⟩
def F.FTH_CHAN_RAW : Fld := ⟨32, 16⟩
def F.FTH_CHAN_ENABLE : Fld := ⟨16, 1⟩
def F.FTH_CHAN_DIV : Fld := ⟨8, 8⟩
def F.FTH_CHAN_K : Fld := ⟨0, 4⟩
def F.FTH_CAL_CALENDAR : Fld := ⟨0, 64⟩
def F.FTH_CAL_SET_VALUE : Fld := ⟨0, 64⟩
def F.FTH_TIME_PPS_ERR : Fld := ⟨32, 32⟩
def F.FTH_TIME_BOOT_COUNT : Fld := ⟨16, 16⟩
def F.FTH_TIME_SRC_CHG : Fld := ⟨7, 1⟩
def F.FTH_TIME_SOURCE : Fld := ⟨5, 2⟩
def F.FTH_TIME_TIME_VALID : Fld := ⟨4, 1⟩
def F.FTH_TIME_SET_AT_PPS : Fld := ⟨1, 1⟩
def F.FTH_TIME_SET_NOW : Fld := ⟨0, 1⟩
def F.FTH_RULE_A_ACTIVE : Fld := ⟨63, 1⟩
def F.FTH_RULE_A_HYST : Fld := ⟨32, 16⟩
def F.FTH_RULE_A_THRESHOLD : Fld := ⟨16, 16⟩
def F.FTH_RULE_A_ACTION : Fld := ⟨12, 4⟩
def F.FTH_RULE_A_RECORD : Fld := ⟨10, 1⟩
def F.FTH_RULE_A_REVERT : Fld := ⟨9, 1⟩
def F.FTH_RULE_A_BELOW : Fld := ⟨8, 1⟩
def F.FTH_RULE_A_ENABLE : Fld := ⟨7, 1⟩
def F.FTH_RULE_A_CHANNEL : Fld := ⟨0, 7⟩
def F.FTH_RULE_B_ARG : Fld := ⟨0, 64⟩
def F.FLT_CTL_FORCE_FT : Fld := ⟨16, 1⟩
def F.FLT_CTL_CE_WINDOW : Fld := ⟨0, 16⟩
def F.FLT_STAT_FATAL : Fld := ⟨63, 1⟩
def F.FLT_STAT_CLR_REFUSED : Fld := ⟨62, 1⟩
def F.FLT_STAT_FIRST_FT : Fld := ⟨0, 10⟩
def F.FLT_PEND_PEND : Fld := ⟨0, 64⟩
def F.FLT_ACTIVE_ACTIVE : Fld := ⟨0, 64⟩
def F.FLT_SRC_CLASS : Fld := ⟨62, 2⟩
def F.FLT_SRC_FORCE : Fld := ⟨61, 1⟩
def F.FLT_SRC_THRESHOLD : Fld := ⟨32, 16⟩
def F.FLT_SRC_COUNT : Fld := ⟨0, 32⟩
def F.STC_CTL_PERIOD : Fld := ⟨48, 16⟩
def F.STC_CTL_LANE_ERR : Fld := ⟨40, 8⟩
def F.STC_CTL_ANALOG : Fld := ⟨7, 1⟩
def F.STC_CTL_LANE : Fld := ⟨6, 1⟩
def F.STC_CTL_CACHE : Fld := ⟨5, 1⟩
def F.STC_CTL_BANK : Fld := ⟨4, 1⟩
def F.STC_CTL_LANE_NARROW : Fld := ⟨3, 1⟩
def F.STC_CTL_ENABLE : Fld := ⟨0, 1⟩
def F.STC_CMD_UNIT : Fld := ⟨20, 12⟩
def F.STC_CMD_KIND : Fld := ⟨16, 4⟩
def F.STC_CMD_STATUS : Fld := ⟨13, 3⟩
def F.STC_STAT_SKIPPED : Fld := ⟨48, 16⟩
def F.STC_STAT_REFUSED : Fld := ⟨32, 16⟩
def F.STC_STAT_SLICES : Fld := ⟨16, 16⟩
def F.STC_STAT_RESET_NEEDED : Fld := ⟨9, 1⟩
def F.STC_STAT_CMD_DONE : Fld := ⟨8, 1⟩
def F.STC_STAT_KIND_NOW : Fld := ⟨4, 4⟩
def F.STC_RESULT_VALID : Fld := ⟨63, 1⟩
def F.STC_RESULT_LOST : Fld := ⟨62, 1⟩
def F.STC_RESULT_KIND : Fld := ⟨58, 4⟩
def F.STC_RESULT_REPAIR : Fld := ⟨55, 3⟩
def F.STC_RESULT_UNIT : Fld := ⟨43, 12⟩
def F.STC_RESULT_BIT : Fld := ⟨33, 10⟩
def F.STC_RESULT_ADDRESS : Fld := ⟨0, 32⟩
def F.EVR_STAT_FULL : Fld := ⟨63, 1⟩
def F.EVR_STAT_HIGH : Fld := ⟨62, 1⟩
def F.EVR_STAT_WRITING : Fld := ⟨61, 1⟩
def F.EVR_STAT_CLEARING : Fld := ⟨60, 1⟩
def F.EVR_STAT_ERA : Fld := ⟨32, 16⟩
def F.EVR_STAT_USED : Fld := ⟨0, 17⟩
def F.EVR_LOST_LOST : Fld := ⟨0, 32⟩
def F.EVR_CTL_HIGH_MARK : Fld := ⟨0, 17⟩
def F.EVR_RD_IDX_SLOT : Fld := ⟨0, 16⟩
def F.EVR_RD_DATA_DATA : Fld := ⟨0, 64⟩
def F.LIF_STAT_INVALID_NEW : Fld := ⟨63, 1⟩
def F.LIF_STAT_CLOSED_LAST : Fld := ⟨62, 1⟩
def F.LIF_STAT_LAST_WRITE : Fld := ⟨0, 48⟩
def F.LIF_DATA_VALUE : Fld := ⟨0, 64⟩
def F.CNT_CTL_SEQ : Fld := ⟨16, 16⟩
def F.CNT_CTL_REJECT : Fld := ⟨3, 1⟩
def F.CNT_CTL_BUSY : Fld := ⟨2, 1⟩
def F.CNT_CTL_CLR_PORTS : Fld := ⟨1, 1⟩
def F.CNT_CTL_SNAP : Fld := ⟨0, 1⟩
def F.CNT_SNAP_TIME_TIME : Fld := ⟨0, 64⟩
def F.CNT_SNAP_AT_ARM : Fld := ⟨63, 1⟩
def F.CNT_SNAP_AT_AT : Fld := ⟨0, 63⟩
def F.CNT_BW_CTL_WSEQ : Fld := ⟨48, 16⟩
def F.CNT_BW_CTL_SHORT : Fld := ⟨20, 1⟩
def F.CNT_BW_CTL_WINDOW : Fld := ⟨0, 20⟩
def F.CNT_SEL_ENABLE : Fld := ⟨63, 1⟩
def F.CNT_SEL_MODE : Fld := ⟨60, 3⟩
def F.CNT_SEL_THRESH : Fld := ⟨32, 24⟩
def F.CNT_SEL_TC_MASK : Fld := ⟨24, 8⟩
def F.CNT_SEL_UNIT : Fld := ⟨16, 8⟩
def F.CNT_SEL_EVENT : Fld := ⟨0, 16⟩
def F.CNT_VAL_OVF : Fld := ⟨63, 1⟩
def F.CNT_VAL_VALUE : Fld := ⟨0, 48⟩
def F.CNT_SHD_OVF : Fld := ⟨63, 1⟩
def F.CNT_SHD_VALUE : Fld := ⟨0, 48⟩
def F.CNT_BW_RX : Fld := ⟨32, 32⟩
def F.CNT_BW_TX : Fld := ⟨0, 32⟩
def F.CNT_PORT_OVF : Fld := ⟨63, 1⟩
def F.CNT_PORT_COUNT : Fld := ⟨0, 48⟩
def F.CNT_PORT_SHD_OVF : Fld := ⟨63, 1⟩
def F.CNT_PORT_SHD_COUNT : Fld := ⟨0, 48⟩
def F.INS_CMD_STATUS : Fld := ⟨61, 3⟩
def F.INS_CMD_WORDS : Fld := ⟨48, 8⟩
def F.INS_CMD_TYPE : Fld := ⟨40, 8⟩
def F.INS_CMD_INDEX : Fld := ⟨0, 40⟩
def F.INS_DATA_DATA : Fld := ⟨0, 64⟩

def Row.TOP_ID : RegRow :=
  ⟨0x00000000, 1, 8, 1, 8, .fixed 91,
    [⟨63, 48, .ro, 18⟩,
     ⟨47, 40, .ro, 177⟩,
     ⟨39, 32, .ro, 1⟩]⟩
def Row.TOP_DOM_ON : RegRow :=
  ⟨0x00000008, 2, 8, 1, 8, .fixed 91,
    [⟨63, 0, .ro, 0⟩]⟩
def Row.TOP_ACCESS_ERR : RegRow :=
  ⟨0x00000040, 1, 8, 1, 8, .fixed 91,
    [⟨63, 63, .w1c, 0⟩,
     ⟨62, 62, .w1c, 0⟩,
     ⟨55, 48, .ro, 0⟩,
     ⟨47, 32, .ro, 0⟩,
     ⟨31, 24, .ro, 0⟩,
     ⟨23, 23, .ro, 0⟩,
     ⟨22, 0, .ro, 0⟩]⟩
def Row.TOP_HBM_STAT : RegRow :=
  ⟨0x00000100, 2, 8, 1, 8, .plus 79,
    [⟨63, 63, .ro, 0⟩,
     ⟨62, 62, .ro, 0⟩,
     ⟨55, 52, .ro, 0⟩,
     ⟨51, 51, .ro, 0⟩,
     ⟨50, 50, .ro, 0⟩,
     ⟨15, 0, .ro, 0⟩]⟩
def Row.HST_PORT_STAT : RegRow :=
  ⟨0x00100000, 2, 8, 1, 8, .plus 64,
    [⟨63, 63, .w1c, 0⟩,
     ⟨13, 13, .ro, 0⟩,
     ⟨12, 12, .ro, 0⟩,
     ⟨11, 11, .ro, 0⟩,
     ⟨10, 10, .ro, 0⟩,
     ⟨9, 9, .ro, 0⟩,
     ⟨8, 4, .ro, 0⟩,
     ⟨3, 0, .ro, 0⟩]⟩
def Row.HST_IDE_STAT : RegRow :=
  ⟨0x00100010, 2, 8, 1, 8, .fixed 91,
    [⟨15, 12, .ro, 0⟩,
     ⟨9, 9, .w1c, 0⟩,
     ⟨8, 1, .ro, 0⟩,
     ⟨0, 0, .ro, 0⟩]⟩
def Row.HST_VF_FLR : RegRow :=
  ⟨0x00100100, 2, 128, 16, 8, .fixed 91,
    [⟨63, 0, .w1c, 0⟩]⟩
def Row.TEN_CQ_CTL : RegRow :=
  ⟨0x00300100, 1, 8, 1, 8, .block 69 4,
    [⟨15, 0, .rw, 50⟩]⟩
def Row.TEN_XPORT_TMR : RegRow :=
  ⟨0x00300120, 1, 8, 1, 8, .block 69 4,
    [⟨55, 48, .rw, 8⟩,
     ⟨47, 40, .rw, 16⟩,
     ⟨35, 32, .rw, 7⟩,
     ⟨31, 16, .rw, 5000⟩,
     ⟨15, 0, .rw, 20⟩]⟩
def Row.TEN_XPORT_CTL : RegRow :=
  ⟨0x00300128, 1, 8, 1, 8, .block 69 4,
    [⟨27, 24, .rw, 3⟩,
     ⟨20, 16, .ro, 24⟩,
     ⟨15, 0, .rw, 0⟩]⟩
def Row.TEN_ADMIN_SQ : RegRow :=
  ⟨0x00310000, 4096, 16, 1, 8, .block 69 4,
    [⟨63, 12, .rw, 0⟩,
     ⟨11, 8, .rw, 7⟩,
     ⟨0, 0, .rw, 0⟩]⟩
def Row.TEN_ADMIN_CQ : RegRow :=
  ⟨0x00310008, 4096, 16, 1, 8, .block 69 4,
    [⟨63, 12, .rw, 0⟩,
     ⟨11, 8, .rw, 4⟩,
     ⟨0, 0, .rw, 0⟩]⟩
def Row.MAT_CTL : RegRow :=
  ⟨0x00400000, 1, 8, 1, 8, .block 73 4,
    [⟨51, 48, .rw, 4⟩,
     ⟨47, 32, .rw, 20⟩,
     ⟨31, 24, .rw, 64⟩,
     ⟨16, 0, .rw, 0x4000⟩]⟩
def Row.MAT_SLICE_STAT : RegRow :=
  ⟨0x00400100, 4, 8, 1, 8, .plus 73,
    [⟨56, 41, .ro, 0⟩,
     ⟨40, 17, .ro, 0⟩,
     ⟨16, 0, .ro, 0⟩]⟩
def Row.RMA_CTL : RegRow :=
  ⟨0x00500000, 1, 8, 1, 8, .block 69 4,
    [⟨3, 3, .rw, 1⟩,
     ⟨2, 2, .rw, 1⟩,
     ⟨1, 1, .ro, 0⟩,
     ⟨0, 0, .ro, 0⟩]⟩
def Row.RMA_REFUSE : RegRow :=
  ⟨0x00500100, 8, 8, 1, 8, .block 69 4,
    [⟨47, 0, .rc, 0⟩]⟩
def Row.RMA_WIN_STAT : RegRow :=
  ⟨0x00500200, 1, 8, 1, 8, .block 69 4,
    [⟨49, 25, .ro, 0⟩,
     ⟨24, 0, .ro, 0⟩]⟩
def Row.COL_CTL : RegRow :=
  ⟨0x00600000, 1, 8, 1, 8, .block 77 2,
    [⟨63, 48, .rw, 0⟩,
     ⟨47, 32, .rw, 200⟩,
     ⟨23, 16, .rw, 100⟩,
     ⟨7, 0, .rw, 32⟩]⟩
def Row.COL_STAT : RegRow :=
  ⟨0x00600100, 2, 8, 1, 8, .plus 77,
    [⟨63, 32, .ro, 0⟩,
     ⟨31, 16, .ro, 0⟩,
     ⟨15, 0, .ro, 0⟩]⟩
def Row.COL_DISCARD : RegRow :=
  ⟨0x00600200, 4, 8, 1, 8, .block 77 2,
    [⟨47, 0, .rc, 0⟩]⟩
def Row.XLT_CTL : RegRow :=
  ⟨0x00700000, 1, 8, 1, 8, .fixed 85,
    [⟨31, 16, .rw, 10⟩,
     ⟨3, 0, .rw, 4⟩]⟩
def Row.XLT_STAT : RegRow :=
  ⟨0x00700008, 1, 8, 1, 8, .fixed 85,
    [⟨63, 48, .rc, 0⟩,
     ⟨47, 32, .rc, 0⟩,
     ⟨29, 16, .ro, 0⟩,
     ⟨6, 0, .ro, 0⟩]⟩
def Row.XLT_RAT_BASE : RegRow :=
  ⟨0x00700100, 64, 16, 1, 8, .fixed 85,
    [⟨63, 63, .rw, 0⟩,
     ⟨62, 61, .rw, 0⟩,
     ⟨60, 60, .rw, 0⟩,
     ⟨59, 59, .rw, 0⟩,
     ⟨51, 12, .rw, 0⟩]⟩
def Row.XLT_RAT_LIMIT : RegRow :=
  ⟨0x00700108, 64, 16, 1, 8, .fixed 85,
    [⟨51, 12, .rw, 0⟩]⟩
def Row.RTE_NODE : RegRow :=
  ⟨0x00800000, 1, 8, 1, 8, .fixed 91,
    [⟨63, 63, .ro, 0⟩,
     ⟨17, 0, .ro, 0⟩]⟩
def Row.RTE_CTL : RegRow :=
  ⟨0x00800008, 1, 8, 1, 8, .fixed 91,
    [⟨6, 0, .rw, 4⟩]⟩
def Row.RTE_AR_CTL : RegRow :=
  ⟨0x00800010, 1, 8, 1, 8, .fixed 91,
    [⟨63, 48, .rw, 1024⟩,
     ⟨47, 40, .rw, 64⟩,
     ⟨39, 36, .rw, 8⟩,
     ⟨31, 16, .rw, 256⟩]⟩
def Row.RTE_HASH : RegRow :=
  ⟨0x00800018, 1, 8, 1, 8, .fixed 91,
    [⟨31, 0, .rw, 0⟩]⟩
def Row.RTE_EPOCH : RegRow :=
  ⟨0x00800020, 1, 8, 1, 8, .fixed 91,
    [⟨19, 19, .w1c, 0⟩,
     ⟨18, 18, .ro, 0⟩,
     ⟨17, 17, .wo, 0⟩,
     ⟨16, 16, .wo, 0⟩,
     ⟨7, 0, .ro, 0⟩]⟩
def Row.RTE_DISCARD_LAST : RegRow :=
  ⟨0x00800440, 1, 8, 1, 8, .fixed 91,
    [⟨63, 63, .w1c, 0⟩,
     ⟨62, 62, .w1c, 0⟩,
     ⟨61, 59, .ro, 0⟩,
     ⟨58, 52, .ro, 0⟩,
     ⟨35, 18, .ro, 0⟩,
     ⟨17, 0, .ro, 0⟩]⟩
def Row.RTE_PORT_ROLE : RegRow :=
  ⟨0x00800100, 67, 8, 1, 8, .fixed 91,
    [⟨20, 18, .rw, 0⟩,
     ⟨17, 0, .rw, 0⟩]⟩
def Row.RTE_DISCARD : RegRow :=
  ⟨0x00800400, 8, 8, 1, 8, .fixed 91,
    [⟨47, 0, .rc, 0⟩]⟩
def Row.RTE_TBL_ACT : RegRow :=
  ⟨0x00810000, 4160, 16, 2, 8, .fixed 91,
    [⟨63, 0, .rw, 0⟩]⟩
def Row.RTE_TBL_SHD : RegRow :=
  ⟨0x00830000, 4160, 16, 2, 8, .fixed 91,
    [⟨63, 0, .rw, 0⟩]⟩
def Row.TCS_COMMIT : RegRow :=
  ⟨0x00900000, 1, 8, 1, 8, .fixed 91,
    [⟨21, 19, .ro, 0⟩,
     ⟨18, 12, .ro, 0⟩,
     ⟨11, 8, .ro, 0⟩,
     ⟨3, 3, .w1c, 0⟩,
     ⟨2, 2, .ro, 0⟩,
     ⟨1, 1, .ro, 0⟩,
     ⟨0, 0, .wo, 0⟩]⟩
def Row.TCS_POOL : RegRow :=
  ⟨0x00900008, 1, 8, 1, 8, .fixed 91,
    [⟨53, 32, .ro, 0⟩,
     ⟨21, 0, .ro, 0⟩]⟩
def Row.TCS_SHARE : RegRow :=
  ⟨0x00900040, 8, 8, 1, 8, .fixed 91,
    [⟨21, 0, .rw, 0⟩]⟩
def Row.TCS_IPOL : RegRow :=
  ⟨0x00900080, 8, 8, 1, 8, .fixed 91,
    [⟨63, 48, .rw, 20⟩,
     ⟨47, 32, .rw, 20⟩,
     ⟨29, 16, .rw, 0x2710⟩,
     ⟨13, 0, .rw, 200⟩]⟩
def Row.TCS_PORT : RegRow :=
  ⟨0x00900400, 67, 8, 1, 8, .fixed 91,
    [⟨63, 48, .rw, 0⟩,
     ⟨47, 0, .rw, 0x10101010101⟩]⟩
def Row.TCS_RES_A : RegRow :=
  ⟨0x00900800, 67, 16, 1, 8, .fixed 91,
    [⟨63, 0, .rw, 0⟩]⟩
def Row.TCS_RES_B : RegRow :=
  ⟨0x00900808, 67, 16, 1, 8, .fixed 91,
    [⟨63, 0, .rw, 0⟩]⟩
def Row.TCS_OPOL : RegRow :=
  ⟨0x00901000, 536, 8, 1, 8, .fixed 91,
    [⟨63, 48, .rw, 0⟩,
     ⟨47, 32, .rw, 0⟩,
     ⟨29, 16, .rw, 0⟩,
     ⟨13, 0, .rw, 0⟩]⟩
def Row.TCS_DEMOTE : RegRow :=
  ⟨0x00903000, 67, 8, 1, 8, .fixed 91,
    [⟨47, 0, .rc, 0⟩]⟩
def Row.LNK_CTL : RegRow :=
  ⟨0x00A00000, 67, 8, 1, 8, .port,
    [⟨7, 4, .rw, 15⟩,
     ⟨1, 1, .rw, 0⟩,
     ⟨0, 0, .rw, 0⟩]⟩
def Row.LNK_CMD : RegRow :=
  ⟨0x00A00400, 67, 8, 1, 8, .port,
    [⟨15, 13, .ro, 0⟩,
     ⟨7, 4, .wo, 0⟩,
     ⟨2, 0, .wo, 0⟩]⟩
def Row.LNK_STATE : RegRow :=
  ⟨0x00A00800, 67, 8, 1, 8, .port,
    [⟨63, 48, .ro, 0⟩,
     ⟨47, 41, .ro, 0⟩,
     ⟨40, 23, .ro, 0⟩,
     ⟨22, 19, .w1c, 0⟩,
     ⟨18, 15, .ro, 0⟩,
     ⟨7, 4, .ro, 0⟩,
     ⟨3, 3, .ro, 0⟩,
     ⟨2, 0, .ro, 0⟩]⟩
def Row.LNK_PEER_ID : RegRow :=
  ⟨0x00A01000, 67, 8, 1, 8, .port,
    [⟨63, 0, .ro, 0⟩]⟩
def Row.LNK_BLAME : RegRow :=
  ⟨0x00A01400, 67, 8, 1, 8, .port,
    [⟨63, 0, .rc, 0⟩]⟩
def Row.LNK_TIME_PORT : RegRow :=
  ⟨0x00A01800, 67, 8, 1, 8, .port,
    [⟨63, 63, .ro, 0⟩,
     ⟨47, 32, .ro, 0⟩,
     ⟨31, 0, .ro, 0⟩]⟩
def Row.LNK_TMR_A : RegRow :=
  ⟨0x00A00C00, 1, 8, 1, 8, .fixed 91,
    [⟨63, 48, .rw, 20⟩,
     ⟨47, 32, .rw, 10⟩,
     ⟨31, 16, .rw, 20⟩,
     ⟨15, 8, .rw, 4⟩,
     ⟨3, 0, .rw, 8⟩]⟩
def Row.LNK_TMR_B : RegRow :=
  ⟨0x00A00C08, 1, 8, 1, 8, .fixed 91,
    [⟨23, 16, .rw, 20⟩,
     ⟨15, 8, .rw, 1⟩,
     ⟨7, 0, .rw, 8⟩]⟩
def Row.LNK_TIME_CTL : RegRow :=
  ⟨0x00A00C10, 1, 8, 1, 8, .fixed 91,
    [⟨47, 16, .rw, 0⟩,
     ⟨15, 8, .rw, 4⟩,
     ⟨7, 0, .rw, 10⟩]⟩
def Row.LNK_TIME_STAT : RegRow :=
  ⟨0x00A00C18, 1, 8, 1, 8, .fixed 91,
    [⟨63, 63, .ro, 0⟩,
     ⟨47, 32, .rc, 0⟩,
     ⟨31, 0, .ro, 0⟩]⟩
def Row.LNK_FT : RegRow :=
  ⟨0x00A00C20, 1, 8, 1, 8, .fixed 91,
    [⟨63, 0, .ro, 0⟩]⟩
def Row.LNK_CNT : RegRow :=
  ⟨0x00A10000, 67, 64, 8, 8, .port,
    [⟨47, 0, .rc, 0⟩]⟩
def Row.LAN_CTL : RegRow :=
  ⟨0x00B00000, 256, 8, 1, 8, .lane,
    [⟨5, 5, .rw, 0⟩,
     ⟨4, 4, .rw, 0⟩,
     ⟨3, 3, .rw, 0⟩,
     ⟨2, 2, .rw, 0⟩,
     ⟨1, 0, .rw, 0⟩]⟩
def Row.LAN_STAT : RegRow :=
  ⟨0x00B00800, 256, 8, 1, 8, .lane,
    [⟨63, 48, .ro, 0⟩,
     ⟨39, 32, .ro, 0⟩,
     ⟨7, 7, .w1c, 0⟩,
     ⟨6, 6, .ro, 0⟩,
     ⟨5, 5, .ro, 0⟩,
     ⟨4, 4, .ro, 0⟩,
     ⟨3, 3, .ro, 0⟩,
     ⟨2, 2, .ro, 0⟩,
     ⟨1, 1, .ro, 0⟩,
     ⟨0, 0, .ro, 0⟩]⟩
def Row.LAN_FEC : RegRow :=
  ⟨0x00B01000, 256, 8, 1, 8, .lane,
    [⟨63, 40, .rc, 0⟩,
     ⟨39, 0, .rc, 0⟩]⟩
def Row.LAN_FEC_CTL : RegRow :=
  ⟨0x00B01800, 1, 8, 1, 8, .block 0 64,
    [⟨3, 0, .rw, 12⟩]⟩
def Row.SPN_GROUP : RegRow :=
  ⟨0x00C00000, 1, 8, 1, 8, .fixed 91,
    [⟨63, 63, .ro, 0⟩,
     ⟨4, 2, .ro, 0⟩,
     ⟨1, 0, .ro, 0⟩]⟩
def Row.SPN_CTL : RegRow :=
  ⟨0x00C00100, 3, 8, 1, 8, .plus 66,
    [⟨15, 8, .rw, 16⟩,
     ⟨2, 2, .rw, 1⟩,
     ⟨1, 1, .rw, 1⟩,
     ⟨0, 0, .rw, 0⟩]⟩
def Row.SPN_STAT : RegRow :=
  ⟨0x00C00200, 3, 8, 1, 8, .plus 66,
    [⟨63, 48, .rc, 0⟩,
     ⟨7, 4, .ro, 0⟩,
     ⟨3, 3, .ro, 0⟩,
     ⟨2, 2, .ro, 0⟩,
     ⟨1, 1, .ro, 0⟩,
     ⟨0, 0, .ro, 0⟩]⟩
def Row.SPN_LANE_ERR : RegRow :=
  ⟨0x00C01000, 3, 128, 16, 8, .plus 66,
    [⟨47, 0, .rc, 0⟩]⟩
def Row.IRC_SRC : RegRow :=
  ⟨0x00D00000, 256, 8, 1, 8, .fixed 91,
    [⟨13, 8, .rw, 0⟩,
     ⟨3, 0, .rw, 0⟩]⟩
def Row.IRC_LEVEL : RegRow :=
  ⟨0x00D00800, 4, 8, 1, 8, .fixed 91,
    [⟨63, 0, .ro, 0⟩]⟩
def Row.IRC_TGT : RegRow :=
  ⟨0x00D00900, 6, 8, 1, 8, .fixed 91,
    [⟨63, 63, .ro, 0⟩,
     ⟨42, 32, .rw, 1⟩,
     ⟨25, 16, .rw, 10⟩,
     ⟨3, 0, .rw, 0⟩]⟩
def Row.IRC_CLAIM : RegRow :=
  ⟨0x00D00A00, 6, 8, 1, 8, .fixed 91,
    [⟨12, 9, .rc, 0⟩,
     ⟨8, 0, .rc, 256⟩]⟩
def Row.IRC_EOI : RegRow :=
  ⟨0x00D00B00, 6, 8, 1, 8, .fixed 91,
    [⟨8, 0, .wo, 0⟩]⟩
def Row.SEM_GRP : RegRow :=
  ⟨0x00E00000, 128, 8, 1, 8, .fixed 91,
    [⟨63, 48, .rw, 0⟩,
     ⟨47, 32, .rw, 0⟩,
     ⟨11, 8, .rw, 0⟩,
     ⟨4, 4, .rw, 0⟩,
     ⟨3, 3, .rw, 0⟩,
     ⟨2, 2, .rw, 0⟩,
     ⟨1, 1, .rw, 0⟩]⟩
def Row.SEM_STAT : RegRow :=
  ⟨0x00E00400, 1, 8, 1, 8, .fixed 91,
    [⟨63, 63, .w1c, 0⟩,
     ⟨14, 0, .ro, 0⟩]⟩
def Row.SEM_DENY : RegRow :=
  ⟨0x00E00408, 1, 8, 1, 8, .fixed 91,
    [⟨63, 63, .w1c, 0⟩,
     ⟨62, 62, .w1c, 0⟩,
     ⟨33, 33, .ro, 0⟩,
     ⟨32, 32, .ro, 0⟩,
     ⟨31, 16, .ro, 0⟩,
     ⟨13, 0, .ro, 0⟩]⟩
def Row.SEM_CNT : RegRow :=
  ⟨0x00E00500, 4, 8, 1, 8, .fixed 91,
    [⟨47, 0, .rc, 0⟩]⟩
def Row.BOOT_STAT : RegRow :=
  ⟨0x00F00000, 1, 8, 1, 8, .fixed 92,
    [⟨63, 63, .w1c, 0⟩,
     ⟨62, 62, .w1c, 0⟩,
     ⟨55, 48, .ro, 0⟩,
     ⟨47, 40, .ro, 0⟩,
     ⟨39, 32, .ro, 0⟩,
     ⟨31, 24, .ro, 0⟩,
     ⟨18, 18, .ro, 0⟩,
     ⟨17, 16, .ro, 0⟩,
     ⟨3, 0, .ro, 0⟩]⟩
def Row.BOOT_FW : RegRow :=
  ⟨0x00F00010, 2, 8, 1, 8, .fixed 91,
    [⟨63, 32, .ro, 0⟩,
     ⟨31, 26, .ro, 0⟩,
     ⟨19, 16, .ro, 0⟩,
     ⟨15, 8, .ro, 0⟩,
     ⟨5, 4, .ro, 0⟩,
     ⟨1, 0, .ro, 0⟩]⟩
def Row.KMU_DEV_ID : RegRow :=
  ⟨0x01000000, 1, 8, 1, 8, .fixed 92,
    [⟨63, 48, .ro, 18⟩,
     ⟨47, 32, .ro, 0⟩,
     ⟨31, 0, .ro, 0⟩]⟩
def Row.KMU_LC : RegRow :=
  ⟨0x01000008, 1, 8, 1, 8, .fixed 92,
    [⟨11, 11, .ro, 0⟩,
     ⟨10, 8, .ro, 0⟩,
     ⟨2, 0, .ro, 0⟩]⟩
def Row.KMU_SVN : RegRow :=
  ⟨0x01000010, 1, 8, 1, 8, .fixed 92,
    [⟨5, 0, .ro, 0⟩]⟩
def Row.KMU_MR : RegRow :=
  ⟨0x01000100, 8, 64, 6, 8, .fixed 92,
    [⟨63, 0, .ro, 0⟩]⟩
def Row.PWR_DOM_CTL : RegRow :=
  ⟨0x01100000, 93, 8, 1, 8, .fixed 92,
    [⟨11, 11, .wo, 0⟩,
     ⟨10, 8, .rw, 0⟩,
     ⟨1, 1, .rw, 0⟩,
     ⟨0, 0, .rw, 0⟩]⟩
def Row.PWR_DOM_STAT : RegRow :=
  ⟨0x01100400, 93, 8, 1, 8, .fixed 92,
    [⟨63, 48, .rc, 0⟩,
     ⟨47, 32, .rc, 0⟩,
     ⟨31, 16, .ro, 0⟩,
     ⟨11, 9, .ro, 0⟩,
     ⟨8, 8, .ro, 0⟩,
     ⟨2, 0, .ro, 0⟩]⟩
def Row.PWR_REJECT : RegRow :=
  ⟨0x01100800, 1, 8, 1, 8, .fixed 92,
    [⟨63, 63, .w1c, 0⟩,
     ⟨62, 62, .w1c, 0⟩,
     ⟨47, 32, .ro, 0⟩,
     ⟨15, 8, .ro, 0⟩,
     ⟨6, 0, .ro, 0⟩]⟩
def Row.PWR_SLEEP : RegRow :=
  ⟨0x01100808, 1, 8, 1, 8, .fixed 92,
    [⟨23, 16, .rw, 10⟩,
     ⟨15, 0, .rw, 1000⟩]⟩
def Row.PWR_PORT_SLEEP : RegRow :=
  ⟨0x01100810, 1, 8, 1, 8, .fixed 92,
    [⟨63, 0, .rw, 0⟩]⟩
def Row.PWR_PORT_NOSLEEP : RegRow :=
  ⟨0x01100818, 1, 8, 1, 8, .fixed 92,
    [⟨63, 0, .rw, 0⟩]⟩
def Row.PWR_PORT_SLEPT : RegRow :=
  ⟨0x01100820, 1, 8, 1, 8, .fixed 92,
    [⟨63, 0, .ro, 0⟩]⟩
def Row.PWR_CLK_STAT : RegRow :=
  ⟨0x01100900, 1, 8, 1, 8, .fixed 92,
    [⟨27, 24, .ro, 0⟩,
     ⟨23, 16, .w1c, 0⟩,
     ⟨7, 0, .ro, 0⟩]⟩
def Row.FTH_CHAN : RegRow :=
  ⟨0x01200000, 128, 8, 1, 8, .fixed 92,
    [⟨63, 48, .ro, 0⟩,
     ⟨47, 32, .ro, 0⟩,
     ⟨16, 16, .rw, 1⟩,
     ⟨15, 8, .rw, 9⟩,
     ⟨3, 0, .rw, 4⟩]⟩
def Row.FTH_CAL : RegRow :=
  ⟨0x01200800, 1, 8, 1, 8, .fixed 92,
    [⟨63, 0, .ro, 0⟩]⟩
def Row.FTH_CAL_SET : RegRow :=
  ⟨0x01200808, 1, 8, 1, 8, .fixed 92,
    [⟨63, 0, .rw, 0⟩]⟩
def Row.FTH_TIME : RegRow :=
  ⟨0x01200810, 1, 8, 1, 8, .fixed 92,
    [⟨63, 32, .ro, 0⟩,
     ⟨31, 16, .ro, 0⟩,
     ⟨7, 7, .w1c, 0⟩,
     ⟨6, 5, .ro, 0⟩,
     ⟨4, 4, .ro, 0⟩,
     ⟨1, 1, .wo, 0⟩,
     ⟨0, 0, .wo, 0⟩]⟩
def Row.FTH_RULE_A : RegRow :=
  ⟨0x01201000, 256, 16, 1, 8, .fixed 92,
    [⟨63, 63, .ro, 0⟩,
     ⟨47, 32, .rw, 0⟩,
     ⟨31, 16, .rw, 0⟩,
     ⟨15, 12, .rw, 0⟩,
     ⟨10, 10, .rw, 0⟩,
     ⟨9, 9, .rw, 0⟩,
     ⟨8, 8, .rw, 0⟩,
     ⟨7, 7, .rw, 0⟩,
     ⟨6, 0, .rw, 0⟩]⟩
def Row.FTH_RULE_B : RegRow :=
  ⟨0x01201008, 256, 16, 1, 8, .fixed 92,
    [⟨63, 0, .rw, 0⟩]⟩
def Row.FLT_CTL : RegRow :=
  ⟨0x01300000, 1, 8, 1, 8, .fixed 92,
    [⟨16, 16, .rw, 0⟩,
     ⟨15, 0, .rw, 1000⟩]⟩
def Row.FLT_STAT : RegRow :=
  ⟨0x01300008, 1, 8, 1, 8, .fixed 92,
    [⟨63, 63, .ro, 0⟩,
     ⟨62, 62, .w1c, 0⟩,
     ⟨9, 0, .ro, 0⟩]⟩
def Row.FLT_PEND : RegRow :=
  ⟨0x01300100, 10, 8, 1, 8, .fixed 92,
    [⟨63, 0, .w1c, 0⟩]⟩
def Row.FLT_ACTIVE : RegRow :=
  ⟨0x01300200, 10, 8, 1, 8, .fixed 92,
    [⟨63, 0, .ro, 0⟩]⟩
def Row.FLT_SRC : RegRow :=
  ⟨0x01301000, 640, 8, 1, 8, .fixed 92,
    [⟨63, 62, .ro, 0⟩,
     ⟨61, 61, .rw, 0⟩,
     ⟨47, 32, .rw, 1⟩,
     ⟨31, 0, .rc, 0⟩]⟩
def Row.STC_CTL : RegRow :=
  ⟨0x01400000, 1, 8, 1, 8, .fixed 91,
    [⟨63, 48, .rw, 100⟩,
     ⟨47, 40, .rw, 0⟩,
     ⟨7, 7, .rw, 1⟩,
     ⟨6, 6, .rw, 1⟩,
     ⟨5, 5, .rw, 1⟩,
     ⟨4, 4, .rw, 1⟩,
     ⟨3, 3, .rw, 0⟩,
     ⟨0, 0, .rw, 0⟩]⟩
def Row.STC_CMD : RegRow :=
  ⟨0x01400008, 1, 8, 1, 8, .fixed 91,
    [⟨31, 20, .wo, 0⟩,
     ⟨19, 16, .wo, 0⟩,
     ⟨15, 13, .ro, 0⟩]⟩
def Row.STC_STAT : RegRow :=
  ⟨0x01400010, 1, 8, 1, 8, .fixed 91,
    [⟨63, 48, .rc, 0⟩,
     ⟨47, 32, .rc, 0⟩,
     ⟨31, 16, .rc, 0⟩,
     ⟨9, 9, .ro, 0⟩,
     ⟨8, 8, .w1c, 0⟩,
     ⟨7, 4, .ro, 0⟩]⟩
def Row.STC_RESULT : RegRow :=
  ⟨0x01400018, 1, 8, 1, 8, .fixed 91,
    [⟨63, 63, .w1c, 0⟩,
     ⟨62, 62, .w1c, 0⟩,
     ⟨61, 58, .ro, 0⟩,
     ⟨57, 55, .ro, 0⟩,
     ⟨54, 43, .ro, 0⟩,
     ⟨42, 33, .ro, 0⟩,
     ⟨31, 0, .ro, 0⟩]⟩
def Row.EVR_STAT : RegRow :=
  ⟨0x01500000, 1, 8, 1, 8, .fixed 92,
    [⟨63, 63, .ro, 0⟩,
     ⟨62, 62, .ro, 0⟩,
     ⟨61, 61, .ro, 0⟩,
     ⟨60, 60, .ro, 0⟩,
     ⟨47, 32, .ro, 0⟩,
     ⟨16, 0, .ro, 0⟩]⟩
def Row.EVR_LOST : RegRow :=
  ⟨0x01500008, 1, 8, 1, 8, .fixed 92,
    [⟨31, 0, .ro, 0⟩]⟩
def Row.EVR_CTL : RegRow :=
  ⟨0x01500010, 1, 8, 1, 8, .fixed 92,
    [⟨16, 0, .rw, 0xE000⟩]⟩
def Row.EVR_RD_IDX : RegRow :=
  ⟨0x01500018, 1, 8, 1, 8, .fixed 92,
    [⟨15, 0, .rw, 0⟩]⟩
def Row.EVR_RD_DATA : RegRow :=
  ⟨0x01500100, 8, 8, 1, 8, .fixed 92,
    [⟨63, 0, .ro, 0⟩]⟩
def Row.LIF_STAT : RegRow :=
  ⟨0x01600000, 1, 8, 1, 8, .fixed 92,
    [⟨63, 63, .w1c, 0⟩,
     ⟨62, 62, .ro, 0⟩,
     ⟨47, 0, .ro, 0⟩]⟩
def Row.LIF_DATA : RegRow :=
  ⟨0x01601000, 8192, 8, 1, 8, .fixed 92,
    [⟨63, 0, .ro, 0⟩]⟩
def Row.CNT_CTL : RegRow :=
  ⟨0x01700000, 1, 8, 1, 8, .fixed 91,
    [⟨31, 16, .ro, 0⟩,
     ⟨3, 3, .w1c, 0⟩,
     ⟨2, 2, .ro, 0⟩,
     ⟨1, 1, .wo, 0⟩,
     ⟨0, 0, .wo, 0⟩]⟩
def Row.CNT_SNAP_TIME : RegRow :=
  ⟨0x01700008, 1, 8, 1, 8, .fixed 91,
    [⟨63, 0, .ro, 0⟩]⟩
def Row.CNT_SNAP_AT : RegRow :=
  ⟨0x01700010, 1, 8, 1, 8, .fixed 91,
    [⟨63, 63, .rw, 0⟩,
     ⟨62, 0, .rw, 0⟩]⟩
def Row.CNT_BW_CTL : RegRow :=
  ⟨0x01700018, 1, 8, 1, 8, .fixed 91,
    [⟨63, 48, .ro, 0⟩,
     ⟨20, 20, .ro, 0⟩,
     ⟨19, 0, .rw, 1000⟩]⟩
def Row.CNT_SEL : RegRow :=
  ⟨0x01701000, 512, 8, 1, 8, .fixed 91,
    [⟨63, 63, .rw, 0⟩,
     ⟨62, 60, .rw, 0⟩,
     ⟨55, 32, .rw, 0⟩,
     ⟨31, 24, .rw, 0⟩,
     ⟨23, 16, .rw, 0⟩,
     ⟨15, 0, .rw, 0⟩]⟩
def Row.CNT_VAL : RegRow :=
  ⟨0x01702000, 512, 8, 1, 8, .fixed 91,
    [⟨63, 63, .w1c, 0⟩,
     ⟨47, 0, .rw, 0⟩]⟩
def Row.CNT_SHD : RegRow :=
  ⟨0x01703000, 512, 8, 1, 8, .fixed 91,
    [⟨63, 63, .ro, 0⟩,
     ⟨47, 0, .ro, 0⟩]⟩
def Row.CNT_BW : RegRow :=
  ⟨0x01704000, 67, 8, 1, 8, .port,
    [⟨63, 32, .ro, 0⟩,
     ⟨31, 0, .ro, 0⟩]⟩
def Row.CNT_PORT : RegRow :=
  ⟨0x01710000, 67, 64, 8, 8, .port,
    [⟨63, 63, .w1c, 0⟩,
     ⟨47, 0, .ro, 0⟩]⟩
def Row.CNT_PORT_SHD : RegRow :=
  ⟨0x01712000, 67, 64, 8, 8, .port,
    [⟨63, 63, .ro, 0⟩,
     ⟨47, 0, .ro, 0⟩]⟩
def Row.INS_CMD : RegRow :=
  ⟨0x01800000, 6, 4096, 1, 8, .fixed 91,
    [⟨63, 61, .ro, 0⟩,
     ⟨55, 48, .ro, 0⟩,
     ⟨47, 40, .rw, 0⟩,
     ⟨39, 0, .rw, 0⟩]⟩
def Row.INS_DATA : RegRow :=
  ⟨0x01800100, 6, 4096, 64, 8, .fixed 91,
    [⟨63, 0, .ro, 0⟩]⟩

/-- The rows of the block whose 1 MiB window has the given number (Table 21.1). -/
def regBlock : Nat → List RegRow
  | 0x00 => [Row.TOP_ID, Row.TOP_DOM_ON, Row.TOP_ACCESS_ERR, Row.TOP_HBM_STAT]
  | 0x01 => [Row.HST_PORT_STAT, Row.HST_IDE_STAT, Row.HST_VF_FLR]
  | 0x03 => [Row.TEN_CQ_CTL, Row.TEN_XPORT_TMR, Row.TEN_XPORT_CTL, Row.TEN_ADMIN_SQ, Row.TEN_ADMIN_CQ]
  | 0x04 => [Row.MAT_CTL, Row.MAT_SLICE_STAT]
  | 0x05 => [Row.RMA_CTL, Row.RMA_REFUSE, Row.RMA_WIN_STAT]
  | 0x06 => [Row.COL_CTL, Row.COL_STAT, Row.COL_DISCARD]
  | 0x07 => [Row.XLT_CTL, Row.XLT_STAT, Row.XLT_RAT_BASE, Row.XLT_RAT_LIMIT]
  | 0x08 => [Row.RTE_NODE, Row.RTE_CTL, Row.RTE_AR_CTL, Row.RTE_HASH, Row.RTE_EPOCH, Row.RTE_DISCARD_LAST, Row.RTE_PORT_ROLE, Row.RTE_DISCARD, Row.RTE_TBL_ACT, Row.RTE_TBL_SHD]
  | 0x09 => [Row.TCS_COMMIT, Row.TCS_POOL, Row.TCS_SHARE, Row.TCS_IPOL, Row.TCS_PORT, Row.TCS_RES_A, Row.TCS_RES_B, Row.TCS_OPOL, Row.TCS_DEMOTE]
  | 0x0A => [Row.LNK_CTL, Row.LNK_CMD, Row.LNK_STATE, Row.LNK_PEER_ID, Row.LNK_BLAME, Row.LNK_TIME_PORT, Row.LNK_TMR_A, Row.LNK_TMR_B, Row.LNK_TIME_CTL, Row.LNK_TIME_STAT, Row.LNK_FT, Row.LNK_CNT]
  | 0x0B => [Row.LAN_CTL, Row.LAN_STAT, Row.LAN_FEC, Row.LAN_FEC_CTL]
  | 0x0C => [Row.SPN_GROUP, Row.SPN_CTL, Row.SPN_STAT, Row.SPN_LANE_ERR]
  | 0x0D => [Row.IRC_SRC, Row.IRC_LEVEL, Row.IRC_TGT, Row.IRC_CLAIM, Row.IRC_EOI]
  | 0x0E => [Row.SEM_GRP, Row.SEM_STAT, Row.SEM_DENY, Row.SEM_CNT]
  | 0x0F => [Row.BOOT_STAT, Row.BOOT_FW]
  | 0x10 => [Row.KMU_DEV_ID, Row.KMU_LC, Row.KMU_SVN, Row.KMU_MR]
  | 0x11 => [Row.PWR_DOM_CTL, Row.PWR_DOM_STAT, Row.PWR_REJECT, Row.PWR_SLEEP, Row.PWR_PORT_SLEEP, Row.PWR_PORT_NOSLEEP, Row.PWR_PORT_SLEPT, Row.PWR_CLK_STAT]
  | 0x12 => [Row.FTH_CHAN, Row.FTH_CAL, Row.FTH_CAL_SET, Row.FTH_TIME, Row.FTH_RULE_A, Row.FTH_RULE_B]
  | 0x13 => [Row.FLT_CTL, Row.FLT_STAT, Row.FLT_PEND, Row.FLT_ACTIVE, Row.FLT_SRC]
  | 0x14 => [Row.STC_CTL, Row.STC_CMD, Row.STC_STAT, Row.STC_RESULT]
  | 0x15 => [Row.EVR_STAT, Row.EVR_LOST, Row.EVR_CTL, Row.EVR_RD_IDX, Row.EVR_RD_DATA]
  | 0x16 => [Row.LIF_STAT, Row.LIF_DATA]
  | 0x17 => [Row.CNT_CTL, Row.CNT_SNAP_TIME, Row.CNT_SNAP_AT, Row.CNT_BW_CTL, Row.CNT_SEL, Row.CNT_VAL, Row.CNT_SHD, Row.CNT_BW, Row.CNT_PORT, Row.CNT_PORT_SHD]
  | 0x18 => [Row.INS_CMD, Row.INS_DATA]
  | _ => []

/-- The class of fault source `n` (Table 16.2): 0 CE, 1 UC, 2 FT, 3 reserved. -/
def fltClass (n : Nat) : Nat :=
  if n < 0x14F then (if n % 5 < 3 then 0 else 1)
  else if n < 0x150 then 3
  else if n < 0x15C then (if (n - 0x150) % 6 = 0 then 0 else 1)
  else if n < 0x160 then 3
  else if n < 0x1E8 then 0
  else if n < 0x1EC then 1
  else if n < 0x1F0 then 3
  else if n < 0x20E then (n - 0x1F0) % 2
  else if n < 0x210 then 3
  else if n < 0x21B then 1
  else if n < 0x220 then 3
  else if n < 0x240 then 0
  else if n < 0x244 then (n - 0x240) % 2 + 1
  else if n < 0x250 then 3
  else if n < 0x254 then 1
  else if n < 0x263 then 2
  else if n < 0x264 then 3
  else if n < 0x26A then n % 2
  else if n < 0x270 then 3
  else if n < 0x280 then 1
  else 3

/-- A policer word (TCS_IPOL layout) from CIR, PIR, CBS and PBS. -/
def tcsWord (cir pir cbs pbs : Nat) : Word :=
  putF (putF (putF (putF 0 F.TCS_IPOL_CIR cir) F.TCS_IPOL_PIR pir) F.TCS_IPOL_CBS cbs) F.TCS_IPOL_PBS pbs

/-- The element indices of an offset within a row, if the row covers the offset. -/
def RegRow.index (r : RegRow) (off : Nat) : Option (Nat × Nat) :=
  if off < r.base then none
  else
    let d := off - r.base
    let i := d / r.s1
    let k := d % r.s1 / r.s2
    if i < r.n1 && k < r.n2 && d % r.s1 % r.s2 == 0 then some (i, k) else none

/-- The element of a row exists: the admin queue registers of unused requester indices are reserved (02_queues R44). -/
def RegRow.used (r : RegRow) (i : Nat) : Bool :=
  (r.base != R.TEN_ADMIN_SQ 0 && r.base != R.TEN_ADMIN_CQ 0) || decide (i % 2048 ≤ 1024)

/-- The row and indices of a BAR0 offset (8-byte aligned); none for a reserved offset (R426). -/
def findReg (off : Nat) : Option (RegRow × Nat × Nat) :=
  (regBlock (off / 0x100000)).findSome? fun r =>
    match r.index off with
    | some (i, k) => if r.used i then some (r, i, k) else none
    | none => none

/-- The domains a register element lies in: it answers while any of them does. -/
def DomRule.doms (d : DomRule) (i : Nat) : List Nat :=
  match d with
  | .fixed n => [n]
  | .plus n  => [n + i]
  | .port    => [if i < 64 then i else i + 2]
  | .lane    => [i / 4]
  | .block lo n => (List.range n).map (lo + ·)

/-- The domain that an access error names (Table 1.2): of several, the first. -/
def DomRule.dom (d : DomRule) (i : Nat) : Nat := (d.doms i).headD 0

/-- A register has a field that a write of 4 bytes at an offset reaches (R4). -/
def RegRow.reaches (r : RegRow) (off : Nat) : Bool :=
  r.fields.any fun f => f.acc != .ro && f.acc != .rc
    && decide (8 * (off % 8) ≤ f.hi) && decide (f.lo < 8 * (off % 8) + 32)

/-- The word made of the fields' reset values. -/
def RegRow.resetWord (r : RegRow) : Word :=
  r.fields.foldl (fun w f => putF w ⟨f.lo, f.hi - f.lo + 1⟩ f.reset) 0

/-- The reset value of the register at an offset: the fields' reset values, and the resets that the chapters'
prose gives per element: PWR_DOM_CTL (15_power: ENABLE 1 for domains 81, 86 and 92), FLT_SRC (CLASS of Table 16.2) and
TCS_OPOL (09_traffic). 0 at a reserved offset (R426). -/
def resetOf (off : Nat) : Word :=
  match findReg off with
  | none => 0
  | some (r, i, _) =>
    if r.base = 0x01100000 then (if i = 81 || i = 86 || i = 92 then 1 else 0)
    else if r.base = 0x01301000 then putF (putF 0 F.FLT_SRC_CLASS (fltClass i)) F.FLT_SRC_THRESHOLD 1
    else if r.base = 0x00901000 then
      if i % 8 = 0 then tcsWord 1000 10000 32 32
      else if i % 8 = 1 then tcsWord 2000 5000 256 256 else tcsWord 0 10000 256 256
    else r.resetWord

/-- The mask of the fields of the given access type. -/
def RegRow.mask (r : RegRow) (a : Access) : Word :=
  r.fields.foldl (fun w f => if f.acc = a then putF w ⟨f.lo, f.hi - f.lo + 1⟩ (2 ^ (f.hi - f.lo + 1) - 1) else w) 0

end Sys2Proof.Machine
end

