-- ==== Sys2Proof/Machine/Objects.lean ====
section
/-! DEFINITION. The objects the spec gives the block, as plain data: queues and jobs, PSN spaces,
matching contexts and messages, windows, collective groups, address spaces, packets in the router, ports,
functions, boot and management state. Where the manual numbers a status word as a register, that word lives in
the register map of `State`, not here. -/

namespace Sys2Proof.Machine

open Sys2Proof

/-! ### Queues (02_queues) -/

/-- An RQ entry that a doorbell has exposed, as the device's read of it found it: the entry, or the status with which the
ring access failed (R23, R34). -/
inductive RqEnt where
  | entry (e : Words8)
  | bad (status : Nat)
deriving DecidableEq, Repr

/-- Queue-pair states (Table 2.9). -/
inductive QpState where
  | reset | init | ready | draining | error | quarantine
deriving DecidableEq, Repr

/-- A scatter/gather element (R30). -/
structure Sge where
  addr : Nat
  len  : Nat
  hbm  : Bool
deriving DecidableEq, Repr

/-- A destination endpoint (Table 2.5, DEST; or the peer of a CONNECTED queue pair). -/
structure Dest where
  node : Nat
  qp   : Nat
  gen  : Nat
deriving DecidableEq, Repr

/-- Bytes read for a packet of a job or response: the position they were asked for, the tag of the host
read still outstanding, and the bytes once they are here. -/
structure ReadBuf where
  off : Nat
  len : Nat
  tag : Option Nat
  bytes : List Byte
deriving DecidableEq, Repr

/-- An outstanding GET_REQ or ATOMIC_REQ: its PSN, the part of the scatter list it covers, the bytes
placed so far, and the time its response last grew (R70, R114, R431). -/
structure GetReq where
  psn  : Psn
  base : Nat
  len  : Nat
  got  : Nat
  last : Nat
deriving DecidableEq, Repr

/-- A started job of a send queue (R28 to R33): what its entries say, and how far it has got. -/
structure Job where
  ring    : Count32
  entries : Nat
  op      : Nat
  cookie  : Word
  signal  : Bool
  batch   : Bool
  fence   : Bool
  solicit : Bool
  ord     : Bool
  tc      : Nat
  len     : Nat
  dst     : Dest
  e       : Words8
  sges    : List Sge
  inl     : List Byte
  rts     : Bool
  win     : Option Nat
  msn     : Msn
  flowNew : Bool
  pos     : Nat
  allSent : Bool
  gets    : List GetReq
  placed  : Nat
  respAck : Nat
  closing : Bool
  rd      : Option ReadBuf
  trapped : Bool
  status  : Option Nat
  bytes   : Nat
deriving DecidableEq, Repr

/-- Who sent a packet of a PSN space: a job, a response, or a rendezvous fetch. -/
inductive Owner where
  | job   (qp : Nat) (ring : Count32)
  | resp  (id : Nat)
  | fetch (id : Nat)
deriving DecidableEq, Repr

/-- An unacknowledged packet of a PSN space (R64 to R69): its header as first sent (no payload), where its
payload lies in its owner's data, whether the peer has marked it by SACK, whether it is due to be sent again, and
since when it has been refused BUSY. -/
structure Sent where
  psn    : Psn
  hdr    : Packet
  owner  : Owner
  off    : Nat
  len    : Nat
  marked : Bool
  due    : Bool
  busy   : Option Nat
deriving DecidableEq, Repr

/-- A packet refused BUSY that waits for its backoff and its resend (R68): the packet, the time its backoff
ends, and whether the backoff has ended. -/
structure Resend where
  sent  : Sent
  until_ : Nat
  ready : Bool
deriving DecidableEq, Repr

/-- One PSN space: the send and receive state of Table 3.2 and the acknowledgement state of R66. `past` keeps the acknowledged
packets of owners that still run: a NAK that an acknowledgement overtook may yet name one (R68). -/
structure Space where
  sendNext : Psn
  sendUna  : Psn
  sent     : List Sent
  past     : List Sent
  resends  : List Resend
  recvE    : Psn
  recvMap  : BitVec 256
  rto      : Nat
  retries  : Nat
  deadline : Option Nat
  cnLast   : Nat
  accepted : Nat
  ackAt    : Option Nat
  ackCn    : Nat
  ackTc    : Nat
  ackPkey  : BitVec 16
  nakSeq   : Option Psn
deriving DecidableEq, Repr

/-- A flow's send state (R57, R58, R185). -/
structure Flow where
  next    : Msn
  flowlet : Nat
  mark    : Bool
  first   : Bool
  quiet   : Nat
deriving DecidableEq, Repr

/-- A slot of the ordering gate that is not EMPTY (R86). -/
inductive GateSlot where
  | held | refused
deriving DecidableEq, Repr

/-- The ordering gate's state for one flow (R86): NEXT and the slots that are not EMPTY, and the time
a packet of the flow was last accepted or refused (R90). -/
structure Gate where
  next  : Msn
  slots : List (Msn × GateSlot)
  last  : Nat
deriving DecidableEq, Repr

/-- A command completion owed to a function: cookie, status, RESULT, ring index (Table 2.6, KIND 3). -/
structure CmdRef where
  fn     : Nat
  cookie : Word
  index  : Nat
deriving DecidableEq, Repr

/-- A queue pair (R21, R45 to R50). -/
structure Qp where
  fn       : Nat
  node     : Bool
  spray    : Bool
  mtu      : Nat
  sqDev    : Bool
  rqDev    : Bool
  noRq     : Bool
  sqLog    : Nat
  rqLog    : Nat
  sendCq   : Nat
  recvCq   : Nat
  eq       : Nat
  pkey     : BitVec 16
  asid     : Nat
  sqBase   : Nat
  rqBase   : Nat
  gen      : Nat
  slot     : Nat
  st       : QpState
  enable   : Bool
  cause    : Nat
  everReady : Bool
  remote   : Dest
  sp       : Space
  flow     : Flow
  gate     : Gate
  sqProd   : Count32
  sqCons   : Count32
  sqNext   : Count32
  rqProd   : Count32
  rqCons   : Count32
  jobs     : List Job
  uncov    : Nat
  lastJob  : Option Job
  drainAt  : Option Nat
  quarAt   : Nat
  destroy  : Option CmdRef
  rqHeld   : Nat
  rqBuf    : List RqEnt
  ghosts   : List Job
  flushCause : Option Nat
deriving DecidableEq, Repr

/-- A completion before it is written: the fields of Table 2.6 but TIME and PHASE, and the run of send-queue
entries it frees once written (R25). -/
structure Cqe where
  cookie : Word
  bytes  : Nat
  status : Nat
  qp     : Nat
  kind   : Nat
  info   : Nat
  batch  : Bool
  implicit : Bool
  solicited : Bool
  srcValid : Bool
  w3     : Word
  frees  : Option (Nat × Count32)
deriving DecidableEq, Repr

/-- Completion-queue states (R45, Table 2.8). -/
inductive CqState where
  | disabled | ready | draining | error
deriving DecidableEq, Repr

/-- How a CQ is armed (R41). -/
inductive Arm where
  | none | next | solicited
deriving DecidableEq, Repr

/-- A completion queue (R21, R38 to R41). `quals` says of each unconsumed entry, oldest first, whether
it qualifies for a solicited arm. -/
structure Cq where
  fn      : Nat
  logSize : Nat
  eq      : Nat
  asid    : Nat
  base    : Nat
  stallMs : Nat
  slot    : Nat
  st      : CqState
  enable  : Bool
  prod    : Count32
  cons    : Count32
  arm     : Arm
  quals   : List Bool
  waiting : List Cqe
  stallAt : Option Nat
  drainAt : Option Nat
deriving DecidableEq, Repr

/-- An event before it is written (R42). -/
structure Event where
  code   : Nat
  status : Nat
  object : Nat
  param0 : Word
  param1 : Word
deriving DecidableEq, Repr

/-- An event queue (R21, R42, R43). `raised` is the index of the last event that raised the vector; `waiting` holds
events whose ring page waits for a walk. -/
structure Eq where
  fn      : Nat
  logSize : Nat
  vector  : Nat
  asid    : Nat
  base    : Nat
  slot    : Nat
  prod    : Count32
  cons    : Count32
  armed   : Bool
  raised  : Option Count32
  lost    : Nat
  waiting : List Event
deriving DecidableEq, Repr

/-- What a doorbell slot is assigned to (R26). -/
inductive SlotObj where
  | qp (i : Nat)
  | cq (i : Nat)
  | eq (i : Nat)
deriving DecidableEq, Repr

/-! ### Transport and matching (03_transport, 04_matching) -/

/-- States of a node-pair context (Table 3.2). -/
inductive NpState where
  | idle | syncing | active
deriving DecidableEq, Repr

/-- A node-pair context (R55, Table 3.2, R74). -/
structure NodePair where
  st      : NpState
  peerInc : BitVec 16
  known   : Bool
  syncId  : BitVec 16
  ownSync : BitVec 16
  syncPsn : Psn
  ackPsn  : Psn
  sp      : Space
deriving DecidableEq, Repr

/-- The buffer of a receive: its elements, address space, owning queue pair and length. -/
structure Buffer where
  qp   : Nat
  asid : Nat
  sges : List Sge
  cap  : Nat
deriving DecidableEq, Repr

/-- The receive that a message is delivered to: the completion it will write (Table 2.6, Table 4.4). -/
structure RecvTo where
  kind   : Nat
  cq     : Nat
  cookie : Word
  ring   : Nat
  ctx    : Nat
deriving DecidableEq, Repr

/-- Where a message in placement stands (R70, R82, R87, R79). -/
inductive MsgAt where
  | held
  | unexpected
  | placing (buf : Buffer) (rcv : RecvTo)
deriving DecidableEq, Repr

/-- A SEND-type message at the target (R70): its header facts, the count of R70, the payload kept in the
store, and where it stands. -/
structure Msg where
  srcNode : Nat
  srcQp   : Nat
  srcGen  : Nat
  dstQp   : Nat
  msn     : Msn
  len     : Nat
  bits    : Word
  ctx     : Nat
  matched : Bool
  rts     : Bool
  key     : BitVec 32
  srcOff  : Word
  tc      : Nat
  pkey    : BitVec 16
  solicit : Bool
  node    : Bool
  count   : Nat
  store   : List (Nat × List Byte)
  at_     : MsgAt
  since   : Nat
  holdEnd : Nat
  charged : Bool
deriving DecidableEq, Repr

/-- A posted receive (R80, R100): the entry of Table 4.2 and whether it lies on die. -/
structure Posted where
  e     : Words8
  onDie : Bool
deriving DecidableEq, Repr

/-- Matching-context states (R78). -/
inductive MctxState where
  | ready | error | quarantine
deriving DecidableEq, Repr

/-- A matching context (R76 to R79). -/
structure Mctx where
  fn      : Nat
  qp      : Nat
  cq      : Nat
  postMax : Nat
  limit   : Nat
  st      : MctxState
  posted  : List Posted
  charge  : Nat
  high    : Bool
  quarAt  : Nat
deriving DecidableEq, Repr

/-- The closing GET of a rendezvous fetch (R95); sent, since when its answer is awaited (R431). -/
inductive Closing where
  | none
  | due (addr : Word)
  | sent (psn : Psn) (since : Nat)
  | done
deriving DecidableEq, Repr

/-- A closing GET is outstanding; under a PSN. -/
def Closing.out : Closing → Bool
  | .sent _ _ => true
  | _ => false
def Closing.is (c : Closing) (psn : Psn) : Bool := match c with
  | .sent p _ => p == psn
  | _ => false

/-- A rendezvous fetch at the target (R95): a receive whose bytes are fetched with GET_REQs; with
`disc` it is a discarded message's closing GET alone, or, with `ended`, a message whose receive has ended while requests of it
are outstanding: their answers are refused (R79). -/
structure Fetch where
  sp      : SpaceId
  dst     : Dest
  localQp : Nat
  tc      : Nat
  pkey    : BitVec 16
  node    : Bool
  key     : BitVec 32
  srcOff  : Word
  srcNode : Nat
  srcQp   : Nat
  bits    : Word
  solicit : Bool
  total   : Nat
  want    : Nat
  next    : Nat
  outs    : List GetReq
  placed  : Nat
  closing : Closing
  disc    : Bool
  ended   : Bool
  buf     : Buffer
  rcv      : RecvTo
deriving DecidableEq, Repr

/-- A response being sent (R71, R114, R115). `value` is an atomic's fetched value; `rdv` names the
rendezvous job whose transient window it serves; `gone` says that nothing further is sent for it, `refused` that a packet of it
has been refused (R118). -/
structure Resp where
  sp     : SpaceId
  psn    : Psn
  atomic : Bool
  qp     : Nat
  dst    : Dest
  node   : Bool
  tc     : Nat
  pkey   : BitVec 16
  mtu    : Nat
  win    : Nat
  base   : Nat
  len    : Nat
  pos    : Nat
  allSent : Bool
  value  : Word
  ready  : Bool
  rd     : Option ReadBuf
  gone   : Bool
  refused : Bool
  rdv    : Option (Nat × Count32)
deriving DecidableEq, Repr

/-! ### Windows (05_remote) -/

/-- Window states (Table 5.1). -/
inductive WinState where
  | free | open_ | revoking | quarantine
deriving DecidableEq, Repr

/-- A window table entry (Table 5.1), and a revoke in progress (R110). The accesses in flight are the reads and atomics of
its responses that are outstanding. -/
structure Window where
  base    : Nat
  hbm     : Bool
  read    : Bool
  write   : Bool
  atomic  : Bool
  anySrc  : Bool
  anyQp   : Bool
  st      : WinState
  gen     : BitVec 8
  len     : Nat
  owner   : Nat
  bindQp  : Nat
  asid    : Nat
  eq      : Nat
  srcNode : Nat
  srcQp   : Nat
  abandoned : Nat
  revoke  : Option CmdRef
  quarAt  : Nat
  faultAt : Option Nat
deriving DecidableEq, Repr

/-! ### Collective groups (06_collectives) -/

/-- Group states (R126). -/
inductive GrpState where
  | free | joining | ready | error | quarantine
deriving DecidableEq, Repr

/-- The descriptor of an operation (R129, R131). -/
structure CollDesc where
  op    : Nat
  dtype : Nat
  oper  : Nat
  mode  : Nat
  len   : Nat
deriving DecidableEq, Repr

/-- One edge of a group at this vertex: its port, far node, both credit channels (R138), and when silence on it, its next
keepalive and a gap in what it has sent come due (R146). -/
structure Edge where
  port    : Nat
  node    : Nat
  up      : Bool
  joined  : Bool
  sendSeq : BitVec 16
  limit   : BitVec 16
  recvd   : BitVec 16
  freed   : BitVec 16
  granted : BitVec 16
  sentByPeer : BitVec 16
  rxDue   : Nat
  txDue   : Nat
  gapDue  : Option Nat
  peerOp  : Option (BitVec 16)
deriving DecidableEq, Repr

/-- Where a chunk at a vertex came from: the edge to a node, or a local job. -/
inductive CollSrc where
  | edge (node : Nat)
  | local_ (ring : Count32)
  | result
deriving DecidableEq, Repr

/-- A chunk at a vertex that still takes its slot, a local contribution read for it, or a result that the root still places: its
pass, index, bytes and COUNT; whether it belongs to the next operation; its descriptor; for a DOWN chunk or a result the local
jobs for which it has been placed, and whether its placing is over (or is not needed). -/
structure Chunk where
  src   : CollSrc
  pass  : Nat
  idx   : Nat
  bytes : List Byte
  count : Nat
  next  : Bool
  desc  : CollDesc
  put   : List Count32
  used  : Bool
deriving DecidableEq, Repr

/-- A packet that the vertex owes on an edge (R139). -/
structure Owed where
  node  : Nat
  up    : Bool
  pass  : Nat
  idx   : Nat
  bytes : List Byte
  count : Nat
deriving DecidableEq, Repr

/-- The operation at a vertex (R131, R139): its descriptor, the local jobs that have joined, whether it is active here (its
first job has started, or a relay has its first packet), the packets owed, the next UP chunk of each pass, the group's codes,
the chunks placed or forwarded, the children whose DONE has arrived, the DONEs taken, and when its OP_TIMEOUT comes due. -/
structure CollOp where
  desc   : CollDesc
  jobs   : List Count32
  active : Bool
  owed   : List Owed
  expUp  : Nat
  dataUp : Nat
  exps   : Tbl (List Byte)
  downs  : Nat
  dones  : List (Nat × Nat)
  doneUp : Bool
  doneDown : Bool
  due    : Option Nat
deriving DecidableEq, Repr

/-- A collective group at this vertex (R124 to R150). `waiting` says that a job waits for the group to join, and when the
OP_TIMEOUT that started with it comes due. -/
structure Group where
  st      : GrpState
  gen     : BitVec 8
  lastGen : Option (BitVec 8)
  fn      : Nat
  pkey    : BitVec 16
  asid    : Nat
  bindQp  : Nat
  eq      : Nat
  localN   : Nat
  cwin    : Nat
  edges   : List Edge
  opSeq   : BitVec 16
  op      : Option CollOp
  chunks  : List Chunk
  reason  : Nat
  staging : Nat
  joinAt  : Nat
  destroy : Option CmdRef
  quarAt  : Nat
  waiting : Option (Option Nat)
deriving DecidableEq, Repr

/-! ### Translation (07_translation) -/

/-- An address space (R152). -/
structure Asid where
  root  : Nat
  owner : Nat
  grant : Nat
deriving DecidableEq, Repr

/-- A TLB leaf (Table 21.3): program page number (4 KiB units) of its first page, size 0 to 2, and the
leaf's fields. -/
structure Leaf where
  asid  : Nat
  page  : Nat
  size  : Nat
  w     : Bool
  attr  : Nat
  a     : Bool
  d     : Bool
  dev   : Bool
  bus   : Nat
deriving DecidableEq, Repr

/-- A walk-cache entry (R166): the table that the walk of a prefix reads at a level. -/
structure WalkEnt where
  asid  : Nat
  level : Nat
  pre   : Nat
  addr  : Nat
deriving DecidableEq, Repr

/-- Who makes the accesses of a step: the read of an SQ or RQ, the write of a CQ or EQ, a job, a response, an arriving packet, the
presentation of held messages to an RQ, a collective group, the admin command at the head of a function's queue; `none_` between
steps and for speculative walks. A walk that fills nothing serves only the access that asked for it (07_translation R166, R172). -/
inductive Asker where
  | none_
  | sq (qp : Nat)
  | rq (qp : Nat)
  | cq (i : Nat)
  | eq (i : Nat)
  | job (qp : Nat) (ring : Count32)
  | resp (i : Nat)
  | recv (p : Packet)
  | held (qp : Nat)
  | coll (grp : Nat)
  | cmd (fn : Nat)
deriving DecidableEq, Repr

/-- A request for a walk: address space, 4 KiB program page, whether for a write, whether speculative, the queue pair whose
mark trap it walks again for (R164), and who asked for it. -/
structure WalkReq where
  asid  : Nat
  page  : Nat
  write : Bool
  spec  : Bool
  trap  : Option Nat
  who   : Asker
deriving DecidableEq, Repr

/-- How a walk that filled nothing ended (R159, R163): a status, or a leaf lacking a mark. -/
inductive WalkEnd where
  | fail (status : Nat)
  | mark (dirty : Bool) (size : Nat)
  | once (bus : Nat) (attr : Nat)
deriving DecidableEq, Repr

/-- A walk in progress (R159): the level it is reading, the table it reads from, whether it fills
the cache, and the table entries that it has read (cached once it succeeds, R166). -/
structure Walk where
  req    : WalkReq
  level  : Nat
  addr   : Nat
  fills  : Bool
  path   : List WalkEnt
deriving DecidableEq, Repr

/-- A trap slot (R164, Table 21.3); `since` is when its MARK_REQUEST was written. -/
structure Trap where
  qp    : Nat
  asid  : Nat
  page  : Nat
  write : Bool
  dirty : Bool
  size  : Nat
  since : Nat
  due   : Nat
  resume : List CmdRef
deriving DecidableEq, Repr

/-- An access of a queue pair that needs a trap and waits for a slot (R164). -/
structure TrapReq where
  asid  : Nat
  page  : Nat
  write : Bool
  dirty : Bool
  size  : Nat
deriving DecidableEq, Repr

/-- What a non-posted host request was issued for. -/
inductive HReqFor where
  | walk (id : Nat)
  | job  (qp : Nat) (ring : Count32)
  | copy (qp : Nat) (ring : Count32)
  | resp (id : Nat)
  | atom (resp : Nat)
  | coll (grp : Nat) (ring : Count32) (pass idx : Nat)
  | dead
deriving DecidableEq, Repr

/-- The operation of an atomic request (Table 5.4). -/
structure AtomOp where
  aop     : Nat
  wide    : Bool
  operand : Word
  compare : Word
deriving DecidableEq, Repr

/-- A read or atomic outstanding on a host port or at an HBM interface (R116, R272): what it reads, in order (whether
in HBM, the address, the length), how many requests it is on the host port, and what it is for. -/
structure HReq where
  fn   : Nat
  for_ : HReqFor
  segs : List (Bool × Nat × Nat)
  reqs : Nat
  atom : Option AtomOp
deriving DecidableEq, Repr

/-- An ALLOC_HBM allocation (R14, R24): owner, HBM offset and size in 4 KiB units, aperture offset in 4 KiB
units (0 when not mapped). -/
structure Alloc where
  fn   : Nat
  off  : Nat
  size : Nat
  aper : Nat
deriving DecidableEq, Repr

/-! ### Functions (12_host) -/

/-- A reset drain (R279 to R282): its start, its cause for FUNC_RESET. -/
structure Drain where
  start : Nat
  cause : Nat
deriving DecidableEq, Repr

/-- A host function (R275 to R283). `atomEn` is AtomicOp Requester Enable and `devCtl` Device Control of its configuration space
(R123, R271). `msixTab` holds the MSI-X table's message addresses (word 2v) and data (word 2v + 1); the mask bits are `unmasked`. -/
structure Fn where
  bme     : Bool
  atomEn  : Bool
  devCtl  : BitVec 16
  held    : Bool
  drain   : Option Drain
  forced  : Bool
  resets  : Nat
  pktDrop : Nat
  dbDrop  : Nat
  keys    : List (BitVec 16)
  slots   : Tbl SlotObj
  asqProd : Count32
  asqCons : Count32
  acqProd : Count32
  acqCons : Count32
  asqHeld : Bool
  acqHeld : Bool
  acqWait : List (CmdRef × Nat × Word)
  running : Nat
  funcMask : Bool
  unmasked : List Nat
  pend    : List Nat
  msixTab : Tbl Word
deriving DecidableEq, Repr

/-! ### Router and output ports (08_routing, 09_traffic) -/

/-- A packet in the packet buffer: where it came in, where it goes, when it arrived, its grains, the bank of the rotation that holds
the first of them (R13), whether they come from the common pool, the class and lane they are charged to, and its PHASE on arrival. -/
structure BPkt where
  pkt     : Packet
  ingress : Nat
  egress  : Nat
  arr     : Nat
  age     : Nat
  grains  : Nat
  bank    : Nat
  pool    : Bool
  cls     : Nat
  lane    : Nat
  phase0  : Nat
deriving DecidableEq, Repr

/-- A policer's buckets (R202), in units of 1/10,000 byte, possibly negative after a debit, and the times of
their last refill. -/
structure Bucket where
  c  : Int
  p  : Int
  tc : Nat
  tp : Nat
deriving DecidableEq, Repr

/-- The scheduling state of an output port (R199, R200). -/
structure Sched where
  last : Tbl Nat
  v    : BitVec 40
  s    : Tbl (BitVec 40)
  f    : Tbl (BitVec 40)
deriving DecidableEq, Repr

/-! ### Ports: link layer and lanes (10_link, 11_lanes) -/

/-- A packet being received or sent on a link: the flits already there or still to go, and, for one being sent, its place
in the packet buffer before it was selected. -/
structure LinkPkt where
  pkt   : Packet
  flits : List Words8
  n     : Nat
  from_ : Option BPkt
deriving DecidableEq, Repr

/-- A stored block (R220). -/
structure Stored where
  bsn   : BitVec 12
  flits : List Flit
deriving DecidableEq, Repr

/-- A change request of this side or the peer (R232, R234): REQ_ID, OP, LANES, requester identity, speed. -/
structure ChangeReq where
  id    : BitVec 8
  op    : Nat
  lanes : BitVec 4
  who   : Nat
  speed : Bool
deriving DecidableEq, Repr

/-- A change in progress at a port in CHANGE (R232): the agreed request and set, when CHANGE_LIMIT ends, whether PAUSE is queued,
when PAUSE_WAIT ends after it left in the block `pauseBsn`, whether the peer's came and is acknowledged, and whether the lanes are
with the retrain or back from it. -/
structure Change where
  req     : ChangeReq
  mine    : Bool
  result  : BitVec 4
  before  : BitVec 4
  due     : Nat
  pausing : Bool
  pauseTx : Option Nat
  pauseBsn : Option (BitVec 12)
  pauseRx : Bool
  pauseAcked : Bool
  handed  : Bool
  trained : Bool
deriving DecidableEq, Repr

/-- The ways in which a fabric lane trains (11_lanes Table 11.3). -/
inductive TrainKind where
  | cold | warm | recal
deriving DecidableEq, Repr

/-- How a fabric lane trains (11_lanes R250, LAN_CTL): its way, MEDIUM, PRECODE and polarity. -/
structure LaneTrain where
  lane   : Nat
  kind   : TrainKind
  medium : Nat
  precode : Bool
  txInvert : Bool
  rxInvert : Bool
deriving DecidableEq, Repr

/-- A port: link-layer sequence and replay state, framing and credits (10_link R214 to R229): `replayDue` ends the replay timer,
`ackOpen` counts the flits still to come of the packets open below UNA, innermost first, and `stall` says when a lane's head packet
has waited for credit too long. State, cause, lanes and counters lie in its registers. -/
structure Port where
  next     : BitVec 12
  una      : BitVec 12
  e        : BitVec 12
  nak      : Bool
  nakDue   : Bool
  store    : List Stored
  replay   : Option (BitVec 12)
  replayFrom : Option (BitVec 12)
  replays  : Nat
  replayDue : Nat
  ackOpen  : List Nat
  lastFmt1 : Bool
  lastAck  : BitVec 12
  rxMain   : Option LinkPkt
  rxPre    : Option LinkPkt
  txMain   : Option LinkPkt
  txPre    : Option LinkPkt
  ctrl     : List Words8
  credit   : Tbl Nat
  seen     : Tbl Count32
  freed    : Tbl Count32
  carried  : Tbl Count32
  uncarried : Tbl Nat
  stall    : Tbl Nat
deriving DecidableEq, Repr

/-- The training exchange of a port, its changes, lane blames and idle accounting (R229 to R238, R344, R404), the grains sent and
received since its activity was last sampled (Table 15.3), and its lanes: the set being trained with the time it may take in µs; by
lane the markers or COM rows missed in a row, and the codewords decoded with those that blamed it; the running disparity of each
data lane in either direction, and the data lanes that locked (11_lanes). -/
structure PortX where
  initRx   : Bool
  probesTx : Nat
  probesRx : Nat
  rtt      : Nat
  credRx0  : Bool
  credRx1  : Bool
  timed    : Bool
  peerUsable : BitVec 4
  ownReq   : Option ChangeReq
  peerReq  : Option ChangeReq
  again    : List ChangeReq
  nextReq  : BitVec 8
  change   : Option Change
  breakAt  : Option (Option (BitVec 12 × Nat))
  cmd      : Bool
  initDue  : Nat
  training : Option (BitVec 4 × Nat)
  trainAt  : Option Nat
  graceAt  : Option Nat
  lastTime : Option (Word × Word)
  blames   : Tbl (Nat × Nat)
  idleRun  : Nat
  blocks   : Nat
  rxBlocks : Nat
  idleSince : Nat
  winTx    : Nat
  winRx    : Nat
  actTx    : Nat
  actRx    : Nat
  tcsHeld  : Bool
  missed   : Tbl Nat
  words    : Tbl Nat
  fecBad   : Tbl (List Nat)
  txRd     : BitVec 16
  rxRd     : BitVec 16
  locked   : BitVec 16
deriving DecidableEq, Repr

/-! ### Semaphore unit, boot, power, faults (13 to 18) -/

/-- A span request of this device that awaits its answer (R302, R303). -/
structure SpanReq where
  rid    : Nat
  kind   : Nat
  cell   : Nat
  size   : Nat
  low    : Nat
  due    : Nat
deriving DecidableEq, Repr

/-- A NOTICE not yet answered (R304). -/
structure NoticeReq where
  tag    : Nat
  origin : Nat
  all    : Bool
  due    : Nat
deriving DecidableEq, Repr

/-- What the boot is waiting for (Table 14.5, R310). -/
inductive FlashWait where
  | none
  | directory
  | slot (b second : Bool)
  | blob
deriving DecidableEq, Repr

/-- An SPDM endpoint (R327): how far its connection has got, and its sessions. -/
structure Spdm where
  stage    : Nat
  sessions : List (Nat × Bool)
  chunk    : Option (Nat × Nat)
deriving DecidableEq, Repr

/-- The mailbox state of a DOE instance (R285): an exchange in progress, an object ready for the host, DOE Error. -/
structure Doe where
  busy    : Bool
  pending : Bool
  error   : Bool
deriving DecidableEq, Repr

/-- A staged or activating update of a pair (R332, R333): the image held, the FW_ACTIVATE in progress, and whether the active core has
failed while the standby loads. -/
structure Update where
  staged   : Option Image
  running  : Option CmdRef
  lost     : Bool
deriving DecidableEq, Repr

/-- A rule's argument as its last entry took it (R352), and its record bookkeeping (R350). -/
structure RuleSt where
  arg     : Word
  lastRec : Option Nat
  missed  : Nat
deriving DecidableEq, Repr

/-- The state of a power domain beside its registers (R338 to R342): when its drain began, who switched it last, whether an entry
into SLEEP is in progress, and when its power-up or wake began and when it last reached ON. -/
structure Dom where
  drainAt : Option Nat
  by_     : Nat
  entry   : Bool
  upAt    : Nat
  onAt    : Nat
deriving DecidableEq, Repr

/-- What a spare bank of the packet buffer is used for (R367, R374, R381): a failed bank is being copied onto it (`yielded`:
self-test gave it up for this); it stands for that bank; a bank under test is being copied onto it, or has been and it stands
for it (`moved`); it is being copied back to such a bank; it is under test itself; a fused replacement; retired. -/
inductive SpareUse where
  | free
  | copying (bank : Nat) (yielded : Bool)
  | repairs (bank : Nat)
  | testing (bank : Nat) (moved : Bool)
  | returning (bank : Nat)
  | marching
  | fused (bank : Nat)
  | retired
deriving DecidableEq, Repr

/-- The self-test slice that runs (R374 to R376): its kind and unit, whether it was commanded, and whether a bank slice is copying
back. -/
structure Slice where
  kind      : Nat
  unit_     : Nat
  commanded : Bool
  back      : Bool
deriving DecidableEq, Repr

/-- A record of the event recorder before its slot is written (R385 to R388). -/
structure Rec where
  code     : Nat
  severity : Nat
  source   : Nat
  valid    : Bool
  time     : Word
  p0 : Word
  p1 : Word
  p2 : Word
  p3 : Word
  p4 : Word
deriving DecidableEq, Repr

/-- What the block does outside itself, in order. The requests of a read are bus address, length and No Snoop. -/
inductive Out where
  | hostWrite (fn bus : Nat) (relaxed noSnoop : Bool) (data : List Byte)
  | hostRead (fn tag : Nat) (requests : List (Nat × Nat × Bool))
  | walkRead (fn tag bus : Nat)
  | hostAtomic (fn tag bus aop : Nat) (wide noSnoop : Bool) (operand compare : Word)
  | msix (fn vector : Nat)
  | coreInterrupt (core : Nat)
  | readReturn (rid : Nat) (value : Word) (bytes : Nat)
  | atomicReturn (rid : Nat) (value : Word) (bytes : Nat)
  | block (port : Nat) (b : Block)
  | marker (port lane : Nat) (m : BitVec 120)
  | symbols (port : Nat) (rows : List Row10)
  | electricalIdle (port : Nat) (announced : Bool)
  | exitSignal (port : Nat) (lanes : BitVec 4)
  | train (port : Nat) (lanes : BitVec 4) (how : List LaneTrain)
  | spanTrain (port : Nat) (groups : BitVec 4) (speed : Nat) (pattern tail : List Sym)
  | flashRead (r : FlashRegion)
  | flashRelease
  | pinAlive (level : Bool)
  | pinThermtrip (asserted : Bool)
  | vcore (step : Nat)
  | vselEn (level : Bool)
  | mctp (answer : List Byte)
  | smbus (answer : List Byte)
  | spdm (ep : Endpoint) (code : Nat) (body : List Byte)
  | doeObject (host : Nat)
  | configReset (fn : Nat)
  | hostIdle (host : Nat)
deriving DecidableEq, Repr

end Sys2Proof.Machine
end

