-- ==== Sys2Proof/Machine/State.lean ====
section
/-! DEFINITION. The state of the LK7400: every register, table, queue, buffer, timer and pin the manual gives the
block, as plain data; the queue of waiting commands; what the block has done outside itself; the reasons a step
can stop; and the state right after reset. -/

namespace Sys2Proof.Machine

open Sys2Proof

/-- Why a step stops with a fault. No meaning raises one: every event the manual describes has a next state (log 2). -/
inductive Fault where
  /-- Raised by no command; kept so that the type has a value. Safe. -/
  | unreachable
deriving DecidableEq, Repr

/-- Why a step is refused. -/
inductive Refusal where
  /-- Raised by `exec` for a command that has no meaning yet. Safe: nothing can be proved of it. -/
  | notModelled (mnemonic : String)
deriving DecidableEq, Repr

/-- Queues, work entries and completions; functions, their admin queues and their quotas (02_queues, 12_host; `Config.quotas`). -/
structure Queues where
  fns    : Tbl Fn
  qps    : Tbl Qp
  cqs    : Tbl Cq
  eqs    : Tbl Eq
  gens   : Tbl Nat
  allocs : List Alloc
  quotas : Tbl Nat
deriving DecidableEq, Repr

/-- Transport state outside the queue pairs (03_transport): node-pair contexts by peer node, flow entries,
gate entries, responses, outstanding host requests by tag, the history of the stale limit (R73), and the discards that the manual
counts and gives no register for, by kind (03_transport, 04_matching; `Drop`). -/
structure Transport where
  nodes   : Tbl NodePair
  flows   : Tbl Flow
  gates   : Tbl Gate
  resps   : Tbl Resp
  hreqs   : Tbl HReq
  tag     : Nat
  peerInc : Tbl (BitVec 16)
  stales  : List (Nat × Nat)
  tally   : Tbl Nat
deriving DecidableEq, Repr

/-- Message matching (04_matching): contexts, messages in placement or unexpected, rendezvous fetches. -/
structure Matching where
  ctxs    : Tbl Mctx
  msgs    : List Msg
  fetches : Tbl Fetch
deriving DecidableEq, Repr

/-- Address translation (07_translation). `missed` holds the walks that the accesses of the step in progress need, and `asker` who
makes them; both are empty between steps. -/
structure Xlt where
  asids   : Tbl Asid
  tlb     : List Leaf
  wcache  : List WalkEnt
  walks   : Tbl Walk
  waiting : List WalkReq
  missed  : List WalkReq
  asker   : Asker
  ends    : List (WalkReq × WalkEnd)
  traps   : Tbl Trap
  trapWait : Tbl TrapReq
  invals  : Tbl (List CmdRef)
deriving DecidableEq, Repr

/-- The router core and the packet buffer (08_routing, 09_traffic): packets received and not yet input, packets
waiting for the injection policer by class, packets injected, packets of the collective clusters and the management complex that wait
at their local positions with the port each goes to, the place of the rotation over the banks that the next grain takes (R13),
buffered packets not yet queued, lane queues by
port and lane, packets steered to this node's units, grains held by source, the credit returns withheld by ingress lane (R209),
the times the records of R192 and R194 were last due and the refusals and discards since them, when a flip or copy of the route
table is due, who asked for the flip and how many words the copy has reached, and the pointers of R182 by ingress. -/
structure Router where
  arrived  : List (Nat × Packet)
  inject   : Tbl (List Packet)
  injected : List Packet
  entering : List (Nat × Packet)
  bank     : Nat
  buffered : List BPkt
  queues   : Tbl (List BPkt)
  localQ   : List BPkt
  resHeld  : Tbl Nat
  poolHeld : Tbl Nat
  debt     : Tbl Nat
  ipol     : Tbl Bucket
  opol     : Tbl Bucket
  sched    : Tbl Sched
  hopAt    : Option Nat
  hopN     : Nat
  pkeyAt   : Option Nat
  pkeyN    : Nat
  flipBy   : Option Nat
  copying  : Option Nat
  ptrs     : Tbl Nat
deriving DecidableEq, Repr

/-- The traffic-class set in force, where it differs from the reset values (09_traffic R207), and a commit that
is not yet in force. -/
structure Tcs where
  force  : Tbl Word
  coming : Option (Tbl Word)
deriving DecidableEq, Repr

/-- Ports and fabric time (10_link): the measurements of the current interval with the DEADBAND and STEP_MAX that apply to it (R240),
the slew still to gain, and the time passed towards its next nanosecond. -/
structure Links where
  ports   : Tbl Port
  exch    : Tbl PortX
  meas    : List (Nat × Int × Nat)
  slew    : Nat
  slewRem : Nat
  deadband : Nat
  stepMax : Nat
  nextTick : Nat
deriving DecidableEq, Repr

/-- The host ports (12_host): DOE mailboxes, SPDM endpoints by number, streams in Insecure, and the doorbells and
ring-aperture writes that a host port holds for a sleeping domain (15_power R342). -/
structure HostIf where
  doe      : Tbl Doe
  spdm     : Tbl Spdm
  insecure : List (Nat × Nat)
  heldDb   : List Instr
deriving DecidableEq, Repr

/-- The interrupt controller (12_host R286 to R290): sources in service and mask windows by target. -/
structure Irc where
  service : List (Nat × Nat)
  windows : Tbl Nat
deriving DecidableEq, Repr

/-- The semaphore unit (13_semaphore): cells that are not 0, recorded peer incarnations by position, span
requests of this device by span port and tag, and unanswered NOTICEs by span port. -/
structure Sem where
  cells   : Tbl Word
  incs    : Tbl (BitVec 16)
  reqs    : Tbl SpanReq
  notices : Tbl (List NoticeReq)
  tag     : Nat
deriving DecidableEq, Repr

/-- Start, fuses and updates (14_start): power pins, the flash read in progress, fuses, the boot log, and the
updates of the two pairs. -/
structure Boot where
  ao       : Bool
  pwrGood  : Bool
  pgAt     : Nat
  fellAt   : Option Nat
  holding  : Bool
  counted  : Bool
  bootSrc  : Bool
  wait     : FlashWait
  image    : Option Image
  lcNext   : Nat
  lc       : Nat
  ownerHash : BitVec 384
  beniusHash : BitVec 384
  ownerFused : Bool
  idCert   : Bool
  noSecret : Bool
  svnMin   : Nat
  spareFuse : Tbl Nat
  log      : List Rec
  cdi      : BitVec 384
  eid      : BitVec 8
  ringUnits : Nat
  updates  : Tbl Update
deriving DecidableEq, Repr

/-- Power domains, clocks and the Fathom unit (15_power): the domains; guard, trip, the VDD_CORE step with the
time of its last move and CORE_VSEL_EN; when each channel was last sampled; of each clock input
the bad checks in a row, the time of its last check, since when it has been back, and since when it has been lost; the filtered
values with 16 fraction bits and the rules; the calendar, its error still to be slewed, its captured difference from fabric
time, who asked for it to be set at the next PPS edge, and the record of PPS edges with the last e. -/
structure Power where
  doms     : Tbl Dom
  guard    : Bool
  trip     : Bool
  vcore    : Nat
  vcoreAt  : Nat
  vselEn   : Bool
  chanAt   : Tbl Nat
  clkBad   : Tbl Nat
  clkAt    : Tbl Nat
  clkBack  : Tbl Nat
  clkLost  : Tbl Nat
  y        : Tbl Nat
  rules    : Tbl RuleSt
  cal      : Nat
  calErr   : Int
  calRem   : Nat
  calOfs   : Int
  setAtPps : Option Nat
  ppsAt    : Option Nat
  ppsRun   : Nat
  ppsBad   : Nat
  ppsOn    : Bool
deriving DecidableEq, Repr

/-- Faults and self-test (16_faults, 17_self_test): window counts, when the window began, sources already reported in it; spare
banks, bank repairs waiting for a copy back, HBM channels being rebuilt by interface; the level of ALIVE and its last change; the
running slice, a commanded slice that waits, a full test in progress, the rotation's next unit, the last attempt; refusals since the
last record of one, its time; the retired cache segments; when the fatal state was entered. -/
structure Faults where
  window   : Tbl Nat
  winAt    : Nat
  reported : List Nat
  spares   : Tbl SpareUse
  waitRep  : List Nat
  rebuild  : Tbl Nat
  alive    : Bool
  aliveAt  : Nat
  slice    : Option Slice
  cmd      : Option (Nat × Nat)
  full     : Bool
  rot      : Nat
  tryAt    : Nat
  stMissed : Nat
  stAt     : Option Nat
  segs     : List Nat
  ftAt     : Nat
deriving DecidableEq, Repr

/-- Event recorder and lifetime data (18_recorder): MRAM slots, era, counts, the queue, a clear in progress;
lifetime words, accumulators, the thermal-cycle tracker, and when the last second and the last hour were taken. -/
structure Recorder where
  slots    : Tbl (List Word)
  era      : BitVec 16
  used     : Nat
  lost     : Nat
  queue    : List Rec
  clearing : Option (CmdRef × Rec)
  words    : Tbl Nat
  acc      : Tbl Nat
  tracker  : Option (Bool × Nat)
  closed   : Bool
  closing  : Bool
  secAt    : Nat
  hourAt   : Nat
deriving DecidableEq, Repr

/-- The counter unit (19_performance_counters): whether the bandwidth window in progress was cut short. -/
structure Counting where
  cut : Bool
deriving DecidableEq, Repr

/-- The state of the block. -/
structure State where
  /-- commands waiting, first in first out -/
  pending : List Instr
  /-- what the block has done outside itself, oldest first -/
  out     : List Out
  /-- the model's own counter of free values (log 4) -/
  free    : Nat
  /-- local time in ns, from the start of the model's run -/
  now     : Nat
  /-- fabric time in ns (R236) -/
  ft      : Nat
  /-- BAR0 registers whose value is not their reset value -/
  regs    : Tbl Word
  /-- HBM bytes that are not 0 (log 3) -/
  hbm     : List Host.Cell
  ten     : Queues
  tra     : Transport
  mat     : Matching
  wins    : Tbl Window
  grps    : Tbl Group
  xlt     : Xlt
  rte     : Router
  tcs     : Tcs
  lnk     : Links
  hst     : HostIf
  irc     : Irc
  sem     : Sem
  boot    : Boot
  pwr     : Power
  flt     : Faults
  evr     : Recorder
  cnt     : Counting
deriving DecidableEq, Repr

/-- The state right after reset: the always-on power-on reset has ended and PWR_GOOD is low (20_package
Table 20.11), so nothing but domain 92 runs, every register holds its reset value, and no command waits. Fuses: life
cycle PROVISIONED and no owner key, as the ordering code LK7400-B1-LP ships (Table 20.15); the other fuse and
MRAM contents are DESIGN CHOICES (log 6). -/
def State.reset : State where
  pending := []
  out := []
  free := 0
  now := 0
  ft := 0
  regs := []
  hbm := []
  ten := { fns := [], qps := [], cqs := [], eqs := [], gens := [], allocs := [], quotas := Config.quotas }
  tra := { nodes := [], flows := [], gates := [], resps := [], hreqs := [], tag := 0, peerInc := [], stales := [], tally := [] }
  mat := { ctxs := [], msgs := [], fetches := [] }
  wins := []
  grps := []
  xlt := { asids := [], tlb := [], wcache := [], walks := [], waiting := [], missed := [], asker := .none_, ends := [], traps := [], trapWait := [], invals := [] }
  rte := { arrived := [], inject := [], injected := [], entering := [], bank := 0, buffered := [], queues := [], localQ := [], resHeld := [],
           poolHeld := [], ipol := [], opol := [], sched := [], debt := [], hopAt := none, hopN := 0, pkeyAt := none, pkeyN := 0, flipBy := none,
           copying := none, ptrs := [] }
  tcs := { force := [], coming := none }
  lnk := { ports := [], exch := [], meas := [], slew := 0, slewRem := 0, deadband := 4, stepMax := 0, nextTick := 0 }
  hst := { doe := [], spdm := [], insecure := [], heldDb := [] }
  irc := { service := [], windows := [] }
  sem := { cells := [], incs := [], reqs := [], notices := [], tag := 0 }
  boot := { ao := true, pwrGood := false, pgAt := 0, fellAt := none, holding := false, counted := false,
            bootSrc := false, wait := .none, image := none, lcNext := 2, lc := 2, ownerHash := 0, beniusHash := 0,
            ownerFused := false, idCert := true, noSecret := false, svnMin := 0, spareFuse := [], log := [], cdi := 0, eid := 0,
            ringUnits := 0, updates := [] }
  pwr := { doms := [], guard := false, trip := false, vcore := 5, vcoreAt := 0, vselEn := false, chanAt := [], clkBad := [], clkAt := [], clkBack := [],
           clkLost := [], y := [], rules := [], cal := 0, calErr := 0, calRem := 0, calOfs := 0, setAtPps := none, ppsAt := none,
           ppsRun := 0, ppsBad := 0, ppsOn := false }
  flt := { window := [], winAt := 0, reported := [], spares := [], waitRep := [], rebuild := [], alive := false,
           aliveAt := 0, slice := none, cmd := none, full := false, rot := 0, tryAt := 0, stMissed := 0, stAt := none, segs := [], ftAt := 0 }
  evr := { slots := [], era := 0, used := 0, lost := 0, queue := [], clearing := none, words := [], acc := [],
           tracker := none, closed := true, closing := false, secAt := 0, hourAt := 0 }
  cnt := { cut := false }

end Sys2Proof.Machine
end

