-- ==== Sys2Proof/Machine/Flags.lean ====
section
/-! DEFINITION. Check codes: the CRC-32C of packets and records (03_transport R61), the CRC-32 of link blocks
(10_link R216), the CRC-8 of credit sequences (11_lanes R258), and parity. -/

namespace Sys2Proof.Machine

open Sys2Proof

/-- One bit of a reflected CRC of 32 bits with the reversed polynomial `poly`. -/
def crcBit (poly : BitVec 32) (r : BitVec 32) : BitVec 32 :=
  if r.toNat % 2 = 1 then (r >>> 1) ^^^ poly else r >>> 1

/-- One byte of a reflected CRC of 32 bits. -/
def crcByte (poly r : BitVec 32) (b : Byte) : BitVec 32 :=
  let r := r ^^^ b.setWidth 32
  crcBit poly (crcBit poly (crcBit poly (crcBit poly (crcBit poly (crcBit poly (crcBit poly (crcBit poly r)))))))

/-- A reflected CRC of 32 bits over bytes: initial value all ones, final complement. -/
def crcRefl (poly : BitVec 32) (bs : List Byte) : BitVec 32 :=
  ~~~ (bs.foldl (crcByte poly) 0xFFFFFFFF#32)

/-- CRC-32C (03_transport R61): polynomial 0x1EDC_6F41, reversed. -/
def crc32c (bs : List Byte) : BitVec 32 := crcRefl 0x82F63B78#32 bs

/-- CRC-32 of IEEE 802.3 (10_link R216): polynomial 0x04C1_1DB7, reversed. -/
def crc32 (bs : List Byte) : BitVec 32 := crcRefl 0xEDB88320#32 bs

/-- One bit of the CRC-8 with polynomial 0x07. -/
def crc8Bit (r : Byte) : Byte := if r.toNat < 128 then r <<< 1 else (r <<< 1) ^^^ 0x07#8

/-- CRC-8 (11_lanes R258): polynomial 0x07, initial value 0. -/
def crc8 (bs : List Byte) : Byte :=
  bs.foldl (fun r b => crc8Bit (crc8Bit (crc8Bit (crc8Bit (crc8Bit (crc8Bit (crc8Bit (crc8Bit (r ^^^ b))))))))) 0

/-- The number of ones among the low `n` bits of `v`. -/
def onesOf (n v : Nat) : Nat := (List.range n).foldl (fun a i => a + v / 2 ^ i % 2) 0

/-- The even parity of a list of bytes. -/
def parityOf (bs : List Byte) : Bool := (bs.foldl (fun a b => a + onesOf 8 b.toNat) 0) % 2 == 1

end Sys2Proof.Machine
end

