-- ==== Sys2Proof/Machine/Ops.lean ====
section
/-! DEFINITION. The named operations over the state that every family shares: time, registers, HBM, outputs, free
values, functions and domains, records of the event recorder, MSI-X messages, admin commands and completions. -/

namespace Sys2Proof.Machine

open Sys2Proof

/-! ### Registers (00_scope R3, R4) -/

/-- A register's value as stored. -/
def State.rd (s : State) (off : Nat) : Word :=
  match s.regs.get? off with
  | some w => w
  | none => resetOf off

/-- A field of a register. -/
def State.rdF (s : State) (off : Nat) (f : Fld) : Nat := getF (s.rd off) f

/-- Store a register's value; the table lists only values that are not the reset value. -/
def regPut (t : Tbl Word) (off : Nat) (w : Word) : Tbl Word :=
  if w = resetOf off then t.erase off else t.set off w

/-- The state with a register's value set. -/
def State.wr (s : State) (off : Nat) (w : Word) : State := { s with regs := regPut s.regs off w }

/-- The state with a field of a register set. -/
def State.wrF (s : State) (off : Nat) (f : Fld) (v : Nat) : State := s.wr off (putF (s.rd off) f v)

/-- The state with fields of a register set, in order. -/
def State.wrFs (s : State) (off : Nat) (fs : List (Fld × Nat)) : State :=
  s.wr off (fs.foldl (fun w p => putF w p.1 p.2) (s.rd off))

/-- The registers that do not satisfy a condition fall back to their reset values. -/
def State.keepRegs (s : State) (keep : Nat → Bool) : State := { s with regs := s.regs.filter fun p => keep p.1 }

/-- A timer field in its range. -/
def State.tmr (s : State) (off : Nat) (f : Fld) (lo hi : Nat) : Nat := clamp lo hi (s.rdF off f)

/-- A counting field advanced, saturating at its width. -/
def State.bump (s : State) (off : Nat) (f : Fld) (n : Nat) : State :=
  s.wrF off f (satAdd (2 ^ f.n - 1) (s.rdF off f) n)

/-- A field that captures the first of several causes: its words are set while its VALID bit is 0, and afterwards
only LOST is set (R12, R193, R299, R339). -/
def State.capture (s : State) (off : Nat) (valid lost : Fld) (fs : List (Fld × Nat)) : State :=
  if s.rdF off valid = 1 then s.wrF off lost 1 else s.wrFs off (fs ++ [(valid, 1)])

/-! ### HBM -/

/-- One byte of a sparse memory; a byte that is not listed reads 0 (DESIGN CHOICE, log 3). -/
def memGet (m : List Host.Cell) (a : Nat) : Byte :=
  match m with
  | [] => 0
  | (k, b) :: m => if k = a then b else memGet m a

/-- Store one byte, keeping the addresses rising and no byte that is 0 listed. -/
def memPut (m : List Host.Cell) (a : Nat) (v : Byte) : List Host.Cell :=
  match m with
  | [] => if v = 0 then [] else [(a, v)]
  | (k, b) :: m =>
    if a < k then (if v = 0 then (k, b) :: m else (a, v) :: (k, b) :: m)
    else if a = k then (if v = 0 then m else (a, v) :: m)
    else (k, b) :: memPut m a v

/-- The canonical form of a memory: rising addresses, no byte that an unlisted address reads as. -/
def memWf (m : List Host.Cell) : Bool :=
  decide ((m.map Prod.fst).Pairwise (· < ·)) && m.all fun c => c.2 != 0

/-- Store bytes from an address upward. -/
def memPuts (m : List Host.Cell) (a : Nat) (bs : List Byte) : List Host.Cell :=
  match bs with
  | [] => m
  | b :: bs => memPuts (memPut m a b) (a + 1) bs

/-- Bytes of HBM from an address upward. -/
def State.hbmRead (s : State) (a n : Nat) : List Byte := (List.range n).map fun i => memGet s.hbm (a + i)

/-- Bytes stored in HBM. -/
def State.hbmWrite (s : State) (a : Nat) (bs : List Byte) : State := { s with hbm := memPuts s.hbm a bs }

/-- The size of HBM (01_architecture Table 1.4): 48 GiB. -/
def hbmSize : Nat := 48 * 2 ^ 30

/-- The start of the device-resident ring region: the fixed regions of Table 1.4 lie below it (the manual gives
the sizes and no addresses; DESIGN CHOICE, log 7). -/
def ringBase : Nat := 7 * 2 ^ 30

/-! ### Outputs, free values, time -/

/-- The state with something done outside the block. -/
def State.emit (s : State) (o : Out) : State := { s with out := s.out ++ [o] }

/-- A free value: the next opaque value, with the counter advanced (log 4). -/
def State.freeVal (s : State) : Word × State := (Config.freeValue s.free, { s with free := s.free + 1 })

/-- What a slew of 500 ppm gains in `d` ns towards an amount, after `r` ns that have gained nothing yet (R238). -/
def slewGain (amount r d : Nat) : Nat := if (r + d) / 2000 < amount then (r + d) / 2000 else amount

/-- The time passed towards the next nanosecond of a slew; none once the amount is gained. -/
def slewLeft (amount r d : Nat) : Nat := if (r + d) / 2000 < amount then (r + d) % 2000 else 0

/-- What the calendar removes of its error in `d` ns: at most 500 ppm (R354). -/
def calGain (err : Int) (r d : Nat) : Int :=
  if err < 0 then -(slewGain err.natAbs r d : Int) else slewGain err.natAbs r d

/-- Fabric time as a word. -/
def State.ftWord (s : State) : Word := w64 s.ft

/-! ### Identity, domains, fatal state -/

/-- This device's node ID (08_routing R174). -/
def State.node (s : State) : Nat := s.rdF R.RTE_NODE F.RTE_NODE_NODE_ID

/-- This device's identity (R307): KMU_DEV_ID. -/
def State.devId (s : State) : Word := s.rd R.KMU_DEV_ID

/-- The boot count (18_recorder Table 18.5, word 1). -/
def State.bootCount (s : State) : Nat := (s.evr.words.get? 1).getD 0

/-- The incarnation of this boot (R74): the boot count modulo 2^16. -/
def State.inc (s : State) : BitVec 16 := BitVec.ofNat 16 s.bootCount

/-- The state code of a domain (PWR_DOM_STAT.STATE): 0 OFF, 1 POWERING_UP, 2 ON, 3 DRAINING, 4 SLEEP, 5 WAKING. -/
def State.domState (s : State) (d : Nat) : Nat := s.rdF (R.PWR_DOM_STAT d) F.PWR_DOM_STAT_STATE

/-- The domain is ON. -/
def State.domOn (s : State) (d : Nat) : Bool := s.domState d == 2

/-- The domain's logic runs: ON, or DRAINING. -/
def State.domRuns (s : State) (d : Nat) : Bool := s.domState d == 2 || s.domState d == 3

/-- The device is in the fatal state (R362). -/
def State.fatal (s : State) : Bool := s.rdF R.FLT_STAT F.FLT_STAT_FATAL == 1

/-- The domain of a port code: fabric ports 0 to 63, span ports 64 to 66 in domains 66 to 68 (Tables 1.2, 8.5). -/
def portDom (p : Nat) : Nat := if p < 64 then p else p + 2

/-- The data path runs (R362): not in the fatal state, and the crossbar domain on. -/
def State.live (s : State) : Bool := !s.fatal && s.domOn 91

/-- The boot stage of BOOT_STAT. -/
def State.stage (s : State) : Nat := s.rdF R.BOOT_STAT F.BOOT_STAT_STAGE

/-! ### Requester identities and functions (R6, 12_host) -/

/-- The class of a requester identity. -/
def ridClass (rid : Nat) : Nat := rid / 4096 % 16

/-- A physical function: index 0 of either host port. -/
def isPf (f : Nat) : Bool := f == 0 || f == 0x800

/-- The host port of a function. -/
def fnPort (f : Nat) : Nat := f / 2048 % 2

/-- The function numbers that exist (R6, R270): 0 to 1,024 of each port. -/
def fnOk (f : Nat) : Bool := f < 4096 && f % 2048 ≤ 1024

/-- The requesters that reach every window of BAR0: physical functions and management cores (R426). -/
def ridFull (rid : Nat) : Bool := (ridClass rid == 0 && isPf (rid % 4096)) || (ridClass rid == 1 && rid % 4096 < 4)

/-- Device Control at reset: Relaxed Ordering and No Snoop enabled, 128 bytes of payload, reads of 512 bytes. PRESUMED (log 23): the
manual gives neither its layout nor its reset value; they are those of the PCI Express specification that R271 names. -/
def devCtlReset : BitVec 16 := 0x2810

/-- A function after device reset: DISABLED, all vectors masked, nothing assigned. -/
def fnInit : Fn :=
  { bme := false, atomEn := false, devCtl := devCtlReset, held := false, drain := none, forced := false, resets := 0, pktDrop := 0, dbDrop := 0, keys := [],
    slots := [], asqProd := 0, asqCons := 0, acqProd := 0, acqCons := 0, asqHeld := false, acqHeld := false,
    acqWait := [], running := 0, funcMask := false, unmasked := [], pend := [],
    msixTab := [] }

/-- A function's state. -/
def State.fn (s : State) (f : Nat) : Fn := (s.ten.fns.get? f).getD fnInit

/-- The state with a function's state set. -/
def State.setFn (s : State) (f : Nat) (v : Fn) : State := { s with ten.fns := s.ten.fns.set f v }

/-- FSTATE of a function (R278): 0 DISABLED, 1 READY, 2 DRAINING. -/
def Fn.state (f : Fn) : Nat := if f.drain.isSome then 2 else if f.bme then 1 else 0

/-- The Link IDE stream of a function's port, which carries its memory requests and its completions, is not Insecure (R284): else
those received are discarded, and those to be sent are held. What a selective stream carries is not in the model (log 65). -/
def State.linkSecure (s : State) (f : Nat) : Bool := !s.hst.insecure.contains (fnPort f, 8)

/-- The function is READY and the device may issue host requests for it (R278, R284, R362). -/
def State.fnReady (s : State) (f : Nat) : Bool := (s.fn f).state == 1 && !s.fatal && s.linkSecure f

/-- The function's doorbells, ring-aperture writes and BAR4 accesses are taken (R280 step 2, R284). -/
def State.fnOpen (s : State) (f : Nat) : Bool := (s.fn f).state != 2 && !s.fatal && s.linkSecure f

/-- A quarantine that began at `t` waits for the end of the reset drain that released the identifier (R280 step 5). -/
def State.quarHeld (s : State) (f t : Nat) : Bool :=
  match (s.fn f).drain with
  | some d => decide (d.start ≤ t)
  | none => false

/-! ### Programmable counters (19_performance_counters R399, R400) -/

/-- A 48-bit count advanced: a sum past 2^48 − 1 wraps and sets OVF (R400). Bit 63 is OVF, bits [47:0] the count. -/
def cntAdd (w : Word) (n : Nat) : Word :=
  let v := bitsOf w 0 48 + n
  let w := putF w ⟨0, 48⟩ v
  if v ≥ 2 ^ 48 then putF w ⟨63, 1⟩ 1 else w

/-- What `n` occurrences add to a counter with selection `sel` (Table 19.1): COUNT and SUM add `n`, THRESH adds 1
when `n` is above the threshold. -/
def selAdds (sel : Word) (event unit tc : Nat) (byTc : Bool) (n : Nat) : Nat :=
  if getF sel F.CNT_SEL_ENABLE == 1 && getF sel F.CNT_SEL_EVENT == event && getF sel F.CNT_SEL_UNIT == unit
      && (!byTc || getF sel F.CNT_SEL_TC_MASK / 2 ^ tc % 2 == 1) then
    match getF sel F.CNT_SEL_MODE with
    | 0 => n
    | 1 => b2n (decide (getF sel F.CNT_SEL_THRESH < n))
    | 2 => n
    | _ => 0
  else 0

/-- The programmable counters whose selection is not its reset value, by number. -/
def State.selected (s : State) : List (Nat × Word) :=
  s.regs.filterMap fun p =>
    if R.CNT_SEL 0 ≤ p.1 && p.1 < R.CNT_SEL 512 then some ((p.1 - R.CNT_SEL 0) / 8, p.2) else none

/-- Occurrences of a count event of Table 19.2 (R399), one by default, filtered by class where the table says so. -/
def State.event (s : State) (event unit : Nat) (tc : Option Nat := none) (n : Nat := 1) : State :=
  s.selected.foldl (fun t p =>
    let k := selAdds p.2 event unit (tc.getD 0) tc.isSome n
    if k = 0 then t else t.wr (R.CNT_VAL p.1) (cntAdd (t.rd (R.CNT_VAL p.1)) k)) s

/-! ### MSI-X (R283) -/

/-- A vector of a function is raised: the message is sent, or the vector's pending bit is set while the vector or
the function is masked or the function is DISABLED. A draining function's messages are dropped (R280). -/
def State.msix (s : State) (f vec : Nat) : State :=
  let q := s.fn f
  if q.state = 2 then s
  else if s.fnReady f && !q.funcMask && q.unmasked.contains vec then (s.event 0x0804 (fnPort f)).emit (.msix f vec)
  else s.setFn f { q with pend := if q.pend.contains vec then q.pend else vec :: q.pend }

/-! ### The event recorder (18_recorder R386, R388, R389) -/

/-- Microseconds from the rise of PWR_GOOD. -/
def State.bootUs (s : State) : Nat := (s.now - s.boot.pgAt) / 1000

/-- The TIME word of a record that enters the queue now, and its TIME_VALID (R386): before the boot count has advanced, the boot form
carries the advanced count. -/
def State.recTime (s : State) : Bool × Word :=
  if s.rdF R.FTH_TIME F.FTH_TIME_TIME_VALID = 1 then (true, w64 s.pwr.cal)
  else (false, w64 ((s.bootCount + b2n (!s.boot.counted)) % 2 ^ 24 * 2 ^ 40 + clamp 0 (2 ^ 40 - 1) s.bootUs))

/-- The depth of the recorder's queue (R388). -/
def recQueueMax : Nat := 512

/-- The slots of the recorder (R384). -/
def recSlots : Nat := 65536

/-- Word 0 of a record (Table 18.1). -/
def recHead (r : Rec) (era : BitVec 16) : Word :=
  w64 (r.code % 65536 + r.severity % 4 * 2 ^ 16 + b2n r.valid * 2 ^ 18 + r.source % 128 * 2 ^ 24 + era.toNat * 2 ^ 32)

/-- The eight words of a record in slot `seq` of an era (R385): the CRC covers bytes 0 to 59. -/
def recWords (r : Rec) (era : BitVec 16) (seq : Nat) : List Word :=
  let ws := [recHead r era, r.time, r.p0, r.p1, r.p2, r.p3, r.p4]
  let crc := crc32c (bytesOfWords ws ++ bytesOf (w64 seq) 4)
  ws ++ [w64 (seq % 2 ^ 32 + crc.toNat * 2 ^ 32)]

/-- Word `k` of a 384-bit digest: byte 8k lies in bits [7:0] (R322, Table 18.5). -/
def digestWord (d : BitVec 384) (k : Nat) : Word := w64 (d.toNat / 2 ^ (64 * k))

/-- The hash of a complete family-0x01 record is kept in lifetime words 640 to 645 (R323, Table 18.5). -/
def chainStore (t : Tbl Nat) (ws : List Word) : Tbl Nat :=
  let d := Config.sha384 (bytesOfWords ws)
  (List.range 6).foldl (fun t k => t.set (640 + k) (digestWord d k).toNat) t

/-- RECORD_ENQUEUE (R388, R389): a record enters the queue, or is lost and counted while the recorder is full or
the queue is. -/
def State.offer (s : State) (r : Rec) : State :=
  if (s.evr.used ≥ recSlots && s.evr.clearing.isNone) || s.evr.queue.length ≥ recQueueMax then
    let s := { s with evr.lost := satAdd (2 ^ 32 - 1) s.evr.lost 1 }
    -- R323: the chain runs on when the recorder is full
    if r.code / 256 = 1 && s.evr.used ≥ recSlots then
      { s with evr.words := chainStore s.evr.words (recWords r s.evr.era recSlots) }
    else s
  else { s with evr.queue := s.evr.queue ++ [r] }

/-- A record made now. -/
def State.mkRec (s : State) (code severity source : Nat) (p0 p1 p2 p3 p4 : Word) : Rec :=
  let t := s.recTime
  { code := code, severity := severity, source := source, valid := t.1, time := t.2,
    p0 := p0, p1 := p1, p2 := p2, p3 := p3, p4 := p4 }

/-- A record of family 0x01 also joins the boot log, which holds 1,024 (R324). -/
def State.record (s : State) (code severity source : Nat) (p0 p1 p2 p3 p4 : Word) : State :=
  let r := s.mkRec code severity source p0 p1 p2 p3 p4
  let s := s.offer r
  if code / 256 = 1 && s.boot.log.length < 1024 then { s with boot.log := s.boot.log ++ [r] } else s

/-- A record with severity 0 and numeric parameters. -/
def State.note (s : State) (code source p0 p1 p2 p3 : Nat) : State :=
  s.record code 0 source (w64 p0) (w64 p1) (w64 p2) (w64 p3) 0

/-- An amount added to a lifetime accumulator; the hourly write moves it into MRAM (R395). -/
def State.lifeAdd (s : State) (w n : Nat) : State :=
  { s with evr.acc := s.evr.acc.set w ((s.evr.acc.get? w).getD 0 + n) }

/-! ### Access to registers (R4, R12) -/

/-- Why an access to a BAR0 offset fails under R12, if it does: the domain is off (1), powering up or down (2), asleep or
waking (4). A domain powers down while it is DRAINING (DEDUCED, log 11). A register of several domains answers while one of them
does (DESIGN CHOICE, log 12). -/
def State.regCause (s : State) (off : Nat) : Option (Nat × Nat) :=
  match findReg (off / 8 * 8) with
  | none => none
  | some (r, i, _) =>
    let d := r.dom.dom i
    if (r.dom.doms i).any s.domOn then none
    else match s.domState d with
    | 0 => some (1, d)
    | 4 => some (4, d)
    | 5 => some (4, d)
    | _ => some (2, d)

/-- ACCESS_ERROR_CAPTURE (R12): the first failing access is captured in TOP_ACCESS_ERR, later ones set LOST. -/
def State.accessErr (s : State) (rid off : Nat) (write : Bool) (cause dom : Nat) : State :=
  s.capture R.TOP_ACCESS_ERR F.TOP_ACCESS_ERR_VALID F.TOP_ACCESS_ERR_LOST
    [(F.TOP_ACCESS_ERR_CAUSE, cause), (F.TOP_ACCESS_ERR_REQUESTER, rid), (F.TOP_ACCESS_ERR_DOMAIN, dom),
     (F.TOP_ACCESS_ERR_WRITE, b2n write), (F.TOP_ACCESS_ERR_OFFSET, off / 8)]

/-- A requester's path to BAR0 works: a management core's while it runs, a host function's while its port is on and its Link IDE
stream not Insecure. -/
def State.barOpen (s : State) (rid : Nat) : Bool :=
  (ridClass rid == 1 && decide (rid % 4096 < 4) && s.domRuns (81 + rid % 4096))
    || (ridClass rid == 0 && fnOk (rid % 4096) && s.domRuns (64 + fnPort (rid % 4096)) && s.linkSecure (rid % 4096))

/-- A write to a register that has a row of its own: only the requesters that reach the window (R426), and only
while the register's domain answers (R12). -/
def State.viaReg (s : State) (rid off : Nat) (act : State → State) : State :=
  if !ridFull rid || !s.barOpen rid then s
  else match s.regCause off with
    | some (c, d) => s.accessErr rid off true c d
    | none => act s

/-! ### Admin commands (02_queues R44, R45) -/

/-- Askers that are over: no outcome of a walk is kept for them (07_translation R166, R172), their waiting requests go, and a walk of
theirs in progress serves the cache alone. -/
def State.forget (s : State) (gone : Asker → Bool) : State :=
  { s with
    xlt.ends := s.xlt.ends.filter fun e => !gone e.1.who,
    xlt.waiting := s.xlt.waiting.filter fun r => !gone r.who,
    xlt.walks := s.xlt.walks.map fun w =>
      if gone w.2.req.who then (w.1, { w.2 with req := { w.2.req with who := .none_ } }) else w }

/-- The completion of an admin command waits to be written to its function's admin CQ; a function reset drops it (R280). -/
def State.adminDone (s : State) (r : CmdRef) (status : Nat) (result : Word) : State :=
  let s := s.forget fun a => a == Asker.cmd r.fn
  let q := s.fn r.fn
  if q.drain.isSome || !fnOk r.fn then s
  else s.setFn r.fn { q with acqWait := q.acqWait ++ [(r, status, result)], running := q.running - 1 }

/-- The entries an admin SQ holds that have been covered by its producer count and not taken. -/
def Fn.asqLeft (q : Fn) : Nat := (q.asqProd - q.asqCons).toNat

/-- The device takes an admin command of the function: its SQ is enabled and has an entry, its earlier
completions have been written, the function is READY, and the boot has reached STAGE 3 (R44, R314). -/
def State.adminReady (s : State) (f : Nat) : Bool :=
  let q := s.fn f
  s.fnReady f && s.rdF (R.TEN_ADMIN_SQ f) F.TEN_ADMIN_SQ_ENABLE == 1 && 0 < q.asqLeft && q.acqWait.isEmpty
    && 3 ≤ s.stage && s.stage ≤ 6 && s.rdF R.STC_STAT F.STC_STAT_RESET_NEEDED == 0

/-- Taking an admin command: the entry is consumed; the reference is what its completion names (Table 2.6). -/
def State.adminTake (s : State) (c : AdminCmd) : State × CmdRef :=
  let q := s.fn c.fn
  (s.setFn c.fn { q with asqCons := q.asqCons + 1, running := q.running + 1 },
   { fn := c.fn, cookie := c.e.w1, index := q.asqCons.toNat % 2 ^ 16 })

/-- Status codes of completions (Table 2.11). -/
def St.ok : Nat := 0x00
def St.truncated : Nat := 0x01
def St.malformed : Nat := 0x02
def St.flushed : Nat := 0x03
def St.remoteKey : Nat := 0x04
def St.remoteRevoked : Nat := 0x05
def St.xlateFault : Nat := 0x06
def St.walkTarget : Nat := 0x07
def St.walkError : Nat := 0x08
def St.retryExceeded : Nat := 0x09
def St.partition : Nat := 0x0A
def St.stale : Nat := 0x0B
def St.access : Nat := 0x0C
def St.cqError : Nat := 0x0D
def St.remoteOp : Nat := 0x0E
def St.markTimeout : Nat := 0x0F
def St.quarantined : Nat := 0x10
def St.draining : Nat := 0x11
def St.incomplete : Nat := 0x12

/-- The command codes that the manual gives. -/
def adminCodes : List Nat :=
  [0x01, 0x02, 0x03, 0x04, 0x10, 0x11, 0x12, 0x13, 0x18, 0x19, 0x20, 0x21,
   0x30, 0x31, 0x32, 0x33, 0x34, 0x35, 0x40, 0x41, 0x42, 0x50, 0x51, 0x52, 0x60, 0x61, 0x62, 0x63, 0x64, 0x70,
   0x80, 0x81, 0x82, 0x83, 0x90]

/-- Bits of the argument words beyond those the command's table gives are reserved, and must be 0 (R3, R45): the
pairs name a word and the mask of its bits in use. -/
def argsOk (e : Words8) (used : List (Nat × Nat)) : Bool :=
  used.all fun p => (wordAt (Words8.toList e) p.1) &&& ~~~ (w64 p.2) == 0

/-- A mask of `n` bits from bit `lo`. -/
def ones (lo n : Nat) : Nat := (2 ^ n - 1) * 2 ^ lo

/-- An admin command with the given code (R45): nothing while the device cannot take it, or while the entry is
another command's; MALFORMED when the command is unknown or a reserved bit is set; otherwise `body`. -/
def State.admin (s : State) (c : AdminCmd) (code : Nat) (used : List (Nat × Nat)) (body : State → CmdRef → State) :
    State :=
  let cmd := bitsOf c.e.w0 0 16
  if !s.adminReady c.fn || (cmd != code && adminCodes.contains cmd) then s
  else
    let t := s.adminTake c
    if cmd != code || c.e.w0.toNat / 65536 != 0 || !argsOk c.e used then t.1.adminDone t.2 St.malformed 0
    else body t.1 t.2

/-- Commands on one object are carried out in ring order (R45): one that names an object on which an earlier command is still being
carried out waits. -/
def State.ringOrder (s : State) (c : AdminCmd) (code : Nat) (busy : Bool) (t : State) : State :=
  if busy && s.adminReady c.fn && bitsOf c.e.w0 0 16 == code then s else t

/-- The kinds of objects that a function's quotas limit (R45, R153). -/
inductive Kind where
  | qp | cq | eq | ctx | window | group | asid | hbm
deriving DecidableEq, Repr

/-- The number of a kind. -/
def Kind.code : Kind → Nat
  | .qp => 0
  | .cq => 1
  | .eq => 2
  | .ctx => 3
  | .window => 4
  | .group => 5
  | .asid => 6
  | .hbm => 7

/-- What a function has of a kind of object: objects in any state but FREE, and 4 KiB units of HBM. -/
def State.owned (s : State) (f : Nat) : Kind → Nat
  | .qp => s.ten.qps.countP fun q => q.2.fn == f
  | .cq => s.ten.cqs.countP fun q => q.2.fn == f
  | .eq => s.ten.eqs.countP fun q => q.2.fn == f
  | .ctx => s.mat.ctxs.countP fun c => c.2.fn == f
  | .window => s.wins.countP fun w => decide (w.1 < 0xFF0000) && w.2.owner == f && w.2.st != .free
  | .group => s.grps.countP fun g => g.2.fn == f && g.2.st != .free
  | .asid => s.xlt.asids.countP fun a => a.2.owner == f
  | .hbm => s.ten.allocs.foldl (fun n a => if a.fn = f then n + a.size else n) 0

/-- A function's quota has room for `n` more of a kind (R45, R153; log 14). -/
def State.quotaOk (s : State) (f : Nat) (k : Kind) (n : Nat) : Bool :=
  match s.ten.quotas.get? (8 * f + k.code) with
  | some q => decide (s.owned f k + n ≤ q)
  | none => true

/-- A command that only physical functions may issue (R331, R392): ACCESS from a virtual function. -/
def State.pfOnly (s : State) (c : AdminCmd) (r : CmdRef) (body : State → CmdRef → State) : State :=
  if isPf c.fn then body s r else s.adminDone r St.access 0

end Sys2Proof.Machine
end

