-- ==== Sys2Proof/Machine/CountOps.lean ====
section
/-! DEFINITION. The fixed counters of a port (19_performance_counters R402). -/

namespace Sys2Proof.Machine

open Sys2Proof

/-- An amount added to fixed counter `k` of port `p` (R402). -/
def State.portCount (s : State) (p k n : Nat) : State :=
  s.wr (R.CNT_PORT p k) (cntAdd (s.rd (R.CNT_PORT p k)) n)

end Sys2Proof.Machine
end

