-- ==== Sys2Proof/Machine/PacketOps.lean ====
section
/-! DEFINITION. Packets: the header words of Table 3.3 and its check code, and packets that the device itself
makes and injects (03_transport R60, R61; 11_lanes R266). -/

namespace Sys2Proof.Machine

open Sys2Proof

/-- Payload bytes. -/
def payLen (p : Packet) : Nat := p.payload.length

/-- Collective packets (06_collectives R134). -/
def pkColl (p : Packet) : Bool := decide (0x10 ≤ p.type) && decide (p.type ≤ 0x17)

/-- The grains, and flits, of a packet (R13, R218). -/
def grainsOf (p : Packet) : Nat := ceilDiv (64 + payLen p) 64

/-- Word 3 of a header: OFFSET and MSG_LEN (Table 3.3); for ATOMIC_REQ the COMPARE value lies there (Table 3.4). -/
def hdrWord3 (p : Packet) : Word := w64 (p.offset % 2 ^ 32 + p.msgLen % 2 ^ 32 * 2 ^ 32)

/-- The words 0 to 6 of a header (Table 3.3). -/
def hdrWords (p : Packet) : List Word :=
  [ w64 (p.dstNode % 2 ^ 18 + p.srcNode % 2 ^ 18 * 2 ^ 18 + p.vl % 2 ^ 5 * 2 ^ 36 + p.hops % 2 ^ 5 * 2 ^ 41
      + p.age.toNat * 2 ^ 46),
    w64 (p.type % 2 ^ 5 + p.tc % 8 * 2 ^ 5 + p.dstQp % 2 ^ 21 * 2 ^ 8 + p.dstGen % 8 * 2 ^ 29
      + p.srcQp % 2 ^ 21 * 2 ^ 32 + p.srcGen % 8 * 2 ^ 53 + b2n p.node * 2 ^ 56 + b2n p.ord * 2 ^ 57
      + b2n p.ackReq * 2 ^ 58 + b2n p.solicit * 2 ^ 59 + b2n p.retx * 2 ^ 60 + b2n p.flowNew * 2 ^ 61),
    w64 (p.psn.toNat + p.msn.toNat * 2 ^ 24 + p.pkey.toNat * 2 ^ 40 + p.flowlet % 16 * 2 ^ 56 + p.cn % 16 * 2 ^ 60),
    hdrWord3 p, p.w4, p.w5, p.w6 ]

/-- Bits [31:0] of word 7: PAY_LEN and INC. -/
def hdrTail (p : Packet) : Nat := payLen p % 2 ^ 13 + p.inc.toNat * 2 ^ 16

/-- HCRC of a header (R61): bytes 0 to 59, with VL, HOPS, TC and CN taken as 0. -/
def hcrcOf (p : Packet) : BitVec 32 :=
  crc32c (bytesOfWords (hdrWords { p with vl := 0, hops := 0, tc := 0, cn := 0 }) ++ bytesOf (w64 (hdrTail p)) 4)

/-- The 64 header bytes as eight words. -/
def hdrFlit (p : Packet) : Words8 :=
  words8 (hdrWords p ++ [w64 (hdrTail p + p.hcrc.toNat * 2 ^ 32)])

/-- A packet with nothing in it. -/
def pktZero : Packet :=
  { dstNode := 0, srcNode := 0, vl := 0, hops := 0, age := 0, type := 0, tc := 0, dstQp := 0, dstGen := 0, srcQp := 0,
    srcGen := 0, node := false, ord := false, ackReq := false, solicit := false, retx := false, flowNew := false,
    psn := 0, msn := 0, pkey := 0, flowlet := 0, cn := 0, offset := 0, msgLen := 0, w4 := 0, w5 := 0, w6 := 0, inc := 0,
    hcrc := 0, payload := [] }

/-- The age stamp of a packet injected now: bits [25:10] of fabric time. -/
def State.ageStamp (s : State) : BitVec 16 := BitVec.ofNat 16 (s.ft / 1024)

/-- A packet as it is injected: source node, incarnation and age of this device, VL of its class with PHASE 0, HOPS
and CN 0, and its check code (R60, R61, R186). -/
def State.stamped (s : State) (p : Packet) : Packet :=
  let p := { p with srcNode := s.node, vl := p.tc * 4, hops := 0, cn := 0, age := s.ageStamp, inc := s.inc }
  { p with hcrc := hcrcOf p }

/-- A packet made by the device joins the host-injection policer's queue of its class (01_architecture Injection,
steps 3 and 4; 09_traffic R203). -/
def State.inject (s : State) (p : Packet) : State :=
  let p := s.stamped p
  { s with rte.inject := s.rte.inject.set p.tc (((s.rte.inject.get? p.tc).getD []) ++ [p]) }

/-- A packet that names its port waits at its local position, past the injection policer and the choice of a route (R15, R203). -/
def State.enter (s : State) (port : Nat) (p : Packet) : State := { s with rte.entering := s.rte.entering ++ [(port, p)] }

/-- A packet sent on the span port that leads to a peer (R266). -/
def State.spanSend (s : State) (k : Nat) (p : Packet) : State :=
  s.enter (64 + k) (s.stamped { p with dstNode := s.rdF (R.RTE_PORT_ROLE (64 + k)) F.RTE_PORT_ROLE_FAR_NODE, tc := 1, pkey := 0xFFFF })

/-- Grains are released for credit return on a lane of a port, but for what is withheld there (R205, R209). -/
def State.creditBack (s : State) (p lane n : Nat) : State :=
  let k := p * 32 + lane
  let owed := (s.rte.debt.get? k).getD 0
  { s with
    rte.debt := if owed ≤ n then s.rte.debt.erase k else s.rte.debt.set k (owed - n),
    lnk.ports := s.lnk.ports.upd p fun q => { q with
      freed := q.freed.set lane ((q.freed.get? lane).getD 0 + BitVec.ofNat 32 (n - owed)) } }

/-- The grains of a packet are freed (R205): to the common pool, or to the reservation of its source, whose credit then
returns upstream. Sources are keyed port code × 32 + lane. -/
def State.freeGrains (s : State) (b : BPkt) : State :=
  if b.grains = 0 then s
  else if b.pool then
    { s with rte.poolHeld := s.rte.poolHeld.set b.cls ((s.rte.poolHeld.get? b.cls).getD 0 - b.grains) }
  else
    let k := b.ingress * 32 + b.lane
    let n := (s.rte.resHeld.get? k).getD 0 - b.grains
    let s := { s with rte.resHeld := if n = 0 then s.rte.resHeld.erase k else s.rte.resHeld.set k n }
    s.creditBack b.ingress b.lane b.grains

/-- A packet steered to one of this device's units is taken from its local position, if it waits there. -/
def State.takeLocal (s : State) (p : Packet) : State :=
  match s.rte.localQ.find? (fun b => b.pkt == p) with
  | some b => ({ s with rte.localQ := s.rte.localQ.erase b }.forget fun a => a == Asker.recv p).freeGrains b
  | none => s

end Sys2Proof.Machine
end

