-- ==== Sys2Proof/Machine/SemOps.lean ====
section
/-! DEFINITION. Lock cells, rights, orphans and span requests (13_semaphore), shared by the commands of the
semaphore unit and by the resets that orphan locks. -/

namespace Sys2Proof.Machine

open Sys2Proof

/-- The fields of a cell word (Table 13.1). -/
def Cell.held : Fld := ⟨0, 1⟩
def Cell.orphan : Fld := ⟨1, 1⟩
def Cell.forced : Fld := ⟨2, 1⟩
def Cell.seq : Fld := ⟨3, 13⟩
def Cell.token : Fld := ⟨16, 16⟩
def Cell.owner : Fld := ⟨32, 16⟩
def Cell.origin : Fld := ⟨48, 16⟩

/-- A local cell's word; every cell reads 0 after device reset (R293). -/
def State.cell (s : State) (c : Nat) : Word := (s.sem.cells.get? c).getD 0

/-- The state with a local cell set. -/
def State.setCell (s : State) (c : Nat) (w : Word) : State :=
  { s with sem.cells := if w = 0 then s.sem.cells.erase c else s.sem.cells.set c w }

/-- This device's span position. -/
def State.spanPos (s : State) : Nat := s.rdF R.SPN_GROUP F.SPN_GROUP_POS

/-- The role that a value of ROLE gives a port (Table 8.2): ROW, COLUMN and GLOBAL are for P0 to P63 and SPAN for S0 to S2; anything
else is taken as UNUSED (R175). -/
def roleTaken (p r : Nat) : Nat := if (p < 64 && r ≤ 3) || (decide (64 ≤ p) && p < 67 && r == 4) then r else 0

/-- The role of a port (R175). -/
def State.role (s : State) (p : Nat) : Nat := roleTaken p (s.rdF (R.RTE_PORT_ROLE p) F.RTE_PORT_ROLE_ROLE)

/-- The span port, 0 to 2, that leads to position `q` (Table 11.7): S0 to p + 1, S1 to p + 2, S2 to p + 3. -/
def State.spanTo (s : State) (q : Nat) : Nat := (q + 3 - s.spanPos) % 4

/-- The position that span port `k` leads to (Table 11.7). -/
def State.posOf (s : State) (k : Nat) : Nat := (s.spanPos + 1 + k) % 4

/-- A position other than this device's is present in the group: the port toward it has ROLE SPAN (R264). -/
def State.peerAt (s : State) (q : Nat) : Bool := q != s.spanPos && q < 4 && s.role (64 + s.spanTo q) == 4

/-- The rights word of a group. -/
def State.grpRights (s : State) (g : Nat) : Word := s.rd (R.SEM_GRP g)

/-- The requester supervises the group (R298). -/
def State.supervises (s : State) (rid g : Nat) : Bool :=
  let w := s.grpRights g
  getF w F.SEM_GRP_SUPER_EN == 1 && getF w F.SEM_GRP_SUPER == rid

/-- The requester may use the group (R298). -/
def State.mayUse (s : State) (rid g : Nat) : Bool :=
  let w := s.grpRights g
  s.supervises rid g
    || (ridClass rid == 0 && isPf (rid % 4096) && getF w F.SEM_GRP_PF == 1)
    || (ridClass rid == 0 && getF w F.SEM_GRP_USER_EN == 1 && getF w F.SEM_GRP_USER == rid)
    || (ridClass rid == 1 && getF w F.SEM_GRP_MGMT == 1)
    || (ridClass rid == 2 && getF w F.SEM_GRP_PEERS / 2 ^ (rid % 4) % 2 == 1)

/-- SEM_REFUSAL (R299): counted, and the first refusal captured. -/
def State.semRefuse (s : State) (rid c : Nat) (write force : Bool) : State :=
  (s.bump (R.SEM_CNT 0) F.SEM_CNT_COUNT 1).capture R.SEM_DENY F.SEM_DENY_VALID F.SEM_DENY_LOST
    [(F.SEM_DENY_WRITE, b2n write), (F.SEM_DENY_FORCE, b2n force), (F.SEM_DENY_REQUESTER, rid), (F.SEM_DENY_CELL, c)]

/-- The cell word that a granted CLAIM leaves (Table 13.2). -/
def claimWord (w : Word) (rid origin token : Nat) : Word :=
  let w := putF (putF w Cell.held 1) Cell.forced 0
  let w := putF w Cell.seq (getF w Cell.seq + 1)
  putF (putF (putF w Cell.token token) Cell.owner rid) Cell.origin origin

/-- CLAIM on a local cell (Table 13.2): granted if the cell is free, otherwise nothing. -/
def State.cellClaim (s : State) (rid origin c token : Nat) : State :=
  if getF (s.cell c) Cell.held = 0 then s.setCell c (claimWord (s.cell c) rid origin token) else s

/-- RELEASE on a local cell (Table 13.2): only the holder under its token, and not once orphaned; otherwise counted. -/
def State.cellRelease (s : State) (rid origin c token : Nat) : State :=
  let w := s.cell c
  if getF w Cell.held = 1 && getF w Cell.orphan = 0 && getF w Cell.owner = rid && getF w Cell.origin = origin
      && getF w Cell.token = token then s.setCell c (putF w Cell.held 0)
  else s.bump (R.SEM_CNT 1) F.SEM_CNT_COUNT 1

/-- FORCE on a local cell by its supervisor (Table 13.2, R301): writes SEM_FORCE; otherwise counted. -/
def State.cellForce (s : State) (rid c : Nat) : State :=
  let w := s.cell c
  if getF w Cell.held = 1 then
    (s.setCell c (putF (putF (putF w Cell.held 0) Cell.orphan 0) Cell.forced 1)).record 0x0741 0 91
      (w64 c) w (w64 rid) 0 0
  else s.bump (R.SEM_CNT 1) F.SEM_CNT_COUNT 1

/-- A command word on a local cell, after its right has been checked (R295, R298). -/
def State.cellCmd (s : State) (rid origin c : Nat) (cmd : Word) : State :=
  let token := bitsOf cmd 16 16
  match bitsOf cmd 0 2 with
  | 0 => s.cellClaim rid origin c token
  | 1 => s.cellRelease rid origin c token
  | 2 => s.cellForce rid c
  | _ => s

/-- The right to a command word on a local cell: FORCE needs the supervisor, the others use (R298). -/
def State.cmdRight (s : State) (rid c : Nat) (cmd : Word) : Bool :=
  if bitsOf cmd 0 2 = 2 then s.supervises rid (c / 128) else s.mayUse rid (c / 128)

/-- A command on a local cell, with its right: refused under R299, or carried out. -/
def State.cellDo (s : State) (rid origin c : Nat) (cmd : Word) : State :=
  if s.cmdRight rid c cmd then s.cellCmd rid origin c cmd
  else s.semRefuse rid c true (bitsOf cmd 0 2 = 2)

/-! ### Orphans (R300) -/

/-- The cells that a predicate on their words picks become ORPHAN; their number. -/
def orphanCells (cells : Tbl Word) (pick : Word → Bool) : Tbl Word × Nat :=
  (cells.map (fun p => if getF p.2 Cell.held = 1 && getF p.2 Cell.orphan = 0 && pick p.2
      then (p.1, putF p.2 Cell.orphan 1) else p),
   (cells.filter fun p => getF p.2 Cell.held = 1 && getF p.2 Cell.orphan = 0 && pick p.2).length)

/-- SEM_ORPHAN (R300): cells become ORPHAN; if there is one, ORPHAN_NEW is set and SEM_ORPHAN written. -/
def State.orphan (s : State) (who cause : Nat) (pick : Word → Bool) : State :=
  let r := orphanCells s.sem.cells pick
  if r.2 = 0 then s
  else ({ s with sem.cells := r.1 }.wrF R.SEM_STAT F.SEM_STAT_ORPHAN_NEW 1).note 0x0740 91 who r.2 cause 0

/-- The NOTICEs of a port, with one more; a 65th replaces them all with one NOTICE with ALL = 1 (R304). -/
def noticeAdd (ns : List NoticeReq) (n : NoticeReq) : List NoticeReq :=
  if ns.length < 64 then ns ++ [n] else [{ n with all := true }]

/-- The tag of a new NOTICE on a port: 192 to 255, taken in turn, none that an unanswered NOTICE of the port has; the requests of
R302 have the tags below (DESIGN CHOICE, log 25), so that no answer names two of them. -/
def noticeTag (next : Nat) (ns : List NoticeReq) : Nat :=
  192 + (((List.range 64).map fun i => (next + i) % 64).find? fun t => !ns.any fun n => n.tag == 192 + t).getD (next % 64)

/-- A NOTICE packet (Table 13.3). -/
def State.noticeSend (s : State) (k : Nat) (n : NoticeReq) : State :=
  s.spanSend k { pktZero with
    type := 0x0C, w4 := w64 (3 * 2 ^ 16 + n.tag * 2 ^ 24),
    w6 := w64 (n.origin + b2n n.all * 2 ^ 16) }

/-- State code of a port (Table 10.6). -/
def State.portState (s : State) (p : Nat) : Nat := s.rdF (R.LNK_STATE p) F.LNK_STATE_STATE

/-- A port is UP. -/
def State.portUp (s : State) (p : Nat) : Bool := s.portState p == 3

/-- A NOTICE for an identity is queued on a span port and sent if the port is UP (R304). -/
def State.notice (s : State) (k origin : Nat) : State :=
  let n : NoticeReq := {
    tag := noticeTag s.sem.tag ((s.sem.notices.get? k).getD []), origin := origin, all := false, due := s.now + 20000 }
  let ns := noticeAdd ((s.sem.notices.get? k).getD []) n
  let s := { s with sem.tag := s.sem.tag + 1, sem.notices := s.sem.notices.set k ns }
  if s.portUp (64 + k) then s.noticeSend k (ns.getLast?.getD n) else s

/-- A NOTICE for an identity to every peer present in the group (R304). -/
def State.noticeAll (s : State) (origin : Nat) : State :=
  (List.range 3).foldl (fun t k => if t.role (64 + k) = 4 then t.notice k origin else t) s

/-- A host function's or a management core's reset: its own cells become ORPHAN, and every peer is told (R300,
R304). -/
def State.orphanId (s : State) (rid cause : Nat) : State :=
  (s.orphan rid cause fun w => getF w Cell.owner == rid && getF w Cell.origin == rid).noticeAll rid

end Sys2Proof.Machine
end

