-- ==== Sys2Proof/Machine/XltOps.lean ====
section
/-! DEFINITION. Address translation as the other units use it (07_translation): region checks, look-ups in the TLB,
the requests for walks, and the splitting of an access into pieces of host memory; the waking of a domain by a request
(15_power R342); and memory reads and writes by address. -/

namespace Sys2Proof.Machine

open Sys2Proof

/-! ### Domains that serve identifiers (R16, Table 1.2) -/

def tenDom (qp : Nat) : Nat := 69 + qp % 4
def matDom (ctx : Nat) : Nat := 73 + ctx % 4
def colDom (grp : Nat) : Nat := 77 + grp % 2
def xltDom : Nat := 85

/-- A domain that has never been switched. -/
def domInit : Dom := { drainAt := none, by_ := 0, entry := false, upAt := 0, onAt := 0 }

/-- The state of a domain beside its registers. -/
def State.dom (s : State) (d : Nat) : Dom := (s.pwr.doms.get? d).getD domInit

/-- The state with a domain's state changed. -/
def State.updDom (s : State) (d : Nat) (f : Dom → Dom) : State := { s with pwr.doms := s.pwr.doms.set d (f (s.dom d)) }

/-- A request wakes a sleeping domain (R342): WAKING, counted in WAKES. One that reaches it while it enters SLEEP cancels the
entry (R341); STATE reads SLEEP from the start of the entry (DEDUCED, log 28). -/
def State.wakeOne (s : State) (d : Nat) : State :=
  if s.domState d = 4 && (s.dom d).entry then
    (s.updDom d fun v => { v with entry := false }).wrF (R.PWR_DOM_STAT d) F.PWR_DOM_STAT_STATE 2
  else if s.domState d = 4 then
    let s := s.updDom d fun v => { v with upAt := s.now }
    (s.wrF (R.PWR_DOM_STAT d) F.PWR_DOM_STAT_STATE 5).bump (R.PWR_DOM_STAT d) F.PWR_DOM_STAT_WAKES 1
  else s

/-- A request wakes a domain, and with a transfer-engine, matching or collective domain its sleeping HBM interfaces and
translation unit (R342, Table 15.1). -/
def State.wake (s : State) (d : Nat) : State :=
  let s := s.wakeOne d
  if 69 ≤ d && d ≤ 78 then ((s.wakeOne 79).wakeOne 80).wakeOne 85 else s

/-! ### Regions (R161) -/

/-- The type of a bus address on a host port (R161): 0 NONE, 1 MEMORY, 2 DEVICE. -/
def State.region (s : State) (port bus : Nat) : Nat :=
  match (List.range 64).find? (fun n =>
    let b := s.rd (R.XLT_RAT_BASE n)
    let l := s.rd (R.XLT_RAT_LIMIT n)
    bitAt b 63 && bitAt b (59 + port) && decide (bitsOf b 12 40 ≤ bus / 4096) && decide (bus / 4096 ≤ bitsOf l 12 40)) with
  | some n => match bitsOf (s.rd (R.XLT_RAT_BASE n)) 61 2 with
    | 1 => 1
    | 2 => 2
    | _ => 0
  | none => 0

/-! ### Look-ups (R159, R160, R163) -/

/-- What a look-up of one 4 KiB page gives. -/
inductive Look where
  | ok (bus attr : Nat)
  | fail (status : Nat)
  | mark (dirty : Bool) (size : Nat)
  | miss
deriving DecidableEq, Repr

/-- A leaf covers a 4 KiB page. -/
def Leaf.covers (l : Leaf) (asid page : Nat) : Bool :=
  l.asid == asid && decide (l.page ≤ page) && decide (page < l.page + 512 ^ l.size)

/-- A walk's end serves the access that asked for the walk. -/
def endFor (who : Asker) (asid page : Nat) (write : Bool) (e : WalkReq × WalkEnd) : Bool :=
  e.1.who == who && e.1.asid == asid && e.1.page == page && e.1.write == write && !e.1.spec

/-- The look-up of a page for a use or a write: the outcome of the asker's own ended walk, else the TLB; the marks and rights are
those of R159 and R160. An address of 2^48 or above is never translated (R154). -/
def State.look (s : State) (asid page : Nat) (write : Bool) : Look :=
  if 2 ^ 36 ≤ page then .fail St.xlateFault
  else match s.xlt.ends.find? (endFor s.xlt.asker asid page write) with
    | some (_, .fail st) => .fail st
    | some (_, .mark d z) => .mark d z
    | some (_, .once b a) => .ok b a
    | none =>
      if !s.domRuns xltDom then .miss
      else match s.xlt.tlb.find? (fun l => l.covers asid page) with
        | some l =>
          if write && !l.w then .fail St.xlateFault
          else if !l.a then .mark false l.size
          else if write && !l.d then .mark true l.size
          else .ok (l.bus + (page - l.page) * 4096) l.attr
        | none => .miss

/-- A piece of an access in host memory: its bus address, its length and its page's ATTR. -/
structure Piece where
  bus  : Nat
  len  : Nat
  attr : Nat
deriving DecidableEq, Repr

/-- What the translation of a range gives: its pieces, or the first failure in address order. -/
inductive XRes where
  | ok (ps : List Piece)
  | fail (status : Nat)
  | mark (page : Nat) (dirty : Bool) (size : Nat)
deriving DecidableEq, Repr

/-- The pages of a range as (page, first byte within it, length), cut at 4 KiB (R272). -/
def pagesOf (va n : Nat) : List (Nat × Nat × Nat) :=
  if n = 0 then []
  else
    let p0 := va / 4096
    (List.range ((va + n - 1) / 4096 - p0 + 1)).map fun i =>
      let lo := Nat.max va ((p0 + i) * 4096)
      (p0 + i, lo % 4096, Nat.min (va + n) ((p0 + i + 1) * 4096) - lo)

/-- The walk requests of an access: its missing pages; or, when none is missing, up to PREFETCH further pages of its range that are
not cached, where `ahead` bytes of the range follow the access in pages that it is about to enter (R167: the unit may walk ahead;
DESIGN CHOICE, log 25: it does, once the access itself has its translation). -/
def State.missOf (s : State) (asid va n ahead : Nat) (write : Bool) : List WalkReq :=
  let need := ((pagesOf va n).filter fun p => s.look asid p.1 write == .miss).map fun p =>
    { asid := asid, page := p.1, write := write, spec := false, trap := none, who := s.xlt.asker : WalkReq }
  if !need.isEmpty then need
  else if n = 0 || ahead = 0 then []
  else
    let first := (va + n - 1) / 4096 + 1
    (((List.range (s.rdF R.XLT_CTL F.XLT_CTL_PREFETCH)).map (first + ·)).filter fun p =>
      decide (p * 4096 < va + n + ahead) && s.look asid p write == .miss).map fun p =>
        { asid := asid, page := p, write := write, spec := true, trap := none, who := .none_ }

/-- The translation of a range for a use or a write (R159): its pieces, the first failure, or, with some page missing,
walk requests in `xlt.missed`; `ahead` is what follows the range in its transfer. A one-shot outcome is used up. -/
def State.translate (s : State) (asid va n ahead : Nat) (write : Bool) : State × XRes :=
  let ps := pagesOf va n
  let m := s.missOf asid va n ahead write
  let s1 := { s with xlt.missed := s.xlt.missed ++ m }
  let used := fun (t : State) => { t with
    xlt.ends := t.xlt.ends.filter fun e => !(ps.any fun p => endFor s.xlt.asker asid p.1 write e) }
  match ps.findSome? (fun p => match s.look asid p.1 write with
      | .fail st => some (XRes.fail st)
      | .mark d z => some (XRes.mark p.1 d z)
      | _ => none) with
  | some r => (used { s1 with xlt.missed := s.xlt.missed ++ m.filter (·.spec) }, r)
  | none =>
    (used (ps.foldl (fun t _ => t.event 0x0701 0) s1), .ok (ps.filterMap fun p => match s.look asid p.1 write with
      | .ok b a => some { bus := b + p.2.1, len := p.2.2, attr := a }
      | _ => none))

/-- A walk request that neither waits nor runs. -/
def State.newReq (s : State) (r : WalkReq) : Bool :=
  !(s.xlt.waiting.contains r) && !(s.xlt.walks.any fun w => w.2.req == r) && !(s.xlt.ends.any fun e => e.1 == r)

/-- Walk requests join those that wait, each once; they wake the translation unit. -/
def State.askWalks (s : State) (rs : List WalkReq) : State :=
  if rs.isEmpty then s
  else (rs.foldl (fun s r => if s.newReq r then { (s.event 0x0701 0).event 0x0702 0 with xlt.waiting := s.xlt.waiting ++ [r] } else s) s).wakeOne xltDom

/-- The end of a step that makes accesses: with a page missing nothing of the step happens but the requests for its walks,
and the step is tried again after them; otherwise the step stands. -/
def State.settle (s s' : State) : State :=
  if s'.xlt.missed.any (fun r => !r.spec) then s.askWalks s'.xlt.missed
  else { s' with xlt.missed := [], xlt.asker := s.xlt.asker }.askWalks s'.xlt.missed

/-- A step whose accesses one asker makes. -/
def State.asking (s : State) (who : Asker) (step : State → State) : State :=
  s.settle (step { s with xlt.asker := who })

/-- What asks for a queue pair: its rings, its jobs, and what waits for its RQ. -/
def Asker.ofQp (q : Nat) : Asker → Bool
  | .sq k => k == q
  | .rq k => k == q
  | .held k => k == q
  | .job k _ => k == q
  | _ => false

/-- The pieces of an ok translation. -/
def XRes.pieces : XRes → List Piece
  | .ok ps => ps
  | _ => []

/-! ### Host memory and HBM by pieces -/

/-- Device Control as it holds for a function: that of the physical function of its port (PRESUMED, log 23: virtual functions have
no fields of their own). -/
def State.devCtl (s : State) (fn : Nat) : BitVec 16 := (s.fn (fnPort fn * 0x800)).devCtl

/-- Max Payload Size of a function, 128 to 512 bytes, and its Max Read Request Size, 128 to 4,096 (R271). -/
def State.maxPayload (s : State) (fn : Nat) : Nat := 128 * 2 ^ Nat.min 2 ((s.devCtl fn).extractLsb' 5 3).toNat
def State.maxRead (s : State) (fn : Nat) : Nat := 128 * 2 ^ Nat.min 5 ((s.devCtl fn).extractLsb' 12 3).toNat

/-- Device Control enables Relaxed Ordering, and No Snoop (R271). -/
def State.roOn (s : State) (fn : Nat) : Bool := (s.devCtl fn).getLsbD 4
def State.snoopOff (s : State) (fn : Nat) : Bool := (s.devCtl fn).getLsbD 11

/-- The requests that a piece takes, none of more than `m` bytes: it is cut at the multiples of `m`, so that no request crosses 4 KiB
and no aligned 8-byte unit is split (R272; where to cut is a DESIGN CHOICE, log 23). -/
def Piece.cut (m : Nat) (p : Piece) : List Piece :=
  if p.len = 0 then []
  else (List.range ((p.bus + p.len - 1) / m - p.bus / m + 1)).map fun i =>
    let lo := Nat.max p.bus ((p.bus / m + i) * m)
    { p with bus := lo, len := Nat.min (p.bus + p.len) ((p.bus / m + i + 1) * m) - lo }

/-- Bytes laid over requests in turn, as writes of a function; `ro` allows Relaxed Ordering, which a STRICT page forbids (R120, R158),
and each attribute is set only where Device Control enables it (R271). -/
def State.writesOver (s : State) (fn : Nat) (ro : Bool) : List Piece → List Byte → List Out
  | [], _ => []
  | p :: ps, data =>
    .hostWrite fn p.bus (ro && p.attr != 2 && s.roOn fn) (p.attr == 1 && s.snoopOff fn) (data.take p.len)
      :: s.writesOver fn ro ps (data.drop p.len)

/-- The writes by which bytes reach pieces of host memory for a function (R272). -/
def State.hostWrites (s : State) (fn : Nat) (ps : List Piece) (ro : Bool) (data : List Byte) : List Out :=
  s.writesOver fn ro (ps.flatMap (Piece.cut (s.maxPayload fn))) data

/-- The requests by which a function reads pieces of host memory: bus address, length, and No Snoop for a NO_SNOOP page (R158,
R272). -/
def State.hostReads (s : State) (fn : Nat) (ps : List Piece) : List (Nat × Nat × Bool) :=
  (ps.flatMap (Piece.cut (s.maxRead fn))).map fun p => (p.bus, p.len, p.attr == 1 && s.snoopOff fn)

/-- Bytes written to pieces of host memory for a function. -/
def State.hostPut (s : State) (fn : Nat) (ps : List Piece) (ro : Bool) (data : List Byte) : State :=
  { s with out := s.out ++ s.hostWrites fn ps ro data }

/-- An HBM offset range lies inside one ALLOC_HBM allocation of a function (R30). -/
def State.hbmOwned (s : State) (fn off n : Nat) : Bool :=
  s.ten.allocs.any fun a => a.fn == fn && decide (a.off * 4096 ≤ off) && decide (off + n ≤ (a.off + a.size) * 4096)

/-- A host read of pieces leaves under a tag. -/
def State.hostGet (s : State) (fn tag : Nat) (ps : List Piece) : State :=
  if ps.isEmpty then s
  else (s.event 0x0802 (fnPort fn) none (s.hostReads fn ps).length).emit (.hostRead fn tag (s.hostReads fn ps))

/-- A read outstanding is registered under a fresh tag and issued: a host read of its host pieces for a function, or HBM
accesses alone (R272). -/
def State.issueRead (s : State) (fn : Nat) (for_ : HReqFor) (segs : List (Bool × Nat × Nat)) (ps : List Piece)
    (atom : Option AtomOp) : State × Nat :=
  let tag := s.tra.tag
  let s := { s with tra.tag := tag + 1,
                    tra.hreqs := s.tra.hreqs.set tag {
                      fn := fn, for_ := for_, segs := segs, atom := atom,
                      reqs := if atom.isSome then ps.length else (s.hostReads fn ps).length } }
  (if atom.isSome then s else s.hostGet fn tag ps, tag)

/-- A read whose bytes come with the command that the step carries out (log 56): it leaves under a tag of its own. -/
def State.readNow (s : State) (fn : Nat) (ps : List Piece) : State :=
  { s with tra.tag := s.tra.tag + 1 }.hostGet fn s.tra.tag ps

/-- A range of host memory that a command or a ring reads (R160: a use): its pieces are read, or the status with which the access
ends; a lacking mark counts as a fault (Table 7.5). -/
def State.readRange (s : State) (fn asid va n : Nat) : State × Nat :=
  match s.translate asid va n 0 false with
  | (s, .ok ps) => (s.readNow fn ps, St.ok)
  | (s, .fail st) => (s, st)
  | (s, .mark _ _ _) => (s, St.xlateFault)

/-- The bytes that a read gives: host bytes in order from the completion, HBM bytes from memory. -/
def State.gather (s : State) (segs : List (Bool × Nat × Nat)) (data : List Byte) : List Byte :=
  (segs.foldl (fun (a : List Byte × List Byte) g =>
    if g.1 then (a.1 ++ s.hbmRead g.2.1 g.2.2, a.2) else (a.1 ++ a.2.take g.2.2, a.2.drop g.2.2)) ([], data)).1

/-- An address space is granted to a function (R152). -/
def State.granted (s : State) (f asid : Nat) : Bool :=
  match s.xlt.asids.get? asid with
  | some a => a.grant == f
  | none => false

/-- A command reads `n` bytes at a program address: MALFORMED for an address space that its function is not granted (R152) and for an
address beyond 48 bits (R154); with the status of the access when it fails (Table 7.5); otherwise `body`. -/
def State.cmdRead (s : State) (r : CmdRef) (asid : Nat) (va : Word) (n : Nat) (body : State → State) : State :=
  if !s.granted r.fn asid || bitsOf va 48 16 != 0 then s.adminDone r 2 0
  else
    let t := s.readRange r.fn asid va.toNat n
    if t.2 = St.ok then body t.1 else t.1.adminDone r t.2 0

/-! ### Scatter lists (R30) -/

/-- The parts of a scatter list that cover `n` bytes from offset `off`. -/
def cutSges : List Sge → Nat → Nat → List Sge
  | [], _, _ => []
  | g :: gs, off, n =>
    if n = 0 then []
    else if g.len ≤ off then cutSges gs (off - g.len) n
    else
      let k := Nat.min n (g.len - off)
      { g with addr := g.addr + off, len := k } :: cutSges gs 0 (n - k)

/-- The bytes of a scatter list that follow `n` bytes at offset `off` within the element where they end, if the access enters a page
of it: it starts the element, a page, or reaches into the next page (R167). -/
def aheadOf : List Sge → Nat → Nat → Nat
  | [], _, _ => 0
  | g :: gs, off, n =>
    if g.len < off + n then aheadOf gs (off - g.len) (off + n - g.len - (off - g.len))
    else
      let lo := g.addr + off
      if g.hbm || n = 0 then 0
      else if off = 0 || lo % 4096 = 0 || lo / 4096 != (lo + n - 1) / 4096 then g.len - (off + n) else 0

/-- What the translation of a part of a scatter list gives. -/
inductive SgRes where
  | ok (segs : List (Bool × Nat × Nat)) (pieces : List Piece)
  | fail (status : Nat)
  | mark (page : Nat) (dirty : Bool) (size : Nat)
deriving DecidableEq, Repr

/-- The translation of the parts of a scatter list, in order (R159); the first failure ends it. `ahead` bytes of the last part's
range follow it. -/
def State.sgXlate (s : State) (asid : Nat) (write : Bool) (ahead : Nat) : List Sge → State × SgRes
  | [] => (s, .ok [] [])
  | g :: gs =>
    if g.hbm then
      match s.sgXlate asid write ahead gs with
      | (s, .ok sg ps) => (s, .ok ((true, g.addr, g.len) :: sg) ps)
      | r => r
    else
      match s.translate asid g.addr g.len (if gs.isEmpty then ahead else 0) write with
      | (s, .fail st) => (s, .fail st)
      | (s, .mark p d z) => (s, .mark p d z)
      | (s, .ok ps) =>
        match s.sgXlate asid write ahead gs with
        | (s, .ok sg qs) => (s, .ok (ps.map (fun p => (false, p.bus, p.len)) ++ sg) (ps ++ qs))
        | r => r

/-- Bytes written into a translated scatter list, HBM parts and host parts in order. -/
def State.sgWrite (s : State) (fn : Nat) (segs : List (Bool × Nat × Nat)) (ps : List Piece) (ro : Bool)
    (data : List Byte) : State :=
  (segs.foldl (fun (a : State × List Byte × List Piece) g =>
    let bs := a.2.1.take g.2.2
    if g.1 then (a.1.hbmWrite g.2.1 bs, a.2.1.drop g.2.2, a.2.2)
    else (a.1.hostPut fn (a.2.2.take 1) ro bs, a.2.1.drop g.2.2, a.2.2.drop 1)) (s, data, ps)).1

end Sys2Proof.Machine
end

