-- ==== Sys2Proof/Machine/QueueOps.lean ====
section
/-! DEFINITION. Event queues, completion queues and the retirement of jobs (02_queues R21 to R43): what every family
that completes work uses. -/

namespace Sys2Proof.Machine

open Sys2Proof

/-! ### Event queues (R42, R43) -/

/-- The entries of a ring. -/
def ringSize (log : Nat) : Nat := 2 ^ log

/-- A ring's PHASE for entry `n`: 1 on the first pass, inverted on each later one (R36). -/
def phaseOf (n : Count32) (log : Nat) : Bool := n.toNat / ringSize log % 2 == 0

/-- An EQ is full (R25). -/
def Eq.full (e : Eq) : Bool := decide (ringSize e.logSize ≤ (e.prod - e.cons).toNat)

/-- The four words of an event (R42). -/
def eventWords (v : Event) (phase : Bool) (time : Nat) : List Word :=
  [w64 (v.code % 65536 + b2n phase * 2 ^ 16 + v.status % 256 * 2 ^ 24 + v.object % 2 ^ 32 * 2 ^ 32),
   v.param0, v.param1, w64 (time % 2 ^ 32)]

/-- The state with an EQ changed. -/
def State.updEq (s : State) (i : Nat) (f : Eq → Eq) : State := { s with ten.eqs := s.ten.eqs.upd i f }

/-- What became of an event's write: it is done, its translation failed, or the slot's page waits for a walk. -/
inductive PutRes where
  | written
  | failed
  | waits
deriving DecidableEq, Repr

/-- One event written into the next slot of an EQ: an armed vector is raised (R42). -/
def State.eqPut (s : State) (i : Nat) (e : Eq) (v : Event) : State × PutRes :=
  let a := e.base + 32 * (e.prod.toNat % ringSize e.logSize)
  let back := fun (t : State) => { t with xlt.missed := s.xlt.missed, xlt.asker := s.xlt.asker }
  match { s with xlt.missed := [], xlt.asker := .eq i }.translate e.asid a 32 0 true with
  | (s1, .ok ps) =>
    if !s1.xlt.missed.isEmpty then (s.askWalks s1.xlt.missed, .waits)
    else
      let s2 := (back s1).hostPut e.fn ps false (bytesOfWords (eventWords v (phaseOf e.prod e.logSize) s.ft))
      let s3 := s2.updEq i fun q => { q with
        prod := e.prod + 1, armed := false, raised := if e.armed then some e.prod else q.raised }
      (if e.armed then s3.msix e.fn e.vector else s3, .written)
  | (s1, _) => (back s1, .failed)

/-- The oldest waiting event of an EQ is lost and counted (R23, R43). -/
def State.eqLose (s : State) (i : Nat) : State :=
  s.updEq i fun q => { q with lost := q.lost + b2n (!q.waiting.isEmpty), waiting := q.waiting.drop 1 }

/-- The events that wait at an EQ are written as far as they can be: while the function is READY and a page's walk is not
awaited. A full EQ loses them and counts them; once a slot is free, EQ_LOST goes first (R43). An event whose write fails its
translation is lost and counted, and so is one that an EQ_LOST of which the write fails stands before; the count then stands on for
the next EQ_LOST. -/
def State.eqFlush (s : State) (i : Nat) : Nat → State
  | 0 => s
  | n + 1 =>
    match s.ten.eqs.get? i with
    | none => s
    | some e =>
      if !s.fnReady e.fn then s
      else if e.full then
        s.updEq i fun q => { q with lost := q.lost + q.waiting.length, waiting := [] }
      else if 0 < e.lost then
        match s.eqPut i e { code := 6, status := 0, object := i, param0 := w64 e.lost, param1 := 0 } with
        | (s, .written) => (s.updEq i fun q => { q with lost := q.lost - e.lost }).eqFlush i n
        | (s, .failed) => if e.waiting.isEmpty then s else (s.eqLose i).eqFlush i n
        | (s, .waits) => s
      else match e.waiting with
        | [] => s
        | v :: _ =>
          match s.eqPut i e v with
          | (s, .written) => (s.updEq i fun q => { q with waiting := q.waiting.drop 1 }).eqFlush i n
          | (s, .failed) => (s.eqLose i).eqFlush i n
          | (s, .waits) => s

/-- The steps that a flush of an EQ can take. -/
def State.eqDue (s : State) (i : Nat) : Nat :=
  match s.ten.eqs.get? i with
  | some e => e.waiting.length + 2
  | none => 0

/-- An event for an EQ (R42). Nothing is written for a draining function (R280). -/
def State.eqEvent (s : State) (i : Nat) (v : Event) : State :=
  match s.ten.eqs.get? i with
  | none => s
  | some e =>
    if (s.fn e.fn).drain.isSome then s
    else
      let s := s.updEq i fun q => { q with waiting := q.waiting ++ [v] }
      s.eqFlush i (s.eqDue i)

/-- Every EQ writes what waits there. -/
def State.eqFlushAll (s : State) : State :=
  s.ten.eqs.foldl (fun s p => if p.2.waiting.isEmpty && p.2.lost = 0 then s else s.eqFlush p.1 (s.eqDue p.1)) s

/-- An event with numeric parameters. -/
def ev (code status object p0 p1 : Nat) : Event :=
  { code := code, status := status, object := object, param0 := w64 p0, param1 := w64 p1 }

/-! ### Queue pairs -/

/-- The state with a queue pair changed. -/
def State.updQp (s : State) (i : Nat) (f : Qp → Qp) : State := { s with ten.qps := s.ten.qps.upd i f }

/-- A queue pair with an identifier that is in use (not in quarantine). -/
def State.qp? (s : State) (i : Nat) : Option Qp :=
  match s.ten.qps.get? i with
  | some q => if q.st = .quarantine then none else some q
  | none => none

/-- STATE code of a queue pair (Table 2.9). -/
def QpState.code : QpState → Nat
  | .reset => 0
  | .init => 1
  | .ready => 2
  | .draining => 3
  | .error => 4
  | .quarantine => 5

/-- MTU in bytes (Table 2.8). -/
def mtuOf (code : Nat) : Nat := match code with
  | 0 => 256
  | 1 => 1024
  | 2 => 2048
  | _ => 4096

/-- The slot of a ring count (R25). -/
def slotOf (n : Count32) (log : Nat) : Nat := n.toNat % ringSize log

/-! ### Completion queues (R35 to R41) -/

/-- The state with a CQ changed. -/
def State.updCq (s : State) (i : Nat) (f : Cq → Cq) : State := { s with ten.cqs := s.ten.cqs.upd i f }

/-- A CQ is full (R39). -/
def Cq.full (c : Cq) : Bool := decide (ringSize c.logSize ≤ (c.prod - c.cons).toNat)

/-- A CQ with one more completion waiting has no room for it (R39): what admission asks. -/
def Cq.busy (c : Cq) : Bool := decide (ringSize c.logSize ≤ (c.prod - c.cons).toNat + c.waiting.length)

/-- A completion qualifies for a solicited arm (R41). -/
def Cqe.qual (c : Cqe) : Bool := c.solicited || c.status != 0

/-- The stall of a full CQ with a completion waiting starts, or ends (R39). -/
def Cq.stall (c : Cq) (now : Nat) : Cq :=
  if c.full && !c.waiting.isEmpty then { c with stallAt := some (c.stallAt.getD now) } else { c with stallAt := none }

/-- The entries that a completion covers are freed once it has been written (R25). -/
def State.freeSq (s : State) (f : Option (Nat × Count32)) : State :=
  match f with
  | some (q, n) => s.updQp q fun v => { v with sqCons := n }
  | none => s

/-- A completion waits to be written to its CQ; one meant for a failed CQ is discarded (R40), and so is one of a function
that drains (R280). -/
def State.cqe (s : State) (cq : Nat) (c : Cqe) : State :=
  match s.ten.cqs.get? cq with
  | none => s
  | some q =>
    if q.st = .error || (s.fn q.fn).drain.isSome then s
    else s.updCq cq fun q => Cq.stall { q with waiting := q.waiting ++ [c] } s.now

/-- The four words of a completion (Table 2.6). -/
def cqeWords (c : Cqe) (phase : Bool) (time : Nat) : List Word :=
  [c.cookie,
   w64 (c.bytes % 2 ^ 32 + c.status % 256 * 2 ^ 32 + c.qp % 2 ^ 21 * 2 ^ 40 + c.kind % 8 * 2 ^ 61),
   w64 (time % 2 ^ 32 + c.info % 2 ^ 18 * 2 ^ 32 + b2n phase * 2 ^ 50 + b2n c.batch * 2 ^ 51 + b2n c.implicit * 2 ^ 52
     + b2n c.solicited * 2 ^ 53 + b2n c.srcValid * 2 ^ 54),
   c.w3]

/-- CQ_NOTIFY (R41): written on the CQ's EQ, and the CQ disarms. -/
def State.cqNotify (s : State) (i : Nat) : State :=
  match s.ten.cqs.get? i with
  | some c => (s.updCq i fun c => { c with arm := .none }).eqEvent c.eq (ev 1 0 i c.prod.toNat 0)
  | none => s

/-! ### Retirement of an SQ's jobs (R25, R37, R38, R48) -/

/-- The send completion of a job: status, ENTRIES, flags and what it frees. BYTES is 0 for a job that failed or was flushed, whatever
part of it was transferred, and ENTRIES is written modulo 65,536, which is 0 for a run of 65,536 entries (DESIGN CHOICE, log 55). -/
def jobCqe (q : Nat) (v : Qp) (j : Job) (status entries : Nat) (batch implicit : Bool) : Cqe :=
  { cookie := j.cookie, bytes := if status = 0 then j.bytes else 0, status := status, qp := q, kind := 0,
    info := slotOf j.ring v.sqLog, batch := batch, implicit := implicit, solicited := false, srcValid := false,
    w3 := w64 (entries % 65536 + j.op % 256 * 65536), frees := some (q, j.ring + BitVec.ofNat 32 j.entries) }

/-- One finished head job of an SQ leaves it (R37): IMPLICIT before the uncovered entries would exceed 65,535, a completion
of its own when it failed or was MALFORMED, one with BATCH, one with SIGNAL; otherwise it stays uncovered. -/
def State.retireOne (s : State) (q : Nat) (v : Qp) (j : Job) (status : Nat) : State :=
  let s := s.updQp q fun v => { v with jobs := v.jobs.drop 1 }
  let full := decide (65535 < v.uncov + j.entries)
  let s : State := if full then
      match v.lastJob with
      | some p => s.cqe v.sendCq { jobCqe q v p 0 v.uncov false true with bytes := p.bytes }
      | none => s
    else s
  let uncov := if full then 0 else v.uncov
  if status != 0 then
    let n := if v.st = .error then uncov + j.entries else j.entries
    (s.cqe v.sendCq (jobCqe q v j status n false false)).updQp q fun v => { v with uncov := 0, lastJob := none }
  else if j.batch then
    (s.cqe v.sendCq (jobCqe q v j 0 (uncov + j.entries) true false)).updQp q fun v => { v with uncov := 0, lastJob := none }
  else if j.signal then
    (s.cqe v.sendCq (jobCqe q v j 0 j.entries false false)).updQp q fun v => { v with uncov := 0, lastJob := none }
  else s.updQp q fun v => { v with uncov := uncov + j.entries, lastJob := some j }

/-- The finished head jobs of an SQ leave it in ring order (R38). -/
def State.retire (s : State) (q : Nat) : Nat → State
  | 0 => s
  | n + 1 =>
    match s.ten.qps.get? q with
    | none => s
    | some v =>
      match v.jobs with
      | [] => s
      | j :: _ =>
        match j.status with
        | some st => (s.retireOne q v j st).retire q n
        | none => s

/-- The SQ's finished jobs leave it. -/
def State.retireAll (s : State) (q : Nat) : State :=
  match s.ten.qps.get? q with
  | some v => s.retire q (v.jobs.length + 1)
  | none => s

/-- The state with a job of a queue pair changed. -/
def State.updJob (s : State) (q : Nat) (ring : Count32) (f : Job → Job) : State :=
  s.updQp q fun v => { v with jobs := v.jobs.map fun j => if j.ring = ring then f j else j }

/-- A job of a queue pair that has started. -/
def State.job? (s : State) (q : Nat) (ring : Count32) : Option Job :=
  match s.ten.qps.get? q with
  | some v => v.jobs.find? fun j => j.ring == ring
  | none => none

/-! ### RQ entries (R34) -/

/-- The SGEs of an RQ entry, and whether it is well formed (R30, R34). An SGE beyond SGES is unused and 0. -/
def rqSges (e : Words8) : Option (List Sge) :=
  let n := bitsOf e.w0 0 4
  if bitsOf e.w0 4 60 != 0 || 3 < n then none
  else
    let gs := [(e.w2, e.w3), (e.w4, e.w5), (e.w6, e.w7)]
    let used := gs.take n
    if (gs.drop n).any (fun g => g.1 != 0 || g.2 != 0) then none
    else if used.any (fun g => bitsOf g.2 33 31 != 0 || bitsOf g.2 0 32 = 0
        || (!bitAt g.2 32 && bitsOf g.1 48 16 != 0)) then none
    else some (used.map fun g => { addr := g.1.toNat, len := bitsOf g.2 0 32, hbm := bitAt g.2 32 })

/-- The completion of an RQ entry that took no message: MALFORMED, ACCESS or FLUSHED, with no source. -/
def rqCqe (q : Nat) (v : Qp) (cookie : Word) (status : Nat) : Cqe :=
  { cookie := cookie, bytes := 0, status := status, qp := q, kind := 1, info := slotOf v.rqCons v.rqLog, batch := false,
    implicit := false, solicited := false, srcValid := false, w3 := 0, frees := none }

/-- The next RQ entry is taken: consumed in ring order (R25, R34). -/
def State.rqDrop (s : State) (q : Nat) : State :=
  s.updQp q fun v => { v with rqBuf := v.rqBuf.drop 1, rqCons := v.rqCons + 1 }

/-- RQ entries that cannot take a message complete MALFORMED, or ACCESS for an HBM buffer that the function does not hold,
and the next one is tried (R34). -/
def State.rqSkip (s : State) (q : Nat) : Nat → State
  | 0 => s
  | n + 1 =>
    match s.ten.qps.get? q with
    | none => s
    | some v =>
      match v.rqBuf with
      | .entry e :: _ =>
        match rqSges e with
        | none => ((s.cqe v.recvCq (rqCqe q v e.w1 St.malformed)).rqDrop q).rqSkip q n
        | some gs =>
          if gs.any (fun g => g.hbm && !s.hbmOwned v.fn g.addr g.len) then
            ((s.cqe v.recvCq (rqCqe q v e.w1 St.access)).rqDrop q).rqSkip q n
          else s
      | _ => s

/-- What an RQ holds for a message (R23, R34): an entry that can take it, before any whose ring access failed; one whose access
failed, before any that can; or neither. -/
def State.rqOffers (s : State) (fn : Nat) : List RqEnt → Option Bool
  | [] => none
  | .bad _ :: _ => some false
  | .entry e :: es =>
    match rqSges e with
    | none => s.rqOffers fn es
    | some gs => if gs.any (fun g => g.hbm && !s.hbmOwned fn g.addr g.len) then s.rqOffers fn es else some true

/-- An RQ entry waits for a message. -/
def Qp.rqReady (v : Qp) : Bool := !v.rqBuf.isEmpty

end Sys2Proof.Machine
end

