-- ==== Sys2Proof/Machine/TcsOps.lean ====
section
/-! DEFINITION. The traffic-class set: values staged and in force, the checks of a commit, and the boot loader's
commit (09_traffic R204 to R209). -/

namespace Sys2Proof.Machine

open Sys2Proof

/-- A TCS value in force (R207): the register's reset value until a commit changed it. -/
def State.tcsVal (s : State) (off : Nat) : Word := (s.tcs.force.get? off).getD (resetOf off)

/-- A rate field in 0.01 %; values above 10,000 are taken as 10,000. -/
def tcsRate (v : Nat) : Nat := Nat.min v 10000

/-- The lanes of a set, ascending. -/
def lanesOf (m : BitVec 4) : List Nat := (List.range 4).filter fun i => m.getLsbD i

/-- A field of four lanes as a set. -/
def laneSet (n : Nat) : BitVec 4 := BitVec.ofNat 4 n

/-- ACTIVE of a port. -/
def State.active (s : State) (p : Nat) : BitVec 4 := laneSet (s.rdF (R.LNK_STATE p) F.LNK_STATE_ACTIVE)

/-- A port's current rate in bytes per ns (R202; 11_lanes R255): 25 for each fabric lane; 10 for each four span lanes, 5 at
speed 1. -/
def State.portRate (s : State) (p : Nat) : Nat :=
  let n := (lanesOf (s.active p)).length
  if p < 64 then 25 * n else if s.rdF (R.SPN_STAT (p - 64)) F.SPN_STAT_SPEED_NOW = 1 then 5 * n else 10 * n

/-! ### Policers (R202) -/

/-- A policer's rates and sizes: CIR and PIR in 0.01 %, CBS and PBS in 1/10,000 byte. -/
structure Policer where
  cir : Nat
  pir : Nat
  cbs : Nat
  pbs : Nat
deriving DecidableEq, Repr

/-- The policer that a register's word describes. -/
def policerOf (w : Word) : Policer :=
  { cir := tcsRate (getF w F.TCS_IPOL_CIR), pir := tcsRate (getF w F.TCS_IPOL_PIR),
    cbs := getF w F.TCS_IPOL_CBS * 640000, pbs := getF w F.TCS_IPOL_PBS * 640000 }

/-- A policer of the set in force. -/
def State.policer (s : State) (off : Nat) : Policer := policerOf (s.tcsVal off)

/-- A bucket that has come into force: full. -/
def Policer.full (k : Policer) (t : Nat) : Bucket := { c := k.cbs, p := k.pbs, tc := t, tp := t }

/-- The lesser of two amounts. -/
def minInt (a b : Int) : Int := if a < b then a else b

/-- The buckets at a time, with a reference rate in bytes per ns. -/
def Policer.fill (k : Policer) (b : Bucket) (rate t : Nat) : Bucket :=
  { c := minInt k.cbs (b.c + (k.cir * rate * (t - b.tc) : Nat)), p := minInt k.pbs (b.p + (k.pir * rate * (t - b.tp) : Nat)),
    tc := t, tp := t }

/-- Buckets that keep at most a policer's sizes (R209). -/
def Policer.cap (k : Policer) (b : Bucket) : Bucket := { b with c := minInt k.cbs b.c, p := minInt k.pbs b.p }

/-- A policer whose CIR, CBS, PIR and PBS all change begins full (R209). -/
def Policer.anew (k m : Policer) (a b : Word) : Bool :=
  k.cir != m.cir && k.pir != m.pir && getF a F.TCS_IPOL_CBS != getF b F.TCS_IPOL_CBS && getF a F.TCS_IPOL_PBS != getF b F.TCS_IPOL_PBS

/-- The buckets of one policer when a set comes into force at a time (R209): filled at the old rate up to it, then at most the new
size; a policer that begins full has no entry. -/
def renewed (t : Tbl Bucket) (n : Nat) (old new : Word) (rate now : Nat) : Tbl Bucket :=
  let k := policerOf old
  let m := policerOf new
  if old = new then t
  else if k.anew m old new then t.erase n
  else t.set n (m.cap (k.fill ((t.get? n).getD (k.full now)) rate now))

/-- RES[p][c] in a set of values (TCS_RES_A, TCS_RES_B). -/
def resIn (get : Nat → Word) (p c : Nat) : Nat :=
  if c < 4 then bitsOf (get (R.TCS_RES_A p)) (16 * c) 16 else bitsOf (get (R.TCS_RES_B p)) (16 * (c - 4)) 16

/-- RES[p][c] in force. -/
def State.res (s : State) (p c : Nat) : Nat := resIn s.tcsVal p c

/-- RTT_MAX[p] in force. -/
def State.rttMax (s : State) (p : Nat) : Nat := getF (s.tcsVal (R.TCS_PORT p)) F.TCS_PORT_RTT_MAX

/-- W[c] of a port for c = 2 to 7; 0 is taken as 1. -/
def wIn (get : Nat → Word) (p c : Nat) : Nat := Nat.max 1 (bitsOf (get (R.TCS_PORT p)) (8 * (c - 2)) 8)

/-- The guaranteed rate of class c at port p in 0.01 %, as the numerator and denominator of a fraction (R206). -/
def fIn (get : Nat → Word) (p c : Nat) : Nat × Nat :=
  let cir := fun k => tcsRate (getF (get (R.TCS_OPOL (8 * p + k))) F.TCS_OPOL_CIR)
  if c < 2 then (cir c, 1)
  else ((10000 - cir 0 - cir 1) * wIn get p c, ((List.range 6).map fun k => wIn get p (k + 2)).foldl (· + ·) 0)

/-- The least RES[p][c] (R206): 130 + RTC[p][c]. -/
def resMin (get : Nat → Word) (p c : Nat) : Nat :=
  let f := fIn get p c
  130 + ceilDiv (getF (get (R.TCS_PORT p)) F.TCS_PORT_RTT_MAX * (if p < 64 then 800 else 320) * f.1) (5120000 * f.2)

/-- A policer fails check 1: PIR < CIR or PBS < CBS. -/
def polBad (w : Word) : Bool :=
  decide (tcsRate (getF w F.TCS_IPOL_PIR) < tcsRate (getF w F.TCS_IPOL_CIR))
    || decide (getF w F.TCS_IPOL_PBS < getF w F.TCS_IPOL_CBS)

/-- The first pair of a port of a list and a class of a list that a predicate picks. -/
def firstPC (ps cs : List Nat) (bad : Nat → Nat → Bool) : Option (Nat × Nat) :=
  ps.findSome? fun p => (cs.find? (bad p)).map fun c => (p, c)

/-- The checks of Table 9.3, in order, over a set of values and the ports in use: cause, port (127 if none), class. -/
def tcsCheck (get : Nat → Word) (used : List Nat) : Option (Nat × Nat × Nat) :=
  match (List.range 8).find? (fun c => polBad (get (R.TCS_IPOL c))) with
  | some c => some (1, 127, c)
  | none =>
    match firstPC used [1, 2, 3, 4, 5, 6, 7] (fun p c => polBad (get (R.TCS_OPOL (8 * p + c)))) with
    | some (p, c) => some (1, p, c)
    | none =>
      let i0 := get (R.TCS_IPOL 0)
      if tcsRate (getF i0 F.TCS_IPOL_CIR) > 500 || getF i0 F.TCS_IPOL_CBS * 64 > 1280 then some (2, 127, 0)
      else
        match used.find? (fun p => let w := get (R.TCS_OPOL (8 * p))
            decide (tcsRate (getF w F.TCS_OPOL_CIR) > 2500) || decide (getF w F.TCS_OPOL_CBS * 64 > 2048)) with
        | some p => some (3, p, 0)
        | none =>
          match firstPC used (List.range 8) (fun p c => decide (resIn get p c < resMin get p c)) with
          | some (p, c) => some (4, p, c)
          | none =>
            let sum := (used.map fun p => ((List.range 8).map fun c => resIn get p c).foldl (· + ·) 0).foldl (· + ·) 0
            if 4 * sum + 7280 > 3145728 then some (5, 127, 0) else none

/-- The exchange state of a port before any training. -/
def portXInit : PortX :=
  { initRx := false, probesTx := 0, probesRx := 0, rtt := 0, credRx0 := false, credRx1 := false, timed := false,
    peerUsable := 0xF, ownReq := none, peerReq := none, again := [], nextReq := 0, change := none, breakAt := none,
    cmd := false, initDue := 0, training := none, trainAt := none, graceAt := none, lastTime := none, blames := [], idleRun := 0,
    blocks := 0, rxBlocks := 0, idleSince := 0, winTx := 0, winRx := 0, actTx := 0, actRx := 0, tcsHeld := false, missed := [], words := [], fecBad := [],
    txRd := 0, rxRd := 0, locked := 0 }

/-- The exchange state of a port. -/
def State.px (s : State) (p : Nat) : PortX := (s.lnk.exch.get? p).getD portXInit

/-- The state with a port's exchange state changed. -/
def State.updX (s : State) (p : Nat) (f : PortX → PortX) : State :=
  { s with lnk.exch := s.lnk.exch.set p (f (s.px p)) }

/-- A port is in use (Table 9.3): its ROLE is not UNUSED and it is not held down under R208. -/
def State.inUse (s : State) (p : Nat) : Bool := s.role p != 0 && !(s.px p).tcsHeld

/-- The ports in use. -/
def State.portsUsed (s : State) : List Nat := (List.range 67).filter s.inUse

/-- The BAR0 offsets of the TCS registers that are staged. -/
def tcsOffsets : List Nat :=
  (List.range 8).map R.TCS_SHARE ++ (List.range 8).map R.TCS_IPOL ++ (List.range 67).map R.TCS_PORT
    ++ (List.range 67).map R.TCS_RES_A ++ (List.range 67).map R.TCS_RES_B ++ (List.range 536).map R.TCS_OPOL

/-- A staged TCS register. -/
def isTcsStaged (off : Nat) : Bool :=
  off % 8 == 0 && ((R.TCS_SHARE 0 ≤ off && off < R.TCS_SHARE 8) || (R.TCS_IPOL 0 ≤ off && off < R.TCS_IPOL 8)
    || (R.TCS_PORT 0 ≤ off && off < R.TCS_PORT 67) || (R.TCS_RES_A 0 ≤ off && off < R.TCS_RES_A 67)
    || (R.TCS_OPOL 0 ≤ off && off < R.TCS_OPOL 536))

/-- The staged set, as a table of the values that are not the reset values. -/
def State.staged (s : State) : Tbl Word := s.regs.filter fun p => isTcsStaged p.1

/-- A set that has been checked comes into force (R209): buckets are filled at the old rates up to now and keep at most their new
size, and grains a raised reservation adds are released for credit return on the ports that run; what a lowered one lacks is
withheld from later returns. -/
def State.tcsInForce (s : State) (set : Tbl Word) : State :=
  let old := s
  let s := { s with tcs.force := set, tcs.coming := none }
  let renew := fun (base rate : Nat → Nat) (n : Nat) (t : Tbl Bucket) =>
    (List.range n).foldl (fun t i => renewed t i (old.tcsVal (base i)) (s.tcsVal (base i)) (rate i) s.ft) t
  let owed := fun (p v : Nat) => (s.rte.debt.get? (p * 32 + v)).getD 0
  let raise := fun (q : Nat × Port) =>
    (q.1, { q.2 with freed := (List.range 32).foldl (fun t v =>
      let d := s.res q.1 (v / 4) - old.res q.1 (v / 4) - owed q.1 v
      if d = 0 then t else t.set v (((t.get? v).getD 0) + BitVec.ofNat 32 d)) q.2.freed })
  let runs := fun (p : Nat) => s.portUp p || s.portState p = 4
  let debts := s.lnk.ports.foldl (fun t q => if !runs q.1 then t else (List.range 32).foldl (fun t v =>
      let n := owed q.1 v + old.res q.1 (v / 4) - s.res q.1 (v / 4)
      if n = 0 then t.erase (q.1 * 32 + v) else t.set (q.1 * 32 + v) n) t) s.rte.debt
  { s with
    rte.ipol := renew R.TCS_IPOL (fun _ => 100) 8 s.rte.ipol,
    rte.opol := renew R.TCS_OPOL (fun i => old.portRate (i / 8)) 536 s.rte.opol,
    rte.debt := debts,
    lnk.ports := s.lnk.ports.map fun q => if runs q.1 then raise q else q }

/-- A commit is in progress. -/
def State.tcsBusy (s : State) : Bool := s.rdF R.TCS_COMMIT F.TCS_COMMIT_BUSY == 1

/-- A rejection recorded in TCS_COMMIT. -/
def State.tcsReject (s : State) (cause port cls : Nat) : State :=
  s.wrFs R.TCS_COMMIT [(F.TCS_COMMIT_REJECT, 1), (F.TCS_COMMIT_CAUSE, cause), (F.TCS_COMMIT_PORT, port),
    (F.TCS_COMMIT_CLASS, cls)]

/-- The set in force gives a port that is not UNUSED the reservations that R206 asks for; no port is brought up without them
(R208). -/
def State.resOk (s : State) (p : Nat) : Bool :=
  s.role p == 0 || (List.range 8).all fun c => decide (resMin s.tcsVal p c ≤ s.res p c)

/-- QOS_COMMIT (Table 9.5). -/
def State.qosCommit (s : State) (cause port cls rid boot : Nat) : State :=
  s.note 0x0720 91 cause (port + cls * 256) rid boot

/-- The loader's commit at boot (R208): it holds ports down until a commit is accepted; the flag says that the blob is
rejected with reason QOS. -/
def State.tcsBoot (s : State) : Nat → State × Bool
  | 0 => (s, true)
  | n + 1 =>
    let hold := fun (t : State) p => t.updX p fun x => { x with tcsHeld := true }
    let down := fun (t : State) p => t.wrFs (R.LNK_STATE p) [(F.LNK_STATE_HELD, 1), (F.LNK_STATE_CAUSE, 9)]
    match tcsCheck s.rd s.portsUsed with
    | none => ((s.qosCommit 0 127 0 0x1000 1).tcsInForce s.staged, false)
    | some (cause, port, cls) =>
      let s := s.qosCommit cause port cls 0x1000 1
      if cause = 5 then
        match s.portsUsed.reverse.head? with
        | some p => (down (hold s p) p).tcsBoot n
        | none => (s, true)
      else if port < 67 then (down (hold s port) port).tcsBoot n
      else (s, true)

/-- A held port may be released by OP 3 (LNK_CMD, R208): the set in force passes with the port included. -/
def State.tcsReleases (s : State) (p : Nat) : Bool :=
  (tcsCheck s.tcsVal ((List.range 67).filter fun q => s.inUse q || q == p)).isNone

end Sys2Proof.Machine
end

