-- ==== Sys2Proof/Machine/TimeOps.lean ====
section
/-! DEFINITION. Time passes: local time, fabric time and the calendar advance (10_link R236, 15_power R354), and the counters that
count per clock cycle count (19_performance_counters R399, R402). With it the heads of the output queues, which one of those
counters watches (09_traffic R197, R198, R202). -/

namespace Sys2Proof.Machine

open Sys2Proof

/-! ### Output queues (09_traffic R197 to R203) -/

/-- The quadrant of a port's reference (Table 1.3): sixteen fabric ports each; the span ports use REFCLK_FAB[0]. -/
def quadrant (p : Nat) : Nat := if p < 64 then p / 16 else 0

/-- A port's sequence and credit state at the start of a training (R231): NEXT = UNA = E = 0. -/
def portInit : Port :=
  { next := 0, una := 0, e := 0, nak := false, nakDue := false, store := [], replay := none, replayFrom := none,
    replays := 0, replayDue := 0, ackOpen := [], lastFmt1 := false, lastAck := 0, rxMain := none, rxPre := none, txMain := none,
    txPre := none, ctrl := [], credit := [], seen := [], freed := [], carried := [], uncarried := [], stall := [] }

/-- A port's link-layer state. -/
def State.port (s : State) (p : Nat) : Port := (s.lnk.ports.get? p).getD portInit

/-- A transmitter in electrical idle sends nothing (R253, R262). -/
def State.silent (s : State) (p : Nat) : Bool :=
  if p < 64 then (lanesOf (s.active p)).any fun i => s.rdF (R.LAN_STAT (4 * p + i)) F.LAN_STAT_EI == 1
  else s.rdF (R.SPN_STAT (p - 64)) F.SPN_STAT_EI == 1

/-- The key of a lane queue: port, then virtual lane. -/
def laneKey (p v : Nat) : Nat := 32 * p + v

/-- The packets queued on a lane of a port. -/
def State.laneQ (s : State) (p v : Nat) : List BPkt := (s.rte.queues.get? (laneKey p v)).getD []

/-- The grains queued at a port in a class (R182, R184). -/
def State.queuedIn (s : State) (port tc : Nat) : Nat :=
  (List.range 4).foldl (fun a i =>
    ((s.rte.queues.get? (port * 32 + tc * 4 + i)).getD []).foldl (fun a b => a + grainsOf b.pkt) a) 0

/-! ### Policers (R202, R203) -/

/-- A colour. -/
inductive Colour where
  | green | yellow | red
deriving DecidableEq, Repr

/-- The colour of `len` bytes at filled buckets. For TC0 at a router output the peak bucket is ignored. -/
def Policer.colour (k : Policer) (b : Bucket) (len : Nat) (noPeak : Bool) : Colour :=
  let l := len * 10000
  let c := decide ((Nat.min l k.cbs : Int) ≤ b.c)
  let p := decide ((Nat.min l k.pbs : Int) ≤ b.p)
  if noPeak then (if c then .green else .red)
  else if c && p then .green else if p then .yellow else .red

/-- What a colour debits. -/
def Bucket.debit (b : Bucket) (col : Colour) (len : Nat) (noPeak : Bool) : Bucket :=
  let l : Int := (len * 10000 : Nat)
  match col with
  | .green => { b with c := b.c - l, p := if noPeak then b.p else b.p - l }
  | .yellow => { b with p := b.p - l }
  | .red => b

/-- The bytes that a policer counts for a packet. -/
def polLen (p : Packet) : Nat := 64 + payLen p

/-- An output policer's buckets at this time. -/
def State.outBucket (s : State) (port cls : Nat) : Bucket :=
  let k := s.policer (R.TCS_OPOL (8 * port + cls))
  k.fill ((s.rte.opol.get? (8 * port + cls)).getD (k.full s.ft)) (s.portRate port) s.ft

/-- The head of a lane is eligible (R198): credit, and for TC1 to TC7 a colour that is not red. -/
def State.headOk (s : State) (p v : Nat) : Option BPkt :=
  match s.laneQ p v with
  | [] => none
  | b :: _ =>
    let c := v / 4
    let room := decide (grainsOf b.pkt ≤ ((s.port p).credit.get? v).getD 0)
    let k := s.policer (R.TCS_OPOL (8 * p + c))
    if room && (c == 0 || k.colour (s.outBucket p c) (polLen b.pkt) false != .red) then some b else none

/-! ### Buffer grains (R204, R205) -/

/-- The grains in reservations of ports in use and in the local reserve. -/
def State.reserved (s : State) : Nat :=
  7280 + 4 * s.portsUsed.foldl (fun a p => (List.range 8).foldl (fun a c => a + s.res p c) a) 0

/-- The grains of the common pool that packets hold. -/
def State.poolUsed (s : State) : Nat := s.rte.poolHeld.foldl (fun a q => a + q.2) 0

/-- The places of the rotation that hold a packet's grains (R13). -/
def BPkt.banks (b : BPkt) : List Nat := (List.range b.grains).map fun i => (b.bank + i) % 128

/-! ### Counting per clock cycle (19_performance_counters R399, Table 19.2) -/

/-- A group of events: its codes, from 1, and its units, from 0. -/
def evSizes : Nat → Nat × Nat
  | 1 => (7, 67)
  | 2 => (2, 67)
  | 3 => (2, 5)
  | 4 => (6, 4)
  | 5 => (4, 4)
  | 6 => (2, 2)
  | 7 => (4, 1)
  | 8 => (4, 2)
  | 9 => (3, 2)
  | _ => (0, 0)

/-- The domain of a unit of a group (01_architecture Table 1.1). -/
def evDom (g u : Nat) : Nat :=
  match g with
  | 1 => 87 + quadrant u
  | 2 => 87 + quadrant u
  | 3 => 87 + u
  | 4 => 69 + u
  | 5 => 73 + u
  | 6 => 77 + u
  | 7 => 85
  | 8 => 64 + u
  | _ => 79 + u

/-- The event is not reserved, and the unit lies in its range. -/
def evValid (e u : Nat) : Bool :=
  decide (1 ≤ e % 256) && decide (e % 256 ≤ (evSizes (e / 256)).1) && decide (u < (evSizes (e / 256)).2)

/-- The cycles of a unit's clock up to a time: 1.75 GHz or 1.4 GHz, of which a throttled domain runs (8 − n) of every 8
(15_power R345; that a throttled cycle counts nothing is DEDUCED, log 20). None while its domain is OFF or in SLEEP. -/
def State.cycles (s : State) (g u t : Nat) : Nat :=
  let d := evDom g u
  let st := s.rdF (R.PWR_DOM_STAT d) F.PWR_DOM_STAT_STATE
  if st = 0 || st = 4 then 0
  else t * 7 * (8 - s.rdF (R.PWR_DOM_STAT d) F.PWR_DOM_STAT_THROTTLE_NOW) / (if g ≤ 3 then 32 else 40)

/-- The cycles of a unit's clock from one time to another. -/
def State.cyclesIn (s : State) (g u a b : Nat) : Nat := s.cycles g u b - s.cycles g u a

/-- The packets that hold grains of the packet buffer. -/
def State.inBuffer (s : State) : List BPkt := s.rte.buffered ++ s.rte.queues.flatMap Prod.snd ++ s.rte.localQ

/-- The common-pool grains that a class holds in a quadrant. -/
def State.poolIn (s : State) (q c : Nat) : Nat :=
  s.inBuffer.foldl (fun a b => if b.pool && b.cls == c then a + b.banks.countP (fun k => k / 32 == q) else a) 0

/-- A sum over the classes that a mask admits. -/
def overTcs (mask : Nat) (f : Nat → Nat) : Nat :=
  (List.range 8).foldl (fun a c => if mask / 2 ^ c % 2 = 1 then a + f c else a) 0

/-- The value of an occupancy event at this moment. A quadrant has a quarter of the common pool (DESIGN CHOICE, log 20). -/
def State.occupancy (s : State) (e u mask : Nat) : Option Nat :=
  let pool := 3145728 - s.reserved
  match e with
  | 0x0103 => some (overTcs mask (s.queuedIn u))
  | 0x0301 => some (if u = 4 then pool - s.poolUsed else pool / 4 - (List.range 8).foldl (fun a c => a + s.poolIn u c) 0)
  | 0x0302 => some (overTcs mask fun c => if u = 4 then (s.rte.poolHeld.get? c).getD 0 else s.poolIn u c)
  | 0x0405 => some ((s.mat.msgs.countP fun m => m.dstQp % 4 == u && (match m.at_ with
      | .placing _ _ => true
      | _ => false)) + s.mat.fetches.countP fun f => f.2.localQp % 4 == u && !f.2.disc)
  | 0x0503 => some (s.mat.msgs.countP fun m => m.dstQp % 4 == u && m.at_ == .held)
  | 0x0504 => some (s.mat.ctxs.foldl (fun a c => if c.1 % 4 = u then a + c.2.charge else a) 0)
  | 0x0602 => some (s.grps.countP fun g => g.1 % 2 == u && (match g.2.op with
      | some o => o.active
      | none => false))
  | 0x0703 => some s.xlt.walks.length
  | 0x0803 => some (s.tra.hreqs.foldl (fun a h => if fnPort h.2.fn = u then a + h.2.reqs else a) 0)
  | _ => none

/-- The time until a head is not red, in ns; none if its peak rate is 0. -/
def State.redFor (s : State) (p v : Nat) (b : BPkt) : Option Nat :=
  let k := s.policer (R.TCS_OPOL (8 * p + v / 4))
  let lack := (Nat.min (polLen b.pkt * 10000) k.pbs : Int) - (s.outBucket p (v / 4)).p
  let rate := k.pir * s.portRate p
  if v / 4 = 0 || lack ≤ 0 then some 0 else if rate = 0 then none else some (ceilDiv lack.toNat rate)

/-- The earlier of two times, if any. -/
def sooner : Option Nat → Option Nat → Option Nat
  | some a, some b => some (Nat.min a b)
  | some a, none => some a
  | none, b => b

/-- Event 0x0104 in the next `d` ns: the link is free, no head is eligible, and some head lacks only credit. From when, and until
when: a head becomes eligible as its policer fills. -/
def State.starved (s : State) (p d : Nat) : Nat × Nat :=
  let q := s.port p
  if !s.portUp p || s.silent p || q.txMain.isSome || q.txPre.isSome then (0, 0)
  else
    let heads := (List.range 32).filterMap fun v => (s.laneQ p v).head?.map fun b => (v, b)
    let first := fun (room : Bool) => heads.foldl (fun a h =>
      if decide (grainsOf h.2.pkt ≤ (q.credit.get? h.1).getD 0) = room then sooner a (s.redFor p h.1 h.2) else a) none
    match first false with
    | some a => (a, Nat.max a (Nat.min d ((first true).getD d)))
    | none => (0, 0)

/-- The cycles of event 0x0104 in the next `d` ns. -/
def State.starves (s : State) (p d : Nat) : Nat :=
  let t := s.starved p d
  s.cyclesIn 1 p (s.now + t.1) (s.now + t.2)

/-- What the cycles of the next `d` ns add to a counter with selection `sel` (Table 19.1). -/
def State.selCycles (s : State) (sel : Word) (d : Nat) : Nat :=
  let e := getF sel F.CNT_SEL_EVENT
  let u := getF sel F.CNT_SEL_UNIT
  let th := getF sel F.CNT_SEL_THRESH
  let mode := getF sel F.CNT_SEL_MODE
  let n := s.cyclesIn (e / 256) u s.now (s.now + d)
  if getF sel F.CNT_SEL_ENABLE = 0 || !evValid e u || 4 ≤ mode then 0
  else if mode = 3 then n
  else match s.occupancy e u (getF sel F.CNT_SEL_TC_MASK) with
    | some v => if mode = 1 then (if th < v then n else 0) else v * n
    | none => if e = 0x0104 && (mode != 1 || th == 0) then s.starves u d else 0

/-- The counters that count per cycle count for `d` ns. -/
def State.tick (s : State) (d : Nat) : State :=
  let t := s.selected.foldl (fun t p =>
    let k := s.selCycles p.2 d
    if k = 0 then t else t.wr (R.CNT_VAL p.1) (cntAdd (t.rd (R.CNT_VAL p.1)) k)) s
  (s.rte.queues.map fun q => q.1 / 32).eraseDups.foldl (fun t p =>
    let n := s.starves p d
    if n = 0 then t else t.portCount p 6 n) t

/-! ### Time -/

/-- `d` ns pass: local time, fabric time and the calendar advance (R236, R354), and what counts per cycle counts. Nothing else moves. -/
def State.pass (s : State) (d : Nat) : State :=
  let s := s.tick d
  let g := slewGain s.lnk.slew s.lnk.slewRem d
  let c := calGain s.pwr.calErr s.pwr.calRem d
  let run := s.rdF R.FTH_TIME F.FTH_TIME_TIME_VALID = 1
  let src1 := s.rdF R.FTH_TIME F.FTH_TIME_SOURCE = 1
  { s with now := s.now + d, ft := s.ft + d + g, lnk.slew := s.lnk.slew - g,
           lnk.slewRem := slewLeft s.lnk.slew s.lnk.slewRem d,
           pwr.cal := if run then ((s.pwr.cal + d + (if src1 then g else 0) : Nat) + c).toNat else s.pwr.cal,
           pwr.calErr := if run then s.pwr.calErr - c else s.pwr.calErr,
           pwr.calRem := if run then slewLeft s.pwr.calErr.natAbs s.pwr.calRem d else s.pwr.calRem }

/-- The block idles for a nanosecond. -/
def State.idle (s : State) : State := s.pass 1

/-- Time passes until `t` at the earliest. -/
def State.passTo (s : State) (t : Nat) : State := if s.now < t then s.pass (t - s.now) else s

end Sys2Proof.Machine
end

