-- ==== Sys2Proof/Machine/SpaceOps.lean ====
section
/-! DEFINITION. PSN spaces: sending and acknowledging, NAKs, timers, resends; flows; and the end of jobs with their
transient windows (03_transport R53 to R69, R94, R117). -/

namespace Sys2Proof.Machine

open Sys2Proof

/-! ### Spaces -/

/-- A space in which nothing has been sent or received. -/
def spaceInit : Space :=
  { sendNext := 0, sendUna := 0, sent := [], past := [], resends := [], recvE := 0, recvMap := 0, rto := 0, retries := 0,
    deadline := none, cnLast := 0, accepted := 0, ackAt := none, ackCn := 0, ackTc := 0, ackPkey := 0, nakSeq := none }

/-- A node-pair context after device reset: IDLE (R55). -/
def npInit : NodePair :=
  { st := .idle, peerInc := 0, known := false, syncId := 0, ownSync := 0, syncPsn := 0, ackPsn := 0, sp := spaceInit }

/-- A node-pair context. -/
def State.np (s : State) (n : Nat) : NodePair := (s.tra.nodes.get? n).getD npInit

/-- The state with a node-pair context set. -/
def State.setNp (s : State) (n : Nat) (v : NodePair) : State := { s with tra.nodes := s.tra.nodes.set n v }

/-- A PSN space. -/
def State.space (s : State) : SpaceId → Space
  | .conn q => match s.ten.qps.get? q with
    | some v => v.sp
    | none => spaceInit
  | .node n => (s.np n).sp

/-- The state with a PSN space changed. -/
def State.updSp (s : State) (id : SpaceId) (f : Space → Space) : State :=
  match id with
  | .conn q => s.updQp q fun v => { v with sp := f v.sp }
  | .node n => let v := s.np n; s.setNp n { v with sp := f v.sp }

/-- The discards that the manual says are counted, where it gives no register for the count: reserved types, duplicates, PSNs
outside the window, packets of a node pair that is not ACTIVE or of another incarnation, packets for a queue pair without a
receive PSN, acknowledgements that name no space, NAKs of a reserved reason or for no job, messages LATE at the gate, messages
discarded, and control flits of a reserved CTYPE (03_transport R65, R68, R72; 04_matching R48, R79, R87; 10_link R219). -/
inductive Drop where
  | type | dup | window | inactive | noPsn | ack | nak | late | message | ctype
deriving DecidableEq, Repr

/-- The number of a kind of discard. -/
def Drop.code : Drop → Nat
  | .type => 0
  | .dup => 1
  | .window => 2
  | .inactive => 3
  | .noPsn => 4
  | .ack => 5
  | .nak => 6
  | .late => 7
  | .message => 8
  | .ctype => 9

/-- A discard is counted. -/
def State.tally (s : State) (d : Drop) : State :=
  { s with tra.tally := s.tra.tally.set d.code ((s.tra.tally.get? d.code).getD 0 + 1) }

/-- The transfer-engine slice that serves a space (R16). -/
def spSlice : SpaceId → Nat
  | .conn q => q % 4
  | .node n => n % 4

/-- PSNs from `a` up to `b`, modulo 2^24. -/
def psnDist (b a : Psn) : Nat := (b - a).toNat

/-- Room in the PSN window (R64). -/
def Space.room (p : Space) : Bool := decide (psnDist p.sendNext p.sendUna < 256)

/-- The space has an unacknowledged packet. -/
def Space.open_ (p : Space) : Bool := !p.sent.isEmpty

/-! ### Timers (Table 3.6) -/

def State.rtoInit (s : State) : Nat := 1000 * s.tmr R.TEN_XPORT_TMR F.TEN_XPORT_TMR_RTO_INIT 5 1000
def State.rtoMax (s : State) : Nat := Nat.max s.rtoInit (1000 * s.tmr R.TEN_XPORT_TMR F.TEN_XPORT_TMR_RTO_MAX 1000 32000)
def State.retryLimit (s : State) : Nat := s.tmr R.TEN_XPORT_TMR F.TEN_XPORT_TMR_RETRY_LIMIT 1 15
def State.ackCount (s : State) : Nat := s.tmr R.TEN_XPORT_TMR F.TEN_XPORT_TMR_ACK_COUNT 1 255
def State.ackDelay (s : State) : Nat := 250 * s.tmr R.TEN_XPORT_TMR F.TEN_XPORT_TMR_ACK_DELAY 1 64
/-- The stale limit in ns (R189). -/
def State.staleNs (s : State) : Nat := 500000 * clamp 1 64 (s.rdF R.RTE_CTL F.RTE_CTL_STALE_LIMIT)
/-- GATE_HOLD in ns (R105). -/
def State.gateHold (s : State) : Nat := 1000000 * Nat.max 1 (s.rdF R.MAT_CTL F.MAT_CTL_GATE_HOLD)

/-! ### Acknowledgements and NAKs (R66, R68) -/

/-- The addressing of packets that a space sends to its peer (R66). -/
def State.toPeer (s : State) (id : SpaceId) (p : Packet) : Packet :=
  match id with
  | .conn q => match s.ten.qps.get? q with
    | some v => { p with dstNode := v.remote.node, dstQp := v.remote.qp, dstGen := v.remote.gen, srcQp := q,
                         srcGen := v.gen, node := false }
    | none => p
  | .node n => { p with dstNode := n, node := true }

/-- A packet injected past the policer (R66, R203). -/
def State.injectFree (s : State) (p : Packet) : State :=
  { s with rte.injected := s.rte.injected ++ [s.stamped p] }

/-- SACK of a space: PSNs E + 1 to E + 64. -/
def Space.sack (p : Space) : Word := BitVec.setWidth 64 (p.recvMap >>> 1)

/-- The path of an ACK or NAK: a queue pair that delivers ORDERED sends it in order, on its flow's FLOWLET (R62). -/
def State.ackPath (s : State) (id : SpaceId) (p : Packet) : Packet :=
  match id with
  | .conn q => match s.ten.qps.get? q with
    | some v => if v.spray then p else { p with ord := true, flowlet := v.flow.flowlet }
    | none => p
  | .node _ => p

/-- An ACK of a space, in the class and with the key of the packet that prompted it (R66). -/
def State.ack (s : State) (id : SpaceId) (tc : Nat) (pkey : BitVec 16) : State :=
  let p := s.space id
  let s := (s.event 0x0402 (spSlice id)).injectFree (s.ackPath id (s.toPeer id { pktZero with
    type := 0x08, tc := tc, pkey := pkey, psn := p.recvE, w4 := p.sack, w5 := w64 p.ackCn }))
  s.updSp id fun p => { p with accepted := 0, ackAt := none, ackCn := 0 }

/-- A NAK of a space (R68): the refused PSN, the reason, and BACKOFF for BUSY. -/
def State.nak (s : State) (id : SpaceId) (tc : Nat) (pkey : BitVec 16) (psn : Psn) (reason backoff : Nat) : State :=
  let p := s.space id
  (s.event 0x0402 (spSlice id)).injectFree (s.ackPath id (s.toPeer id { pktZero with
    type := 0x09, tc := tc, pkey := pkey, psn := psn, w4 := p.sack,
    w5 := w64 (reason + backoff % 16 * 256 + p.ackCn % 16 * 4096), w6 := w64 p.recvE.toNat }))

/-- NAK STALE to a CONNECTED sender whose queue pair is not there (R66): it takes nothing from any space. -/
def State.nakStale (s : State) (p : Packet) : State :=
  (s.event 0x0402 (p.dstQp % 4)).injectFree { pktZero with
    type := 0x09, tc := p.tc, pkey := p.pkey, psn := p.psn, w5 := w64 3, dstNode := p.srcNode, dstQp := p.srcQp,
    dstGen := p.srcGen, srcQp := p.dstQp, srcGen := p.dstGen, node := false }

/-- How a PSN stands to a receive window (R65). -/
inductive PsnClass where
  | dup
  | outside
  | seq
  | new (d : Nat)
deriving DecidableEq, Repr

/-- The classification of R65. -/
def Space.classify (p : Space) (k : Packet) : PsnClass :=
  let d := psnDist k.psn p.recvE
  if 0x800000 ≤ d then .dup
  else if 256 ≤ d then .outside
  else if p.recvMap.getLsbD d then .dup
  else if k.ord && !k.node && d != 0 then .seq
  else .new d

/-- E advances over the received PSNs (R65). -/
def advanceE : Nat → Psn → BitVec 256 → Psn × BitVec 256
  | 0, e, m => (e, m)
  | n + 1, e, m => if m.getLsbD 0 then advanceE n (e + 1) (m >>> 1) else (e, m)

/-- A PSN is recorded as received (R65). -/
def State.psnTaken (s : State) (id : SpaceId) (psn : Psn) : State :=
  s.updSp id fun p =>
    let d := psnDist psn p.recvE
    if 256 ≤ d then p
    else
      let r := advanceE 257 p.recvE (p.recvMap ||| ((1 : BitVec 256) <<< d))
      { p with recvE := r.1, recvMap := r.2 }

/-- A packet has been accepted: it counts toward the coalesced ACK, or is acknowledged at once (R66). The ACK that ACK_DELAY
brings takes the class and key of the last packet accepted (DESIGN CHOICE, log 58). -/
def State.accepted (s : State) (id : SpaceId) (k : Packet) (now : Bool) : State :=
  let s := s.updSp id fun p => { p with
    accepted := p.accepted + 1, ackCn := Nat.max p.ackCn k.cn, ackTc := k.tc, ackPkey := k.pkey,
    ackAt := some (p.ackAt.getD (s.now + s.ackDelay)) }
  let p := s.space id
  if now || k.ackReq || p.recvMap != 0 || s.ackCount ≤ p.accepted then s.ack id k.tc k.pkey else s

/-! ### Sending (R64, R69) -/

/-- A new packet of a space: it takes the next PSN, becomes unacknowledged, starts the timer if it is the first, and is
injected. ACK_REQ is also set on the last packet of a PSN window (R66). -/
def State.sendNew (s : State) (id : SpaceId) (k : Packet) (owner : Owner) (off : Nat) (busy : Option Nat) : State :=
  let p := s.space id
  let k := { s.toPeer id { k with psn := p.sendNext } with ackReq := k.ackReq || psnDist p.sendNext p.sendUna = 255 }
  let t : Sent := { psn := p.sendNext, hdr := { k with payload := [] }, owner := owner, off := off,
                    len := k.payload.length, marked := false, due := false, busy := busy }
  let s := s.updSp id fun p =>
    let p := if p.open_ then p else { p with rto := s.rtoInit, deadline := some (s.now + s.rtoInit), retries := 0 }
    { p with sendNext := p.sendNext + 1, sent := p.sent ++ [t] }
  (s.event 0x0402 (spSlice id)).inject k

/-- A packet sent again under its PSN with RETX = 1 and fresh payload bytes (R69). -/
def State.sendAgain (s : State) (id : SpaceId) (t : Sent) (bs : List Byte) : State :=
  let s := s.updSp id fun p => { p with sent := p.sent.map fun u => if u.psn = t.psn then { u with due := false } else u }
  ((s.event 0x0402 (spSlice id)).event 0x0403 (spSlice id)).inject { t.hdr with payload := bs, retx := true }

/-- The space an unacknowledged packet's owner keeps data in, when no memory is read for it: nothing, or inline bytes. -/
def State.ownBytes (s : State) (o : Owner) (off len : Nat) : Option (List Byte) :=
  if len = 0 then some []
  else match o with
    | .job q r => match s.job? q r with
      | some j => if j.inl.isEmpty then none else some (slice j.inl off len)
      | none => none
    | _ => none

/-- Every unacknowledged, unmarked packet that a predicate picks is retransmitted: at once where no memory is read for it;
otherwise it is due, and its owner's next send reads it again. -/
def State.retransmit (s : State) (id : SpaceId) (pick : Sent → Bool) : State :=
  (s.space id).sent.foldl (fun s t =>
    if t.marked || !pick t then s
    else match s.ownBytes t.owner t.off t.len with
      | some bs => s.sendAgain id t bs
      | none => s.updSp id fun p => { p with sent := p.sent.map fun u => if u.psn = t.psn then { u with due := true } else u })
    s

/-- The acknowledged point and SACK bits of an ACK or NAK (R67): the packets that it acknowledges first, and the space after it. -/
def Space.acked (p : Space) (a : Psn) (sack : Word) (now rto : Nat) : List Sent × Space :=
  let d := psnDist a p.sendUna
  let n := psnDist p.sendNext p.sendUna
  let fwd := decide (1 ≤ d) && decide (d ≤ n)
  let una := if fwd then a else p.sendUna
  let gone := fun (t : Sent) => fwd && decide (psnDist t.psn p.sendUna < d)
  let hit := fun (t : Sent) => (List.range 64).any fun i => bitAt sack i && t.psn == a + 1 + BitVec.ofNat 24 i
  let rest := (p.sent.filter fun t => !gone t).map fun t => if hit t then { t with marked := true, due := false } else t
  let news := p.sent.filter fun t => !t.marked && (gone t || hit t)
  (news, { p with
    sendUna := una, sent := rest, past := p.past ++ p.sent.filter gone,
    rto := if fwd then rto else p.rto, retries := if fwd then 0 else p.retries,
    deadline := if rest.isEmpty then none else if fwd then some (now + rto) else p.deadline })

/-- The space a job of a queue pair sends in: the connection's, or the node-pair context of its destination. -/
def jobSpace (q : Nat) (v : Qp) (j : Job) : SpaceId := if v.node then .node j.dst.node else .conn q

/-- Every packet a job has sent has been acknowledged, and none waits for a BUSY resend. -/
def Space.clear (p : Space) (o : Owner) : Bool :=
  !(p.sent.any fun t => t.owner == o && !t.marked) && !(p.resends.any fun r => r.sent.owner == o)

/-! ### The end of jobs (R28, R94, R117) -/

/-- The transient windows lie from this index upward (R94). -/
def transientBase : Nat := 0xFF0000

/-- A late NAK (R117): it ends an accepted request; it counts in RMA_REFUSE. -/
def State.lateNak (s : State) (r : Resp) (reason : Nat) : State :=
  (s.bump (R.RMA_REFUSE (if reason = 6 then 1 else 6)) F.RMA_REFUSE_COUNT 1).nak r.sp r.tc r.pkey r.psn reason 0

/-- The responses to a window with bytes unsent end with a late NAK REVOKED (R110 step 2); their number. -/
def State.endResps (s : State) (w : Nat) : State × Nat :=
  let hit := s.tra.resps.filter fun r => r.2.win == w && !r.2.atomic && !r.2.allSent && !r.2.gone
  let s := hit.foldl (fun s r => s.lateNak r.2 6) s
  ({ s with tra.resps := s.tra.resps.map fun r =>
      if r.2.win == w && !r.2.atomic && !r.2.allSent && !r.2.gone then (r.1, { r.2 with allSent := true, gone := true }) else r },
   hit.length)

/-- A transient window is revoked when its job ends (R94, R110): REVOKE_COMPLETE takes it into QUARANTINE. -/
def State.closeTransient (s : State) (j : Job) : State :=
  match j.win with
  | some w =>
    let r := s.endResps w
    { r.1 with wins := r.1.wins.upd w fun v => { v with st := .revoking, gen := v.gen + 1, revoke := none } }
  | none => s

/-- The key of a NODE flow: queue pair, destination node and queue pair. -/
def flowKey (q node dq : Nat) : Nat := (q * 2 ^ 18 + node) * 2 ^ 21 + dq

/-- The NODE flows of packets that no longer wait for an acknowledgement are without them from now on (R58). -/
def State.quietFlows (s : State) (id : SpaceId) (ts : List Sent) : State :=
  match id with
  | .conn _ => s
  | .node n => ts.foldl (fun s t => { s with
      tra.flows := s.tra.flows.upd (flowKey t.hdr.srcQp n t.hdr.dstQp) fun f => { f with quiet := s.now } }) s

/-- A packet refused BUSY is not sent again once the job it belongs to has ended. -/
def State.dropResends (s : State) (id : SpaceId) (o : Owner) : State :=
  let mine := ((s.space id).resends.filter fun r => r.sent.owner == o).map fun r => r.sent
  (s.updSp id fun p => { p with resends := p.resends.filter fun r => r.sent.owner != o }).quietFlows id mine

/-- A job finishes with a status; finished head jobs then leave the SQ. A job whose packets stay unacknowledged is kept
aside, so that they can be sent again and leave no hole in their space (DEDUCED, log 24). -/
def State.finish (s : State) (q : Nat) (ring : Count32) (status : Nat) : State :=
  match s.ten.qps.get? q, s.job? q ring with
  | some v, some j =>
    if j.status.isSome then s
    else
      let s := (((s.closeTransient j).forget fun a => a == Asker.job q ring)).updJob q ring fun j => { j with
        status := some status, trapped := false, win := none }
      let s := s.dropResends (jobSpace q v j) (.job q ring)
      let s : State := if !((s.space (jobSpace q v j)).clear (.job q ring)) then
          s.updQp q fun v => { v with ghosts := { j with win := none } :: v.ghosts }
        else s
      s.retireAll q
  | _, _ => s

/-- The conditions under which a running job is complete (R28, R96): its packets acknowledged; returned data placed; a
rendezvous SEND served to its end. -/
def jobDone (p : Space) (q : Nat) (j : Job) : Bool :=
  let o := Owner.job q j.ring
  if j.op = 5 || j.op = 6 then j.allSent && p.clear o && j.gets.isEmpty && decide (j.len ≤ j.placed)
  else if j.rts then j.allSent && p.clear o && (decide (j.len ≤ j.respAck) || j.closing)
  else if j.op ≤ 4 && 1 ≤ j.op then j.allSent && p.clear o
  else false

/-- A job is finished if its conditions hold now. -/
def State.jobCheck (s : State) (q : Nat) (ring : Count32) : State :=
  match s.ten.qps.get? q, s.job? q ring with
  | some v, some j =>
    let id := jobSpace q v j
    let respsOpen := j.rts && j.closing && (s.tra.resps.any fun r => r.2.rdv == some (q, ring) && !r.2.gone)
    if j.status.isNone && jobDone (s.space id) q j && !respsOpen then
      (s.updJob q ring fun j => { j with bytes := j.len }).finish q ring St.ok
    else s
  | _, _ => s

/-- Every running job of a queue pair that is complete finishes. -/
def State.jobsCheck (s : State) (q : Nat) : State :=
  match s.ten.qps.get? q with
  | some v => v.jobs.foldl (fun s j => s.jobCheck q j.ring) s
  | none => s

/-! ### Flows (R57, R58, R185) -/

/-- A flow at its start. -/
def flowInit : Flow := { next := 0, flowlet := 0, mark := false, first := true, quiet := 0 }

/-- The flow of a job of a queue pair. -/
def State.flowOf (s : State) (q : Nat) (v : Qp) (d : Dest) : Flow :=
  if v.node then (s.tra.flows.get? (flowKey q d.node d.qp)).getD flowInit else v.flow

/-- The state with a flow changed. -/
def State.updFlow (s : State) (q : Nat) (v : Qp) (d : Dest) (f : Flow → Flow) : State :=
  if v.node then { s with tra.flows := s.tra.flows.set (flowKey q d.node d.qp) (f (s.flowOf q v d)) }
  else s.updQp q fun v => { v with flow := f v.flow }

/-- The unacknowledged packets of a flow in its space. -/
def flowOpen (p : Space) (q : Nat) (node : Bool) (dq : Nat) : Nat :=
  (p.sent.filter fun t => !t.marked && t.hdr.srcQp == q && (!node || t.hdr.dstQp == dq)).length

/-- An ORDERED_ONLY job of a flow is part-sent: it keeps one FLOWLET (R63). -/
def Qp.pinned (v : Qp) (d : Dest) : Bool :=
  v.spray && v.jobs.any fun j => j.ord && j.status.isNone && (!v.node || (j.dst.node == d.node && j.dst.qp == d.qp))
    && (j.pos != 0 || j.allSent)

/-- The FLOWLET of an ORD packet that a flow sends now (R62, R185): moved on while the flow has no unacknowledged packet
and is marked. -/
def State.flowlet (s : State) (q : Nat) (v : Qp) (id : SpaceId) (d : Dest) : State × Nat :=
  let f := s.flowOf q v d
  if f.mark && flowOpen (s.space id) q v.node d.qp = 0 && !v.pinned d then
    (s.updFlow q v d fun f => { f with flowlet := (f.flowlet + 1) % 16, mark := false }, (f.flowlet + 1) % 16)
  else (s, f.flowlet)

/-- An acknowledgement with CN_ECHO at or above FLOWLET_CN marks the flows whose packets it acknowledges (R185), and the
echo is kept (Table 3.2). -/
def State.echo (s : State) (id : SpaceId) (cn : Nat) (news : List Sent) : State :=
  let lim := s.rdF R.RTE_AR_CTL F.RTE_AR_CTL_FLOWLET_CN
  let s := s.updSp id fun p => { p with cnLast := cn }
  if lim = 0 || cn < lim then s
  else match id with
    | .conn q => s.updQp q fun v => { v with flow := { v.flow with mark := true } }
    | .node n => news.foldl (fun s t => if t.hdr.ord then
        { s with tra.flows := s.tra.flows.upd (flowKey t.hdr.srcQp n t.hdr.dstQp) fun f => { f with mark := true } } else s) s

/-! ### A space's packets acknowledged -/

/-- A response has a memory access outstanding. -/
def State.respBusy (s : State) (id : Nat) : Bool := s.tra.hreqs.any fun h => h.2.for_ == .resp id || h.2.for_ == .atom id

/-- A response whose packets have all been sent and acknowledged, and whose memory accesses have ended, is over (R71, R110); a
rendezvous job counts its bytes (R96). -/
def State.respCheck (s : State) (id : Nat) : State :=
  match s.tra.resps.get? id with
  | some r =>
    if r.allSent && (s.space r.sp).clear (.resp id) && !s.respBusy id then
      let s := { s with tra.resps := s.tra.resps.erase id }.forget fun a => a == Asker.resp id
      match r.rdv with
      | some (q, ring) => s.jobCheck q ring
      | none => s
    else s
  | none => s

/-- Responses are given up: nothing further is sent for them, and they are over once their accesses have ended. -/
def State.giveUpResps (s : State) (pick : Nat → Resp → Bool) : State :=
  let hit := s.tra.resps.filter fun r => pick r.1 r.2
  let s := { s with tra.resps := s.tra.resps.map fun r => if pick r.1 r.2 then (r.1, { r.2 with allSent := true, gone := true }) else r }
  hit.foldl (fun s r => s.respCheck r.1) s

/-- What follows from packets having been acknowledged: flows grow quiet, responses and jobs end. -/
def State.afterAck (s : State) (news : List Sent) : State :=
  news.foldl (fun s t =>
    match t.owner with
    | .job q ring =>
      let s : State := match s.ten.qps.get? q with
        | some v => if v.node then
            { s with tra.flows := s.tra.flows.upd (flowKey q t.hdr.dstNode t.hdr.dstQp) fun f => { f with quiet := s.now } } else s
        | none => s
      let s := s.updQp q fun v => { v with
        ghosts := v.ghosts.filter fun g => !((s.space (jobSpace q v g)).clear (.job q g.ring)) }
      s.jobCheck q ring
    | .resp id =>
      let s : State := match s.tra.resps.get? id with
        | some r => match r.rdv with
          | some (q, ring) => if r.gone then s else s.updJob q ring fun j => { j with respAck := j.respAck + t.len }
          | none => s
        | none => s
      s.respCheck id
    | .fetch _ => s) s

/-- The owner of a packet still runs: a job without a status, a fetch, a response. -/
def State.ownerRuns (s : State) : Owner → Bool
  | .job q r => (s.job? q r).any (·.status.isNone)
  | .fetch i => (s.mat.fetches.get? i).isSome
  | .resp i => (s.tra.resps.get? i).isSome

/-- The acknowledgement of an ACK or NAK acts on a space (R67). A NAK's refusal `act` comes after it and before anything that
follows for the owner it refuses. -/
def State.takeAckBut (s : State) (id : SpaceId) (a : Psn) (sack : Word) (cn : Nat) (o : Option Owner) (act : State → State) :
    State :=
  let r := (s.space id).acked a sack s.now s.rtoInit
  let s := ((s.updSp id fun _ => r.2).echo id cn r.1).afterAck (r.1.filter fun t => o != some t.owner)
  let s := (act s).afterAck (r.1.filter fun t => o == some t.owner)
  s.updSp id fun p => { p with past := p.past.filter fun t => s.ownerRuns t.owner }

/-- An acknowledgement acts on a space (R67). -/
def State.takeAck (s : State) (id : SpaceId) (a : Psn) (sack : Word) (cn : Nat) : State :=
  s.takeAckBut id a sack cn none fun s => s

end Sys2Proof.Machine
end

