-- ==== Sys2Proof/Machine/MatchOps.lean ====
section
/-! DEFINITION. Matching contexts, store accounts and the gate's state (04_matching R76 to R91, R100 to R103): what the
failures of queue pairs and the delivery of messages share. -/

namespace Sys2Proof.Machine

open Sys2Proof

/-! ### Contexts -/

/-- A context whose identifier is in use (READY or ERROR). -/
def State.mctx? (s : State) (i : Nat) : Option Mctx :=
  match s.mat.ctxs.get? i with
  | some c => if c.st = .quarantine then none else some c
  | none => none

/-- The state with a context changed. -/
def State.updMctx (s : State) (i : Nat) (f : Mctx → Mctx) : State := { s with mat.ctxs := s.mat.ctxs.upd i f }

/-- The fields of a receive entry (Table 4.2). -/
def reNode (e : Words8) : Nat := bitsOf e.w3 0 18
def reQp (e : Words8) : Nat := bitsOf e.w3 18 21
def reAnyNode (e : Words8) : Bool := bitAt e.w3 39
def reAnyQp (e : Words8) : Bool := bitAt e.w3 40
def reReject (e : Words8) : Bool := bitAt e.w3 41
def reLen (e : Words8) : Nat := bitsOf e.w5 0 32

/-- A receive entry and a message match (R81). -/
def matches_ (e : Words8) (m : Msg) : Bool :=
  (m.bits ^^^ e.w0) &&& ~~~ e.w1 == 0 && (reAnyNode e || m.srcNode == reNode e) && (reAnyQp e || m.srcQp == reQp e)
    && !(reReject e && decide (reLen e < m.len))

/-- The buffer of a receive entry of a context attached to a queue pair. -/
def reBuffer (q : Nat) (v : Qp) (e : Words8) : Buffer :=
  { qp := q, asid := v.asid, cap := reLen e,
    sges := if reLen e = 0 then [] else [{ addr := e.w4.toNat, len := reLen e, hbm := bitAt e.w5 32 }] }

/-! ### Store accounts (R101 to R103) -/

/-- The charge of a message in grains (R101). -/
def chargeOf (m : Msg) : Nat := if m.rts then 1 else 1 + ceilDiv m.len 64

/-- The size of the unexpected-store and collective-staging region in bytes (R14, Table 1.4): what the fixed regions and
the ring region leave of 48 GiB, at most 32 GiB. -/
def State.storeBytes (s : State) : Nat := Nat.min (32 * 2 ^ 30) (hbmSize - 13 * 2 ^ 29 - s.boot.ringUnits * 2 ^ 29)

/-- FLOW_LOG: log2 of the entries of the flow table. -/
def State.flowLog (s : State) : Nat := s.rdF R.TEN_XPORT_CTL F.TEN_XPORT_CTL_FLOW_LOG

/-- The grains of the region that flow and gate tables leave (R58, R86). -/
def State.storeGrains (s : State) : Nat := (s.storeBytes - 2 * 16 * 2 ^ s.flowLog) / 64

/-- The grains in use there: charged messages and the groups' staging (R101, R138). -/
def State.storeUsed (s : State) : Nat :=
  (s.mat.msgs.foldl (fun a m => if m.charged then a + chargeOf m else a) 0)
    + s.grps.foldl (fun a g => a + g.2.staging * 64) 0

/-- UNEXP_LIMIT of a context in grains. -/
def Mctx.limitGrains (c : Mctx) : Nat := c.limit * 1024

/-- RQ_HOLD in grains. -/
def State.rqHold (s : State) : Nat := s.rdF R.MAT_CTL F.MAT_CTL_RQ_HOLD * 64

/-- The store can take a message (R101, R102): its account and the region have room; `head` lifts the account's limit and
opens the region's last 64 MiB. -/
def State.storeTakes (s : State) (m : Msg) (head : Bool) : Bool :=
  let n := chargeOf m
  let region := if head then s.storeGrains else s.storeGrains - 2 ^ 20
  let account := if m.matched then
      match s.mctx? m.ctx with
      | some c => decide (c.charge + n ≤ c.limitGrains)
      | none => false
    else match s.ten.qps.get? m.dstQp with
      | some v => decide (v.rqHeld + n ≤ s.rqHold)
      | none => false
  decide (s.storeUsed + n ≤ region) && (head || account)

/-- A message is charged to its account; UNEXP_HIGH is written once above 7/8 of the limit (R103). -/
def State.charge (s : State) (m : Msg) : State :=
  let n := chargeOf m
  if m.matched then
    match s.mctx? m.ctx with
    | some c =>
      let c' := { c with charge := c.charge + n }
      let rise := 7 * c.limitGrains < 8 * c'.charge && !c.high
      let s := s.updMctx m.ctx fun _ => if rise then { c' with high := true } else c'
      match s.ten.qps.get? c.qp with
      | some v => if rise then s.eqEvent v.eq (ev 0x0403 0 m.ctx c'.charge c.limitGrains) else s
      | none => s
    | none => s
  else s.updQp m.dstQp fun v => { v with rqHeld := v.rqHeld + n }

/-- A message's charge is released (R101). -/
def State.release (s : State) (m : Msg) : State :=
  if !m.charged then s
  else if m.matched then
    s.updMctx m.ctx fun c =>
      let k := c.charge - chargeOf m
      { c with charge := k, high := c.high && decide (c.limitGrains ≤ 2 * k) }
  else s.updQp m.dstQp fun v => { v with rqHeld := v.rqHeld - chargeOf m }

/-! ### Messages in placement (R70) -/

/-- Two messages have one identity. -/
def Msg.same (a : Msg) (srcNode srcQp dstQp : Nat) (msn : Msn) : Bool :=
  a.srcNode == srcNode && a.srcQp == srcQp && a.dstQp == dstQp && a.msn == msn

/-- A message that still takes packets: not one whose MSN a later life of the flow may use again once it is complete. -/
def Msg.open_ (a : Msg) : Bool := decide (a.count < a.len) || (a.len == 0 && a.count == 0)

/-- The message in placement of an identity. -/
def State.msg? (s : State) (srcNode srcQp dstQp : Nat) (msn : Msn) : Option Msg :=
  s.mat.msgs.find? fun m => m.same srcNode srcQp dstQp msn && m.open_ && !m.rts

/-- The state with the messages that a predicate picks changed. -/
def State.updMsgs (s : State) (pick : Msg → Bool) (f : Msg → Msg) : State :=
  { s with mat.msgs := s.mat.msgs.map fun m => if pick m then f m else m }

/-- The state without the messages that a predicate picks. -/
def State.dropMsgs (s : State) (pick : Msg → Bool) : State :=
  { s with mat.msgs := s.mat.msgs.filter fun m => !pick m }

/-! ### Rendezvous fetches (R95) -/

/-- The space in which the target of a message sends toward its source. -/
def msgSpace (m : Msg) : SpaceId := if m.node then .node m.srcNode else .conn m.dstQp

/-- A fetch for a rendezvous message: its GET_REQs go to the sender's window (R95). -/
def fetchOf (m : Msg) (buf : Buffer) (rcv : RecvTo) (disc : Bool) : Fetch :=
  let want := if disc then 0 else Nat.min m.len buf.cap
  { sp := msgSpace m, dst := { node := m.srcNode, qp := m.srcQp, gen := m.srcGen }, localQp := m.dstQp, tc := m.tc,
    pkey := m.pkey, node := m.node, key := m.key, srcOff := m.srcOff, srcNode := m.srcNode, srcQp := m.srcQp,
    bits := m.bits, solicit := m.solicit, total := m.len, want := want, next := 0, outs := [], placed := 0,
    closing := if disc then .due (BitVec.allOnes 64) else if want < m.len then .due (m.srcOff + w64 m.len) else .none,
    disc := disc, ended := false, buf := buf, rcv := rcv }

/-- The state with a new fetch, under a number that is never used again. -/
def State.addFetch (s : State) (f : Fetch) : State :=
  { s with tra.tag := s.tra.tag + 1, mat.fetches := s.mat.fetches.set s.tra.tag f }

/-- A fetch whose receive has ended (R79): the answers to its outstanding requests are refused. With none outstanding it sends
the discarding closing GET, as for a message that was not yet in placement (DEDUCED, log 61). -/
def Fetch.close (f : Fetch) : Fetch :=
  if f.outs.isEmpty && !f.closing.out then
    { f with disc := true, want := 0, next := 0, placed := 0, closing := .due (BitVec.allOnes 64) }
  else { f with disc := true, ended := true, want := 0, placed := 0, closing := if f.closing.out then f.closing else .none }

/-- A message is discarded: its charge is released, and a rendezvous message gets the discarding closing GET (R48, R79,
R95). -/
def State.discardMsg (s : State) (m : Msg) : State :=
  let s := (s.release m).tally .message
  if m.rts then
    s.addFetch (fetchOf m { qp := m.dstQp, asid := 0, sges := [], cap := 0 }
      { kind := 2, cq := 0, cookie := 0, ring := 0, ctx := m.ctx } true)
  else s

/-- The messages that a predicate picks are discarded. -/
def State.discardMsgs (s : State) (pick : Msg → Bool) : State :=
  ((s.mat.msgs.filter pick).foldl (fun s m => s.discardMsg m) s).dropMsgs pick

/-! ### The gate's state (R86) -/

/-- A gate at its start. -/
def gateInit : Gate := { next := 0, slots := [], last := 0 }

/-- The key of a NODE gate entry. -/
def gateKey (srcNode srcQp dstQp : Nat) : Nat := (srcNode * 2 ^ 21 + srcQp) * 2 ^ 21 + dstQp

/-- The gate of a flow, if it has one. -/
def State.gate? (s : State) (node : Bool) (srcNode srcQp dstQp : Nat) : Option Gate :=
  if node then s.tra.gates.get? (gateKey srcNode srcQp dstQp)
  else match s.ten.qps.get? dstQp with
    | some v => some v.gate
    | none => none

/-- The state with a flow's gate set. -/
def State.setGate (s : State) (node : Bool) (srcNode srcQp dstQp : Nat) (g : Gate) : State :=
  if node then { s with tra.gates := s.tra.gates.set (gateKey srcNode srcQp dstQp) g }
  else s.updQp dstQp fun v => { v with gate := g }

/-- A slot of a gate; EMPTY is none. -/
def Gate.slot (g : Gate) (m : Msn) : Option GateSlot := (g.slots.find? fun p => p.1 == m).map Prod.snd

/-- A slot set, or emptied. -/
def Gate.setSlot (g : Gate) (m : Msn) (v : Option GateSlot) : Gate :=
  let rest := g.slots.filter fun p => p.1 != m
  { g with slots := match v with
      | some x => (m, x) :: rest
      | none => rest }

/-- The held messages that a predicate picks leave their flows: their slots are stepped over (R88). -/
def State.ungate (s : State) (pick : Msg → Bool) : State :=
  (s.mat.msgs.filter fun m => pick m && m.at_ == .held).foldl (fun s m =>
    match s.gate? m.node m.srcNode m.srcQp m.dstQp with
    | some g => s.setGate m.node m.srcNode m.srcQp m.dstQp (g.setSlot m.msn (some .refused))
    | none => s) s

/-- The distinct flows of messages, as source node, source queue pair and destination queue pair. -/
def flowsOf (ms : List Msg) : List (Nat × Nat × Nat) := (ms.map fun m => (m.srcNode, m.srcQp, m.dstQp)).eraseDups

/-- GATE_DISCARD (R48, R90, R91): the held messages that a predicate picks are discarded and counted, one event for each
flow, on the EQ of its destination queue pair. -/
def State.gateDiscard (s : State) (pick : Msg → Bool) : State :=
  let held := s.mat.msgs.filter fun m => pick m && m.at_ == .held
  let s := (s.ungate pick).discardMsgs fun m => pick m && m.at_ == .held
  (flowsOf held).foldl (fun s f =>
    let n := (held.filter fun m => (m.srcNode, m.srcQp, m.dstQp) == f).length
    match s.ten.qps.get? f.2.2 with
    | some v => s.eqEvent v.eq (ev 0x0402 0 f.2.2 (f.1 + f.2.1 * 2 ^ 18) n)
    | none => s) s

/-- The completion of a matched receive (Table 4.4). -/
def matchCqe (cookie : Word) (bytes status srcQp srcNode : Nat) (solicited : Bool) (bits : Word) : Cqe :=
  { cookie := cookie, bytes := bytes, status := status, qp := srcQp, kind := 2, info := srcNode, batch := false,
    implicit := false, solicited := solicited, srcValid := false, w3 := bits, frees := none }

/-- The posted entries of a context complete FLUSHED, in post order (R79); their number. -/
def State.flushPosted (s : State) (i : Nat) (c : Mctx) : State :=
  (c.posted.foldl (fun s p => s.cqe c.cq (matchCqe p.e.w2 0 St.flushed 0 0 false 0)) s).updMctx i fun c =>
    { c with posted := [] }

/-- A context enters ERROR (R79): MCTX_ERROR, its posted entries flushed, its unexpected store emptied. -/
def State.mctxError (s : State) (i cause : Nat) : State :=
  match s.mctx? i with
  | some c =>
    if c.st != .ready then s
    else
      let s := s.updMctx i fun c => { c with st := .error }
      let s : State := match s.ten.qps.get? c.qp with
        | some v => s.eqEvent v.eq (ev 0x0404 cause i c.posted.length 0)
        | none => s
      (s.flushPosted i c).discardMsgs fun m => m.matched && m.ctx == i && m.at_ == .unexpected
  | none => s

/-- The contexts that a predicate picks enter ERROR. -/
def State.mctxErrors (s : State) (cause : Nat) (pick : Mctx → Bool) : State :=
  s.mat.ctxs.foldl (fun s p => if pick p.2 then s.mctxError p.1 cause else s) s

end Sys2Proof.Machine
end

