-- ==== Sys2Proof/Machine/FailOps.lean ====
section
/-! DEFINITION. Entry into ERROR of collective groups, queue pairs and completion queues, and the flush (02_queues R40,
R47, R48; 06_collectives R145 to R147). -/

namespace Sys2Proof.Machine

open Sys2Proof

/-! ### Groups (R145, R147) -/

/-- The state with a group changed. -/
def State.updGrp (s : State) (g : Nat) (f : Group → Group) : State := { s with grps := s.grps.upd g f }

/-- A group that is JOINING or READY. -/
def Group.live (g : Group) : Bool := g.st == .joining || g.st == .ready

/-- The word 4 of a collective packet (R134). -/
def collWord4 (g gen seq pass chunk : Nat) : Word :=
  w64 (g % 65536 + gen % 256 * 2 ^ 16 + seq % 65536 * 2 ^ 24 + pass % 4 * 2 ^ 40 + chunk % 4096 * 2 ^ 42)

/-- EDGE_TIMEOUT in ns (R151). -/
def State.edgeT (s : State) : Nat := 10000 * Nat.max 1 (s.rdF R.COL_CTL F.COL_CTL_EDGE_TIMEOUT)

/-- When an OP_TIMEOUT that starts now comes due; none while it is 0 (R146). -/
def State.opDue (s : State) : Option Nat :=
  let n := s.rdF R.COL_CTL F.COL_CTL_OP_TIMEOUT
  if n = 0 then none else some (s.now + 1000000 * n)

/-- A collective packet for an edge's port (R134, R136): it waits at its cluster's local position. -/
def State.collSend (s : State) (g : Nat) (v : Group) (e : Edge) (type len : Nat) (w4 w5 w6 : Word) (off : Nat)
    (payload : List Byte) : State :=
  let p := s.stamped { pktZero with
    type := type, tc := 1, dstNode := e.node, ord := true, pkey := v.pkey, offset := off, msgLen := len, w4 := w4, w5 := w5,
    w6 := w6, payload := payload }
  (s.enter e.port p).updGrp g fun v => { v with edges := v.edges.map fun x => if x.node = e.node then { x with txDue := s.now + s.edgeT / 8 } else x }

/-- Who failed an operation: the reason, the status of the event, whether detected here, and the origin. -/
structure GrpCause where
  reason : Nat
  status : Nat
  here   : Bool
  node   : Nat
  port   : Nat
  except_ : Option Nat
deriving DecidableEq, Repr

/-- Entry of a group into ERROR (R147 steps 1, 3 and 4): ABORT on every edge but the one it came from, GROUP_ERROR, the
slots freed; the local jobs of the active operation that have no status yet take REMOTE_OP. -/
def State.groupMark (s : State) (g : Nat) (c : GrpCause) : State :=
  match s.grps.get? g with
  | none => s
  | some v =>
    if !v.live then s
    else
      let seq := v.opSeq.toNat
      let s := v.edges.foldl (fun s e =>
        if c.except_ = some e.node then s
        else s.collSend g v e 0x13 (match v.op with | some o => o.desc.len | none => 0) (collWord4 g v.gen.toNat seq 0 0) 0
          (w64 (c.reason + c.node * 2 ^ 8 + c.port * 2 ^ 26)) 0 []) s
      let jobs := match v.op with
        | some o => o.jobs
        | none => []
      let s := jobs.foldl (fun s r => s.updJob v.bindQp r fun j => if j.status.isNone then { j with status := some St.remoteOp } else j) s
      let s := (s.forget fun a => a == Asker.coll g).updGrp g fun v => { v with
        st := .error, op := none, chunks := [], reason := c.reason, waiting := none }
      s.eqEvent v.eq (ev 0x0602 c.status g (c.reason + seq * 2 ^ 8 + b2n c.here * 2 ^ 24) (c.node + c.port * 2 ^ 18))

/-- A cause detected at this vertex with no failing edge. -/
def State.localCause (s : State) (reason status : Nat) : GrpCause :=
  { reason := reason, status := status, here := true, node := s.node, port := 127, except_ := none }

/-! ### Queue pairs (R47, R48) -/

/-- A trap of a queue pair ends without a timeout (R165). -/
def State.dropTrap (s : State) (q : Nat) : State :=
  { s with xlt.traps := s.xlt.traps.filter fun t => t.2.qp != q, xlt.trapWait := s.xlt.trapWait.erase q }

/-- A RESUME that waits for a re-walk of a queue pair's trap is answered (R170). -/
def State.answerTrap (s : State) (q : Nat) : State :=
  (s.xlt.traps.filter fun t => t.2.qp == q).foldl (fun s t =>
    t.2.resume.foldl (fun s r => s.adminDone r St.ok 1) s) s

/-- The posted RQ entries of a queue pair complete FLUSHED, the oldest with `first` (R40, R48 step 5). An entry whose ring
access fails completes FLUSHED with COOKIE 0. -/
def State.flushRq (s : State) (q : Nat) (first : Nat) : State :=
  match s.ten.qps.get? q with
  | none => s
  | some v =>
    (v.rqBuf.foldl (fun (a : State × Nat) e =>
      match a.1.ten.qps.get? q with
      | some v =>
        let cookie := match e with
          | .entry e => e.w1
          | .bad _ => 0
        ((a.1.cqe v.recvCq (rqCqe q v cookie a.2)).rqDrop q, St.flushed)
      | none => a) (s, first)).1

/-- A job of a queue pair that has joined the current operation of a live group bound to it. -/
def State.inColl (s : State) (q : Nat) (ring : Count32) : Bool :=
  s.grps.any fun g => g.2.bindQp == q && g.2.live && match g.2.op with
    | some o => o.jobs.contains ring
    | none => false

/-- Entry of a queue pair into ERROR (R47, R48), with the ring count of the failing job if there is one: QP_ERROR; its jobs
end, the failing one with the cause, those of a group's operation REMOTE_OP (06_collectives R147 step 2) and the others FLUSHED;
RQ entries and gate-held messages go; its contexts and groups fail. Entries not yet read are flushed as JOB_START reads them.
`param` overrides PARAM0 of the event. -/
def State.qpFail (s : State) (q cause : Nat) (ring : Option Count32) (param : Option Nat) : State :=
  match s.ten.qps.get? q with
  | none => s
  | some v =>
    if v.st != .init && v.st != .ready && v.st != .draining then s
    else
      let cqErr := cause == St.cqError
      let oldest := match v.jobs with
        | j :: _ => j.ring
        | [] => v.sqNext
      let fail := if cqErr then some oldest else ring
      let free := s.freeVal
      let s : State := if fail.isNone && param.isNone then free.2 else s
      let p0 : Word := match param, fail with
        | some n, _ => w64 n
        | none, some r => w64 (slotOf r v.sqLog)
        | none, none => free.1 &&& 0xFFFF
      let inColl := s.inColl q
      let s := ((s.answerTrap q).dropTrap q).forget (Asker.ofQp q)
      let s := v.jobs.foldl (fun s j => (s.closeTransient j).dropResends (jobSpace q v j) (.job q j.ring)) s
      let s := s.updQp q fun v => { v with
        st := .error, enable := false, cause := cause, drainAt := none,
        ghosts := (v.jobs.filter fun j => !((s.space (jobSpace q v j)).clear (.job q j.ring))) ++ v.ghosts,
        flushCause := if cqErr && v.jobs.isEmpty && v.sqNext != v.sqProd then some cause else none,
        jobs := v.jobs.map fun j => { j with
          trapped := false, win := none,
          status := match j.status with
            | some 0 => some St.flushed
            | some st => some st
            | none => some (if fail = some j.ring then cause else if inColl j.ring then St.remoteOp else St.flushed) } }
      let s := s.eqEvent v.eq { code := 3, status := cause, object := q, param0 := p0, param1 := 0 }
      let s := s.retireAll q
      let s : State := if v.noRq then s else s.flushRq q (if cqErr then St.cqError else St.flushed)
      let s := s.gateDiscard fun m => m.dstQp == q
      let s := s.mctxErrors cause fun c => c.qp == q
      s.grps.foldl (fun s g => if g.2.bindQp == q && g.2.live && 0 < g.2.localN then
        s.groupMark g.1 (s.localCause 4 cause) else s) s

/-- A job fails with a cause that puts its queue pair into ERROR (Table 2.10). -/
def State.jobFail (s : State) (q : Nat) (ring : Count32) (cause : Nat) : State :=
  match s.job? q ring with
  | some j => if j.status.isNone then s.qpFail q cause (some ring) none else s
  | none => s

/-- Jobs fail together with one cause: each of a queue pair carries it, and the oldest is the failing job of QP_ERROR (R69, R74). -/
def State.jobsFail (s : State) (jobs : List (Nat × Count32)) (cause : Nat) : State :=
  (jobs.map Prod.fst).eraseDups.foldl (fun s q =>
    match s.ten.qps.get? q with
    | none => s
    | some v =>
      let hit := fun (j : Job) => j.status.isNone && jobs.contains (q, j.ring)
      match v.jobs.find? hit with
      | none => s
      | some j => (s.updQp q fun v => { v with
          jobs := v.jobs.map fun j => if hit j then { j with status := some cause } else j }).qpFail q cause (some j.ring) none) s

/-- A group enters ERROR (R147); with local jobs in the operation its bound queue pair enters ERROR too, with the cause of the
job that failed locally, or REMOTE_OP. -/
def State.groupError (s : State) (g : Nat) (c : GrpCause) : State :=
  match s.grps.get? g with
  | none => s
  | some v =>
    if !v.live then s
    else
      let jobs := match v.op with
        | some o => o.jobs
        | none => []
      let own := jobs.find? fun r => match s.job? v.bindQp r with
        | some j => j.status.isSome && j.status != some 0
        | none => false
      let ring := own.or jobs.head?
      let s := s.groupMark g c
      match ring with
      | none => s
      | some r => s.qpFail v.bindQp (match s.job? v.bindQp r with
          | some j => j.status.getD St.remoteOp
          | none => St.remoteOp) (some r) none

/-- The groups with an edge on a port fail when the port breaks or its domain goes off (R145, LINK). -/
def State.groupPortDown (s : State) (p : Nat) : State :=
  s.grps.foldl (fun s g =>
    if g.2.edges.any (fun e => e.port == p) then
      s.groupError g.1 { reason := 1, status := St.remoteOp, here := true, node := s.node, port := p, except_ := none }
    else s) s

/-! ### Completion queues (R40) -/

/-- A CQ enters ERROR (R40): CQ_ERROR; its waiting completions are discarded; the queue pairs bound to it and the contexts
that use it fail. -/
def State.cqError (s : State) (i : Nat) : State :=
  match s.ten.cqs.get? i with
  | none => s
  | some c =>
    if c.st = .error then s
    else
      let s := (s.forget fun a => a == Asker.cq i).updCq i fun c => { c with
        st := .error, enable := false, waiting := [], stallAt := none, drainAt := none, arm := .none }
      let s := s.eqEvent c.eq (ev 2 St.cqError i c.prod.toNat 0)
      let s := s.ten.qps.foldl (fun s p =>
        if p.2.sendCq = i || (!p.2.noRq && p.2.recvCq = i) then s.qpFail p.1 St.cqError none none else s) s
      s.mctxErrors St.cqError fun c => c.cq == i

/-! ### The end of a flush and the quarantine of a queue pair (R48, R50) -/

/-- The flush of a queue pair has ended (R48): every completion written or discarded. -/
def State.flushed (s : State) (q : Nat) (v : Qp) : Bool :=
  v.jobs.isEmpty && v.sqNext == v.sqProd && v.rqBuf.isEmpty
    && !(s.ten.cqs.any fun c => c.2.waiting.any fun e => e.qp == q && decide (e.kind ≤ 1))

/-- The contexts of a queue pair that is destroyed go into QUARANTINE (R79): posted entries flushed, every message of the
context discarded, placements ended FLUSHED. -/
def State.mctxDestroy (s : State) (i : Nat) : State :=
  match s.mctx? i with
  | none => s
  | some c =>
    let s := s.flushPosted i c
    let mine := fun (m : Msg) => m.matched && m.ctx == i
    let s := (s.ungate mine).discardMsgs fun m => mine m && (m.at_ == .unexpected || m.at_ == .held)
    let s := s.mat.msgs.foldl (fun s m => match m.at_ with
      | .placing _ rcv => if rcv.kind = 2 && rcv.ctx = i then
          s.cqe c.cq (matchCqe rcv.cookie m.len St.flushed m.srcQp m.srcNode m.solicit m.bits) else s
      | _ => s) s
    let s := s.dropMsgs fun m => match m.at_ with
      | .placing _ rcv => rcv.kind == 2 && rcv.ctx == i
      | _ => false
    let s := (s.mat.fetches.filter fun f => !f.2.disc && f.2.rcv.kind == 2 && f.2.rcv.ctx == i).foldl (fun s f =>
      s.cqe c.cq (matchCqe f.2.rcv.cookie f.2.total St.flushed f.2.srcQp f.2.srcNode f.2.solicit f.2.bits)) s
    let s := { s with mat.fetches := s.mat.fetches.map fun (f : Nat × Fetch) =>
      if f.2.disc || f.2.rcv.kind != 2 || f.2.rcv.ctx != i then f else (f.1, f.2.close) }
    s.updMctx i fun c => { c with st := .quarantine, charge := 0, high := false, quarAt := s.now }

/-- The receives of a destroyed queue pair's RQ that are in placement end FLUSHED, as R79 has it for a context's (DEDUCED,
log 29). -/
def State.dropPlacing (s : State) (q : Nat) (v : Qp) : State :=
  let end_ := fun (s : State) (rcv : RecvTo) (n : Nat) =>
    s.cqe rcv.cq { rqCqe q v rcv.cookie St.flushed with bytes := n, info := rcv.ring }
  let s := s.mat.msgs.foldl (fun s m => match m.at_ with
    | .placing _ rcv => if rcv.kind = 1 && m.dstQp = q then end_ s rcv m.len else s
    | _ => s) s
  let s := s.dropMsgs fun m => match m.at_ with
    | .placing _ rcv => rcv.kind == 1 && m.dstQp == q
    | _ => false
  let s := s.mat.fetches.foldl (fun s f =>
    if !f.2.disc && f.2.rcv.kind = 1 && f.2.localQp = q then end_ s f.2.rcv f.2.total else s) s
  { s with mat.fetches := s.mat.fetches.map fun (f : Nat × Fetch) =>
      if f.2.disc || f.2.rcv.kind != 1 || f.2.localQp != q then f else (f.1, f.2.close) }

/-- A doorbell slot of a function is free again. -/
def State.freeSlot (s : State) (f slot : Nat) : State :=
  let v := s.fn f
  s.setFn f { v with slots := v.slots.erase slot }

/-- A queue pair goes into QUARANTINE (R50): its contexts are destroyed, its groups fail, its slot is free. -/
def State.qpQuarantine (s : State) (q : Nat) : State :=
  match s.ten.qps.get? q with
  | none => s
  | some v =>
    let s := s.mat.ctxs.foldl (fun s c => if c.2.qp = q then s.mctxDestroy c.1 else s) s
    let s := ((s.dropPlacing q v).freeSlot v.fn v.slot |>.dropTrap q).forget (Asker.ofQp q)
    s.updQp q fun v => { v with st := .quarantine, enable := false, quarAt := s.now, destroy := none }

/-- A destroyed queue pair whose flush has ended goes into QUARANTINE, and its DESTROY_QP completes. -/
def State.qpReap (s : State) (q : Nat) : State :=
  match s.ten.qps.get? q with
  | some v =>
    match v.destroy with
    | some r => if v.st = .error && s.flushed q v then (s.qpQuarantine q).adminDone r St.ok 0 else s
    | none => s
  | none => s

/-- Every destroyed queue pair is looked at. -/
def State.reapAll (s : State) : State := s.ten.qps.foldl (fun s p => if p.2.destroy.isSome then s.qpReap p.1 else s) s

end Sys2Proof.Machine
end

