-- ==== Sys2Proof/Machine/DeliverOps.lean ====
section
/-! DEFINITION. The delivery of messages: placement into buffers, receive completions, presentation, admission and the
loop of the ordering gate (03_transport R70; 04_matching R82 to R89, R93, R95, R98, R99, R101, R102). -/

namespace Sys2Proof.Machine

open Sys2Proof

/-! ### Placement (R30, R99, R120) -/

/-- Placement writes of a queue pair carry Relaxed Ordering (Table 5.5): RO_SPRAY, outside ORDERED CONNECTED. -/
def State.roFor (s : State) (q : Nat) : Bool :=
  s.rdF R.RMA_CTL F.RMA_CTL_RO_SPRAY == 1 && match s.ten.qps.get? q with
    | some v => v.node || v.spray
    | none => true

/-- The status of a translation that failed, where a lacking mark counts as a fault (Table 7.5). -/
def SgRes.status : SgRes → Nat
  | .ok _ _ => St.ok
  | .fail st => st
  | .mark _ _ _ => St.xlateFault

/-- Bytes placed at an offset of a scatter list, cut at its end (R99); the status is 0 when they are placed. -/
def State.placeAt (s : State) (asid q : Nat) (sges : List Sge) (off : Nat) (bs : List Byte) : State × Nat :=
  let parts := cutSges sges off bs.length
  match s.sgXlate asid true (aheadOf sges off bs.length) parts with
  | (s, .ok segs ps) =>
    match s.ten.qps.get? q with
    | some v => (s.sgWrite v.fn segs ps (s.roFor q) bs, St.ok)
    | none => (s, St.ok)
  | (s, r) => (s, r.status)

/-- Pieces of a message placed in a buffer, in order; the first failure ends it. -/
def State.placeAll (s : State) (b : Buffer) : List (Nat × List Byte) → State × Nat
  | [] => (s, St.ok)
  | (off, bs) :: more =>
    match s.placeAt b.asid b.qp b.sges off bs with
    | (s, 0) => s.placeAll b more
    | r => r

/-! ### Receive completions (R35, R98, Table 4.4) -/

/-- The completion of a receive that took a message: `bytes` and `status`, with the source fields. -/
def recvCqe (rcv : RecvTo) (dstQp srcNode srcQp : Nat) (bits : Word) (solicit : Bool) (bytes status : Nat) : Cqe :=
  if rcv.kind = 2 then matchCqe rcv.cookie bytes status srcQp srcNode solicit bits
  else
    { cookie := rcv.cookie, bytes := bytes, status := status, qp := dstQp, kind := 1, info := rcv.ring, batch := false,
      implicit := false, solicited := solicit, srcValid := true,
      w3 := w64 (srcNode % 2 ^ 18 + srcQp % 2 ^ 21 * 2 ^ 18 + 2 ^ 39), frees := none }

/-- The completion of a message's receive. -/
def State.recvDone (s : State) (m : Msg) (rcv : RecvTo) (bytes status : Nat) : State :=
  s.cqe rcv.cq (recvCqe rcv m.dstQp m.srcNode m.srcQp m.bits m.solicit bytes status)

/-- OK, or TRUNCATED when the message is longer than its buffer (R99). -/
def truncSt (len cap : Nat) : Nat := if cap < len then St.truncated else St.ok

/-! ### Fetches (R95, R97) -/

/-- A fetch whose bytes are placed and whose closing GET is answered is over: its receive completes. -/
def State.fetchCheck (s : State) (id : Nat) : State :=
  match s.mat.fetches.get? id with
  | none => s
  | some f =>
    if f.want ≤ f.placed && f.outs.isEmpty && (f.closing == .none || f.closing == .done) then
      let s := { s with mat.fetches := s.mat.fetches.erase id }
      if f.disc then s
      else s.cqe f.rcv.cq (recvCqe f.rcv f.localQp f.srcNode f.srcQp f.bits f.solicit f.total (truncSt f.total f.buf.cap))
    else s

/-- A fetch fails: its receive completes with a status (R97); the bytes placed stay placed. -/
def State.fetchFail (s : State) (id status : Nat) : State :=
  match s.mat.fetches.get? id with
  | none => s
  | some f =>
    let s := { s with mat.fetches := s.mat.fetches.erase id }
    if f.disc then s
    else s.cqe f.rcv.cq (recvCqe f.rcv f.localQp f.srcNode f.srcQp f.bits f.solicit f.total status)

/-! ### Presentation (R82, R83, R93) -/

/-- A message is delivered to a receive (R93, R95): a rendezvous message is fetched; an eager one's stored bytes are copied,
its later packets are placed as they arrive, and with all bytes there the receive completes. The charge is released. The
status is not 0 when the placement failed: the receive then completes with it and the queue pair that owns the buffer enters
ERROR (Table 7.5). The message itself is not in the list of messages. -/
def State.deliver (s : State) (m : Msg) (b : Buffer) (rcv : RecvTo) : State × Nat :=
  let s := s.release m
  if m.rts then
    ((s.addFetch (fetchOf m b rcv false)).fetchCheck s.tra.tag, St.ok)
  else
    match s.placeAll b m.store with
    | (s, 0) =>
      let m := { m with store := [], charged := false, at_ := .placing b rcv }
      if m.open_ then ({ s with mat.msgs := s.mat.msgs ++ [m] }, St.ok)
      else (s.recvDone m rcv m.len (truncSt m.len b.cap), St.ok)
    | (s, st) => ((s.recvDone m rcv m.len st).qpFail b.qp st none none, st)

/-- The receive a posted entry of a context makes. -/
def toPosted (ctx : Nat) (c : Mctx) (e : Words8) : RecvTo := { kind := 2, cq := c.cq, cookie := e.w2, ring := 0, ctx := ctx }

/-- The first posted entry that matches a message, and the list without it (R82). -/
def takePosted (m : Msg) : List Posted → Option (Posted × List Posted)
  | [] => none
  | p :: ps =>
    if matches_ p.e m then some (p, ps)
    else match takePosted m ps with
      | some (q, qs) => some (q, p :: qs)
      | none => none

/-- The next RQ entry that can take a message (R34): entries that cannot complete MALFORMED or ACCESS; a ring access that
failed moves the queue pair to ERROR (R23). -/
def State.rqHead (s : State) (q : Nat) : State × Option (Words8 × List Sge) :=
  match s.ten.qps.get? q with
  | none => (s, none)
  | some v =>
    let s := s.rqSkip q (v.rqBuf.length + 1)
    match s.ten.qps.get? q with
    | none => (s, none)
    | some v =>
      match v.rqBuf with
      | .entry e :: _ => (s, (rqSges e).map fun g => (e, g))
      | .bad st :: _ => (s.qpFail q st none none, none)
      | [] => (s, none)

/-- The sum of the lengths of a scatter list. -/
def sgeSum (gs : List Sge) : Nat := gs.foldl (fun a g => a + g.len) 0

/-- A message is presented (R82, R87): to its context's posted list or unexpected store, or to the next RQ entry. A message
whose context is no longer READY is discarded. The status is not 0 when its placement failed. -/
def State.present (s : State) (m : Msg) : State × Nat :=
  if m.matched then
    match s.mctx? m.ctx, s.ten.qps.get? m.dstQp with
    | some c, some v =>
      let seen := (c.posted.takeWhile fun p => !matches_ p.e m).length
      let s := (s.event 0x0501 (m.ctx % 4)).event 0x0502 (m.ctx % 4) none (Nat.min c.posted.length (seen + 1))
      if c.st != .ready then (s.discardMsg m, St.ok)
      else match takePosted m c.posted with
        | some (p, ps) =>
          (s.updMctx m.ctx fun c => { c with posted := ps }).deliver m (reBuffer m.dstQp v p.e) (toPosted m.ctx c p.e)
        | none =>
          let s : State := if m.charged then s else s.charge m
          ({ s with mat.msgs := s.mat.msgs ++ [{ m with charged := true, at_ := .unexpected }] }, St.ok)
    | _, _ => (s.discardMsg m, St.ok)
  else
    match s.rqHead m.dstQp with
    | (s, some (e, gs)) =>
      match s.ten.qps.get? m.dstQp with
      | some v =>
        let b : Buffer := { qp := m.dstQp, asid := v.asid, sges := gs, cap := sgeSum gs }
        (s.rqDrop m.dstQp).deliver m b
          { kind := 1, cq := v.recvCq, cookie := e.w1, ring := slotOf v.rqCons v.rqLog, ctx := 0 }
      | none => (s.discardMsg m, St.ok)
    | (s, none) => (s.discardMsg m, St.ok)

/-! ### The gate (R87, R88) -/

/-- The held message of a flow with an MSN. -/
def State.heldMsg (s : State) (srcNode srcQp dstQp : Nat) (msn : Msn) : Option Msg :=
  s.mat.msgs.find? fun m => m.same srcNode srcQp dstQp msn && m.at_ == .held

/-- The loop of R87 from NEXT: slots that are not EMPTY are stepped over, held messages presented, until a held MATCHED = 0
message finds no RQ entry. -/
def State.gateRun (s : State) (node : Bool) (srcNode srcQp dstQp : Nat) : Nat → State
  | 0 => s
  | n + 1 =>
    match s.gate? node srcNode srcQp dstQp with
    | none => s
    | some g =>
      match g.slot g.next with
      | none => s
      | some .refused =>
        (s.setGate node srcNode srcQp dstQp { g.setSlot g.next none with next := g.next + 1 }).gateRun node srcNode srcQp dstQp n
      | some .held =>
        match s.heldMsg srcNode srcQp dstQp g.next with
        | none =>
          (s.setGate node srcNode srcQp dstQp { g.setSlot g.next none with next := g.next + 1 }).gateRun node srcNode srcQp dstQp n
        | some m =>
          let r := if m.matched then (s, true) else
            let h := s.rqHead dstQp
            (h.1, h.2.isSome)
          if r.2 then
            let s := r.1.dropMsgs fun k => k.same srcNode srcQp dstQp g.next && k.at_ == .held
            let s := s.setGate node srcNode srcQp dstQp { g.setSlot g.next none with next := g.next + 1 }
            (s.present m).1.gateRun node srcNode srcQp dstQp n
          else r.1

/-- The loop of R87 for a flow, as long as its slots last. -/
def State.gateLoop (s : State) (node : Bool) (srcNode srcQp dstQp : Nat) : State :=
  match s.gate? node srcNode srcQp dstQp with
  | some g => s.gateRun node srcNode srcQp dstQp (g.slots.length + 1)
  | none => s

/-- A new message refused for good leaves its flow (R88). -/
def State.gateLeave (s : State) (node : Bool) (srcNode srcQp dstQp : Nat) (msn : Msn) : State :=
  match s.gate? node srcNode srcQp dstQp with
  | none => s
  | some g =>
    if msn = g.next then
      (s.setGate node srcNode srcQp dstQp { g with next := g.next + 1, last := s.now }).gateLoop node srcNode srcQp dstQp
    else if 0x8000 ≤ (msn - g.next).toNat then s
    else s.setGate node srcNode srcQp dstQp { g.setSlot msn (some .refused) with last := s.now }

/-- Messages that wait at the heads of their flows for RQ entries of a queue pair are presented as far as the entries reach
(R34, R87), while the function is READY; with a walk awaited, nothing is presented yet. -/
def State.rqRelease (s : State) (q : Nat) : State :=
  match s.ten.qps.get? q with
  | none => s
  | some v =>
    if v.rqBuf.isEmpty || !s.fnReady v.fn then s
    else
      (flowsOf (s.mat.msgs.filter fun m => m.dstQp == q && m.at_ == .held)).foldl
        (fun s f => s.asking (.held q) fun s => s.gateLoop v.node f.1 f.2.1 q) s

/-! ### Admission (R87, R101, R102) -/

/-- A CQ can take the completion of a new receive (R39, R49): READY and not full. -/
def State.cqTakes (s : State) (i : Nat) : Bool :=
  match s.ten.cqs.get? i with
  | some c => c.st == .ready && !c.busy
  | none => false

/-- The flow of a message has held messages (R102). -/
def State.flowHeld (s : State) (m : Msg) : Bool :=
  s.mat.msgs.any fun k => k.at_ == .held && k.srcNode == m.srcNode && k.srcQp == m.srcQp && k.dstQp == m.dstQp

/-- admit(m, DIRECT) of R87: a failed admission leaves every list as it is. A MATCHED = 0 message at NEXT is held to the refusals
of R39 and R87, also in a flow with held messages (DESIGN CHOICE, log 62). An RQ whose next entry could not be read takes its queue
pair to ERROR (R23). -/
def State.admitDirect (s : State) (m : Msg) : State × Bool :=
  if m.matched then
    match s.mctx? m.ctx with
    | some c => (s, s.cqTakes c.cq && ((c.posted.any fun p => matches_ p.e m) || s.storeTakes m (s.flowHeld m)))
    | none => (s, false)
  else match s.ten.qps.get? m.dstQp with
    | none => (s, false)
    | some v => match s.rqOffers v.fn v.rqBuf with
      | some true => (s, s.cqTakes v.recvCq)
      | some false => ((s.rqHead m.dstQp).1, false)
      | none => (s, false)

/-- What the gate does with the first packet of a new message (R87). -/
inductive GateRes where
  | taken
  | late
  | busy
  | failed
deriving DecidableEq, Repr

/-- GATE_ADMIT (R87): the first packet of a new message is presented, held or refused. -/
def State.gateAdmit (s : State) (m : Msg) : State × GateRes :=
  match s.gate? m.node m.srcNode m.srcQp m.dstQp with
  | none => (s, .busy)
  | some g =>
    let d := (m.msn - g.next).toNat
    if 0x8000 ≤ d || g.slot m.msn == some .refused then (s, .late)
    else if d != 0 then
      if s.storeTakes m false then
        let s := (s.charge m).setGate m.node m.srcNode m.srcQp m.dstQp { g.setSlot m.msn (some .held) with last := s.now }
        ({ s with mat.msgs := s.mat.msgs ++ [{ m with charged := true, at_ := .held, holdEnd := s.now + s.gateHold }] }, .taken)
      else (s, .busy)
    else
      match s.admitDirect m with
      | (s, false) => (s, .busy)
      | (s, true) =>
        let s := s.setGate m.node m.srcNode m.srcQp m.dstQp { g with next := g.next + 1, last := s.now }
        let r := s.present m
        (r.1.gateLoop m.node m.srcNode m.srcQp m.dstQp, if r.2 = 0 then .taken else .failed)

/-- A later packet of a message in placement (R70): stored, or placed; with all bytes there a message being placed completes.
The status is not 0 when the placement failed. -/
def State.msgMore (s : State) (m : Msg) (off : Nat) (bs : List Byte) : State × Nat :=
  let pick := fun (k : Msg) => k.same m.srcNode m.srcQp m.dstQp m.msn && k.open_ && !k.rts
  match m.at_ with
  | .placing b rcv =>
    match s.placeAt b.asid b.qp b.sges off bs with
    | (s, 0) =>
      let m' := { m with count := m.count + bs.length, since := s.now }
      if m'.open_ then (s.updMsgs pick fun _ => m', St.ok)
      else ((s.dropMsgs pick).recvDone m rcv m.len (truncSt m.len b.cap), St.ok)
    | (s, st) => (((s.dropMsgs pick).recvDone m rcv m.len st).qpFail b.qp st none none, st)
  | _ => (s.updMsgs pick fun k => { k with
      count := k.count + bs.length, since := s.now, store := k.store ++ [(off, bs)] }, St.ok)

/-- The messages in placement and the responses awaited that a transfer-engine slice tracks (R70). A SEND_RTS places nothing and
takes no entry; the answers to its GETs do (DEDUCED, log 62). -/
def State.tableUsed (s : State) (slice : Nat) : Nat :=
  (s.mat.msgs.filter fun m => m.dstQp % 4 == slice && m.open_ && !m.rts).length
    + s.ten.qps.foldl (fun a p => if p.1 % 4 == slice then a + (p.2.jobs.foldl (fun a j => a + j.gets.length) 0) else a) 0
    + s.mat.fetches.foldl (fun a f =>
        if f.2.localQp % 4 == slice then a + f.2.outs.length + b2n f.2.closing.out else a) 0

/-- The message table of a slice is full (R70). -/
def State.tableFull (s : State) (slice : Nat) : Bool := decide (131072 ≤ s.tableUsed slice)

end Sys2Proof.Machine
end

