-- ==== Sys2Proof/Machine/FaultRaise.lean ====
section
/-! DEFINITION. The occurrence of a fault source: counts, PEND and records (16_faults R360, R361, R365). The reactions
of Table 16.2 are carried out by the families that own the units. -/

namespace Sys2Proof.Machine

open Sys2Proof

/-- The domain that reports a fault source (Table 16.2, Table 1.2). -/
def srcDomain (n : Nat) : Nat :=
  if n < 0x140 then n / 5
  else if n < 0x150 then 66 + (n - 0x140) / 5
  else if n < 0x160 then 64 + (n - 0x150) / 6
  else if n < 0x1E0 then 87 + (n - 0x160) / 32
  else if n < 0x1E8 then 87 + (n - 0x1E0) / 2
  else if n < 0x1F0 then 87 + (n - 0x1E8)
  else if n < 0x210 then
    let m := (n - 0x1F0) / 2
    if m < 4 then 73 + m else if m < 8 then 69 + (m - 4) else if m = 8 then 85 else if m < 11 then 77 + (m - 9) else 81 + (m - 11)
  else if n < 0x220 then
    let u := n - 0x210
    if u < 4 then 69 + u else if u < 8 then 73 + (u - 4) else if u < 10 then 77 + (u - 8) else 85
  else if n < 0x240 then 79 + (n - 0x220) / 16
  else if n < 0x244 then 79 + (n - 0x240) / 2
  else if n < 0x254 then 81 + (n - 0x250)
  else if n = 0x256 then 86
  else if 0x260 < n && n < 0x264 then 91
  else if n = 0x268 || n = 0x269 then 91
  else 92

/-- A source's PEND bit set or cleared. -/
def State.setPend (s : State) (n : Nat) (v : Bool) : State := s.wrF (R.FLT_PEND (n / 64)) ⟨n % 64, 1⟩ (b2n v)

/-- A source's PEND bit. -/
def State.pend (s : State) (n : Nat) : Bool := bitAt (s.rd (R.FLT_PEND (n / 64))) (n % 64)

/-- An occurrence of a CE source (R360): COUNT and the window count advance; at the threshold PEND is set and FAULT_CE
written, once per window. The flag says that it was reported. -/
def State.ceRaise (s : State) (n : Nat) (forced : Bool) : State × Bool :=
  let s := s.bump (R.FLT_SRC n) F.FLT_SRC_COUNT 1
  let w := (s.flt.window.get? n).getD 0 + 1
  let s := { s with flt.window := s.flt.window.set n w }
  let th := s.rdF (R.FLT_SRC n) F.FLT_SRC_THRESHOLD
  if th = 0 || (th ≤ w && !s.flt.reported.contains n) then
    let s := { s with flt.reported := if th = 0 then s.flt.reported else n :: s.flt.reported }
    ((s.setPend n true).record 0x0201 1 (srcDomain n) (w64 n) (w64 w) (w64 (s.rdF (R.FLT_SRC n) F.FLT_SRC_COUNT))
      (w64 (b2n forced)) 0, true)
  else (s, false)

/-- An occurrence of a UC source (R361): COUNT advances, PEND is set and FAULT_UC written. -/
def State.ucRaise (s : State) (n obj : Nat) (addr : Word) (forced : Bool) : State :=
  ((s.bump (R.FLT_SRC n) F.FLT_SRC_COUNT 1).setPend n true).record 0x0202 2 (srcDomain n) (w64 n) (w64 obj) addr
    (w64 (b2n forced)) 0

/-- The first fault source of a port (Table 16.2): fabric ports from 0, span ports from 0x140. -/
def portSrc (p : Nat) : Nat := if p < 64 then 5 * p else 0x140 + 5 * (p - 64)

end Sys2Proof.Machine
end

