-- ==== Sys2Proof/Machine/SendOps.lean ====
section
/-! DEFINITION. Jobs: reading a work entry (02_queues R28 to R33), the reads that a job or a response makes of memory, mark
traps (07_translation R163, R164), local copies, and window faults (05_remote R122). -/

namespace Sys2Proof.Machine

open Sys2Proof

/-! ### Work entries (Tables 2.3 to 2.5) -/

def weOp (e : Words8) : Nat := bitsOf e.w0 0 8
def weFirst (e : Words8) : Bool := bitAt e.w0 8
def weLast (e : Words8) : Bool := bitAt e.w0 9
def weBatch (e : Words8) : Bool := bitAt e.w0 10
def weClen (e : Words8) : Nat := bitsOf e.w0 24 7
def weInl (e : Words8) : Nat := bitsOf e.w0 32 8

/-- The reserved bits of word 0 are 0. -/
def weResOk (e : Words8) : Bool :=
  !bitAt e.w0 15 && bitsOf e.w0 19 5 == 0 && !bitAt e.w0 31 && bitsOf e.w0 40 24 == 0

/-- Opcodes limited to one entry (R29). -/
def opSingle (op : Nat) : Bool := op == 0 || op == 6 || op == 7 || op == 8

/-- Opcodes with inline data, and with a scatter list (Table 2.4). -/
def opInline (op : Nat) : Bool := op == 2 || op == 4
def opSge (op : Nat) : Bool := op == 1 || op == 3 || op == 5 || op == 9

/-- The first entry starts a job: FIRST, a known opcode, CHAIN_LEN in range (conditions 1 to 3 of R32). -/
def weStarts (e : Words8) : Bool :=
  weFirst e && decide (weOp e ≤ 9) && decide (1 ≤ weClen e) && decide (weClen e ≤ if opSingle (weOp e) then 1 else 64)

/-- Conditions 4 to 6 of R32 on the entries of a chain of `n`, from position `i`. -/
def chainOk (op n : Nat) : Nat → List Words8 → Bool
  | _, [] => true
  | i, e :: es =>
    weResOk e && weOp e == op && (weLast e == (i + 1 == n)) && (!weBatch e || i + 1 == n)
      && decide (weInl e ≤ if opInline op then (if i = 0 then 24 else 48) else 0)
      && (i == 0 || (!weFirst e && bitsOf e.w0 11 8 == 0 && weClen e == 0 && e.w1 == 0))
      && chainOk op n (i + 1) es

/-- A pair of words as an SGE under R30; with LENGTH 0 all bits are 0. -/
def sgeOf (a b : Word) : Option Sge :=
  if bitsOf b 33 31 != 0 then none
  else if bitsOf b 0 32 = 0 then (if a = 0 && b = 0 then some { addr := 0, len := 0, hbm := false } else none)
  else if !bitAt b 32 && bitsOf a 48 16 != 0 then none
  else some { addr := a.toNat, len := bitsOf b 0 32, hbm := bitAt b 32 }

/-- The used SGEs of a list of pairs: each well formed, unused ones only at the end. -/
def sgeList : List (Word × Word) → Option (List Sge)
  | [] => some []
  | (a, b) :: ps =>
    match sgeOf a b with
    | none => none
    | some g =>
      if g.len = 0 then (if ps.all (fun p => p.1 == 0 && p.2 == 0) then some [] else none)
      else (sgeList ps).map (g :: ·)

/-- The SGE pairs of a chain (R31). -/
def sgePairs (e : Words8) (more : List Words8) : List (Word × Word) :=
  (e.w5, e.w6) :: more.flatMap fun c => [(c.w2, c.w3), (c.w4, c.w5), (c.w6, c.w7)]

/-- The inline bytes of a chain (R31). -/
def inlineOf (e : Words8) (more : List Words8) : List Byte :=
  (bytesOfWords [e.w5, e.w6, e.w7]).take (weInl e)
    ++ more.flatMap fun c => (bytesOfWords [c.w2, c.w3, c.w4, c.w5, c.w6, c.w7]).take (weInl c)

/-- A job with the fields of Table 2.3 of its FIRST entry, nothing sent yet. Fields that its opcode has no use for read 0
(R32). -/
def jobBase (ring : Count32) (v : Qp) (e last : Words8) (n : Nat) : Job :=
  let op := weOp e
  let net := 1 ≤ op && op ≤ 6
  let dst : Dest := { node := bitsOf e.w2 0 18, qp := bitsOf e.w2 18 21, gen := bitsOf e.w2 39 3 }
  { ring := ring, entries := n, op := op, cookie := e.w1, signal := bitAt e.w0 11, batch := weBatch last,
    fence := bitAt e.w0 12 || op == 8, solicit := (op == 1 || op == 2) && bitAt e.w0 13,
    ord := net && (!v.spray || bitAt e.w0 14), tc := if net then bitsOf e.w0 16 3 else 0,
    len := if op = 6 then (if bitAt e.w4 2 then 8 else 4) else if op = 0 || op = 8 then 0 else bitsOf e.w4 0 32,
    dst := if v.node then dst else v.remote, e := e, sges := [], inl := [], rts := false, win := none, msn := 0,
    flowNew := false, pos := 0, allSent := false, gets := [], placed := 0, respAck := 0, closing := false, rd := none,
    trapped := false, status := none, bytes := 0 }

/-- Words 2 to 7 of the FIRST entry obey Tables 2.4 and 2.5 for the job's opcode (conditions 6 to 9 of R32); the answer is the
job with its scatter list or inline bytes. -/
def jobFill (v : Qp) (e : Words8) (more : List Words8) (j : Job) : Option Job :=
  let destOk := if v.node then bitsOf e.w2 42 22 == 0 else e.w2 == 0
  let big := decide (2 ^ 31 < bitsOf e.w4 0 32)
  let fill : Option Job :=
    if opInline j.op then
      let bs := inlineOf e more
      if bs.length = j.len then some { j with inl := bs } else none
    else
      match sgeList (sgePairs e more) with
      | some gs => if sgeSum gs = j.len && e.w7 = 0 then some { j with sges := gs } else none
      | none => none
  match j.op with
  | 0 => if e.w2 = 0 && e.w3 = 0 && e.w4 = 0 && e.w5 = 0 && e.w6 = 0 && e.w7 = 0 then some j else none
  | 8 => if e.w2 = 0 && e.w3 = 0 && e.w4 = 0 && e.w5 = 0 && e.w6 = 0 && e.w7 = 0 then some j else none
  | 1 => if destOk && bitsOf e.w4 49 15 == 0 && !big then fill else none
  | 2 => if destOk && bitsOf e.w4 49 15 == 0 && !big then fill else none
  | 3 => if destOk && !big then fill else none
  | 4 => if destOk && !big then fill else none
  | 5 => if destOk && !big then fill else none
  | 6 =>
    let z := if bitAt e.w4 2 then 8 else 4
    if destOk && bitsOf e.w4 0 2 != 3 && bitsOf e.w4 3 29 == 0 && e.w3.toNat % z == 0 && e.w7.toNat % z == 0
        && bitsOf e.w7 48 16 == 0 then
      some { j with sges := [{ addr := e.w7.toNat, len := z, hbm := false }] }
    else none
  | 7 => if bitsOf e.w2 42 22 == 0 && bitsOf e.w4 32 32 == 0 && e.w6 = 0 && e.w7 = 0 && !big then some j else none
  | 9 =>
    -- DST_ADDR and DST_HBM obey the rules of an SGE of this LENGTH (R30)
    if e.w2 = 0 && !big && (sgeOf e.w3 e.w4).isSome then fill else none
  | _ => none

/-- The entries that the device has read from an SQ, and how many its producer count exposes. What they begin with: a job, a
malformed run of a length (R33), or a chain whose LAST entry is not covered yet (R31). -/
inductive Parsed where
  | job (j : Job)
  | run (n : Nat)
  | wait
deriving DecidableEq, Repr

/-- The length of a malformed run: up to the next entry with FIRST, or all that is exposed (R33). -/
def runLen (es : List Words8) : Nat := 1 + ((es.drop 1).takeWhile fun e => !weFirst e).length

/-- The reading of the next entries of an SQ (R28 to R33). A chain is not judged by conditions 4 to 9 of R32 before its CHAIN_LEN
entries are exposed: R31 has the device begin a job only then (DESIGN CHOICE, log 55). -/
def parseJob (v : Qp) (ring : Count32) (es : List Words8) : Parsed :=
  match es with
  | [] => .wait
  | e :: _ =>
    if !weStarts e then .run (runLen es)
    else
      let n := weClen e
      if es.length < n then .wait
      else
        let chain := es.take n
        if !chainOk (weOp e) n 0 chain then .run (runLen es)
        else
          match jobFill v e (chain.drop 1) (jobBase ring v e (chain.getLastD e) n) with
          | some j => .job j
          | none => .run (runLen es)

/-- A job that has a status from the start: a malformed run, or a flushed one. -/
def jobEnded (ring : Count32) (v : Qp) (e : Words8) (n status : Nat) : Job :=
  let b := jobBase ring v e e n
  { b with cookie := if weFirst e then e.w1 else 0, signal := false, batch := false, fence := false, status := some status,
           len := 0 }

/-- The destination of a LOCAL_COPY (Table 2.4, Table 2.5). -/
def copyDst (j : Job) : List Sge :=
  if j.len = 0 then [] else [{ addr := j.e.w3.toNat, len := j.len, hbm := bitAt j.e.w4 32 }]

/-! ### Mark traps (07_translation R163, R164) -/

/-- A queue pair has a trap outstanding, or one that waits for a slot. -/
def State.trapOpen (s : State) (q : Nat) : Bool :=
  (s.xlt.traps.any fun t => t.2.qp == q) || (s.xlt.trapWait.get? q).isSome

/-- An access of a job that lacks a mark: it asks for a trap, unless its queue pair has one already (R164). -/
def State.trapAsk (s : State) (q : Nat) (ring : Count32) (asid page : Nat) (write dirty : Bool) (size : Nat) : State :=
  if s.trapOpen q then s
  else { s with xlt.trapWait := s.xlt.trapWait.set q { asid := asid, page := page, write := write, dirty := dirty, size := size } }.updJob q ring
    fun j => { j with trapped := true }

/-- A job may start an access that needs translation: it is not paused, and no earlier job of its queue pair is (R164). -/
def mayTranslate (v : Qp) (ring : Count32) : Bool :=
  !(v.jobs.any fun j => j.trapped && decide ((ring - j.ring).toNat < 2 ^ 31))

/-- A host port has room for one more non-posted request (Table 12.1). -/
def State.portRoom (s : State) (fn : Nat) : Bool :=
  decide (((s.tra.hreqs.filter fun h => fnPort h.2.fn == fnPort fn
    && (h.2.segs.any (fun g => !g.1) || h.2.for_ matches .walk _)).length) < 8192)

/-- A range needs host memory. -/
def needsHost (gs : List Sge) : Bool := gs.any fun g => !g.hbm

/-! ### What a job reads for a packet (R113) -/

/-- What a job, or a job kept aside for its unacknowledged packets, has read. -/
def State.setRd (s : State) (q : Nat) (ring : Count32) (rd : Option ReadBuf) : State :=
  s.updQp q fun v => { v with
    jobs := v.jobs.map fun j => if j.ring = ring then { j with rd := rd } else j,
    ghosts := v.ghosts.map fun j => if j.ring = ring then { j with rd := rd } else j }

/-- The bytes of a job at an offset, as its next packet needs them: at once when inline or already read; otherwise a read is
issued and the step sends nothing. A failed translation fails the job, a lacking mark pauses it; for a job that has ended
neither does anything. -/
def State.jobRead (s : State) (q : Nat) (v : Qp) (j : Job) (off n : Nat) : State × Option (List Byte) :=
  if n = 0 then (s, some [])
  else if opInline j.op then (s, some (slice j.inl off n))
  else match j.rd with
    | some r =>
      if r.tag.isSome then (s, none)
      else if r.off = off && r.len = n then (s.setRd q j.ring none, some r.bytes)
      else (s.setRd q j.ring none, none)
    | none =>
      let parts := cutSges j.sges off n
      if needsHost parts && (!s.fnReady v.fn || !mayTranslate v j.ring || !s.portRoom v.fn) then (s, none)
      else match s.sgXlate v.asid false (aheadOf j.sges off n) parts with
        | (s, .ok segs ps) =>
          let r := s.issueRead v.fn (.job q j.ring) segs ps none
          (r.1.setRd q j.ring (some { off := off, len := n, tag := some r.2, bytes := [] }), none)
        | (s, .fail st) => (s.jobFail q j.ring st, none)
        | (s, .mark p d z) =>
          (if (s.job? q j.ring).any (·.status.isNone) then s.trapAsk q j.ring v.asid p false d z else s, none)

/-! ### Local copies -/

/-- A LOCAL_COPY reads its next piece, at most 4,096 bytes, once both sides of it translate (R163). -/
def State.copyRead (s : State) (q : Nat) (ring : Count32) : State :=
  match s.ten.qps.get? q, s.job? q ring with
  | some v, some j =>
    let n := Nat.min 4096 (j.len - j.pos)
    let src := cutSges j.sges j.pos n
    let dst := cutSges (copyDst j) j.pos n
    if needsHost (src ++ dst) && (!s.fnReady v.fn || !mayTranslate v ring || !s.portRoom v.fn) then s
    else match s.sgXlate v.asid false (aheadOf j.sges j.pos n) src with
      | (s, .fail st) => s.jobFail q ring st
      | (s, .mark p d z) => s.trapAsk q ring v.asid p false d z
      | (s, .ok segs ps) =>
        match s.sgXlate v.asid true (aheadOf (copyDst j) j.pos n) dst with
        | (s, .fail st) => s.jobFail q ring st
        | (s, .mark p d z) => s.trapAsk q ring v.asid p true d z
        | (s, .ok _ _) =>
          let r := s.issueRead v.fn (.copy q ring) segs ps none
          r.1.updJob q ring fun j => { j with rd := some { off := j.pos, len := n, tag := some r.2, bytes := [] } }
  | _, _ => s

/-- A LOCAL_COPY writes the piece that it has read, with its destination translated anew (R168), and the job finishes or goes on to
its next piece. -/
def State.copyWrite (s : State) (q : Nat) (ring : Count32) (bs : List Byte) : State :=
  match s.ten.qps.get? q, s.job? q ring with
  | some v, some j =>
    let dst := cutSges (copyDst j) j.pos bs.length
    if needsHost dst && (!s.fnReady v.fn || !mayTranslate v ring) then s
    else match s.sgXlate v.asid true 0 dst with
      | (s, .fail st) => s.jobFail q ring st
      | (s, .mark p d z) => s.trapAsk q ring v.asid p true d z
      | (s, .ok segs ps) =>
        let s := (s.sgWrite v.fn segs ps (s.roFor q) bs).updJob q ring fun j => { j with pos := j.pos + bs.length, rd := none }
        if j.len ≤ j.pos + bs.length then (s.updJob q ring fun j => { j with bytes := j.len }).finish q ring St.ok
        else s.asking (.job q ring) fun s => s.copyRead q ring
  | _, _ => s

/-- A running LOCAL_COPY goes on: it writes what it has read, or reads. -/
def State.copyStep (s : State) (q : Nat) (ring : Count32) : State :=
  match s.job? q ring with
  | some j =>
    if j.op != 9 || j.status.isSome || j.trapped || !s.domRuns (tenDom q) then s
    else match j.rd with
      | some r => if r.tag.isSome then s else s.copyWrite q ring r.bytes
      | none => s.copyRead q ring
  | none => s

/-- Every LOCAL_COPY that can go on does. -/
def State.copyRun (s : State) : State :=
  s.ten.qps.foldl (fun s p => p.2.jobs.foldl (fun s j =>
    if j.op = 9 && j.status.isNone then s.asking (.job p.1 j.ring) fun s => s.copyStep p.1 j.ring else s) s) s

/-- The bytes of a LOCAL_COPY's piece are here. -/
def State.copyData (s : State) (q : Nat) (ring : Count32) (bs : List Byte) : State :=
  (s.updJob q ring fun j => { j with rd := j.rd.map fun r => { r with tag := none, bytes := bs } }).asking (.job q ring) fun s =>
    s.copyStep q ring

/-! ### Windows and responses (R114, R117, R122) -/

/-- A window index of the transient range (R94). -/
def transient (w : Nat) : Bool := decide (transientBase ≤ w)

/-- WINDOW_FAULT (R122): at most one per window per millisecond, none while FAULT_EVENTS is 0. -/
def State.windowFault (s : State) (w status off srcNode srcQp : Nat) (late : Bool) : State :=
  match s.wins.get? w with
  | none => s
  | some v =>
    let quiet := match v.faultAt with
      | some t => decide (s.now < t + 1000000)
      | none => false
    if s.rdF R.RMA_CTL F.RMA_CTL_FAULT_EVENTS = 0 || quiet then s
    else ({ s with wins := s.wins.set w { v with faultAt := some s.now } }).eqEvent v.eq
      (ev 0x0501 status w off (srcNode + srcQp * 2 ^ 18 + b2n late * 2 ^ 39))

/-- The base of a window; 0 for one that is not in the table. -/
def State.winBase (s : State) (w : Nat) : Nat := match s.wins.get? w with
  | some v => v.base
  | none => 0

/-- A response whose access at an offset cannot be made or has failed (R114, R116): nothing further is sent for its request, which
ends with a late NAK OP; WINDOW_FAULT; and the failure of the rendezvous job it serves (R96). -/
def State.respFail (s : State) (id status off : Nat) : State :=
  match s.tra.resps.get? id with
  | none => s
  | some r =>
    let s := s.lateNak r 7
    let s := { s with tra.resps := s.tra.resps.set id { r with allSent := true, gone := true, ready := true, rd := none } }
    let s := s.windowFault r.win status (r.base + off - s.winBase r.win) r.dst.node r.dst.qp true
    match r.rdv with
    | some (q, ring) => (s.jobFail q ring status).respCheck id
    | none => s.respCheck id

/-- The memory that a response reads: the window, or the scatter list of the rendezvous job (R94); with the address space and
the function. -/
def State.respMem (s : State) (r : Resp) : Option (Nat × Nat × List Sge) :=
  match r.rdv with
  | some (q, ring) =>
    match s.ten.qps.get? q with
    | some v =>
      match (v.jobs ++ v.ghosts).find? fun j => j.ring == ring with
      | some j => some (v.fn, v.asid, cutSges j.sges r.base (r.len))
      | none => none
    | none => none
  | none =>
    match s.wins.get? r.win with
    | some w => some (w.owner, w.asid, if r.len = 0 then [] else [{ addr := r.base, len := r.len, hbm := w.hbm }])
    | none => none

/-- The bytes of a response at an offset (R114): read anew for each packet and each retransmission; where no mark is ever
set. -/
def State.respRead (s : State) (id : Nat) (r : Resp) (off n : Nat) : State × Option (List Byte) :=
  if n = 0 then (s, some [])
  else match r.rd with
    | some b =>
      if b.tag.isSome then (s, none)
      else if b.off = off && b.len = n then
        ({ s with tra.resps := s.tra.resps.set id { r with rd := none } }, some b.bytes)
      else ({ s with tra.resps := s.tra.resps.set id { r with rd := none } }, none)
    | none =>
      match s.respMem r with
      | none => (s, none)
      | some (fn, asid, gs) =>
        let parts := cutSges gs off n
        if needsHost parts && (!s.fnReady fn || !s.portRoom fn) then (s, none)
        else match s.sgXlate asid false (aheadOf gs off n) parts with
          | (s, .ok segs ps) =>
            let t := s.issueRead fn (.resp id) segs ps none
            let b : ReadBuf := { off := off, len := n, tag := some t.2, bytes := [] }
            ({ t.1 with tra.resps := t.1.tra.resps.set id { r with rd := some b } }, none)
          | (s, x) => (if r.gone then s else s.respFail id x.status off, none)

end Sys2Proof.Machine
end

