-- ==== Sys2Proof/Machine/CollOps.lean ====
section
/-! DEFINITION. Collective groups at a vertex (06_collectives): edges and their credit, the checks of packets, operations,
their chunks, and the start and end of COLL jobs. -/

namespace Sys2Proof.Machine

open Sys2Proof

/-! ### Edges and credit (R127, R138) -/

/-- The edge to a node. -/
def Group.edge? (v : Group) (n : Nat) : Option Edge := v.edges.find? fun e => e.node == n

/-- The state with an edge of a group changed. -/
def State.updEdge (s : State) (g n : Nat) (f : Edge → Edge) : State :=
  s.updGrp g fun v => { v with edges := v.edges.map fun e => if e.node = n then f e else e }

/-- The vertex with no parent edge is the root (R125). -/
def Group.root (v : Group) : Bool := !(v.edges.any fun e => e.up)

/-- The child edges, in description order. -/
def Group.kids (v : Group) : List Edge := v.edges.filter fun e => !e.up

/-- LIMIT that this vertex grants on a channel (R138). -/
def grantOf (v : Group) (e : Edge) : BitVec 16 := e.freed + BitVec.ofNat 16 v.cwin

/-- A sender may send packet `s` under a LIMIT (R138). -/
def mayNumber (limit s : BitVec 16) : Bool := decide (1 ≤ (limit - s).toNat) && decide ((limit - s).toNat ≤ 0x7FFF)

/-- An operation is active at a vertex: its first local job has joined it, or a relay has its first packet (R131, R146). -/
def Group.active (v : Group) : Bool := v.op.any (·.active)

/-- OP_SEQ of a CREDIT (Table 6.6): the active operation's, and with none the one before the next, so that a member with no job
yet is not heard as carrying the operation (R146). DEDUCED (log 64). -/
def Group.creditSeq (v : Group) : BitVec 16 := if v.active then v.opSeq else v.opSeq - 1

/-- A CREDIT packet on an edge (R127, R138). MSG_LEN is the current operation's LENGTH (R134), and 0 with no operation: DESIGN
CHOICE (log 64). -/
def State.sendCredit (s : State) (g n : Nat) : State :=
  match s.grps.get? g with
  | some v =>
    match v.edge? n with
    | some e =>
      let lim := grantOf v e
      (s.collSend g v e 0x12 (match v.op with | some o => o.desc.len | none => 0)
        (collWord4 g v.gen.toNat v.creditSeq.toNat 0 0) 0
        (w64 (lim.toNat + e.sendSeq.toNat * 2 ^ 16 + b2n e.up * 2 ^ 32)) 0 []).updEdge g n fun e => { e with granted := lim }
    | none => s
  | none => s

/-- A slot of a channel is freed; CREDIT goes when LIMIT has advanced by CWIN / 4 since the last one (R138). -/
def State.freeSlot16 (s : State) (g n : Nat) : State :=
  let s := s.updEdge g n fun e => { e with freed := e.freed + 1 }
  match s.grps.get? g with
  | some v =>
    match v.edge? n with
    | some e => if v.cwin / 4 ≤ (grantOf v e - e.granted).toNat then s.sendCredit g n else s
    | none => s
  | none => s

/-! ### Operations (R131, R135) -/

/-- Chunks of a vector (R135). -/
def CollDesc.chunks (d : CollDesc) : Nat := ceilDiv d.len 256

/-- The vector travels up (REDUCE, ALL_REDUCE). -/
def CollDesc.reduces (d : CollDesc) : Bool := d.op == 2 || d.op == 3

/-- SLICE mode. -/
def CollDesc.slices (d : CollDesc) : Bool := d.mode == 1

/-- The descriptor of word 5 with LENGTH (Table 6.6). -/
def descOf (w5 : Word) (len : Nat) : CollDesc :=
  { op := bitsOf w5 0 8, dtype := bitsOf w5 8 8, oper := bitsOf w5 16 8, mode := bitsOf w5 24 2, len := len }

/-- Word 5 of an UP or DOWN packet. -/
def descWord (d : CollDesc) (seq : BitVec 16) : Word :=
  w64 (d.op + d.dtype * 2 ^ 8 + d.oper * 2 ^ 16 + d.mode * 2 ^ 24 + seq.toNat * 2 ^ 32)

/-- An operation of a descriptor at its start. -/
def opInit (d : CollDesc) (active : Bool) : CollOp :=
  { desc := d, jobs := [], active := active, owed := [], expUp := 0, dataUp := 0, exps := [], downs := 0, dones := [],
    doneUp := false, doneDown := false, due := none }

/-- The state with the operation of a group changed. -/
def State.updOp (s : State) (g : Nat) (f : CollOp → CollOp) : State :=
  s.updGrp g fun v => { v with op := v.op.map f }

/-- A chunk that a group holds for its current operation. -/
def Group.chunk? (v : Group) (src : CollSrc) (pass idx : Nat) : Option Chunk :=
  v.chunks.find? fun c => c.src == src && c.pass == pass && c.idx == idx && !c.next

/-- Packets are owed on child edges, one on each. -/
def State.oweKids (s : State) (g : Nat) (v : Group) (pass idx : Nat) (bytes : List Byte) : State :=
  s.updOp g fun o => { o with
    owed := o.owed ++ v.kids.map fun e => { node := e.node, up := false, pass := pass, idx := idx, bytes := bytes, count := 0 } }

/-- The wire bytes of an element going up in a pass (Table 6.7). -/
def upBytes (d : CollDesc) (pass : Nat) : Nat := if d.slices then (if pass = 0 then 2 else 24) else elemSize d.dtype

/-- Two chunks of a pass combined (R133, R140, R141). -/
def mixChunk (d : CollDesc) (pass : Nat) (a b : List Byte) : List Byte :=
  if d.slices then
    if pass = 0 then zipElems 2 expMix a b else zipElems 8 (fun x y => (x + y) % 2 ^ 64) a b
  else zipElems (elemSize d.dtype) (elemOp d.dtype d.oper) a b

/-- The contributions of a chunk of a pass, in order (R133): the local jobs in ring order, then the children in description
order; none while one is missing. -/
def Group.parts (v : Group) (o : CollOp) (pass idx : Nat) : Option (List (List Byte) × Nat) :=
  let locals := o.jobs.map fun r => v.chunk? (.local_ r) pass idx
  let kids := v.kids.map fun e => v.chunk? (.edge e.node) pass idx
  if locals.any (·.isNone) || kids.any (·.isNone) then none
  else
    let codes := (o.exps.get? idx).getD []
    let mine := locals.filterMap fun c => c.map fun c =>
      if o.desc.slices then (if pass = 0 then codesOf o.desc.dtype c.bytes else slicesChunk o.desc.dtype codes c.bytes)
      else c.bytes
    some (mine ++ kids.filterMap fun c => c.map (·.bytes),
          v.localN + kids.foldl (fun a c => a + match c with | some c => c.count | none => 0) 0)

/-- The combined chunk of a pass, and the COUNT of its subtree. -/
def Group.combined (v : Group) (o : CollOp) (pass idx : Nat) : Option (List Byte × Nat) :=
  match v.parts o pass idx with
  | some (p :: ps, n) => some (ps.foldl (mixChunk o.desc pass) p, n)
  | _ => none

/-- The next UP chunk of a reduction that this vertex would form, as pass and index (R139, R140): EXP first, DATA once its
codes are there. -/
def CollOp.nextUp (o : CollOp) : List (Nat × Nat) :=
  let n := o.desc.chunks
  if !o.desc.reduces then []
  else if o.desc.slices then
    (if o.expUp < n then [(0, o.expUp)] else [])
      ++ if o.dataUp < n && (o.exps.get? o.dataUp).isSome then [(1, o.dataUp)] else []
  else if o.dataUp < n then [(1, o.dataUp)] else []

/-- The slots of chunks that came on edges are freed. -/
def State.freeChunks (s : State) (g : Nat) (cs : List Chunk) : State :=
  cs.foldl (fun s c => match c.src with
    | .edge n => s.freeSlot16 g n
    | .local_ _ | .result => s) s

/-- A formed chunk's contributions are used up: the local ones go, the children's slots are freed. -/
def State.useParts (s : State) (g : Nat) (v : Group) (pass idx : Nat) : State :=
  let mine := fun (c : Chunk) => !c.next && c.pass == pass && c.idx == idx && match c.src with
    | .local_ _ => true
    | .edge n => v.kids.any fun e => e.node == n
    | .result => false
  (s.updGrp g fun v => { v with chunks := v.chunks.filter fun c => !mine c }).freeChunks g (v.chunks.filter mine)

/-! ### Local reads and placement (R139, R163) -/

/-- A local job of the operation fails: it keeps its status, and the group fails LOCAL_FAULT (R145, Table 6.9). -/
def State.collLocalFail (s : State) (g q : Nat) (ring : Count32) (status : Nat) : State :=
  let s := s.updJob q ring fun j => if j.status.isNone then { j with status := some status, trapped := false } else j
  s.groupError g (s.localCause 4 status)

/-- A local contribution is read: elements of SRC at a chunk, unless they are here or on their way. -/
def State.collRead (s : State) (g : Nat) (ring : Count32) (pass idx : Nat) : State :=
  -- SRC is one range (R167)
  match s.grps.get? g with
  | none => s
  | some v =>
    match s.ten.qps.get? v.bindQp, s.job? v.bindQp ring with
    | some q, some j =>
      let out := s.tra.hreqs.any fun h => h.2.for_ == .coll g ring pass idx
      if (v.chunk? (.local_ ring) pass idx).isSome || out || j.trapped || !s.fnReady q.fn || !s.portRoom q.fn
          || !mayTranslate q ring then s
      else
        let n := Nat.min 256 (j.len - 256 * idx)
        let all : List Sge := [{ addr := j.e.w3.toNat, len := j.len, hbm := false }]
        match s.sgXlate q.asid false (aheadOf all (256 * idx) n) (cutSges all (256 * idx) n) with
        | (s, .ok segs ps) => (s.issueRead q.fn (.coll g ring pass idx) segs ps none).1
        | (s, .fail st) => s.collLocalFail g v.bindQp ring st
        | (s, .mark p d z) => s.trapAsk v.bindQp ring q.asid p false d z
    | _, _ => s

/-- A chunk is placed at DST of one local job; false when it cannot be (a trap, or a failure). -/
def State.collPut (s : State) (g : Nat) (v : Group) (c : Chunk) (r : Count32) : State × Bool :=
  match s.ten.qps.get? v.bindQp, s.job? v.bindQp r with
  | some q, some j =>
    if j.trapped || !s.fnReady q.fn || !mayTranslate q r then (s, false)
    else
      let all : List Sge := [{ addr := j.e.w5.toNat, len := j.len, hbm := false }]
      match s.sgXlate q.asid true (aheadOf all (256 * c.idx) c.bytes.length) (cutSges all (256 * c.idx) c.bytes.length) with
      | (s, .ok segs ps) => (s.sgWrite q.fn segs ps (s.roFor v.bindQp) c.bytes, true)
      | (s, .fail st) => (s.collLocalFail g v.bindQp r st, false)
      | (s, .mark p d z) => (s.trapAsk v.bindQp r q.asid p true d z, false)
  | _, _ => (s, true)

/-- Two chunks are the same chunk of the current operation. -/
def Chunk.same (c k : Chunk) : Bool := k.src == c.src && k.pass == c.pass && k.idx == c.idx && !k.next

/-- The state with a chunk of the current operation changed. -/
def State.updChunk (s : State) (g : Nat) (c : Chunk) (f : Chunk → Chunk) : State :=
  s.updGrp g fun v => { v with chunks := v.chunks.map fun k => if c.same k then f k else k }

/-- A chunk is placed for the local jobs that have joined and do not have it yet, in ring order, each once (R139: a chunk placed is
final); false when one cannot be. -/
def State.collPlace (s : State) (g : Nat) (v : Group) (c : Chunk) : List Count32 → State × Bool
  | [] => (s, true)
  | r :: rs =>
    if c.put.contains r then s.collPlace g v c rs
    else match s.collPut g v c r with
      | (s, true) => (s.updChunk g c fun k => { k with put := k.put ++ [r] }).collPlace g v c rs
      | (s, false) => (s, false)

/-! ### The progress of an operation (R131, R132, R139) -/

/-- Every local job of the operation has joined. -/
def joinedAll (v : Group) (o : CollOp) : Bool := o.jobs.length == v.localN

/-- Every child's DONE has arrived. -/
def donesAll (v : Group) (o : CollOp) : Bool := v.kids.all fun e => o.dones.any fun d => d.1 == e.node

/-- The event of Table 6.5 has occurred at this vertex. -/
def opComplete (v : Group) (o : CollOp) : Bool :=
  joinedAll v o && match o.desc.op with
    | 0 => if v.root then donesAll v o else o.doneDown
    | 1 => decide (o.desc.chunks ≤ o.downs) && (!v.root || o.doneUp)
    | 2 => if v.root then decide (o.desc.chunks ≤ o.downs) else o.doneDown
    | _ => decide (o.desc.chunks ≤ o.downs)

/-- The vertex has done its part but for the packets it owes: the DONE it must pass on has been taken. -/
def opOver (v : Group) (o : CollOp) : Bool :=
  opComplete v o && o.owed.isEmpty && match o.desc.op with
    | 0 | 1 => o.doneUp
    | 2 => o.doneDown
    | _ => true

/-- The root has a result: it is placed for each local job, as a chunk that came down is elsewhere. -/
def State.addResult (s : State) (g idx : Nat) (d : CollDesc) (bs : List Byte) : State :=
  let c : Chunk := { src := .result, pass := 1, idx := idx, bytes := bs, count := 0, next := false, desc := d, put := [], used := false }
  s.updGrp g fun v => { v with chunks := v.chunks ++ [c] }

/-- The root combines a chunk (R139, R140, R142): codes go down; results are placed and, for ALL_REDUCE, go down. -/
def State.rootChunk (s : State) (g : Nat) (v : Group) (o : CollOp) (pass idx : Nat) : State × Bool :=
  match v.combined o pass idx with
  | none => (s, false)
  | some (bs, count) =>
    if pass = 0 then
      if idx = 0 && 2 ^ 20 < count then (s.groupError g (s.localCause 5 St.remoteOp), false)
      else
        let s := (s.event 0x0601 (g % 2)).updOp g fun o => { o with exps := o.exps.set idx bs, expUp := o.expUp + 1 }
        ((s.useParts g v 0 idx).oweKids g v 0 idx bs, true)
    else
      let res := if o.desc.slices then roundChunk o.desc.dtype ((o.exps.get? idx).getD []) bs
        else canonChunk o.desc.dtype bs
      let s := (s.event 0x0601 (g % 2)).updOp g fun o => { o with dataUp := o.dataUp + 1 }
      let s := (s.useParts g v 1 idx).addResult g idx o.desc res
      (if o.desc.op = 3 then s.oweKids g v 1 idx res else s, true)

/-- The root's broadcast (R131): the first local job's SRC, chunk by chunk, sent down, and placed at every local job's DST. -/
def State.rootCast (s : State) (g : Nat) (v : Group) (o : CollOp) : State × Bool :=
  match o.jobs with
  | [] => (s, false)
  | r :: _ =>
    match v.chunk? (.local_ r) 1 o.dataUp with
    | none => (s, false)
    | some c =>
      let s := (s.updGrp g fun v => { v with chunks := v.chunks.filter fun k => !c.same k }).addResult g o.dataUp o.desc c.bytes
      ((s.updOp g fun o => { o with dataUp := o.dataUp + 1 }).oweKids g v 1 o.dataUp c.bytes, true)

/-- A chunk came down from the parent. -/
def Group.fromParent (v : Group) (c : Chunk) : Bool :=
  match c.src with
  | .edge n => v.edges.any fun e => e.up && e.node == n
  | .local_ _ | .result => false

/-- The local jobs of the operation for which a chunk that came down, or a result, is placed (Table 6.4): all that have joined, where
DST is used. -/
def Group.takers (v : Group) (o : CollOp) : List Count32 :=
  if o.desc.op = 1 || o.desc.op = 3 || (o.desc.op = 2 && v.root) then o.jobs else []

/-- The first DOWN chunk or result of the current operation that is to be placed for a job that has joined, or whose placing is
over. -/
def Group.unplaced (v : Group) (o : CollOp) : Option Chunk :=
  v.chunks.find? fun c => !c.next && !c.used && (v.fromParent c || c.src == .result)
    && (joinedAll v o || (v.takers o).any fun r => !c.put.contains r)

/-- DOWN chunks that have been placed and sent to every child free their slots (R138). -/
def State.freeDowns (s : State) (g : Nat) (v : Group) (o : CollOp) : State :=
  match v.edges.find? fun e => e.up with
  | none => s
  | some e =>
    let gone := v.chunks.filter fun c => !c.next && c.used && c.src == .edge e.node
      && !(o.owed.any fun w => !w.up && w.pass == c.pass && w.idx == c.idx)
    if gone.isEmpty then s
    else
      let s := s.updGrp g fun v => { v with chunks := v.chunks.filter fun c => !gone.contains c }
      gone.foldl (fun s _ => s.freeSlot16 g e.node) s

/-- The jobs of the operation complete (R132). -/
def State.collFinish (s : State) (v : Group) (o : CollOp) : State :=
  o.jobs.foldl (fun s r => (s.updJob v.bindQp r fun j => { j with bytes := o.desc.len }).finish v.bindQp r St.ok) s

/-- The DONEs of children among chunks, as node and COUNT. -/
def Group.donesIn (v : Group) (cs : List Chunk) : List (Nat × Nat) :=
  cs.filterMap fun c => match c.src with
    | .edge n => if c.pass = 2 && !v.fromParent c then some (n, c.count) else none
    | .local_ _ | .result => none

/-- What a DOWN chunk of the current operation does when it arrives (R139, R140): it is owed to the children; codes are kept; a
DONE is noted. -/
def State.downNow (s : State) (g : Nat) (v : Group) (c : Chunk) : State :=
  let s := s.oweKids g v c.pass c.idx c.bytes
  if c.pass = 1 then s
  else (s.updChunk g c fun k => { k with used := true }).updOp g fun o =>
    if c.pass = 0 then { o with exps := o.exps.set c.idx c.bytes } else { o with doneDown := true }

/-- The operation is over: the next number becomes current, with what has already arrived for it (R131). -/
def State.opNext (s : State) (g : Nat) (v : Group) : State :=
  let held := (v.chunks.filter fun c => c.next).map fun c => { c with next := false }
  let s := s.freeChunks g (v.chunks.filter fun c => !c.next)
  let s := s.updGrp g fun v => { v with
    edges := v.edges.map fun e => { e with rxDue := s.now + s.edgeT },
    opSeq := v.opSeq + 1,
    chunks := held,
    op := match held with
      | [] => none
      | c :: _ => some { opInit c.desc (v.localN == 0) with dones := v.donesIn held } }
  (held.filter v.fromParent).foldl (fun s c => s.downNow g v c) s

/-- A chunk that came down, or a result, is placed for the local jobs that have joined; when all have, its placing is over, and a
result is gone. -/
def State.placeStride (s : State) (g : Nat) (v : Group) (o : CollOp) (c : Chunk) : State × Bool :=
  match s.collPlace g v c (v.takers o) with
  | (s, false) => (s, false)
  | (s, true) =>
    if !joinedAll v o then (s, true)
    else
      let s := s.updGrp g fun v => { v with
        chunks := if c.src = .result then v.chunks.filter fun k => !c.same k
          else v.chunks.map fun k => if c.same k then { k with used := true } else k,
        op := v.op.map fun o => if c.pass = 1 then { o with downs := o.downs + 1 } else o }
      match s.grps.get? g with
      | some v => match v.op with
        | some o => (s.freeDowns g v o, true)
        | none => (s, true)
      | none => (s, true)

/-- The vertex has every DONE of its children, its own jobs and, for BROADCAST, every chunk: its own DONE is due, upward, or at the
root of a BARRIER downward; at the root the children's DONEs are used up (R132, R138). -/
def State.doneStride (s : State) (g : Nat) (v : Group) (o : CollOp) : State :=
  let s := s.updOp g fun o => { o with doneUp := true, doneDown := o.doneDown || (v.root && o.desc.op == 0) }
  if v.root then
    let s := s.useParts g v 2 0
    if o.desc.op = 0 then s.oweKids g v 2 0 [] else s
  else
    let n := v.localN + o.dones.foldl (fun a d => a + d.2) 0
    s.updOp g fun o => { o with owed := o.owed ++ (v.edges.filter (·.up)).map fun e =>
      { node := e.node, up := true, pass := 2, idx := 0, bytes := [], count := n } }

/-- One stride of an operation at its vertex; the flag says that something was done. -/
def State.collStride (s : State) (g : Nat) : State × Bool :=
  match s.grps.get? g with
  | none => (s, false)
  | some v =>
    match v.op with
    | none => (s, false)
    | some o =>
      if v.st != .ready || !o.active || !s.domRuns (colDom g) then (s, false)
      else
        let d := o.desc
        let all := joinedAll v o
        -- local contributions are read
        let want : List (Count32 × Nat × Nat) :=
          if d.op = 1 && v.root && o.dataUp < d.chunks then (o.jobs.take 1).map fun r => (r, 1, o.dataUp)
          else if all && d.reduces then o.nextUp.flatMap fun p => o.jobs.map fun r => (r, p.1, p.2)
          else []
        let s := want.foldl (fun s w => s.collRead g w.1 w.2.1 w.2.2) s
        match s.grps.get? g with
        | none => (s, false)
        | some v =>
          if v.st != .ready then (s, false)
          else match v.unplaced o with
            | some c => s.placeStride g v o c
            | none =>
              match (if v.root && all then o.nextUp.find? fun p => (v.combined o p.1 p.2).isSome else none) with
              | some p => s.rootChunk g v o p.1 p.2
              | none =>
                if v.root && d.op = 1 && o.dataUp < d.chunks
                    && (match o.jobs with | r :: _ => (v.chunk? (.local_ r) 1 o.dataUp).isSome | [] => false) then
                  s.rootCast g v o
                else if !o.doneUp && all && donesAll v o && (d.op = 0 || (d.op = 1 && d.chunks ≤ o.downs)) then
                  (s.doneStride g v o, true)
                else if !o.doneDown && d.op = 2 && v.root && d.chunks ≤ o.downs then
                  ((s.updOp g fun o => { o with doneDown := true }).oweKids g v 2 0 [], true)
                else if opComplete v o && (o.jobs.any fun r => match s.job? v.bindQp r with
                    | some j => j.status.isNone
                    | none => false) then (s.collFinish v o, true)
                else if opOver v o then (s.opNext g v, true)
                else (s, false)

/-- An operation goes on as far as it can. -/
def State.collAdvance (s : State) (g : Nat) : Nat → State
  | 0 => s
  | n + 1 =>
    match s.collStride g with
    | (s, true) => s.collAdvance g n
    | (s, false) => s

/-- The strides that one step can need: every chunk of the operation and its ends. -/
def State.collDue (s : State) (g : Nat) : Nat :=
  match s.grps.get? g with
  | some v => match v.op with
    | some o => 4 * o.desc.chunks + 2 * v.chunks.length + 16
    | none => 0
  | none => 0

/-- The operation of a group goes on. -/
def State.collGo (s : State) (g : Nat) : State := s.collAdvance g (s.collDue g)

/-- Every group goes on, as after a walk or a RESUME. -/
def State.collRun (s : State) : State := s.grps.foldl (fun s p => s.asking (.coll p.1) fun s => s.collGo p.1) s

/-- The bytes of a local contribution are here. -/
def State.collData (s : State) (g : Nat) (ring : Count32) (pass idx : Nat) (bs : List Byte) : State :=
  match s.grps.get? g with
  | some v =>
    match v.op with
    | some o =>
      if o.jobs.contains ring then
        let c : Chunk := { src := .local_ ring, pass := pass, idx := idx, bytes := bs, count := 0, next := false,
                           desc := o.desc, put := [], used := false }
        let s := s.updGrp g fun v => { v with chunks := v.chunks ++ [c] }
        s.asking (.coll g) fun s => s.collGo g
      else s
    | none => s
  | none => s

/-! ### COLL jobs (R129 to R131) -/

/-- The combinations of Table 6.4. -/
def CollDesc.valid (d : CollDesc) : Bool :=
  let lenOk := decide (elemSize d.dtype ≤ d.len) && decide (d.len ≤ 2 ^ 20) && d.len % elemSize d.dtype == 0
  match d.op with
  | 0 => d.dtype == 0 && d.oper == 0 && d.mode == 0 && d.len == 0
  | 1 => decide (d.dtype ≤ 3) && d.oper == 0 && d.mode == 0 && lenOk
  | 2 | 3 => lenOk && (if d.dtype ≤ 1 then decide (d.oper ≤ 5) && d.mode == 0
      else decide (d.dtype ≤ 3) && (d.mode == 0 && decide (d.oper ≤ 2) || d.mode == 1 && d.oper == 0))
  | _ => false

/-- The descriptor of a COLL job. -/
def collDesc (j : Job) : CollDesc :=
  { op := bitsOf j.e.w2 16 8, dtype := bitsOf j.e.w2 24 8, oper := bitsOf j.e.w2 32 8, mode := bitsOf j.e.w2 40 2, len := j.len }

/-- An address that the vertex uses obeys R129. -/
def collAddrOk (a : Word) (d : CollDesc) : Bool := bitsOf a 48 16 == 0 && a.toNat % elemSize d.dtype == 0

/-- What becomes of a COLL job that would start: it fails with a status, waits, or joins an operation. -/
inductive CollStart where
  | fail (status : Nat)
  | wait
  | join
deriving DecidableEq, Repr

/-- The checks of R130, and the waits of R127 and R131. -/
def State.collMay (s : State) (q : Nat) (v : Qp) (j : Job) : CollStart :=
  match s.grps.get? (bitsOf j.e.w2 0 16) with
  | none => .fail St.access
  | some g =>
    let d := collDesc j
    let first := match g.op with
      | some o => o.jobs.isEmpty
      | none => true
    let src := d.reduces || (d.op == 1 && g.root && first)
    let dst := d.op == 1 || d.op == 3 || (d.op == 2 && g.root)
    if !g.live || g.fn != v.fn || g.localN == 0 || g.bindQp != q then .fail St.access
    else if !d.valid || (src && !collAddrOk j.e.w3 d) || (dst && !collAddrOk j.e.w5 d) then .fail St.remoteOp
    else if g.st == .joining then .wait
    else match g.op with
      | some o => if joinedAll g o then .wait else .join
      | none => .join

/-- A COLL job joins the current operation of its group; another descriptor is a MISMATCH (R131). -/
def State.collJoin (s : State) (g : Nat) (j : Job) : State :=
  match s.grps.get? g with
  | none => s
  | some v =>
    let d := collDesc j
    let o := v.op.getD (opInit d true)
    let first := o.jobs.isEmpty
    let due := if first then v.waiting.getD s.opDue else o.due
    let s := s.updGrp g fun v => { v with
      edges := if first then v.edges.map fun e => { e with rxDue := s.now + s.edgeT } else v.edges,
      op := some { o with jobs := o.jobs ++ [j.ring], active := true, due := due }, waiting := none }
    if o.desc = d then s.asking (.coll g) fun s => s.collGo g else s.groupError g (s.localCause 3 St.remoteOp)

end Sys2Proof.Machine
end

