-- ==== Sys2Proof/Machine/QuarOps.lean ====
section
/-! DEFINITION. Quarantine under the stale limit (03_transport R73), SYNC exchanges (R74), and the domain that an admin command
needs (15_power R339, R342). -/

namespace Sys2Proof.Machine

open Sys2Proof

/-- The stale limits that have been in force, each with the time from which it was, oldest first. -/
def State.staleHist (s : State) : List (Nat × Nat) :=
  (0, 500000 * clamp 1 64 (getF (resetOf R.RTE_CTL) F.RTE_CTL_STALE_LIMIT)) :: s.tra.stales

/-- The largest limit in force at any time from `a` to `b`. -/
def limitOver (a b : Nat) : List (Nat × Nat) → Nat
  | [] => 0
  | (t, l) :: h =>
    let till := match h with
      | (u, _) :: _ => u
      | [] => b + 1
    Nat.max (if t ≤ b && a < till then l else 0) (limitOver a b h)

/-- The end of a quarantine that began at `t`, from the largest limit so far and the later changes (R73). -/
def quarScan (t m : Nat) : List (Nat × Nat) → Nat
  | [] => t + 2 * m
  | (u, l) :: h => if u ≤ t then quarScan t m h else if t + 2 * m ≤ u then t + 2 * m else quarScan t (Nat.max m l) h

/-- The first time at which a quarantine that began at `t` has lasted twice the largest stale limit in force from 64 ms before
`t` (R73). -/
def State.quarEnd (s : State) (t : Nat) : Nat :=
  quarScan t (limitOver (t - 64000000) t s.staleHist) s.staleHist

/-! ### SYNC (R74) -/

/-- Fabric time bits [33:10]: an initial PSN. -/
def State.freshPsn (s : State) : Psn := BitVec.ofNat 24 (s.ft / 1024)

/-- The SYNC or SYNC_ACK of a node-pair context: TC1, PKEY 0xFFFF, subject to the policer (R74, R203). -/
def State.syncPacket (s : State) (n type : Nat) (psn : Psn) (id : BitVec 16) : State :=
  (s.event 0x0402 (n % 4)).inject { pktZero with
    type := type, tc := 1, pkey := 0xFFFF, dstNode := n, node := true, w4 := w64 (psn.toNat + id.toNat * 2 ^ 24) }

/-- The SYNC_ID after one: 0 is skipped. -/
def nextSyncId (i : BitVec 16) : BitVec 16 := if i + 1 = 0 then 1 else i + 1

/-- A context that is IDLE goes to SYNCING: a SYNC with a new SYNC_ID and initial PSN, under the timer of R69 (R74 step 1). -/
def State.syncStart (s : State) (n : Nat) : State :=
  let v := s.np n
  if v.st != .idle then s
  else
    let id := nextSyncId v.ownSync
    let psn := s.freshPsn
    let sp := { v.sp with sendNext := psn, sendUna := psn, rto := s.rtoInit, retries := 0, deadline := some (s.now + s.rtoInit) }
    (s.setNp n { v with st := .syncing, ownSync := id, syncPsn := psn, sp := sp }).syncPacket n 0x0A psn id

/-! ### Admin commands that need a domain -/

/-- A domain is not there yet but will be: powering up, asleep or waking. -/
def State.domLater (s : State) (d : Nat) : Bool := s.domState d == 1 || s.domState d == 4 || s.domState d == 5

/-- An admin command that needs a domain (15_power): it waits for one that sleeps, and wakes it; it completes ACCESS while the
domain is OFF. -/
def State.adminAt (s : State) (c : AdminCmd) (code : Nat) (used : List (Nat × Nat)) (dom : Nat)
    (body : State → CmdRef → State) : State :=
  let s : State := if s.domLater dom && s.adminReady c.fn && bitsOf c.e.w0 0 16 == code then s.wake dom else s
  if s.domLater dom && s.adminReady c.fn && bitsOf c.e.w0 0 16 == code then s
  else s.admin c code used fun s r => if s.domState dom = 0 then s.adminDone r St.access 0 else body s r

end Sys2Proof.Machine
end

