-- ==== Sys2Proof/Machine/Queues.lean ====
section
/-! DEFINITION. The commands of the queues: doorbells, the ring aperture, the start of jobs, completions, stalls, drains
(02_queues R23 to R43, R48 to R50). -/

namespace Sys2Proof.Machine

open Sys2Proof

/-! ### Doorbells (R26, R27) -/

/-- A doorbell discarded and counted in DB_DROP (R27, R280). -/
def State.dbDrop (s : State) (fn : Nat) : State :=
  let f := s.fn fn
  s.setFn fn { f with dbDrop := satAdd (2 ^ 32 - 1) f.dbDrop 1 }

/-- What a doorbell does to a count (R27). -/
inductive DbRes where
  | old
  | range
  | new
deriving DecidableEq, Repr

/-- A producer doorbell against the last accepted count, the device's consumer count and the ring's size. -/
def dbProducer (count cur cons : Count32) (size : Nat) : DbRes :=
  if 2 ^ 31 ≤ (count - cur).toNat then .old
  else if size < (count - cons).toNat then .range
  else .new

/-- A consumer doorbell against the last accepted count and the device's producer count. -/
def dbConsumer (count cur prod : Count32) : DbRes :=
  if 2 ^ 31 ≤ (count - cur).toNat then .old
  else if (prod - cur).toNat < (count - cur).toNat then .range
  else .new

/-- A range error of an object with an EQ (R27). -/
def State.dbRange (s : State) (eq obj : Nat) (w : Word) : State :=
  s.eqEvent eq { code := 5, status := 0, object := obj, param0 := w, param1 := 0 }

/-- LOG_SIZE of an admin queue in its range (R44). -/
def adminLog (lo v : Nat) : Nat := clamp lo 12 v

/-- A doorbell to an admin slot (R26, R27): TYPE 0 to slot 0, TYPE 2 to slot 1, OBJECT 0. -/
def State.dbAdmin (s : State) (fn slot type obj : Nat) (count : Count32) : State :=
  let f := s.fn fn
  if slot = 0 && type = 0 && obj = 0 then
    let size := 2 ^ adminLog 7 (s.rdF (R.TEN_ADMIN_SQ fn) F.TEN_ADMIN_SQ_LOG_SIZE)
    match dbProducer count f.asqProd f.asqCons size with
    | .old => s
    | .range => s.dbDrop fn
    | .new => s.setFn fn { f with asqProd := count }
  else if slot = 1 && type = 2 && obj = 0 then
    match dbConsumer count f.acqCons f.acqProd with
    | .old => s
    | .range => s.dbDrop fn
    | .new => s.setFn fn { f with acqCons := count }
  else s.dbDrop fn

/-- RQ entries of a ring in host memory from a count on, each read through the translation unit (R23, R160); one whose access fails
is kept as its status. -/
def State.rqEntries (s : State) (v : Qp) (c : Count32) : List RqEnt → State × List RqEnt
  | [] => (s, [])
  | e :: es =>
    let t := s.readRange v.fn v.asid (v.rqBase + 64 * slotOf c v.rqLog) 64
    let r := t.1.rqEntries v (c + 1) es
    (r.1, (if t.2 = St.ok then e else .bad t.2) :: r.2)

/-- The entries that an RQ doorbell exposes, as the device's read of them finds them (R23, R24, R34); none when the operand is not
that read's. -/
def State.rqRead (s : State) (v : Qp) (n : Nat) (fetched : Fetched) : State × Option (List RqEnt) :=
  if v.rqDev then
    (s, some ((List.range n).map fun i =>
      .entry (entryOfBytes (s.hbmRead (v.rqBase * 4096 + 64 * ((v.rqProd.toNat + i) % ringSize v.rqLog)) 64))))
  else
    let es := match fetched with
      | .entries es => es.map RqEnt.entry
      | .failed st => List.replicate n (.bad st)
    if es.length = n then
      let r := s.rqEntries v v.rqProd es
      (r.1, some r.2)
    else (s, none)

/-- A step of a doorbell; while it waits for walks the host port holds the doorbell (log 56). -/
def State.orHold (s s' : State) (self : Instr) : State :=
  let t := s.settle s'
  if s'.xlt.missed.any (fun r => !r.spec) then { t with hst.heldDb := t.hst.heldDb ++ [self] } else t

/-- A doorbell to a queue pair's slot, TYPE 0 or 1. The admin and ring sizes are those of R22. -/
def State.dbQp (s : State) (fn q type : Nat) (w : Word) (fetched : Fetched) (self : Instr) : State :=
  let count : Count32 := BitVec.ofNat 32 (bitsOf w 0 32)
  match s.ten.qps.get? q with
  | none => s.dbDrop fn
  | some v =>
    if v.st = .reset || (type = 1 && v.noRq) then s.dbDrop fn
    else if type = 0 then
      match dbProducer count v.sqProd v.sqCons (ringSize v.sqLog) with
      | .old => s
      | .range => s.dbRange v.eq q w
      | .new => (s.event 0x0801 (fnPort fn)).updQp q fun v => { v with sqProd := count }
    else
      match dbProducer count v.rqProd v.rqCons (ringSize v.rqLog) with
      | .old => s
      | .range => s.dbRange v.eq q w
      | .new =>
        s.orHold (match { s with xlt.asker := .rq q }.rqRead v (count - v.rqProd).toNat fetched with
          | (s, none) => s
          | (s, some es) =>
            let s := (s.event 0x0801 (fnPort fn)).updQp q fun v => { v with rqProd := count, rqBuf := v.rqBuf ++ es }
            if v.st = .error then (s.flushRq q St.flushed).qpReap q else s.rqRelease q) self

/-- A doorbell to a CQ's slot, TYPE 2, 3 or 4 (R27, R39, R41). -/
def State.dbCq (s : State) (fn i type : Nat) (w : Word) : State :=
  let count : Count32 := BitVec.ofNat 32 (bitsOf w 0 32)
  match s.ten.cqs.get? i with
  | none => s.dbDrop fn
  | some c =>
    match dbConsumer count c.cons c.prod with
    | .old => s
    | .range => s.dbRange c.eq i w
    | .new =>
      let s := (s.event 0x0801 (fnPort fn)).updCq i fun c => Cq.stall { c with
        cons := count, quals := c.quals.drop (count - c.cons).toNat,
        arm := if type = 3 then .next else if type = 4 then .solicited else c.arm } s.now
      match s.ten.cqs.get? i with
      | some c =>
        if (type = 3 && !c.quals.isEmpty) || (type = 4 && c.quals.any id) then s.cqNotify i else s
      | none => s

/-- A doorbell to an EQ's slot, TYPE 5 or 6 (R27, R42, R43). -/
def State.dbEq (s : State) (fn i type : Nat) (w : Word) : State :=
  let count : Count32 := BitVec.ofNat 32 (bitsOf w 0 32)
  match s.ten.eqs.get? i with
  | none => s.dbDrop fn
  | some e =>
    match dbConsumer count e.cons e.prod with
    | .old => s
    | .range => s.dbRange i i w
    | .new =>
      let s := (s.event 0x0801 (fnPort fn)).updEq i fun e => { e with cons := count, armed := e.armed || type == 6 }
      s.eqFlush i (s.eqDue i)

/-- The domain whose unit a doorbell to a slot reaches: that of a queue pair's slice; CQs, EQs and admin slots need none. -/
def slotDom : Option SlotObj → Option Nat
  | some (.qp q) => some (tenDom q)
  | _ => none

/-- An RQ doorbell of a slot is held: later ones of the slot wait behind it. -/
def State.rqDbHeld (s : State) (fn off : Nat) : Bool :=
  s.hst.heldDb.any fun i => match i with
    | .doorbellRqProducer f o _ _ _ => f == fn && o == off
    | _ => false

/-- A doorbell of the given TYPE (R26, R27): nothing is served while the device is fatal or the host port's domain is not on;
a draining function's are dropped (R280), and so are those of a domain that is OFF; a sleeping domain is woken, and the host
port holds the doorbell (R342). A write whose TYPE is another row's changes nothing here. -/
def State.doorbell (s : State) (type fn off size : Nat) (w : Word) (fetched : Fetched) (self : Instr) : State :=
  let t := bitsOf w 61 3
  if s.fatal || s.rdF R.STC_STAT F.STC_STAT_RESET_NEEDED = 1 || !fnOk fn || !s.domRuns (64 + fnPort fn) || !s.linkSecure fn
      || 0x1000000 ≤ off
      || (size = 8 && t != type && t != 7) then s
  else
    let slot := off / 8
    let obj := bitsOf w 36 22
    let bad := size != 8 || off % 8 != 0 || t = 7 || bitsOf w 58 3 != 0 || bitsOf w 32 4 != 0
    if bad || (s.fn fn).drain.isSome then s.dbDrop fn
    else if slot ≤ 1 then s.dbAdmin fn slot type obj (BitVec.ofNat 32 (bitsOf w 0 32))
    else
      let o := (s.fn fn).slots.get? slot
      let s : State := match slotDom o with
        | some d => if s.domLater d then s.wake d else s
        | none => s
      let st := match slotDom o with
        | some d => s.domState d
        | none => 2
      if st = 0 then s.dbDrop fn
      else if (st != 2 && st != 3) || (type = 1 && s.rqDbHeld fn off) then
        { s with hst.heldDb := s.hst.heldDb ++ [self] }
      else match o with
        | some (.qp q) => if obj = q && type ≤ 1 then s.dbQp fn q type w fetched self else s.dbDrop fn
        | some (.cq i) => if obj = i && 2 ≤ type && type ≤ 4 then s.dbCq fn i type w else s.dbDrop fn
        | some (.eq i) => if obj = i && 5 ≤ type && type ≤ 6 then s.dbEq fn i type w else s.dbDrop fn
        | none => s.dbDrop fn

/-- DOORBELL_SQ_PRODUCER (R27). -/
def execDoorbellSqProducer (fn off size : Nat) (w : Word) (s : State) : Host.Outcome State Fault Refusal :=
  .next (s.doorbell 0 fn off size w (.entries []) (.doorbellSqProducer fn off size w))

/-- DOORBELL_RQ_PRODUCER (R27, R34): with the entries of a host-resident ring that it exposes. -/
def execDoorbellRqProducer (fn off size : Nat) (w : Word) (entries : Fetched) (s : State) : Host.Outcome State Fault Refusal :=
  .next (s.doorbell 1 fn off size w entries (.doorbellRqProducer fn off size w entries))

/-- DOORBELL_CQ_CONSUMER (R27, R39). -/
def execDoorbellCqConsumer (fn off size : Nat) (w : Word) (s : State) : Host.Outcome State Fault Refusal :=
  .next (s.doorbell 2 fn off size w (.entries []) (.doorbellCqConsumer fn off size w))

/-- DOORBELL_CQ_ARM (R41). -/
def execDoorbellCqArm (fn off size : Nat) (w : Word) (s : State) : Host.Outcome State Fault Refusal :=
  .next (s.doorbell 3 fn off size w (.entries []) (.doorbellCqArm fn off size w))

/-- DOORBELL_CQ_ARM_SOLICITED (R41). -/
def execDoorbellCqArmSolicited (fn off size : Nat) (w : Word) (s : State) : Host.Outcome State Fault Refusal :=
  .next (s.doorbell 4 fn off size w (.entries []) (.doorbellCqArmSolicited fn off size w))

/-- DOORBELL_EQ_CONSUMER (R43). -/
def execDoorbellEqConsumer (fn off size : Nat) (w : Word) (s : State) : Host.Outcome State Fault Refusal :=
  .next (s.doorbell 5 fn off size w (.entries []) (.doorbellEqConsumer fn off size w))

/-- DOORBELL_EQ_ARM (R42, R43). -/
def execDoorbellEqArm (fn off size : Nat) (w : Word) (s : State) : Host.Outcome State Fault Refusal :=
  .next (s.doorbell 6 fn off size w (.entries []) (.doorbellEqArm fn off size w))

/-! ### The ring aperture (R24, R275) -/

/-- A write through the ring aperture: stored in the allocation mapped there. Unmapped offsets and accesses of a draining
function are discarded; sleeping HBM interfaces are woken and the write held. -/
def State.aperture (s : State) (fn off : Nat) (data : List Byte) : State :=
  if s.fatal || !fnOk fn || !s.domRuns (64 + fnPort fn) || !s.linkSecure fn || (s.fn fn).drain.isSome || off < 0x1000000
      || 4096 < off % 4096 + data.length then s
  else
  let s : State := if s.domLater 79 || s.domLater 80 then (s.wakeOne 79).wakeOne 80 else s
  if s.domLater 79 || s.domLater 80 then
    { s with hst.heldDb := s.hst.heldDb ++ [.ringApertureWrite fn off data] }
  else match s.ten.allocs.find? fun a => a.fn == fn && a.aper != 0 && decide (a.aper ≤ off / 4096) && decide (off / 4096 < a.aper + a.size) with
    | some a => s.hbmWrite ((a.off + (off / 4096 - a.aper)) * 4096 + off % 4096) data
    | none => s

/-- RING_APERTURE_WRITE (R24). -/
def execRingApertureWrite (fn off : Nat) (data : List Byte) (s : State) : Host.Outcome State Fault Refusal :=
  .next (s.aperture fn off data)

/-- A held doorbell or aperture write is served (15_power R342). -/
def State.serveHeld (s : State) : Instr → State
  | .doorbellSqProducer fn off size w => s.doorbell 0 fn off size w (.entries []) (.doorbellSqProducer fn off size w)
  | .doorbellRqProducer fn off size w es => s.doorbell 1 fn off size w es (.doorbellRqProducer fn off size w es)
  | .ringApertureWrite fn off data => s.aperture fn off data
  | _ => s

/-- What the host ports hold is tried again, in order; what must wait still is held again. -/
def State.serveAllHeld (s : State) : State :=
  s.hst.heldDb.foldl (fun s i => s.serveHeld i) { s with hst.heldDb := [] }

/-! ### The start of jobs (R31 to R33, R48, R57, R58, R74, R94, R130, R191) -/

/-- The first free transient window of a queue pair's slice (R94). -/
def State.freeTransient (s : State) (q : Nat) : Option Nat :=
  let base := transientBase + 16384 * (q % 4)
  let i := firstFree base ((s.wins.filter fun w => w.2.st != .free).map Prod.fst)
  if i < base + 16384 then some i else none

/-- A new transient window for a rendezvous job (R94): read-only, for the job's destination alone. R94 gives its entry no BASE and no
EQ; it holds BASE 0 and the queue pair's EQ (DESIGN CHOICE, log 63). -/
def transientWin (q : Nat) (v : Qp) (j : Job) (gen : BitVec 8) : Window :=
  { base := 0, hbm := false, read := true, write := false, atomic := false, anySrc := false, anyQp := false, st := .open_,
    gen := gen, len := j.len, owner := v.fn, bindQp := q, asid := v.asid, eq := v.eq, srcNode := j.dst.node, srcQp := j.dst.qp,
    abandoned := 0, revoke := none, quarAt := 0, faultAt := none }

/-- A SEND-type job of a flow (R56, R57). -/
def Qp.sends (v : Qp) (d : Dest) (j : Job) : Bool :=
  (j.op == 1 || j.op == 2) && (!v.node || (j.dst.node == d.node && j.dst.qp == d.qp))

/-- SEND-type messages of a flow that are not acknowledged (R57): of running jobs, and of jobs that have ended. -/
def State.unackedMsgs (s : State) (q : Nat) (v : Qp) (d : Dest) : Nat :=
  let open_ := fun (j : Job) => !(s.space (jobSpace q v j)).clear (.job q j.ring)
  (v.jobs.filter fun j => v.sends d j && j.status.isNone && (!j.allSent || open_ j)).length
    + (v.ghosts.filter fun j => v.sends d j && open_ j).length

/-- EAGER_MAX (R92, R105). -/
def State.eagerMax (s : State) : Nat := Nat.min 65536 (s.rdF R.MAT_CTL F.MAT_CTL_EAGER_MAX)

/-- A network job starts, or waits: for a flow entry, for MSNs, for a transient window. It takes its MSN; a NODE job to a peer
whose context is IDLE starts the SYNC exchange. -/
def State.netStart (s : State) (q : Nat) (v : Qp) (j : Job) (n : Nat) : State :=
  let d := j.dst
  let sendType := j.op = 1 || j.op = 2
  let rts := j.op = 1 && s.eagerMax < j.len
  let known := !v.node || (s.tra.flows.get? (flowKey q d.node d.qp)).isSome
  if (!known && 2 ^ s.flowLog ≤ s.tra.flows.length) || (sendType && 32767 ≤ s.unackedMsgs q v d)
      || (rts && (s.freeTransient q).isNone) then s
  else
    let f := s.flowOf q v d
    let j := if sendType then { j with msn := f.next, flowNew := v.node && f.first, rts := rts } else j
    let s := s.updFlow q v d fun f =>
      let f := if known then f else { f with quiet := s.now }
      if sendType then { f with next := f.next + 1, first := false } else f
    let win := if rts then s.freeTransient q else none
    let s : State := match win with
      | some w =>
        let g := match s.wins.get? w with
          | some x => x.gen
          | none => 0
        { s with wins := s.wins.set w (transientWin q v j g) }
      | none => s
    let s := s.updQp q fun v => { v with sqNext := v.sqNext + BitVec.ofNat 32 n, jobs := v.jobs ++ [{ j with win := win }] }
    if v.node then s.syncStart d.node else s

/-- A job that is well formed starts (R31): the waits of its SQ first, then the checks of R191 and R30, then its work. -/
def State.startJob (s : State) (q : Nat) (v : Qp) (j : Job) : State :=
  let n := j.entries
  if j.fence && !v.jobs.isEmpty then s
  else
    let s0 := (s.event 0x0401 (q % 4)).updQp q fun v => { v with sqNext := v.sqNext + BitVec.ofNat 32 n, jobs := v.jobs ++ [j] }
    let lack := (j.op != 6 && j.sges.any fun g => g.hbm && !s.hbmOwned v.fn g.addr g.len)
      || (j.op == 9 && (copyDst j).any fun g => g.hbm && !s.hbmOwned v.fn g.addr g.len)
    if !(s.fn v.fn).keys.contains v.pkey then s0.jobFail q j.ring St.partition
    else if lack then s0.jobFail q j.ring St.access
    else if j.op = 0 || j.op = 8 then s0.finish q j.ring St.ok
    else if j.op = 9 then (if j.len = 0 then s0.finish q j.ring St.ok else s0.asking (.job q j.ring) fun s => s.copyStep q j.ring)
    else if j.op = 7 then
      match s.collMay q v j with
      | .fail st => s0.jobFail q j.ring st
      | .wait => s.updGrp (bitsOf j.e.w2 0 16) fun g => if g.st = .joining then { g with waiting := some (g.waiting.getD s.opDue) } else g
      | .join => s0.collJoin (bitsOf j.e.w2 0 16) j
    else (s.event 0x0401 (q % 4)).netStart q v j n

/-- SQ entries of a ring in host memory from a count on, each read through the translation unit (R23, R160): those before the first
whose access fails, and its status. -/
def State.sqEntries (s : State) (v : Qp) (c : Count32) : List Words8 → State × List Words8 × Option Nat
  | [] => (s, [], none)
  | e :: es =>
    let t := s.readRange v.fn v.asid (v.sqBase + 64 * slotOf c v.sqLog) 64
    if t.2 = St.ok then
      let r := t.1.sqEntries v (c + 1) es
      (r.1, e :: r.2.1, r.2.2)
    else (t.1, [], some t.2)

/-- The SQ's next entries, as far as its producer count exposes them: from HBM, or as a read of host memory finds them, with the
status of the entry after them if its access fails. -/
def State.sqRead (s : State) (v : Qp) (fetched : Fetched) : State × List Words8 × Option Nat :=
  let avail := (v.sqProd - v.sqNext).toNat
  if v.sqDev then
    (s, (List.range avail).map fun i =>
      entryOfBytes (s.hbmRead (v.sqBase * 4096 + 64 * ((v.sqNext.toNat + i) % ringSize v.sqLog)) 64), none)
  else match fetched with
    | .entries es => s.sqEntries v v.sqNext (es.take avail)
    | .failed st =>
      let t := s.readRange v.fn v.asid (v.sqBase + 64 * slotOf v.sqNext v.sqLog) 64
      (t.1, [], some (if t.2 = St.ok then st else t.2))

/-- Send completions of a queue pair wait at its CQ, which is full or not READY (R39, R49). -/
def State.sqStalled (s : State) (q : Nat) (v : Qp) : Bool :=
  match s.ten.cqs.get? v.sendCq with
  | some c => (c.full || c.st != .ready) && c.waiting.any fun e => e.kind == 0 && e.qp == q
  | none => false

/-- An entry of zeros. -/
def zeroEntry : Words8 := ⟨0, 0, 0, 0, 0, 0, 0, 0⟩

/-- An ended job takes its place in the SQ, and finished head jobs leave it. -/
def State.pushEnded (s : State) (q : Nat) (j : Job) : State :=
  (s.updQp q fun v => { v with sqNext := v.sqNext + BitVec.ofNat 32 j.entries, jobs := v.jobs ++ [j] }).retireAll q

/-- The next exposed entries of a READY queue pair: a job starts or waits, a malformed run is discarded (R33), or an entry that they
need could not be read (R23). `avail` entries are exposed. -/
def State.jobNext (s : State) (q : Nat) (v : Qp) (avail : Nat) (fetched : Fetched) : State :=
  let r := s.sqRead v fetched
  let lost := match r.2.2 with
    | some st => r.1.qpFail q st (some v.sqNext) none
    | none => s
  match parseJob v v.sqNext r.2.1 with
  | .job j => r.1.startJob q v j
  | .run n =>
    if n < r.2.1.length || r.2.1.length = avail then
      r.1.pushEnded q (jobEnded v.sqNext v (r.2.1.headD zeroEntry) n St.malformed)
    else lost
  | .wait => lost

/-- The next exposed entries of a queue pair in ERROR complete FLUSHED (R48), as one job or run: up to the next entry with FIRST, one
that cannot be read, or the producer count. An entry that cannot be read is a run of its own (step 4). The oldest carries CQ_ERROR
where R40 says so. -/
def State.flushNext (s : State) (q : Nat) (v : Qp) (avail : Nat) (fetched : Fetched) : State :=
  let r := s.sqRead v fetched
  let closed := r.2.2.isSome || r.2.1.length = avail
  let end_ := fun (e : Words8) (n : Nat) =>
    ((r.1.updQp q fun v => { v with flushCause := none }).pushEnded q
      (jobEnded v.sqNext v e n (v.flushCause.getD St.flushed))).qpReap q
  match r.2.1 with
  | [] => if closed then end_ zeroEntry 1 else s
  | e :: _ =>
    match parseJob v v.sqNext r.2.1 with
    | .job j => end_ e j.entries
    | _ => if runLen r.2.1 < r.2.1.length || closed then end_ e (runLen r.2.1) else s

/-- JOB_START (R31, R33, R46, R48): what the next exposed entries begin. `fetched` is what the read of a host-resident ring gives, for
as many entries as it lists; with part of the entries a run needs missing from it, nothing happens. -/
def execJobStart (qp : Nat) (fetched : Fetched) (s : State) : Host.Outcome State Fault Refusal :=
  match s.ten.qps.get? qp with
  | none => .next s
  | some v =>
    let avail := (v.sqProd - v.sqNext).toNat
    if s.fatal || avail = 0 || (!v.sqDev && !s.fnReady v.fn) then .next s
    else if v.st = .ready then
      if !s.domOn (tenDom qp) || s.sqStalled qp v || (!v.sqDev && v.jobs.any fun j => j.trapped) then .next s
      else .next (s.asking (.sq qp) fun s => s.jobNext qp v avail fetched)
    else if v.st = .error then
      if !s.domRuns (tenDom qp) then .next s
      else .next (s.asking (.sq qp) fun s => s.flushNext qp v avail fetched)
    else .next s

/-! ### Completions (R36, R38 to R41) -/

/-- COMPLETION_WRITE (R36, R38, R41): the oldest waiting completion goes into the ring of a READY CQ that has room, and frees
what it covers. A failed translation moves the CQ to ERROR (R23). -/
def State.completionWrite (s : State) (i : Nat) : State :=
  match s.ten.cqs.get? i with
  | none => s
  | some c =>
    match c.waiting with
    | [] => s
    | e :: _ =>
      if s.fatal || c.st != .ready || c.full || !s.fnReady c.fn then s
      else match s.translate c.asid (c.base + 32 * slotOf c.prod c.logSize) 32 0 true with
        | (s, .ok ps) =>
          let s := s.hostPut c.fn ps false (bytesOfWords (cqeWords e (phaseOf c.prod c.logSize) s.ft))
          let s := (s.updCq i fun c => Cq.stall { c with
            prod := c.prod + 1, quals := c.quals ++ [e.qual], waiting := c.waiting.drop 1 } s.now).freeSq e.frees
          let s : State := if c.arm = .next || (c.arm = .solicited && e.qual) then s.cqNotify i else s
          s.reapAll
        | (s, _) => s.cqError i

/-- COMPLETION_WRITE (R38). -/
def execCompletionWrite (cq : Nat) (s : State) : Host.Outcome State Fault Refusal :=
  .next (s.asking (.cq cq) fun s => s.completionWrite cq)

/-- The stall limit of a CQ in ns (R39). -/
def State.stallLimit (s : State) (c : Cq) : Nat :=
  1000000 * (if c.stallMs = 0 then Nat.max 1 (s.rdF R.TEN_CQ_CTL F.TEN_CQ_CTL_STALL_DEFAULT) else c.stallMs)

/-- CQ_STALL_TIMEOUT (R39, R40): a CQ full for its stall limit with a completion waiting enters ERROR. -/
def execCqStallTimeout (cq : Nat) (s : State) : Host.Outcome State Fault Refusal :=
  match s.ten.cqs.get? cq with
  | some c =>
    match c.stallAt with
    | some t => if s.fatal then .next s else .next ((s.passTo (t + s.stallLimit c)).cqError cq)
    | none => .next s
  | none => .next s

/-! ### Drains (R47, R49) -/

/-- The last started job and message of a queue pair are complete (R47, R431). -/
def State.qpIdle (s : State) (q : Nat) (v : Qp) : Bool :=
  (v.jobs.all fun j => j.status.isSome) && !(s.mat.msgs.any fun m => m.dstQp == q && m.open_ && !m.rts)
    && !(s.mat.fetches.any fun f => f.2.localQp == q && !f.2.disc)

/-- A queue pair's drain is over (R49): INIT, or READY where an enable is held; QP_DRAINED. -/
def State.drained (s : State) (q : Nat) (v : Qp) (forced : Bool) : State :=
  (s.updQp q fun v => { v with st := if v.enable then .ready else .init, drainAt := none }).eqEvent v.eq
    (ev 4 (if forced then St.draining else 0) q (b2n forced) 0)

/-- QP_DRAIN_END (R47, R49). -/
def execQpDrainEnd (qp : Nat) (s : State) : Host.Outcome State Fault Refusal :=
  match s.ten.qps.get? qp with
  | some v => if v.st = .draining && s.qpIdle qp v && !s.fatal then .next (s.drained qp v false) else .next s
  | none => .next s

/-- QP_DRAIN_TIMEOUT (R49): 100 ms after its start a drain is forced; jobs still in flight complete DRAINING. -/
def execQpDrainTimeout (qp : Nat) (s : State) : Host.Outcome State Fault Refusal :=
  match s.ten.qps.get? qp with
  | some v =>
    match v.drainAt with
    | some t =>
      if v.st = .draining && !s.fatal then
        let s := ((s.passTo (t + 100000000)).answerTrap qp).dropTrap qp
        let s := v.jobs.foldl (fun s j => s.finish qp j.ring St.draining) s
        .next (s.drained qp v true)
      else .next s
    | none => .next s
  | none => .next s

/-- A CQ's drain is over (R49): DISABLED, or READY where an enable is held. -/
def State.cqDrained (s : State) (i : Nat) : State :=
  s.updCq i fun c => { c with st := if c.enable then .ready else .disabled, drainAt := none }

/-- CQ_DRAIN_END (R49): no completion write is in progress between steps, so a drain can end at once. -/
def execCqDrainEnd (cq : Nat) (s : State) : Host.Outcome State Fault Refusal :=
  match s.ten.cqs.get? cq with
  | some c => if c.st = .draining && !s.fatal then .next (s.cqDrained cq) else .next s
  | none => .next s

/-- CQ_DRAIN_TIMEOUT (R49): 100 ms after its start a drain is forced. -/
def execCqDrainTimeout (cq : Nat) (s : State) : Host.Outcome State Fault Refusal :=
  match s.ten.cqs.get? cq with
  | some c =>
    match c.drainAt with
    | some t => if c.st = .draining && !s.fatal then .next ((s.passTo (t + 100000000)).cqDrained cq) else .next s
    | none => .next s
  | none => .next s

/-- QP_QUARANTINE_END (R50, R73): the identifier is free; its generation is kept. -/
def execQpQuarantineEnd (qp : Nat) (s : State) : Host.Outcome State Fault Refusal :=
  match s.ten.qps.get? qp with
  | some v =>
    if v.st = .quarantine && !s.quarHeld v.fn v.quarAt then
      let t := (s.passTo (s.quarEnd v.quarAt)).giveUpResps fun _ r => r.sp == .conn qp
      .next { t with
        ten.qps := t.ten.qps.erase qp,
        mat.fetches := t.mat.fetches.filter fun f => f.2.localQp != qp }
    else .next s
  | none => .next s

end Sys2Proof.Machine
end

