-- ==== Sys2Proof/Machine/Admin.lean ====
section
/-! DEFINITION. Admin queues and the queue commands of Table 2.8 (02_queues R44 to R50; 01_architecture R14). -/

namespace Sys2Proof.Machine

open Sys2Proof

/-! ### Admin queues (R44, 12_host R281) -/

/-- A write of an admin queue's register: BASE and LOG_SIZE only while ENABLE is 0; ENABLE as `start` and `stop` say; an
enable given during a reset drain is held. -/
def State.adminWrite (s : State) (fn off : Nat) (enable base log : Fld) (val : Word) (start : State → State)
    (hold : Bool → State → State) : State :=
  let was := s.rdF off enable
  let now := getF val enable
  let s : State := if was = 0 then s.wrFs off [(base, getF val base), (log, getF val log)] else s
  let s := s.wrF off enable now
  if (s.fn fn).drain.isSome then hold (now == 1) s
  else if was = 0 && now = 1 then start s
  else s

/-- ADMIN_SQ_ENABLE (R44, R281). -/
def execAdminSqEnable (rid fn : Nat) (val : Word) (s : State) : Host.Outcome State Fault Refusal :=
  .next (if !fnOk fn then s else s.viaReg rid (R.TEN_ADMIN_SQ fn) fun s =>
    s.adminWrite fn (R.TEN_ADMIN_SQ fn) F.TEN_ADMIN_SQ_ENABLE F.TEN_ADMIN_SQ_BASE F.TEN_ADMIN_SQ_LOG_SIZE val
      (fun s => s.setFn fn { s.fn fn with asqProd := 0, asqCons := 0 }) (fun h s => s.setFn fn { s.fn fn with asqHeld := h }))

/-- ADMIN_CQ_ENABLE (R44, R281). -/
def execAdminCqEnable (rid fn : Nat) (val : Word) (s : State) : Host.Outcome State Fault Refusal :=
  .next (if !fnOk fn then s else s.viaReg rid (R.TEN_ADMIN_CQ fn) fun s =>
    s.adminWrite fn (R.TEN_ADMIN_CQ fn) F.TEN_ADMIN_CQ_ENABLE F.TEN_ADMIN_CQ_BASE F.TEN_ADMIN_CQ_LOG_SIZE val
      (fun s => s.setFn fn { s.fn fn with acqProd := 0, acqCons := 0 }) (fun h s => s.setFn fn { s.fn fn with acqHeld := h }))

/-- A command completion (Table 2.6, KIND 3). -/
def cmdCqe (r : CmdRef) (status : Nat) (result : Word) : Cqe :=
  { cookie := r.cookie, bytes := 0, status := status, qp := 0, kind := 3, info := r.index, batch := false, implicit := false,
    solicited := false, srcValid := false, w3 := result, frees := none }

/-- ADMIN_COMPLETION_WRITE (R44): the oldest waiting command completion is written at its bus address, and vector 0 raised. -/
def execAdminCompletionWrite (fn : Nat) (s : State) : Host.Outcome State Fault Refusal :=
  let f := s.fn fn
  let w := s.rd (R.TEN_ADMIN_CQ fn)
  let log := adminLog 4 (getF w F.TEN_ADMIN_CQ_LOG_SIZE)
  match f.acqWait with
  | [] => .next s
  | (r, st, res) :: rest =>
    if !s.fnReady fn || getF w F.TEN_ADMIN_CQ_ENABLE = 0 || 2 ^ log ≤ (f.acqProd - f.acqCons).toNat then .next s
    else
      let bus := getF w F.TEN_ADMIN_CQ_BASE * 4096 + 32 * slotOf f.acqProd log
      let s := s.emit (.hostWrite fn bus false false (bytesOfWords (cqeWords (cmdCqe r st res) (phaseOf f.acqProd log) s.ft)))
      .next ((s.setFn fn { s.fn fn with acqProd := f.acqProd + 1, acqWait := rest }).msix fn 0)

/-! ### Look-ups of the objects that commands name (R45, R50) -/

/-- The command goes on if every condition holds, in order; the first that fails completes it. -/
def State.checks (s : State) (r : CmdRef) : List (Bool × Nat) → (State → State) → State
  | [], body => body s
  | (ok, st) :: cs, body => if ok then s.checks r cs body else s.adminDone r st 0

/-- A queue pair that a command names: in quarantine QUARANTINED, not there MALFORMED, another function's ACCESS. -/
def State.withQp (s : State) (r : CmdRef) (i : Nat) (body : State → Qp → State) : State :=
  match s.ten.qps.get? i with
  | none => s.adminDone r St.malformed 0
  | some v =>
    if v.st = .quarantine then s.adminDone r St.quarantined 0
    else if v.fn != r.fn then s.adminDone r St.access 0
    else body s v

/-- A command on a queue pair is still being carried out (R45): a DESTROY_QP whose flush runs, or a RESUME whose re-walk does. -/
def State.qpBusy (s : State) (q : Nat) : Bool :=
  (match s.ten.qps.get? q with
    | some v => v.destroy.isSome
    | none => false) || s.xlt.traps.any fun t => t.2.qp == q && !t.2.resume.isEmpty

/-- A CQ that a command names. -/
def State.withCq (s : State) (r : CmdRef) (i : Nat) (body : State → Cq → State) : State :=
  match s.ten.cqs.get? i with
  | none => s.adminDone r St.malformed 0
  | some v => if v.fn != r.fn then s.adminDone r St.access 0 else body s v

/-- An EQ that a command names. -/
def State.withEq (s : State) (r : CmdRef) (i : Nat) (body : State → Eq → State) : State :=
  match s.ten.eqs.get? i with
  | none => s.adminDone r St.malformed 0
  | some v => if v.fn != r.fn then s.adminDone r St.access 0 else body s v


/-- The doorbell slots of a function (12_host R276). -/
def slotMax (f : Nat) : Nat := if isPf f then 2 ^ 21 else 32768

/-- A free doorbell slot of a function: the lowest from 2 upward (DESIGN CHOICE, log 25). -/
def State.freeDb (s : State) (f : Nat) : Option Nat :=
  let i := firstFree 2 (s.fn f).slots.keys
  if i < slotMax f then some i else none

/-- A slot assigned. -/
def State.setSlot (s : State) (f slot : Nat) (o : SlotObj) : State :=
  let v := s.fn f
  s.setFn f { v with slots := v.slots.set slot o }

/-- A ring's base: a 4 KiB-aligned program address below 2^48, or a device-resident ring inside one of the function's
allocations (R23, R24). -/
def State.ringBaseOk (s : State) (f : Nat) (base : Word) (dev : Bool) (bytes : Nat) : Bool :=
  if dev then s.hbmOwned f (base.toNat * 4096) bytes
  else bitsOf base 0 12 == 0 && bitsOf base 48 16 == 0

/-! ### Queue pairs -/

/-- The lowest free queue-pair index whose slice is not OFF (DESIGN CHOICE, log 25). -/
def State.pickQp (s : State) : Option Nat :=
  let keys := s.ten.qps.keys
  let cand := (List.range 4).filterMap fun c =>
    if s.domState (69 + c) = 0 then none
    else
      let i := firstFree 0 ((keys.filter fun k => k % 4 == c).map fun k => k / 4)
      if i < 2 ^ 19 then some (4 * i + c) else none
  cand.foldl (fun a i => match a with
    | some b => some (Nat.min b i)
    | none => some i) none

/-- A new queue pair in RESET. -/
def qpNew (c : AdminCmd) (gen slot : Nat) : Qp :=
  let w := c.e.w2
  let x := c.e.w3
  { fn := c.fn, node := bitAt w 0, spray := bitAt w 1, mtu := mtuOf (bitsOf w 2 2), sqDev := bitAt w 4,
    rqDev := bitAt w 5 && !bitAt w 6, noRq := bitAt w 6, sqLog := bitsOf w 8 5, rqLog := if bitAt w 6 then 4 else bitsOf w 13 5,
    sendCq := bitsOf w 18 20, recvCq := if bitAt w 6 then 0 else bitsOf w 38 20, eq := bitsOf x 0 12,
    pkey := BitVec.ofNat 16 (bitsOf x 12 16), asid := bitsOf x 28 20, sqBase := c.e.w4.toNat,
    rqBase := if bitAt w 6 then 0 else c.e.w5.toNat, gen := gen, slot := slot, st := .reset, enable := false, cause := 0,
    everReady := false, remote := { node := 0, qp := 0, gen := 0 }, sp := spaceInit, flow := flowInit, gate := gateInit,
    sqProd := 0, sqCons := 0, sqNext := 0, rqProd := 0, rqCons := 0, jobs := [], uncov := 0, lastJob := none, drainAt := none,
    quarAt := 0, destroy := none, rqHeld := 0, rqBuf := [], ghosts := [], flushCause := none }

/-- CREATE_QP (R45, R47, R50). -/
def execCreateQp (c : AdminCmd) (s : State) : Host.Outcome State Fault Refusal :=
  let w := c.e.w2
  let x := c.e.w3
  let fixed := bitAt x 63
  let idx := if fixed then some (bitsOf c.e.w6 0 21) else s.pickQp
  let used := [(2, ones 0 7 + ones 8 50), (3, ones 0 48 + ones 63 1), (4, ones 0 64), (5, ones 0 64), (6, ones 0 21), (7, 0)]
  .next (s.ringOrder c 0x01 (fixed && s.qpBusy (bitsOf c.e.w6 0 21)) <| s.adminAt c 0x01 used (tenDom (idx.getD 0)) fun s r =>
    match idx with
    | none => s.adminDone r St.access 0
    | some i =>
      let noRq := bitAt w 6
      let sqLog := bitsOf w 8 5
      let rqLog := bitsOf w 13 5
      let old := s.ten.qps.get? i
      s.checks r [
        (match old with | some v => v.st != .quarantine | none => true, St.quarantined),
        (old.isNone, St.malformed),
        (decide (7 ≤ sqLog) && decide (sqLog ≤ 16), St.malformed),
        (noRq || (decide (4 ≤ rqLog) && decide (rqLog ≤ 16)), St.malformed),
        (s.granted c.fn (bitsOf x 28 20), St.malformed)] fun s =>
      s.withCq r (bitsOf w 18 20) fun s _ =>
      (if noRq then fun (k : State → State) => k s else fun k => s.withCq r (bitsOf w 38 20) fun s _ => k s) fun s =>
      s.withEq r (bitsOf x 0 12) fun s _ =>
      s.checks r [
        (s.ringBaseOk c.fn c.e.w4 (bitAt w 4) (64 * ringSize sqLog), St.malformed),
        (noRq || s.ringBaseOk c.fn c.e.w5 (bitAt w 5) (64 * ringSize rqLog), St.malformed),
        ((s.freeDb c.fn).isSome && s.quotaOk c.fn .qp 1, St.access)] fun s =>
        let slot := (s.freeDb c.fn).getD 0
        let gen := ((s.ten.gens.get? i).getD 0 + 1) % 8
        let s := { s with ten.qps := s.ten.qps.set i (qpNew c gen slot), ten.gens := s.ten.gens.set i gen }
        (s.setSlot c.fn slot (.qp i)).adminDone r St.ok (w64 (i + gen * 2 ^ 21 + slot * 2 ^ 32)))

/-- STATE and ENABLE of a queue pair, as results give them. -/
def qpResult (v : Qp) : Nat := v.st.code + b2n v.enable * 8

/-- The jobs kept aside of a queue pair that starts anew are numbered away from the jobs of its next life (log 24). -/
def State.parkGhosts (s : State) (q : Nat) : State :=
  let far := fun (o : Owner) => match o with
    | .job k r => if k = q then .job k (r + 0x80000000) else o
    | _ => o
  let move := fun (p : Space) => { p with sent := p.sent.map fun t => { t with owner := far t.owner } }
  let s := s.updQp q fun v => { v with
    sp := move v.sp, ghosts := v.ghosts.map fun j => { j with ring := j.ring + 0x80000000, rd := none } }
  { s with tra.nodes := s.tra.nodes.map fun n => (n.1, { n.2 with sp := move n.2.sp }) }

/-- The change of state that MODIFY_QP names, if Table 2.10 and R49 have it. -/
def State.qpChange (s : State) (q : Nat) (v : Qp) (target : Nat) (c : AdminCmd) : Option State :=
  match v.st, target with
  | .reset, 1 =>
    some (s.updQp q fun v => { v with
      st := .init, enable := false, sqProd := 0, sqCons := 0, sqNext := 0, rqProd := 0, rqCons := 0, jobs := [], rqBuf := [],
      uncov := 0, lastJob := none, flushCause := none, cause := 0, flow := flowInit,
      gate := if v.node then v.gate else gateInit })
  | .init, 2 =>
    if v.node then some (s.updQp q fun v => { v with st := .ready, enable := true, everReady := true })
    else
      let sp := { spaceInit with
        sendNext := BitVec.ofNat 24 (bitsOf c.e.w4 0 24), sendUna := BitVec.ofNat 24 (bitsOf c.e.w4 0 24),
        recvE := BitVec.ofNat 24 (bitsOf c.e.w4 24 24) }
      some ((s.updQp q fun v => { v with
        st := .ready, enable := true, everReady := true, sp := sp, ghosts := [],
        remote := { node := bitsOf c.e.w3 0 18, qp := bitsOf c.e.w3 18 21, gen := bitsOf c.e.w3 39 3 } }).giveUpResps
          fun _ r => r.sp == .conn q)
  | .ready, 3 => some (s.updQp q fun v => { v with st := .draining, enable := false, drainAt := some s.now })
  | .draining, 2 => some (s.updQp q fun v => { v with enable := true })
  | .draining, 1 => some (s.updQp q fun v => { v with enable := false })
  | .draining, 3 => some (s.updQp q fun v => { v with enable := false })
  | .init, 4 => some (s.qpFail q St.flushed none none)
  | .ready, 4 => some (s.qpFail q St.flushed none none)
  | .draining, 4 => some (s.qpFail q St.flushed none none)
  | .error, 0 =>
    if s.flushed q v && v.destroy.isNone then
      some (((s.forget (Asker.ofQp q)).parkGhosts q).updQp q fun v => { v with st := .reset, enable := false })
    else none
  | _, _ => none

/-- MODIFY_QP (R47, R49). -/
def execModifyQp (c : AdminCmd) (s : State) : Host.Outcome State Fault Refusal :=
  let q := bitsOf c.e.w2 0 21
  .next (s.ringOrder c 0x02 (s.qpBusy q) <| s.adminAt c 0x02 [(2, ones 0 21 + ones 32 3), (3, ones 0 42), (4, ones 0 48), (5, 0), (6, 0), (7, 0)] (tenDom q) fun s r =>
    s.withQp r q fun s v =>
      match s.qpChange q v (bitsOf c.e.w2 32 3) c with
      | none => s.adminDone r St.malformed 0
      | some s => s.adminDone r St.ok (match s.ten.qps.get? q with
        | some v => w64 (qpResult v)
        | none => 0))

/-- QUERY_QP (Table 2.8). -/
def execQueryQp (c : AdminCmd) (s : State) : Host.Outcome State Fault Refusal :=
  let q := bitsOf c.e.w2 0 21
  .next (s.ringOrder c 0x03 (s.qpBusy q) <| s.adminAt c 0x03 [(2, ones 0 21), (3, 0), (4, 0), (5, 0), (6, 0), (7, 0)] (tenDom q) fun s r =>
    s.withQp r q fun s v =>
      s.adminDone r St.ok (w64 (qpResult v + v.cause % 256 * 2 ^ 4 + slotOf v.sqNext v.sqLog * 2 ^ 16
        + slotOf v.rqCons v.rqLog * 2 ^ 32)))

/-- A queue pair is destroyed (R47, R48, R50): its groups fail DESTROYED; from INIT, READY and DRAINING the flush runs first;
once it has ended the queue pair is in QUARANTINE and the command, if any, completes. -/
def State.qpDestroy (s : State) (q : Nat) (v : Qp) (r : Option CmdRef) : State :=
  let s := s.grps.foldl (fun s g => if g.2.bindQp == q && g.2.live && 0 < g.2.localN then
    s.groupMark g.1 (s.localCause 6 St.remoteOp) else s) s
  if v.st = .reset then
    let s := s.qpQuarantine q
    match r with
    | some r => s.adminDone r St.ok 0
    | none => s
  else
    let s := s.qpFail q St.flushed none none
    (s.updQp q fun v => { v with destroy := r }).qpReap q

/-- DESTROY_QP (R50). -/
def execDestroyQp (c : AdminCmd) (s : State) : Host.Outcome State Fault Refusal :=
  let q := bitsOf c.e.w2 0 21
  .next (s.ringOrder c 0x04 (s.qpBusy q) <| s.adminAt c 0x04 [(2, ones 0 21), (3, 0), (4, 0), (5, 0), (6, 0), (7, 0)] (tenDom q) fun s r =>
    s.withQp r q fun s v => if v.destroy.isSome then s.adminDone r St.malformed 0 else s.qpDestroy q v (some r))

/-! ### Completion queues -/

/-- CQ states as results give them. -/
def CqState.code : CqState → Nat
  | .disabled => 0
  | .ready => 1
  | .draining => 2
  | .error => 3

/-- STATE and ENABLE of a CQ. -/
def cqResult (c : Cq) : Nat := c.st.code + b2n c.enable * 8

/-- CREATE_CQ (Table 2.8, R22, R23). -/
def execCreateCq (c : AdminCmd) (s : State) : Host.Outcome State Fault Refusal :=
  let w := c.e.w2
  let log := bitsOf w 0 5
  .next (s.admin c 0x10 [(2, ones 0 53), (3, ones 0 64), (4, 0), (5, 0), (6, 0), (7, 0)] fun s r =>
    s.checks r [
      (decide (4 ≤ log) && decide (log ≤ 22), St.malformed),
      (s.granted c.fn (bitsOf w 17 20), St.malformed),
      (s.ringBaseOk c.fn c.e.w3 false 0, St.malformed)] fun s =>
    s.withEq r (bitsOf w 5 12) fun s _ =>
      let i := firstFree 0 s.ten.cqs.keys
      s.checks r [(decide (i < 2 ^ 20), St.access), ((s.freeDb c.fn).isSome && s.quotaOk c.fn .cq 1, St.access)] fun s =>
        let slot := (s.freeDb c.fn).getD 0
        let q : Cq := { fn := c.fn, logSize := log, eq := bitsOf w 5 12, asid := bitsOf w 17 20, base := c.e.w3.toNat,
                        stallMs := bitsOf w 37 16, slot := slot, st := .ready, enable := true, prod := 0, cons := 0,
                        arm := .none, quals := [], waiting := [], stallAt := none, drainAt := none }
        let s := { s with ten.cqs := s.ten.cqs.set i q }
        (s.setSlot c.fn slot (.cq i)).adminDone r St.ok (w64 (i + slot * 2 ^ 32)))

/-- MODIFY_CQ (R49): ENABLE = 0 drains a READY CQ, or clears a held enable; ENABLE = 1 makes a DISABLED or failed CQ READY, or is
held during a drain. A value that changes nothing completes OK. -/
def execModifyCq (c : AdminCmd) (s : State) : Host.Outcome State Fault Refusal :=
  let i := bitsOf c.e.w2 0 20
  let on := bitAt c.e.w2 32
  .next (s.admin c 0x11 [(2, ones 0 20 + ones 32 1), (3, 0), (4, 0), (5, 0), (6, 0), (7, 0)] fun s r =>
    s.withCq r i fun s q =>
      let q := match q.st, on with
        | .ready, false => { q with st := .draining, enable := false, drainAt := some s.now }
        | .draining, e => { q with enable := e }
        | .disabled, true => { q with st := .ready, enable := true }
        | .error, true => { q with
          st := .ready, enable := true, prod := 0, cons := 0, quals := [], arm := .none, stallAt := none }
        | _, _ => q
      { s with ten.cqs := s.ten.cqs.set i q }.adminDone r St.ok (w64 (cqResult q)))

/-- QUERY_CQ (Table 2.8). -/
def execQueryCq (c : AdminCmd) (s : State) : Host.Outcome State Fault Refusal :=
  let i := bitsOf c.e.w2 0 20
  .next (s.admin c 0x12 [(2, ones 0 20), (3, 0), (4, 0), (5, 0), (6, 0), (7, 0)] fun s r =>
    s.withCq r i fun s q => s.adminDone r St.ok (w64 (cqResult q + q.prod.toNat * 2 ^ 4)))

/-- A queue pair is bound to a CQ (R21); one in QUARANTINE is bound to nothing. -/
def Qp.onCq (v : Qp) (i : Nat) : Bool := v.st != .quarantine && (v.sendCq == i || (!v.noRq && v.recvCq == i))

/-- A CQ is gone with what waits to be written to it: its slot is free. -/
def State.cqDrop (s : State) (i : Nat) (q : Cq) : State :=
  ({ s with ten.cqs := s.ten.cqs.erase i }.forget fun a => a == Asker.cq i).freeSlot q.fn q.slot

/-- DESTROY_CQ (Table 2.8). -/
def execDestroyCq (c : AdminCmd) (s : State) : Host.Outcome State Fault Refusal :=
  let i := bitsOf c.e.w2 0 20
  .next (s.admin c 0x13 [(2, ones 0 20), (3, 0), (4, 0), (5, 0), (6, 0), (7, 0)] fun s r =>
    s.withCq r i fun s q =>
      if s.ten.qps.any fun p => p.2.onCq i then s.adminDone r St.malformed 0 else (s.cqDrop i q).adminDone r St.ok 0)

/-! ### Event queues -/

/-- CREATE_EQ (Table 2.8, R22, R23). -/
def execCreateEq (c : AdminCmd) (s : State) : Host.Outcome State Fault Refusal :=
  let w := c.e.w2
  let log := bitsOf w 0 5
  .next (s.admin c 0x18 [(2, ones 0 36), (3, ones 0 64), (4, 0), (5, 0), (6, 0), (7, 0)] fun s r =>
    s.checks r [
      (decide (6 ≤ log) && decide (log ≤ 16), St.malformed),
      (s.granted c.fn (bitsOf w 16 20), St.malformed),
      (s.ringBaseOk c.fn c.e.w3 false 0, St.malformed),
      (decide (firstFree 0 s.ten.eqs.keys < 4096), St.access),
      ((s.freeDb c.fn).isSome && s.quotaOk c.fn .eq 1, St.access)] fun s =>
        let i := firstFree 0 s.ten.eqs.keys
        let slot := (s.freeDb c.fn).getD 0
        let q : Eq := { fn := c.fn, logSize := log, vector := bitsOf w 5 11, asid := bitsOf w 16 20, base := c.e.w3.toNat,
                        slot := slot, prod := 0, cons := 0, armed := false, raised := none, lost := 0,
                        waiting := [] }
        let s := { s with ten.eqs := s.ten.eqs.set i q }
        (s.setSlot c.fn slot (.eq i)).adminDone r St.ok (w64 (i + slot * 2 ^ 32)))

/-- An EQ is gone: its slot is free. -/
def State.eqDrop (s : State) (i : Nat) (q : Eq) : State :=
  ({ s with ten.eqs := s.ten.eqs.erase i }.forget fun a => a == Asker.eq i).freeSlot q.fn q.slot

/-- DESTROY_EQ (Table 2.8). -/
def execDestroyEq (c : AdminCmd) (s : State) : Host.Outcome State Fault Refusal :=
  let i := bitsOf c.e.w2 0 12
  .next (s.admin c 0x19 [(2, ones 0 12), (3, 0), (4, 0), (5, 0), (6, 0), (7, 0)] fun s r =>
    s.withEq r i fun s q =>
      if (s.ten.qps.any fun p => p.2.st != .quarantine && p.2.eq == i) || (s.ten.cqs.any fun p => p.2.eq == i) then
        s.adminDone r St.malformed 0
      else (s.eqDrop i q).adminDone r St.ok 0)

/-! ### HBM allocations (R14, R24, R276) -/

/-- The lowest start of `n` free units in `lo` to `hi` beside the used runs (DESIGN CHOICE, log 25). -/
def findRoom (lo hi n : Nat) (used : List (Nat × Nat)) : Option Nat :=
  let fits := fun (c : Nat) => decide (lo ≤ c) && decide (c + n ≤ hi) && used.all fun u => decide (c + n ≤ u.1) || decide (u.1 + u.2 ≤ c)
  ((lo :: used.map fun u => u.1 + u.2).filter fits).foldl (fun a c => match a with
    | some b => some (Nat.min b c)
    | none => some c) none

/-- The ring aperture of a function in 4 KiB units: from 0x1000 to the end of its BAR2 (Table 12.2). -/
def aperEnd (f : Nat) : Nat := if isPf f then 2 ^ 22 else 2 ^ 16

/-- ALLOC_HBM (R14, R24, R276). -/
def execAllocHbm (c : AdminCmd) (s : State) : Host.Outcome State Fault Refusal :=
  let size := bitsOf c.e.w2 0 32
  let ring := bitAt c.e.w2 32
  .next (s.admin c 0x20 [(2, ones 0 33), (3, 0), (4, 0), (5, 0), (6, 0), (7, 0)] fun s r =>
    let n := size / 4096
    let lo := ringBase / 4096
    let off := findRoom lo (lo + s.boot.ringUnits * 2 ^ 17) n (s.ten.allocs.map fun a => (a.off, a.size))
    let aper := if ring then findRoom 0x1000 (aperEnd c.fn) n
        ((s.ten.allocs.filter fun a => a.fn == c.fn && a.aper != 0).map fun a => (a.aper, a.size)) else some 0
    s.checks r [
      (size % 4096 == 0 && size != 0, St.malformed),
      (off.isSome && aper.isSome && s.quotaOk c.fn .hbm n, St.access)] fun s =>
      let a : Alloc := { fn := c.fn, off := off.getD 0, size := n, aper := aper.getD 0 }
      { s with ten.allocs := a :: s.ten.allocs }.adminDone r St.ok (w64 (a.off + a.aper * 2 ^ 24)))

/-- A ring lies in an allocation. -/
def ringIn (a : Alloc) (base bytes : Nat) : Bool :=
  decide (a.off * 4096 ≤ base * 4096) && decide (base * 4096 + bytes ≤ (a.off + a.size) * 4096)

/-- FREE_HBM (R24; 05_remote R109). -/
def execFreeHbm (c : AdminCmd) (s : State) : Host.Outcome State Fault Refusal :=
  let off := bitsOf c.e.w2 0 24
  .next (s.admin c 0x21 [(2, ones 0 24), (3, 0), (4, 0), (5, 0), (6, 0), (7, 0)] fun s r =>
    match s.ten.allocs.find? fun a => a.off == off with
    | none => s.adminDone r St.malformed 0
    | some a =>
      let rings := s.ten.qps.any fun p => p.2.st != .quarantine &&
        ((p.2.sqDev && ringIn a p.2.sqBase (64 * ringSize p.2.sqLog)) || (p.2.rqDev && ringIn a p.2.rqBase (64 * ringSize p.2.rqLog)))
      let wins := s.wins.any fun w => w.2.hbm && (w.2.st == .open_ || w.2.st == .revoking)
        && decide (a.off * 4096 ≤ w.2.base) && decide (w.2.base < (a.off + a.size) * 4096)
      if a.fn != c.fn then s.adminDone r St.access 0
      else if rings || wins then s.adminDone r St.malformed 0
      else { s with ten.allocs := s.ten.allocs.filter fun b => b.off != off }.adminDone r St.ok 0)

end Sys2Proof.Machine
end

