-- ==== Sys2Proof/Machine/Counters.lean ====
section
/-! DEFINITION. The counter unit (19_performance_counters): snapshots, bandwidth windows, counter values. -/

namespace Sys2Proof.Machine

open Sys2Proof

/-- The captures of a snapshot (R403 step 2): every counter into its shadow; a counter whose domain is off
captures 0. -/
def State.snapCapture (s : State) : State :=
  let s := (List.range 512).foldl (fun t n => t.wr (R.CNT_SHD n) (s.rd (R.CNT_VAL n))) s
  (List.range 67).foldl (fun t p => (List.range 8).foldl (fun t k =>
    t.wr (R.CNT_PORT_SHD p k) (if s.domRuns (portDom p) then s.rd (R.CNT_PORT p k) else 0)) t) s

/-- A snapshot starts, or is rejected while one is in progress (R403). -/
def State.snapStart (s : State) : State :=
  if s.rdF R.CNT_CTL F.CNT_CTL_BUSY = 1 then s.wrF R.CNT_CTL F.CNT_CTL_REJECT 1
  else ((s.wrF R.CNT_CTL F.CNT_CTL_BUSY 1).wr R.CNT_SNAP_TIME s.ftWord).snapCapture

/-- Every fixed counter and its OVF become 0 (R402). -/
def State.clearPorts (s : State) : State :=
  (List.range 67).foldl (fun t p => (List.range 8).foldl (fun t k => t.wr (R.CNT_PORT p k) 0) t) s

/-- A write to CNT_CTL: REJECT clears where the write has a 1, CLR_PORTS clears, SNAP starts (R402, R403). -/
def State.cntCtl (s : State) (val : Word) : State :=
  let s : State := if getF val F.CNT_CTL_REJECT = 1 then s.wrF R.CNT_CTL F.CNT_CTL_REJECT 0 else s
  let s : State := if getF val F.CNT_CTL_CLR_PORTS = 1 then s.clearPorts else s
  if getF val F.CNT_CTL_SNAP = 1 then s.snapStart else s

/-- SNAP (R403): a write of SNAP = 1 to CNT_CTL. -/
def execSnap (rid : Nat) (val : Word) (s : State) : Host.Outcome State Fault Refusal :=
  .next (s.viaReg rid R.CNT_CTL fun s => s.cntCtl (putF val F.CNT_CTL_SNAP 1))

/-- SNAP_AT_ARRIVAL (R403): fabric time reaches AT while ARM is 1; ARM clears and the snapshot starts. -/
def execSnapAtArrival (s : State) : Host.Outcome State Fault Refusal :=
  if s.rdF R.CNT_SNAP_AT F.CNT_SNAP_AT_ARM = 1 then
    let at_ := s.rdF R.CNT_SNAP_AT F.CNT_SNAP_AT_AT
    let s : State := if s.ft < at_ then s.passTo (s.now + (at_ - s.ft)) else s
    .next ((s.wrF R.CNT_SNAP_AT F.CNT_SNAP_AT_ARM 0).snapStart)
  else .next s

/-- SNAP_COMPLETE (R403 step 3): SEQ advances and BUSY clears. -/
def execSnapComplete (s : State) : Host.Outcome State Fault Refusal :=
  if s.rdF R.CNT_CTL F.CNT_CTL_BUSY = 1 then
    .next (s.wrFs R.CNT_CTL [(F.CNT_CTL_BUSY, 0), (F.CNT_CTL_SEQ, s.rdF R.CNT_CTL F.CNT_CTL_SEQ + 1)])
  else .next s

/-- CLR_PORTS (R402): a write of CLR_PORTS = 1 to CNT_CTL. -/
def execClrPorts (rid : Nat) (val : Word) (s : State) : Host.Outcome State Fault Refusal :=
  .next (s.viaReg rid R.CNT_CTL fun s => s.cntCtl (putF val F.CNT_CTL_CLR_PORTS 1))

/-- The window length in µs (CNT_BW_CTL.WINDOW, brought to its range). -/
def State.bwWindow (s : State) : Nat := clamp 1 1000000 (s.rdF R.CNT_BW_CTL F.CNT_BW_CTL_WINDOW)

/-- The next window end after now: fabric time in µs a multiple of WINDOW (R404). -/
def State.bwEnd (s : State) : Nat := (s.ft / (1000 * s.bwWindow) + 1) * (1000 * s.bwWindow)

/-- A port's stored totals at a window end: 0 while its domain is off (R404). -/
def bwStore (s : State) (p : Nat) (x : PortX) : State :=
  s.wrFs (R.CNT_BW p) [(F.CNT_BW_RX, if s.domRuns (portDom p) then x.winRx else 0),
    (F.CNT_BW_TX, if s.domRuns (portDom p) then x.winTx else 0)]

/-- BW_WINDOW_END (R404): time reaches the window's end, every port stores its totals, and WSEQ advances. SHORT
reads 1 from the end of a window cut short until the next full window is stored. -/
def execBwWindowEnd (s : State) : Host.Outcome State Fault Refusal :=
  let s := s.passTo (s.now + (s.bwEnd - s.ft))
  let s := (List.range 67).foldl (fun t p =>
    match t.lnk.exch.get? p with
    | some x => { bwStore t p x with lnk.exch := t.lnk.exch.set p { x with winTx := 0, winRx := 0 } }
    | none => t.wr (R.CNT_BW p) 0) s
  .next { (s.wrFs R.CNT_BW_CTL [(F.CNT_BW_CTL_WSEQ, s.rdF R.CNT_BW_CTL F.CNT_BW_CTL_WSEQ + 1),
    (F.CNT_BW_CTL_SHORT, b2n s.cnt.cut)]) with cnt.cut := false }

/-- BW_WINDOW_WRITE (R404): a new WINDOW takes effect at once and cuts the window in progress. -/
def execBwWindowWrite (rid : Nat) (val : Word) (s : State) : Host.Outcome State Fault Refusal :=
  .next (s.viaReg rid R.CNT_BW_CTL fun s =>
    { s.wrF R.CNT_BW_CTL F.CNT_BW_CTL_WINDOW (getF val F.CNT_BW_CTL_WINDOW) with cnt.cut := true })

/-- COUNTER_VALUE_WRITE (R400): VALUE is replaced; OVF clears where the write has a 1. -/
def execCounterValueWrite (rid n : Nat) (val : Word) (s : State) : Host.Outcome State Fault Refusal :=
  if n ≥ 512 then .next s
  else .next (s.viaReg rid (R.CNT_VAL n) fun s =>
    let s := s.wrF (R.CNT_VAL n) F.CNT_VAL_VALUE (getF val F.CNT_VAL_VALUE)
    if getF val F.CNT_VAL_OVF = 1 then s.wrF (R.CNT_VAL n) F.CNT_VAL_OVF 0 else s)

end Sys2Proof.Machine
end

