-- ==== Sys2Proof/Machine/LinkOps.lean ====
section
/-! DEFINITION. The link layer's shared operations (10_link, 11_lanes): lane sets, control flits, change requests,
lane blame, the loss of a link, and the entry into UP. -/

namespace Sys2Proof.Machine

open Sys2Proof

/-- The state with a port's link-layer state changed. -/
def State.updP (s : State) (p : Nat) (f : Port → Port) : State :=
  { s with lnk.ports := s.lnk.ports.set p (f (s.port p)) }

/-! ### Lane sets (R233) -/

/-- The legal lane sets, widest first, and among equals the lowest (Table 10.8). -/
def legalSets : List (BitVec 4) := [0xF, 0x3, 0xC, 0x1, 0x2, 0x4, 0x8]

/-- The widest legal set within a set of lanes (R233). -/
def widest (m : BitVec 4) : Option (BitVec 4) := legalSets.find? fun l => l &&& m == l


/-- LANES_ALLOWED of a port. -/
def State.allowed (s : State) (p : Nat) : BitVec 4 := laneSet (s.rdF (R.LNK_CTL p) F.LNK_CTL_LANES_ALLOWED)

/-- FAILED of a port. -/
def State.failed (s : State) (p : Nat) : BitVec 4 := laneSet (s.rdF (R.LNK_STATE p) F.LNK_STATE_FAILED)


/-- The lane that a self-test LANE slice holds at the port (R374). -/
def State.testLane (s : State) (p : Nat) : BitVec 4 :=
  match s.flt.slice with
  | some sl => if sl.kind = 4 && sl.unit_ / 4 = p then laneSet (2 ^ (sl.unit_ % 4)) else 0
  | none => 0

/-- The lanes a port may train on: LANES_ALLOWED less the FAILED lanes and the lane that self-test holds. -/
def State.usable (s : State) (p : Nat) : BitVec 4 := s.allowed p &&& ~~~ s.failed p &&& ~~~ s.testLane p

/-- The lanes or groups usable for INIT beside FAILED and LANES_ALLOWED: lanes whose last marker named them (R247), groups whose four
data lanes all locked (R261). -/
def State.ordered (s : State) (p : Nat) : BitVec 4 :=
  (List.range 4).foldl (fun m i =>
    let bad := if p < 64 then s.rdF (R.LAN_STAT (4 * p + i)) F.LAN_STAT_ORDER_ERR == 1
      else (s.px p).locked.toNat / 16 ^ i % 16 != 15
    if bad then m &&& ~~~ laneSet (2 ^ i) else m) 0xF

/-- The port trains or runs: INIT, UP or CHANGE. -/
def State.linked (s : State) (p : Nat) : Bool := 2 ≤ s.portState p && s.portState p ≤ 4

/-- A data path that may carry packets: UP or CHANGE. -/
def State.carrying (s : State) (p : Nat) : Bool := s.portState p == 3 || s.portState p == 4

/-! ### Control flits (Table 10.3) -/

/-- A control flit of eight words. -/
def ctrlFlit (w0 : Nat) (ws : List Word) : Words8 := words8 (w64 w0 :: ws)

/-- A control flit queued behind those that wait. -/
def State.ctrl (s : State) (p : Nat) (f : Words8) : State := s.updP p fun q => { q with ctrl := q.ctrl ++ [f] }

/-! ### Queues and credit (R197, R225, R228) -/

/-- CREDIT_TO in ns. -/
def State.creditTo (s : State) : Nat := 100000 * s.tmr R.LNK_TMR_A F.LNK_TMR_A_CREDIT_TO 1 650

/-- The wait of a lane's head packet for credit (R228): it starts when the head finds too little, runs on while the same head waits,
and starts anew after an increase of the credit or with another head (`anew`). -/
def State.stallSet (s : State) (p v : Nat) (anew : Bool) : State :=
  let q := s.port p
  let short := match s.laneQ p v with
    | b :: _ => decide ((q.credit.get? v).getD 0 < grainsOf b.pkt)
    | [] => false
  if !s.carrying p then s
  else if !short then s.updP p fun q => { q with stall := q.stall.erase v }
  else if anew || (q.stall.get? v).isNone then
    let due := s.now + s.creditTo
    s.updP p fun q => { q with stall := q.stall.set v due }
  else s

/-- A lane's credit grows by `d` grains (R226). -/
def State.creditAdd (s : State) (p v d : Nat) : State :=
  if d = 0 then s
  else (s.updP p fun q => { q with
    seen := q.seen.set v ((q.seen.get? v).getD 0 + BitVec.ofNat 32 d),
    credit := q.credit.set v ((q.credit.get? v).getD 0 + d) }).stallSet p v true

/-- A control flit queued ahead of the others: PROBE_ECHO (R219). -/
def State.ctrlFirst (s : State) (p : Nat) (f : Words8) : State := s.updP p fun q => { q with ctrl := f :: q.ctrl }

/-- The INIT flit of a port. -/
def State.initFlit (s : State) (p : Nat) : Words8 :=
  ctrlFlit (2 + p * 2 ^ 16 + s.node * 2 ^ 23 + (s.usable p &&& s.ordered p).toNat * 2 ^ 41) [s.devId]

/-- A TIME flit (R237): ECHO_TX and ECHO_RX of the peer's last one. T_TX is written as the block goes out. -/
def State.timeFlit (s : State) (p : Nat) : Words8 :=
  let lt := (s.px p).lastTime.getD (0, 0)
  ctrlFlit (8 + s.rdF R.LNK_TIME_STAT F.LNK_TIME_STAT_LOCKED * 256) [0, lt.1, lt.2]

/-- A CREDIT, PROBE or TIME flit that waits: its values are those of the moment at which it leaves (R226, R231, R237). -/
def blankFlit (ctype more : Nat) : Words8 := ctrlFlit (ctype + more * 256) []

/-- The CTYPE of a control flit. -/
def ctypeOf (f : Words8) : Nat := bitsOf f.w0 0 8

/-- A CREDIT flit of one half: the totals of sixteen lanes (R226). -/
def creditFlit (freed : Tbl Count32) (half : Nat) : Words8 :=
  let n := (List.range 16).foldl (fun a k => a + ((freed.get? (16 * half + k)).getD 0).toNat % 2 ^ 24 * 2 ^ (24 * k)) 0
  ctrlFlit (1 + half * 256) ((List.range 6).map fun i => w64 (n / 2 ^ (64 * i)))

/-! ### Change requests (R232) -/

/-- Who asks for a change, as the requester identity recorded: software, Fathom, self-test, or the link layer, which
carries the management core's identity 0x1000 of its firmware (DESIGN CHOICE, log 21). -/
def whoLink : Nat := 0x1000
def whoFathom : Nat := 0x3000
def whoTest : Nat := 0x4000

/-- A change is requested on a port (R232 step 1): it must be UP with no request of its own outstanding. -/
def State.reqChange (s : State) (p op : Nat) (lanes : BitVec 4) (who : Nat) (speed : Bool) : State :=
  if s.portState p = 3 && (s.px p).ownReq.isNone && (s.px p).change.isNone then
    let id := (s.px p).nextReq
    let s := s.updX p fun x => { x with
      ownReq := some { id := id, op := op, lanes := lanes, who := who, speed := speed }, nextReq := id + 1 }
    s.ctrl p (ctrlFlit (5 + id.toNat * 256 + op * 2 ^ 16 + lanes.toNat * 2 ^ 18 + p * 2 ^ 24)
      [s.devId, w64 (b2n speed)])
  else s

/-- A request of the device's own that cannot go out now, or was withdrawn, is made again once the port is UP (R234). -/
def State.reqAgain (s : State) (p : Nat) (r : ChangeReq) : State :=
  s.updX p fun x => { x with again := if x.again.any (fun q => q.op == r.op && q.lanes == r.lanes && q.who == r.who)
    then x.again else x.again ++ [r] }

/-- A request of the device's own: made now if the port can take it, otherwise later (R234). -/
def State.reqOwn (s : State) (p op : Nat) (lanes : BitVec 4) (who : Nat) (speed : Bool) : State :=
  if s.portState p = 3 && (s.px p).ownReq.isNone && (s.px p).change.isNone then s.reqChange p op lanes who speed
  else if s.carrying p then s.reqAgain p { id := 0, op := op, lanes := lanes, who := who, speed := speed }
  else s

/-- LANES of a retrain: LANES_ALLOWED less the FAILED lanes and the lane that self-test holds (R232). -/
def State.retrainLanes (s : State) (p : Nat) : BitVec 4 := s.usable p

/-- PAUSE_WAIT in ns. -/
def State.pauseWait (s : State) : Nat := 1000 * s.tmr R.LNK_TMR_B F.LNK_TMR_B_PAUSE_WAIT 1 255

/-- CHANGE_LIMIT in ns. -/
def State.changeLimit (s : State) : Nat := 100000 * s.tmr R.LNK_TMR_A F.LNK_TMR_A_CHANGE_LIMIT 1 1000

/-- A port enters CHANGE with an agreed lane set (R232 steps 2 and 3). -/
def State.enterChange (s : State) (p : Nat) (r : ChangeReq) (mine : Bool) (result : BitVec 4) : State :=
  let c : Change := {
    req := r, mine := mine, result := result, before := s.active p, due := s.now + s.changeLimit, pausing := false, pauseTx := none,
    pauseBsn := none, pauseRx := false, pauseAcked := false, handed := false, trained := false }
  (s.updX p fun x => { x with change := some c, ownReq := if mine then none else x.ownReq }).wrF
    (R.LNK_STATE p) F.LNK_STATE_STATE 4

/-! ### The loss of a link (R228, R229) -/

/-- A spare that self-test holds is given back: at once, or, where it stands in for a bank under test, once it has been copied
back (R375, R367 step 2). -/
def spareBack (q : Nat × SpareUse) : Nat × SpareUse :=
  match q.2 with
  | .testing b moved => (q.1, if moved then .returning b else .free)
  | .marching => (q.1, .free)
  | _ => q

/-- The lane of a lane slice goes back to its UP port: a width change to the widest legal set (R374). -/
def State.laneReturn (s : State) (l : Nat) : State :=
  let p := l / 4
  match widest (s.usable p) with
  | some m => if s.carrying p && m != s.active p then s.reqOwn p 1 m whoTest false else s
  | none => s

/-- A self-test slice ends early and leaves no result (R375); a commanded one reads ABANDONED. -/
def State.sliceAbandon (s : State) : State :=
  match s.flt.slice with
  | none => s
  | some sl =>
    let s := { s with
      flt.slice := none,
      flt.spares := s.flt.spares.map spareBack }
    let s := s.wrF R.STC_STAT F.STC_STAT_KIND_NOW 0
    let s : State := if sl.kind = 4 then s.laneReturn sl.unit_ else s
    if sl.commanded then (s.wrF R.STC_CMD F.STC_CMD_STATUS 4).wrF R.STC_STAT F.STC_STAT_CMD_DONE 1 else s

/-- The slice holds a lane of the port. -/
def State.sliceOn (s : State) (p : Nat) : Bool := s.testLane p != 0

/-- Packets lost with the link (R229): those whose HEAD lies in the replay buffer, those whose HEAD is acknowledged and whose BODY is
not whole, and those open in the receive direction. -/
def lostPackets (q : Port) : Nat :=
  q.store.foldl (fun a b => a + (b.flits.filter fun f => f.kind == 1).length) 0 + q.ackOpen.length
    + b2n q.rxMain.isSome + b2n q.rxPre.isSome

/-- The packets selected for a port whose HEAD has not been placed in a block go back to the heads of their lanes (R229). -/
def State.unselect (s : State) (p : Nat) : State :=
  let back := ([(s.port p).txMain, (s.port p).txPre].filterMap id).filterMap fun k => if k.flits.length = k.n then k.from_ else none
  { s with rte.queues := back.foldl (fun t b =>
    t.set (p * 32 + b.pkt.vl) ({ b with grains := 0 } :: ((t.get? (p * 32 + b.pkt.vl)).getD []))) s.rte.queues }

/-- LNK_CNT[p][k] advanced. -/
def State.lnkCount (s : State) (p k n : Nat) : State := s.bump (R.LNK_CNT p k) F.LNK_CNT_COUNT n

/-- The lanes of a set take a field of LAN_STAT (fabric ports only). -/
def State.lanes (s : State) (p : Nat) (m : BitVec 4) (fs : List (Fld × Nat)) : State :=
  if p < 64 then (lanesOf m).foldl (fun t i => t.wrFs (R.LAN_STAT (4 * p + i)) fs) s else s

/-- A port enters DOWN with a cause; `held` keeps it there until OP 3 (Table 10.7). -/
def State.portDown (s : State) (p cause : Nat) (held : Bool) : State :=
  let s := s.wrFs (R.LNK_STATE p) [(F.LNK_STATE_STATE, 1), (F.LNK_STATE_CAUSE, cause), (F.LNK_STATE_ACTIVE, 0),
    (F.LNK_STATE_HELD, if held then 1 else s.rdF (R.LNK_STATE p) F.LNK_STATE_HELD)]
  let s : State := if s.rdF (R.LNK_CMD p) F.LNK_CMD_STATUS = 1 then s.wrF (R.LNK_CMD p) F.LNK_CMD_STATUS 4 else s
  let s := s.lanes p 0xF [(F.LAN_STAT_EI, 1), (F.LAN_STAT_ALIGNED, 0), (F.LAN_STAT_LOCK, 0), (F.LAN_STAT_SIGNAL, 0)]
  let s : State := if 64 ≤ p then s.wrF (R.SPN_STAT (p - 64)) F.SPN_STAT_CLK_LOCK 0 else s
  let s := s.updX p fun x => { x with
    ownReq := none, peerReq := none, again := [], change := none, breakAt := none, cmd := false, initRx := false, training := none,
    trainAt := some (s.now + 1000000) }
  { s with lnk.ports := s.lnk.ports.set p portInit }

/-- LINK_DOWN (R229): what an UP or CHANGE port does when it breaks: the packets lost are counted, its queue is held
for GRACE, LINK_DOWN is written; causes 2 to 5 raise the port's fault source; a slice on its lanes is abandoned and
the groups with an edge on it fail. -/
def State.portBreak (s : State) (p cause : Nat) (held : Bool) : State :=
  if !s.carrying p then s
  else
    let before := s.portState p
    let lost := lostPackets (s.port p)
    let s : State := if s.sliceOn p then s.sliceAbandon else s
    let s := ((s.lnkCount p 7 lost).unselect p).portDown p cause held
    let s := s.updX p fun x => { x with graceAt := some (s.now + 10000 * s.tmr R.LNK_TMR_A F.LNK_TMR_A_GRACE 1 1000) }
    let s := s.note 0x0302 (portDom p) p cause lost before
    let s : State := if 2 ≤ cause && cause ≤ 5 then s.ucRaise (portSrc p + 4) p 0 false else s
    s.groupPortDown p

/-- A port whose domain goes off (Table 10.7): broken from UP or CHANGE, otherwise simply down. -/
def State.portStop (s : State) (p cause : Nat) (held : Bool) : State :=
  if s.carrying p then s.portBreak p cause held
  else if s.portState p = 2 then s.portDown p cause held
  else s

/-! ### Lane blame (R235) -/

/-- FAIL_COUNT; 0 is taken as 1. -/
def State.failCount (s : State) : Nat := s.tmr R.LNK_TMR_B F.LNK_TMR_B_FAIL_COUNT 1 255

/-- A width change to a set of lanes is requested, or with no set left the port breaks (R228, R235). -/
def State.narrow (s : State) (p : Nat) (l : Option (BitVec 4)) : State :=
  match l with
  | some l => s.reqOwn p 1 l whoLink false
  | none => s.portBreak p 4 false

/-- LANE_FAIL (R235): a lane is marked FAILED, LANE_FAIL is written, and a width change to the widest legal set
without the FAILED lanes is requested; with no legal set left the port breaks (R228). -/
def State.laneFail (s : State) (p lane blames : Nat) : State :=
  let s := s.wrF (R.LNK_STATE p) F.LNK_STATE_FAILED ((s.failed p).toNat ||| 2 ^ lane)
  let s := s.note 0x0304 (portDom p) p lane blames 0
  let s := (s.ceRaise (portSrc p + 2) false).1
  s.narrow p (widest (s.usable p))

/-- Blames given to a lane or span group: BLAME counts them; at FAIL_COUNT within the window that the first began, the
lane fails (R235). The window's end is kept with the count. -/
def State.blame (s : State) (p lane n : Nat) : State :=
  let s := s.bump (R.LNK_BLAME p) ⟨16 * lane, 16⟩ n
  let x := s.px p
  let fresh := (0, s.now + 1000000 * s.tmr R.LNK_TMR_B F.LNK_TMR_B_FAIL_WINDOW 1 255)
  let old := match x.blames.get? lane with
    | some (c, t) => if s.now ≤ t then (c, t) else fresh
    | none => fresh
  let c := old.1 + n
  let s := s.updX p fun x => { x with blames := x.blames.set lane (c, old.2) }
  if s.failCount ≤ c && !(s.failed p).getLsbD lane then
    (s.updX p fun x => { x with blames := x.blames.erase lane }).laneFail p lane c
  else s

/-! ### Entry into UP (R231) -/

/-- The change just carried out has met a request (R234). Every change trains the lanes afresh, so it meets a retrain. -/
def State.reqMet (s : State) (p : Nat) (r : ChangeReq) : Bool :=
  if r.op = 1 then r.lanes == s.active p
  else if r.op = 2 then s.rdF (R.SPN_STAT (p - 64)) F.SPN_STAT_SPEED_NOW == b2n r.speed
  else true

/-- The requests a port keeps for later (R234): those met are dropped, the first of the others is made, the rest wait on. -/
def State.again (s : State) (p : Nat) : State :=
  match (s.px p).again.filter fun r => !s.reqMet p r with
  | [] => s.updX p fun x => { x with again := [] }
  | r :: rest => (s.updX p fun x => { x with again := rest }).reqChange p r.op r.lanes r.who r.speed

/-- A request of the peer is accepted (R232 step 2): CHANGE_ACK with the resulting set and entry into CHANGE; with no
legal set, CHANGE_ACK with LANES 0 and the port breaks later. -/
def State.acceptChange (s : State) (p : Nat) (r : ChangeReq) : State :=
  match widest (r.lanes &&& s.usable p) with
  | some l =>
    (s.ctrl p (ctrlFlit (6 + r.id.toNat * 256 + l.toNat * 2 ^ 18) [s.devId])).enterChange p r false l
  | none =>
    let s := s.ctrl p (ctrlFlit (6 + r.id.toNat * 256) [s.devId])
    s.updX p fun x => { x with breakAt := some none }

/-- A span port whose SPEED differs from SPEED_NOW asks for the change while it is UP (R260). -/
def State.speedDue (s : State) (p : Nat) : State :=
  if p < 64 then s
  else
    let want := s.rdF (R.SPN_CTL (p - 64)) F.SPN_CTL_SPEED
    if want = s.rdF (R.SPN_STAT (p - 64)) F.SPN_STAT_SPEED_NOW then s
    else s.reqChange p 2 (s.active p) whoLink (want == 1)

/-- A port has entered UP: a CHANGE_REQ kept while it was not UP is handled (R232 step 2); otherwise the requests of its
own that wait are made (R234, R260). -/
def State.nowUp (s : State) (p : Nat) : State :=
  match (s.px p).peerReq with
  | some r => (s.updX p fun x => { x with peerReq := none }).acceptChange p r
  | none => if (s.px p).again.isEmpty then s.speedDue p else (s.again p).speedDue p

/-- LINK_UP (R231 step 4): a port whose checks have passed, with both CREDIT flits received, its round trip measured
and one valid time measurement applied, enters UP and writes LINK_UP, on a set in force that meets R206 (R208). The heads of its
queues start to wait for credit. A kept CHANGE_REQ is handled by its row. -/
def State.tryUp (s : State) (p : Nat) : State :=
  let x := s.px p
  if s.portState p = 2 && x.initRx && x.probesRx ≥ 16 && x.credRx0 && x.credRx1 && x.timed && s.resOk p && !s.silent p then
    let s := s.wrF (R.LNK_STATE p) F.LNK_STATE_STATE 3
    let s := { s.updX p fun x => { x with graceAt := none, idleSince := s.now, trainAt := none } with rte.sched := s.rte.sched.erase p }
    let s := (List.range 32).foldl (fun s v => s.stallSet p v true) s
    let s := s.note 0x0301 (portDom p) p (s.active p).toNat (s.rdF (R.LNK_STATE p) F.LNK_STATE_PEER_NODE) x.rtt
    (if 64 ≤ p then s.notice (p - 64) 0xFFFF else s).nowUp p
  else s

/-- The set of lanes a port trains on from DOWN (R231): the widest legal set of its usable lanes, within the peer's
usable lanes where the last INIT named them. -/
def State.trainSet (s : State) (p : Nat) : Option (BitVec 4) :=
  match widest (s.usable p &&& (s.px p).peerUsable) with
  | some l => some l
  | none => widest (s.usable p)

/-- A port's lanes may try to train (R208, R230, R249; 14_start R320): released by the boot, DOWN, enabled, not held, in a domain
that is on, its reference not lost, its reservations in force as R206 asks. -/
def State.mayTrain (s : State) (p : Nat) : Bool :=
  decide (p < 67) && !s.fatal && decide (5 ≤ s.stage) && decide (s.stage ≤ 6) && s.domOn (portDom p) && s.portState p == 1
    && s.rdF (R.LNK_CTL p) F.LNK_CTL_ENABLE == 1 && s.rdF (R.LNK_STATE p) F.LNK_STATE_HELD == 0
    && (s.pwr.clkLost.get? (quadrant p)).isNone && s.resOk p

/-! ### Training (11_lanes R244, R250, R261) -/

/-- The four lanes of a fabric port have one MEDIUM that trains (R244, LAN_CTL). -/
def State.mediumOk (s : State) (p : Nat) : Bool :=
  64 ≤ p || (let m := s.rdF (R.LAN_CTL (4 * p)) F.LAN_CTL_MEDIUM
    m != 3 && (List.range 4).all fun i => s.rdF (R.LAN_CTL (4 * p + i)) F.LAN_CTL_MEDIUM == m)

/-- How a lane of a fabric port trains (Table 11.3): from DOWN warm where it holds coefficients, cold where it does not; in a change
warm; recalibrating where RECAL is 1 in a change or a warm training. -/
def State.laneTrain (s : State) (p : Nat) (change : Bool) (i : Nat) : LaneTrain :=
  let l := 4 * p + i
  let warm := change || s.rdF (R.LAN_STAT l) F.LAN_STAT_WARM == 1
  let ctl := fun f => s.rdF (R.LAN_CTL l) f
  { lane := i,
    kind := if !warm then .cold else if ctl F.LAN_CTL_RECAL = 1 then .recal else .warm,
    medium := ctl F.LAN_CTL_MEDIUM, precode := ctl F.LAN_CTL_PRECODE == 1,
    txInvert := ctl F.LAN_CTL_TX_INVERT == 1, rxInvert := ctl F.LAN_CTL_RX_INVERT == 1 }

/-- The time a way of training takes at most, in µs (Table 11.3). -/
def TrainKind.bound : TrainKind → Nat
  | .cold => 250000
  | .warm => 45
  | .recal => 1500

/-- A training starts on a set of lanes (R250, R261): fabric lanes each in their way; a span port sends COM and fifteen IDL for
10 µs, then four EIE, at the speed to which it trains. It ends within its bound. -/
def State.trainStart (s : State) (p : Nat) (set : BitVec 4) (change : Bool) (speed : Nat) : State :=
  if p < 64 then
    let how := (lanesOf set).map (s.laneTrain p change)
    let bound := how.foldl (fun a h => Nat.max a h.kind.bound) 0
    (s.updX p fun x => { x with training := some (set, bound) }).emit (.train p set how)
  else
    (s.updX p fun x => { x with training := some (set, 11) }).emit
      (.spanTrain p set speed (.com :: List.replicate 15 .idl) (List.replicate 4 .eie))

/-- The lanes of a change are handed to the retrain (R232 step 4), at the speed that the change asks for. -/
def State.laneHand (s : State) (p : Nat) (c : Change) : State :=
  let speed := if c.req.op = 2 then b2n c.req.speed else if p < 64 then 0 else s.rdF (R.SPN_STAT (p - 64)) F.SPN_STAT_SPEED_NOW
  (s.updX p fun x => { x with change := some { c with handed := true } }).trainStart p c.result true speed

/-- A training attempt (R231, R244, R253 step 3): the exit signal on the lanes of LANES_ALLOWED that are not FAILED of a fabric port,
which are in electrical idle, then the lanes train; the next attempt is due after the retry interval. Lanes of differing MEDIUM do
not train, and CAUSE reads the training limit. A training in progress goes on. -/
def State.tryTrain (s : State) (p : Nat) : State :=
  match s.trainSet p with
  | some l =>
    let s := s.updX p fun x => { x with trainAt := some (s.now + 1000000) }
    if (s.px p).training.isSome then s
    else if !s.mediumOk p then s.wrF (R.LNK_STATE p) F.LNK_STATE_CAUSE 11
    else
      let speed := if p < 64 then 0 else s.rdF (R.SPN_STAT (p - 64)) F.SPN_STAT_SPEED_NOW
      (if p < 64 then s.emit (.exitSignal p (s.allowed p &&& ~~~ s.failed p)) else s).trainStart p l false speed
  | none => s

/-- A fabric lane is active (R254): in the active set of its port. -/
def State.laneActive (s : State) (l : Nat) : Bool := (s.active (l / 4)).getLsbD (l % 4)

/-- MARGIN of an active lane, updated every 10 µs (R254). The manual gives the estimate no value: it is a free value (log 52). -/
def State.margin (s : State) (l : Nat) : Nat := (Config.laneMargin l (s.now / 10000)).toNat

/-! ### The stream of a fabric port and its markers (11_lanes R245 to R247) -/

/-- The bytes of a lane's share of the stream below block `n`, for the lane at position `j` of `w` (R245): stream byte k goes to
position k mod w. -/
def laneBytes (n j w : Nat) : Nat := if 522 * n ≤ j then 0 else ceilDiv (522 * n - j) w

/-- The stream bytes that a lane carries between two markers (R246). -/
def markerGap : Nat := 657905

/-- The number of the marker that a lane sends within block `n`, if one falls there. -/
def markerIn (n j w : Nat) : Option Nat :=
  let c := ceilDiv (laneBytes n j w) markerGap
  if c * markerGap < laneBytes (n + 1) j w then some c else none

/-- An alignment marker (Table 11.2) of a lane of a set, ahead of stream byte `k`. -/
def markerBits (lane : Nat) (set : BitVec 4) (eiNext : Bool) (k : Nat) : BitVec 120 :=
  BitVec.ofNat 120 (0x91C37A0E5B2D + lane % 4 * 2 ^ 48 + set.toNat * 2 ^ 50 + b2n eiNext * 2 ^ 54 + k % 522 * 2 ^ 56
    + k / 522 % 256 * 2 ^ 66)

/-- PATTERN, LANE and EI_NEXT of a marker. -/
def markerPattern (m : BitVec 120) : Bool := m.toNat % 2 ^ 48 == 0x91C37A0E5B2D
def markerLane (m : BitVec 120) : Nat := m.toNat / 2 ^ 48 % 4
def markerEi (m : BitVec 120) : Bool := m.getLsbD 54

/-- The lanes of a set with their positions, ascending (R245). -/
def laneSpots (set : BitVec 4) : List (Nat × Nat) := (List.range (lanesOf set).length).map fun j => ((lanesOf set).getD j 0, j)

/-- The markers that a fabric port sends within its next block (R246). -/
def State.markersOut (s : State) (p : Nat) : State :=
  if 64 ≤ p then s
  else
    let set := s.active p
    let w := (lanesOf set).length
    (laneSpots set).foldl (fun s l => match markerIn (s.px p).blocks l.2 w with
      | some c => s.emit (.marker p l.1 (markerBits l.1 set false (l.2 + w * (c * markerGap))))
      | none => s) s

/-- A port announces electrical idle (R253 step 1): each active fabric lane sends a codeword whose marker has EI_NEXT = 1, then stops.
A span port, which has no markers, stops. -/
def State.eiAnnounce (s : State) (p : Nat) : State :=
  let set := s.active p
  let w := (lanesOf set).length
  let s : State := if 64 ≤ p then s else (laneSpots set).foldl (fun s l =>
    s.emit (.marker p l.1 (markerBits l.1 set true (l.2 + w * laneBytes (s.px p).blocks l.2 w)))) s
  s.emit (.electricalIdle p (decide (p < 64)))

/-- Active lanes, or span groups, are lost (R249, R259): a port that carries packets breaks with cause 5; each of those blamed is given
FAIL_COUNT blames at once. -/
def State.lanesLost (s : State) (p : Nat) (blamed : BitVec 4) : State :=
  let s := s.portBreak p 5 false
  (lanesOf blamed).foldl (fun s i => s.blame p i s.failCount) s

/-- ENABLE of a port becomes 1 (R253, R366, R375, R379): refused while PEND of its pipeline fault is 1; nothing once a full
test has ended; a LANE slice on the port is abandoned, and the port starts to train. -/
def State.portEnable (s : State) (p : Nat) : State :=
  if s.rdF R.STC_STAT F.STC_STAT_RESET_NEEDED = 1 then s
  else if s.pend (portSrc p + 3) then s.wrF (R.LNK_CMD p) F.LNK_CMD_STATUS 5
  else
    let s : State := if s.sliceOn p then s.sliceAbandon else s
    let s := s.wrF (R.LNK_CTL p) F.LNK_CTL_ENABLE 1
    if s.mayTrain p then s.tryTrain p else s

/-- ENABLE of a port becomes 0 (R228, R230, R253 step 1): a port that runs announces electrical idle, its lanes fall silent, and a port
in UP or CHANGE goes DOWN with cause 1. From INIT only CHANGE_LIMIT leads on (Table 10.7). -/
def State.portDisable (s : State) (p : Nat) : State :=
  let s := s.wrF (R.LNK_CTL p) F.LNK_CTL_ENABLE 0
  if s.linked p then
    let s := (s.eiAnnounce p).lanes p 0xF [(F.LAN_STAT_EI, 1)]
    let s : State := if 64 ≤ p then s.wrF (R.SPN_STAT (p - 64)) F.SPN_STAT_EI 1 else s
    s.portBreak p 1 false
  else s.updX p fun x => { x with training := none }

/-- PWR_PORT_SLEPT names the port. -/
def State.slept (s : State) (p : Nat) : Bool := decide (p < 64) && bitAt (s.rd R.PWR_PORT_SLEPT) p

/-- A slept port wakes (R344): SLEPT is cleared and PORT_SLEEP written; the caller enables the port. -/
def State.portWake (s : State) (p cause rule : Nat) : State :=
  if s.slept p then (s.wrF R.PWR_PORT_SLEPT ⟨p, 1⟩ 0).note 0x0409 92 p 0 cause rule else s


end Sys2Proof.Machine
end

