-- ==== Sys2Proof/Machine/FaultOps.lean ====
section
/-! DEFINITION. The fatal state (16_faults R362, R365). -/

namespace Sys2Proof.Machine

open Sys2Proof

/-- The class of a fault source is FT (Table 16.2). -/
def isFt (n : Nat) : Bool := fltClass n == 2

/-- Other FT sources pending. -/
def State.ftPending (s : State) (n : Nat) : Nat := ((List.range 640).filter fun m => m != n && isFt m && s.pend m).length

/-- What entry into the fatal state does beyond its status (R362 steps 3 and 6, R365): every lane that runs announces electrical
idle, self-test stops, and repairs stop where they stand. ALIVE stops with its row (R364). -/
def State.freeze (s : State) : State :=
  let s := (List.range 67).foldl (fun s p => if s.linked p then s.eiAnnounce p else s) s
  { s with flt.slice := none, flt.waitRep := [], flt.rebuild := [] }.wrF R.STC_STAT F.STC_STAT_KIND_NOW 0

/-- An occurrence of an FT source (R362, R365): the first enters the fatal state and is captured; later ones set PEND only, but for
FIRST_FT, which takes the lowest of those within one cycle of 20 ns. FAULT_FT
is written unless the recorder's front end has failed. A failed Fathom takes CORE_VSEL_EN low (20_package R416). A device whose
PWR_GOOD is low, which keeps no fault state (R363), is not made fatal. -/
def State.ftRaise (s : State) (n : Nat) (forced : Bool) : State :=
  if !s.boot.pwrGood then s
  else if s.fatal then
    let s := s.setPend n true
    if s.now / 20 = s.flt.ftAt / 20 && n < s.rdF R.FLT_STAT F.FLT_STAT_FIRST_FT then s.wrF R.FLT_STAT F.FLT_STAT_FIRST_FT n else s
  else
    let others := s.ftPending n
    let s := (s.bump (R.FLT_SRC n) F.FLT_SRC_COUNT 1).setPend n true
    let s := { s with flt.ftAt := s.now }.wrFs R.FLT_STAT [(F.FLT_STAT_FATAL, 1), (F.FLT_STAT_FIRST_FT, n)]
    let s : State := if n = 0x259 then s else s.record 0x0203 3 (srcDomain n) (w64 n) s.ftWord (w64 others) (w64 (b2n forced)) 0
    let s : State := if n = 0x258 && s.pwr.vselEn then { s with pwr.vselEn := false }.emit (.vselEn false) else s
    s.freeze

end Sys2Proof.Machine
end

