-- ==== Sys2Proof/Machine/TransOps.lean ====
section
/-! DEFINITION. What the transport's steps share: sending the next packet of a job or a response, resends after BUSY, the
failure of a PSN space, and the checks of an arriving packet (03_transport R59 to R74; 05_remote R112 to R118). -/

namespace Sys2Proof.Machine

open Sys2Proof

/-! ### Domains that a packet reaches (R16, R339, R342) -/

/-- The transfer-engine slice that owns a space. -/
def spDom (id : SpaceId) : Nat := 69 + spSlice id

/-- A packet steered to domains: discarded and counted at one that is OFF; it wakes those that sleep and waits for those that
are not up; otherwise it is handled. -/
def State.atDoms (s : State) (p : Packet) (doms : List Nat) (act : State → State) : State :=
  match doms.find? (fun d => s.domState d == 0) with
  | some d => (s.takeLocal p).bump (R.PWR_DOM_STAT d) F.PWR_DOM_STAT_DROPS 1
  | none =>
    let s : State := if doms.any s.domLater then doms.foldl (fun s d => s.wake d) s else s
    if doms.any s.domLater then s else act s

/-- A SEND-type packet, and one that answers a request (R57, R64). -/
def pkSends (p : Packet) : Bool := p.type == 1 || p.type == 2
def pkAnswers (p : Packet) : Bool := p.type == 5 || p.type == 7

/-- CONTEXT and MATCHED of a SEND-type packet (Table 3.4). -/
def pkCtx (p : Packet) : Nat := bitsOf p.w5 0 16
def pkMatched (p : Packet) : Bool := bitAt p.w5 16

/-- The domains that a packet for a queue pair reaches: the slice of the queue pair and, for NODE, of the node-pair context;
for SEND-type packets the matching slices. -/
def recvDoms (p : Packet) : List Nat :=
  (if p.node then [69 + p.srcNode % 4, tenDom p.dstQp] else [tenDom p.dstQp])
    ++ if (pkSends p) then [matDom p.dstQp] ++ (if (pkMatched p) then [matDom (pkCtx p)] else []) else []

/-- The domains that a packet for this device is steered to, as far as its header tells (R16). -/
def localDoms (p : Packet) : List Nat :=
  if 1 ≤ p.type && p.type ≤ 7 then recvDoms p
  else if 8 ≤ p.type && p.type ≤ 0x0B then (if p.node then [69 + p.srcNode % 4] else [tenDom p.dstQp])
  else if pkColl p then [colDom (bitsOf p.w4 0 16)]
  else []

/-- The local positions of the crossbar (R15): 67 to 70 for the transfer-engine slices, 71 and 72 for the collective clusters, 73
for the management complex, which span requests and answers pass (DESIGN CHOICE, log 50). -/
def unitPos (p : Packet) (slice : Nat) : Nat :=
  if pkColl p then 71 + bitsOf p.w4 0 16 % 2 else if p.type = 0x0C || p.type = 0x0D then 73 else 67 + slice % 4

/-- The local position from which a packet of this device enters (R15, R16). -/
def homePos (p : Packet) : Nat := unitPos p (if p.node then p.dstNode else p.srcQp)

/-- The local position to which a packet for this device is steered (R15, R16). -/
def localPos (p : Packet) : Nat := unitPos p (if p.node then p.srcNode else p.dstQp)

/-! ### Sending (R59, R62 to R64, R69) -/

/-- A space can send: its slice runs, and a node-pair context is ACTIVE. -/
def State.spaceReady (s : State) (id : SpaceId) : Bool :=
  s.domRuns (spDom id) && match id with
    | .conn _ => true
    | .node n => (s.np n).st == .active

/-- No other response of the space is part-sent: the packets of a response take consecutive PSNs (R114). -/
def State.spaceTurn (s : State) (id : SpaceId) (me : Option Nat) : Bool :=
  s.tra.resps.all fun r => some r.1 == me || r.2.sp != id || r.2.gone || r.2.allSent || r.2.pos == 0

/-- The space may take a new PSN for a sender. -/
def State.maySend (s : State) (id : SpaceId) (me : Option Nat) : Bool :=
  s.spaceReady id && (s.space id).room && s.spaceTurn id me

/-- The outstanding requests that carry a PSN in a space are renumbered, as after a resend (R68). -/
def State.renumber (s : State) (o : Owner) (old new : Psn) : State :=
  let upd := fun (g : GetReq) => if g.psn = old then { g with psn := new } else g
  match o with
  | .job q ring => s.updJob q ring fun j => { j with gets := j.gets.map upd }
  | .fetch i => { s with mat.fetches := s.mat.fetches.upd i fun f => { f with
      outs := f.outs.map upd,
      closing := match f.closing with
        | .sent p t => .sent (if p = old then new else p) t
        | c => c } }
  | .resp _ => s

/-- The FLOWLET of a packet sent again under a new PSN: its flow's, if it is an ORD packet (R62). -/
def State.pathOf (s : State) (id : SpaceId) (k : Packet) : State × Nat :=
  match k.ord, s.ten.qps.get? k.srcQp with
  | true, some v => s.flowlet k.srcQp v id { node := k.dstNode, qp := k.dstQp, gen := k.dstGen }
  | _, _ => (s, k.flowlet)

/-- A packet refused BUSY is sent again under a new PSN, with RETX and its other fields as they were, on the path that its flow takes
now (R62, R68). -/
def State.sendResend (s : State) (id : SpaceId) (r : Resend) (bs : List Byte) : State :=
  let new := (s.space id).sendNext
  let s := s.updSp id fun p => { p with resends := p.resends.filter fun x => x.sent.psn != r.sent.psn }
  let f := s.pathOf id r.sent.hdr
  (f.1.sendNew id { r.sent.hdr with payload := bs, retx := true, flowlet := f.2 } r.sent.owner r.sent.off r.sent.busy).renumber
    r.sent.owner r.sent.psn new

/-- Resends whose backoff has ended and whose bytes need no read leave in order, as far as the window has room. -/
def State.flushResends (s : State) (id : SpaceId) : Nat → State
  | 0 => s
  | n + 1 =>
    match (s.space id).resends with
    | r :: _ =>
      if r.ready && s.maySend id none then
        match s.ownBytes r.sent.owner r.sent.off r.sent.len with
        | some bs => (s.sendResend id r bs).flushResends id n
        | none => s
      else s
    | [] => s

/-- The header of a job's packets: its addressing, class, key and order (R60, R62, R63). -/
def jobHdr (q : Nat) (v : Qp) (j : Job) : Packet :=
  { pktZero with
    dstNode := j.dst.node, dstQp := j.dst.qp, dstGen := j.dst.gen, srcQp := q, srcGen := v.gen, node := v.node, tc := j.tc,
    ord := j.ord, pkey := v.pkey }

/-- A new packet of a job leaves, with its FLOWLET. -/
def State.jobPacket (s : State) (q : Nat) (v : Qp) (j : Job) (id : SpaceId) (p : Packet) (off : Nat) : State :=
  let f := if j.ord then s.flowlet q v id j.dst else (s, 0)
  f.1.sendNew id { p with flowlet := f.2 } (.job q j.ring) off none

/-- The next payload packet of a SEND or PUT job (R59). -/
def State.sendData (s : State) (q : Nat) (v : Qp) (j : Job) (id : SpaceId) : State :=
  let n := Nat.min v.mtu (j.len - j.pos)
  match s.jobRead q v j j.pos n with
  | (s, none) => s
  | (s, some bs) =>
    let last := decide (j.len ≤ j.pos + n)
    let send := j.op = 1 || j.op = 2
    let p := { jobHdr q v j with
      type := if send then 1 else 3, msn := if send then j.msn else 0, flowNew := send && j.flowNew, solicit := j.solicit,
      offset := j.pos, msgLen := j.len, w4 := j.e.w3,
      w5 := if send then w64 (bitsOf j.e.w4 32 17) else w64 (bitsOf j.e.w4 32 32 * 2 ^ 32),
      ackReq := last, payload := bs }
    (s.jobPacket q v j id p j.pos).updJob q j.ring fun j => { j with pos := j.pos + n, allSent := last }

/-- The header of a rendezvous SEND (R92, R94). -/
def State.sendRts (s : State) (q : Nat) (v : Qp) (j : Job) (id : SpaceId) : State :=
  let key := match j.win with
    | some w => w * 256 + (match s.wins.get? w with | some x => x.gen.toNat | none => 0)
    | none => 0
  let p := { jobHdr q v j with
    type := 2, msn := j.msn, flowNew := j.flowNew, solicit := j.solicit, msgLen := j.len, w4 := j.e.w3,
    w5 := w64 (bitsOf j.e.w4 32 17 + key * 2 ^ 32), ackReq := true }
  (s.jobPacket q v j id p 0).updJob q j.ring fun j => { j with allSent := true }

/-- The largest range that one GET_REQ asks for (R95, R114). -/
def getMax : Nat := 2 ^ 20

/-- A request of a job leaves once the place of its answer translates as a write (R114, R115). -/
def State.sendAsk (s : State) (q : Nat) (v : Qp) (j : Job) (id : SpaceId) (p : Packet) (n : Nat) : State :=
  let parts := cutSges j.sges j.pos n
  if s.tableFull (q % 4) || (needsHost parts && (!s.fnReady v.fn || !mayTranslate v j.ring)) then s
  else match s.sgXlate v.asid true (aheadOf j.sges j.pos n) parts with
    | (s, .fail st) => s.jobFail q j.ring st
    | (s, .mark g d z) => s.trapAsk q j.ring v.asid g true d z
    | (s, .ok _ _) =>
      let g : GetReq := { psn := (s.space id).sendNext, base := j.pos, len := n, got := 0, last := s.now }
      (s.jobPacket q v j id { p with ackReq := true } 0).updJob q j.ring fun j => { j with
        gets := j.gets ++ [g], pos := j.pos + n, allSent := decide (j.len ≤ j.pos + n) }

/-- The next request of a GET job: at most 1 MiB, and not before every byte of the fourth one before it is placed (R114). -/
def State.sendGet (s : State) (q : Nat) (v : Qp) (j : Job) (id : SpaceId) : State :=
  if j.gets.any (fun g => decide (g.base + 4 * getMax ≤ j.pos)) then s
  else
    let n := Nat.min getMax (j.len - j.pos)
    s.sendAsk q v j id { jobHdr q v j with
      type := 4, msgLen := n, w4 := j.e.w3 + w64 j.pos, w5 := w64 (bitsOf j.e.w4 32 32 * 2 ^ 32) } n

/-- The request of an ATOMIC job; word 3 carries COMPARE (Table 3.4). -/
def State.sendAtomic (s : State) (q : Nat) (v : Qp) (j : Job) (id : SpaceId) : State :=
  s.sendAsk q v j id { jobHdr q v j with
    type := 6, offset := bitsOf j.e.w6 0 32, msgLen := bitsOf j.e.w6 32 32, w4 := j.e.w3,
    w5 := w64 (bitsOf j.e.w4 0 3 + bitsOf j.e.w4 32 32 * 2 ^ 32), w6 := j.e.w5 } j.len

/-- On an ORDERED connection a job's packets follow those of every earlier SEND or PUT (R63; DEDUCED). -/
def inOrder (v : Qp) (ring : Count32) : Bool :=
  v.node || v.spray || !((v.jobs.takeWhile fun j => j.ring != ring).any fun j =>
    decide (1 ≤ j.op) && decide (j.op ≤ 4) && j.status.isNone && !j.allSent)

/-- The next new packet of a running job. -/
def State.sendNext (s : State) (q : Nat) (v : Qp) (j : Job) (id : SpaceId) : State :=
  if j.status.isSome || j.allSent || j.trapped || !(v.st == .ready || v.st == .draining) || !inOrder v j.ring then s
  else match j.op with
    | 1 => if j.rts then s.sendRts q v j id else s.sendData q v j id
    | 2 => s.sendData q v j id
    | 3 => s.sendData q v j id
    | 4 => s.sendData q v j id
    | 5 => s.sendGet q v j id
    | 6 => s.sendAtomic q v j id
    | _ => s

/-- The next packet of a job (R64): a retransmission that is due, the resend at the head of its space, or a new packet. -/
def State.sendJob (s : State) (q : Nat) (ring : Count32) : State :=
  match s.ten.qps.get? q with
  | none => s
  | some v =>
    match (v.jobs ++ v.ghosts).find? fun j => j.ring == ring with
    | none => s
    | some j =>
      let id := jobSpace q v j
      let o := Owner.job q ring
      if s.fatal || !s.domRuns (tenDom q) || !s.spaceReady id then s
      else match (s.space id).sent.find? fun t => t.owner == o && t.due && !t.marked with
        | some t =>
          match s.jobRead q v j t.off t.len with
          | (s, some bs) => s.sendAgain id t bs
          | (s, none) => s
        | none =>
          if !s.maySend id none then s
          else match (s.space id).resends.find? fun r => r.ready with
            | some r =>
              if r.sent.owner == o && ((s.space id).resends.head?.any fun h => h.sent.psn == r.sent.psn) then
                match s.jobRead q v j r.sent.off r.sent.len with
                | (s, some bs) => s.sendResend id r bs
                | (s, none) => s
              else s.sendNext q v j id
            | none => s.sendNext q v j id

/-- The next packet of a response (R71, R114, R115): a retransmission that is due, or the next new one. -/
def State.sendResp (s : State) (i : Nat) : State :=
  match s.tra.resps.get? i with
  | none => s
  | some r =>
    match s.ten.qps.get? r.qp with
    | none => s
    | some v =>
      if s.fatal || !s.domRuns (tenDom r.qp) || !s.spaceReady r.sp then s
      else match (s.space r.sp).sent.find? fun t => t.owner == .resp i && t.due && !t.marked with
        | some t =>
          -- a forced reset drain sends nothing again (12_host R280)
          if !r.ready then s
          else match (if r.atomic then (s, some []) else s.respRead i r t.off t.len) with
          | (s, some bs) => s.sendAgain r.sp t bs
          | (s, none) => s
        | none =>
          if r.allSent || r.gone || !r.ready || !s.maySend r.sp (some i) then s
          else
            let n := Nat.min r.mtu (r.len - r.pos)
            match (if r.atomic then (s, some []) else s.respRead i r r.pos n) with
            | (s, none) => s
            | (s, some bs) =>
              let last := r.atomic || decide (r.len ≤ r.pos + n)
              let f := if v.spray then (s, 0) else s.flowlet r.qp v r.sp r.dst
              let p := { pktZero with
                type := if r.atomic then 7 else 5, dstNode := r.dst.node, dstQp := r.dst.qp, dstGen := r.dst.gen,
                srcQp := r.qp, srcGen := v.gen, node := r.node, ord := !v.spray, tc := r.tc, pkey := r.pkey,
                flowlet := f.2, offset := r.pos, msgLen := if r.atomic then 0 else r.len, w4 := w64 r.psn.toNat,
                w6 := if r.atomic then r.value else 0, ackReq := last, payload := bs }
              let s := f.1.sendNew r.sp p (.resp i) r.pos none
              { s with tra.resps := s.tra.resps.upd i fun r => { r with pos := r.pos + n, allSent := last, rd := none } }

/-! ### The failure of a PSN space (R69, R71, R74, R96, R97) -/

/-- The responses of a space that a predicate picks are given up; the rendezvous jobs that they serve fail. -/
def State.dropResps (s : State) (id : SpaceId) (pick : Nat → Resp → Bool) (status : Nat) : State :=
  let hit := s.tra.resps.filter fun r => r.2.sp == id && pick r.1 r.2
  (s.giveUpResps fun i r => r.sp == id && pick i r).jobsFail (hit.filterMap fun r => r.2.rdv) status

/-- The fetches of a space that a predicate picks fail (R97). -/
def State.failFetches (s : State) (id : SpaceId) (pick : Nat → Bool) (status : Nat) : State :=
  (s.mat.fetches.filter fun f => f.2.sp == id && pick f.1).foldl (fun s f => s.fetchFail f.1 status) s


/-- NODE work that is still to send to a peer starts a new SYNC exchange (R69, R74): jobs, responses and fetches. -/
def State.resync (s : State) (n : Nat) : State :=
  let id := SpaceId.node n
  let jobs := s.ten.qps.any fun q => q.2.node && (q.2.st == .ready || q.2.st == .draining)
      && q.2.jobs.any fun j => decide (1 ≤ j.op) && decide (j.op ≤ 6) && j.dst.node == n && j.status.isNone && !j.allSent
  let resps := s.tra.resps.any fun r => r.2.sp == id && !r.2.allSent && !r.2.gone
  let fetches := s.mat.fetches.any fun f => f.2.sp == id
  if jobs || resps || fetches then s.syncStart n else s

/-- The packets of a space that have not been acknowledged: those refused BUSY, which are to be sent again, among them (DEDUCED,
log 59). -/
def Space.owed (p : Space) : List Sent := (p.sent.filter fun t => !t.marked) ++ p.resends.map fun r => r.sent

/-- The jobs that packets belong to. -/
def jobsOf (ts : List Sent) : List (Nat × Count32) := ts.filterMap fun t => match t.owner with
  | .job q r => some (q, r)
  | _ => none

/-- A space in which nothing is left to send again. -/
def Space.emptied (p : Space) : Space :=
  { p with sendUna := p.sendNext, sent := [], past := [], resends := [], deadline := none, retries := 0 }

/-- A PSN space fails with RETRY_EXCEEDED (R69): on a connection the oldest unacknowledged job carries the cause, or a response
(R71); of a node-pair context every job with an unacknowledged packet does. -/
def State.spaceFail (s : State) (id : SpaceId) : State :=
  let open_ := (s.space id).owed
  let owns := fun (o : Owner) => open_.any fun t => t.owner == o
  let st := St.retryExceeded
  let t := (s.quietFlows id open_).updSp id Space.emptied
  let t := (t.failFetches id (fun i => owns (.fetch i)) st).dropResps id (fun i _ => owns (.resp i)) st
  match id with
  | .conn q =>
    match (s.ten.qps.get? q).bind fun v => v.jobs.find? fun j => j.status.isNone && owns (.job q j.ring) with
    | some j => t.jobFail q j.ring st
    | none => if s.tra.resps.any (fun r => owns (.resp r.1)) then t.qpFail q st none (some 0xFFFFFFFF) else t
  | .node n => ((t.setNp n { t.np n with st := .idle }).jobsFail (jobsOf open_) st).resync n

/-- A SYNC exchange fails (R74): the held jobs complete RETRY_EXCEEDED, and the context is IDLE. -/
def State.syncFail (s : State) (n : Nat) : State :=
  let id := SpaceId.node n
  let held := s.ten.qps.flatMap fun q =>
    if q.2.node then (q.2.jobs.filter fun j => decide (1 ≤ j.op) && decide (j.op ≤ 6) && j.dst.node == n && j.status.isNone).map fun j => (q.1, j.ring)
    else []
  let s := s.setNp n { s.np n with st := .idle }
  let s := (s.quietFlows id (s.space id).owed).updSp id Space.emptied
  let s := s.jobsFail held St.retryExceeded
  (s.failFetches id (fun _ => true) St.retryExceeded).dropResps id (fun _ _ => true) St.retryExceeded

/-! ### A terminal NAK (R68, R97, R117, R118) -/

/-- The job status of a NAK reason (Table 3.5). -/
def nakStatus (reason : Nat) : Nat :=
  match reason with
  | 3 => St.stale
  | 4 => St.access
  | 5 => St.remoteKey
  | 6 => St.remoteRevoked
  | _ => St.remoteOp

/-- A response is abandoned when a packet of it is refused; the first refusal counts (R118). A read that is outstanding ends
before the response is over (R110). -/
def State.respRefused (s : State) (i : Nat) (status : Nat) : State :=
  match s.tra.resps.get? i with
  | none => s
  | some r =>
    if r.refused then s
    else
      let s := (s.bump (R.RMA_REFUSE 7) F.RMA_REFUSE_COUNT 1)
      let s := { s with tra.resps := s.tra.resps.set i { r with allSent := true, gone := true, refused := true } }
      match r.rdv with
      | some (q, ring) => (s.jobFail q ring status).respCheck i
      | none => s.respCheck i

/-- The packet of a space that a NAK names: one that is not acknowledged, or one whose owner still runs though an acknowledgement
has overtaken the NAK. -/
def State.sentOf (s : State) (id : SpaceId) (psn : Psn) : Option Sent :=
  let p := s.space id
  (p.sent.find? fun t => t.psn == psn).or (p.past.find? fun t => t.psn == psn && s.ownerRuns t.owner)

/-- Who a NAK's PSN belongs to in a space: the sender of a packet, or the owner of an outstanding request. -/
def State.ownerOf (s : State) (id : SpaceId) (psn : Psn) : Option Owner :=
  match s.sentOf id psn with
  | some t => some t.owner
  | none =>
    match s.mat.fetches.find? fun f => f.2.sp == id && (f.2.outs.any (fun g => g.psn == psn) || f.2.closing.is psn) with
    | some f => some (.fetch f.1)
    | none => s.ten.qps.findSome? fun q => (q.2.jobs.find? fun j =>
        jobSpace q.1 q.2 j == id && j.status.isNone && j.gets.any fun g => g.psn == psn).map fun j => .job q.1 j.ring

/-- A terminal NAK acts on the owner of the PSN it names. One that names no packet, or the request of an owner that has ended, is
counted (R117); a later NAK for a SEND or PUT job that has ended is discarded (R68). -/
def State.terminal (s : State) (id : SpaceId) (psn : Psn) (reason : Nat) : State :=
  let request := (s.sentOf id psn).any fun t => t.hdr.type == 4 || t.hdr.type == 6
  match s.ownerOf id psn with
  | some o =>
    if !s.ownerRuns o then (if request then s.tally .nak else s)
    else match o with
      | .job q ring => s.jobFail q ring (nakStatus reason)
      | .fetch i => s.fetchFail i (nakStatus reason)
      | .resp i => s.respRefused i (nakStatus reason)
  | none => s.tally .nak

/-! ### The checks of an arriving packet (R72) -/

/-- A queue pair of the kind and generation that a packet names, in any state but QUARANTINE (R192). -/
def State.named (s : State) (p : Packet) : Option Qp :=
  match s.qp? p.dstQp with
  | some v => if v.node == p.node && v.gen == p.dstGen then some v else none
  | none => none

/-- The queue pair that a packet reaches (steps 2 and 5 of R72): not in RESET. -/
def State.target (s : State) (p : Packet) : Option Qp :=
  match s.named p with
  | some v => if v.st = .reset then none else some v
  | none => none

/-- The space in which a packet is received. -/
def recvSpace (p : Packet) : SpaceId := if p.node then .node p.srcNode else .conn p.dstQp

/-- A packet of a NODE flow has been accepted or refused: its gate entry stays (R90). -/
def State.gateSeen (s : State) (p : Packet) : State :=
  if p.node then { s with tra.gates := s.tra.gates.upd (gateKey p.srcNode p.srcQp p.dstQp) fun g => { g with last := s.now } } else s

/-- A refusal that consumes the PSN (Table 3.5). -/
def State.refuse (s : State) (p : Packet) (reason backoff : Nat) : State :=
  ((s.gateSeen p).psnTaken (recvSpace p) p.psn).nak (recvSpace p) p.tc p.pkey p.psn reason backoff

/-- The packet's message is not in placement. -/
def State.fresh (s : State) (p : Packet) : Bool :=
  (pkSends p) && (s.msg? p.srcNode p.srcQp p.dstQp p.msn).isNone


/-- BACKOFF of NAK BUSY outside matching admission, and inside it (R68). -/
def State.tenBackoff (s : State) : Nat := s.rdF R.TEN_XPORT_CTL F.TEN_XPORT_CTL_BUSY_BACKOFF
def State.matBackoff (s : State) : Nat := s.rdF R.MAT_CTL F.MAT_CTL_BUSY_BACKOFF

/-- A packet is accepted (step 8 of R72). -/
def State.accept (s : State) (p : Packet) (complete : Bool) : State :=
  ((s.gateSeen p).psnTaken (recvSpace p) p.psn).accepted (recvSpace p) p complete

/-- A packet discarded for a function that is not READY (R278). -/
def State.fnDrop (s : State) (f : Nat) : State :=
  s.setFn f { s.fn f with pktDrop := satAdd (2 ^ 32 - 1) (s.fn f).pktDrop 1 }

/-! ### SEND-type messages (R87, R90) -/

/-- A message as its first packet to arrive gives it. A message of length 0 is whole with that packet. -/
def msgOf (s : State) (p : Packet) : Msg :=
  { srcNode := p.srcNode, srcQp := p.srcQp, srcGen := p.srcGen, dstQp := p.dstQp, msn := p.msn, len := p.msgLen, bits := p.w4,
    ctx := (pkCtx p), matched := (pkMatched p), rts := p.type == 2, key := BitVec.ofNat 32 (bitsOf p.w5 32 32), srcOff := p.w6,
    tc := p.tc, pkey := p.pkey, solicit := p.solicit, node := p.node,
    count := if p.type = 2 then 0 else if p.msgLen = 0 then 1 else p.payload.length,
    store := if p.payload.isEmpty then [] else [(p.offset, p.payload)], at_ := .held, since := s.now, holdEnd := 0, charged := false }

/-- What R90 makes of a packet's gate entry. -/
inductive GateEntry where
  | there (s : State)
  | full
  | missing
deriving DecidableEq, Repr

/-- GATE_DISCARD of one flow (Table 4.5). -/
def State.gateReset (s : State) (p : Packet) : State :=
  let mine := fun (m : Msg) => m.srcNode == p.srcNode && m.srcQp == p.srcQp && m.dstQp == p.dstQp && m.at_ == .held
  let n := (s.mat.msgs.filter mine).length
  let s := (s.discardMsgs mine).setGate true p.srcNode p.srcQp p.dstQp { gateInit with last := s.now }
  match s.ten.qps.get? p.dstQp with
  | some v => s.eqEvent v.eq (ev 0x0402 0 p.dstQp (p.srcNode + p.srcQp * 2 ^ 18) n)
  | none => s

/-- The gate entry of a packet (R86, R90): created, or reset for a new life of its flow. -/
def State.gateEntry (s : State) (p : Packet) : GateEntry :=
  if !p.node then .there s
  else match s.tra.gates.get? (gateKey p.srcNode p.srcQp p.dstQp) with
    | some g =>
      if p.flowNew && p.msn = 0 && g.next != 0 && s.fresh p then .there (s.gateReset p)
      else .there (s.setGate true p.srcNode p.srcQp p.dstQp { g with last := s.now })
    | none =>
      if !(p.flowNew && p.msn = 0) then .missing
      else if 2 ^ s.flowLog ≤ s.tra.gates.length then .full
      else .there (s.setGate true p.srcNode p.srcQp p.dstQp { gateInit with last := s.now })

/-- A terminal refusal; a new message leaves its flow's sequence (R88), whose gate entry it may create or reset (R90). -/
def State.refuseOut (s : State) (p : Packet) (reason : Nat) : State :=
  let new := s.fresh p
  let s := s.refuse p reason 0
  if !new then s
  else match s.gateEntry p with
    | .there s => s.gateLeave p.node p.srcNode p.srcQp p.dstQp p.msn
    | _ => s

/-- A PKEY refusal (R192): counted, and recorded at most once a second with the refusals since the previous record. -/
def State.pkeyRefused (s : State) (p : Packet) : State :=
  let s := (s.refuseOut p 4).bump (R.RTE_DISCARD 6) F.RTE_DISCARD_COUNT 1
  let n := s.rte.pkeyN + 1
  let quiet := match s.rte.pkeyAt with
    | some t => decide (t + 1000000000 ≤ s.now)
    | none => true
  if quiet then
    { s with rte.pkeyAt := some s.now, rte.pkeyN := 0 }.note 0x0610 (tenDom p.dstQp) n (p.srcNode + p.srcQp * 2 ^ 18)
      (p.dstQp + p.pkey.toNat * 2 ^ 21) 0
  else { s with rte.pkeyN := n }

/-- A SEND-type packet from step 6 of R72 on. -/
def State.recvSend (s : State) (p : Packet) (v : Qp) : State :=
  let ctxOk := match s.mctx? (pkCtx p) with
    | some c => c.st == .ready && c.qp == p.dstQp
    | none => false
  if (!(pkMatched p) && v.noRq) || ((pkMatched p) && !ctxOk) then s.refuseOut p 7
  else match s.gateEntry p with
    | .missing => s.refuse p 3 0
    | .full => s.refuse p 2 s.matBackoff
    | .there s =>
      match s.msg? p.srcNode p.srcQp p.dstQp p.msn with
      | some m =>
        match s.msgMore m p.offset p.payload with
        | (s, 0) => s.accept p (decide (m.len ≤ m.count + p.payload.length))
        | (s, _) => s.refuse p 7 0
      | none =>
        if s.tableFull (p.dstQp % 4) then s.refuse p 2 s.tenBackoff
        else
          let m := msgOf s p
          match s.gateAdmit m with
          | (s, .taken) => s.accept p (!m.rts && !m.open_)
          | (s, .late) => (s.tally .late).refuse p 7 0
          | (s, .busy) => s.refuse p 2 s.matBackoff
          | (s, .failed) => s.refuse p 7 0

/-! ### Window operations (R112 to R116) -/

/-- A window entry after device reset: FREE, GEN 0 (R108). -/
def winInit : Window :=
  { base := 0, hbm := false, read := false, write := false, atomic := false, anySrc := false, anyQp := false, st := .free,
    gen := 0, len := 0, owner := 0, bindQp := 0, asid := 0, eq := 0, srcNode := 0, srcQp := 0, abandoned := 0, revoke := none,
    quarAt := 0, faultAt := none }

/-- A window entry. -/
def State.win (s : State) (i : Nat) : Window := (s.wins.get? i).getD winInit

/-- The index and the generation of a packet's key (R106). -/
def winIdx (p : Packet) : Nat := bitsOf p.w5 40 24
def winGen (p : Packet) : BitVec 8 := BitVec.ofNat 8 (bitsOf p.w5 32 8)

/-- The operand size of an ATOMIC_REQ. -/
def atomSize (p : Packet) : Nat := if bitAt p.w5 2 then 8 else 4

/-- A closing GET of a transient window (R95). -/
def pkClosing (p : Packet) : Bool := p.type == 4 && p.msgLen == 0 && transient (winIdx p)

/-- The span of an access (Table 5.3, check 5). -/
def pkSpan (p : Packet) : Nat := if p.type = 6 then atomSize p else p.msgLen

/-- AtomicOps are usable on a host port (RMA_CTL): AtomicOp Requester Enable is set in its physical function. -/
def State.atomUsable (s : State) (h : Nat) : Bool := (s.fn (h * 0x800)).atomEn

/-- Checks 1 to 6 of Table 5.3: the NAK reason and the counter of the first that fails. -/
def State.winCheck (s : State) (p : Packet) (v : Qp) : Option (Nat × Nat) :=
  let w := s.win (winIdx p)
  let a := p.w4.toNat
  if w.gen != (winGen p) then some (6, 1)
  else if w.st != .open_ then some (5, 0)
  else if w.owner != v.fn || !(w.anyQp || w.bindQp == p.dstQp) then some (5, 2)
  else if !(w.anySrc || (w.srcNode == p.srcNode && w.srcQp == p.srcQp)) then some (5, 2)
  else if !(if p.type = 3 then w.write else if p.type = 4 then w.read else w.atomic && bitsOf p.w5 0 2 != 3) then some (7, 3)
  else if !(pkClosing p) && (w.len < a || w.len - a < (pkSpan p) || (p.type = 6 && a % (atomSize p) != 0)) then some (7, 4)
  else if p.type = 6 && !w.hbm && !s.atomUsable (fnPort w.owner) then some (7, 5)
  else none

/-- AtomicOps outstanding on a host port (R116). -/
def State.atomsOut (s : State) (h : Nat) : Nat :=
  (s.tra.hreqs.filter fun r => r.2.atom.isSome && fnPort r.2.fn == h && r.2.segs.any fun g => !g.1).length

/-- A refusal by Table 5.3. -/
def State.winRefuse (s : State) (p : Packet) (reason k : Nat) : State :=
  (s.bump (R.RMA_REFUSE k) F.RMA_REFUSE_COUNT 1).refuse p reason 0

/-- Check 7 of Table 5.3 fails: NAK OP and WINDOW_FAULT. -/
def State.winXlate (s : State) (p : Packet) (status off : Nat) : State :=
  (s.windowFault (winIdx p) status off p.srcNode p.srcQp false).winRefuse p 7 6

/-- A PUT packet (R113): placed at REMOTE_ADDR + OFFSET within the window. Payload of a packet that reaches beyond MSG_LEN and the
window's end is not written (DEDUCED, log 16). -/
def State.recvPut (s : State) (p : Packet) (w : Window) : State :=
  let off := p.w4.toNat + p.offset
  let bs := p.payload.take (w.len - off)
  if w.hbm then (s.hbmWrite (w.base + off) bs).accept p false
  else match s.translate w.asid (w.base + off) bs.length
      (aheadOf [{ addr := w.base + p.w4.toNat, len := p.msgLen, hbm := false }] p.offset bs.length) true with
    | (s, .ok ps) => (s.hostPut w.owner ps (s.roFor p.dstQp) bs).accept p false
    | (s, .fail st) => s.winXlate p st off
    | (s, .mark _ _ _) => s.winXlate p St.xlateFault off

/-- The response that a request gets (R71, R114, R115). -/
def respOf (p : Packet) (v : Qp) (base : Nat) (rdv : Option (Nat × Count32)) : Resp :=
  { sp := recvSpace p, psn := p.psn, atomic := p.type == 6, qp := p.dstQp,
    dst := { node := p.srcNode, qp := p.srcQp, gen := p.srcGen }, node := p.node, tc := p.tc, pkey := p.pkey, mtu := v.mtu,
    win := (winIdx p), base := base, len := if p.type = 6 then 0 else p.msgLen, pos := 0, allSent := false, value := 0,
    ready := p.type != 6, rd := none, gone := false, refused := false, rdv := rdv }

/-- The rendezvous job that a transient window serves (R94). -/
def State.rdvOf (s : State) (i : Nat) : Option (Nat × Count32) :=
  match s.ten.qps.get? (s.win i).bindQp with
  | some v => (v.jobs.find? fun j => j.win == some i).map fun j => ((s.win i).bindQp, j.ring)
  | none => none

/-- A closing GET of the discarded form (R95). -/
def pkDiscards (p : Packet) : Bool := pkClosing p && p.w4 == BitVec.allOnes 64

/-- The response that a GET_REQ gets. -/
def State.getResp (s : State) (p : Packet) (v : Qp) : Resp :=
  let i := winIdx p
  let base := if transient i then p.w4.toNat else (s.win i).base + p.w4.toNat
  respOf p v base (if transient i && !pkDiscards p then s.rdvOf i else none)

/-- A response joins its space, under a number that is never used again. -/
def State.addResp (s : State) (r : Resp) : State :=
  { s with tra.tag := s.tra.tag + 1, tra.resps := s.tra.resps.set s.tra.tag r }

/-- A GET_REQ (R114): executed once, and accepted when its first read has been issued (R119) or has failed. A closing GET ends a
rendezvous job as R96 says. -/
def State.recvGet (s : State) (p : Packet) (v : Qp) : State :=
  let i := winIdx p
  let r := s.getResp p v
  let s := s.psnTaken (recvSpace p) p.psn
  let s : State := match (if transient i then s.rdvOf i else none) with
    | some (q, ring) =>
      if pkDiscards p then s.jobFail q ring St.remoteOp
      else if pkClosing p then s.updJob q ring fun j => { j with closing := true }
      else s
    | none => s
  let id := s.tra.tag
  ((s.addResp r).respRead id r 0 (Nat.min r.mtu r.len)).1.accept p false

/-- An ATOMIC_REQ (R115, R116): the operation is issued, on the owner's host port or to the HBM interface. -/
def State.recvAtomic (s : State) (p : Packet) (v : Qp) (w : Window) : State :=
  let a := w.base + p.w4.toNat
  let wide := bitAt p.w5 2
  let op : AtomOp := { aop := bitsOf p.w5 0 2, wide := wide, operand := p.w6, compare := hdrWord3 p }
  let i := s.tra.tag
  let made := fun (s : State) => s.addResp (respOf p v a none)
  if w.hbm then ((made s).issueRead w.owner (.atom i) [(true, a, (atomSize p))] [] (some op)).1.accept p false
  else match s.translate w.asid a (atomSize p) 0 true with
    | (s, .ok ps) =>
      let b := ps.headD { bus := 0, len := 0, attr := 0 }
      let i := s.tra.tag
      let r := (made s).issueRead w.owner (.atom i) [(false, b.bus, (atomSize p))] ps (some op)
      (r.1.emit (.hostAtomic w.owner r.2 b.bus op.aop wide (b.attr == 1 && s.snoopOff w.owner) op.operand op.compare)).accept p false
    | (s, .fail st) => s.winXlate p st p.w4.toNat
    | (s, .mark _ _ _) => s.winXlate p St.xlateFault p.w4.toNat

/-- A PUT, GET_REQ or ATOMIC_REQ at step 6 of R72. -/
def State.recvRma (s : State) (p : Packet) (v : Qp) : State :=
  let w := s.win (winIdx p)
  if (s.fn v.fn).state != 1 && !w.hbm then s.fnDrop v.fn
  else match s.winCheck p v with
    | some (reason, k) => s.winRefuse p reason k
    | none =>
      if p.type = 3 then s.recvPut p w
      else if p.type = 4 then s.recvGet p v
      else s.recvAtomic p v w

/-! ### Responses at the initiator (R114, R115, R121) -/

/-- A request after `n` more of its bytes have been placed. -/
def GetReq.grow (g : GetReq) (n now : Nat) : GetReq := { g with got := g.got + n, last := now }

/-- A response packet for an outstanding request of a job: placed, and with its message whole the request is done. A
destination that no longer translates fails the job XLATE_FAULT. -/
def State.respJob (s : State) (p : Packet) (q : Nat) (v : Qp) (j : Job) (g : GetReq) : State :=
  let bs := if p.type = 7 then bytesOf p.w6 j.len else p.payload
  let off := if p.type = 7 then 0 else p.offset
  let n := bs.length
  match s.placeAt v.asid q (cutSges j.sges g.base g.len) off bs with
  | (s, 0) =>
    let done := decide (g.len ≤ g.got + n)
    let s := s.updJob q j.ring fun j => { j with
      placed := j.placed + n,
      gets := if done then j.gets.filter fun x => x.psn != g.psn else j.gets.map fun x => if x.psn = g.psn then x.grow n s.now else x }
    (s.accept p done).jobCheck q j.ring
  | (s, _) => (s.accept p true).jobFail q j.ring St.xlateFault

/-- A response packet for a rendezvous fetch. -/
def State.respFetch (s : State) (p : Packet) (i : Nat) (f : Fetch) (psn : Psn) : State :=
  -- the receive has ended: the answer is refused (04_matching R79)
  if f.ended then
    let f := { f with outs := f.outs.filter fun x => x.psn != psn, closing := if f.closing.is psn then .done else f.closing }
    ({ s with mat.fetches := s.mat.fetches.set i f }.refuse p 7 0).fetchCheck i
  else if f.closing.is psn then
    ({ s with mat.fetches := s.mat.fetches.set i { f with closing := .done } }.accept p true).fetchCheck i
  else match f.outs.find? fun g => g.psn == psn with
    | none => s.accept p false
    | some g =>
      let n := p.payload.length
      match s.placeAt f.buf.asid f.buf.qp (cutSges f.buf.sges g.base g.len) p.offset p.payload with
      | (s, 0) =>
        let done := decide (g.len ≤ g.got + n)
        let f := { f with
          placed := f.placed + n,
          outs := if done then f.outs.filter fun x => x.psn != psn else f.outs.map fun x => if x.psn = psn then x.grow n s.now else x }
        ({ s with mat.fetches := s.mat.fetches.set i f }.accept p done).fetchCheck i
      | (s, st) => ((s.fetchFail i st).qpFail f.buf.qp st none none).refuse p 7 0

/-- A GET_RESP or ATOMIC_RESP is accepted; one that answers no outstanding request is discarded (R121). -/
def State.recvResp (s : State) (p : Packet) (v : Qp) : State :=
  let psn : Psn := BitVec.ofNat 24 (bitsOf p.w4 0 24)
  let id := recvSpace p
  match v.jobs.find? fun j => jobSpace p.dstQp v j == id && j.status.isNone && (j.op == 6) == (p.type == 7)
      && j.gets.any fun g => g.psn == psn with
  | some j =>
    match j.gets.find? fun g => g.psn == psn with
    | some g => s.respJob p p.dstQp v j g
    | none => s.accept p false
  | none =>
    match (if p.type = 5 then s.mat.fetches.find? fun f => f.2.sp == id && f.2.localQp == p.dstQp
        && (f.2.closing.is psn || f.2.outs.any fun g => g.psn == psn) else none) with
    | some (i, f) => s.respFetch p i f psn
    | none => s.accept p false

/-! ### The whole of R72 -/

/-- Steps 4 to 8 of R72 for a packet with a new PSN. -/
def State.checked (s : State) (p : Packet) : State :=
  let lacks := match s.named p with
    | some v => v.pkey != p.pkey || !(s.fn v.fn).keys.contains p.pkey
    | none => false
  if lacks then s.pkeyRefused p
  else match s.target p with
    | none => s.refuseOut p 3
    | some v =>
      let new := s.fresh p || p.type == 3 || p.type == 4 || p.type == 6
      if v.st = .error then s.refuseOut p 7
      else if new && (v.st = .init || v.st = .draining || s.domState (tenDom p.dstQp) = 3) then s.refuse p 2 s.tenBackoff
      else if (pkSends p) then s.recvSend p v
      else if (pkAnswers p) then s.recvResp p v
      else s.recvRma p v

/-- The classification of R65, for a packet that passed step 2. -/
def State.classified (s : State) (p : Packet) : State :=
  let id := recvSpace p
  match (s.space id).classify p with
  | .dup => (s.tally .dup).ack id p.tc p.pkey
  | .outside => s.tally .window
  | .seq =>
    let e := (s.space id).recvE
    if (s.space id).nakSeq = some e then s
    else (s.nak id p.tc p.pkey e 1 0).updSp id fun q => { q with nakSeq := some e }
  | .new _ => s.checked p

/-- A data packet at its target (R72), from step 2 on. -/
def State.receive (s : State) (p : Packet) : State :=
  let v := s.target p
  let np := s.np p.srcNode
  if !p.node && v.isNone then s.nakStale p
  else if !p.node && v.any (fun v => !v.everReady) then s.tally .noPsn
  else if p.node && !(np.st == .active && np.peerInc == p.inc) then s.tally .inactive
  else match v with
    | some v => if ((pkSends p) || (pkAnswers p)) && (s.fn v.fn).state != 1 then s.fnDrop v.fn else s.classified p
    | none => s.classified p

/-- An ATOMIC_REQ that must wait for an AtomicOp of its host port (R116). -/
def State.atomWaits (s : State) (p : Packet) : Bool :=
  p.type == 6 && !(s.win (winIdx p)).hbm && decide (256 ≤ s.atomsOut (fnPort (s.win (winIdx p)).owner)) && match s.target p with
    | some v => (s.winCheck p v).isNone
    | none => false

/-- A GET_REQ whose first read cannot be issued yet waits (R119): its function may not read, or its host port has no room. -/
def State.getWaits (s : State) (p : Packet) : Bool :=
  p.type == 4 && match s.target p with
    | some v => v.st == .ready && (s.winCheck p v).isNone && match s.respMem (s.getResp p v) with
      | some (fn, _, gs) => needsHost (cutSges gs 0 v.mtu) && (!s.fnReady fn || !s.portRoom fn)
      | none => false
    | none => false

/-- A packet that its unit has taken over waits there: for a domain, for an AtomicOp (R116) or a read (R119), or for the end of a
matching slice's drain (15_power Table 15.2). -/
def State.unitWaits (s : State) (p : Packet) : Bool :=
  (localDoms p).any s.domLater || s.atomWaits p || s.getWaits p || (pkSends p && (recvDoms p).any fun d => decide (73 ≤ d) && s.domState d == 3)

/-- A packet at a local position has not been handed over: one of its ingress and position that is ahead of it must go first
(R10), unless that one waits at its unit for another object. `seen` holds the entries ahead. -/
def State.overtakesIn (s : State) (p : Packet) : List BPkt → List BPkt → Bool
  | _, [] => false
  | seen, b :: bs =>
    if b.pkt = p then
      seen.any fun a => a.ingress == b.ingress && a.egress == b.egress && (!s.unitWaits a.pkt || a.pkt.dstQp == p.dstQp)
    else s.overtakesIn p (b :: seen) bs

/-- A packet would overtake another of its ingress on the way to its unit. -/
def State.overtakes (s : State) (p : Packet) : Bool := s.overtakesIn p [] s.rte.localQ

/-- A packet is handed over to its unit, in its order (R10). -/
def State.handTo (s : State) (p : Packet) (doms : List Nat) (act : State → State) : State :=
  if s.overtakes p then s else s.atDoms p doms act

/-- A packet waits behind an earlier atomic of its queue pair that waits (R116). -/
def State.behindAtomic (s : State) (p : Packet) : Bool :=
  (s.rte.localQ.takeWhile fun b => b.pkt != p).any fun b => b.pkt.type == 6 && b.pkt.dstQp == p.dstQp && s.atomWaits b.pkt

end Sys2Proof.Machine
end

