-- ==== Sys2Proof/Machine/Collectives.lean ====
section
/-! DEFINITION. Collective groups (06_collectives): their commands, their packets, and their timers. -/

namespace Sys2Proof.Machine

open Sys2Proof

/-! ### Groups (R124 to R128) -/

/-- An index that no group uses: FREE, with the GEN of the last one. -/
def grpInit (last : Option (BitVec 8)) : Group :=
  { st := .free, gen := 0, lastGen := last, fn := 0, pkey := 0, asid := 0, bindQp := 0, eq := 0, localN := 0, cwin := 0,
    edges := [], opSeq := 0, op := none, chunks := [], reason := 0, staging := 0, joinAt := 0, destroy := none, quarAt := 0,
    waiting := none }

/-- A group by its index. -/
def State.grp (s : State) (g : Nat) : Group := (s.grps.get? g).getD (grpInit none)

/-- JOIN_INTERVAL in ns (R151). -/
def State.joinT (s : State) : Nat := 1000 * Nat.max 1 (s.rdF R.COL_CTL F.COL_CTL_JOIN_INTERVAL)

/-- CWIN of a new group (R151). -/
def State.cwin (s : State) : Nat := clamp 4 128 (s.rdF R.COL_CTL F.COL_CTL_CWIN)

/-- The words of a tree description (Table 6.1). -/
def treeWord (bs : List Byte) (i : Nat) : Word := wordOfBytes (slice bs (8 * i) 8)

/-- A child edge of a tree description. -/
def treeEdge (w : Word) (up : Bool) (due : Nat) : Edge :=
  { port := bitsOf w 0 7, node := bitsOf w 8 18, up := up, joined := false, sendSeq := 0, limit := 0, recvd := 0, freed := 0,
    granted := 0, sentByPeer := 0, rxDue := due, txDue := due, gapDue := none, peerOp := none }

/-- The edges of a tree description: the parent first, where there is one, then the children in description order. -/
def treeEdges (bs : List Byte) (due : Nat) : List Edge :=
  let w := treeWord bs 0
  (if bitsOf w 0 7 = 127 then [] else [treeEdge w true due])
    ++ (List.range (bitsOf w 26 7)).map fun i => treeEdge (treeWord bs (1 + i)) false due

/-- A port code of an edge: a fabric port, or a span port that the configuration has (R125, R126). -/
def State.treePort (s : State) (p : Nat) : Bool := decide (p < 64) || (decide (p < 67) && s.role p == 4)

/-- A tree description obeys R126. -/
def State.treeOk (s : State) (bs : List Byte) : Bool :=
  let w := treeWord bs 0
  let es := treeEdges bs 0
  let nodes := es.map fun e => e.node
  decide (bitsOf w 26 7 ≤ 64) && !bitAt w 7 && bitsOf w 33 31 == 0 && (bitsOf w 0 7 != 127 || bitsOf w 8 18 == 0)
    && ((List.range (bitsOf w 26 7)).all fun i => !bitAt (treeWord bs (1 + i)) 7 && bitsOf (treeWord bs (1 + i)) 26 38 == 0)
    && (es.all fun e => s.treePort e.port && e.node != s.node) && decide nodes.Nodup

/-- Staging of a group in 4 KiB units (R138). -/
def stagingOf (children cwin : Nat) : Nat := ceilDiv ((children + 2) * cwin * 1536) 4096

/-- Every edge has joined: the group is READY (R127). -/
def State.joinCheck (s : State) (g : Nat) : State :=
  match s.grps.get? g with
  | some v =>
    if v.st = .joining && v.edges.all (·.joined) then
      let s := s.updGrp g fun v => { v with st := .ready }
      (s.eqEvent v.eq (ev 0x0601 0 g v.edges.length 0)).collGo g
    else s
  | none => s

/-- A command on a group is still being carried out (R45, R150). -/
def State.grpBusy (s : State) (g : Nat) : Bool := (s.grp g).destroy.isSome

/-- The bytes of a tree description: word 0 and a word for each child (Table 6.1). -/
def treeLen : FetchedBytes → Nat
  | .bytes bs => 8 + 8 * bitsOf (treeWord bs 0) 26 7
  | .failed _ => 8

/-- CREATE_GROUP (R124 to R127, R138, R154). `tree` is what the read of the description at TREE gives. The first CREDITs go out one
JOIN_INTERVAL after creation: DESIGN CHOICE (log 64). -/
def execCreateGroup (c : AdminCmd) (tree : FetchedBytes) (s : State) : Host.Outcome State Fault Refusal :=
  let w := c.e.w2
  let x := c.e.w3
  let g := bitsOf w 0 16
  let gen := BitVec.ofNat 8 (bitsOf w 16 8)
  let pkey := BitVec.ofNat 16 (bitsOf w 24 16)
  let asid := bitsOf w 40 20
  let bind := bitsOf x 0 21
  let eq := bitsOf x 21 12
  let localN := bitsOf x 33 8
  let used := [(2, ones 0 60), (3, ones 0 41), (4, ones 0 64), (5, 0), (6, 0), (7, 0)]
  .next (s.ringOrder c 0x50 (s.grpBusy g) <| s.asking (.cmd c.fn) fun s => s.adminAt c 0x50 used (colDom g) fun s r =>
    let old := s.grp g
    s.checks r [
      (old.st != .quarantine, St.quarantined),
      (old.st == .free && old.lastGen != some gen, St.malformed),
      (c.e.w4.toNat % 64 == 0 && bitsOf c.e.w4 48 16 == 0, St.malformed),
      (localN == 0 || (match s.ten.qps.get? bind with
        | some v => v.fn == c.fn && v.st != .error && v.st != .quarantine
        | none => false), St.malformed),
      ((match s.ten.eqs.get? eq with
        | some v => v.fn == c.fn
        | none => false), St.malformed),
      ((s.fn c.fn).keys.contains pkey && s.granted c.fn asid, St.malformed)] fun s =>
    s.cmdRead r asid c.e.w4 (treeLen tree) fun s => match tree with
    | .failed st => s.adminDone r st 0
    | .bytes bs =>
      let cwin := s.cwin
      let edges := treeEdges bs (s.now + s.edgeT)
      let staging := stagingOf (bitsOf (treeWord bs 0) 26 7) cwin
      s.checks r [
        (s.treeOk bs && (localN != 0 || edges.any fun e => e.up), St.malformed),
        (decide (s.storeUsed + staging * 64 ≤ s.storeGrains) && s.quotaOk c.fn .group 1, St.access)] fun s =>
      let v : Group := { grpInit (some gen) with
        st := .joining, gen := gen, fn := c.fn, pkey := pkey, asid := asid, bindQp := if localN = 0 then 0 else bind, eq := eq,
        localN := localN, cwin := cwin, edges := edges, staging := staging, joinAt := s.now + s.joinT }
      ({ s with grps := s.grps.set g v }.adminDone r St.ok (w64 staging)).joinCheck g)

/-- DESTROY_GROUP (R150): a live group enters ERROR with reason DESTROYED; the command completes when the flush has ended. -/
def execDestroyGroup (c : AdminCmd) (s : State) : Host.Outcome State Fault Refusal :=
  let g := bitsOf c.e.w2 0 16
  .next (s.ringOrder c 0x51 (s.grpBusy g) <| s.adminAt c 0x51 [(2, ones 0 16), (3, 0), (4, 0), (5, 0), (6, 0), (7, 0)] (colDom g) fun s r =>
    let v := s.grp g
    s.checks r [
      (v.st != .free, St.malformed),
      (v.fn == c.fn, St.access),
      (v.st != .quarantine, St.quarantined),
      (v.destroy.isNone, St.malformed)] fun s =>
    (s.groupError g (s.localCause 6 St.remoteOp)).updGrp g fun v => { v with destroy := some r })

/-- A destroyed group goes into QUARANTINE: its staging is free (R147 step 4, R150). -/
def State.groupGone (s : State) (g : Nat) : State :=
  s.updGrp g fun v => { v with
    st := .quarantine, edges := [], op := none, chunks := [], staging := 0, destroy := none, quarAt := s.now, waiting := none }

/-- GROUP_DESTROY_COMPLETE (R150): the flush of the bound queue pair has written its completions. -/
def execGroupDestroyComplete (group : Nat) (s : State) : Host.Outcome State Fault Refusal :=
  match s.grps.get? group with
  | some v =>
    match v.destroy with
    | some r =>
      let busy := match s.ten.qps.get? v.bindQp with
        | some q => v.localN != 0 && q.st == .error && !s.flushed v.bindQp q
        | none => false
      if s.fatal || busy then .next s else .next ((s.groupGone group).adminDone r St.ok 0)
    | none => .next s
  | none => .next s

/-- STATE of a group (R126). -/
def GrpState.code : GrpState → Nat
  | .free => 0
  | .joining => 1
  | .ready => 2
  | .error => 3
  | .quarantine => 4

/-- QUERY_GROUP (R126). A FREE index has no owner. OP_SEQ is the next operation's: the one after an active one. -/
def execQueryGroup (c : AdminCmd) (s : State) : Host.Outcome State Fault Refusal :=
  let g := bitsOf c.e.w2 0 16
  .next (s.ringOrder c 0x52 (s.grpBusy g) <| s.adminAt c 0x52 [(2, ones 0 16), (3, 0), (4, 0), (5, 0), (6, 0), (7, 0)] (colDom g) fun s r =>
    let v := s.grp g
    s.checks r [(v.st == .free || v.fn == c.fn, St.access)] fun s =>
      s.adminDone r St.ok (w64 (v.st.code + v.gen.toNat * 2 ^ 3 + (v.opSeq + BitVec.ofNat 16 (b2n v.active)).toNat * 2 ^ 11
        + (if v.st = .error then v.reason else 0) * 2 ^ 27 + (v.edges.filter fun e => !e.joined).length * 2 ^ 35)))

/-- GROUP_QUARANTINE_END (R128, R73): the index is FREE; its last GEN stays known until device reset. -/
def execGroupQuarantineEnd (group : Nat) (s : State) : Host.Outcome State Fault Refusal :=
  match s.grps.get? group with
  | some v =>
    if v.st = .quarantine && !s.quarHeld v.fn v.quarAt then
      .next { s.passTo (s.quarEnd v.quarAt) with grps := s.grps.set group (grpInit v.lastGen) }
    else .next s
  | none => .next s

/-- JOIN_INTERVAL_EXPIRY (R127): CREDIT on each edge not yet joined. -/
def execJoinIntervalExpiry (group : Nat) (s : State) : Host.Outcome State Fault Refusal :=
  match s.grps.get? group with
  | some v =>
    if s.fatal || v.st != .joining || !s.domRuns (colDom group) then .next s
    else
      let s := s.passTo v.joinAt
      let s := (v.edges.filter fun e => !e.joined).foldl (fun s e => s.sendCredit group e.node) s
      .next (s.updGrp group fun v => { v with joinAt := s.now + s.joinT })
  | none => .next s

/-! ### Packets (R134 to R138, R145) -/

/-- GROUP, GEN, OP_SEQ, PASS and CHUNK of word 4 (Table 6.6). -/
def pkGroup (p : Packet) : Nat := bitsOf p.w4 0 16
def pkGen (p : Packet) : BitVec 8 := BitVec.ofNat 8 (bitsOf p.w4 16 8)
def pkOpSeq (p : Packet) : BitVec 16 := BitVec.ofNat 16 (bitsOf p.w4 24 16)
def pkPass (p : Packet) : Nat := bitsOf p.w4 40 2
def pkChunk (p : Packet) : Nat := bitsOf p.w4 42 12

/-- A later number modulo 2^16. -/
def later16 (a b : BitVec 16) : Bool := decide (1 ≤ (a - b).toNat) && decide ((a - b).toNat ≤ 0x7FFF)

/-- A discard of kind `k` (R137). -/
def State.collDiscard (s : State) (k : Nat) : State := s.bump (R.COL_DISCARD k) F.COL_DISCARD_COUNT 1

/-- The packets of the far end that have not come although SENT counts them: their timer starts, or ends (R146). -/
def gapOf (due : Nat) (e : Edge) : Edge :=
  { e with gapDue := if later16 e.sentByPeer e.recvd then some (e.gapDue.getD due) else none }

/-- A packet of a group has come from an edge: the edge has joined, and its timer starts again (R127, R146). -/
def State.heard (s : State) (g n : Nat) (p : Packet) : State :=
  (s.updEdge g n fun e => { e with
    joined := true, rxDue := s.now + s.edgeT,
    peerOp := match e.peerOp with
      | some o => if later16 (pkOpSeq p) o then some (pkOpSeq p) else some o
      | none => some (pkOpSeq p) }).joinCheck g

/-- The checks 1 to 4 of R137 on a collective packet; the packet of a live group goes on with its group and edge. -/
def State.collCheck (s : State) (p : Packet) (act : State → Group → Edge → State) : State :=
  if 0x14 ≤ p.type || pkPass p = 3 then s.collDiscard 3
  else match s.grps.get? (pkGroup p) with
    | none => s.collDiscard 0
    | some v =>
      if v.gen != pkGen p || !(v.live || v.st == .error) then s.collDiscard 0
      else if v.st == .error then s
      else if v.pkey != p.pkey then s.collDiscard 1
      else match v.edge? p.srcNode with
        | none => s.collDiscard 2
        | some e => act s v e

/-- A collective packet at its cluster (R18, R137): one of this row's type, or of a reserved type. -/
def State.collRecv (s : State) (p : Packet) (type : Nat) (act : State → Group → Edge → State) : State :=
  if !s.live || (p.type != type && !(0x14 ≤ p.type && p.type ≤ 0x17)) then s
  else s.asking (.coll (pkGroup p)) fun s => s.handTo p [colDom (pkGroup p)] fun s => (s.takeLocal p).collCheck p act

/-- Check 5 of R137 and what of it moves the group to ERROR: the direction, OP_SEQ, the descriptor and EDGE_SEQ. -/
def collFits (v : Group) (e : Edge) (p : Packet) (up : Bool) : Bool :=
  let seq := pkOpSeq p
  let d := descOf p.w5 p.msgLen
  let same := if seq = v.opSeq then (match v.op with
      | some o => o.desc == d
      | none => true)
    else v.chunks.all fun c => !c.next || c.desc == d
  e.up != up && (seq == v.opSeq || seq == v.opSeq + 1) && same && mayNumber (grantOf v e) (BitVec.ofNat 16 (bitsOf p.w5 32 16))

/-- The chunk of an UP or DOWN packet. -/
def chunkOf (v : Group) (e : Edge) (p : Packet) : Chunk :=
  { src := .edge e.node, pass := pkPass p, idx := pkChunk p, bytes := p.payload, count := bitsOf p.w6 0 21,
    next := pkOpSeq p != v.opSeq, desc := descOf p.w5 p.msgLen, put := [], used := false }

/-- A packet of an operation takes its slot: the operation begins here with the first one (R131), and the chunk is held. A child's
DONE is noted; its slot stays until this vertex has sent its own DONE up, or has combined it at the root (R138). -/
def State.collTake (s : State) (g : Nat) (v : Group) (e : Edge) (p : Packet) : State :=
  let c := chunkOf v e p
  let s := s.updEdge g e.node fun e => gapOf (s.now + s.edgeT) { e with recvd := e.recvd + 1 }
  let fresh := !c.next && v.op.isNone
  let s := s.updGrp g fun v => { v with
    chunks := v.chunks ++ [c],
    edges := if fresh && v.localN = 0 then v.edges.map fun e => { e with rxDue := s.now + s.edgeT } else v.edges,
    op := if fresh then some (opInit c.desc (v.localN == 0)) else v.op }
  if c.next then s else s.updOp g fun o => { o with dones := o.dones ++ v.donesIn [c] }

/-- COLL_UP_RECEIVE (R137 to R140). -/
def execCollUpReceive (_ingress : Nat) (p : Packet) (s : State) : Host.Outcome State Fault Refusal :=
  .next (s.collRecv p 0x10 fun s v e =>
    let g := pkGroup p
    if !collFits v e p true then s.groupError g (s.localCause 3 St.remoteOp)
    else ((s.collTake g v e p).heard g e.node p).collGo g)

/-- The DOWN chunks that have done their part free their slots, and the operation goes on. -/
def State.collOn (s : State) (g : Nat) : State :=
  match s.grps.get? g with
  | some v => match v.op with
    | some o => (s.freeDowns g v o).collGo g
    | none => s
  | none => s

/-- COLL_DOWN_RECEIVE (R137 to R140). -/
def execCollDownReceive (_ingress : Nat) (p : Packet) (s : State) : Host.Outcome State Fault Refusal :=
  .next (s.collRecv p 0x11 fun s v e =>
    let g := pkGroup p
    if !collFits v e p false then s.groupError g (s.localCause 3 St.remoteOp)
    else
      let s := s.collTake g v e p
      let s : State := if pkOpSeq p = v.opSeq then s.downNow g v (chunkOf v e p) else s
      (s.heard g e.node p).collOn g)

/-- COLL_CREDIT (R127, R138): the edge joins, LIMIT rises, and SENT shows what has been lost on the way; a TO_PARENT that
disagrees with the description is a MISMATCH. -/
def execCollCredit (_ingress : Nat) (p : Packet) (s : State) : Host.Outcome State Fault Refusal :=
  .next (s.collRecv p 0x12 fun s _ e =>
    let g := pkGroup p
    if bitAt p.w6 32 == e.up then s.groupError g (s.localCause 3 St.remoteOp)
    else
      let limit := BitVec.ofNat 16 (bitsOf p.w6 0 16)
      let sent := BitVec.ofNat 16 (bitsOf p.w6 16 16)
      let s := s.updEdge g e.node fun e => gapOf (s.now + s.edgeT) { e with
        limit := if later16 limit e.limit then limit else e.limit,
        sentByPeer := if later16 sent e.sentByPeer then sent else e.sentByPeer }
      s.heard g e.node p)

/-- COLL_ABORT (R145, R147): the group takes the REASON and the origin, and passes the ABORT on. -/
def execCollAbort (_ingress : Nat) (p : Packet) (s : State) : Host.Outcome State Fault Refusal :=
  .next (s.collRecv p 0x13 fun s _ e =>
    s.groupError (pkGroup p) {
      reason := bitsOf p.w6 0 8, status := St.remoteOp, here := false, node := bitsOf p.w6 8 18, port := bitsOf p.w6 26 7,
      except_ := some e.node })

/-! ### Sending (R138, R139) -/

/-- An UP or DOWN packet leaves on an edge under its credit, with the edge's next EDGE_SEQ. -/
def State.collPacket (s : State) (g : Nat) (v : Group) (e : Edge) (o : CollOp) (w : Owed) : State :=
  let type := if w.up then 0x10 else 0x11
  let s := s.collSend g v e type o.desc.len (collWord4 g v.gen.toNat v.opSeq.toNat w.pass w.idx) (descWord o.desc e.sendSeq)
    (w64 (w.count % 2 ^ 21)) (w.idx * 256) w.bytes
  s.updEdge g e.node fun e => { e with sendSeq := e.sendSeq + 1 }

/-- The UP chunk that the vertex sends next: a DONE that it owes, or a chunk whose contributions are all here. -/
def Group.upDue (v : Group) (o : CollOp) (e : Edge) : Option (Owed × Bool) :=
  match o.owed.find? fun w => w.up with
  | some w => some (w, false)
  | none =>
    if !joinedAll v o then none
    else o.nextUp.findSome? fun x => (v.combined o x.1 x.2).map fun b =>
      ({ node := e.node, up := true, pass := x.1, idx := x.2, bytes := b.1, count := b.2 }, true)

/-- A formed UP chunk has been sent: the next one of its pass is due, and its contributions' slots are free (R138). -/
def State.upSent (s : State) (g : Nat) (v : Group) (w : Owed) : State :=
  ((s.event 0x0601 (g % 2)).updOp g fun o =>
    if w.pass = 0 then { o with expUp := o.expUp + 1 } else { o with dataUp := o.dataUp + 1 }).useParts g v w.pass w.idx

/-- COLL_CHUNK_SEND (R139): the next UP packet to the parent, or the oldest DOWN packet owed to a child, by its place in the
description. -/
def execCollChunkSend (group : Nat) (up : Bool) (child : Nat) (s : State) : Host.Outcome State Fault Refusal :=
  match s.grps.get? group with
  | none => .next s
  | some v =>
    match v.op, (if up then v.edges.find? (·.up) else v.kids[child]?) with
    | some o, some e =>
      if !s.live || v.st != .ready || !s.domRuns (colDom group) || !mayNumber e.limit e.sendSeq then .next s
      else if up then
        match v.upDue o e with
        | none => .next s
        | some (w, formed) =>
          let s := s.collPacket group v e o w
          let s : State := if formed then s.upSent group v w
            else (s.updOp group fun o => { o with owed := o.owed.erase w }).useParts group v 2 0
          .next (s.asking (.coll group) fun s => s.collOn group)
      else
        match o.owed.find? fun w => !w.up && w.node == e.node with
        | none => .next s
        | some w =>
          let s := (s.collPacket group v e o w).updOp group fun o => { o with owed := o.owed.erase w }
          .next (s.asking (.coll group) fun s => s.collOn group)
    | _, _ => .next s

/-! ### Timers (R146) -/

/-- The DOWN packets of the operation that this vertex still awaits from its parent. -/
def Group.downLeft (v : Group) (o : CollOp) : Bool :=
  let got := o.downs + (v.chunks.filter fun c => !c.next && c.pass == 1 && !c.used && v.fromParent c).length
  match o.desc.op with
  | 0 | 2 => !o.doneDown
  | _ => decide (got < o.desc.chunks)

/-- The vertex still owes a packet of the operation on an edge (R146). -/
def Group.owes (_ : Group) (o : CollOp) (e : Edge) : Bool :=
  if e.up then (if o.desc.reduces then decide (o.dataUp < o.desc.chunks) else !o.doneUp) || o.owed.any (·.up)
  else (o.owed.any fun w => !w.up && w.node == e.node)
    || (match o.desc.op with
      | 0 | 2 => !o.doneDown
      | _ => decide (o.downs < o.desc.chunks))

/-- The vertex still needs a packet of the operation on the channel from an edge (R146). -/
def Group.needs (v : Group) (o : CollOp) (e : Edge) : Bool :=
  if e.up then v.downLeft o || (o.desc.slices && decide (o.exps.length < o.desc.chunks))
  else if o.desc.reduces then
    ((List.range o.desc.chunks).drop o.dataUp).any fun i => (v.chunk? (.edge e.node) 1 i).isNone
  else !(o.dones.any fun d => d.1 == e.node)

/-- COLL_KEEPALIVE (R146): CREDIT on each edge on which a packet of the active operation is still owed, EDGE_TIMEOUT / 8 after
the last packet there. -/
def execCollKeepalive (group : Nat) (s : State) : Host.Outcome State Fault Refusal :=
  match s.grps.get? group with
  | some v =>
    match v.op with
    | some o =>
      let es := v.edges.filter fun e => v.owes o e
      match es with
      | [] => .next s
      | e :: _ =>
        if s.fatal || v.st != .ready || !o.active || !s.domRuns (colDom group) then .next s
        else
          let s := s.passTo (es.foldl (fun a e => Nat.min a e.txDue) e.txDue)
          .next ((es.filter fun e => decide (e.txDue ≤ s.now)).foldl (fun s e => s.sendCredit group e.node) s)
    | none => .next s
  | none => .next s

/-- EDGE_TIMEOUT (R146): an awaited channel has been silent, or a channel has had a gap, for EDGE_TIMEOUT. -/
def execEdgeTimeout (group node : Nat) (s : State) : Host.Outcome State Fault Refusal :=
  match s.grps.get? group with
  | some v =>
    match v.op, v.edge? node with
    | some o, some e =>
      let awaited := v.needs o e && match e.peerOp with
        | some n => n == v.opSeq || later16 n v.opSeq
        | none => false
      let due := match e.gapDue with
        | some t => some (if awaited then Nat.min t e.rxDue else t)
        | none => if awaited then some e.rxDue else none
      match due with
      | some t =>
        if s.fatal || v.st != .ready || !o.active || !s.domRuns (colDom group) then .next s
        else
          let s := s.passTo t
          .next (s.groupError group { s.localCause 2 St.remoteOp with port := e.port })
      | none => .next s
    | _, _ => .next s
  | none => .next s

/-- OP_TIMEOUT (R127, R146): the operation, or the first job that waits for the group to join, has been there too long. -/
def execOpTimeout (group : Nat) (s : State) : Host.Outcome State Fault Refusal :=
  match s.grps.get? group with
  | some v =>
    let due := match v.op with
      | some o => if o.jobs.isEmpty then v.waiting.bind id else o.due
      | none => v.waiting.bind id
    match due with
    | some t =>
      if s.fatal || !v.live || !s.domRuns (colDom group) then .next s
      else
        let s := s.passTo t
        .next (s.groupError group (s.localCause 2 St.remoteOp))
    | none => .next s
  | none => .next s

end Sys2Proof.Machine
end

