-- ==== Sys2Proof/Machine/IrcOps.lean ====
section
/-! DEFINITION. Levels, delivery and re-sampling of the interrupt controller (12_host R286 to R290), and the causes of
MSI-X vectors (R283). -/

namespace Sys2Proof.Machine

open Sys2Proof

/-- Some register of `n` elements has a non-zero field. -/
def State.anyF (s : State) (n : Nat) (off : Nat → Nat) (f : Fld) : Bool :=
  (List.range n).any fun i => s.rdF (off i) f != 0

/-- A fault source of class `cls` among 64k to 64k + 63 is pending (R372). -/
def State.pendOf (s : State) (k cls : Nat) : Bool :=
  let w := s.rd (R.FLT_PEND k)
  w != 0 && (List.range 64).any fun i => bitAt w i && fltClass (64 * k + i) == cls

/-- A rule that has never entered. -/
def ruleInit : RuleSt := { arg := 0, lastRec := none, missed := 0 }

/-- The bookkeeping of a rule. -/
def State.rule (s : State) (r : Nat) : RuleSt := (s.pwr.rules.get? r).getD ruleInit

/-- An enabled rule with ACTION INTERRUPT that names the line is ACTIVE (Table 15.4). -/
def State.ruleLine (s : State) (line : Nat) : Bool :=
  (List.range 256).any fun r =>
    let a := s.rd (R.FTH_RULE_A r)
    getF a F.FTH_RULE_A_ACTIVE == 1 && getF a F.FTH_RULE_A_ENABLE == 1 && getF a F.FTH_RULE_A_ACTION == 8
      && (s.rule r).arg.toNat % 16 == line

/-- Level HIGH of the recorder (EVR_STAT.HIGH): USED at or above HIGH_MARK, 0 taken as 1. -/
def State.evrHigh (s : State) : Bool :=
  let m := s.rdF R.EVR_CTL F.EVR_CTL_HIGH_MARK
  decide ((if m = 0 then 1 else m) ≤ s.evr.used)

/-- The level of an interrupt source (Table 12.4, R306, R335, R356, R372, R382, R397); a reserved source is low. -/
def State.ircLevel (s : State) (n : Nat) : Bool :=
  if n = 0x01 then s.rdF R.TOP_ACCESS_ERR F.TOP_ACCESS_ERR_VALID == 1
  else if n = 0x02 then s.rdF R.RTE_DISCARD_LAST F.RTE_DISCARD_LAST_VALID == 1
  else if n = 0x03 then s.rdF R.RTE_EPOCH F.RTE_EPOCH_REJECT == 1
  else if n = 0x04 then s.rdF R.TCS_COMMIT F.TCS_COMMIT_REJECT == 1
  else if n = 0x05 then s.anyF 67 R.LNK_STATE F.LNK_STATE_FAILED
  else if n = 0x06 then s.anyF 256 R.LAN_STAT F.LAN_STAT_WAKE_SEEN
  else if n = 0x07 || n = 0x08 then s.rdF (R.HST_PORT_STAT (n - 0x07)) F.HST_PORT_STAT_CHANGE == 1
  else if n = 0x09 || n = 0x0A then s.anyF 16 (R.HST_VF_FLR (n - 0x09)) F.HST_VF_FLR_DONE
  else if n = 0x0B || n = 0x0C then s.rdF (R.HST_IDE_STAT (n - 0x0B)) F.HST_IDE_STAT_FAIL == 1
  else if 0x40 ≤ n && n ≤ 0x49 then s.pendOf (n - 0x40) 0
  else if 0x50 ≤ n && n ≤ 0x59 then s.pendOf (n - 0x50) 1
  else if n = 0x60 then s.fatal
  else if n = 0x61 then s.rdF R.FLT_STAT F.FLT_STAT_CLR_REFUSED == 1
  else if n = 0x80 then s.rdF R.PWR_REJECT F.PWR_REJECT_VALID == 1
  else if n = 0x81 then s.rdF R.PWR_CLK_STAT F.PWR_CLK_STAT_LOSS != 0
  else if n = 0x82 then s.pwr.guard
  else if n = 0x83 then s.rdF R.FTH_TIME F.FTH_TIME_SRC_CHG == 1
  else if 0x90 ≤ n && n ≤ 0x9F then s.ruleLine (n - 0x90)
  else if n = 0xA0 then s.evrHigh
  else if n = 0xA1 then decide (recSlots ≤ s.evr.used)
  else if n = 0xA2 then s.rdF R.LIF_STAT F.LIF_STAT_INVALID_NEW == 1
  else if n = 0xB0 then s.rdF R.SEM_STAT F.SEM_STAT_ORPHAN_NEW == 1
  else if n = 0xB1 then s.rdF R.SEM_DENY F.SEM_DENY_VALID == 1
  else if n = 0xB8 then s.rdF R.STC_RESULT F.STC_RESULT_VALID == 1
  else if n = 0xB9 then s.rdF R.STC_STAT F.STC_STAT_CMD_DONE == 1
  else if n = 0xC0 then s.rdF R.BOOT_STAT F.BOOT_STAT_UPD_DONE == 1
  else if n = 0xC1 then s.rdF R.BOOT_STAT F.BOOT_STAT_FAILOVER == 1
  else false

/-- PRIORITY of a source. -/
def State.ircPrio (s : State) (n : Nat) : Nat := s.rdF (R.IRC_SRC n) F.IRC_SRC_PRIORITY

/-- Source `n` is claimable by target `t` (R287). -/
def State.claimable (s : State) (t n : Nat) : Bool :=
  decide (s.rdF (R.IRC_TGT t) F.IRC_TGT_THRESHOLD < s.ircPrio n)
    && s.rdF (R.IRC_SRC n) F.IRC_SRC_TARGETS / 2 ^ t % 2 == 1
    && !s.irc.service.contains (t, n) && s.ircLevel n

/-- The claimable source of the highest PRIORITY, the lowest number among equals (R289). -/
def State.ircBest (s : State) (t : Nat) : Option Nat :=
  (List.range 256).foldl (fun b n =>
    if s.claimable t n then
      match b with
      | some m => if s.ircPrio m < s.ircPrio n then some n else b
      | none => some n
    else b) none

/-- The physical function that is target 4 or 5. -/
def tgtFn (t : Nat) : Nat := if t = 4 then 0 else 0x800

/-- Target `t` is open (R288). -/
def State.tgtOpen (s : State) (t : Nat) : Bool :=
  (s.irc.windows.get? t).isNone && (t < 4 ||
    (s.fnReady (tgtFn t) && !(s.fn (tgtFn t)).funcMask
      && (s.fn (tgtFn t)).unmasked.contains (s.rdF (R.IRC_TGT t) F.IRC_TGT_VECTOR)))

/-- A delivery to target `t`; its mask window then runs (R288). -/
def State.ircDeliver (s : State) (t : Nat) : State :=
  let s : State := if t < 4 then s.emit (.coreInterrupt t)
    else s.msix (tgtFn t) (s.rdF (R.IRC_TGT t) F.IRC_TGT_VECTOR)
  let w := s.rdF (R.IRC_TGT t) F.IRC_TGT_WINDOW
  if w = 0 then s
  else { s with irc.windows := s.irc.windows.set t (s.now + 1000 * w) }.wrF (R.IRC_TGT t) F.IRC_TGT_WINDOW_RUN 1

/-- The controller re-samples target `t` and delivers if it is open and has a claimable source (R288). -/
def State.resample (s : State) (t : Nat) : State :=
  if s.tgtOpen t && (s.ircBest t).isSome && !s.fatal then s.ircDeliver t else s

/-- Every in-service mark of a target is cleared and its mask window stops (R290). -/
def State.tgtClear (s : State) (t : Nat) : State :=
  { s with irc.service := s.irc.service.filter (fun p => p.1 != t), irc.windows := s.irc.windows.erase t }.wrF
    (R.IRC_TGT t) F.IRC_TGT_WINDOW_RUN 0

/-- An EQ's cause stands: the event that raised its vector is not yet consumed (R283). -/
def Eq.cause (q : Eq) : Bool :=
  match q.raised with
  | some i => decide ((i - q.cons).toNat < (q.prod - q.cons).toNat)
  | none => false

/-- The cause of a function's vector stands (R283). -/
def State.vecCause (s : State) (f vec : Nat) : Bool :=
  (vec == 0 && (s.fn f).acqProd != (s.fn f).acqCons)
    || s.ten.eqs.any (fun p => p.2.fn == f && p.2.vector == vec && p.2.cause)
    || (isPf f && vec == 2047 && ((s.hst.doe.get? (fnPort f)).getD ⟨false, false, false⟩).pending)
    || (isPf f && s.rdF (R.IRC_TGT (4 + fnPort f)) F.IRC_TGT_VECTOR == vec && (s.ircBest (4 + fnPort f)).isSome)

/-- A vector's pending bit is re-sampled: the message is sent if its cause still stands, and the bit clears (R283). -/
def State.vecResample (s : State) (f vec : Nat) : State :=
  let q := s.fn f
  if q.pend.contains vec && s.fnReady f && !q.funcMask && q.unmasked.contains vec then
    let s := s.setFn f { q with pend := q.pend.filter (· != vec) }
    if s.vecCause f vec then s.msix f vec else s
  else s

end Sys2Proof.Machine
end

