-- ==== Sys2Proof/Machine/Rma.lean ====
section
/-! DEFINITION. Windows (05_remote R106 to R111): opening, revoking, querying and their quarantine. -/

namespace Sys2Proof.Machine

open Sys2Proof

/-- A response has an access to its window in flight (R110): one outstanding, or one still to be issued. -/
def State.inFlight (s : State) (id : Nat) (r : Resp) : Bool := s.respBusy id || (!r.atomic && !r.allSent)

/-- The accesses in flight to a window (R110). -/
def State.winFlight (s : State) (w : Nat) : Nat := (s.tra.resps.filter fun r => r.2.win == w && s.inFlight r.1 r.2).length

/-- The lowest FREE index below the transient range (DESIGN CHOICE, log 25). -/
def State.freeWin (s : State) : Option Nat :=
  let i := firstFree 0 ((s.wins.filter fun w => w.2.st != .free).map Prod.fst)
  if i < transientBase then some i else none

/-- A command on a window is still being carried out (R45, R110). -/
def State.winBusy (s : State) (i : Nat) : Bool := (s.win i).revoke.isSome

/-- OPEN_WINDOW (R108, R109). A BIND_QP in QUARANTINE makes the command MALFORMED, as R109 states for this command, and not
QUARANTINED, as R50 says of every command that names such a queue pair: DESIGN CHOICE (log 19); CREATE_GROUP takes R126 the same
way. -/
def execOpenWindow (c : AdminCmd) (s : State) : Host.Outcome State Fault Refusal :=
  let w := c.e.w2
  let base := bitsOf w 0 48
  let len := bitsOf c.e.w3 0 48
  let hbm := bitAt w 48
  let fixed := bitAt w 63
  let anyQp := bitAt w 53
  let bind := bitsOf c.e.w4 0 21
  let asid := bitsOf c.e.w4 21 20
  let eq := bitsOf c.e.w4 41 12
  let fix := bitsOf c.e.w6 0 24
  let used := [(2, ones 0 54 + ones 63 1), (3, ones 0 48), (4, ones 0 53), (5, ones 0 39), (6, ones 0 24), (7, 0)]
  .next (s.ringOrder c 0x40 (fixed && s.winBusy fix) <| s.admin c 0x40 used fun s r =>
    let old := s.win fix
    s.checks r [
      (!fixed || !(old.st == .revoking || old.st == .quarantine) || transient fix, St.quarantined),
      ((bitAt w 49 || bitAt w 50 || bitAt w 51) && len != 0 && decide (base + len ≤ 2 ^ 48), St.malformed),
      (!hbm || s.hbmOwned c.fn base len, St.malformed),
      (!bitAt w 51 || base % 8 == 0, St.malformed),
      (anyQp || (match s.ten.qps.get? bind with
        | some v => v.fn == c.fn && v.st != .error && v.st != .quarantine
        | none => false), St.malformed),
      ((match s.ten.eqs.get? eq with
        | some v => v.fn == c.fn
        | none => false) && (hbm || s.granted c.fn asid), St.malformed),
      (!fixed || (!transient fix && old.st != .open_), St.malformed),
      ((fixed || s.freeWin.isSome) && s.quotaOk c.fn .window 1, St.access)] fun s =>
      let i := if fixed then fix else s.freeWin.getD 0
      let gen := (s.win i).gen
      let v : Window := {
        base := base, hbm := hbm, read := bitAt w 49, write := bitAt w 50, atomic := bitAt w 51, anySrc := bitAt w 52,
        anyQp := anyQp, st := .open_, gen := gen, len := len, owner := c.fn, bindQp := bind, asid := if hbm then 0 else asid,
        eq := eq, srcNode := bitsOf c.e.w5 0 18, srcQp := bitsOf c.e.w5 18 21, abandoned := 0, revoke := none, quarAt := 0,
        faultAt := none }
      { s with wins := s.wins.set i v }.adminDone r St.ok (w64 (i * 256 + gen.toNat)))

/-- A revoke is taken (R110 steps 1 and 2): GEN advances, and GETs with bytes unsent end with a late NAK. -/
def State.winRevoke (s : State) (i : Nat) (r : Option CmdRef) : State :=
  let e := s.endResps i
  { e.1 with wins := e.1.wins.upd i fun v => { v with
    st := .revoking, gen := v.gen + 1, revoke := r, abandoned := Nat.min 65535 e.2 } }

/-- REVOKE_WINDOW (R109, R110). -/
def execRevokeWindow (c : AdminCmd) (s : State) : Host.Outcome State Fault Refusal :=
  let i := bitsOf c.e.w2 8 24
  .next (s.ringOrder c 0x41 (s.winBusy i) <| s.admin c 0x41 [(2, ones 0 32), (3, 0), (4, 0), (5, 0), (6, 0), (7, 0)] fun s r =>
    let v := s.win i
    s.checks r [
      (!transient i && v.st == .open_, St.malformed),
      (v.owner == c.fn, St.access),
      (v.gen.toNat == bitsOf c.e.w2 0 8, St.malformed)] fun s => s.winRevoke i (some r))

/-- A revoke is over (R110 step 4): QUARANTINE, and the command completes. -/
def State.winClosed (s : State) (i : Nat) (v : Window) : State :=
  let s := { s with
    tra.resps := s.tra.resps.filter fun r => r.2.win != i || r.2.atomic,
    wins := s.wins.set i { v with st := .quarantine, quarAt := s.now, revoke := none } }
  match v.revoke with
  | some r => s.adminDone r St.ok (w64 v.abandoned)
  | none => s

/-- REVOKE_COMPLETE (R110 steps 3 and 4): no access in flight, and every GET_RESP sent acknowledged. -/
def execRevokeComplete (window : Nat) (s : State) : Host.Outcome State Fault Refusal :=
  let v := s.win window
  let waits := s.tra.resps.any fun r => r.2.win == window
    && (s.inFlight r.1 r.2 || (!r.2.atomic && !((s.space r.2.sp).clear (.resp r.1))))
  if s.fatal || v.st != .revoking || waits then .next s else .next (s.winClosed window v)

/-- QUERY_WINDOW (R109). A FREE index has no owner. -/
def execQueryWindow (c : AdminCmd) (s : State) : Host.Outcome State Fault Refusal :=
  let i := bitsOf c.e.w2 0 24
  .next (s.ringOrder c 0x42 (s.winBusy i) <| s.admin c 0x42 [(2, ones 0 24), (3, 0), (4, 0), (5, 0), (6, 0), (7, 0)] fun s r =>
    let v := s.win i
    let code := match v.st with
      | .free => 0
      | .open_ => 1
      | .revoking => 2
      | .quarantine => 3
    s.checks r [(!transient i, St.malformed), (v.st == .free || v.owner == c.fn, St.access)] fun s =>
      s.adminDone r St.ok (w64 (code + v.gen.toNat * 4 + s.winFlight i % 2 ^ 22 * 2 ^ 10)))

/-- WINDOW_QUARANTINE_END (R111, R73): the index is FREE, and keeps its GEN; its other fields go back to their reset values (DESIGN
CHOICE, log 63). -/
def execWindowQuarantineEnd (window : Nat) (s : State) : Host.Outcome State Fault Refusal :=
  match s.wins.get? window with
  | some v =>
    if v.st = .quarantine && !s.quarHeld v.owner v.quarAt then
      .next { s.passTo (s.quarEnd v.quarAt) with wins := s.wins.set window { winInit with gen := v.gen } }
    else .next s
  | none => .next s

end Sys2Proof.Machine
end

