-- ==== Sys2Proof/Machine/WalkOps.lean ====
section
/-! DEFINITION. Walks of page tables (07_translation R154 to R159, R164, R166, R167): the descent, the fill of the cache, how
a walk ends, and what waits for it. -/

namespace Sys2Proof.Machine

open Sys2Proof

/-! ### Capacities (R159, R164, R166) -/

def walkMax : Nat := 64
def tlbWays : Nat := 8
def wcacheMax : Nat := 524288
def trapMax : Nat := 8192

/-! ### What waits for a walk -/

/-- Work that waited for a translation goes on: doorbells that a host port holds, events, copies, collective operations, and messages
that wait for RQ entries. -/
def State.walkResume (s : State) : State :=
  let s := s.serveAllHeld.eqFlushAll.copyRun.collRun
  s.ten.qps.foldl (fun s p => if p.2.rqBuf.isEmpty then s else s.rqRelease p.1) s

/-- MARK_REQUEST of a trap (Table 7.6). -/
def State.markRequest (s : State) (q : Nat) (t : Trap) : State :=
  match s.ten.qps.get? q with
  | some v => s.eqEvent v.eq (ev 0x0701 0 q (t.page * 4096) (t.asid + b2n t.dirty * 2 ^ 20 + t.size * 2 ^ 21))
  | none => s

/-- MARK_TIMEOUT in ns (R173). -/
def State.markTimeout (s : State) : Nat := 1000000 * s.tmr R.XLT_CTL F.XLT_CTL_MARK_TIMEOUT 1 1000

/-- The jobs of a queue pair are no longer paused. -/
def State.unpause (s : State) (q : Nat) : State :=
  s.updQp q fun v => { v with jobs := v.jobs.map fun j => { j with trapped := false } }

/-- Who makes the access that a trap of a queue pair pauses: the paused job, or for a COLL job its group. -/
def State.trapAsker (s : State) (q : Nat) : Asker :=
  match (s.ten.qps.get? q).bind fun v => v.jobs.find? fun j => j.trapped with
  | some j => if j.op = 7 then .coll (bitsOf j.e.w2 0 16) else .job q j.ring
  | none => .none_

/-- The re-walk of a trap has ended (R164 step 4): a mark still lacks and the trap starts anew, or the trap is over and its
access goes on to what the walk found. The RESUMEs that asked for it complete (R170). -/
def State.rewalked (s : State) (q : Nat) (end_ : Option WalkEnd) : State :=
  match s.xlt.traps.find? fun t => t.2.qp == q with
  | none => s
  | some (k, t) =>
    let s : State := match end_ with
      | some (.mark d z) =>
        let t := { t with dirty := d, size := z, since := s.now, due := s.now + s.markTimeout, resume := [] }
        ({ s with xlt.traps := s.xlt.traps.set k t }.event 0x0704 0).markRequest q t
      | some e =>
        let r : WalkReq := {
          asid := t.asid, page := t.page, write := t.write, spec := false, trap := none, who := s.trapAsker q }
        { s with xlt.traps := s.xlt.traps.erase k, xlt.ends := s.xlt.ends ++ [(r, e)] }.unpause q
      | none => { s with xlt.traps := s.xlt.traps.erase k }.unpause q
    t.resume.foldl (fun s r => s.adminDone r St.ok 1) s

/-- A walk is over without a fill: a speculative one is abandoned and counted (R167); the outcome of another waits for the
access that asked for it, if that has not gone meanwhile. -/
def State.walkEnd (s : State) (id : Nat) (r : WalkReq) (e : WalkEnd) : State :=
  let s := { s with xlt.walks := s.xlt.walks.erase id }
  if r.spec then s.bump R.XLT_STAT F.XLT_STAT_SPEC_DROP 1
  else match r.trap with
    | some q => s.rewalked q (some e)
    | none => if r.who = .none_ then s else { s with xlt.ends := s.xlt.ends ++ [(r, e)] }

/-! ### The descent (R154, R159, R166) -/

/-- The index of a program page at a level (Table 7.2). -/
def walkIdx (page level : Nat) : Nat := page / 512 ^ (level - 1) % 512

/-- A walk reads an entry of the table at `addr` on a level, the tables beneath coming from the walk cache where they are
there; every entry's region is checked first. -/
def State.walkDown (s : State) (id : Nat) (w : Walk) (owner : Nat) : Nat → Nat → State
  | 0, _ => s
  | n + 1, addr =>
    let ea := addr + 8 * walkIdx w.req.page (n + 1)
    if s.region (fnPort owner) ea != 1 then s.walkEnd id w.req (.fail St.walkTarget)
    else match s.xlt.wcache.find? fun c => c.asid == w.req.asid && c.level == n && 0 < n && c.pre == w.req.page / 512 ^ n with
      | some c => s.walkDown id w owner n c.addr
      | none =>
        let s := { s with xlt.walks := s.xlt.walks.set id { w with level := n + 1, addr := addr } }
        let tag := s.tra.tag
        ({ s with
          tra.tag := tag + 1,
          tra.hreqs := s.tra.hreqs.set tag { fn := owner, for_ := .walk id, segs := [(false, ea, 8)], reqs := 1, atom := none }
        }.event 0x0802 (fnPort owner)).emit (.walkRead owner tag ea)

/-! ### Entries (R155, R156) -/

/-- An entry with V = 1 is invalid at a level (R156). -/
def pteBad (e : Word) (level : Nat) : Bool :=
  let leaf := level == 1 || bitAt e 2
  bitsOf e 7 5 != 0 || (level == 4 && bitAt e 2)
    || (leaf && (bitsOf e 3 2 == 3 || (level == 2 && bitsOf e 12 9 != 0) || (level == 3 && bitsOf e 12 18 != 0)))

/-- The leaf of an entry for a page at a level. -/
def leafOf (asid page level : Nat) (e : Word) : Leaf :=
  { asid := asid, page := page / 512 ^ (level - 1) * 512 ^ (level - 1), size := level - 1, w := bitAt e 1, attr := bitsOf e 3 2,
    a := bitAt e 5, d := bitAt e 6, dev := false, bus := bitsOf e 12 40 * 4096 }

/-- The set of a leaf in the TLB. -/
def Leaf.set (l : Leaf) : BitVec 14 := Config.tlbSet l.asid l.page l.size

/-- The leaves that the TLB holds, less those of its segments that self-test has retired (R166; 17_self_test R380, log 35). -/
def State.tlbRoom (s : State) : Nat := 131072 - 4096 * s.flt.segs.countP fun u => decide (64 ≤ u)

/-- A leaf enters the TLB (R166). From a set whose 8 ways are taken a leaf leaves that a free value picks (log 25); from a TLB that
has lost segments too, when the rest is full. -/
def State.tlbFill (s : State) (l : Leaf) : State :=
  let rest := s.xlt.tlb.filter fun k => k.asid != l.asid || k.page != l.page || k.size != l.size
  -- fewer than 8 leaves fill no set
  if rest.length < tlbWays then { s with xlt.tlb := l :: rest }
  else if s.tlbRoom ≤ rest.length then
    let free := s.freeVal
    { free.2 with xlt.tlb := l :: rest.eraseIdx (free.1.toNat % rest.length) }
  else
    let ways := rest.filter fun k => k.set == l.set
    if ways.length < tlbWays then { s with xlt.tlb := l :: rest }
    else
      let free := s.freeVal
      { free.2 with xlt.tlb := l :: match ways[free.1.toNat % tlbWays]? with
          | some k => rest.erase k
          | none => rest }

/-- A table entry enters the walk cache (R166); when it is full, one leaves that a free value picks (log 25). -/
def State.wcacheFill (s : State) (c : WalkEnt) : State :=
  if s.xlt.wcache.contains c then s
  else if s.xlt.wcache.length < wcacheMax then { s with xlt.wcache := c :: s.xlt.wcache }
  else
    let free := s.freeVal
    { free.2 with xlt.wcache := c :: s.xlt.wcache.eraseIdx (free.1.toNat % wcacheMax) }

/-- A leaf and the path to it enter the caches. -/
def State.cacheFill (s : State) (l : Leaf) (path : List WalkEnt) : State :=
  path.foldl (fun s c => s.wcacheFill c) (s.tlbFill l)

/-- A walk has found a leaf (R159): the right to write, the region of the page, the marks, and the fill. A walk that an
INVALIDATE has overtaken serves its access alone (R168 step 2). -/
def State.walkLeaf (s : State) (id : Nat) (w : Walk) (owner : Nat) (e : Word) : State :=
  let r := w.req
  let l := leafOf r.asid r.page w.level e
  let bus := l.bus + (r.page - l.page) * 4096
  let reg := s.region (fnPort owner) bus
  if (r.write && !l.w) || reg == 0 || (r.spec && reg != 1) then s.walkEnd id r (.fail St.xlateFault)
  else if !l.a || (r.write && !l.d) then s.walkEnd id r (.mark l.a l.size)
  else
    let l := { l with dev := reg == 2 }
    if w.fills then
      let s := { s with xlt.walks := s.xlt.walks.erase id }.cacheFill l w.path
      match r.trap with
      | some q => s.rewalked q none
      | none => s
    else s.walkEnd id r (.once bus l.attr)

/-- An entry that a walk has read (R155 to R159). -/
def State.walkEntry (s : State) (id : Nat) (w : Walk) (owner : Nat) (e : Word) : State :=
  if !bitAt e 0 then s.walkEnd id w.req (.fail St.xlateFault)
  else if pteBad e w.level then (s.bump R.XLT_STAT F.XLT_STAT_BAD_ENTRY 1).walkEnd id w.req (.fail St.xlateFault)
  else if w.level = 1 || bitAt e 2 then s.walkLeaf id w owner e
  else
    let n := w.level - 1
    let c : WalkEnt := { asid := w.req.asid, level := n, pre := w.req.page / 512 ^ n, addr := bitsOf e 12 40 * 4096 }
    s.walkDown id { w with path := c :: w.path } owner n c.addr

/-- A walk's read ended without its data: WALK_ERROR (R159). -/
def State.walkFail (s : State) (id : Nat) : State :=
  match s.xlt.walks.get? id with
  | some w => (s.walkEnd id w.req (.fail St.walkError)).walkResume
  | none => s

/-- A waiting request starts its walk (R159). -/
def State.walkBegin (s : State) (r : WalkReq) : State :=
  let s := { s with xlt.waiting := s.xlt.waiting.erase r }
  match s.xlt.asids.get? r.asid with
  | none =>
    if r.spec then s.bump R.XLT_STAT F.XLT_STAT_SPEC_DROP 1
    else if r.who = .none_ then s
    else { s with xlt.ends := s.xlt.ends ++ [(r, WalkEnd.fail St.xlateFault)] }.walkResume
  | some a =>
    -- another walk may have filled the cache meanwhile
    if r.trap.isNone && { s with xlt.asker := r.who }.look r.asid r.page r.write != .miss then s.walkResume
    else
      let id := firstFree 0 s.xlt.walks.keys
      let w : Walk := { req := r, level := 4, addr := a.root, fills := true, path := [] }
      let s := { s with xlt.walks := s.xlt.walks.set id w }.walkDown id w a.owner 4 a.root
      if (s.xlt.walks.get? id).isSome then s else s.walkResume

end Sys2Proof.Machine
end

