-- ==== Sys2Proof/Machine/Transport.lean ====
section
/-! DEFINITION. The transport's steps (03_transport): packets sent and received, acknowledgements and NAKs, timers, SYNC
exchanges, flow entries, placements that are abandoned, and the completion of host and HBM accesses (05_remote R114 to R117;
12_host R272). -/

namespace Sys2Proof.Machine

open Sys2Proof

/-! ### Packets -/

/-- TRANSPORT_PACKET_SEND (R64): a job or a response sends its next packet, or reads memory for it. -/
def execTransportPacketSend (what : SendWhat) (s : State) : Host.Outcome State Fault Refusal :=
  match what with
  | .job q ring => .next (s.asking (.job q ring) fun s => s.sendJob q ring)
  | .resp id => .next (s.asking (.resp id) fun s => s.sendResp id)

/-- The types that are not this step's: acknowledgements and SYNC exchanges, span traffic, collectives (Table 3.4). -/
def otherType (t : Nat) : Bool := (decide (8 ≤ t) && decide (t ≤ 0xD)) || (decide (0x10 ≤ t) && decide (t ≤ 0x17))

/-- TRANSPORT_PACKET_RECEIVE (R72). -/
def execTransportPacketReceive (p : Packet) (s : State) : Host.Outcome State Fault Refusal :=
  if !s.live || otherType p.type || s.overtakes p || s.behindAtomic p then .next s
  else if p.type = 0 || 7 < p.type then .next ((s.takeLocal p).tally .type)
  else .next (s.asking (.recv p) fun s => s.handTo p (recvDoms p) fun s =>
    -- presentations wait while a matching slice drains (15_power Table 15.2)
    if s.atomWaits p || s.getWaits p || (pkSends p && (recvDoms p).any fun d => decide (73 ≤ d) && s.domState d == 3) then s
    else ((s.receive p).takeLocal p))

/-! ### Acknowledgements (R66, R67, R68) -/

/-- ACK_DELAY_EXPIRY (R66): ACK_DELAY after the first packet accepted since the last ACK. -/
def execAckDelayExpiry (sp : SpaceId) (s : State) : Host.Outcome State Fault Refusal :=
  let p := s.space sp
  match p.ackAt with
  | some t => if s.fatal || !s.domRuns (spDom sp) then .next s else .next ((s.passTo t).ack sp p.ackTc p.ackPkey)
  | none => .next s

/-- The space that an ACK or NAK acts on (R72): none when it names no CONNECTED queue pair of its generation, or when its
node-pair context is not ACTIVE or of another incarnation. -/
def State.ackSpace (s : State) (p : Packet) : Option SpaceId :=
  if p.node then
    let v := s.np p.srcNode
    if v.st == .active && v.peerInc == p.inc then some (.node p.srcNode) else none
  else match s.ten.qps.get? p.dstQp with
    | some v => if !v.node && v.gen == p.dstGen then some (.conn p.dstQp) else none
    | none => none

/-- The slice that an ACK, NAK or SYNC reaches. -/
def ackDom (p : Packet) : Nat := if p.node then 69 + p.srcNode % 4 else tenDom p.dstQp

/-- ACK_RECEIVE (R67). -/
def execAckReceive (p : Packet) (s : State) : Host.Outcome State Fault Refusal :=
  if !s.live || p.type != 8 then .next s
  else .next (s.handTo p [ackDom p] fun s =>
    let s := s.takeLocal p
    match s.ackSpace p with
    | none => s.tally .ack
    | some id => s.takeAck id p.psn p.w4 (bitsOf p.w5 0 4))

/-- A NAK BUSY (R68): the packet it names waits for its backoff, in the order of the PSNs replaced; also one that an acknowledgement
which overtook the NAK has retired. Its flow has it no longer unacknowledged (R58). -/
def State.busyNak (s : State) (id : SpaceId) (psn : Psn) (backoff : Nat) : State :=
  let s := s.event 0x0404 (spSlice id)
  match s.sentOf id psn with
  | none => s
  | some t =>
    let live : Bool := match t.owner with
      | .resp _ => false
      | o => s.ownerRuns o
    let r : Resend := { sent := { t with busy := some (t.busy.getD s.now), due := false, marked := false },
                        until_ := s.now + 1000 * 2 ^ backoff, ready := false }
    (s.updSp id fun p =>
      let before := fun (x : Resend) => decide (psnDist psn x.sent.psn < 0x800000)
      { p with
        sent := p.sent.filter fun u => u.psn != psn,
        past := p.past.filter fun u => u.psn != psn,
        resends := if live then p.resends.filter before ++ [r] ++ p.resends.filter (fun x => !before x) else p.resends }).quietFlows id [t]

/-- NAK_RECEIVE (R67, R68, R117, R118). Its acknowledgement comes first: what it completes is complete before the refusal fails the
job it names. A NAK STALE with NODE = 0 carries no acknowledgement. -/
def execNakReceive (p : Packet) (s : State) : Host.Outcome State Fault Refusal :=
  if !s.live || p.type != 9 then .next s
  else .next (s.handTo p [ackDom p] fun s =>
    let s := s.takeLocal p
    let reason := bitsOf p.w5 0 8
    match s.ackSpace p with
    | none => s.tally .ack
    | some id =>
      if reason = 0 || 7 < reason then s.tally .nak
      else if reason = 3 && !p.node then s.terminal id p.psn reason
      else
        let a : Psn := BitVec.ofNat 24 (bitsOf p.w6 0 24)
        let cn := bitsOf p.w5 12 4
        if reason = 1 then (s.takeAck id a p.w4 cn).retransmit id fun t => decide (psnDist t.psn p.psn < 0x800000)
        else if reason = 2 then (s.busyNak id p.psn (bitsOf p.w5 8 4)).takeAck id a p.w4 cn
        else s.takeAckBut id a p.w4 cn (s.ownerOf id p.psn) fun s => s.terminal id p.psn reason)

/-! ### Timers (R68, R69) -/

/-- BUSY_BACKOFF_EXPIRY (R68): the refused packet may be sent again; one that needs no read of memory leaves now if the window
has room. -/
def execBusyBackoffExpiry (sp : SpaceId) (psn : Psn) (s : State) : Host.Outcome State Fault Refusal :=
  match (s.space sp).resends.find? fun r => r.sent.psn == psn && !r.ready with
  | some r =>
    if s.fatal || !s.domRuns (spDom sp) then .next s
    else
      let s := (s.passTo r.until_).updSp sp fun p => { p with
        resends := p.resends.map fun x => if x.sent.psn = psn then { x with ready := true } else x }
      .next (s.flushResends sp ((s.space sp).resends.length))
  | none => .next s

/-- RETRANSMIT_TIMEOUT (R69, R74): every unacknowledged packet is sent again, or SYNC is, and RTO doubles; past RETRY_LIMIT the
space, or the exchange, fails. -/
def execRetransmitTimeout (sp : SpaceId) (s : State) : Host.Outcome State Fault Refusal :=
  match (s.space sp).deadline with
  | none => .next s
  | some t =>
    if s.fatal || !s.domRuns (spDom sp) then .next s
    else
      let s := s.passTo t
      let p := s.space sp
      let sync := match sp with
        | .node n => if (s.np n).st = .syncing then some n else none
        | .conn _ => none
      if s.retryLimit < p.retries + 1 then
        match sync with
        | some n => .next (s.syncFail n)
        | none => .next (s.spaceFail sp)
      else
        let rto := Nat.min s.rtoMax (2 * p.rto)
        let s := s.updSp sp fun p => { p with rto := rto, retries := p.retries + 1, deadline := some (s.now + rto) }
        match sync with
        | some n => .next (s.syncPacket n 0x0A (s.np n).syncPsn (s.np n).ownSync)
        | none => .next (s.retransmit sp fun _ => true)

/-- BUSY_LIMIT_EXPIRY (R69): a packet refused BUSY for longer than BUSY_LIMIT fails its job. -/
def execBusyLimitExpiry (sp : SpaceId) (psn : Psn) (s : State) : Host.Outcome State Fault Refusal :=
  let limit := s.rdF R.TEN_XPORT_CTL F.TEN_XPORT_CTL_BUSY_LIMIT
  match (s.space sp).resends.find? fun r => r.sent.psn == psn with
  | some r =>
    match r.sent.busy with
    | some t =>
      if s.fatal || limit = 0 || !s.domRuns (spDom sp) then .next s
      else
        let s := ((s.passTo (t + 1000000 * limit)).updSp sp fun p => { p with
          resends := p.resends.filter fun x => x.sent.psn != psn }).quietFlows sp [r.sent]
        match r.sent.owner with
        | .job q ring => .next (s.jobFail q ring St.retryExceeded)
        | .fetch i => .next (s.fetchFail i St.retryExceeded)
        | .resp _ => .next s
    | none => .next s
  | none => .next s

/-! ### Flow entries (R58) -/

/-- FLOW_ENTRY_RELEASE (R58): a flow without an unacknowledged packet for twice the stale limit gives up its entry. A SEND-type job
that has taken its MSN and has packets yet to send keeps it (DEDUCED, log 60). -/
def execFlowEntryRelease (qp dstNode dstQp : Nat) (s : State) : Host.Outcome State Fault Refusal :=
  let k := flowKey qp dstNode dstQp
  match s.tra.flows.get? k with
  | none => .next s
  | some f =>
    let p := s.space (.node dstNode)
    let mine := fun (h : Packet) => h.srcQp == qp && h.dstQp == dstQp
    let running := match s.ten.qps.get? qp with
      | some v => v.jobs.any fun j => j.status.isNone && (j.op == 1 || j.op == 2) && !j.allSent && j.dst.node == dstNode && j.dst.qp == dstQp
      | none => false
    if s.fatal || !s.domRuns (tenDom qp) || running || (p.sent.any fun t => !t.marked && mine t.hdr)
        || (p.resends.any fun r => mine r.sent.hdr) then .next s
    else .next { s.passTo (f.quiet + 2 * s.staleNs) with tra.flows := s.tra.flows.erase k }

/-! ### SYNC (R74, R91) -/

/-- What a changed incarnation of a node discards (R91): its held messages, of connections too, with their gate entries. -/
def State.newIncarnation (s : State) (n : Nat) : State :=
  let t := s.gateDiscard fun m => m.srcNode == n
  { t with mat.fetches := s.mat.fetches, tra.gates := t.tra.gates.filter fun g => g.1 / 2 ^ 42 != n }

/-- The receive state of a node-pair context set from a SYNC or SYNC_ACK. -/
def State.syncTaken (s : State) (n : Nat) (psn : Psn) (inc : BitVec 16) : State :=
  let s := s.updSp (.node n) fun p => { p with
    recvE := psn, recvMap := 0, accepted := 0, ackAt := none, ackCn := 0, nakSeq := none }
  s.setNp n { s.np n with peerInc := inc, known := true, st := .active }

/-- The jobs of a changed incarnation fail STALE, and the packets of the space are retired (R74 step 2). Responses of which a packet
was not acknowledged are given up with them. -/
def State.staleJobs (s : State) (n : Nat) : State :=
  let id := SpaceId.node n
  let open_ := (s.space id).owed
  let owns := fun (o : Owner) => open_.any fun t => t.owner == o
  (((s.quietFlows id open_).updSp id Space.emptied).jobsFail (jobsOf open_) St.stale).giveUpResps fun i r => r.sp == id && owns (.resp i)

/-- SYNC_RECEIVE (R74 steps 2, 3 and 5). -/
def execSyncReceive (p : Packet) (s : State) : Host.Outcome State Fault Refusal :=
  if !s.live || p.type != 0x0A then .next s
  else .next (s.handTo p [69 + p.srcNode % 4] fun s =>
    let s := s.takeLocal p
    let n := p.srcNode
    let v := s.np n
    let psn : Psn := BitVec.ofNat 24 (bitsOf p.w4 0 24)
    let sid : BitVec 16 := BitVec.ofNat 16 (bitsOf p.w4 24 16)
    let anew := v.st = .idle || !v.known || v.peerInc != p.inc
    let d := (sid - v.syncId).toNat
    if !anew && d = 0 then s.syncPacket n 0x0B v.ackPsn sid
    else if !anew && 0x8000 ≤ d then s
    else
      let changed := v.known && v.peerInc != p.inc
      let s : State := if changed then s.staleJobs n else s
      -- an IDLE context takes a fresh initial PSN; one that syncs keeps that of its own SYNC, an ACTIVE one its send state
      let fresh := s.freshPsn
      let s : State := if v.st = .idle then s.updSp (.node n) fun q => { q with sendNext := fresh, sendUna := fresh } else s
      let s : State := if v.st = .active then s else s.updSp (.node n) fun q => { q with deadline := none, retries := 0 }
      let una := (s.space (.node n)).sendUna
      let s := s.syncTaken n psn p.inc
      let s := s.setNp n { s.np n with syncId := sid, ackPsn := una }
      let s := s.syncPacket n 0x0B una sid
      if changed then s.newIncarnation n else s)

/-- SYNC_ACK_RECEIVE (R74 step 4): only the answer to the latest SYNC counts, and only while the context is SYNCING. -/
def execSyncAckReceive (p : Packet) (s : State) : Host.Outcome State Fault Refusal :=
  if !s.live || p.type != 0x0B then .next s
  else .next (s.handTo p [69 + p.srcNode % 4] fun s =>
    let s := s.takeLocal p
    let n := p.srcNode
    let v := s.np n
    if v.st != .syncing || bitsOf p.w4 24 16 != v.ownSync.toNat then s
    else
      let changed := v.known && v.peerInc != p.inc
      let s := s.updSp (.node n) fun q => { q with deadline := none, retries := 0 }
      let s := s.syncTaken n (BitVec.ofNat 24 (bitsOf p.w4 0 24)) p.inc
      -- no SYNC of this incarnation has been taken yet
      let s : State := if v.known && !changed then s else s.setNp n { s.np n with syncId := 0 }
      if changed then s.newIncarnation n else s)

/-! ### Placements that are abandoned (R431) -/

/-- A SEND-type message in placement is abandoned. -/
def State.msgAbandon (s : State) (m : Msg) : State :=
  let pick := fun (k : Msg) => k.same m.srcNode m.srcQp m.dstQp m.msn && k.open_ && !k.rts
  match m.at_ with
  | .placing _ rcv => (s.dropMsgs pick).recvDone m rcv m.count St.incomplete
  | .held => ((s.ungate pick).discardMsgs pick).gateLoop m.node m.srcNode m.srcQp m.dstQp
  | .unexpected => s.discardMsgs pick

/-- A response that no longer grows fails the request it answers. -/
def State.respAbandon (s : State) (sp : SpaceId) (psn : Psn) : State :=
  match s.mat.fetches.find? fun f => f.2.sp == sp && (f.2.outs.any (fun g => g.psn == psn) || f.2.closing.is psn) with
  | some (i, _) => s.fetchFail i St.remoteOp
  | none =>
    match s.ten.qps.findSome? fun q => (q.2.jobs.find? fun j =>
        jobSpace q.1 q.2 j == sp && j.status.isNone && j.gets.any fun g => g.psn == psn).map fun j => (q.1, j.ring) with
    | some (q, ring) => s.jobFail q ring St.remoteOp
    | none => s

/-- The time at which an outstanding request's response last grew. -/
def State.respLast (s : State) (sp : SpaceId) (psn : Psn) : Option Nat :=
  let ofGets := fun (gs : List GetReq) => (gs.find? fun g => g.psn == psn).map fun g => g.last
  let ofClosing := fun (c : Closing) => match c with
    | .sent p t => if p = psn then some t else none
    | _ => none
  match s.mat.fetches.findSome? fun f => if f.2.sp == sp then (ofGets f.2.outs).or (ofClosing f.2.closing) else none with
  | some t => some t
  | none => s.ten.qps.findSome? fun q => q.2.jobs.findSome? fun j =>
      if jobSpace q.1 q.2 j == sp && j.status.isNone then ofGets j.gets else none

/-- PLACEMENT_ABANDON (R431): a message whose count has not grown for GATE_HOLD. -/
def execPlacementAbandon (m : MsgId) (s : State) : Host.Outcome State Fault Refusal :=
  if s.fatal then .next s
  else match m with
    | .send srcNode srcQp dstQp msn =>
      match s.msg? srcNode srcQp dstQp msn with
      | some k =>
        if !s.domRuns (tenDom dstQp) then .next s
        else
          let s := s.passTo (k.since + s.gateHold)
          .next (s.asking (.held dstQp) fun s => s.msgAbandon k)
      | none => .next s
    | .resp sp psn =>
      match s.respLast sp psn with
      | some t =>
        if !s.domRuns (spDom sp) then .next s
        else .next ((s.passTo (t + s.gateHold)).respAbandon sp psn)
      | none => .next s

/-! ### Host and HBM accesses end (R114, R116, R361; 12_host R272) -/

/-- The bytes of a read are here: they fill the buffer that waits for this very read. -/
def State.readDone (s : State) (tag : Nat) (r : HReq) (data : List Byte) : State :=
  let bs := s.gather r.segs data
  let fill := fun (b : Option ReadBuf) => b.map fun b => if b.tag = some tag then { b with tag := none, bytes := bs } else b
  match r.for_ with
  | .job q ring => match (s.ten.qps.get? q).bind fun v => (v.jobs ++ v.ghosts).find? fun j => j.ring == ring with
    | some j => s.setRd q ring (fill j.rd)
    | none => s
  | .copy q ring => s.copyData q ring bs
  | .resp i => { s with tra.resps := s.tra.resps.upd i fun r => { r with rd := fill r.rd } }.respCheck i
  | .coll g ring pass idx => s.collData g ring pass idx bs
  | .walk _ => s
  | .atom _ => s
  | .dead => s

/-- A read, or an AtomicOp, ended without its data: what it was for fails (R114, R116, R361). -/
def State.readFail (s : State) (r : HReq) : State :=
  match r.for_ with
  | .job q ring => (s.setRd q ring none).jobFail q ring St.xlateFault
  | .copy q ring => (s.updJob q ring fun j => { j with rd := none }).jobFail q ring St.xlateFault
  | .resp i => match s.tra.resps.get? i with
    | some v =>
      if v.gone then { s with tra.resps := s.tra.resps.set i { v with rd := none } }.respCheck i
      else s.respFail i (if v.rdv.isSome then St.xlateFault else St.remoteOp) ((v.rd.map (·.off)).getD v.pos)
    | none => s
  | .atom i => match s.tra.resps.get? i with
    | some v => if v.gone then s.respCheck i else s.respFail i St.remoteOp 0
    | none => s
  | .coll g ring _ _ => match s.grps.get? g with
    | some v => s.collLocalFail g v.bindQp ring St.xlateFault
    | none => s
  | .walk id => s.walkFail id
  | .dead => s

/-- The fault source of a host port for the end of a request (Table 16.2): 2 timeout, 3 poisoned, 4 UR or CA. -/
def State.hostFault (s : State) (r : HReq) (k : Nat) : State :=
  let a := match r.segs.find? fun g => !g.1 with
    | some g => g.2.1
    | none => 0
  s.ucRaise (0x150 + 6 * fnPort r.fn + k) r.fn (w64 a) false

/-- The host bytes that a read waits for. -/
def HReq.hostLen (r : HReq) : Nat := r.segs.foldl (fun a g => if g.1 then a else a + g.2.2) 0

/-- The fault source of a completion's status. -/
def statusSrc (st : HostStatus) : Nat := match st with
  | .poisoned => 3
  | _ => 4

/-- A request that a walk made ends in WALK_READ_COMPLETE. -/
def HReq.ofWalk (r : HReq) : Bool := match r.for_ with
  | .walk _ => true
  | _ => false

/-- A request leaves the list of those outstanding. -/
def State.dropReq (s : State) (tag : Nat) : State := { s with tra.hreqs := s.tra.hreqs.erase tag }

/-- HOST_READ_COMPLETE (R114; 12_host R272): the completion of a read, with all its bytes, or without data. -/
def execHostReadComplete (tag : Nat) (status : HostStatus) (data : List Byte) (s : State) : Host.Outcome State Fault Refusal :=
  match s.tra.hreqs.get? tag with
  | none => .next s
  | some r =>
    if s.fatal || !s.linkSecure r.fn || r.ofWalk || r.atom.isSome || r.hostLen = 0
        || (status == .ok && data.length != r.hostLen) then .next s
    else
      let t := s.dropReq tag
      -- a completion for a function that was forced out is discarded without a report (12_host R280)
      if r.for_ == .dead then .next t
      else if status = .ok then .next (t.readDone tag r data)
      else .next ((t.hostFault r (statusSrc status)).readFail r)

/-- HOST_ATOMICOP_COMPLETE (R116): the old value is the answer; UR, CA or poisoned data end the atomic with a late NAK OP. -/
def execHostAtomicopComplete (tag : Nat) (status : HostStatus) (old : Word) (s : State) : Host.Outcome State Fault Refusal :=
  match s.tra.hreqs.get? tag with
  | none => .next s
  | some r =>
    match r.atom with
    | none => .next s
    | some op =>
      if s.fatal || !s.linkSecure r.fn || r.hostLen = 0 then .next s
      else
        let t := s.dropReq tag
        match r.for_ with
        | .atom i =>
          if status = .ok then
            .next ({ t with tra.resps := t.tra.resps.upd i fun v => { v with
              value := if op.wide then old else w64 (bitsOf old 0 32), ready := true } }.respCheck i)
          else .next ((t.hostFault r (statusSrc status)).readFail r)
        | _ => .next t

/-- HOST_COMPLETION_TIMEOUT (R272, R361): the request is over without its completion. -/
def execHostCompletionTimeout (tag : Nat) (s : State) : Host.Outcome State Fault Refusal :=
  match s.tra.hreqs.get? tag with
  | none => .next s
  | some r =>
    if s.fatal || r.hostLen = 0 then .next s
    else if r.for_ == .dead then .next (s.dropReq tag)
    else .next (((s.dropReq tag).hostFault r 2).readFail r)

/-- The new value of an atomic (Table 5.4). -/
def atomNew (op : AtomOp) (old : Nat) : Nat :=
  let m := if op.wide then 2 ^ 64 else 2 ^ 32
  match op.aop with
  | 0 => (old + op.operand.toNat) % m
  | 1 => op.operand.toNat % m
  | _ => if old = op.compare.toNat % m then op.operand.toNat % m else old

/-- HBM_ACCESS_COMPLETE (R116): a read that needs HBM alone has its bytes; an atomic is executed, whole. -/
def execHbmAccessComplete (tag : Nat) (s : State) : Host.Outcome State Fault Refusal :=
  match s.tra.hreqs.get? tag with
  | none => .next s
  | some r =>
    if s.fatal || r.hostLen != 0 || r.ofWalk then .next s
    else
      let t := s.dropReq tag
      match r.atom, r.segs with
      | some op, g :: _ =>
        let old := natOfBytes (t.hbmRead g.2.1 g.2.2)
        let t := t.hbmWrite g.2.1 (bytesOf (w64 (atomNew op old)) g.2.2)
        match r.for_ with
        | .atom i => .next ({ t with tra.resps := t.tra.resps.upd i fun v => { v with value := w64 old, ready := true } }.respCheck i)
        | _ => .next t
      | _, _ => .next (t.readDone tag r [])

end Sys2Proof.Machine
end

