-- ==== Sys2Proof/Machine/Xlt.lean ====
section
/-! DEFINITION. Address spaces, invalidation, walks and mark traps as the block's own steps (07_translation R152, R153, R159,
R164 to R170). -/

namespace Sys2Proof.Machine

open Sys2Proof

/-! ### Address spaces (R152, R153) -/

/-- An address space that a command names: not there MALFORMED, another owner's ACCESS (R152). -/
def State.ownAsid (s : State) (r : CmdRef) (asid : Nat) (body : State → Asid → State) : State :=
  match s.xlt.asids.get? asid with
  | none => s.adminDone r St.malformed 0
  | some a => if a.owner != r.fn then s.adminDone r St.access 0 else body s a

/-- CREATE_ASID (R152, R153). -/
def execCreateAsid (c : AdminCmd) (s : State) : Host.Outcome State Fault Refusal :=
  let fixed := bitAt c.e.w2 63
  let want := bitsOf c.e.w3 0 20
  let vf := bitsOf c.e.w3 20 11
  let used := [(2, ones 12 40 + ones 63 1), (3, ones 0 31), (4, 0), (5, 0), (6, 0), (7, 0)]
  .next (s.adminAt c 0x60 used xltDom fun s r =>
    let free := firstFree 1 s.xlt.asids.keys
    s.checks r [
      (vf == 0 || (isPf c.fn && decide (vf ≤ 1024)), St.malformed),
      (!fixed || (want != 0 && (s.xlt.asids.get? want).isNone), St.malformed),
      (fixed || decide (free < 2 ^ 20), St.access),
      (s.quotaOk c.fn .asid 1, St.access)] fun s =>
    let i := if fixed then want else free
    let a : Asid := { root := bitsOf c.e.w2 12 40 * 4096, owner := c.fn, grant := c.fn + vf }
    { s with xlt.asids := s.xlt.asids.set i a }.adminDone r St.ok (w64 i))

/-- An object is bound to an address space (R152, Table 7.1). -/
def State.asidBound (s : State) (i : Nat) : Bool :=
  (s.ten.qps.any fun q => q.2.asid == i && q.2.st != .quarantine)
    || (s.ten.cqs.any fun q => q.2.asid == i)
    || (s.ten.eqs.any fun q => q.2.asid == i)
    || (s.wins.any fun w => w.2.asid == i && (w.2.st == .open_ || w.2.st == .revoking))
    || (s.grps.any fun g => g.2.asid == i && g.2.st != .free && g.2.st != .quarantine)

/-- The cached translations of the pages `[lo, hi)` of an address space, and the table entries that lead to them, leave the
caches; its walks in progress fill nothing (R168 steps 1 and 2). -/
def State.uncache (s : State) (asid lo hi : Nat) : State :=
  { s with
    xlt.tlb := s.xlt.tlb.filter fun l => l.asid != asid || decide (hi ≤ l.page) || decide (l.page + 512 ^ l.size ≤ lo),
    xlt.wcache := s.xlt.wcache.filter fun c =>
      c.asid != asid || decide (hi ≤ c.pre * 512 ^ c.level) || decide ((c.pre + 1) * 512 ^ c.level ≤ lo),
    xlt.walks := s.xlt.walks.map fun w => if w.2.req.asid = asid then (w.1, { w.2 with fills := false }) else w }

/-- An INVALIDATE or MODIFY_ASID of an address space is still being carried out (R45, R168). -/
def State.asidBusy (s : State) (i : Nat) : Bool := (s.xlt.invals.get? i).isSome

/-- An address space goes: the cache is emptied of it, and its walks are dropped (R153). -/
def State.asidGone (s : State) (i : Nat) : State :=
  let mine := s.xlt.walks.filter fun w => w.2.req.asid == i
  let s := s.uncache i 0 (2 ^ 36)
  { s with
    xlt.asids := s.xlt.asids.erase i,
    xlt.invals := s.xlt.invals.erase i,
    xlt.waiting := s.xlt.waiting.filter fun r => r.asid != i,
    xlt.ends := s.xlt.ends.filter fun e => e.1.asid != i,
    xlt.walks := s.xlt.walks.filter fun w => w.2.req.asid != i,
    tra.hreqs := s.tra.hreqs.map fun h => match h.2.for_ with
      | .walk id => if mine.any (fun w => w.1 == id) then (h.1, { h.2 with for_ := .dead }) else h
      | _ => h }

/-- DESTROY_ASID (Table 7.1). -/
def execDestroyAsid (c : AdminCmd) (s : State) : Host.Outcome State Fault Refusal :=
  let i := bitsOf c.e.w2 0 20
  .next (s.ringOrder c 0x62 (s.asidBusy i) <| s.adminAt c 0x62 [(2, ones 0 20), (3, 0), (4, 0), (5, 0), (6, 0), (7, 0)] xltDom fun s r =>
    s.ownAsid r i fun s _ =>
      s.checks r [(!s.asidBound i, St.malformed)] fun s => (s.asidGone i).adminDone r St.ok 0)

/-- A range is invalidated, and the command waits (R168). -/
def State.invalidate (s : State) (asid lo hi : Nat) (r : CmdRef) : State :=
  let s := s.uncache asid lo hi
  { s with xlt.invals := s.xlt.invals.set asid (((s.xlt.invals.get? asid).getD []) ++ [r]) }

/-- MODIFY_ASID (R168): the root is replaced, and the whole address space invalidated. -/
def execModifyAsid (c : AdminCmd) (s : State) : Host.Outcome State Fault Refusal :=
  let i := bitsOf c.e.w2 0 20
  .next (s.adminAt c 0x61 [(2, ones 0 20), (3, ones 12 40), (4, 0), (5, 0), (6, 0), (7, 0)] xltDom fun s r =>
    s.ownAsid r i fun s a =>
      { s with xlt.asids := s.xlt.asids.set i { a with root := bitsOf c.e.w3 12 40 * 4096 } }.invalidate i 0 (2 ^ 36) r)

/-- INVALIDATE (R153, R168). -/
def execInvalidate (c : AdminCmd) (s : State) : Host.Outcome State Fault Refusal :=
  let i := bitsOf c.e.w2 0 20
  let all := bitAt c.e.w2 20
  let lo := bitsOf c.e.w3 12 36
  let n := bitsOf c.e.w4 0 37
  .next (s.adminAt c 0x63 [(2, ones 0 21), (3, ones 12 36), (4, ones 0 37), (5, 0), (6, 0), (7, 0)] xltDom fun s r =>
    s.ownAsid r i fun s _ =>
      s.checks r [(all || (decide (1 ≤ n) && decide (n ≤ 2 ^ 36) && decide (lo + n ≤ 2 ^ 36)), St.malformed)] fun s =>
      if all then s.invalidate i 0 (2 ^ 36) r else s.invalidate i lo (lo + n) r)

/-- INVALIDATE_COMPLETE (R168 steps 4 and 5): no walk that the invalidation overtook is left, and what such a walk found its access
has used. -/
def execInvalidateComplete (asid : Nat) (s : State) : Host.Outcome State Fault Refusal :=
  match s.xlt.invals.get? asid with
  | none => .next s
  | some rs =>
    if s.fatal || (s.xlt.walks.any fun w => w.2.req.asid == asid && !w.2.fills)
        || (s.xlt.ends.any fun e => e.1.asid == asid && e.2 matches .once _ _) then .next s
    else .next (rs.foldl (fun s r => s.adminDone r St.ok 0) { s with xlt.invals := s.xlt.invals.erase asid })

/-! ### Walks (R159) -/

/-- WALK_START (R159): the oldest request whose walk may start: its owner is READY, and a walker is free. -/
def execWalkStart (s : State) : Host.Outcome State Fault Refusal :=
  let may := fun (r : WalkReq) => match s.xlt.asids.get? r.asid with
    | some a => s.fnReady a.owner && s.portRoom a.owner
    | none => true
  match s.xlt.waiting.find? may with
  | none => .next s
  | some r => if s.fatal || !s.domRuns xltDom || walkMax ≤ s.xlt.walks.length then .next s else .next (s.walkBegin r)

/-- WALK_READ_COMPLETE (R159): the entry that a walk's read gave, or how the read failed. -/
def execWalkReadComplete (walk : Nat) (status : HostStatus) (entry : Word) (s : State) : Host.Outcome State Fault Refusal :=
  match s.tra.hreqs.find? fun h => h.2.for_ == .walk walk with
  | none => .next s
  | some (tag, h) =>
    if s.fatal || (h.segs.any (fun g => !g.1) && !s.linkSecure h.fn) then .next s
    else
      let s := s.dropReq tag
      if status = .ok then
        match s.xlt.walks.get? walk with
        | some w =>
          let s := s.walkEntry walk w h.fn entry
          .next (if (s.xlt.walks.get? walk).isSome then s else s.walkResume)
        | none => .next s
      else .next ((s.hostFault h (statusSrc status)).walkFail walk)

/-! ### Mark traps (R164, R165, R170) -/

/-- TRAP_START (R164 step 2): a trap slot is taken and MARK_REQUEST written. -/
def execTrapStart (qp : Nat) (s : State) : Host.Outcome State Fault Refusal :=
  match s.xlt.trapWait.get? qp with
  | none => .next s
  | some t =>
    if s.fatal || trapMax ≤ s.xlt.traps.length then .next s
    else
      let k := firstFree 0 s.xlt.traps.keys
      let v : Trap := {
        qp := qp, asid := t.asid, page := t.page, write := t.write, dirty := t.dirty, size := t.size,
        since := s.now, due := s.now + s.markTimeout, resume := [] }
      let s := { s with xlt.trapWait := s.xlt.trapWait.erase qp, xlt.traps := s.xlt.traps.set k v }
      .next ((s.event 0x0704 0).markRequest qp v)

/-- The job that a trap has paused fails (R165; for a COLL job, its group with it). -/
def State.trapFail (s : State) (q : Nat) (status : Nat) : State :=
  match s.ten.qps.get? q with
  | none => s
  | some v =>
    match v.jobs.find? fun j => j.trapped with
    | some j => if j.op = 7 then s.collLocalFail (bitsOf j.e.w2 0 16) q j.ring status else s.jobFail q j.ring status
    | none => s

/-- MARK_TIMEOUT (R165): no RESUME has come in time. -/
def execMarkTimeout (qp : Nat) (s : State) : Host.Outcome State Fault Refusal :=
  match s.xlt.traps.find? fun t => t.2.qp == qp with
  | none => .next s
  | some (k, t) =>
    if s.fatal || !t.resume.isEmpty then .next s
    else
      let s := { s with xlt.traps := s.xlt.traps.erase k }
      .next ((s.passTo t.due).trapFail qp St.markTimeout)

/-- RESUME (R164, R170): the trap's leaf leaves the cache and its walk is asked for again; or, with ABORT, the job fails. -/
def execResume (c : AdminCmd) (s : State) : Host.Outcome State Fault Refusal :=
  let q := bitsOf c.e.w2 0 21
  .next (s.ringOrder c 0x64 (s.qpBusy q) <| s.adminAt c 0x64 [(2, ones 0 21 + ones 32 1), (3, 0), (4, 0), (5, 0), (6, 0), (7, 0)] xltDom fun s r =>
    s.withQp r q fun s _ =>
      match s.xlt.traps.find? fun t => t.2.qp == q with
      | none => s.adminDone r St.ok 0
      | some (k, t) =>
        if bitAt c.e.w2 32 then (s.trapFail q St.xlateFault).adminDone r St.ok 1
        else
          let s := { s with
            xlt.tlb := s.xlt.tlb.filter fun l => !l.covers t.asid t.page,
            xlt.traps := s.xlt.traps.set k { t with resume := t.resume ++ [r] } }
          let w : WalkReq := { asid := t.asid, page := t.page, write := t.write, spec := false, trap := some q, who := .none_ }
          s.askWalks [w])

end Sys2Proof.Machine
end

