-- ==== Sys2Proof/Machine/HostOps.lean ====
section
/-! DEFINITION. Reset drains of host functions (12_host R279 to R282), what follows a function's becoming READY, and the state of
a host port's link. -/

namespace Sys2Proof.Machine

open Sys2Proof

/-! ### Closing a function's objects (R280 step 3) -/

/-- A queue pair of a draining function: its groups fail DESTROYED, its work is flushed without completions, and it goes into
QUARANTINE. -/
def State.closeQp (s : State) (q : Nat) : State :=
  match s.ten.qps.get? q with
  | none => s
  | some v =>
    if v.st = .quarantine then s
    else
      let s := s.grps.foldl (fun s g => if g.2.bindQp == q && g.2.live && 0 < g.2.localN then
        s.groupMark g.1 (s.localCause 6 St.remoteOp) else s) s
      let s := s.qpFail q St.flushed none none
      let s := s.updQp q fun v => { v with
        jobs := [], sqNext := v.sqProd, sqCons := v.sqProd, rqBuf := [], rqCons := v.rqProd, uncov := 0, lastJob := none,
        flushCause := none }
      s.qpQuarantine q

/-- A command whose function has been reset completes nowhere. -/
def CmdRef.orphan (f : Nat) (r : CmdRef) : CmdRef := if r.fn = f then { r with fn := 0xFFF } else r

/-- The function that sent a doorbell or a ring-aperture write. -/
def heldFn : Instr → Option Nat
  | .doorbellSqProducer fn _ _ _ => some fn
  | .doorbellRqProducer fn _ _ _ _ => some fn
  | .ringApertureWrite fn _ _ => some fn
  | _ => none

/-- The commands of a function that are still in hand are completed by none. -/
def State.orphanCmds (s : State) (f : Nat) : State :=
  { s with
    evr.clearing := s.evr.clearing.map fun c => (c.1.orphan f, c.2),
    boot.updates := s.boot.updates.map fun u => (u.1, { u.2 with running := u.2.running.map (CmdRef.orphan f) }) }

/-- Every object of a function is closed (R280 step 3). -/
def State.closeFn (s : State) (f : Nat) : State :=
  let s := s.ten.qps.foldl (fun s p => if p.2.fn = f then s.closeQp p.1 else s) s
  let s := s.wins.foldl (fun s w => if w.2.owner = f && w.2.st = .open_ then s.winRevoke w.1 none else s) s
  let s := s.mat.ctxs.foldl (fun s c => if c.2.fn = f then s.mctxDestroy c.1 else s) s
  let s := s.grps.foldl (fun s g =>
    if g.2.fn = f && (g.2.live || g.2.st = .error) then (s.groupError g.1 (s.localCause 6 St.remoteOp)).groupGone g.1 else s) s
  let s := s.ten.cqs.foldl (fun s c => if c.2.fn = f then s.cqDrop c.1 c.2 else s) s
  let s := s.ten.eqs.foldl (fun s e => if e.2.fn = f then s.eqDrop e.1 e.2 else s) s
  let s := s.xlt.asids.foldl (fun s a => if a.2.owner = f then s.asidGone a.1 else s) s
  let s := s.orphanCmds f
  let s := { s with
    ten.allocs := s.ten.allocs.filter fun a => a.fn != f,
    hst.heldDb := s.hst.heldDb.filter fun i => heldFn i != some f }
  let s := (s.wrF (R.TEN_ADMIN_SQ f) F.TEN_ADMIN_SQ_ENABLE 0).wrF (R.TEN_ADMIN_CQ f) F.TEN_ADMIN_CQ_ENABLE 0
  s.setFn f { s.fn f with keys := [], acqWait := [], running := 0 }

/-! ### The start and the end of a drain (R280 to R282) -/

/-- The virtual functions of a port that have been in use (VF Enable and NumVFs are fields of configuration space, which no
command of the table writes: DESIGN CHOICE, log 30). -/
def State.vfs (s : State) (host : Nat) : List Nat :=
  s.ten.fns.keys.filter fun f => fnPort f == host && !isPf f && fnOk f

/-- A function's configuration space takes its reset values (R280 step 1). -/
def State.configReset (s : State) (f : Nat) : State :=
  (s.setFn f { s.fn f with
    bme := false, atomEn := false, devCtl := devCtlReset, held := false, unmasked := [], funcMask := false, pend := [], asqHeld := false, acqHeld := false }).emit
    (.configReset f)

/-- An exchange of a port's mailbox is aborted (R285). -/
def State.doeAbort (s : State) (host : Nat) : State := { s with hst.doe := s.hst.doe.erase host }

/-- A reset drain of one function starts (R280 steps 1 to 3); a further reset event clears held enables only (R282). -/
def State.drainOne (s : State) (f cause : Nat) : State :=
  let v := s.fn f
  if v.drain.isSome then
    ((s.configReset f).wrF (R.TEN_ADMIN_SQ f) F.TEN_ADMIN_SQ_ENABLE 0).wrF (R.TEN_ADMIN_CQ f) F.TEN_ADMIN_CQ_ENABLE 0
  else
    let s := s.configReset f
    let s := s.setFn f { s.fn f with
      drain := some { start := s.now, cause := cause }, forced := false, resets := satAdd 65535 v.resets 1 }
    let s : State := if isPf f then (s.doeAbort (fnPort f)).tgtClear (4 + fnPort f) else s
    (s.closeFn f).orphanId f 0

/-- A reset drain of a function starts, and with a physical function's those of its virtual functions (R279). -/
def State.drainFn (s : State) (f cause : Nat) : State :=
  let was := (s.fn f).drain.isSome
  let s := s.drainOne f cause
  if isPf f && !was then (s.vfs (fnPort f)).foldl (fun s v => s.drainOne v 2) s else s

/-- Every function of a port is reset by a conventional reset (R279). -/
def State.drainPort (s : State) (host : Nat) : State :=
  (host * 0x800 :: s.vfs host).foldl (fun s f => s.drainOne f 3) s

/-- A non-posted request on a host port. -/
def HReq.onHost (h : HReq) : Bool := h.segs.any fun g => !g.1

/-- The waits of R280 step 4 and R282 are over. -/
def State.drainOver (s : State) (f : Nat) : Bool :=
  !(s.tra.hreqs.any fun h => h.2.fn == f && h.2.onHost)
    && !(s.wins.any fun w => w.2.owner == f && w.2.st == .revoking)
    && !(s.grps.any fun g => g.2.fn == f && (g.2.live || g.2.st == .error))
    && (!isPf f || (s.vfs (fnPort f)).all fun v => (s.fn v).drain.isNone)

/-- The identifiers that a drain has released begin their quarantine now (R280 step 5). -/
def State.quarStart (s : State) (f start : Nat) : State :=
  let at_ := fun (t : Nat) => if start ≤ t then s.now else t
  { s with
    ten.qps := s.ten.qps.map fun p => if p.2.fn = f && p.2.st = .quarantine then (p.1, { p.2 with quarAt := at_ p.2.quarAt }) else p,
    mat.ctxs := s.mat.ctxs.map fun p => if p.2.fn = f && p.2.st = .quarantine then (p.1, { p.2 with quarAt := at_ p.2.quarAt }) else p,
    wins := s.wins.map fun p => if p.2.owner = f && p.2.st = .quarantine then (p.1, { p.2 with quarAt := at_ p.2.quarAt }) else p,
    grps := s.grps.map fun p => if p.2.fn = f && p.2.st = .quarantine then (p.1, { p.2 with quarAt := at_ p.2.quarAt }) else p }

/-- A function has become READY (R278, R283, R288): what waited for its host requests goes on, and its vectors and the target of
the interrupt controller are re-sampled. -/
def State.becameReady (s : State) (f : Nat) : State :=
  if !s.fnReady f then s
  else
    let s := s.eqFlushAll.walkResume
    let s := (s.fn f).pend.foldl (fun s v => s.vecResample f v) s
    if isPf f then s.resample (4 + fnPort f) else s

/-- An admin queue whose enable was held starts, with both counts 0 (R281). -/
def startHeld (v : Fn) : Fn :=
  let v := if v.asqHeld then { v with asqProd := 0, asqCons := 0, asqHeld := false } else v
  if v.acqHeld then { v with acqProd := 0, acqCons := 0, acqHeld := false } else v

/-- A reset drain ends (R280 step 5, R281). -/
def State.drainEnd (s : State) (f : Nat) (d : Drain) (forced : Bool) : State :=
  let s := s.quarStart f d.start
  let v := s.fn f
  let s := s.setFn f (startHeld { v with drain := none, bme := v.held, held := false, forced := forced })
  let s := s.note 0x0730 (64 + fnPort f) f d.cause ((s.now - d.start) / 1000) (b2n forced)
  let n := f % 2048 - 1
  let s : State := if isPf f then s else s.wrF (R.HST_VF_FLR (fnPort f) (n / 64)) ⟨n % 64, 1⟩ 1
  s.becameReady f

/-- A host request that is answered to nobody. -/
def deadReq (f : Nat) (h : HReq) : HReq := if h.fn = f && h.onHost then { h with for_ := .dead } else h

/-- A response for which nothing more is sent, not even again. -/
def respEnd (mine : Nat → Bool) (r : Resp) : Resp :=
  if mine r.win then { r with allSent := true, gone := true, ready := false, rd := none } else r

/-- A revoke that is complete at once. -/
def winForce (f now : Nat) (w : Window) : Window :=
  if w.owner = f && w.st = .revoking then { w with st := .quarantine, quarAt := now, revoke := none } else w

/-- What a forced end abandons (R280): its host requests are answered to nobody, its revokes are complete, and nothing more is
sent for its windows. -/
def State.drainForce (s : State) (f : Nat) : State :=
  let mine := fun (w : Nat) => match s.wins.get? w with
    | some v => v.owner == f
    | none => false
  let s : State := { s with
    tra.hreqs := s.tra.hreqs.map fun h => (h.1, deadReq f h.2),
    tra.resps := s.tra.resps.map fun r => (r.1, respEnd mine r.2),
    wins := s.wins.map fun w => (w.1, winForce f s.now w.2) }
  (s.tra.resps.filter fun r => mine r.2.win).foldl (fun s r => s.respCheck r.1) s

/-- A drain that has reached its bound ends by force (R280). -/
def State.drainTimeout (s : State) (f : Nat) (d : Drain) : State := (s.drainForce f).drainEnd f d true

/-! ### The link of a host port (R291, R292) -/

/-- HOST_LINK, from the port's status. -/
def State.hostLinkRec (s : State) (host : Nat) : State :=
  let w := s.rd (R.HST_PORT_STAT host)
  (s.wrF (R.HST_PORT_STAT host) F.HST_PORT_STAT_CHANGE 1).note 0x0731 (64 + host) host
    (getF w F.HST_PORT_STAT_LINK_UP + getF w F.HST_PORT_STAT_SPEED * 2 + getF w F.HST_PORT_STAT_WIDTH * 16)
    (1 - getF w F.HST_PORT_STAT_PERST) 0

/-- PERSTh_N changes its level. -/
def State.perst (s : State) (host : Nat) (asserted : Bool) : State :=
  (s.wrF (R.HST_PORT_STAT host) F.HST_PORT_STAT_PERST (b2n asserted)).hostLinkRec host

/-- The requests outstanding on a host port count as completed when its link goes down (R280). -/
def State.linkLost (s : State) (host : Nat) : State :=
  let hit := fun (h : HReq) => h.onHost && fnPort h.fn == host
  let tags := (s.tra.hreqs.filter fun h => hit h.2).map Prod.fst
  let lost := fun (b : ReadBuf) => match b.tag with
    | some t => tags.contains t
    | none => false
  let atoms := (s.tra.hreqs.filter fun h => hit h.2).filterMap fun h => match h.2.for_ with
    | .atom i => some i
    | _ => none
  let ends := (s.tra.resps.filter fun r => atoms.contains r.1 || r.2.rd.any lost).map Prod.fst
  let s : State := { s with
    tra.hreqs := s.tra.hreqs.filter fun h => !hit h.2,
    tra.resps := s.tra.resps.map fun (r : Nat × Resp) => if ends.contains r.1 then (r.1, { r.2 with rd := none }) else r }
  s.giveUpResps fun i _ => ends.contains i

/-- The host link goes down (R279, Table 16.2): its functions drain, and with PERSTh_N deasserted the port's fault is raised. -/
def State.hostLinkDown (s : State) (host : Nat) : State :=
  let was := s.rdF (R.HST_PORT_STAT host) F.HST_PORT_STAT_LINK_UP == 1
  let s := s.wrFs (R.HST_PORT_STAT host) [(F.HST_PORT_STAT_LINK_UP, 0), (F.HST_PORT_STAT_SPEED, 0),
    (F.HST_PORT_STAT_WIDTH, 0), (F.HST_PORT_STAT_FLIT, 0), (F.HST_PORT_STAT_L0P, 0), (F.HST_PORT_STAT_L1, 0)]
  let s : State := if was then s.hostLinkRec host else s
  let s : State := if s.rdF (R.HST_PORT_STAT host) F.HST_PORT_STAT_PERST = 0 then
    s.ucRaise (0x150 + 6 * host + 5) (64 + host) 0 false else s
  (s.drainPort host).linkLost host

end Sys2Proof.Machine
end

