-- ==== Sys2Proof/Machine/Matching.lean ====
section
/-! DEFINITION. Message matching (04_matching): contexts and their commands, receives posted, cancelled and probed, the gate's
hold limit and entries, the fetches of rendezvous messages, and the spill of posted entries. -/

namespace Sys2Proof.Machine

open Sys2Proof

/-! ### Commands (Table 4.1) -/

/-- A command to a matching slice: it waits while the slice drains (15_power Table 15.2). -/
def State.matAdmin (s : State) (c : AdminCmd) (code : Nat) (used : List (Nat × Nat)) (ctx : Nat)
    (body : State → CmdRef → State) : State :=
  if s.domState (matDom ctx) = 3 && s.adminReady c.fn && bitsOf c.e.w0 0 16 == code then s
  else s.adminAt c code used (matDom ctx) body

/-- A context that a command names: not there MALFORMED, another function's ACCESS, in quarantine QUARANTINED. -/
def State.withMctx (s : State) (r : CmdRef) (i : Nat) (body : State → Mctx → State) : State :=
  match s.mat.ctxs.get? i with
  | none => s.adminDone r St.malformed 0
  | some v =>
    if v.fn != r.fn then s.adminDone r St.access 0
    else if v.st = .quarantine then s.adminDone r St.quarantined 0
    else body s v

/-- The lowest free context index whose slice is not OFF (DESIGN CHOICE, log 25). -/
def State.pickMctx (s : State) : Option Nat :=
  let keys := s.mat.ctxs.keys
  let cand := (List.range 4).filterMap fun c =>
    if s.domState (73 + c) = 0 then none
    else
      let i := firstFree 0 ((keys.filter fun k => k % 4 == c).map fun k => k / 4)
      if i < 16384 then some (4 * i + c) else none
  cand.foldl (fun a i => match a with
    | some b => some (Nat.min b i)
    | none => some i) none

/-- CREATE_MCTX (R76 to R78). -/
def execCreateMctx (c : AdminCmd) (s : State) : Host.Outcome State Fault Refusal :=
  let q := bitsOf c.e.w2 0 21
  let cq := bitsOf c.e.w2 21 20
  let postMax := bitsOf c.e.w3 0 25
  let limit := bitsOf c.e.w3 32 16
  let fixed := bitAt c.e.w3 63
  let idx := if fixed then some (bitsOf c.e.w4 0 16) else s.pickMctx
  let used := [(2, ones 0 41), (3, ones 0 25 + ones 32 16 + ones 63 1), (4, ones 0 16), (5, 0), (6, 0), (7, 0)]
  .next (s.matAdmin c 0x30 used (idx.getD 0) fun s r =>
    match idx with
    | none => s.adminDone r St.access 0
    | some i =>
      s.checks r [
        (match s.mat.ctxs.get? i with | some v => v.st != .quarantine | none => true, St.quarantined),
        ((s.mat.ctxs.get? i).isNone, St.malformed),
        (decide (1 ≤ postMax) && decide (postMax ≤ 2 ^ 24) && decide (1 ≤ limit), St.malformed),
        (match s.ten.qps.get? q with
          | some v => v.fn == c.fn && v.st != .error && v.st != .quarantine
          | none => false, St.malformed),
        (match s.ten.cqs.get? cq with
          | some v => v.fn == c.fn && v.st == .ready
          | none => false, St.malformed),
        (s.quotaOk c.fn .ctx 1, St.access)] fun s =>
        let v : Mctx := { fn := c.fn, qp := q, cq := cq, postMax := postMax, limit := limit, st := .ready, posted := [],
                          charge := 0, high := false, quarAt := 0 }
        { s with mat.ctxs := s.mat.ctxs.set i v }.adminDone r St.ok (w64 i))

/-- DESTROY_MCTX (R79). -/
def execDestroyMctx (c : AdminCmd) (s : State) : Host.Outcome State Fault Refusal :=
  let i := bitsOf c.e.w2 0 16
  .next (s.matAdmin c 0x31 [(2, ones 0 16), (3, 0), (4, 0), (5, 0), (6, 0), (7, 0)] i fun s r =>
    s.withMctx r i fun s _ => (s.mctxDestroy i).adminDone r St.ok 0)

/-- Context states as results give them (R78). -/
def MctxState.code : MctxState → Nat
  | .ready => 0
  | .error => 1
  | .quarantine => 2

/-- QUERY_MCTX (Table 4.1). -/
def execQueryMctx (c : AdminCmd) (s : State) : Host.Outcome State Fault Refusal :=
  let i := bitsOf c.e.w2 0 16
  .next (s.matAdmin c 0x32 [(2, ones 0 16), (3, 0), (4, 0), (5, 0), (6, 0), (7, 0)] i fun s r =>
    s.withMctx r i fun s v =>
      s.adminDone r St.ok (w64 (v.st.code + v.posted.length % 2 ^ 25 * 4 + v.charge % 2 ^ 32 * 2 ^ 32)))

/-! ### Posting (R80, R83, R100) -/

/-- The fields of a receive entry obey Table 4.2 and R30. -/
def reOk (e : Words8) : Bool :=
  bitsOf e.w3 42 22 == 0 && bitsOf e.w5 33 31 == 0 && e.w6 == 0 && e.w7 == 0 && decide (reLen e ≤ 2 ^ 31)
    && (if reLen e = 0 then e.w4 == 0 && !bitAt e.w5 32 else bitAt e.w5 32 || bitsOf e.w4 48 16 == 0)

/-- Posted entries in all, and those of a slice on die or spilled. -/
def State.postedAll (s : State) : Nat := s.mat.ctxs.foldl (fun a c => a + c.2.posted.length) 0
def State.postedOf (s : State) (slice : Nat) (onDie : Bool) : Nat :=
  s.mat.ctxs.foldl (fun a c => if c.1 % 4 = slice then a + (c.2.posted.filter fun p => p.onDie == onDie).length else a) 0

/-- One entry of a POST_RECV (R80, R83): the status with which it stops the command, or whether it was matched at once. -/
def State.postOne (s : State) (i : Nat) (e : Words8) : State × Nat × Bool :=
  match s.mctx? i with
  | none => (s, St.malformed, false)
  | some c =>
    match s.ten.qps.get? c.qp with
    | none => (s, St.malformed, false)
    | some v =>
      if c.st != .ready || !reOk e then (s, St.malformed, false)
      else if bitAt e.w5 32 && !s.hbmOwned c.fn e.w4.toNat (reLen e) then (s, St.access, false)
      else if c.postMax ≤ c.posted.length || 2 ^ 24 ≤ s.postedAll then (s, St.access, false)
      else match s.mat.msgs.find? fun m => m.matched && m.ctx == i && m.at_ == .unexpected && matches_ e m with
        | some m =>
          let s := (s.event 0x0501 (i % 4)).dropMsgs fun k => k == m
          ((s.deliver m (reBuffer c.qp v e) (toPosted i c e)).1, St.ok, true)
        | none =>
          let onDie := decide (s.postedOf (i % 4) true < 65536) && c.posted.all fun p => p.onDie
          ((s.event 0x0501 (i % 4)).updMctx i fun c => { c with posted := c.posted ++ [{ e := e, onDie := onDie }] },
            St.ok, false)

/-- The entries of a POST_RECV in list order (R80): the status, POSTED and IMMEDIATE. Each is read from its program address in
the address space of the attached queue pair. -/
def State.postAll (s : State) (i fn asid list : Nat) : List Words8 → Nat → Nat → State × Nat × Nat × Nat
  | [], n, m => (s, St.ok, n, m)
  | e :: es, n, m =>
    match s.readRange fn asid (list + 64 * n) 64 with
    | (s, 0) =>
      match s.postOne i e with
      | (s, 0, now) => s.postAll i fn asid list es (n + 1) (m + b2n now)
      | (s, st, _) => (s, st, n, m)
    | (s, st) => (s, st, n, m)

/-- POST_RECV (R80, R83): `list` is what the reads of the list's bytes gave. -/
def execPostRecv (c : AdminCmd) (list : Fetched) (s : State) : Host.Outcome State Fault Refusal :=
  let i := bitsOf c.e.w2 0 16
  let n := bitsOf c.e.w2 16 17
  .next (s.asking (.cmd c.fn) fun s => s.matAdmin c 0x33 [(2, ones 0 33), (3, ones 0 64), (4, 0), (5, 0), (6, 0), (7, 0)] i fun t r =>
    t.withMctx r i fun t v =>
      if v.st != .ready || n = 0 || 65536 < n || c.e.w3.toNat % 64 != 0 || bitsOf c.e.w3 48 16 != 0 then
        t.adminDone r St.malformed 0
      else
        let asid := match t.ten.qps.get? v.qp with
          | some q => q.asid
          | none => 0
        match list with
        | .failed st =>
          let a := t.readRange v.fn asid c.e.w3.toNat 64
          a.1.adminDone r (if a.2 = St.ok then st else a.2) 0
        | .entries es =>
          -- bytes that do not cover the list are not this command's reads
          if es.length != n then s
          else
            let a := t.postAll i v.fn asid c.e.w3.toNat es 0 0
            a.1.adminDone r a.2.1 (w64 (a.2.2.1 + a.2.2.2 * 2 ^ 17)))

/-- CANCEL_RECV (R85): the oldest posted entry with the cookie goes, without a completion. -/
def execCancelRecv (c : AdminCmd) (s : State) : Host.Outcome State Fault Refusal :=
  let i := bitsOf c.e.w2 0 16
  .next (s.matAdmin c 0x34 [(2, ones 0 16), (3, ones 0 64), (4, 0), (5, 0), (6, 0), (7, 0)] i fun s r =>
    s.withMctx r i fun s v =>
      let hit := v.posted.any fun p => p.e.w2 == c.e.w3
      (s.updMctx i fun v => { v with posted := v.posted.eraseP fun p => p.e.w2 == c.e.w3 }).adminDone r St.ok (w64 (b2n hit)))

/-- PROBE (R85): the oldest unexpected message that a filter matches is described at REPLY. -/
def execProbe (c : AdminCmd) (s : State) : Host.Outcome State Fault Refusal :=
  let i := bitsOf c.e.w2 0 16
  .next (s.asking (.cmd c.fn) fun s => s.matAdmin c 0x35
      [(2, ones 0 16), (3, ones 0 64), (4, ones 0 64), (5, ones 0 64), (6, ones 0 64), (7, 0)] i fun s r =>
    s.withMctx r i fun s v =>
      if v.st != .ready || bitsOf c.e.w5 42 22 != 0 || c.e.w6.toNat % 32 != 0 || bitsOf c.e.w6 48 16 != 0 then
        s.adminDone r St.malformed 0
      else
        let e : Words8 := { w0 := c.e.w3, w1 := c.e.w4, w2 := 0, w3 := w64 (bitsOf c.e.w5 0 41), w4 := 0, w5 := 0, w6 := 0, w7 := 0 }
        match s.mat.msgs.find? fun m => m.matched && m.ctx == i && m.at_ == .unexpected && matches_ e m with
        | none => s.adminDone r St.ok 0
        | some m =>
          let asid := match s.ten.qps.get? v.qp with
            | some q => q.asid
            | none => 0
          let ws := [m.bits, w64 (m.srcNode % 2 ^ 18 + m.srcQp % 2 ^ 21 * 2 ^ 18), w64 (m.len % 2 ^ 32 + b2n m.rts * 2 ^ 32), 0]
          match s.translate asid c.e.w6.toNat 32 0 true with
          | (s, .ok ps) => (s.hostPut v.fn ps false (bytesOfWords ws)).adminDone r St.ok 1
          | (s, .fail st) => s.adminDone r st 0
          | (s, .mark _ _ _) => s.adminDone r St.xlateFault 0)

/-- SPILL_RESTORE (R100): while a slice has room on die, its oldest spilled entry moves there; of several contexts with spilled
entries the lowest index goes first (DESIGN CHOICE, log 25). -/
def execSpillRestore (slice : Nat) (s : State) : Host.Outcome State Fault Refusal :=
  if s.fatal || 4 ≤ slice || !s.domOn (73 + slice) || 65536 ≤ s.postedOf slice true then .next s
  else match s.mat.ctxs.find? fun c => c.1 % 4 == slice && c.2.posted.any fun p => !p.onDie with
    | some (i, c) =>
      let die := c.posted.takeWhile fun p => p.onDie
      .next (s.updMctx i fun c => { c with
        posted := die ++ ((c.posted.drop die.length).take 1).map (fun p => { p with onDie := true }) ++ c.posted.drop (die.length + 1) })
    | none => .next s

/-- MCTX_QUARANTINE_END (R73, R77). -/
def execMctxQuarantineEnd (ctx : Nat) (s : State) : Host.Outcome State Fault Refusal :=
  match s.mat.ctxs.get? ctx with
  | some c =>
    if c.st = .quarantine && !s.quarHeld c.fn c.quarAt then .next { s.passTo (s.quarEnd c.quarAt) with mat.ctxs := s.mat.ctxs.erase ctx } else .next s
  | none => .next s

/-! ### The gate (R89, R90) -/

/-- The slots of a gate from NEXT up to an MSN that are EMPTY. -/
def Gate.gaps (g : Gate) (msn : Msn) : List Msn :=
  ((List.range (msn - g.next).toNat).map fun k => g.next + BitVec.ofNat 16 k).filter fun m => (g.slot m).isNone

/-- The missing MSNs before a held message leave its flow, with MSN_SKIP, and the loop of R87 runs (R89). -/
def State.gateExpire (s : State) (m : Msg) (g : Gate) : State :=
  let gone := g.gaps m.msn
  let s := s.setGate m.node m.srcNode m.srcQp m.dstQp (gone.foldl (fun g k => g.setSlot k (some .refused)) g)
  let s : State := match gone, s.ten.qps.get? m.dstQp with
    | k :: _, some v => s.eqEvent v.eq (ev 0x0401 0 m.dstQp (m.srcNode + m.srcQp * 2 ^ 18) (k.toNat + gone.length * 2 ^ 16))
    | _, _ => s
  s.gateLoop m.node m.srcNode m.srcQp m.dstQp

/-- GATE_HOLD_EXPIRY (R89). Presentations wait while the matching slice does not run. -/
def execGateHoldExpiry (srcNode srcQp dstQp : Nat) (msn : Msn) (s : State) : Host.Outcome State Fault Refusal :=
  match s.heldMsg srcNode srcQp dstQp msn with
  | none => .next s
  | some m =>
    match s.gate? m.node srcNode srcQp dstQp with
    | none => .next s
    | some g =>
      if s.fatal || !s.domOn (matDom dstQp) then .next s
      else
        let s := s.passTo m.holdEnd
        .next (s.asking (.held dstQp) fun s => s.gateExpire m g)

/-- GATE_ENTRY_RELEASE (R90): a NODE flow with no held message and none in placement, silent for four times the stale limit. -/
def execGateEntryRelease (srcNode srcQp dstQp : Nat) (s : State) : Host.Outcome State Fault Refusal :=
  let k := gateKey srcNode srcQp dstQp
  match s.tra.gates.get? k with
  | none => .next s
  | some g =>
    let busy := s.mat.msgs.any fun m => m.srcNode == srcNode && m.srcQp == srcQp && m.dstQp == dstQp
      && (m.at_ == .held || (m.open_ && !m.rts))
    if s.fatal || busy || !s.domRuns (matDom dstQp) then .next s
    else .next { s.passTo (g.last + 4 * s.staleNs) with tra.gates := s.tra.gates.erase k }

/-! ### Rendezvous (R95) -/

/-- A GET_REQ of a fetch leaves. -/
def State.fetchSend (s : State) (i : Nat) (f : Fetch) (v : Qp) (addr : Word) (n : Nat) : State :=
  let fl := if v.spray then (s, 0) else s.flowlet f.localQp v f.sp f.dst
  fl.1.sendNew f.sp { pktZero with
    type := 4, dstNode := f.dst.node, dstQp := f.dst.qp, dstGen := f.dst.gen, srcQp := f.localQp, srcGen := v.gen,
    node := f.node, ord := !v.spray, tc := f.tc, pkey := f.pkey, flowlet := fl.2, msgLen := n, w4 := addr,
    w5 := w64 (f.key.toNat * 2 ^ 32), ackReq := true } (.fetch i) 0 none

/-- The next new GET_REQ of a fetch: at most four are outstanding. -/
def State.fetchNext (s : State) (i : Nat) (f : Fetch) (v : Qp) : State :=
  let psn := (s.space f.sp).sendNext
  if 4 ≤ f.outs.length || s.tableFull (f.localQp % 4) then s
  else if f.next < f.want then
    let n := Nat.min getMax (f.want - f.next)
    let s := s.fetchSend i f v (f.srcOff + w64 f.next) n
    { s with mat.fetches := s.mat.fetches.upd i fun f => { f with
      next := f.next + n, outs := f.outs ++ [{ psn := psn, base := f.next, len := n, got := 0, last := s.now }] } }
  else match f.closing with
    | .due a =>
      let s := s.fetchSend i f v a 0
      { s with mat.fetches := s.mat.fetches.upd i fun f => { f with closing := .sent psn s.now } }
    | _ => s

/-- RENDEZVOUS_GET_ISSUE (R95): the resend at the head of its space, the next range of at most 1 MiB, or the closing GET. -/
def execRendezvousGetIssue (recv : Nat) (s : State) : Host.Outcome State Fault Refusal :=
  match s.mat.fetches.get? recv with
  | none => .next s
  | some f =>
    match s.ten.qps.get? f.localQp with
    | none => .next s
    | some v =>
      if s.fatal || !s.domRuns (tenDom f.localQp) || !s.maySend f.sp none then .next s
      else match (s.space f.sp).resends with
        | r :: _ =>
          if r.ready && r.sent.owner == .fetch recv then .next (s.sendResend f.sp r [])
          else .next (s.fetchNext recv f v)
        | [] => .next (s.fetchNext recv f v)
end Sys2Proof.Machine
end

