-- ==== Sys2Proof/Machine/RouteOps.lean ====
section
/-! DEFINITION. The router core (08_routing R176 to R194): the route entry, the eligible candidates, the choice of a port,
discards, and the allocation of grains (09_traffic R204, R205). -/

namespace Sys2Proof.Machine

open Sys2Proof

/-! ### Ingresses and phases (R186) -/

/-- The league of a node. -/
def leagueOf (n : Nat) : Nat := n / 64

/-- Lent traffic (R186): from a span peer, on its first hop. -/
def State.lent (s : State) (ingress : Nat) (p : Packet) : Bool :=
  decide (64 ≤ ingress) && decide (ingress < 67) && s.role ingress == 4 && p.hops == 1
    && p.srcNode == s.rdF (R.RTE_PORT_ROLE ingress) F.RTE_PORT_ROLE_FAR_NODE

/-- The packet counts as injected at this device (R182, R186): from a local position, or lent. -/
def State.injectsHere (s : State) (ingress : Nat) (p : Packet) : Bool := decide (67 ≤ ingress) || s.lent ingress p

/-- The rank of a local role: ROW 0, COLUMN 1, SPAN 2. -/
def rankOf (role : Nat) : Option Nat := match role with
  | 1 => some 0
  | 2 => some 1
  | 4 => some 2
  | _ => none

/-- PHASE after a hop (Table 8.7); `rin` is the rank of the ingress, none for a local position, a GLOBAL port or lent
traffic. -/
def phaseAfter (rin : Option Nat) (roleOut phase : Nat) : Nat :=
  match rankOf roleOut with
  | none => phase + 1
  | some o => match rin with
    | none => phase
    | some i => if i < o then phase else phase + 1

/-! ### Candidates (R176, R177, R180) -/

/-- A candidate of a route entry (Table 8.5): its place, port, NONMIN and WEIGHT. -/
structure Cand where
  i      : Nat
  port   : Nat
  nonmin : Bool
  weight : Nat
deriving DecidableEq, Repr

/-- The index of the entry for a destination (R176). -/
def State.routeEntry (s : State) (dst : Nat) : Nat :=
  if leagueOf dst = leagueOf s.node then 4096 + dst % 64 else leagueOf dst

/-- The candidates of an entry of the active bank (Table 8.4). -/
def State.cands (s : State) (e : Nat) : List Cand :=
  let w0 := s.rd (R.RTE_TBL_ACT e 0)
  let w1 := s.rd (R.RTE_TBL_ACT e 1)
  (List.range 8).map fun i =>
    let c := if i < 5 then bitsOf w0 (12 * i) 12 else bitsOf w1 (12 * (i - 5)) 12
    { i := i, port := c % 128, nonmin := c / 128 % 2 == 1, weight := c / 256 }

/-- A candidate is eligible (Table 8.6); collective packets take minimal routes (R136). -/
def State.eligible (s : State) (ingress : Nat) (p : Packet) (phase : Nat) (c : Cand) : Bool :=
  let role := s.role c.port
  let rin := if s.injectsHere ingress p then none else rankOf (s.role ingress)
  0 < c.weight && decide (c.port < 67) && role != 0 && c.port != ingress
    && (s.portState c.port == 3 || (s.portState c.port == 4 && p.ord))
    && (!c.nonmin || (p.tc != 0 && !pkColl p && leagueOf p.srcNode == leagueOf s.node))
    && decide (phaseAfter rin role phase ≤ 3)

/-! ### The choice (R181, R182) -/

/-- The path hash of an ORD packet (R181). -/
def State.pathHash (s : State) (p : Packet) : Nat :=
  let key := p.srcNode % 2 ^ 18 + p.srcQp % 2 ^ 21 * 2 ^ 18 + p.dstNode % 2 ^ 18 * 2 ^ 39 + p.dstQp % 2 ^ 21 * 2 ^ 57
    + p.flowlet % 16 * 2 ^ 78
  let h := crc32c ((List.range 11).map fun i => BitVec.ofNat 8 (key / 256 ^ i))
  (h ^^^ BitVec.ofNat 32 (s.rdF R.RTE_HASH F.RTE_HASH_SEED)).toNat

/-- The candidate whose running weight sum first exceeds `r`. -/
def pickWeight : List Cand → Nat → Option Cand
  | [], _ => none
  | c :: cs, r => if r < c.weight then some c else pickWeight cs (r - c.weight)

/-- CN_LAST of the packet's PSN space (R182). -/
def State.cnLast (s : State) (p : Packet) : Nat :=
  if p.node then match s.tra.nodes.get? p.dstNode with
    | some n => n.sp.cnLast
    | none => 0
  else match s.ten.qps.get? p.srcQp with
    | some q => q.sp.cnLast
    | none => 0

/-- The score of a candidate (R182). The lender holds no congestion note (R267). -/
def State.scoreOf (s : State) (ingress : Nat) (p : Packet) (c : Cand) : Nat :=
  let q := Nat.min 65535 (s.queuedIn c.port p.tc)
  let n := if 67 ≤ ingress && !c.nonmin then s.cnLast p * s.rdF R.RTE_AR_CTL F.RTE_AR_CTL_CN_GRAINS else 0
  (q + n) * 16 / c.weight + if c.nonmin then s.rdF R.RTE_AR_CTL F.RTE_AR_CTL_NM_BIAS else 0

/-- The candidate with the lowest score, the first at or after the pointer among equals (R182). -/
def State.lowest (s : State) (ingress : Nat) (p : Packet) (ptr : Nat) (cs : List Cand) : Option Cand :=
  let key := fun (c : Cand) => s.scoreOf ingress p c * 8 + (c.i + 8 - ptr) % 8
  cs.foldl (fun b c => match b with
    | none => some c
    | some d => if key c < key d then some c else some d) none

/-- The choice of a port for a packet with a PHASE (R180 to R182); a decision under R182 moves the ingress's pointer. -/
def State.choose (s : State) (ingress : Nat) (p : Packet) (phase : Nat) : State × Option (Nat × Nat) :=
  let cs := (s.cands (s.routeEntry p.dstNode)).filter (s.eligible ingress p phase)
  let rin := if s.injectsHere ingress p then none else rankOf (s.role ingress)
  let out := fun (c : Cand) => (c.port, phaseAfter rin (s.role c.port) phase)
  if p.ord then
    let w := cs.foldl (fun a c => a + c.weight) 0
    (s, (pickWeight cs (s.pathHash p / 2 ^ 16 * w / 2 ^ 16)).map out)
  else
    let ptr := (s.rte.ptrs.get? ingress).getD 0
    ({ s with rte.ptrs := s.rte.ptrs.set ingress ((ptr + 1) % 8) }, (s.lowest ingress p ptr cs).map out)

/-! ### Discards (R193, R194) -/

/-- The port code that a discard shows for an ingress. -/
def ingressCode (i : Nat) : Nat := if i < 67 then i else 127

/-- A discard of the router core (R193); the first HOP_LIMIT discard after a second without one writes ROUTE_LOOP (R194). -/
def State.routeDiscard (s : State) (kind ingress : Nat) (p : Packet) : State :=
  let s := (s.bump (R.RTE_DISCARD kind) F.RTE_DISCARD_COUNT 1).capture R.RTE_DISCARD_LAST F.RTE_DISCARD_LAST_VALID
    F.RTE_DISCARD_LAST_LOST
    [(F.RTE_DISCARD_LAST_KIND, kind), (F.RTE_DISCARD_LAST_INGRESS, ingressCode ingress),
     (F.RTE_DISCARD_LAST_SRC_NODE, p.srcNode), (F.RTE_DISCARD_LAST_DST_NODE, p.dstNode)]
  let s : State := if ingress < 67 then s.event 0x0202 ingress else s
  if kind != 1 then s
  else
    let n := s.rte.hopN + 1
    let quiet := match s.rte.hopAt with
      | some t => decide (t + 1000000000 ≤ s.now)
      | none => true
    let s := { s with rte.hopAt := some s.now, rte.hopN := if quiet then 0 else n }
    if quiet then s.note 0x0712 91 n (p.srcNode + p.dstNode * 2 ^ 18) (ingressCode ingress + p.tc * 256) 0 else s

/-- A packet is discarded at the input pipeline: its flits' credit returns. -/
def State.inputDiscard (s : State) (kind ingress : Nat) (p : Packet) : State :=
  let s := s.routeDiscard kind ingress p
  if ingress < 67 then s.creditBack ingress p.vl (grainsOf p) else s

/-! ### Age (R188) -/

/-- The age limit in units of 1,024 ns. -/
def State.ageUnits (s : State) : Nat := s.staleNs / 1024 - 1

/-- The age of a packet now. -/
def State.ageOf (s : State) (p : Packet) : Nat := (s.ageStamp - p.age).toNat

/-- A buffered packet has passed the stale limit at selection. -/
def State.aged (s : State) (b : BPkt) : Bool := decide (s.ageUnits ≤ b.age + (s.ft - b.arr) / 1024)

/-! ### Buffer grains (R204, R205) -/

/-- Where a packet's grains come from (R205): the pool, its reservation, or nothing yet for a local position without room. -/
def State.grainSource (s : State) (ingress : Nat) (p : Packet) : Option Bool :=
  let n := grainsOf p
  let held := (s.rte.poolHeld.get? p.tc).getD 0
  if s.poolUsed + n ≤ 3145728 - s.reserved && held + n ≤ getF (s.tcsVal (R.TCS_SHARE p.tc)) F.TCS_SHARE_SHARE then some true
  else if ingress < 67 || (s.rte.resHeld.get? (ingress * 32 + p.tc)).getD 0 + n ≤ 130 then some false
  else none

/-- The grains of a packet are taken (R205), from consecutive banks of the rotation (R13). -/
def State.takeGrains (s : State) (pool : Bool) (ingress : Nat) (p : Packet) : State :=
  let n := grainsOf p
  let s := { s with rte.bank := (s.rte.bank + n) % 128 }
  let s : State := if ingress < 67 then s.event 0x0201 ingress (some p.tc) else s
  if pool then
    let s := { s with rte.poolHeld := s.rte.poolHeld.set p.tc ((s.rte.poolHeld.get? p.tc).getD 0 + n) }
    if ingress < 67 then s.creditBack ingress p.vl n else s
  else
    let k := ingress * 32 + (if ingress < 67 then p.vl else p.tc)
    { s with rte.resHeld := s.rte.resHeld.set k ((s.rte.resHeld.get? k).getD 0 + n) }

/-- A packet's place in the buffer, its grains just taken. `egress` is a port code, or the local position of one of this device's
units. -/
def State.place (s : State) (pool : Bool) (ingress egress phase : Nat) (p : Packet) (vl : Nat) : BPkt :=
  { pkt := { p with vl := vl }, ingress := ingress, egress := egress, arr := s.ft, age := s.ageOf p, grains := grainsOf p,
    bank := (s.rte.bank + 128 - grainsOf p % 128) % 128, pool := pool, cls := p.tc,
    lane := if ingress < 67 then p.vl else p.tc, phase0 := phase }

/-! ### Re-routing (R183) -/

/-- A queued packet of a broken port passes R180 to R182 again; without a candidate it is discarded with kind REROUTE. -/
def State.reroute (s : State) (b : BPkt) : State :=
  match s.choose b.ingress b.pkt b.phase0 with
  | (s, some (port, phase)) =>
    { s with rte.buffered := s.rte.buffered ++ [{ b with egress := port, pkt := { b.pkt with vl := b.pkt.tc * 4 + phase } }] }
  | (s, none) => (s.routeDiscard 4 b.ingress b.pkt).freeGrains b

end Sys2Proof.Machine
end

