-- ==== Sys2Proof/Machine/Routing.lean ====
section
/-! DEFINITION. The router's steps (08_routing): packets entering, the banks of the route table, roles, the stale limit, partition
keys, and the end of a broken port's grace. -/

namespace Sys2Proof.Machine

open Sys2Proof

/-! ### Packets (R18) -/


/-- Steps 4 and 5 of R18: this device takes the packet, or a port is chosen; its grains are allocated. A local position
without room waits. `leave` removes the packet from where it waits. A span request or answer that R266 rules out by its port or its
destination is discarded and counted, at S0 where it came on a fabric port, which has no such count (DESIGN CHOICE, log 54). -/
def State.routeIn (s : State) (ingress : Nat) (p : Packet) (leave : State → State) : State :=
  let mine := p.dstNode == s.node
  let span := p.type == 0x0C || p.type == 0x0D
  if span && (ingress < 64 || (ingress < 67 && !mine)) then
    ((leave s).creditBack ingress p.vl (grainsOf p)).bump (R.SPN_STAT (ingress - 64)) F.SPN_STAT_DISCARD 1
  else if ingress < 67 && !mine && s.role ingress = 0 then (leave s).inputDiscard 5 ingress p
  else match s.grainSource ingress p with
    | none => s
    | some pool =>
      if mine then
        let s := leave s
        let s := (localDoms p).foldl (fun s d => s.wake d) (s.takeGrains pool ingress p)
        { s with rte.localQ := s.rte.localQ ++ [s.place pool ingress (localPos p) 0 p p.vl] }
      else
        let phase := if s.injectsHere ingress p then 0 else p.vl % 4
        match (leave s).choose ingress p phase with
        | (s, some (port, ph)) =>
          let s := s.takeGrains pool ingress p
          { s with rte.buffered := s.rte.buffered ++ [s.place pool ingress port phase p (p.tc * 4 + ph)] }
        | (s, none) => s.inputDiscard 3 ingress p

/-- A packet that names its port enters the crossbar from its local position once it finds room (R205); a GLOBAL port advances its
PHASE (R186). -/
def State.enterPort (s : State) (ingress : Nat) (e : Nat × Packet) : State :=
  match s.grainSource ingress e.2 with
  | none => s
  | some pool =>
    let s := { s with rte.entering := s.rte.entering.erase e }.takeGrains pool ingress e.2
    { s with rte.buffered := s.rte.buffered ++
        [s.place pool ingress e.1 0 e.2 (e.2.tc * 4 + phaseAfter none (s.role e.1) 0)] }

/-- PACKET_INPUT (R18): a packet that a port has received whole, or one that a local position injects. Steps 1 to 3 are for
packets from a port; the packets of an ingress enter in order. -/
def execPacketInput (ingress : Nat) (p : Packet) (s : State) : Host.Outcome State Fault Refusal :=
  if !s.live then .next s
  else if ingress < 67 then
    match s.rte.arrived.find? fun a => a.1 == ingress with
    | none => .next s
    | some a =>
      let leave := fun (s : State) => { s with rte.arrived := s.rte.arrived.erase a }
      if a.2 != p then .next s
      else if p.hcrc != hcrcOf p then .next ((leave s).inputDiscard 0 ingress p)
      else if p.hops = 31 && p.dstNode != s.node then .next ((leave s).inputDiscard 1 ingress p)
      else if s.ageUnits ≤ s.ageOf p then .next ((leave s).inputDiscard 2 ingress p)
      else .next (s.routeIn ingress p leave)
  else if 71 ≤ ingress then
    match s.rte.entering.find? fun e => homePos e.2 == ingress with
    | none => .next s
    | some e => .next (if e.2 = p then s.enterPort ingress e else s)
  else match s.rte.injected.find? fun q => homePos q == ingress with
    | none => .next s
    | some q =>
      if q != p then .next s
      else .next (s.routeIn ingress p fun s => { s with rte.injected := s.rte.injected.erase p })

/-! ### The banks of the route table (R178, R179) -/

/-- The offsets of the two banks. -/
def actBase : Nat := R.RTE_TBL_ACT 0 0
def shdBase : Nat := R.RTE_TBL_SHD 0 0
def bankLen : Nat := 16 * 4160

/-- The registers of a window, by their distance from its start. -/
def bankOf (t : Tbl Word) (base : Nat) : Tbl Word :=
  (t.filter fun q => base ≤ q.1 && q.1 < base + bankLen).map fun q => (q.1 - base, q.2)

/-- The register table with both banks set. The active bank lies below the shadow bank. -/
def putBanks (t act shd : Tbl Word) : Tbl Word :=
  (t.filter fun q => q.1 < actBase) ++ act.map (fun q => (q.1 + actBase, q.2))
    ++ (t.filter fun q => actBase + bankLen ≤ q.1 && q.1 < shdBase) ++ shd.map (fun q => (q.1 + shdBase, q.2))
    ++ t.filter fun q => shdBase + bankLen ≤ q.1

/-- BUSY of RTE_EPOCH. -/
def State.rteBusy (s : State) : Bool := s.rdF R.RTE_EPOCH F.RTE_EPOCH_BUSY == 1

/-- A write of RTE_EPOCH (R178): REJECT is cleared by a 1; a flip or copy that cannot be taken sets it. -/
def State.epochWrite (s : State) (rid : Nat) (val : Word) : State :=
  let flip := bitAt val 16
  let copy := bitAt val 17
  let s : State := if bitAt val 19 then s.wrF R.RTE_EPOCH F.RTE_EPOCH_REJECT 0 else s
  if !flip && !copy then s
  else if (flip && copy) || s.rteBusy then s.wrF R.RTE_EPOCH F.RTE_EPOCH_REJECT 1
  else
    let s := s.wrF R.RTE_EPOCH F.RTE_EPOCH_BUSY 1
    if flip then { s with rte.flipBy := some rid } else { s with rte.copying := some 0 }

/-- EPOCH_FLIP (R178): a write of RTE_EPOCH without COPY. -/
def execEpochFlip (rid : Nat) (val : Word) (s : State) : Host.Outcome State Fault Refusal :=
  .next (if bitAt val 17 then s else s.viaReg rid R.RTE_EPOCH fun s => s.epochWrite rid val)

/-- EPOCH_FLIP_COMPLETE (R178 steps 2 and 3): the pipelines have changed banks; until then lookups read the old bank
(DESIGN CHOICE, log 27). -/
def execEpochFlipComplete (s : State) : Host.Outcome State Fault Refusal :=
  match s.rte.flipBy with
  | none => .next s
  | some rid =>
    if s.fatal then .next s
    else
      let s := { s with rte.flipBy := none, regs := putBanks s.regs (bankOf s.regs shdBase) (bankOf s.regs actBase) }
      let n := (s.rdF R.RTE_EPOCH F.RTE_EPOCH_EPOCH + 1) % 256
      let s := s.wrFs R.RTE_EPOCH [(F.RTE_EPOCH_EPOCH, n), (F.RTE_EPOCH_BUSY, 0)]
      .next (s.record 0x0710 0 91 (w64 n) (w64 rid) s.ftWord 0 0)

/-- ROUTE_COPY (R178): a write of RTE_EPOCH with COPY. -/
def execRouteCopy (rid : Nat) (val : Word) (s : State) : Host.Outcome State Fault Refusal :=
  .next (if bitAt val 17 then s.viaReg rid R.RTE_EPOCH fun s => s.epochWrite rid val else s)

/-- The words of a bank. -/
def bankWords : Nat := bankLen / 8

/-- The copy goes on from word `k` up to word `n`: each of these shadow words takes the active word as it stands now (R178). -/
def State.copyRange (s : State) (k n : Nat) : State :=
  let k := Nat.min k n
  let act := bankOf s.regs actBase
  let shd := bankOf s.regs shdBase
  { s with
    rte.copying := some n,
    regs := putBanks s.regs act ((shd.filter fun q => q.1 < 8 * k)
      ++ (act.filter fun q => 8 * k ≤ q.1 && q.1 < 8 * n) ++ shd.filter fun q => 8 * n ≤ q.1) }

/-- The copy in progress has reached some further word: how far is open, so it is a free value (log 27). -/
def State.copyGo (s : State) : State :=
  match s.rte.copying with
  | none => s
  | some k =>
    let f := s.freeVal
    f.2.copyRange k (k + f.1.toNat % (bankWords + 1 - k))

/-- ROUTE_COPY_COMPLETE (R178): the copy takes the words it has not reached yet. -/
def execRouteCopyComplete (s : State) : Host.Outcome State Fault Refusal :=
  match s.rte.copying with
  | none => .next s
  | some k =>
    if s.fatal then .next s
    else .next ({ s.copyRange k bankWords with rte.copying := none }.wrF R.RTE_EPOCH F.RTE_EPOCH_BUSY 0)

/-- The bits of a route entry's word (Table 8.4). -/
def routeMask (off : Nat) (val : Word) : Word :=
  if off / 8 % 2 = 0 then val &&& 0x0FFFFFFFFFFFFFFF else val &&& 0x0000000FFFFFFFFF

/-- A direct write of the active bank (R179): it reaches the shadow bank only if the copy has not reached its word (R178). -/
def State.activeWrite (s : State) (off : Nat) (val : Word) : State := s.copyGo.wr off (routeMask off val)

/-- A word of the shadow bank is about to be read: a copy in progress has reached some place. -/
def State.shadowSeen (s : State) (off : Nat) : State :=
  if shdBase ≤ off && off < shdBase + bankLen then s.copyGo else s

/-- ROUTE_SHADOW_WRITE (R178): a word of the shadow bank; discarded, with REJECT, while BUSY is 1. -/
def execRouteShadowWrite (rid off : Nat) (val : Word) (s : State) : Host.Outcome State Fault Refusal :=
  if off < shdBase || shdBase + bankLen ≤ off || off % 8 != 0 then .next s
  else .next (s.viaReg rid off fun s =>
    if s.rteBusy then s.wrF R.RTE_EPOCH F.RTE_EPOCH_REJECT 1 else s.wr off (routeMask off val))

/-! ### Roles and the stale limit (R175, R189) -/

/-- PORT_ROLE_WRITE (R175): a change of ROLE writes PORT_ROLE. A role that the port cannot have is taken as UNUSED. -/
def execPortRoleWrite (rid port : Nat) (val : Word) (s : State) : Host.Outcome State Fault Refusal :=
  if 67 ≤ port then .next s
  else .next (s.viaReg rid (R.RTE_PORT_ROLE port) fun s =>
    let old := s.rdF (R.RTE_PORT_ROLE port) F.RTE_PORT_ROLE_ROLE
    let role := roleTaken port (getF val F.RTE_PORT_ROLE_ROLE)
    let s := s.wrFs (R.RTE_PORT_ROLE port) [(F.RTE_PORT_ROLE_ROLE, role),
      (F.RTE_PORT_ROLE_FAR_NODE, getF val F.RTE_PORT_ROLE_FAR_NODE)]
    if old = role then s else s.note 0x0711 91 port old role rid)

/-- STALE_LIMIT_WRITE (R189, R73): a change writes STALE_CHANGE, and the quarantines know of it. -/
def execStaleLimitWrite (rid : Nat) (val : Word) (s : State) : Host.Outcome State Fault Refusal :=
  .next (s.viaReg rid R.RTE_CTL fun s =>
    let old := s.rdF R.RTE_CTL F.RTE_CTL_STALE_LIMIT
    let new := getF val F.RTE_CTL_STALE_LIMIT
    if old = new then s
    else
      let s := s.wrF R.RTE_CTL F.RTE_CTL_STALE_LIMIT new
      { s with tra.stales := s.tra.stales ++ [(s.now, s.staleNs)] }.note 0x0713 91 old new rid 0)

/-! ### Partition keys (R190) -/

/-- The keys that a SET_PKEYS lists. -/
def keysOf (e : Words8) (n : Nat) : List (BitVec 16) :=
  (List.range n).map fun i => BitVec.ofNat 16 (bitsOf (wordAt (Words8.toList e) (3 + i / 4)) (16 * (i % 4)) 16)

/-- SET_PKEYS (R190). Only the physical function of the port may issue it; a key listed twice counts once. -/
def execSetPkeys (c : AdminCmd) (s : State) : Host.Outcome State Fault Refusal :=
  let f := bitsOf c.e.w2 0 11
  let n := bitsOf c.e.w2 16 5
  let ks := keysOf c.e (Nat.min n 16)
  let rest := ((List.range 16).drop n).all fun i =>
    bitsOf (wordAt (Words8.toList c.e) (3 + i / 4)) (16 * (i % 4)) 16 == 0
  let used := [(2, ones 0 11 + ones 16 5), (3, ones 0 64), (4, ones 0 64), (5, ones 0 64), (6, ones 0 64), (7, 0)]
  .next (s.admin c 0x70 used fun s r =>
    s.checks r [
      (isPf c.fn && decide (f ≤ 1024), St.access),
      (decide (n ≤ 16) && rest && ks.all (fun k => k != 0 && k != 0xFFFF), St.malformed)] fun s =>
    let ks := ks.eraseDups
    (s.setFn (c.fn + f) { s.fn (c.fn + f) with keys := ks }).adminDone r St.ok (w64 ks.length))

/-! ### A broken port's queue (R229, R183) -/

/-- The packets queued for a port, lane by lane, and those on their way to its queues. -/
def State.portPackets (s : State) (p : Nat) : List BPkt :=
  (List.range 32).flatMap (fun v => (s.rte.queues.get? (p * 32 + v)).getD []) ++ s.rte.buffered.filter fun b => b.egress == p

/-- A port's queues are emptied. -/
def State.clearQueues (s : State) (p : Nat) : State :=
  { s with
    rte.queues := (List.range 32).foldl (fun t v => t.erase (p * 32 + v)) s.rte.queues,
    rte.buffered := s.rte.buffered.filter fun b => b.egress != p }

/-- GRACE_EXPIRY (R229 step 3): the port has not come back within GRACE, and its packets are re-routed. -/
def execGraceExpiry (port : Nat) (s : State) : Host.Outcome State Fault Refusal :=
  match (s.px port).graceAt with
  | none => .next s
  | some t =>
    if !s.live || s.carrying port then .next s
    else
      let s := (s.passTo t).updX port fun x => { x with graceAt := none }
      let ps := s.portPackets port
      .next (ps.foldl (fun s b => s.reroute b) (s.clearQueues port))

end Sys2Proof.Machine
end

