-- ==== Sys2Proof/Machine/PowerOps.lean ====
section
/-! DEFINITION. Power domains as the other management units use them (15_power R338 to R346): switching, drains and their forced
ends, sleep, throttle levels, and the sleep of ports. -/

namespace Sys2Proof.Machine

open Sys2Proof

/-! ### What a domain is (Table 15.1) -/

/-- The requester identity of Fathom (R339). -/
def ridFathom : Nat := 0x3000

/-- Domains that software and Fathom rules may switch. -/
def switchable (d : Nat) : Bool := decide (d ≤ 80) || d == 85

/-- Domains that may sleep and be throttled (R345). -/
def engineDom (d : Nat) : Bool := (decide (69 ≤ d) && decide (d ≤ 80)) || d == 85

/-- The port of a fabric or span port domain. -/
def domPort (d : Nat) : Option Nat := if d < 64 then some d else if 66 ≤ d && d ≤ 68 then some (d - 2) else none

/-- The fault source that isolates a domain (Table 16.2). -/
def isoSrc (d : Nat) : Option Nat :=
  if 69 ≤ d && d ≤ 78 then some (0x210 + (d - 69)) else if d = 85 then some 0x21A else none

/-- A pending UC fault isolates the domain (R361). -/
def State.isolated (s : State) (d : Nat) : Bool :=
  match isoSrc d with
  | some n => s.pend n && s.rdF (R.PWR_DOM_CTL d) F.PWR_DOM_CTL_ENABLE == 0
  | none => false

/-- Every domain of 69 to 78 is OFF or asleep. -/
def State.enginesDown (s : State) : Bool :=
  (List.range 10).all fun i => s.domState (69 + i) == 0 || (s.domState (69 + i) == 4 && !(s.dom (69 + i)).entry)

/-- Why a write of ENABLE = 0 is refused, as PWR_REJECT.CAUSE (R339). -/
def State.offCause (s : State) (d : Nat) : Option Nat :=
  if !switchable d then some 1
  else if (d = 64 || d = 65) && s.rdF (R.HST_PORT_STAT (d - 64)) F.HST_PORT_STAT_PERST = 0 then some 3
  else if (d = 79 || d = 80 || d = 85) && !s.enginesDown then some 2
  else none

/-- A refused write (R339). -/
def State.pwrReject (s : State) (rid d cause : Nat) : State :=
  s.capture R.PWR_REJECT F.PWR_REJECT_VALID F.PWR_REJECT_LOST
    [(F.PWR_REJECT_REQUESTER, rid), (F.PWR_REJECT_CAUSE, cause), (F.PWR_REJECT_DOMAIN, d)]

/-- STATE of a domain set, with DOMAIN_STATE written (R355). -/
def State.domMove (s : State) (d new rid p4 : Nat) : State :=
  let old := s.domState d
  (s.wrF (R.PWR_DOM_STAT d) F.PWR_DOM_STAT_STATE new).record 0x0401 0 92 (w64 d) (w64 old) (w64 new) (w64 rid) (w64 p4)

/-! ### Power removed (R336, R340) -/

/-- A port after its domain was off; a hold under R208 outlives it. -/
def State.portLost (s : State) (p : Nat) : State :=
  let held := (s.px p).tcsHeld
  { s with lnk.ports := s.lnk.ports.erase p, lnk.exch := s.lnk.exch.erase p }.updX p fun x => { x with tcsHeld := held }

/-- The posted entries of a matching slice lie in the spill region (R100, Table 15.2). -/
def State.spillAll (s : State) (c : Nat) : State :=
  { s with mat.ctxs := s.mat.ctxs.map fun p =>
      if p.1 % 4 = c then (p.1, { p.2 with posted := p.2.posted.map fun e => { e with onDie := false } }) else p }

/-- What a domain's power kept apart from its registers is gone: the translation caches (R166). The contexts of the engines are in
HBM. -/
def State.domCold (s : State) (d : Nat) : State :=
  if d = 85 then { s with xlt.tlb := [], xlt.wcache := [], xlt.ends := [] }
  else if 73 ≤ d && d ≤ 76 then s.spillAll (d - 73)
  else s

/-- A register lies in the domain, and in no other that still holds its contents. -/
def State.regOfDom (s : State) (d off : Nat) : Bool :=
  match findReg off with
  | some (r, i, _) => (r.dom.doms i).contains d && (r.dom.doms i).all fun e => e == d || decide (s.domState e ≤ 1)
  | none => false

/-- A domain that is off loses its contents (R336): its registers are at reset, but for the level of PERSTh_N, which is a pin, and what
an HBM interface knows of its stack, whose contents survive (R338, R368). -/
def State.domLost (s : State) (d : Nat) : State :=
  let perst := if d = 64 || d = 65 then s.rdF (R.HST_PORT_STAT (d - 64)) F.HST_PORT_STAT_PERST else 0
  let s := s.keepRegs fun r => !s.regOfDom d r || r = R.TOP_HBM_STAT 0 || r = R.TOP_HBM_STAT 1
  let s : State := if perst = 1 then s.wrF (R.HST_PORT_STAT (d - 64)) F.HST_PORT_STAT_PERST 1 else s
  let s : State := match domPort d with
    | some p => s.portLost p
    | none => s
  s.domCold d

/-! ### Drains (Table 15.2) -/

/-- A cache slice of self-test on the domain is abandoned (17_self_test R375). -/
def State.sliceDom (s : State) (d : Nat) : State :=
  match s.flt.slice with
  | some sl => if sl.kind = 3 && (if sl.unit_ < 64 then 69 + sl.unit_ / 16 else 85) = d then s.sliceAbandon else s
  | none => s

/-- A drain starts: STATE DRAINING, and what Table 15.2 has at its start. -/
def State.domDrain (s : State) (d rid : Nat) : State :=
  let s := ((s.domMove d 3 rid 0).updDom d fun v => { v with drainAt := some s.now, by_ := rid }).sliceDom d
  match domPort d with
  | some p => (s.portStop p 10 false).groupPortDown p
  | none =>
    if d = 77 || d = 78 then
      s.grps.foldl (fun s g => if g.1 % 2 = d - 77 then s.groupError g.1 (s.localCause 7 St.remoteOp) else s) s
    else s

/-- A message is in placement at a transfer-engine slice. -/
def State.placingAt (s : State) (c : Nat) : Bool :=
  (s.mat.msgs.any fun m => m.dstQp % 4 == c && (match m.at_ with
    | .placing _ _ => true
    | _ => false)) || s.mat.fetches.any fun f => f.2.localQp % 4 == c && !f.2.disc

/-- A job in flight at a transfer-engine slice. -/
def State.jobsAt (s : State) (c : Nat) : Bool :=
  s.ten.qps.any fun q => q.1 % 4 == c && q.2.jobs.any fun j => j.status.isNone

/-- The PSN spaces of a slice. -/
def State.spacesAt (s : State) (c : Nat) : List SpaceId :=
  ((s.ten.qps.filter fun q => q.1 % 4 == c && !q.2.node).map fun q => SpaceId.conn q.1)
    ++ (s.tra.nodes.filter fun n => n.1 % 4 == c).map fun n => SpaceId.node n.1

/-- The job waits only for a group (06_collectives): a completion waits at a CQ for a queue pair that a cluster's failed group is
bound to. -/
def State.grpWaits (s : State) (c : Nat) : Bool :=
  s.grps.any fun g => g.1 % 2 == c && g.2.st == .error && g.2.localN != 0
    && s.ten.cqs.any fun q => q.2.waiting.any fun e => e.qp == g.2.bindQp && e.kind == 0

/-- The end of a domain's drain within its bound (Table 15.2). -/
def State.domDrained (s : State) (d : Nat) : Bool :=
  match domPort d with
  | some p => (s.portPackets p).isEmpty
  | none =>
    if d = 64 || d = 65 then s.ten.fns.all fun f => fnPort f.1 != d - 64 || f.2.drain.isNone
    else if 69 ≤ d && d ≤ 72 then
      !s.jobsAt (d - 69) && !s.placingAt (d - 69) && (s.spacesAt (d - 69)).all fun i => (s.space i).sent.all (·.marked)
    else if d = 77 || d = 78 then !s.grpWaits (d - 77)
    else if d = 79 || d = 80 then s.tra.hreqs.all fun h => h.2.segs.all fun g => !g.1
    else if d = 85 then s.xlt.walks.isEmpty
    else true

/-- A transfer-engine slice is forced: its PSN spaces with unacknowledged packets fail, its node-pair contexts return to IDLE, and
every other job in flight and receive in placement completes DRAINING. -/
def State.tenForce (s : State) (c : Nat) : State :=
  let s := (s.spacesAt c).foldl (fun s i => if (s.space i).sent.any (!·.marked) then s.spaceFail i else s) s
  let s : State := { s with tra.nodes := s.tra.nodes.map fun n => if n.1 % 4 = c then (n.1, { n.2 with st := .idle }) else n }
  let s := s.ten.qps.foldl (fun s q =>
    if q.1 % 4 = c then q.2.jobs.foldl (fun s j => s.finish q.1 j.ring St.draining) s else s) s
  let s := s.mat.msgs.foldl (fun s m => match m.at_ with
    | .placing _ rcv => if m.dstQp % 4 = c then (s.dropMsgs fun k => k == m).recvDone m rcv m.count St.draining else s
    | _ => s) s
  (s.mat.fetches.filter fun f => f.2.localQp % 4 == c && !f.2.disc).foldl (fun s f => s.fetchFail f.1 St.draining) s

/-- The completions that a cluster's groups still owe are discarded. -/
def State.colForce (s : State) (c : Nat) : State :=
  let mine := fun (e : Cqe) => e.kind == 0 && s.grps.any fun g => g.1 % 2 == c && g.2.st == .error && g.2.localN != 0 && g.2.bindQp == e.qp
  s.ten.cqs.foldl (fun s q =>
    (q.2.waiting.filter mine).foldl (fun s e => s.freeSq e.frees)
      (s.updCq q.1 fun v => Cq.stall { v with waiting := v.waiting.filter fun e => !mine e } s.now)) s

/-- The forced end of a drain (Table 15.2). The translation unit's, which only a fault forces, lets its walks start again. -/
def State.domForce (s : State) (d : Nat) : State :=
  match domPort d with
  | some p => (s.portPackets p).foldl (fun s b => (s.lnkCount p 7 1).freeGrains b) (s.clearQueues p)
  | none =>
    if d = 64 || d = 65 then s.ten.fns.foldl (fun s f => match f.2.drain with
      | some e => if fnPort f.1 = d - 64 then s.drainTimeout f.1 e else s
      | none => s) s
    else if 69 ≤ d && d ≤ 72 then s.tenForce (d - 69)
    else if d = 77 || d = 78 then s.colForce (d - 77)
    else if d = 85 then
      let ids := s.xlt.walks.map Prod.fst
      { s with
        xlt.waiting := s.xlt.walks.vals.map (·.req) ++ s.xlt.waiting, xlt.walks := [],
        tra.hreqs := s.tra.hreqs.map fun h => (h.1, match h.2.for_ with
          | .walk i => if ids.contains i then { h.2 with for_ := .dead } else h.2
          | _ => h.2) }
    else s

/-! ### Switching (R339, R340) -/

/-- A domain that is OFF powers up; with a transfer-engine, matching or collective domain HBM interfaces that are OFF power up at the
same time, and ones that are asleep wake, since its state is restored from them (Table 15.1, R342). -/
def State.domUpOne (s : State) (d rid : Nat) : State :=
  (s.domMove d 1 rid 0).updDom d fun v => { v with by_ := rid, upAt := s.now }

def State.domUp (s : State) (d rid : Nat) : State :=
  let s := s.domUpOne d rid
  if 69 ≤ d && d ≤ 78 then
    [79, 80].foldl (fun s h => if s.domState h = 0 then (s.wrF (R.PWR_DOM_CTL h) F.PWR_DOM_CTL_ENABLE 1).domUpOne h rid else s.wakeOne h) s
  else s

/-- ENABLE = 1 (R339, R340): refused for a domain isolated by a pending fault; held during a drain. Until the boot has started the
domains, and in recovery mode, nothing switches one on (14_start Table 14.5, R317). -/
def State.domEnable (s : State) (d rid : Nat) : State :=
  if s.stage < 4 || 6 < s.stage then s
  else if s.isolated d then s.pwrReject rid d 4
  else
    let s := s.wrF (R.PWR_DOM_CTL d) F.PWR_DOM_CTL_ENABLE 1
    if s.domState d = 0 then s.domUp d rid else s

/-- ENABLE = 0 (R339 to R342): refused, or a drain starts; a sleeping domain is OFF at once; one that powers up or wakes drains when
it reaches ON. -/
def State.domDisable (s : State) (d rid : Nat) : State :=
  match s.offCause d with
  | some c => s.pwrReject rid d c
  | none =>
    let s := s.wrF (R.PWR_DOM_CTL d) F.PWR_DOM_CTL_ENABLE 0
    if s.domState d = 2 then s.domDrain d rid
    else if s.domState d = 4 then
      ((s.updDom d fun v => { v with entry := false }).wrF (R.PWR_DOM_STAT d) F.PWR_DOM_STAT_STATE 0).domLost d
    else s

/-- A drain ends (R339, R340): DRAIN_US and FORCED; OFF with power removed, or, with an enable held, powering up at once. -/
def State.domEnd (s : State) (d : Nat) (forced : Bool) : State :=
  let v := s.dom d
  let us := (s.now - v.drainAt.getD s.now) / 1000
  let s := (s.domLost d).updDom d fun v => { v with drainAt := none }
  let s := s.wrFs (R.PWR_DOM_STAT d) [(F.PWR_DOM_STAT_DRAIN_US, Nat.min us 65535), (F.PWR_DOM_STAT_FORCED, b2n forced)]
  let held := s.rdF (R.PWR_DOM_CTL d) F.PWR_DOM_CTL_ENABLE
  (s.updDom d fun v => { v with upAt := s.now }).domMove d held v.by_ (b2n forced + us % 2 ^ 32 * 2 ^ 32)

/-- A UC fault of a unit's logic (Table 16.2): its domain is drained by force at once and left with ENABLE = 0. -/
def State.domIsolate (s : State) (d : Nat) : State :=
  let st := s.domState d
  let s := s.wrF (R.PWR_DOM_CTL d) F.PWR_DOM_CTL_ENABLE 0
  if st = 2 then ((s.domDrain d ridFathom).domForce d).domEnd d true
  else if st = 3 then (s.domForce d).domEnd d true
  else if st = 0 then s
  else (((s.updDom d fun v => { v with entry := false }).domForce d).domLost d).domMove d 0 ridFathom 1

/-! ### Throttling (R345) -/

/-- The effective throttle level of a domain (R345). -/
def State.throttleOf (s : State) (d : Nat) : Nat :=
  if !engineDom d then 0
  else if s.pwr.guard then 7
  else (List.range 256).foldl (fun m r =>
    let a := s.rd (R.FTH_RULE_A r)
    let g := (s.rule r).arg.toNat
    if getF a F.FTH_RULE_A_ACTIVE = 1 && getF a F.FTH_RULE_A_ACTION = 1 && g % 128 = d then Nat.max m (g / 256 % 8) else m)
    (s.rdF (R.PWR_DOM_CTL d) F.PWR_DOM_CTL_THROTTLE)

/-- A domain's effective level is brought up to date; a change writes THROTTLE. -/
def State.rethrottle (s : State) (d rid rule : Nat) : State :=
  let old := s.rdF (R.PWR_DOM_STAT d) F.PWR_DOM_STAT_THROTTLE_NOW
  let new := s.throttleOf d
  if old = new then s
  else (s.wrF (R.PWR_DOM_STAT d) F.PWR_DOM_STAT_THROTTLE_NOW new).record 0x0402 0 92 (w64 d) (w64 old) (w64 new) (w64 rid) (w64 rule)

/-- The domains that may be throttled. -/
def engineDoms : List Nat := (List.range 12).map (69 + ·) ++ [85]

/-! ### A write of PWR_DOM_CTL -/

/-- A write of PWR_DOM_CTL (R339 to R345): a discarded write changes nothing; otherwise SLEEP_EN and THROTTLE are stored where they
exist, ENABLE acts, and WAKE wakes the domain. -/
def State.domCtl (s : State) (rid d : Nat) (val : Word) : State :=
  let on := getF val F.PWR_DOM_CTL_ENABLE
  if on = 1 && s.isolated d then s.pwrReject rid d 4
  else if on = 0 && (s.offCause d).isSome then s.pwrReject rid d ((s.offCause d).getD 0)
  else
    let s : State := if engineDom d then
      (s.wrFs (R.PWR_DOM_CTL d) [(F.PWR_DOM_CTL_SLEEP_EN, getF val F.PWR_DOM_CTL_SLEEP_EN),
        (F.PWR_DOM_CTL_THROTTLE, getF val F.PWR_DOM_CTL_THROTTLE)]).rethrottle d rid 0xFFFF else s
    let was := s.rdF (R.PWR_DOM_CTL d) F.PWR_DOM_CTL_ENABLE
    let s : State := if on = 1 && was = 0 then s.domEnable d rid else if on = 0 && was = 1 then s.domDisable d rid else s
    if getF val F.PWR_DOM_CTL_WAKE = 1 then s.wake d else s

/-! ### Idle (R341) -/

/-- A domain is idle (R341). -/
def State.domIdle (s : State) (d : Nat) : Bool :=
  if 69 ≤ d && d ≤ 72 then
    let c := d - 69
    (s.ten.qps.all fun q => q.1 % 4 != c || (q.2.jobs.all (·.status.isSome) && q.2.sqNext == q.2.sqProd))
      && !s.placingAt c
      && ((s.spacesAt c).all fun i =>
        let p := s.space i
        p.sent.all (·.marked) && p.deadline.isNone && p.resends.isEmpty)
      && !(s.xlt.traps.any fun t => t.2.qp % 4 == c) && !(s.xlt.trapWait.any fun t => t.1 % 4 == c)
      && !(s.ten.cqs.any fun q => q.2.waiting.any fun e => e.qp % 4 == c && decide (e.kind ≤ 2))
  else if 73 ≤ d && d ≤ 76 then !(s.mat.msgs.any fun m => (m.dstQp % 4 == d - 73 || m.ctx % 4 == d - 73) && m.at_ == .held)
  else if d = 77 || d = 78 then s.grps.all fun g => g.1 % 2 != d - 77 || g.2.st == .free
  else if d = 79 || d = 80 then s.enginesDown && s.tra.hreqs.all fun h => h.2.segs.all fun g => !g.1
  else if d = 85 then s.enginesDown && s.xlt.walks.isEmpty
  else false

/-- A domain is ON again (R340, R342): what waited for it goes on; with ENABLE cleared meanwhile its drain starts. -/
def State.domReached (s : State) (d : Nat) : State :=
  let s := s.updDom d fun v => { v with onAt := s.now }
  let s : State := match domPort d with
    | some p =>
      let s := s.wrFs (R.LNK_STATE p) [(F.LNK_STATE_STATE, 1), (F.LNK_STATE_HELD, b2n (s.px p).tcsHeld)]
      let s := s.updX p fun x => { x with training := none }
      if s.mayTrain p then s.tryTrain p else s
    | none => s
  if s.rdF (R.PWR_DOM_CTL d) F.PWR_DOM_CTL_ENABLE = 0 then
    if (s.offCause d).isSome then s else s.domDrain d (s.dom d).by_
  else s.serveAllHeld.walkResume

end Sys2Proof.Machine
end

