-- ==== Sys2Proof/Machine/FathomOps.lean ====
section
/-! DEFINITION. Fathom's filters, rules and actions, the conditions of self-test slices, and the calendar's sources
(15_power R349 to R354; 17_self_test R377). -/

namespace Sys2Proof.Machine

open Sys2Proof

/-! ### The conditions of self-test slices (17_self_test R377) -/

/-- The nominal value of a voltage channel in mV (Table 15.3, 20_package Table 20.7; R377 for VDD_CORE). -/
def State.nominal (s : State) (c : Nat) : Nat :=
  if c < 80 then 700 + 10 * s.pwr.vcore
  else if c < 86 then 800
  else if c < 90 then 900
  else if c < 94 then 1200
  else if c = 94 then 1800
  else Config.vddHbm

/-- FILTERED of a voltage channel lies within ±3 % of nominal: mV × 32. -/
def State.railOk (s : State) (c : Nat) : Bool :=
  let v := s.rdF (R.FTH_CHAN c) F.FTH_CHAN_FILTERED
  let n := s.nominal c * 32
  decide (n * 97 ≤ v * 100) && decide (v * 100 ≤ n * 103)

/-- The first condition of R377 that fails: its cause and input or channel (Table 17.4). -/
def State.stCause (s : State) : Option (Nat × Nat) :=
  match (List.range 4).find? fun q => !bitAt (s.rd R.PWR_CLK_STAT) q with
  | some q => some (1, q)
  | none =>
    match (List.range 32).find? fun i => !s.railOk (64 + i) with
    | some i => some (2, 64 + i)
    | none => if s.pwr.guard then some (3, 0xFF) else none

/-- A running slice whose conditions no longer hold is abandoned (R375). -/
def State.stCheck (s : State) : State := if s.flt.slice.isSome && s.stCause.isSome then s.sliceAbandon else s

/-! ### Rules (R350 to R352) -/

/-- RULE: at most one record per rule per second, with the number left out since the last (R350). -/
def State.ruleNote (s : State) (r : Nat) (entry : Bool) : State :=
  let v := s.rule r
  if s.rdF (R.FTH_RULE_A r) F.FTH_RULE_A_RECORD = 0 then s
  else if (v.lastRec.any fun t => decide (s.now < t + 1000000000)) then
    { s with pwr.rules := s.pwr.rules.set r { v with missed := v.missed + 1 } }
  else
    let c := s.rdF (R.FTH_RULE_A r) F.FTH_RULE_A_CHANNEL
    let s := { s with pwr.rules := s.pwr.rules.set r { v with missed := 0, lastRec := some s.now } }
    s.record 0x0403 0 92 (w64 r) (w64 (b2n entry)) (w64 (s.rdF (R.FTH_CHAN c) F.FTH_CHAN_FILTERED)) (w64 c) (w64 v.missed)

/-- The ports that a WAKE_PORTS action names wake (R344). -/
def State.wakePorts (s : State) (mask : Word) (r : Nat) : State :=
  (List.range 64).foldl (fun s p => if bitAt mask p && s.slept p then (s.portWake p 2 r).portEnable p else s) s

/-- A width change asked for by Fathom on a port that is UP. -/
def State.fathomWidth (s : State) (p : Nat) (m : BitVec 4) : State :=
  if p < 67 && s.portUp p then s.reqOwn p 1 m whoFathom false else s

/-- RECAL on the active lanes of a port that is UP, and a retrain (R251). -/
def State.fathomRecal (s : State) (p : Nat) : State :=
  if p < 67 && s.portUp p then
    let s : State := if p < 64 then (lanesOf (s.active p)).foldl (fun s i => s.wrF (R.LAN_CTL (4 * p + i)) F.LAN_CTL_RECAL 1) s else s
    s.reqOwn p 0 (s.retrainLanes p) whoFathom false
  else s

/-- The entry action of a rule (Table 15.4). -/
def State.ruleAct (s : State) (r action : Nat) (arg : Word) : State :=
  let d := bitsOf arg 0 7
  match action with
  | 1 => if d < 93 then s.rethrottle d ridFathom r else s
  | 2 => if d < 93 then s.domDisable d ridFathom else s
  | 3 => if d < 93 then s.domEnable d ridFathom else s
  | 4 => s.wakePorts arg r
  | 5 => s.fathomWidth d (laneSet (bitsOf arg 8 4))
  | 6 => s.fathomRecal d
  | 7 => s.ucRaise (0x270 + bitsOf arg 0 4) 0xFFFFFFFF 0 false
  | _ => s

/-- The undo of a rule (Table 15.4). -/
def State.ruleUndo (s : State) (action : Nat) (arg : Word) : State :=
  let d := bitsOf arg 0 7
  match action with
  | 2 => if d < 93 then s.domEnable d ridFathom else s
  | 3 => if d < 93 then s.domDisable d ridFathom else s
  | 5 => match widest (s.allowed d) with
    | some m => s.fathomWidth d m
    | none => s
  | _ => s

/-- A rule enters: its argument is taken, and its action performed. -/
def State.ruleEnter (s : State) (r : Nat) : State :=
  let arg := s.rd (R.FTH_RULE_B r)
  let s := { s with pwr.rules := s.pwr.rules.set r { s.rule r with arg := arg } }.wrF (R.FTH_RULE_A r) F.FTH_RULE_A_ACTIVE 1
  (s.ruleNote r true).ruleAct r (s.rdF (R.FTH_RULE_A r) F.FTH_RULE_A_ACTION) arg

/-- A rule leaves: a throttle level no longer counts; with REVERT the undo runs, with the argument as it now stands. -/
def State.ruleLeave (s : State) (r : Nat) : State :=
  let a := s.rd (R.FTH_RULE_A r)
  let act := getF a F.FTH_RULE_A_ACTION
  let s := (s.wrF (R.FTH_RULE_A r) F.FTH_RULE_A_ACTIVE 0).ruleNote r false
  let d := (s.rule r).arg.toNat % 128
  let s : State := if act = 1 && d < 93 then s.rethrottle d ridFathom r else s
  if getF a F.FTH_RULE_A_REVERT = 1 then s.ruleUndo act (s.rd (R.FTH_RULE_B r)) else s

/-- A rule's evaluation at an update of its channel (R350); `y` has 16 fraction bits. -/
def State.ruleEval (s : State) (c y r : Nat) : State :=
  let a := s.rd (R.FTH_RULE_A r)
  if getF a F.FTH_RULE_A_ENABLE = 0 || getF a F.FTH_RULE_A_CHANNEL != c || 9 ≤ getF a F.FTH_RULE_A_ACTION then s
  else
    let t := getF a F.FTH_RULE_A_THRESHOLD * 65536
    let h := getF a F.FTH_RULE_A_HYST * 65536
    let active := getF a F.FTH_RULE_A_ACTIVE == 1
    if getF a F.FTH_RULE_A_BELOW = 0 then
      if !active && t < y then s.ruleEnter r else if active && y + h < t then s.ruleLeave r else s
    else
      if !active && y < t then s.ruleEnter r else if active && t + h < y then s.ruleLeave r else s

/-! ### Samples (R346, R349) -/

/-- The filter of R349: `y` has 16 fraction bits; the step is rounded down (DESIGN CHOICE, log 32). -/
def filterStep (y x k : Nat) : Nat := ((y : Int) + ((x * 65536 : Nat) - (y : Int)) / (2 ^ k : Nat)).toNat

/-- The thermal guard's entry and exit (R346): 110 °C is 13,440, 105 °C is 13,120. -/
def State.thermalGuard (s : State) (c raw : Nat) : State :=
  if 64 ≤ c then s
  else
    let all := fun (s : State) => engineDoms.foldl (fun s d => s.rethrottle d ridFathom 0xFFFF) s
    if !s.pwr.guard && 13440 ≤ raw then all ({ s with pwr.guard := true }.note 0x0404 92 c raw 1 0)
    else if s.pwr.guard && (List.range 64).all fun i => decide (s.rdF (R.FTH_CHAN i) F.FTH_CHAN_RAW < 13120) then
      all ({ s with pwr.guard := false }.note 0x0404 92 c raw 0 0)
    else s

/-- A sample of a channel: RAW, the filtered value, the guard, and the rules of the channel in ascending order. -/
def State.sampled (s : State) (c x : Nat) : State :=
  let k := s.rdF (R.FTH_CHAN c) F.FTH_CHAN_K
  let y := match s.pwr.y.get? c with
    | some y => filterStep y x k
    | none => x * 65536
  let s := { s with pwr.y := s.pwr.y.set c y }.wrFs (R.FTH_CHAN c) [(F.FTH_CHAN_RAW, x), (F.FTH_CHAN_FILTERED, y / 65536)]
  let s := s.thermalGuard c x
  ((List.range 256).foldl (fun s r => s.ruleEval c y r) s).stCheck

/-! ### Calendar sources (R354) -/

/-- The first source available: PPS_IN, fabric time (while domain 91, which keeps it, is on), the crystal. -/
def State.calPick (s : State) : Nat := if s.pwr.ppsOn then 2 else if s.domOn 91 then 1 else 0

/-- A change of source is shown and recorded; fabric time then takes the calendar back to the captured difference. -/
def State.calSource (s : State) : State :=
  let old := s.rdF R.FTH_TIME F.FTH_TIME_SOURCE
  let new := s.calPick
  if old = new then s
  else
    let s := s.wrFs R.FTH_TIME [(F.FTH_TIME_SOURCE, new), (F.FTH_TIME_SRC_CHG, 1)]
    let s : State := if new = 1 then { s with pwr.calErr := (s.pwr.cal : Int) - (s.ft : Int) - s.pwr.calOfs } else s
    s.note 0x0408 92 old new (BitVec.signExtend 64 (BitVec.ofNat 32 (s.rdF R.FTH_TIME F.FTH_TIME_PPS_ERR))).toNat 0

/-- The calendar is set (R354). -/
def State.calSet (s : State) (rid : Nat) (atPps : Bool) : State :=
  let old := s.pwr.cal
  let new := (s.rd R.FTH_CAL_SET).toNat
  let s := { s with pwr.cal := new, pwr.calErr := 0, pwr.calOfs := (new : Int) - (s.ft : Int) }
  (s.wrF R.FTH_TIME F.FTH_TIME_TIME_VALID 1).note 0x0407 92 old new rid (b2n atPps)

/-- The error of the calendar at a PPS edge: modulo 10⁹ ns, between −0.5 s and +0.5 s. -/
def State.ppsErr (s : State) : Int :=
  let r := s.pwr.cal % 1000000000
  if r < 500000000 then (r : Int) else (r : Int) - 1000000000

end Sys2Proof.Machine
end

