-- ==== Sys2Proof/Machine/ReactOps.lean ====
section
/-! DEFINITION. What the occurrence of a fault source does (16_faults R359 to R361, R366 to R369): repairs, isolations, lost objects,
failed cores; and when a source's cause stands. -/

namespace Sys2Proof.Machine

open Sys2Proof

/-! ### Sources by unit (Table 16.2) -/

/-- The port whose pipeline fault a source is. -/
def srcPort (n : Nat) : Option Nat :=
  if n < 0x140 then some (n / 5) else if n < 0x14F then some (64 + (n - 0x140) / 5) else none

/-- The place of a port's source among its five. -/
def srcKind (n : Nat) : Nat := if n < 0x140 then n % 5 else (n - 0x140) % 5

/-- The domain that a source's reaction isolates. -/
def srcIso (n : Nat) : Option Nat :=
  if 0x210 ≤ n && n ≤ 0x219 then some (69 + (n - 0x210)) else if n = 0x21A then some 85 else none

/-- The management core whose failure a source means: its own source, or the loss of its memory. -/
def srcCore (n : Nat) : Option Nat :=
  if 0x250 ≤ n && n < 0x254 then some (n - 0x250)
  else if 0x206 ≤ n && n < 0x20E && n % 2 = 1 then some ((n - 0x206) / 2)
  else none

/-- A source that reports the loss of a stored word (cache die or HBM). -/
def srcStore (n : Nat) : Bool := (decide (0x1F0 ≤ n) && decide (n < 0x20E) && n % 2 == 1) || n == 0x240 || n == 0x242

/-- The unit that reports a source runs: its domain is on, or it is the always-on domain. -/
def State.srcLive (s : State) (n : Nat) : Bool := s.boot.pwrGood && (srcDomain n == 92 || s.domRuns (srcDomain n))

/-! ### Management cores (14_start R334; R369) -/

/-- The active core of a pair. -/
def State.activeCore (s : State) (k : Nat) : Nat := 2 * k + s.rdF (R.BOOT_FW k) F.BOOT_FW_ACTIVE

/-- A core is active or a ready standby. -/
def State.coreReady (s : State) (n : Nat) : Bool :=
  s.activeCore (n / 2) == n || s.rdF (R.BOOT_FW (n / 2)) F.BOOT_FW_STANDBY == 2

/-- A pair's activation runs, to the end of its standby's reload (14_start R332). -/
def State.activating (s : State) (k : Nat) : Bool := decide (3 ≤ s.rdF (R.BOOT_FW k) F.BOOT_FW_UPD)

/-- An update of a pair (14_start R332). -/
def State.update (s : State) (k : Nat) : Update :=
  (s.boot.updates.get? k).getD { staged := none, running := none, lost := false }

/-- The state with an update set. -/
def State.setUpdate (s : State) (k : Nat) (u : Update) : State := { s with boot.updates := s.boot.updates.set k u }

/-- The core's marks in the interrupt controller and its lock cells (12_host R290; 13_semaphore R300). -/
def State.coreLost (s : State) (n : Nat) : State := (s.tgtClear n).orphanId (0x1000 + n) 1

/-- FW_ACTIVATE ends MALFORMED with a reason; the staged image is kept (R332, R333). -/
def State.activateFail (s : State) (k reason : Nat) : State :=
  let u := s.update k
  let s := s.wrFs (R.BOOT_FW k) [(F.BOOT_FW_UPD, if u.staged.isSome then 2 else 0), (F.BOOT_FW_REASON, reason)]
  match u.running with
  | some r => (s.setUpdate k { u with running := none }).adminDone r St.malformed
      (w64 (reason + (match u.staged with | some i => i.version.toNat | none => 0) * 2 ^ 32))
  | none => s

/-- A core fails (R369, 14_start R333). A failed active core is replaced by a ready standby, or, while an activation loads the
standby, by the new image once it is loaded; with neither the pair is lost. A failed standby ends an activation. Its partner resets it
and it reloads. -/
def State.coreFail (s : State) (n : Nat) : State :=
  let k := n / 2
  let bit := n % 2
  let act := s.rdF (R.BOOT_FW k) F.BOOT_FW_ACTIVE
  let upd := s.rdF (R.BOOT_FW k) F.BOOT_FW_UPD
  let stby := s.rdF (R.BOOT_FW k) F.BOOT_FW_STANDBY
  let s := s.coreLost n
  if act = bit then
    if upd = 3 then s.setUpdate k { s.update k with lost := true }
    else if stby = 2 then s.wrFs (R.BOOT_FW k) [(F.BOOT_FW_ACTIVE, 1 - bit), (F.BOOT_FW_STANDBY, 1)]
    else s.ftRaise (0x254 + k) false
  else
    let u := s.update k
    if upd = 3 && u.lost then (s.wrF (R.BOOT_FW k) F.BOOT_FW_STANDBY 0).ftRaise (0x254 + k) false
    else
      let s := s.wrF (R.BOOT_FW k) F.BOOT_FW_STANDBY 1
      if upd = 3 then s.activateFail k 0x0C else s

/-! ### When a cause stands (Table 16.2, R366) -/

/-- The rule that raises Fathom fault `j` is ACTIVE. -/
def State.ruleFault (s : State) (j : Nat) : Bool :=
  s.pwr.rules.any fun p => p.2.arg.toNat % 16 == j && getF (s.rd (R.FTH_RULE_A p.1)) F.FTH_RULE_A_ACTIVE == 1
    && getF (s.rd (R.FTH_RULE_A p.1)) F.FTH_RULE_A_ACTION == 7

/-- ACTIVE of a source. -/
def State.active_ (s : State) (n : Nat) : Bool :=
  s.rdF (R.FLT_SRC n) F.FLT_SRC_FORCE == 1 ||
  (match srcPort n with
  | some p =>
    if srcKind n = 3 then s.pend n && s.rdF (R.LNK_CTL p) F.LNK_CTL_ENABLE == 0
    else srcKind n == 4 && s.portState p == 1 && s.rdF (R.LNK_CTL p) F.LNK_CTL_ENABLE == 1
  | none =>
    match srcIso n with
    | some d => s.pend n && s.rdF (R.PWR_DOM_CTL d) F.PWR_DOM_CTL_ENABLE == 0
    | none =>
      if n = 0x155 || n = 0x15B then s.rdF (R.HST_PORT_STAT ((n - 0x155) / 6)) F.HST_PORT_STAT_LINK_UP == 0
      else if 0x250 ≤ n && n < 0x254 then !s.coreReady (n - 0x250)
      else decide (0x270 ≤ n) && decide (n < 0x280) && s.ruleFault (n - 0x270))

/-! ### Packets lost in the buffer -/

/-- A packet in the packet buffer, with a grain in one of the banks given, is discarded, and its grains are freed. Nothing else
counts it. -/
def State.bufDrop (s : State) (p : Packet) (at_ : Nat → Bool) : State :=
  let hit := fun (b : BPkt) => b.pkt == p && b.banks.any at_
  match s.rte.buffered.find? hit with
  | some b => { s with rte.buffered := s.rte.buffered.erase b }.freeGrains b
  | none =>
    match s.rte.queues.find? fun q => q.2.any hit with
    | some q =>
      match q.2.find? hit with
      | some b => { s with rte.queues := s.rte.queues.set q.1 (q.2.erase b) }.freeGrains b
      | none => s
    | none =>
      match s.rte.localQ.find? hit with
      | some b => { s with rte.localQ := s.rte.localQ.erase b }.freeGrains b
      | none => s

/-! ### Bank repairs (R367) -/

/-- The use of a spare bank, numbered 2q + i. -/
def State.spare (s : State) (k : Nat) : SpareUse := (s.flt.spares.get? k).getD .free

/-- The state with a spare's use set. -/
def State.setSpare (s : State) (k : Nat) (u : SpareUse) : State := { s with flt.spares := s.flt.spares.set k u }

/-- The bank that a spare stands for in the rotation of R13. -/
def SpareUse.stands : SpareUse → Option Nat
  | .repairs b => some b
  | .fused b => some b
  | .testing b true => some b
  | _ => none

/-- The spares of a quadrant. -/
def sparesOf (q : Nat) : List Nat := [2 * q, 2 * q + 1]

/-- A free spare of a quadrant. -/
def State.freeSpare (s : State) (q : Nat) : Option Nat := (sparesOf q).find? fun k => s.spare k == .free

/-- Self-test holds a spare of a quadrant: one under test, one lent to a bank under test, or one being copied back. -/
def SpareUse.held : SpareUse → Bool
  | .testing _ _ => true
  | .returning _ => true
  | .marching => true
  | _ => false

/-- A bank is out of the rotation. -/
def State.bankOut (s : State) (b : Nat) : Bool := (sparesOf (b / 32)).any fun k => (s.spare k).stands == some b

/-- The bank whose place a bank source's bank has: itself, or the one that the spare stands for. -/
def State.srcBank (s : State) (n : Nat) : Option Nat :=
  if 0x160 ≤ n && n < 0x1E0 then (if s.bankOut (n - 0x160) then none else some (n - 0x160))
  else if 0x1E0 ≤ n && n < 0x1E8 then (s.spare (n - 0x1E0)).stands
  else none

/-- A copy onto a spare is in progress for a bank, or waits. -/
def State.repairing (s : State) (b : Nat) : Bool :=
  s.flt.waitRep.contains b || (sparesOf (b / 32)).any fun k => s.spare k == .copying b false || s.spare k == .copying b true

/-- The repair of a bank starts: a free spare is taken; or self-test gives up the spare it holds, at once or after the copy back. The
flag says that no spare can be had. -/
def State.bankRepair (s : State) (b : Nat) : State × Bool :=
  let q := b / 32
  if s.fatal || s.repairing b then (s, false)
  else match s.freeSpare q with
    | some k => (s.setSpare k (.copying b false), false)
    | none =>
      let held := (sparesOf q).filter fun k => (s.spare k).held
      if held.length ≤ (s.flt.waitRep.filter fun w => w / 32 == q).length then (s, true)
      else
        let mine := match s.flt.slice with
          | some sl => decide (sl.kind ≤ 2) && (if sl.kind = 1 then sl.unit_ / 32 else sl.unit_ / 2) == q
          | none => false
        let s : State := if mine then s.sliceAbandon else s
        match s.freeSpare q with
        | some k => (s.setSpare k (.copying b true), false)
        | none => ({ s with flt.waitRep := s.flt.waitRep ++ [b] }, false)

/-- An uncorrectable grain for which no spare can be had raises the quadrant's source (Table 16.2). -/
def State.grainFault (s : State) (n : Nat) : State :=
  match s.srcBank n with
  | none => s
  | some b =>
    let r := s.bankRepair b
    if r.2 then r.1.ucRaise (0x1E8 + b / 32) 0xFFFFFFFF 0 false else r.1

/-! ### HBM channels (R368) -/

/-- The rebuild of an HBM channel onto the spare channel starts, once per stack. -/
def State.hbmRepair (s : State) (i c : Nat) : State :=
  if s.fatal || s.rdF (R.TOP_HBM_STAT i) F.TOP_HBM_STAT_SPARE_USED = 1 || c = 15 then s
  else
    let f := s.rdF (R.TOP_HBM_STAT i) F.TOP_HBM_STAT_FAILED
    { s with flt.rebuild := s.flt.rebuild.set i c }.wrFs (R.TOP_HBM_STAT i)
      [(F.TOP_HBM_STAT_FAILED, f ||| 2 ^ c), (F.TOP_HBM_STAT_SPARE_FOR, c), (F.TOP_HBM_STAT_SPARE_USED, 1),
       (F.TOP_HBM_STAT_REBUILDING, 1)]

/-- REPAIR (Table 16.4). -/
def State.repairRec (s : State) (src spare us : Nat) (yielded : Bool) : State :=
  s.record 0x0205 1 (srcDomain src) (w64 src) (w64 spare) (w64 us) (w64 (b2n yielded)) 0

/-! ### The reactions of UC sources (R361, R366) -/

/-- An object that a lost word belonged to enters ERROR: XLATE_FAULT for a word of host memory, which the translation cache holds;
REMOTE_OP otherwise (DEDUCED, log 33). A lost group fails as a local fault. -/
def State.ownerFail (s : State) (n : Nat) (d : FaultDetail) : State :=
  let st := if n = 0x201 then St.xlateFault else St.remoteOp
  match d with
  | .ownerQp q => s.qpFail q st none none
  | .ownerMctx c => s.mctxError c st
  | .ownerGroup g => s.groupError g (s.localCause 4 st)
  | _ => s

/-- The object that FAULT_UC names. -/
def faultObject (n : Nat) (d : FaultDetail) : Nat :=
  match d with
  | .ownerQp q => q
  | .ownerGroup g => g
  | _ =>
    match srcPort n with
    | some p => p
    | none =>
      match srcIso n with
      | some d => d
      | none => if 0x150 ≤ n && n < 0x15C then 64 + (n - 0x150) / 6 else if (srcCore n).isSome then srcDomain n else 0xFFFFFFFF

/-- The address that FAULT_UC names. -/
def faultAddr : FaultDetail → Word
  | .address a => a
  | _ => 0

/-- An unreadable record of the recorder (Table 16.2): what it reads as is open, but its CRC no longer fits. -/
def State.slotSpoil (s : State) (i : Nat) : State :=
  match s.evr.slots.get? i with
  | some ws =>
    let f := s.freeVal
    let w := wordAt ws 7
    { f.2 with evr.slots := f.2.evr.slots.set i (ws.take 7 ++ [w ^^^ ((f.1 ||| 1) <<< 32)]) }
  | none => s

/-- A lifetime word that has become unreadable (18_recorder R394). -/
def State.lifeSpoil (s : State) (w : Nat) : State :=
  if w < 8192 then { s with evr.words := s.evr.words.set w (2 ^ 64 - 1) }.wrF R.LIF_STAT F.LIF_STAT_INVALID_NEW 1 else s

/-- A lost word of an object ends a snapshot that is taking it with ERROR (21_registers R429). -/
def State.insSpoil (s : State) (d : FaultDetail) : State :=
  let hit := fun (w : Word) => getF w F.INS_CMD_STATUS == 1 && (match d with
    | .ownerQp q => getF w F.INS_CMD_TYPE == 1 && getF w F.INS_CMD_INDEX == q
    | .ownerMctx c => (getF w F.INS_CMD_TYPE == 5 && getF w F.INS_CMD_INDEX == c)
        || (getF w F.INS_CMD_TYPE == 6 && getF w F.INS_CMD_INDEX / 2 ^ 24 == c)
    | .ownerGroup g => getF w F.INS_CMD_TYPE == 7 && getF w F.INS_CMD_INDEX == g
    | _ => false)
  (List.range 6).foldl (fun s w =>
    if hit (s.rd (R.INS_CMD w)) then s.wrFs (R.INS_CMD w) [(F.INS_CMD_STATUS, 6), (F.INS_CMD_WORDS, 0)] else s) s

/-- A line of the translation cache is dropped, and walked for again (Table 16.2); the model numbers its leaves as a snapshot does
(log 25). -/
def State.tlbSpoil (s : State) (i : Nat) : State := { s with xlt.tlb := s.xlt.tlb.eraseIdx i }

/-- The reaction of a UC source (Table 16.2). A forced occurrence discards no data of its own. What the sources of requests, of links
and of self-test stand for, the steps that raise them do themselves. -/
def State.ucReact (s : State) (n : Nat) (d : FaultDetail) (forced : Bool) : State :=
  let s : State := match d, forced with
    | .packet p, false => if srcPort n = none || srcKind n = 3 then s.bufDrop p fun _ => true else s
    | .grain p, false => if 0x1E8 ≤ n && n < 0x1EC then s.bufDrop p fun b => b / 32 == n - 0x1E8 else s
    | _, _ => s
  match srcPort n, srcIso n, srcCore n with
  | some p, _, _ => if srcKind n = 3 then s.portDisable p else s
  | none, some dom, _ => s.domIsolate dom
  | none, none, some c => s.coreFail c
  | none, none, none =>
    if srcStore n then (match d with
      | .address a => if n = 0x201 && !forced then s.tlbSpoil a.toNat else s
      | _ => (if forced then s else s.insSpoil d).ownerFail n d)
    else if n = 0x155 || n = 0x15B then (if forced then s.drainPort ((n - 0x155) / 6) else s)
    else if n = 0x265 then (match d with
      | .address a => if forced then s else s.slotSpoil a.toNat
      | _ => s)
    else if n = 0x267 then (match d with
      | .address a => if forced then s else s.lifeSpoil a.toNat
      | _ => s)
    else s

/-- The repair of a bank starts, if there is one (R367). -/
def State.repairSome (s : State) (b : Option Nat) : State :=
  match b with
  | some b => (s.bankRepair b).1
  | none => s

/-- An occurrence of a CE source (R360, R367, R368): a repair starts at the threshold; a grain that could not be corrected, and a
forced bank fault, start it at once. -/
def State.ceOccur (s : State) (n : Nat) (d : FaultDetail) (forced : Bool) : State :=
  let bank := decide (0x160 ≤ n) && decide (n < 0x1E8)
  let r := s.ceRaise n forced
  let s := r.1
  match d with
  | .grain p => if bank && !forced then (s.bufDrop p fun b => s.srcBank n == some b).grainFault n else s
  | _ =>
    if bank && (r.2 || forced) then s.repairSome (s.srcBank n)
    else if 0x220 ≤ n && n < 0x240 && r.2 then s.hbmRepair ((n - 0x220) / 16) ((n - 0x220) % 16)
    else s

/-- An occurrence of a UC source (R361). In the fatal state nothing reacts any more (R365). -/
def State.ucOccur (s : State) (n : Nat) (d : FaultDetail) (forced : Bool) : State :=
  let s := s.ucRaise n (faultObject n d) (faultAddr d) forced
  if s.fatal then s else s.ucReact n d forced

/-! ### Software's side (R360, R361, R366) -/

/-- A source whose cause stands while its PEND is 1 and its unit's ENABLE is 0 (Table 16.2). -/
def selfStands (n : Nat) : Bool := ((srcPort n).isSome && srcKind n == 3) || (srcIso n).isSome

/-- The cause of a UC source keeps its PEND bit from being cleared (R361). Where the cause stands by PEND itself, the clear is what ends
the isolation, so only FORCE keeps it (DEDUCED, log 39). -/
def State.clearBarred (s : State) (n : Nat) : Bool :=
  s.active_ n && (!selfStands n || s.rdF (R.FLT_SRC n) F.FLT_SRC_FORCE == 1)

/-- A write of 1 to a PEND bit. An FT source's stays until PWR_GOOD falls (R363; that the write counts as refused is DEDUCED,
log 34). -/
def State.pendClear (s : State) (rid n : Nat) : State :=
  match fltClass n with
  | 0 => s.setPend n false
  | 1 =>
    if s.clearBarred n then s.wrF R.FLT_STAT F.FLT_STAT_CLR_REFUSED 1
    else if s.pend n then (s.setPend n false).record 0x0204 2 (srcDomain n) (w64 n) (w64 rid) 0 0 0
    else s
  | 2 => if s.pend n then s.wrF R.FLT_STAT F.FLT_STAT_CLR_REFUSED 1 else s
  | _ => s

/-- A write to FLT_PEND[k]. -/
def State.pendWrite (s : State) (rid k : Nat) (val : Word) : State :=
  (List.range 64).foldl (fun s i => if bitAt val i then s.pendClear rid (64 * k + i) else s) s

/-- A write to FLT_SRC[n]: THRESHOLD and FORCE take their values; FORCE going from 0 to 1 raises one occurrence. -/
def State.srcWrite (s : State) (n : Nat) (val : Word) : State :=
  let force := getF val F.FLT_SRC_FORCE
  if fltClass n = 3 then s
  else if isFt n && force = 1 && s.rdF R.FLT_CTL F.FLT_CTL_FORCE_FT = 0 then s.wrF R.FLT_STAT F.FLT_STAT_CLR_REFUSED 1
  else
    let was := s.rdF (R.FLT_SRC n) F.FLT_SRC_FORCE
    let s := s.wrFs (R.FLT_SRC n) [(F.FLT_SRC_THRESHOLD, getF val F.FLT_SRC_THRESHOLD), (F.FLT_SRC_FORCE, force)]
    if force = 0 || was = 1 then s
    else match fltClass n with
      | 0 => s.ceOccur n .none true
      | 1 => s.ucOccur n .none true
      | _ => s.ftRaise n true

end Sys2Proof.Machine
end

