-- ==== Sys2Proof/Machine/Recorder.lean ====
section
/-! DEFINITION. The event recorder and lifetime data (18_recorder): writing slots, reading them, clearing the
recorder, and the lifetime counters. -/

namespace Sys2Proof.Machine

open Sys2Proof

/-- A slot as MRAM holds it: eight words, all zero when empty (R388). -/
def State.slot (s : State) (i : Nat) : List Word := (s.evr.slots.get? i).getD [0, 0, 0, 0, 0, 0, 0, 0]

/-- A record written into the next slot (R388); the hash of a family-0x01 record is then stored (R323). -/
def State.slotWrite (s : State) (r : Rec) : State :=
  let ws := recWords r s.evr.era s.evr.used
  { s with evr.slots := s.evr.slots.set s.evr.used ws, evr.used := s.evr.used + 1,
           evr.words := if r.code / 256 = 1 then chainStore s.evr.words ws else s.evr.words }

/-- RECORD_SLOT_WRITE (R388): the record at the queue's head takes the next slot, once the boot count has
advanced (R386), while no clear runs and the recorder is not full. -/
def execRecordSlotWrite (s : State) : Host.Outcome State Fault Refusal :=
  match s.evr.queue with
  | [] => .next s
  | r :: rest =>
    if s.boot.ao && s.boot.counted && s.evr.clearing.isNone && decide (s.evr.used < recSlots) then
      .next ({ s with evr.queue := rest }.slotWrite r)
    else .next s

/-- Bytes 0 to 63 of a token. -/
def tokenBytes (t : Token) : List Byte := bytesOfWords (Words8.toList t.body)

/-- A token's signature verifies under the Benius token key (R330). -/
def tokenBenius (t : Token) : Bool := Config.ecdsaVerify Config.beniusTokenKey (Config.sha384 (tokenBytes t)) t.sig

/-- The token of EVR_CLEAR names the current era and this device, and verifies (R392). -/
def clearTokenOk (s : State) (t : Token) : Bool :=
  t.body.w0 == w64 s.evr.era.toNat && t.body.w1 == s.devId && t.body.w2 == 0x4C4B4552#64
    && t.body.w3 == 0 && t.body.w4 == 0 && t.body.w5 == 0 && t.body.w6 == 0 && t.body.w7 == 0 && tokenBenius t

/-- Step 1 of R393: ERA advances, the recorder stops taking records, and the new era's LOST counts from 0. The
clear record keeps the old era, USED, LOST, the requester and the hash of the last slot (Table 18.4). -/
def State.clearStart (s : State) (r : CmdRef) : State :=
  let h := if s.evr.used = 0 then 0 else digestWord (Config.sha384 (bytesOfWords (s.slot (s.evr.used - 1)))) 0
  let rec_ := s.mkRec 0x0630 0 92 (w64 s.evr.era.toNat) (w64 s.evr.used) (w64 s.evr.lost) (w64 r.fn) h
  { s with evr.era := s.evr.era + 1, evr.lost := 0, evr.clearing := some (r, rec_) }

/-- A command of Table 14.14 or an EVR_CLEAR is in hand: they are taken one at a time (R331, R392). -/
def State.keyBusy (s : State) : Bool := s.evr.clearing.isSome || s.boot.updates.any fun u => u.2.running.isSome

/-- EVR_CLEAR (R392, R393). It waits while another clear, or a command of Table 14.14, is in hand. -/
def execEvrClear (c : AdminCmd) (token : FetchedToken) (s : State) : Host.Outcome State Fault Refusal :=
  if s.keyBusy then .next s
  else .next (s.asking (.cmd c.fn) fun s =>
    s.admin c 0x90 [(2, ones 0 20), (4, 0), (5, 0), (6, 0), (7, 0)] fun s r => s.pfOnly c r fun s r =>
      s.cmdRead r (bitsOf c.e.w2 0 20) c.e.w3 160 fun s => match token with
        | .failed st => s.adminDone r st 0
        | .token t => if clearTokenOk s t then s.clearStart r else s.adminDone r St.malformed 0)

/-- EVR_CLEAR_COMPLETE (R393 steps 2 to 4): every slot is zero, USED is 0, and RECORDER_CLEARED takes slot 0. -/
def execEvrClearComplete (s : State) : Host.Outcome State Fault Refusal :=
  match s.evr.clearing with
  | none => .next s
  | some (r, rec_) =>
    let s := { s with evr.slots := [], evr.used := 0, evr.clearing := none }
    .next ((s.slotWrite rec_).adminDone r St.ok (w64 s.evr.era.toNat))

/-- The slot copied into EVR_RD_DATA (R391). -/
def State.slotCopy (s : State) (i : Nat) : State :=
  (List.range 8).foldl (fun t k => t.wr (R.EVR_RD_DATA k) (wordAt (s.slot i) k)) s

/-- EVR_RD_IDX_WRITE (R391). -/
def execEvrRdIdxWrite (rid : Nat) (val : Word) (s : State) : Host.Outcome State Fault Refusal :=
  .next (s.viaReg rid R.EVR_RD_IDX fun s =>
    (s.wrF R.EVR_RD_IDX F.EVR_RD_IDX_SLOT (bitsOf val 0 16)).slotCopy (bitsOf val 0 16))

/-! ### Lifetime data -/

/-- The largest FILTERED value of channels. -/
def State.hottest (s : State) (cs : List Nat) : Nat :=
  cs.foldl (fun m c => Nat.max m (s.rdF (R.FTH_CHAN c) F.FTH_CHAN_FILTERED)) 0

/-- The die temperature value of R396, in the unit of Table 15.3. -/
def State.dieTemp (s : State) : Nat := s.hottest (List.range 56 ++ [60, 61, 62, 63])

/-- A temperature's bin (R396): 5 °C is 320 units, and −10 °C is 5,760. -/
def tempBin (v : Nat) : Nat := clamp 0 31 ((v - 5760) / 320)

/-- The thermal-cycle tracker's next state, and whether a cycle ends (R396): 40 °C is 2,560 units. -/
def trackStep (t : Option (Bool × Nat)) (v : Nat) : (Bool × Nat) × Bool :=
  match t with
  | none => ((false, v), false)
  | some (false, trough) =>
    if v ≥ trough + 2560 then ((true, v), false) else ((false, Nat.min trough v), false)
  | some (true, peak) =>
    if v + 2560 ≤ peak then ((false, v), true) else ((true, Nat.max peak v), false)

/-- LIFETIME_SECOND_SAMPLE (R395, R396): one second joins the accumulators while PWR_GOOD is high. -/
def execLifetimeSecondSample (s : State) : Host.Outcome State Fault Refusal :=
  if !s.boot.pwrGood then .next s
  else
    let s := s.passTo (s.evr.secAt + 1000000000)
    let s := { s with evr.secAt := s.now }
    let v := s.dieTemp
    let t := trackStep s.evr.tracker v
    let s := ((((s.lifeAdd 0 1).lifeAdd 3 v).lifeAdd (8 + tempBin v) 1).lifeAdd
      (40 + tempBin (s.hottest [56, 57, 58, 59])) 1).lifeAdd (72 + s.pwr.vcore) 1
    let s := { s with evr.tracker := some t.1 }
    .next (if t.2 then s.lifeAdd 2 1 else s)

/-- A lifetime word advanced, saturating at 2^48 − 1; an invalid word stays as it is (R394). -/
def lifeWord (w n : Nat) : Nat := if w ≥ 2 ^ 48 then w else satAdd (2 ^ 48 - 1) w n

/-- The accumulated counts are written into MRAM (R395). -/
def State.lifeFlush (s : State) : State :=
  let ws := s.evr.acc.foldl (fun t p => t.set p.1 (lifeWord ((t.get? p.1).getD 0) p.2)) s.evr.words
  { s with evr.words := ws, evr.acc := [] }

/-- LIFETIME_HOURLY_WRITE (R353, R395). -/
def execLifetimeHourlyWrite (s : State) : Host.Outcome State Fault Refusal :=
  if !s.boot.pwrGood then .next s
  else
    let s := s.passTo (s.evr.hourAt + 3600000000000)
    let s := { s with evr.hourAt := s.now }.lifeFlush
    .next (s.wrF R.LIF_STAT F.LIF_STAT_LAST_WRITE ((s.evr.words.get? 0).getD 0))

end Sys2Proof.Machine
end

