-- ==== Sys2Proof/Machine/BootOps.lean ====
section
/-! DEFINITION. Resets and the start of a boot (14_start R307 to R325; 20_package R416 to R422): what a fall of PWR_GOOD and a loss of
VDD_AO end, the hold in STAGE 0, fuses, measurement registers, recovery mode. -/

namespace Sys2Proof.Machine

open Sys2Proof

/-! ### Measurement (R321, R322) -/

/-- The bytes of a digest: byte 8k lies in bits [7:0] of word k. -/
def digestBytes (d : BitVec 384) : List Byte := (List.range 48).map fun k => BitVec.ofNat 8 (d.toNat / 256 ^ k)

/-- The bytes of a measurement register. -/
def State.mr (s : State) (i : Nat) : List Byte := (List.range 6).flatMap fun w => bytesOf (s.rd (R.KMU_MR i w)) 8

/-- A register is extended: MR_i becomes SHA-384(MR_i ‖ D). -/
def State.extend (s : State) (i : Nat) (d : BitVec 384) : State :=
  let v := Config.sha384 (s.mr i ++ digestBytes d)
  (List.range 6).foldl (fun s w => s.wr (R.KMU_MR i w) (digestWord v w)) s

/-- The domain that boot records come from: M0 (18_recorder, its worked example). -/
def srcBoot : Nat := 81

/-- A record of family 0x01 with numeric parameters. -/
def State.bootNote (s : State) (code p0 p1 p2 p3 p4 : Nat) : State :=
  s.record code 0 srcBoot (w64 p0) (w64 p1) (w64 p2) (w64 p3) (w64 p4)

/-- VERSION and SVN as MEAS_B carries them. -/
def verWord (version svn : Nat) : Word := w64 (version + svn * 2 ^ 32)

/-- A component is measured: its register is extended, and MEAS_A and MEAS_B are written (Tables 14.8, 14.9). -/
def State.measure (s : State) (i code : Nat) (d : BitVec 384) (ver : Word) : State :=
  let p := w64 (i + code * 256)
  let w := digestWord d
  ((s.extend i d).record 0x0103 0 srcBoot p (w 0) (w 1) (w 2) (w 3)).record 0x0104 0 srcBoot p (w 4) (w 5) ver 0

/-- A component whose VERSION and SVN the manual does not give is measured: they are a free value (log 4). -/
def State.measureFree (s : State) (i code : Nat) (d : BitVec 384) : State :=
  let f := s.freeVal
  f.2.measure i code d f.1

/-! ### Recovery mode (R317) -/

/-- The domains that recovery mode keeps. -/
def keptDom (d : Nat) : Bool := d == 81 || d == 86 || d == 92

/-- What the domains that stop hold is gone; what is kept is the outside, time, the fuses and the always-on domain with its
registers, and the levels of PERSTh_N, which are pins. A command in hand is completed to nobody. -/
def State.wipe (s : State) : State :=
  let pin := fun (h : Nat) => s.rdF (R.HST_PORT_STAT h) F.HST_PORT_STAT_PERST
  let evr := { s.evr with clearing := s.evr.clearing.map fun c => ({ c.1 with fn := 0xFFF }, c.2) }
  let t : State := { State.reset with
    pending := s.pending, out := s.out, free := s.free, now := s.now, ft := s.ft,
    regs := s.regs.filter fun p => s.regOfDom 92 p.1,
    boot := s.boot, pwr := s.pwr, flt := s.flt, evr := evr }
  (t.wrF (R.HST_PORT_STAT 0) F.HST_PORT_STAT_PERST (pin 0)).wrF (R.HST_PORT_STAT 1) F.HST_PORT_STAT_PERST (pin 1)

/-- The device enters recovery mode with a cause (R316, R317): every domain that it does not keep goes off, the flash is released. -/
def State.recover (s : State) (cause : Nat) : State :=
  let off := (List.range 93).filter fun d => !keptDom d && s.domState d != 0
  let s : State := if off.isEmpty then s else s.wipe
  let s := off.foldl (fun s d => (s.wrF (R.PWR_DOM_CTL d) F.PWR_DOM_CTL_ENABLE 0).domMove d 0 0x1000 0) s
  let s := s.wrFs R.BOOT_STAT [(F.BOOT_STAT_STAGE, 15), (F.BOOT_STAT_RECOVERY, cause)]
  { s with boot.wait := .none, boot.image := none }.emit .flashRelease |>.bootNote 0x0107 cause 0 0 0 0

/-! ### The start of a boot (Table 14.5) -/

/-- A domain that the boot sequence starts reaches ON (Table 15.1); a port is then DOWN. The identity is that of M0. -/
def State.domStart (s : State) (d : Nat) : State :=
  if s.domState d = 2 then s
  else
    let s := (s.wrF (R.PWR_DOM_CTL d) F.PWR_DOM_CTL_ENABLE 1).domMove d 2 0x1000 0
    match domPort d with
    | some p => s.wrF (R.LNK_STATE p) F.LNK_STATE_STATE 1
    | none => s

/-- A word of the CHAIN of lifetime data (R323; 18_recorder R394): 48 bytes of 0xFF when one is invalid. -/
def State.link (s : State) : List Word :=
  let ws := (List.range 6).map fun k => (s.evr.words.get? (640 + k)).getD 0
  if ws.any fun w => w == 2 ^ 64 - 1 then List.replicate 6 0xFFFFFFFFFFFFFFFF else ws.map w64

/-- A lifetime word that advances at once in MRAM. -/
def lifeUp (t : Tbl Nat) (w n : Nat) : Tbl Nat := t.set w (lifeWord ((t.get? w).getD 0) n)

/-- The first steps of a boot (R321 to R323): the store's state is noted, the boot count advances, MR0 and MR6 are extended,
BOOT_START and BOOT_INFO written. The VERSION and SVN that the MEAS_B records of the boot ROM and of the fuses carry are not given. -/
def State.bootFirst (s : State) : State :=
  let link := s.link
  let words := if s.evr.closed then s.evr.words else lifeUp s.evr.words 4 1
  let s := s.wrF R.LIF_STAT F.LIF_STAT_CLOSED_LAST (b2n s.evr.closed)
  let s : State := { s with
    boot.holding := false, boot.counted := true, evr.words := lifeUp words 1 1, evr.closed := false, evr.tracker := none }
  let s := ((s.domStart 81).domStart 86).wrF R.BOOT_STAT F.BOOT_STAT_STAGE 1
  let s := s.measureFree 0 0x01 Config.romDigest
  let s := s.measureFree 6 0x07
    (Config.fuseDigest s.boot.lc s.boot.ownerFused s.boot.beniusHash s.boot.ownerHash s.boot.svnMin)
  let l := fun k => wordAt link k
  let s := s.record 0x0101 0 srcBoot (w64 s.bootCount) (l 0) (l 1) (l 2) (l 3)
  let info := s.boot.lc + b2n s.boot.bootSrc * 8 + b2n s.boot.ownerFused * 16 + Config.romVersion.toNat * 256
  s.record 0x0102 0 srcBoot (l 4) (l 5) s.devId (w64 info) (w64 s.boot.svnMin)

/-- A boot that has taken its first steps reads the directory, or enters recovery mode (Table 14.5, R316). -/
def State.bootGo (s : State) : State :=
  if s.boot.bootSrc then s.recover 3
  else if s.boot.lc = 0 || s.boot.lc = 5 then s.recover 4
  else { s with boot.wait := .directory }.emit (.flashRead .directory)

/-- The boot from the fuses to STAGE 1 (Table 14.5). -/
def State.bootRun (s : State) : State := s.bootFirst.bootGo

/-- The limits of a voltage channel in mV (20_package Table 20.7). It gives none for VDD_HBM. -/
def State.railLimits (s : State) (c : Nat) : Nat × Nat :=
  if c < 80 then (670 + 10 * s.pwr.vcore, 730 + 10 * s.pwr.vcore)
  else if c < 86 then (776, 824)
  else if c < 90 then (882, 918)
  else if c < 94 then (1176, 1224)
  else (1710, 1890)

/-- Every voltage channel that Table 20.7 limits reads within it (R420). -/
def State.railsIn (s : State) : Bool :=
  (List.range 31).all fun i =>
    let v := s.rdF (R.FTH_CHAN (64 + i)) F.FTH_CHAN_FILTERED
    let l := s.railLimits (64 + i)
    decide (l.1 * 32 ≤ v) && decide (v ≤ l.2 * 32)

/-- PWR_GOOD rose again within 20 ms of its fall (R420). -/
def State.early (s : State) : Bool := s.boot.fellAt.any fun t => decide (s.boot.pgAt < t + 20000000)

/-- A device held in STAGE 0 boots once its rails are in range and, after an early rise, 1 ms after the closing write (R420). -/
def State.bootTry (s : State) : State :=
  if !s.boot.pwrGood || !s.boot.holding || !s.railsIn || (s.early && s.evr.closing) then s
  else if s.early then (s.pass 1000000).bootRun
  else s.bootRun

/-- PWR_GOOD rises (R308, R314, R236): the straps are sampled, fabric time is 0, and what counts from reset starts. A pulse of less
than 10 µs is no rise (R420). Calendar time goes on, and fabric time is compared with it anew. -/
def State.rise (s : State) (bootSrc : Bool) (spanPos : BitVec 2) : State :=
  let s : State := { s with
    ft := 0, pwr.calOfs := s.pwr.cal, flt.winAt := s.now, flt.tryAt := s.now, flt.aliveAt := s.now,
    evr.secAt := s.now, evr.hourAt := s.now }
  let b := { s.boot with pwrGood := true, pgAt := s.now, bootSrc := bootSrc, holding := true, counted := false }
  let s := ({ s with boot := b }.wrF R.SPN_GROUP F.SPN_GROUP_POS spanPos.toNat).wrF (R.PWR_DOM_STAT 92) F.PWR_DOM_STAT_STATE 2
  (s.pass 10000).bootTry

/-! ### Resets (20_package R421, R422) -/

/-- A register of the always-on domain that a fall of PWR_GOOD returns to its reset value: the status of the boot, the measurement
registers, the fault status and PEND bits (R363), and the control and status of the domains that stop. -/
def fallReg (off : Nat) : Bool :=
  off == R.BOOT_STAT || off == R.FLT_STAT
    || (decide (R.KMU_MR 0 0 ≤ off) && decide (off < R.KMU_MR 8 0))
    || (decide (R.FLT_PEND 0 ≤ off) && decide (off < R.FLT_PEND 10))
    || (decide (R.PWR_DOM_CTL 0 ≤ off) && decide (off < R.PWR_DOM_CTL 92))
    || (decide (R.PWR_DOM_STAT 0 ≤ off) && decide (off < R.PWR_DOM_STAT 92))

/-- What the pins show at a fall (Table 20.12): transmitters go to electrical idle without announcement, the flash is released, ALIVE
and CORE_VSEL_EN go low, THERMTRIP_N is released. -/
def State.pinsDown (s : State) : State :=
  let s := (List.range 67).foldl (fun s p => if s.linked p then s.emit (.electricalIdle p false) else s) s
  let s := [0, 1].foldl (fun s h =>
    if s.rdF (R.HST_PORT_STAT h) F.HST_PORT_STAT_LINK_UP = 1 then s.emit (.hostIdle h) else s) s
  let s : State := if s.boot.wait = .none then s else s.emit .flashRelease
  let s : State := if s.flt.alive then s.emit (.pinAlive false) else s
  let s : State := if s.pwr.vselEn then s.emit (.vselEn false) else s
  if s.pwr.trip then s.emit (.pinThermtrip false) else s

/-- What a fall of PWR_GOOD at a time leaves of the boot: a pending life-cycle state takes effect (R330). -/
def fallenBoot (b : Boot) (now : Nat) : Boot :=
  { b with
    pwrGood := false, fellAt := some now, holding := false, wait := .none, image := none, lc := b.lcNext,
    log := [], cdi := 0, eid := 0, ringUnits := 0, updates := [] }

/-- PWR_GOOD falls (R363, R420, R421): every domain but 92 stops, the closing write starts, staged and live images are discarded, and a
pending life-cycle state takes effect (R330). -/
def State.fall (s : State) : State :=
  let s := s.pinsDown.wipe.keepRegs fun r => !fallReg r
  let s := s.regs.foldl (fun s p =>
    if R.FLT_SRC 0 ≤ p.1 && p.1 < R.FLT_SRC 640 then s.wrF p.1 F.FLT_SRC_COUNT 0 else s) s
  let s : State := { s with
    boot := fallenBoot s.boot s.now, flt := State.reset.flt, pwr.doms := [], pwr.trip := false, pwr.vcore := 5, pwr.vselEn := false,
    evr.closed := false, evr.closing := true }
  s.calSource

/-- VDD_AO is lost (R354, R422): what the always-on domain held outside MRAM and fuses is gone, and a closing write that had not ended
never will be. -/
def State.aoLoss (s : State) : State :=
  let s : State := if s.boot.pwrGood then s.fall else s.wipe
  let evr := { s.evr with queue := [], acc := [], tracker := none, clearing := none, closing := false }
  let s := s.keepRegs fun r => !s.regOfDom 92 r
  { s with evr := evr, boot.ao := false, boot.counted := false, boot.fellAt := none, pwr := State.reset.pwr }

end Sys2Proof.Machine
end

