-- ==== Sys2Proof/Machine/Fathom.lean ====
section
/-! DEFINITION. Fathom as the block's own steps (15_power R337, R344 to R354): samples, rules, VDD_CORE, the thermal trip, clock
checks and calendar time. Fathom runs whenever the always-on domain does. -/

namespace Sys2Proof.Machine

open Sys2Proof

/-- The activity of a port over `d` ns, in 1/65,535 of what its current rate carries: the larger of both directions; 0 for a port that
is down (Table 15.3). -/
def State.activity (s : State) (p d : Nat) : Nat :=
  let x := s.px p
  if !s.carrying p then 0
  else Nat.min 65535 (Nat.max x.actTx x.actRx * 64 * 65535 / Nat.max 1 (d * s.portRate p))

/-- The ports whose activity a channel samples. -/
def actPorts (c : Nat) : List Nat := (List.range 4).map fun i => 4 * (c - 112) + i

/-- What a channel samples, `d` ns after its last sample: a lane-margin channel takes the least MARGIN among the active lanes of its
four ports, times 256 (11_lanes R254, Table 15.3), if one is active; an activity channel the largest activity of its four ports; any
other what its sensor gives. -/
def State.sampleAt (s : State) (c d x : Nat) : Nat :=
  if c < 96 then x
  else if 112 ≤ c then (actPorts c).foldl (fun m p => Nat.max m (s.activity p d)) 0
  else
    let ls := (List.range 16).map fun i => 16 * (c - 96) + i
    match (ls.filter s.laneActive).map s.margin with
    | m :: ms => ms.foldl Nat.min m * 256
    | [] => x

/-- The ports of an activity channel start to count anew. -/
def State.actClear (s : State) (c : Nat) : State :=
  if c < 112 then s
  else { s with lnk.exch := s.lnk.exch.map fun q => if (actPorts c).contains q.1 then (q.1, { q.2 with actTx := 0, actRx := 0 }) else q }

/-- CHANNEL_SAMPLE (R254, R349, R350): an enabled channel is sampled at its interval. A boot held in STAGE 0 may go on (20_package
R420). -/
def execChannelSample (channel : Nat) (x : BitVec 16) (s : State) : Host.Outcome State Fault Refusal :=
  if !s.boot.ao || 128 ≤ channel || s.rdF (R.FTH_CHAN channel) F.FTH_CHAN_ENABLE = 0 then .next s
  else
    let step := 100000 * (s.rdF (R.FTH_CHAN channel) F.FTH_CHAN_DIV + 1)
    let s : State := match s.pwr.chanAt.get? channel with
      | some t => s.passTo (t + step)
      | none => s
    let d := s.now - (s.pwr.chanAt.get? channel).getD (s.now - step)
    let v := s.sampleAt channel d x.toNat
    .next (({ s with pwr.chanAt := s.pwr.chanAt.set channel s.now }.actClear channel).sampled channel v).bootTry

/-- RULE_WRITE (R352): a rule that is ACTIVE first leaves; then the new condition is stored. -/
def execRuleWrite (rid rule : Nat) (val : Word) (s : State) : Host.Outcome State Fault Refusal :=
  if 256 ≤ rule then .next s
  else .next (s.viaReg rid (R.FTH_RULE_A rule) fun s =>
    let s : State := if s.rdF (R.FTH_RULE_A rule) F.FTH_RULE_A_ACTIVE = 1 then s.ruleLeave rule else s
    s.wrFs (R.FTH_RULE_A rule) ([F.FTH_RULE_A_HYST, F.FTH_RULE_A_THRESHOLD, F.FTH_RULE_A_ACTION, F.FTH_RULE_A_RECORD,
      F.FTH_RULE_A_REVERT, F.FTH_RULE_A_BELOW, F.FTH_RULE_A_ENABLE, F.FTH_RULE_A_CHANNEL].map fun f => (f, getF val f)))

/-- VCORE_TARGET_STEP (R337; 20_package R416): one step toward the fused table's value, at most every 100 µs, while CORE_VSEL_EN is
high. -/
def execVcoreTargetStep (s : State) : Host.Outcome State Fault Refusal :=
  let want := Nat.min 10 (Config.fusedVcore s.dieTemp)
  if !s.pwr.vselEn || want = s.pwr.vcore then .next s
  else
    let s := s.passTo (s.pwr.vcoreAt + 100000)
    let new := if s.pwr.vcore < want then s.pwr.vcore + 1 else s.pwr.vcore - 1
    .next ({ s with pwr.vcore := new, pwr.vcoreAt := s.now }.emit (.vcore new))

/-- THERMAL_TRIP (R346, Table 16.2): THERMTRIP_N is asserted until PWR_GOOD falls, and the fatal source occurs. -/
def execThermalTrip (channel : Nat) (raw : BitVec 16) (s : State) : Host.Outcome State Fault Refusal :=
  if !s.boot.pwrGood || s.pwr.trip then .next s
  else
    let s := { s with pwr.trip := true }.emit (.pinThermtrip true)
    .next ((s.note 0x0405 92 channel raw.toNat 0 0).ftRaise 0x260 false)

/-- A clock input is declared lost (R347). -/
def State.clockLose (s : State) (i : Nat) : State :=
  let s := { s with pwr.clkLost := s.pwr.clkLost.set i s.now, pwr.clkBack := s.pwr.clkBack.erase i }
  let s := s.wrF R.PWR_CLK_STAT ⟨16 + i, 1⟩ 1
  let s := s.note 0x0406 92 i 1 0 0
  if i < 4 then
    (List.range 67).foldl (fun s p => if quadrant p = i then s.portBreak p 5 false else s) (s.wrF R.PWR_CLK_STAT ⟨24 + i, 1⟩ 1)
  else if i < 6 && s.domRuns (60 + i) then s.hostLinkDown (i - 4)
  else s

/-- A clock input has returned (R347). -/
def State.clockBack (s : State) (i lost : Nat) : State :=
  let s := { s with pwr.clkLost := s.pwr.clkLost.erase i, pwr.clkBack := s.pwr.clkBack.erase i, pwr.clkBad := s.pwr.clkBad.erase i }
  let s := s.wrF R.PWR_CLK_STAT ⟨i, 1⟩ 1
  let s : State := if i < 4 then s.wrF R.PWR_CLK_STAT ⟨24 + i, 1⟩ 0 else s
  s.note 0x0406 92 i 0 ((s.now - lost) / 1000) 0

/-- CLOCK_CHECK (R347): every 10 µs an input is checked. It is lost after two bad checks in a row, and has returned after it has
stayed within 0.1 % for 1 ms. -/
def execClockCheck (input : Nat) (present within1 within01 : Bool) (s : State) : Host.Outcome State Fault Refusal :=
  if !s.boot.ao || 7 ≤ input then .next s
  else
    let s : State := match s.pwr.clkAt.get? input with
      | some t => s.passTo (t + 10000)
      | none => s
    let s := { s with pwr.clkAt := s.pwr.clkAt.set input s.now }
    match s.pwr.clkLost.get? input with
    | some lost =>
      if !(present && within01) then .next { s with pwr.clkBack := s.pwr.clkBack.erase input }
      else
        let since := (s.pwr.clkBack.get? input).getD s.now
        if since + 1000000 ≤ s.now then .next (s.clockBack input lost).stCheck
        else .next { s with pwr.clkBack := s.pwr.clkBack.set input since }
    | none =>
      if present && within1 then
        .next ({ s with pwr.clkBad := s.pwr.clkBad.erase input }.wrF R.PWR_CLK_STAT ⟨input, 1⟩ 1)
      else
        let n := (s.pwr.clkBad.get? input).getD 0 + 1
        let s := { s with pwr.clkBad := s.pwr.clkBad.set input n }.wrF R.PWR_CLK_STAT ⟨input, 1⟩ 0
        .next (if 2 ≤ n then (s.clockLose input).stCheck else s.stCheck)

/-- CLOCK_HOLDOVER_EXPIRY (R347, Table 16.2): 10 ms after the loss the reference has not returned. -/
def execClockHoldoverExpiry (quadrant : Nat) (s : State) : Host.Outcome State Fault Refusal :=
  match s.pwr.clkLost.get? quadrant with
  | some t => .next (if 4 ≤ quadrant || s.pend (0x25C + quadrant) then s else (s.passTo (t + 10000000)).ftRaise (0x25C + quadrant) false)
  | none => .next s

/-- PPS_EDGE (R354): the edge counts toward the source; it sets the calendar if that is armed; an edge with |e| ≤ 1 ms disciplines
it, and three in a row with more drop the source. -/
def execPpsEdge (s : State) : Host.Outcome State Fault Refusal :=
  if !s.boot.ao then .next s
  else
    let s : State := match s.pwr.clkLost.get? 7 with
      | some t => s.clockBack 7 t
      | none => s.wrF R.PWR_CLK_STAT ⟨7, 1⟩ 1
    let apart := match s.pwr.ppsAt with
      | some t => decide (t + 999900000 ≤ s.now) && decide (s.now ≤ t + 1000100000)
      | none => false
    let run := if apart then s.pwr.ppsRun + 1 else 1
    let s : State := match s.pwr.setAtPps with
      | some rid => { s with pwr.setAtPps := none }.calSet rid true
      | none => s
    let valid := s.rdF R.FTH_TIME F.FTH_TIME_TIME_VALID == 1
    let e := if valid then s.ppsErr else 0
    let s := s.wrF R.FTH_TIME F.FTH_TIME_PPS_ERR (BitVec.ofInt 32 e).toNat
    let good := decide (-1000000 ≤ e) && decide (e ≤ 1000000)
    let bad := if good then 0 else s.pwr.ppsBad + 1
    let drop := s.pwr.ppsOn && 3 ≤ bad
    let on := !drop && (s.pwr.ppsOn || 3 ≤ run)
    let s := { s with pwr.ppsAt := some s.now, pwr.ppsRun := if drop then 0 else run, pwr.ppsBad := if drop then 0 else bad,
                      pwr.ppsOn := on }
    let s : State := if on && good && valid then { s with pwr.calErr := e, pwr.calOfs := (s.pwr.cal : Int) - (s.ft : Int) } else s
    .next s.calSource

/-- PPS_LOSS (R347, R354): no edge within 1.1 s of the previous one. -/
def execPpsLoss (s : State) : Host.Outcome State Fault Refusal :=
  match s.pwr.ppsAt with
  | none => .next s
  | some t =>
    if !s.boot.ao then .next s
    else
      let s := s.passTo (t + 1100000000)
      let s := { s with pwr.ppsAt := none, pwr.ppsRun := 0, pwr.ppsBad := 0, pwr.ppsOn := false }
      .next (((s.wrF R.PWR_CLK_STAT ⟨7, 1⟩ 0).clockLose 7).calSource)

/-- CAL_SET_NOW (R354): a write of SET_NOW. -/
def execCalSetNow (rid : Nat) (s : State) : Host.Outcome State Fault Refusal :=
  .next (s.viaReg rid R.FTH_TIME fun s => s.calSet rid false)

/-- CAL_SET_AT_PPS (R354): a write of SET_AT_PPS. -/
def execCalSetAtPps (rid : Nat) (s : State) : Host.Outcome State Fault Refusal :=
  .next (s.viaReg rid R.FTH_TIME fun s => { s with pwr.setAtPps := some rid })

end Sys2Proof.Machine
end

