-- ==== Sys2Proof/Machine/Faults.lean ====
section
/-! DEFINITION. Fault sources, repairs and management-core failures as the block's own steps (16_faults R360 to R369). -/

namespace Sys2Proof.Machine

open Sys2Proof

/-- CE_OCCURRENCE (R360, R367, R368): a corrected error of a unit that runs. A bank out of the rotation carries no traffic and raises
nothing; a spare raises its source while it is in use. -/
def execCeOccurrence (source : Nat) (detail : FaultDetail) (s : State) : Host.Outcome State Fault Refusal :=
  let bank := decide (0x160 ≤ source) && decide (source < 0x1E8)
  .next (if fltClass source != 0 || !s.srcLive source || (bank && (s.srcBank source).isNone) then s
    else s.ceOccur source detail false)

/-- UC_OCCURRENCE (R361): an uncorrected error of a unit that runs, and its reaction. A host link that goes down while PERSTh_N is
deasserted is its row's (R279). -/
def execUcOccurrence (source : Nat) (detail : FaultDetail) (s : State) : Host.Outcome State Fault Refusal :=
  if fltClass source != 1 || !s.srcLive source then .next s
  else if source = 0x155 || source = 0x15B then
    let h := (source - 0x155) / 6
    .next (if s.rdF (R.HST_PORT_STAT h) F.HST_PORT_STAT_LINK_UP = 1 && s.rdF (R.HST_PORT_STAT h) F.HST_PORT_STAT_PERST = 0
      then s.hostLinkDown h else s)
  else .next (s.ucOccur source detail false)

/-- FT_OCCURRENCE (R362, R365): the device enters the fatal state, or another source sets its PEND bit. -/
def execFtOccurrence (source : Nat) (s : State) : Host.Outcome State Fault Refusal :=
  .next (if isFt source then s.ftRaise source false else s)

/-- CE_WINDOW in ns. -/
def State.ceWindow (s : State) : Nat := 1000000 * Nat.max 1 (s.rdF R.FLT_CTL F.FLT_CTL_CE_WINDOW)

/-- CE_WINDOW_EXPIRY (R360): the window counts return to 0, and the next window begins. -/
def execCeWindowExpiry (s : State) : Host.Outcome State Fault Refusal :=
  if !s.boot.pwrGood then .next s
  else
    let s := s.passTo (s.flt.winAt + s.ceWindow)
    .next { s with flt.window := [], flt.reported := [], flt.winAt := s.now }

/-- FAULT_PEND_CLEAR (R360, R361): a write to FLT_PEND[k]. -/
def execFaultPendClear (rid k : Nat) (val : Word) (s : State) : Host.Outcome State Fault Refusal :=
  if 10 ≤ k then .next s
  else .next (s.viaReg rid (R.FLT_PEND k) fun s => s.pendWrite rid k val)

/-- FAULT_FORCE (R366): a write of FLT_SRC with FORCE = 1. -/
def execFaultForce (rid source : Nat) (val : Word) (s : State) : Host.Outcome State Fault Refusal :=
  if 640 ≤ source then .next s
  else .next (s.viaReg rid (R.FLT_SRC source) fun s => s.srcWrite source (putF val F.FLT_SRC_FORCE 1))

/-- BANK_REPAIR_COMPLETE (R367 step 4): the spare replaces the bank, or the failing spare that stood for it, which is retired. -/
def execBankRepairComplete (bank copyUs : Nat) (s : State) : Host.Outcome State Fault Refusal :=
  let at_ := fun (y : Bool) => (sparesOf (bank / 32)).find? fun k => s.spare k == .copying bank y
  let done := fun (k : Nat) (y : Bool) =>
    let old := (sparesOf (bank / 32)).find? fun j => j != k && (s.spare j).stands == some bank
    let s : State := match old with
      | some j => s.setSpare j .retired
      | none => s
    let src := match old with
      | some j => 0x1E0 + j
      | none => 0x160 + bank
    (s.setSpare k (.repairs bank)).repairRec src k copyUs y
  if s.fatal || 128 ≤ bank then .next s
  else match at_ false, at_ true with
    | some k, _ => .next (done k false)
    | none, some k => .next (done k true)
    | none, none => .next s

/-- HBM_REBUILD_COMPLETE (R368 step 3). -/
def execHbmRebuildComplete (iface copyUs : Nat) (s : State) : Host.Outcome State Fault Refusal :=
  match s.flt.rebuild.get? iface with
  | none => .next s
  | some c =>
    if s.fatal then .next s
    else
      let s := { s with flt.rebuild := s.flt.rebuild.erase iface }.wrF (R.TOP_HBM_STAT iface) F.TOP_HBM_STAT_REBUILDING 0
      .next (s.repairRec (0x220 + 16 * iface + c) (16 * iface + 15) copyUs false)

/-- The firmware of the management cores runs (14_start Table 14.5). -/
def State.fwRuns (s : State) : Bool := s.boot.pwrGood && !s.fatal && decide (3 ≤ s.stage) && decide (s.stage ≤ 6)

/-- HEARTBEAT_TIMEOUT (R369): a core that runs has missed three heartbeats. -/
def execHeartbeatTimeout (core : Nat) (s : State) : Host.Outcome State Fault Refusal :=
  .next (if !s.fwRuns || 4 ≤ core || !s.srcLive (0x250 + core) then s else s.ucOccur (0x250 + core) .none false)

/-- CORE_RELOAD_COMPLETE (R369): a failed core that its partner has reset is the ready standby. -/
def execCoreReloadComplete (core : Nat) (s : State) : Host.Outcome State Fault Refusal :=
  let k := core / 2
  if !s.fwRuns || 4 ≤ core || s.activeCore k = core || s.rdF (R.BOOT_FW k) F.BOOT_FW_STANDBY != 1
      || 3 ≤ s.rdF (R.BOOT_FW k) F.BOOT_FW_UPD then .next s
  else .next (s.wrF (R.BOOT_FW k) F.BOOT_FW_STANDBY 2)

/-- ALIVE_TOGGLE (R364): 500 µs after its last change ALIVE toggles, from STAGE 6 on and outside the fatal state. -/
def execAliveToggle (s : State) : Host.Outcome State Fault Refusal :=
  if !s.boot.pwrGood || s.fatal || s.stage != 6 then .next s
  else
    let s := s.passTo (s.flt.aliveAt + 500000)
    .next ({ s with flt.alive := !s.flt.alive, flt.aliveAt := s.now }.emit (.pinAlive (!s.flt.alive)))

end Sys2Proof.Machine
end

