-- ==== Sys2Proof/Machine/Inspect.lean ====
section
/-! DEFINITION. The inspection unit (21_registers R428 to R430): snapshots of internal objects, laid out as in Tables 21.2 and 21.3. -/

namespace Sys2Proof.Machine

open Sys2Proof

/-- A word of fields: each a first bit, a width and a value. -/
def fieldsW (fs : List (Nat × Nat × Nat)) : Word := w64 (fs.foldl (fun a f => a + f.2.2 % 2 ^ f.2.1 * 2 ^ f.1) 0)

/-- MTU as CREATE_QP codes it (Table 2.8). -/
def mtuCode (n : Nat) : Nat := if n = 256 then 0 else if n = 1024 then 1 else if n = 2048 then 2 else 3

/-- Bits of a map of PSNs relative to a first one, as four words. -/
def mapWords (ps : List Nat) : List Word :=
  (List.range 4).map fun k => w64 (ps.foldl (fun a i => if i / 64 = k then a ||| 2 ^ (i % 64) else a) 0)

/-- Queue-pair context; one that no command has created reads as in RESET. -/
def State.snapQp (s : State) (q : Nat) : List Word :=
  match s.ten.qps.get? q with
  | none => fieldsW [(16, 3, (s.ten.gens.get? q).getD 0)] :: List.replicate 7 0
  | some v =>
    let conn := !v.node
    let c := fun (n : Nat) => if conn then n else 0
    let trap := s.xlt.traps.find? fun t => t.2.qp == q
    [fieldsW [(0, 3, v.st.code), (3, 1, b2n v.enable), (4, 8, v.cause), (12, 1, b2n v.node), (13, 1, b2n v.spray),
       (14, 2, mtuCode v.mtu), (16, 3, v.gen), (19, 1, b2n v.sqDev), (20, 1, b2n v.rqDev), (21, 1, b2n v.noRq), (22, 5, v.sqLog),
       (27, 5, v.rqLog), (32, 16, v.pkey.toNat), (48, 12, v.eq)],
     fieldsW [(0, 20, v.sendCq), (20, 20, v.recvCq), (40, 20, v.asid)],
     fieldsW [(0, 32, v.sqProd.toNat), (32, 32, v.sqCons.toNat)],
     fieldsW [(0, 32, v.rqProd.toNat), (32, 32, v.rqCons.toNat)],
     fieldsW [(0, 18, c v.remote.node), (18, 21, c v.remote.qp), (39, 3, c v.remote.gen), (42, 16, c v.gate.next.toNat),
       (58, 4, c v.sp.cnLast)],
     fieldsW [(0, 24, c v.sp.sendNext.toNat), (24, 24, c v.sp.sendUna.toNat), (48, 16, c v.flow.next.toNat)],
     fieldsW [(0, 24, c v.sp.recvE.toNat), (24, 16, c (v.sp.rto / 1000)), (40, 4, c v.sp.retries), (44, 1, b2n trap.isSome),
       (45, 13, (trap.map Prod.fst).getD 0)],
     fieldsW [(0, 16, v.uncov)]]

/-- Node-pair context. -/
def State.snapNode (s : State) (n : Nat) : List Word :=
  match s.tra.nodes.get? n with
  | none => List.replicate 16 0
  | some v =>
    let st := match v.st with
      | .idle => 0
      | .syncing => 1
      | .active => 2
    let p := v.sp
    let due := match p.deadline with
      | some t => s.ft + (t - s.now)
      | none => 0
    let marks := (p.sent.filter (·.marked)).map fun t => (t.psn - p.sendUna).toNat
    [fieldsW [(0, 2, st), (8, 16, v.peerInc.toNat), (24, 16, v.syncId.toNat), (40, 16, v.ownSync.toNat), (56, 4, p.cnLast), (60, 4, p.retries)],
     fieldsW [(0, 24, p.sendNext.toNat), (24, 24, p.sendUna.toNat)],
     fieldsW [(0, 24, p.recvE.toNat), (24, 16, p.rto / 1000)],
     w64 due] ++ mapWords (marks.filter (· < 256))
      ++ (List.range 4).map (fun k => w64 (p.recvMap.toNat / 2 ^ (64 * k)))
      ++ List.replicate 4 0

/-- Completion queue; one that no command has created reads DISABLED. -/
def State.snapCq (s : State) (i : Nat) : List Word :=
  match s.ten.cqs.get? i with
  | none => List.replicate 4 0
  | some v =>
    [fieldsW [(0, 2, v.st.code), (2, 1, b2n v.enable), (3, 1, b2n (v.arm == .next)), (4, 1, b2n (v.arm == .solicited)), (5, 5, v.logSize),
       (10, 12, v.eq), (22, 20, v.asid), (42, 16, v.stallMs)],
     w64 v.base,
     fieldsW [(0, 32, v.prod.toNat), (32, 32, v.cons.toNat)],
     fieldsW [(0, 1, b2n (phaseOf v.prod v.logSize)), (1, 1, b2n v.stallAt.isSome)]]

/-- Window entry (05_remote Table 5.1). -/
def State.snapWin (s : State) (i : Nat) : List Word :=
  let v := s.win i
  let code := match v.st with
    | .free => 0
    | .open_ => 1
    | .revoking => 2
    | .quarantine => 3
  [fieldsW [(0, 48, v.base), (48, 1, b2n v.hbm), (49, 1, b2n v.read), (50, 1, b2n v.write), (51, 1, b2n v.atomic), (52, 1, b2n v.anySrc),
     (53, 1, b2n v.anyQp), (54, 2, code), (56, 8, v.gen.toNat)],
   fieldsW [(0, 48, v.len), (48, 16, v.owner)],
   fieldsW [(0, 21, v.bindQp), (21, 20, v.asid), (41, 12, v.eq)],
   fieldsW [(0, 18, v.srcNode), (18, 21, v.srcQp)]]

/-- Matching context. -/
def State.snapMctx (s : State) (i : Nat) : List Word :=
  match s.mat.ctxs.get? i with
  | none => List.replicate 4 0
  | some v =>
    [fieldsW [(0, 2, v.st.code), (2, 21, v.qp), (23, 20, v.cq)],
     fieldsW [(0, 25, v.postMax), (25, 25, v.posted.length)],
     fieldsW [(0, 16, v.limit), (32, 32, v.charge)],
     fieldsW [(0, 1, b2n v.high)]]

/-- Collective group. -/
def State.snapGroup (s : State) (g : Nat) : List Word :=
  let v := s.grp g
  [fieldsW [(0, 3, v.st.code), (3, 8, v.gen.toNat), (11, 16, v.opSeq.toNat), (27, 8, v.reason),
     (35, 7, (v.edges.filter fun e => !e.joined).length), (42, 8, v.localN), (50, 1, b2n (match v.op with
       | some o => o.active
       | none => false))],
   fieldsW [(0, 16, v.pkey.toNat), (16, 20, v.asid), (36, 21, v.bindQp)],
   fieldsW [(0, 12, v.eq), (12, 8, v.cwin), (20, 7, (v.edges.filter fun e => !e.up).length)],
   fieldsW [(0, 32, v.staging)]]

/-- TLB entry. The manual does not say in which set and way a leaf lies: the model numbers its leaves in the order it holds them
(DESIGN CHOICE, log 25). -/
def State.snapTlb (s : State) (i : Nat) : List Word :=
  match s.xlt.tlb[i]? with
  | none => [0, 0, 0]
  | some l =>
    [fieldsW [(0, 1, 1), (1, 1, b2n l.w), (2, 2, l.size), (4, 2, l.attr), (6, 1, b2n l.a), (7, 1, b2n l.d), (8, 1, b2n l.dev), (9, 20, l.asid)],
     fieldsW [(12, 36, l.page)], fieldsW [(12, 40, l.bus / 4096)]]

/-- Trap slot. -/
def State.snapTrap (s : State) (i : Nat) : List Word :=
  match s.xlt.traps.get? i with
  | none => [0, 0]
  | some t =>
    [fieldsW [(0, 1, 1), (1, 21, t.qp), (22, 20, t.asid), (42, 1, b2n t.dirty), (43, 2, t.size), (48, 16, (s.now - t.since) / 1000000)],
     fieldsW [(12, 36, t.page)]]

/-- Route entry (08_routing Table 8.4). -/
def State.snapRoute (s : State) (i : Nat) : List Word :=
  let e := i % 8192
  let base := if i / 8192 = 0 then R.RTE_TBL_ACT e 0 else R.RTE_TBL_SHD e 0
  [s.rd base, s.rd (base + 8)]

/-- Credit counter of a lane of a port (10_link R226). -/
def State.snapCredit (s : State) (p v : Nat) : List Word :=
  let q := s.port p
  let cnt := fun (t : Tbl Count32) => ((t.get? v).getD 0).toNat
  [fieldsW [(0, 32, cnt q.freed), (32, 32, cnt q.carried)],
   fieldsW [(0, 32, cnt q.seen), (32, 16, (q.credit.get? v).getD 0), (48, 16, (s.rte.resHeld.get? (p * 32 + v)).getD 0)]]

/-- Fathom filter. -/
def State.snapFilter (s : State) (c : Nat) : List Word :=
  [fieldsW [(0, 32, (s.pwr.y.get? c).getD 0), (32, 16, s.rdF (R.FTH_CHAN c) F.FTH_CHAN_RAW),
    (48, 16, s.rdF (R.FTH_CHAN c) F.FTH_CHAN_FILTERED)]]

/-- Key set of a function (08_routing R190). -/
def State.snapKeys (s : State) (f : Nat) : List Word :=
  let ks := (s.fn f).keys
  w64 ks.length :: (List.range 4).map fun k => fieldsW ((List.range 4).map fun i => (16 * i, 16, ((ks.drop (4 * k + i)).headD 0).toNat))

/-- A traffic-class value in force (09_traffic R207). -/
def State.snapTcs (s : State) (off : Nat) : List Word := [(s.tcs.force.get? off).getD (resetOf off)]

/-- The statuses of INS_CMD that end a snapshot early. -/
def insBadType : Nat := 3
def insBadIndex : Nat := 4
def insNotOn : Nat := 5

/-- A snapshot of an object (R429, Table 21.2): its words, or the status that it ends with. The index is checked before the holder's
domain. -/
def State.snapshot (s : State) (type i : Nat) : Except Nat (List Word) :=
  let obj := fun (max dom : Nat) (ws : List Word) =>
    if max ≤ i then .error insBadIndex else if !s.domOn dom then .error insNotOn else .ok ws
  match type with
  | 0x01 => obj (2 ^ 21) (69 + i % 4) (s.snapQp i)
  | 0x02 => obj (2 ^ 18) (69 + i % 4) (s.snapNode i)
  | 0x03 => obj (2 ^ 20) (69 + i % 4) (s.snapCq i)
  | 0x04 => obj (2 ^ 24) 91 (s.snapWin i)
  | 0x05 => obj (2 ^ 16) (73 + i % 4) (s.snapMctx i)
  | 0x06 =>
    let c := i / 2 ^ 24
    match ((s.mat.ctxs.get? c).map (·.posted)).bind fun l => l[i % 2 ^ 24]? with
    | some p => obj (2 ^ 40) (73 + c % 4) (Words8.toList p.e)
    | none => .error insBadIndex
  | 0x07 => obj (2 ^ 16) (77 + i % 2) (s.snapGroup i)
  | 0x08 => obj (2 ^ 17) 85 (s.snapTlb i)
  | 0x09 => obj (2 ^ 13) 85 (s.snapTrap i)
  | 0x0A => if 4160 ≤ i % 8192 then .error insBadIndex else obj (2 ^ 14) 91 (s.snapRoute i)
  | 0x0B => obj (2 ^ 14) 91 [s.cell i]
  | 0x0C => if 67 ≤ i % 128 then .error insBadIndex else obj (2 ^ 12) (portDom (i % 128)) (s.snapCredit (i % 128) (i / 128))
  | 0x0D => obj 128 92 (s.snapFilter i)
  | 0x0E => if !fnOk i then .error insBadIndex else obj 4096 91 (s.snapKeys i)
  | 0x0F => if !isTcsStaged i then .error insBadIndex else obj (2 ^ 24) 91 (s.snapTcs i)
  | _ => .error insBadType

/-- The requester that owns a window (R428). -/
def insOwner (w : Nat) : Nat := if w = 0 then 0 else if w = 1 then 0x800 else 0x1000 + (w - 2)

/-- A snapshot ends with a status and nothing copied. -/
def State.insEnd (s : State) (w status : Nat) : State :=
  s.wrFs (R.INS_CMD w) [(F.INS_CMD_STATUS, status), (F.INS_CMD_WORDS, 0)]

/-- A write to INS_CMD[w] (R428, R429 steps 1 and 2). -/
def State.insWrite (s : State) (rid w : Nat) (val : Word) : State :=
  if rid != insOwner w || s.rdF (R.INS_CMD w) F.INS_CMD_STATUS = 1 || s.fatal then s
  else
    let t := getF val F.INS_CMD_TYPE
    let i := getF val F.INS_CMD_INDEX
    let s := s.wrFs (R.INS_CMD w) [(F.INS_CMD_TYPE, t), (F.INS_CMD_INDEX, i), (F.INS_CMD_STATUS, 1)]
    match s.snapshot t i with
    | .error e => s.insEnd w e
    | .ok _ => s

/-- INSPECT_START (R428, R429): a write to INS_CMD. -/
def execInspectStart (rid window : Nat) (val : Word) (s : State) : Host.Outcome State Fault Refusal :=
  if 6 ≤ window then .next s
  else .next (s.viaReg rid (R.INS_CMD window) fun s => s.insWrite rid window val)

/-- INSPECT_COMPLETE (R429 steps 3 and 4, R430): the object is copied as it stands, all words change together, and nothing else does. -/
def execInspectComplete (window : Nat) (s : State) : Host.Outcome State Fault Refusal :=
  if 6 ≤ window || s.rdF (R.INS_CMD window) F.INS_CMD_STATUS != 1 || s.fatal then .next s
  else
    let c := s.rd (R.INS_CMD window)
    -- a copy in progress has reached some place
    let s : State := if getF c F.INS_CMD_TYPE = 0x0A && bitAt c 13 then s.copyGo else s
    match s.snapshot (getF c F.INS_CMD_TYPE) (getF c F.INS_CMD_INDEX) with
    | .error e => .next (s.insEnd window e)
    | .ok ws =>
      let s := (List.range 64).foldl (fun s k => s.wr (R.INS_DATA window k) (wordAt ws k)) s
      .next (s.wrFs (R.INS_CMD window) [(F.INS_CMD_STATUS, 2), (F.INS_CMD_WORDS, ws.length)])

end Sys2Proof.Machine
end

