-- ==== Sys2Proof/Machine/Irc.lean ====
section
/-! DEFINITION. The commands of the interrupt controller (12_host R286 to R290). -/

namespace Sys2Proof.Machine

open Sys2Proof

/-- IRC_SOURCE_RISE (R286, R288): the controller sees a high level and delivers to every open target that has a
claimable source. -/
def execIrcSourceRise (source : Nat) (s : State) : Host.Outcome State Fault Refusal :=
  .next (if s.ircLevel source then (List.range 6).foldl (fun t i => t.resample i) s else s)

/-- IRC_WINDOW_END (R288): a target's mask window ends, and the target is re-sampled. -/
def execIrcWindowEnd (target : Nat) (s : State) : Host.Outcome State Fault Refusal :=
  match s.irc.windows.get? target with
  | none => .next s
  | some e =>
    let s := s.passTo e
    let s := { s with irc.windows := s.irc.windows.erase target }.wrF (R.IRC_TGT target) F.IRC_TGT_WINDOW_RUN 0
    .next (s.resample target)

/-- A read of IRC_CLAIM[t] that returns all of its fields (R289): the best claimable source goes into service and is returned with its
PRIORITY, or 0x100 is. -/
def State.ircClaim (s : State) (rid target bytes : Nat) : State :=
  match s.regCause (R.IRC_CLAIM target) with
  | some (c, d) => (s.accessErr rid (R.IRC_CLAIM target) false c d).emit (.readReturn rid 0 bytes)
  | none =>
    match s.ircBest target with
    | none => s.emit (.readReturn rid 0x100 bytes)
    | some n =>
      { s with irc.service := (target, n) :: s.irc.service }.emit (.readReturn rid (w64 (n + s.ircPrio n * 512)) bytes)

/-- IRC_CLAIM (R289): a read of IRC_CLAIM[t]. -/
def execIrcClaim (rid target : Nat) (s : State) : Host.Outcome State Fault Refusal :=
  .next (if !ridFull rid || !s.barOpen rid || 6 ≤ target then s else s.ircClaim rid target 8)

/-- IRC_EOI (R289): the source leaves service at the target, which is re-sampled; values above 0xFF are discarded. -/
def execIrcEoi (rid target : Nat) (val : Word) (s : State) : Host.Outcome State Fault Refusal :=
  if 6 ≤ target then .next s
  else .next (s.viaReg rid (R.IRC_EOI target) fun s =>
    let n := getF val F.IRC_EOI_SOURCE
    if n ≤ 0xFF then
      { s with irc.service := s.irc.service.filter fun p => !(p.1 == target && p.2 == n) }.resample target
    else s)

/-- IRC_CONFIG_WRITE (R288): a write to IRC_SRC or IRC_TGT sets the rw fields and re-samples every target. -/
def execIrcConfigWrite (rid off : Nat) (val : Word) (s : State) : Host.Outcome State Fault Refusal :=
  .next (s.viaReg rid off fun s =>
    if off % 8 = 0 && R.IRC_SRC 0 ≤ off && off < R.IRC_SRC 256 then
      let s := s.wrFs off [(F.IRC_SRC_TARGETS, getF val F.IRC_SRC_TARGETS), (F.IRC_SRC_PRIORITY, getF val F.IRC_SRC_PRIORITY)]
      (List.range 6).foldl (fun t i => t.resample i) s
    else if off % 8 = 0 && R.IRC_TGT 0 ≤ off && off < R.IRC_TGT 6 then
      -- VECTOR exists at targets 4 and 5 only
      let vec := if off < R.IRC_TGT 4 then s.rdF off F.IRC_TGT_VECTOR else getF val F.IRC_TGT_VECTOR
      let s := s.wrFs off [(F.IRC_TGT_VECTOR, vec), (F.IRC_TGT_WINDOW, getF val F.IRC_TGT_WINDOW),
        (F.IRC_TGT_THRESHOLD, getF val F.IRC_TGT_THRESHOLD)]
      (List.range 6).foldl (fun t i => t.resample i) s
    else s)

end Sys2Proof.Machine
end

