-- ==== Sys2Proof/Machine/Link.lean ====
section
/-! DEFINITION. The commands of the link layer (10_link): blocks, replay, the training exchange, changes, timers and
fabric time. A command for a control flit is that flit's acceptance; BLOCK_RECEIVE gives the block's own effects
(log 22). -/

namespace Sys2Proof.Machine

open Sys2Proof

/-! ### Blocks (R215 to R217, R245, R257) -/

/-- The KIND word of eight flits (R215). -/
def kindWord (fs : List Flit) : Nat :=
  (List.range 8).foldl (fun a i => a + (match fs[i]? with | some f => f.kind % 4 | none => 0) * 4 ^ i) 0

/-- The low 32 bits of a trailer (Table 10.2). -/
def trlWord (t : Trailer) : Nat :=
  t.bsn.toNat + b2n t.fmt * 2 ^ 12 + b2n t.nak * 2 ^ 13 + t.body.toNat * 2 ^ 14 + t.lpar.toNat * 2 ^ 28

/-- The bytes a block CRC covers (R216): the KIND word, the flits, trailer bytes 0 to 3. -/
def crcBytes (fs : List Flit) (t : Trailer) : List Byte :=
  bytesOf (w64 (kindWord fs)) 2 ++ fs.flatMap (fun f => bytesOfWords (Words8.toList f.ws)) ++ bytesOf (w64 (trlWord t)) 4

/-- The CRC of a block (R216). -/
def blockCrc (fs : List Flit) (t : Trailer) : BitVec 32 := crc32 (crcBytes fs t)

/-- The position, among `w` lanes, that byte `k` of a block image takes: stream byte k mod w of a fabric port, counted
from `start`; restarting at each block on a span port (R245, R257). -/
def lanePos (span : Bool) (w start k : Nat) : Nat := if span then k % (4 * w) / 4 else (start + k) % w

/-- LPAR of a block (R216): bit i is the even parity of the bits that lane i carries of the KIND word, the flits and
trailer bits [27:0]; 0 for lanes out of use. `start` is the stream index of the block's first byte. -/
def lparOf (span : Bool) (act : BitVec 4) (start : Nat) (fs : List Flit) (t : Trailer) : BitVec 4 :=
  let ls := lanesOf act
  let bytes := bytesOf (w64 (kindWord fs)) 2 ++ fs.flatMap (fun f => bytesOfWords (Words8.toList f.ws))
    ++ bytesOf (w64 (trlWord { t with lpar := 0 })) 4
  let odd := fun (pos : Nat) =>
    ((List.range bytes.length).foldl (fun a k =>
      if lanePos span ls.length start k = pos then a + onesOf 8 (bytes.getD k 0).toNat else a) 0) % 2
  BitVec.ofNat 4 ((List.range ls.length).foldl (fun a j => a + odd j * 2 ^ (ls.getD j 0)) 0)

/-- The stream index of the next block's first byte (R245). -/
def streamAt (n : Nat) : Nat := 522 * n

/-- The image of a block (11_lanes R245): the KIND word, the flits, the trailer. -/
def imageOf (b : Block) : List Byte := crcBytes b.flits b.trl ++ bytesOf (w64 b.crc.toNat) 4

/-- The trailer that the low 32 bits of a trailer word spell (Table 10.2). -/
def trlOf (w : Word) : Trailer :=
  { bsn := BitVec.ofNat 12 (bitsOf w 0 12), fmt := bitAt w 12, nak := bitAt w 13, body := BitVec.ofNat 14 (bitsOf w 14 14),
    lpar := BitVec.ofNat 4 (bitsOf w 28 4) }

/-- The block that an image spells. -/
def blockOf (bs : List Byte) : Block :=
  let kinds := wordOfBytes (slice bs 0 2)
  let tail := wordOfBytes (slice bs 514 8)
  { flits := (List.range 8).map fun i => { kind := bitsOf kinds (2 * i) 2, ws := entryOfBytes (slice bs (2 + 64 * i) 64) },
    trl := trlOf tail, crc := BitVec.ofNat 32 (bitsOf tail 32 32) }

/-- The blocks outstanding: NEXT less UNA. -/
def Port.outstanding (q : Port) : Nat := (q.next - q.una).toNat

/-- The flits of a packet (R218): HEAD, then BODY flits, the last one padded with zeros. -/
def pktFlits (p : Packet) : List Words8 :=
  hdrFlit p :: (List.range (grainsOf p - 1)).map fun i => entryOfBytes (slice p.payload (64 * i) 64)

/-- REPLAY_TO in ns. -/
def State.replayTo (s : State) : Nat := 1000 * s.tmr R.LNK_TMR_A F.LNK_TMR_A_REPLAY_TO 1 64

/-- Both conditions of R232 step 4 hold: the lanes are handed to the retrain. -/
def State.tryHand (s : State) (p : Nat) : State :=
  match (s.px p).change with
  | some c =>
    match c.pauseBsn with
    | some b =>
      let acked := ((s.port p).una - b).toNat < 2048 && (s.port p).una != b
      if !c.handed && c.pauseRx && c.pauseAcked && acked then s.laneHand p c else s
    | none => s
  | none => s

/-! ### Receiving (R218, R221, R222, R226) -/

/-- The packet that a HEAD flit names, with no payload yet (Table 3.3). -/
def hdrParse (f : Words8) : Packet × Nat :=
  let b := bitsOf
  ({ dstNode := b f.w0 0 18, srcNode := b f.w0 18 18, vl := b f.w0 36 5, hops := b f.w0 41 5,
     age := BitVec.ofNat 16 (b f.w0 46 16), type := b f.w1 0 5, tc := b f.w1 5 3, dstQp := b f.w1 8 21,
     dstGen := b f.w1 29 3, srcQp := b f.w1 32 21, srcGen := b f.w1 53 3, node := bitAt f.w1 56, ord := bitAt f.w1 57,
     ackReq := bitAt f.w1 58, solicit := bitAt f.w1 59, retx := bitAt f.w1 60, flowNew := bitAt f.w1 61,
     psn := BitVec.ofNat 24 (b f.w2 0 24), msn := BitVec.ofNat 16 (b f.w2 24 16), pkey := BitVec.ofNat 16 (b f.w2 40 16),
     flowlet := b f.w2 56 4, cn := b f.w2 60 4, offset := b f.w3 0 32, msgLen := b f.w3 32 32, w4 := f.w4, w5 := f.w5,
     w6 := f.w6, inc := BitVec.ofNat 16 (b f.w7 16 16), hcrc := BitVec.ofNat 32 (b f.w7 32 32), payload := [] },
   b f.w7 0 13)

/-- The packets that are open below a BSN once the flits of a block lie below it too, as the flits still to come of each, innermost
first (R218, R229). -/
def openAfter (o : List Nat) (fs : List Flit) : List Nat :=
  fs.foldl (fun o f =>
    if f.kind = 1 then
      let n := ceilDiv (64 + (hdrParse f.ws).2) 64
      if n ≤ 1 then o else (n - 1) :: o
    else if f.kind = 2 then (match o with
      | n :: rest => if n ≤ 1 then rest else (n - 1) :: rest
      | [] => [])
    else o) o

/-- Framing state while a block is read: the open packets, those that closed, and whether a rule broke. -/
structure Framing where
  main : Option LinkPkt
  pre  : Option LinkPkt
  done : List Packet
  bad  : Bool
deriving DecidableEq, Repr

/-- A packet that is complete after its n-th flit: header and payload. -/
def closePkt (k : LinkPkt) : Packet :=
  let h := hdrParse (k.flits.headD (words8 []))
  { h.1 with payload := (k.flits.drop 1).flatMap (fun f => bytesOfWords (Words8.toList f)) |>.take h.2 }

/-- An open packet with one more flit: closed, or still open. -/
def addFlit (k : LinkPkt) (f : Words8) : Option LinkPkt × List Packet :=
  let k := { k with flits := k.flits ++ [f] }
  if k.flits.length ≥ k.n then (none, [closePkt k]) else (some k, [])

/-- One flit of a block under R218. -/
def frameFlit (a : Framing) (f : Flit) : Framing :=
  if a.bad then a
  else if f.kind = 1 then
    let h := hdrParse f.ws
    let k : LinkPkt := { pkt := h.1, flits := [], n := ceilDiv (64 + h.2) 64, from_ := none }
    if a.pre.isSome || 4096 < h.2 then { a with bad := true }
    else match a.main with
      | some m =>
        if h.1.tc != 0 || m.pkt.tc = 0 then { a with bad := true }
        else
          let r := addFlit k f.ws
          { a with pre := r.1, done := a.done ++ r.2 }
      | none =>
        let r := addFlit k f.ws
        { a with main := r.1, done := a.done ++ r.2 }
  else if f.kind = 2 then
    match a.pre with
    | some k => let r := addFlit k f.ws; { a with pre := r.1, done := a.done ++ r.2 }
    | none =>
      match a.main with
      | some k => let r := addFlit k f.ws; { a with main := r.1, done := a.done ++ r.2 }
      | none => { a with bad := true }
  else a

/-- A replay starts (R222, R223): from the acknowledged BSN, unless one that began there is in progress; the LNK_CNT
kind says whether a NAK or the timer started it. REPLAY_LIMIT replays in a row request a retrain. -/
def State.startReplay (s : State) (p : Nat) (kind : Nat) : State :=
  let q := s.port p
  if q.replayFrom = some q.una then s
  else
    let n := q.replays + 1
    let s := s.updP p fun q => { q with
      replay := if q.una = q.next then none else some q.una,
      replayFrom := if q.una = q.next then none else some q.una, replays := n, replayDue := s.now + s.replayTo }
    let s := ((s.lnkCount p kind 1).ceRaise (portSrc p + 1) false).1
    if n = s.tmr R.LNK_TMR_A F.LNK_TMR_A_REPLAY_LIMIT 1 15 then s.reqOwn p 0 (s.active p) whoLink false else s

/-- LINK_CHANGE (R232 step 5): a port back in UP after a change. -/
def State.changeDone (s : State) (p : Nat) (c : Change) : State :=
  let s := s.wrFs (R.LNK_STATE p) [(F.LNK_STATE_STATE, 3), (F.LNK_STATE_ACTIVE, c.result.toNat)]
  let cmd := (s.px p).cmd
  let s := s.updX p fun x => { x with change := none, graceAt := none, cmd := if c.mine then false else x.cmd }
  let s : State := if c.mine && cmd then s.wrF (R.LNK_CMD p) F.LNK_CMD_STATUS 2 else s
  let op := if p < 64 && c.req.op = 2 then 0 else c.req.op
  let s : State := if 64 ≤ p && c.req.op = 2 then s.wrF (R.SPN_STAT (p - 64)) F.SPN_STAT_SPEED_NOW (b2n c.req.speed) else s
  let s := s.note 0x0303 (portDom p) p op (c.before.toNat + c.result.toNat * 16) (if c.mine then c.req.who else 2 ^ 16)
  s.nowUp p

/-- After a change the sender replays from the acknowledged BSN (R232 step 5). -/
def State.startAck (s : State) (p : Nat) (a : BitVec 12) : State :=
  s.updP p fun q => { q with
    replay := if a = q.next then none else some a,
    replayFrom := if a = q.next then none else some a, replayDue := s.now + s.replayTo }

/-- The trailer of a good block is used (R221, R222, R226): acknowledgement or credit return. -/
def State.useTrailer (s : State) (p : Nat) (t : Trailer) : State :=
  let q := s.port p
  if t.fmt then
    let v := t.body.toNat % 32
    let old := (q.seen.get? v).getD 0
    s.creditAdd p v ((t.body.toNat / 32 + 512 - old.toNat % 512) % 512)
  else
    let a := t.body.setWidth 12
    let adv := (a - q.una).toNat
    if q.outstanding < adv then s
    else
      let freed := q.store.filter fun b => decide ((b.bsn - q.una).toNat < adv)
      let s := s.updP p fun q => { q with
        una := a, store := q.store.filter fun b => decide (adv ≤ (b.bsn - q.una).toNat),
        ackOpen := freed.foldl (fun o b => openAfter o b.flits) q.ackOpen,
        replayDue := if adv = 0 then q.replayDue else s.now + s.replayTo, replays := if adv = 0 then q.replays else 0,
        replay := match q.replay with
          | some b => if (b - q.una).toNat < adv then (if a = q.next then none else some a) else some b
          | none => none,
        replayFrom := if a = q.next then none else q.replayFrom }
      let s : State := if t.nak then s.startReplay p 3 else s
      let s : State := match (s.px p).breakAt with
        | some (some (b, _)) => if ((s.port p).una - b).toNat < 2048 && (s.port p).una != b then s.portBreak p 4 false else s
        | _ => s
      let s := s.tryHand p
      match (s.px p).change with
      | some c => if c.trained then (s.startAck p a).changeDone p c else s
      | none => s

/-- A block that fails its CRC, or is treated so (R221, R235, R248): counted, its lanes blamed, NAK set. -/
def State.badBlock (s : State) (p : Nat) (blamed : BitVec 4) : State :=
  let first := !(s.port p).nak
  let s := s.lnkCount p 0 1
  let s : State := if first then (s.updP p fun q => { q with nak := true, nakDue := true }).lnkCount p 2 1 else s
  (lanesOf blamed).foldl (fun s i =>
    let s : State := if first then s.lifeAdd (if p < 64 then 352 + 4 * p + i else 620 + 4 * (p - 64) + i) 1 else s
    s.blame p i 1) s

/-- The lanes are with the retrain of a change (R232 step 4): no blocks pass. -/
def State.retraining (s : State) (p : Nat) : Bool :=
  match (s.px p).change with
  | some c => c.handed && !c.trained
  | none => false

/-- A marker, or a COM row, was missing or wrong on a lane, or was right: how many in a row were not (R249, R259). -/
def State.markMiss (s : State) (p lane : Nat) (bad : Bool) : State :=
  s.updX p fun x => { x with missed := if bad then x.missed.set lane ((x.missed.get? lane).getD 0 + 1) else x.missed.erase lane }

/-- A later marker of a lane at position `j` of `w` while block `n` is received (R247): where one is due it must be the one expected,
and LANE sets or clears ORDER_ERR; one with EI_NEXT is accepted anywhere, and its own row acts on it. -/
def State.markerSeen (s : State) (p n w lane j : Nat) (m : Option (BitVec 120)) : State :=
  if (m.elim false fun m => markerPattern m && markerEi m) then s
  else match markerIn n j w with
    | none => s
    | some c =>
      let want := markerBits lane (s.active p) false (j + w * (c * markerGap))
      let s : State := match m with
        | some m => if markerPattern m then s.wrF (R.LAN_STAT (4 * p + lane)) F.LAN_STAT_ORDER_ERR (b2n (markerLane m != lane)) else s
        | none => s
      s.markMiss p lane (m != some want)

/-- BLAME_SYM; 0 is taken as 1 (LAN_FEC_CTL). -/
def State.blameSym (s : State) : Nat := Nat.max 1 (s.rdF R.LAN_FEC_CTL F.LAN_FEC_CTL_BLAME_SYM)

/-- A codeword of a lane (R248): corrected symbols and uncorrectable codewords are counted; an uncorrectable one, or one with more
corrected symbols than BLAME_SYM, blames its lane and is remembered. -/
def State.codeword (s : State) (p lane : Nat) (c : Option Nat) : State :=
  let l := 4 * p + lane
  let i := ((s.px p).words.get? lane).getD 0
  let s := s.updX p fun x => { x with words := x.words.set lane (i + 1) }
  let s : State := match c with
    | none => s.bump (R.LAN_FEC l) F.LAN_FEC_UNCORR 1
    | some n => s.bump (R.LAN_FEC l) F.LAN_FEC_CORR n
  if c.elim true fun n => decide (s.blameSym < n) then
    let s := s.updX p fun x => { x with fecBad := x.fecBad.set lane (i :: (x.fecBad.get? lane).getD []) }
    ((s.blame p lane 1).ceRaise (portSrc p) false).1
  else s

/-- The codeword in which bit `b` of a lane byte `m` lies (R246): a marker takes the first 120 bits of every 1,024th codeword. -/
def wordOfByte (m b : Nat) : Nat := m / markerGap * 1024 + (120 + 8 * (m % markerGap) + b) / 5140

/-- The codewords that hold a lane's share of block `n`: the first and the last. -/
def wordsOf (n j w : Nat) : Nat × Nat := (wordOfByte (laneBytes n j w) 0, wordOfByte (laneBytes (n + 1) j w - 1) 7)

/-- The lanes that their FEC has blamed for a codeword that overlaps block `n` (R248); codewords wholly before it are forgotten. -/
def State.fecBlamed (s : State) (p n : Nat) : BitVec 4 :=
  let w := (lanesOf (s.active p)).length
  (laneSpots (s.active p)).foldl (fun m l =>
    let r := wordsOf n l.2 w
    if (((s.px p).fecBad.get? l.1).getD []).any fun i => decide (r.1 ≤ i) && decide (i ≤ r.2) then m ||| laneSet (2 ^ l.1) else m) 0

/-- Blamed codewords that lie before block `n` are forgotten. -/
def State.fecForget (s : State) (p n : Nat) : State :=
  let w := (lanesOf (s.active p)).length
  s.updX p fun x => { x with fecBad := x.fecBad.map fun t =>
    match (laneSpots (s.active p)).find? fun l => l.1 == t.1 with
    | some l => (t.1, t.2.filter fun i => decide ((wordsOf n l.2 w).1 ≤ i))
    | none => (t.1, []) }

/-- What the lanes of a fabric port reported with a block: markers, then codewords; a lane with three bad markers in a row is lost
(R247 to R249). -/
def State.lanesReport (s : State) (p n : Nat) (rx : List LaneRx) : State :=
  let w := (lanesOf (s.active p)).length
  let set := laneSpots (s.active p)
  let of_ := fun (i : Nat) => rx.find? fun r => r.lane == i
  let s := set.foldl (fun s l => s.markerSeen p n w l.1 l.2 ((of_ l.1).bind LaneRx.marker)) s
  let s := set.foldl (fun s l => ((of_ l.1).elim [] LaneRx.codewords).foldl (fun s c => s.codeword p l.1 c) s) s
  let lost := set.foldl (fun m l => if 3 ≤ ((s.px p).missed.get? l.1).getD 0 then m ||| laneSet (2 ^ l.1) else m) (0 : BitVec 4)
  if lost = 0 then s else (s.updX p fun x => { x with missed := [] }).lanesLost p lost

/-- Code errors on data lanes of a span port are counted (SPN_LANE_ERR). -/
def State.laneErrs (s : State) (p : Nat) (ls : List Nat) : State :=
  ls.foldl (fun s l => s.bump (R.SPN_LANE_ERR (p - 64) l) F.SPN_LANE_ERR_COUNT 1) s

/-- The receive direction of a span port comes out of electrical idle; its running disparity starts negative (R256, R262). -/
def State.rxWake (s : State) (p : Nat) : State :=
  if s.rdF (R.SPN_STAT (p - 64)) F.SPN_STAT_PEER_EI = 1 then
    (s.wrF (R.SPN_STAT (p - 64)) F.SPN_STAT_PEER_EI 0).updX p fun x => { x with rxRd := 0 }
  else s

/-- Rows of code groups of a span port as symbols, at the running disparities of its receive direction. -/
def State.rowsIn (s : State) (p : Nat) (rows : List Row10) : List (List (Option Sym)) × State :=
  let r := decodeRows (dataLanes (s.active p)) (s.px p).rxRd rows
  (r.1, s.updX p fun x => { x with rxRd := r.2 })

/-- The COM row before block `n` of a span port (R258, R259): due after every 256th block; two in a row missing on some lanes lose the
groups of those lanes. -/
def State.comRow (s : State) (p n : Nat) (com : Option Row10) : State :=
  let ls := dataLanes (s.active p)
  let r := s.rowsIn p (com.elim [] fun c => [c])
  let s := r.2
  if n = 0 || n % 256 != 0 then s
  else
    let miss := comMissing ls (r.1.headD [])
    let s := ls.foldl (fun s l => s.markMiss p l (miss.contains l)) s
    let lost := ls.filter fun l => decide (2 ≤ ((s.px p).missed.get? l).getD 0)
    if lost.isEmpty then s else (s.updX p fun x => { x with missed := [] }).lanesLost p (groupsOf lost)

/-- A block whose lanes have handed it over (R221): `wrong` says that its line code failed, `named` the groups that showed it, `spare`
the lanes that no LPAR blame is added to. -/
def State.blockIn (s : State) (port n : Nat) (b : Block) (wrong : Bool) (named spare : BitVec 4) : State :=
  let diff := (lparOf (64 ≤ port) (s.active port) (streamAt n) b.flits b.trl ^^^ b.trl.lpar) &&& ~~~ spare
  if wrong || b.crc != blockCrc b.flits b.trl then s.badBlock port (diff ||| named)
  else
    let s := s.useTrailer port b.trl
    if !s.linked port || b.flits.all (fun f => f.kind == 0) then s
    else
      let q := s.port port
      let d := (b.trl.bsn - q.e).toNat
      if 0x800 ≤ d then s.lnkCount port 5 1
      else if d != 0 then
        let s := s.lnkCount port 6 1
        if q.nak then s else (s.updP port fun q => { q with nak := true, nakDue := true }).lnkCount port 2 1
      else
        let fr := b.flits.foldl frameFlit { main := q.rxMain, pre := q.rxPre, done := [], bad := false }
        if fr.bad then (s.lnkCount port 1 1).badBlock port diff
        else
          let heads := (b.flits.filter fun f => f.kind == 1).map fun f => ceilDiv (64 + (hdrParse f.ws).2) 64
          let odd := (b.flits.filter fun f => f.kind == 3 && (ctypeOf f.ws == 0 || decide (8 < ctypeOf f.ws))).length
          let s := s.updP port fun q => { q with rxMain := fr.main, rxPre := fr.pre, e := q.e + 1, nak := false }
          let s := heads.foldl (fun s n => (s.portCount port 1 1).portCount port 3 n) s
          let s := (List.range odd).foldl (fun s _ => s.tally .ctype) s
          let s := s.updX port fun x => { x with
            winRx := x.winRx + heads.foldl (· + ·) 0, actRx := x.actRx + heads.foldl (· + ·) 0,
            idleSince := if heads.isEmpty then x.idleSince else s.now }
          { s with rte.arrived := s.rte.arrived ++ fr.done.map fun k => (port, k) }

/-- BLOCK_RECEIVE (R221, R247 to R249, R256 to R259): the lanes hand over a block with what they found in it; it is checked, its
trailer used, and it is accepted, discarded or NAKed. -/
def execBlockReceive (port : Nat) (rx : BlockRx) (lanes : List LaneRx) (s : State) : Host.Outcome State Fault Refusal :=
  if !s.linked port || s.fatal || 67 ≤ port || s.retraining port then .next s
  else
    let n := (s.px port).rxBlocks
    let s' := s.updX port fun x => { x with rxBlocks := x.rxBlocks + 1 }
    match rx with
    | .fabric b =>
      if 64 ≤ port then .next s
      else
        let s := s'.lanesReport port n lanes
        if s'.carrying port && !s.carrying port then .next s
        else .next ((s.blockIn port n b false 0 (s.fecBlamed port n)).fecForget port n)
    | .span com rows =>
      if port < 64 then .next s
      else
        let s := (s'.rxWake port).comRow port n com
        if s'.carrying port && !s.carrying port then .next s
        else
          let ls := dataLanes (s.active port)
          let r := s.rowsIn port rows
          let errs := blockErrors ls (ceilDiv 522 ls.length + 2) r.1
          .next ((r.2.laneErrs port errs).blockIn port n (blockOf (blockBytes ls.length r.1)) (!errs.isEmpty) (groupsOf errs) 0)

/-- REPLAY_TIMEOUT (R223): blocks are outstanding, no replay is in progress, and UNA has not advanced for REPLAY_TO. -/
def execReplayTimeout (port : Nat) (s : State) : Host.Outcome State Fault Refusal :=
  let q := s.port port
  if s.linked port && !s.fatal && 0 < q.outstanding && q.replay.isNone then
    let s := s.passTo q.replayDue
    .next ((s.updP port fun q => { q with replayFrom := none }).startReplay port 4)
  else .next s

/-- A lane's credit total received (R226): 24 bits, ignored when it is not newer. -/
def State.creditTotal (s : State) (p v : Nat) (t : BitVec 24) : State :=
  let d := (t.toNat + 2 ^ 24 - (((s.port p).seen.get? v).getD 0).toNat % 2 ^ 24) % 2 ^ 24
  if d < 0x800000 then s.creditAdd p v d else s

/-- CREDIT_FLIT (R226, R231): the totals of sixteen lanes; in INIT it is one of the two that entry into UP needs. -/
def execCreditFlit (port : Nat) (half : Bool) (totals : List (BitVec 24)) (s : State) :
    Host.Outcome State Fault Refusal :=
  if !s.linked port || s.fatal then .next s
  else
    let s := (List.range 16).foldl (fun s k =>
      match totals[k]? with
      | some t => s.creditTotal port (16 * b2n half + k) t
      | none => s) s
    let s := s.updX port fun x => if half then { x with credRx1 := true } else { x with credRx0 := true }
    .next (s.tryUp port)

/-! ### The training exchange (R231) -/

/-- The lanes of a port are trained from DOWN: the exchange starts with INIT and TIME (R231, R237). -/
def State.initStart (s : State) (p : Nat) (set : BitVec 4) : State :=
  let s := s.wrFs (R.LNK_STATE p) [(F.LNK_STATE_STATE, 2), (F.LNK_STATE_ACTIVE, set.toNat)]
  let s := { s with lnk.ports := s.lnk.ports.set p portInit }
  let s := s.updX p fun x => { x with
    initRx := false, probesTx := 0, probesRx := 0, rtt := 0, credRx0 := false, credRx1 := false, timed := false,
    initDue := s.now + s.changeLimit, trainAt := none, peerUsable := 0xF, lastTime := none }
  let s := s.wr (R.LNK_TIME_PORT p) 0
  (s.ctrl p (s.initFlit p)).ctrl p (blankFlit 8 0)

/-- The lanes of a training hold lock and alignment (R247, R250, R261): every lane of a fabric set showed a marker, within 64 ns of
skew, within the time its training may take; a span training corrects at most 8 symbol times. -/
def trainingHolds (port : Nat) (set : BitVec 4) (bound us deskew : Nat) (ends : LaneEnds) : Bool :=
  decide (us ≤ bound) && (match ends with
    | .fabric marks => decide (port < 64)
        && (lanesOf set).all (fun i => marks.any fun m => m.lane == i && markerPattern m.marker && decide (m.skew ≤ 64))
    | .span _ => decide (64 ≤ port) && decide (deskew ≤ 8))

/-- The lanes whose first marker names another lane (R247). -/
def misnamed (marks : List LaneMark) (i : Nat) : Bool := marks.any fun m => m.lane == i && markerLane m.marker != i

/-- What the end of a training leaves in the lanes' registers, and in the lifetime counts (R247, R250 to R252, R261, R396). The lanes
of a fabric port outside the set are in electrical idle. The stream starts afresh, its running disparities negative. -/
def State.lanesTrained (s : State) (p : Nat) (set : BitVec 4) (ends : LaneEnds) (us deskew : Nat) : State :=
  let s := s.updX p fun x => { x with
    training := none, blocks := 0, rxBlocks := 0, idleRun := 0, missed := [], words := [], fecBad := [], txRd := 0, rxRd := 0 }
  match ends with
  | .fabric marks =>
    let s := s.lanes p (~~~ set) [(F.LAN_STAT_EI, 1), (F.LAN_STAT_SIGNAL, 0), (F.LAN_STAT_LOCK, 0), (F.LAN_STAT_ALIGNED, 0)]
    (lanesOf set).foldl (fun s i =>
      let l := 4 * p + i
      let s := s.wrFs (R.LAN_STAT l) [(F.LAN_STAT_SIGNAL, 1), (F.LAN_STAT_LOCK, 1), (F.LAN_STAT_ALIGNED, 1),
        (F.LAN_STAT_EI, 0), (F.LAN_STAT_PEER_EI, 0), (F.LAN_STAT_WARM, 1), (F.LAN_STAT_ORDER_ERR, b2n (misnamed marks i)),
        (F.LAN_STAT_TRAIN_US, clamp 0 65535 us)]
      (s.wrF (R.LAN_CTL l) F.LAN_CTL_RECAL 0).lifeAdd (96 + l) 1) s
  | .span locked =>
    let s := s.wrFs (R.SPN_STAT (p - 64)) [(F.SPN_STAT_DESKEW, deskew), (F.SPN_STAT_CLK_LOCK, 1), (F.SPN_STAT_EI, 0), (F.SPN_STAT_PEER_EI, 0)]
    let s := s.updX p fun x => { x with locked := locked }
    (lanesOf set).foldl (fun s g => s.lifeAdd (608 + 4 * (p - 64) + g) 1) s

/-- A training fails (R250): from DOWN the next attempt is cold and CAUSE reads the training limit; in a change the port breaks
(R232). -/
def State.trainingFails (s : State) (p : Nat) : State :=
  match (s.px p).training with
  | none => s
  | some (set, _) =>
    let s := s.updX p fun x => { x with training := none }
    match (s.px p).change with
    | some _ => s.portBreak p 3 false
    | none => (s.lanes p set [(F.LAN_STAT_WARM, 0)]).wrF (R.LNK_STATE p) F.LNK_STATE_CAUSE 11

/-- LANE_TRAINING_COMPLETE (R231, R232 step 5, R250): the lanes in training report trained on their set. From DOWN the exchange
starts; in a change the port sends idle blocks until a good FMT 0 trailer comes. Lanes that do not hold alignment, or took longer than
their training may, have failed it. -/
def execLaneTrainingComplete (port : Nat) (lanes : BitVec 4) (ends : LaneEnds) (us deskew : Nat) (s : State) :
    Host.Outcome State Fault Refusal :=
  match (s.px port).training with
  | none => .next s
  | some (set, bound) =>
    if 67 ≤ port || s.fatal || !s.domOn (portDom port) || lanes != set then .next s
    else if !s.mediumOk port || !trainingHolds port set bound us deskew ends then .next (s.trainingFails port)
    else match (s.px port).change with
      | some c =>
        let s := s.lanesTrained port set ends us deskew
        let s := s.updX port fun x => { x with change := some { c with trained := true } }
        .next (s.wrF (R.LNK_STATE port) F.LNK_STATE_ACTIVE set.toNat)
      | none =>
        if s.portState port = 1 && s.rdF (R.LNK_CTL port) F.LNK_CTL_ENABLE = 1 && s.rdF (R.LNK_STATE port) F.LNK_STATE_HELD = 0 then
          .next ((s.lanesTrained port set ends us deskew).initStart port set)
        else .next (s.updX port fun x => { x with training := none })

/-- A port held by a check of R231 (Table 10.7): DOWN, held, with the cause. -/
def State.hold (s : State) (p cause : Nat) : State := s.portDown p cause true

/-- A port whose credit round trip exceeds RTT_MAX is held under R208 (R231 step 2), and QOS_RTT is written. -/
def State.rttHold (s : State) (p rtt : Nat) : State :=
  ((s.hold p 8).updX p fun x => { x with tcsHeld := true }).note 0x0721 (portDom p) p rtt (s.rttMax p) 0

/-- LINK_MISWIRE (R231, R265). -/
def State.miswire (s : State) (p peerNode peerPort : Nat) : State :=
  (s.hold p 6).note 0x0306 (portDom p) p (s.rdF (R.RTE_PORT_ROLE p) F.RTE_PORT_ROLE_FAR_NODE) peerNode peerPort

/-- INIT (R231 step 1, R265): the peer's identity, wiring and lanes are checked in that order; then the PROBEs go. -/
def execInit (port peerPort peerNode : Nat) (usable : BitVec 4) (ident : Word) (s : State) :
    Host.Outcome State Fault Refusal :=
  if s.portState port != 2 || s.fatal || 67 ≤ port then .next s
  else
    let s := s.wrFs (R.LNK_STATE port) [(F.LNK_STATE_PEER_NODE, peerNode), (F.LNK_STATE_PEER_PORT, peerPort)]
    let s := s.wr (R.LNK_PEER_ID port) ident
    let far := s.rdF (R.RTE_PORT_ROLE port) F.RTE_PORT_ROLE_FAR_NODE
    if ident = s.devId then .next (s.hold port 7)
    else if 64 ≤ port && peerPort + port != 130 then .next (s.miswire port peerNode peerPort)
    else if s.rdF (R.LNK_CTL port) F.LNK_CTL_NO_WIRE_CHECK = 0 && peerNode != far then .next (s.miswire port peerNode peerPort)
    else if s.active port &&& ~~~ (usable &&& s.ordered port) != 0 then
      let both := usable &&& s.ordered port
      let s := s.updX port fun x => { x with peerUsable := both }
      .next (s.portDown port 0 false)
    else
      let s := s.updX port fun x => { x with initRx := true, probesTx := 16 }
      .next ((List.range 16).foldl (fun s i => s.ctrl port (blankFlit 3 i)) s)

/-- PROBE_FLIT (R219, R231): answered by PROBE_ECHO, ahead of any other control flit. -/
def execProbeFlit (port : Nat) (probeId : BitVec 8) (time : Word) (s : State) : Host.Outcome State Fault Refusal :=
  if !s.linked port || s.fatal then .next s
  else .next (s.ctrlFirst port (ctrlFlit (4 + probeId.toNat * 256) [time]))

/-- PROBE_ECHO (R231 steps 2 and 3, R208, R242): the largest of sixteen round trips is the credit round trip, which LNK_STATE shows;
above RTT_MAX the port is held and QOS_RTT written, otherwise FREED starts at RES and both CREDIT flits go. -/
def execProbeEcho (port : Nat) (_probeId : BitVec 8) (time : Word) (s : State) : Host.Outcome State Fault Refusal :=
  let x := s.px port
  if s.portState port != 2 || s.fatal || x.probesTx = 0 || 16 ≤ x.probesRx then .next s
  else
    let rtt := Nat.max x.rtt (s.ftWord - time).toNat
    let s := s.updX port fun x => { x with probesRx := x.probesRx + 1, rtt := rtt }
    if x.probesRx + 1 < 16 then .next s
    else
      let s := s.wrF (R.LNK_STATE port) F.LNK_STATE_RTT (clamp 0 65535 rtt)
      if s.rttMax port < rtt then .next (s.rttHold port rtt)
      else
      let freed : Tbl Count32 := (List.range 32).map fun v => (v, BitVec.ofNat 32 (s.res port (v / 4)))
      let s := s.updP port fun q => { q with freed := freed, carried := [] }
      -- what packets of the link's earlier life still hold is withheld when they leave (R205)
      let s := { s with rte.debt := (List.range 32).foldl (fun t v => match s.rte.resHeld.get? (port * 32 + v) with
        | some n => t.set (port * 32 + v) n
        | none => t.erase (port * 32 + v)) s.rte.debt }
      .next (((s.ctrl port (blankFlit 1 0)).ctrl port (blankFlit 1 1)).tryUp port)

/-! ### Changes (R232 to R234) -/

/-- PENDING of LNK_CMD. -/
def State.cmdPending (s : State) (p : Nat) : Bool := s.rdF (R.LNK_CMD p) F.LNK_CMD_STATUS == 1

/-- A software change request through LNK_CMD (R232, R242): discarded while one is PENDING, REFUSED when the port is
not UP or the set is not legal. -/
def State.cmdChange (s : State) (rid p op : Nat) (lanes : BitVec 4) : State :=
  if s.cmdPending p then s
  else if !s.portUp p || (s.px p).ownReq.isSome || (op == 1 && !legalSets.contains lanes) then
    s.wrF (R.LNK_CMD p) F.LNK_CMD_STATUS 5
  else ((s.wrF (R.LNK_CMD p) F.LNK_CMD_STATUS 1).updX p fun x => { x with cmd := true }).reqChange p op lanes rid false

/-- LNK_RETRAIN (R232, R242): LNK_CMD OP 1. -/
def execLnkRetrain (rid port : Nat) (s : State) : Host.Outcome State Fault Refusal :=
  if 67 ≤ port then .next s
  else .next (s.viaReg rid (R.LNK_CMD port) fun s => s.cmdChange rid port 0 (s.retrainLanes port))

/-- LNK_WIDTH_CHANGE (R232, R242): LNK_CMD OP 2. -/
def execLnkWidthChange (rid port : Nat) (lanes : BitVec 4) (s : State) : Host.Outcome State Fault Refusal :=
  if 67 ≤ port then .next s
  else .next (s.viaReg rid (R.LNK_CMD port) fun s => s.cmdChange rid port 1 lanes)

/-- LNK_RELEASE_HOLD (R230, R208, R242): LNK_CMD OP 3 releases a hold and the port trains; REFUSED when the port is not
held, or is held under R208 and the set in force would not pass with it. -/
def execLnkReleaseHold (rid port : Nat) (s : State) : Host.Outcome State Fault Refusal :=
  if 67 ≤ port then .next s
  else .next (s.viaReg rid (R.LNK_CMD port) fun s =>
    if s.cmdPending port then s
    else if s.rdF (R.LNK_STATE port) F.LNK_STATE_HELD = 0 || ((s.px port).tcsHeld && !s.tcsReleases port) then
      s.wrF (R.LNK_CMD port) F.LNK_CMD_STATUS 5
    else
      let s := s.updX port fun x => { x with tcsHeld := false, trainAt := some s.now }
      (s.wrF (R.LNK_STATE port) F.LNK_STATE_HELD 0).wrF (R.LNK_CMD port) F.LNK_CMD_STATUS 2)

/-- The key that orders requests (R234): device identity, then port code. -/
def reqKey (ident : Word) (port : Nat) : Nat := ident.toNat * 128 + port

/-- CHANGE_WITHDRAWN (R234): the side with the higher key withdraws its own request whole. -/
def State.withdraw (s : State) (p : Nat) (own : ChangeReq) (ident : Word) : State :=
  let s := s.record 0x0305 0 (portDom p) (w64 p) (w64 own.op) ident (w64 own.who) 0
  let soft := (s.px p).cmd
  let s := s.updX p fun x => { x with ownReq := none, cmd := false }
  if soft then s.wrF (R.LNK_CMD p) F.LNK_CMD_STATUS 3 else s.reqAgain p own

/-- CHANGE_REQ (R232, R234): accepted, kept while the port is not UP, or resolved against an own request by key. A span
port's LANES name groups; OP 2 carries the speed. -/
def execChangeReq (port : Nat) (reqId : BitVec 8) (op : Nat) (lanes : BitVec 4) (peerPort : Nat) (ident : Word)
    (speed : Bool) (s : State) : Host.Outcome State Fault Refusal :=
  let r : ChangeReq := { id := reqId, op := op, lanes := lanes, who := 0, speed := speed }
  if !s.linked port || s.fatal || 67 ≤ port then .next s
  else if !s.portUp port then .next (s.updX port fun x => { x with peerReq := some r })
  else match (s.px port).ownReq with
    | some own =>
      if reqKey ident peerPort < reqKey s.devId port then .next ((s.withdraw port own ident).acceptChange port r)
      else .next s
    | none => .next (s.acceptChange port r)

/-- CHANGE_ACK (R232): the requester enters CHANGE on the set answered, or breaks the port when it is empty. -/
def execChangeAck (port : Nat) (reqId : BitVec 8) (lanes : BitVec 4) (_ident : Word) (s : State) :
    Host.Outcome State Fault Refusal :=
  match (s.px port).ownReq with
  | some own =>
    if own.id != reqId || !s.portUp port || s.fatal then .next s
    else if lanes = 0 then .next (s.portBreak port 4 false)
    else .next (s.enterChange port own true lanes)
  | none => .next s

/-- PAUSE (R232 step 4): the peer has paused. -/
def execPause (port : Nat) (_reqId : BitVec 8) (s : State) : Host.Outcome State Fault Refusal :=
  match (s.px port).change with
  | some c =>
    let acked := decide ((s.port port).lastAck = (s.port port).e)
    if s.fatal then .next s
    else .next ((s.updX port fun x => { x with change := some { c with pauseRx := true, pauseAcked := c.pauseAcked || acked } }).tryHand port)
  | none => .next s

/-- PAUSE_WAIT_EXPIRY (R232): PAUSE_WAIT after its PAUSE a side hands its lanes over; PAUSE_WAIT after an empty
CHANGE_ACK the accepting side breaks the port. -/
def execPauseWaitExpiry (port : Nat) (s : State) : Host.Outcome State Fault Refusal :=
  match (s.px port).breakAt with
  | some (some (_, t)) => .next ((s.passTo t).portBreak port 4 false)
  | _ =>
    match (s.px port).change with
    | some c =>
      match c.pauseTx with
      | some t => if c.handed || s.fatal then .next s else .next ((s.passTo t).laneHand port c)
      | none => .next s
    | none => .next s

/-- CHANGE_LIMIT_EXPIRY (R228, R230): an INIT that lasts CHANGE_LIMIT ends DOWN, not held; a change that lasts so long
breaks the port. -/
def execChangeLimitExpiry (port : Nat) (s : State) : Host.Outcome State Fault Refusal :=
  if s.portState port = 2 then
    .next ((s.passTo (s.px port).initDue).portDown port 11 false)
  else match (s.px port).change with
    | some c => .next ((s.passTo c.due).portBreak port 3 false)
    | none => .next s

/-- FAIL_WINDOW_EXPIRY (R235): a lane's window ends and its blames start afresh. -/
def execFailWindowExpiry (port lane : Nat) (s : State) : Host.Outcome State Fault Refusal :=
  match (s.px port).blames.get? lane with
  | some (_, t) =>
    .next ((s.passTo t).updX port fun x => { x with blames := x.blames.erase lane })
  | none => .next s

/-! ### Fabric time (R236 to R238) -/

/-- A 16- or 32-bit saturated figure. -/
def satTo (n v : Nat) : Nat := Nat.min v (2 ^ n - 1)

/-- A signed value in 32 bits, saturating. -/
def sat32 (v : Int) : Nat :=
  (BitVec.ofInt 32 (if v < -2147483648 then -2147483648 else if 2147483647 < v then 2147483647 else v)).toNat

/-- TIME_STEP (R238): fabric time steps forward; the calendar's captured difference shrinks by the step. -/
def State.ftStep (s : State) (p ofs half : Nat) : State :=
  let s := { s with ft := s.ft + ofs, pwr.calOfs := s.pwr.calOfs - ofs, lnk.slew := 0, lnk.slewRem := 0 }
  let s := (s.bump R.LNK_TIME_STAT F.LNK_TIME_STAT_STEPS 1).wrF R.LNK_TIME_STAT F.LNK_TIME_STAT_LAST_STEP (satTo 32 ofs)
  s.note 0x0307 (portDom p) p ofs 0 half

/-- TIME (R237, R238): the flit's times give a measurement; the first valid one, before LOCKED, is applied at once. -/
def execTime (port : Nat) (_locked : Bool) (tTx echoTx echoRx rx : Word) (s : State) : Host.Outcome State Fault Refusal :=
  if !s.linked port || s.fatal then .next s
  else
    let s := s.updX port fun x => { x with lastTime := some (tTx, rx) }
    let rtt : Int := (rx - echoTx).toInt - (tTx - echoRx).toInt
    if echoTx = 0 || rtt < 0 || 16000 < rtt then .next s
    else
      let half := rtt.toNat / 2
      let ofs : Int := (tTx + w64 half - rx).toInt
      let s := s.wrFs (R.LNK_TIME_PORT port) [(F.LNK_TIME_PORT_VALID, 1), (F.LNK_TIME_PORT_HALF_RTT, satTo 16 half),
        (F.LNK_TIME_PORT_OFS, sat32 ofs)]
      if s.rdF R.LNK_TIME_STAT F.LNK_TIME_STAT_LOCKED = 0 then
        let s := s.wrF R.LNK_TIME_STAT F.LNK_TIME_STAT_LOCKED 1
        let s : State := if 0 < ofs then s.ftStep port ofs.toNat half else s
        .next ((s.updX port fun x => { x with timed := true }).tryUp port)
      else
        let s := { s with lnk.meas := (port, ofs, half) :: s.lnk.meas }
        .next ((s.updX port fun x => { x with timed := true }).tryUp port)

/-- A measurement that exceeds STEP_MAX is refused (R230, R238): TIME_STEP is written, and a port in UP or CHANGE breaks with cause 13
and is held; one in INIT has applied no measurement. -/
def State.stepRefused (s : State) (p ofs half : Nat) : State :=
  let s := s.note 0x0307 (portDom p) p ofs 1 half
  if s.carrying p then s.portBreak p 13 true else s.updX p fun x => { x with timed := false }

/-- The largest offset among the measurements of an interval. -/
def bestMeas : List (Nat × Int × Nat) → Option (Nat × Int × Nat)
  | [] => none
  | m :: ms =>
    match bestMeas ms with
    | some b => if b.2.1 ≤ m.2.1 then some m else some b
    | none => some m

/-- SYNC_INTERVAL_TICK (R237, R238, R240): every port in INIT, UP or CHANGE sends TIME; the largest offset of the interval that ends is
left, slewed, stepped or refused, under the DEADBAND and STEP_MAX with which the interval began. -/
def execSyncIntervalTick (s : State) : Host.Outcome State Fault Refusal :=
  if s.fatal || !s.domOn 91 then .next s
  else
    let s := s.passTo s.lnk.nextTick
    let iv := 1000 * s.tmr R.LNK_TIME_CTL F.LNK_TIME_CTL_SYNC_INTERVAL 1 255
    let s := { s with lnk.nextTick := s.now + iv }
    let s := (List.range 67).foldl (fun s p => if s.linked p then s.ctrl p (blankFlit 8 0) else s) s
    let best := bestMeas s.lnk.meas
    let band := s.lnk.deadband
    let max := s.lnk.stepMax
    let s := { s with
      lnk.meas := [], lnk.deadband := s.rdF R.LNK_TIME_CTL F.LNK_TIME_CTL_DEADBAND,
      lnk.stepMax := s.rdF R.LNK_TIME_CTL F.LNK_TIME_CTL_STEP_MAX }
    match best with
    | none => .next s
    | some (p, ofs, half) =>
      if ofs ≤ band then .next s
      else if ofs ≤ 1000 then .next { s with lnk.slew := ofs.toNat }
      else if max != 0 && (max * 1000 : Nat) < ofs then .next (s.stepRefused p ofs.toNat half)
      else .next (s.ftStep p ofs.toNat half)

end Sys2Proof.Machine
end

