-- ==== Sys2Proof/Machine/Lanes.lean ====
section
/-! DEFINITION. The commands of the lanes and span links (11_lanes), and of a port's enabling and training (10_link R228,
R230, R242). -/

namespace Sys2Proof.Machine

open Sys2Proof


/-- CREDIT_TIMEOUT (R228): the head packet of a lane has waited CREDIT_TO for credit with no increase of the lane's
credit: the port breaks with cause 2. -/
def execCreditTimeout (port vl : Nat) (s : State) : Host.Outcome State Fault Refusal :=
  match (s.port port).stall.get? vl with
  | none => .next s
  | some due => if !s.carrying port || s.fatal then .next s else .next ((s.passTo due).portBreak port 2 false)

/-- TRAINING_RETRY (R230, R231, R253): the lanes of a DOWN, enabled port that is not held try to train; not while every
lane's peer has announced electrical idle. -/
def execTrainingRetry (port : Nat) (s : State) : Host.Outcome State Fault Refusal :=
  let peerEi := decide (port < 64) && (List.range 4).all fun i => s.rdF (R.LAN_STAT (4 * port + i)) F.LAN_STAT_PEER_EI == 1
  if s.mayTrain port && !peerEi && s.rdF R.STC_STAT F.STC_STAT_RESET_NEEDED = 0 then
    let s : State := match (s.px port).trainAt with
      | some t => s.passTo t
      | none => s
    .next (s.tryTrain port)
  else .next s

/-- TRAINING_FAIL (R250): the lanes in training have not reached lock and alignment within their bound. -/
def execTrainingFail (port : Nat) (s : State) : Host.Outcome State Fault Refusal :=
  if s.fatal || !s.domOn (portDom port) then .next s else .next (s.trainingFails port)

/-- The fields of LNK_CTL that a write sets beside ENABLE. -/
def State.linkCtl (s : State) (p : Nat) (val : Word) : State :=
  s.wrFs (R.LNK_CTL p) [(F.LNK_CTL_LANES_ALLOWED, getF val F.LNK_CTL_LANES_ALLOWED),
    (F.LNK_CTL_NO_WIRE_CHECK, getF val F.LNK_CTL_NO_WIRE_CHECK)]

/-- PORT_ENABLE (R242, R253, R344, R361): a write of LNK_CTL with ENABLE = 1. It is discarded while the port is isolated by
a fault (LNK_CMD reads REFUSED). A software write wakes a port that Fathom put to sleep. -/
def execPortEnable (rid port : Nat) (val : Word) (s : State) : Host.Outcome State Fault Refusal :=
  if 67 ≤ port || !bitAt val 0 then .next s
  else .next (s.viaReg rid (R.LNK_CTL port) fun s =>
    if s.pend (portSrc port + 3) then s.portEnable port
    else ((s.linkCtl port val).portWake port 3 0xFFFF).portEnable port)

/-- PORT_DISABLE (R228, R242, R253, R344): a write of LNK_CTL with ENABLE = 0: a port that runs announces electrical idle
and goes DOWN with cause 1. -/
def execPortDisable (rid port : Nat) (val : Word) (s : State) : Host.Outcome State Fault Refusal :=
  if 67 ≤ port || bitAt val 0 then .next s
  else .next (s.viaReg rid (R.LNK_CTL port) fun s =>
    ((s.linkCtl port val).portWake port 3 0xFFFF).portDisable port)

/-- LANE_LOST (R249, R259): active fabric lanes have lost signal, lock or markers: the port breaks with cause 5 and each is given
FAIL_COUNT blames at once, in INIT too, unless the quadrant's reference was lost. A span port breaks without blame when its clock lane
loses lock or its data lanes fall quiet; COM rows are BLOCK_RECEIVE's. -/
def execLaneLost (port : Nat) (lanes : BitVec 4) (clockLane : Bool) (s : State) : Host.Outcome State Fault Refusal :=
  let hit := lanes &&& s.active port
  if !s.linked port || s.fatal || 67 ≤ port then .next s
  else if port < 64 then
    .next (if hit = 0 then s else s.lanesLost port (if (s.pwr.clkLost.get? (quadrant port)).isNone then hit else 0))
  else
    let s : State := if clockLane then s.wrF (R.SPN_STAT (port - 64)) F.SPN_STAT_CLK_LOCK 0 else s
    .next (s.lanesLost port 0)

/-- EI_NEXT_RECEIVE (R230, R253 step 2, R262): the peer enters electrical idle. A fabric port in UP or CHANGE goes DOWN with cause 12,
which blames nothing, and its lanes set PEER_EI and fall silent; from INIT only CHANGE_LIMIT leads on. On a span port it is the entry
of R262: the receive direction falls idle, which is no loss and no change of state (log 53). -/
def execEiNextReceive (port : Nat) (s : State) : Host.Outcome State Fault Refusal :=
  if !s.linked port || s.fatal || 67 ≤ port then .next s
  else if port < 64 then
    .next ((s.portBreak port 12 false).lanes port 0xF [(F.LAN_STAT_PEER_EI, 1), (F.LAN_STAT_EI, 1)])
  else .next (s.wrF (R.SPN_STAT (port - 64)) F.SPN_STAT_PEER_EI 1)

/-- EXIT_SIGNAL_DETECT (R253 step 4, R344): PEER_EI is cleared and WAKE_SEEN set; Fathom wakes a slept port; a port whose
ENABLE is 1 trains. -/
def execExitSignalDetect (port : Nat) (lanes : BitVec 4) (s : State) : Host.Outcome State Fault Refusal :=
  if 64 ≤ port || s.fatal || !s.domOn port || lanes = 0 then .next s
  else
    let s := (s.lanes port 0xF [(F.LAN_STAT_PEER_EI, 0)]).lanes port lanes [(F.LAN_STAT_WAKE_SEEN, 1)]
    if s.slept port then .next ((s.portWake port 1 0xFFFF).portEnable port)
    else if s.mayTrain port then .next (s.tryTrain port)
    else .next s

/-- The bytes of a CRD sequence after its CRD symbol (R258): VL, the total, least significant byte first, and the CRC-8 over them. -/
def crdBytes (vl : Nat) (total : BitVec 24) : List Byte :=
  let bs := BitVec.ofNat 8 vl :: bytesOf (w64 total.toNat) 3
  bs ++ [crc8 bs]

/-- The data byte of a symbol. -/
def symByte : Option Sym → Option Byte
  | some (.data b) => some b
  | _ => none

/-- The lane and total of a CRD sequence, if data lane 0 shows CRD and five bytes with a good CRC-8. -/
def crdParse (ys : List (Option Sym)) : Option (Nat × BitVec 24) :=
  match ys.headD none, ((ys.drop 1).take 5).filterMap symByte with
  | some .crd, [v, b0, b1, b2, c] =>
    if crc8 [v, b0, b1, b2] = c then some (v.toNat % 32, BitVec.ofNat 24 (natOfBytes [b0, b1, b2])) else none
  | _, _ => none

/-- CRD_SEQUENCE (R256, R258): six symbol times of a span port: one credit total, discarded on a code error or a bad CRC-8. -/
def execCrdSequence (port : Nat) (crd vl : List (BitVec 10)) (total : List (List (BitVec 10))) (crc8 : List (BitVec 10)) (s : State) :
    Host.Outcome State Fault Refusal :=
  if port < 64 || 67 ≤ port || !s.linked port || s.fatal || s.retraining port then .next s
  else
    let ls := dataLanes (s.active port)
    let r := s.rowsIn port (crd :: vl :: (total ++ [crc8]))
    let errs := r.1.flatMap fun row => (List.range ls.length).flatMap fun j => if row.getD j none = none then [ls.getD j 0] else []
    let s := r.2.laneErrs port errs
    if !errs.isEmpty then .next s
    else match crdParse (r.1.map fun row => row.getD 0 none) with
      | some (v, t) => .next (s.creditTotal port v t)
      | none => .next s

/-- SPAN_SPEED_WRITE (R260, R269): a write of SPN_CTL; a SPEED that differs from SPEED_NOW requests a speed change. -/
def execSpanSpeedWrite (rid span : Nat) (val : Word) (s : State) : Host.Outcome State Fault Refusal :=
  if 3 ≤ span then .next s
  else .next (s.viaReg rid (R.SPN_CTL span) fun s =>
    let sp := getF val F.SPN_CTL_SPEED
    let s := s.wrFs (R.SPN_CTL span) [(F.SPN_CTL_IDLE_RUN, getF val F.SPN_CTL_IDLE_RUN),
      (F.SPN_CTL_CRD_EN, getF val F.SPN_CTL_CRD_EN), (F.SPN_CTL_EI_EN, getF val F.SPN_CTL_EI_EN), (F.SPN_CTL_SPEED, sp)]
    if sp = s.rdF (R.SPN_STAT span) F.SPN_STAT_SPEED_NOW then s
    else s.reqOwn (64 + span) 2 (s.active (64 + span)) rid (sp == 1))

end Sys2Proof.Machine
end

