-- ==== Sys2Proof/Machine/HostIf.lean ====
section
/-! DEFINITION. The host ports (12_host): resets of functions and ports, Bus Master Enable, MSI-X masks, IDE and the DOE
mailbox. A host port acts while its domain is on. -/

namespace Sys2Proof.Machine

open Sys2Proof

/-- A host port that is there and powered. -/
def State.hostOn (s : State) (host : Nat) : Bool := decide (host < 2) && s.domRuns (64 + host)

/-- FUNCTION_LEVEL_RESET (R279, R280). -/
def execFunctionLevelReset (fn : Nat) (s : State) : Host.Outcome State Fault Refusal :=
  .next (if fnOk fn && s.hostOn (fnPort fn) then s.drainFn fn 0 else s)

/-- D3HOT_TO_D0 (R271, R279). -/
def execD3hotToD0 (fn : Nat) (s : State) : Host.Outcome State Fault Refusal :=
  .next (if fnOk fn && s.hostOn (fnPort fn) then s.drainFn fn 1 else s)

/-- VF_ENABLE_CLEAR (R279): every virtual function of the port drains. -/
def execVfEnableClear (host : Nat) (s : State) : Host.Outcome State Fault Refusal :=
  .next (if s.hostOn host then (s.vfs host).foldl (fun s v => s.drainOne v 2) s else s)

/-- PERST_ASSERT (R279): a change of level, and a conventional reset. -/
def execPerstAssert (host : Nat) (s : State) : Host.Outcome State Fault Refusal :=
  .next (if 2 ≤ host || s.rdF (R.HST_PORT_STAT host) F.HST_PORT_STAT_PERST = 1 then s
    else if s.hostOn host then (s.perst host true).drainPort host
    else s.wrF (R.HST_PORT_STAT host) F.HST_PORT_STAT_PERST 1)

/-- HOT_RESET (R279). -/
def execHotReset (host : Nat) (s : State) : Host.Outcome State Fault Refusal :=
  .next (if s.hostOn host then s.drainPort host else s)

/-- HOST_LINK_DOWN (R279, R280, R291). -/
def execHostLinkDown (host : Nat) (s : State) : Host.Outcome State Fault Refusal :=
  .next (if s.hostOn host then s.hostLinkDown host else s)

/-- HOST_LINK_CHANGE (R291, R292): the link comes up, or changes speed or width; FLIT mode, L0p and L1 are shown. A link that
goes down is HOST_LINK_DOWN. -/
def execHostLinkChange (host : Nat) (up : Bool) (speed width : Nat) (flit : Bool) (l0p l1 : Bool) (s : State) :
    Host.Outcome State Fault Refusal :=
  if !s.hostOn host || !up || !([1, 2, 3, 4, 5, 6].contains speed && [1, 2, 4, 8, 16].contains width) then .next s
  else
    let w := s.rd (R.HST_PORT_STAT host)
    let same := getF w F.HST_PORT_STAT_LINK_UP == 1 && getF w F.HST_PORT_STAT_SPEED == speed && getF w F.HST_PORT_STAT_WIDTH == width
    let s := s.wrFs (R.HST_PORT_STAT host) [(F.HST_PORT_STAT_LINK_UP, 1), (F.HST_PORT_STAT_SPEED, speed),
      (F.HST_PORT_STAT_WIDTH, width), (F.HST_PORT_STAT_FLIT, b2n flit), (F.HST_PORT_STAT_L0P, b2n l0p), (F.HST_PORT_STAT_L1, b2n l1)]
    .next (if same then s else s.hostLinkRec host)

/-- RESET_DRAIN_END (R280 step 5): the waits of step 4 are over. -/
def execResetDrainEnd (fn : Nat) (s : State) : Host.Outcome State Fault Refusal :=
  match (s.fn fn).drain with
  | some d => .next (if s.fatal || !s.drainOver fn then s else s.drainEnd fn d false)
  | none => .next s

/-- RESET_DRAIN_TIMEOUT (R280, R282): 100 ms after the drain's start; a physical function's bound forces those of its virtual
functions too. -/
def execResetDrainTimeout (fn : Nat) (s : State) : Host.Outcome State Fault Refusal :=
  match (s.fn fn).drain with
  | none => .next s
  | some d =>
    if s.fatal then .next s
    else
      let s := s.passTo (d.start + 100000000)
      let s : State := if isPf fn then (s.vfs (fnPort fn)).foldl (fun s v => match (s.fn v).drain with
          | some e => s.drainTimeout v e
          | none => s) s
        else s
      .next (s.drainTimeout fn d)

/-- BUS_MASTER_ENABLE_WRITE (R278, R281). -/
def execBusMasterEnableWrite (fn : Nat) (bme : Bool) (s : State) : Host.Outcome State Fault Refusal :=
  if !fnOk fn || !s.hostOn (fnPort fn) then .next s
  else
    let v := s.fn fn
    if v.drain.isSome then .next (s.setFn fn { v with held := bme })
    else
      let s := s.setFn fn { v with bme := bme }
      .next (if bme && !v.bme then s.becameReady fn else s)

/-- A vector is unmasked (R283, R288): its pending message, and the interrupt controller's target, are re-sampled. -/
def State.vecUnmask (s : State) (fn vec : Nat) : State :=
  let v := s.fn fn
  if 2048 ≤ vec || v.unmasked.contains vec then s
  else
    let s := (s.setFn fn { v with unmasked := vec :: v.unmasked }).vecResample fn vec
    let t := 4 + fnPort fn
    if isPf fn && s.rdF (R.IRC_TGT t) F.IRC_TGT_VECTOR = vec then s.resample t else s

/-- MSIX_UNMASK (R283, R288). -/
def execMsixUnmask (fn vec : Nat) (s : State) : Host.Outcome State Fault Refusal :=
  .next (if !fnOk fn || !s.hostOn (fnPort fn) then s else s.vecUnmask fn vec)

/-- The bit of HST_IDE_STAT that shows a stream Secure. -/
def ideBit (stream : Nat) : Fld := if stream = 8 then F.HST_IDE_STAT_LINK_SECURE else ⟨1 + stream, 1⟩

/-- IDE_INTEGRITY_FAIL (R284): a Secure stream enters Insecure. -/
def execIdeIntegrityFail (host stream : Nat) (s : State) : Host.Outcome State Fault Refusal :=
  if !s.hostOn host || 8 < stream || s.rdF (R.HST_IDE_STAT host) (ideBit stream) = 0 then .next s
  else
    let s : State := if s.rdF (R.HST_IDE_STAT host) F.HST_IDE_STAT_FAIL = 0 then
      s.wrF (R.HST_IDE_STAT host) F.HST_IDE_STAT_FAIL_STREAM stream else s
    let s := s.wrFs (R.HST_IDE_STAT host) [(F.HST_IDE_STAT_FAIL, 1), (ideBit stream, 0)]
    .next ({ s with hst.insecure := (host, stream) :: s.hst.insecure }.note 0x0620 (64 + host) host stream 0 0)

/-- A mailbox at rest. -/
def doeInit : Doe := { busy := false, pending := false, error := false }

/-- A port's mailbox. -/
def State.doe (s : State) (host : Nat) : Doe := (s.hst.doe.get? host).getD doeInit

/-- The state with a port's mailbox set. -/
def State.setDoe (s : State) (host : Nat) (d : Doe) : State := { s with hst.doe := s.hst.doe.set host d }

/-- A response object is ready for the host, and vector 2,047 is raised (R283, R285). -/
def State.doeAnswer (s : State) (host : Nat) : State :=
  ((s.setDoe host { busy := false, pending := true, error := false }).emit (.doeObject host)).msix (host * 0x800) 2047

/-- DOE_REQUEST (R285): DOE Discovery is answered; an object of an SPDM type begins an exchange, which the SPDM row answers; one too
long, of another type, or while a response is still owed sets DOE Error. The host's reading of a response is no command: an object
that is ready counts as read when the next one is written (DESIGN CHOICE, log 31). -/
def execDoeRequest (host : Nat) (type : DoeType) (length : Nat) (s : State) : Host.Outcome State Fault Refusal :=
  let d := s.doe host
  if !s.hostOn host || s.fatal || d.error || (s.fn (host * 0x800)).drain.isSome then .next s
  else if 65536 < length || type == .other || d.busy then .next (s.setDoe host { d with error := true })
  else if type == .discovery then .next (s.doeAnswer host)
  else .next (s.setDoe host { busy := true, pending := false, error := false })

/-- DOE_ABORT (R285). -/
def execDoeAbort (host : Nat) (s : State) : Host.Outcome State Fault Refusal :=
  .next (if s.hostOn host then s.doeAbort host else s)

end Sys2Proof.Machine
end

