-- ==== Sys2Proof/Machine/Power.lean ====
section
/-! DEFINITION. Power domains and the sleep of ports as the block's own steps (15_power R339 to R345). -/

namespace Sys2Proof.Machine

open Sys2Proof

/-- A write to PWR_DOM_CTL of a domain that exists. -/
def State.domWrite (s : State) (rid dom : Nat) (val : Word) : State :=
  if 93 ≤ dom then s else s.viaReg rid (R.PWR_DOM_CTL dom) fun s => s.domCtl rid dom val

/-- DOMAIN_ENABLE (R339, R340): a write with ENABLE = 1. -/
def execDomainEnable (rid dom : Nat) (val : Word) (s : State) : Host.Outcome State Fault Refusal :=
  .next (s.domWrite rid dom (putF val F.PWR_DOM_CTL_ENABLE 1))

/-- DOMAIN_DISABLE (R274, R339): a write with ENABLE = 0. -/
def execDomainDisable (rid dom : Nat) (val : Word) (s : State) : Host.Outcome State Fault Refusal :=
  .next (s.domWrite rid dom (putF val F.PWR_DOM_CTL_ENABLE 0))

/-- DOMAIN_WAKE (R342): a write with WAKE = 1. -/
def execDomainWake (rid dom : Nat) (val : Word) (s : State) : Host.Outcome State Fault Refusal :=
  .next (s.domWrite rid dom (putF val F.PWR_DOM_CTL_WAKE 1))

/-- THROTTLE_WRITE (R345): a write of the software level. -/
def execThrottleWrite (rid dom : Nat) (val : Word) (s : State) : Host.Outcome State Fault Refusal :=
  .next (s.domWrite rid dom val)

/-- DOMAIN_DRAIN_END (R339, R340). -/
def execDomainDrainEnd (dom : Nat) (s : State) : Host.Outcome State Fault Refusal :=
  .next (if s.fatal || s.domState dom != 3 || !s.domDrained dom then s else s.domEnd dom false)

/-- DOMAIN_DRAIN_TIMEOUT (R340): 100 ms after the drain's start; the drains of HBM interfaces and of the translation unit cannot be
forced (Table 15.2). -/
def execDomainDrainTimeout (dom : Nat) (s : State) : Host.Outcome State Fault Refusal :=
  match (s.dom dom).drainAt with
  | none => .next s
  | some t =>
    if s.fatal || s.domState dom != 3 || dom = 79 || dom = 80 || dom = 85 then .next s
    else .next (((s.passTo (t + 100000000)).domForce dom).domEnd dom true)

/-- The HBM interfaces that a domain restores its state from are ON (Table 15.1, R342). -/
def State.hbmThere (s : State) (d : Nat) : Bool := !(69 ≤ d && d ≤ 78) || (s.domState 79 == 2 && s.domState 80 == 2)

/-- The time of a power-up or a wake in ns (Table 15.1). -/
def powerUpNs (d : Nat) : Nat :=
  if d = 64 || d = 65 then 100000
  else if d < 69 then 20000
  else if d < 79 then 6000
  else if d < 81 then 12000
  else 4000

/-- When a domain that powers up or wakes is ON: an engine 2 µs after HBM interfaces that came ON during it (Table 15.1, R342). -/
def State.domDue (s : State) (d : Nat) : Nat :=
  let t := (s.dom d).upAt
  let hbm := Nat.max (s.dom 79).onAt (s.dom 80).onAt
  Nat.max (t + powerUpNs d) (if 69 ≤ d && d ≤ 78 && t < hbm then hbm + 2000 else 0)

/-- DOMAIN_POWER_UP_COMPLETE (R338, R340, R342): a domain that powers up or wakes reaches ON. -/
def execDomainPowerUpComplete (dom : Nat) (s : State) : Host.Outcome State Fault Refusal :=
  if s.fatal || !s.hbmThere dom || !(s.domState dom == 1 || s.domState dom == 5) then .next s
  else
    let s := s.passTo (s.domDue dom)
    if s.domState dom = 1 then .next ((s.domMove dom 2 (s.dom dom).by_ 0).domReached dom)
    else .next ((s.wrF (R.PWR_DOM_STAT dom) F.PWR_DOM_STAT_STATE 2).domReached dom)

/-- ENG_IDLE_EXPIRY (R341): a domain with SLEEP_EN has been idle for ENG_IDLE, and its entry into SLEEP starts. That it has been idle
without a break is the event's own; here it is idle now (log 28). -/
def execEngIdleExpiry (dom : Nat) (s : State) : Host.Outcome State Fault Refusal :=
  if s.fatal || !engineDom dom || s.domState dom != 2 || s.rdF (R.PWR_DOM_CTL dom) F.PWR_DOM_CTL_SLEEP_EN = 0
      || s.rdF (R.PWR_DOM_CTL dom) F.PWR_DOM_CTL_ENABLE = 0 || !s.domIdle dom then .next s
  else .next (((s.sliceDom dom).updDom dom fun v => { v with entry := true }).wrF (R.PWR_DOM_STAT dom) F.PWR_DOM_STAT_STATE 4)

/-- SLEEP_ENTRY_COMPLETE (R341): the domain's state has been written back, and its power is removed. -/
def execSleepEntryComplete (dom : Nat) (s : State) : Host.Outcome State Fault Refusal :=
  if s.fatal || s.domState dom != 4 || !(s.dom dom).entry then .next s
  else .next ((s.updDom dom fun v => { v with entry := false }).domCold dom)

/-- PORT_IDLE in ns. -/
def State.portIdle (s : State) : Nat := 1000000 * Nat.max 1 (s.rdF R.PWR_SLEEP F.PWR_SLEEP_PORT_IDLE)

/-- A group that is JOINING or READY has an edge on the port. -/
def State.portInGroup (s : State) (p : Nat) : Bool := s.grps.any fun g => g.2.live && g.2.edges.any fun e => e.port == p

/-- PORT_IDLE_EXPIRY (R344): Fathom puts an idle fabric port to sleep. -/
def execPortIdleExpiry (port : Nat) (s : State) : Host.Outcome State Fault Refusal :=
  if s.fatal || 64 ≤ port || !bitAt (s.rd R.PWR_PORT_SLEEP) port || bitAt (s.rd R.PWR_PORT_NOSLEEP) port
      || !s.portUp port || s.portInGroup port then .next s
  else
    let s := s.passTo ((s.px port).idleSince + s.portIdle)
    .next (((s.portDisable port).wrF R.PWR_PORT_SLEPT ⟨port, 1⟩ 1).note 0x0409 92 port 1 0 0xFFFF)

/-- PERST_DEASSERT (R291, R339): a change of level; a host port's domain that is off is enabled by the device itself, with the
identity of Fathom. -/
def execPerstDeassert (host : Nat) (s : State) : Host.Outcome State Fault Refusal :=
  if 2 ≤ host || s.rdF (R.HST_PORT_STAT host) F.HST_PORT_STAT_PERST = 0 then .next s
  else if !s.boot.pwrGood then .next (s.wrF (R.HST_PORT_STAT host) F.HST_PORT_STAT_PERST 0)
  else
    let s := s.perst host false
    .next (if s.domState (64 + host) = 0 then s.domEnable (64 + host) ridFathom else s)

end Sys2Proof.Machine
end

