-- ==== Sys2Proof/Machine/TestOps.lean ====
section
/-! DEFINITION. Self-test: what may run, what a slice borrows and gives back, results and repairs (17_self_test). -/

namespace Sys2Proof.Machine

open Sys2Proof

/-! ### Permission and conditions (R377, R378) -/

/-- Slices may run in this life-cycle state (Table 17.2), and not in recovery mode. -/
def State.stAllowed (s : State) : Bool :=
  s.boot.pwrGood && !s.fatal && s.domOn 91 && s.boot.lc != 0 && s.boot.lc != 5 && s.stage != 15

/-- FULL and FUSE may run (Table 17.2). -/
def State.stFull (s : State) : Bool := s.boot.lc == 1 || s.boot.lc == 4

/-- ST_REFUSED (Table 17.4). -/
def State.stRefusedRec (s : State) (cause input n kind unit : Nat) : State :=
  s.record 0x0211 0 91 (w64 cause) (w64 input) (w64 n) (w64 kind) (w64 unit)

/-- A slice that a condition stops from starting is counted, and recorded at most once per second (R377). -/
def State.stRefuse (s : State) (cause input kind unit : Nat) : State :=
  let s := s.bump R.STC_STAT F.STC_STAT_REFUSED 1
  let n := s.flt.stMissed + 1
  if s.flt.stAt.any fun t => decide (s.now < t + 1000000000) then { s with flt.stMissed := n }
  else { s with flt.stMissed := 0, flt.stAt := some s.now }.stRefusedRec cause input n kind unit

/-- A command ends with a STATUS. -/
def State.cmdEnd (s : State) (status : Nat) : State :=
  (s.wrF R.STC_CMD F.STC_CMD_STATUS status).wrF R.STC_STAT F.STC_STAT_CMD_DONE 1

/-! ### Units (Table 17.1) -/

/-- The units of a kind. -/
def kindUnits : Nat → Nat
  | 1 => 128
  | 2 => 8
  | 3 => 96
  | 4 => 256
  | 5 => 224
  | _ => 0

/-- The domain of a cache segment. -/
def cacheDom (u : Nat) : Nat := if u < 64 then 69 + u / 16 else 85

/-- The domain of a clock island (01_architecture Table 1.3). -/
def islandDom (n : Nat) : Nat :=
  if n < 64 then n
  else if n < 70 then 64 + (n - 64) / 3
  else if n < 83 then n - 4
  else if n < 87 then 79 + (n - 83) / 2
  else if n < 91 then 81 + (n - 87)
  else if n = 91 then 85
  else if n = 92 then 86
  else if n < 125 then 87 + (n - 93) / 8
  else if n = 125 then 91
  else 92

/-- The usable lanes of a port without one of them. -/
def State.without (s : State) (p i : Nat) : BitVec 4 := s.usable p &&& ~~~laneSet (2 ^ i)

/-- A unit is runnable (Table 17.1). A spare that a copy or a repair holds is not free; a bank out of the rotation is not tested. -/
def State.runnable (s : State) (kind u : Nat) : Bool :=
  match kind with
  | 1 => (s.freeSpare (u / 32)).isSome && !s.bankOut u && !s.repairing u
  | 2 => s.spare u == .free
  | 3 => s.domOn (cacheDom u) && !s.flt.segs.contains u
  | 4 =>
    let p := u / 4
    if s.portUp p then !(s.active p).getLsbD (u % 4)
      || (s.rdF R.STC_CTL F.STC_CTL_LANE_NARROW == 1 && (widest (s.without p (u % 4))).isSome)
    else s.portState p == 1 && s.rdF (R.LNK_CTL p) F.LNK_CTL_ENABLE == 0 && !s.slept p
  | _ => if u < 128 then islandDom u == 92 || s.domRuns (islandDom u) else true

/-- The spare that a bank slice uses. -/
def State.bankSpare (s : State) (b : Nat) : Option Nat :=
  (sparesOf (b / 32)).find? fun k => s.spare k == .testing b false || s.spare k == .testing b true || s.spare k == .returning b

/-! ### Starting (R374, R376) -/

/-- A slice starts and borrows what its kind needs: a spare for a bank, the spare itself, the lines of a cache segment (DESIGN CHOICE:
every thirty-second leaf stands for a segment of the translation cache, log 35), or a lane, by a width change if its port needs it. -/
def State.sliceStart (s : State) (kind u : Nat) (commanded : Bool) : State :=
  let s := { s with flt.slice := some { kind := kind, unit_ := u, commanded := commanded, back := false } }.wrF R.STC_STAT
    F.STC_STAT_KIND_NOW kind
  match kind with
  | 1 => match s.freeSpare (u / 32) with
    | some k => s.setSpare k (.testing u false)
    | none => s
  | 2 => s.setSpare u .marching
  | 3 => if u < 64 then s
    else { s with xlt.tlb := (s.xlt.tlb.zip (List.range s.xlt.tlb.length)).filterMap fun e => if e.2 % 32 = u - 64 then none else some e.1 }
  | 4 =>
    let p := u / 4
    if s.portUp p && (s.active p).getLsbD (u % 4) then (match widest (s.usable p) with
      | some m => s.reqOwn p 1 m whoTest false
      | none => s)
    else s
  | _ => s

/-! ### The rotation (R376) -/

/-- The kind and unit at a place of the rotation. -/
def rotUnit (i : Nat) : Nat × Nat :=
  if i < 128 then (1, i) else if i < 136 then (2, i - 128) else if i < 232 then (3, i - 136) else if i < 488 then (4, i - 232)
  else (5, i - 488)

/-- A kind's enable bit in STC_CTL. -/
def State.kindOn (s : State) (kind : Nat) : Bool :=
  bitAt (s.rd R.STC_CTL) (match kind with
    | 1 => 4
    | 2 => 4
    | 3 => 5
    | 4 => 6
    | _ => 7)

/-- The next runnable unit from a place on, and the units skipped: at most one rotation. -/
def State.nextUnit (s : State) (i skipped : Nat) : Nat → Nat × Nat × Bool
  | 0 => (i, skipped, false)
  | n + 1 =>
    let k := rotUnit (i % 712)
    if !s.kindOn k.1 then s.nextUnit (i + 1) skipped n
    else if s.runnable k.1 k.2 then (i % 712, skipped, true)
    else s.nextUnit (i + 1) (skipped + 1) n

/-- The slice of a periodic attempt starts, and the rotation goes on; or the attempt is refused with a cause. -/
def State.periodicGo (s : State) (k : Nat × Nat) (rot : Nat) (cause : Option (Nat × Nat)) : State :=
  match cause with
  | some c => s.stRefuse c.1 c.2 k.1 k.2
  | none => { s.sliceStart k.1 k.2 false with flt.rot := rot }

/-- A lane slice waits while the housekeeping pair activates (R374). -/
def State.laneWaits (s : State) (kind : Nat) : Bool := kind == 4 && s.activating 1

/-- A periodic attempt: skipped units are counted; the rotation stands where the conditions stop it, or where a lane slice waits. -/
def State.periodic (s : State) : State :=
  let r := s.nextUnit s.flt.rot 0 712
  let s := { s.bump R.STC_STAT F.STC_STAT_SKIPPED r.2.1 with flt.rot := r.1 % 712 }
  if !r.2.2 || s.laneWaits (rotUnit (r.1 % 712)).1 then s
  else s.periodicGo (rotUnit (r.1 % 712)) ((r.1 + 1) % 712) s.stCause

/-! ### Results and repairs (R380) -/

/-- A failure is captured and recorded (Table 17.4). -/
def State.stResult (s : State) (kind u repair bit : Nat) (address : BitVec 32) (expected : Word) : State :=
  let s := s.capture R.STC_RESULT F.STC_RESULT_VALID F.STC_RESULT_LOST
    [(F.STC_RESULT_KIND, kind), (F.STC_RESULT_REPAIR, repair), (F.STC_RESULT_UNIT, u), (F.STC_RESULT_BIT, bit),
     (F.STC_RESULT_ADDRESS, address.toNat)]
  s.record 0x0210 0 91 (w64 kind) (w64 u) (w64 address.toNat) (w64 (bit + repair * 2 ^ 16)) expected

/-- A failure's fault source: repaired or not. -/
def State.stFault (s : State) (repaired : Bool) : State :=
  if repaired then s.ceOccur 0x268 .none false else s.ucOccur 0x269 .none false

/-- The repair of a failure (Table 17.3), and its REPAIR code. -/
def State.stRepair (s : State) (kind u : Nat) : State × Nat :=
  match kind with
  | 1 => match s.bankSpare u with
    | some k => (s.setSpare k (.repairs u), 1)
    | none => (s, 0)
  | 2 => (s.setSpare u .retired, 3)
  | 3 => ({ s with flt.segs := u :: s.flt.segs }, 3)
  | 4 =>
    let p := u / 4
    let s := s.wrF (R.LNK_STATE p) F.LNK_STATE_FAILED ((s.failed p).toNat ||| 2 ^ (u % 4))
    let s := s.note 0x0304 (portDom p) p (u % 4) (match (s.px p).blames.get? (u % 4) with
      | some b => b.1
      | none => 0) 0
    ((s.ceRaise (portSrc p + 2) false).1.laneReturn u, 2)
  | _ => (s, 0)

/-- A slice has ended with a result: it counts, and a commanded one reads DONE. -/
def State.sliceDone (s : State) (sl : Slice) : State :=
  let s := ({ s with flt.slice := none }.wrF R.STC_STAT F.STC_STAT_KIND_NOW 0).bump R.STC_STAT F.STC_STAT_SLICES 1
  if sl.commanded then s.cmdEnd 2 else s

/-- The test of a slice is still to start: a bank whose copy is in progress, a lane that its UP port still uses, or a bank that is
copying back. -/
def State.sliceBusy (s : State) (sl : Slice) : Bool :=
  match sl.kind with
  | 1 => sl.back || !((s.bankSpare sl.unit_).any fun k => s.spare k == .testing sl.unit_ true)
  | 4 => (s.carrying (sl.unit_ / 4) && (s.active (sl.unit_ / 4)).getLsbD (sl.unit_ % 4)) || s.portState (sl.unit_ / 4) == 4
      || s.laneWaits 4
  | _ => false

/-! ### Commands (R376, R379, R381) -/

/-- What a full test needs: every port DOWN with ENABLE = 0, and every function DISABLED (R379). -/
def State.fullReady (s : State) : Bool :=
  ((List.range 67).all fun p => s.portState p == 1 && s.rdF (R.LNK_CTL p) F.LNK_CTL_ENABLE == 0)
    && s.ten.fns.all fun f => f.2.state == 0

/-- A full test begins, and destroys what the memories hold: packets, queues, contexts and HBM are gone (DESIGN CHOICE, log 36: the
manual says no more of what they hold). -/
def State.fullStart (s : State) : State :=
  let z := State.reset
  { s with
    flt.full := true, ten.qps := [], ten.cqs := [], ten.eqs := [], ten.allocs := [],
    tra := { z.tra with peerInc := s.tra.peerInc, stales := s.tra.stales, tag := s.tra.tag },
    mat := z.mat, wins := [], grps := [], xlt := z.xlt, rte := z.rte, hbm := [] }.wrF R.STC_STAT F.STC_STAT_KIND_NOW 6

/-- FUSE (R381): every replacement of a bank by a spare in force is burnt, and each writes ST_RESULT. -/
def State.fuse (s : State) : State :=
  let s := (List.range 8).foldl (fun s k => match s.spare k with
    | .repairs b =>
      ({ s with boot.spareFuse := s.boot.spareFuse.set k b }.setSpare k (.fused b)).stResult 7 b 4 0 0 0
    | _ => s) s
  s.cmdEnd 2

/-- A command runs now: a slice that is runnable and whose conditions hold, a full test, or the fuses. -/
def State.cmdRun (s : State) (kind u : Nat) : State :=
  let s := { s with flt.cmd := none }
  if kind = 7 then s.fuse
  else if kind = 6 then (if s.fullReady then s.fullStart else (s.stRefusedRec 5 0xFF s.flt.stMissed 6 u).cmdEnd 3)
  else if kindUnits kind ≤ u || !s.runnable kind u then (s.stRefusedRec 5 0xFF s.flt.stMissed kind u).cmdEnd 3
  else match s.stCause with
    | some c => (s.stRefuse c.1 c.2 kind u).cmdEnd 3
    | none => s.sliceStart kind u true

/-- A write of STC_CMD (R376, R378): discarded while a command runs; refused by the life cycle; a slice waits for the next attempt, the
others for a running slice. -/
def State.stcCmd (s : State) (val : Word) : State :=
  let kind := getF val F.STC_CMD_KIND
  let u := getF val F.STC_CMD_UNIT
  if s.rdF R.STC_CMD F.STC_CMD_STATUS = 1 || kind = 0 || 8 ≤ kind || s.fatal then s
  else if !s.stAllowed || (6 ≤ kind && !s.stFull) then (s.stRefusedRec 4 0xFF s.flt.stMissed kind u).cmdEnd 3
  else
    let s := s.wrF R.STC_CMD F.STC_CMD_STATUS 1
    if 6 ≤ kind && s.flt.slice.isNone then s.cmdRun kind u else { s with flt.cmd := some (kind, u) }

end Sys2Proof.Machine
end

