-- ==== Sys2Proof/Machine/SelfTest.lean ====
section
/-! DEFINITION. Self-test as the block's own steps and its command register (17_self_test R374 to R381). -/

namespace Sys2Proof.Machine

open Sys2Proof

/-- PERIOD in ns. -/
def State.stPeriod (s : State) : Nat := 1000000 * Nat.max 1 (s.rdF R.STC_CTL F.STC_CTL_PERIOD)

/-- SELFTEST_PERIOD (R376): a commanded slice runs in place of the periodic attempt; nothing while a slice or a full test runs. -/
def execSelftestPeriod (s : State) : Host.Outcome State Fault Refusal :=
  if !s.stAllowed || s.flt.full || s.flt.slice.isSome || s.rdF R.STC_STAT F.STC_STAT_RESET_NEEDED = 1 then .next s
  else
    let s := s.passTo (s.flt.tryAt + s.stPeriod)
    let s := { s with flt.tryAt := s.now }
    match s.flt.cmd with
    | some (k, u) => .next (if s.laneWaits k then s else s.cmdRun k u)
    | none => .next (if s.rdF R.STC_CTL F.STC_CTL_ENABLE = 1 then s.periodic else s)

/-- What a slice found: bit errors of a lane up to LANE_ERR are none (Table 17.3). -/
def State.found (s : State) (sl : Slice) : SliceFinding → Option (BitVec 32 × Nat × Word)
  | .pass => none
  | .fail a b e => if sl.kind = 4 && a.toNat ≤ s.rdF R.STC_CTL F.STC_CTL_LANE_ERR then none else some (a, b, e)

/-- SLICE_END (R374, R380): a slice that found nothing gives back what it borrowed, a bank after the copy back; a failure is repaired
and recorded. -/
def execSliceEnd (finding : SliceFinding) (s : State) : Host.Outcome State Fault Refusal :=
  match s.flt.slice with
  | none => .next s
  | some sl =>
    if s.fatal || s.sliceBusy sl then .next s
    else match s.found sl finding with
      | some (a, b, e) =>
        let r := ({ s with flt.slice := none }).stRepair sl.kind sl.unit_
        let bit := if sl.kind ≤ 3 then b % 1024 else 0
        let exp := if sl.kind = 5 then e else 0
        .next (((r.1.stResult sl.kind sl.unit_ r.2 bit a exp).stFault (r.2 != 0)).sliceDone sl)
      | none =>
        match sl.kind with
        | 1 => .next (match s.bankSpare sl.unit_ with
          | some k => { s.setSpare k (.returning sl.unit_) with flt.slice := some { sl with back := true } }
          | none => s.sliceDone sl)
        | 2 => .next ((s.setSpare sl.unit_ .free).sliceDone sl)
        | 4 => .next ((s.sliceDone sl).laneReturn sl.unit_)
        | _ => .next (s.sliceDone sl)

/-- A spare that self-test has given back goes to a repair that waits for it (R367 step 2). -/
def State.spareFreed (s : State) (k : Nat) : State :=
  let s := s.setSpare k .free
  match s.flt.waitRep.find? fun b => b / 32 == k / 2 with
  | some b => { s with flt.waitRep := s.flt.waitRep.erase b }.setSpare k (.copying b true)
  | none => s

/-- BANK_COPY_COMPLETE (R367, R374): the copy onto the spare has ended, and the spare stands in for the bank under test; or the copy
back has ended, the bank is back in the rotation, and the spare is free. -/
def execBankCopyComplete (bank _copyUs : Nat) (s : State) : Host.Outcome State Fault Refusal :=
  match s.bankSpare bank with
  | none => .next s
  | some k =>
    if s.fatal then .next s
    else if s.spare k = .testing bank false then .next (s.setSpare k (.testing bank true))
    else if s.spare k = .returning bank then
      let s := s.spareFreed k
      .next (match s.flt.slice with
        | some sl => if sl.kind = 1 && sl.unit_ = bank && sl.back then s.sliceDone sl else s
        | none => s)
    else .next s

/-- SLICE_COMMAND (R376, R378): a write of STC_CMD with KIND 1 to 5. -/
def execSliceCommand (rid : Nat) (val : Word) (s : State) : Host.Outcome State Fault Refusal :=
  .next (s.viaReg rid R.STC_CMD fun s =>
    if 1 ≤ getF val F.STC_CMD_KIND && getF val F.STC_CMD_KIND ≤ 5 then s.stcCmd val else s)

/-- FULL_TEST (R378, R379): a write of STC_CMD with KIND 6. -/
def execFullTest (rid : Nat) (val : Word) (s : State) : Host.Outcome State Fault Refusal :=
  .next (s.viaReg rid R.STC_CMD fun s => s.stcCmd (putF val F.STC_CMD_KIND 6))

/-- FULL_TEST_END (R379, R380): RESET_NEEDED reads 1; a failure is recorded and not repaired. -/
def execFullTestEnd (finding : SliceFinding) (s : State) : Host.Outcome State Fault Refusal :=
  if !s.flt.full || s.fatal then .next s
  else
    let s : State := match finding with
      | .pass => s
      | .fail a b e => (s.stResult 6 0 0 (b % 1024) a e).stFault false
    let s := { s with flt.full := false }.wrFs R.STC_STAT [(F.STC_STAT_RESET_NEEDED, 1), (F.STC_STAT_KIND_NOW, 0)]
    .next (s.cmdEnd 2)

/-- FUSE (R378, R381): a write of STC_CMD with KIND 7. -/
def execFuse (rid : Nat) (val : Word) (s : State) : Host.Outcome State Fault Refusal :=
  .next (s.viaReg rid R.STC_CMD fun s => s.stcCmd (putF val F.STC_CMD_KIND 7))

end Sys2Proof.Machine
end

