-- ==== Sys2Proof/Machine/Tcs.lean ====
section
/-! DEFINITION. The commands that change the traffic-class set (09_traffic R207, R209). -/

namespace Sys2Proof.Machine

open Sys2Proof


/-- TCS_STAGE_WRITE (R207): a write to a TCS rw field changes the staged value, or is discarded while a commit is in
progress. -/
def execTcsStageWrite (rid off : Nat) (val : Word) (s : State) : Host.Outcome State Fault Refusal :=
  .next (s.viaReg rid off fun s =>
    if !isTcsStaged off then s
    else if s.tcsBusy then s.tcsReject 6 127 0
    else match findReg off with
      | some (r, _, _) =>
        let m := r.mask .rw
        let s := s.wr off ((s.rd off &&& ~~~m) ||| (val &&& m))
        s.wrF R.TCS_COMMIT F.TCS_COMMIT_PENDING (b2n (s.staged != s.tcs.force))
      | none => s)

/-- TCS_COMMIT (R207): the staged set is checked in the order of Table 9.3, and QOS_COMMIT is written either way.
REJECT, in the same word, clears where the write has a 1. While a commit is in progress the write is discarded and rejected. -/
def execTcsCommit (rid : Nat) (val : Word) (s : State) : Host.Outcome State Fault Refusal :=
  .next (s.viaReg rid R.TCS_COMMIT fun s =>
    if s.tcsBusy then s.tcsReject 6 127 0
    else
    let s : State := if getF val F.TCS_COMMIT_REJECT = 1 then s.wrF R.TCS_COMMIT F.TCS_COMMIT_REJECT 0 else s
    if getF val F.TCS_COMMIT_COMMIT != 1 then s
    else match tcsCheck s.rd s.portsUsed with
      | none =>
        { (s.qosCommit 0 127 0 rid 0).wrF R.TCS_COMMIT F.TCS_COMMIT_BUSY 1 with tcs.coming := some s.staged }
      | some (cause, port, cls) => (s.qosCommit cause port cls rid 0).tcsReject cause port cls)

/-- COMMIT_IN_FORCE (R209): an accepted commit comes into force and BUSY clears. -/
def execCommitInForce (s : State) : Host.Outcome State Fault Refusal :=
  match s.tcs.coming with
  | none => .next s
  | some set =>
    let s := s.tcsInForce set
    .next (s.wrFs R.TCS_COMMIT [(F.TCS_COMMIT_BUSY, 0), (F.TCS_COMMIT_PENDING, b2n (s.staged != s.tcs.force))])

end Sys2Proof.Machine
end

