-- ==== Sys2Proof/Machine/RegAccess.lean ====
section
/-! DEFINITION. Access to BAR0 (00_scope R3, R4; 01_architecture R11, R12; 12_host R275, R277; 21_registers R426, R427): what a write
of each register does, and what a read returns. -/

namespace Sys2Proof.Machine

open Sys2Proof

/-! ### Writing one register -/

/-- The state a step goes on to; a step that stops leaves the state as it is. -/
def nextOr (o : Host.Outcome State Fault Refusal) (s : State) : State :=
  match o with
  | .next t => t
  | _ => s

/-- The word of a register that has no row of its own after a write: rw fields take their values, and w1c fields clear where the
write has a 1. FLT_CTL.FORCE_FT takes writes only in MANUFACTURE and RETURN (R366). -/
def State.plainWrite (s : State) (r : RegRow) (off : Nat) (val : Word) : State :=
  let m := if off = R.FLT_CTL && !s.stFull then putF (r.mask .rw) F.FLT_CTL_FORCE_FT 0 else r.mask .rw
  s.wr off (((s.rd off &&& ~~~m) ||| (val &&& m)) &&& ~~~(val &&& r.mask .w1c))

/-- A write to LNK_CMD (10_link R242): OP 1, 2 or 3; other values have no effect. -/
def lnkCmd (rid p : Nat) (val : Word) (s : State) : State :=
  match getF val F.LNK_CMD_OP with
  | 1 => nextOr (execLnkRetrain rid p s) s
  | 2 => nextOr (execLnkWidthChange rid p (laneSet (getF val F.LNK_CMD_LANES)) s) s
  | 3 => nextOr (execLnkReleaseHold rid p s) s
  | _ => s

/-- A write to FTH_TIME (R354): SRC_CHG clears where the write has a 1; SET_NOW and SET_AT_PPS set the calendar. -/
def fthTime (rid : Nat) (val : Word) (s : State) : State :=
  let s : State := if getF val F.FTH_TIME_SRC_CHG = 1 then s.wrF R.FTH_TIME F.FTH_TIME_SRC_CHG 0 else s
  let s : State := if getF val F.FTH_TIME_SET_NOW = 1 then nextOr (execCalSetNow rid s) s else s
  if getF val F.FTH_TIME_SET_AT_PPS = 1 then nextOr (execCalSetAtPps rid s) s else s

/-- The window of the TCS block (09_traffic R212). A write to any field of it while a commit is in progress is discarded and
rejected (R207). -/
def tcsWindow (off : Nat) : Bool := off / 0x100000 == 9

/-- What a write of a whole register does where the register has a row of its own: what that row does. The domain answers. -/
def State.ownWrite (s : State) (rid off base i : Nat) (val : Word) : Option State :=
  if tcsWindow off && s.tcsBusy then some (s.tcsReject 6 127 0)
  else if base = R.TEN_ADMIN_SQ 0 then some (nextOr (execAdminSqEnable rid i val s) s)
  else if base = R.TEN_ADMIN_CQ 0 then some (nextOr (execAdminCqEnable rid i val s) s)
  else if base = R.RTE_CTL then some (nextOr (execStaleLimitWrite rid val s) s)
  else if base = R.RTE_EPOCH then some (s.epochWrite rid val)
  else if base = R.RTE_PORT_ROLE 0 then some (nextOr (execPortRoleWrite rid i val s) s)
  else if base = R.RTE_TBL_ACT 0 0 then some (s.activeWrite off val)
  else if base = R.RTE_TBL_SHD 0 0 then some (nextOr (execRouteShadowWrite rid off val s) s)
  else if isTcsStaged off then some (nextOr (execTcsStageWrite rid off val s) s)
  else if base = R.TCS_COMMIT then some (nextOr (execTcsCommit rid val s) s)
  else if base = R.LNK_CTL 0 then some (if bitAt val 0 then nextOr (execPortEnable rid i val s) s else nextOr (execPortDisable rid i val s) s)
  else if base = R.LNK_CMD 0 then some (lnkCmd rid i val s)
  else if base = R.SPN_CTL 0 then some (nextOr (execSpanSpeedWrite rid i val s) s)
  else if base = R.IRC_SRC 0 || base = R.IRC_TGT 0 then some (nextOr (execIrcConfigWrite rid off val s) s)
  else if base = R.IRC_EOI 0 then some (nextOr (execIrcEoi rid i val s) s)
  else if base = R.PWR_DOM_CTL 0 then some (nextOr (execThrottleWrite rid i val s) s)
  else if base = R.FTH_RULE_A 0 then some (nextOr (execRuleWrite rid i val s) s)
  else if base = R.FTH_TIME then some (fthTime rid val s)
  else if base = R.FLT_PEND 0 then some (nextOr (execFaultPendClear rid i val s) s)
  else if base = R.FLT_SRC 0 then some (s.srcWrite i val)
  else if base = R.STC_CMD then some (s.stcCmd val)
  else if base = R.EVR_RD_IDX then some (nextOr (execEvrRdIdxWrite rid val s) s)
  else if base = R.CNT_CTL then some (s.cntCtl val)
  else if base = R.CNT_BW_CTL then some (nextOr (execBwWindowWrite rid val s) s)
  else if base = R.CNT_VAL 0 then some (nextOr (execCounterValueWrite rid i val s) s)
  else if base = R.INS_CMD 0 then some (nextOr (execInspectStart rid i val s) s)
  else none

/-- A write of a whole register by a requester that reaches BAR0 (R11, R12, R427). An offset with no register discards it (R426). -/
def State.regWrite (s : State) (rid off : Nat) (val : Word) : State :=
  match findReg off with
  | none => s
  | some (r, i, _) =>
    match s.regCause off with
    | some (c, d) => s.accessErr rid off true c d
    | none => (s.ownWrite rid off r.base i val).getD (s.plainWrite r off val)

/-- A write of half a register writes the other half's rw fields as they stand, and nothing else there (R4). -/
def State.halfWord (s : State) (off : Nat) (val : Word) : Word :=
  let a := off / 8 * 8
  let m := match findReg a with
    | some (r, _, _) => r.mask .rw
    | none => 0
  if off % 8 = 0 then (s.rd a &&& m &&& 0xFFFFFFFF00000000) ||| (val &&& 0xFFFFFFFF)
  else (s.rd a &&& m &&& 0xFFFFFFFF) ||| ((val &&& 0xFFFFFFFF) <<< 32)

/-- A write of half a register (R4): where no field of that half can be written, the register is not written. -/
def State.halfWrite (s : State) (rid off : Nat) (val : Word) : State :=
  let a := off / 8 * 8
  match findReg a with
  | none => s
  | some (r, _, _) =>
    if r.reaches off || (s.regCause a).isSome || (tcsWindow a && s.tcsBusy) then s.regWrite rid a (s.halfWord off val) else s

/-! ### MSI-X tables (R275, R283) -/

/-- The function whose MSI-X table or pending bits an offset of BAR0 lies in, as a requester sees it, and the offset in it: table,
pending bits (the flag). A physical function's BAR0 holds those of both physical functions, a virtual function's its own. -/
def msixPlace (rid off : Nat) : Option (Nat × Bool × Nat) :=
  if ridFull rid then
    if 0x180000 ≤ off && off < 0x188000 then some (0, false, off - 0x180000)
    else if 0x188000 ≤ off && off < 0x188100 then some (0, true, off - 0x188000)
    else if 0x1C0000 ≤ off && off < 0x1C8000 then some (0x800, false, off - 0x1C0000)
    else if 0x1C8000 ≤ off && off < 0x1C8100 then some (0x800, true, off - 0x1C8000)
    else none
  else if ridClass rid = 0 && fnOk (rid % 4096) then
    if 0x8000 ≤ off && off < 0x10000 then some (rid % 4096, false, off - 0x8000)
    else if 0x1000 ≤ off && off < 0x1100 then some (rid % 4096, true, off - 0x1000)
    else none
  else none

/-- A word of a function's MSI-X table: even words addresses, odd words data with the vector's mask bit in bit 32. -/
def State.msixWord (s : State) (f w : Nat) : Word :=
  let v := (s.fn f).msixTab.get? w
  if w % 2 = 0 then v.getD 0 else putF (v.getD 0) ⟨32, 32⟩ (b2n (!(s.fn f).unmasked.contains (w / 2)))

/-- A word of a function's pending bits. -/
def State.msixPend (s : State) (f w : Nat) : Word :=
  w64 ((s.fn f).pend.foldl (fun a v => if v / 64 = w then a ||| 2 ^ (v % 64) else a) 0)

/-- A word of a function's MSI-X table written; its mask bit masks the vector or unmasks it. -/
def State.msixWrite (s : State) (f w : Nat) (val : Word) : State :=
  let v := s.fn f
  if w % 2 = 0 then s.setFn f { v with msixTab := v.msixTab.set w val }
  else
    let s := s.setFn f { v with msixTab := v.msixTab.set w (val &&& 0xFFFFFFFF) }
    if bitAt val 32 then s.setFn f { s.fn f with unmasked := (s.fn f).unmasked.filter (· != w / 2) } else s.vecUnmask f (w / 2)

/-! ### Status pages (R277) -/

/-- The function whose status page an offset lies in, as a requester sees it, and the offset in it. -/
def statusPlace (rid off : Nat) : Option (Nat × Nat) :=
  if ridFull rid then
    if 0x101000 ≤ off && off < 0x102000 then some (0, off - 0x101000)
    else if 0x102000 ≤ off && off < 0x103000 then some (0x800, off - 0x102000)
    else none
  else if ridClass rid = 0 && fnOk (rid % 4096) && off < 0x1000 then some (rid % 4096, off)
  else none

/-- A register of a function's status page. -/
def State.statusWord (s : State) (f o : Nat) : Word :=
  let v := s.fn f
  match o with
  | 0x000 => w64 (f + v.state * 2 ^ 12 + b2n (v.bme || v.held) * 2 ^ 14 + b2n v.forced * 2 ^ 15 + v.resets * 2 ^ 16)
  | 0x008 => s.rd (R.TEN_ADMIN_SQ f)
  | 0x010 => s.rd (R.TEN_ADMIN_CQ f)
  | 0x018 => w64 ((if isPf f then 2097152 else 32768) - 2 - v.slots.length + (if isPf f then 16368 else 240) * 2 ^ 32 + 2048 * 2 ^ 48)
  | 0x020 => w64 (v.dbDrop + v.pktDrop * 2 ^ 32)
  | _ => 0

/-! ### Reading one register -/

/-- A register's value as a read finds it: as stored, or made of the state that it shows. IRC_CLAIM is shown as stored, without a
claim, to a read of a size that claims nothing (DESIGN CHOICE, log 49). -/
def State.shown (s : State) (off base i : Nat) : Word :=
  let w := s.rd off
  let count := fun (p : Group → Bool) => s.grps.countP fun g => g.1 % 2 == i && p g.2
  if base = R.TOP_DOM_ON 0 then w64 ((List.range 64).foldl (fun a b => a + b2n (decide (64 * i + b < 93) && s.domOn (64 * i + b)) * 2 ^ b) 0)
  else if base = R.MAT_SLICE_STAT 0 then
    w64 (s.postedOf i true + s.postedOf i false * 2 ^ 17
      + Nat.min 65535 (s.mat.msgs.countP fun m => m.dstQp % 4 == i && m.at_ == .held) * 2 ^ 41)
  else if base = R.RMA_CTL then
    putF (putF w F.RMA_CTL_ATOM_H0 (b2n (s.atomUsable 0))) F.RMA_CTL_ATOM_H1 (b2n (s.atomUsable 1))
  else if base = R.RMA_WIN_STAT then
    w64 (s.wins.countP (fun x => x.2.st == .open_) + s.wins.countP (fun x => x.2.st == .revoking || x.2.st == .quarantine) * 2 ^ 25)
  else if base = R.COL_STAT 0 then
    w64 (count (fun g => g.st != .free) + count (fun g => match g.op with
        | some o => o.active
        | none => false) * 2 ^ 16
      + s.grps.foldl (fun a g => if g.1 % 2 = i then a + g.2.staging else a) 0 * 2 ^ 32)
  else if base = R.XLT_STAT then putF (putF w F.XLT_STAT_TRAPS s.xlt.traps.length) F.XLT_STAT_WALKS s.xlt.walks.length
  else if base = R.TCS_POOL then w64 (3145728 - s.reserved - s.poolUsed + s.reserved * 2 ^ 32)
  else if base = R.LNK_FT then s.ftWord
  else if base = R.LAN_STAT 0 then putF w F.LAN_STAT_MARGIN (if s.laneActive i then s.margin i else 0)
  else if base = R.IRC_LEVEL 0 then w64 ((List.range 64).foldl (fun a b => a + b2n (s.ircLevel (64 * i + b)) * 2 ^ b) 0)
  else if base = R.SEM_STAT then putF w F.SEM_STAT_ORPHANS (s.sem.cells.countP fun c => getF c.2 Cell.orphan == 1)
  else if base = R.KMU_LC then w64 (s.boot.lc + s.boot.lcNext * 2 ^ 8 + b2n s.boot.ownerFused * 2 ^ 11)
  else if base = R.KMU_SVN then w64 s.boot.svnMin
  else if base = R.FTH_CAL then w64 s.pwr.cal
  else if base = R.FTH_TIME then putF w F.FTH_TIME_BOOT_COUNT s.bootCount
  else if base = R.FLT_ACTIVE 0 then w64 ((List.range 64).foldl (fun a b => a + b2n (s.active_ (64 * i + b)) * 2 ^ b) 0)
  else if base = R.EVR_STAT then
    w64 (Nat.min recSlots s.evr.used + s.evr.era.toNat * 2 ^ 32 + b2n s.evr.clearing.isSome * 2 ^ 60 + b2n s.evrHigh * 2 ^ 62
      + b2n (decide (recSlots ≤ s.evr.used)) * 2 ^ 63)
  else if base = R.EVR_LOST then w64 s.evr.lost
  else if base = R.LIF_DATA 0 then w64 ((s.evr.words.get? i).getD 0)
  else w

/-- The 64-bit value at an 8-byte aligned offset of BAR0, as a requester sees it. A register whose domain does not answer reads 0
(R12). -/
def State.regValue (s : State) (rid off : Nat) : Word :=
  match msixPlace rid off, statusPlace rid off with
  | some (f, false, o), _ => s.msixWord f (o / 8)
  | some (f, true, o), _ => s.msixPend f (o / 8)
  | none, some (f, o) => s.statusWord f o
  | none, none =>
    if !ridFull rid then 0
    else match findReg off with
      | none => 0
      | some (r, i, _) => if (s.regCause off).isSome then 0 else s.shown off r.base i

/-- Bits [hi:lo] lie within the half or the whole that a read returns. -/
def covers (size o : Nat) (f : RegField) : Bool := decide (8 * o ≤ f.lo) && decide (f.hi < 8 * (o + size))

/-- The rc fields that an aligned read of 8 or 4 bytes returns whole become 0 (R4). -/
def State.rcClear (s : State) (rid off size : Nat) : State :=
  let a := off / 8 * 8
  match statusPlace rid a with
  | some (f, 0x020) =>
    let v := s.fn f
    s.setFn f { v with dbDrop := if off = a then 0 else v.dbDrop, pktDrop := if off = a && size = 4 then v.pktDrop else 0 }
  | _ =>
    match findReg a with
    | some (r, _, _) =>
      s.wr a (r.fields.foldl (fun w f => if f.acc = .rc && covers size (off - a) f then putF w ⟨f.lo, f.hi - f.lo + 1⟩ 0 else w) (s.rd a))
    | none => s

/-- The bytes at an offset of BAR0. -/
def State.barBytes (s : State) (rid off n : Nat) : List Byte :=
  (List.range n).map fun i => byteOf (s.regValue rid ((off + i) / 8 * 8)) ((off + i) % 8)

/-- Bytes returned to a requester, eight at a time. -/
def State.returnBytes (s : State) (rid : Nat) : List Byte → State
  | b0 :: b1 :: b2 :: b3 :: b4 :: b5 :: b6 :: b7 :: rest =>
    (s.emit (.readReturn rid (wordOfBytes [b0, b1, b2, b3, b4, b5, b6, b7]) 8)).returnBytes rid rest
  | [] => s
  | bs => s.emit (.readReturn rid (wordOfBytes bs) bs.length)

end Sys2Proof.Machine
end

