-- ==== Sys2Proof/Machine/BlobOps.lean ====
section
/-! DEFINITION. What a boot checks and applies (14_start R311 to R320): the image directory, firmware images, the configuration
blob. -/

namespace Sys2Proof.Machine

open Sys2Proof

/-! ### Failure reasons (Table 14.4) -/

def Rsn.directory : Nat := 0x01
def Rsn.header : Nat := 0x02
def Rsn.key : Nat := 0x03
def Rsn.signature : Nat := 0x04
def Rsn.rollback : Nat := 0x05
def Rsn.digest : Nat := 0x06
def Rsn.read : Nat := 0x07
def Rsn.owner : Nat := 0x08
def Rsn.section_ : Nat := 0x09
def Rsn.register : Nat := 0x0A
def Rsn.identity : Nat := 0x0B
def Rsn.standby : Nat := 0x0C
def Rsn.busy : Nat := 0x0D
def Rsn.notStaged : Nat := 0x0E
def Rsn.size : Nat := 0x0F
def Rsn.logFull : Nat := 0x10
def Rsn.qos : Nat := 0x11

/-! ### The directory (R311) -/

/-- A region is 4 KiB-aligned, starts at or above 0x2000 and lies inside the flash. -/
def regionOk (size : Nat) (r : Nat × Nat) : Bool := r.1 % 4096 == 0 && decide (0x2000 ≤ r.1) && decide (r.1 + r.2 ≤ size)

/-- Two regions do not overlap. -/
def apart (a b : Nat × Nat) : Bool := decide (a.1 + a.2 ≤ b.1) || decide (b.1 + b.2 ≤ a.1)

/-- A copy of the directory is valid. -/
def dirValid (d : Directory) (size : Nat) : Bool :=
  d.magic == 0x4C4B4452 && d.format == 1 && d.crcOk && [d.slotA, d.slotB, d.config].all (regionOk size)
    && apart d.slotA d.slotB && apart d.slotA d.config && apart d.slotB d.config
    && decide (d.slotA.2 ≤ 24 * 2 ^ 20) && decide (d.slotB.2 ≤ 24 * 2 ^ 20) && decide (d.config.2 ≤ 8 * 2 ^ 20)

/-! ### Images (R312, R313) -/

/-- The bytes of a key or a signature: X then Y, or r then s, each big-endian. -/
def keyBytes (k : BitVec 768) : List Byte := (List.range 96).map fun i => BitVec.ofNat 8 (k.toNat / 256 ^ (95 - i))

/-- The components with a code. -/
def imgCoded (i : Image) (code : Nat) : List Component := i.components.filter fun c => c.code == code

/-- The owner's key and signature over a digest verify (R313 step 4, R318 step 3). -/
def State.ownerOk (s : State) (key sig : BitVec 768) (d : BitVec 384) : Bool :=
  Config.sha384 (keyBytes key) == s.boot.ownerHash && Config.ecdsaVerify key d sig

/-- The checks of R313 in order: the reason of the first that fails. `digests` are the codes whose components check 6 covers. -/
def State.imageReason (s : State) (i : Image) (digests : List Nat) : Option Nat :=
  if !(i.magicFormatOk && decide (3 ≤ i.count) && decide (i.count ≤ 8) && i.components.length == i.count
      && i.components.all (·.inSlot) && [3, 4, 5].all fun c => (imgCoded i c).length == 1) then some Rsn.header
  else if Config.sha384 (keyBytes i.beniusKey) != s.boot.beniusHash then some Rsn.key
  else if !Config.ecdsaVerify i.beniusKey i.manifest i.beniusSig then some Rsn.signature
  else if s.boot.ownerFused && s.boot.lc != 4 && !s.ownerOk i.ownerKey i.ownerSig i.manifest then some Rsn.owner
  else if i.svn < s.boot.svnMin then some Rsn.rollback
  else if !(i.components.all fun c => !digests.contains c.code || c.listed == c.computed) then some Rsn.digest
  else none

/-- The codes of every component of an image. -/
def imgCodes (i : Image) : List Nat := i.components.map (·.code)

/-- The digest of the component with a code. -/
def imgDigest (i : Image) (code : Nat) : BitVec 384 := ((imgCoded i code).head?.map (·.computed)).getD 0

/-- VERSION and SVN of an image, as MEAS_B carries them. -/
def imgVer (i : Image) : Word := verWord i.version.toNat i.svn

/-! ### The blob's sections (R318, R319) -/

/-- The windows that REG_WRITES may write, by the number of their megabyte (21_registers Table 21.1). -/
def blobWindows : List Nat := [0x03, 0x04, 0x05, 0x06, 0x07, 0x08, 0x09, 0x0A, 0x0B, 0x0C, 0x0D, 0x0E, 0x11, 0x12, 0x13, 0x14, 0x17]

/-- The rw bits of a register that REG_WRITES may write. -/
def blobReg (off : Nat) : Option Word :=
  match findReg off with
  | some (r, _, _) =>
    let m := r.mask .rw
    if m != 0 && blobWindows.contains (off / 0x100000) && r.base != R.TEN_ADMIN_SQ 0 && r.base != R.TEN_ADMIN_CQ 0
        && r.base != R.RTE_TBL_ACT 0 0 && r.base != R.RTE_TBL_SHD 0 0 then some m else none
  | none => none

/-- Words taken two by two. -/
def pairs : List Word → List (Word × Word)
  | a :: b :: ws => (a, b) :: pairs ws
  | _ => []

/-- A section is well formed: its header, its type, and a payload that its type can have. -/
def sectionOk (x : Section) : Bool :=
  x.wellFormed && match x.type with
    | 1 => x.ws.length == 1
    | 2 => x.ws.length % 2 == 0
    | 3 => x.ws.length == 8320
    | _ => false

/-- The IDENTITY word is in range. -/
def identityOk (w : Word) : Bool :=
  decide (1 ≤ bitsOf w 18 3) && decide (bitsOf w 18 3 ≤ 4) && decide (bitsOf w 21 5 ≤ 19)
    && decide (20 ≤ bitsOf w 26 5) && decide (bitsOf w 26 5 ≤ 26) && bitsOf w 31 33 == 0

/-- IDENTITY stands exactly once, first, and in range. -/
def identityFirst (xs : List Section) : Bool :=
  match xs with
  | x :: rest => x.type == 1 && identityOk (wordAt x.ws 0) && rest.all fun y => y.type != 1
  | [] => false

/-- The checks of R318 in order: the reason of the first that fails. -/
def State.blobReason (s : State) (b : Blob) : Option Nat :=
  if !(b.magicFormatOk && b.lengthFits) then some Rsn.header
  else if b.listed != b.computed then some Rsn.digest
  else if s.boot.ownerFused && !s.ownerOk b.ownerKey b.ownerSig b.hdrDigest then some Rsn.owner
  else if !(b.count == b.sections.length && decide (1 ≤ b.count) && decide (b.count ≤ 4096) && b.sections.all sectionOk) then
    some Rsn.section_
  else if !identityFirst b.sections then some Rsn.identity
  else if !(b.sections.all fun x => x.type != 2 || (pairs x.ws).all fun p => (blobReg p.1.toNat).isSome) then some Rsn.register
  else none

/-! ### Applying the blob (R320) -/

/-- IDENTITY sets the identity values. -/
def State.applyIdentity (s : State) (w : Word) : State :=
  let s := s.wrFs R.RTE_NODE [(F.RTE_NODE_NODE_ID, bitsOf w 0 18), (F.RTE_NODE_VALID, 1)]
  let s := s.wrFs R.SPN_GROUP [(F.SPN_GROUP_SIZE, bitsOf w 18 3), (F.SPN_GROUP_VALID, 1)]
  { s with boot.ringUnits := bitsOf w 21 5 }.wrF R.TEN_XPORT_CTL F.TEN_XPORT_CTL_FLOW_LOG (bitsOf w 26 5)

/-- A word of the route table, written to both banks. -/
def State.applyRoute (s : State) (i : Nat) (w : Word) : State :=
  (s.wr (actBase + 8 * i) (routeMask (8 * i) w)).wr (shdBase + 8 * i) (routeMask (8 * i) w)

/-- A section applied. Fields that are not rw take no value from a permitted write. -/
def State.applySection (s : State) (x : Section) : State :=
  match x.type with
  | 1 => s.applyIdentity (wordAt x.ws 0)
  | 2 => (pairs x.ws).foldl (fun s p => s.regWrite 0x1000 p.1.toNat (p.2 &&& (blobReg p.1.toNat).getD 0)) s
  | 3 => (x.ws.zip (List.range x.ws.length)).foldl (fun s p => s.applyRoute p.2 p.1) s
  | _ => s

/-- STAGE of the boot reached. -/
def State.stageAt (s : State) (n : Nat) : State := s.wrF R.BOOT_STAT F.BOOT_STAT_STAGE n

/-- STAGE 2's end to STAGE 4 (Table 14.5): the flash is released, host ports, firmware, the alias key, CORE_VSEL_EN, the remaining
domains, trained HBM, and fused replacements of banks (17_self_test R381). -/
def State.bootUp (s : State) (i : Image) : State :=
  let s := ((s.emit .flashRelease).domStart 64).domStart 65
  let s := (([82, 83, 84].foldl State.domStart s).stageAt 3)
  let cdi := Config.hmacUds ([0, 1, 2, 3, 6].flatMap s.mr)
  let s := { s with boot.cdi := cdi, pwr.vselEn := true }.emit (.vselEn true)
  let s := ((List.range 93).foldl State.domStart s).stageAt 4
  let fw := [(F.BOOT_FW_VERSION, i.version.toNat), (F.BOOT_FW_SVN, i.svn), (F.BOOT_FW_STANDBY, 2), (F.BOOT_FW_ACTIVE, 0)]
  let s := (s.wrFs (R.BOOT_FW 0) fw).wrFs (R.BOOT_FW 1) fw
  let s := (s.wrF (R.TOP_HBM_STAT 0) F.TOP_HBM_STAT_TRAINED 1).wrF (R.TOP_HBM_STAT 1) F.TOP_HBM_STAT_TRAINED 1
  (s.boot.spareFuse.foldl (fun s p => s.setSpare p.1 (.fused p.2)) s).calSource

/-- The ports are released to train. -/
def State.portsRelease (s : State) : State :=
  (List.range 67).foldl (fun s p => if s.mayTrain p then s.tryTrain p else s) (s.stageAt 5)

/-! ### Rejections (R316) -/

/-- IMAGE_FAIL, and the reason in BOOT_STAT: region 0 slot A, 1 slot B, 2 blob. -/
def State.imageFail (s : State) (region reason offset : Nat) : State :=
  let f := match region with
    | 0 => F.BOOT_STAT_FAIL_A
    | 1 => F.BOOT_STAT_FAIL_B
    | _ => F.BOOT_STAT_FAIL_CFG
  (s.wrF R.BOOT_STAT f reason).bootNote 0x0105 region reason offset 0 0

/-- A slot is rejected: the other is tried, or both have been. -/
def State.slotFail (s : State) (b second : Bool) (reason offset : Nat) : State :=
  let s := s.imageFail (b2n b) reason offset
  if second then s.recover 1
  else { s with boot.wait := .slot (!b) true }.emit (.flashRead (if b then .slotA else .slotB))

/-- The blob is rejected. -/
def State.blobFail (s : State) (reason offset : Nat) : State := (s.imageFail 2 reason offset).recover 2

/-! ### A region has been read -/

/-- The directory: its first valid copy says which slot is tried first (R310, R311). -/
def State.dirRead (s : State) (octal : Bool) (size : Nat) (d0 d1 : Directory) : State :=
  let go := fun (d : Directory) =>
    let b := d.prefer == 1
    let s := s.wrF R.BOOT_STAT F.BOOT_STAT_FLASH_MODE (if octal then 2 else 1)
    { s with boot.wait := .slot b false }.emit (.flashRead (if b then .slotB else .slotA))
  if dirValid d0 size then go d0 else if dirValid d1 size then go d1 else s.recover 5

/-- The lowest SVN that the fuses accept, raised by an image that asks for it (R313). -/
def raisedBoot (b : Boot) (i : Image) : Boot := if i.raiseSvn && decide (b.svnMin < i.svn) then { b with svnMin := i.svn } else b

/-- An accepted image: MIN is burnt if it asks for it, and MR1 to MR4 are extended (R313, Table 14.8). STAGE 2. -/
def State.imageTake (s : State) (b : Bool) (i : Image) : State :=
  let s := { s with boot := raisedBoot s.boot i }
  let s := (((s.measure 1 0x02 i.manifest (imgVer i)).measure 2 0x03 (imgDigest i 3) (imgVer i)).measure 3 0x04 (imgDigest i 4) (imgVer i)).measure 4 0x05
    (imgDigest i 5) (imgVer i)
  let s := (s.wrF R.BOOT_STAT F.BOOT_STAT_SLOT (b2n b)).stageAt 2
  { s with boot.image := some i, boot.wait := .blob }.emit (.flashRead .blob)

/-- A slot has been read. -/
def State.slotRead (s : State) (b second : Bool) (i : Image) (offset : Nat) : State :=
  match s.imageReason i (imgCodes i) with
  | some r => s.slotFail b second r offset
  | none => s.imageTake b i

/-- An accepted blob (R320): it is measured, the device starts its domains, the sections are applied in order, the traffic-class set is
committed (09_traffic R208), and the ports are released. The blob's SVN is not given. -/
def State.blobTake (s : State) (b : Blob) (i : Image) (offset : Nat) : State :=
  let f := s.freeVal
  let s := f.2.measure 5 0x06 b.computed ((f.1 &&& 0xFFFFFFFF00000000) ||| b.version.setWidth 64)
  let s := ({ s with boot.wait := .none, boot.image := none }).bootUp i
  let s := b.sections.foldl State.applySection s
  let r := s.tcsBoot 70
  if r.2 then r.1.blobFail Rsn.qos offset else r.1.portsRelease

/-- The blob has been read. -/
def State.blobRead (s : State) (b : Blob) (i : Image) (offset : Nat) : State :=
  match s.blobReason b with
  | some r => s.blobFail r offset
  | none => s.blobTake b i offset

end Sys2Proof.Machine
end

