-- ==== Sys2Proof/Machine/Boot.lean ====
section
/-! DEFINITION. Power pins, the boot's own steps, and the SMBus messages (14_start R308 to R328; 18_recorder R391, R395; 15_power R353;
20_package R419 to R422). -/

namespace Sys2Proof.Machine

open Sys2Proof

/-- PWR_GOOD_RISE (R308, R314; 20_package R419, R420). -/
def execPwrGoodRise (bootSrc : Bool) (spanPos : BitVec 2) (s : State) : Host.Outcome State Fault Refusal :=
  .next (if !s.boot.ao || s.boot.pwrGood then s else s.rise bootSrc spanPos)

/-- PWR_GOOD_FALL (20_package R420, R421). -/
def execPwrGoodFall (s : State) : Host.Outcome State Fault Refusal := .next (if s.boot.pwrGood then s.fall else s)

/-- AO_POWER_ON (20_package R419): the always-on power-on reset ends, and Fathom runs. -/
def execAoPowerOn (s : State) : Host.Outcome State Fault Refusal := .next { s with boot.ao := true }

/-- VDD_AO_LOSS (R354; 20_package R422). -/
def execVddAoLoss (s : State) : Host.Outcome State Fault Refusal := .next (if s.boot.ao then s.aoLoss else s)

/-- CLOSING_WRITE_COMPLETE (18_recorder R395; 20_package R420, R421): the closing write after a fall of PWR_GOOD ends, and the store is
closed. A boot held for it may go on. -/
def execClosingWriteComplete (s : State) : Host.Outcome State Fault Refusal :=
  if s.evr.closing && s.boot.ao then
    let s := s.lifeFlush
    let s := s.wrF R.LIF_STAT F.LIF_STAT_LAST_WRITE ((s.evr.words.get? 0).getD 0)
    .next { s with evr.closing := false, evr.closed := true }.bootTry
  else .next s

/-! ### Reads of the flash -/

/-- FLASH_READ_COMPLETE (R311, R313, R314, R316, R318): the region that the boot waits for is checked. -/
def execFlashReadComplete (region : FlashRegion) (data : FlashData) (offset : Nat) (s : State) : Host.Outcome State Fault Refusal :=
  match s.boot.wait, region, data, s.boot.image with
  | .directory, .directory, .dir octal size d0 d1, _ => .next (s.dirRead octal size d0 d1)
  | .slot false second, .slotA, .image i, _ => .next (s.slotRead false second i offset)
  | .slot true second, .slotB, .image i, _ => .next (s.slotRead true second i offset)
  | .blob, .blob, .blob b, some i => .next (s.blobRead b i offset)
  | _, _, _, _ => .next s

/-- FLASH_READ_TIMEOUT (R310, R316): the region that the boot waits for fails with reason READ; without a directory there is no valid
one. -/
def execFlashReadTimeout (region : FlashRegion) (offset : Nat) (s : State) : Host.Outcome State Fault Refusal :=
  match s.boot.wait, region with
  | .directory, .directory => .next (s.recover 5)
  | .slot false second, .slotA => .next (s.slotFail false second Rsn.read offset)
  | .slot true second, .slotB => .next (s.slotFail true second Rsn.read offset)
  | .blob, .blob => .next (s.blobFail Rsn.read offset)
  | _, _ => .next s

/-- An enabled port has joined or is not waited for: UP, or DOWN after its first training attempt or without one that could be made. -/
def State.portTried (s : State) (p : Nat) : Bool :=
  s.rdF (R.LNK_CTL p) F.LNK_CTL_ENABLE == 0 || s.portUp p
    || (s.portState p == 1 && (s.rdF (R.LNK_STATE p) F.LNK_STATE_CAUSE != 0 || !s.mayTrain p || (s.px p).trainAt.isNone))

/-- BOOT_DONE (R314, Table 14.9; 16_faults R364): the device has joined the fabric. STAGE 6, and ALIVE starts. -/
def execBootDone (s : State) : Host.Outcome State Fault Refusal :=
  if s.stage != 5 || s.fatal || !((List.range 67).all s.portTried) then .next s
  else
    let s := { s.stageAt 6 with flt.aliveAt := s.now }
    .next (s.bootNote 0x0106 (s.rdF R.BOOT_STAT F.BOOT_STAT_SLOT) ((s.now - s.boot.pgAt) / 1000000)
      ((List.range 67).filter s.portUp).length 0 0)

/-! ### SMBus (R309, R328) -/

/-- MCTP_CONTROL (R309): answered in every state; Set Endpoint ID is taken. -/
def execMctpControl (m : MctpMsg) (s : State) : Host.Outcome State Fault Refusal :=
  if !s.boot.pwrGood then .next s
  else match m with
    | .setEndpointId e => .next ({ s with boot.eid := e }.emit (.mctp (Config.mctpBody 1 e)))
    | .getEndpointId => .next (s.emit (.mctp (Config.mctpBody 2 s.boot.eid)))
    | .other c => .next (s.emit (.mctp (Config.mctpBody c.toNat s.boot.eid)))

/-- The vendor messages are served: the boot ROM or the firmware runs. -/
def State.smbusOn (s : State) : Bool := s.boot.pwrGood && s.stage != 0

/-- A register as the management cores read it, eight bytes. -/
def State.regBytes (s : State) (off : Nat) : List Byte := bytesOf (s.regValue 0x1000 off) 8

/-- GET_BOOT_STAT (Table 14.11). -/
def execGetBootStat (s : State) : Host.Outcome State Fault Refusal :=
  .next (if !s.smbusOn then s
    else s.emit (.smbus ([R.BOOT_STAT, R.BOOT_FW 0, R.BOOT_FW 1, R.KMU_LC, R.KMU_DEV_ID].flatMap s.regBytes)))

/-- READ_EVR (18_recorder R391): a header, and the slots asked for that lie below its USED. -/
def execReadEvr (first count : Nat) (s : State) : Host.Outcome State Fault Refusal :=
  if !s.smbusOn || count = 0 || 16 < count then .next s
  else
    let used := Nat.min recSlots s.evr.used
    let head := [w64 (s.evr.era.toNat + s.evr.lost * 2 ^ 32), w64 used]
    let slots := ((List.range count).map (first + ·)).filter (· < used)
    .next (s.emit (.smbus (bytesOfWords head ++ slots.flatMap fun i => bytesOfWords (s.slot i))))

/-- The 32 bytes of ACTIVE bits: rule r in bit r mod 8 of byte r / 8. -/
def State.activeBytes (s : State) : List Byte :=
  (List.range 32).map fun i => BitVec.ofNat 8 ((List.range 8).foldl (fun a b =>
    a + s.rdF (R.FTH_RULE_A (8 * i + b)) F.FTH_RULE_A_ACTIVE * 2 ^ b) 0)

/-- Nibble d of page 1: STATE and ENABLE. -/
def State.domNibble (s : State) (d : Nat) : Nat := s.domState d % 8 + s.rdF (R.PWR_DOM_CTL d) F.PWR_DOM_CTL_ENABLE * 8

/-- READ_FATHOM (15_power R353, Table 15.5). The bytes that the table's sizes leave over (8 of page 0, three nibbles of page 1) are
not given: free values (log 4). -/
def execReadFathom (page : Nat) (s : State) : Host.Outcome State Fault Refusal :=
  if !s.smbusOn then .next s
  else
    let f := s.freeVal
    match page with
    | 0 => .next (f.2.emit (.smbus ([R.FTH_CAL, R.FTH_TIME, R.PWR_CLK_STAT].flatMap s.regBytes ++ s.activeBytes ++ bytesOf f.1 8)))
    | 1 =>
      let nib := fun (d : Nat) => if d < 93 then s.domNibble d else bitsOf f.1 (4 * (d - 93)) 4
      .next (f.2.emit (.smbus ((List.range 48).map fun i => BitVec.ofNat 8 (nib (2 * i) + nib (2 * i + 1) * 16))))
    | p =>
      if p ≤ 5 then
        .next (s.emit (.smbus ((List.range 32).flatMap fun i =>
          bytesOf (w64 (s.rdF (R.FTH_CHAN (32 * (p - 2) + i)) F.FTH_CHAN_FILTERED)) 2)))
      else .next (s.emit (.smbus []))

/-- RESET (R328, R317): accepted only in recovery mode: answered, then a reset as by PWR_GOOD, with the straps as they now are. It does
not end the fatal state (16_faults R363). -/
def execReset (bootSrc : Bool) (spanPos : BitVec 2) (s : State) : Host.Outcome State Fault Refusal :=
  .next (if !s.smbusOn || s.stage != 15 || s.fatal then s else (s.emit (.smbus [])).fall.rise bootSrc spanPos)

end Sys2Proof.Machine
end

