-- ==== Sys2Proof/Machine/Lifecycle.lean ====
section
/-! DEFINITION. Life cycle and live firmware update (14_start R329 to R333). -/

namespace Sys2Proof.Machine

open Sys2Proof

/-! ### Life cycle (R330, R331) -/

/-- The transitions of Table 14.13 that LC_ADVANCE makes, and whether they need a token. -/
def lcStep (from_ dest : Nat) : Option Bool :=
  if from_ = 5 then none
  else if dest = 5 then some true
  else if from_ = 1 && dest = 2 then some true
  else if from_ = 2 && dest = 3 then some false
  else if from_ = 3 && dest = 4 then some true
  else none

/-- A token names the transition and this device, and its signature verifies: Benius's, or for SCRAPPED the owner's. -/
def State.lcToken (s : State) (dest : Nat) (t : Token) : Bool :=
  let b := t.body
  b.w0 == w64 dest && b.w1 == s.devId && b.w2 == 0 && b.w3 == 0 && b.w4 == 0 && b.w5 == 0 && b.w6 == 0 && b.w7 == 0
    && (tokenBenius t || (dest == 5 && s.boot.ownerFused
      && Config.ecdsaVerify (Config.ownerTokenKey s.boot.ownerHash) (Config.sha384 (tokenBytes t)) t.sig))

/-- The fuses with a next life-cycle state burnt. -/
def burntBoot (b : Boot) (dest : Nat) : Boot := { b with lcNext := dest, noSecret := b.noSecret || dest == 5 }

/-- The fuses with the hash of the owner's key burnt. -/
def ownedBoot (b : Boot) (h : BitVec 384) : Boot := { b with ownerFused := true, ownerHash := h }

/-- A state is burnt: it is pending until the next reset; SCRAPPED stops all signing at once. -/
def State.lcBurn (s : State) (r : CmdRef) (dest : Nat) : State :=
  let old := s.boot.lc
  let s := { s with boot := burntBoot s.boot dest }
  (s.note 0x0501 86 old dest r.fn 1).adminDone r St.ok (w64 dest)

/-- A transition that LC_ADVANCE names (R330, Tables 14.13, 14.14): MALFORMED where the table has none, while another is pending,
without the identity certificate, or with a token that does not verify. -/
def State.lcAdvance (s : State) (r : CmdRef) (dest : Nat) (tr : Option Bool) (asid : Nat) (va : Word) (token : FetchedToken) : State :=
  match tr with
  | none => s.adminDone r St.malformed 0
  | some need =>
    if s.boot.lcNext != s.boot.lc || (s.boot.lc == 1 && dest == 2 && !s.boot.idCert) then s.adminDone r St.malformed 0
    else if !need then s.lcBurn r dest
    else s.cmdRead r asid va 160 fun s => match token with
      | .failed st => s.adminDone r st 0
      | .token t => if s.lcToken dest t then s.lcBurn r dest else s.adminDone r St.malformed 0

/-- LC_ADVANCE (R330, Tables 14.13, 14.14). -/
def execLcAdvance (c : AdminCmd) (token : FetchedToken) (s : State) : Host.Outcome State Fault Refusal :=
  if s.keyBusy then .next s
  else .next (s.asking (.cmd c.fn) fun s =>
    s.admin c 0x82 [(2, ones 0 23), (4, 0), (5, 0), (6, 0), (7, 0)] fun s r => s.pfOnly c r fun s r =>
      s.lcAdvance r (bitsOf c.e.w2 0 3) (lcStep s.boot.lc (bitsOf c.e.w2 0 3)) (bitsOf c.e.w2 3 20) c.e.w3 token)

/-- The hash of the owner's key is burnt, and OWNER_KEY recorded. -/
def State.ownerBurn (s : State) (r : CmdRef) (hash : BitVec 384) : State :=
  ({ s with boot := ownedBoot s.boot hash }.record 0x0502 0 86 (digestWord hash 0) (w64 r.fn) 0 0 0).adminDone r St.ok 0

/-- SET_OWNER_KEY (R331): accepted only in PROVISIONED, and only once. -/
def execSetOwnerKey (c : AdminCmd) (key : FetchedKey) (s : State) : Host.Outcome State Fault Refusal :=
  if s.keyBusy then .next s
  else .next (s.asking (.cmd c.fn) fun s =>
    s.admin c 0x83 [(2, ones 0 20), (4, 0), (5, 0), (6, 0), (7, 0)] fun s r => s.pfOnly c r fun s r =>
      if s.boot.lc != 2 || s.boot.ownerFused then s.adminDone r St.malformed 0
      else s.cmdRead r (bitsOf c.e.w2 0 20) c.e.w3 96 fun s => match key with
        | .failed st => s.adminDone r st 0
        | .key k => s.ownerBurn r (Config.sha384 (keyBytes k)))

/-! ### Live firmware update (R332, R333) -/

/-- The component of a pair. -/
def pairCode (k : Nat) : Nat := 3 + k

/-- A command for a pair completes MALFORMED with a reason, which BOOT_FW keeps. -/
def State.fwFail (s : State) (r : CmdRef) (k reason : Nat) (version : Nat) : State :=
  (s.wrF (R.BOOT_FW k) F.BOOT_FW_REASON reason).adminDone r St.malformed (w64 (reason + version * 2 ^ 32))


/-- An image is checked and held for a pair (R332). -/
def State.fwHold (s : State) (r : CmdRef) (k : Nat) (i : Image) : State :=
  match s.imageReason i [pairCode k] with
  | some e => s.fwFail r k e i.version.toNat
  | none =>
    if (imgCoded i (pairCode k)).isEmpty then s.fwFail r k Rsn.size i.version.toNat
    else ((s.setUpdate k { s.update k with staged := some i }).wrF (R.BOOT_FW k) F.BOOT_FW_UPD 2).adminDone r St.ok
      (w64 (i.version.toNat * 2 ^ 32))

/-- FW_STAGE (R332, Table 14.14): the image is read, checked and held, in one step. -/
def execFwStage (c : AdminCmd) (image : FetchedImage) (s : State) : Host.Outcome State Fault Refusal :=
  if s.keyBusy then .next s
  else .next (s.asking (.cmd c.fn) fun s =>
    s.admin c 0x80 [(2, ones 0 21), (4, ones 0 32), (5, 0), (6, 0), (7, 0)] fun s r => s.pfOnly c r fun s r =>
      let k := bitsOf c.e.w2 0 1
      if s.activating k then s.fwFail r k Rsn.busy 0
      else if 24 * 2 ^ 20 < bitsOf c.e.w4 0 32 then s.fwFail r k Rsn.size 0
      else s.cmdRead r (bitsOf c.e.w2 1 20) c.e.w3 (bitsOf c.e.w4 0 32) fun s => match image with
        | .failed st => s.adminDone r st 0
        | .image i => s.fwHold r k i)

/-- Why FW_ACTIVATE is refused, in the order of R332 step 1. -/
def State.activateBar (s : State) (k : Nat) : Option Nat :=
  if (s.update k).staged.isNone then some Rsn.notStaged
  else if s.rdF (R.BOOT_FW k) F.BOOT_FW_STANDBY != 2 then some Rsn.standby
  else if s.activating (1 - k) then some Rsn.busy
  else if 1024 < s.boot.log.length + 3 then some Rsn.logFull
  else none

/-- FW_ACTIVATE (R324, R332 steps 1 and 2): the standby core begins to load the staged component. -/
def execFwActivate (c : AdminCmd) (s : State) : Host.Outcome State Fault Refusal :=
  if s.keyBusy then .next s
  else .next (s.admin c 0x81 [(2, 1), (3, 0), (4, 0), (5, 0), (6, 0), (7, 0)] fun s r => s.pfOnly c r fun s r =>
    let k := bitsOf c.e.w2 0 1
    match s.activateBar k with
    | some e => s.fwFail r k e (match (s.update k).staged with
        | some i => i.version.toNat
        | none => 0)
    | none => (s.setUpdate k { s.update k with running := some r, lost := false }).wrFs (R.BOOT_FW k)
        [(F.BOOT_FW_UPD, 3), (F.BOOT_FW_STANDBY, 1)])

/-- The pair hands over (R332 steps 3 to 5, R333): the standby runs the new image; MR7 is extended; FW_UPDATE, MEAS_A and MEAS_B are
written; the command completes; the old core is demoted and reloads. -/
def State.handOver (s : State) (k : Nat) (r : CmdRef) (i : Image) (u : Update) : State :=
  let old := s.activeCore k
  let was := s.rdF (R.BOOT_FW k) F.BOOT_FW_VERSION
  let act := s.rdF (R.BOOT_FW k) F.BOOT_FW_ACTIVE
  let s := s.setUpdate k { staged := none, running := none, lost := false }
  let s := s.wrFs (R.BOOT_FW k) [(F.BOOT_FW_ACTIVE, 1 - act), (F.BOOT_FW_VERSION, i.version.toNat), (F.BOOT_FW_SVN, i.svn),
    (F.BOOT_FW_UPD, 4), (F.BOOT_FW_STANDBY, 1)]
  let s := s.bootNote 0x0108 k (b2n u.lost) i.version.toNat i.svn was
  let s := s.measure 7 0x08 (imgDigest i (pairCode k)) (imgVer i)
  let s : State := if u.lost then s.wrF R.BOOT_STAT F.BOOT_STAT_FAILOVER 1 else s
  (s.adminDone r St.ok (w64 (i.version.toNat * 2 ^ 32))).coreLost old

/-- FW_STANDBY_LOADED (R332, R333): the standby core has loaded the staged component. One whose digest does not fit fails before the
handover; with the active core lost as well, the pair is lost. The handover is one step (DESIGN CHOICE, log 37). -/
def execFwStandbyLoaded (pair : Nat) (digestOk : Bool) (s : State) : Host.Outcome State Fault Refusal :=
  let u := s.update pair
  match u.running, u.staged with
  | some r, some i =>
    if !s.fwRuns || 2 ≤ pair || s.rdF (R.BOOT_FW pair) F.BOOT_FW_UPD != 3 then .next s
    else if digestOk then .next (s.handOver pair r i u)
    else if u.lost then .next ((s.wrF (R.BOOT_FW pair) F.BOOT_FW_STANDBY 0).ftRaise (0x254 + pair) false)
    else .next (s.activateFail pair Rsn.standby)
  | _, _ => .next s

/-- FW_STANDBY_RELOADED (R332 step 5, R333): the demoted core is the ready standby, or its reload has failed, which is the failure of
that core (16_faults Table 16.2). -/
def execFwStandbyReloaded (pair : Nat) (ok : Bool) (s : State) : Host.Outcome State Fault Refusal :=
  if !s.fwRuns || 2 ≤ pair || s.rdF (R.BOOT_FW pair) F.BOOT_FW_UPD != 4 then .next s
  else
    let old := 2 * pair + (1 - s.rdF (R.BOOT_FW pair) F.BOOT_FW_ACTIVE)
    let s := (s.wrFs (R.BOOT_FW pair) [(F.BOOT_FW_UPD, 0), (F.BOOT_FW_STANDBY, if ok then 2 else 0)]).wrF R.BOOT_STAT
      F.BOOT_STAT_UPD_DONE 1
    .next (if ok then s else s.ucRaise (0x250 + old) (srcDomain (0x250 + old)) 0 false)

end Sys2Proof.Machine
end

