-- ==== Sys2Proof/Machine/Registers.lean ====
section
/-! DEFINITION. Register accesses from outside as commands (00_scope R3, R4; 01_architecture R11, R12; 21_registers R426, R427). -/

namespace Sys2Proof.Machine

open Sys2Proof

/-- Where the model numbers a host function's BAR2, and the configuration fields AtomicOp Requester Enable and Device Control, beside
BAR0 in the offset of REGISTER_READ and REGISTER_WRITE. DESIGN CHOICE (log 57). -/
def bar2Base : Nat := 2 ^ 36
def atomCfg : Nat := 2 ^ 37
def devCtlCfg : Nat := 2 ^ 37 + 8

/-- A configuration write of a physical function (05_remote R123, 12_host R271). -/
def State.configWrite (s : State) (rid off : Nat) (val : Word) : State :=
  if ridClass rid == 0 && isPf (rid % 4096) then
    let v := s.fn (rid % 4096)
    s.setFn (rid % 4096) (if off = atomCfg then { v with atomEn := val.getLsbD 0 } else { v with devCtl := val.setWidth 16 })
  else s

/-- REGISTER_WRITE (R4, R11, R12): a write of 8 bytes, or of 4 to one half, takes effect as the register's row or access types say;
any other size or alignment is discarded, and captured where a register lies there. A virtual function reaches its MSI-X table
only. A physical function's writes at `atomCfg` and `devCtlCfg` reach its configuration space. -/
def execRegisterWrite (rid off size : Nat) (val : Word) (s : State) : Host.Outcome State Fault Refusal :=
  let a := off / 8 * 8
  let fit := (size == 8 && off % 8 == 0) || (size == 4 && off % 4 == 0)
  if !s.barOpen rid then .next s
  else if off = atomCfg || off = devCtlCfg then .next (s.configWrite rid off val)
  else match msixPlace rid a with
    | some (f, false, o) =>
      if !fit then .next (s.accessErr rid off true 3 0)
      else
        let w := s.msixWord f (o / 8)
        let v := if size = 8 then val
          else if off = a then (w &&& 0xFFFFFFFF00000000) ||| (val &&& 0xFFFFFFFF)
          else (w &&& 0xFFFFFFFF) ||| ((val &&& 0xFFFFFFFF) <<< 32)
        .next (s.msixWrite f (o / 8) v)
    | some (_, true, _) => .next (if fit then s else s.accessErr rid off true 3 0)
    | none =>
      if !fit then
        .next (if (ridFull rid && (findReg a).isSome) || (statusPlace rid a).isSome then s.accessErr rid off true 3 0 else s)
      else if !ridFull rid then .next s
      else if size = 8 then .next (s.regWrite rid a val)
      else .next (s.halfWrite rid off val)


/-- REGISTER_READ (R4, R12, R426): an aligned read of 8 or 4 bytes returns them and clears the rc fields that it returns whole; a
read of IRC_CLAIM claims (12_host R289); any other size returns the addressed bytes and does nothing else. A read in a domain that does
not answer returns 0 and is captured. A read of a function's BAR2, doorbell slots and ring aperture alike, returns 0 and does nothing else
(02_queues R24, 12_host R273). -/
def execRegisterRead (rid off size : Nat) (s : State) : Host.Outcome State Fault Refusal :=
  let a := off / 8 * 8
  let fit := (size == 8 && off % 8 == 0) || (size == 4 && off % 4 == 0)
  let claim := decide (R.IRC_CLAIM 0 ≤ off) && decide (off < R.IRC_CLAIM 6) && off % 8 == 0
  if !s.barOpen rid then .next s
  else if bar2Base ≤ off then
    .next (if ridClass rid == 0 then s.returnBytes rid (List.replicate size 0) else s)
  else if claim && fit && ridFull rid then .next (s.ircClaim rid ((off - R.IRC_CLAIM 0) / 8) size)
  else
    let s : State := if ridFull rid then s.shadowSeen a else s
    let bs := s.barBytes rid off size
    let s : State := match ridFull rid, s.regCause a with
      | true, some (c, d) => s.accessErr rid off false c d
      | _, _ => if fit && (ridFull rid || (statusPlace rid a).isSome) then s.rcClear rid off size else s
    .next (s.returnBytes rid bs)

end Sys2Proof.Machine
end

