-- ==== Sys2Proof/Machine/Semaphore.lean ====
section
/-! DEFINITION. The commands of the semaphore unit (13_semaphore). -/

namespace Sys2Proof.Machine

open Sys2Proof

/-- The BAR4 access of a requester is taken: a draining function's is discarded (R280), as is every access in the
fatal state (R362) or while the unit's domain is off; Fathom and the self-test controller have none (R293). -/
def State.semOpen (s : State) (rid : Nat) : Bool :=
  s.domOn 91 && !s.fatal && ((ridClass rid == 1 && decide (rid % 4096 < 4))
    || (ridClass rid == 0 && fnOk (rid % 4096) && s.fnOpen (rid % 4096)))

/-- The position and cell of a BAR4 offset (R293). -/
def cellPos (off : Nat) : Nat := off / 0x20000
def cellNo (off : Nat) : Nat := off % 0x20000 / 8

/-- A request to a peer's cell (R302, R303): sent while the span port is UP and a tag is free, otherwise dropped and
counted, which completes a read or AtomicOp with 0. -/
def State.spanReq (s : State) (rid q c kind size low : Nat) (wide high : Bool) (cmd : Word) : State :=
  let k := s.spanTo q
  let tag := firstFree 0 ((s.sem.reqs.filter fun p => p.1 / 256 == k).map fun p => p.1 % 256)
  if s.portUp (64 + k) && tag < 192 then
    let q : SpanReq := { rid := rid, kind := kind, cell := c, size := size, low := low, due := s.now + 20000 }
    let s := { s with sem.reqs := s.sem.reqs.set (k * 256 + tag) q }
    s.spanSend k { pktZero with
      type := 0x0C,
      w4 := w64 (c + kind * 2 ^ 16 + b2n wide * 2 ^ 18 + b2n high * 2 ^ 19 + tag * 2 ^ 24),
      w5 := if kind = 1 || kind = 2 then cmd else 0, w6 := w64 rid }
  else
    let s := s.bump (R.SEM_CNT 2) F.SEM_CNT_COUNT 1
    if kind = 1 then s
    else if kind = 0 then s.emit (.readReturn rid 0 size) else s.emit (.atomicReturn rid 0 size)

/-- A command written to a cell (R293, R295, R296): an aligned 8-byte write, or an aligned 4-byte write of the low
half; any other write, and a write to an absent position, is discarded and counted. -/
def State.cellWrite (s : State) (rid off size : Nat) (cmd : Word) : State :=
  let cmd := if size = 4 then w64 (bitsOf cmd 0 32) else cmd
  if !s.semOpen rid then s
  else if !((size == 8 && off % 8 == 0) || (size == 4 && off % 8 == 0)) then s.bump (R.SEM_CNT 3) F.SEM_CNT_COUNT 1
  else if cellPos off = s.spanPos then s.cellDo rid rid (cellNo off) cmd
  else if !s.peerAt (cellPos off) then s.bump (R.SEM_CNT 3) F.SEM_CNT_COUNT 1
  else if ridClass rid = 0 && !s.mayUse rid (cellNo off / 128) then s.semRefuse rid (cellNo off) true false
  else s.spanReq rid (cellPos off) (cellNo off) 1 size 0 false false cmd

/-- CELL_CLAIM (R295): a write whose command word has OP 0. -/
def execCellClaim (rid off size : Nat) (cmd : Word) (s : State) : Host.Outcome State Fault Refusal :=
  .next (s.cellWrite rid off size (putF cmd ⟨0, 2⟩ 0))

/-- CELL_RELEASE (R295): a write whose command word has OP 1. -/
def execCellRelease (rid off size : Nat) (cmd : Word) (s : State) : Host.Outcome State Fault Refusal :=
  .next (s.cellWrite rid off size (putF cmd ⟨0, 2⟩ 1))

/-- CELL_FORCE (R295, R301): a write whose command word has OP 2. -/
def execCellForce (rid off size : Nat) (cmd : Word) (s : State) : Host.Outcome State Fault Refusal :=
  .next (s.cellWrite rid off size (putF cmd ⟨0, 2⟩ 2))

/-- What an AtomicOp returns of a cell word (R296). -/
def atomBytes (form : AtomicForm) (w : Word) : Word × Nat :=
  match form with
  | .wide _ => (w, 8)
  | .low _  => (w64 (bitsOf w 0 32), 4)
  | .high _ => (w64 (bitsOf w 32 32), 4)

/-- The command word of an AtomicOp; none on the high half (R296). -/
def atomCmd : AtomicForm → Option Word
  | .wide op => some op
  | .low op  => some (w64 op.toNat)
  | .high _  => none

/-- CELL_ATOMICOP (R296): the command is carried out and the cell word as it then stands is returned; without the
right, 0 is returned and nothing is carried out (R299). -/
def execCellAtomicop (rid off : Nat) (form : AtomicForm) (s : State) : Host.Outcome State Fault Refusal :=
  let size := (atomBytes form 0).2
  let c := cellNo off
  let cmd := (atomCmd form).getD 0
  if !s.semOpen rid then .next (s.emit (.atomicReturn rid 0 size))
  else if cellPos off = s.spanPos then
    if s.mayUse rid (c / 128) && s.cmdRight rid c cmd then
      let s : State := if (atomCmd form).isSome then s.cellCmd rid rid c cmd else s
      .next (s.emit (.atomicReturn rid (atomBytes form (s.cell c)).1 size))
    else .next ((s.semRefuse rid c true (bitsOf cmd 0 2 = 2)).emit (.atomicReturn rid 0 size))
  else if !s.peerAt (cellPos off) then .next (s.emit (.atomicReturn rid 0 size))
  else if ridClass rid = 0 && !s.mayUse rid (c / 128) then
    .next ((s.semRefuse rid c true false).emit (.atomicReturn rid 0 size))
  else .next (s.spanReq rid (cellPos off) c 2 size (match form with | .high _ => 4 | _ => 0)
    (match form with | .wide _ => true | _ => false) (match form with | .high _ => true | _ => false) cmd)

/-- The bytes of a cell word from byte `lo`, `n` of them. -/
def cellPart (w : Word) (lo n : Nat) : Word := w64 (bitsOf w (8 * lo) (8 * n))

/-- The part of one cell that a read asks for: its bytes are returned (R296), or 0 without the right (R299). -/
def State.cellRead (s : State) (rid off size : Nat) : State :=
  let c := cellNo off
  if !s.semOpen rid then s.emit (.readReturn rid 0 size)
  else if cellPos off = s.spanPos then
    if s.mayUse rid (c / 128) then s.emit (.readReturn rid (cellPart (s.cell c) (off % 8) size) size)
    else (s.semRefuse rid c false false).emit (.readReturn rid 0 size)
  else if !s.peerAt (cellPos off) then s.emit (.readReturn rid 0 size)
  else if ridClass rid = 0 && !s.mayUse rid (c / 128) then
    (s.semRefuse rid c false false).emit (.readReturn rid 0 size)
  else s.spanReq rid (cellPos off) c 0 size (off % 8) false false 0

/-- The reads of single cells that a read of any size is made of: offset and bytes of each. -/
def cellPieces (off size : Nat) : List (Nat × Nat) :=
  (List.range ((off + size - 1) / 8 - off / 8 + 1)).map fun i =>
    let lo := if i = 0 then off else (off / 8 + i) * 8
    let hi := Nat.min (off + size) ((off / 8 + i + 1) * 8)
    (lo, hi - lo)

/-- CELL_READ (R296, R298): a read of any size returns the addressed bytes, cell by cell. -/
def execCellRead (rid off size : Nat) (s : State) : Host.Outcome State Fault Refusal :=
  .next ((cellPieces off size).foldl (fun t p => t.cellRead rid p.1 p.2) s)

/-! ### Requests from span peers (R266, R302) -/

/-- A SPAN_REQ or SPAN_RESP is steered to the unit only under the conditions of R266. -/
def State.spanOk (s : State) (k : Nat) (p : Packet) : Bool :=
  k < 3 && s.role (64 + k) == 4 && p.srcNode == s.rdF (R.RTE_PORT_ROLE (64 + k)) F.RTE_PORT_ROLE_FAR_NODE
    && p.hops == 1 && p.dstNode == s.node

/-- A span packet that waits at the management position came on another span port. -/
def State.elsewhere (s : State) (k : Nat) (p : Packet) : Bool :=
  match s.rte.localQ.find? fun b => b.pkt == p with
  | some b => b.ingress != 64 + k
  | none => false

/-- A packet that fails R266 is counted. -/
def State.spanDiscard (s : State) (k : Nat) : State :=
  if k < 3 then s.bump (R.SPN_STAT k) F.SPN_STAT_DISCARD 1 else s

/-- The incarnation check of R300: another INC than the one recorded orphans the peer's cells before the request is
performed, and is recorded. -/
def State.peerIncCheck (s : State) (pos : Nat) (inc : BitVec 16) : State :=
  let t := if (s.sem.incs.get? pos).getD inc = inc then s
    else s.orphan (0x2000 + pos) 3 fun w => getF w Cell.owner == 0x2000 + pos
  { t with sem.incs := t.sem.incs.set pos inc }

/-- The answer to a span request (Table 13.3). -/
def State.spanAnswer (s : State) (k : Nat) (p : Packet) (word : Word) (refused : Bool) : State :=
  s.spanSend k { pktZero with
    type := 0x0D, w4 := w64 (bitsOf p.w4 0 14 + bitsOf p.w4 24 8 * 2 ^ 24),
    w5 := if refused then 0 else word, w6 := w64 (b2n refused) }

/-- The cell of a span request, and the requester identities it names (R266, R302). -/
def reqCell (p : Packet) : Nat := bitsOf p.w4 0 14
def reqOrigin (p : Packet) : Nat := bitsOf p.w6 0 16

/-- A request of the given kind from a span peer: checked under R266, incarnation first (R300), then served. -/
def State.spanServe (s : State) (k kind : Nat) (p : Packet) (act : State → Nat → State) : State :=
  if s.overtakes p || s.elsewhere k p then s else
  let s := s.takeLocal p
  if p.type != 0x0C || bitsOf p.w4 16 2 != kind || !s.live then s
  else if !s.spanOk k p then s.spanDiscard k
  else act (s.peerIncCheck (s.posOf k) p.inc) (0x2000 + s.posOf k)

/-- SPAN_REQ_READ (R302). -/
def execSpanReqRead (span : Nat) (p : Packet) (s : State) : Host.Outcome State Fault Refusal :=
  .next (s.spanServe span 0 p fun s rid =>
    if s.mayUse rid (reqCell p / 128) then s.spanAnswer span p (s.cell (reqCell p)) false
    else (s.semRefuse rid (reqCell p) false false).spanAnswer span p 0 true)

/-- SPAN_REQ_WRITE (R302). -/
def execSpanReqWrite (span : Nat) (p : Packet) (s : State) : Host.Outcome State Fault Refusal :=
  .next (s.spanServe span 1 p fun s rid =>
    if s.cmdRight rid (reqCell p) p.w5 then
      let s := s.cellCmd rid (reqOrigin p) (reqCell p) p.w5
      s.spanAnswer span p (s.cell (reqCell p)) false
    else (s.semRefuse rid (reqCell p) true (bitsOf p.w5 0 2 = 2)).spanAnswer span p 0 true)

/-- SPAN_REQ_ATOMIC (R302): HIGH marks an AtomicOp on the high half, which performs no command (R296). -/
def execSpanReqAtomic (span : Nat) (p : Packet) (s : State) : Host.Outcome State Fault Refusal :=
  .next (s.spanServe span 2 p fun s rid =>
    if s.mayUse rid (reqCell p / 128) && s.cmdRight rid (reqCell p) p.w5 then
      let s : State := if bitAt p.w4 19 then s else s.cellCmd rid (reqOrigin p) (reqCell p) p.w5
      s.spanAnswer span p (s.cell (reqCell p)) false
    else (s.semRefuse rid (reqCell p) true (bitsOf p.w5 0 2 = 2)).spanAnswer span p 0 true)

/-- NOTICE (R300, R304): the identity named becomes ORPHAN here; with ALL, every cell of the peer. ORIGIN 0xFFFF
names no holder. -/
def execNotice (span : Nat) (p : Packet) (s : State) : Host.Outcome State Fault Refusal :=
  .next (s.spanServe span 3 p fun s rid =>
    let all := bitAt p.w6 16
    let s := s.orphan (if all then rid else reqOrigin p) 2
      fun w => getF w Cell.owner == rid && (all || getF w Cell.origin == reqOrigin p)
    s.spanAnswer span p 0 false)

/-- SPAN_RESP (R302, R304): the answer completes the read or AtomicOp it belongs to, or ends a NOTICE. -/
def execSpanResp (span : Nat) (p : Packet) (s : State) : Host.Outcome State Fault Refusal :=
  if s.overtakes p || s.elsewhere span p then .next s else
  let s := s.takeLocal p
  if p.type != 0x0D || !s.live then .next s
  else if !s.spanOk span p then .next (s.spanDiscard span)
  else
    let tag := bitsOf p.w4 24 8
    match s.sem.reqs.get? (span * 256 + tag) with
    | some q =>
      let s := { s with sem.reqs := s.sem.reqs.erase (span * 256 + tag) }
      .next (if q.kind = 1 then s
        else if q.kind = 0 then s.emit (.readReturn q.rid (cellPart p.w5 q.low q.size) q.size)
        else s.emit (.atomicReturn q.rid (cellPart p.w5 q.low q.size) q.size))
    | none =>
      .next { s with sem.notices := s.sem.notices.upd span fun ns => ns.filter fun n => n.tag != tag }

/-- SPAN_REQ_TIMEOUT (R303): 20 µs without an answer drop the request, which completes with 0. -/
def execSpanReqTimeout (span tag : Nat) (s : State) : Host.Outcome State Fault Refusal :=
  match s.sem.reqs.get? (span * 256 + tag) with
  | none => .next s
  | some q =>
    let s := s.passTo q.due
    let s := { s with sem.reqs := s.sem.reqs.erase (span * 256 + tag) }.bump (R.SEM_CNT 2) F.SEM_CNT_COUNT 1
    .next (if q.kind = 1 then s
      else if q.kind = 0 then s.emit (.readReturn q.rid 0 q.size) else s.emit (.atomicReturn q.rid 0 q.size))

/-- NOTICE_RESEND (R304): every 20 µs an unanswered NOTICE is sent again while its port is UP. -/
def execNoticeResend (span : Nat) (s : State) : Host.Outcome State Fault Refusal :=
  match s.sem.notices.get? span with
  | some (n :: ns) =>
    if s.portUp (64 + span) then
      let s := s.passTo n.due
      let s := { s with sem.notices := s.sem.notices.set span (ns ++ [{ n with due := s.now + 20000 }]) }
      .next (s.noticeSend span n)
    else .next s
  | _ => .next s

end Sys2Proof.Machine
end

