-- ==== Sys2Proof/Machine/Spdm.lean ====
section
/-! DEFINITION. SPDM (14_start R326, R327; 12_host R284, R285). The manual names SPDM 1.3 for what its messages hold: response and error
codes, and the order of the requests, are PRESUMED from it (log 38); the bodies it does not give are opaque functions of what they
depend on (log 5). -/

namespace Sys2Proof.Machine

open Sys2Proof

/-! ### Endpoints (R327) -/

/-- An endpoint's number. -/
def epKey : Endpoint → Nat
  | .doe0 => 0
  | .doe1 => 1
  | .mctp => 2

/-- The host port of a DOE endpoint. -/
def epHost : Endpoint → Option Nat
  | .doe0 => some 0
  | .doe1 => some 1
  | .mctp => none

/-- An endpoint without a connection. -/
def spdmInit : Spdm := { stage := 0, sessions := [], chunk := none }

/-- An endpoint's connection and sessions. -/
def State.conn (s : State) (ep : Endpoint) : Spdm := (s.hst.spdm.get? (epKey ep)).getD spdmInit

/-- The state with an endpoint's connection set. -/
def State.setConn (s : State) (ep : Endpoint) (c : Spdm) : State := { s with hst.spdm := s.hst.spdm.set (epKey ep) c }

/-- A request has reached the endpoint: an exchange is in progress at a mailbox; SMBus is served, and the life-cycle state attests
(Table 14.12). -/
def State.spdmHere (s : State) (ep : Endpoint) : Bool :=
  s.smbusOn && s.boot.lc != 0 && s.boot.lc != 5 &&
  match epHost ep with
  | some h => s.hostOn h && (s.doe h).busy && !s.fatal
  | none => true

/-- An answer leaves the endpoint; a mailbox's exchange ends with its object ready. -/
def State.answer (s : State) (ep : Endpoint) (code : Nat) (body : List Byte) : State :=
  let s := s.emit (.spdm ep code body)
  match epHost ep with
  | some h => s.doeAnswer h
  | none => s

/-- ERROR with a code. -/
def State.spdmError (s : State) (ep : Endpoint) (e : Nat) : State := s.answer ep 0x7F [BitVec.ofNat 8 e]

def Err.invalid : Nat := 0x01
def Err.unexpected : Nat := 0x04
def Err.unspecified : Nat := 0x05
def Err.unsupported : Nat := 0x07
def Err.sessions : Nat := 0x0A

/-- The keystore cannot sign: it has failed (16_faults), or its secret is erased (R330). -/
def State.noSign (s : State) : Bool := s.boot.noSecret

/-- A request is answered: after a keystore fault with ERROR, Unspecified; out of the order of a connection with ERROR,
UnexpectedRequest; otherwise by `body`. -/
def State.spdmReq (s : State) (ep : Endpoint) (need : Nat) (body : State → State) : Host.Outcome State Fault Refusal :=
  .next (if !s.spdmHere ep then s
    else if s.pend 0x256 then s.spdmError ep Err.unspecified
    else if (s.conn ep).stage < need then s.spdmError ep Err.unexpected
    else body s)

/-- A request that needs a signature. -/
def State.signed (s : State) (ep : Endpoint) (body : State → State) : State :=
  if s.noSign then s.spdmError ep Err.unspecified else body s

/-- A request of a session: recovery mode has none (R317). -/
def State.inSession (s : State) (ep : Endpoint) (body : State → State) : State :=
  if s.stage = 15 then s.spdmError ep Err.unsupported else body s

/-! ### Connection -/

/-- GET_VERSION: a connection begins anew. -/
def execGetVersion (ep : Endpoint) (s : State) : Host.Outcome State Fault Refusal :=
  s.spdmReq ep 0 fun s => (s.setConn ep { spdmInit with stage := 1 }).answer ep 0x04 (Config.spdmBody 0x84 [])

/-- GET_CAPABILITIES (Table 14.10). -/
def execGetCapabilities (ep : Endpoint) (s : State) : Host.Outcome State Fault Refusal :=
  s.spdmReq ep 1 fun s => (s.setConn ep { s.conn ep with stage := Nat.max 2 (s.conn ep).stage }).answer ep 0x61
    (Config.spdmBody 0xE1 [])

/-- NEGOTIATE_ALGORITHMS (Table 14.10). -/
def execNegotiateAlgorithms (ep : Endpoint) (s : State) : Host.Outcome State Fault Refusal :=
  s.spdmReq ep 2 fun s => (s.setConn ep { s.conn ep with stage := 3 }).answer ep 0x63 (Config.spdmBody 0xE3 [])

/-! ### Identity and measurements -/

/-- The words of a digest. -/
def digestWords (d : BitVec 384) : List Word := (List.range 6).map (digestWord d)

/-- GET_DIGESTS: the digest of slot 0's chain. -/
def execGetDigests (ep : Endpoint) (s : State) : Host.Outcome State Fault Refusal :=
  s.spdmReq ep 3 fun s => s.answer ep 0x01 (digestBytes (Config.sha384 (Config.certificate s.boot.cdi)))

/-- GET_CERTIFICATE: a part of slot 0's chain; there is no other slot. -/
def execGetCertificate (ep : Endpoint) (slot offset length : Nat) (s : State) : Host.Outcome State Fault Refusal :=
  s.spdmReq ep 3 fun s =>
    if slot != 0 then s.spdmError ep Err.invalid
    else s.answer ep 0x02 (slice (Config.certificate s.boot.cdi) offset length)

/-- A nonce as words. -/
def nonceWords (n : BitVec 256) : List Word := (List.range 4).map fun k => w64 (n.toNat / 2 ^ (64 * k))

/-- The measurement registers as words. -/
def State.mrWords (s : State) : List Word := (List.range 8).flatMap fun i => (List.range 6).map fun w => s.rd (R.KMU_MR i w)

/-- CHALLENGE: a signed answer over the nonce and the measurements. -/
def execChallenge (ep : Endpoint) (nonce : BitVec 256) (s : State) : Host.Outcome State Fault Refusal :=
  s.spdmReq ep 3 fun s => s.signed ep fun s =>
    s.answer ep 0x03 (Config.spdmBody 0x83 (nonceWords nonce ++ digestWords s.boot.cdi ++ s.mrWords))

/-- The boot log as words (R324): each record's head, TIME and parameters. -/
def State.logWords (s : State) : List Word :=
  s.boot.log.flatMap fun r => [recHead r s.evr.era, r.time, r.p0, r.p1, r.p2, r.p3, r.p4]

/-- The content of a measurement index (R326): 1 to 8 a register, 0x10 the boot log, 0xFF all, 0 their count. -/
def State.blockWords (s : State) (index : Nat) : Option (List Word) :=
  if index = 0 then some [9]
  else if index ≤ 8 then some ((List.range 6).map fun w => s.rd (R.KMU_MR (index - 1) w))
  else if index = 0x10 then some s.logWords
  else if index = 0xFF then some (s.mrWords ++ s.logWords)
  else none

/-- GET_MEASUREMENTS (R327): a signed snapshot at the moment the request is taken. -/
def execGetMeasurements (ep : Endpoint) (index : Nat) (nonce : BitVec 256) (s : State) : Host.Outcome State Fault Refusal :=
  s.spdmReq ep 3 fun s => match s.blockWords index with
    | none => s.spdmError ep Err.invalid
    | some ws => s.signed ep fun s =>
      s.answer ep 0x60 (bytesOfWords ws ++ Config.spdmBody 0xE0 (nonceWords nonce ++ digestWords s.boot.cdi ++ ws))

/-! ### Sessions -/

/-- A session of the endpoint: whether it is established. -/
def Spdm.session (c : Spdm) (id : Nat) : Option Bool := (c.sessions.find? fun x => x.1 == id).map Prod.snd

/-- The connection without a session. -/
def Spdm.without (c : Spdm) (id : Nat) : Spdm := { c with sessions := c.sessions.filter fun x => x.1 != id }

/-- KEY_EXCHANGE: a session begins, up to four per endpoint. -/
def execKeyExchange (ep : Endpoint) (session : Nat) (s : State) : Host.Outcome State Fault Refusal :=
  s.spdmReq ep 3 fun s => s.inSession ep fun s => s.signed ep fun s =>
    let c := s.conn ep
    if 4 ≤ c.sessions.length then s.spdmError ep Err.sessions
    else if (c.session session).isSome then s.spdmError ep Err.invalid
    else (s.setConn ep { c with sessions := c.sessions ++ [(session, false)] }).answer ep 0x64
      (Config.spdmBody 0xE4 (w64 session :: digestWords s.boot.cdi))

/-- FINISH: a session is established. -/
def execFinish (ep : Endpoint) (session : Nat) (s : State) : Host.Outcome State Fault Refusal :=
  s.spdmReq ep 3 fun s => s.inSession ep fun s =>
    let c := s.conn ep
    if c.session session != some false then s.spdmError ep Err.unexpected
    else (s.setConn ep { c with sessions := c.sessions.map fun x => if x.1 = session then (x.1, true) else x }).answer ep 0x65
      (Config.spdmBody 0xE5 [w64 session])

/-- A request within an established session. -/
def State.established (s : State) (ep : Endpoint) (session : Nat) (body : State → State) : State :=
  s.inSession ep fun s => if (s.conn ep).session session != some true then s.spdmError ep Err.unexpected else body s

/-- END_SESSION. -/
def execEndSession (ep : Endpoint) (session : Nat) (s : State) : Host.Outcome State Fault Refusal :=
  s.spdmReq ep 3 fun s => s.established ep session fun s =>
    (s.setConn ep ((s.conn ep).without session)).answer ep 0x6C (Config.spdmBody 0xEC [w64 session])

/-- HEARTBEAT. -/
def execHeartbeat (ep : Endpoint) (session : Nat) (s : State) : Host.Outcome State Fault Refusal :=
  s.spdmReq ep 3 fun s => s.established ep session fun s => s.answer ep 0x68 (Config.spdmBody 0xE8 [w64 session])

/-- KEY_UPDATE. -/
def execKeyUpdate (ep : Endpoint) (session : Nat) (s : State) : Host.Outcome State Fault Refusal :=
  s.spdmReq ep 3 fun s => s.established ep session fun s => s.answer ep 0x69 (Config.spdmBody 0xE9 [w64 session])

/-- A stream's keys are installed or refreshed (12_host R284): it is Secure; a stream that was Insecure is established again, and what
waited for the Link IDE stream goes on. -/
def State.ideSecure (s : State) (host stream : Nat) : State :=
  let was := s.hst.insecure.contains (host, stream)
  let s := { s with hst.insecure := s.hst.insecure.filter (· != (host, stream)) }.wrF (R.HST_IDE_STAT host) (ideBit stream) 1
  if was && stream = 8 then (host * 0x800 :: s.vfs host).foldl (fun s f => s.becameReady f) s else s

/-- VENDOR_DEFINED_REQUEST (R326; 12_host R284): IDE_KM within a secured session over DOE only. -/
def execVendorDefinedRequest (ep : Endpoint) (session stream : Nat) (s : State) : Host.Outcome State Fault Refusal :=
  s.spdmReq ep 3 fun s => match epHost ep with
    | none => s.spdmError ep Err.unsupported
    | some h => s.established ep session fun s =>
      if 8 < stream then s.spdmError ep Err.invalid
      else (s.ideSecure h stream).answer ep 0x7E (Config.spdmBody 0xFE [w64 session, w64 stream])

/-! ### Chunks -/

/-- CHUNK_SEND: the chunks of a large message come in order. -/
def execChunkSend (ep : Endpoint) (handle seq : Nat) (last : Bool) (s : State) : Host.Outcome State Fault Refusal :=
  s.spdmReq ep 2 fun s =>
    let c := s.conn ep
    let fits := if seq = 0 then true else c.chunk == some (handle, seq)
    if !fits then s.spdmError ep Err.invalid
    else (s.setConn ep { c with chunk := if last then none else some (handle, seq + 1) }).answer ep 0x05
      (Config.spdmBody 0x85 [w64 handle, w64 seq])

/-- CHUNK_GET: a chunk of a large response. -/
def execChunkGet (ep : Endpoint) (handle seq : Nat) (s : State) : Host.Outcome State Fault Refusal :=
  s.spdmReq ep 2 fun s => s.answer ep 0x06 (Config.spdmBody 0x86 [w64 handle, w64 seq])

/-- SPDM_UNSUPPORTED_REQUEST (R326): ERROR, UnsupportedRequest. -/
def execSpdmUnsupportedRequest (ep : Endpoint) (code : BitVec 8) (s : State) : Host.Outcome State Fault Refusal :=
  s.spdmReq ep 0 fun s => s.answer ep 0x7F [BitVec.ofNat 8 Err.unsupported, code]

end Sys2Proof.Machine
end

