-- ==== Sys2Proof/Machine/Traffic.lean ====
section
/-! DEFINITION. Traffic classes (09_traffic R196 to R203): policers, joining an output queue, selecting the next packet, and
admission at host injection. -/

namespace Sys2Proof.Machine

open Sys2Proof

/-! ### Joining an output queue (R197, R200, R203) -/

/-- The scheduling state of an output. -/
def schedInit : Sched := { last := [], v := 0, s := [], f := [] }

/-- The scheduling state of a port. -/
def State.sched (s : State) (p : Nat) : Sched := (s.rte.sched.get? p).getD schedInit

/-- later(a, b) of R200. -/
def later40 (a b : BitVec 40) : BitVec 40 := if (b - a).toNat < 2 ^ 39 then b else a

/-- No packet of a class is queued at a port. -/
def State.noneQueued (s : State) (p c : Nat) : Bool := (List.range 4).all fun i => (s.laneQ p (4 * c + i)).isEmpty

/-- A packet joins the queue of its lane; a class of the weighted group that was idle starts now (R200). -/
def State.queueJoin (s : State) (p : Nat) (b : BPkt) : State :=
  let c := b.pkt.tc
  let d := s.sched p
  let s : State := if 2 ≤ c && s.noneQueued p c then
      { s with rte.sched := s.rte.sched.set p { d with s := d.s.set c (later40 d.v ((d.f.get? c).getD 0)) } }
    else s
  { s with rte.queues := s.rte.queues.set (laneKey p b.pkt.vl) (s.laneQ p b.pkt.vl ++ [b]) }.stallSet p b.pkt.vl false

/-- The order in which buffered packets become complete at an output (R197): the grains of TC0 packets move ahead of those of other
classes; then by the time of arrival, and at one moment in ingress port order, local positions last. -/
def joinsBefore (a b : BPkt) : Bool :=
  let x := b2n (a.pkt.tc != 0)
  let y := b2n (b.pkt.tc != 0)
  decide (x < y) || (x == y && (decide (a.arr < b.arr) || (a.arr == b.arr && decide (a.ingress < b.ingress))))

/-- The buffered packet that joins its queue at a port next (R197). -/
def State.joiner (s : State) (port : Nat) : Option BPkt :=
  (s.rte.buffered.filter fun b => b.egress == port).foldl (fun a b => match a with
    | some x => if joinsBefore b x then some b else some x
    | none => some b) none

/-- OUTPUT_QUEUE_JOIN (R197, R203): the next packet that is complete in the buffer for a port joins its queue; a TC0 packet is
tested first, and joins the TC1 lane of its PHASE if it is not green. -/
def execOutputQueueJoin (port : Nat) (s : State) : Host.Outcome State Fault Refusal :=
  match s.joiner port with
  | none => .next s
  | some b =>
    if !s.live || 67 ≤ port then .next s
    else
      let s := { s with rte.buffered := s.rte.buffered.erase b }
      if b.pkt.tc = 0 then
        let k := s.policer (R.TCS_OPOL (8 * port))
        let bk := s.outBucket port 0
        let col := k.colour bk (polLen b.pkt) true
        let s := { s with rte.opol := s.rte.opol.set (8 * port) (bk.debit col (polLen b.pkt) true) }
        if col = .green then .next (s.queueJoin port b)
        else
          let s := (s.bump (R.TCS_DEMOTE port) F.TCS_DEMOTE_COUNT 1).event 0x0107 port
          .next (s.queueJoin port { b with pkt := { b.pkt with tc := 1, vl := 4 + b.pkt.vl % 4 } })
      else .next (s.queueJoin port b)

/-! ### Selection (R184, R188, R198 to R201) -/

/-- Heads that have passed the stale limit are discarded (R188, R198). -/
def State.dropAged (s : State) (p v : Nat) : Nat → State
  | 0 => s
  | n + 1 =>
    match s.laneQ p v with
    | b :: bs =>
      if s.aged b then
        let s := { s with rte.queues := if bs.isEmpty then s.rte.queues.erase (laneKey p v) else s.rte.queues.set (laneKey p v) bs }
        (((s.stallSet p v true).routeDiscard 2 b.ingress b.pkt).freeGrains b).dropAged p v n
      else s
    | [] => s

/-- The aged heads of every lane of a port are discarded. -/
def State.dropAll (s : State) (p : Nat) : State :=
  (List.range 32).foldl (fun s v => s.dropAged p v (s.laneQ p v).length) s

/-- The next eligible head of a class, its lanes taken in turn after the one served last (R199). -/
def State.classHead (s : State) (p c : Nat) : Option (Nat × BPkt) :=
  let last := ((s.sched p).last.get? c).getD 3
  (List.range 4).findSome? fun i =>
    let v := 4 * c + (last + 1 + i) % 4
    (s.headOk p v).map fun b => (v, b)

/-- The eligible class of the weighted group with the least start tag, the lower class among equals (R200). -/
def State.fairClass (s : State) (p : Nat) : Option (Nat × BPkt) :=
  let tag := fun (v : Nat) => ((s.sched p).s.get? (v / 4)).getD 0
  ((List.range 6).filterMap fun i => s.classHead p (i + 2)).foldl (fun a h => match a with
    | none => some h
    | some b => if tag h.1 != tag b.1 && later40 (tag h.1) (tag b.1) == tag b.1 then some h else some b) none

/-- The packet that a free link would take (R199); while a packet of another class is being sent, only TC0 (R201). -/
def State.selects (s : State) (p : Nat) : Option (Nat × BPkt) :=
  let q := s.port p
  let pre := match q.txMain with
    | some k => k.pkt.tc != 0
    | none => false
  if q.txPre.isSome || (q.txMain.isSome && !pre) then none
  else match s.classHead p 0 with
    | some h => some h
    | none =>
      if pre then none
      else match s.classHead p 1 with
        | some h => some h
        | none => s.fairClass p

/-- The tags after a packet of a weighted class (R200). -/
def State.tagsAfter (s : State) (p c n : Nat) : State :=
  let d := s.sched p
  let start := (d.s.get? c).getD 0
  let f := start + BitVec.ofNat 40 (ceilDiv (n * 4096) (wIn s.tcsVal p c))
  let d := { d with v := later40 d.v start, f := d.f.set c f, s := if s.noneQueued p c then d.s else d.s.set c f }
  { s with rte.sched := s.rte.sched.set p d }

/-- A packet has been selected: it leaves its queue and the buffer with its final CN, HOPS and lane. -/
def State.leaveQueue (s : State) (p v : Nat) (b : BPkt) : State :=
  let c := v / 4
  let len := polLen b.pkt
  let n := grainsOf b.pkt
  let k := s.policer (R.TCS_OPOL (8 * p + c))
  let bk := s.outBucket p c
  let col := if c = 0 then Colour.green else k.colour bk len false
  let step := Nat.max 1 (s.rdF R.RTE_AR_CTL F.RTE_AR_CTL_CN_STEP)
  let level := Nat.max b.pkt.cn (Nat.min 15 (s.queuedIn p c / step))
  let cn := if col = .yellow then 15 else level
  let out := { b.pkt with cn := cn, hops := b.pkt.hops + 1 }
  let s : State := if c = 0 then s else { s with rte.opol := s.rte.opol.set (8 * p + c) (bk.debit col len false) }
  let rest := (s.laneQ p v).drop 1
  let d := s.sched p
  let s := { s with
    rte.queues := if rest.isEmpty then s.rte.queues.erase (laneKey p v) else s.rte.queues.set (laneKey p v) rest,
    rte.sched := s.rte.sched.set p { d with last := d.last.set c (v % 4) } }.stallSet p v true
  let s : State := if 2 ≤ c then s.tagsAfter p c n else s
  let s := (s.event 0x0101 p (some c)).event 0x0102 p (some c) n
  let s : State := if b.pkt.cn < level then s.event 0x0106 p (some c) else s
  let pre := (s.port p).txMain.isSome
  let link : LinkPkt := { pkt := out, flits := pktFlits out, n := n, from_ := some b }
  let s : State := if pre then s.event 0x0105 p else s
  (s.updP p fun q => if pre then { q with txPre := some link } else { q with txMain := some link }).freeGrains b

/-- OUTPUT_SELECT (R199 to R201): the link of an UP port takes its next packet. -/
def execOutputSelect (port : Nat) (s : State) : Host.Outcome State Fault Refusal :=
  if !s.live || 67 ≤ port || !s.portUp port || s.silent port then .next s
  else
    let s := s.dropAll port
    match s.selects port with
    | none => .next s
    | some (v, b) => .next (s.leaveQueue port v b)

/-! ### Host injection (R203) -/

/-- INJECTION_ADMIT (R203): the oldest packet of a class passes its policer; TC0 only green, the others also yellow. -/
def execInjectionAdmit (cls : Nat) (s : State) : Host.Outcome State Fault Refusal :=
  match (s.rte.inject.get? cls).getD [] with
  | [] => .next s
  | p :: ps =>
    let k := s.policer (R.TCS_IPOL cls)
    let bk := k.fill ((s.rte.ipol.get? cls).getD (k.full s.ft)) 100 s.ft
    let col := k.colour bk (polLen p) false
    if !s.live || 8 ≤ cls || col = .red || (cls = 0 && col = .yellow) then .next s
    else .next { s with
      rte.ipol := s.rte.ipol.set cls (bk.debit col (polLen p) false),
      rte.inject := if ps.isEmpty then s.rte.inject.erase cls else s.rte.inject.set cls ps,
      rte.injected := s.rte.injected ++ [p] }

end Sys2Proof.Machine
end

