-- ==== Sys2Proof/Machine/Transmit.lean ====
section
/-! DEFINITION. What a port sends (10_link R217 to R227, R232; 11_lanes R245, R246, R256 to R263): blocks of flits with their trailers,
replays, the pause of a change, markers and line code, and the electrical idle of a span transmitter. -/

namespace Sys2Proof.Machine

open Sys2Proof

/-! ### Credit returns (R226, R227) -/

/-- The grains of a lane not yet carried: FREED less CARRIED. -/
def uncarriedOf (q : Port) (v : Nat) : Nat := (((q.freed.get? v).getD 0) - ((q.carried.get? v).getD 0)).toNat

/-- A carry sets CARRIED to the value sent, FREED. -/
def Port.carry (q : Port) (v : Nat) : Port :=
  { q with carried := q.carried.set v ((q.freed.get? v).getD 0), uncarried := q.uncarried.erase v }

/-- The lane that a FMT 1 trailer carries: the largest return that R226 allows, the lowest lane among equals (R227). -/
def fmt1Lane (q : Port) : Option Nat :=
  (List.range 32).foldl (fun b v =>
    let n := uncarriedOf q v
    if n = 0 || 256 ≤ n then b
    else match b with
      | some m => if uncarriedOf q m < n then some v else b
      | none => some v) none

/-- CREDIT flits of both halves are queued when a return reaches 192 grains or has been non-zero for 64 blocks (R227), unless such
flits wait already. -/
def creditFlits (q : Port) : Port :=
  let un := (List.range 32).map fun v => (v, uncarriedOf q v)
  let waits : Tbl Nat := (un.filter fun p => 0 < p.2).map fun p => (p.1, (q.uncarried.get? p.1).getD 0 + 1)
  let due := un.any (fun p => decide (192 ≤ p.2)) || waits.any (fun p => decide (64 ≤ p.2))
  let q := { q with uncarried := waits }
  if due && !(q.ctrl.any fun f => ctypeOf f == 1) then { q with ctrl := q.ctrl ++ [blankFlit 1 0, blankFlit 1 1] } else q

/-! ### The flits of a new block (R201, R217 to R219, R232) -/

/-- The next flit of a port: the preempting packet's first, control flits between packets and never inside or ahead of a TC0 packet,
then the main packet's (R201, R219). A HEAD comes with its packet. -/
def nextFlit (q : Port) : Flit × Option Packet × Port :=
  let of_ := fun (k : LinkPkt) (f : Words8) =>
    (({ kind := if k.flits.length = k.n then 1 else 2, ws := f } : Flit), if k.flits.length = k.n then some k.pkt else none)
  let rest := fun (k : LinkPkt) (fs : List Words8) => if fs.isEmpty then none else some { k with flits := fs }
  let idle : Flit := { kind := 0, ws := words8 [] }
  match q.txPre with
  | some k =>
    match k.flits with
    | f :: fs => ((of_ k f).1, (of_ k f).2, { q with txPre := rest k fs })
    | [] => (idle, none, { q with txPre := none })
  | none =>
    match q.txMain, q.ctrl with
    | some k, c :: cs =>
      if k.pkt.tc = 0 then
        match k.flits with
        | f :: fs => ((of_ k f).1, (of_ k f).2, { q with txMain := rest k fs })
        | [] => (idle, none, { q with txMain := none })
      else ({ kind := 3, ws := c }, none, { q with ctrl := cs })
    | some k, [] =>
      match k.flits with
      | f :: fs => ((of_ k f).1, (of_ k f).2, { q with txMain := rest k fs })
      | [] => (idle, none, { q with txMain := none })
    | none, c :: cs => ({ kind := 3, ws := c }, none, { q with ctrl := cs })
    | none, [] => (idle, none, q)

/-- An eligible TC0 packet that a port may start is selected, ahead of a control flit and at a flit boundary of a packet of another
class (R199, R201, R219). -/
def State.tcFirst (s : State) (p : Nat) : State :=
  let q := s.port p
  let free := match q.txMain with
    | some k => k.pkt.tc != 0
    | none => true
  if s.portUp p && q.txPre.isNone && free then
    let s := (List.range 4).foldl (fun s v => s.dropAged p v (s.laneQ p v).length) s
    match s.classHead p 0 with
    | some (v, b) => s.leaveQueue p v b
    | none => s
  else s

/-- The grains of a HEAD placed for the first time are debited from its lane and counted (R225, R402). -/
def State.headOut (s : State) (p : Nat) (k : Packet) : State :=
  let n := grainsOf k
  let s := (s.updP p fun q => { q with credit := q.credit.set k.vl (((q.credit.get? k.vl).getD 0) - n) }).stallSet p k.vl false
  let s := (s.portCount p 0 1).portCount p 2 n
  let s : State := if k.tc = 0 then s.portCount p 4 1 else if k.tc = 1 then s.portCount p 5 1 else s
  s.updX p fun x => { x with winTx := x.winTx + n, actTx := x.actTx + n, idleSince := s.now }

/-- A control flit as it is placed in the block that takes BSN NEXT: CREDIT flits carry the totals of the moment, PROBE its fabric time,
TIME the echo of the peer's last; PAUSE starts PAUSE_WAIT, and so does a CHANGE_ACK with no lanes (R226, R231, R232, R237). -/
def State.ctrlOut (s : State) (p : Nat) (f : Words8) : Words8 × State :=
  let q := s.port p
  match ctypeOf f with
  | 1 =>
    let half := bitsOf f.w0 8 1
    (creditFlit q.freed half, s.updP p fun q => (List.range 16).foldl (fun q k => q.carry (16 * half + k)) q)
  | 3 => ({ f with w1 := s.ftWord }, s)
  | 6 =>
    if bitsOf f.w0 18 4 = 0 && (s.px p).breakAt = some none then
      (f, s.updX p fun x => { x with breakAt := some (some (q.next, s.now + s.pauseWait)) })
    else (f, s)
  | 7 =>
    (f, s.updX p fun x => { x with change := x.change.map fun c =>
      { c with pauseBsn := some q.next, pauseTx := some (s.now + s.pauseWait) } })
  | 8 => (s.timeFlit p, s)
  | _ => (f, s)

/-- The port has sent its PAUSE: it continues with idle blocks (R232 step 3). -/
def State.paused (s : State) (p : Nat) : Bool :=
  match (s.px p).change with
  | some c => c.pauseBsn.isSome
  | none => false

/-- One flit of a new block of a port, with what placing it does. -/
def State.placeFlit (s : State) (p : Nat) : Flit × State :=
  if s.paused p then ({ kind := 0, ws := words8 [] }, s)
  else
    let s := s.tcFirst p
    let r := nextFlit (s.port p)
    let s := s.updP p fun _ => r.2.2
    if r.1.kind = 3 then
      let c := s.ctrlOut p r.1.ws
      ({ r.1 with ws := c.1 }, c.2)
    else match r.2.1 with
      | some k => (r.1, s.headOut p k)
      | none => (r.1, s)

/-- The first flits of a new block. -/
def State.placeFlits (s : State) (p : Nat) : Nat → List Flit × State
  | 0 => ([], s)
  | n + 1 =>
    let r := s.placeFlit p
    let t := r.2.placeFlits p n
    (r.1 :: t.1, t.2)

/-! ### Sending a block (R215 to R217, R222, R245, R246, R257, R258) -/

/-- A TIME flit takes the time at which its block leaves (R237). -/
def timed (ft : Word) (f : Flit) : Flit :=
  if f.kind = 3 && ctypeOf f.ws = 8 then { f with ws := { f.ws with w1 := ft } } else f

/-- The trailer a side sends next, and the port after it (R222): a pending NAK first; a credit return when a lane has one
and the previous trailer had FMT 0 or E has not changed since the last FMT 0; otherwise an acknowledgement. -/
def nextTrailer (q : Port) (bsn : BitVec 12) : Trailer × Port :=
  let ack : Trailer := { bsn := bsn, fmt := false, nak := false, body := (q.e.setWidth 14), lpar := 0 }
  if q.nakDue then ({ ack with nak := true }, { q with nakDue := false, lastFmt1 := false, lastAck := q.e })
  else
    match fmt1Lane q with
    | some v =>
      if !q.lastFmt1 || q.e = q.lastAck then
        let total := ((q.freed.get? v).getD 0).toNat % 512
        ({ bsn := bsn, fmt := true, nak := false, body := BitVec.ofNat 14 (v + total * 32), lpar := 0 },
         { q.carry v with lastFmt1 := true })
      else (ack, { q with lastFmt1 := false, lastAck := q.e })
    | none => (ack, { q with lastFmt1 := false, lastAck := q.e })

/-- Rows of symbols leave a span port as code groups, at the running disparities of its transmit direction (R256). -/
def State.rowsOut (s : State) (p : Nat) (rows : List (List Sym)) : State :=
  let r := encodeRows (dataLanes (s.active p)) (s.px p).txRd rows
  (s.updX p fun x => { x with txRd := r.2 }).emit (.symbols p r.1)

/-- What the lanes make of block `n` (R246, R257, R258): a fabric port's markers precede it; a span port's symbols follow it, with a row
of COM after every 256th block. -/
def State.blockOut (s : State) (p n : Nat) (b : Block) : State :=
  if p < 64 then (s.markersOut p).emit (.block p b)
  else
    let ls := (dataLanes (s.active p)).length
    let com := if (n + 1) % 256 = 0 then symRows ls 1 .com else []
    (s.emit (.block p b)).rowsOut p (blockRows ls (imageOf b) ++ com)

/-- A block goes out with a fresh trailer, its LPAR and CRC (R215, R216, R220). -/
def State.sendBlock (s : State) (p : Nat) (bsn : BitVec 12) (fs : List Flit) : State :=
  let fs := fs.map (timed s.ftWord)
  let n := (s.px p).blocks
  let r := nextTrailer (s.port p) bsn
  let t := { r.1 with lpar := lparOf (64 ≤ p) (s.active p) (streamAt n) fs r.1 }
  let idle := fs.all fun f => f.kind == 0
  let s := (s.updP p fun _ => r.2).blockOut p n { flits := fs, trl := t, crc := blockCrc fs t }
  s.updX p fun x => { x with blocks := n + 1, idleRun := if idle then x.idleRun + 1 else 0 }

/-- Eight IDLE flits. -/
def idleFlits : List Flit := List.replicate 8 { kind := 0, ws := words8 [] }

/-- An idle block (R217): its BSN is the one the next sequenced block is to take. -/
def State.sendIdle (s : State) (p : Nat) : State := s.sendBlock p (s.port p).next idleFlits

/-- In CHANGE, PAUSE follows the packets in progress (R232 step 3). -/
def State.pauseQueue (s : State) (p : Nat) : State :=
  match (s.px p).change with
  | some c =>
    if !c.pausing && (s.port p).txMain.isNone && (s.port p).txPre.isNone then
      (s.ctrl p (ctrlFlit (7 + c.req.id.toNat * 256) [])).updX p fun x => { x with change := some { c with pausing := true } }
    else s
  | none => s

/-- The CRD sequence of a span port after a block (R258): the lane with the largest uncarried return of at least 64 grains; sending it
counts as a carry. Data lane 0 carries it, the others IDL. -/
def State.crdSend (s : State) (p : Nat) : State :=
  if p < 64 || s.rdF (R.SPN_CTL (p - 64)) F.SPN_CTL_CRD_EN = 0 then s
  else
    let q := s.port p
    match (List.range 32).foldl (fun b v => if 64 ≤ uncarriedOf q v && (b.elim 0 (uncarriedOf q)) < uncarriedOf q v
        then some v else b) (none : Option Nat) with
    | some v =>
      let f := (q.freed.get? v).getD 0
      let others := List.replicate ((dataLanes (s.active p)).length - 1) Sym.idl
      let lane0 := Sym.crd :: (crdBytes v (f.setWidth 24)).map Sym.data
      (s.updP p fun q => q.carry v).rowsOut p (lane0.map fun y => y :: others)
    | none => s

/-- After a block: a FMT 0 trailer sent after the peer's PAUSE acknowledges it (R232 step 4), a CRD sequence may follow, and the lanes
may go to the retrain. -/
def State.afterBlock (s : State) (p : Nat) : State :=
  let s := s.updX p fun x => { x with change := x.change.map fun c =>
    { c with pauseAcked := c.pauseAcked || (c.pauseRx && !(s.port p).lastFmt1) } }
  (s.crdSend p).tryHand p

/-- A new block (R217, R220): the flits that wait, if one does, become a sequenced block that is stored; otherwise an idle block. -/
def State.newBlock (s : State) (p : Nat) : State :=
  if 512 ≤ (s.port p).outstanding || s.paused p then s.sendIdle p
  else
    let r := s.placeFlits p 8
    let s := r.2
    if r.1.all fun f => f.kind == 0 then s.sendIdle p
    else
      let q := s.port p
      let due := s.now + s.replayTo
      (s.updP p fun q => { q with
        next := q.next + 1, store := q.store ++ [{ bsn := q.next, flits := r.1 }],
        replayDue := if q.next = q.una then due else q.replayDue }).sendBlock p q.next r.1

/-- The next block of a replay (R223): a stored block with its BSN and flits and a new trailer. -/
def State.replayBlock (s : State) (p : Nat) (b : BitVec 12) : State :=
  let q := s.port p
  let nxt := if b + 1 = q.next then none else some (b + 1)
  let s := s.updP p fun q => { q with replay := nxt, replayFrom := if nxt.isNone then none else q.replayFrom }
  match q.store.find? (fun k => k.bsn == b) with
  | some k => s.sendBlock p b k.flits
  | none => s.sendIdle p

/-- The lanes of a change are trained and the first FMT 0 trailer is awaited: idle blocks only (R232 step 5). -/
def State.retrained (s : State) (p : Nat) : Bool :=
  match (s.px p).change with
  | some c => c.trained
  | none => false

/-- BLOCK_TRANSMIT (R217, R220, R222, R223, R232): the port sends its next block: a stored block while a replay runs, a
new block while fewer than 512 are outstanding and something waits, otherwise an idle block. Nothing goes out while the lanes are
silent or with the retrain. -/
def execBlockTransmit (port : Nat) (s : State) : Host.Outcome State Fault Refusal :=
  if !s.linked port || s.fatal || 67 ≤ port || s.silent port || s.retraining port then .next s
  else
    let s := (s.pauseQueue port).updP port creditFlits
    .next ((if s.retrained port then s.sendIdle port
      else match (s.port port).replay with
        | some b => s.replayBlock port b
        | none => s.newBlock port).afterBlock port)

/-! ### Electrical idle of a span transmitter (R262, R263) -/

/-- The conditions of R262 for electrical idle on a span transmitter; nothing may wait to be sent or selected. -/
def State.eiAllowed (s : State) (k : Nat) : Bool :=
  let p := 64 + k
  let q := s.port p
  s.rdF (R.SPN_CTL k) F.SPN_CTL_EI_EN == 1 && s.portUp p
    && decide (Nat.max 1 (s.rdF (R.SPN_CTL k) F.SPN_CTL_IDLE_RUN) ≤ (s.px p).idleRun)
    && q.outstanding == 0 && !q.nak && (List.range 32).all (fun v => uncarriedOf q v == 0)
    && !q.lastFmt1 && q.lastAck == q.e && q.ctrl.isEmpty && q.txMain.isNone && q.txPre.isNone && (s.selects p).isNone

/-- SPAN_EI_ENTRY (R262): a span transmitter that has met the conditions sends four IDL on every data lane and stops its lanes. -/
def execSpanEiEntry (span : Nat) (s : State) : Host.Outcome State Fault Refusal :=
  if span < 3 && !s.silent (64 + span) && s.eiAllowed span && !s.fatal then
    let s := s.rowsOut (64 + span) (symRows (dataLanes (s.active (64 + span))).length 4 .idl)
    .next ((s.wrF (R.SPN_STAT span) F.SPN_STAT_EI 1).emit (.electricalIdle (64 + span) true))
  else .next s

/-- SPAN_EI_EXIT (R256, R262, R263): a span transmitter that runs leaves electrical idle as soon as a condition fails: the clock, 32 COM
and four EIE on every data lane, its running disparities negative at first. The SOF of the next block follows 22.4 ns later at speed 0,
36.8 ns at speed 1. -/
def execSpanEiExit (span : Nat) (s : State) : Host.Outcome State Fault Refusal :=
  if span < 3 && s.silent (64 + span) && s.carrying (64 + span) && !s.eiAllowed span && !s.fatal then
    let p := 64 + span
    let s := s.pass (if s.rdF (R.SPN_STAT span) F.SPN_STAT_SPEED_NOW = 1 then 37 else 23)
    let s := s.updX p fun x => { x with idleRun := 0, txRd := 0 }
    let n := (dataLanes (s.active p)).length
    .next (((s.wrF (R.SPN_STAT span) F.SPN_STAT_EI 0).emit (.exitSignal p (s.active p))).rowsOut p (symRows n 32 .com ++ symRows n 4 .eie))
  else .next s

end Sys2Proof.Machine
end

