-- ==== Sys2Proof/Machine/Dispatch.lean ====
section
/-! DEFINITION. The dispatch of the commands: one arm per constructor of `Instr`, one direct call each. -/

namespace Sys2Proof.Machine

open Sys2Proof

def exec (i : Instr) (s : State) : Host.Outcome State Fault Refusal :=
  match i with
  | .registerWrite rid off size val => Sys2Proof.Machine.execRegisterWrite rid off size val s
  | .doorbellSqProducer fn off size w => Sys2Proof.Machine.execDoorbellSqProducer fn off size w s
  | .doorbellRqProducer fn off size w entries => Sys2Proof.Machine.execDoorbellRqProducer fn off size w entries s
  | .doorbellCqConsumer fn off size w => Sys2Proof.Machine.execDoorbellCqConsumer fn off size w s
  | .doorbellCqArm fn off size w => Sys2Proof.Machine.execDoorbellCqArm fn off size w s
  | .doorbellCqArmSolicited fn off size w => Sys2Proof.Machine.execDoorbellCqArmSolicited fn off size w s
  | .doorbellEqConsumer fn off size w => Sys2Proof.Machine.execDoorbellEqConsumer fn off size w s
  | .doorbellEqArm fn off size w => Sys2Proof.Machine.execDoorbellEqArm fn off size w s
  | .ringApertureWrite fn off data => Sys2Proof.Machine.execRingApertureWrite fn off data s
  | .jobStart qp fetched => Sys2Proof.Machine.execJobStart qp fetched s
  | .completionWrite cq => Sys2Proof.Machine.execCompletionWrite cq s
  | .cqStallTimeout cq => Sys2Proof.Machine.execCqStallTimeout cq s
  | .qpDrainEnd qp => Sys2Proof.Machine.execQpDrainEnd qp s
  | .qpDrainTimeout qp => Sys2Proof.Machine.execQpDrainTimeout qp s
  | .cqDrainEnd cq => Sys2Proof.Machine.execCqDrainEnd cq s
  | .cqDrainTimeout cq => Sys2Proof.Machine.execCqDrainTimeout cq s
  | .qpQuarantineEnd qp => Sys2Proof.Machine.execQpQuarantineEnd qp s
  | .adminSqEnable rid fn val => Sys2Proof.Machine.execAdminSqEnable rid fn val s
  | .adminCqEnable rid fn val => Sys2Proof.Machine.execAdminCqEnable rid fn val s
  | .adminCompletionWrite fn => Sys2Proof.Machine.execAdminCompletionWrite fn s
  | .createQp c => Sys2Proof.Machine.execCreateQp c s
  | .modifyQp c => Sys2Proof.Machine.execModifyQp c s
  | .queryQp c => Sys2Proof.Machine.execQueryQp c s
  | .destroyQp c => Sys2Proof.Machine.execDestroyQp c s
  | .createCq c => Sys2Proof.Machine.execCreateCq c s
  | .modifyCq c => Sys2Proof.Machine.execModifyCq c s
  | .queryCq c => Sys2Proof.Machine.execQueryCq c s
  | .destroyCq c => Sys2Proof.Machine.execDestroyCq c s
  | .createEq c => Sys2Proof.Machine.execCreateEq c s
  | .destroyEq c => Sys2Proof.Machine.execDestroyEq c s
  | .allocHbm c => Sys2Proof.Machine.execAllocHbm c s
  | .freeHbm c => Sys2Proof.Machine.execFreeHbm c s
  | .transportPacketSend what => Sys2Proof.Machine.execTransportPacketSend what s
  | .transportPacketReceive p => Sys2Proof.Machine.execTransportPacketReceive p s
  | .ackDelayExpiry sp => Sys2Proof.Machine.execAckDelayExpiry sp s
  | .ackReceive p => Sys2Proof.Machine.execAckReceive p s
  | .nakReceive p => Sys2Proof.Machine.execNakReceive p s
  | .busyBackoffExpiry sp psn => Sys2Proof.Machine.execBusyBackoffExpiry sp psn s
  | .retransmitTimeout sp => Sys2Proof.Machine.execRetransmitTimeout sp s
  | .busyLimitExpiry sp psn => Sys2Proof.Machine.execBusyLimitExpiry sp psn s
  | .flowEntryRelease qp dstNode dstQp => Sys2Proof.Machine.execFlowEntryRelease qp dstNode dstQp s
  | .syncReceive p => Sys2Proof.Machine.execSyncReceive p s
  | .syncAckReceive p => Sys2Proof.Machine.execSyncAckReceive p s
  | .placementAbandon m => Sys2Proof.Machine.execPlacementAbandon m s
  | .createMctx c => Sys2Proof.Machine.execCreateMctx c s
  | .destroyMctx c => Sys2Proof.Machine.execDestroyMctx c s
  | .queryMctx c => Sys2Proof.Machine.execQueryMctx c s
  | .postRecv c list => Sys2Proof.Machine.execPostRecv c list s
  | .cancelRecv c => Sys2Proof.Machine.execCancelRecv c s
  | .probe c => Sys2Proof.Machine.execProbe c s
  | .gateHoldExpiry srcNode srcQp dstQp msn => Sys2Proof.Machine.execGateHoldExpiry srcNode srcQp dstQp msn s
  | .gateEntryRelease srcNode srcQp dstQp => Sys2Proof.Machine.execGateEntryRelease srcNode srcQp dstQp s
  | .rendezvousGetIssue recv => Sys2Proof.Machine.execRendezvousGetIssue recv s
  | .spillRestore slice => Sys2Proof.Machine.execSpillRestore slice s
  | .openWindow c => Sys2Proof.Machine.execOpenWindow c s
  | .revokeWindow c => Sys2Proof.Machine.execRevokeWindow c s
  | .revokeComplete window => Sys2Proof.Machine.execRevokeComplete window s
  | .queryWindow c => Sys2Proof.Machine.execQueryWindow c s
  | .windowQuarantineEnd window => Sys2Proof.Machine.execWindowQuarantineEnd window s
  | .hostAtomicopComplete tag status old => Sys2Proof.Machine.execHostAtomicopComplete tag status old s
  | .hostReadComplete tag status data => Sys2Proof.Machine.execHostReadComplete tag status data s
  | .hostCompletionTimeout tag => Sys2Proof.Machine.execHostCompletionTimeout tag s
  | .createGroup c tree => Sys2Proof.Machine.execCreateGroup c tree s
  | .destroyGroup c => Sys2Proof.Machine.execDestroyGroup c s
  | .groupDestroyComplete group => Sys2Proof.Machine.execGroupDestroyComplete group s
  | .queryGroup c => Sys2Proof.Machine.execQueryGroup c s
  | .groupQuarantineEnd group => Sys2Proof.Machine.execGroupQuarantineEnd group s
  | .joinIntervalExpiry group => Sys2Proof.Machine.execJoinIntervalExpiry group s
  | .collUpReceive ingress p => Sys2Proof.Machine.execCollUpReceive ingress p s
  | .collDownReceive ingress p => Sys2Proof.Machine.execCollDownReceive ingress p s
  | .collCredit ingress p => Sys2Proof.Machine.execCollCredit ingress p s
  | .collAbort ingress p => Sys2Proof.Machine.execCollAbort ingress p s
  | .collChunkSend group up child => Sys2Proof.Machine.execCollChunkSend group up child s
  | .collKeepalive group => Sys2Proof.Machine.execCollKeepalive group s
  | .edgeTimeout group node => Sys2Proof.Machine.execEdgeTimeout group node s
  | .opTimeout group => Sys2Proof.Machine.execOpTimeout group s
  | .createAsid c => Sys2Proof.Machine.execCreateAsid c s
  | .modifyAsid c => Sys2Proof.Machine.execModifyAsid c s
  | .destroyAsid c => Sys2Proof.Machine.execDestroyAsid c s
  | .invalidate c => Sys2Proof.Machine.execInvalidate c s
  | .invalidateComplete asid => Sys2Proof.Machine.execInvalidateComplete asid s
  | .resume c => Sys2Proof.Machine.execResume c s
  | .walkStart => Sys2Proof.Machine.execWalkStart s
  | .walkReadComplete walk status entry => Sys2Proof.Machine.execWalkReadComplete walk status entry s
  | .trapStart qp => Sys2Proof.Machine.execTrapStart qp s
  | .markTimeout qp => Sys2Proof.Machine.execMarkTimeout qp s
  | .packetInput ingress p => Sys2Proof.Machine.execPacketInput ingress p s
  | .epochFlip rid val => Sys2Proof.Machine.execEpochFlip rid val s
  | .epochFlipComplete => Sys2Proof.Machine.execEpochFlipComplete s
  | .routeCopy rid val => Sys2Proof.Machine.execRouteCopy rid val s
  | .routeCopyComplete => Sys2Proof.Machine.execRouteCopyComplete s
  | .routeShadowWrite rid off val => Sys2Proof.Machine.execRouteShadowWrite rid off val s
  | .portRoleWrite rid port val => Sys2Proof.Machine.execPortRoleWrite rid port val s
  | .staleLimitWrite rid val => Sys2Proof.Machine.execStaleLimitWrite rid val s
  | .setPkeys c => Sys2Proof.Machine.execSetPkeys c s
  | .outputQueueJoin port => Sys2Proof.Machine.execOutputQueueJoin port s
  | .outputSelect port => Sys2Proof.Machine.execOutputSelect port s
  | .injectionAdmit cls => Sys2Proof.Machine.execInjectionAdmit cls s
  | .tcsStageWrite rid off val => Sys2Proof.Machine.execTcsStageWrite rid off val s
  | .tcsCommit rid val => Sys2Proof.Machine.execTcsCommit rid val s
  | .commitInForce => Sys2Proof.Machine.execCommitInForce s
  | .blockTransmit port => Sys2Proof.Machine.execBlockTransmit port s
  | .blockReceive port rx lanes => Sys2Proof.Machine.execBlockReceive port rx lanes s
  | .replayTimeout port => Sys2Proof.Machine.execReplayTimeout port s
  | .creditFlit port half totals => Sys2Proof.Machine.execCreditFlit port half totals s
  | .init port peerPort peerNode usable ident => Sys2Proof.Machine.execInit port peerPort peerNode usable ident s
  | .probeFlit port probeId time => Sys2Proof.Machine.execProbeFlit port probeId time s
  | .probeEcho port probeId time => Sys2Proof.Machine.execProbeEcho port probeId time s
  | .changeReq port reqId op lanes peerPort ident speed => Sys2Proof.Machine.execChangeReq port reqId op lanes peerPort ident speed s
  | .changeAck port reqId lanes ident => Sys2Proof.Machine.execChangeAck port reqId lanes ident s
  | .pause port reqId => Sys2Proof.Machine.execPause port reqId s
  | .time port locked tTx echoTx echoRx rx => Sys2Proof.Machine.execTime port locked tTx echoTx echoRx rx s
  | .pauseWaitExpiry port => Sys2Proof.Machine.execPauseWaitExpiry port s
  | .laneTrainingComplete port lanes ends us deskew => Sys2Proof.Machine.execLaneTrainingComplete port lanes ends us deskew s
  | .changeLimitExpiry port => Sys2Proof.Machine.execChangeLimitExpiry port s
  | .creditTimeout port vl => Sys2Proof.Machine.execCreditTimeout port vl s
  | .graceExpiry port => Sys2Proof.Machine.execGraceExpiry port s
  | .trainingRetry port => Sys2Proof.Machine.execTrainingRetry port s
  | .failWindowExpiry port lane => Sys2Proof.Machine.execFailWindowExpiry port lane s
  | .lnkRetrain rid port => Sys2Proof.Machine.execLnkRetrain rid port s
  | .lnkWidthChange rid port lanes => Sys2Proof.Machine.execLnkWidthChange rid port lanes s
  | .lnkReleaseHold rid port => Sys2Proof.Machine.execLnkReleaseHold rid port s
  | .portEnable rid port val => Sys2Proof.Machine.execPortEnable rid port val s
  | .portDisable rid port val => Sys2Proof.Machine.execPortDisable rid port val s
  | .syncIntervalTick => Sys2Proof.Machine.execSyncIntervalTick s
  | .laneLost port lanes clockLane => Sys2Proof.Machine.execLaneLost port lanes clockLane s
  | .eiNextReceive port => Sys2Proof.Machine.execEiNextReceive port s
  | .exitSignalDetect port lanes => Sys2Proof.Machine.execExitSignalDetect port lanes s
  | .crdSequence port crd vl total crc8 => Sys2Proof.Machine.execCrdSequence port crd vl total crc8 s
  | .spanEiEntry span => Sys2Proof.Machine.execSpanEiEntry span s
  | .spanEiExit span => Sys2Proof.Machine.execSpanEiExit span s
  | .spanSpeedWrite rid span val => Sys2Proof.Machine.execSpanSpeedWrite rid span val s
  | .spanReqRead span p => Sys2Proof.Machine.execSpanReqRead span p s
  | .spanReqWrite span p => Sys2Proof.Machine.execSpanReqWrite span p s
  | .spanReqAtomic span p => Sys2Proof.Machine.execSpanReqAtomic span p s
  | .notice span p => Sys2Proof.Machine.execNotice span p s
  | .spanResp span p => Sys2Proof.Machine.execSpanResp span p s
  | .spanReqTimeout span tag => Sys2Proof.Machine.execSpanReqTimeout span tag s
  | .noticeResend span => Sys2Proof.Machine.execNoticeResend span s
  | .cellClaim rid off size cmd => Sys2Proof.Machine.execCellClaim rid off size cmd s
  | .cellRelease rid off size cmd => Sys2Proof.Machine.execCellRelease rid off size cmd s
  | .cellForce rid off size cmd => Sys2Proof.Machine.execCellForce rid off size cmd s
  | .cellAtomicop rid off form => Sys2Proof.Machine.execCellAtomicop rid off form s
  | .cellRead rid off size => Sys2Proof.Machine.execCellRead rid off size s
  | .functionLevelReset fn => Sys2Proof.Machine.execFunctionLevelReset fn s
  | .d3hotToD0 fn => Sys2Proof.Machine.execD3hotToD0 fn s
  | .vfEnableClear host => Sys2Proof.Machine.execVfEnableClear host s
  | .perstAssert host => Sys2Proof.Machine.execPerstAssert host s
  | .perstDeassert host => Sys2Proof.Machine.execPerstDeassert host s
  | .hotReset host => Sys2Proof.Machine.execHotReset host s
  | .hostLinkDown host => Sys2Proof.Machine.execHostLinkDown host s
  | .hostLinkChange host up speed width flit l0p l1 => Sys2Proof.Machine.execHostLinkChange host up speed width flit l0p l1 s
  | .resetDrainEnd fn => Sys2Proof.Machine.execResetDrainEnd fn s
  | .resetDrainTimeout fn => Sys2Proof.Machine.execResetDrainTimeout fn s
  | .busMasterEnableWrite fn bme => Sys2Proof.Machine.execBusMasterEnableWrite fn bme s
  | .msixUnmask fn vec => Sys2Proof.Machine.execMsixUnmask fn vec s
  | .ideIntegrityFail host stream => Sys2Proof.Machine.execIdeIntegrityFail host stream s
  | .doeRequest host type length => Sys2Proof.Machine.execDoeRequest host type length s
  | .doeAbort host => Sys2Proof.Machine.execDoeAbort host s
  | .ircSourceRise source => Sys2Proof.Machine.execIrcSourceRise source s
  | .ircWindowEnd target => Sys2Proof.Machine.execIrcWindowEnd target s
  | .ircClaim rid target => Sys2Proof.Machine.execIrcClaim rid target s
  | .ircEoi rid target val => Sys2Proof.Machine.execIrcEoi rid target val s
  | .ircConfigWrite rid off val => Sys2Proof.Machine.execIrcConfigWrite rid off val s
  | .pwrGoodRise bootSrc spanPos => Sys2Proof.Machine.execPwrGoodRise bootSrc spanPos s
  | .flashReadComplete region data offset => Sys2Proof.Machine.execFlashReadComplete region data offset s
  | .flashReadTimeout region offset => Sys2Proof.Machine.execFlashReadTimeout region offset s
  | .bootDone => Sys2Proof.Machine.execBootDone s
  | .mctpControl m => Sys2Proof.Machine.execMctpControl m s
  | .getVersion ep => Sys2Proof.Machine.execGetVersion ep s
  | .getCapabilities ep => Sys2Proof.Machine.execGetCapabilities ep s
  | .negotiateAlgorithms ep => Sys2Proof.Machine.execNegotiateAlgorithms ep s
  | .getDigests ep => Sys2Proof.Machine.execGetDigests ep s
  | .getCertificate ep slot offset length => Sys2Proof.Machine.execGetCertificate ep slot offset length s
  | .challenge ep nonce => Sys2Proof.Machine.execChallenge ep nonce s
  | .getMeasurements ep index nonce => Sys2Proof.Machine.execGetMeasurements ep index nonce s
  | .keyExchange ep session => Sys2Proof.Machine.execKeyExchange ep session s
  | .finish ep session => Sys2Proof.Machine.execFinish ep session s
  | .endSession ep session => Sys2Proof.Machine.execEndSession ep session s
  | .heartbeat ep session => Sys2Proof.Machine.execHeartbeat ep session s
  | .keyUpdate ep session => Sys2Proof.Machine.execKeyUpdate ep session s
  | .vendorDefinedRequest ep session stream => Sys2Proof.Machine.execVendorDefinedRequest ep session stream s
  | .chunkSend ep handle seq last => Sys2Proof.Machine.execChunkSend ep handle seq last s
  | .chunkGet ep handle seq => Sys2Proof.Machine.execChunkGet ep handle seq s
  | .spdmUnsupportedRequest ep code => Sys2Proof.Machine.execSpdmUnsupportedRequest ep code s
  | .getBootStat => Sys2Proof.Machine.execGetBootStat s
  | .readEvr first count => Sys2Proof.Machine.execReadEvr first count s
  | .readFathom page => Sys2Proof.Machine.execReadFathom page s
  | .reset bootSrc spanPos => Sys2Proof.Machine.execReset bootSrc spanPos s
  | .fwStage c image => Sys2Proof.Machine.execFwStage c image s
  | .fwActivate c => Sys2Proof.Machine.execFwActivate c s
  | .fwStandbyLoaded pair digestOk => Sys2Proof.Machine.execFwStandbyLoaded pair digestOk s
  | .fwStandbyReloaded pair ok => Sys2Proof.Machine.execFwStandbyReloaded pair ok s
  | .lcAdvance c token => Sys2Proof.Machine.execLcAdvance c token s
  | .setOwnerKey c key => Sys2Proof.Machine.execSetOwnerKey c key s
  | .domainEnable rid dom val => Sys2Proof.Machine.execDomainEnable rid dom val s
  | .domainDisable rid dom val => Sys2Proof.Machine.execDomainDisable rid dom val s
  | .domainWake rid dom val => Sys2Proof.Machine.execDomainWake rid dom val s
  | .throttleWrite rid dom val => Sys2Proof.Machine.execThrottleWrite rid dom val s
  | .domainDrainEnd dom => Sys2Proof.Machine.execDomainDrainEnd dom s
  | .domainDrainTimeout dom => Sys2Proof.Machine.execDomainDrainTimeout dom s
  | .domainPowerUpComplete dom => Sys2Proof.Machine.execDomainPowerUpComplete dom s
  | .engIdleExpiry dom => Sys2Proof.Machine.execEngIdleExpiry dom s
  | .sleepEntryComplete dom => Sys2Proof.Machine.execSleepEntryComplete dom s
  | .portIdleExpiry port => Sys2Proof.Machine.execPortIdleExpiry port s
  | .channelSample channel x => Sys2Proof.Machine.execChannelSample channel x s
  | .ruleWrite rid rule val => Sys2Proof.Machine.execRuleWrite rid rule val s
  | .vcoreTargetStep => Sys2Proof.Machine.execVcoreTargetStep s
  | .thermalTrip channel raw => Sys2Proof.Machine.execThermalTrip channel raw s
  | .clockCheck input present within1 within01 => Sys2Proof.Machine.execClockCheck input present within1 within01 s
  | .clockHoldoverExpiry quadrant => Sys2Proof.Machine.execClockHoldoverExpiry quadrant s
  | .ppsEdge => Sys2Proof.Machine.execPpsEdge s
  | .ppsLoss => Sys2Proof.Machine.execPpsLoss s
  | .calSetNow rid => Sys2Proof.Machine.execCalSetNow rid s
  | .calSetAtPps rid => Sys2Proof.Machine.execCalSetAtPps rid s
  | .lifetimeSecondSample => Sys2Proof.Machine.execLifetimeSecondSample s
  | .lifetimeHourlyWrite => Sys2Proof.Machine.execLifetimeHourlyWrite s
  | .ceOccurrence source detail => Sys2Proof.Machine.execCeOccurrence source detail s
  | .ucOccurrence source detail => Sys2Proof.Machine.execUcOccurrence source detail s
  | .ftOccurrence source => Sys2Proof.Machine.execFtOccurrence source s
  | .ceWindowExpiry => Sys2Proof.Machine.execCeWindowExpiry s
  | .faultPendClear rid k val => Sys2Proof.Machine.execFaultPendClear rid k val s
  | .faultForce rid source val => Sys2Proof.Machine.execFaultForce rid source val s
  | .bankRepairComplete bank copyUs => Sys2Proof.Machine.execBankRepairComplete bank copyUs s
  | .hbmRebuildComplete iface copyUs => Sys2Proof.Machine.execHbmRebuildComplete iface copyUs s
  | .heartbeatTimeout core => Sys2Proof.Machine.execHeartbeatTimeout core s
  | .aliveToggle => Sys2Proof.Machine.execAliveToggle s
  | .selftestPeriod => Sys2Proof.Machine.execSelftestPeriod s
  | .sliceEnd finding => Sys2Proof.Machine.execSliceEnd finding s
  | .sliceCommand rid val => Sys2Proof.Machine.execSliceCommand rid val s
  | .fullTest rid val => Sys2Proof.Machine.execFullTest rid val s
  | .fullTestEnd finding => Sys2Proof.Machine.execFullTestEnd finding s
  | .fuse rid val => Sys2Proof.Machine.execFuse rid val s
  | .recordSlotWrite => Sys2Proof.Machine.execRecordSlotWrite s
  | .evrClear c token => Sys2Proof.Machine.execEvrClear c token s
  | .evrClearComplete => Sys2Proof.Machine.execEvrClearComplete s
  | .evrRdIdxWrite rid val => Sys2Proof.Machine.execEvrRdIdxWrite rid val s
  | .snap rid val => Sys2Proof.Machine.execSnap rid val s
  | .snapAtArrival => Sys2Proof.Machine.execSnapAtArrival s
  | .snapComplete => Sys2Proof.Machine.execSnapComplete s
  | .clrPorts rid val => Sys2Proof.Machine.execClrPorts rid val s
  | .bwWindowEnd => Sys2Proof.Machine.execBwWindowEnd s
  | .bwWindowWrite rid val => Sys2Proof.Machine.execBwWindowWrite rid val s
  | .counterValueWrite rid n val => Sys2Proof.Machine.execCounterValueWrite rid n val s
  | .aoPowerOn => Sys2Proof.Machine.execAoPowerOn s
  | .pwrGoodFall => Sys2Proof.Machine.execPwrGoodFall s
  | .closingWriteComplete => Sys2Proof.Machine.execClosingWriteComplete s
  | .inspectStart rid window val => Sys2Proof.Machine.execInspectStart rid window val s
  | .inspectComplete window => Sys2Proof.Machine.execInspectComplete window s
  | .mctxQuarantineEnd ctx => Sys2Proof.Machine.execMctxQuarantineEnd ctx s
  | .registerRead rid off size => Sys2Proof.Machine.execRegisterRead rid off size s
  | .hbmAccessComplete tag => Sys2Proof.Machine.execHbmAccessComplete tag s
  | .vddAoLoss => Sys2Proof.Machine.execVddAoLoss s
  | .trainingFail port => Sys2Proof.Machine.execTrainingFail port s
  | .bankCopyComplete bank copyUs => Sys2Proof.Machine.execBankCopyComplete bank copyUs s
  | .coreReloadComplete core => Sys2Proof.Machine.execCoreReloadComplete core s

end Sys2Proof.Machine
end

