-- ==== Sys2Proof/Machine/Step.lean ====
section
/-! DEFINITION. The step of the block: it takes the command at the front of its queue and runs it on the rest. -/

namespace Sys2Proof.Machine

open Sys2Proof

/-- One step. On an empty queue the block idles for one nanosecond (DESIGN CHOICE, log 1). -/
def step (s : State) : Host.Outcome State Fault Refusal :=
  match s.pending with
  | [] => .next s.idle
  | c :: rest => exec c { s with pending := rest }

/-- The state with the command that a word spells at the front of its queue; no row of the table gives bits, so none does. -/
def State.withFetchWord (s : State) (nbits w : Nat) : State :=
  match decodeTableWord nbits w with
  | some c => { s with pending := c :: s.pending }
  | none => s

end Sys2Proof.Machine
end

