-- ==== Sys2Proof/Safety.lean ====
section
/-! DEFINITION. What counts as a safe state and a safe step of the block, in the terms that statements use. -/

namespace Sys2Proof.Machine

open Sys2Proof

/-- The life cycle of a boot is legal: a state of Table 14.13, and a pending change goes forward (14_start R329, R330). -/
def LcLegal (b : Boot) : Prop := b.lc ≤ b.lcNext ∧ b.lcNext ≤ 5

/-- What the fuses of one state allow of a later one: the life cycle goes forward only, an owner key once fused stays, the lowest
SVN does not fall, and a device that may no longer sign does not sign again (14_start R316, R329 to R331). -/
structure Fuses (a b : Boot) : Prop where
  lc : LcLegal a → LcLegal b ∧ a.lc ≤ b.lc ∧ a.lcNext ≤ b.lcNext
  owner : a.ownerFused = true → b.ownerFused = true ∧ b.ownerHash = a.ownerHash
  svn : a.svnMin ≤ b.svnMin
  secret : a.noSecret = true → b.noSecret = true

/-- The invariant of the block: the register table lists registers in ascending order, HBM is in its canonical form (log 3), and the
life cycle is legal. -/
structure Inv (s : State) : Prop where
  regs : s.regs.wf = true
  hbm : memWf s.hbm = true
  lc : LcLegal s.boot

/-- What no step undoes: time does not run back, outputs stand as they were made, no free value is used twice, and the fuses
allow the change. -/
structure Onward (s t : State) : Prop where
  now : s.now ≤ t.now
  out : s.out <+: t.out
  free : s.free ≤ t.free
  fuses : Fuses s.boot t.boot

/-! ### The words of statements -/

/-- The device takes an admin command of this code now, and its format is right (R44, R45): the function exists and is served, no
reserved bit of word 0 is set, and no bit of the argument words beyond those that the command uses. -/
abbrev Takes (s : State) (c : AdminCmd) (code : Nat) (used : List (Nat × Nat)) : Prop :=
  fnOk c.fn = true ∧ s.adminReady c.fn = true ∧ bitsOf c.e.w0 0 16 = code ∧ c.e.w0.toNat / 65536 = 0 ∧ argsOk c.e used = true

/-- A function whose oldest admin command has been taken, and whose completion waits with a status and a RESULT (R44, Table 2.6). -/
def Fn.answered (q : Fn) (c : AdminCmd) (st : Nat) (res : Word) : Fn :=
  { q with asqCons := q.asqCons + 1,
           acqWait := q.acqWait ++ [({ fn := c.fn, cookie := c.e.w1, index := q.asqCons.toNat % 2 ^ 16 }, st, res)] }

/-- The state with an admin command taken and its completion waiting; no walk is the command's any more, and nothing else differs. -/
def State.answered (s : State) (c : AdminCmd) (st : Nat) (res : Word) : State :=
  (s.setFn c.fn ((s.fn c.fn).answered c st res)).forget fun a => a == Asker.cmd c.fn

/-- A doorbell of 8 bytes that R27 does not discard for its form, in the doorbell pages of a function that is served. -/
abbrev Rings (s : State) (fn off : Nat) (w : Word) (type obj : Nat) : Prop :=
  s.fatal = false ∧ s.rdF R.STC_STAT F.STC_STAT_RESET_NEEDED = 0 ∧ fnOk fn = true ∧ s.domRuns (64 + fnPort fn) = true
    ∧ s.linkSecure fn = true ∧ (s.fn fn).drain = none ∧ off % 8 = 0 ∧ off < 0x1000000 ∧ bitsOf w 61 3 = type ∧ bitsOf w 58 3 = 0 ∧ bitsOf w 36 22 = obj
    ∧ bitsOf w 32 4 = 0

/-- A page is translated, and the access may be made (R159, R160). -/
def Look.isOk : Look → Bool
  | .ok _ _ => true
  | _ => false

/-- No outcome of a walk is kept, and no page is missed by a step in progress. -/
abbrev Calm (s : State) : Prop := s.xlt.missed = [] ∧ s.xlt.ends = []

/-- The `n` bytes that an admin command of a function reads from an address on are its own to read (R23, R44): the address space is
granted, the address lies below 2^48, and every page is translated for a read. -/
abbrev CmdSees (s : State) (fn asid : Nat) (va : Word) (n : Nat) : Prop :=
  s.granted fn asid = true ∧ bitsOf va 48 16 = 0 ∧ Calm s ∧
    ∀ i < (va.toNat + n - 1) / 4096 + 1 - va.toNat / 4096, (s.look asid (va.toNat / 4096 + i) false).isOk = true

/-- The `n` slots of a ring in host memory from a count on, which lies at a page boundary, are all translated for a read (R23). -/
abbrev RingSeen (s : State) (asid base log : Nat) (c : Count32) (n : Nat) : Prop :=
  base % 4096 = 0 ∧ ∀ i < n, (s.look asid ((base + 64 * slotOf (c + BitVec.ofNat 32 i) log) / 4096) false).isOk = true

/-- All entries that a send queue exposes, as the device's read finds them (R23, R24): in HBM, or in host memory at translated pages
of a READY function, with no job trapped. -/
abbrev SqHas (s : State) (v : Qp) (f : Fetched) (es : List Words8) : Prop :=
  es.length = (v.sqProd - v.sqNext).toNat ∧ Calm s ∧
    if v.sqDev = true then
      es = (List.range (v.sqProd - v.sqNext).toNat).map fun i =>
        entryOfBytes (s.hbmRead (v.sqBase * 4096 + 64 * ((v.sqNext.toNat + i) % 2 ^ v.sqLog)) 64)
    else
      f = .entries es ∧ s.fnReady v.fn = true ∧ (∀ k ∈ v.jobs, k.trapped = false) ∧ RingSeen s v.asid v.sqBase v.sqLog v.sqNext es.length

/-- COUNT of a doorbell word (Table 2.2). -/
def dbCount (w : Word) : Count32 := BitVec.ofNat 32 (bitsOf w 0 32)

/-- The device runs, no other packet waits at its units, no walk is awaited by the step, and the named domains are ON. -/
abbrev Served (s : State) (doms : List Nat) : Prop :=
  s.live = true ∧ s.rte.localQ = [] ∧ s.xlt.missed = [] ∧ ∀ d ∈ doms, s.domState d = 2

/-- The pages `[lo, hi)` of an address space have left the cache for an admin command that waits (R168): no leaf left covers them,
every leaf of another address space is still there, no walk of the address space fills the cache, and nothing is answered yet. -/
structure Uncached (s t : State) (c : AdminCmd) (asid lo hi : Nat) : Prop where
  gone : ∀ l ∈ t.xlt.tlb, l ∈ s.xlt.tlb ∧ ∀ x, lo ≤ x → x < hi → l.covers asid x = false
  others : ∀ l ∈ s.xlt.tlb, l.asid ≠ asid → l ∈ t.xlt.tlb
  walks : ∀ w ∈ t.xlt.walks, w.2.req.asid = asid → w.2.fills = false
  waits : t.xlt.invals.get? asid = some ((s.xlt.invals.get? asid).getD [] ++
    [{ fn := c.fn, cookie := c.e.w1, index := (s.fn c.fn).asqCons.toNat % 2 ^ 16 }])
  unanswered : (t.fn c.fn).acqWait = (s.fn c.fn).acqWait
  hbm : t.hbm = s.hbm

/-- A request has reached an SPDM endpoint whose connection has come as far as it needs, and the keystore has not failed (R327). -/
abbrev Spoken (s : State) (ep : Endpoint) (n : Nat) : Prop :=
  s.spdmHere ep = true ∧ s.pend 0x256 = false ∧ n ≤ (s.conn ep).stage

/-- The commands that may free a held cell: those that can carry a RELEASE or a FORCE, and those that reset the device or start it (a
sample that brings the rails into range among them). -/
def unlocks : Instr → Bool
  | .cellRelease _ _ _ _ | .cellForce _ _ _ _ | .cellAtomicop _ _ _ | .spanReqWrite _ _ | .spanReqAtomic _ _ => true
  | .pwrGoodRise _ _ | .pwrGoodFall | .closingWriteComplete | .vddAoLoss | .reset _ _ => true
  | .flashReadComplete _ _ _ | .flashReadTimeout _ _ | .channelSample _ _ => true
  | _ => false

/-- The bytes of a host write. -/
def writtenBytes : Out → List Byte
  | .hostWrite _ _ _ _ data => data
  | _ => []

/-- The commands that may change a byte of HBM: those that place data, write the rings and lists that lie there, or lose its power or
test it. -/
def storesHbm : Instr → Bool
  | .registerWrite _ _ _ _ | .doorbellSqProducer _ _ _ _ | .doorbellRqProducer _ _ _ _ _ | .doorbellCqConsumer _ _ _ _
  | .doorbellCqArm _ _ _ _ | .doorbellCqArmSolicited _ _ _ _ | .doorbellEqConsumer _ _ _ _ | .doorbellEqArm _ _ _ _
  | .ringApertureWrite _ _ _ | .jobStart _ _ | .transportPacketReceive _ | .placementAbandon _ | .postRecv _ _
  | .gateHoldExpiry _ _ _ _ | .openWindow _ | .hostAtomicopComplete _ _ _ | .hostReadComplete _ _ _ | .hostCompletionTimeout _
  | .createGroup _ _ | .collUpReceive _ _ | .collDownReceive _ _ | .collCredit _ _ | .collChunkSend _ _ _ | .walkStart
  | .walkReadComplete _ _ _ | .resetDrainEnd _ | .resetDrainTimeout _ | .busMasterEnableWrite _ _
  | .pwrGoodRise _ _ | .flashReadComplete _ _ _ | .flashReadTimeout _ _ | .vendorDefinedRequest _ _ _ | .reset _ _
  | .domainDrainTimeout _ | .domainPowerUpComplete _ | .channelSample _ _ | .ucOccurrence _ _ | .faultForce _ _ _
  | .heartbeatTimeout _ | .selftestPeriod | .sliceEnd _ | .sliceCommand _ _ | .fullTest _ _ | .fullTestEnd _ | .fuse _ _
  | .pwrGoodFall | .closingWriteComplete | .hbmAccessComplete _ | .vddAoLoss => true
  | _ => false

/-- The commands that may change the traffic-class set in force: a commit coming into force, and what resets the device. -/
def changesTcs : Instr → Bool
  | .registerWrite _ _ _ _ | .tcsCommit _ _ | .commitInForce | .pwrGoodRise _ _ | .flashReadComplete _ _ _
  | .flashReadTimeout _ _ | .reset _ _ | .channelSample _ _ | .pwrGoodFall | .closingWriteComplete | .vddAoLoss => true
  | _ => false

end Sys2Proof.Machine
end

