-- ==== Sys2Proof/Certificates/Slice0/Obligations.lean ====
section
/-! DEFINITION. The statements for the provers: what the commands of each family do, what they leave alone, and what every step
keeps. -/

open Sys2Proof Sys2Proof.Machine

/-! ### Queues (02_queues) -/

/-- R27: a producer doorbell whose count is not older than the last one accepted and does not run past the ring advances that
count, and does nothing else but count the doorbell for the performance counters. Send queue; receive queue in INIT, with the
entries that the device reads from HBM, or, where every one of them is translated, from host memory (R23, one read each); and the
admin send queue. R27, R41, R43: a consumer doorbell within the entries that the device has written advances the consumer count;
TYPE 3 and 4 arm the CQ for the next, or the next solicited, completion when none that qualifies is unconsumed; TYPE 6 arms the
EQ. R27: a doorbell of the wrong size, or misaligned, or with a reserved field set, or to a slot that nothing is assigned to,
changes nothing but the function's drop counter, which counts it. One clause for each of the seven TYPEs. R27: a range error
writes DOORBELL_RANGE with the doorbell word on the object's EQ, and changes no count; an older doorbell is ignored; a range error
at an admin slot is counted as dropped. R24: a write through the ring aperture, within one 4 KiB unit of an allocation of the
function that is mapped there, stores its bytes in HBM at the place the mapping gives, and changes no other byte, nothing outside
HBM, and makes no output. -/
def Obligations.DoorbellsAndAperturesAdvanceQueues : Prop :=
  (∀ (s : State) (fn off q : Nat) (w : Word) (v : Qp), Rings s fn off w 0 q → 16 ≤ off →
    (s.fn fn).slots.get? (off / 8) = some (.qp q) → s.domState (tenDom q) = 2 → s.ten.qps.get? q = some v → v.st ≠ .reset →
    (dbCount w - v.sqProd).toNat < 2 ^ 31 → (dbCount w - v.sqCons).toNat ≤ 2 ^ v.sqLog →
    exec (.doorbellSqProducer fn off 8 w) s =
      .next ((s.event 0x0801 (fnPort fn)).updQp q fun v => { v with sqProd := dbCount w })) ∧
  (∀ (s : State) (fn off q : Nat) (w : Word) (v : Qp) (es : Fetched), Rings s fn off w 1 q → 16 ≤ off →
    (s.fn fn).slots.get? (off / 8) = some (.qp q) → s.domState (tenDom q) = 2 → s.ten.qps.get? q = some v → v.st = .init →
    v.noRq = false → v.rqDev = true → (dbCount w - v.rqProd).toNat < 2 ^ 31 → (dbCount w - v.rqCons).toNat ≤ 2 ^ v.rqLog →
    s.rqDbHeld fn off = false → s.xlt.missed = [] → (∀ m ∈ s.mat.msgs, m.dstQp = q → m.at_ ≠ .held) →
    exec (.doorbellRqProducer fn off 8 w es) s = .next ((s.event 0x0801 (fnPort fn)).updQp q fun v =>
      { v with rqProd := dbCount w, rqBuf := v.rqBuf ++ (List.range (dbCount w - v.rqProd).toNat).map fun i =>
          .entry (entryOfBytes (s.hbmRead (v.rqBase * 4096 + 64 * ((v.rqProd.toNat + i) % 2 ^ v.rqLog)) 64)) })) ∧
  (∀ (s : State) (fn off q : Nat) (w : Word) (v : Qp) (es : List Words8), Rings s fn off w 1 q → 16 ≤ off →
    (s.fn fn).slots.get? (off / 8) = some (.qp q) → s.domState (tenDom q) = 2 → s.ten.qps.get? q = some v → v.st = .init →
    v.noRq = false → v.rqDev = false → (dbCount w - v.rqProd).toNat < 2 ^ 31 → (dbCount w - v.rqCons).toNat ≤ 2 ^ v.rqLog →
    s.rqDbHeld fn off = false → Calm s → es.length = (dbCount w - v.rqProd).toNat →
    RingSeen s v.asid v.rqBase v.rqLog v.rqProd es.length → (∀ m ∈ s.mat.msgs, m.dstQp = q → m.at_ ≠ .held) →
    ∃ t, exec (.doorbellRqProducer fn off 8 w (.entries es)) s = .next t ∧ t.hst = s.hst ∧ t.hbm = s.hbm ∧
      t.ten = (s.updQp q fun v => { v with rqProd := dbCount w, rqBuf := v.rqBuf ++ es.map .entry }).ten ∧
      t.out.length = s.out.length + es.length) ∧
  (∀ (s : State) (fn : Nat) (w : Word), Rings s fn 0 w 0 0 → (dbCount w - (s.fn fn).asqProd).toNat < 2 ^ 31 →
    (dbCount w - (s.fn fn).asqCons).toNat ≤ 2 ^ clamp 7 12 (s.rdF (R.TEN_ADMIN_SQ fn) F.TEN_ADMIN_SQ_LOG_SIZE) →
    exec (.doorbellSqProducer fn 0 8 w) s = .next (s.setFn fn { s.fn fn with asqProd := dbCount w })) ∧
  (∀ (s : State) (fn off i : Nat) (w : Word) (c : Cq), Rings s fn off w 2 i → 16 ≤ off →
    (s.fn fn).slots.get? (off / 8) = some (.cq i) → s.ten.cqs.get? i = some c →
    (dbCount w - c.cons).toNat < 2 ^ 31 → (dbCount w - c.cons).toNat ≤ (c.prod - c.cons).toNat →
    exec (.doorbellCqConsumer fn off 8 w) s = .next ((s.event 0x0801 (fnPort fn)).updCq i fun c =>
      Cq.stall { c with cons := dbCount w, quals := c.quals.drop (dbCount w - c.cons).toNat } s.now)) ∧
  (∀ (s : State) (fn off i : Nat) (w : Word) (c : Cq), Rings s fn off w 3 i → 16 ≤ off →
    (s.fn fn).slots.get? (off / 8) = some (.cq i) → s.ten.cqs.get? i = some c →
    (dbCount w - c.cons).toNat < 2 ^ 31 → (dbCount w - c.cons).toNat ≤ (c.prod - c.cons).toNat →
    c.quals.drop (dbCount w - c.cons).toNat = [] →
    exec (.doorbellCqArm fn off 8 w) s = .next ((s.event 0x0801 (fnPort fn)).updCq i fun c =>
      Cq.stall { c with cons := dbCount w, quals := [], arm := .next } s.now)) ∧
  (∀ (s : State) (fn off i : Nat) (w : Word) (c : Cq), Rings s fn off w 4 i → 16 ≤ off →
    (s.fn fn).slots.get? (off / 8) = some (.cq i) → s.ten.cqs.get? i = some c →
    (dbCount w - c.cons).toNat < 2 ^ 31 → (dbCount w - c.cons).toNat ≤ (c.prod - c.cons).toNat →
    (∀ b ∈ c.quals.drop (dbCount w - c.cons).toNat, b = false) →
    exec (.doorbellCqArmSolicited fn off 8 w) s = .next ((s.event 0x0801 (fnPort fn)).updCq i fun c =>
      Cq.stall { c with cons := dbCount w, quals := c.quals.drop (dbCount w - c.cons).toNat, arm := .solicited } s.now)) ∧
  (∀ (s : State) (fn off i : Nat) (w : Word) (e : Eq), Rings s fn off w 5 i → 16 ≤ off →
    (s.fn fn).slots.get? (off / 8) = some (.eq i) → s.ten.eqs.get? i = some e → e.waiting = [] → e.lost = 0 →
    (dbCount w - e.cons).toNat < 2 ^ 31 → (dbCount w - e.cons).toNat ≤ (e.prod - e.cons).toNat →
    exec (.doorbellEqConsumer fn off 8 w) s =
      .next ((s.event 0x0801 (fnPort fn)).updEq i fun e => { e with cons := dbCount w })) ∧
  (∀ (s : State) (fn off i : Nat) (w : Word) (e : Eq), Rings s fn off w 6 i → 16 ≤ off →
    (s.fn fn).slots.get? (off / 8) = some (.eq i) → s.ten.eqs.get? i = some e → e.waiting = [] → e.lost = 0 →
    (dbCount w - e.cons).toNat < 2 ^ 31 → (dbCount w - e.cons).toNat ≤ (e.prod - e.cons).toNat →
    exec (.doorbellEqArm fn off 8 w) s =
      .next ((s.event 0x0801 (fnPort fn)).updEq i fun e => { e with cons := dbCount w, armed := true })) ∧
  (∀ (s : State) (fn off size : Nat) (w : Word) (es : Fetched), s.fatal = false → s.rdF R.STC_STAT F.STC_STAT_RESET_NEEDED = 0 →
    fnOk fn = true → s.domRuns (64 + fnPort fn) = true → s.linkSecure fn = true → off < 0x1000000 →
    ∀ p ∈ [(0, Instr.doorbellSqProducer fn off size w), (1, .doorbellRqProducer fn off size w es), (2, .doorbellCqConsumer fn off size w),
        (3, .doorbellCqArm fn off size w), (4, .doorbellCqArmSolicited fn off size w), (5, .doorbellEqConsumer fn off size w),
        (6, .doorbellEqArm fn off size w)],
      (size ≠ 8 ∨ (bitsOf w 61 3 = p.1 ∧ (off % 8 ≠ 0 ∨ bitsOf w 58 3 ≠ 0 ∨ bitsOf w 32 4 ≠ 0 ∨
        (16 ≤ off ∧ (s.fn fn).slots.get? (off / 8) = none)))) →
      exec p.2 s = .next (s.setFn fn { s.fn fn with dbDrop := satAdd (2 ^ 32 - 1) (s.fn fn).dbDrop 1 })) ∧
  (∀ (s : State) (fn off q : Nat) (w : Word) (v : Qp), Rings s fn off w 0 q → 16 ≤ off →
    (s.fn fn).slots.get? (off / 8) = some (.qp q) → s.domState (tenDom q) = 2 → s.ten.qps.get? q = some v → v.st ≠ .reset →
    (2 ^ 31 ≤ (dbCount w - v.sqProd).toNat → exec (.doorbellSqProducer fn off 8 w) s = .next s) ∧
    ((dbCount w - v.sqProd).toNat < 2 ^ 31 → 2 ^ v.sqLog < (dbCount w - v.sqCons).toNat →
      exec (.doorbellSqProducer fn off 8 w) s =
        .next (s.eqEvent v.eq { code := 5, status := 0, object := q, param0 := w, param1 := 0 }))) ∧
  (∀ (s : State) (fn off i : Nat) (w : Word) (c : Cq), Rings s fn off w 2 i → 16 ≤ off →
    (s.fn fn).slots.get? (off / 8) = some (.cq i) → s.ten.cqs.get? i = some c →
    (dbCount w - c.cons).toNat < 2 ^ 31 → (c.prod - c.cons).toNat < (dbCount w - c.cons).toNat →
    exec (.doorbellCqConsumer fn off 8 w) s =
      .next (s.eqEvent c.eq { code := 5, status := 0, object := i, param0 := w, param1 := 0 })) ∧
  (∀ (s : State) (fn : Nat) (w : Word), Rings s fn 8 w 2 0 → (dbCount w - (s.fn fn).acqCons).toNat < 2 ^ 31 →
    ((s.fn fn).acqProd - (s.fn fn).acqCons).toNat < (dbCount w - (s.fn fn).acqCons).toNat →
    exec (.doorbellCqConsumer fn 8 8 w) s =
      .next (s.setFn fn { s.fn fn with dbDrop := satAdd (2 ^ 32 - 1) (s.fn fn).dbDrop 1 })) ∧
  (∀ (s : State) (fn off : Nat) (data : List Byte) (a : Alloc), memWf s.hbm = true → s.fatal = false → fnOk fn = true →
    s.domRuns (64 + fnPort fn) = true → s.linkSecure fn = true → (s.fn fn).drain = none → 0x1000000 ≤ off →
    off % 4096 + data.length ≤ 4096 →
    s.domLater 79 = false → s.domLater 80 = false →
    (s.ten.allocs.find? fun a => a.fn == fn && a.aper != 0 && decide (a.aper ≤ off / 4096) && decide (off / 4096 < a.aper + a.size))
      = some a →
    ∃ t, exec (.ringApertureWrite fn off data) s = .next t ∧ t = { s with hbm := t.hbm } ∧ ∀ x,
      memGet t.hbm x =
        if (a.off + (off / 4096 - a.aper)) * 4096 + off % 4096 ≤ x ∧ x < (a.off + (off / 4096 - a.aper)) * 4096 + off % 4096 + data.length
        then data.getD (x - ((a.off + (off / 4096 - a.aper)) * 4096 + off % 4096)) 0
        else memGet s.hbm x)

/-- R31, R28, R23: on a READY queue pair, the next job of a send queue, well formed and granted, starts: a PUT, PUT_INLINE, GET or
ATOMIC of a CONNECTED queue pair joins the started jobs, and the device moves past its entries. The ring lies in HBM, or in host
memory, of which each exposed entry is read. R33: a malformed run at the head of an idle send queue completes once, in ring order:
one completion waits at the send CQ with STATUS MALFORMED, BYTES 0, the slot of the run's first entry, the length of the run, and
the cookie if the first entry has FIRST; the next job starts at the entry that ended the run; the state of the queue pair does not
change. -/
def Obligations.JobsStartOrCompleteMalformed : Prop :=
  (∀ (s : State) (q : Nat) (v : Qp) (f : Fetched) (es : List Words8) (j : Job), s.ten.qps.get? q = some v → s.fatal = false →
    v.st = .ready → s.domState (tenDom q) = 2 → s.sqStalled q v = false → v.sqProd ≠ v.sqNext → SqHas s v f es →
    parseJob v v.sqNext es = .job j → 3 ≤ j.op → j.op ≤ 6 → v.node = false → (j.fence = true → v.jobs = []) →
    v.pkey ∈ (s.fn v.fn).keys → (∀ g ∈ j.sges, g.hbm = false) →
    ∃ t, exec (.jobStart q f) s = .next t ∧
      t.ten.qps.get? q = some { v with sqNext := v.sqNext + BitVec.ofNat 32 j.entries, jobs := v.jobs ++ [{ j with win := none }] } ∧
      (∀ k, k ≠ q → t.ten.qps.get? k = s.ten.qps.get? k) ∧ t.ten.cqs = s.ten.cqs ∧ t.hbm = s.hbm ∧
      t.out.length = s.out.length + (if v.sqDev = true then 0 else es.length)) ∧
  (∀ (s : State) (q n : Nat) (v : Qp) (c : Cq) (f : Fetched) (e : Words8) (es : List Words8), s.ten.qps.get? q = some v →
    s.fatal = false → v.st = .ready → s.domState (tenDom q) = 2 → s.sqStalled q v = false →
    v.jobs = [] → v.sqProd ≠ v.sqNext → SqHas s v f (e :: es) →
    parseJob v v.sqNext (e :: es) = .run n → v.uncov + n ≤ 65535 → s.ten.cqs.get? v.sendCq = some c → c.st ≠ .error →
    (s.fn c.fn).drain = none →
    ∃ t x w, exec (.jobStart q f) s = .next t ∧ t.ten.qps.get? q = some w ∧ w.st = .ready ∧
      w.sqNext = v.sqNext + BitVec.ofNat 32 n ∧ (t.ten.cqs.get? v.sendCq).map Cq.waiting = some (c.waiting ++ [x]) ∧
      x.status = 0x02 ∧ x.bytes = 0 ∧ x.kind = 0 ∧ x.qp = q ∧ x.info = v.sqNext.toNat % 2 ^ v.sqLog ∧
      bitsOf x.w3 0 16 = n % 65536 ∧ x.cookie = (if bitAt e.w0 8 then e.w1 else 0) ∧ t.hbm = s.hbm ∧
      t.out.length = s.out.length + (if v.sqDev = true then 0 else es.length + 1))

/-- R36, R38, R23: the oldest completion that waits at a READY CQ with room is written, as 32 bytes, where the translation of the
ring's next slot leads; the producer count advances. For a CQ that is not armed, while no queue pair is being destroyed. R39, R40:
a CQ that stays full for its stall limit with a completion waiting enters ERROR: its waiting completions are discarded, and
CQ_ERROR is written on its EQ. For a CQ that no queue pair and no context uses. R47, R49: the ends of drains. A queue pair whose
started jobs and messages are complete leaves DRAINING for INIT, or READY where an enable is held, with QP_DRAINED OK; after 100
ms the drain is forced: jobs in flight complete DRAINING, and PARAM0 is 1. A CQ reads DISABLED, or READY where an enable is held.
-/
def Obligations.CompletionsAreWrittenAndDrainsEnd : Prop :=
  (∀ (s : State) (i bus attr : Nat) (c : Cq) (e : Cqe) (rest : List Cqe), s.ten.cqs.get? i = some c → c.waiting = e :: rest →
    s.fatal = false → c.st = .ready → (c.prod - c.cons).toNat < 2 ^ c.logSize → s.fnReady c.fn = true → c.arm = .none →
    (∀ p ∈ s.ten.qps, p.2.destroy = none) → Calm s → c.base % 4096 = 0 →
    s.look c.asid ((c.base + 32 * (c.prod.toNat % 2 ^ c.logSize)) / 4096) true = .ok bus attr →
    ∃ t d, exec (.completionWrite i) s = .next t ∧ t.ten.cqs.get? i = some d ∧ d.prod = c.prod + 1 ∧ d.waiting = rest ∧
      d.cons = c.cons ∧ t.hbm = s.hbm ∧
      t.out = s.out ++ s.hostWrites c.fn [{ bus := bus + (c.base + 32 * (c.prod.toNat % 2 ^ c.logSize)) % 4096, len := 32, attr := attr }]
        false (bytesOfWords (cqeWords e (c.prod.toNat / 2 ^ c.logSize % 2 == 0) s.ft))) ∧
  (∀ (s : State) (i t0 : Nat) (c : Cq), s.ten.cqs.get? i = some c → c.stallAt = some t0 → s.fatal = false → c.st = .ready →
    s.ten.qps = [] → s.mat.ctxs = [] →
    exec (.cqStallTimeout i) s = .next ((((s.passTo (t0 + s.stallLimit c)).forget fun a => a == Asker.cq i).updCq i fun c => { c with
        st := .error, enable := false, waiting := [], stallAt := none, drainAt := none, arm := .none }).eqEvent c.eq
      { code := 2, status := 0x0D, object := i, param0 := w64 c.prod.toNat, param1 := 0 })) ∧
  (∀ (s : State) (q : Nat) (v : Qp), s.ten.qps.get? q = some v → v.st = .draining → s.qpIdle q v = true → s.fatal = false →
    exec (.qpDrainEnd q) s = .next ((s.updQp q fun v => { v with st := if v.enable then .ready else .init, drainAt := none }).eqEvent
      v.eq { code := 4, status := 0, object := q, param0 := 0, param1 := 0 })) ∧
  (∀ (s : State) (q t0 : Nat) (v : Qp), s.ten.qps.get? q = some v → v.st = .draining → v.drainAt = some t0 → s.fatal = false →
    v.jobs = [] →
    exec (.qpDrainTimeout q) s = .next (((((s.passTo (t0 + 100000000)).answerTrap q).dropTrap q).updQp q fun v =>
        { v with st := if v.enable then .ready else .init, drainAt := none }).eqEvent
      v.eq { code := 4, status := 0x11, object := q, param0 := 1, param1 := 0 })) ∧
  (∀ (s : State) (i : Nat) (c : Cq), s.ten.cqs.get? i = some c → c.st = .draining → s.fatal = false →
    exec (.cqDrainEnd i) s = .next (s.updCq i fun c => { c with st := if c.enable then .ready else .disabled, drainAt := none })) ∧
  (∀ (s : State) (i t0 : Nat) (c : Cq), s.ten.cqs.get? i = some c → c.st = .draining → c.drainAt = some t0 → s.fatal = false →
    exec (.cqDrainTimeout i) s = .next ((s.passTo (t0 + 100000000)).updCq i fun c =>
      { c with st := if c.enable then .ready else .disabled, drainAt := none }))

/-- R44: a write of an admin queue's register by a requester that reaches it, with ENABLE from 0 to 1, takes BASE and LOG_SIZE, sets
ENABLE, and sets both counts of the queue to 0; the oldest completion that waits is written at its bus address, and vector 0 is
raised. -/
def Obligations.AdminQueuesStartAndComplete : Prop :=
  (∀ (s : State) (rid fn : Nat) (val : Word), s.regs.wf = true → fnOk fn = true → ridFull rid = true → s.barOpen rid = true →
    s.regCause (R.TEN_ADMIN_SQ fn) = none → (s.fn fn).drain = none → s.rdF (R.TEN_ADMIN_SQ fn) F.TEN_ADMIN_SQ_ENABLE = 0 →
    getF val F.TEN_ADMIN_SQ_ENABLE = 1 →
    ∃ t, exec (.adminSqEnable rid fn val) s = .next t ∧ t.ten.fns = s.ten.fns.set fn { s.fn fn with asqProd := 0, asqCons := 0 } ∧
      t.rdF (R.TEN_ADMIN_SQ fn) F.TEN_ADMIN_SQ_ENABLE = 1 ∧
      t.rdF (R.TEN_ADMIN_SQ fn) F.TEN_ADMIN_SQ_BASE = getF val F.TEN_ADMIN_SQ_BASE ∧
      t.rdF (R.TEN_ADMIN_SQ fn) F.TEN_ADMIN_SQ_LOG_SIZE = getF val F.TEN_ADMIN_SQ_LOG_SIZE ∧
      ∀ o, o ≠ R.TEN_ADMIN_SQ fn → t.rd o = s.rd o) ∧
  (∀ (s : State) (rid fn : Nat) (val : Word), s.regs.wf = true → fnOk fn = true → ridFull rid = true → s.barOpen rid = true →
    s.regCause (R.TEN_ADMIN_CQ fn) = none → (s.fn fn).drain = none → s.rdF (R.TEN_ADMIN_CQ fn) F.TEN_ADMIN_CQ_ENABLE = 0 →
    getF val F.TEN_ADMIN_CQ_ENABLE = 1 →
    ∃ t, exec (.adminCqEnable rid fn val) s = .next t ∧ t.ten.fns = s.ten.fns.set fn { s.fn fn with acqProd := 0, acqCons := 0 } ∧
      t.rdF (R.TEN_ADMIN_CQ fn) F.TEN_ADMIN_CQ_ENABLE = 1 ∧
      t.rdF (R.TEN_ADMIN_CQ fn) F.TEN_ADMIN_CQ_BASE = getF val F.TEN_ADMIN_CQ_BASE ∧
      t.rdF (R.TEN_ADMIN_CQ fn) F.TEN_ADMIN_CQ_LOG_SIZE = getF val F.TEN_ADMIN_CQ_LOG_SIZE ∧
      ∀ o, o ≠ R.TEN_ADMIN_CQ fn → t.rd o = s.rd o) ∧
  (∀ (s : State) (fn st : Nat) (r : CmdRef) (res : Word) (rest : List (CmdRef × Nat × Word)), (s.fn fn).acqWait = (r, st, res) :: rest →
    s.fnReady fn = true → s.rdF (R.TEN_ADMIN_CQ fn) F.TEN_ADMIN_CQ_ENABLE = 1 →
    ((s.fn fn).acqProd - (s.fn fn).acqCons).toNat < 2 ^ clamp 4 12 (s.rdF (R.TEN_ADMIN_CQ fn) F.TEN_ADMIN_CQ_LOG_SIZE) →
    let n := 2 ^ clamp 4 12 (s.rdF (R.TEN_ADMIN_CQ fn) F.TEN_ADMIN_CQ_LOG_SIZE)
    let w : Out := .hostWrite fn (s.rdF (R.TEN_ADMIN_CQ fn) F.TEN_ADMIN_CQ_BASE * 4096 + 32 * ((s.fn fn).acqProd.toNat % n)) false false
      (bytesOfWords (cqeWords (cmdCqe r st res) ((s.fn fn).acqProd.toNat / n % 2 == 0) s.ft))
    exec (.adminCompletionWrite fn) s =
      .next (((s.emit w).setFn fn { s.fn fn with acqProd := (s.fn fn).acqProd + 1, acqWait := rest }).msix fn 0))

/-- R45, R47, R50, Table 2.8: CREATE_QP of arguments in range makes a queue pair in RESET with the next generation, at the index
that FIXED names or at a free one, with a free doorbell slot; the result gives all three. A queue pair without an RQ names no
receive CQ and no ring for it. Table 2.8, R45, R48, R50: QUERY_QP answers STATE, ENABLE, CAUSE and the two slots and changes
nothing else; DESTROY_QP of a queue pair in RESET that no context, group or message uses puts it into QUARANTINE and frees its
doorbell slot; at the end of the quarantine the identifier is free, and its generation is kept. Commands on a queue pair wait
while one on it is being carried out. -/
def Obligations.QueuePairsAreCreatedQueriedAndDestroyed : Prop :=
  (∀ (s : State) (c : AdminCmd) (i slot : Nat), s.domState (tenDom i) = 2 →
    Takes s c 0x01 [(2, ones 0 7 + ones 8 50), (3, ones 0 48 + ones 63 1), (4, ones 0 64), (5, ones 0 64), (6, ones 0 21), (7, 0)] →
    (if bitAt c.e.w3 63 then some (bitsOf c.e.w6 0 21) else s.pickQp) = some i → s.ten.qps.get? i = none →
    s.qpBusy i = false → 7 ≤ bitsOf c.e.w2 8 5 → bitsOf c.e.w2 8 5 ≤ 16 →
    s.granted c.fn (bitsOf c.e.w3 28 20) = true → (s.ten.cqs.get? (bitsOf c.e.w2 18 20)).map Cq.fn = some c.fn →
    (s.ten.eqs.get? (bitsOf c.e.w3 0 12)).map Eq.fn = some c.fn →
    s.ringBaseOk c.fn c.e.w4 (bitAt c.e.w2 4) (64 * 2 ^ bitsOf c.e.w2 8 5) = true →
    (bitAt c.e.w2 6 = false → 4 ≤ bitsOf c.e.w2 13 5 ∧ bitsOf c.e.w2 13 5 ≤ 16 ∧
      (s.ten.cqs.get? (bitsOf c.e.w2 38 20)).map Cq.fn = some c.fn ∧
      s.ringBaseOk c.fn c.e.w5 (bitAt c.e.w2 5) (64 * 2 ^ bitsOf c.e.w2 13 5) = true) →
    s.freeDb c.fn = some slot → s.quotaOk c.fn .qp 1 = true →
    let gen := ((s.ten.gens.get? i).getD 0 + 1) % 8
    ∃ t v, exec (.createQp c) s = .next t ∧ t.ten.qps = s.ten.qps.set i v ∧ v.st = .reset ∧ v.fn = c.fn ∧ v.gen = gen ∧
      v.sqLog = bitsOf c.e.w2 8 5 ∧ v.sendCq = bitsOf c.e.w2 18 20 ∧ v.eq = bitsOf c.e.w3 0 12 ∧ v.asid = bitsOf c.e.w3 28 20 ∧
      v.noRq = bitAt c.e.w2 6 ∧ (v.noRq = false → v.rqLog = bitsOf c.e.w2 13 5 ∧ v.recvCq = bitsOf c.e.w2 38 20) ∧
      t.ten.gens = s.ten.gens.set i gen ∧
      t.fn c.fn = { (s.fn c.fn).answered c 0 (w64 (i + gen * 2 ^ 21 + slot * 2 ^ 32)) with
        slots := (s.fn c.fn).slots.set slot (.qp i) } ∧
      t = { s.forget (fun a => a == Asker.cmd c.fn) with ten := t.ten }) ∧
  (∀ (s : State) (c : AdminCmd) (q : Nat) (v : Qp), q = bitsOf c.e.w2 0 21 → s.domState (tenDom q) = 2 →
    Takes s c 0x03 [(2, ones 0 21), (3, 0), (4, 0), (5, 0), (6, 0), (7, 0)] → s.ten.qps.get? q = some v → v.fn = c.fn →
    v.st ≠ .quarantine → s.qpBusy q = false →
    exec (.queryQp c) s = .next (s.answered c 0 (w64 (v.st.code + b2n v.enable * 8 + v.cause % 256 * 2 ^ 4
      + v.sqNext.toNat % 2 ^ v.sqLog * 2 ^ 16 + v.rqCons.toNat % 2 ^ v.rqLog * 2 ^ 32)))) ∧
  (∀ (s : State) (c : AdminCmd) (q : Nat) (v : Qp), q = bitsOf c.e.w2 0 21 → s.domState (tenDom q) = 2 →
    Takes s c 0x04 [(2, ones 0 21), (3, 0), (4, 0), (5, 0), (6, 0), (7, 0)] → s.ten.qps.get? q = some v → v.fn = c.fn →
    v.st = .reset → s.qpBusy q = false → s.grps = [] → s.mat.ctxs = [] → s.mat.msgs = [] → s.mat.fetches = [] →
    ∃ t, exec (.destroyQp c) s = .next t ∧
      t.ten.qps = s.ten.qps.set q { v with st := .quarantine, enable := false, quarAt := s.now } ∧
      t.fn c.fn = { (s.fn c.fn).answered c 0 0 with slots := (s.fn c.fn).slots.erase v.slot } ∧ t.ten.cqs = s.ten.cqs) ∧
  (∀ (s : State) (q : Nat) (v : Qp), s.ten.qps.wf = true → s.ten.qps.get? q = some v → v.st = .quarantine →
    (s.fn v.fn).drain = none →
    (∀ r ∈ s.tra.resps, r.2.sp ≠ .conn q) →
    ∃ t, exec (.qpQuarantineEnd q) s = .next t ∧ t.ten.qps.get? q = none ∧ (∀ k, k ≠ q → t.ten.qps.get? k = s.ten.qps.get? k) ∧
      t.ten.gens = s.ten.gens ∧ s.quarEnd v.quarAt ≤ t.now) ∧
  (∀ (s : State) (c : AdminCmd), s.adminReady c.fn = true → s.qpBusy (bitsOf c.e.w2 0 21) = true →
    (bitsOf c.e.w0 0 16 = 0x02 → exec (.modifyQp c) s = .next s) ∧ (bitsOf c.e.w0 0 16 = 0x03 → exec (.queryQp c) s = .next s) ∧
    (bitsOf c.e.w0 0 16 = 0x04 → exec (.destroyQp c) s = .next s))

/-- Table 2.10, R49: the changes of state that MODIFY_QP makes, each answered with the new STATE and ENABLE: RESET to INIT with
the counts at 0; INIT to READY, with the peer and PSNs of a CONNECTED queue pair; READY to DRAINING; an enable in DRAINING is
held; ERROR to RESET once the flush has ended. R47: a MODIFY_QP that names a change that Table 2.10 and R49 do not have completes
MALFORMED and changes nothing. -/
def Obligations.QueuePairsChangeStateAsTabled : Prop :=
  (∀ (s : State) (c : AdminCmd) (q : Nat) (v : Qp), q = bitsOf c.e.w2 0 21 → s.domState (tenDom q) = 2 →
    Takes s c 0x02 [(2, ones 0 21 + ones 32 3), (3, ones 0 42), (4, ones 0 48), (5, 0), (6, 0), (7, 0)] →
    s.ten.qps.get? q = some v → v.fn = c.fn → s.qpBusy q = false →
    (v.st = .reset → bitsOf c.e.w2 32 3 = 1 → ∃ t w, exec (.modifyQp c) s = .next t ∧ t.ten.qps = s.ten.qps.set q w ∧ w.st = .init ∧
      w.sqProd = 0 ∧ w.sqCons = 0 ∧ w.rqProd = 0 ∧ w.rqCons = 0 ∧ t.fn c.fn = (s.fn c.fn).answered c 0 (w64 1)) ∧
    (v.st = .init → bitsOf c.e.w2 32 3 = 2 → v.node = true → exec (.modifyQp c) s =
      .next ({ s with ten.qps := s.ten.qps.set q { v with st := .ready, enable := true, everReady := true } }.answered c 0 (w64 10))) ∧
    (v.st = .error → bitsOf c.e.w2 32 3 = 0 → s.flushed q v = true → ∃ t w, exec (.modifyQp c) s = .next t ∧
      t.ten.qps = s.ten.qps.set q w ∧ w.st = .reset ∧ w.enable = false ∧ t.fn c.fn = (s.fn c.fn).answered c 0 0) ∧
    (v.st = .init → bitsOf c.e.w2 32 3 = 2 → v.node = false → (∀ r ∈ s.tra.resps, r.2.sp ≠ .conn q) →
      ∃ t w, exec (.modifyQp c) s = .next t ∧ t.ten.qps = s.ten.qps.set q w ∧
      w.st = .ready ∧ w.enable = true ∧ w.remote = { node := bitsOf c.e.w3 0 18, qp := bitsOf c.e.w3 18 21, gen := bitsOf c.e.w3 39 3 } ∧
      w.sp.sendNext = BitVec.ofNat 24 (bitsOf c.e.w4 0 24) ∧ w.sp.recvE = BitVec.ofNat 24 (bitsOf c.e.w4 24 24) ∧
      w.sqProd = v.sqProd ∧ w.rqProd = v.rqProd ∧ t.fn c.fn = (s.fn c.fn).answered c 0 (w64 10)) ∧
    (v.st = .ready → bitsOf c.e.w2 32 3 = 3 → exec (.modifyQp c) s =
      .next ({ s with ten.qps := s.ten.qps.set q { v with st := .draining, enable := false, drainAt := some s.now } }.answered c 0 (w64 3))) ∧
    (v.st = .draining → bitsOf c.e.w2 32 3 = 2 →
      exec (.modifyQp c) s = .next ({ s with ten.qps := s.ten.qps.set q { v with enable := true } }.answered c 0 (w64 11)))) ∧
  (∀ (s : State) (c : AdminCmd) (q : Nat) (v : Qp), q = bitsOf c.e.w2 0 21 → s.domState (tenDom q) = 2 →
    Takes s c 0x02 [(2, ones 0 21 + ones 32 3), (3, ones 0 42), (4, ones 0 48), (5, 0), (6, 0), (7, 0)] →
    s.ten.qps.get? q = some v → v.fn = c.fn → v.st ≠ .quarantine → s.qpBusy q = false →
    (v.st, bitsOf c.e.w2 32 3) ∉ [(.reset, 1), (.init, 2), (.init, 4), (.ready, 3), (.ready, 4), (.draining, 1), (.draining, 2),
      (.draining, 3), (.draining, 4), (.error, 0)] →
    exec (.modifyQp c) s = .next (s.answered c 0x02 0))

/-- Table 2.8, R49: CREATE_CQ makes an enabled CQ in READY; MODIFY_CQ starts a drain, and enables a failed CQ with both counts at
0; QUERY_CQ answers the state, ENABLE and the producer count; DESTROY_CQ frees a CQ that no queue pair is bound to, and its slot.
Table 2.8, R14, R24: CREATE_EQ makes an EQ and DESTROY_EQ frees one to which nothing is bound; ALLOC_HBM gives room in the device-
resident ring region that overlaps no allocation, and with RING room in the function's ring aperture; FREE_HBM gives it back
unless a bound ring or an open window lies in it. -/
def Obligations.QueueAndHbmCommandsDoAsTabled : Prop :=
  (∀ (s : State) (c : AdminCmd) (i slot : Nat),
    Takes s c 0x10 [(2, ones 0 53), (3, ones 0 64), (4, 0), (5, 0), (6, 0), (7, 0)] → 4 ≤ bitsOf c.e.w2 0 5 → bitsOf c.e.w2 0 5 ≤ 22 →
    s.granted c.fn (bitsOf c.e.w2 17 20) = true → bitsOf c.e.w3 0 12 = 0 → bitsOf c.e.w3 48 16 = 0 →
    (s.ten.eqs.get? (bitsOf c.e.w2 5 12)).map Eq.fn = some c.fn → i = firstFree 0 s.ten.cqs.keys → i < 2 ^ 20 →
    s.freeDb c.fn = some slot → s.quotaOk c.fn .cq 1 = true →
    ∃ t d, exec (.createCq c) s = .next t ∧ t.ten.cqs = s.ten.cqs.set i d ∧ d.st = .ready ∧ d.enable = true ∧ d.fn = c.fn ∧
      d.logSize = bitsOf c.e.w2 0 5 ∧ d.eq = bitsOf c.e.w2 5 12 ∧ d.asid = bitsOf c.e.w2 17 20 ∧ d.stallMs = bitsOf c.e.w2 37 16 ∧
      d.base = c.e.w3.toNat ∧ d.prod = 0 ∧ d.cons = 0 ∧
      t.fn c.fn = { (s.fn c.fn).answered c 0 (w64 (i + slot * 2 ^ 32)) with slots := (s.fn c.fn).slots.set slot (.cq i) }) ∧
  (∀ (s : State) (c : AdminCmd) (d : Cq),
    Takes s c 0x11 [(2, ones 0 20 + ones 32 1), (3, 0), (4, 0), (5, 0), (6, 0), (7, 0)] →
    s.ten.cqs.get? (bitsOf c.e.w2 0 20) = some d → d.fn = c.fn →
    (bitAt c.e.w2 32 = false → d.st = .ready → exec (.modifyCq c) s = .next
      ((s.updCq (bitsOf c.e.w2 0 20) fun d => { d with st := .draining, enable := false, drainAt := some s.now }).answered c 0 (w64 2))) ∧
    (bitAt c.e.w2 32 = true → d.st = .draining → exec (.modifyCq c) s = .next
      ((s.updCq (bitsOf c.e.w2 0 20) fun d => { d with enable := true }).answered c 0 (w64 10))) ∧
    (bitAt c.e.w2 32 = true → d.st = .error → ∃ t x, exec (.modifyCq c) s = .next t ∧
      t.ten.cqs = s.ten.cqs.set (bitsOf c.e.w2 0 20) x ∧ x.st = .ready ∧ x.enable = true ∧ x.prod = 0 ∧ x.cons = 0 ∧
      t.fn c.fn = (s.fn c.fn).answered c 0 (w64 9))) ∧
  (∀ (s : State) (c : AdminCmd) (d : Cq), Takes s c 0x12 [(2, ones 0 20), (3, 0), (4, 0), (5, 0), (6, 0), (7, 0)] →
    s.ten.cqs.get? (bitsOf c.e.w2 0 20) = some d → d.fn = c.fn →
    exec (.queryCq c) s = .next (s.answered c 0 (w64 (d.st.code + b2n d.enable * 8 + d.prod.toNat * 2 ^ 4)))) ∧
  (∀ (s : State) (c : AdminCmd) (d : Cq), Takes s c 0x13 [(2, ones 0 20), (3, 0), (4, 0), (5, 0), (6, 0), (7, 0)] →
    s.ten.cqs.get? (bitsOf c.e.w2 0 20) = some d → d.fn = c.fn →
    ((∃ p ∈ s.ten.qps, p.2.onCq (bitsOf c.e.w2 0 20) = true) → exec (.destroyCq c) s = .next (s.answered c 0x02 0)) ∧
    ((∀ p ∈ s.ten.qps, p.2.onCq (bitsOf c.e.w2 0 20) = false) → ∃ t, exec (.destroyCq c) s = .next t ∧
      t.ten.cqs = s.ten.cqs.erase (bitsOf c.e.w2 0 20) ∧ t.ten.qps = s.ten.qps ∧
      t.fn c.fn = { (s.fn c.fn).answered c 0 0 with slots := (s.fn c.fn).slots.erase d.slot })) ∧
  (∀ (s : State) (c : AdminCmd) (i slot : Nat), Takes s c 0x18 [(2, ones 0 36), (3, ones 0 64), (4, 0), (5, 0), (6, 0), (7, 0)] →
    6 ≤ bitsOf c.e.w2 0 5 → bitsOf c.e.w2 0 5 ≤ 16 → s.granted c.fn (bitsOf c.e.w2 16 20) = true → bitsOf c.e.w3 0 12 = 0 →
    bitsOf c.e.w3 48 16 = 0 → i = firstFree 0 s.ten.eqs.keys → i < 4096 → s.freeDb c.fn = some slot → s.quotaOk c.fn .eq 1 = true →
    ∃ t e, exec (.createEq c) s = .next t ∧ t.ten.eqs = s.ten.eqs.set i e ∧ e.fn = c.fn ∧ e.logSize = bitsOf c.e.w2 0 5 ∧
      e.vector = bitsOf c.e.w2 5 11 ∧ e.asid = bitsOf c.e.w2 16 20 ∧ e.base = c.e.w3.toNat ∧ e.prod = 0 ∧ e.cons = 0 ∧
      t.fn c.fn = { (s.fn c.fn).answered c 0 (w64 (i + slot * 2 ^ 32)) with slots := (s.fn c.fn).slots.set slot (.eq i) }) ∧
  (∀ (s : State) (c : AdminCmd) (e : Eq), Takes s c 0x19 [(2, ones 0 12), (3, 0), (4, 0), (5, 0), (6, 0), (7, 0)] →
    s.ten.eqs.get? (bitsOf c.e.w2 0 12) = some e → e.fn = c.fn →
    (∀ p ∈ s.ten.qps, p.2.st ≠ .quarantine → p.2.eq ≠ bitsOf c.e.w2 0 12) → (∀ p ∈ s.ten.cqs, p.2.eq ≠ bitsOf c.e.w2 0 12) →
    ∃ t, exec (.destroyEq c) s = .next t ∧ t.ten.eqs = s.ten.eqs.erase (bitsOf c.e.w2 0 12) ∧
      t.fn c.fn = { (s.fn c.fn).answered c 0 0 with slots := (s.fn c.fn).slots.erase e.slot }) ∧
  (∀ (s : State) (c : AdminCmd) (off aper : Nat), Takes s c 0x20 [(2, ones 0 33), (3, 0), (4, 0), (5, 0), (6, 0), (7, 0)] →
    bitsOf c.e.w2 0 32 % 4096 = 0 → bitsOf c.e.w2 0 32 ≠ 0 → s.quotaOk c.fn .hbm (bitsOf c.e.w2 0 32 / 4096) = true →
    (if bitAt c.e.w2 32 = true then findRoom 0x1000 (aperEnd c.fn) (bitsOf c.e.w2 0 32 / 4096)
      ((s.ten.allocs.filter fun a => a.fn == c.fn && a.aper != 0).map fun a => (a.aper, a.size)) else some 0) = some aper →
    findRoom (ringBase / 4096) (ringBase / 4096 + s.boot.ringUnits * 2 ^ 17) (bitsOf c.e.w2 0 32 / 4096)
      (s.ten.allocs.map fun a => (a.off, a.size)) = some off →
    ∃ t, exec (.allocHbm c) s = .next t ∧
      t.ten.allocs = { fn := c.fn, off := off, size := bitsOf c.e.w2 0 32 / 4096, aper := aper } :: s.ten.allocs ∧
      ringBase ≤ off * 4096 ∧ off + bitsOf c.e.w2 0 32 / 4096 ≤ ringBase / 4096 + s.boot.ringUnits * 2 ^ 17 ∧
      (∀ a ∈ s.ten.allocs, off + bitsOf c.e.w2 0 32 / 4096 ≤ a.off ∨ a.off + a.size ≤ off) ∧
      t.fn c.fn = (s.fn c.fn).answered c 0 (w64 (off + aper * 2 ^ 24))) ∧
  (∀ (s : State) (c : AdminCmd) (a : Alloc), Takes s c 0x21 [(2, ones 0 24), (3, 0), (4, 0), (5, 0), (6, 0), (7, 0)] →
    (s.ten.allocs.find? fun a => a.off == bitsOf c.e.w2 0 24) = some a → a.fn = c.fn →
    (∀ p ∈ s.ten.qps, p.2.st ≠ .quarantine → p.2.sqDev = false ∧ p.2.rqDev = false) → (∀ w ∈ s.wins, w.2.hbm = false) →
    exec (.freeHbm c) s = .next
      ({ s with ten.allocs := s.ten.allocs.filter fun b => b.off != bitsOf c.e.w2 0 24 }.answered c 0 0))

/-! ### Transport (03_transport) -/

/-- R59, R60, R64, R66: a running SEND_INLINE or PUT_INLINE job of a CONNECTED queue pair sends its next packet: it takes the next
PSN, carries the bytes from where the job stands up to the MTU, names the peer, and sets ACK_REQ if it is the last; it waits for
the injection policer of its class, and the job moves on. R65, R72 step 2: what a packet of a CONNECTED queue pair gets before its
own checks: one that finds no queue pair of its generation and kind is refused STALE and touches no PSN state; one beyond the
window is discarded and counted; a duplicate is discarded, counted and acknowledged; one ahead of the next expected PSN that must
be in order gets NAK SEQ, once. -/
def Obligations.PacketsGoOutAndArriveInOrder : Prop :=
  (∀ (s : State) (q : Nat) (v : Qp) (j : Job), s.ten.qps.get? q = some v → v.node = false → v.spray = true → v.st = .ready →
    v.jobs = [j] → j.op = 2 ∨ j.op = 4 → j.rts = false → j.ord = false → j.status = none → j.allSent = false → j.trapped = false → j.pos < j.len → 0 < v.mtu →
    v.sp.resends = [] → v.sp.sent = [] → v.sp.sendNext = v.sp.sendUna → s.fatal = false → s.domState (tenDom q) = 2 →
    s.tra.resps = [] → s.xlt.missed = [] →
    let n := Nat.min v.mtu (j.len - j.pos)
    ∃ t p u, exec (.transportPacketSend (.job q j.ring)) s = .next t ∧
      t.rte.inject.get? j.tc = some ((s.rte.inject.get? j.tc).getD [] ++ [p]) ∧ p.type = (if j.op = 2 then 1 else 3) ∧
      p.msn = (if j.op = 2 then j.msn else 0) ∧ p.psn = v.sp.sendNext ∧
      p.offset = j.pos ∧ p.msgLen = j.len ∧ p.payload = slice j.inl j.pos n ∧ p.ackReq = decide (j.len ≤ j.pos + n) ∧
      p.dstNode = v.remote.node ∧ p.dstQp = v.remote.qp ∧ p.dstGen = v.remote.gen ∧ p.srcNode = s.node ∧ p.srcQp = q ∧
      p.pkey = v.pkey ∧ p.hops = 0 ∧ p.hcrc = hcrcOf p ∧ t.ten.qps.get? q = some u ∧ u.sp.sendNext = v.sp.sendNext + 1 ∧
      u.sp.sendUna = v.sp.sendUna ∧ u.sp.deadline = some (s.now + s.rtoInit) ∧
      u.jobs = [{ j with pos := j.pos + n, allSent := decide (j.len ≤ j.pos + n) }] ∧ t.hbm = s.hbm ∧ t.out = s.out) ∧
  (∀ (s : State) (p : Packet), Served s (recvDoms p) → 1 ≤ p.type → p.type ≤ 7 → p.node = false → s.target p = none →
    exec (.transportPacketReceive p) s = .next (s.nakStale p)) ∧
  (∀ (s : State) (p : Packet) (v : Qp), Served s (recvDoms p) → p.type = 3 → p.node = false → s.target p = some v →
    v.everReady = true →
    (256 ≤ (p.psn - v.sp.recvE).toNat → (p.psn - v.sp.recvE).toNat < 2 ^ 23 →
      exec (.transportPacketReceive p) s = .next (s.tally .window)) ∧
    (2 ^ 23 ≤ (p.psn - v.sp.recvE).toNat →
      exec (.transportPacketReceive p) s = .next ((s.tally .dup).ack (.conn p.dstQp) p.tc p.pkey)) ∧
    ((p.psn - v.sp.recvE).toNat < 256 → v.sp.recvMap.getLsbD (p.psn - v.sp.recvE).toNat = true →
      exec (.transportPacketReceive p) s = .next ((s.tally .dup).ack (.conn p.dstQp) p.tc p.pkey)) ∧
    ((p.psn - v.sp.recvE).toNat < 256 → v.sp.recvMap.getLsbD (p.psn - v.sp.recvE).toNat = false → p.ord = true →
      p.psn ≠ v.sp.recvE → v.sp.nakSeq ≠ some v.sp.recvE →
      exec (.transportPacketReceive p) s = .next ((s.nak (.conn p.dstQp) p.tc p.pkey v.sp.recvE 1 0).updSp (.conn p.dstQp)
        fun x => { x with nakSeq := some v.sp.recvE })))

/-- R65, R70, R72, R113: the next expected PUT packet of a CONNECTED queue pair, of a key that both endpoints hold, into an open
window in HBM that passes the checks of Table 5.3: its bytes lie at REMOTE_ADDR + OFFSET of the window, as far as the window
reaches (log 16), every other byte of HBM is as it was, and the receive window moves past it. R67: an ACK acts on the space it
names: SEND_UNA moves only forward, to the acknowledged point, and never beyond SEND_NEXT; the packets below it are acknowledged,
and those that SACK names are marked. R67, R68, Table 3.5: NAKs on a CONNECTED queue pair. BUSY sets the packet aside until its
backoff has passed; SEQ acknowledges and sends every unmarked packet from E again; a STALE takes no acknowledgement; the other
terminal reasons act on the owner of the PSN they name, after their acknowledgement; a reserved reason is counted and nothing
else. -/
def Obligations.PacketsArePlacedAndAcknowledged : Prop :=
  (∀ (s : State) (p : Packet) (v : Qp), Served s (recvDoms p) → p.type = 3 → p.node = false → memWf s.hbm = true →
    s.target p = some v → v.everReady = true → v.st = .ready → v.sp.recvE = p.psn → v.sp.recvMap = 0 → v.pkey = p.pkey →
    p.pkey ∈ (s.fn v.fn).keys → (s.win (winIdx p)).hbm = true → s.winCheck p v = none →
    let a := (s.win (winIdx p)).base + (p.w4.toNat + p.offset)
    let n := Nat.min p.payload.length ((s.win (winIdx p)).len - (p.w4.toNat + p.offset))
    ∃ t u, exec (.transportPacketReceive p) s = .next t ∧ t.ten.qps.get? p.dstQp = some u ∧ u.sp.recvE = p.psn + 1 ∧ u.st = .ready ∧
      u.jobs = v.jobs ∧ t.wins = s.wins ∧ t.ten.cqs = s.ten.cqs ∧ t.out = s.out ∧ ∀ x, memGet t.hbm x =
        if a ≤ x ∧ x < a + n then p.payload.getD (x - a) 0 else memGet s.hbm x) ∧
  (∀ (s : State) (p : Packet) (v : Qp), Served s [ackDom p] → p.type = 8 → p.node = false → s.ten.qps.get? p.dstQp = some v →
    v.node = false → v.gen = p.dstGen →
    exec (.ackReceive p) s = .next (s.takeAck (.conn p.dstQp) p.psn p.w4 (bitsOf p.w5 0 4))) ∧
  (∀ (s : State) (p : Packet), Served s [ackDom p] → p.type = 8 → p.node = false → s.ten.qps.get? p.dstQp = none →
    exec (.ackReceive p) s = .next (s.tally .ack)) ∧
  (∀ (x : Space) (a : Psn) (sack : Word) (now rto : Nat),
    let y := (x.acked a sack now rto).2
    let d := (a - x.sendUna).toNat
    let n := (x.sendNext - x.sendUna).toNat
    (1 ≤ d → d ≤ n → y.sendUna = a ∧ y.rto = rto ∧ y.retries = 0 ∧ ∀ t ∈ y.sent, d ≤ (t.psn - x.sendUna).toNat) ∧
    (d = 0 ∨ n < d → y.sendUna = x.sendUna ∧ y.retries = x.retries ∧ y.sent.length = x.sent.length) ∧
    y.sendNext = x.sendNext ∧
    (∀ t ∈ y.sent, t.marked = true → t ∈ x.sent ∨ ∃ i, i < 64 ∧ bitAt sack i = true ∧ t.psn = a + 1 + BitVec.ofNat 24 i) ∧
    (∀ t ∈ y.sent, (∃ i, i < 64 ∧ bitAt sack i = true ∧ t.psn = a + 1 + BitVec.ofNat 24 i) → t.marked = true)) ∧
  (∀ (s : State) (p : Packet) (v : Qp), Served s [ackDom p] → p.type = 9 → p.node = false → s.ten.qps.get? p.dstQp = some v →
    v.node = false → v.gen = p.dstGen →
    let id := SpaceId.conn p.dstQp
    let a : Psn := BitVec.ofNat 24 (bitsOf p.w6 0 24)
    (bitsOf p.w5 0 8 = 1 → exec (.nakReceive p) s =
      .next ((s.takeAck id a p.w4 (bitsOf p.w5 12 4)).retransmit id fun t => decide ((t.psn - p.psn).toNat < 2 ^ 23))) ∧
    (bitsOf p.w5 0 8 = 2 → exec (.nakReceive p) s =
      .next ((s.busyNak id p.psn (bitsOf p.w5 8 4)).takeAck id a p.w4 (bitsOf p.w5 12 4))) ∧
    (bitsOf p.w5 0 8 = 3 → exec (.nakReceive p) s = .next (s.terminal id p.psn 3)) ∧
    (∀ r, r = bitsOf p.w5 0 8 → 4 ≤ r → r ≤ 7 → exec (.nakReceive p) s =
      .next (s.takeAckBut id a p.w4 (bitsOf p.w5 12 4) (s.ownerOf id p.psn) fun s => s.terminal id p.psn r)) ∧
    (7 < bitsOf p.w5 0 8 → exec (.nakReceive p) s = .next (s.tally .nak)) ∧
    (∀ x ∈ v.sp.sent, x.psn = p.psn → x.marked = false → (∃ r, x.owner = .job p.dstQp r ∧ (s.job? p.dstQp r).any (·.status.isNone)) →
      (∀ y ∈ v.sp.sent, y.psn = p.psn → y = x) → v.sp.resends = [] →
      (s.busyNak id p.psn (bitsOf p.w5 8 4)).space id = { v.sp with
        sent := v.sp.sent.filter fun u => u.psn != p.psn,
        past := v.sp.past.filter fun u => u.psn != p.psn,
        resends := [{ sent := { x with busy := some (x.busy.getD s.now), due := false },
                      until_ := s.now + 1000 * 2 ^ bitsOf p.w5 8 4, ready := false }] }))

/-- R66, R68, R69: the transport's timers on a CONNECTED queue pair. ACK_DELAY sends the ACK; a retransmit timeout within
RETRY_LIMIT doubles RTO up to RTO_MAX, counts a retry, restarts the timer and sends every unmarked packet again; one beyond it
fails the space; a backoff that ends makes the packet ready; BUSY_LIMIT fails the job RETRY_EXCEEDED. R431: a message in placement
into a receive that has not grown for GATE_HOLD is abandoned: the receive completes INCOMPLETE with the bytes counted, the
message's entry is freed, and the queue pairs and memory stay as they are. -/
def Obligations.TransportTimersExpire : Prop :=
  (∀ (s : State) (q t0 : Nat) (v : Qp), s.ten.qps.get? q = some v → v.sp.ackAt = some t0 → s.fatal = false →
    s.domState (tenDom q) = 2 → exec (.ackDelayExpiry (.conn q)) s = .next ((s.passTo t0).ack (.conn q) v.sp.ackTc v.sp.ackPkey)) ∧
  (∀ (s : State) (q t0 : Nat) (v : Qp), s.ten.qps.get? q = some v → v.sp.deadline = some t0 → s.fatal = false →
    s.domState (tenDom q) = 2 → s.now ≤ t0 → v.sp.retries + 1 ≤ s.retryLimit →
    ∃ t u, exec (.retransmitTimeout (.conn q)) s = .next t ∧ t.now = t0 ∧ t.ten.qps.get? q = some u ∧ u.sp.retries = v.sp.retries + 1 ∧
      u.sp.rto = Nat.min s.rtoMax (2 * v.sp.rto) ∧ u.sp.deadline = some (t0 + Nat.min s.rtoMax (2 * v.sp.rto))) ∧
  (∀ (s : State) (q t0 : Nat) (v : Qp), s.ten.qps.get? q = some v → v.sp.deadline = some t0 → s.fatal = false →
    s.domState (tenDom q) = 2 → s.retryLimit ≤ v.sp.retries →
    exec (.retransmitTimeout (.conn q)) s = .next ((s.passTo t0).spaceFail (.conn q))) ∧
  (∀ (s : State) (q : Nat) (v : Qp) (r : Resend), s.ten.qps.get? q = some v → v.sp.resends = [r] → r.ready = false → s.fatal = false →
    s.domState (tenDom q) = 2 → s.ownBytes r.sent.owner r.sent.off r.sent.len = none →
    ∃ t u, exec (.busyBackoffExpiry (.conn q) r.sent.psn) s = .next t ∧ r.until_ ≤ t.now ∧ t.ten.qps.get? q = some u ∧
      u.sp.resends = [{ r with ready := true }]) ∧
  (∀ (s : State) (q t0 : Nat) (v : Qp) (r : Resend) (ring : Count32), s.ten.qps.get? q = some v → v.sp.resends = [r] →
    r.sent.busy = some t0 → r.sent.owner = .job q ring → s.fatal = false → s.domState (tenDom q) = 2 →
    s.rdF R.TEN_XPORT_CTL F.TEN_XPORT_CTL_BUSY_LIMIT ≠ 0 →
    exec (.busyLimitExpiry (.conn q) r.sent.psn) s =
      .next (((s.passTo (t0 + 1000000 * s.rdF R.TEN_XPORT_CTL F.TEN_XPORT_CTL_BUSY_LIMIT)).updSp (.conn q) fun p =>
        { p with resends := [] }).jobFail q ring 0x09)) ∧
  (∀ (s : State) (m : Msg) (buf : Buffer) (rcv : RecvTo) (c : Cq), s.fatal = false → s.xlt.missed = [] →
    s.msg? m.srcNode m.srcQp m.dstQp m.msn = some m → m.at_ = .placing buf rcv → s.domState (tenDom m.dstQp) = 2 →
    s.ten.cqs.get? rcv.cq = some c → c.st ≠ .error → (s.fn c.fn).drain = none →
    ∃ t x, exec (.placementAbandon (.send m.srcNode m.srcQp m.dstQp m.msn)) s = .next t ∧ m.since + s.gateHold ≤ t.now ∧
      t.msg? m.srcNode m.srcQp m.dstQp m.msn = none ∧ (t.ten.cqs.get? rcv.cq).map Cq.waiting = some (c.waiting ++ [x]) ∧
      x.status = 0x12 ∧ x.bytes = m.count ∧ x.cookie = rcv.cookie ∧ t.ten.qps = s.ten.qps ∧ t.hbm = s.hbm)

/-- R74: a SYNC of a peer whose incarnation is not contradicted makes an IDLE context ACTIVE: it takes the carried PSN, the
incarnation and the SYNC_ID, chooses an initial PSN from fabric time, and answers SYNC_ACK in TC1 with key 0xFFFF; the answer to the
latest SYNC makes a SYNCING context ACTIVE. R58: a flow without work gives up its entry after twice the stale limit. -/
def Obligations.NodePairsSynchronise : Prop :=
  (∀ (s : State) (p : Packet), Served s [69 + p.srcNode % 4] → p.type = 0x0A → (s.np p.srcNode).st = .idle →
    ((s.np p.srcNode).known = true → (s.np p.srcNode).peerInc = p.inc) →
    ∃ t a, exec (.syncReceive p) s = .next t ∧ (t.np p.srcNode).st = .active ∧ (t.np p.srcNode).peerInc = p.inc ∧
      (t.np p.srcNode).known = true ∧ (t.np p.srcNode).syncId = BitVec.ofNat 16 (bitsOf p.w4 24 16) ∧
      (t.np p.srcNode).sp.recvE = BitVec.ofNat 24 (bitsOf p.w4 0 24) ∧ (t.np p.srcNode).sp.sendNext = BitVec.ofNat 24 (s.ft / 1024) ∧
      (t.np p.srcNode).sp.sendUna = BitVec.ofNat 24 (s.ft / 1024) ∧
      t.rte.inject.get? 1 = some ((s.rte.inject.get? 1).getD [] ++ [a]) ∧ a.type = 0x0B ∧ a.tc = 1 ∧ a.pkey = 0xFFFF ∧
      a.dstNode = p.srcNode ∧ a.node = true ∧ bitsOf a.w4 0 24 = s.ft / 1024 % 2 ^ 24 ∧ bitsOf a.w4 24 16 = bitsOf p.w4 24 16) ∧
  (∀ (s : State) (p : Packet), Served s [69 + p.srcNode % 4] → p.type = 0x0B → (s.np p.srcNode).st = .syncing →
    bitsOf p.w4 24 16 = (s.np p.srcNode).ownSync.toNat → ((s.np p.srcNode).known = true → (s.np p.srcNode).peerInc = p.inc) →
    ∃ t, exec (.syncAckReceive p) s = .next t ∧ (t.np p.srcNode).st = .active ∧ (t.np p.srcNode).peerInc = p.inc ∧
      (t.np p.srcNode).sp.recvE = BitVec.ofNat 24 (bitsOf p.w4 0 24) ∧ (t.np p.srcNode).sp.sendNext = (s.np p.srcNode).sp.sendNext ∧
      (t.np p.srcNode).sp.deadline = none ∧ t.ten = s.ten) ∧
  (∀ (s : State) (q n d : Nat) (f : Flow), s.tra.flows.wf = true → s.tra.flows.get? (flowKey q n d) = some f → s.fatal = false →
    s.domState (tenDom q) = 2 → (∀ v, s.ten.qps.get? q = some v → v.jobs = []) → (s.np n).sp.sent = [] → (s.np n).sp.resends = [] →
    ∃ t, exec (.flowEntryRelease q n d) s = .next t ∧ t.tra.flows.get? (flowKey q n d) = none ∧
      (∀ k, k ≠ flowKey q n d → t.tra.flows.get? k = s.tra.flows.get? k) ∧ f.quiet + 2 * s.staleNs ≤ t.now)

/-! ### Matching (04_matching) -/

/-- R76 to R79, R85, Table 4.1: CREATE_MCTX makes a READY context with nothing posted and no charge; QUERY_MCTX answers its state, its
posted entries and its charge; CANCEL_RECV takes the oldest posted entry with the cookie and says whether there was one; DESTROY_MCTX
flushes what is posted and quarantines the index, which MCTX_QUARANTINE_END frees. -/
def Obligations.MatchingContextsDoAsTabled : Prop :=
  (∀ (s : State) (c : AdminCmd) (i : Nat) (v : Qp) (d : Cq), s.domState (matDom i) = 2 →
    Takes s c 0x30 [(2, ones 0 41), (3, ones 0 25 + ones 32 16 + ones 63 1), (4, ones 0 16), (5, 0), (6, 0), (7, 0)] →
    (if bitAt c.e.w3 63 then some (bitsOf c.e.w4 0 16) else s.pickMctx) = some i → s.mat.ctxs.get? i = none →
    1 ≤ bitsOf c.e.w3 0 25 → bitsOf c.e.w3 0 25 ≤ 2 ^ 24 → 1 ≤ bitsOf c.e.w3 32 16 →
    s.ten.qps.get? (bitsOf c.e.w2 0 21) = some v → v.fn = c.fn → v.st ≠ .error → v.st ≠ .quarantine →
    s.ten.cqs.get? (bitsOf c.e.w2 21 20) = some d → d.fn = c.fn → d.st = .ready → s.quotaOk c.fn .ctx 1 = true →
    exec (.createMctx c) s = .next ({ s with mat.ctxs := s.mat.ctxs.set i ⟨c.fn, bitsOf c.e.w2 0 21, bitsOf c.e.w2 21 20,
      bitsOf c.e.w3 0 25, bitsOf c.e.w3 32 16, .ready, [], 0, false, 0⟩ }.answered c 0 (w64 i))) ∧
  (∀ (s : State) (c : AdminCmd) (v : Mctx), s.domState (matDom (bitsOf c.e.w2 0 16)) = 2 →
    Takes s c 0x32 [(2, ones 0 16), (3, 0), (4, 0), (5, 0), (6, 0), (7, 0)] → s.mat.ctxs.get? (bitsOf c.e.w2 0 16) = some v →
    v.fn = c.fn → v.st ≠ .quarantine →
    exec (.queryMctx c) s = .next (s.answered c 0
      (w64 (v.st.code + v.posted.length % 2 ^ 25 * 4 + v.charge % 2 ^ 32 * 2 ^ 32)))) ∧
  (∀ (s : State) (c : AdminCmd) (v : Mctx), s.domState (matDom (bitsOf c.e.w2 0 16)) = 2 →
    Takes s c 0x34 [(2, ones 0 16), (3, ones 0 64), (4, 0), (5, 0), (6, 0), (7, 0)] → s.mat.ctxs.get? (bitsOf c.e.w2 0 16) = some v →
    v.fn = c.fn → v.st ≠ .quarantine →
    ((∀ p ∈ v.posted, p.e.w2 ≠ c.e.w3) → ∃ t w, exec (.cancelRecv c) s = .next t ∧ t.mat.ctxs.get? (bitsOf c.e.w2 0 16) = some w ∧
      w.posted = v.posted ∧ t.ten = (s.answered c 0 0).ten) ∧
    (∀ (a b : List Posted) (p : Posted), v.posted = a ++ p :: b → p.e.w2 = c.e.w3 → (∀ x ∈ a, x.e.w2 ≠ c.e.w3) →
      ∃ t w, exec (.cancelRecv c) s = .next t ∧ t.mat.ctxs.get? (bitsOf c.e.w2 0 16) = some w ∧ w.posted = a ++ b ∧
        t.ten = (s.answered c 0 1).ten)) ∧
  (∀ (s : State) (c : AdminCmd) (v : Mctx) (d : Cq), s.domState (matDom (bitsOf c.e.w2 0 16)) = 2 →
    Takes s c 0x31 [(2, ones 0 16), (3, 0), (4, 0), (5, 0), (6, 0), (7, 0)] → s.mat.ctxs.get? (bitsOf c.e.w2 0 16) = some v →
    v.fn = c.fn → v.st ≠ .quarantine → s.mat.msgs = [] → s.mat.fetches = [] → s.ten.cqs.get? v.cq = some d → d.st ≠ .error →
    (s.fn d.fn).drain = none →
    ∃ t, exec (.destroyMctx c) s = .next t ∧ t.mat.ctxs.get? (bitsOf c.e.w2 0 16) =
        some { v with st := .quarantine, posted := [], charge := 0, high := false, quarAt := s.now } ∧
      (t.ten.cqs.get? v.cq).map Cq.waiting =
        some (d.waiting ++ v.posted.map fun p => matchCqe p.e.w2 0 0x03 0 0 false 0) ∧
      t.fn c.fn = (s.fn c.fn).answered c 0 0 ∧ t.hbm = s.hbm) ∧
  (∀ (s : State) (i : Nat) (v : Mctx), s.mat.ctxs.wf = true → s.mat.ctxs.get? i = some v → v.st = .quarantine →
    (s.fn v.fn).drain = none →
    ∃ t, exec (.mctxQuarantineEnd i) s = .next t ∧ t.mat.ctxs.get? i = none ∧
      (∀ k, k ≠ i → t.mat.ctxs.get? k = s.mat.ctxs.get? k) ∧ s.quarEnd v.quarAt ≤ t.now)

/-- R23, R80, R83: a POST_RECV of one entry reads it, and one that no unexpected message matches joins the end of the posted list, and
POSTED is 1; one that a rendezvous message waits for starts its fetch, under a number no fetch has, the message leaves the unexpected
store, and IMMEDIATE is 1 as well; where the list is full the command stops with ACCESS before it. R85: a PROBE that
finds a message writes its description at REPLY and answers 1; one that finds none answers 0 and writes nothing. -/
def Obligations.ReceivesMeetMessages : Prop :=
  (∀ (s : State) (c : AdminCmd) (v : Mctx) (q : Qp) (e : Words8) (bus attr : Nat),
    let i := bitsOf c.e.w2 0 16
    s.domState (matDom i) = 2 → Takes s c 0x33 [(2, ones 0 33), (3, ones 0 64), (4, 0), (5, 0), (6, 0), (7, 0)] →
    s.mat.ctxs.get? i = some v → v.fn = c.fn → v.st = .ready → bitsOf c.e.w2 16 17 = 1 → c.e.w3.toNat % 64 = 0 →
    bitsOf c.e.w3 48 16 = 0 → s.ten.qps.get? v.qp = some q → Calm s →
    s.look q.asid (c.e.w3.toNat / 4096) false = .ok bus attr → reOk e = true →
    (bitAt e.w5 32 = true → s.hbmOwned c.fn e.w4.toNat (reLen e) = true) →
    ((∀ m ∈ s.mat.msgs, m.matched = true → m.ctx = i → m.at_ = .unexpected → matches_ e m = false) →
      v.posted.length < v.postMax → s.postedAll < 2 ^ 24 →
      ∃ t w d, exec (.postRecv c (.entries [e])) s = .next t ∧ t.mat.ctxs.get? i = some w ∧
        w.posted = v.posted ++ [{ e := e, onDie := d }] ∧ w.st = .ready ∧ t.mat.msgs = s.mat.msgs ∧
        t.ten = (s.answered c 0 1).ten ∧
        t.out = s.out ++ [.hostRead c.fn s.tra.tag
          (s.hostReads c.fn [{ bus := bus + c.e.w3.toNat % 4096, len := 64, attr := attr }])]) ∧
    (v.postMax ≤ v.posted.length ∨ 2 ^ 24 ≤ s.postedAll →
      ∃ t, exec (.postRecv c (.entries [e])) s = .next t ∧ t.mat = s.mat ∧ t.ten = (s.answered c 0x0C 0).ten) ∧
    (∀ m, (s.mat.msgs.find? fun m => m.matched && m.ctx == i && m.at_ == .unexpected && matches_ e m) = some m → m.rts = true →
      v.posted.length < v.postMax → s.postedAll < 2 ^ 24 → (∀ k, s.tra.tag ≤ k → s.mat.fetches.get? k = none) →
      0 < m.len → 0 < reLen e → s.mat.fetches.wf = true →
      ∃ t k, exec (.postRecv c (.entries [e])) s = .next t ∧
        t.mat.fetches.get? k = some (fetchOf m (reBuffer v.qp q e) { kind := 2, cq := v.cq, cookie := e.w2, ring := 0, ctx := i } false) ∧
        s.mat.fetches.get? k = none ∧ t.mat.msgs = (s.mat.msgs.filter fun k => !(k == m)) ∧
        (t.mat.ctxs.get? i).map Mctx.posted = some v.posted ∧ t.fn c.fn = (s.fn c.fn).answered c 0 (w64 (1 + 2 ^ 17)))) ∧
  (∀ (s : State) (c : AdminCmd) (v : Mctx) (q : Qp) (bus attr : Nat),
    let i := bitsOf c.e.w2 0 16
    let e : Words8 :=
      { w0 := c.e.w3, w1 := c.e.w4, w2 := 0, w3 := w64 (bitsOf c.e.w5 0 41), w4 := 0, w5 := 0, w6 := 0, w7 := 0 }
    s.domState (matDom i) = 2 →
    Takes s c 0x35 [(2, ones 0 16), (3, ones 0 64), (4, ones 0 64), (5, ones 0 64), (6, ones 0 64), (7, 0)] →
    s.mat.ctxs.get? i = some v → v.fn = c.fn → v.st = .ready → bitsOf c.e.w5 42 22 = 0 → c.e.w6.toNat % 32 = 0 →
    bitsOf c.e.w6 48 16 = 0 → s.ten.qps.get? v.qp = some q → Calm s →
    ((∀ m ∈ s.mat.msgs, m.matched = true → m.ctx = i → m.at_ = .unexpected → matches_ e m = false) →
      exec (.probe c) s = .next (s.answered c 0 0)) ∧
    (∀ m, (s.mat.msgs.find? fun m => m.matched && m.ctx == i && m.at_ == .unexpected && matches_ e m) = some m →
      s.look q.asid (c.e.w6.toNat / 4096) true = .ok bus attr →
      ∃ t, exec (.probe c) s = .next t ∧ t.mat = s.mat ∧ t.ten = (s.answered c 0 1).ten ∧
        t.out = s.out ++ s.hostWrites c.fn [{ bus := bus + c.e.w6.toNat % 4096, len := 32, attr := attr }] false (bytesOfWords
          [m.bits, w64 (m.srcNode % 2 ^ 18 + m.srcQp % 2 ^ 21 * 2 ^ 18), w64 (m.len % 2 ^ 32 + b2n m.rts * 2 ^ 32), 0])))

/-- R89: at its hold limit, a held message with MATCHED = 1 for which nothing is posted is presented: the MSNs missing before it
leave its flow, NEXT moves past it, and it joins the unexpected store of its context. R90: a NODE gate entry without messages is
released after four times the stale limit. R95: the target of a matched rendezvous message asks for the next range of at most 1
MiB at REMOTE_ADDR = word 6 plus the offset, against WINDOW_KEY, and then, where a closing GET is due, for 0 bytes at its address.
R100: with room on die, the oldest spilled entry of a slice moves there and the posted list keeps its order. -/
def Obligations.HeldMessagesAndFetchesGoOn : Prop :=
  (∀ (s : State) (m : Msg) (g : Gate) (v : Qp) (x : Mctx), s.mat.msgs = [m] → m.at_ = .held → m.matched = true → m.charged = true →
    s.gate? m.node m.srcNode m.srcQp m.dstQp = some g → g.slots = [(m.msn, .held)] → m.msn ≠ g.next →
    s.ten.qps.get? m.dstQp = some v → s.mctx? m.ctx = some x → x.st = .ready → x.posted = [] → s.fatal = false →
    s.domState (matDom m.dstQp) = 2 → s.xlt.missed = [] →
    ∃ t h, exec (.gateHoldExpiry m.srcNode m.srcQp m.dstQp m.msn) s = .next t ∧
      t.gate? m.node m.srcNode m.srcQp m.dstQp = some h ∧ h.next = m.msn + 1 ∧ h.slots = [] ∧
      t.mat.msgs = [{ m with at_ := .unexpected }] ∧ m.holdEnd ≤ t.now ∧ t.hbm = s.hbm) ∧
  (∀ (s : State) (n q d : Nat) (g : Gate), s.tra.gates.wf = true → s.tra.gates.get? (gateKey n q d) = some g → s.fatal = false →
    s.domState (matDom d) = 2 → (∀ m ∈ s.mat.msgs, m.srcNode ≠ n ∨ m.srcQp ≠ q ∨ m.dstQp ≠ d) →
    ∃ t, exec (.gateEntryRelease n q d) s = .next t ∧ t.tra.gates.get? (gateKey n q d) = none ∧
      (∀ k, k ≠ gateKey n q d → t.tra.gates.get? k = s.tra.gates.get? k) ∧ g.last + 4 * s.staleNs ≤ t.now) ∧
  (∀ (s : State) (i : Nat) (f : Fetch) (v : Qp), s.mat.fetches.get? i = some f → s.ten.qps.get? f.localQp = some v → s.fatal = false →
    s.domState (tenDom f.localQp) = 2 → s.maySend f.sp none = true → (s.space f.sp).resends = [] → f.outs.length < 4 → (∀ k, f.sp = .conn k → k = f.localQp) →
    s.tableFull (f.localQp % 4) = false →
    (f.next < f.want →
      let n := Nat.min (2 ^ 20) (f.want - f.next)
      ∃ t p g, exec (.rendezvousGetIssue i) s = .next t ∧
        t.rte.inject.get? f.tc = some ((s.rte.inject.get? f.tc).getD [] ++ [p]) ∧ p.type = 4 ∧ p.msgLen = n ∧
        p.w4 = f.srcOff + w64 f.next ∧ bitsOf p.w5 32 32 = f.key.toNat ∧ p.pkey = f.pkey ∧ p.srcQp = f.localQp ∧ p.ord = !v.spray ∧
        p.psn = (s.space f.sp).sendNext ∧ t.mat.fetches.get? i = some { f with next := f.next + n, outs := f.outs ++ [g] } ∧
        g.psn = p.psn ∧ g.base = f.next ∧ g.len = n ∧ g.got = 0 ∧ t.out = s.out ∧ t.hbm = s.hbm) ∧
    (∀ a, f.want ≤ f.next → f.closing = .due a →
      ∃ t p, exec (.rendezvousGetIssue i) s = .next t ∧
        t.rte.inject.get? f.tc = some ((s.rte.inject.get? f.tc).getD [] ++ [p]) ∧ p.type = 4 ∧ p.msgLen = 0 ∧ p.w4 = a ∧
        bitsOf p.w5 32 32 = f.key.toNat ∧ t.mat.fetches.get? i = some { f with closing := .sent p.psn s.now })) ∧
  (∀ (s : State) (slice i : Nat) (x : Mctx) (a b : List Posted) (p : Posted), s.fatal = false → slice < 4 → s.domState (73 + slice) = 2 →
    s.postedOf slice true < 65536 →
    (s.mat.ctxs.find? fun c => c.1 % 4 == slice && c.2.posted.any fun p => !p.onDie) = some (i, x) → s.mat.ctxs.get? i = some x →
    x.posted = a ++ p :: b →
    (∀ y ∈ a, y.onDie = true) → p.onDie = false →
    exec (.spillRestore slice) s = .next
      { s with mat.ctxs := s.mat.ctxs.upd i fun x => { x with posted := a ++ { p with onDie := true } :: b } })

/-! ### Windows (05_remote) -/

/-- R106, R108 to R111, Table 5.2: OPEN_WINDOW of arguments in range opens a window under its current GEN and answers the key;
REVOKE_WINDOW advances GEN, sets REVOKING and ends every GET with bytes unsent, which ABANDONED counts; with nothing in flight the revoke
completes into QUARANTINE; the quarantine ends FREE with GEN kept and the other fields at their reset values (the model's choice, log
63); QUERY_WINDOW answers STATE and GEN. -/
def Obligations.WindowsOpenRevokeAndFree : Prop :=
  (∀ (s : State) (c : AdminCmd) (i : Nat), Takes s c 0x40
      [(2, ones 0 54 + ones 63 1), (3, ones 0 48), (4, ones 0 53), (5, ones 0 39), (6, ones 0 24), (7, 0)] →
    (if bitAt c.e.w2 63 then some (bitsOf c.e.w6 0 24) else s.freeWin) = some i → transient i = false → (s.win i).st = .free →
    (s.win i).revoke = none → s.quotaOk c.fn .window 1 = true →
    (bitAt c.e.w2 49 = true ∨ bitAt c.e.w2 50 = true ∨ bitAt c.e.w2 51 = true) → 0 < bitsOf c.e.w3 0 48 →
    bitsOf c.e.w2 0 48 + bitsOf c.e.w3 0 48 ≤ 2 ^ 48 → (bitAt c.e.w2 51 = true → bitsOf c.e.w2 0 48 % 8 = 0) →
    (bitAt c.e.w2 48 = true → s.hbmOwned c.fn (bitsOf c.e.w2 0 48) (bitsOf c.e.w3 0 48) = true) →
    (bitAt c.e.w2 48 = false → s.granted c.fn (bitsOf c.e.w4 21 20) = true) →
    (bitAt c.e.w2 53 = true ∨
      ∃ q, s.ten.qps.get? (bitsOf c.e.w4 0 21) = some q ∧ q.fn = c.fn ∧ q.st ≠ .error ∧ q.st ≠ .quarantine) →
    (s.ten.eqs.get? (bitsOf c.e.w4 41 12)).map Eq.fn = some c.fn →
    ∃ t v, exec (.openWindow c) s = .next t ∧ t.wins = s.wins.set i v ∧ v.st = .open_ ∧ v.gen = (s.win i).gen ∧
      v.base = bitsOf c.e.w2 0 48 ∧ v.len = bitsOf c.e.w3 0 48 ∧ v.hbm = bitAt c.e.w2 48 ∧ v.read = bitAt c.e.w2 49 ∧
      v.write = bitAt c.e.w2 50 ∧ v.atomic = bitAt c.e.w2 51 ∧ v.anySrc = bitAt c.e.w2 52 ∧ v.anyQp = bitAt c.e.w2 53 ∧
      v.bindQp = bitsOf c.e.w4 0 21 ∧ v.owner = c.fn ∧
      v.asid = (if bitAt c.e.w2 48 then 0 else bitsOf c.e.w4 21 20) ∧ v.eq = bitsOf c.e.w4 41 12 ∧
      v.srcNode = bitsOf c.e.w5 0 18 ∧ v.srcQp = bitsOf c.e.w5 18 21 ∧
      t = { s.answered c 0 (w64 (i * 256 + (s.win i).gen.toNat)) with wins := t.wins }) ∧
  (∀ (s : State) (c : AdminCmd) (v : Window), let i := bitsOf c.e.w2 8 24
    Takes s c 0x41 [(2, ones 0 32), (3, 0), (4, 0), (5, 0), (6, 0), (7, 0)] → s.wins.get? i = some v → transient i = false →
    v.st = .open_ → v.owner = c.fn → v.gen.toNat = bitsOf c.e.w2 0 8 → v.revoke = none →
    ∃ t, exec (.revokeWindow c) s = .next t ∧ t.wins.get? i = some { v with
        st := .revoking, gen := v.gen + 1, revoke := some { fn := c.fn, cookie := c.e.w1, index := (s.fn c.fn).asqCons.toNat % 2 ^ 16 },
        abandoned := Nat.min 65535 (s.tra.resps.filter fun r => r.2.win == i && !r.2.atomic && !r.2.allSent && !r.2.gone).length } ∧
      (∀ k, k ≠ i → t.wins.get? k = s.wins.get? k) ∧
      (∀ r ∈ t.tra.resps, r.2.win = i → r.2.atomic = false → r.2.allSent = true ∨ r.2.gone = true) ∧
      (t.fn c.fn).acqWait = (s.fn c.fn).acqWait ∧ t.hbm = s.hbm) ∧
  (∀ (s : State) (i : Nat) (v : Window) (r : CmdRef), s.wins.get? i = some v → v.st = .revoking → v.revoke = some r → s.fatal = false →
    (∀ x ∈ s.tra.resps, x.2.win ≠ i) → fnOk r.fn = true → (s.fn r.fn).drain = none →
    exec (.revokeComplete i) s = .next
      (({ s with wins := s.wins.set i { v with st := .quarantine, quarAt := s.now, revoke := none } }.setFn r.fn { s.fn r.fn with
        acqWait := (s.fn r.fn).acqWait ++ [(r, 0, w64 v.abandoned)], running := (s.fn r.fn).running - 1 }).forget fun a =>
          a == Asker.cmd r.fn)) ∧
  (∀ (s : State) (c : AdminCmd) (v : Window), let i := bitsOf c.e.w2 0 24
    Takes s c 0x42 [(2, ones 0 24), (3, 0), (4, 0), (5, 0), (6, 0), (7, 0)] → s.wins.get? i = some v → transient i = false →
    v.owner = c.fn → v.st = .open_ → v.revoke = none →
    exec (.queryWindow c) s = .next (s.answered c 0 (w64 (1 + v.gen.toNat * 4 + s.winFlight i % 2 ^ 22 * 2 ^ 10)))) ∧
  (∀ (s : State) (i : Nat) (v : Window), s.wins.get? i = some v → v.st = .quarantine → (s.fn v.owner).drain = none →
    ∃ t, exec (.windowQuarantineEnd i) s = .next t ∧ t.wins = s.wins.set i { winInit with gen := v.gen } ∧
      s.quarEnd v.quarAt ≤ t.now ∧ t.hbm = s.hbm)

/-- R112, R114, R116, R119, Table 5.3: the first failing check decides the NAK and the counter of a PUT, GET_REQ or ATOMIC_REQ
with the next PSN, and nothing of the window is touched; a GET_REQ that passes gets one response of its MSG_LEN at the window's
place, and its first read is issued, of HBM or at the translated bus address; an ATOMIC_REQ that passes is handed once to the HBM
interface, or as one AtomicOp to the owner's host port. R115, R116, R117, Table 5.4: an atomic on HBM replaces the 4 or 8 bytes at
its address by the new value of its operation, changes no other byte, and answers the old value; a host AtomicOp answers the old
value that the completion carries, and UR, CA, poisoned data or a timeout end it with a late NAK OP; a host read for a response
fills its buffer. -/
def Obligations.WindowAccessesAreCheckedAndComplete : Prop :=
  (∀ (s : State) (p : Packet) (v : Qp), Served s (recvDoms p) → p.type = 3 ∨ p.type = 4 ∨ p.type = 6 → p.node = false →
    s.target p = some v → v.everReady = true → v.st = .ready → v.sp.recvE = p.psn → v.sp.recvMap = 0 → v.pkey = p.pkey →
    p.pkey ∈ (s.fn v.fn).keys →
    let w := s.win (winIdx p)
    (s.fn v.fn).state = 1 ∨ w.hbm = true → transient (winIdx p) = false →
    (w.gen ≠ winGen p → exec (.transportPacketReceive p) s = .next (s.winRefuse p 6 1)) ∧
    (w.gen = winGen p → w.st ≠ .open_ → exec (.transportPacketReceive p) s = .next (s.winRefuse p 5 0)) ∧
    (w.gen = winGen p → w.st = .open_ → w.owner ≠ v.fn ∨ (w.anyQp = false ∧ w.bindQp ≠ p.dstQp) →
      exec (.transportPacketReceive p) s = .next (s.winRefuse p 5 2)) ∧
    (w.gen = winGen p → w.st = .open_ → w.owner = v.fn → w.anyQp = true ∨ w.bindQp = p.dstQp →
      (w.anySrc = false ∧ (w.srcNode ≠ p.srcNode ∨ w.srcQp ≠ p.srcQp) →
        exec (.transportPacketReceive p) s = .next (s.winRefuse p 5 2)) ∧
      (w.anySrc = true ∨ (w.srcNode = p.srcNode ∧ w.srcQp = p.srcQp) →
        (p.type = 3 ∧ w.write = false ∨ p.type = 4 ∧ w.read = false ∨ p.type = 6 ∧ w.atomic = false →
          exec (.transportPacketReceive p) s = .next (s.winRefuse p 7 3)) ∧
        (p.type = 4 → w.read = true → w.len < p.w4.toNat + p.msgLen →
          exec (.transportPacketReceive p) s = .next (s.winRefuse p 7 4)) ∧
        (p.type = 4 → w.read = true → p.w4.toNat + p.msgLen ≤ w.len → 0 < p.msgLen → 0 < v.mtu → Calm s →
          let a := w.base + p.w4.toNat
          let n := Nat.min v.mtu p.msgLen
          let r : Resp := { respOf p v a none with rd := some { off := 0, len := n, tag := some (s.tra.tag + 1), bytes := [] } }
          (w.hbm = true →
            ∃ t, exec (.transportPacketReceive p) s = .next t ∧ t.tra.resps = s.tra.resps.set s.tra.tag r ∧
              t.tra.hreqs = s.tra.hreqs.set (s.tra.tag + 1)
                { fn := w.owner, for_ := .resp s.tra.tag, segs := [(true, a, n)], reqs := 0, atom := none } ∧
              t.wins = s.wins ∧ t.hbm = s.hbm ∧ t.out = s.out ∧ (t.space (.conn p.dstQp)).recvE = p.psn + 1) ∧
          (∀ bus attr, w.hbm = false → a % 4096 + n ≤ 4096 → s.look w.asid (a / 4096) false = .ok bus attr →
            s.fnReady w.owner = true → s.portRoom w.owner = true →
            ∃ t, exec (.transportPacketReceive p) s = .next t ∧ t.tra.resps = s.tra.resps.set s.tra.tag r ∧
              t.out = s.out ++ [.hostRead w.owner (s.tra.tag + 1)
                (s.hostReads w.owner [{ bus := bus + a % 4096, len := n, attr := attr }])] ∧
              t.wins = s.wins ∧ t.hbm = s.hbm ∧ (t.space (.conn p.dstQp)).recvE = p.psn + 1)) ∧
        (p.type = 6 → w.atomic = true → bitsOf p.w5 0 2 ≠ 3 → p.w4.toNat + atomSize p ≤ w.len → p.w4.toNat % atomSize p = 0 →
          let a := w.base + p.w4.toNat
          (w.hbm = true →
            ∃ t, exec (.transportPacketReceive p) s = .next t ∧ t.tra.hreqs = s.tra.hreqs.set (s.tra.tag + 1) {
                fn := w.owner, for_ := .atom s.tra.tag, segs := [(true, a, atomSize p)], reqs := 0,
                atom := some { aop := bitsOf p.w5 0 2, wide := bitAt p.w5 2, operand := p.w6, compare := hdrWord3 p } } ∧
              t.tra.resps = s.tra.resps.set s.tra.tag (respOf p v a none) ∧
              t.hbm = s.hbm ∧ t.out = s.out ∧ (t.space (.conn p.dstQp)).recvE = p.psn + 1) ∧
          (∀ bus attr, w.hbm = false → w.base % 8 = 0 → s.atomUsable (fnPort w.owner) = true → s.atomsOut (fnPort w.owner) < 256 →
            Calm s → s.look w.asid (a / 4096) true = .ok bus attr →
            ∃ t, exec (.transportPacketReceive p) s = .next t ∧
              t.out = s.out ++ [.hostAtomic w.owner (s.tra.tag + 1) (bus + a % 4096) (bitsOf p.w5 0 2) (bitAt p.w5 2)
                (attr == 1 && s.snoopOff w.owner) p.w6 (hdrWord3 p)] ∧
              t.tra.resps = s.tra.resps.set s.tra.tag (respOf p v a none) ∧
              t.hbm = s.hbm ∧ (t.space (.conn p.dstQp)).recvE = p.psn + 1))))) ∧
  (∀ (s : State) (tag i a n : Nat) (r : HReq) (op : AtomOp) (v : Resp), memWf s.hbm = true → s.tra.hreqs.get? tag = some r → s.fatal = false →
    r.for_ = .atom i → r.atom = some op → n = (if op.wide then 8 else 4) → r.segs = [(true, a, n)] → s.tra.resps.get? i = some v →
    v.allSent = false →
    let old := natOfBytes (s.hbmRead a n)
    ∃ t, exec (.hbmAccessComplete tag) s = .next t ∧ t.tra.resps.get? i = some { v with value := w64 old, ready := true } ∧
      (∀ x, x < a ∨ a + n ≤ x → memGet t.hbm x = memGet s.hbm x) ∧
      natOfBytes (t.hbmRead a n) = (match op.aop with
        | 0 => (old + op.operand.toNat) % 2 ^ (8 * n)
        | 1 => op.operand.toNat % 2 ^ (8 * n)
        | _ => if old = op.compare.toNat % 2 ^ (8 * n) then op.operand.toNat % 2 ^ (8 * n) else old) ∧
      t.ten = s.ten ∧ t.out = s.out) ∧
  (∀ (s : State) (tag i : Nat) (old : Word) (r : HReq) (op : AtomOp) (v : Resp), s.tra.hreqs.get? tag = some r → s.fatal = false →
    r.for_ = .atom i → r.atom = some op → 0 < r.hostLen → s.tra.resps.get? i = some v → s.linkSecure r.fn = true → v.allSent = false →
    v.gone = false →
    (∃ t, exec (.hostAtomicopComplete tag .ok old) s = .next t ∧ t.tra.hreqs = s.tra.hreqs.erase tag ∧
      t.tra.resps.get? i = some { v with value := if op.wide then old else w64 (old.toNat % 2 ^ 32), ready := true } ∧ t.hbm = s.hbm) ∧
    (∀ st, st ≠ .ok → exec (.hostAtomicopComplete tag st old) s =
      .next (((s.dropReq tag).hostFault r (if st = .poisoned then 3 else 4)).respFail i 0x0E 0)) ∧
    exec (.hostCompletionTimeout tag) s = .next (((s.dropReq tag).hostFault r 2).respFail i 0x0E 0)) ∧
  (∀ (s : State) (tag i bus : Nat) (data : List Byte) (r : HReq) (v : Resp) (b : ReadBuf), s.tra.hreqs.get? tag = some r →
    s.fatal = false → r.for_ = .resp i → r.atom = none → data ≠ [] → r.segs = [(false, bus, data.length)] →
    s.tra.resps.get? i = some v → v.rd = some b → b.tag = some tag → v.allSent = false → s.linkSecure r.fn = true →
    ∃ t, exec (.hostReadComplete tag .ok data) s = .next t ∧ t.tra.hreqs = s.tra.hreqs.erase tag ∧
      t.tra.resps.get? i = some { v with rd := some { b with tag := none, bytes := data } } ∧ t.ten = s.ten ∧ t.out = s.out)

/-! ### Collective operations (06_collectives) -/

/-- R126 to R128, R138, R145, R147, R150, Table 6.2: CREATE_GROUP with a valid tree reads the description, makes a JOINING group, reserves
its staging and answers it; DESTROY_GROUP of a group without an operation sends ABORT on every edge and puts it into ERROR with reason
DESTROYED; after the flush it goes into QUARANTINE and the command completes; the quarantine ends FREE, with the last GEN remembered;
QUERY_GROUP answers, with the OP_SEQ of the next operation. -/
def Obligations.GroupsAreCreatedAndDestroyed : Prop :=
  (∀ (s : State) (c : AdminCmd) (bs : List Byte), let g := bitsOf c.e.w2 0 16
    let n := bitsOf c.e.w3 33 8
    s.domState (colDom g) = 2 → Takes s c 0x50 [(2, ones 0 60), (3, ones 0 41), (4, ones 0 64), (5, 0), (6, 0), (7, 0)] →
    s.grps.get? g = none → c.e.w4.toNat % 64 = 0 → CmdSees s c.fn (bitsOf c.e.w2 40 20) c.e.w4 (treeLen (.bytes bs)) →
    s.quotaOk c.fn .group 1 = true →
    (n ≠ 0 → ∃ v, s.ten.qps.get? (bitsOf c.e.w3 0 21) = some v ∧ v.fn = c.fn ∧ v.st ≠ .error ∧ v.st ≠ .quarantine) →
    (s.ten.eqs.get? (bitsOf c.e.w3 21 12)).map Eq.fn = some c.fn → BitVec.ofNat 16 (bitsOf c.e.w2 24 16) ∈ (s.fn c.fn).keys →
    s.treeOk bs = true → treeEdges bs (s.now + s.edgeT) ≠ [] →
    (n ≠ 0 ∨ (treeEdges bs (s.now + s.edgeT)).any (·.up) = true) →
    s.storeUsed + stagingOf (bitsOf (treeWord bs 0) 26 7) s.cwin * 64 ≤ s.storeGrains →
    ∃ t v, exec (.createGroup c (.bytes bs)) s = .next t ∧ t.grps = s.grps.set g v ∧ v.st = .joining ∧
      v.gen = BitVec.ofNat 8 (bitsOf c.e.w2 16 8) ∧ v.fn = c.fn ∧ v.localN = n ∧ v.cwin = s.cwin ∧ v.opSeq = 0 ∧ v.op = none ∧
      v.edges = treeEdges bs (s.now + s.edgeT) ∧ v.staging = stagingOf (bitsOf (treeWord bs 0) 26 7) s.cwin ∧
      t.ten = (s.answered c 0 (w64 v.staging)).ten) ∧
  (∀ (s : State) (c : AdminCmd) (v : Group), let g := bitsOf c.e.w2 0 16
    s.domState (colDom g) = 2 → Takes s c 0x51 [(2, ones 0 16), (3, 0), (4, 0), (5, 0), (6, 0), (7, 0)] → s.grps.get? g = some v →
    v.fn = c.fn → v.live = true → v.op = none → v.destroy = none → s.xlt.missed = [] →
    ∃ t w, exec (.destroyGroup c) s = .next t ∧ t.grps.get? g = some w ∧ w.st = .error ∧ w.reason = 6 ∧
      w.destroy = some { fn := c.fn, cookie := c.e.w1, index := (s.fn c.fn).asqCons.toNat % 2 ^ 16 } ∧ w.staging = v.staging ∧
      (t.rte.entering.drop s.rte.entering.length).map (fun b => (b.1, b.2.type, b.2.dstNode, bitsOf b.2.w6 0 8)) =
        v.edges.map fun e => (e.port, 0x13, e.node, 6)) ∧
  (∀ (s : State) (g : Nat) (v : Group) (r : CmdRef), s.grps.get? g = some v → v.destroy = some r → s.fatal = false →
    (v.localN = 0 ∨ s.ten.qps.get? v.bindQp = none) → fnOk r.fn = true → (s.fn r.fn).drain = none →
    exec (.groupDestroyComplete g) s = .next (((s.updGrp g fun v => { v with
      st := .quarantine, edges := [], op := none, chunks := [], staging := 0, destroy := none, quarAt := s.now,
      waiting := none }).setFn r.fn { s.fn r.fn with
        acqWait := (s.fn r.fn).acqWait ++ [(r, 0, 0)], running := (s.fn r.fn).running - 1 }).forget fun a => a == Asker.cmd r.fn)) ∧
  (∀ (s : State) (c : AdminCmd) (v : Group), let g := bitsOf c.e.w2 0 16
    s.domState (colDom g) = 2 → Takes s c 0x52 [(2, ones 0 16), (3, 0), (4, 0), (5, 0), (6, 0), (7, 0)] → s.grps.get? g = some v →
    v.fn = c.fn → v.destroy = none →
    exec (.queryGroup c) s = .next (s.answered c 0 (w64 (v.st.code + v.gen.toNat * 2 ^ 3
      + (v.opSeq + if v.op.any (·.active) = true then 1 else 0).toNat * 2 ^ 11
      + (if v.st = .error then v.reason else 0) * 2 ^ 27 + (v.edges.filter fun e => !e.joined).length * 2 ^ 35)))) ∧
  (∀ (s : State) (g : Nat) (v : Group), s.grps.get? g = some v → v.st = .quarantine → (s.fn v.fn).drain = none →
    ∃ t, exec (.groupQuarantineEnd g) s = .next t ∧ t.grps = s.grps.set g (grpInit v.lastGen) ∧ s.quarEnd v.quarAt ≤ t.now)

/-- R137: the checks of a collective packet, in order: a reserved PASS, an unknown group or GEN, a wrong PKEY and a source that is
no edge are each counted in their COL_DISCARD and discarded; a packet for a group in ERROR is discarded uncounted. R137 check 5:
an UP or DOWN packet from the wrong direction moves the group to ERROR with reason MISMATCH. R131, R137 to R139, R127, R145, R147:
a first UP or DOWN packet of an operation at a member whose own job has not come is held in its slot, gives the descriptor, and a
DOWN one is owed to every child; a CREDIT raises LIMIT and joins its edge, and the last edge to join makes the group READY; an
ABORT puts the group into ERROR with its REASON and goes on over every other edge. -/
def Obligations.CollectivePacketsAreCheckedAndAct : Prop :=
  (∀ (s : State) (i : Nat) (p : Packet), Served s [colDom (pkGroup p)] →
    ∀ c ∈ [(0x10, Instr.collUpReceive i p), (0x11, .collDownReceive i p), (0x12, .collCredit i p), (0x13, .collAbort i p)],
      (0x14 ≤ p.type → p.type ≤ 0x17 → exec c.2 s = .next (s.collDiscard 3)) ∧
      (p.type = c.1 → (pkPass p = 3 → exec c.2 s = .next (s.collDiscard 3)) ∧
        (pkPass p ≠ 3 → (s.grps.get? (pkGroup p) = none → exec c.2 s = .next (s.collDiscard 0)) ∧
          ∀ v, s.grps.get? (pkGroup p) = some v →
            (v.gen ≠ pkGen p → exec c.2 s = .next (s.collDiscard 0)) ∧
            (v.gen = pkGen p → v.st = .error → exec c.2 s = .next s) ∧
            (v.st = .free ∨ v.st = .quarantine → exec c.2 s = .next (s.collDiscard 0)) ∧
            (v.gen = pkGen p → v.live = true →
              (v.pkey ≠ p.pkey → exec c.2 s = .next (s.collDiscard 1)) ∧
              (v.pkey = p.pkey → v.edge? p.srcNode = none → exec c.2 s = .next (s.collDiscard 2)) ∧
              ∀ e, v.pkey = p.pkey → v.edge? p.srcNode = some e → v.op = none →
                (c.1 = 0x10 ∧ e.up = true ∨ c.1 = 0x11 ∧ e.up = false ∨ c.1 = 0x12 ∧ e.up = bitAt p.w6 32) →
                exec c.2 s = .next (s.groupError (pkGroup p) (s.localCause 3 0x0E)))))) ∧
  (∀ (s : State) (i : Nat) (p : Packet) (v : Group) (e : Edge), Served s [colDom (pkGroup p)] → pkPass p ≠ 3 →
    s.grps.get? (pkGroup p) = some v → v.gen = pkGen p → v.pkey = p.pkey → v.edge? p.srcNode = some e → v.op = none →
    (v.st = .ready → v.localN ≠ 0 → collFits v e p true = true → pkOpSeq p = v.opSeq → p.type = 0x10 → pkPass p = 1 →
      ∃ t w c, exec (.collUpReceive i p) s = .next t ∧ t.grps.get? (pkGroup p) = some w ∧ w.chunks = v.chunks ++ [c] ∧
        c.bytes = p.payload ∧ c.src = .edge p.srcNode ∧ c.pass = 1 ∧ c.idx = pkChunk p ∧ c.count = bitsOf p.w6 0 21 ∧
        w.op = some (opInit (descOf p.w5 p.msgLen) false) ∧ w.st = .ready ∧
        (w.edge? p.srcNode).map Edge.recvd = some (e.recvd + 1)) ∧
    (v.st = .ready → v.localN ≠ 0 → collFits v e p false = true → pkOpSeq p = v.opSeq → p.type = 0x11 → pkPass p = 1 →
      (∀ k ∈ v.chunks, k.used = false) →
      ∃ t w c, exec (.collDownReceive i p) s = .next t ∧ t.grps.get? (pkGroup p) = some w ∧ w.chunks = v.chunks ++ [c] ∧
        c.bytes = p.payload ∧ c.src = .edge p.srcNode ∧ c.pass = 1 ∧ c.idx = pkChunk p ∧
        w.op = some { opInit (descOf p.w5 p.msgLen) false with
          owed := v.kids.map fun k =>
            { node := k.node, up := false, pass := 1, idx := pkChunk p, bytes := p.payload, count := 0 } }) ∧
    (v.live = true → p.type = 0x12 → e.up ≠ bitAt p.w6 32 →
      ∃ t w x, exec (.collCredit i p) s = .next t ∧ t.grps.get? (pkGroup p) = some w ∧ w.edge? p.srcNode = some x ∧
        x.joined = true ∧ x.rxDue = s.now + s.edgeT ∧
        x.limit = (if later16 (BitVec.ofNat 16 (bitsOf p.w6 0 16)) e.limit then BitVec.ofNat 16 (bitsOf p.w6 0 16) else e.limit) ∧
        (v.st = .joining → (∀ k ∈ v.edges, k.node ≠ p.srcNode → k.joined = true) → w.st = .ready) ∧
        (v.st = .joining → (∃ k ∈ v.edges, k.node ≠ p.srcNode ∧ k.joined = false) → w.st = .joining)) ∧
    (v.live = true → p.type = 0x13 →
      ∃ t w, exec (.collAbort i p) s = .next t ∧ t.grps.get? (pkGroup p) = some w ∧ w.st = .error ∧ w.reason = bitsOf p.w6 0 8 ∧
        (t.rte.entering.drop s.rte.entering.length).map (fun b => (b.1, b.2.type, b.2.dstNode, bitsOf b.2.w6 0 8)) =
          (v.edges.filter fun k => k.node != p.srcNode).map fun k => (k.port, 0x13, k.node, bitsOf p.w6 0 8)))

/-- R139, R138, R146, R127: a relay sends the combined chunk of its children up under credit, and an owed DOWN chunk to its child; while
JOINING it repeats CREDIT on the edges not yet joined; CREDIT keeps an edge alive on which it owes a packet; an awaited edge that stays
silent for EDGE_TIMEOUT, and an operation that outlasts OP_TIMEOUT, put the group into ERROR with reason TIMEOUT. -/
def Obligations.CollectiveChunksMoveAndTimersExpire : Prop :=
  (∀ (s : State) (g : Nat) (v : Group) (o : CollOp) (e : Edge) (bs : List Byte) (n : Nat), s.live = true → s.domState (colDom g) = 2 →
    s.xlt.missed = [] → s.grps.get? g = some v → v.st = .ready → v.op = some o → v.localN = 0 → o.jobs = [] →
    v.edges.find? (·.up) = some e → mayNumber e.limit e.sendSeq = true → o.owed = [] → o.desc.op = 3 → o.desc.mode = 0 →
    o.dataUp < o.desc.chunks → v.combined o 1 o.dataUp = some (bs, n) →
    ∃ t p rest, exec (.collChunkSend g true 0) s = .next t ∧ t.rte.entering = s.rte.entering ++ (e.port, p) :: rest ∧
      p.type = 0x10 ∧ p.tc = 1 ∧ p.dstNode = e.node ∧ p.pkey = v.pkey ∧ p.offset = o.dataUp * 256 ∧
      p.w4 = collWord4 g v.gen.toNat v.opSeq.toNat 1 o.dataUp ∧ p.w5 = descWord o.desc e.sendSeq ∧ p.payload = bs ∧
      p.w6 = w64 (n % 2 ^ 21) ∧ t.hbm = s.hbm ∧ t.out = s.out) ∧
  (∀ (s : State) (g k : Nat) (v : Group) (o : CollOp) (e : Edge) (w : Owed), s.live = true → s.domState (colDom g) = 2 →
    s.xlt.missed = [] → s.grps.get? g = some v → v.st = .ready → v.op = some o → o.active = false → v.chunks = [] →
    v.kids[k]? = some e → mayNumber e.limit e.sendSeq = true → (o.owed.find? fun w => !w.up && w.node == e.node) = some w →
    ∃ t p x, exec (.collChunkSend g false k) s = .next t ∧ t.rte.entering = s.rte.entering ++ [(e.port, p)] ∧
      p.type = 0x11 ∧ p.dstNode = e.node ∧ p.w4 = collWord4 g v.gen.toNat v.opSeq.toNat w.pass w.idx ∧
      p.w5 = descWord o.desc e.sendSeq ∧ p.payload = w.bytes ∧ t.grps.get? g = some x ∧
      x.op = some { o with owed := o.owed.erase w }) ∧
  (∀ (s : State) (g : Nat) (v : Group), s.fatal = false → s.domState (colDom g) = 2 → s.grps.get? g = some v → v.st = .joining →
    ∃ t, exec (.joinIntervalExpiry g) s = .next t ∧ v.joinAt ≤ t.now ∧ (t.grps.get? g).map Group.joinAt = some (t.now + s.joinT) ∧
      ((v.edges.map fun e => e.node).Nodup →
        (t.rte.entering.drop s.rte.entering.length).map (fun b => (b.1, b.2.type, b.2.dstNode)) =
          (v.edges.filter fun e => !e.joined).map fun e => (e.port, 0x12, e.node))) ∧
  (∀ (s : State) (g : Nat) (v : Group) (o : CollOp) (e : Edge), s.fatal = false → s.domState (colDom g) = 2 →
    s.grps.get? g = some v → v.st = .ready → v.op = some o → o.active = true → (v.edges.filter fun e => v.owes o e) = [e] →
    v.edge? e.node = some e →
    ∃ t p, exec (.collKeepalive g) s = .next t ∧ e.txDue ≤ t.now ∧ t.rte.entering = s.rte.entering ++ [(e.port, p)] ∧
      p.type = 0x12 ∧ p.dstNode = e.node ∧ bitsOf p.w6 0 16 = (grantOf v e).toNat ∧ bitAt p.w6 32 = e.up) ∧
  (∀ (s : State) (g n : Nat) (v : Group) (o : CollOp) (e : Edge), s.fatal = false → s.domState (colDom g) = 2 →
    s.grps.get? g = some v → v.st = .ready → v.op = some o → o.active = true → v.edge? n = some e → v.needs o e = true →
    e.peerOp = some v.opSeq → e.gapDue = none →
    exec (.edgeTimeout g n) s = .next ((s.passTo e.rxDue).groupError g
      { reason := 2, status := 0x0E, here := true, node := s.node, port := e.port, except_ := none })) ∧
  (∀ (s : State) (g t0 : Nat) (v : Group) (o : CollOp), s.fatal = false → s.domState (colDom g) = 2 → s.grps.get? g = some v →
    v.live = true → v.op = some o → o.jobs ≠ [] → o.due = some t0 →
    exec (.opTimeout g) s = .next ((s.passTo t0).groupError g
      { reason := 2, status := 0x0E, here := true, node := s.node, port := 127, except_ := none }))

/-- R141, R143: the slice-sum of contributions does not depend on their order: chunks of equal length of either pass, combined in any
order, give the same bytes. -/
def Obligations.SliceSumsDoNotDependOnOrder : Prop :=
  ∀ (d : CollDesc) (pass n : Nat) (a b : List Byte) (as bs : List (List Byte)), d.mode = 1 → pass ≤ 1 →
    n % (if pass = 0 then 2 else 8) = 0 → (∀ x ∈ a :: as, x.length = n) → (a :: as).Perm (b :: bs) →
    as.foldl (mixChunk d pass) a = bs.foldl (mixChunk d pass) b

/-! ### Address translation (07_translation) -/

/-- R152, R153, R168, Table 7.1: CREATE_ASID names a free address space, owned by the issuing function and granted to it or to a
virtual function of its port; MODIFY_ASID and INVALIDATE take every cached leaf that overlaps the range out of the cache, let no
walk in progress fill it, leave other address spaces alone, and complete only when no such walk is left; DESTROY_ASID frees one
that nothing is bound to. R164, R165, R170, Table 7.6: a mark trap takes a slot and writes MARK_REQUEST; RESUME drops the cached
leaf and asks for a new walk, answers 0 where no trap is outstanding, and with ABORT fails the job XLATE_FAULT at once; without
RESUME the job fails MARK_TIMEOUT. -/
def Obligations.AddressSpacesAndTrapsDoAsTabled : Prop :=
  (∀ (s : State) (c : AdminCmd), s.domState 85 = 2 →
    Takes s c 0x60 [(2, ones 12 40 + ones 63 1), (3, ones 0 31), (4, 0), (5, 0), (6, 0), (7, 0)] →
    (bitsOf c.e.w3 20 11 = 0 ∨ isPf c.fn = true ∧ bitsOf c.e.w3 20 11 ≤ 1024) → ∀ i,
    (if bitAt c.e.w2 63 then i = bitsOf c.e.w3 0 20 ∧ i ≠ 0 ∧ s.xlt.asids.get? i = none
      else i = firstFree 1 s.xlt.asids.keys ∧ i < 2 ^ 20) → s.quotaOk c.fn .asid 1 = true →
    let a : Asid := ⟨bitsOf c.e.w2 12 40 * 4096, c.fn, c.fn + bitsOf c.e.w3 20 11⟩
    exec (.createAsid c) s = .next ({ s with xlt.asids := s.xlt.asids.set i a }.answered c 0 (w64 i))) ∧
  (∀ (s : State) (c : AdminCmd) (a : Asid), let i := bitsOf c.e.w2 0 20
    s.domState 85 = 2 → s.xlt.asids.get? i = some a → a.owner = c.fn →
    (Takes s c 0x61 [(2, ones 0 20), (3, ones 12 40), (4, 0), (5, 0), (6, 0), (7, 0)] →
      ∃ t, exec (.modifyAsid c) s = .next t ∧ Uncached s t c i 0 (2 ^ 36) ∧
        t.xlt.asids = s.xlt.asids.set i { a with root := bitsOf c.e.w3 12 40 * 4096 }) ∧
    (Takes s c 0x63 [(2, ones 0 21), (3, ones 12 36), (4, ones 0 37), (5, 0), (6, 0), (7, 0)] →
      (bitAt c.e.w2 20 = true → ∃ t, exec (.invalidate c) s = .next t ∧ Uncached s t c i 0 (2 ^ 36) ∧ t.xlt.asids = s.xlt.asids) ∧
      (bitAt c.e.w2 20 = false → 1 ≤ bitsOf c.e.w4 0 37 → bitsOf c.e.w3 12 36 + bitsOf c.e.w4 0 37 ≤ 2 ^ 36 →
        ∃ t, exec (.invalidate c) s = .next t ∧
          Uncached s t c i (bitsOf c.e.w3 12 36) (bitsOf c.e.w3 12 36 + bitsOf c.e.w4 0 37) ∧ t.xlt.asids = s.xlt.asids))) ∧
  (∀ (s : State) (i : Nat) (r : CmdRef), s.xlt.invals.get? i = some [r] → s.fatal = false →
    (∀ w ∈ s.xlt.walks, w.2.req.asid = i → w.2.fills = true) →
    (∀ e ∈ s.xlt.ends, e.1.asid = i → ∀ bus attr, e.2 ≠ .once bus attr) → fnOk r.fn = true → (s.fn r.fn).drain = none →
    ∃ t, exec (.invalidateComplete i) s = .next t ∧ t.xlt.invals = s.xlt.invals.erase i ∧
      (t.fn r.fn).acqWait = (s.fn r.fn).acqWait ++ [(r, 0, 0)] ∧ t.xlt.tlb = s.xlt.tlb) ∧
  (∀ (s : State) (c : AdminCmd) (a : Asid), let i := bitsOf c.e.w2 0 20
    s.domState 85 = 2 → Takes s c 0x62 [(2, ones 0 20), (3, 0), (4, 0), (5, 0), (6, 0), (7, 0)] → s.xlt.asids.get? i = some a →
    a.owner = c.fn → s.xlt.invals.get? i = none →
    (s.asidBound i = true → exec (.destroyAsid c) s = .next (s.answered c 0x02 0)) ∧
    (s.asidBound i = false → ∃ t, exec (.destroyAsid c) s = .next t ∧ t.xlt.asids = s.xlt.asids.erase i ∧
      (∀ l ∈ t.xlt.tlb, ∀ x, x < 2 ^ 36 → l.covers i x = false) ∧ t.ten = (s.answered c 0 0).ten)) ∧
  (∀ (s : State) (q : Nat) (v : Qp) (t : TrapReq), s.xlt.trapWait.get? q = some t → s.fatal = false → s.xlt.traps.length < 8192 →
    s.ten.qps.get? q = some v →
    exec (.trapStart q) s = .next (({ s with
        xlt.trapWait := s.xlt.trapWait.erase q,
        xlt.traps := s.xlt.traps.set (firstFree 0 s.xlt.traps.keys)
          ⟨q, t.asid, t.page, t.write, t.dirty, t.size, s.now, s.now + s.markTimeout, []⟩ }.event 0x0704 0).eqEvent v.eq
      { code := 0x0701, status := 0, object := q, param0 := w64 (t.page * 4096),
        param1 := w64 (t.asid + b2n t.dirty * 2 ^ 20 + t.size * 2 ^ 21) })) ∧
  (∀ (s : State) (q k : Nat) (v : Qp) (t : Trap) (j : Job), (s.xlt.traps.find? fun t => t.2.qp == q) = some (k, t) → t.resume = [] →
    s.fatal = false → s.ten.qps.get? q = some v → (v.jobs.find? fun j => j.trapped) = some j → j.op ≠ 7 →
    exec (.markTimeout q) s = .next (({ s with xlt.traps := s.xlt.traps.erase k }.passTo t.due).jobFail q j.ring 0x0F)) ∧
  (∀ (s : State) (c : AdminCmd) (v : Qp), let q := bitsOf c.e.w2 0 21
    s.domState 85 = 2 → Takes s c 0x64 [(2, ones 0 21 + ones 32 1), (3, 0), (4, 0), (5, 0), (6, 0), (7, 0)] →
    s.ten.qps.get? q = some v → v.fn = c.fn → v.destroy = none →
    ((∀ t ∈ s.xlt.traps, t.2.qp ≠ q) → v.st ≠ .quarantine → exec (.resume c) s = .next (s.answered c 0 0)) ∧
    (∀ k t, (s.xlt.traps.find? fun t => t.2.qp == q) = some (k, t) →
      (∀ x ∈ s.xlt.traps, x.2.qp = q → x.2.resume = []) →
      let r : CmdRef := { fn := c.fn, cookie := c.e.w1, index := (s.fn c.fn).asqCons.toNat % 2 ^ 16 }
      let w : WalkReq := { asid := t.asid, page := t.page, write := t.write, spec := false, trap := some q, who := .none_ }
      (bitAt c.e.w2 32 = false → v.st ≠ .quarantine → s.newReq w = true → ∃ u, exec (.resume c) s = .next u ∧
        u.xlt.waiting = s.xlt.waiting ++ [w] ∧ u.xlt.traps = s.xlt.traps.set k { t with resume := [r] } ∧
        (∀ l ∈ u.xlt.tlb, l.covers t.asid t.page = false) ∧ (u.fn c.fn).acqWait = (s.fn c.fn).acqWait) ∧
      (∀ j, bitAt c.e.w2 32 = true → v.st = .ready → v.jobs = [j] → j.trapped = true → j.op ≠ 7 → j.status = none →
        ∃ u, exec (.resume c) s = .next u ∧ (∀ x ∈ u.xlt.traps, x.2.qp ≠ q) ∧
          (u.ten.qps.get? q).map Qp.st = some .error ∧ (u.fn c.fn).acqWait = (s.fn c.fn).acqWait ++ [(r, 0, 1)])))

/-- R154 to R156, R159, Tables 7.2 and 7.3: a walk starts with the read of the top table's entry on the port of the owner; an entry that
points to a table gives the next read; a leaf with the rights and marks that the access needs enters the cache; V = 0 and an invalid
entry end the walk XLATE_FAULT, the latter counted; a lacking mark and a failed read end it as R163 and R159 say. -/
def Obligations.WalksFollowThePageTable : Prop :=
  (∀ (s : State) (r : WalkReq) (rest : List WalkReq) (a : Asid), s.xlt.waiting = r :: rest → s.xlt.asids.get? r.asid = some a →
    s.fnReady a.owner = true → s.portRoom a.owner = true → s.fatal = false → s.domState 85 = 2 → s.xlt.walks.length < 64 →
    r.trap = none → ({ s with xlt.asker := r.who }).look r.asid r.page r.write = .miss → s.xlt.wcache = [] →
    let ea := a.root + 8 * (r.page / 2 ^ 27 % 512)
    s.region (fnPort a.owner) ea = 1 →
    ∃ t, exec .walkStart s = .next t ∧ t.xlt.waiting = rest ∧ t.out = s.out ++ [.walkRead a.owner s.tra.tag ea] ∧
      t.xlt.walks.get? (firstFree 0 s.xlt.walks.keys) = some { req := r, level := 4, addr := a.root, fills := true, path := [] } ∧
      t.tra.hreqs = s.tra.hreqs.set s.tra.tag
        { fn := a.owner, for_ := .walk (firstFree 0 s.xlt.walks.keys), segs := [(false, ea, 8)], reqs := 1, atom := none }) ∧
  (∀ (s : State) (k tag : Nat) (e : Word) (w : Walk) (h : HReq), (s.tra.hreqs.find? fun h => h.2.for_ == .walk k) = some (tag, h) →
    s.fatal = false → s.xlt.walks.wf = true →
    s.xlt.walks.get? k = some w → w.req.spec = false → w.req.trap = none → w.req.who ≠ .none_ → s.linkSecure h.fn = true →
    let u := s.dropReq tag
    let l := leafOf w.req.asid w.req.page w.level e
    let bus := l.bus + (w.req.page - l.page) * 4096
    (bitAt e 0 = false → exec (.walkReadComplete k .ok e) s = .next
      ({ u with xlt.walks := s.xlt.walks.erase k, xlt.ends := s.xlt.ends ++ [(w.req, WalkEnd.fail 0x06)] }.walkResume)) ∧
    (bitAt e 0 = true → pteBad e w.level = true → exec (.walkReadComplete k .ok e) s = .next
      ({ u.bump R.XLT_STAT F.XLT_STAT_BAD_ENTRY 1 with
        xlt.walks := s.xlt.walks.erase k, xlt.ends := s.xlt.ends ++ [(w.req, WalkEnd.fail 0x06)] }.walkResume)) ∧
    (bitAt e 0 = true → pteBad e w.level = false → bitAt e 2 = false → 2 ≤ w.level → w.level ≤ 4 → s.xlt.wcache = [] →
      let ea := bitsOf e 12 40 * 4096 + 8 * (w.req.page / 512 ^ (w.level - 2) % 512)
      s.region (fnPort h.fn) ea = 1 →
      ∃ t, exec (.walkReadComplete k .ok e) s = .next t ∧ t.out = s.out ++ [.walkRead h.fn s.tra.tag ea] ∧
        (t.xlt.walks.get? k).map (fun x => (x.level, x.addr, x.req)) = some (w.level - 1, bitsOf e 12 40 * 4096, w.req)) ∧
    (bitAt e 0 = true → pteBad e w.level = false → (w.level = 1 ∨ bitAt e 2 = true) →
      (w.req.write = true → l.w = true) → s.region (fnPort h.fn) bus ≠ 0 →
      (l.a = false ∨ (w.req.write = true ∧ l.d = false) → exec (.walkReadComplete k .ok e) s = .next
        ({ u with xlt.walks := s.xlt.walks.erase k, xlt.ends := s.xlt.ends ++ [(w.req, WalkEnd.mark l.a l.size)] }.walkResume)) ∧
      (l.a = true → (w.req.write = true → l.d = true) → w.fills = true → exec (.walkReadComplete k .ok e) s = .next
        (({ u with xlt.walks := s.xlt.walks.erase k }.cacheFill { l with dev := s.region (fnPort h.fn) bus == 2 } w.path).walkResume))) ∧
    (∀ st, st ≠ .ok → exec (.walkReadComplete k st e) s = .next ((u.hostFault h (if st = .poisoned then 3 else 4)).walkFail k)) ∧
    (∀ x : State, x.xlt.walks = s.xlt.walks → x.walkFail k = { x with
      xlt.walks := s.xlt.walks.erase k, xlt.ends := x.xlt.ends ++ [(w.req, WalkEnd.fail 0x08)] }.walkResume))

/-! ### Routing (08_routing) -/

/-- R178, R175, R189: FLIP sets BUSY, and its end swaps the two banks, advances EPOCH modulo 256 and clears BUSY; COPY sets BUSY, and its
end gives every word of the shadow bank that it had not reached the active one's contents; a flip or copy, and a write to the shadow
bank, while BUSY is 1 set REJECT and change nothing else; a shadow word is written otherwise; PORT_ROLE and STALE_LIMIT writes take, a
role that the port cannot have as UNUSED, and a change is recorded by the router core. -/
def Obligations.RouteTablesFlipCopyAndTakeWrites : Prop :=
  (∀ (s : State) (rid : Nat) (val : Word), ridFull rid = true → s.barOpen rid = true → s.regCause R.RTE_EPOCH = none →
    bitAt val 19 = false →
    (bitAt val 16 = true → bitAt val 17 = false → s.rteBusy = false →
      exec (.epochFlip rid val) s = .next { s.wrF R.RTE_EPOCH F.RTE_EPOCH_BUSY 1 with rte.flipBy := some rid }) ∧
    (bitAt val 16 = true → bitAt val 17 = false → s.rteBusy = true →
      exec (.epochFlip rid val) s = .next (s.wrF R.RTE_EPOCH F.RTE_EPOCH_REJECT 1)) ∧
    (bitAt val 17 = true → bitAt val 16 = false → s.rteBusy = false →
      exec (.routeCopy rid val) s = .next { s.wrF R.RTE_EPOCH F.RTE_EPOCH_BUSY 1 with rte.copying := some 0 }) ∧
    (bitAt val 17 = true → bitAt val 16 = true ∨ s.rteBusy = true →
      exec (.routeCopy rid val) s = .next (s.wrF R.RTE_EPOCH F.RTE_EPOCH_REJECT 1))) ∧
  (∀ (s : State) (rid : Nat), s.regs.wf = true → s.rte.flipBy = some rid → s.fatal = false →
    ∃ t, exec .epochFlipComplete s = .next t ∧ t.rdF R.RTE_EPOCH F.RTE_EPOCH_BUSY = 0 ∧ t.rte.flipBy = none ∧
      t.rdF R.RTE_EPOCH F.RTE_EPOCH_EPOCH = (s.rdF R.RTE_EPOCH F.RTE_EPOCH_EPOCH + 1) % 256 ∧
      ∀ d, d < bankLen → t.regs.get? (actBase + d) = s.regs.get? (shdBase + d) ∧ t.regs.get? (shdBase + d) = s.regs.get? (actBase + d)) ∧
  (∀ (s : State) (k : Nat), s.regs.wf = true → s.rte.copying = some k → s.fatal = false →
    ∃ t, exec .routeCopyComplete s = .next t ∧ t.rdF R.RTE_EPOCH F.RTE_EPOCH_BUSY = 0 ∧ t.rte.copying = none ∧
      t.rdF R.RTE_EPOCH F.RTE_EPOCH_EPOCH = s.rdF R.RTE_EPOCH F.RTE_EPOCH_EPOCH ∧
      ∀ d, d < bankLen → t.regs.get? (actBase + d) = s.regs.get? (actBase + d) ∧
        t.regs.get? (shdBase + d) = if d < 8 * k then s.regs.get? (shdBase + d) else s.regs.get? (actBase + d)) ∧
  (∀ (s : State) (rid off : Nat) (val : Word), ridFull rid = true → s.barOpen rid = true → s.regCause off = none →
    shdBase ≤ off → off < shdBase + bankLen → off % 8 = 0 →
    exec (.routeShadowWrite rid off val) s =
      .next (if s.rteBusy then s.wrF R.RTE_EPOCH F.RTE_EPOCH_REJECT 1 else s.wr off (routeMask off val))) ∧
  (∀ (s : State) (rid p : Nat) (val : Word), p < 67 → ridFull rid = true → s.barOpen rid = true →
    s.regCause (R.RTE_PORT_ROLE p) = none →
    let r := getF val F.RTE_PORT_ROLE_ROLE
    let role := if p < 64 ∧ r ≤ 3 ∨ 64 ≤ p ∧ r = 4 then r else 0
    let old := s.rdF (R.RTE_PORT_ROLE p) F.RTE_PORT_ROLE_ROLE
    let t := s.wrFs (R.RTE_PORT_ROLE p) [(F.RTE_PORT_ROLE_ROLE, role),
      (F.RTE_PORT_ROLE_FAR_NODE, getF val F.RTE_PORT_ROLE_FAR_NODE)]
    exec (.portRoleWrite rid p val) s = .next (if old = role then t else t.note 0x0711 91 p old role rid)) ∧
  (∀ (s : State) (rid : Nat) (val : Word), s.regs.wf = true → ridFull rid = true → s.barOpen rid = true → s.regCause R.RTE_CTL = none →
    getF val F.RTE_CTL_STALE_LIMIT ≠ s.rdF R.RTE_CTL F.RTE_CTL_STALE_LIMIT →
    ∃ t u : State, exec (.staleLimitWrite rid val) s = .next t ∧ t.staleNs = 500000 * clamp 1 64 (getF val F.RTE_CTL_STALE_LIMIT) ∧
      t.tra.stales = s.tra.stales ++ [(s.now, t.staleNs)] ∧ t = u.note 0x0713 91
        (s.rdF R.RTE_CTL F.RTE_CTL_STALE_LIMIT) (getF val F.RTE_CTL_STALE_LIMIT) rid 0)

/-- R18, R61, R176, R180, R183, R186 to R188, R193: a packet that a port has received whole is discarded with kind HCRC, HOP_LIMIT, STALE
or UNUSED_INGRESS, goes to the position of this device's unit if it is the destination, and otherwise joins the buffer for an eligible port
with the PHASE of that hop, which is at most 3; without an eligible candidate it is discarded NO_ROUTE. An injected packet is routed
likewise, and a collective or span packet joins the buffer for the port it names; both wait while there is no room (R205). -/
def Obligations.PacketsAreCheckedAndRouted : Prop :=
  (∀ (s : State) (i : Nat) (p : Packet), s.live = true → i < 67 → s.rte.arrived.find? (fun a => a.1 == i) = some (i, p) →
    let u : State := { s with rte.arrived := s.rte.arrived.erase (i, p) }
    (p.hcrc ≠ hcrcOf p → exec (.packetInput i p) s = .next (u.inputDiscard 0 i p)) ∧
    (p.hcrc = hcrcOf p → p.hops = 31 → p.dstNode ≠ s.node → exec (.packetInput i p) s = .next (u.inputDiscard 1 i p)) ∧
    (p.hcrc = hcrcOf p → (p.hops ≠ 31 ∨ p.dstNode = s.node) →
      (s.ageUnits ≤ s.ageOf p → exec (.packetInput i p) s = .next (u.inputDiscard 2 i p)) ∧
      (s.ageOf p < s.ageUnits →
        (p.dstNode = s.node → (p.type ≠ 0x0C ∧ p.type ≠ 0x0D) ∨ 64 ≤ i →
          ∃ t b, exec (.packetInput i p) s = .next t ∧ t.rte.localQ = s.rte.localQ ++ [b] ∧ b.pkt = p ∧
          b.ingress = i ∧ b.egress = localPos p ∧ t.rte.arrived = u.rte.arrived ∧ t.rte.buffered = s.rte.buffered) ∧
        (p.dstNode ≠ s.node → p.type ≠ 0x0C → p.type ≠ 0x0D →
          (s.role i = 0 → exec (.packetInput i p) s = .next (u.inputDiscard 5 i p)) ∧
          (s.role i ≠ 0 → ∀ ph, ph = (if s.lent i p then 0 else p.vl % 4) →
            ((u.choose i p ph).2 = none → exec (.packetInput i p) s = .next ((u.choose i p ph).1.inputDiscard 3 i p)) ∧
            (∀ port x, (u.choose i p ph).2 = some (port, x) → ∃ t b, exec (.packetInput i p) s = .next t ∧
              t.rte.buffered = s.rte.buffered ++ [b] ∧ b.pkt = { p with vl := p.tc * 4 + x } ∧ b.egress = port ∧ b.ingress = i ∧
              t.rte.arrived = u.rte.arrived ∧ t.rte.localQ = s.rte.localQ)))))) ∧
  (∀ (s : State) (i : Nat) (p : Packet), s.live = true → 67 ≤ i → i < 71 → s.rte.injected.find? (fun q => homePos q == i) = some p →
    (s.grainSource i p = none → exec (.packetInput i p) s = .next s) ∧
    ((s.grainSource i p).isSome = true → p.dstNode ≠ s.node →
      let u : State := { s with rte.injected := s.rte.injected.erase p }
      ∀ port x, (u.choose i p 0).2 = some (port, x) → ∃ t b, exec (.packetInput i p) s = .next t ∧
        t.rte.buffered = s.rte.buffered ++ [b] ∧ b.pkt = { p with vl := p.tc * 4 + x } ∧ b.egress = port ∧
        t.rte.injected = u.rte.injected)) ∧
  (∀ (s : State) (i port : Nat) (p : Packet), s.live = true → 71 ≤ i →
    s.rte.entering.find? (fun e => homePos e.2 == i) = some (port, p) →
    (s.grainSource i p = none → exec (.packetInput i p) s = .next s) ∧
    ((s.grainSource i p).isSome = true → s.role port ≠ 0 → ∃ t b, exec (.packetInput i p) s = .next t ∧
      t.rte.buffered = s.rte.buffered ++ [b] ∧ b.pkt = { p with vl := p.tc * 4 + if s.role port = 3 then 1 else 0 } ∧
      b.egress = port ∧ b.ingress = i ∧ t.rte.entering = s.rte.entering.erase (port, p))) ∧
  (∀ (s : State) (i ph port x : Nat) (p : Packet), (s.choose i p ph).2 = some (port, x) →
    ∃ c ∈ s.cands (s.routeEntry p.dstNode), c.port = port ∧ 1 ≤ c.weight ∧ port < 67 ∧ port ≠ i ∧ s.role port ≠ 0 ∧
      (s.portState port = 3 ∨ (s.portState port = 4 ∧ p.ord = true)) ∧
      (c.nonmin = true → p.tc ≠ 0 ∧ leagueOf p.srcNode = leagueOf s.node) ∧
      x = phaseAfter (if s.injectsHere i p then none else rankOf (s.role i)) (s.role port) ph ∧ x ≤ 3)

/-- R181, R182: an ORD packet's port depends on its flow fields, class and type and on the registers alone, so that every packet
of a flowlet takes the same port whatever the queues hold; any other packet takes an eligible candidate whose score no eligible
candidate undercuts, and moves its ingress's pointer by one. R190, R183: SET_PKEYS from a physical function replaces the key set
of the function it names, answers the number of keys, and leaves every other key set alone; from a virtual function it completes
ACCESS; a forbidden key or a COUNT above 16 is MALFORMED. A port whose grace ends passes each packet it holds to the choice of a
port again. -/
def Obligations.PortChoicesKeysAndBrokenPorts : Prop :=
  (∀ (s t : State) (i ph : Nat) (p q : Packet), t.regs = s.regs → p.ord = true → q.ord = true → q.srcNode = p.srcNode →
    q.srcQp = p.srcQp → q.dstNode = p.dstNode → q.dstQp = p.dstQp → q.flowlet = p.flowlet → q.tc = p.tc → q.type = p.type →
    q.hops = p.hops → (t.choose i q ph).2 = (s.choose i p ph).2) ∧
  (∀ (s : State) (i ph port x : Nat) (p : Packet), p.ord = false → (s.choose i p ph).2 = some (port, x) →
    ∃ c ∈ s.cands (s.routeEntry p.dstNode), c.port = port ∧ s.eligible i p ph c = true ∧
      ∀ d ∈ s.cands (s.routeEntry p.dstNode), s.eligible i p ph d = true → s.scoreOf i p c ≤ s.scoreOf i p d) ∧
  (∀ (s : State) (i ph : Nat) (p : Packet), p.ord = false →
    (s.choose i p ph).1.rte.ptrs.get? i = some (((s.rte.ptrs.get? i).getD 0 + 1) % 8)) ∧
  (∀ (s : State) (c : AdminCmd), let f := bitsOf c.e.w2 0 11
    let n := bitsOf c.e.w2 16 5
    Takes s c 0x70 [(2, ones 0 11 + ones 16 5), (3, ones 0 64), (4, ones 0 64), (5, ones 0 64), (6, ones 0 64), (7, 0)] →
    (isPf c.fn = false → exec (.setPkeys c) s = .next (s.answered c 0x0C 0)) ∧
    (isPf c.fn = true → f ≤ 1024 →
      (16 < n ∨ (∃ k ∈ keysOf c.e n, k = 0 ∨ k = 0xFFFF) → exec (.setPkeys c) s = .next (s.answered c 0x02 0)) ∧
      (n ≤ 16 → (∀ k ∈ keysOf c.e n, k ≠ 0 ∧ k ≠ 0xFFFF) → (∀ k ∈ (keysOf c.e 16).drop n, k = 0) →
        ∃ t, exec (.setPkeys c) s = .next t ∧ (∀ k, k ∈ (t.fn (c.fn + f)).keys ↔ k ∈ keysOf c.e n) ∧ (t.fn (c.fn + f)).keys.Nodup ∧
          (∀ g, g ≠ c.fn + f → (t.fn g).keys = (s.fn g).keys) ∧
          (t.fn c.fn).acqWait = ((s.fn c.fn).answered c 0 (w64 (t.fn (c.fn + f)).keys.length)).acqWait))) ∧
  (∀ (s : State) (p t0 : Nat), (s.px p).graceAt = some t0 → s.live = true → s.carrying p = false →
    exec (.graceExpiry p) s = .next ((s.portPackets p).foldl (fun s b => s.reroute b)
      (((s.passTo t0).updX p fun x => { x with graceAt := none }).clearQueues p)))

/-! ### Traffic classes (09_traffic) -/

/-- R196, R197, R199, R201 to R203: of the packets for an output, one that no other comes before (TC0 first, then the earlier,
then the lower ingress) joins its lane's queue, a TC0 packet that is not green as a packet of TC1; the link takes TC0 first, then
TC1, then the weighted group, and only TC0 while a packet of another class is being sent; the packet taken leaves with HOPS
advanced and CN at least the queue's level; injection passes a packet that its policer allows and keeps others. R206, R207, R209,
Table 9.3: a write of a staged field changes the staged value alone; while a commit is in progress it is discarded with CAUSE 6. A
commit whose staged set passes every check, which says that each policer's peak is at least its committed part, TC0 is bounded,
and every reservation of a port in use is at least its minimum and all fit, takes the set, which is in force at the commit's end;
a commit that fails leaves the staged set and the set in force as they were, and REJECT and CAUSE say why. A TCS_COMMIT write in
that time starts nothing, whatever it writes. -/
def Obligations.OutputsServeAndTrafficSetsAreChecked : Prop :=
  (∀ (s : State) (port : Nat) (b : BPkt), s.joiner port = some b → b ∈ s.rte.buffered ∧ b.egress = port ∧
    ∀ x ∈ s.rte.buffered, x.egress = port → joinsBefore x b = false) ∧
  (∀ (s : State) (port : Nat), s.joiner port = none → exec (.outputQueueJoin port) s = .next s ∧
    ∀ x ∈ s.rte.buffered, x.egress ≠ port) ∧
  (∀ (s : State) (port : Nat) (b : BPkt), s.live = true → port < 67 → s.joiner port = some b →
    let k := s.policer (R.TCS_OPOL (8 * port))
    let green := k.colour (s.outBucket port 0) (polLen b.pkt) true = .green
    ∃ t, exec (.outputQueueJoin port) s = .next t ∧ t.rte.buffered = s.rte.buffered.erase b ∧ t.hbm = s.hbm ∧ t.out = s.out ∧
      (b.pkt.tc ≠ 0 → t.laneQ port b.pkt.vl = s.laneQ port b.pkt.vl ++ [b] ∧ t.rte.opol = s.rte.opol) ∧
      (b.pkt.tc = 0 → green → t.laneQ port b.pkt.vl = s.laneQ port b.pkt.vl ++ [b] ∧
        t.rte.opol = s.rte.opol.set (8 * port) ((s.outBucket port 0).debit .green (polLen b.pkt) true)) ∧
      (b.pkt.tc = 0 → ¬ green → t.laneQ port (4 + b.pkt.vl % 4) = s.laneQ port (4 + b.pkt.vl % 4) ++
          [{ b with pkt := { b.pkt with tc := 1, vl := 4 + b.pkt.vl % 4 } }])) ∧
  (∀ (s : State) (p v : Nat) (b : BPkt), s.selects p = some (v, b) →
    s.headOk p v = some b ∧ (v / 4 ≠ 0 → s.classHead p 0 = none) ∧ (2 ≤ v / 4 → s.classHead p 1 = none) ∧
      (s.port p).txPre = none ∧ (∀ k, (s.port p).txMain = some k → k.pkt.tc ≠ 0 ∧ v / 4 = 0)) ∧
  (∀ (s : State) (port v : Nat) (b : BPkt), s.live = true → port < 67 → s.portUp port = true → s.silent port = false →
    s.dropAll port = s → s.selects port = some (v, b) → s.rte.queues.wf = true →
    ∃ t k, exec (.outputSelect port) s = .next t ∧ t.laneQ port v = (s.laneQ port v).drop 1 ∧
      ((s.port port).txMain = none → (t.port port).txMain = some k) ∧
      (∀ m, (s.port port).txMain = some m → (t.port port).txMain = some m ∧ (t.port port).txPre = some k) ∧
      k.pkt.hops = b.pkt.hops + 1 ∧ (k.pkt.cn = 15 ∨ b.pkt.cn ≤ k.pkt.cn) ∧ k.flits = pktFlits k.pkt ∧ k.n = grainsOf b.pkt ∧
      k.pkt.payload = b.pkt.payload ∧ t.hbm = s.hbm ∧ t.out = s.out) ∧
  (∀ (s : State) (cls : Nat) (p : Packet) (ps : List Packet), s.live = true → cls < 8 → s.rte.inject.get? cls = some (p :: ps) →
    s.rte.inject.wf = true →
    let k := s.policer (R.TCS_IPOL cls)
    let bk := k.fill ((s.rte.ipol.get? cls).getD (k.full s.ft)) 100 s.ft
    let col := k.colour bk (polLen p) false
    (col = .red ∨ (cls = 0 ∧ col = .yellow) → exec (.injectionAdmit cls) s = .next s) ∧
    (col = .green ∨ (cls ≠ 0 ∧ col = .yellow) → ∃ t, exec (.injectionAdmit cls) s = .next t ∧
      t.rte.injected = s.rte.injected ++ [p] ∧ (t.rte.inject.get? cls).getD [] = ps ∧
      t.rte.ipol.get? cls = some (bk.debit col (polLen p) false) ∧ t.rte.queues = s.rte.queues)) ∧
  (∀ (s : State) (rid off i j : Nat) (val : Word) (r : RegRow), ridFull rid = true → s.barOpen rid = true → s.regCause off = none →
    isTcsStaged off = true → s.regs.wf = true → findReg off = some (r, i, j) →
    (s.tcsBusy = true → exec (.tcsStageWrite rid off val) s = .next (s.tcsReject 6 127 0)) ∧
    (s.tcsBusy = false → ∃ t, exec (.tcsStageWrite rid off val) s = .next t ∧ t.tcs = s.tcs ∧
      t.rd off = (s.rd off &&& ~~~ r.mask .rw) ||| (val &&& r.mask .rw) ∧
      ∀ x, x ≠ off → x ≠ R.TCS_COMMIT → t.rd x = s.rd x)) ∧
  (∀ (s : State) (rid : Nat) (val : Word), ridFull rid = true → s.barOpen rid = true → s.regCause R.TCS_COMMIT = none →
    (s.tcsBusy = true → exec (.tcsCommit rid val) s = .next (s.tcsReject 6 127 0)) ∧
    (s.tcsBusy = false → getF val F.TCS_COMMIT_COMMIT = 1 → getF val F.TCS_COMMIT_REJECT = 0 →
      (tcsCheck s.rd s.portsUsed = none → ∃ t, exec (.tcsCommit rid val) s = .next t ∧ t.tcs.force = s.tcs.force ∧
        t.tcs.coming = some s.staged) ∧
      (∀ cause port cls, tcsCheck s.rd s.portsUsed = some (cause, port, cls) →
        exec (.tcsCommit rid val) s = .next ((s.qosCommit cause port cls rid 0).tcsReject cause port cls)))) ∧
  (∀ (s : State) (set : Tbl Word), s.tcs.coming = some set → s.regs.wf = true →
    ∃ t, exec .commitInForce s = .next t ∧ t.tcs.force = set ∧ t.tcs.coming = none ∧ t.rdF R.TCS_COMMIT F.TCS_COMMIT_BUSY = 0 ∧
      ∀ off, t.tcsVal off = (set.get? off).getD (resetOf off)) ∧
  (∀ (get : Nat → Word) (used : List Nat), tcsCheck get used = none →
    (∀ c, c < 8 → tcsRate (getF (get (R.TCS_IPOL c)) F.TCS_IPOL_CIR) ≤ tcsRate (getF (get (R.TCS_IPOL c)) F.TCS_IPOL_PIR)) ∧
    tcsRate (getF (get (R.TCS_IPOL 0)) F.TCS_IPOL_CIR) ≤ 500 ∧ getF (get (R.TCS_IPOL 0)) F.TCS_IPOL_CBS * 64 ≤ 1280 ∧
    (∀ p ∈ used, (∀ c, c < 8 → resMin get p c ≤ resIn get p c) ∧ tcsRate (getF (get (R.TCS_OPOL (8 * p))) F.TCS_OPOL_CIR) ≤ 2500 ∧
      getF (get (R.TCS_OPOL (8 * p))) F.TCS_OPOL_CBS * 64 ≤ 2048) ∧
    4 * (used.map fun p => ((List.range 8).map fun c => resIn get p c).foldl (· + ·) 0).foldl (· + ·) 0 + 7280 ≤ 3145728)

/-! ### The link layer (10_link) -/

/-- R201, R217, R219, R220, R222, R223, R225: a port without a replay sends an idle block, which takes no BSN, when nothing waits
or 512 blocks are outstanding, and otherwise a new block of BSN NEXT, which it stores; in a replay it resends the stored block
with its flits, and debits nothing. Every block carries the CRC of what it sends; only alignment markers stand before it. Flit by
flit a new block takes the preempting packet, then the control flits between packets, then the main packet; a HEAD debits its
packet's grains from its lane; an eligible TC0 packet preempts one of another class. The replay timer starts a replay from UNA.
R221, R226, R247, R248, R259: the lanes of a port hand over a block with the markers and codewords, or the code groups, in which
it came. A block that fails its CRC or its line code, or in order breaks the framing, is counted and its lanes blamed, and sets
NAK; a good block below or ahead of E is counted and discarded, a NAK following the first ahead; the block E is accepted, its
packets arrive, E advances and NAK clears; nothing else makes a packet arrive or moves E. A credit total that is not newer changes
nothing, and one that is adds exactly what the peer has returned since. -/
def Obligations.BlocksAreReplayedAndTakenOnce : Prop :=
  (∀ (s : State) (p : Nat), p < 64 → s.linked p = true → s.fatal = false → s.silent p = false → (s.px p).change = none →
    let r := (s.updP p creditFlits).placeFlits p 8
    ((s.port p).replay = none → 512 ≤ (s.port p).outstanding →
      ∃ t ms b, exec (.blockTransmit p) s = .next t ∧ t.out = s.out ++ ms ++ [.block p b] ∧ (∀ o ∈ ms, ∃ l m, o = .marker p l m) ∧
        b.flits = idleFlits ∧ b.trl.bsn = (s.port p).next ∧ b.crc = blockCrc b.flits b.trl ∧
        (t.port p).next = (s.port p).next ∧ (t.port p).store = (s.port p).store ∧ (t.port p).credit = (s.port p).credit ∧
        t.hbm = s.hbm) ∧
    ((s.port p).replay = none → (s.port p).outstanding < 512 → (∀ f ∈ r.1, f.kind = 0) →
      ∃ t ms b, exec (.blockTransmit p) s = .next t ∧ t.out = r.2.out ++ ms ++ [.block p b] ∧ (∀ o ∈ ms, ∃ l m, o = .marker p l m) ∧
        b.flits = idleFlits ∧ b.trl.bsn = (s.port p).next ∧ b.crc = blockCrc b.flits b.trl ∧
        (t.port p).next = (s.port p).next ∧ (t.port p).store = (s.port p).store ∧ t.hbm = s.hbm) ∧
    ((s.port p).replay = none → (s.port p).outstanding < 512 → (∃ f ∈ r.1, f.kind ≠ 0) →
      ∃ t ms b, exec (.blockTransmit p) s = .next t ∧ t.out = r.2.out ++ ms ++ [.block p b] ∧ (∀ o ∈ ms, ∃ l m, o = .marker p l m) ∧
        b.flits = r.1.map (timed s.ftWord) ∧ b.trl.bsn = (s.port p).next ∧ b.crc = blockCrc b.flits b.trl ∧
        (t.port p).next = (s.port p).next + 1 ∧ (t.port p).store = (s.port p).store ++ [{ bsn := (s.port p).next, flits := r.1 }] ∧
        (t.port p).una = (s.port p).una ∧ (t.port p).credit = (r.2.port p).credit ∧ t.hbm = s.hbm) ∧
    (∀ n k, (s.port p).replay = some n → (s.port p).store.find? (fun k => k.bsn == n) = some k →
      ∃ t ms b, exec (.blockTransmit p) s = .next t ∧ t.out = s.out ++ ms ++ [.block p b] ∧ (∀ o ∈ ms, ∃ l m, o = .marker p l m) ∧
        b.flits = k.flits.map (timed s.ftWord) ∧ b.trl.bsn = n ∧ b.crc = blockCrc b.flits b.trl ∧
        (t.port p).next = (s.port p).next ∧ (t.port p).store = (s.port p).store ∧ (t.port p).credit = (s.port p).credit ∧
        (t.port p).replay = (if n + 1 = (s.port p).next then none else some (n + 1)))) ∧
  (∀ (s : State) (p : Nat) (k : LinkPkt) (f : Words8) (fs : List Words8), s.paused p = false → s.tcFirst p = s →
    (s.port p).txPre = some k ∨ ((s.port p).txPre = none ∧ (s.port p).txMain = some k ∧ (k.pkt.tc = 0 ∨ (s.port p).ctrl = [])) →
    k.flits = f :: fs →
    (s.placeFlit p).1 = { kind := if k.flits.length = k.n then 1 else 2, ws := f } ∧
      ((s.placeFlit p).2.port p).ctrl = (s.port p).ctrl ∧
      ((s.placeFlit p).2.port p).credit = (if k.flits.length = k.n
        then (s.port p).credit.set k.pkt.vl (((s.port p).credit.get? k.pkt.vl).getD 0 - grainsOf k.pkt) else (s.port p).credit)) ∧
  (∀ (s : State) (p : Nat) (c : Words8) (cs : List Words8), s.paused p = false → s.tcFirst p = s → (s.port p).txPre = none →
    (∀ k, (s.port p).txMain = some k → k.pkt.tc ≠ 0) → (s.port p).ctrl = c :: cs →
    (s.placeFlit p).1.kind = 3 ∧ ((s.placeFlit p).2.port p).ctrl = cs ∧ ((s.placeFlit p).2.port p).credit = (s.port p).credit ∧
      ((s.placeFlit p).2.port p).txMain = (s.port p).txMain) ∧
  (∀ (s : State) (p v : Nat) (b : BPkt) (m : LinkPkt), s.portUp p = true → (s.port p).txPre = none → (s.port p).txMain = some m →
    m.pkt.tc ≠ 0 → (∀ v, v < 4 → ∀ x ∈ s.laneQ p v, s.aged x = false) → s.classHead p 0 = some (v, b) →
    ((s.tcFirst p).port p).txMain = some m ∧
      ∃ k, ((s.tcFirst p).port p).txPre = some k ∧ k.pkt.payload = b.pkt.payload ∧ k.flits = pktFlits k.pkt) ∧
  (∀ (s : State) (p : Nat), s.linked p = true → s.fatal = false → 0 < (s.port p).outstanding → (s.port p).replay = none →
    ∃ t, exec (.replayTimeout p) s = .next t ∧ (t.port p).replay = some (s.port p).una ∧ (t.port p).una = (s.port p).una ∧
      (t.port p).store = (s.port p).store ∧ (t.port p).replays = (s.port p).replays + 1 ∧ (s.port p).replayDue ≤ t.now) ∧
  (∀ (s : State) (p : Nat) (b : Block) (lanes : List LaneRx), p < 64 → s.linked p = true → s.fatal = false → s.retraining p = false →
    let n := (s.px p).rxBlocks
    let u := (s.updX p fun x => { x with rxBlocks := x.rxBlocks + 1 }).lanesReport p n lanes
    (s.carrying p = false ∨ u.carrying p = true →
      exec (.blockReceive p (.fabric b) lanes) s = .next ((u.blockIn p n b false 0 (u.fecBlamed p n)).fecForget p n)) ∧
    (s.carrying p = true → u.carrying p = false → exec (.blockReceive p (.fabric b) lanes) s = .next u)) ∧
  (∀ (s : State) (p : Nat) (com : Option (List (BitVec 10))) (rows : List (List (BitVec 10))) (lanes : List LaneRx), 64 ≤ p → p < 67 →
    s.linked p = true → s.fatal = false → s.retraining p = false →
    let n := (s.px p).rxBlocks
    let u := ((s.updX p fun x => { x with rxBlocks := x.rxBlocks + 1 }).rxWake p).comRow p n com
    let ls := dataLanes (u.active p)
    let r := u.rowsIn p rows
    let errs := blockErrors ls (ceilDiv 522 ls.length + 2) r.1
    (s.carrying p = false ∨ u.carrying p = true → exec (.blockReceive p (.span com rows) lanes) s =
      .next ((r.2.laneErrs p errs).blockIn p n (blockOf (blockBytes ls.length r.1)) (!errs.isEmpty) (groupsOf errs) 0))) ∧
  (∀ (s : State) (p n : Nat) (b : Block) (wrong : Bool) (named spare : BitVec 4), p < 67 →
    let v := s.useTrailer p b.trl
    let d := (b.trl.bsn - (v.port p).e).toNat
    let diff := (lparOf (decide (64 ≤ p)) (s.active p) (streamAt n) b.flits b.trl ^^^ b.trl.lpar) &&& ~~~ spare
    let fr := b.flits.foldl frameFlit { main := (v.port p).rxMain, pre := (v.port p).rxPre, done := [], bad := false }
    (wrong = true ∨ b.crc ≠ blockCrc b.flits b.trl → s.blockIn p n b wrong named spare = s.badBlock p (diff ||| named)) ∧
    (wrong = false → b.crc = blockCrc b.flits b.trl →
      ((∀ f ∈ b.flits, f.kind = 0) ∨ v.linked p = false → s.blockIn p n b wrong named spare = v) ∧
      ((∃ f ∈ b.flits, f.kind ≠ 0) → v.linked p = true →
        (0x800 ≤ d → s.blockIn p n b wrong named spare = v.lnkCount p 5 1) ∧
        (0 < d → d < 0x800 → (v.port p).nak = true → s.blockIn p n b wrong named spare = v.lnkCount p 6 1) ∧
        (0 < d → d < 0x800 → (v.port p).nak = false → s.blockIn p n b wrong named spare =
          ((v.lnkCount p 6 1).updP p fun q => { q with nak := true, nakDue := true }).lnkCount p 2 1) ∧
        (d = 0 → fr.bad = true → s.blockIn p n b wrong named spare = (v.lnkCount p 1 1).badBlock p diff) ∧
        (d = 0 → fr.bad = false → let t := s.blockIn p n b wrong named spare
          (t.port p).e = (v.port p).e + 1 ∧ (t.port p).nak = false ∧ (t.port p).nakDue = (v.port p).nakDue ∧
          (t.port p).rxMain = fr.main ∧ (t.port p).rxPre = fr.pre ∧
          t.rte.arrived = v.rte.arrived ++ fr.done.map (fun k => (p, k)) ∧ t.hbm = v.hbm ∧ t.out = v.out)))) ∧
  (∀ (s t : State) (p : Nat) (rx : BlockRx) (lanes : List LaneRx), s.regs.wf = true → exec (.blockReceive p rx lanes) s = .next t →
    t.linked p = true →
    ((t.port p).e = (s.port p).e ∧ t.rte.arrived = s.rte.arrived) ∨
      ((t.port p).e = (s.port p).e + 1 ∧ s.rte.arrived <+: t.rte.arrived ∧
        ∀ b, rx = .fabric b → b.crc = blockCrc b.flits b.trl ∧ b.trl.bsn = (s.port p).e)) ∧
  (∀ (s : State) (p lane : Nat) (c : Option Nat), c = none ∨ (∃ k, c = some k ∧ s.blameSym < k) → 1 < s.failCount →
    (s.px p).blames.get? lane = none →
    let x := (s.codeword p lane c).px p
    (∃ due, x.blames.get? lane = some (1, due)) ∧ ((s.px p).words.get? lane).getD 0 ∈ (x.fecBad.get? lane).getD []) ∧
  (∀ (s : State) (p v : Nat) (f : Count32), let seen := ((s.port p).seen.get? v).getD 0
    ((f - seen).toNat < 2 ^ 23 → (((s.creditTotal p v (f.setWidth 24)).port p).seen.get? v).getD 0 = f ∧
      (((s.creditTotal p v (f.setWidth 24)).port p).credit.get? v).getD 0 =
        ((s.port p).credit.get? v).getD 0 + (f - seen).toNat) ∧
    (0 < (seen - f).toNat → (seen - f).toNat ≤ 2 ^ 23 → s.creditTotal p v (f.setWidth 24) = s)) ∧
  (∀ (s : State) (p : Nat) (half : Bool) (totals : List (BitVec 24)), s.linked p = true → s.fatal = false →
    let u := (List.range 16).foldl (fun s k => match totals[k]? with
      | some t => s.creditTotal p (16 * b2n half + k) t
      | none => s) s
    exec (.creditFlit p half totals) s = .next ((u.updX p fun x =>
      if half then { x with credRx1 := true } else { x with credRx0 := true }).tryUp p))

/-- R208, R231, R237, R238, R244, R247, R250, R265: lanes trained on the agreed set start the exchange with INIT and TIME at BSN 0; lanes
that do not hold have failed their training, which CAUSE says. INIT is checked for loopback, span wiring, FAR_NODE and lanes, in that
order; a PROBE is echoed first; the sixteenth echo holds the port if the round trip is above RTT_MAX and otherwise sends both CREDIT
flits; a port with every step of the exchange done, under reservations as R206 asks, is UP. The first valid measurement locks fabric time,
which only steps forward. -/
def Obligations.PortsTrainThroughChecks : Prop :=
  (∀ (s : State) (p bound us deskew : Nat) (set : BitVec 4) (ends : LaneEnds), s.regs.wf = true → p < 67 → s.fatal = false →
    s.domOn (portDom p) = true → (s.px p).change = none → (s.px p).training = some (set, bound) →
    (s.mediumOk p = false ∨ trainingHolds p set bound us deskew ends = false → ∃ t, exec (.laneTrainingComplete p set ends us deskew) s = .next t ∧
      (t.px p).training = none ∧ t.portState p = s.portState p ∧ t.rdF (R.LNK_STATE p) F.LNK_STATE_CAUSE = 11) ∧
    (s.mediumOk p = true → trainingHolds p set bound us deskew ends = true → s.portState p = 1 →
      s.rdF (R.LNK_CTL p) F.LNK_CTL_ENABLE = 1 → s.rdF (R.LNK_STATE p) F.LNK_STATE_HELD = 0 →
      ∃ t, exec (.laneTrainingComplete p set ends us deskew) s = .next t ∧ t.portState p = 2 ∧
        t.active p = set ∧ t.port p = { portInit with ctrl := [t.initFlit p, blankFlit 8 0] } ∧
        (t.px p).initDue = s.now + s.changeLimit ∧ (t.px p).initRx = false ∧ (t.px p).timed = false ∧ (t.px p).rtt = 0 ∧
        (t.px p).training = none ∧ (t.px p).blocks = 0 ∧ (t.px p).rxBlocks = 0)) ∧
  (∀ (s : State) (p peerPort peerNode : Nat) (usable : BitVec 4) (ident : Word), s.regs.wf = true → p < 67 → s.fatal = false →
    s.portState p = 2 →
    let u := (s.wrFs (R.LNK_STATE p) [(F.LNK_STATE_PEER_NODE, peerNode), (F.LNK_STATE_PEER_PORT, peerPort)]).wr (R.LNK_PEER_ID p) ident
    let far := s.rdF (R.RTE_PORT_ROLE p) F.RTE_PORT_ROLE_FAR_NODE
    let nocheck := s.rdF (R.LNK_CTL p) F.LNK_CTL_NO_WIRE_CHECK
    (ident = s.devId → exec (.init p peerPort peerNode usable ident) s = .next (u.hold p 7)) ∧
    (ident ≠ s.devId → 64 ≤ p → peerPort ≠ 64 + (2 - (p - 64)) →
      exec (.init p peerPort peerNode usable ident) s = .next (u.miswire p peerNode peerPort)) ∧
    (ident ≠ s.devId → p < 64 ∨ peerPort = 64 + (2 - (p - 64)) → nocheck = 0 → peerNode ≠ far →
      exec (.init p peerPort peerNode usable ident) s = .next (u.miswire p peerNode peerPort)) ∧
    (ident ≠ s.devId → p < 64 ∨ peerPort = 64 + (2 - (p - 64)) → nocheck = 1 ∨ peerNode = far →
      (s.active p &&& ~~~ (usable &&& s.ordered p) ≠ 0 → ∃ t, exec (.init p peerPort peerNode usable ident) s = .next t ∧
        t.portState p = 1 ∧ t.rdF (R.LNK_STATE p) F.LNK_STATE_HELD = s.rdF (R.LNK_STATE p) F.LNK_STATE_HELD ∧
        (t.px p).peerUsable = usable &&& s.ordered p) ∧
      (s.active p &&& ~~~ (usable &&& s.ordered p) = 0 → ∃ t, exec (.init p peerPort peerNode usable ident) s = .next t ∧
        t.portState p = 2 ∧ (t.px p).initRx = true ∧ (t.px p).probesTx = 16 ∧ t.rd (R.LNK_PEER_ID p) = ident ∧
        (t.port p).ctrl = (s.port p).ctrl ++ (List.range 16).map fun i => blankFlit 3 i))) ∧
  (∀ (s : State) (p : Nat) (id : BitVec 8) (time : Word), s.linked p = true → s.fatal = false →
    exec (.probeFlit p id time) s = .next (s.updP p fun q => { q with ctrl := ctrlFlit (4 + id.toNat * 256) [time] :: q.ctrl })) ∧
  (∀ (s : State) (p : Nat) (id : BitVec 8) (time : Word), s.regs.wf = true → p < 67 → s.portState p = 2 → s.fatal = false →
    0 < (s.px p).probesTx →
    let rtt := Nat.max (s.px p).rtt (s.ftWord - time).toNat
    ((s.px p).probesRx + 1 < 16 → exec (.probeEcho p id time) s =
      .next (s.updX p fun x => { x with probesRx := x.probesRx + 1, rtt := rtt })) ∧
    ((s.px p).probesRx + 1 = 16 → s.rttMax p < rtt → ∃ t, exec (.probeEcho p id time) s = .next t ∧ t.portState p = 1 ∧
      t.rdF (R.LNK_STATE p) F.LNK_STATE_CAUSE = 8 ∧ t.rdF (R.LNK_STATE p) F.LNK_STATE_HELD = 1 ∧ (t.px p).tcsHeld = true ∧
      t.rdF (R.LNK_STATE p) F.LNK_STATE_RTT = Nat.min 65535 rtt) ∧
    ((s.px p).probesRx + 1 = 16 → rtt ≤ s.rttMax p → (s.px p).credRx0 = false →
      ∃ t, exec (.probeEcho p id time) s = .next t ∧ (t.px p).probesRx = 16 ∧
        t.rdF (R.LNK_STATE p) F.LNK_STATE_RTT = Nat.min 65535 rtt ∧
        (∀ v, v < 32 → (t.port p).freed.get? v = some (BitVec.ofNat 32 (s.res p (v / 4)))) ∧ (t.port p).carried = [] ∧
        (t.port p).ctrl = (s.port p).ctrl ++ [blankFlit 1 0, blankFlit 1 1])) ∧
  (∀ (s : State) (p : Nat), s.regs.wf = true → p < 67 → s.portState p = 2 → s.silent p = false → s.resOk p = true →
    (s.px p).initRx = true → 16 ≤ (s.px p).probesRx → (s.px p).credRx0 = true → (s.px p).credRx1 = true → (s.px p).timed = true →
    (s.px p).peerReq = none → (s.tryUp p).portState p = 3 ∧ ((s.tryUp p).px p).graceAt = none) ∧
  (∀ (s : State) (p : Nat), s.resOk p = false ∨ s.silent p = true → s.tryUp p = s) ∧
  (∀ (s : State) (p : Nat) (locked : Bool) (tTx echoTx echoRx rx : Word), s.regs.wf = true → p < 67 → s.linked p = true →
    s.fatal = false →
    let rtt : Int := (rx - echoTx).toInt - (tTx - echoRx).toInt
    let ofs : Int := (tTx + w64 (rtt.toNat / 2) - rx).toInt
    ∃ t, exec (.time p locked tTx echoTx echoRx rx) s = .next t ∧ (t.px p).lastTime = some (tTx, rx) ∧
      (echoTx = 0 ∨ rtt < 0 ∨ 16000 < rtt → t.ft = s.ft ∧ t.lnk.meas = s.lnk.meas) ∧
      (echoTx ≠ 0 → 0 ≤ rtt → rtt ≤ 16000 → (t.px p).timed = true ∧ t.rdF R.LNK_TIME_STAT F.LNK_TIME_STAT_LOCKED = 1 ∧
        (s.rdF R.LNK_TIME_STAT F.LNK_TIME_STAT_LOCKED = 0 → t.ft = s.ft + ofs.toNat ∧ t.lnk.meas = s.lnk.meas) ∧
        (s.rdF R.LNK_TIME_STAT F.LNK_TIME_STAT_LOCKED = 1 → t.ft = s.ft ∧ t.lnk.meas = (p, ofs, rtt.toNat / 2) :: s.lnk.meas)))

/-- R232, R234, R242, Table 10.8: a software change request of an UP port is PENDING and goes out once, and is REFUSED otherwise; a
CHANGE_REQ is kept while the port is not UP, is accepted on the widest legal set of the usable lanes, and in a collision the lower key
leads; an empty CHANGE_ACK breaks the port; both sides hand their lanes over after both PAUSEs or PAUSE_WAIT; trained lanes become ACTIVE,
lanes that fail to train break the port, and so does a change that outlasts CHANGE_LIMIT. Of the requests that a port keeps, those met are
dropped and the first of the others is made. -/
def Obligations.ChangesAreAgreedAndCarriedOut : Prop :=
  (∀ (s : State) (rid p : Nat), s.regs.wf = true → p < 67 → ridFull rid = true → s.barOpen rid = true →
    s.regCause (R.LNK_CMD p) = none →
    (s.cmdPending p = true → exec (.lnkRetrain rid p) s = .next s ∧ (∀ l, exec (.lnkWidthChange rid p l) s = .next s) ∧
      exec (.lnkReleaseHold rid p) s = .next s) ∧
    (s.cmdPending p = false → s.portState p ≠ 3 →
      exec (.lnkRetrain rid p) s = .next (s.wrF (R.LNK_CMD p) F.LNK_CMD_STATUS 5) ∧
      ∀ l, exec (.lnkWidthChange rid p l) s = .next (s.wrF (R.LNK_CMD p) F.LNK_CMD_STATUS 5)) ∧
    (s.cmdPending p = false → s.portState p = 3 → (s.px p).ownReq = none → (s.px p).change = none →
      (∃ t, exec (.lnkRetrain rid p) s = .next t ∧ t.cmdPending p = true ∧ (t.px p).ownReq = some {
          id := (s.px p).nextReq, op := 0, lanes := s.usable p, who := rid, speed := false } ∧
        ∃ f, (t.port p).ctrl = (s.port p).ctrl ++ [f] ∧ bitsOf f.w0 0 8 = 5) ∧
      (∀ l, legalSets.contains l = false →
        exec (.lnkWidthChange rid p l) s = .next (s.wrF (R.LNK_CMD p) F.LNK_CMD_STATUS 5)) ∧
      (∀ l, legalSets.contains l = true → ∃ t, exec (.lnkWidthChange rid p l) s = .next t ∧ t.cmdPending p = true ∧
        (t.px p).ownReq = some { id := (s.px p).nextReq, op := 1, lanes := l, who := rid, speed := false } ∧
        ∃ f, (t.port p).ctrl = (s.port p).ctrl ++ [f] ∧ bitsOf f.w0 0 8 = 5)) ∧
    (s.cmdPending p = false → s.rdF (R.LNK_STATE p) F.LNK_STATE_HELD = 0 ∨ ((s.px p).tcsHeld = true ∧ s.tcsReleases p = false) →
      exec (.lnkReleaseHold rid p) s = .next (s.wrF (R.LNK_CMD p) F.LNK_CMD_STATUS 5)) ∧
    (s.cmdPending p = false → s.rdF (R.LNK_STATE p) F.LNK_STATE_HELD = 1 → (s.px p).tcsHeld = false ∨ s.tcsReleases p = true →
      ∃ t, exec (.lnkReleaseHold rid p) s = .next t ∧ t.rdF (R.LNK_STATE p) F.LNK_STATE_HELD = 0 ∧
        t.rdF (R.LNK_CMD p) F.LNK_CMD_STATUS = 2 ∧ (t.px p).tcsHeld = false)) ∧
  (∀ (s : State) (p op peer : Nat) (id : BitVec 8) (lanes : BitVec 4) (ident : Word) (speed : Bool), p < 67 → s.fatal = false →
    let r : ChangeReq := { id := id, op := op, lanes := lanes, who := 0, speed := speed }
    (s.portState p = 2 ∨ s.portState p = 4 →
      exec (.changeReq p id op lanes peer ident speed) s = .next (s.updX p fun x => { x with peerReq := some r })) ∧
    (s.portState p = 3 → (s.px p).ownReq = none →
      exec (.changeReq p id op lanes peer ident speed) s = .next (s.acceptChange p r)) ∧
    (∀ own, s.portState p = 3 → (s.px p).ownReq = some own →
      (ident.toNat * 128 + peer < s.devId.toNat * 128 + p →
        exec (.changeReq p id op lanes peer ident speed) s = .next ((s.withdraw p own ident).acceptChange p r)) ∧
      (s.devId.toNat * 128 + p ≤ ident.toNat * 128 + peer → exec (.changeReq p id op lanes peer ident speed) s = .next s)) ∧
    (∀ l, widest (lanes &&& s.usable p) = some l → s.regs.wf = true → (s.acceptChange p r).portState p = 4 ∧
      (∃ c, ((s.acceptChange p r).px p).change = some c ∧ c.result = l ∧ c.mine = false ∧ c.req = r ∧
        c.due = s.now + s.changeLimit) ∧
      ((s.acceptChange p r).port p).ctrl = (s.port p).ctrl ++ [ctrlFlit (6 + id.toNat * 256 + l.toNat * 2 ^ 18) [s.devId]]) ∧
    (widest (lanes &&& s.usable p) = none → (s.acceptChange p r).portState p = s.portState p ∧
      ((s.acceptChange p r).px p).breakAt = some none ∧
      ((s.acceptChange p r).port p).ctrl = (s.port p).ctrl ++ [ctrlFlit (6 + id.toNat * 256) [s.devId]])) ∧
  (∀ (s : State) (p : Nat) (f : Words8), ctypeOf f = 6 → bitsOf f.w0 18 4 = 0 → (s.px p).breakAt = some none →
    ((s.ctrlOut p f).2.px p).breakAt = some (some ((s.port p).next, s.now + s.pauseWait))) ∧
  (∀ (s : State) (p : Nat) (r : ChangeReq) (rest : List ChangeReq), s.portState p = 3 → (s.px p).ownReq = none →
    (s.px p).change = none → ((s.px p).again.filter fun r => !s.reqMet p r) = r :: rest →
    ((s.again p).px p).again = rest ∧ ((s.again p).px p).ownReq = some { r with id := (s.px p).nextReq }) ∧
  (∀ m l, widest m = some l → l ∈ legalSets ∧ l &&& m = l ∧
    ∀ k ∈ legalSets, k &&& m = k → (lanesOf k).length < (lanesOf l).length ∨ ((lanesOf k).length = (lanesOf l).length ∧ l ≤ k)) ∧
  (∀ (s : State) (p : Nat) (lanes : BitVec 4) (ident : Word) (own : ChangeReq), s.fatal = false → s.portState p = 3 →
    (s.px p).ownReq = some own →
    (lanes = 0 → exec (.changeAck p own.id lanes ident) s = .next (s.portBreak p 4 false)) ∧
    (lanes ≠ 0 → s.regs.wf = true → ∃ t c, exec (.changeAck p own.id lanes ident) s = .next t ∧ t.portState p = 4 ∧
      (t.px p).ownReq = none ∧ (t.px p).change = some c ∧ c.req = own ∧ c.mine = true ∧ c.result = lanes ∧ c.pauseTx = none ∧
      c.due = s.now + s.changeLimit)) ∧
  (∀ (s : State) (p : Nat) (id : BitVec 8) (c : Change), s.fatal = false → (s.px p).change = some c →
    let acked := c.pauseAcked || decide ((s.port p).lastAck = (s.port p).e)
    (c.handed = true ∨ acked = false ∨ c.pauseBsn = none → ∃ t, exec (.pause p id) s = .next t ∧
      (t.px p).change = some { c with pauseRx := true, pauseAcked := acked } ∧ t.out = s.out) ∧
    (∀ b, c.handed = false → acked = true → c.pauseBsn = some b → (s.port p).una ≠ b → ((s.port p).una - b).toNat < 2048 →
      ∃ t o, exec (.pause p id) s = .next t ∧
        (t.px p).change = some { c with pauseRx := true, pauseAcked := acked, handed := true } ∧ t.out = s.out ++ [o] ∧
        (p < 64 → ∃ how, o = .train p c.result how ∧ how.map LaneTrain.lane = lanesOf c.result ∧ ∀ h ∈ how, h.kind ≠ .cold) ∧
        (64 ≤ p → ∃ speed rows eies, o = .spanTrain p c.result speed rows eies)) ∧
    (∀ t0, c.handed = false → c.pauseTx = some t0 → (s.px p).breakAt = none →
      ∃ t o, exec (.pauseWaitExpiry p) s = .next t ∧ (t.px p).change = some { c with handed := true } ∧ t.out = s.out ++ [o] ∧
        (∃ bound, (t.px p).training = some (c.result, bound)) ∧
        (p < 64 → ∃ how, o = .train p c.result how ∧ how.map LaneTrain.lane = lanesOf c.result ∧ ∀ h ∈ how, h.kind ≠ .cold) ∧
        t0 ≤ t.now) ∧
    (s.portState p ≠ 2 → exec (.changeLimitExpiry p) s = .next ((s.passTo c.due).portBreak p 3 false)) ∧
    (∀ (set : BitVec 4) (bound us deskew : Nat) (ends : LaneEnds), p < 67 → s.domOn (portDom p) = true →
      (s.px p).training = some (set, bound) →
      (s.mediumOk p = true → trainingHolds p set bound us deskew ends = true → s.regs.wf = true → s.portState p = 4 →
        ∃ t, exec (.laneTrainingComplete p set ends us deskew) s = .next t ∧ t.active p = set ∧ t.portState p = 4 ∧
          (t.px p).change = some { c with trained := true } ∧ t.port p = s.port p) ∧
      (s.mediumOk p = false ∨ trainingHolds p set bound us deskew ends = false → exec (.laneTrainingComplete p set ends us deskew) s =
        .next ((s.updX p fun x => { x with training := none }).portBreak p 3 false)))) ∧
  (∀ (s : State) (p : Nat) (b : BitVec 12) (t0 : Nat), (s.px p).breakAt = some (some (b, t0)) →
    exec (.pauseWaitExpiry p) s = .next ((s.passTo t0).portBreak p 4 false)) ∧
  (∀ (s : State) (p : Nat), s.portState p = 2 →
    exec (.changeLimitExpiry p) s = .next ((s.passTo (s.px p).initDue).portDown p 11 false))

/-- R228, R229, R230, R235, R242, R249, R250, R253, R262: each cause breaks the port, which is then DOWN with that cause, its replay buffer,
open packets and credit gone, the packets lost counted, and its queue held for GRACE; a lane's wait for credit starts when its head finds
too little or the credit grows; a lost fabric lane is blamed unless its clock was lost; ENABLE trains a port that may train and its fall
announces electrical idle; an exit signal wakes the port. EI_NEXT takes a fabric port that carries packets DOWN and puts a span port's
receive direction in idle. -/
def Obligations.PortsBreakEnableAndRetry : Prop :=
  (∀ (s : State) (p cause : Nat) (held : Bool), s.regs.wf = true → p < 67 → s.carrying p = true → cause < 16 →
    let t := s.portBreak p cause held
    t.portState p = 1 ∧ t.rdF (R.LNK_STATE p) F.LNK_STATE_CAUSE = cause ∧ t.active p = 0 ∧ t.port p = portInit ∧
      t.rdF (R.LNK_STATE p) F.LNK_STATE_HELD = (if held then 1 else s.rdF (R.LNK_STATE p) F.LNK_STATE_HELD) ∧
      (t.px p).graceAt = some (s.now + 10000 * s.tmr R.LNK_TMR_A F.LNK_TMR_A_GRACE 1 1000) ∧ (t.px p).change = none ∧
      t.rdF (R.LNK_CNT p 7) F.LNK_CNT_COUNT =
        Nat.min (2 ^ 48 - 1) (s.rdF (R.LNK_CNT p 7) F.LNK_CNT_COUNT + lostPackets (s.port p))) ∧
  (∀ (s : State) (p v : Nat) (b : BPkt) (bs : List BPkt), s.laneQ p v = b :: bs → s.carrying p = true → s.fatal = false →
    (∀ due, (s.port p).stall.get? v = some due → exec (.creditTimeout p v) s = .next ((s.passTo due).portBreak p 2 false)) ∧
    (((s.port p).credit.get? v).getD 0 < grainsOf b.pkt →
      (∀ anew, anew = true ∨ (s.port p).stall.get? v = none →
        ((s.stallSet p v anew).port p).stall.get? v = some (s.now + 100000 * s.tmr R.LNK_TMR_A F.LNK_TMR_A_CREDIT_TO 1 650)) ∧
      ((s.port p).stall.get? v ≠ none → s.stallSet p v false = s))) ∧
  (∀ (s : State) (p : Nat) (lanes : BitVec 4) (clockLane : Bool), s.linked p = true → s.fatal = false →
    let u := s.portBreak p 5 false
    (p < 64 → lanes &&& s.active p = 0 → exec (.laneLost p lanes clockLane) s = .next s) ∧
    (p < 64 → lanes &&& s.active p ≠ 0 → (s.pwr.clkLost.get? (quadrant p)).isSome = true →
      exec (.laneLost p lanes clockLane) s = .next u) ∧
    (p < 64 → lanes &&& s.active p ≠ 0 → s.pwr.clkLost.get? (quadrant p) = none → exec (.laneLost p lanes clockLane) s =
      .next ((lanesOf (lanes &&& s.active p)).foldl (fun s i => s.blame p i s.failCount) u)) ∧
    (64 ≤ p → p < 67 → clockLane = false → exec (.laneLost p lanes clockLane) s = .next u)) ∧
  (∀ (s : State) (p lane n c : Nat) (t0 : Nat), s.regs.wf = true → p < 67 → lane < 4 → (s.failed p).getLsbD lane = false →
    (s.px p).blames.get? lane = some (c, t0) → s.now ≤ t0 →
    (c + n < s.failCount → ((s.blame p lane n).px p).blames.get? lane = some (c + n, t0) ∧
      (s.blame p lane n).failed p = s.failed p) ∧
    (s.failCount ≤ c + n → ((s.blame p lane n).failed p).getLsbD lane = true)) ∧
  (∀ (s : State) (p lane c t0 : Nat), (s.px p).blames.get? lane = some (c, t0) → (s.px p).blames.wf = true →
    ∃ t, exec (.failWindowExpiry p lane) s = .next t ∧ (t.px p).blames.get? lane = none ∧
      t0 ≤ t.now ∧ t.failed p = s.failed p) ∧
  (∀ (s : State) (p : Nat), s.regs.wf = true → s.linked p = true → s.fatal = false →
    (p < 64 → ∃ t, exec (.eiNextReceive p) s = .next t ∧
      (s.carrying p = true → t.portState p = 1 ∧ t.rdF (R.LNK_STATE p) F.LNK_STATE_CAUSE = 12) ∧
      (s.carrying p = false → t.portState p = 2) ∧
      ∀ i, i < 4 → t.rdF (R.LAN_STAT (4 * p + i)) F.LAN_STAT_PEER_EI = 1 ∧ t.rdF (R.LAN_STAT (4 * p + i)) F.LAN_STAT_EI = 1) ∧
    (64 ≤ p → p < 67 → exec (.eiNextReceive p) s = .next (s.wrF (R.SPN_STAT (p - 64)) F.SPN_STAT_PEER_EI 1))) ∧
  (∀ (s : State) (p : Nat) (lanes : BitVec 4), s.regs.wf = true → p < 64 → s.fatal = false → s.domOn p = true → lanes ≠ 0 →
    s.slept p = false → ∃ t, exec (.exitSignalDetect p lanes) s = .next t ∧
      (∀ i, i < 4 → t.rdF (R.LAN_STAT (4 * p + i)) F.LAN_STAT_PEER_EI = 0 ∧
        (lanes.getLsbD i = true → t.rdF (R.LAN_STAT (4 * p + i)) F.LAN_STAT_WAKE_SEEN = 1)) ∧
      (∀ l, s.mayTrain p = true → s.trainSet p = some l → (s.px p).training = none → s.mediumOk p = true →
        (∃ bound, (t.px p).training = some (l, bound)) ∧
        ∃ how, t.out = s.out ++ [.exitSignal p (s.allowed p &&& ~~~ s.failed p), .train p l how]) ∧
      (s.mayTrain p = false → t.out = s.out)) ∧
  (∀ (s : State) (p : Nat) (lanes : BitVec 4), s.regs.wf = true → p < 64 → s.fatal = false → s.domOn p = true → lanes ≠ 0 →
    s.slept p = true → ∃ t, exec (.exitSignalDetect p lanes) s = .next t ∧ t.slept p = false) ∧
  (∀ (s : State) (rid p : Nat) (val : Word), s.regs.wf = true → p < 67 → ridFull rid = true → s.barOpen rid = true →
    s.regCause (R.LNK_CTL p) = none → s.rdF R.STC_STAT F.STC_STAT_RESET_NEEDED = 0 →
    (bitAt val 0 = true → s.pend (portSrc p + 3) = true →
      exec (.portEnable rid p val) s = .next (s.wrF (R.LNK_CMD p) F.LNK_CMD_STATUS 5)) ∧
    (bitAt val 0 = true → s.pend (portSrc p + 3) = false → ∃ t, exec (.portEnable rid p val) s = .next t ∧
      t.rdF (R.LNK_CTL p) F.LNK_CTL_ENABLE = 1 ∧ t.allowed p = laneSet (getF val F.LNK_CTL_LANES_ALLOWED) ∧ t.slept p = false) ∧
    (bitAt val 0 = false → ∃ t, exec (.portDisable rid p val) s = .next t ∧ t.rdF (R.LNK_CTL p) F.LNK_CTL_ENABLE = 0 ∧
      t.allowed p = laneSet (getF val F.LNK_CTL_LANES_ALLOWED) ∧
      (s.linked p = true → .electricalIdle p (decide (p < 64)) ∈ t.out.drop s.out.length) ∧
      (s.carrying p = true → t.portState p = 1 ∧ t.rdF (R.LNK_STATE p) F.LNK_STATE_CAUSE = 1) ∧
      (s.portState p = 2 → t.portState p = 2))) ∧
  (∀ (s : State) (p : Nat) (l : BitVec 4), s.mayTrain p = true → s.rdF R.STC_STAT F.STC_STAT_RESET_NEEDED = 0 → s.trainSet p = some l →
    (64 ≤ p ∨ ∃ i, i < 4 ∧ s.rdF (R.LAN_STAT (4 * p + i)) F.LAN_STAT_PEER_EI ≠ 1) → (s.px p).training = none →
    ∃ t, exec (.trainingRetry p) s = .next t ∧ (t.px p).trainAt = some (t.now + 1000000) ∧
      (s.mediumOk p = false → t.out = s.out ∧ (s.regs.wf = true → t.rdF (R.LNK_STATE p) F.LNK_STATE_CAUSE = 11)) ∧
      (s.mediumOk p = true → (∃ bound, (t.px p).training = some (l, bound)) ∧
        (p < 64 → ∃ how, t.out = s.out ++ [.exitSignal p (s.allowed p &&& ~~~ s.failed p), .train p l how] ∧
          how.map LaneTrain.lane = lanesOf l) ∧
        (64 ≤ p → ∃ o, t.out = s.out ++ [o]))) ∧
  (∀ (s : State) (p bound : Nat) (set : BitVec 4), s.fatal = false → s.domOn (portDom p) = true →
    (s.px p).training = some (set, bound) →
    let u := s.updX p fun x => { x with training := none }
    ((s.px p).change = none → exec (.trainingFail p) s =
      .next ((u.lanes p set [(F.LAN_STAT_WARM, 0)]).wrF (R.LNK_STATE p) F.LNK_STATE_CAUSE 11)) ∧
    ((s.px p).change ≠ none → exec (.trainingFail p) s = .next (u.portBreak p 3 false)))

/-! ### Span links (11_lanes) -/

/-- R256, R257, R258, R260, R262, R263: code groups sent on the data lanes come back as the symbols they stand for, and the rows
of a block as its image, without an error; a CRD sequence with the right CRC-8 acts as one credit total, and one with a code error
is discarded; a span transmitter stops its lanes only when every condition of R262 holds, and leaves electrical idle when one
fails, its idle run starting afresh; a SPEED that differs from SPEED_NOW asks for a speed change. (The code tables themselves are
taken from the standard that R256 names: log 51.) R237, R238, R240: each interval every running port sends TIME; under the
DEADBAND and STEP_MAX with which the interval began, the largest offset measured does nothing within DEADBAND, slews fabric time
up to 1 µs, steps it forward beyond, or above a STEP_MAX that is not 0 is refused, which breaks a port that carries packets with
cause 13 and holds it; fabric time never goes back. -/
def Obligations.SpanLinksAndFabricTime : Prop :=
  (∀ (rd : Bool) (y : Sym), symOf rd (encodeSym rd y).1 = some y ∧ rdAfter rd (encodeSym rd y).1 = (encodeSym rd y).2) ∧
  (∀ (ls : List Nat) (rds : BitVec 16) (rows : List (List Sym)), (∀ r ∈ rows, r.length = ls.length) →
    decodeRows ls rds (encodeRows ls rds rows).1 = (rows.map fun r => r.map some, (encodeRows ls rds rows).2)) ∧
  (∀ (ls : List Nat) (image : List Byte), ls ≠ [] → image.length = 522 →
    let rows := (blockRows ls.length image).map fun r => r.map some
    blockBytes ls.length rows = image ∧ blockErrors ls (ceilDiv 522 ls.length + 2) rows = []) ∧
  (∀ b : Block, b.flits.length = 8 → (∀ f ∈ b.flits, f.kind < 4) → (imageOf b).length = 522 ∧ blockOf (imageOf b) = b) ∧
  (∀ (s : State) (k : Nat) (crd vl : List (BitVec 10)) (total : List (List (BitVec 10))) (crc : List (BitVec 10)), k < 3 →
    s.linked (64 + k) = true → s.fatal = false → s.retraining (64 + k) = false →
    let ls := dataLanes (s.active (64 + k))
    let r := s.rowsIn (64 + k) (crd :: vl :: (total ++ [crc]))
    let errs := r.1.flatMap fun row => (List.range ls.length).flatMap fun j => if row.getD j none = none then [ls.getD j 0] else []
    let seen := crdParse (r.1.map fun row => row.getD 0 none)
    (errs ≠ [] → exec (.crdSequence (64 + k) crd vl total crc) s = .next (r.2.laneErrs (64 + k) errs)) ∧
    (errs = [] → seen = none → exec (.crdSequence (64 + k) crd vl total crc) s = .next r.2) ∧
    (∀ v t, errs = [] → seen = some (v, t) → exec (.crdSequence (64 + k) crd vl total crc) s = .next (r.2.creditTotal (64 + k) v t))) ∧
  (∀ (v : Nat) (total : BitVec 24), v < 32 →
    crdParse (some .crd :: (crdBytes v total).map fun b => some (.data b)) = some (v, total)) ∧
  (∀ v b0 b1 b2 c : Byte, c ≠ crc8 [v, b0, b1, b2] →
    crdParse (some .crd :: [v, b0, b1, b2, c].map fun b => some (.data b)) = none) ∧
  (∀ (s : State) (k : Nat), s.regs.wf = true → k < 3 → s.fatal = false → s.silent (64 + k) = false →
    (s.eiAllowed k = true → ∃ t rows, exec (.spanEiEntry k) s = .next t ∧ t.silent (64 + k) = true ∧
      t.out = s.out ++ [.symbols (64 + k) rows, .electricalIdle (64 + k) true] ∧ t.port (64 + k) = s.port (64 + k)) ∧
    (s.eiAllowed k = false → exec (.spanEiEntry k) s = .next s)) ∧
  (∀ (s : State) (k : Nat), s.eiAllowed k = true → s.rdF (R.SPN_CTL k) F.SPN_CTL_EI_EN = 1 ∧ s.portState (64 + k) = 3 ∧
    (s.port (64 + k)).next = (s.port (64 + k)).una ∧ (s.port (64 + k)).nak = false ∧
    (∀ v, v < 32 → uncarriedOf (s.port (64 + k)) v = 0) ∧ (s.port (64 + k)).lastAck = (s.port (64 + k)).e ∧
    (s.port (64 + k)).ctrl = [] ∧ (s.port (64 + k)).txMain = none ∧ (s.port (64 + k)).txPre = none ∧ s.selects (64 + k) = none) ∧
  (∀ (s : State) (k : Nat), s.regs.wf = true → k < 3 → s.fatal = false → s.silent (64 + k) = true → s.carrying (64 + k) = true →
    s.eiAllowed k = false →
    ∃ t rows, exec (.spanEiExit k) s = .next t ∧ t.silent (64 + k) = false ∧
      t.out = s.out ++ [.exitSignal (64 + k) (s.active (64 + k)), .symbols (64 + k) rows] ∧
      (t.px (64 + k)).idleRun = 0 ∧ t.port (64 + k) = s.port (64 + k) ∧ s.now < t.now) ∧
  (∀ (s : State) (rid k : Nat) (val : Word), s.regs.wf = true → k < 3 → ridFull rid = true → s.barOpen rid = true →
    s.regCause (R.SPN_CTL k) = none →
    ∃ t, exec (.spanSpeedWrite rid k val) s = .next t ∧ t.rdF (R.SPN_CTL k) F.SPN_CTL_SPEED = getF val F.SPN_CTL_SPEED ∧
      t.rdF (R.SPN_CTL k) F.SPN_CTL_IDLE_RUN = getF val F.SPN_CTL_IDLE_RUN ∧
      (getF val F.SPN_CTL_SPEED = s.rdF (R.SPN_STAT k) F.SPN_STAT_SPEED_NOW → t.lnk = s.lnk) ∧
      (getF val F.SPN_CTL_SPEED ≠ s.rdF (R.SPN_STAT k) F.SPN_STAT_SPEED_NOW → s.portState (64 + k) = 3 →
        (s.px (64 + k)).ownReq = none → (s.px (64 + k)).change = none → ∃ r, (t.px (64 + k)).ownReq = some r ∧ r.op = 2 ∧
          r.lanes = s.active (64 + k) ∧ r.who = rid ∧ r.speed = decide (getF val F.SPN_CTL_SPEED = 1))) ∧
  (∀ s : State, s.fatal = false → s.domOn 91 = true →
    let u := s.passTo s.lnk.nextTick
    let dead := s.lnk.deadband
    let max := s.lnk.stepMax
    ∃ t, exec .syncIntervalTick s = .next t ∧ s.ft ≤ t.ft ∧ t.lnk.meas = [] ∧
      t.lnk.deadband = s.rdF R.LNK_TIME_CTL F.LNK_TIME_CTL_DEADBAND ∧ t.lnk.stepMax = s.rdF R.LNK_TIME_CTL F.LNK_TIME_CTL_STEP_MAX ∧
      t.lnk.nextTick = u.now + 1000 * s.tmr R.LNK_TIME_CTL F.LNK_TIME_CTL_SYNC_INTERVAL 1 255 ∧
      (bestMeas s.lnk.meas = none → t.ft = u.ft ∧ t.lnk.slew = u.lnk.slew ∧
        ∀ p, p < 67 → s.linked p = true → (t.port p).ctrl = (s.port p).ctrl ++ [blankFlit 8 0]) ∧
      ∀ p ofs half, bestMeas s.lnk.meas = some (p, ofs, half) →
        (p, ofs, half) ∈ s.lnk.meas ∧ (∀ m ∈ s.lnk.meas, m.2.1 ≤ ofs) ∧
        (ofs ≤ dead → t.ft = u.ft ∧ t.lnk.slew = u.lnk.slew) ∧
        ((dead : Int) < ofs → ofs ≤ 1000 → t.ft = u.ft ∧ t.lnk.slew = ofs.toNat) ∧
        ((dead : Int) < ofs → 1000 < ofs → max = 0 ∨ ofs ≤ ((max * 1000 : Nat) : Int) → t.ft = u.ft + ofs.toNat ∧ t.lnk.slew = 0 ∧
          t.pwr.calOfs = u.pwr.calOfs - (ofs.toNat : Int)) ∧
        ((dead : Int) < ofs → 1000 < ofs → max ≠ 0 → ((max * 1000 : Nat) : Int) < ofs → t.ft = u.ft ∧
          (s.regs.wf = true → p < 67 → s.carrying p = true →
            t.portState p = 1 ∧ t.rdF (R.LNK_STATE p) F.LNK_STATE_CAUSE = 13 ∧ t.rdF (R.LNK_STATE p) F.LNK_STATE_HELD = 1) ∧
          (s.portState p = 2 → t.portState p = 2 ∧ (t.px p).timed = false)))

/-! ### Host interface and interrupt controller (12_host) -/

/-- R278 to R282: each reset event starts the drain of the functions it names: the configuration space takes its reset values, the vectors
are masked, the function's queue pairs and windows close, its keys go and its admin queues stop; a further event clears held enables only.
The drain ends when nothing of it is outstanding, or by force after 100 ms; a held enable then takes effect, and a virtual function's end
is shown. -/
def Obligations.FunctionsDrainAndRestart : Prop :=
  (∀ (s : State) (f : Nat), fnOk f = true → s.domRuns (64 + fnPort f) = true →
    exec (.functionLevelReset f) s = .next (s.drainFn f 0) ∧ exec (.d3hotToD0 f) s = .next (s.drainFn f 1) ∧
    (isPf f = false → s.drainFn f 0 = s.drainOne f 0)) ∧
  (∀ (s : State) (f cause : Nat), fnOk f = true → isPf f = false → (s.fn f).drain = none → s.regs.wf = true →
    s.ten.qps.wf = true → s.wins.wf = true → s.ten.fns.wf = true →
    let t := s.drainOne f cause
    (t.fn f).drain = some { start := s.now, cause := cause } ∧ (t.fn f).bme = false ∧ (t.fn f).unmasked = [] ∧ (t.fn f).keys = [] ∧
      (t.fn f).forced = false ∧ (t.fn f).resets = Nat.min 65535 ((s.fn f).resets + 1) ∧ (t.fn f).acqWait = [] ∧
      t.rdF (R.TEN_ADMIN_SQ f) F.TEN_ADMIN_SQ_ENABLE = 0 ∧ t.rdF (R.TEN_ADMIN_CQ f) F.TEN_ADMIN_CQ_ENABLE = 0 ∧
      (∀ a ∈ t.ten.allocs, a.fn ≠ f) ∧ (∀ q v, t.ten.qps.get? q = some v → v.fn = f → v.st = .quarantine) ∧
      (∀ w v, t.wins.get? w = some v → v.owner = f → v.st ≠ .open_) ∧ t.hbm = s.hbm) ∧
  (∀ (s : State) (f cause : Nat) (d : Drain), (s.fn f).drain = some d → s.ten.fns.wf = true →
    let t := s.drainOne f cause
    (t.fn f).drain = some d ∧ (t.fn f).held = false ∧ (t.fn f).asqHeld = false ∧ (t.fn f).acqHeld = false ∧ t.ten.qps = s.ten.qps ∧
      t.wins = s.wins ∧ t.grps = s.grps) ∧
  (∀ (s : State) (h : Nat), h < 2 → s.domRuns (64 + h) = true →
    exec (.vfEnableClear h) s = .next ((s.vfs h).foldl (fun s v => s.drainOne v 2) s) ∧
    exec (.hotReset h) s = .next (s.drainPort h) ∧ exec (.hostLinkDown h) s = .next (s.hostLinkDown h) ∧
    (s.rdF (R.HST_PORT_STAT h) F.HST_PORT_STAT_PERST = 0 →
      exec (.perstAssert h) s = .next ((s.perst h true).drainPort h)) ∧
    (s.ten.fns.wf = true → (∀ f, f ∈ h * 0x800 :: s.vfs h → ((s.drainPort h).fn f).drain.isSome = true) ∧
      ((s.hostLinkDown h).fn (h * 0x800)).drain.isSome = true) ∧
    (s.regs.wf = true → (s.hostLinkDown h).rdF (R.HST_PORT_STAT h) F.HST_PORT_STAT_LINK_UP = 0)) ∧
  (∀ (s : State) (f : Nat) (d : Drain), (s.fn f).drain = some d → s.fatal = false → fnOk f = true → s.ten.fns.wf = true →
    (s.drainOver f = false → exec (.resetDrainEnd f) s = .next s) ∧
    (s.drainOver f = true → ∃ t, exec (.resetDrainEnd f) s = .next t ∧ (t.fn f).drain = none ∧ (t.fn f).bme = (s.fn f).held ∧
      (t.fn f).held = false ∧ (t.fn f).forced = false ∧ (t.fn f).asqHeld = false ∧
      (s.hst.heldDb = [] → (s.fn f).asqHeld = true → (t.fn f).asqProd = 0 ∧ (t.fn f).asqCons = 0)) ∧
    (isPf f = false → ∃ t, exec (.resetDrainTimeout f) s = .next t ∧ (t.fn f).drain = none ∧ (t.fn f).bme = (s.fn f).held ∧
      (t.fn f).forced = true ∧ d.start + 100000000 ≤ t.now ∧
      (s.wins.wf = true → (s.fn f).held = false → ∀ w v, t.wins.get? w = some v → v.owner = f → v.st ≠ .revoking)) ∧
    (s.domRuns (64 + fnPort f) = true → ∀ b, exec (.busMasterEnableWrite f b) s = .next (s.setFn f { s.fn f with held := b }))) ∧
  (∀ (s : State) (f : Nat), fnOk f = true → s.domRuns (64 + fnPort f) = true → (s.fn f).drain = none →
    exec (.busMasterEnableWrite f false) s = .next (s.setFn f { s.fn f with bme := false }) ∧
    ((s.fn f).bme = false → exec (.busMasterEnableWrite f true) s =
      .next ((s.setFn f { s.fn f with bme := true }).becameReady f)) ∧
    ((s.fn f).bme = true → exec (.busMasterEnableWrite f true) s = .next (s.setFn f { s.fn f with bme := true })))

/-- R271, R272: the writes of a function lay the bytes over requests of at most Max Payload Size that cross no 4 KiB boundary and split no
aligned 8-byte unit, and its reads ask for at most Max Read Request Size, with the attributes that Device Control enables. R283 to
R285, R291, R292: an unmasked vector's pending message is sent only if its cause still stands; a failed stream enters Insecure
and is shown and recorded; the mailbox answers DOE Discovery, takes one SPDM object at a time, and shows DOE Error for an object too long,
of another type or during an exchange, until an abort; a change of the host link or of PERSTh_N is shown and recorded. -/
def Obligations.HostPortsShowMasksIdeDoeAndLink : Prop :=
  (∀ (s : State) (fn : Nat) (ps : List Piece) (ro : Bool) (data : List Byte), (ps.map Piece.len).sum = data.length →
    (s.hostWrites fn ps ro data).flatMap writtenBytes = data ∧
    (∀ o ∈ s.hostWrites fn ps ro data, ∃ bus rl ns d, o = .hostWrite fn bus rl ns d ∧ 0 < d.length ∧ d.length ≤ s.maxPayload fn ∧
      d.length ≤ 512 ∧ bus / 4096 = (bus + d.length - 1) / 4096 ∧ ((∃ p ∈ ps, p.bus = bus) ∨ bus % 8 = 0) ∧
      (rl = true → ro = true ∧ s.roOn fn = true) ∧ (ns = true → s.snoopOff fn = true)) ∧
    ((s.hostReads fn ps).map fun r => r.2.1).sum = data.length ∧
    (∀ r ∈ s.hostReads fn ps, 0 < r.2.1 ∧ r.2.1 ≤ s.maxRead fn ∧ r.1 / 4096 = (r.1 + r.2.1 - 1) / 4096 ∧
      (r.2.2 = true → s.snoopOff fn = true))) ∧
  (∀ (s : State) (f vec : Nat), fnOk f = true → s.domRuns (64 + fnPort f) = true → isPf f = false → s.ten.fns.wf = true →
    vec < 2048 → (s.fn f).unmasked.contains vec = false → (s.fn f).funcMask = false → s.fnReady f = true →
    ∃ t, exec (.msixUnmask f vec) s = .next t ∧ (t.fn f).unmasked = vec :: (s.fn f).unmasked ∧
      ((s.fn f).pend.contains vec = false → t.out = s.out) ∧
      ((s.fn f).pend.contains vec = true → (t.fn f).pend.contains vec = false ∧
        (s.vecCause f vec = true → t.out = s.out ++ [.msix f vec]) ∧ (s.vecCause f vec = false → t.out = s.out))) ∧
  (∀ (s : State) (h i : Nat), s.regs.wf = true → h < 2 → s.domRuns (64 + h) = true → i ≤ 8 →
    (s.rdF (R.HST_IDE_STAT h) (ideBit i) = 0 → exec (.ideIntegrityFail h i) s = .next s) ∧
    (s.rdF (R.HST_IDE_STAT h) (ideBit i) = 1 → ∃ t, exec (.ideIntegrityFail h i) s = .next t ∧
      t.rdF (R.HST_IDE_STAT h) (ideBit i) = 0 ∧ t.rdF (R.HST_IDE_STAT h) F.HST_IDE_STAT_FAIL = 1 ∧
      t.rdF (R.HST_IDE_STAT h) F.HST_IDE_STAT_FAIL_STREAM =
        (if s.rdF (R.HST_IDE_STAT h) F.HST_IDE_STAT_FAIL = 0 then i else s.rdF (R.HST_IDE_STAT h) F.HST_IDE_STAT_FAIL_STREAM) ∧
      (h, i) ∈ t.hst.insecure ∧ (∀ j, j ≤ 8 → j ≠ i → t.rdF (R.HST_IDE_STAT h) (ideBit j) = s.rdF (R.HST_IDE_STAT h) (ideBit j)))) ∧
  (∀ (s : State) (h n : Nat) (ty : DoeType), h < 2 → s.domRuns (64 + h) = true → s.fatal = false → (s.doe h).error = false →
    (s.fn (h * 0x800)).drain = none →
    (65536 < n ∨ ty = .other ∨ (s.doe h).busy = true → exec (.doeRequest h ty n) s = .next (s.setDoe h { s.doe h with error := true })) ∧
    (n ≤ 65536 → ty = .discovery → (s.doe h).busy = false → exec (.doeRequest h ty n) s = .next (s.doeAnswer h)) ∧
    (n ≤ 65536 → ty ≠ .discovery → ty ≠ .other → (s.doe h).busy = false → exec (.doeRequest h ty n) s =
      .next (s.setDoe h { busy := true, pending := false, error := false })) ∧
    (s.hst.doe.wf = true → ∃ t, exec (.doeAbort h) s = .next t ∧ t.doe h = doeInit ∧ t.ten = s.ten ∧ t.out = s.out)) ∧
  (∀ (s : State) (h speed width : Nat) (flit l0p l1 : Bool), s.regs.wf = true → h < 2 → s.domRuns (64 + h) = true →
    1 ≤ speed → speed ≤ 6 → width ∈ [1, 2, 4, 8, 16] →
    ∃ t, exec (.hostLinkChange h true speed width flit l0p l1) s = .next t ∧
      t.rdF (R.HST_PORT_STAT h) F.HST_PORT_STAT_LINK_UP = 1 ∧ t.rdF (R.HST_PORT_STAT h) F.HST_PORT_STAT_SPEED = speed ∧
      t.rdF (R.HST_PORT_STAT h) F.HST_PORT_STAT_WIDTH = width ∧ t.rdF (R.HST_PORT_STAT h) F.HST_PORT_STAT_FLIT = b2n flit ∧
      (s.rdF (R.HST_PORT_STAT h) F.HST_PORT_STAT_LINK_UP = 0 ∨ s.rdF (R.HST_PORT_STAT h) F.HST_PORT_STAT_SPEED ≠ speed ∨
        s.rdF (R.HST_PORT_STAT h) F.HST_PORT_STAT_WIDTH ≠ width → t.rdF (R.HST_PORT_STAT h) F.HST_PORT_STAT_CHANGE = 1) ∧
      t.ten.qps = s.ten.qps ∧ t.lnk = s.lnk) ∧
  (∀ (s : State) (h : Nat), s.regs.wf = true → h < 2 → s.domRuns (64 + h) = true → s.boot.pwrGood = true →
    s.rdF (R.HST_PORT_STAT h) F.HST_PORT_STAT_PERST = 1 →
    ∃ t, exec (.perstDeassert h) s = .next t ∧ t.rdF (R.HST_PORT_STAT h) F.HST_PORT_STAT_PERST = 0 ∧
      t.rdF (R.HST_PORT_STAT h) F.HST_PORT_STAT_CHANGE = 1)

/-- R286 to R289: a high source makes the controller deliver to every open target that has a claimable source, and a delivery starts the
target's mask window; a claim takes the claimable source of the highest PRIORITY, the lowest number among equals, into service, or returns
0x100; an EOI ends the service and re-samples; so do the window's end and a write of IRC_SRC or IRC_TGT. -/
def Obligations.InterruptsAreDeliveredClaimedAndEnded : Prop :=
  (∀ (s : State) (t n : Nat), (s.ircBest t = some n → n < 256 ∧ s.claimable t n = true ∧
      ∀ m, m < 256 → s.claimable t m = true → s.ircPrio m < s.ircPrio n ∨ (s.ircPrio m = s.ircPrio n ∧ n ≤ m)) ∧
    (s.ircBest t = none → n < 256 → s.claimable t n = false)) ∧
  (∀ (s : State) (t n : Nat), s.claimable t n = true → s.ircPrio n ≠ 0) ∧
  (∀ (s : State) (n : Nat), (s.ircLevel n = true → exec (.ircSourceRise n) s = .next ((List.range 6).foldl (fun t i => t.resample i) s)) ∧
    (s.ircLevel n = false → exec (.ircSourceRise n) s = .next s)) ∧
  (∀ (s : State) (t : Nat), s.fatal = false → (s.ircBest t).isSome = true → s.tgtOpen t = true → t < 4 →
    let u := s.resample t
    u.out = s.out ++ [.coreInterrupt t] ∧ u.irc.service = s.irc.service ∧
      (s.rdF (R.IRC_TGT t) F.IRC_TGT_WINDOW ≠ 0 → u.irc.windows.get? t = some (s.now + 1000 * s.rdF (R.IRC_TGT t) F.IRC_TGT_WINDOW) ∧
        u.tgtOpen t = false)) ∧
  (∀ (s : State) (t : Nat), s.fatal = true ∨ s.ircBest t = none ∨ s.tgtOpen t = false → s.resample t = s) ∧
  (∀ (s : State) (t e : Nat), s.irc.windows.get? t = some e → exec (.ircWindowEnd t) s = .next
    (({ s.passTo e with irc.windows := s.irc.windows.erase t }.wrF (R.IRC_TGT t) F.IRC_TGT_WINDOW_RUN 0).resample t)) ∧
  (∀ (s : State) (rid t : Nat), ridFull rid = true → s.barOpen rid = true → t < 6 → s.regCause (R.IRC_CLAIM t) = none →
    (s.ircBest t = none → exec (.ircClaim rid t) s = .next (s.emit (.readReturn rid 0x100 8))) ∧
    (∀ n, s.ircBest t = some n → ∃ u, exec (.ircClaim rid t) s = .next u ∧ u.irc.service = (t, n) :: s.irc.service ∧
      u.out = s.out ++ [.readReturn rid (w64 (n + s.ircPrio n * 512)) 8] ∧ u.claimable t n = false ∧ u.regs = s.regs)) ∧
  (∀ (s : State) (rid t : Nat) (val : Word), ridFull rid = true → s.barOpen rid = true → t < 6 → s.regCause (R.IRC_EOI t) = none →
    (getF val F.IRC_EOI_SOURCE ≤ 0xFF → exec (.ircEoi rid t val) s = .next ({ s with irc.service := s.irc.service.filter fun p =>
      !(p.1 == t && p.2 == getF val F.IRC_EOI_SOURCE) }.resample t)) ∧
    (0xFF < getF val F.IRC_EOI_SOURCE → exec (.ircEoi rid t val) s = .next s)) ∧
  (∀ (s : State) (rid n : Nat) (val : Word), s.regs.wf = true → n < 256 → ridFull rid = true → s.barOpen rid = true →
    s.regCause (R.IRC_SRC n) = none →
    let u := s.wrFs (R.IRC_SRC n) [(F.IRC_SRC_TARGETS, getF val F.IRC_SRC_TARGETS), (F.IRC_SRC_PRIORITY, getF val F.IRC_SRC_PRIORITY)]
    exec (.ircConfigWrite rid (R.IRC_SRC n) val) s = .next ((List.range 6).foldl (fun t i => t.resample i) u) ∧
      u.ircPrio n = getF val F.IRC_SRC_PRIORITY)

/-! ### The semaphore unit (13_semaphore) -/

/-- R293, R295, R296, R298, R299, Tables 13.1 and 13.2: an aligned write to a cell of the device's own position is its command: a CLAIM of
a free cell by a requester that may use the group grants it, and of a held one changes nothing; only the holder's RELEASE of a cell that
is not ORPHAN, or a FORCE by the supervisor, frees it, and one not performed is counted; without the right nothing but the refusal happens.
An AtomicOp carries out its command and returns the cell as it then stands, and a read returns it. -/
def Obligations.CellCommandsFollowTable13_2 : Prop :=
  ∀ (s : State) (rid off : Nat) (cmd : Word), s.semOpen rid = true → cellPos off = s.spanPos → off % 8 = 0 → rid < 2 ^ 16 →
    s.sem.cells.wf = true →
    let c := cellNo off
    let w := s.cell c
    let token := bitsOf cmd 16 16
    let own := getF w Cell.owner = rid ∧ getF w Cell.origin = rid ∧ getF w Cell.token = token
    (s.mayUse rid (c / 128) = false →
      exec (.cellClaim rid off 8 cmd) s = .next (s.semRefuse rid c true false) ∧
      exec (.cellRelease rid off 8 cmd) s = .next (s.semRefuse rid c true false) ∧
      exec (.cellRead rid off 8) s = .next ((s.semRefuse rid c false false).emit (.readReturn rid 0 8)) ∧
      ∀ f, ∃ u : State, exec (.cellAtomicop rid off f) s = .next (u.emit (.atomicReturn rid 0 (atomBytes f 0).2)) ∧ u.sem = s.sem) ∧
    (s.supervises rid (c / 128) = false → exec (.cellForce rid off 8 cmd) s = .next (s.semRefuse rid c true true)) ∧
    (s.mayUse rid (c / 128) = true →
      exec (.cellClaim rid off 4 cmd) s = exec (.cellClaim rid off 8 cmd) s ∧
      (getF w Cell.held = 1 → exec (.cellClaim rid off 8 cmd) s = .next s) ∧
      (getF w Cell.held = 0 → ∃ t, exec (.cellClaim rid off 8 cmd) s = .next t ∧ getF (t.cell c) Cell.held = 1 ∧
        getF (t.cell c) Cell.owner = rid ∧ getF (t.cell c) Cell.origin = rid ∧ getF (t.cell c) Cell.token = token ∧
        getF (t.cell c) Cell.seq = (getF w Cell.seq + 1) % 2 ^ 13 ∧ getF (t.cell c) Cell.forced = 0 ∧
        (∀ d, d ≠ c → t.cell d = s.cell d) ∧ t.regs = s.regs ∧ t.hbm = s.hbm ∧ t.out = s.out) ∧
      (getF w Cell.held = 1 → getF w Cell.orphan = 0 → own → ∃ t, exec (.cellRelease rid off 8 cmd) s = .next t ∧
        t.cell c = putF w Cell.held 0 ∧ (∀ d, d ≠ c → t.cell d = s.cell d) ∧ t.regs = s.regs ∧ t.hbm = s.hbm) ∧
      (getF w Cell.held = 0 ∨ getF w Cell.orphan = 1 ∨ ¬ own →
        exec (.cellRelease rid off 8 cmd) s = .next (s.bump (R.SEM_CNT 1) F.SEM_CNT_COUNT 1)) ∧
      exec (.cellRead rid off 8) s = .next (s.emit (.readReturn rid w 8)) ∧
      (∀ op : Word, bitsOf op 0 2 ≠ 2 → exec (.cellAtomicop rid off (.wide op)) s =
        .next ((s.cellCmd rid rid c op).emit (.atomicReturn rid ((s.cellCmd rid rid c op).cell c) 8))) ∧
      ∀ x : BitVec 32, exec (.cellAtomicop rid off (.high x)) s = .next (s.emit (.atomicReturn rid (w64 (bitsOf w 32 32)) 4))) ∧
    (s.supervises rid (c / 128) = true →
      (getF w Cell.held = 1 → ∃ t, exec (.cellForce rid off 8 cmd) s = .next t ∧
        t.cell c = putF (putF (putF w Cell.held 0) Cell.orphan 0) Cell.forced 1 ∧ (∀ d, d ≠ c → t.cell d = s.cell d) ∧ t.hbm = s.hbm) ∧
      (getF w Cell.held = 0 → exec (.cellForce rid off 8 cmd) s = .next (s.bump (R.SEM_CNT 1) F.SEM_CNT_COUNT 1))) ∧
    (∀ size, size ≠ 8 → size ≠ 4 → exec (.cellClaim rid off size cmd) s = .next (s.bump (R.SEM_CNT 3) F.SEM_CNT_COUNT 1))

/-- R266, R300, R302 to R304, Table 13.3: a span request that meets R266 is performed for class 0x2 and the sender's position after the
incarnation check, and answered with the cell; any other is discarded and counted; a NOTICE orphans the named holder's cells; an answer
completes the read or AtomicOp that has its tag, or ends a NOTICE; 20 µs without one drop the request, which completes with 0. Up to 64
NOTICEs wait for their answers on a port; one more replaces them all with a NOTICE that names every cell of this device. -/
def Obligations.SpanRequestsAreServedAndAnswered : Prop :=
  (∀ (s : State) (k : Nat) (p : Packet), s.live = true → s.rte.localQ = [] → p.type = 0x0C → s.spanOk k p = true →
    let rid := 0x2000 + s.posOf k
    let u := s.peerIncCheck (s.posOf k) p.inc
    let c := reqCell p
    (bitsOf p.w4 16 2 = 0 → u.mayUse rid (c / 128) = true → exec (.spanReqRead k p) s = .next (u.spanAnswer k p (u.cell c) false)) ∧
    (bitsOf p.w4 16 2 = 0 → u.mayUse rid (c / 128) = false →
      exec (.spanReqRead k p) s = .next ((u.semRefuse rid c false false).spanAnswer k p 0 true)) ∧
    (bitsOf p.w4 16 2 = 1 → u.cmdRight rid c p.w5 = true → let t : State := u.cellCmd rid (reqOrigin p) c p.w5
      exec (.spanReqWrite k p) s = .next (t.spanAnswer k p (t.cell c) false)) ∧
    (bitsOf p.w4 16 2 = 1 → u.cmdRight rid c p.w5 = false → exec (.spanReqWrite k p) s =
      .next ((u.semRefuse rid c true (bitsOf p.w5 0 2 = 2)).spanAnswer k p 0 true)) ∧
    (bitsOf p.w4 16 2 = 2 → u.mayUse rid (c / 128) = true → u.cmdRight rid c p.w5 = true →
      let t : State := if bitAt p.w4 19 then u else u.cellCmd rid (reqOrigin p) c p.w5
      exec (.spanReqAtomic k p) s = .next (t.spanAnswer k p (t.cell c) false)) ∧
    (bitsOf p.w4 16 2 = 3 → ∃ t, exec (.notice k p) s = .next t ∧ ∀ d, s.sem.cells.wf = true →
      (getF (s.cell d) Cell.held = 0 → t.cell d = s.cell d) ∧
      (getF (s.cell d) Cell.owner ≠ rid → t.cell d = s.cell d) ∧
      (getF (s.cell d) Cell.held = 1 → getF (s.cell d) Cell.owner = rid →
        bitAt p.w6 16 = true ∨ getF (s.cell d) Cell.origin = bitsOf p.w6 0 16 → t.cell d = putF (s.cell d) Cell.orphan 1))) ∧
  (∀ (s : State) (k : Nat) (p : Packet), s.live = true → s.rte.localQ = [] → k < 3 → s.spanOk k p = false →
    (p.type = 0x0C → bitsOf p.w4 16 2 = 0 → exec (.spanReqRead k p) s = .next (s.bump (R.SPN_STAT k) F.SPN_STAT_DISCARD 1)) ∧
    (p.type = 0x0D → exec (.spanResp k p) s = .next (s.bump (R.SPN_STAT k) F.SPN_STAT_DISCARD 1))) ∧
  (∀ (s : State) (k : Nat) (p : Packet) (q : SpanReq), s.live = true → s.rte.localQ = [] → p.type = 0x0D → s.spanOk k p = true →
    let key := k * 256 + bitsOf p.w4 24 8
    (s.sem.reqs.get? key = some q → let u : State := { s with sem.reqs := s.sem.reqs.erase key }
      (q.kind = 0 → exec (.spanResp k p) s = .next (u.emit (.readReturn q.rid (cellPart p.w5 q.low q.size) q.size))) ∧
      (q.kind = 1 → exec (.spanResp k p) s = .next u) ∧
      (q.kind = 2 → exec (.spanResp k p) s = .next (u.emit (.atomicReturn q.rid (cellPart p.w5 q.low q.size) q.size)))) ∧
    (s.sem.reqs.get? key = none → ∃ t, exec (.spanResp k p) s = .next t ∧
      ∀ ns, s.sem.notices.get? k = some ns → t.sem.notices.get? k = some (ns.filter fun n => n.tag != bitsOf p.w4 24 8))) ∧
  (∀ (s : State) (k tag : Nat) (q : SpanReq), s.sem.reqs.get? (k * 256 + tag) = some q →
    ∃ t, exec (.spanReqTimeout k tag) s = .next t ∧ q.due ≤ t.now ∧ t.sem.reqs = s.sem.reqs.erase (k * 256 + tag) ∧
      t.sem.cells = s.sem.cells ∧
      t.out = s.out ++ (if q.kind = 1 then [] else if q.kind = 0 then [.readReturn q.rid 0 q.size] else [.atomicReturn q.rid 0 q.size])) ∧
  (∀ (s : State) (k : Nat) (n : NoticeReq) (ns : List NoticeReq), s.sem.notices.get? k = some (n :: ns) →
    s.portState (64 + k) = 3 → ∃ t p, exec (.noticeResend k) s = .next t ∧ t.rte.entering = s.rte.entering ++ [(64 + k, p)] ∧
      p.type = 0x0C ∧ bitsOf p.w4 16 2 = 3 ∧ (n.origin < 2 ^ 16 → bitAt p.w6 16 = n.all) ∧ n.due ≤ t.now ∧
      t.sem.notices.get? k = some (ns ++ [{ n with due := t.now + 20000 }])) ∧
  (∀ (s : State) (k origin : Nat),
    (((s.sem.notices.get? k).getD []).length < 64 → ∃ n, (s.notice k origin).sem.notices.get? k =
      some ((s.sem.notices.get? k).getD [] ++ [n]) ∧ n.origin = origin ∧ n.all = false ∧ n.due = s.now + 20000) ∧
    (64 ≤ ((s.sem.notices.get? k).getD []).length → ∃ n, (s.notice k origin).sem.notices.get? k = some [n] ∧ n.all = true)) ∧
  (∀ (s : State) (rid off : Nat), s.semOpen rid = true → off % 8 = 0 → cellPos off ≠ s.spanPos →
    (s.peerAt (cellPos off) = false → (∀ cmd, exec (.cellClaim rid off 8 cmd) s = .next (s.bump (R.SEM_CNT 3) F.SEM_CNT_COUNT 1)) ∧
      exec (.cellRead rid off 8) s = .next (s.emit (.readReturn rid 0 8))) ∧
    (s.peerAt (cellPos off) = true → ridClass rid = 1 ∨ s.mayUse rid (cellNo off / 128) = true →
      s.portState (64 + s.spanTo (cellPos off)) ≠ 3 → exec (.cellRead rid off 8) s =
        .next ((s.bump (R.SEM_CNT 2) F.SEM_CNT_COUNT 1).emit (.readReturn rid 0 8))))

/-- R295, R300, R301: the device never frees a lock on its own: but for the commands that can carry a RELEASE or a FORCE, and those that
reset or start the device, every command leaves a held cell held, with its OWNER, ORIGIN, TOKEN and SEQ, and an ORPHAN one ORPHAN; and the write of
a command other than FORCE leaves an ORPHAN cell as it is. -/
def Obligations.LocksAreNeverTakenAway : Prop :=
  (∀ (i : Instr) (s t : State) (c : Nat),
    unlocks i = false ∨ (s.boot.holding = false ∧ ∃ k x, i = .channelSample k x) → s.sem.cells.wf = true → exec i s = .next t →
    getF (s.cell c) Cell.held = 1 →
    getF (t.cell c) Cell.held = 1 ∧ getF (t.cell c) Cell.owner = getF (s.cell c) Cell.owner ∧
      getF (t.cell c) Cell.origin = getF (s.cell c) Cell.origin ∧ getF (t.cell c) Cell.token = getF (s.cell c) Cell.token ∧
      getF (t.cell c) Cell.seq = getF (s.cell c) Cell.seq ∧
      (getF (s.cell c) Cell.orphan = 1 → getF (t.cell c) Cell.orphan = 1)) ∧
  (∀ (s t : State) (rid off size c : Nat) (cmd : Word), s.sem.cells.wf = true → getF (s.cell c) Cell.held = 1 →
    getF (s.cell c) Cell.orphan = 1 →
    exec (.cellClaim rid off size cmd) s = .next t ∨ exec (.cellRelease rid off size cmd) s = .next t → t.cell c = s.cell c)

/-! ### Start, firmware, life cycle and attestation (14_start) -/

/-- R308 to R317, R321, R420 to R422: PWR_GOOD's rise holds the device in STAGE 0 until its rails are in range; the boot then advances the
boot count, measures, and reads the directory, or enters recovery mode with its cause, in which only M0, the keystore and domain 92 stay on;
a fall of PWR_GOOD stops every other domain, loses what they held, lets a pending life-cycle state take effect and starts the closing
write; RESET is taken only in recovery mode and outside the fatal state. -/
def Obligations.DevicesBootFallAndRecover : Prop :=
  (∀ (s : State) (b : Bool) (pos : BitVec 2), exec .aoPowerOn s = .next { s with boot.ao := true } ∧
    (s.boot.ao = true → s.boot.pwrGood = false → exec (.pwrGoodRise b pos) s = .next (s.rise b pos)) ∧
    (s.boot.ao = false ∨ s.boot.pwrGood = true → exec (.pwrGoodRise b pos) s = .next s) ∧
    (s.boot.pwrGood = true → exec .pwrGoodFall s = .next s.fall) ∧ (s.boot.pwrGood = false → exec .pwrGoodFall s = .next s) ∧
    (s.boot.ao = true → exec .vddAoLoss s = .next s.aoLoss) ∧
    (s.stage = 15 → s.boot.pwrGood = true → s.fatal = false →
      exec (.reset b pos) s = .next ((s.emit (.smbus [])).fall.rise b pos)) ∧
    (s.stage ≠ 15 ∨ s.boot.pwrGood = false ∨ s.fatal = true → exec (.reset b pos) s = .next s) ∧
    (s.evr.closing = true → s.boot.ao = true → s.boot.pwrGood = false → ∃ t, exec .closingWriteComplete s = .next t ∧
      t.evr.closing = false ∧ t.evr.closed = true ∧ t.evr.slots = s.evr.slots ∧ t.boot = s.boot)) ∧
  (∀ (s : State) (b : Bool) (pos : BitVec 2), s.regs.wf = true → s.railsIn = false → s.boot.ao = true → s.boot.pwrGood = false →
    ∃ t, exec (.pwrGoodRise b pos) s = .next t ∧ t.boot.holding = true ∧ t.boot.pwrGood = true ∧ t.boot.bootSrc = b ∧
      t.rdF R.SPN_GROUP F.SPN_GROUP_POS = pos.toNat ∧ t.now = s.now + 10000 ∧
      t.evr = { s.evr with secAt := s.now, hourAt := s.now } ∧ t.out = s.out) ∧
  (∀ s : State, s.boot.pwrGood = true → s.boot.holding = true → s.railsIn = true → s.early = false → s.bootTry = s.bootFirst.bootGo) ∧
  (∀ s : State, s.regs.wf = true → s.evr.words.wf = true →
    s.bootFirst.stage = 1 ∧ s.bootFirst.boot.counted = true ∧ s.bootFirst.domState 81 = 2 ∧ s.bootFirst.domState 86 = 2 ∧
      (∀ w, w < 6 → s.bootFirst.rd (R.KMU_MR 0 w) = digestWord (Config.sha384 (s.mr 0 ++ digestBytes Config.romDigest)) w) ∧
      (s.boot.log.length ≤ 1018 → s.bootFirst.boot.log.length = s.boot.log.length + 6)) ∧
  (∀ s : State, (s.boot.bootSrc = true → s.bootGo = s.recover 3) ∧
    (s.boot.bootSrc = false → s.boot.lc = 0 ∨ s.boot.lc = 5 → s.bootGo = s.recover 4) ∧
    (s.boot.bootSrc = false → s.boot.lc ≠ 0 → s.boot.lc ≠ 5 → s.bootGo = { s with boot.wait := .directory }.emit (.flashRead .directory))) ∧
  (∀ (s : State) (cause : Nat), s.regs.wf = true → cause < 8 → (s.recover cause).stage = 15 ∧
    (s.recover cause).rdF R.BOOT_STAT F.BOOT_STAT_RECOVERY = cause ∧ (s.recover cause).boot.wait = .none ∧
    (∀ d, d < 93 → keptDom d = false → (s.recover cause).domState d = 0)) ∧
  (∀ s : State, s.regs.wf = true → s.fall.boot.pwrGood = false ∧ s.fall.boot.lc = s.boot.lcNext ∧ s.fall.boot.lcNext = s.boot.lcNext ∧
    s.fall.hbm = [] ∧ s.fall.ten.qps = [] ∧ s.fall.wins = [] ∧ s.fall.sem.cells = [] ∧ s.fall.lnk.ports = [] ∧ s.fall.stage = 0 ∧
    s.fall.fatal = false ∧ s.fall.evr.slots = s.evr.slots ∧ s.fall.evr.closing = true ∧ s.fall.evr.closed = false ∧
    (∀ d, d < 92 → s.fall.domState d = 0) ∧ s.fall.pending = s.pending)

/-- R310 to R320: the directory's first valid copy names the slot that is tried first; an image is taken only if its key, its signature, the
owner's where one is fused, its SVN and its digests pass, and a slot that fails is followed by the other, then by recovery mode; a blob is
applied only if its digest, the owner's signature and every section pass, and none of its writes is to a register outside the list; the
device has joined once every enabled port has tried. -/
def Obligations.BootsTakeOnlyCheckedImagesAndBlobs : Prop :=
  (∀ (s : State) (octal : Bool) (size offset : Nat) (d0 d1 : Directory), s.boot.wait = .directory →
    exec (.flashReadTimeout .directory offset) s = .next (s.recover 5) ∧
    (dirValid d0 size = false → dirValid d1 size = false →
      exec (.flashReadComplete .directory (.dir octal size d0 d1) offset) s = .next (s.recover 5)) ∧
    (∀ d, (dirValid d0 size = true ∧ d = d0) ∨ (dirValid d0 size = false ∧ dirValid d1 size = true ∧ d = d1) →
      ∃ t, exec (.flashReadComplete .directory (.dir octal size d0 d1) offset) s = .next t ∧
        t.boot.wait = .slot (d.prefer == 1) false ∧ t.out = s.out ++ [.flashRead (if d.prefer = 1 then .slotB else .slotA)] ∧
        t.evr = s.evr)) ∧
  (∀ (s : State) (second : Bool) (i : Image) (offset : Nat),
    (s.boot.wait = .slot false second →
      exec (.flashReadTimeout .slotA offset) s = .next (s.slotFail false second Rsn.read offset) ∧
      (s.imageReason i (imgCodes i) = none → exec (.flashReadComplete .slotA (.image i) offset) s = .next (s.imageTake false i)) ∧
      ∀ r, s.imageReason i (imgCodes i) = some r →
        exec (.flashReadComplete .slotA (.image i) offset) s = .next (s.slotFail false second r offset)) ∧
    (s.boot.wait = .slot true second →
      exec (.flashReadTimeout .slotB offset) s = .next (s.slotFail true second Rsn.read offset) ∧
      (s.imageReason i (imgCodes i) = none → exec (.flashReadComplete .slotB (.image i) offset) s = .next (s.imageTake true i)) ∧
      ∀ r, s.imageReason i (imgCodes i) = some r →
        exec (.flashReadComplete .slotB (.image i) offset) s = .next (s.slotFail true second r offset))) ∧
  (∀ (s : State) (b second : Bool) (reason offset : Nat), s.regs.wf = true → reason < 32 →
    (s.slotFail b second reason offset).rdF R.BOOT_STAT (if b then F.BOOT_STAT_FAIL_B else F.BOOT_STAT_FAIL_A) = reason ∧
      (second = false → (s.slotFail b second reason offset).boot.wait = .slot (!b) true) ∧
      (second = true → (s.slotFail b second reason offset).stage = 15)) ∧
  (∀ (s : State) (i : Image) (codes : List Nat), s.imageReason i codes = none →
    Config.sha384 (keyBytes i.beniusKey) = s.boot.beniusHash ∧ Config.ecdsaVerify i.beniusKey i.manifest i.beniusSig = true ∧
      (s.boot.ownerFused = true → s.boot.lc ≠ 4 → s.ownerOk i.ownerKey i.ownerSig i.manifest = true) ∧ s.boot.svnMin ≤ i.svn ∧
      (∀ c ∈ i.components, c.code ∈ codes → c.listed = c.computed) ∧ (imgCoded i 3).length = 1 ∧ (imgCoded i 4).length = 1) ∧
  (∀ (s : State) (b : Bool) (i : Image), s.regs.wf = true → (s.imageTake b i).stage = 2 ∧
    (s.imageTake b i).rdF R.BOOT_STAT F.BOOT_STAT_SLOT = b2n b ∧ (s.imageTake b i).boot.wait = .blob ∧
    (s.imageTake b i).boot.svnMin = (if i.raiseSvn then Nat.max s.boot.svnMin i.svn else s.boot.svnMin) ∧
    (∀ w, w < 6 → (s.imageTake b i).rd (R.KMU_MR 1 w) = digestWord (Config.sha384 (s.mr 1 ++ digestBytes i.manifest)) w)) ∧
  (∀ (s : State) (b : Blob) (i : Image) (offset : Nat), s.boot.wait = .blob → s.boot.image = some i →
    exec (.flashReadTimeout .blob offset) s = .next (s.blobFail Rsn.read offset) ∧
    (∀ r, s.blobReason b = some r → exec (.flashReadComplete .blob (.blob b) offset) s = .next (s.blobFail r offset)) ∧
    (s.blobReason b = none → exec (.flashReadComplete .blob (.blob b) offset) s = .next (s.blobTake b i offset)) ∧
    (s.blobReason b = none → b.listed = b.computed ∧ (s.boot.ownerFused = true → s.ownerOk b.ownerKey b.ownerSig b.hdrDigest = true) ∧
      b.sections.all sectionOk = true ∧ identityFirst b.sections = true ∧
      ∀ x ∈ b.sections, x.type = 2 → ∀ p ∈ pairs x.ws, (blobReg p.1.toNat).isSome = true)) ∧
  (∀ s : State, s.regs.wf = true → s.fatal = false → s.stage = 5 → (∀ p, p < 67 → s.portTried p = true) →
    ∃ t, exec .bootDone s = .next t ∧ t.stage = 6 ∧ t.flt.aliveAt = s.now ∧ t.lnk = s.lnk ∧ t.hbm = s.hbm)

/-- R309, R328, R353, R391, R326, R327: MCTP control is answered whenever PWR_GOOD is high, and the other SMBus messages once the boot ROM
runs; an SPDM endpoint answers GET_VERSION first and every other request only in the order of a connection; a request that needs a
signature is answered with ERROR without the signing secret or after a keystore fault; up to four sessions run; IDE_KM makes its stream
Secure. -/
def Obligations.SmbusAndSpdmRequestsAreAnswered : Prop :=
  (∀ (s : State) (e : BitVec 8) (c : BitVec 8), s.boot.pwrGood = true →
    exec (.mctpControl (.setEndpointId e)) s = .next ({ s with boot.eid := e }.emit (.mctp (Config.mctpBody 1 e))) ∧
    exec (.mctpControl .getEndpointId) s = .next (s.emit (.mctp (Config.mctpBody 2 s.boot.eid))) ∧
    exec (.mctpControl (.other c)) s = .next (s.emit (.mctp (Config.mctpBody c.toNat s.boot.eid)))) ∧
  (∀ (s : State), s.boot.pwrGood = true → s.stage ≠ 0 →
    exec .getBootStat s = .next (s.emit (.smbus ([R.BOOT_STAT, R.BOOT_FW 0, R.BOOT_FW 1, R.KMU_LC, R.KMU_DEV_ID].flatMap s.regBytes))) ∧
    (∀ first n, 1 ≤ n → n ≤ 16 → ∃ bs, exec (.readEvr first n) s = .next (s.emit (.smbus bs)) ∧ bs.take 16 = bytesOfWords
      [w64 (s.evr.era.toNat + s.evr.lost * 2 ^ 32), w64 (Nat.min recSlots s.evr.used)]) ∧
    (∀ page, 2 ≤ page → page ≤ 5 → exec (.readFathom page) s = .next (s.emit (.smbus ((List.range 32).flatMap fun i =>
      bytesOf (w64 (s.rdF (R.FTH_CHAN (32 * (page - 2) + i)) F.FTH_CHAN_FILTERED)) 2)))) ∧
    (∃ t bs, exec (.readFathom 0) s = .next t ∧ t.out = s.out ++ [.smbus bs] ∧ bs.length = 64 ∧ t.regs = s.regs) ∧
    (∃ t bs, exec (.readFathom 1) s = .next t ∧ t.out = s.out ++ [.smbus bs] ∧ bs.length = 48 ∧ t.regs = s.regs)) ∧
  (∀ (s : State) (ep : Endpoint), Spoken s ep 0 →
    exec (.getVersion ep) s = .next ((s.setConn ep { spdmInit with stage := 1 }).answer ep 0x04 (Config.spdmBody 0x84 [])) ∧
    (∀ c, exec (.spdmUnsupportedRequest ep c) s = .next (s.answer ep 0x7F [BitVec.ofNat 8 Err.unsupported, c])) ∧
    ((s.conn ep).stage < 3 → exec (.getDigests ep) s = .next (s.spdmError ep Err.unexpected) ∧
      ∀ n, exec (.challenge ep n) s = .next (s.spdmError ep Err.unexpected))) ∧
  (∀ (s : State) (ep : Endpoint), s.spdmHere ep = true → s.pend 0x256 = true →
    exec (.getVersion ep) s = .next (s.spdmError ep Err.unspecified)) ∧
  (∀ (s : State) (ep : Endpoint), s.spdmHere ep = false → exec (.getVersion ep) s = .next s ∧ exec (.getDigests ep) s = .next s) ∧
  (∀ (s : State) (ep : Endpoint), (Spoken s ep 1 → exec (.getCapabilities ep) s =
      .next ((s.setConn ep { s.conn ep with stage := Nat.max 2 (s.conn ep).stage }).answer ep 0x61 (Config.spdmBody 0xE1 []))) ∧
    (Spoken s ep 2 → exec (.negotiateAlgorithms ep) s =
      .next ((s.setConn ep { s.conn ep with stage := 3 }).answer ep 0x63 (Config.spdmBody 0xE3 []))) ∧
    (Spoken s ep 2 → ∀ hd seq, exec (.chunkGet ep hd seq) s = .next (s.answer ep 0x06 (Config.spdmBody 0x86 [w64 hd, w64 seq])) ∧
      ∀ last, seq = 0 ∨ (s.conn ep).chunk = some (hd, seq) → exec (.chunkSend ep hd seq last) s =
        .next ((s.setConn ep { s.conn ep with chunk := if last then none else some (hd, seq + 1) }).answer ep 0x05
          (Config.spdmBody 0x85 [w64 hd, w64 seq])))) ∧
  (∀ (s : State) (ep : Endpoint), Spoken s ep 3 →
    exec (.getDigests ep) s = .next (s.answer ep 0x01 (digestBytes (Config.sha384 (Config.certificate s.boot.cdi)))) ∧
    (∀ off len, exec (.getCertificate ep 0 off len) s = .next (s.answer ep 0x02 (slice (Config.certificate s.boot.cdi) off len))) ∧
    (∀ n, s.boot.noSecret = true → exec (.challenge ep n) s = .next (s.spdmError ep Err.unspecified)) ∧
    (∀ n, s.boot.noSecret = false → exec (.challenge ep n) s = .next (s.answer ep 0x03
        (Config.spdmBody 0x83 (nonceWords n ++ digestWords s.boot.cdi ++ s.mrWords))) ∧
      ∀ k, 1 ≤ k → k ≤ 8 → let ws := (List.range 6).map fun w => s.rd (R.KMU_MR (k - 1) w)
        exec (.getMeasurements ep k n) s = .next (s.answer ep 0x60
          (bytesOfWords ws ++ Config.spdmBody 0xE0 (nonceWords n ++ digestWords s.boot.cdi ++ ws)))) ∧
    (s.stage = 15 → ∀ x, exec (.keyExchange ep x) s = .next (s.spdmError ep Err.unsupported)) ∧
    (s.stage ≠ 15 → s.boot.noSecret = false → ∀ x,
      (4 ≤ (s.conn ep).sessions.length → exec (.keyExchange ep x) s = .next (s.spdmError ep Err.sessions)) ∧
      ((s.conn ep).sessions.length < 4 → (s.conn ep).session x = none → exec (.keyExchange ep x) s =
        .next ((s.setConn ep { s.conn ep with sessions := (s.conn ep).sessions ++ [(x, false)] }).answer ep 0x64
          (Config.spdmBody 0xE4 (w64 x :: digestWords s.boot.cdi))))) ∧
    (s.stage ≠ 15 → ∀ x, (s.conn ep).session x = some false → ∃ t, exec (.finish ep x) s = .next t ∧
      (t.conn ep).session x = some true) ∧
    (s.stage ≠ 15 → ∀ x, (s.conn ep).session x = some true →
      exec (.heartbeat ep x) s = .next (s.answer ep 0x68 (Config.spdmBody 0xE8 [w64 x])) ∧
      exec (.keyUpdate ep x) s = .next (s.answer ep 0x69 (Config.spdmBody 0xE9 [w64 x])) ∧
      exec (.endSession ep x) s =
        .next ((s.setConn ep ((s.conn ep).without x)).answer ep 0x6C (Config.spdmBody 0xEC [w64 x])) ∧
      (ep = .mctp → ∀ n, exec (.vendorDefinedRequest ep x n) s = .next (s.spdmError ep Err.unsupported)) ∧
      ∀ h n, epHost ep = some h → n ≤ 8 →
        exec (.vendorDefinedRequest ep x n) s = .next ((s.ideSecure h n).answer ep 0x7E (Config.spdmBody 0xFE [w64 x, w64 n])) ∧
          (s.regs.wf = true → (s.ideSecure h n).rdF (R.HST_IDE_STAT h) (ideBit n) = 1 ∧ (h, n) ∉ (s.ideSecure h n).hst.insecure)))

/-- R324, R329 to R333, Tables 14.13, 14.14: images, tokens and keys are read in the command's own address space, which must be granted; a
checked image is held for its pair; FW_ACTIVATE starts the standby's load, or is refused with
the first reason; the handover makes the standby the active core with the image's VERSION and SVN and measures it; a failed load keeps the
old one; the reload ends the update. The life cycle goes forward only by Table 14.13, to take effect at the next reset; the owner's key is
fused once, in PROVISIONED. A virtual function's command completes ACCESS. -/
def Obligations.UpdatesAndLifeCycleGoForward : Prop :=
  (∀ (s : State) (c : AdminCmd) (im : FetchedImage), s.keyBusy = false →
    Takes s c 0x80 [(2, ones 0 21), (4, ones 0 32), (5, 0), (6, 0), (7, 0)] → let k := bitsOf c.e.w2 0 1
    (isPf c.fn = false → s.xlt.missed = [] → exec (.fwStage c im) s = .next (s.answered c 0x0C 0)) ∧
    (isPf c.fn = true → s.activating k = false → bitsOf c.e.w4 0 32 ≤ 24 * 2 ^ 20 → s.xlt.missed = [] →
      s.granted c.fn (bitsOf c.e.w2 1 20) = false ∨ bitsOf c.e.w3 48 16 ≠ 0 → exec (.fwStage c im) s = .next (s.answered c 2 0)) ∧
    (isPf c.fn = true → s.activating k = false → 24 * 2 ^ 20 < bitsOf c.e.w4 0 32 → s.xlt.missed = [] → s.regs.wf = true →
      ∃ t, exec (.fwStage c im) s = .next t ∧ t.rdF (R.BOOT_FW k) F.BOOT_FW_REASON = Rsn.size ∧
        (t.fn c.fn).acqWait = ((s.fn c.fn).answered c 2 (w64 Rsn.size)).acqWait) ∧
    (isPf c.fn = true → s.activating k = false → bitsOf c.e.w4 0 32 ≤ 24 * 2 ^ 20 →
      CmdSees s c.fn (bitsOf c.e.w2 1 20) c.e.w3 (bitsOf c.e.w4 0 32) →
      (∀ st, ∃ t, exec (.fwStage c (.failed st)) s = .next t ∧ t.boot = s.boot ∧
        (t.fn c.fn).acqWait = ((s.fn c.fn).answered c st 0).acqWait) ∧
      (∀ i, s.imageReason i [pairCode k] = none → imgCoded i (pairCode k) ≠ [] → s.regs.wf = true →
        ∃ t, exec (.fwStage c (.image i)) s = .next t ∧ (t.update k).staged = some i ∧ t.rdF (R.BOOT_FW k) F.BOOT_FW_UPD = 2 ∧
          (t.fn c.fn).acqWait = ((s.fn c.fn).answered c 0 (w64 (i.version.toNat * 2 ^ 32))).acqWait) ∧
      (∀ i r, s.imageReason i [pairCode k] = some r → ∃ t, exec (.fwStage c (.image i)) s = .next t ∧ t.update k = s.update k ∧
        (t.fn c.fn).acqWait = ((s.fn c.fn).answered c 2 (w64 (r + i.version.toNat * 2 ^ 32))).acqWait)) ∧
    (isPf c.fn = true → s.activating k = true → s.xlt.missed = [] → s.regs.wf = true → ∃ t, exec (.fwStage c im) s = .next t ∧
      t.rdF (R.BOOT_FW k) F.BOOT_FW_REASON = Rsn.busy ∧
      (t.fn c.fn).acqWait = ((s.fn c.fn).answered c 2 (w64 Rsn.busy)).acqWait)) ∧
  (∀ (s : State) (c : AdminCmd), s.keyBusy = false → isPf c.fn = true → s.regs.wf = true →
    Takes s c 0x81 [(2, 1), (3, 0), (4, 0), (5, 0), (6, 0), (7, 0)] → let k := bitsOf c.e.w2 0 1
    (∀ e, s.activateBar k = some e → ∃ t, exec (.fwActivate c) s = .next t ∧ t.rdF (R.BOOT_FW k) F.BOOT_FW_REASON = e ∧
      t.update k = s.update k) ∧
    (s.activateBar k = none → ∃ t, exec (.fwActivate c) s = .next t ∧ t.rdF (R.BOOT_FW k) F.BOOT_FW_UPD = 3 ∧
      t.rdF (R.BOOT_FW k) F.BOOT_FW_STANDBY = 1 ∧ (t.update k).running.isSome = true ∧ (t.update k).staged = (s.update k).staged ∧
      (t.fn c.fn).acqWait = (s.fn c.fn).acqWait)) ∧
  (∀ (s : State) (k : Nat) (i : Image) (r : CmdRef), s.regs.wf = true → s.fwRuns = true → k < 2 → (s.update k).running = some r →
    (s.update k).staged = some i → s.rdF (R.BOOT_FW k) F.BOOT_FW_UPD = 3 →
    (∃ t, exec (.fwStandbyLoaded k true) s = .next t ∧ t.activeCore k = 2 * k + (1 - s.rdF (R.BOOT_FW k) F.BOOT_FW_ACTIVE) ∧
      t.rdF (R.BOOT_FW k) F.BOOT_FW_VERSION = i.version.toNat ∧ t.rdF (R.BOOT_FW k) F.BOOT_FW_UPD = 4 ∧
      (t.update k).staged = none ∧ (∀ p ∈ t.irc.service, p.1 ≠ s.activeCore k) ∧
      ∀ w, w < 6 → t.rd (R.KMU_MR 7 w) = digestWord (Config.sha384 (s.mr 7 ++ digestBytes (imgDigest i (pairCode k)))) w) ∧
    ((s.update k).lost = false → exec (.fwStandbyLoaded k false) s = .next (s.activateFail k Rsn.standby) ∧
      (s.activateFail k Rsn.standby).activeCore k = s.activeCore k ∧ ((s.activateFail k Rsn.standby).update k).staged = some i)) ∧
  (∀ (s : State) (k : Nat), s.regs.wf = true → s.fwRuns = true → k < 2 → s.rdF (R.BOOT_FW k) F.BOOT_FW_UPD = 4 →
    ∃ t, exec (.fwStandbyReloaded k true) s = .next t ∧ t.rdF (R.BOOT_FW k) F.BOOT_FW_UPD = 0 ∧
      t.rdF (R.BOOT_FW k) F.BOOT_FW_STANDBY = 2 ∧ t.rdF R.BOOT_STAT F.BOOT_STAT_UPD_DONE = 1) ∧
  (∀ (s : State) (c : AdminCmd) (tok : FetchedToken), s.keyBusy = false → isPf c.fn = true →
    Takes s c 0x82 [(2, ones 0 23), (4, 0), (5, 0), (6, 0), (7, 0)] → let d := bitsOf c.e.w2 0 3
    (s.xlt.missed = [] → lcStep s.boot.lc d = none ∨ s.boot.lcNext ≠ s.boot.lc ∨ (s.boot.lc = 1 ∧ d = 2 ∧ s.boot.idCert = false) →
      exec (.lcAdvance c tok) s = .next (s.answered c 2 0)) ∧
    (∀ need, lcStep s.boot.lc d = some need → s.boot.lcNext = s.boot.lc → s.boot.idCert = true → s.xlt.missed = [] →
      (need = true → CmdSees s c.fn (bitsOf c.e.w2 3 20) c.e.w3 160) →
      (need = false ∨ (∃ x, tok = .token x ∧ s.lcToken d x = true) →
        ∃ t, exec (.lcAdvance c tok) s = .next t ∧ t.boot.lcNext = d ∧ t.boot.lc = s.boot.lc ∧
          t.boot.noSecret = (s.boot.noSecret || d == 5) ∧ (t.fn c.fn).acqWait = ((s.fn c.fn).answered c 0 (w64 d)).acqWait) ∧
      (need = true → ∀ x, tok = .token x → s.lcToken d x = false → ∃ t, exec (.lcAdvance c tok) s = .next t ∧ t.boot = s.boot ∧
        (t.fn c.fn).acqWait = ((s.fn c.fn).answered c 2 0).acqWait) ∧
      (need = true → ∀ st, tok = .failed st → ∃ t, exec (.lcAdvance c tok) s = .next t ∧ t.boot = s.boot ∧
        (t.fn c.fn).acqWait = ((s.fn c.fn).answered c st 0).acqWait))) ∧
  (∀ a d need, lcStep a d = some need → a ≠ 5 ∧ (d = 5 ∨ (d = a + 1 ∧ 1 ≤ a ∧ a ≤ 3)) ∧ (need = false → a = 2 ∧ d = 3)) ∧
  (∀ (s : State) (c : AdminCmd) (x : BitVec 768), s.keyBusy = false → isPf c.fn = true →
    Takes s c 0x83 [(2, ones 0 20), (4, 0), (5, 0), (6, 0), (7, 0)] →
    (s.xlt.missed = [] → s.boot.lc ≠ 2 ∨ s.boot.ownerFused = true → exec (.setOwnerKey c (.key x)) s = .next (s.answered c 2 0)) ∧
    (s.boot.lc = 2 → s.boot.ownerFused = false → CmdSees s c.fn (bitsOf c.e.w2 0 20) c.e.w3 96 →
      ∃ t, exec (.setOwnerKey c (.key x)) s = .next t ∧ t.boot.ownerFused = true ∧
      t.boot.ownerHash = Config.sha384 (keyBytes x) ∧ (t.fn c.fn).acqWait = ((s.fn c.fn).answered c 0 0).acqWait))

/-! ### Power, clocks and Fathom (15_power) -/

/-- R339, R340: a write of ENABLE = 0 that Table 15.1 does not allow, and one of ENABLE = 1 to an isolated domain, are discarded and
captured; an OFF domain powers up and, after the time that Table 15.1 gives it, reaches ON or, with ENABLE cleared meanwhile, drains; an ON domain drains, and ends OFF, or powering
up when an enable was held; a drain that does not end within 100 ms is forced. -/
def Obligations.DomainsSwitchAndDrain : Prop :=
  (∀ (s : State) (rid d : Nat) (val : Word), d < 93 → ridFull rid = true → s.barOpen rid = true → s.regCause (R.PWR_DOM_CTL d) = none →
    (∀ c, s.offCause d = some c → exec (.domainDisable rid d val) s = .next (s.pwrReject rid d c)) ∧
    (s.isolated d = true → exec (.domainEnable rid d val) s = .next (s.pwrReject rid d 4)) ∧
    (switchable d = false → exec (.domainDisable rid d val) s = .next (s.pwrReject rid d 1)) ∧
    (s.regs.wf = true → s.isolated d = false → 4 ≤ s.stage → s.stage ≤ 6 → s.domState d = 0 →
      s.rdF (R.PWR_DOM_CTL d) F.PWR_DOM_CTL_ENABLE = 0 →
      ∃ t, exec (.domainEnable rid d val) s = .next t ∧ t.domState d = 1 ∧ t.rdF (R.PWR_DOM_CTL d) F.PWR_DOM_CTL_ENABLE = 1 ∧
        (t.dom d).by_ = rid ∧ t.hbm = s.hbm ∧
        (69 ≤ d → d ≤ 78 → ∀ h, h = 79 ∨ h = 80 → s.domState h = 0 → t.domState h = 1)) ∧
    (s.regs.wf = true → s.offCause d = none → s.domState d = 2 → s.rdF (R.PWR_DOM_CTL d) F.PWR_DOM_CTL_ENABLE = 1 →
      69 ≤ d → d ≠ 77 → d ≠ 78 →
      ∃ t, exec (.domainDisable rid d val) s = .next t ∧ t.domState d = 3 ∧ t.rdF (R.PWR_DOM_CTL d) F.PWR_DOM_CTL_ENABLE = 0 ∧
        (t.dom d).drainAt = some s.now ∧ (t.dom d).by_ = rid ∧ t.hbm = s.hbm ∧ t.ten = s.ten) ∧
    (s.offCause d = none → s.domState d = 2 → s.regs.wf = true → s.rdF (R.PWR_DOM_CTL d) F.PWR_DOM_CTL_ENABLE = 1 → d < 69 →
      getF val F.PWR_DOM_CTL_WAKE = 0 → exec (.domainDisable rid d val) s =
        .next ((s.wrF (R.PWR_DOM_CTL d) F.PWR_DOM_CTL_ENABLE 0).domDrain d rid))) ∧
  (∀ (s : State) (d t0 : Nat), d ≤ 80 ∨ d = 85 → s.regs.wf = true → s.fatal = false → s.domState d = 3 →
    (s.dom d).drainAt = some t0 →
    (s.domDrained d = false → exec (.domainDrainEnd d) s = .next s) ∧
    (s.domDrained d = true → ∃ t, exec (.domainDrainEnd d) s = .next t ∧
      t.domState d = s.rdF (R.PWR_DOM_CTL d) F.PWR_DOM_CTL_ENABLE ∧ (t.dom d).drainAt = none ∧
      t.rdF (R.PWR_DOM_STAT d) F.PWR_DOM_STAT_FORCED = 0 ∧
      t.rdF (R.PWR_DOM_STAT d) F.PWR_DOM_STAT_DRAIN_US = Nat.min ((s.now - t0) / 1000) 65535 ∧ t.hbm = s.hbm) ∧
    (d ≠ 79 → d ≠ 80 → d ≠ 85 → exec (.domainDrainTimeout d) s =
      .next (((s.passTo (t0 + 100000000)).domForce d).domEnd d true)) ∧
    (d = 79 ∨ d = 80 ∨ d = 85 → exec (.domainDrainTimeout d) s = .next s)) ∧
  (∀ (s : State) (d : Nat), s.regs.wf = true → d ≤ 80 ∨ d = 85 → s.domState d = 3 → ∀ forced : Bool,
    (s.domEnd d forced).domState d = s.rdF (R.PWR_DOM_CTL d) F.PWR_DOM_CTL_ENABLE ∧
    (s.domEnd d forced).rdF (R.PWR_DOM_STAT d) F.PWR_DOM_STAT_FORCED = b2n forced) ∧
  (∀ (s : State) (d : Nat), s.regs.wf = true → d < 93 → s.fatal = false → s.hbmThere d = true →
    let u := s.passTo (s.domDue d)
    (s.domState d = 1 → exec (.domainPowerUpComplete d) s = .next ((u.domMove d 2 (s.dom d).by_ 0).domReached d)) ∧
    (s.domState d = 5 → exec (.domainPowerUpComplete d) s = .next ((u.wrF (R.PWR_DOM_STAT d) F.PWR_DOM_STAT_STATE 2).domReached d)) ∧
    (s.domState d = 1 ∨ s.domState d = 5 → ∃ t, exec (.domainPowerUpComplete d) s = .next t ∧
      (s.dom d).upAt + powerUpNs d ≤ t.now ∧ (t.dom d).onAt = u.now ∧
      (69 ≤ d → d ≤ 78 → ∀ h, h = 79 ∨ h = 80 → (s.dom d).upAt < (s.dom h).onAt → (s.dom h).onAt + 2000 ≤ t.now)) ∧
    (s.domState d ≠ 1 → s.domState d ≠ 5 → exec (.domainPowerUpComplete d) s = .next s) ∧
    (s.domState d = 1 → 69 ≤ d → d ≠ 77 → d ≠ 78 → s.rdF (R.PWR_DOM_CTL d) F.PWR_DOM_CTL_ENABLE = 0 →
      (s.offCause d = none → ∃ t, exec (.domainPowerUpComplete d) s = .next t ∧ t.domState d = 3 ∧
        (t.dom d).drainAt = some t.now)) ∧
    (s.domState d = 1 → 69 ≤ d → s.rdF (R.PWR_DOM_CTL d) F.PWR_DOM_CTL_ENABLE = 1 → exec (.domainPowerUpComplete d) s =
      .next ((u.domMove d 2 (s.dom d).by_ 0).updDom d fun v => { v with onAt := u.now }).serveAllHeld.walkResume))

/-- R341, R342, R344, R345: an idle domain that may sleep enters SLEEP, a request during the entry cancels it, and one after it wakes the
domain, which is counted; Fathom puts an idle fabric port to sleep only where the rule allows; the effective throttle level is the largest
of the software's and of the active rules', 7 under the guard, and 0 outside the domains that have one. -/
def Obligations.EnginesAndPortsSleepAndThrottle : Prop :=
  (∀ (s : State) (d : Nat), s.regs.wf = true → engineDom d = true → s.fatal = false → s.domState d = 2 →
    s.rdF (R.PWR_DOM_CTL d) F.PWR_DOM_CTL_ENABLE = 1 →
    (s.rdF (R.PWR_DOM_CTL d) F.PWR_DOM_CTL_SLEEP_EN = 1 → s.domIdle d = true → ∃ t, exec (.engIdleExpiry d) s = .next t ∧
      t.domState d = 4 ∧ (t.dom d).entry = true ∧ t.rdF (R.PWR_DOM_CTL d) F.PWR_DOM_CTL_ENABLE = 1 ∧ t.hbm = s.hbm ∧ t.evr = s.evr) ∧
    (s.rdF (R.PWR_DOM_CTL d) F.PWR_DOM_CTL_SLEEP_EN = 0 ∨ s.domIdle d = false → exec (.engIdleExpiry d) s = .next s)) ∧
  (∀ (s : State) (d : Nat), s.fatal = false → s.domState d = 4 →
    ((s.dom d).entry = true → ∃ t, exec (.sleepEntryComplete d) s = .next t ∧ t.domState d = 4 ∧ (t.dom d).entry = false ∧
      t.hbm = s.hbm ∧ t.regs = s.regs) ∧
    ((s.dom d).entry = false → exec (.sleepEntryComplete d) s = .next s)) ∧
  (∀ (s : State) (rid d : Nat) (val : Word), s.regs.wf = true → engineDom d = true → ridFull rid = true → s.barOpen rid = true →
    s.regCause (R.PWR_DOM_CTL d) = none → s.domState d = 4 → s.rdF (R.PWR_DOM_CTL d) F.PWR_DOM_CTL_ENABLE = 1 →
    getF val F.PWR_DOM_CTL_ENABLE = 1 →
    ∃ t, exec (.domainWake rid d val) s = .next t ∧ t.rdF (R.PWR_DOM_CTL d) F.PWR_DOM_CTL_ENABLE = 1 ∧
      ((s.dom d).entry = false → t.domState d = 5 ∧ t.rdF (R.PWR_DOM_STAT d) F.PWR_DOM_STAT_WAKES =
        Nat.min 65535 (s.rdF (R.PWR_DOM_STAT d) F.PWR_DOM_STAT_WAKES + 1)) ∧
      ((s.dom d).entry = true → t.domState d = 2 ∧ (t.dom d).entry = false ∧
        t.rdF (R.PWR_DOM_STAT d) F.PWR_DOM_STAT_WAKES = s.rdF (R.PWR_DOM_STAT d) F.PWR_DOM_STAT_WAKES)) ∧
  (∀ (s : State) (rid d : Nat) (val : Word), s.regs.wf = true → engineDom d = true → ridFull rid = true → s.barOpen rid = true →
    s.regCause (R.PWR_DOM_CTL d) = none → s.domState d = 2 → s.rdF (R.PWR_DOM_CTL d) F.PWR_DOM_CTL_ENABLE = 1 →
    getF val F.PWR_DOM_CTL_ENABLE = 1 → getF val F.PWR_DOM_CTL_WAKE = 0 →
    ∃ t, exec (.throttleWrite rid d val) s = .next t ∧
      t.rdF (R.PWR_DOM_CTL d) F.PWR_DOM_CTL_THROTTLE = getF val F.PWR_DOM_CTL_THROTTLE ∧
      t.rdF (R.PWR_DOM_CTL d) F.PWR_DOM_CTL_SLEEP_EN = getF val F.PWR_DOM_CTL_SLEEP_EN ∧
      t.rdF (R.PWR_DOM_STAT d) F.PWR_DOM_STAT_THROTTLE_NOW = t.throttleOf d ∧ t.domState d = 2 ∧ t.ten = s.ten ∧ t.lnk = s.lnk) ∧
  (∀ (s : State) (d : Nat), (engineDom d = false → s.throttleOf d = 0) ∧ s.throttleOf d ≤ 7 ∧
    (engineDom d = true → s.pwr.guard = true → s.throttleOf d = 7) ∧
    (engineDom d = true → s.rdF (R.PWR_DOM_CTL d) F.PWR_DOM_CTL_THROTTLE ≤ s.throttleOf d ∧
      ∀ r, r < 256 → s.rdF (R.FTH_RULE_A r) F.FTH_RULE_A_ACTIVE = 1 → s.rdF (R.FTH_RULE_A r) F.FTH_RULE_A_ACTION = 1 →
        (s.rule r).arg.toNat % 128 = d → (s.rule r).arg.toNat / 256 % 8 ≤ s.throttleOf d)) ∧
  (∀ (s : State) (p : Nat), s.regs.wf = true → p < 64 → s.fatal = false →
    (bitAt (s.rd R.PWR_PORT_SLEEP) p = true → bitAt (s.rd R.PWR_PORT_NOSLEEP) p = false → s.portUp p = true → s.portInGroup p = false →
      ∃ t, exec (.portIdleExpiry p) s = .next t ∧ t.slept p = true ∧ t.rdF (R.LNK_CTL p) F.LNK_CTL_ENABLE = 0 ∧
        t.portState p = 1 ∧ (s.px p).idleSince + s.portIdle ≤ t.now) ∧
    (bitAt (s.rd R.PWR_PORT_SLEEP) p = false ∨ bitAt (s.rd R.PWR_PORT_NOSLEEP) p = true ∨ s.portUp p = false ∨ s.portInGroup p = true →
      exec (.portIdleExpiry p) s = .next s))

/-- R254, R337, R346, R349 to R352: an enabled channel's sample gives RAW and the filtered value: of what its sensor gives, or the least
MARGIN of the active lanes of its ports, or the largest activity of its ports since its last sample; the channel's enabled rules enter above (or
below) their threshold and leave past the hysteresis, and a throttle rule counts while ACTIVE; a write of an ACTIVE rule makes it leave
first; at 110 °C the thermal guard takes every throttleable domain to level 7 until every channel reads below 105 °C; the trip asserts
THERMTRIP_N and is fatal; VDD_CORE's target moves one step toward the fused table's, at most every 100 µs. -/
def Obligations.FathomSamplesRulesAndGuards : Prop :=
  (∀ (s : State) (c : Nat) (x : BitVec 16), s.boot.ao = false ∨ 128 ≤ c ∨ s.rdF (R.FTH_CHAN c) F.FTH_CHAN_ENABLE = 0 →
    exec (.channelSample c x) s = .next s) ∧
  (∀ (s : State) (c : Nat) (x : BitVec 16), s.regs.wf = true → s.boot.ao = true → s.boot.holding = false → c < 128 →
    s.rdF (R.FTH_CHAN c) F.FTH_CHAN_ENABLE = 1 → s.flt.slice = none →
    (∀ r, r < 256 → s.rdF (R.FTH_RULE_A r) F.FTH_RULE_A_ENABLE = 0) →
    let step := 100000 * (s.rdF (R.FTH_CHAN c) F.FTH_CHAN_DIV + 1)
    let u : State := match s.pwr.chanAt.get? c with
      | some a => s.passTo (a + step)
      | none => s
    let v := u.sampleAt c (u.now - (s.pwr.chanAt.get? c).getD (u.now - step)) x.toNat
    let y := match s.pwr.y.get? c with
      | some y => filterStep y v (s.rdF (R.FTH_CHAN c) F.FTH_CHAN_K)
      | none => v * 65536
    ∃ t, exec (.channelSample c x) s = .next t ∧ t.pwr.y.get? c = some y ∧ t.pwr.chanAt.get? c = some t.now ∧
      t.rdF (R.FTH_CHAN c) F.FTH_CHAN_RAW = v ∧ t.rdF (R.FTH_CHAN c) F.FTH_CHAN_FILTERED = y / 65536 % 65536 ∧
      (112 ≤ c → ∀ p ∈ actPorts c, (t.px p).actTx = 0 ∧ (t.px p).actRx = 0) ∧
      (∀ a, s.pwr.chanAt.get? c = some a → a + 100000 * (s.rdF (R.FTH_CHAN c) F.FTH_CHAN_DIV + 1) ≤ t.now) ∧
      (64 ≤ c → t.pwr.guard = s.pwr.guard) ∧ t.ten = s.ten ∧ t.hbm = s.hbm) ∧
  (∀ (s : State) (c d x : Nat), (c < 96 → s.sampleAt c d x = x) ∧
    (96 ≤ c → c < 112 → (∃ i, i < 16 ∧ s.laneActive (16 * (c - 96) + i) = true) →
      (∃ i, i < 16 ∧ s.laneActive (16 * (c - 96) + i) = true ∧ s.sampleAt c d x = s.margin (16 * (c - 96) + i) * 256) ∧
      ∀ i, i < 16 → s.laneActive (16 * (c - 96) + i) = true → s.sampleAt c d x ≤ s.margin (16 * (c - 96) + i) * 256) ∧
    (112 ≤ c → ∀ p ∈ actPorts c, s.activity p d ≤ s.sampleAt c d x)) ∧
  (∀ y x k : Nat, filterStep y x 0 = x * 65536 ∧ Nat.min y (x * 65536) ≤ filterStep y x k ∧
    filterStep y x k ≤ Nat.max y (x * 65536)) ∧
  (∀ (s : State) (c y r : Nat), let a := s.rd (R.FTH_RULE_A r)
    let th := getF a F.FTH_RULE_A_THRESHOLD * 65536
    let hy := getF a F.FTH_RULE_A_HYST * 65536
    getF a F.FTH_RULE_A_ENABLE = 1 → getF a F.FTH_RULE_A_CHANNEL = c → getF a F.FTH_RULE_A_ACTION < 9 →
    (getF a F.FTH_RULE_A_ACTIVE = 0 → getF a F.FTH_RULE_A_BELOW = 0 → s.ruleEval c y r = if th < y then s.ruleEnter r else s) ∧
    (getF a F.FTH_RULE_A_ACTIVE = 0 → getF a F.FTH_RULE_A_BELOW = 1 → s.ruleEval c y r = if y < th then s.ruleEnter r else s) ∧
    (getF a F.FTH_RULE_A_ACTIVE = 1 → getF a F.FTH_RULE_A_BELOW = 0 → s.ruleEval c y r = if y + hy < th then s.ruleLeave r else s) ∧
    (getF a F.FTH_RULE_A_ACTIVE = 1 → getF a F.FTH_RULE_A_BELOW = 1 → s.ruleEval c y r = if th + hy < y then s.ruleLeave r else s)) ∧
  (∀ (s : State) (r d : Nat), s.regs.wf = true → r < 256 → s.rdF (R.FTH_RULE_A r) F.FTH_RULE_A_ACTION = 1 → engineDom d = true →
    (s.rd (R.FTH_RULE_B r)).toNat % 128 = d →
    let t := s.ruleEnter r
    t.rdF (R.FTH_RULE_A r) F.FTH_RULE_A_ACTIVE = 1 ∧ (t.rule r).arg = s.rd (R.FTH_RULE_B r) ∧
      t.rdF (R.PWR_DOM_STAT d) F.PWR_DOM_STAT_THROTTLE_NOW = t.throttleOf d ∧
      (s.rd (R.FTH_RULE_B r)).toNat / 256 % 8 ≤ t.throttleOf d) ∧
  (∀ (s : State) (rid r : Nat) (val : Word), s.regs.wf = true → r < 256 → ridFull rid = true → s.barOpen rid = true →
    s.regCause (R.FTH_RULE_A r) = none →
    s.rdF (R.FTH_RULE_A r) F.FTH_RULE_A_ACTIVE = 0 ∨ s.rdF (R.FTH_RULE_A r) F.FTH_RULE_A_REVERT = 0 →
    ∃ t, exec (.ruleWrite rid r val) s = .next t ∧ t.rdF (R.FTH_RULE_A r) F.FTH_RULE_A_ACTIVE = 0 ∧
      (∀ f ∈ [F.FTH_RULE_A_HYST, F.FTH_RULE_A_THRESHOLD, F.FTH_RULE_A_ACTION, F.FTH_RULE_A_RECORD, F.FTH_RULE_A_REVERT,
        F.FTH_RULE_A_BELOW, F.FTH_RULE_A_ENABLE, F.FTH_RULE_A_CHANNEL], t.rdF (R.FTH_RULE_A r) f = getF val f) ∧
      (∀ q, q < 256 → q ≠ r → t.rd (R.FTH_RULE_A q) = s.rd (R.FTH_RULE_A q))) ∧
  (∀ (s : State) (c raw : Nat), s.regs.wf = true → c < 64 →
    (s.pwr.guard = false → 13440 ≤ raw → (s.thermalGuard c raw).pwr.guard = true ∧
      ∀ d, engineDom d = true → (s.thermalGuard c raw).rdF (R.PWR_DOM_STAT d) F.PWR_DOM_STAT_THROTTLE_NOW = 7) ∧
    (s.pwr.guard = false → raw < 13440 → s.thermalGuard c raw = s) ∧
    (s.pwr.guard = true → (∃ i, i < 64 ∧ 13120 ≤ s.rdF (R.FTH_CHAN i) F.FTH_CHAN_RAW) → s.thermalGuard c raw = s) ∧
    (s.pwr.guard = true → (∀ i, i < 64 → s.rdF (R.FTH_CHAN i) F.FTH_CHAN_RAW < 13120) → (s.thermalGuard c raw).pwr.guard = false)) ∧
  (∀ (s : State) (c : Nat) (raw : BitVec 16), s.regs.wf = true → s.boot.pwrGood = true → s.pwr.trip = false →
    ∃ t, exec (.thermalTrip c raw) s = .next t ∧ t.pwr.trip = true ∧ t.fatal = true ∧ t.pend 0x260 = true ∧
      s.out ++ [.pinThermtrip true] <+: t.out ∧ t.hbm = s.hbm) ∧
  (∀ (s : State), let want := Nat.min 10 (Config.fusedVcore s.dieTemp)
    (s.pwr.vselEn = false ∨ want = s.pwr.vcore → exec .vcoreTargetStep s = .next s) ∧
    (s.pwr.vselEn = true → want ≠ s.pwr.vcore → s.pwr.vcore ≤ 10 → ∃ t, exec .vcoreTargetStep s = .next t ∧ t.pwr.vcore ≤ 10 ∧
      (s.pwr.vcore < want → t.pwr.vcore = s.pwr.vcore + 1) ∧ (want < s.pwr.vcore → t.pwr.vcore + 1 = s.pwr.vcore) ∧
      s.pwr.vcoreAt + 100000 ≤ t.now ∧ t.pwr.vcoreAt = t.now ∧ t.out = s.out ++ [.vcore t.pwr.vcore] ∧ t.ten = s.ten ∧
      t.hbm = s.hbm))

/-- R347, R354: an input is lost at two bad checks in a row and back after 1 ms within 0.1 %; a reference not back in 10 ms is fatal;
the calendar is set at once or at the next PPS edge; three edges 1 s ± 100 µs apart make PPS_IN a source, three with |e| above 1 ms drop
it, one with less sets the error to remove, and no edge steps the calendar; no edge within 1.1 s loses PPS_IN. -/
def Obligations.ClocksAndCalendarKeepTime : Prop :=
  (∀ (s : State) (i : Nat) (present w1 w01 : Bool), s.regs.wf = true → s.boot.ao = true → i < 7 → s.flt.slice = none →
    let u : State := match s.pwr.clkAt.get? i with
      | some t => s.passTo (t + 10000)
      | none => s
    (s.pwr.clkLost.get? i = none → present = true → w1 = true → ∃ t, exec (.clockCheck i present w1 w01) s = .next t ∧
      bitAt (t.rd R.PWR_CLK_STAT) i = true ∧ t.pwr.clkLost = s.pwr.clkLost ∧ t.now = u.now) ∧
    (s.pwr.clkLost.get? i = none → present = false ∨ w1 = false → s.pwr.clkBad.get? i = none →
      ∃ t, exec (.clockCheck i present w1 w01) s = .next t ∧ bitAt (t.rd R.PWR_CLK_STAT) i = false ∧
        t.pwr.clkBad.get? i = some 1 ∧ t.pwr.clkLost = s.pwr.clkLost) ∧
    (∀ n, s.pwr.clkLost.get? i = none → present = false ∨ w1 = false → s.pwr.clkBad.get? i = some n → 1 ≤ n → i = 6 →
      ∃ t, exec (.clockCheck i present w1 w01) s = .next t ∧ bitAt (t.rd R.PWR_CLK_STAT) i = false ∧
        bitAt (t.rd R.PWR_CLK_STAT) (16 + i) = true ∧ t.pwr.clkLost.get? i = some t.now ∧ t.ten = s.ten) ∧
    (∀ l, s.pwr.clkLost.get? i = some l → present = false ∨ w01 = false → s.pwr.clkBack.wf = true →
      ∃ t, exec (.clockCheck i present w1 w01) s = .next t ∧ t.pwr.clkBack.get? i = none ∧ t.pwr.clkLost = s.pwr.clkLost) ∧
    (∀ l b, s.pwr.clkLost.get? i = some l → present = true → w01 = true → s.pwr.clkBack.get? i = some b → s.pwr.clkLost.wf = true →
      (u.now < b + 1000000 → ∃ t, exec (.clockCheck i present w1 w01) s = .next t ∧ t.pwr.clkLost = s.pwr.clkLost ∧ t.regs = u.regs) ∧
      (b + 1000000 ≤ u.now → ∃ t, exec (.clockCheck i present w1 w01) s = .next t ∧ t.pwr.clkLost.get? i = none ∧
        bitAt (t.rd R.PWR_CLK_STAT) i = true ∧ (i < 4 → bitAt (t.rd R.PWR_CLK_STAT) (24 + i) = false)))) ∧
  (∀ (s : State) (q l : Nat), s.regs.wf = true → q < 4 → s.boot.pwrGood = true → s.pwr.clkLost.get? q = some l →
    s.pend (0x25C + q) = false → ∃ t, exec (.clockHoldoverExpiry q) s = .next t ∧ t.fatal = true ∧ t.pend (0x25C + q) = true ∧
      l + 10000000 ≤ t.now) ∧
  (∀ (s : State) (q : Nat), s.pwr.clkLost.get? q = none → exec (.clockHoldoverExpiry q) s = .next s) ∧
  (∀ (s : State) (rid : Nat), s.regs.wf = true → ridFull rid = true → s.barOpen rid = true → s.regCause R.FTH_TIME = none →
    (∃ t, exec (.calSetNow rid) s = .next t ∧ t.pwr.cal = (s.rd R.FTH_CAL_SET).toNat ∧ t.pwr.calErr = 0 ∧
      t.rdF R.FTH_TIME F.FTH_TIME_TIME_VALID = 1 ∧ t.ft = s.ft) ∧
    exec (.calSetAtPps rid) s = .next { s with pwr.setAtPps := some rid }) ∧
  (∀ (s : State), s.regs.wf = true → s.boot.ao = true → s.pwr.clkLost.get? 7 = none →
    (∀ rid, s.pwr.setAtPps = some rid → ∃ t, exec .ppsEdge s = .next t ∧ t.pwr.cal = (s.rd R.FTH_CAL_SET).toNat ∧
      t.pwr.setAtPps = none ∧ t.rdF R.FTH_TIME F.FTH_TIME_TIME_VALID = 1) ∧
    (s.pwr.setAtPps = none → ∃ t, exec .ppsEdge s = .next t ∧ t.pwr.cal = s.pwr.cal ∧ t.pwr.ppsAt = some s.now ∧
      (∀ a, s.pwr.ppsOn = false → s.pwr.ppsAt = some a → a + 999900000 ≤ s.now → s.now ≤ a + 1000100000 →
        2 ≤ s.pwr.ppsRun → t.pwr.ppsOn = true ∧ t.rdF R.FTH_TIME F.FTH_TIME_SOURCE = 2) ∧
      (s.rdF R.FTH_TIME F.FTH_TIME_TIME_VALID = 1 → s.pwr.ppsOn = true → s.ppsErr < -1000000 ∨ 1000000 < s.ppsErr →
        (s.pwr.ppsBad < 2 → t.pwr.ppsOn = true ∧ t.pwr.ppsBad = s.pwr.ppsBad + 1) ∧
        (2 ≤ s.pwr.ppsBad → t.pwr.ppsOn = false ∧ t.rdF R.FTH_TIME F.FTH_TIME_SOURCE = b2n (s.domOn 91))) ∧
      (s.rdF R.FTH_TIME F.FTH_TIME_TIME_VALID = 1 → s.pwr.ppsOn = true → s.rdF R.FTH_TIME F.FTH_TIME_SOURCE = 2 →
        -1000000 ≤ s.ppsErr → s.ppsErr ≤ 1000000 →
        t.pwr.ppsOn = true ∧ t.pwr.calErr = s.ppsErr ∧ t.pwr.calOfs = (s.pwr.cal : Int) - (s.ft : Int)))) ∧
  (∀ (s : State) (a : Nat), s.regs.wf = true → s.boot.ao = true → s.pwr.ppsAt = some a →
    ∃ t, exec .ppsLoss s = .next t ∧ t.pwr.ppsOn = false ∧ t.pwr.ppsAt = none ∧ a + 1100000000 ≤ t.now ∧
      bitAt (t.rd R.PWR_CLK_STAT) 7 = false ∧ bitAt (t.rd R.PWR_CLK_STAT) 23 = true ∧ t.rdF R.FTH_TIME F.FTH_TIME_SOURCE = b2n (t.domOn 91)) ∧
  (∀ s : State, (s.pwr.ppsAt = none → exec .ppsLoss s = .next s) ∧ -500000000 ≤ s.ppsErr ∧ s.ppsErr < 500000000)

/-! ### Faults and reactions (16_faults) -/

/-- R360, R361, R366: each CE occurrence counts, and sets PEND once per window at the threshold, but an occurrence named of a bank that no
spare stands for or that is out of use is none; the window's end clears its counts; each
UC occurrence sets PEND and does its reaction, a pipeline's port going down and a unit's domain being left OFF with ENABLE = 0; a forced
source occurs once as FORCE rises, an FT source only with FORCE_FT; a CE source's PEND may be cleared at any time, a UC source's only while
its cause does not stand, and for a source that stands by its own PEND unless FORCE is 1 (DEDUCED, log 39); a refused clear or force sets
CLR_REFUSED. -/
def Obligations.FaultsCountFlagAndClear : Prop :=
  (∀ (s : State) (n : Nat) (d : FaultDetail), (fltClass n ≠ 0 ∨ s.srcLive n = false → exec (.ceOccurrence n d) s = .next s) ∧
    (fltClass n = 0 → s.srcLive n = true → n < 0x160 ∨ 0x240 ≤ n → exec (.ceOccurrence n d) s = .next (s.ceRaise n false).1) ∧
    (0x160 ≤ n → n < 0x1E8 → s.srcBank n = none → exec (.ceOccurrence n d) s = .next s) ∧
    (fltClass n ≠ 1 ∨ s.srcLive n = false → exec (.ucOccurrence n d) s = .next s) ∧
    (fltClass n = 1 → s.srcLive n = true → n ≠ 0x155 → n ≠ 0x15B → exec (.ucOccurrence n d) s = .next (s.ucOccur n d false))) ∧
  (∀ (s : State) (n : Nat) (forced : Bool), s.regs.wf = true → n < 640 →
    let w := (s.flt.window.get? n).getD 0 + 1
    let th := s.rdF (R.FLT_SRC n) F.FLT_SRC_THRESHOLD
    let t := (s.ceRaise n forced).1
    t.rdF (R.FLT_SRC n) F.FLT_SRC_COUNT = Nat.min (2 ^ 32 - 1) (s.rdF (R.FLT_SRC n) F.FLT_SRC_COUNT + 1) ∧
      t.flt.window.get? n = some w ∧ t.ten = s.ten ∧ t.hbm = s.hbm ∧
      (th = 0 ∨ (th ≤ w ∧ n ∉ s.flt.reported) → t.pend n = true) ∧
      (th ≠ 0 → w < th ∨ n ∈ s.flt.reported → t.pend n = s.pend n ∧ t.evr = s.evr)) ∧
  (∀ s : State, (s.boot.pwrGood = false → exec .ceWindowExpiry s = .next s) ∧
    (s.boot.pwrGood = true → ∃ t, exec .ceWindowExpiry s = .next t ∧ t.flt.window = [] ∧ t.flt.reported = [] ∧ t.flt.winAt = t.now ∧
      s.flt.winAt + s.ceWindow ≤ t.now ∧ t.ten = s.ten ∧ t.hbm = s.hbm)) ∧
  (∀ (s : State) (n obj : Nat) (a : Word) (forced : Bool), s.regs.wf = true → n < 640 →
    let t := s.ucRaise n obj a forced
    t.pend n = true ∧ t.rdF (R.FLT_SRC n) F.FLT_SRC_COUNT = Nat.min (2 ^ 32 - 1) (s.rdF (R.FLT_SRC n) F.FLT_SRC_COUNT + 1) ∧
      t.ten = s.ten ∧ t.hbm = s.hbm) ∧
  (∀ (s : State) (forced : Bool), s.regs.wf = true → s.fatal = false →
    (∀ j, j < 16 → s.ucOccur (0x270 + j) .none forced = s.ucRaise (0x270 + j) 0xFFFFFFFF 0 forced) ∧
    (∀ p, p < 64 → s.ucOccur (5 * p + 3) .none forced = (s.ucRaise (5 * p + 3) p 0 forced).portDisable p) ∧
    (∀ u, 4 ≤ u → u < 8 → ((s.ucOccur (0x210 + u) .none forced).domState (69 + u) = 0 ∧
      (s.ucOccur (0x210 + u) .none forced).rdF (R.PWR_DOM_CTL (69 + u)) F.PWR_DOM_CTL_ENABLE = 0 ∧
      (s.ucOccur (0x210 + u) .none forced).isolated (69 + u) = true))) ∧
  (∀ (s : State) (rid n : Nat), s.regs.wf = true → n < 640 →
    (fltClass n = 0 → (s.pendClear rid n).pend n = false) ∧
    (fltClass n = 1 → s.clearBarred n = true → (s.pendClear rid n).pend n = s.pend n ∧
      (s.pendClear rid n).rdF R.FLT_STAT F.FLT_STAT_CLR_REFUSED = 1) ∧
    (fltClass n = 1 → s.clearBarred n = false → (s.pendClear rid n).pend n = false ∧
      (s.pendClear rid n).rdF R.FLT_STAT F.FLT_STAT_CLR_REFUSED = s.rdF R.FLT_STAT F.FLT_STAT_CLR_REFUSED) ∧
    (s.active_ n = false → s.clearBarred n = false) ∧ (s.active_ n = true → selfStands n = false → s.clearBarred n = true) ∧
    (s.rdF (R.FLT_SRC n) F.FLT_SRC_FORCE = 1 → s.clearBarred n = true) ∧
    (∀ m, m < 640 → m ≠ n → (s.pendClear rid n).pend m = s.pend m)) ∧
  (∀ (s : State) (rid k i : Nat), k < 10 → i < 64 → ridFull rid = true → s.barOpen rid = true → s.regCause (R.FLT_PEND k) = none →
    exec (.faultPendClear rid k (BitVec.twoPow 64 i)) s = .next (s.pendClear rid (64 * k + i)) ∧
    exec (.faultPendClear rid k 0) s = .next s) ∧
  (∀ (s : State) (rid n : Nat) (val : Word), s.regs.wf = true → n < 640 → ridFull rid = true → s.barOpen rid = true →
    s.regCause (R.FLT_SRC n) = none →
    (fltClass n = 3 → exec (.faultForce rid n val) s = .next s) ∧
    (isFt n = true → s.rdF R.FLT_CTL F.FLT_CTL_FORCE_FT = 0 →
      exec (.faultForce rid n val) s = .next (s.wrF R.FLT_STAT F.FLT_STAT_CLR_REFUSED 1)) ∧
    (isFt n = true → s.rdF R.FLT_CTL F.FLT_CTL_FORCE_FT = 1 → s.rdF (R.FLT_SRC n) F.FLT_SRC_FORCE = 0 → s.boot.pwrGood = true →
      ∃ t, exec (.faultForce rid n val) s = .next t ∧ t.fatal = true ∧ t.pend n = true ∧ t.rdF (R.FLT_SRC n) F.FLT_SRC_FORCE = 1) ∧
    (fltClass n < 2 → s.rdF (R.FLT_SRC n) F.FLT_SRC_FORCE = 1 → ∃ t, exec (.faultForce rid n val) s = .next t ∧
      t.rdF (R.FLT_SRC n) F.FLT_SRC_THRESHOLD = getF val F.FLT_SRC_THRESHOLD ∧ t.pend n = s.pend n) ∧
    (fltClass n < 2 → s.rdF (R.FLT_SRC n) F.FLT_SRC_FORCE = 0 → exec (.faultForce rid n val) s = .next
      (let u := s.wrFs (R.FLT_SRC n) [(F.FLT_SRC_THRESHOLD, getF val F.FLT_SRC_THRESHOLD), (F.FLT_SRC_FORCE, 1)];
       if fltClass n = 0 then u.ceOccur n .none true else u.ucOccur n .none true)))

/-- R362 to R365: the first FT occurrence makes the device fatal and is captured as FIRST_FT, later ones only set PEND, but of FT
sources of one 20-ns cycle the lowest stays captured; every lane that runs announces electrical idle, and the slice, repairs and
rebuilds stop; ALIVE toggles every 500 µs from STAGE 6 on and no more once the device is fatal. R367 to R369: a failing bank takes
a free spare of its quadrant, or the one self-test gives up; the spare then replaces the bank; a reported channel of an HBM
interface is rebuilt onto the spare channel once; a failed active core is replaced by its ready standby, and the reloaded core is
the ready standby. -/
def Obligations.FatalFaultsRepairsAndTakeovers : Prop :=
  (∀ (s : State) (n : Nat), s.regs.wf = true → n < 640 →
    (isFt n = false ∨ s.boot.pwrGood = false → exec (.ftOccurrence n) s = .next s) ∧
    (isFt n = true → s.boot.pwrGood = true → s.fatal = true → ∃ t, exec (.ftOccurrence n) s = .next t ∧ t.pend n = true ∧ t.fatal = true ∧
      t.rdF R.FLT_STAT F.FLT_STAT_FIRST_FT =
        (if s.now / 20 = s.flt.ftAt / 20 then Nat.min n (s.rdF R.FLT_STAT F.FLT_STAT_FIRST_FT)
         else s.rdF R.FLT_STAT F.FLT_STAT_FIRST_FT) ∧ t.out = s.out ∧ t.flt = s.flt ∧ t.evr = s.evr) ∧
    (isFt n = true → s.boot.pwrGood = true → s.fatal = false → ∃ t, exec (.ftOccurrence n) s = .next t ∧ t.pend n = true ∧
      t.fatal = true ∧ t.rdF R.FLT_STAT F.FLT_STAT_FIRST_FT = n ∧ t.flt.ftAt = s.now ∧ t.flt.slice = none ∧ t.flt.waitRep = [] ∧
      t.flt.rebuild = [] ∧
      s.out <+: t.out ∧ (∀ p, p < 67 → s.linked p = true → Out.electricalIdle p (decide (p < 64)) ∈ t.out) ∧ t.ten = s.ten ∧ t.hbm = s.hbm ∧
      t.rte = s.rte ∧ t.mat = s.mat)) ∧
  (∀ s : State, (s.boot.pwrGood = false ∨ s.fatal = true ∨ s.stage ≠ 6 → exec .aliveToggle s = .next s) ∧
    (s.boot.pwrGood = true → s.fatal = false → s.stage = 6 → ∃ t, exec .aliveToggle s = .next t ∧ t.flt.alive = !s.flt.alive ∧
      t.out = s.out ++ [.pinAlive (!s.flt.alive)] ∧ s.flt.aliveAt + 500000 ≤ t.now ∧ t.flt.aliveAt = t.now ∧ t.ten = s.ten ∧
      t.hbm = s.hbm)) ∧
  (∀ (s : State) (b : Nat), s.fatal = false → s.repairing b = false →
    (∀ k, s.freeSpare (b / 32) = some k → s.bankRepair b = (s.setSpare k (.copying b false), false)) ∧
    (s.freeSpare (b / 32) = none → (∀ k ∈ sparesOf (b / 32), (s.spare k).held = false) → s.bankRepair b = (s, true))) ∧
  (∀ (s : State) (b k us : Nat), s.fatal = false → b < 128 → k ∈ sparesOf (b / 32) → s.spare k = .copying b false →
    (∀ j ∈ sparesOf (b / 32), j ≠ k → (s.spare j).stands ≠ some b ∧ s.spare j ≠ .copying b false) →
    ∃ t, exec (.bankRepairComplete b us) s = .next t ∧ t.spare k = .repairs b ∧ t.bankOut b = true ∧ t.ten = s.ten ∧ t.rte = s.rte) ∧
  (∀ (s : State) (b us : Nat), (∀ k ∈ sparesOf (b / 32), s.spare k ≠ .copying b false ∧ s.spare k ≠ .copying b true) →
    exec (.bankRepairComplete b us) s = .next s) ∧
  (∀ (s : State) (i c : Nat), s.regs.wf = true → i < 2 → c < 15 → s.fatal = false →
    s.rdF (R.TOP_HBM_STAT i) F.TOP_HBM_STAT_SPARE_USED = 0 → s.srcLive (0x220 + 16 * i + c) = true →
    (s.ceRaise (0x220 + 16 * i + c) false).2 = true →
    ∃ t, exec (.ceOccurrence (0x220 + 16 * i + c) .none) s = .next t ∧ t.flt.rebuild.get? i = some c ∧
      t.rdF (R.TOP_HBM_STAT i) F.TOP_HBM_STAT_SPARE_USED = 1 ∧ t.rdF (R.TOP_HBM_STAT i) F.TOP_HBM_STAT_SPARE_FOR = c ∧
      t.rdF (R.TOP_HBM_STAT i) F.TOP_HBM_STAT_REBUILDING = 1 ∧ t.hbm = s.hbm) ∧
  (∀ (s : State) (i c us : Nat), s.regs.wf = true → i < 2 → s.fatal = false → s.flt.rebuild.get? i = some c → s.flt.rebuild.wf = true →
    ∃ t, exec (.hbmRebuildComplete i us) s = .next t ∧ t.flt.rebuild.get? i = none ∧
      t.rdF (R.TOP_HBM_STAT i) F.TOP_HBM_STAT_REBUILDING = 0 ∧ t.hbm = s.hbm) ∧
  (∀ (s : State) (i us : Nat), s.flt.rebuild.get? i = none → exec (.hbmRebuildComplete i us) s = .next s) ∧
  (∀ (s : State) (c : Nat), c < 4 → s.fwRuns = true → s.srcLive (0x250 + c) = true →
    exec (.heartbeatTimeout c) s = .next (s.ucOccur (0x250 + c) .none false)) ∧
  (∀ (s : State) (c : Nat), s.fwRuns = false → exec (.heartbeatTimeout c) s = .next s) ∧
  (∀ (s : State) (c : Nat), s.regs.wf = true → c < 4 → s.activeCore (c / 2) = c → s.rdF (R.BOOT_FW (c / 2)) F.BOOT_FW_UPD ≠ 3 →
    (s.rdF (R.BOOT_FW (c / 2)) F.BOOT_FW_STANDBY = 2 →
      (s.coreFail c).activeCore (c / 2) = 4 * (c / 2) + 1 - c ∧ (s.coreFail c).rdF (R.BOOT_FW (c / 2)) F.BOOT_FW_STANDBY = 1) ∧
    (s.rdF (R.BOOT_FW (c / 2)) F.BOOT_FW_STANDBY ≠ 2 → s.boot.pwrGood = true → (s.coreFail c).fatal = true)) ∧
  (∀ (s : State) (c : Nat), s.regs.wf = true → c < 4 → s.fwRuns = true → s.activeCore (c / 2) ≠ c →
    s.rdF (R.BOOT_FW (c / 2)) F.BOOT_FW_STANDBY = 1 → s.rdF (R.BOOT_FW (c / 2)) F.BOOT_FW_UPD < 3 →
    exec (.coreReloadComplete c) s = .next (s.wrF (R.BOOT_FW (c / 2)) F.BOOT_FW_STANDBY 2) ∧
      (s.wrF (R.BOOT_FW (c / 2)) F.BOOT_FW_STANDBY 2).coreReady c = true)

/-! ### Self-test (17_self_test) -/

/-- R374 to R377, R380: each period attempts the next runnable unit of the rotation unless a condition stops it, which is counted;
a lane slice waits while the housekeeping pair activates; a commanded slice takes the attempt's place; a slice that found nothing
gives back what it borrowed and counts, a bank after the copy back, and a lane's bit errors up to LANE_ERR are none; a failed bank
keeps its spare, a failed spare or segment is retired, and the failure is captured and raises its source. R376 to R379, R381: a
write of STC_CMD is discarded while a command runs; outside the life-cycle states of Table 17.2 it ends REFUSED; a slice command
waits for the next attempt; a full test needs every port disabled and every function DISABLED, destroys the memories, and leaves
RESET_NEEDED; FUSE burns each replacement in force. -/
def Obligations.SelfTestRunsAsPermitted : Prop :=
  (∀ s : State, (s.stAllowed = false ∨ s.flt.full = true ∨ s.flt.slice.isSome = true ∨ s.rdF R.STC_STAT F.STC_STAT_RESET_NEEDED = 1 →
      exec .selftestPeriod s = .next s) ∧
    (s.stAllowed = true → s.flt.full = false → s.flt.slice = none → s.rdF R.STC_STAT F.STC_STAT_RESET_NEEDED = 0 →
      let u : State := { s.passTo (s.flt.tryAt + s.stPeriod) with flt.tryAt := (s.passTo (s.flt.tryAt + s.stPeriod)).now }
      (∀ k n, s.flt.cmd = some (k, n) → exec .selftestPeriod s = .next (if k = 4 ∧ s.activating 1 = true then u else u.cmdRun k n)) ∧
      (s.flt.cmd = none → s.rdF R.STC_CTL F.STC_CTL_ENABLE = 1 → exec .selftestPeriod s = .next u.periodic) ∧
      (s.flt.cmd = none → s.rdF R.STC_CTL F.STC_CTL_ENABLE = 0 → exec .selftestPeriod s = .next u))) ∧
  (∀ s : State, s.regs.wf = true → s.flt.rot < 712 → s.kindOn (rotUnit s.flt.rot).1 = true →
    s.runnable (rotUnit s.flt.rot).1 (rotUnit s.flt.rot).2 = true →
    let k := rotUnit s.flt.rot
    (k.1 = 4 → s.activating 1 = true → s.periodic.flt = s.flt ∧ s.periodic.out = s.out) ∧
    (∀ c, s.stCause = some c → k.1 ≠ 4 ∨ s.activating 1 = false → s.periodic.flt.rot = s.flt.rot ∧ s.periodic.flt.slice = s.flt.slice ∧
      s.periodic.rdF R.STC_STAT F.STC_STAT_REFUSED = Nat.min 65535 (s.rdF R.STC_STAT F.STC_STAT_REFUSED + 1)) ∧
    (s.stCause = none → k.1 ≠ 4 ∨ s.activating 1 = false → s.periodic.flt.rot = (s.flt.rot + 1) % 712 ∧
      s.periodic.flt.slice = some { kind := k.1, unit_ := k.2, commanded := false, back := false } ∧
      s.periodic.rdF R.STC_STAT F.STC_STAT_KIND_NOW = k.1 ∧
      (k.1 = 1 → ∃ j ∈ sparesOf (k.2 / 32), s.spare j = .free ∧ s.periodic.spare j = .testing k.2 false) ∧
      (k.1 = 2 → s.spare k.2 = .free ∧ s.periodic.spare k.2 = .marching))) ∧
  (∀ (s : State) (f : SliceFinding), s.flt.slice = none → exec (.sliceEnd f) s = .next s) ∧
  (∀ (s : State) (sl : Slice) (f : SliceFinding), s.flt.slice = some sl → s.fatal = true ∨ s.sliceBusy sl = true →
    exec (.sliceEnd f) s = .next s) ∧
  (∀ (s : State) (sl : Slice), s.regs.wf = true → s.flt.slice = some sl → s.fatal = false → s.sliceBusy sl = false →
    (sl.kind = 2 ∨ sl.kind = 3 ∨ sl.kind = 5 → ∃ t, exec (.sliceEnd .pass) s = .next t ∧ t.flt.slice = none ∧
      (sl.kind = 2 → t.spare sl.unit_ = .free) ∧ t.rdF R.STC_STAT F.STC_STAT_KIND_NOW = 0 ∧
      t.rdF R.STC_STAT F.STC_STAT_SLICES = Nat.min 65535 (s.rdF R.STC_STAT F.STC_STAT_SLICES + 1) ∧
      (sl.commanded = true → t.rdF R.STC_CMD F.STC_CMD_STATUS = 2 ∧ t.rdF R.STC_STAT F.STC_STAT_CMD_DONE = 1) ∧
      t.ten = s.ten ∧ t.rte = s.rte ∧ t.lnk = s.lnk) ∧
    (sl.kind = 4 → exec (.sliceEnd .pass) s = .next ((s.sliceDone sl).laneReturn sl.unit_) ∧
      (∀ a b e, a.toNat ≤ s.rdF R.STC_CTL F.STC_CTL_LANE_ERR → exec (.sliceEnd (.fail a b e)) s = exec (.sliceEnd .pass) s)) ∧
    (sl.kind = 1 → ∃ k, s.bankSpare sl.unit_ = some k ∧ ∃ t, exec (.sliceEnd .pass) s = .next t ∧ t.spare k = .returning sl.unit_ ∧
      t.flt.slice = some { sl with back := true } ∧ t.regs = s.regs) ∧
    (∀ a b e, sl.kind = 1 ∨ sl.kind = 2 ∨ sl.kind = 3 → ∃ t, exec (.sliceEnd (.fail a b e)) s = .next t ∧ t.flt.slice = none ∧
      t.rdF R.STC_RESULT F.STC_RESULT_VALID = 1 ∧ t.pend 0x268 = (s.ceRaise 0x268 false).1.pend 0x268 ∧
      (s.rdF R.STC_RESULT F.STC_RESULT_VALID = 0 → t.rdF R.STC_RESULT F.STC_RESULT_KIND = sl.kind ∧
        t.rdF R.STC_RESULT F.STC_RESULT_ADDRESS = a.toNat) ∧
      (s.rdF R.STC_RESULT F.STC_RESULT_VALID = 1 → t.rdF R.STC_RESULT F.STC_RESULT_LOST = 1) ∧
      (sl.kind = 1 → t.bankOut sl.unit_ = true) ∧ (sl.kind = 2 → t.spare sl.unit_ = .retired) ∧
      (sl.kind = 3 → sl.unit_ ∈ t.flt.segs))) ∧
  (∀ (s : State) (b us k : Nat), s.fatal = false → s.bankSpare b = some k →
    (s.spare k = .testing b false → exec (.bankCopyComplete b us) s = .next (s.setSpare k (.testing b true)) ∧
      (s.setSpare k (.testing b true)).bankOut b = true) ∧
    (s.spare k = .returning b → s.flt.waitRep = [] → ∃ t, exec (.bankCopyComplete b us) s = .next t ∧ t.spare k = .free ∧
      (∀ sl, s.flt.slice = some sl → sl.kind = 1 → sl.unit_ = b → sl.back = true → t.flt.slice = none)) ∧
    (s.spare k = .returning b → ∀ w, w / 32 = k / 2 → s.flt.waitRep = [w] → ∃ t, exec (.bankCopyComplete b us) s = .next t ∧
      t.spare k = .copying w true)) ∧
  (∀ (s : State) (b us : Nat), s.bankSpare b = none → exec (.bankCopyComplete b us) s = .next s) ∧
  (∀ (s : State) (sl : Slice), s.flt.slice = some sl → s.sliceAbandon.flt.slice = none ∧
    (∀ k b, s.spare k = .testing b true → s.sliceAbandon.spare k = .returning b) ∧
    (∀ k b, s.spare k = .testing b false → s.sliceAbandon.spare k = .free) ∧
    (∀ k, s.spare k = .marching → s.sliceAbandon.spare k = .free)) ∧
  (∀ (s : State) (rid : Nat) (val : Word), ridFull rid = true → s.barOpen rid = true → s.regCause R.STC_CMD = none →
    (s.rdF R.STC_CMD F.STC_CMD_STATUS = 1 → exec (.sliceCommand rid val) s = .next s ∧ exec (.fullTest rid val) s = .next s ∧
      exec (.fuse rid val) s = .next s) ∧
    (1 ≤ getF val F.STC_CMD_KIND → getF val F.STC_CMD_KIND ≤ 5 → s.rdF R.STC_CMD F.STC_CMD_STATUS ≠ 1 → s.stAllowed = true →
      exec (.sliceCommand rid val) s = .next (let u := s.wrF R.STC_CMD F.STC_CMD_STATUS 1;
        { u with flt.cmd := some (getF val F.STC_CMD_KIND, getF val F.STC_CMD_UNIT) })) ∧
    (getF val F.STC_CMD_KIND = 0 ∨ 6 ≤ getF val F.STC_CMD_KIND → exec (.sliceCommand rid val) s = .next s) ∧
    (s.regs.wf = true → s.rdF R.STC_CMD F.STC_CMD_STATUS ≠ 1 → s.fatal = false → s.stAllowed = false ∨ s.stFull = false →
      (∃ t, exec (.fullTest rid val) s = .next t ∧ t.rdF R.STC_CMD F.STC_CMD_STATUS = 3 ∧ t.rdF R.STC_STAT F.STC_STAT_CMD_DONE = 1 ∧
        t.flt = s.flt ∧ t.hbm = s.hbm ∧ t.ten = s.ten) ∧
      (∃ t, exec (.fuse rid val) s = .next t ∧ t.rdF R.STC_CMD F.STC_CMD_STATUS = 3 ∧ t.boot.spareFuse = s.boot.spareFuse)) ∧
    (s.regs.wf = true → s.rdF R.STC_CMD F.STC_CMD_STATUS ≠ 1 → s.stAllowed = true → s.stFull = true → s.flt.slice = none →
      (s.fullReady = false → ∃ t, exec (.fullTest rid val) s = .next t ∧ t.rdF R.STC_CMD F.STC_CMD_STATUS = 3 ∧ t.hbm = s.hbm) ∧
      (s.fullReady = true → ∃ t, exec (.fullTest rid val) s = .next t ∧ t.flt.full = true ∧ t.rdF R.STC_CMD F.STC_CMD_STATUS = 1 ∧
        t.ten.qps = [] ∧ t.rdF R.STC_STAT F.STC_STAT_KIND_NOW = 6) ∧
      (∃ t, exec (.fuse rid val) s = .next t ∧ t.rdF R.STC_CMD F.STC_CMD_STATUS = 2 ∧
        ∀ k b, k < 8 → s.spare k = .repairs b → t.spare k = .fused b ∧ t.boot.spareFuse.get? k = some b))) ∧
  (∀ (s : State) (f : SliceFinding), (s.flt.full = false ∨ s.fatal = true → exec (.fullTestEnd f) s = .next s) ∧
    (s.regs.wf = true → s.flt.full = true → s.fatal = false → ∃ t, exec (.fullTestEnd f) s = .next t ∧ t.flt.full = false ∧
      t.rdF R.STC_STAT F.STC_STAT_RESET_NEEDED = 1 ∧ t.rdF R.STC_STAT F.STC_STAT_KIND_NOW = 0 ∧
      t.rdF R.STC_CMD F.STC_CMD_STATUS = 2 ∧ (f ≠ .pass → t.pend 0x269 = true ∧ t.rdF R.STC_RESULT F.STC_RESULT_VALID = 1)))

/-! ### Event recorder and lifetime data (18_recorder), performance counters (19_performance_counters) -/

/-- R384, R386, R388, R389, R391 to R393: a record offered joins the queue's end, or is lost and counted when the queue or the recorder is
full; the head of the queue takes slot USED, with ERA, SEQ and CRC, and no slot below USED changes; a write of EVR_RD_IDX copies the slot;
EVR_CLEAR takes a token of this era and device only, and then every slot is empty but slot 0 of the new era. -/
def Obligations.RecorderKeepsRecordsInOrder : Prop :=
  (∀ (s : State) (r : Rec),
    (s.evr.queue.length < 512 → s.evr.used < 65536 ∨ s.evr.clearing.isSome = true →
      (s.offer r).evr.queue = s.evr.queue ++ [r] ∧ (s.offer r).evr.lost = s.evr.lost) ∧
    (512 ≤ s.evr.queue.length ∨ (65536 ≤ s.evr.used ∧ s.evr.clearing = none) → (s.offer r).evr.queue = s.evr.queue ∧
      (s.offer r).evr.lost = Nat.min (2 ^ 32 - 1) (s.evr.lost + 1))) ∧
  (∀ s : State, (s.rdF R.FTH_TIME F.FTH_TIME_TIME_VALID = 1 → s.recTime = (true, w64 s.pwr.cal)) ∧
    (s.rdF R.FTH_TIME F.FTH_TIME_TIME_VALID = 0 → s.recTime.1 = false ∧
      s.recTime.2.toNat / 2 ^ 40 = (s.bootCount + b2n (!s.boot.counted)) % 2 ^ 24 ∧
      s.recTime.2.toNat % 2 ^ 40 = Nat.min s.bootUs (2 ^ 40 - 1))) ∧
  (∀ (s : State) (r : Rec) (q : List Rec), s.evr.queue = r :: q →
    (s.boot.ao = true → s.boot.counted = true → s.evr.clearing = none → s.evr.used < 65536 →
      ∃ t, exec .recordSlotWrite s = .next t ∧ t.evr.queue = q ∧ t.evr.used = s.evr.used + 1 ∧
        t.slot s.evr.used = recWords r s.evr.era s.evr.used ∧ (∀ i, i ≠ s.evr.used → t.slot i = s.slot i) ∧ t.regs = s.regs ∧
        t.evr.era = s.evr.era) ∧
    (s.boot.ao = false ∨ s.boot.counted = false ∨ s.evr.clearing.isSome = true ∨ 65536 ≤ s.evr.used →
      exec .recordSlotWrite s = .next s)) ∧
  (∀ s : State, s.evr.queue = [] → exec .recordSlotWrite s = .next s) ∧
  (∀ (r : Rec) (era : BitVec 16) (seq : Nat), seq < 65536 → r.code < 65536 → r.severity < 4 → r.source < 128 →
    let ws := recWords r era seq
    ws.length = 8 ∧ (wordAt ws 0).toNat % 65536 = r.code ∧ (wordAt ws 0).toNat / 65536 % 4 = r.severity ∧
      (wordAt ws 0).toNat / 2 ^ 24 % 128 = r.source ∧ (wordAt ws 0).toNat / 2 ^ 32 = era.toNat ∧ wordAt ws 1 = r.time ∧
      (wordAt ws 7).toNat % 2 ^ 32 = seq) ∧
  (∀ (s : State) (rid : Nat) (val : Word), s.regs.wf = true → ridFull rid = true → s.barOpen rid = true →
    s.regCause R.EVR_RD_IDX = none → ∃ t, exec (.evrRdIdxWrite rid val) s = .next t ∧
      t.rdF R.EVR_RD_IDX F.EVR_RD_IDX_SLOT = val.toNat % 65536 ∧ t.evr = s.evr ∧
      ∀ k, k < 8 → t.rd (R.EVR_RD_DATA k) = wordAt (s.slot (val.toNat % 65536)) k) ∧
  (∀ (s : State) (c : AdminCmd) (f : FetchedToken), Takes s c 0x90 [(2, ones 0 20), (4, 0), (5, 0), (6, 0), (7, 0)] →
    (s.keyBusy = true → exec (.evrClear c f) s = .next s) ∧
    (s.keyBusy = false → isPf c.fn = false → s.xlt.missed = [] → exec (.evrClear c f) s = .next (s.answered c St.access 0)) ∧
    (s.keyBusy = false → isPf c.fn = true → s.xlt.missed = [] → s.granted c.fn (bitsOf c.e.w2 0 20) = false ∨ bitsOf c.e.w3 48 16 ≠ 0 →
      exec (.evrClear c f) s = .next (s.answered c 2 0)) ∧
    (s.keyBusy = false → isPf c.fn = true → CmdSees s c.fn (bitsOf c.e.w2 0 20) c.e.w3 160 →
      (∀ st, f = .failed st → ∃ t, exec (.evrClear c f) s = .next t ∧ t.evr = s.evr ∧ t.hbm = s.hbm ∧
        (t.fn c.fn).acqWait = ((s.fn c.fn).answered c st 0).acqWait) ∧
      (∀ tk, f = .token tk → clearTokenOk s tk = false → ∃ t, exec (.evrClear c f) s = .next t ∧ t.evr = s.evr ∧ t.hbm = s.hbm ∧
        (t.fn c.fn).acqWait = ((s.fn c.fn).answered c St.malformed 0).acqWait) ∧
      (∀ tk, f = .token tk → clearTokenOk s tk = true → ∃ t, exec (.evrClear c f) s = .next t ∧ t.evr.era = s.evr.era + 1 ∧
        t.evr.clearing.isSome = true ∧ t.evr.slots = s.evr.slots ∧ t.evr.queue = s.evr.queue ∧
        (t.fn c.fn).acqWait = (s.fn c.fn).acqWait))) ∧
  (∀ (s : State) (r : CmdRef) (cr : Rec), s.evr.clearing = some (r, cr) → fnOk r.fn = true → (s.fn r.fn).drain = none →
    ∃ t, exec .evrClearComplete s = .next t ∧ t.evr.used = 1 ∧ t.evr.clearing = none ∧ t.slot 0 = recWords cr s.evr.era 0 ∧
      (∀ i, 0 < i → t.slot i = [0, 0, 0, 0, 0, 0, 0, 0]) ∧ t.evr.queue = s.evr.queue ∧ t.evr.lost = s.evr.lost ∧
      (t.fn r.fn).acqWait = (s.fn r.fn).acqWait ++ [(r, St.ok, w64 s.evr.era.toNat)]) ∧
  (∀ s : State, s.evr.clearing = none → exec .evrClearComplete s = .next s)

/-- R394 to R396: each second with PWR_GOOD high joins the accumulators, the temperature bins and the thermal-cycle tracker; the hourly write
moves them into MRAM, where each word saturates and an invalid word stays. R400 to R404: a write of a counter's VALUE replaces it; a
snapshot copies every counter into its shadow, one at a time; CLR_PORTS zeroes the fixed counters; a window end stores each port's totals
and starts the next window. -/
def Obligations.LifetimeAndCountersKeepCount : Prop :=
  (∀ s : State, (s.boot.pwrGood = false → exec .lifetimeSecondSample s = .next s ∧ exec .lifetimeHourlyWrite s = .next s) ∧
    (s.boot.pwrGood = true → s.regs.wf = true → ∃ t, exec .lifetimeSecondSample s = .next t ∧ t.evr.words = s.evr.words ∧ t.hbm = s.hbm ∧
      s.evr.secAt + 1000000000 ≤ t.now ∧ t.evr.secAt = t.now ∧
      t.evr.acc.get? 0 = some ((s.evr.acc.get? 0).getD 0 + 1) ∧ t.evr.acc.get? 3 = some ((s.evr.acc.get? 3).getD 0 + s.dieTemp) ∧
      t.evr.acc.get? (8 + tempBin s.dieTemp) = some ((s.evr.acc.get? (8 + tempBin s.dieTemp)).getD 0 + 1) ∧
      t.evr.tracker = some (trackStep s.evr.tracker s.dieTemp).1 ∧
      ((trackStep s.evr.tracker s.dieTemp).2 = true → t.evr.acc.get? 2 = some ((s.evr.acc.get? 2).getD 0 + 1))) ∧
    (s.boot.pwrGood = true → ∃ t, exec .lifetimeHourlyWrite s = .next t ∧ t.evr.acc = [] ∧ s.evr.hourAt + 3600000000000 ≤ t.now ∧
      t.evr.hourAt = t.now ∧
      (s.evr.acc.wf = true → ∀ w n, s.evr.acc.get? w = some n → t.evr.words.get? w = some (lifeWord ((s.evr.words.get? w).getD 0) n)) ∧
      (∀ w, s.evr.acc.get? w = none → t.evr.words.get? w = s.evr.words.get? w) ∧ t.evr.slots = s.evr.slots)) ∧
  (∀ w n v : Nat, lifeWord w n = (if 2 ^ 48 ≤ w then w else Nat.min (2 ^ 48 - 1) (w + n)) ∧ tempBin v ≤ 31 ∧
    (5760 ≤ v → v < 15680 → tempBin v * 320 ≤ v - 5760 ∧ v - 5760 < (tempBin v + 1) * 320)) ∧
  (∀ (s : State) (rid n : Nat) (val : Word), s.regs.wf = true → n < 512 → ridFull rid = true → s.barOpen rid = true →
    s.regCause (R.CNT_VAL n) = none → ∃ t, exec (.counterValueWrite rid n val) s = .next t ∧
      t.rdF (R.CNT_VAL n) F.CNT_VAL_VALUE = getF val F.CNT_VAL_VALUE ∧
      t.rdF (R.CNT_VAL n) F.CNT_VAL_OVF = (if getF val F.CNT_VAL_OVF = 1 then 0 else s.rdF (R.CNT_VAL n) F.CNT_VAL_OVF) ∧
      (∀ m, m < 512 → m ≠ n → t.rd (R.CNT_VAL m) = s.rd (R.CNT_VAL m)) ∧ t.rd (R.CNT_SHD n) = s.rd (R.CNT_SHD n)) ∧
  (∀ (s : State) (rid : Nat) (val : Word), s.regs.wf = true → ridFull rid = true → s.barOpen rid = true → s.regCause R.CNT_CTL = none →
    (s.rdF R.CNT_CTL F.CNT_CTL_BUSY = 1 → ∃ t, exec (.snap rid val) s = .next t ∧ t.rdF R.CNT_CTL F.CNT_CTL_REJECT = 1 ∧
      ∀ n, n < 512 → t.rd (R.CNT_SHD n) = s.rd (R.CNT_SHD n)) ∧
    (s.rdF R.CNT_CTL F.CNT_CTL_BUSY = 0 → getF val F.CNT_CTL_CLR_PORTS = 0 → ∃ t, exec (.snap rid val) s = .next t ∧
      t.rdF R.CNT_CTL F.CNT_CTL_BUSY = 1 ∧ t.rd R.CNT_SNAP_TIME = w64 s.ft ∧
      (∀ n, n < 512 → t.rd (R.CNT_SHD n) = s.rd (R.CNT_VAL n) ∧ t.rd (R.CNT_VAL n) = s.rd (R.CNT_VAL n)) ∧
      ∀ p k, p < 67 → k < 8 → t.rd (R.CNT_PORT_SHD p k) = if s.domRuns (portDom p) then s.rd (R.CNT_PORT p k) else 0) ∧
    (getF val F.CNT_CTL_SNAP = 0 → ∃ t, exec (.clrPorts rid val) s = .next t ∧
      (∀ p k, p < 67 → k < 8 → t.rd (R.CNT_PORT p k) = 0) ∧ ∀ n, n < 512 → t.rd (R.CNT_VAL n) = s.rd (R.CNT_VAL n))) ∧
  (∀ s : State, s.regs.wf = true →
    (s.rdF R.CNT_CTL F.CNT_CTL_BUSY = 0 → exec .snapComplete s = .next s) ∧
    (s.rdF R.CNT_CTL F.CNT_CTL_BUSY = 1 → ∃ t, exec .snapComplete s = .next t ∧ t.rdF R.CNT_CTL F.CNT_CTL_BUSY = 0 ∧
      t.rdF R.CNT_CTL F.CNT_CTL_SEQ = (s.rdF R.CNT_CTL F.CNT_CTL_SEQ + 1) % 65536) ∧
    (s.rdF R.CNT_SNAP_AT F.CNT_SNAP_AT_ARM = 0 → exec .snapAtArrival s = .next s) ∧
    (s.rdF R.CNT_SNAP_AT F.CNT_SNAP_AT_ARM = 1 → ∃ t, exec .snapAtArrival s = .next t ∧ t.rdF R.CNT_SNAP_AT F.CNT_SNAP_AT_ARM = 0 ∧
      s.rdF R.CNT_SNAP_AT F.CNT_SNAP_AT_AT ≤ t.ft ∧
      (s.rdF R.CNT_CTL F.CNT_CTL_BUSY = 1 → t.rdF R.CNT_CTL F.CNT_CTL_REJECT = 1) ∧
      (s.rdF R.CNT_CTL F.CNT_CTL_BUSY = 0 → t.rdF R.CNT_CTL F.CNT_CTL_BUSY = 1 ∧
        ∀ n, n < 512 → t.rd (R.CNT_SHD n) = t.rd (R.CNT_VAL n) ∧
          (s.rdF R.CNT_SNAP_AT F.CNT_SNAP_AT_AT ≤ s.ft → t.rd (R.CNT_VAL n) = s.rd (R.CNT_VAL n))))) ∧
  (∀ s : State, s.regs.wf = true → ∃ t, exec .bwWindowEnd s = .next t ∧ t.cnt.cut = false ∧ s.bwEnd ≤ t.ft ∧
    t.rdF R.CNT_BW_CTL F.CNT_BW_CTL_SHORT = b2n s.cnt.cut ∧
    t.rdF R.CNT_BW_CTL F.CNT_BW_CTL_WSEQ = (s.rdF R.CNT_BW_CTL F.CNT_BW_CTL_WSEQ + 1) % 65536 ∧
    ∀ p x, p < 67 → s.lnk.exch.get? p = some x → s.domRuns (portDom p) = true →
      t.rdF (R.CNT_BW p) F.CNT_BW_TX = x.winTx % 2 ^ 32 ∧ t.rdF (R.CNT_BW p) F.CNT_BW_RX = x.winRx % 2 ^ 32 ∧
      t.lnk.exch.get? p = some { x with winTx := 0, winRx := 0 }) ∧
  (∀ (s : State) (rid : Nat) (val : Word), s.regs.wf = true → ridFull rid = true → s.barOpen rid = true →
    s.regCause R.CNT_BW_CTL = none → ∃ t, exec (.bwWindowWrite rid val) s = .next t ∧ t.cnt.cut = true ∧
      t.rdF R.CNT_BW_CTL F.CNT_BW_CTL_WINDOW = getF val F.CNT_BW_CTL_WINDOW ∧
      t.rdF R.CNT_BW_CTL F.CNT_BW_CTL_WSEQ = s.rdF R.CNT_BW_CTL F.CNT_BW_CTL_WSEQ ∧ t.lnk = s.lnk) ∧
  (∀ n v : Nat, n < 2 ^ 48 → v < 2 ^ 48 → ∀ o, o = 0 ∨ o = 2 ^ 63 →
    (cntAdd (w64 (o + v)) n).toNat % 2 ^ 48 = (v + n) % 2 ^ 48 ∧
    ((cntAdd (w64 (o + v)) n).toNat / 2 ^ 63 = 1 ↔ (o ≠ 0 ∨ 2 ^ 48 ≤ v + n)))

/-! ### Registers and inspection (00_scope, 01_architecture, 21_registers) -/

/-- R3, R4, R11, R12, R24, R273, R426: a write of 8 bytes stores the rw fields, clears the w1c fields where it has a 1 and leaves every other
bit; a read of 8 bytes returns the register and clears its rc fields; a read of the shadow route tables while a copy into them is in progress
finds it at some place (log 27); in a domain that does not answer a write is discarded and a read returns 0, and the first such access is
captured; another size or alignment is captured with cause 3, in a register, an MSI-X table or a status page alike; a reserved offset, and a
virtual function, reach nothing; a physical function's configuration writes, numbered 2^37 and 2^37 + 8 (log 57), reach AtomicOp Requester
Enable and Device Control; a read of BAR2, numbered from 2^36 (log 57), returns 0. -/
def Obligations.RegistersTakeAccessesAsTyped : Prop :=
  (∀ (s : State) (rid off size : Nat) (val : Word), s.barOpen rid = false →
    exec (.registerWrite rid off size val) s = .next s ∧ exec (.registerRead rid off size) s = .next s) ∧
  (∀ (s : State) (rid off size : Nat) (val : Word), s.barOpen rid = true → ridFull rid = true → msixPlace rid (off / 8 * 8) = none →
    (findReg (off / 8 * 8) = none → statusPlace rid (off / 8 * 8) = none → off ≠ atomCfg → off ≠ devCtlCfg →
      exec (.registerWrite rid off size val) s = .next s) ∧
    ((findReg (off / 8 * 8)).isSome = true ∨ (statusPlace rid (off / 8 * 8)).isSome = true → off ≠ atomCfg → off ≠ devCtlCfg →
      size ≠ 8 ∨ off % 8 ≠ 0 → size ≠ 4 ∨ off % 4 ≠ 0 →
      exec (.registerWrite rid off size val) s = .next (s.accessErr rid off true 3 0))) ∧
  (∀ (s : State) (rid off size : Nat) (val : Word), s.barOpen rid = true → off < atomCfg → (msixPlace rid (off / 8 * 8)).isSome = true →
    size ≠ 8 ∨ off % 8 ≠ 0 → size ≠ 4 ∨ off % 4 ≠ 0 →
      exec (.registerWrite rid off size val) s = .next (s.accessErr rid off true 3 0)) ∧
  (∀ (s : State) (rid size : Nat) (val : Word), s.barOpen rid = true → ridClass rid = 0 → isPf (rid % 4096) = true →
    exec (.registerWrite rid atomCfg size val) s =
      .next (s.setFn (rid % 4096) { s.fn (rid % 4096) with atomEn := val.getLsbD 0 }) ∧
    exec (.registerWrite rid devCtlCfg size val) s =
      .next (s.setFn (rid % 4096) { s.fn (rid % 4096) with devCtl := val.setWidth 16 })) ∧
  (∀ (s : State) (rid off : Nat), s.barOpen rid = true → bar2Base ≤ off → ridClass rid = 0 →
    exec (.registerRead rid off 8) s = .next (s.emit (.readReturn rid 0 8)) ∧
    exec (.registerRead rid off 4) s = .next (s.emit (.readReturn rid 0 4))) ∧
  (∀ (s : State) (rid off : Nat) (val : Word) (r : RegRow) (i k : Nat), s.regs.wf = true → s.barOpen rid = true → ridFull rid = true →
    off % 8 = 0 → msixPlace rid off = none → findReg off = some (r, i, k) →
    (∀ c d, s.regCause off = some (c, d) → exec (.registerWrite rid off 8 val) s = .next (s.accessErr rid off true c d)) ∧
    (s.regCause off = none → s.ownWrite rid off r.base i val = none → off ≠ R.FLT_CTL →
      ∃ t, exec (.registerWrite rid off 8 val) s = .next t ∧ t = { s with regs := t.regs } ∧ t.rd off =
        ((s.rd off &&& ~~~r.mask .rw) ||| (val &&& r.mask .rw)) &&& ~~~(val &&& r.mask .w1c) ∧ (∀ a, a ≠ off → t.rd a = s.rd a)) ∧
    (s.regCause off = none → ∀ t, s.ownWrite rid off r.base i val = some t → exec (.registerWrite rid off 8 val) s = .next t) ∧
    (statusPlace rid off = none → off < R.IRC_CLAIM 0 ∨ R.IRC_CLAIM 6 ≤ off →
      let u := s.shadowSeen off
      (s.rte.copying = none ∨ off < shdBase ∨ shdBase + bankLen ≤ off → u = s) ∧
      (∀ c d, s.regCause off = some (c, d) →
        exec (.registerRead rid off 8) s = .next ((u.accessErr rid off false c d).emit (.readReturn rid 0 8))) ∧
      (s.regCause off = none → ∃ t, exec (.registerRead rid off 8) s = .next t ∧
        t.out = s.out ++ [.readReturn rid (u.shown off r.base i) 8] ∧ t = { u with regs := t.regs, out := t.out } ∧
        (∀ f ∈ r.fields, f.acc = .rc → t.rdF off ⟨f.lo, f.hi - f.lo + 1⟩ = 0) ∧
        ((∀ f ∈ r.fields, f.acc ≠ .rc) → t.rd off = u.rd off) ∧ (∀ a, a ≠ off → t.rd a = u.rd a)))) ∧
  (∀ (s : State) (rid off : Nat) (val : Word), s.barOpen rid = true → ridFull rid = false → off % 8 = 0 → msixPlace rid off = none →
    exec (.registerWrite rid off 8 val) s = .next s ∧
    (statusPlace rid off = none → exec (.registerRead rid off 8) s = .next (s.emit (.readReturn rid 0 8)))) ∧
  (∀ (s : State) (rid off c d : Nat) (w : Bool), s.regs.wf = true → rid < 65536 → off / 8 < 2 ^ 23 → c < 256 → d < 256 →
    let t := s.accessErr rid off w c d
    t.rdF R.TOP_ACCESS_ERR F.TOP_ACCESS_ERR_VALID = 1 ∧ (∀ a, a ≠ R.TOP_ACCESS_ERR → t.rd a = s.rd a) ∧
      (s.rdF R.TOP_ACCESS_ERR F.TOP_ACCESS_ERR_VALID = 0 → t.rdF R.TOP_ACCESS_ERR F.TOP_ACCESS_ERR_CAUSE = c ∧
        t.rdF R.TOP_ACCESS_ERR F.TOP_ACCESS_ERR_REQUESTER = rid ∧ t.rdF R.TOP_ACCESS_ERR F.TOP_ACCESS_ERR_DOMAIN = d ∧
        t.rdF R.TOP_ACCESS_ERR F.TOP_ACCESS_ERR_WRITE = b2n w ∧ t.rdF R.TOP_ACCESS_ERR F.TOP_ACCESS_ERR_OFFSET = off / 8) ∧
      (s.rdF R.TOP_ACCESS_ERR F.TOP_ACCESS_ERR_VALID = 1 → t.rdF R.TOP_ACCESS_ERR F.TOP_ACCESS_ERR_LOST = 1 ∧
        t.rdF R.TOP_ACCESS_ERR F.TOP_ACCESS_ERR_CAUSE = s.rdF R.TOP_ACCESS_ERR F.TOP_ACCESS_ERR_CAUSE))

/-- R428 to R430: only a window's owner starts a snapshot in it, while STATUS is not BUSY; a reserved TYPE, an INDEX out of range and a
holder that is not ON end it at once; otherwise all words change together as STATUS becomes DONE; and nothing but the window's registers
changes, whatever the object (a shadow route table while a copy into it is in progress is found at some place of it, log 27). -/
def Obligations.SnapshotsCopyOneObject : Prop :=
  (∀ (s : State) (rid w : Nat) (val : Word), s.regs.wf = true → w < 6 → s.barOpen rid = true → s.regCause (R.INS_CMD w) = none →
    ridFull rid = true →
    (rid ≠ insOwner w ∨ s.rdF (R.INS_CMD w) F.INS_CMD_STATUS = 1 → exec (.inspectStart rid w val) s = .next s) ∧
    (rid = insOwner w → s.rdF (R.INS_CMD w) F.INS_CMD_STATUS ≠ 1 → s.fatal = false → ∃ t, exec (.inspectStart rid w val) s = .next t ∧
      t = { s with regs := t.regs } ∧ t.rdF (R.INS_CMD w) F.INS_CMD_TYPE = getF val F.INS_CMD_TYPE ∧
      t.rdF (R.INS_CMD w) F.INS_CMD_INDEX = getF val F.INS_CMD_INDEX ∧ (∀ k, k < 64 → t.rd (R.INS_DATA w k) = s.rd (R.INS_DATA w k)) ∧
      (0x10 ≤ getF val F.INS_CMD_TYPE ∨ getF val F.INS_CMD_TYPE = 0 → t.rdF (R.INS_CMD w) F.INS_CMD_STATUS = 3) ∧
      (getF val F.INS_CMD_TYPE = 1 → 2 ^ 21 ≤ getF val F.INS_CMD_INDEX → t.rdF (R.INS_CMD w) F.INS_CMD_STATUS = 4) ∧
      (getF val F.INS_CMD_TYPE = 1 → getF val F.INS_CMD_INDEX < 2 ^ 21 → t.rdF (R.INS_CMD w) F.INS_CMD_STATUS =
        (if s.domOn (69 + getF val F.INS_CMD_INDEX % 4) then 1 else 5)))) ∧
  (∀ (s : State) (w : Nat), s.regs.wf = true → w < 6 → s.fatal = false →
    (s.rdF (R.INS_CMD w) F.INS_CMD_STATUS ≠ 1 → exec (.inspectComplete w) s = .next s) ∧
    (s.rdF (R.INS_CMD w) F.INS_CMD_STATUS = 1 →
      let u : State := if s.rdF (R.INS_CMD w) F.INS_CMD_TYPE = 0x0A ∧ bitAt (s.rd (R.INS_CMD w)) 13 = true then s.copyGo else s
      (s.rte.copying = none → u = s) ∧ ∃ t, exec (.inspectComplete w) s = .next t ∧ t = { u with regs := t.regs } ∧
      (∀ e, u.snapshot (s.rdF (R.INS_CMD w) F.INS_CMD_TYPE) (s.rdF (R.INS_CMD w) F.INS_CMD_INDEX) = .error e → e < 8 →
        t.rdF (R.INS_CMD w) F.INS_CMD_STATUS = e ∧ ∀ k, k < 64 → t.rd (R.INS_DATA w k) = s.rd (R.INS_DATA w k)) ∧
      (∀ ws, u.snapshot (s.rdF (R.INS_CMD w) F.INS_CMD_TYPE) (s.rdF (R.INS_CMD w) F.INS_CMD_INDEX) = .ok ws → ws.length < 256 →
        t.rdF (R.INS_CMD w) F.INS_CMD_STATUS = 2 ∧ t.rdF (R.INS_CMD w) F.INS_CMD_WORDS = ws.length ∧
        ∀ k, k < 64 → t.rd (R.INS_DATA w k) = wordAt ws k) ∧
      (∀ v j, v < 6 → v ≠ w → j < 64 → t.rd (R.INS_CMD v) = s.rd (R.INS_CMD v) ∧ t.rd (R.INS_DATA v j) = s.rd (R.INS_DATA v j)))) ∧
  (∀ (s : State) (i : Nat), (i < 2 ^ 14 → s.domOn 91 = true → s.snapshot 0x0B i = .ok [s.cell i]) ∧
    (i < 2 ^ 24 → s.domOn 91 = true → s.snapshot 0x04 i = .ok (s.snapWin i)) ∧
    (i < 128 → s.domOn 92 = false → s.snapshot 0x0D i = .error 5) ∧
    (∀ c, c < 2 ^ 16 → (∀ v, s.mat.ctxs.get? c = some v → v.posted.length ≤ i) → i < 2 ^ 24 → s.snapshot 0x06 (c * 2 ^ 24 + i) = .error 4))

/-! ### Interrupt sources of several chapters -/

/-- R356, R372: the interrupt sources of power, Fathom and faults are high exactly while the rules say so; their reserved numbers are
low. -/
def Obligations.PowerAndFaultSourcesAreLevels : Prop :=
  (∀ (s : State) (k : Nat), k < 10 →
    (s.ircLevel (0x40 + k) = true ↔ ∃ n, 64 * k ≤ n ∧ n < 64 * k + 64 ∧ fltClass n = 0 ∧ s.pend n = true) ∧
    (s.ircLevel (0x50 + k) = true ↔ ∃ n, 64 * k ≤ n ∧ n < 64 * k + 64 ∧ fltClass n = 1 ∧ s.pend n = true)) ∧
  (∀ s : State, (s.ircLevel 0x60 = true ↔ s.rdF R.FLT_STAT F.FLT_STAT_FATAL = 1) ∧
    (s.ircLevel 0x61 = true ↔ s.rdF R.FLT_STAT F.FLT_STAT_CLR_REFUSED = 1) ∧
    (s.ircLevel 0x80 = true ↔ s.rdF R.PWR_REJECT F.PWR_REJECT_VALID = 1) ∧
    (s.ircLevel 0x81 = true ↔ ∃ i, i < 8 ∧ bitAt (s.rd R.PWR_CLK_STAT) (16 + i) = true) ∧
    (s.ircLevel 0x82 = s.pwr.guard) ∧ (s.ircLevel 0x83 = true ↔ s.rdF R.FTH_TIME F.FTH_TIME_SRC_CHG = 1) ∧
    (∀ l, l < 16 → (s.ircLevel (0x90 + l) = true ↔ ∃ r, r < 256 ∧ s.rdF (R.FTH_RULE_A r) F.FTH_RULE_A_ENABLE = 1 ∧
      s.rdF (R.FTH_RULE_A r) F.FTH_RULE_A_ACTIVE = 1 ∧ s.rdF (R.FTH_RULE_A r) F.FTH_RULE_A_ACTION = 8 ∧ (s.rule r).arg.toNat % 16 = l))) ∧
  (∀ (s : State) (n : Nat), (0x4A ≤ n ∧ n ≤ 0x4F) ∨ (0x5A ≤ n ∧ n ≤ 0x5F) ∨ (0x62 ≤ n ∧ n ≤ 0x7F) ∨ (0x84 ≤ n ∧ n ≤ 0x8F) →
    s.ircLevel n = false)

/-- R335, R382, R397: the interrupt sources of the boot, of self-test and of the recorder and lifetime data are high exactly while the bit
that the rule names reads 1; their reserved numbers are low. -/
def Obligations.RecorderTestAndBootSourcesAreLevels : Prop :=
  (∀ s : State, (s.ircLevel 0xC0 = true ↔ s.rdF R.BOOT_STAT F.BOOT_STAT_UPD_DONE = 1) ∧
    (s.ircLevel 0xC1 = true ↔ s.rdF R.BOOT_STAT F.BOOT_STAT_FAILOVER = 1) ∧
    (s.ircLevel 0xB8 = true ↔ s.rdF R.STC_RESULT F.STC_RESULT_VALID = 1) ∧
    (s.ircLevel 0xB9 = true ↔ s.rdF R.STC_STAT F.STC_STAT_CMD_DONE = 1) ∧
    (s.ircLevel 0xA0 = true ↔ getF (s.shown R.EVR_STAT R.EVR_STAT 0) F.EVR_STAT_HIGH = 1) ∧
    (s.ircLevel 0xA1 = true ↔ getF (s.shown R.EVR_STAT R.EVR_STAT 0) F.EVR_STAT_FULL = 1) ∧
    (s.ircLevel 0xA2 = true ↔ s.rdF R.LIF_STAT F.LIF_STAT_INVALID_NEW = 1)) ∧
  (∀ (s : State) (n : Nat), (0xA3 ≤ n ∧ n ≤ 0xAF) ∨ (0xBA ≤ n ∧ n ≤ 0xBF) ∨ (0xC2 ≤ n ∧ n ≤ 0xCF) → s.ircLevel n = false)

/-! ### The whole block -/

/-- R3, R45: a device that can take admin commands takes one with a reserved bit set, or of an unknown code, and completes it MALFORMED,
whatever the command, unless it waits for an earlier command on its object; nothing else changes. -/
def Obligations.BadAdminCommandsCompleteMalformed : Prop :=
  ∀ (s : State) (c : AdminCmd), fnOk c.fn = true → s.adminReady c.fn = true → s.keyBusy = false → s.xlt.missed = [] →
    (∀ d, (69 ≤ d ∧ d ≤ 78) ∨ d = 85 → s.domState d = 2) →
    s.qpBusy (bitsOf c.e.w2 0 21) = false → s.qpBusy (bitsOf c.e.w6 0 21) = false → s.winBusy (bitsOf c.e.w6 0 24) = false →
    s.winBusy (bitsOf c.e.w2 8 24) = false → s.winBusy (bitsOf c.e.w2 0 24) = false → s.grpBusy (bitsOf c.e.w2 0 16) = false →
    s.asidBusy (bitsOf c.e.w2 0 20) = false →
    (∀ (lst : Fetched) (tree : FetchedBytes) (img : FetchedImage) (tok : FetchedToken) (key : FetchedKey),
      ∀ p ∈ ([(.createQp c, 0x01, [(2, ones 0 7 + ones 8 50), (3, ones 0 48 + ones 63 1), (4, ones 0 64), (5, ones 0 64), (6, ones 0 21), (7, 0)]),
          (.modifyQp c, 0x02, [(2, ones 0 21 + ones 32 3), (3, ones 0 42), (4, ones 0 48), (5, 0), (6, 0), (7, 0)]),
          (.queryQp c, 0x03, [(2, ones 0 21), (3, 0), (4, 0), (5, 0), (6, 0), (7, 0)]),
          (.destroyQp c, 0x04, [(2, ones 0 21), (3, 0), (4, 0), (5, 0), (6, 0), (7, 0)]),
          (.createCq c, 0x10, [(2, ones 0 53), (3, ones 0 64), (4, 0), (5, 0), (6, 0), (7, 0)]),
          (.modifyCq c, 0x11, [(2, ones 0 20 + ones 32 1), (3, 0), (4, 0), (5, 0), (6, 0), (7, 0)]),
          (.queryCq c, 0x12, [(2, ones 0 20), (3, 0), (4, 0), (5, 0), (6, 0), (7, 0)]),
          (.destroyCq c, 0x13, [(2, ones 0 20), (3, 0), (4, 0), (5, 0), (6, 0), (7, 0)]),
          (.createEq c, 0x18, [(2, ones 0 36), (3, ones 0 64), (4, 0), (5, 0), (6, 0), (7, 0)]),
          (.destroyEq c, 0x19, [(2, ones 0 12), (3, 0), (4, 0), (5, 0), (6, 0), (7, 0)]),
          (.allocHbm c, 0x20, [(2, ones 0 33), (3, 0), (4, 0), (5, 0), (6, 0), (7, 0)]),
          (.freeHbm c, 0x21, [(2, ones 0 24), (3, 0), (4, 0), (5, 0), (6, 0), (7, 0)]),
          (.createMctx c, 0x30, [(2, ones 0 41), (3, ones 0 25 + ones 32 16 + ones 63 1), (4, ones 0 16), (5, 0), (6, 0), (7, 0)]),
          (.destroyMctx c, 0x31, [(2, ones 0 16), (3, 0), (4, 0), (5, 0), (6, 0), (7, 0)]),
          (.queryMctx c, 0x32, [(2, ones 0 16), (3, 0), (4, 0), (5, 0), (6, 0), (7, 0)]),
          (.postRecv c lst, 0x33, [(2, ones 0 33), (3, ones 0 64), (4, 0), (5, 0), (6, 0), (7, 0)]),
          (.cancelRecv c, 0x34, [(2, ones 0 16), (3, ones 0 64), (4, 0), (5, 0), (6, 0), (7, 0)]),
          (.probe c, 0x35, [(2, ones 0 16), (3, ones 0 64), (4, ones 0 64), (5, ones 0 64), (6, ones 0 64), (7, 0)]),
          (.openWindow c, 0x40, [(2, ones 0 54 + ones 63 1), (3, ones 0 48), (4, ones 0 53), (5, ones 0 39), (6, ones 0 24), (7, 0)]),
          (.revokeWindow c, 0x41, [(2, ones 0 32), (3, 0), (4, 0), (5, 0), (6, 0), (7, 0)]),
          (.queryWindow c, 0x42, [(2, ones 0 24), (3, 0), (4, 0), (5, 0), (6, 0), (7, 0)]),
          (.createGroup c tree, 0x50, [(2, ones 0 60), (3, ones 0 41), (4, ones 0 64), (5, 0), (6, 0), (7, 0)]),
          (.destroyGroup c, 0x51, [(2, ones 0 16), (3, 0), (4, 0), (5, 0), (6, 0), (7, 0)]),
          (.queryGroup c, 0x52, [(2, ones 0 16), (3, 0), (4, 0), (5, 0), (6, 0), (7, 0)]),
          (.createAsid c, 0x60, [(2, ones 12 40 + ones 63 1), (3, ones 0 31), (4, 0), (5, 0), (6, 0), (7, 0)]),
          (.modifyAsid c, 0x61, [(2, ones 0 20), (3, ones 12 40), (4, 0), (5, 0), (6, 0), (7, 0)]),
          (.destroyAsid c, 0x62, [(2, ones 0 20), (3, 0), (4, 0), (5, 0), (6, 0), (7, 0)]),
          (.invalidate c, 0x63, [(2, ones 0 21), (3, ones 12 36), (4, ones 0 37), (5, 0), (6, 0), (7, 0)]),
          (.resume c, 0x64, [(2, ones 0 21 + ones 32 1), (3, 0), (4, 0), (5, 0), (6, 0), (7, 0)]),
          (.setPkeys c, 0x70, [(2, ones 0 11 + ones 16 5), (3, ones 0 64), (4, ones 0 64), (5, ones 0 64), (6, ones 0 64), (7, 0)]),
          (.fwStage c img, 0x80, [(2, ones 0 21), (4, ones 0 32), (5, 0), (6, 0), (7, 0)]),
          (.fwActivate c, 0x81, [(2, 1), (3, 0), (4, 0), (5, 0), (6, 0), (7, 0)]),
          (.lcAdvance c tok, 0x82, [(2, ones 0 23), (4, 0), (5, 0), (6, 0), (7, 0)]),
          (.setOwnerKey c key, 0x83, [(2, ones 0 20), (4, 0), (5, 0), (6, 0), (7, 0)]),
          (.evrClear c tok, 0x90, [(2, ones 0 20), (4, 0), (5, 0), (6, 0), (7, 0)])] : List (Instr × Nat × List (Nat × Nat))),
        (bitsOf c.e.w0 0 16 = p.2.1 → c.e.w0.toNat / 65536 ≠ 0 ∨ argsOk c.e p.2.2 = false →
          exec p.1 s = .next (s.answered c St.malformed 0)) ∧
        (adminCodes.contains (bitsOf c.e.w0 0 16) = false → exec p.1 s = .next (s.answered c St.malformed 0)) ∧
        (bitsOf c.e.w0 0 16 ≠ p.2.1 → adminCodes.contains (bitsOf c.e.w0 0 16) = true → exec p.1 s = .next s))

/-- A step takes the command at the front of the queue and runs it on the rest of the state; on an empty queue the block idles for a
nanosecond (the model's choice, log 1). -/
def Obligations.StepRunsTheFrontCommand : Prop :=
  (∀ (s : State) (c : Instr) (q : List Instr), s.pending = c :: q → step s = exec c { s with pending := q }) ∧
  (∀ s : State, s.pending = [] → step s = .next (s.pass 1) ∧ (s.pass 1).now = s.now + 1 ∧ s.ft + 1 ≤ (s.pass 1).ft ∧
    (s.pass 1).out = s.out ∧ (s.pass 1).ten = s.ten ∧ (s.pass 1).hbm = s.hbm)

/-- No command stops the block: each answers a next state from every state, leaves the queue as it is, and leaves HBM and the traffic-class
set in force alone unless it is one of the commands listed for them. -/
def Obligations.CommandsAnswerAndTouchOnlyTheirs : Prop :=
  ∀ (c : Instr) (s : State), ∃ t, exec c s = .next t ∧ t.pending = s.pending ∧
    (storesHbm c = false → ∀ a, memGet t.hbm a = memGet s.hbm a) ∧ (changesTcs c = false → t.tcs.force = s.tcs.force)

/-- From every state that meets the invariant, a step leads to one that meets it: the register table and HBM keep their canonical forms, and
the life cycle stays a legal one (R329, R330). -/
def Obligations.EveryStepKeepsTheInvariant : Prop := ∀ s t : State, Inv s → step s = .next t → Inv t

/-- No step takes back what stands: time does not run back, what the block has done outside itself stays, no free value is used twice, the life
cycle goes only forward, and what the fuses forbid or fix stays so (R316, R329 to R331, R354). -/
def Obligations.EveryStepGoesOnward : Prop := ∀ s t : State, step s = .next t → Onward s t

/-- What reset leaves: the invariant holds; every register reads the reset value of its table (for registers that the spec gives none, the
model's, log 6); only domains 81, 86 and 92 have ENABLE; no domain is ON, ALIVE is low (R364), the device is not fatal, in no fault, at
STAGE 0, and no queue, window, group, packet or lock is held. -/
def Obligations.ResetLeavesTheTabledValues : Prop :=
  Inv State.reset ∧ (∀ off, State.reset.rd off = resetOf off) ∧ State.reset.pending = [] ∧
    (∀ d, d < 93 → State.reset.domState d = 0 ∧
      (State.reset.rdF (R.PWR_DOM_CTL d) F.PWR_DOM_CTL_ENABLE = 1 ↔ d = 81 ∨ d = 86 ∨ d = 92)) ∧
    State.reset.flt.alive = false ∧ State.reset.fatal = false ∧ State.reset.stage = 0 ∧ (∀ n, n < 640 → State.reset.pend n = false) ∧
    (∀ p, p < 67 → State.reset.portState p = 0) ∧ (∀ w, (State.reset.win w).st = .free) ∧ (∀ g, (State.reset.grp g).st = .free) ∧
    (∀ c, State.reset.cell c = 0) ∧ State.reset.ten.qps = [] ∧ State.reset.ten.cqs = [] ∧ State.reset.ten.eqs = [] ∧
    State.reset.mat.ctxs = [] ∧ (∀ a, memGet State.reset.hbm a = 0)
end

