-- ==== Sys2Proof/Laws/Keeps.lean ====
section
/-! SUPPORT. What every operation over the state keeps: the relation `Keeps P s t` between a state and a later one, its general rules,
and the operations that everything else is made of. -/

namespace Sys2Proof.Machine

open Sys2Proof

/-- The parts of the state, but the queue of commands. -/
inductive Part where
  | out | free | now | ft | regs | hbm | ten | tra | mat | wins | grps | xlt | rte | tcs | lnk | hst | irc | sem | boot | pwr | flt
  | evr | cnt
deriving DecidableEq, Repr

/-- Two states agree on a part. -/
def Part.same (x : Part) (s t : State) : Prop :=
  match x with
  | .out => t.out = s.out
  | .free => t.free = s.free
  | .now => t.now = s.now
  | .ft => t.ft = s.ft
  | .regs => t.regs = s.regs
  | .hbm => t.hbm = s.hbm
  | .ten => t.ten = s.ten
  | .tra => t.tra = s.tra
  | .mat => t.mat = s.mat
  | .wins => t.wins = s.wins
  | .grps => t.grps = s.grps
  | .xlt => t.xlt = s.xlt
  | .rte => t.rte = s.rte
  | .tcs => t.tcs = s.tcs
  | .lnk => t.lnk = s.lnk
  | .hst => t.hst = s.hst
  | .irc => t.irc = s.irc
  | .sem => t.sem = s.sem
  | .boot => t.boot = s.boot
  | .pwr => t.pwr = s.pwr
  | .flt => t.flt = s.flt
  | .evr => t.evr = s.evr
  | .cnt => t.cnt = s.cnt

theorem Part.same_refl (x : Part) (s : State) : x.same s s := by cases x <;> rfl

theorem Part.same_trans {x : Part} {s t u : State} (h : x.same s t) (k : x.same t u) : x.same s u := by
  cases x <;> exact Eq.trans k h

/-- The parts of a list may change. -/
def Parts (P : Part → Bool) (l : List Part) : Prop := ∀ x ∈ l, P x = true

theorem Parts.mono {P : Part → Bool} {l m : List Part} (h : Parts P l) (e : ∀ x ∈ m, x ∈ l) : Parts P m :=
  fun x hx => h x (e x hx)

/-- From `s` to `t`: the queue is untouched, every part that `P` does not name is untouched, the register table and HBM keep their
canonical forms, time does not run back, outputs are only added, free values are not used twice, and fuses stay blown. -/
structure Keeps (P : Part → Bool) (s t : State) : Prop where
  pending : t.pending = s.pending
  parts : ∀ x, P x = false → x.same s t
  regs : s.regs.wf = true → t.regs.wf = true
  hbm : memWf s.hbm = true → memWf t.hbm = true
  now : s.now ≤ t.now
  out : s.out <+: t.out
  free : s.free ≤ t.free
  fuses : Fuses s.boot t.boot

theorem Fuses.refl (b : Boot) : Fuses b b :=
  ⟨fun h => ⟨h, Nat.le_refl _, Nat.le_refl _⟩, fun h => ⟨h, rfl⟩, Nat.le_refl _, fun h => h⟩

theorem Fuses.trans {a b c : Boot} (h : Fuses a b) (k : Fuses b c) : Fuses a c := by
  obtain ⟨h1, h2, h3, h4⟩ := h
  obtain ⟨k1, k2, k3, k4⟩ := k
  refine ⟨fun l => ?_, fun o => ?_, Nat.le_trans h3 k3, fun n => k4 (h4 n)⟩
  · obtain ⟨p, q, r⟩ := h1 l
    obtain ⟨p', q', r'⟩ := k1 p
    exact ⟨p', Nat.le_trans q q', Nat.le_trans r r'⟩
  · obtain ⟨p, q⟩ := h2 o
    obtain ⟨p', q'⟩ := k2 p
    exact ⟨p', q'.trans q⟩

theorem Keeps.refl (P : Part → Bool) (s : State) : Keeps P s s :=
  ⟨rfl, fun x _ => x.same_refl s, id, id, Nat.le_refl _, List.prefix_refl _, Nat.le_refl _, Fuses.refl _⟩

theorem Keeps.trans {P : Part → Bool} {s t u : State} (h : Keeps P s t) (k : Keeps P t u) : Keeps P s u :=
  ⟨k.pending.trans h.pending, fun x hx => Part.same_trans (h.parts x hx) (k.parts x hx), fun e => k.regs (h.regs e),
   fun e => k.hbm (h.hbm e), Nat.le_trans h.now k.now, h.out.trans k.out, Nat.le_trans h.free k.free, h.fuses.trans k.fuses⟩

/-- A change of parts that are data only. -/
theorem Keeps.upd {P : Part → Bool} {s0 s : State} {boot_ : Boot}
    {ft_ : Nat} {ten_ : Queues} {tra_ : Transport} {mat_ : Matching} {wins_ : Tbl Window} {grps_ : Tbl Group} {xlt_ : Xlt}
    {rte_ : Router} {tcs_ : Tcs} {lnk_ : Links} {hst_ : HostIf} {irc_ : Irc} {sem_ : Sem} {pwr_ : Power} {flt_ : Faults}
    {evr_ : Recorder} {cnt_ : Counting}
    (hs : Keeps P s0 s) (f : Fuses s.boot boot_) (e_boot : P .boot = true ∨ boot_ = s.boot)
    (e_ft : P .ft = true ∨ ft_ = s.ft)
    (e_ten : P .ten = true ∨ ten_ = s.ten)
    (e_tra : P .tra = true ∨ tra_ = s.tra)
    (e_mat : P .mat = true ∨ mat_ = s.mat)
    (e_wins : P .wins = true ∨ wins_ = s.wins)
    (e_grps : P .grps = true ∨ grps_ = s.grps)
    (e_xlt : P .xlt = true ∨ xlt_ = s.xlt)
    (e_rte : P .rte = true ∨ rte_ = s.rte)
    (e_tcs : P .tcs = true ∨ tcs_ = s.tcs)
    (e_lnk : P .lnk = true ∨ lnk_ = s.lnk)
    (e_hst : P .hst = true ∨ hst_ = s.hst)
    (e_irc : P .irc = true ∨ irc_ = s.irc)
    (e_sem : P .sem = true ∨ sem_ = s.sem)
    (e_pwr : P .pwr = true ∨ pwr_ = s.pwr)
    (e_flt : P .flt = true ∨ flt_ = s.flt)
    (e_evr : P .evr = true ∨ evr_ = s.evr)
    (e_cnt : P .cnt = true ∨ cnt_ = s.cnt) :
    Keeps P s0 ⟨s.pending, s.out, s.free, s.now, ft_, s.regs, s.hbm, ten_, tra_, mat_, wins_, grps_, xlt_, rte_, tcs_, lnk_,
      hst_, irc_, sem_, boot_, pwr_, flt_, evr_, cnt_⟩ := by
  refine hs.trans ⟨rfl, fun x hx => ?_, id, id, Nat.le_refl _, List.prefix_refl _, Nat.le_refl _, f⟩
  cases x
  case boot => exact (e_boot.resolve_left (by simp [hx]))
  case ft => exact (e_ft.resolve_left (by simp [hx]))
  case ten => exact (e_ten.resolve_left (by simp [hx]))
  case tra => exact (e_tra.resolve_left (by simp [hx]))
  case mat => exact (e_mat.resolve_left (by simp [hx]))
  case wins => exact (e_wins.resolve_left (by simp [hx]))
  case grps => exact (e_grps.resolve_left (by simp [hx]))
  case xlt => exact (e_xlt.resolve_left (by simp [hx]))
  case rte => exact (e_rte.resolve_left (by simp [hx]))
  case tcs => exact (e_tcs.resolve_left (by simp [hx]))
  case lnk => exact (e_lnk.resolve_left (by simp [hx]))
  case hst => exact (e_hst.resolve_left (by simp [hx]))
  case irc => exact (e_irc.resolve_left (by simp [hx]))
  case sem => exact (e_sem.resolve_left (by simp [hx]))
  case pwr => exact (e_pwr.resolve_left (by simp [hx]))
  case flt => exact (e_flt.resolve_left (by simp [hx]))
  case evr => exact (e_evr.resolve_left (by simp [hx]))
  case cnt => exact (e_cnt.resolve_left (by simp [hx]))
  all_goals rfl

/-- As `Keeps.upd`, for a change that also writes the register table. -/
theorem Keeps.updRegs {P : Part → Bool} {s0 s : State} {regs_ : Tbl Word} {boot_ : Boot}
    {ft_ : Nat} {ten_ : Queues} {tra_ : Transport} {mat_ : Matching} {wins_ : Tbl Window} {grps_ : Tbl Group} {xlt_ : Xlt}
    {rte_ : Router} {tcs_ : Tcs} {lnk_ : Links} {hst_ : HostIf} {irc_ : Irc} {sem_ : Sem} {pwr_ : Power} {flt_ : Faults}
    {evr_ : Recorder} {cnt_ : Counting}
    (hs : Keeps P s0 s) (e_regs : P .regs = true ∨ regs_ = s.regs) (w : s.regs.wf = true → regs_.wf = true)
    (f : Fuses s.boot boot_) (e_boot : P .boot = true ∨ boot_ = s.boot)
    (e_ft : P .ft = true ∨ ft_ = s.ft)
    (e_ten : P .ten = true ∨ ten_ = s.ten)
    (e_tra : P .tra = true ∨ tra_ = s.tra)
    (e_mat : P .mat = true ∨ mat_ = s.mat)
    (e_wins : P .wins = true ∨ wins_ = s.wins)
    (e_grps : P .grps = true ∨ grps_ = s.grps)
    (e_xlt : P .xlt = true ∨ xlt_ = s.xlt)
    (e_rte : P .rte = true ∨ rte_ = s.rte)
    (e_tcs : P .tcs = true ∨ tcs_ = s.tcs)
    (e_lnk : P .lnk = true ∨ lnk_ = s.lnk)
    (e_hst : P .hst = true ∨ hst_ = s.hst)
    (e_irc : P .irc = true ∨ irc_ = s.irc)
    (e_sem : P .sem = true ∨ sem_ = s.sem)
    (e_pwr : P .pwr = true ∨ pwr_ = s.pwr)
    (e_flt : P .flt = true ∨ flt_ = s.flt)
    (e_evr : P .evr = true ∨ evr_ = s.evr)
    (e_cnt : P .cnt = true ∨ cnt_ = s.cnt) :
    Keeps P s0 ⟨s.pending, s.out, s.free, s.now, ft_, regs_, s.hbm, ten_, tra_, mat_, wins_, grps_, xlt_, rte_, tcs_, lnk_,
      hst_, irc_, sem_, boot_, pwr_, flt_, evr_, cnt_⟩ := by
  refine hs.trans ⟨rfl, fun x hx => ?_, w, id, Nat.le_refl _, List.prefix_refl _, Nat.le_refl _, f⟩
  cases x
  case boot => exact (e_boot.resolve_left (by simp [hx]))
  case regs => exact (e_regs.resolve_left (by simp [hx]))
  case ft => exact (e_ft.resolve_left (by simp [hx]))
  case ten => exact (e_ten.resolve_left (by simp [hx]))
  case tra => exact (e_tra.resolve_left (by simp [hx]))
  case mat => exact (e_mat.resolve_left (by simp [hx]))
  case wins => exact (e_wins.resolve_left (by simp [hx]))
  case grps => exact (e_grps.resolve_left (by simp [hx]))
  case xlt => exact (e_xlt.resolve_left (by simp [hx]))
  case rte => exact (e_rte.resolve_left (by simp [hx]))
  case tcs => exact (e_tcs.resolve_left (by simp [hx]))
  case lnk => exact (e_lnk.resolve_left (by simp [hx]))
  case hst => exact (e_hst.resolve_left (by simp [hx]))
  case irc => exact (e_irc.resolve_left (by simp [hx]))
  case sem => exact (e_sem.resolve_left (by simp [hx]))
  case pwr => exact (e_pwr.resolve_left (by simp [hx]))
  case flt => exact (e_flt.resolve_left (by simp [hx]))
  case evr => exact (e_evr.resolve_left (by simp [hx]))
  case cnt => exact (e_cnt.resolve_left (by simp [hx]))
  all_goals rfl

/-- `Keeps` of the state in a pair. -/
def KeepsP {α : Type} (P : Part → Bool) (s : State) (p : State × α) : Prop := Keeps P s p.1

theorem KeepsP.mk {α : Type} {P : Part → Bool} {s t : State} {a : α} (h : Keeps P s t) : KeepsP P s (t, a) := h

theorem KeepsP.fst {α : Type} {P : Part → Bool} {s : State} {p : State × α} (h : KeepsP P s p) : Keeps P s p.1 := h

theorem KeepsP.of_eq {α : Type} {P : Part → Bool} {s t : State} {a : α} {p : State × α} (e : p = (t, a)) (h : KeepsP P s p) :
    Keeps P s t := by rw [e] at h; exact h

/-- `Keeps` of the state that may result. -/
def KeepsO (P : Part → Bool) (s : State) (o : Option State) : Prop := ∀ t, o = some t → Keeps P s t

theorem KeepsO.none {P : Part → Bool} {s : State} : KeepsO P s none := fun _ h => by cases h

theorem KeepsO.some {P : Part → Bool} {s t : State} (h : Keeps P s t) : KeepsO P s (some t) := fun _ e => by cases e; exact h

theorem KeepsO.of_eq {P : Part → Bool} {s t : State} {o : Option State} (e : o = Option.some t) (h : KeepsO P s o) : Keeps P s t := h t e

/-- `Keeps` of the next state of an outcome. -/
def KeepsR (P : Part → Bool) (s : State) (o : Host.Outcome State Fault Refusal) : Prop := ∀ t, o = .next t → Keeps P s t

theorem KeepsR.next {P : Part → Bool} {s t : State} (h : Keeps P s t) : KeepsR P s (.next t) := fun _ e => by cases e; exact h

theorem Keeps.ite {P : Part → Bool} {s a b : State} {c : Prop} [Decidable c] (ha : Keeps P s a) (hb : Keeps P s b) :
    Keeps P s (if c then a else b) := by split <;> assumption

theorem KeepsP.ite {α : Type} {P : Part → Bool} {s : State} {a b : State × α} {c : Prop} [Decidable c] (ha : KeepsP P s a)
    (hb : KeepsP P s b) : KeepsP P s (if c then a else b) := by split <;> assumption

theorem KeepsO.ite {P : Part → Bool} {s : State} {a b : Option State} {c : Prop} [Decidable c] (ha : KeepsO P s a)
    (hb : KeepsO P s b) : KeepsO P s (if c then a else b) := by split <;> assumption

theorem KeepsR.ite {P : Part → Bool} {s : State} {a b : Host.Outcome State Fault Refusal} {c : Prop} [Decidable c] (ha : KeepsR P s a)
    (hb : KeepsR P s b) : KeepsR P s (if c then a else b) := by split <;> assumption

theorem KeepsO.getD {P : Part → Bool} {s d : State} {o : Option State} (h : KeepsO P s o) (hd : Keeps P s d) :
    Keeps P s (o.getD d) := by
  cases o with
  | none => exact hd
  | some t => exact h t rfl

theorem foldl_keeps {β : Type} {P : Part → Bool} {s0 s : State} (l : List β) (f : State → β → State)
    (hf : ∀ a, Keeps P s0 a → ∀ x, Keeps P s0 (f a x)) (hs : Keeps P s0 s) : Keeps P s0 (l.foldl f s) := by
  induction l generalizing s with
  | nil => exact hs
  | cons x l ih => exact ih (hf s hs x)

theorem foldl_keepsP {α β : Type} {P : Part → Bool} {s0 : State} {p : State × α} (l : List β) (f : State × α → β → State × α)
    (hf : ∀ a, KeepsP P s0 a → ∀ x, KeepsP P s0 (f a x)) (hs : KeepsP P s0 p) : KeepsP P s0 (l.foldl f p) := by
  induction l generalizing p with
  | nil => exact hs
  | cons x l ih => exact ih (hf p hs x)

/-! ### Tables and memory keep their form -/

theorem Tbl.keys_set_mem {α : Type} (t : Tbl α) (k j : Nat) (a : α) : j ∈ Tbl.keys (Tbl.set t k a) → j = k ∨ j ∈ Tbl.keys t := by
  induction t with
  | nil => simp [Tbl.set, Tbl.keys]
  | cons c t ih =>
    obtain ⟨i, b⟩ := c
    simp only [Tbl.set]
    split
    · simp [Tbl.keys]
    · split
      · simp only [Tbl.keys, List.map_cons, List.mem_cons] at *
        rintro (h | h)
        · exact .inl h
        · exact .inr (.inr h)
      · simp only [Tbl.keys, List.map_cons, List.mem_cons] at *
        rintro (h | h)
        · exact .inr (.inl h)
        · rcases ih h with h | h
          · exact .inl h
          · exact .inr (.inr h)

theorem Tbl.rising_iff : ∀ l : List Nat, Tbl.rising l = true ↔ l.Pairwise (· < ·)
  | [] => by simp [Tbl.rising]
  | [a] => by simp [Tbl.rising]
  | a :: b :: l => by
    have ih := Tbl.rising_iff (b :: l)
    simp only [Tbl.rising, Bool.and_eq_true, decide_eq_true_eq, ih, List.pairwise_cons, List.mem_cons, forall_eq_or_imp]
    exact ⟨fun ⟨h, hb, hl⟩ => ⟨⟨h, fun c hc => Nat.lt_trans h (hb c hc)⟩, hb, hl⟩, fun ⟨ha, hb, hl⟩ => ⟨ha.1, hb, hl⟩⟩

theorem Tbl.wf_iff {α : Type} (t : Tbl α) : t.wf = true ↔ (Tbl.keys t).Pairwise (· < ·) := Tbl.rising_iff _

theorem Tbl.set_wf {α : Type} (t : Tbl α) (k : Nat) (a : α) (h : t.wf = true) : (Tbl.set t k a).wf = true := by
  rw [Tbl.wf_iff] at *
  induction t with
  | nil => simp [Tbl.set, Tbl.keys]
  | cons c t ih =>
    obtain ⟨i, b⟩ := c
    simp only [Tbl.keys, List.map_cons, List.pairwise_cons] at h ih ⊢
    obtain ⟨h1, h2⟩ := h
    have ih := ih h2
    simp only [Tbl.set]
    split
    · rename_i hk
      simp only [List.map_cons, List.pairwise_cons, List.mem_cons]
      refine ⟨?_, h1, h2⟩
      rintro j (rfl | hj)
      · exact hk
      · exact Nat.lt_trans hk (h1 j hj)
    · split
      · rename_i hk
        simp only [List.map_cons, List.pairwise_cons]
        exact ⟨hk ▸ h1, h2⟩
      · rename_i h3 h4
        simp only [List.map_cons, List.pairwise_cons]
        refine ⟨fun j hj => ?_, ih⟩
        rcases Tbl.keys_set_mem t k j a hj with rfl | hj
        · omega
        · exact h1 j hj

theorem Tbl.sublist_wf {α : Type} {t u : Tbl α} (e : u.Sublist t) (h : t.wf = true) : u.wf = true := by
  rw [Tbl.wf_iff] at *
  exact List.Pairwise.sublist (e.map _) h

theorem Tbl.erase_sublist {α : Type} (t : Tbl α) (k : Nat) : (Tbl.erase t k).Sublist t := by
  induction t with
  | nil => exact List.Sublist.refl _
  | cons c t ih =>
    simp only [Tbl.erase]
    split
    · exact List.sublist_cons_self _ _
    · exact ih.cons_cons _

theorem Tbl.erase_wf {α : Type} (t : Tbl α) (k : Nat) (h : t.wf = true) : (Tbl.erase t k).wf = true :=
  Tbl.sublist_wf (Tbl.erase_sublist t k) h

theorem Tbl.filter_wf {α : Type} (t : Tbl α) (p : Nat × α → Bool) (h : t.wf = true) : Tbl.wf (t.filter p) = true :=
  Tbl.sublist_wf List.filter_sublist h

theorem regPut_wf (t : Tbl Word) (off : Nat) (w : Word) (h : t.wf = true) : (regPut t off w).wf = true := by
  unfold regPut
  split
  · exact Tbl.erase_wf _ _ h
  · exact Tbl.set_wf _ _ _ h

theorem memPut_mem (m : List Host.Cell) (a j : Nat) (v : Byte) : j ∈ (memPut m a v).map Prod.fst → j = a ∨ j ∈ m.map Prod.fst := by
  induction m with
  | nil => unfold memPut; split <;> simp
  | cons c m ih =>
    obtain ⟨k, b⟩ := c
    unfold memPut
    split
    · split
      · exact .inr
      · simp
    · split
      · split
        · intro h; simp only [List.map_cons, List.mem_cons]; exact .inr (.inr h)
        · simp only [List.map_cons, List.mem_cons]; rintro (h | h)
          · exact .inl h
          · exact .inr (.inr h)
      · simp only [List.map_cons, List.mem_cons]; rintro (h | h)
        · exact .inr (.inl h)
        · rcases ih h with h | h
          · exact .inl h
          · exact .inr (.inr h)

/-- A store keeps the canonical form of a memory. -/
theorem memPut_wf (m : List Host.Cell) (a : Nat) (v : Byte) (h : memWf m = true) : memWf (memPut m a v) = true := by
  induction m with
  | nil =>
    unfold memPut
    split
    · exact h
    · rename_i hv; simpa [memWf] using hv
  | cons c m ih =>
    obtain ⟨k, b⟩ := c
    have hh := h
    simp only [memWf, List.map_cons, List.pairwise_cons, List.all_cons, Bool.and_eq_true, decide_eq_true_eq] at h
    obtain ⟨⟨h1, h2⟩, h3, h4⟩ := h
    have ih := ih (by simp only [memWf, Bool.and_eq_true, decide_eq_true_eq]; exact ⟨h2, h4⟩)
    simp only [memWf, Bool.and_eq_true, decide_eq_true_eq] at ih
    unfold memPut
    split
    · rename_i ha
      split
      · exact hh
      · rename_i hv
        simp only [memWf, List.map_cons, List.pairwise_cons, List.all_cons, Bool.and_eq_true, decide_eq_true_eq, List.mem_cons]
        refine ⟨⟨?_, h1, h2⟩, by simpa using hv, h3, h4⟩
        rintro j (rfl | hj)
        · exact ha
        · exact Nat.lt_trans ha (h1 j hj)
    · split
      · rename_i ha
        split
        · simp only [memWf, Bool.and_eq_true, decide_eq_true_eq]; exact ⟨h2, h4⟩
        · rename_i hv
          simp only [memWf, List.map_cons, List.pairwise_cons, List.all_cons, Bool.and_eq_true, decide_eq_true_eq]
          exact ⟨⟨ha ▸ h1, h2⟩, by simpa using hv, h4⟩
      · rename_i ha hb
        simp only [memWf, List.map_cons, List.pairwise_cons, List.all_cons, Bool.and_eq_true, decide_eq_true_eq]
        refine ⟨⟨fun j hj => ?_, ih.1⟩, h3, ih.2⟩
        rcases memPut_mem m a j v hj with rfl | hj
        · omega
        · exact h1 j hj

theorem memPuts_wf (m : List Host.Cell) (a : Nat) (bs : List Byte) (h : memWf m = true) : memWf (memPuts m a bs) = true := by
  induction bs generalizing m a with
  | nil => exact h
  | cons b bs ih => exact ih _ _ (memPut_wf m a b h)

/-! ### The operations everything is made of -/

theorem State.wr_keeps {P : Part → Bool} {s0 : State} (s : State) (off : Nat) (w : Word) (h : Parts P [.regs]) (hs : Keeps P s0 s) :
    Keeps P s0 (s.wr off w) := by
  refine hs.trans ⟨rfl, fun x hx => ?_, regPut_wf _ _ _, id, Nat.le_refl _, List.prefix_refl _, Nat.le_refl _, Fuses.refl _⟩
  cases x <;> first | rfl | (rw [h .regs (by simp)] at hx; cases hx)

theorem State.keepRegs_keeps {P : Part → Bool} {s0 : State} (s : State) (keep : Nat → Bool) (h : Parts P [.regs]) (hs : Keeps P s0 s) :
    Keeps P s0 (s.keepRegs keep) := by
  refine hs.trans ⟨rfl, fun x hx => ?_, Tbl.filter_wf _ _, id, Nat.le_refl _, List.prefix_refl _, Nat.le_refl _, Fuses.refl _⟩
  cases x <;> first | rfl | (rw [h .regs (by simp)] at hx; cases hx)

theorem State.hbmWrite_keeps {P : Part → Bool} {s0 : State} (s : State) (a : Nat) (bs : List Byte) (h : Parts P [.hbm])
    (hs : Keeps P s0 s) : Keeps P s0 (s.hbmWrite a bs) := by
  refine hs.trans ⟨rfl, fun x hx => ?_, id, memPuts_wf _ _ _, Nat.le_refl _, List.prefix_refl _, Nat.le_refl _, Fuses.refl _⟩
  cases x <;> first | rfl | (rw [h .hbm (by simp)] at hx; cases hx)

theorem State.emit_keeps {P : Part → Bool} {s0 : State} (s : State) (o : Out) (h : Parts P [.out]) (hs : Keeps P s0 s) :
    Keeps P s0 (s.emit o) := by
  refine hs.trans ⟨rfl, fun x hx => ?_, id, id, Nat.le_refl _, List.prefix_append _ _, Nat.le_refl _, Fuses.refl _⟩
  cases x <;> first | rfl | (rw [h .out (by simp)] at hx; cases hx)

theorem State.freeVal_keeps {P : Part → Bool} {s0 : State} (s : State) (h : Parts P [.free]) (hs : Keeps P s0 s) :
    Keeps P s0 s.freeVal.2 := by
  refine hs.trans ⟨rfl, fun x hx => ?_, id, id, Nat.le_refl _, List.prefix_refl _, Nat.le_succ _, Fuses.refl _⟩
  cases x <;> first | rfl | (rw [h .free (by simp)] at hx; cases hx)

end Sys2Proof.Machine
end

