-- ==== Sys2Proof/Laws/Ops.lean ====
section
/-! SUPPORT. What the operations of Machine/Ops.lean keep. -/

set_option linter.unusedTactic false
set_option linter.unreachableTactic false
set_option linter.unusedVariables false

namespace Sys2Proof.Machine

open Sys2Proof

theorem State.wrF_keeps {P : Part → Bool} {s0 : State} (s : State) (off : Nat) (f : Fld) (v : Nat) (h : Parts P [.regs])
    (hs : Keeps P s0 s) : Keeps P s0 (State.wrF s off f v) := by
  unfold State.wrF
  repeat' (first
    | with_reducible assumption
    | ((with_reducible apply Parts.mono h); decide)
    | with_reducible apply State.wr_keeps
    | with_reducible intro _
    | split)

theorem State.wrFs_keeps {P : Part → Bool} {s0 : State} (s : State) (off : Nat) (fs : List (Fld × Nat)) (h : Parts P [.regs])
    (hs : Keeps P s0 s) : Keeps P s0 (State.wrFs s off fs) := by
  unfold State.wrFs
  repeat' (first
    | with_reducible assumption
    | ((with_reducible apply Parts.mono h); decide)
    | with_reducible apply State.wr_keeps
    | with_reducible apply foldl_keeps
    | with_reducible apply foldl_keepsP
    | with_reducible intro _
    | split
    | with_reducible apply KeepsP.mk
    | (with_reducible apply KeepsP.of_eq (by with_reducible assumption))
    | with_reducible apply KeepsP.fst
    | beta_reduce)

theorem State.bump_keeps {P : Part → Bool} {s0 : State} (s : State) (off : Nat) (f : Fld) (n : Nat) (h : Parts P [.regs])
    (hs : Keeps P s0 s) : Keeps P s0 (State.bump s off f n) := by
  unfold State.bump
  repeat' (first
    | with_reducible assumption
    | ((with_reducible apply Parts.mono h); decide)
    | with_reducible apply State.wrF_keeps
    | with_reducible intro _
    | split)

theorem State.capture_keeps {P : Part → Bool} {s0 : State} (s : State) (off : Nat) (valid : Fld) (lost : Fld) (fs : List (Fld × Nat)) (h : Parts P [.regs])
    (hs : Keeps P s0 s) : Keeps P s0 (State.capture s off valid lost fs) := by
  unfold State.capture
  repeat' (first
    | with_reducible assumption
    | ((with_reducible apply Parts.mono h); decide)
    | with_reducible apply State.wrF_keeps
    | with_reducible apply State.wrFs_keeps
    | with_reducible intro _
    | with_reducible apply Keeps.ite
    | split)

theorem State.setFn_keeps {P : Part → Bool} {s0 : State} (s : State) (f : Nat) (v : Fn) (h : Parts P [.ten])
    (hs : Keeps P s0 s) : Keeps P s0 (State.setFn s f v) := by
  unfold State.setFn
  repeat' (first
    | with_reducible assumption
    | ((with_reducible apply Parts.mono h); decide)
    | with_reducible intro _
    | (extract_lets +onlyGivenNames x0; first
        | ((with_reducible refine (have hx0 : Keeps P s0 x0 := ?_; ?_)); (on_goal 2 => clear_value x0); (on_goal 1 => subst x0))
        | clear_value x0)
    | split
    | with_reducible apply Keeps.upd
    | with_reducible apply Fuses.refl
    | ((with_reducible apply Or.inr); with_reducible rfl)
    | ((with_reducible apply Or.inl); exact h _ (by decide)))

theorem State.event_keeps {P : Part → Bool} {s0 : State} (s : State) (event : Nat) (unit : Nat) (tc : Option Nat) (n : Nat) (h : Parts P [.regs])
    (hs : Keeps P s0 s) : Keeps P s0 (State.event s event unit tc n) := by
  unfold State.event
  repeat' (first
    | with_reducible assumption
    | ((with_reducible apply Parts.mono h); decide)
    | with_reducible apply State.wr_keeps
    | with_reducible apply foldl_keeps
    | with_reducible apply foldl_keepsP
    | with_reducible intro _
    | (extract_lets +onlyGivenNames x0; first
        | ((with_reducible refine (have hx0 : Keeps P s0 x0 := ?_; ?_)); (on_goal 2 => clear_value x0); (on_goal 1 => subst x0))
        | ((with_reducible refine (have hx0 : KeepsP P s0 x0 := ?_; ?_)); (on_goal 2 => clear_value x0); (on_goal 1 => subst x0))
        | clear_value x0)
    | with_reducible apply Keeps.ite
    | with_reducible apply KeepsO.getD
    | split
    | with_reducible apply KeepsP.mk
    | (with_reducible apply KeepsP.of_eq (by with_reducible assumption))
    | with_reducible apply KeepsP.fst
    | beta_reduce)

theorem State.msix_keeps {P : Part → Bool} {s0 : State} (s : State) (f : Nat) (vec : Nat) (h : Parts P [.out, .regs, .ten])
    (hs : Keeps P s0 s) : Keeps P s0 (State.msix s f vec) := by
  unfold State.msix
  repeat' (first
    | with_reducible assumption
    | ((with_reducible apply Parts.mono h); decide)
    | with_reducible apply State.emit_keeps
    | with_reducible apply State.setFn_keeps
    | with_reducible apply State.event_keeps
    | with_reducible intro _
    | (extract_lets +onlyGivenNames x0; first
        | ((with_reducible refine (have hx0 : Keeps P s0 x0 := ?_; ?_)); (on_goal 2 => clear_value x0); (on_goal 1 => subst x0))
        | clear_value x0)
    | with_reducible apply Keeps.ite
    | split
    | with_reducible apply Keeps.upd
    | with_reducible apply Fuses.refl
    | ((with_reducible apply Or.inr); with_reducible rfl)
    | ((with_reducible apply Or.inl); exact h _ (by decide))
    | beta_reduce)

theorem State.offer_keeps {P : Part → Bool} {s0 : State} (s : State) (r : Rec) (h : Parts P [.evr])
    (hs : Keeps P s0 s) : Keeps P s0 (State.offer s r) := by
  unfold State.offer
  repeat' (first
    | with_reducible assumption
    | ((with_reducible apply Parts.mono h); decide)
    | with_reducible intro _
    | (extract_lets +onlyGivenNames x0; first
        | ((with_reducible refine (have hx0 : Keeps P s0 x0 := ?_; ?_)); (on_goal 2 => clear_value x0); (on_goal 1 => subst x0))
        | clear_value x0)
    | with_reducible apply Keeps.ite
    | split
    | with_reducible apply Keeps.upd
    | with_reducible apply Fuses.refl
    | ((with_reducible apply Or.inr); with_reducible rfl)
    | ((with_reducible apply Or.inl); exact h _ (by decide)))

theorem State.record_keeps {P : Part → Bool} {s0 : State} (s : State) (code : Nat) (severity : Nat) (source : Nat) (p0 : Word) (p1 : Word) (p2 : Word) (p3 : Word) (p4 : Word) (h : Parts P [.boot, .evr])
    (hs : Keeps P s0 s) : Keeps P s0 (State.record s code severity source p0 p1 p2 p3 p4) := by
  unfold State.record
  repeat' (first
    | with_reducible assumption
    | ((with_reducible apply Parts.mono h); decide)
    | with_reducible apply State.offer_keeps
    | with_reducible intro _
    | (extract_lets +onlyGivenNames x0; first
        | ((with_reducible refine (have hx0 : Keeps P s0 x0 := ?_; ?_)); (on_goal 2 => clear_value x0); (on_goal 1 => subst x0))
        | ((with_reducible have _x0 : Boot := x0); clear _x0; subst x0)
        | clear_value x0)
    | with_reducible apply Keeps.ite
    | split
    | with_reducible apply Keeps.upd
    | with_reducible apply Fuses.refl
    | ((with_reducible apply Fuses.mk) <;> first | exact fun l => ⟨l, Nat.le_refl _, Nat.le_refl _⟩ | exact fun o => ⟨o, rfl⟩ | exact Nat.le_refl _ | exact fun o => o)
    | ((with_reducible apply Or.inr); with_reducible rfl)
    | ((with_reducible apply Or.inl); exact h _ (by decide)))

theorem State.note_keeps {P : Part → Bool} {s0 : State} (s : State) (code : Nat) (source : Nat) (p0 : Nat) (p1 : Nat) (p2 : Nat) (p3 : Nat) (h : Parts P [.boot, .evr])
    (hs : Keeps P s0 s) : Keeps P s0 (State.note s code source p0 p1 p2 p3) := by
  unfold State.note
  repeat' (first
    | with_reducible assumption
    | ((with_reducible apply Parts.mono h); decide)
    | with_reducible apply State.record_keeps
    | with_reducible intro _
    | split)

theorem State.lifeAdd_keeps {P : Part → Bool} {s0 : State} (s : State) (w : Nat) (n : Nat) (h : Parts P [.evr])
    (hs : Keeps P s0 s) : Keeps P s0 (State.lifeAdd s w n) := by
  unfold State.lifeAdd
  repeat' (first
    | with_reducible assumption
    | ((with_reducible apply Parts.mono h); decide)
    | with_reducible intro _
    | (extract_lets +onlyGivenNames x0; first
        | ((with_reducible refine (have hx0 : Keeps P s0 x0 := ?_; ?_)); (on_goal 2 => clear_value x0); (on_goal 1 => subst x0))
        | clear_value x0)
    | with_reducible apply KeepsO.getD
    | split
    | with_reducible apply Keeps.upd
    | with_reducible apply Fuses.refl
    | ((with_reducible apply Or.inr); with_reducible rfl)
    | ((with_reducible apply Or.inl); exact h _ (by decide)))

theorem State.accessErr_keeps {P : Part → Bool} {s0 : State} (s : State) (rid : Nat) (off : Nat) (write : Bool) (cause : Nat) (dom : Nat) (h : Parts P [.regs])
    (hs : Keeps P s0 s) : Keeps P s0 (State.accessErr s rid off write cause dom) := by
  unfold State.accessErr
  repeat' (first
    | with_reducible assumption
    | ((with_reducible apply Parts.mono h); decide)
    | with_reducible apply State.capture_keeps
    | with_reducible intro _
    | split)

theorem State.viaReg_keeps {P : Part → Bool} {s0 : State} (s : State) (rid : Nat) (off : Nat) (act : State → State) (h : Parts P [.regs]) (h_act : ∀ a, Keeps P s0 a → Keeps P s0 (act a))
    (hs : Keeps P s0 s) : Keeps P s0 (State.viaReg s rid off act) := by
  unfold State.viaReg
  repeat' (first
    | with_reducible assumption
    | ((with_reducible apply Parts.mono h); decide)
    | with_reducible apply h_act
    | with_reducible apply State.accessErr_keeps
    | with_reducible intro _
    | (extract_lets +onlyGivenNames x0; first
        | ((with_reducible refine (have hx0 : Keeps P s0 x0 := ?_; ?_)); (on_goal 2 => clear_value x0); (on_goal 1 => subst x0))
        | clear_value x0)
    | with_reducible apply Keeps.ite
    | split
    | with_reducible apply Keeps.upd
    | with_reducible apply Fuses.refl
    | ((with_reducible apply Or.inr); with_reducible rfl)
    | ((with_reducible apply Or.inl); exact h _ (by decide)))

theorem State.forget_keeps {P : Part → Bool} {s0 : State} (s : State) (gone : Asker → Bool) (h : Parts P [.xlt])
    (hs : Keeps P s0 s) : Keeps P s0 (State.forget s gone) := by
  unfold State.forget
  repeat' (first
    | with_reducible assumption
    | ((with_reducible apply Parts.mono h); decide)
    | with_reducible intro _
    | (extract_lets +onlyGivenNames x0; first
        | ((with_reducible refine (have hx0 : Keeps P s0 x0 := ?_; ?_)); (on_goal 2 => clear_value x0); (on_goal 1 => subst x0))
        | clear_value x0)
    | with_reducible apply Keeps.ite
    | split
    | with_reducible apply Keeps.upd
    | with_reducible apply Fuses.refl
    | ((with_reducible apply Or.inr); with_reducible rfl)
    | ((with_reducible apply Or.inl); exact h _ (by decide))
    | beta_reduce)

theorem State.adminDone_keeps {P : Part → Bool} {s0 : State} (s : State) (r : CmdRef) (status : Nat) (result : Word) (h : Parts P [.ten, .xlt])
    (hs : Keeps P s0 s) : Keeps P s0 (State.adminDone s r status result) := by
  unfold State.adminDone
  repeat' (first
    | with_reducible assumption
    | ((with_reducible apply Parts.mono h); decide)
    | with_reducible apply State.setFn_keeps
    | with_reducible apply State.forget_keeps
    | with_reducible intro _
    | (extract_lets +onlyGivenNames x0; first
        | ((with_reducible refine (have hx0 : Keeps P s0 x0 := ?_; ?_)); (on_goal 2 => clear_value x0); (on_goal 1 => subst x0))
        | clear_value x0)
    | with_reducible apply Keeps.ite
    | split
    | with_reducible apply Keeps.upd
    | with_reducible apply Fuses.refl
    | ((with_reducible apply Or.inr); with_reducible rfl)
    | ((with_reducible apply Or.inl); exact h _ (by decide))
    | beta_reduce)

theorem State.adminTake_keeps {P : Part → Bool} {s0 : State} (s : State) (c : AdminCmd) (h : Parts P [.ten])
    (hs : Keeps P s0 s) : KeepsP P s0 (State.adminTake s c) := by
  unfold State.adminTake
  repeat' (first
    | with_reducible assumption
    | ((with_reducible apply Parts.mono h); decide)
    | with_reducible apply State.setFn_keeps
    | with_reducible intro _
    | (extract_lets +onlyGivenNames x0; first
        | ((with_reducible refine (have hx0 : Keeps P s0 x0 := ?_; ?_)); (on_goal 2 => clear_value x0); (on_goal 1 => subst x0))
        | clear_value x0)
    | split
    | with_reducible apply KeepsP.mk
    | with_reducible apply Keeps.upd
    | with_reducible apply Fuses.refl
    | ((with_reducible apply Or.inr); with_reducible rfl)
    | ((with_reducible apply Or.inl); exact h _ (by decide)))

theorem State.admin_keeps {P : Part → Bool} {s0 : State} (s : State) (c : AdminCmd) (code : Nat) (used : List (Nat × Nat)) (body : State → CmdRef → State) (h : Parts P [.ten, .xlt]) (h_body : ∀ a, Keeps P s0 a → ∀ y1, Keeps P s0 (body a y1))
    (hs : Keeps P s0 s) : Keeps P s0 (State.admin s c code used body) := by
  unfold State.admin
  repeat' (first
    | with_reducible assumption
    | ((with_reducible apply Parts.mono h); decide)
    | with_reducible apply h_body
    | with_reducible apply State.adminDone_keeps
    | with_reducible apply State.adminTake_keeps
    | with_reducible intro _
    | (extract_lets +onlyGivenNames x0; first
        | ((with_reducible refine (have hx0 : Keeps P s0 x0 := ?_; ?_)); (on_goal 2 => clear_value x0); (on_goal 1 => subst x0))
        | ((with_reducible refine (have hx0 : KeepsP P s0 x0 := ?_; ?_)); (on_goal 2 => clear_value x0); (on_goal 1 => subst x0))
        | clear_value x0)
    | with_reducible apply Keeps.ite
    | split
    | with_reducible apply KeepsP.mk
    | (with_reducible apply KeepsP.of_eq (by with_reducible assumption))
    | with_reducible apply KeepsP.fst)

theorem State.ringOrder_keeps {P : Part → Bool} {s0 : State} (s : State) (c : AdminCmd) (code : Nat) (busy : Bool) (t : State) (h : Parts P []) (hs_t : Keeps P s0 t)
    (hs : Keeps P s0 s) : Keeps P s0 (State.ringOrder s c code busy t) := by
  unfold State.ringOrder
  repeat' (first
    | with_reducible assumption
    | ((with_reducible apply Parts.mono h); decide)
    | with_reducible intro _
    | with_reducible apply Keeps.ite
    | split)

theorem State.pfOnly_keeps {P : Part → Bool} {s0 : State} (s : State) (c : AdminCmd) (r : CmdRef) (body : State → CmdRef → State) (h : Parts P [.ten, .xlt]) (h_body : ∀ a, Keeps P s0 a → ∀ y1, Keeps P s0 (body a y1))
    (hs : Keeps P s0 s) : Keeps P s0 (State.pfOnly s c r body) := by
  unfold State.pfOnly
  repeat' (first
    | with_reducible assumption
    | ((with_reducible apply Parts.mono h); decide)
    | with_reducible apply h_body
    | with_reducible apply State.adminDone_keeps
    | with_reducible intro _
    | with_reducible apply Keeps.ite
    | split)

end Sys2Proof.Machine
end

