-- ==== Sys2Proof/Laws/CountOps.lean ====
section
/-! SUPPORT. What the operations of Machine/CountOps.lean keep. -/

set_option linter.unusedTactic false
set_option linter.unreachableTactic false
set_option linter.unusedVariables false

namespace Sys2Proof.Machine

open Sys2Proof

theorem State.portCount_keeps {P : Part → Bool} {s0 : State} (s : State) (p : Nat) (k : Nat) (n : Nat) (h : Parts P [.regs])
    (hs : Keeps P s0 s) : Keeps P s0 (State.portCount s p k n) := by
  unfold State.portCount
  repeat' (first
    | with_reducible assumption
    | ((with_reducible apply Parts.mono h); decide)
    | with_reducible apply State.wr_keeps
    | with_reducible intro _
    | split)

end Sys2Proof.Machine
end

