-- ==== Sys2Proof/Laws/PacketOps.lean ====
section
/-! SUPPORT. What the operations of Machine/PacketOps.lean keep. -/

set_option linter.unusedTactic false
set_option linter.unreachableTactic false
set_option linter.unusedVariables false

namespace Sys2Proof.Machine

open Sys2Proof

theorem State.inject_keeps {P : Part → Bool} {s0 : State} (s : State) (p : Packet) (h : Parts P [.rte])
    (hs : Keeps P s0 s) : Keeps P s0 (State.inject s p) := by
  unfold State.inject
  repeat' (first
    | with_reducible assumption
    | ((with_reducible apply Parts.mono h); decide)
    | with_reducible intro _
    | (extract_lets +onlyGivenNames x0; first
        | ((with_reducible refine (have hx0 : Keeps P s0 x0 := ?_; ?_)); (on_goal 2 => clear_value x0); (on_goal 1 => subst x0))
        | clear_value x0)
    | with_reducible apply KeepsO.getD
    | split
    | with_reducible apply Keeps.upd
    | with_reducible apply Fuses.refl
    | ((with_reducible apply Or.inr); with_reducible rfl)
    | ((with_reducible apply Or.inl); exact h _ (by decide)))

theorem State.enter_keeps {P : Part → Bool} {s0 : State} (s : State) (port : Nat) (p : Packet) (h : Parts P [.rte])
    (hs : Keeps P s0 s) : Keeps P s0 (State.enter s port p) := by
  unfold State.enter
  repeat' (first
    | with_reducible assumption
    | ((with_reducible apply Parts.mono h); decide)
    | with_reducible intro _
    | (extract_lets +onlyGivenNames x0; first
        | ((with_reducible refine (have hx0 : Keeps P s0 x0 := ?_; ?_)); (on_goal 2 => clear_value x0); (on_goal 1 => subst x0))
        | clear_value x0)
    | split
    | with_reducible apply Keeps.upd
    | with_reducible apply Fuses.refl
    | ((with_reducible apply Or.inr); with_reducible rfl)
    | ((with_reducible apply Or.inl); exact h _ (by decide)))

theorem State.spanSend_keeps {P : Part → Bool} {s0 : State} (s : State) (k : Nat) (p : Packet) (h : Parts P [.rte])
    (hs : Keeps P s0 s) : Keeps P s0 (State.spanSend s k p) := by
  unfold State.spanSend
  repeat' (first
    | with_reducible assumption
    | ((with_reducible apply Parts.mono h); decide)
    | with_reducible apply State.enter_keeps
    | with_reducible intro _
    | (extract_lets +onlyGivenNames x0; first
        | ((with_reducible refine (have hx0 : Keeps P s0 x0 := ?_; ?_)); (on_goal 2 => clear_value x0); (on_goal 1 => subst x0))
        | clear_value x0)
    | split
    | with_reducible apply Keeps.upd
    | with_reducible apply Fuses.refl
    | ((with_reducible apply Or.inr); with_reducible rfl)
    | ((with_reducible apply Or.inl); exact h _ (by decide)))

theorem State.creditBack_keeps {P : Part → Bool} {s0 : State} (s : State) (p : Nat) (lane : Nat) (n : Nat) (h : Parts P [.rte, .lnk])
    (hs : Keeps P s0 s) : Keeps P s0 (State.creditBack s p lane n) := by
  unfold State.creditBack
  repeat' (first
    | with_reducible assumption
    | ((with_reducible apply Parts.mono h); decide)
    | with_reducible intro _
    | (extract_lets +onlyGivenNames x0; first
        | ((with_reducible refine (have hx0 : Keeps P s0 x0 := ?_; ?_)); (on_goal 2 => clear_value x0); (on_goal 1 => subst x0))
        | clear_value x0)
    | with_reducible apply Keeps.ite
    | with_reducible apply KeepsO.getD
    | split
    | with_reducible apply Keeps.upd
    | with_reducible apply Fuses.refl
    | ((with_reducible apply Or.inr); with_reducible rfl)
    | ((with_reducible apply Or.inl); exact h _ (by decide))
    | beta_reduce)

theorem State.freeGrains_keeps {P : Part → Bool} {s0 : State} (s : State) (b : BPkt) (h : Parts P [.rte, .lnk])
    (hs : Keeps P s0 s) : Keeps P s0 (State.freeGrains s b) := by
  unfold State.freeGrains
  repeat' (first
    | with_reducible assumption
    | ((with_reducible apply Parts.mono h); decide)
    | with_reducible apply State.creditBack_keeps
    | with_reducible intro _
    | (extract_lets +onlyGivenNames x0; first
        | ((with_reducible refine (have hx0 : Keeps P s0 x0 := ?_; ?_)); (on_goal 2 => clear_value x0); (on_goal 1 => subst x0))
        | clear_value x0)
    | with_reducible apply Keeps.ite
    | with_reducible apply KeepsO.getD
    | split
    | with_reducible apply Keeps.upd
    | with_reducible apply Fuses.refl
    | ((with_reducible apply Or.inr); with_reducible rfl)
    | ((with_reducible apply Or.inl); exact h _ (by decide)))

theorem State.takeLocal_keeps {P : Part → Bool} {s0 : State} (s : State) (p : Packet) (h : Parts P [.xlt, .rte, .lnk])
    (hs : Keeps P s0 s) : Keeps P s0 (State.takeLocal s p) := by
  unfold State.takeLocal
  repeat' (first
    | with_reducible assumption
    | ((with_reducible apply Parts.mono h); decide)
    | with_reducible apply State.forget_keeps
    | with_reducible apply State.freeGrains_keeps
    | with_reducible intro _
    | (extract_lets +onlyGivenNames x0; first
        | ((with_reducible refine (have hx0 : Keeps P s0 x0 := ?_; ?_)); (on_goal 2 => clear_value x0); (on_goal 1 => subst x0))
        | clear_value x0)
    | split
    | with_reducible apply Keeps.upd
    | with_reducible apply Fuses.refl
    | ((with_reducible apply Or.inr); with_reducible rfl)
    | ((with_reducible apply Or.inl); exact h _ (by decide))
    | beta_reduce)

end Sys2Proof.Machine
end

