-- ==== Sys2Proof/Laws/SemOps.lean ====
section
/-! SUPPORT. What the operations of Machine/SemOps.lean keep. -/

set_option linter.unusedTactic false
set_option linter.unreachableTactic false
set_option linter.unusedVariables false

namespace Sys2Proof.Machine

open Sys2Proof

theorem State.setCell_keeps {P : Part → Bool} {s0 : State} (s : State) (c : Nat) (w : Word) (h : Parts P [.sem])
    (hs : Keeps P s0 s) : Keeps P s0 (State.setCell s c w) := by
  unfold State.setCell
  repeat' (first
    | with_reducible assumption
    | ((with_reducible apply Parts.mono h); decide)
    | with_reducible intro _
    | (extract_lets +onlyGivenNames x0; first
        | ((with_reducible refine (have hx0 : Keeps P s0 x0 := ?_; ?_)); (on_goal 2 => clear_value x0); (on_goal 1 => subst x0))
        | clear_value x0)
    | with_reducible apply Keeps.ite
    | split
    | with_reducible apply Keeps.upd
    | with_reducible apply Fuses.refl
    | ((with_reducible apply Or.inr); with_reducible rfl)
    | ((with_reducible apply Or.inl); exact h _ (by decide)))

theorem State.semRefuse_keeps {P : Part → Bool} {s0 : State} (s : State) (rid : Nat) (c : Nat) (write : Bool) (force : Bool) (h : Parts P [.regs])
    (hs : Keeps P s0 s) : Keeps P s0 (State.semRefuse s rid c write force) := by
  unfold State.semRefuse
  repeat' (first
    | with_reducible assumption
    | ((with_reducible apply Parts.mono h); decide)
    | with_reducible apply State.bump_keeps
    | with_reducible apply State.capture_keeps
    | with_reducible intro _
    | split)

theorem State.cellClaim_keeps {P : Part → Bool} {s0 : State} (s : State) (rid : Nat) (origin : Nat) (c : Nat) (token : Nat) (h : Parts P [.sem])
    (hs : Keeps P s0 s) : Keeps P s0 (State.cellClaim s rid origin c token) := by
  unfold State.cellClaim
  repeat' (first
    | with_reducible assumption
    | ((with_reducible apply Parts.mono h); decide)
    | with_reducible apply State.setCell_keeps
    | with_reducible intro _
    | with_reducible apply Keeps.ite
    | split)

theorem State.cellRelease_keeps {P : Part → Bool} {s0 : State} (s : State) (rid : Nat) (origin : Nat) (c : Nat) (token : Nat) (h : Parts P [.regs, .sem])
    (hs : Keeps P s0 s) : Keeps P s0 (State.cellRelease s rid origin c token) := by
  unfold State.cellRelease
  repeat' (first
    | with_reducible assumption
    | ((with_reducible apply Parts.mono h); decide)
    | with_reducible apply State.bump_keeps
    | with_reducible apply State.setCell_keeps
    | with_reducible intro _
    | (extract_lets +onlyGivenNames x0; first
        | ((with_reducible refine (have hx0 : Keeps P s0 x0 := ?_; ?_)); (on_goal 2 => clear_value x0); (on_goal 1 => subst x0))
        | clear_value x0)
    | with_reducible apply Keeps.ite
    | split)

theorem State.cellForce_keeps {P : Part → Bool} {s0 : State} (s : State) (rid : Nat) (c : Nat) (h : Parts P [.regs, .sem, .boot, .evr])
    (hs : Keeps P s0 s) : Keeps P s0 (State.cellForce s rid c) := by
  unfold State.cellForce
  repeat' (first
    | with_reducible assumption
    | ((with_reducible apply Parts.mono h); decide)
    | with_reducible apply State.bump_keeps
    | with_reducible apply State.record_keeps
    | with_reducible apply State.setCell_keeps
    | with_reducible intro _
    | (extract_lets +onlyGivenNames x0; first
        | ((with_reducible refine (have hx0 : Keeps P s0 x0 := ?_; ?_)); (on_goal 2 => clear_value x0); (on_goal 1 => subst x0))
        | clear_value x0)
    | with_reducible apply Keeps.ite
    | split)

theorem State.cellCmd_keeps {P : Part → Bool} {s0 : State} (s : State) (rid : Nat) (origin : Nat) (c : Nat) (cmd : Word) (h : Parts P [.regs, .sem, .boot, .evr])
    (hs : Keeps P s0 s) : Keeps P s0 (State.cellCmd s rid origin c cmd) := by
  unfold State.cellCmd
  repeat' (first
    | with_reducible assumption
    | ((with_reducible apply Parts.mono h); decide)
    | with_reducible apply State.cellClaim_keeps
    | with_reducible apply State.cellRelease_keeps
    | with_reducible apply State.cellForce_keeps
    | with_reducible intro _
    | (extract_lets +onlyGivenNames x0; first
        | ((with_reducible refine (have hx0 : Keeps P s0 x0 := ?_; ?_)); (on_goal 2 => clear_value x0); (on_goal 1 => subst x0))
        | clear_value x0)
    | split
    | with_reducible apply Keeps.upd
    | with_reducible apply Fuses.refl
    | ((with_reducible apply Or.inr); with_reducible rfl)
    | ((with_reducible apply Or.inl); exact h _ (by decide)))

theorem State.cellDo_keeps {P : Part → Bool} {s0 : State} (s : State) (rid : Nat) (origin : Nat) (c : Nat) (cmd : Word) (h : Parts P [.regs, .sem, .boot, .evr])
    (hs : Keeps P s0 s) : Keeps P s0 (State.cellDo s rid origin c cmd) := by
  unfold State.cellDo
  repeat' (first
    | with_reducible assumption
    | ((with_reducible apply Parts.mono h); decide)
    | with_reducible apply State.semRefuse_keeps
    | with_reducible apply State.cellCmd_keeps
    | with_reducible intro _
    | with_reducible apply Keeps.ite
    | split)

theorem State.orphan_keeps {P : Part → Bool} {s0 : State} (s : State) (who : Nat) (cause : Nat) (pick : Word → Bool) (h : Parts P [.regs, .sem, .boot, .evr])
    (hs : Keeps P s0 s) : Keeps P s0 (State.orphan s who cause pick) := by
  unfold State.orphan
  repeat' (first
    | with_reducible assumption
    | ((with_reducible apply Parts.mono h); decide)
    | with_reducible apply State.wrF_keeps
    | with_reducible apply State.note_keeps
    | with_reducible intro _
    | (extract_lets +onlyGivenNames x0; first
        | ((with_reducible refine (have hx0 : Keeps P s0 x0 := ?_; ?_)); (on_goal 2 => clear_value x0); (on_goal 1 => subst x0))
        | clear_value x0)
    | with_reducible apply Keeps.ite
    | split
    | with_reducible apply Keeps.upd
    | with_reducible apply Fuses.refl
    | ((with_reducible apply Or.inr); with_reducible rfl)
    | ((with_reducible apply Or.inl); exact h _ (by decide)))

theorem State.noticeSend_keeps {P : Part → Bool} {s0 : State} (s : State) (k : Nat) (n : NoticeReq) (h : Parts P [.rte])
    (hs : Keeps P s0 s) : Keeps P s0 (State.noticeSend s k n) := by
  unfold State.noticeSend
  repeat' (first
    | with_reducible assumption
    | ((with_reducible apply Parts.mono h); decide)
    | with_reducible apply State.spanSend_keeps
    | with_reducible intro _
    | (extract_lets +onlyGivenNames x0; first
        | ((with_reducible refine (have hx0 : Keeps P s0 x0 := ?_; ?_)); (on_goal 2 => clear_value x0); (on_goal 1 => subst x0))
        | clear_value x0)
    | split
    | with_reducible apply Keeps.upd
    | with_reducible apply Fuses.refl
    | ((with_reducible apply Or.inr); with_reducible rfl)
    | ((with_reducible apply Or.inl); exact h _ (by decide)))

theorem State.notice_keeps {P : Part → Bool} {s0 : State} (s : State) (k : Nat) (origin : Nat) (h : Parts P [.rte, .sem])
    (hs : Keeps P s0 s) : Keeps P s0 (State.notice s k origin) := by
  unfold State.notice
  repeat' (first
    | with_reducible assumption
    | ((with_reducible apply Parts.mono h); decide)
    | with_reducible apply State.noticeSend_keeps
    | with_reducible intro _
    | (extract_lets +onlyGivenNames x0; first
        | ((with_reducible refine (have hx0 : Keeps P s0 x0 := ?_; ?_)); (on_goal 2 => clear_value x0); (on_goal 1 => subst x0))
        | clear_value x0)
    | with_reducible apply Keeps.ite
    | with_reducible apply KeepsO.getD
    | split
    | with_reducible apply Keeps.upd
    | with_reducible apply Fuses.refl
    | ((with_reducible apply Or.inr); with_reducible rfl)
    | ((with_reducible apply Or.inl); exact h _ (by decide)))

theorem State.noticeAll_keeps {P : Part → Bool} {s0 : State} (s : State) (origin : Nat) (h : Parts P [.rte, .sem])
    (hs : Keeps P s0 s) : Keeps P s0 (State.noticeAll s origin) := by
  unfold State.noticeAll
  repeat' (first
    | with_reducible assumption
    | ((with_reducible apply Parts.mono h); decide)
    | with_reducible apply State.notice_keeps
    | with_reducible apply foldl_keeps
    | with_reducible apply foldl_keepsP
    | with_reducible intro _
    | with_reducible apply Keeps.ite
    | split
    | with_reducible apply KeepsP.mk
    | (with_reducible apply KeepsP.of_eq (by with_reducible assumption))
    | with_reducible apply KeepsP.fst
    | beta_reduce)

theorem State.orphanId_keeps {P : Part → Bool} {s0 : State} (s : State) (rid : Nat) (cause : Nat) (h : Parts P [.regs, .rte, .sem, .boot, .evr])
    (hs : Keeps P s0 s) : Keeps P s0 (State.orphanId s rid cause) := by
  unfold State.orphanId
  repeat' (first
    | with_reducible assumption
    | ((with_reducible apply Parts.mono h); decide)
    | with_reducible apply State.orphan_keeps
    | with_reducible apply State.noticeAll_keeps
    | with_reducible intro _
    | split
    | beta_reduce)

end Sys2Proof.Machine
end

