-- ==== Sys2Proof/Laws/XltOps.lean ====
section
/-! SUPPORT. What the operations of Machine/XltOps.lean keep. -/

set_option linter.unusedTactic false
set_option linter.unreachableTactic false
set_option linter.unusedVariables false

namespace Sys2Proof.Machine

open Sys2Proof

theorem State.updDom_keeps {P : Part → Bool} {s0 : State} (s : State) (d : Nat) (f : Dom → Dom) (h : Parts P [.pwr])
    (hs : Keeps P s0 s) : Keeps P s0 (State.updDom s d f) := by
  unfold State.updDom
  repeat' (first
    | with_reducible assumption
    | ((with_reducible apply Parts.mono h); decide)
    | with_reducible intro _
    | (extract_lets +onlyGivenNames x0; first
        | ((with_reducible refine (have hx0 : Keeps P s0 x0 := ?_; ?_)); (on_goal 2 => clear_value x0); (on_goal 1 => subst x0))
        | clear_value x0)
    | split
    | with_reducible apply Keeps.upd
    | with_reducible apply Fuses.refl
    | ((with_reducible apply Or.inr); with_reducible rfl)
    | ((with_reducible apply Or.inl); exact h _ (by decide)))

theorem State.wakeOne_keeps {P : Part → Bool} {s0 : State} (s : State) (d : Nat) (h : Parts P [.regs, .pwr])
    (hs : Keeps P s0 s) : Keeps P s0 (State.wakeOne s d) := by
  unfold State.wakeOne
  repeat' (first
    | with_reducible assumption
    | ((with_reducible apply Parts.mono h); decide)
    | with_reducible apply State.wrF_keeps
    | with_reducible apply State.bump_keeps
    | with_reducible apply State.updDom_keeps
    | with_reducible intro _
    | (extract_lets +onlyGivenNames x0; first
        | ((with_reducible refine (have hx0 : Keeps P s0 x0 := ?_; ?_)); (on_goal 2 => clear_value x0); (on_goal 1 => subst x0))
        | clear_value x0)
    | with_reducible apply Keeps.ite
    | split
    | with_reducible apply Keeps.upd
    | with_reducible apply Fuses.refl
    | ((with_reducible apply Or.inr); with_reducible rfl)
    | ((with_reducible apply Or.inl); exact h _ (by decide))
    | beta_reduce)

theorem State.wake_keeps {P : Part → Bool} {s0 : State} (s : State) (d : Nat) (h : Parts P [.regs, .pwr])
    (hs : Keeps P s0 s) : Keeps P s0 (State.wake s d) := by
  unfold State.wake
  repeat' (first
    | with_reducible assumption
    | ((with_reducible apply Parts.mono h); decide)
    | with_reducible apply State.wakeOne_keeps
    | with_reducible intro _
    | (extract_lets +onlyGivenNames x0; first
        | ((with_reducible refine (have hx0 : Keeps P s0 x0 := ?_; ?_)); (on_goal 2 => clear_value x0); (on_goal 1 => subst x0))
        | clear_value x0)
    | with_reducible apply Keeps.ite
    | split)

theorem State.translate_keeps {P : Part → Bool} {s0 : State} (s : State) (asid : Nat) (va : Nat) (n : Nat) (ahead : Nat) (write : Bool) (h : Parts P [.regs, .xlt])
    (hs : Keeps P s0 s) : KeepsP P s0 (State.translate s asid va n ahead write) := by
  unfold State.translate
  repeat' (first
    | with_reducible assumption
    | ((with_reducible apply Parts.mono h); decide)
    | with_reducible apply State.event_keeps
    | with_reducible apply foldl_keeps
    | with_reducible apply foldl_keepsP
    | with_reducible intro _
    | (extract_lets +onlyGivenNames x0; first
        | ((with_reducible refine (have hx0 : Keeps P s0 x0 := ?_; ?_)); (on_goal 2 => clear_value x0); (on_goal 1 => subst x0))
        | ((with_reducible refine (have hx0 : KeepsP P s0 x0 := ?_; ?_)); (on_goal 2 => clear_value x0); (on_goal 1 => subst x0))
        | ((with_reducible have _x0 : _ → _ := x0); clear _x0; subst x0; beta_reduce)
        | clear_value x0)
    | split
    | with_reducible apply KeepsP.mk
    | (with_reducible apply KeepsP.of_eq (by with_reducible assumption))
    | with_reducible apply KeepsP.fst
    | with_reducible apply Keeps.upd
    | with_reducible apply Fuses.refl
    | ((with_reducible apply Or.inr); with_reducible rfl)
    | ((with_reducible apply Or.inl); exact h _ (by decide))
    | beta_reduce)

theorem State.askWalks_keeps {P : Part → Bool} {s0 : State} (s : State) (rs : List WalkReq) (h : Parts P [.regs, .xlt, .pwr])
    (hs : Keeps P s0 s) : Keeps P s0 (State.askWalks s rs) := by
  unfold State.askWalks
  repeat' (first
    | with_reducible assumption
    | ((with_reducible apply Parts.mono h); decide)
    | with_reducible apply State.event_keeps
    | with_reducible apply State.wakeOne_keeps
    | with_reducible apply foldl_keeps
    | with_reducible apply foldl_keepsP
    | with_reducible intro _
    | (extract_lets +onlyGivenNames x0; first
        | ((with_reducible refine (have hx0 : Keeps P s0 x0 := ?_; ?_)); (on_goal 2 => clear_value x0); (on_goal 1 => subst x0))
        | ((with_reducible refine (have hx0 : KeepsP P s0 x0 := ?_; ?_)); (on_goal 2 => clear_value x0); (on_goal 1 => subst x0))
        | clear_value x0)
    | with_reducible apply Keeps.ite
    | split
    | with_reducible apply KeepsP.mk
    | (with_reducible apply KeepsP.of_eq (by with_reducible assumption))
    | with_reducible apply KeepsP.fst
    | with_reducible apply Keeps.upd
    | with_reducible apply Fuses.refl
    | ((with_reducible apply Or.inr); with_reducible rfl)
    | ((with_reducible apply Or.inl); exact h _ (by decide))
    | beta_reduce)

theorem State.settle_keeps {P : Part → Bool} {s0 : State} (s : State) (s' : State) (h : Parts P [.regs, .xlt, .pwr]) (hs_s_ : Keeps P s0 s')
    (hs : Keeps P s0 s) : Keeps P s0 (State.settle s s') := by
  unfold State.settle
  repeat' (first
    | with_reducible assumption
    | ((with_reducible apply Parts.mono h); decide)
    | with_reducible apply State.askWalks_keeps
    | with_reducible intro _
    | (extract_lets +onlyGivenNames x0; first
        | ((with_reducible refine (have hx0 : Keeps P s0 x0 := ?_; ?_)); (on_goal 2 => clear_value x0); (on_goal 1 => subst x0))
        | clear_value x0)
    | with_reducible apply Keeps.ite
    | split
    | with_reducible apply Keeps.upd
    | with_reducible apply Fuses.refl
    | ((with_reducible apply Or.inr); with_reducible rfl)
    | ((with_reducible apply Or.inl); exact h _ (by decide))
    | beta_reduce)

theorem State.asking_keeps {P : Part → Bool} {s0 : State} (s : State) (who : Asker) (step : State → State) (h : Parts P [.regs, .xlt, .pwr]) (h_step : ∀ a, Keeps P s0 a → Keeps P s0 (step a))
    (hs : Keeps P s0 s) : Keeps P s0 (State.asking s who step) := by
  unfold State.asking
  repeat' (first
    | with_reducible assumption
    | ((with_reducible apply Parts.mono h); decide)
    | with_reducible apply h_step
    | with_reducible apply State.settle_keeps
    | with_reducible intro _
    | (extract_lets +onlyGivenNames x0; first
        | ((with_reducible refine (have hx0 : Keeps P s0 x0 := ?_; ?_)); (on_goal 2 => clear_value x0); (on_goal 1 => subst x0))
        | clear_value x0)
    | split
    | with_reducible apply Keeps.upd
    | with_reducible apply Fuses.refl
    | ((with_reducible apply Or.inr); with_reducible rfl)
    | ((with_reducible apply Or.inl); exact h _ (by decide)))

theorem State.hostPut_keeps {P : Part → Bool} {s0 : State} (s : State) (fn : Nat) (ps : List Piece) (ro : Bool) (data : List Byte) (h : Parts P [.out])
    (hs : Keeps P s0 s) : Keeps P s0 (State.hostPut s fn ps ro data) := by
  refine hs.trans ⟨rfl, fun x hx => ?_, id, id, Nat.le_refl _, List.prefix_append _ _, Nat.le_refl _, Fuses.refl _⟩
  cases x <;> first | rfl | (rw [h .out (by simp)] at hx; cases hx)

theorem State.hostGet_keeps {P : Part → Bool} {s0 : State} (s : State) (fn : Nat) (tag : Nat) (ps : List Piece) (h : Parts P [.out, .regs])
    (hs : Keeps P s0 s) : Keeps P s0 (State.hostGet s fn tag ps) := by
  unfold State.hostGet
  repeat' (first
    | with_reducible assumption
    | ((with_reducible apply Parts.mono h); decide)
    | with_reducible apply State.emit_keeps
    | with_reducible apply State.event_keeps
    | with_reducible intro _
    | with_reducible apply Keeps.ite
    | split
    | beta_reduce)

theorem State.issueRead_keeps {P : Part → Bool} {s0 : State} (s : State) (fn : Nat) (for_ : HReqFor) (segs : List (Bool × Nat × Nat)) (ps : List Piece) (atom : Option AtomOp) (h : Parts P [.out, .regs, .tra])
    (hs : Keeps P s0 s) : KeepsP P s0 (State.issueRead s fn for_ segs ps atom) := by
  unfold State.issueRead
  repeat' (first
    | with_reducible assumption
    | ((with_reducible apply Parts.mono h); decide)
    | with_reducible apply State.hostGet_keeps
    | with_reducible intro _
    | (extract_lets +onlyGivenNames x0; first
        | ((with_reducible refine (have hx0 : Keeps P s0 x0 := ?_; ?_)); (on_goal 2 => clear_value x0); (on_goal 1 => subst x0))
        | clear_value x0)
    | with_reducible apply KeepsP.ite
    | with_reducible apply Keeps.ite
    | split
    | with_reducible apply KeepsP.mk
    | with_reducible apply Keeps.upd
    | with_reducible apply Fuses.refl
    | ((with_reducible apply Or.inr); with_reducible rfl)
    | ((with_reducible apply Or.inl); exact h _ (by decide)))

theorem State.readNow_keeps {P : Part → Bool} {s0 : State} (s : State) (fn : Nat) (ps : List Piece) (h : Parts P [.out, .regs, .tra])
    (hs : Keeps P s0 s) : Keeps P s0 (State.readNow s fn ps) := by
  unfold State.readNow
  repeat' (first
    | with_reducible assumption
    | ((with_reducible apply Parts.mono h); decide)
    | with_reducible apply State.hostGet_keeps
    | with_reducible intro _
    | (extract_lets +onlyGivenNames x0; first
        | ((with_reducible refine (have hx0 : Keeps P s0 x0 := ?_; ?_)); (on_goal 2 => clear_value x0); (on_goal 1 => subst x0))
        | clear_value x0)
    | split
    | with_reducible apply Keeps.upd
    | with_reducible apply Fuses.refl
    | ((with_reducible apply Or.inr); with_reducible rfl)
    | ((with_reducible apply Or.inl); exact h _ (by decide)))

theorem State.readRange_keeps {P : Part → Bool} {s0 : State} (s : State) (fn : Nat) (asid : Nat) (va : Nat) (n : Nat) (h : Parts P [.out, .regs, .tra, .xlt])
    (hs : Keeps P s0 s) : KeepsP P s0 (State.readRange s fn asid va n) := by
  unfold State.readRange
  repeat' (first
    | with_reducible assumption
    | ((with_reducible apply Parts.mono h); decide)
    | with_reducible apply State.translate_keeps
    | with_reducible apply State.readNow_keeps
    | with_reducible intro _
    | (extract_lets +onlyGivenNames x0; first
        | ((with_reducible refine (have hx0 : Keeps P s0 x0 := ?_; ?_)); (on_goal 2 => clear_value x0); (on_goal 1 => subst x0))
        | ((with_reducible refine (have hx0 : KeepsP P s0 x0 := ?_; ?_)); (on_goal 2 => clear_value x0); (on_goal 1 => subst x0))
        | clear_value x0)
    | split
    | with_reducible apply KeepsP.mk
    | (with_reducible apply KeepsP.of_eq (by with_reducible assumption))
    | with_reducible apply KeepsP.fst
    | with_reducible apply Keeps.upd
    | with_reducible apply Fuses.refl
    | ((with_reducible apply Or.inr); with_reducible rfl)
    | ((with_reducible apply Or.inl); exact h _ (by decide)))

theorem State.cmdRead_keeps {P : Part → Bool} {s0 : State} (s : State) (r : CmdRef) (asid : Nat) (va : Word) (n : Nat) (body : State → State) (h : Parts P [.out, .regs, .ten, .tra, .xlt]) (h_body : ∀ a, Keeps P s0 a → Keeps P s0 (body a))
    (hs : Keeps P s0 s) : Keeps P s0 (State.cmdRead s r asid va n body) := by
  unfold State.cmdRead
  repeat' (first
    | with_reducible assumption
    | ((with_reducible apply Parts.mono h); decide)
    | with_reducible apply h_body
    | with_reducible apply State.adminDone_keeps
    | with_reducible apply State.readRange_keeps
    | with_reducible intro _
    | (extract_lets +onlyGivenNames x0; first
        | ((with_reducible refine (have hx0 : Keeps P s0 x0 := ?_; ?_)); (on_goal 2 => clear_value x0); (on_goal 1 => subst x0))
        | ((with_reducible refine (have hx0 : KeepsP P s0 x0 := ?_; ?_)); (on_goal 2 => clear_value x0); (on_goal 1 => subst x0))
        | clear_value x0)
    | with_reducible apply Keeps.ite
    | split
    | with_reducible apply KeepsP.mk
    | (with_reducible apply KeepsP.of_eq (by with_reducible assumption))
    | with_reducible apply KeepsP.fst)

theorem State.sgXlate_keeps {P : Part → Bool} {s0 : State} (s : State) (asid : Nat) (write : Bool) (ahead : Nat) (z0 : List Sge) (h : Parts P [.regs, .xlt])
    (hs : Keeps P s0 s) : KeepsP P s0 (State.sgXlate s asid write ahead z0) := by
  induction z0 generalizing s with
  | nil => unfold State.sgXlate; exact hs
  | cons g gs ih =>
    unfold State.sgXlate
    repeat' (first
      | with_reducible assumption
      | ((with_reducible apply Parts.mono h); decide)
      | with_reducible apply ih
      | with_reducible apply State.translate_keeps
      | with_reducible intro _
      | (extract_lets +onlyGivenNames x0; first
          | ((with_reducible refine (have hx0 : Keeps P s0 x0 := ?_; ?_)); (on_goal 2 => clear_value x0); (on_goal 1 => subst x0))
          | ((with_reducible refine (have hx0 : KeepsP P s0 x0 := ?_; ?_)); (on_goal 2 => clear_value x0); (on_goal 1 => subst x0))
          | clear_value x0)
      | with_reducible apply KeepsP.ite
      | with_reducible apply Keeps.ite
      | split
      | with_reducible apply KeepsP.mk
      | (with_reducible apply KeepsP.of_eq (by with_reducible assumption))
      | with_reducible apply KeepsP.fst
      | with_reducible apply Keeps.upd
      | with_reducible apply Fuses.refl
      | ((with_reducible apply Or.inr); with_reducible rfl)
      | ((with_reducible apply Or.inl); exact h _ (by decide))
      | beta_reduce)

theorem State.sgWrite_keeps {P : Part → Bool} {s0 : State} (s : State) (fn : Nat) (segs : List (Bool × Nat × Nat)) (ps : List Piece) (ro : Bool) (data : List Byte) (h : Parts P [.out, .hbm])
    (hs : Keeps P s0 s) : Keeps P s0 (State.sgWrite s fn segs ps ro data) := by
  unfold State.sgWrite
  repeat' (first
    | with_reducible assumption
    | ((with_reducible apply Parts.mono h); decide)
    | with_reducible apply State.hbmWrite_keeps
    | with_reducible apply State.hostPut_keeps
    | with_reducible apply foldl_keeps
    | with_reducible apply foldl_keepsP
    | with_reducible intro _
    | (extract_lets +onlyGivenNames x0; first
        | ((with_reducible refine (have hx0 : Keeps P s0 x0 := ?_; ?_)); (on_goal 2 => clear_value x0); (on_goal 1 => subst x0))
        | ((with_reducible refine (have hx0 : KeepsP P s0 x0 := ?_; ?_)); (on_goal 2 => clear_value x0); (on_goal 1 => subst x0))
        | clear_value x0)
    | with_reducible apply Keeps.ite
    | split
    | with_reducible apply KeepsP.mk
    | (with_reducible apply KeepsP.of_eq (by with_reducible assumption))
    | with_reducible apply KeepsP.fst
    | beta_reduce)

end Sys2Proof.Machine
end

