-- ==== Sys2Proof/Laws/QueueOps.lean ====
section
/-! SUPPORT. What the operations of Machine/QueueOps.lean keep. -/

set_option linter.unusedTactic false
set_option linter.unreachableTactic false
set_option linter.unusedVariables false

namespace Sys2Proof.Machine

open Sys2Proof

theorem State.updEq_keeps {P : Part → Bool} {s0 : State} (s : State) (i : Nat) (f : Eq → Eq) (h : Parts P [.ten])
    (hs : Keeps P s0 s) : Keeps P s0 (State.updEq s i f) := by
  unfold State.updEq
  repeat' (first
    | with_reducible assumption
    | ((with_reducible apply Parts.mono h); decide)
    | with_reducible intro _
    | (extract_lets +onlyGivenNames x0; first
        | ((with_reducible refine (have hx0 : Keeps P s0 x0 := ?_; ?_)); (on_goal 2 => clear_value x0); (on_goal 1 => subst x0))
        | clear_value x0)
    | split
    | with_reducible apply Keeps.upd
    | with_reducible apply Fuses.refl
    | ((with_reducible apply Or.inr); with_reducible rfl)
    | ((with_reducible apply Or.inl); exact h _ (by decide)))

theorem State.eqPut_keeps {P : Part → Bool} {s0 : State} (s : State) (i : Nat) (e : Eq) (v : Event) (h : Parts P [.out, .regs, .ten, .xlt, .pwr])
    (hs : Keeps P s0 s) : KeepsP P s0 (State.eqPut s i e v) := by
  unfold State.eqPut
  repeat' (first
    | with_reducible assumption
    | ((with_reducible apply Parts.mono h); decide)
    | with_reducible apply State.msix_keeps
    | with_reducible apply State.translate_keeps
    | with_reducible apply State.askWalks_keeps
    | with_reducible apply State.hostPut_keeps
    | with_reducible apply State.updEq_keeps
    | with_reducible intro _
    | (extract_lets +onlyGivenNames x0; first
        | ((with_reducible refine (have hx0 : Keeps P s0 x0 := ?_; ?_)); (on_goal 2 => clear_value x0); (on_goal 1 => subst x0))
        | ((with_reducible refine (have hx0 : KeepsP P s0 x0 := ?_; ?_)); (on_goal 2 => clear_value x0); (on_goal 1 => subst x0))
        | ((with_reducible have _x0 : _ → _ := x0); clear _x0; subst x0; beta_reduce)
        | clear_value x0)
    | with_reducible apply KeepsP.ite
    | with_reducible apply Keeps.ite
    | split
    | with_reducible apply KeepsP.mk
    | (with_reducible apply KeepsP.of_eq (by with_reducible assumption))
    | with_reducible apply KeepsP.fst
    | with_reducible apply Keeps.upd
    | with_reducible apply Fuses.refl
    | ((with_reducible apply Or.inr); with_reducible rfl)
    | ((with_reducible apply Or.inl); exact h _ (by decide))
    | beta_reduce)

theorem State.eqLose_keeps {P : Part → Bool} {s0 : State} (s : State) (i : Nat) (h : Parts P [.ten])
    (hs : Keeps P s0 s) : Keeps P s0 (State.eqLose s i) := by
  unfold State.eqLose
  repeat' (first
    | with_reducible assumption
    | ((with_reducible apply Parts.mono h); decide)
    | with_reducible apply State.updEq_keeps
    | with_reducible intro _
    | (extract_lets +onlyGivenNames x0; first
        | ((with_reducible refine (have hx0 : Keeps P s0 x0 := ?_; ?_)); (on_goal 2 => clear_value x0); (on_goal 1 => subst x0))
        | clear_value x0)
    | split
    | with_reducible apply Keeps.upd
    | with_reducible apply Fuses.refl
    | ((with_reducible apply Or.inr); with_reducible rfl)
    | ((with_reducible apply Or.inl); exact h _ (by decide))
    | beta_reduce)

theorem State.eqFlush_keeps {P : Part → Bool} {s0 : State} (s : State) (i : Nat) (z0 : Nat) (h : Parts P [.out, .regs, .ten, .xlt, .pwr])
    (hs : Keeps P s0 s) : Keeps P s0 (State.eqFlush s i z0) := by
  induction z0 generalizing s with
  | zero =>
    unfold State.eqFlush
    repeat' (first
      | with_reducible assumption
      | ((with_reducible apply Parts.mono h); decide)
      | with_reducible apply State.updEq_keeps
      | with_reducible apply State.eqPut_keeps
      | with_reducible apply State.eqLose_keeps
      | with_reducible intro _
      | (extract_lets +onlyGivenNames x0; first
          | ((with_reducible refine (have hx0 : Keeps P s0 x0 := ?_; ?_)); (on_goal 2 => clear_value x0); (on_goal 1 => subst x0))
          | ((with_reducible refine (have hx0 : KeepsP P s0 x0 := ?_; ?_)); (on_goal 2 => clear_value x0); (on_goal 1 => subst x0))
          | clear_value x0)
      | with_reducible apply Keeps.ite
      | split
      | with_reducible apply KeepsP.mk
      | (with_reducible apply KeepsP.of_eq (by with_reducible assumption))
      | with_reducible apply KeepsP.fst
      | with_reducible apply Keeps.upd
      | with_reducible apply Fuses.refl
      | ((with_reducible apply Or.inr); with_reducible rfl)
      | ((with_reducible apply Or.inl); exact h _ (by decide))
      | beta_reduce)
  | succ n ih =>
    unfold State.eqFlush
    repeat' (first
      | with_reducible assumption
      | ((with_reducible apply Parts.mono h); decide)
      | with_reducible apply ih
      | with_reducible apply State.updEq_keeps
      | with_reducible apply State.eqPut_keeps
      | with_reducible apply State.eqLose_keeps
      | with_reducible intro _
      | (extract_lets +onlyGivenNames x0; first
          | ((with_reducible refine (have hx0 : Keeps P s0 x0 := ?_; ?_)); (on_goal 2 => clear_value x0); (on_goal 1 => subst x0))
          | ((with_reducible refine (have hx0 : KeepsP P s0 x0 := ?_; ?_)); (on_goal 2 => clear_value x0); (on_goal 1 => subst x0))
          | clear_value x0)
      | with_reducible apply Keeps.ite
      | split
      | with_reducible apply KeepsP.mk
      | (with_reducible apply KeepsP.of_eq (by with_reducible assumption))
      | with_reducible apply KeepsP.fst
      | with_reducible apply Keeps.upd
      | with_reducible apply Fuses.refl
      | ((with_reducible apply Or.inr); with_reducible rfl)
      | ((with_reducible apply Or.inl); exact h _ (by decide))
      | beta_reduce)

theorem State.eqEvent_keeps {P : Part → Bool} {s0 : State} (s : State) (i : Nat) (v : Event) (h : Parts P [.out, .regs, .ten, .xlt, .pwr])
    (hs : Keeps P s0 s) : Keeps P s0 (State.eqEvent s i v) := by
  unfold State.eqEvent
  repeat' (first
    | with_reducible assumption
    | ((with_reducible apply Parts.mono h); decide)
    | with_reducible apply State.updEq_keeps
    | with_reducible apply State.eqFlush_keeps
    | with_reducible intro _
    | (extract_lets +onlyGivenNames x0; first
        | ((with_reducible refine (have hx0 : Keeps P s0 x0 := ?_; ?_)); (on_goal 2 => clear_value x0); (on_goal 1 => subst x0))
        | clear_value x0)
    | with_reducible apply Keeps.ite
    | split
    | with_reducible apply Keeps.upd
    | with_reducible apply Fuses.refl
    | ((with_reducible apply Or.inr); with_reducible rfl)
    | ((with_reducible apply Or.inl); exact h _ (by decide))
    | beta_reduce)

theorem State.eqFlushAll_keeps {P : Part → Bool} {s0 : State} (s : State) (h : Parts P [.out, .regs, .ten, .xlt, .pwr])
    (hs : Keeps P s0 s) : Keeps P s0 (State.eqFlushAll s) := by
  unfold State.eqFlushAll
  repeat' (first
    | with_reducible assumption
    | ((with_reducible apply Parts.mono h); decide)
    | with_reducible apply State.eqFlush_keeps
    | with_reducible apply foldl_keeps
    | with_reducible apply foldl_keepsP
    | with_reducible intro _
    | with_reducible apply Keeps.ite
    | split
    | with_reducible apply KeepsP.mk
    | (with_reducible apply KeepsP.of_eq (by with_reducible assumption))
    | with_reducible apply KeepsP.fst
    | beta_reduce)

theorem State.updQp_keeps {P : Part → Bool} {s0 : State} (s : State) (i : Nat) (f : Qp → Qp) (h : Parts P [.ten])
    (hs : Keeps P s0 s) : Keeps P s0 (State.updQp s i f) := by
  unfold State.updQp
  repeat' (first
    | with_reducible assumption
    | ((with_reducible apply Parts.mono h); decide)
    | with_reducible intro _
    | (extract_lets +onlyGivenNames x0; first
        | ((with_reducible refine (have hx0 : Keeps P s0 x0 := ?_; ?_)); (on_goal 2 => clear_value x0); (on_goal 1 => subst x0))
        | clear_value x0)
    | split
    | with_reducible apply Keeps.upd
    | with_reducible apply Fuses.refl
    | ((with_reducible apply Or.inr); with_reducible rfl)
    | ((with_reducible apply Or.inl); exact h _ (by decide)))

theorem State.updCq_keeps {P : Part → Bool} {s0 : State} (s : State) (i : Nat) (f : Cq → Cq) (h : Parts P [.ten])
    (hs : Keeps P s0 s) : Keeps P s0 (State.updCq s i f) := by
  unfold State.updCq
  repeat' (first
    | with_reducible assumption
    | ((with_reducible apply Parts.mono h); decide)
    | with_reducible intro _
    | (extract_lets +onlyGivenNames x0; first
        | ((with_reducible refine (have hx0 : Keeps P s0 x0 := ?_; ?_)); (on_goal 2 => clear_value x0); (on_goal 1 => subst x0))
        | clear_value x0)
    | split
    | with_reducible apply Keeps.upd
    | with_reducible apply Fuses.refl
    | ((with_reducible apply Or.inr); with_reducible rfl)
    | ((with_reducible apply Or.inl); exact h _ (by decide)))

theorem State.freeSq_keeps {P : Part → Bool} {s0 : State} (s : State) (f : Option (Nat × Count32)) (h : Parts P [.ten])
    (hs : Keeps P s0 s) : Keeps P s0 (State.freeSq s f) := by
  unfold State.freeSq
  repeat' (first
    | with_reducible assumption
    | ((with_reducible apply Parts.mono h); decide)
    | with_reducible apply State.updQp_keeps
    | with_reducible intro _
    | (extract_lets +onlyGivenNames x0; first
        | ((with_reducible refine (have hx0 : Keeps P s0 x0 := ?_; ?_)); (on_goal 2 => clear_value x0); (on_goal 1 => subst x0))
        | clear_value x0)
    | split
    | with_reducible apply Keeps.upd
    | with_reducible apply Fuses.refl
    | ((with_reducible apply Or.inr); with_reducible rfl)
    | ((with_reducible apply Or.inl); exact h _ (by decide))
    | beta_reduce)

theorem State.cqe_keeps {P : Part → Bool} {s0 : State} (s : State) (cq : Nat) (c : Cqe) (h : Parts P [.ten])
    (hs : Keeps P s0 s) : Keeps P s0 (State.cqe s cq c) := by
  unfold State.cqe
  repeat' (first
    | with_reducible assumption
    | ((with_reducible apply Parts.mono h); decide)
    | with_reducible apply State.updCq_keeps
    | with_reducible intro _
    | (extract_lets +onlyGivenNames x0; first
        | ((with_reducible refine (have hx0 : Keeps P s0 x0 := ?_; ?_)); (on_goal 2 => clear_value x0); (on_goal 1 => subst x0))
        | clear_value x0)
    | with_reducible apply Keeps.ite
    | split
    | with_reducible apply Keeps.upd
    | with_reducible apply Fuses.refl
    | ((with_reducible apply Or.inr); with_reducible rfl)
    | ((with_reducible apply Or.inl); exact h _ (by decide))
    | beta_reduce)

theorem State.cqNotify_keeps {P : Part → Bool} {s0 : State} (s : State) (i : Nat) (h : Parts P [.out, .regs, .ten, .xlt, .pwr])
    (hs : Keeps P s0 s) : Keeps P s0 (State.cqNotify s i) := by
  unfold State.cqNotify
  repeat' (first
    | with_reducible assumption
    | ((with_reducible apply Parts.mono h); decide)
    | with_reducible apply State.eqEvent_keeps
    | with_reducible apply State.updCq_keeps
    | with_reducible intro _
    | (extract_lets +onlyGivenNames x0; first
        | ((with_reducible refine (have hx0 : Keeps P s0 x0 := ?_; ?_)); (on_goal 2 => clear_value x0); (on_goal 1 => subst x0))
        | clear_value x0)
    | split
    | with_reducible apply Keeps.upd
    | with_reducible apply Fuses.refl
    | ((with_reducible apply Or.inr); with_reducible rfl)
    | ((with_reducible apply Or.inl); exact h _ (by decide))
    | beta_reduce)

theorem State.retireOne_keeps {P : Part → Bool} {s0 : State} (s : State) (q : Nat) (v : Qp) (j : Job) (status : Nat) (h : Parts P [.ten])
    (hs : Keeps P s0 s) : Keeps P s0 (State.retireOne s q v j status) := by
  unfold State.retireOne
  repeat' (first
    | with_reducible assumption
    | ((with_reducible apply Parts.mono h); decide)
    | with_reducible apply State.updQp_keeps
    | with_reducible apply State.cqe_keeps
    | with_reducible intro _
    | (extract_lets +onlyGivenNames x0; first
        | ((with_reducible refine (have hx0 : Keeps P s0 x0 := ?_; ?_)); (on_goal 2 => clear_value x0); (on_goal 1 => subst x0))
        | clear_value x0)
    | with_reducible apply Keeps.ite
    | split
    | with_reducible apply Keeps.upd
    | with_reducible apply Fuses.refl
    | ((with_reducible apply Or.inr); with_reducible rfl)
    | ((with_reducible apply Or.inl); exact h _ (by decide))
    | beta_reduce)

theorem State.retire_keeps {P : Part → Bool} {s0 : State} (s : State) (q : Nat) (z0 : Nat) (h : Parts P [.ten])
    (hs : Keeps P s0 s) : Keeps P s0 (State.retire s q z0) := by
  induction z0 generalizing s with
  | zero =>
    unfold State.retire
    repeat' (first
      | with_reducible assumption
      | ((with_reducible apply Parts.mono h); decide)
      | with_reducible apply State.retireOne_keeps
      | with_reducible intro _
      | (extract_lets +onlyGivenNames x0; first
          | ((with_reducible refine (have hx0 : Keeps P s0 x0 := ?_; ?_)); (on_goal 2 => clear_value x0); (on_goal 1 => subst x0))
          | clear_value x0)
      | split
      | with_reducible apply Keeps.upd
      | with_reducible apply Fuses.refl
      | ((with_reducible apply Or.inr); with_reducible rfl)
      | ((with_reducible apply Or.inl); exact h _ (by decide)))
  | succ n ih =>
    unfold State.retire
    repeat' (first
      | with_reducible assumption
      | ((with_reducible apply Parts.mono h); decide)
      | with_reducible apply ih
      | with_reducible apply State.retireOne_keeps
      | with_reducible intro _
      | (extract_lets +onlyGivenNames x0; first
          | ((with_reducible refine (have hx0 : Keeps P s0 x0 := ?_; ?_)); (on_goal 2 => clear_value x0); (on_goal 1 => subst x0))
          | clear_value x0)
      | split
      | with_reducible apply Keeps.upd
      | with_reducible apply Fuses.refl
      | ((with_reducible apply Or.inr); with_reducible rfl)
      | ((with_reducible apply Or.inl); exact h _ (by decide)))

theorem State.retireAll_keeps {P : Part → Bool} {s0 : State} (s : State) (q : Nat) (h : Parts P [.ten])
    (hs : Keeps P s0 s) : Keeps P s0 (State.retireAll s q) := by
  unfold State.retireAll
  repeat' (first
    | with_reducible assumption
    | ((with_reducible apply Parts.mono h); decide)
    | with_reducible apply State.retire_keeps
    | with_reducible intro _
    | (extract_lets +onlyGivenNames x0; first
        | ((with_reducible refine (have hx0 : Keeps P s0 x0 := ?_; ?_)); (on_goal 2 => clear_value x0); (on_goal 1 => subst x0))
        | clear_value x0)
    | split
    | with_reducible apply Keeps.upd
    | with_reducible apply Fuses.refl
    | ((with_reducible apply Or.inr); with_reducible rfl)
    | ((with_reducible apply Or.inl); exact h _ (by decide)))

theorem State.updJob_keeps {P : Part → Bool} {s0 : State} (s : State) (q : Nat) (ring : Count32) (f : Job → Job) (h : Parts P [.ten])
    (hs : Keeps P s0 s) : Keeps P s0 (State.updJob s q ring f) := by
  unfold State.updJob
  repeat' (first
    | with_reducible assumption
    | ((with_reducible apply Parts.mono h); decide)
    | with_reducible apply State.updQp_keeps
    | with_reducible intro _
    | (extract_lets +onlyGivenNames x0; first
        | ((with_reducible refine (have hx0 : Keeps P s0 x0 := ?_; ?_)); (on_goal 2 => clear_value x0); (on_goal 1 => subst x0))
        | clear_value x0)
    | with_reducible apply Keeps.ite
    | split
    | with_reducible apply Keeps.upd
    | with_reducible apply Fuses.refl
    | ((with_reducible apply Or.inr); with_reducible rfl)
    | ((with_reducible apply Or.inl); exact h _ (by decide))
    | beta_reduce)

theorem State.rqDrop_keeps {P : Part → Bool} {s0 : State} (s : State) (q : Nat) (h : Parts P [.ten])
    (hs : Keeps P s0 s) : Keeps P s0 (State.rqDrop s q) := by
  unfold State.rqDrop
  repeat' (first
    | with_reducible assumption
    | ((with_reducible apply Parts.mono h); decide)
    | with_reducible apply State.updQp_keeps
    | with_reducible intro _
    | (extract_lets +onlyGivenNames x0; first
        | ((with_reducible refine (have hx0 : Keeps P s0 x0 := ?_; ?_)); (on_goal 2 => clear_value x0); (on_goal 1 => subst x0))
        | clear_value x0)
    | split
    | with_reducible apply Keeps.upd
    | with_reducible apply Fuses.refl
    | ((with_reducible apply Or.inr); with_reducible rfl)
    | ((with_reducible apply Or.inl); exact h _ (by decide))
    | beta_reduce)

theorem State.rqSkip_keeps {P : Part → Bool} {s0 : State} (s : State) (q : Nat) (z0 : Nat) (h : Parts P [.ten])
    (hs : Keeps P s0 s) : Keeps P s0 (State.rqSkip s q z0) := by
  induction z0 generalizing s with
  | zero =>
    unfold State.rqSkip
    repeat' (first
      | with_reducible assumption
      | ((with_reducible apply Parts.mono h); decide)
      | with_reducible apply State.cqe_keeps
      | with_reducible apply State.rqDrop_keeps
      | with_reducible intro _
      | (extract_lets +onlyGivenNames x0; first
          | ((with_reducible refine (have hx0 : Keeps P s0 x0 := ?_; ?_)); (on_goal 2 => clear_value x0); (on_goal 1 => subst x0))
          | clear_value x0)
      | with_reducible apply Keeps.ite
      | split
      | with_reducible apply Keeps.upd
      | with_reducible apply Fuses.refl
      | ((with_reducible apply Or.inr); with_reducible rfl)
      | ((with_reducible apply Or.inl); exact h _ (by decide))
      | beta_reduce)
  | succ n ih =>
    unfold State.rqSkip
    repeat' (first
      | with_reducible assumption
      | ((with_reducible apply Parts.mono h); decide)
      | with_reducible apply ih
      | with_reducible apply State.cqe_keeps
      | with_reducible apply State.rqDrop_keeps
      | with_reducible intro _
      | (extract_lets +onlyGivenNames x0; first
          | ((with_reducible refine (have hx0 : Keeps P s0 x0 := ?_; ?_)); (on_goal 2 => clear_value x0); (on_goal 1 => subst x0))
          | clear_value x0)
      | with_reducible apply Keeps.ite
      | split
      | with_reducible apply Keeps.upd
      | with_reducible apply Fuses.refl
      | ((with_reducible apply Or.inr); with_reducible rfl)
      | ((with_reducible apply Or.inl); exact h _ (by decide))
      | beta_reduce)

end Sys2Proof.Machine
end

