-- ==== Sys2Proof/Laws/TcsOps.lean ====
section
/-! SUPPORT. What the operations of Machine/TcsOps.lean keep. -/

set_option linter.unusedTactic false
set_option linter.unreachableTactic false
set_option linter.unusedVariables false

namespace Sys2Proof.Machine

open Sys2Proof

theorem State.updX_keeps {P : Part → Bool} {s0 : State} (s : State) (p : Nat) (f : PortX → PortX) (h : Parts P [.lnk])
    (hs : Keeps P s0 s) : Keeps P s0 (State.updX s p f) := by
  unfold State.updX
  repeat' (first
    | with_reducible assumption
    | ((with_reducible apply Parts.mono h); decide)
    | with_reducible intro _
    | (extract_lets +onlyGivenNames x0; first
        | ((with_reducible refine (have hx0 : Keeps P s0 x0 := ?_; ?_)); (on_goal 2 => clear_value x0); (on_goal 1 => subst x0))
        | clear_value x0)
    | split
    | with_reducible apply Keeps.upd
    | with_reducible apply Fuses.refl
    | ((with_reducible apply Or.inr); with_reducible rfl)
    | ((with_reducible apply Or.inl); exact h _ (by decide)))

theorem State.tcsInForce_keeps {P : Part → Bool} {s0 : State} (s : State) (set : Tbl Word) (h : Parts P [.rte, .tcs, .lnk])
    (hs : Keeps P s0 s) : Keeps P s0 (State.tcsInForce s set) := by
  unfold State.tcsInForce
  repeat' (first
    | with_reducible assumption
    | ((with_reducible apply Parts.mono h); decide)
    | with_reducible apply foldl_keeps
    | with_reducible apply foldl_keepsP
    | with_reducible intro _
    | (extract_lets +onlyGivenNames x0; first
        | ((with_reducible refine (have hx0 : Keeps P s0 x0 := ?_; ?_)); (on_goal 2 => clear_value x0); (on_goal 1 => subst x0))
        | ((with_reducible refine (have hx0 : KeepsP P s0 x0 := ?_; ?_)); (on_goal 2 => clear_value x0); (on_goal 1 => subst x0))
        | ((with_reducible have _x0 : _ → _ := x0); clear _x0; subst x0; beta_reduce)
        | clear_value x0)
    | with_reducible apply Keeps.ite
    | with_reducible apply KeepsO.getD
    | split
    | with_reducible apply KeepsP.mk
    | (with_reducible apply KeepsP.of_eq (by with_reducible assumption))
    | with_reducible apply KeepsP.fst
    | with_reducible apply Keeps.upd
    | with_reducible apply Fuses.refl
    | ((with_reducible apply Or.inr); with_reducible rfl)
    | ((with_reducible apply Or.inl); exact h _ (by decide))
    | beta_reduce)

theorem State.tcsReject_keeps {P : Part → Bool} {s0 : State} (s : State) (cause : Nat) (port : Nat) (cls : Nat) (h : Parts P [.regs])
    (hs : Keeps P s0 s) : Keeps P s0 (State.tcsReject s cause port cls) := by
  unfold State.tcsReject
  repeat' (first
    | with_reducible assumption
    | ((with_reducible apply Parts.mono h); decide)
    | with_reducible apply State.wrFs_keeps
    | with_reducible intro _
    | split)

theorem State.qosCommit_keeps {P : Part → Bool} {s0 : State} (s : State) (cause : Nat) (port : Nat) (cls : Nat) (rid : Nat) (boot : Nat) (h : Parts P [.boot, .evr])
    (hs : Keeps P s0 s) : Keeps P s0 (State.qosCommit s cause port cls rid boot) := by
  unfold State.qosCommit
  repeat' (first
    | with_reducible assumption
    | ((with_reducible apply Parts.mono h); decide)
    | with_reducible apply State.note_keeps
    | with_reducible intro _
    | split)

theorem State.tcsBoot_keeps {P : Part → Bool} {s0 : State} (s : State) (z0 : Nat) (h : Parts P [.regs, .rte, .tcs, .lnk, .boot, .evr])
    (hs : Keeps P s0 s) : KeepsP P s0 (State.tcsBoot s z0) := by
  induction z0 generalizing s with
  | zero =>
    unfold State.tcsBoot
    repeat' (first
      | with_reducible assumption
      | ((with_reducible apply Parts.mono h); decide)
      | with_reducible apply State.wrFs_keeps
      | with_reducible apply State.updX_keeps
      | with_reducible apply State.tcsInForce_keeps
      | with_reducible apply State.qosCommit_keeps
      | with_reducible intro _
      | (extract_lets +onlyGivenNames x0; first
          | ((with_reducible refine (have hx0 : Keeps P s0 x0 := ?_; ?_)); (on_goal 2 => clear_value x0); (on_goal 1 => subst x0))
          | ((with_reducible have _x0 : _ → _ := x0); clear _x0; subst x0; beta_reduce)
          | clear_value x0)
      | with_reducible apply KeepsP.ite
      | with_reducible apply Keeps.ite
      | split
      | with_reducible apply KeepsP.mk
      | with_reducible apply Keeps.upd
      | with_reducible apply Fuses.refl
      | ((with_reducible apply Or.inr); with_reducible rfl)
      | ((with_reducible apply Or.inl); exact h _ (by decide))
      | beta_reduce)
  | succ n ih =>
    unfold State.tcsBoot
    repeat' (first
      | with_reducible assumption
      | ((with_reducible apply Parts.mono h); decide)
      | with_reducible apply ih
      | with_reducible apply State.wrFs_keeps
      | with_reducible apply State.updX_keeps
      | with_reducible apply State.tcsInForce_keeps
      | with_reducible apply State.qosCommit_keeps
      | with_reducible intro _
      | (extract_lets +onlyGivenNames x0; first
          | ((with_reducible refine (have hx0 : Keeps P s0 x0 := ?_; ?_)); (on_goal 2 => clear_value x0); (on_goal 1 => subst x0))
          | ((with_reducible have _x0 : _ → _ := x0); clear _x0; subst x0; beta_reduce)
          | clear_value x0)
      | with_reducible apply KeepsP.ite
      | with_reducible apply Keeps.ite
      | split
      | with_reducible apply KeepsP.mk
      | with_reducible apply Keeps.upd
      | with_reducible apply Fuses.refl
      | ((with_reducible apply Or.inr); with_reducible rfl)
      | ((with_reducible apply Or.inl); exact h _ (by decide))
      | beta_reduce)

end Sys2Proof.Machine
end

