-- ==== Sys2Proof/Laws/TimeOps.lean ====
section
/-! SUPPORT. What the operations of Machine/TimeOps.lean keep. -/

set_option linter.unusedTactic false
set_option linter.unreachableTactic false
set_option linter.unusedVariables false

namespace Sys2Proof.Machine

open Sys2Proof

theorem State.tick_keeps {P : Part → Bool} {s0 : State} (s : State) (d : Nat) (h : Parts P [.regs])
    (hs : Keeps P s0 s) : Keeps P s0 (State.tick s d) := by
  unfold State.tick
  repeat' (first
    | with_reducible assumption
    | ((with_reducible apply Parts.mono h); decide)
    | with_reducible apply State.wr_keeps
    | with_reducible apply State.portCount_keeps
    | with_reducible apply foldl_keeps
    | with_reducible apply foldl_keepsP
    | with_reducible intro _
    | (extract_lets +onlyGivenNames x0; first
        | ((with_reducible refine (have hx0 : Keeps P s0 x0 := ?_; ?_)); (on_goal 2 => clear_value x0); (on_goal 1 => subst x0))
        | ((with_reducible refine (have hx0 : KeepsP P s0 x0 := ?_; ?_)); (on_goal 2 => clear_value x0); (on_goal 1 => subst x0))
        | clear_value x0)
    | with_reducible apply Keeps.ite
    | split
    | with_reducible apply KeepsP.mk
    | (with_reducible apply KeepsP.of_eq (by with_reducible assumption))
    | with_reducible apply KeepsP.fst
    | beta_reduce)

theorem State.pass_keeps {P : Part → Bool} {s0 : State} (s : State) (d : Nat) (h : Parts P [.now, .ft, .regs, .lnk, .pwr])
    (hs : Keeps P s0 s) : Keeps P s0 (State.pass s d) := by
  have hs := State.tick_keeps s d (h.mono (by decide)) hs
  unfold State.pass
  refine hs.trans ⟨rfl, fun x hx => ?_, id, id, Nat.le_add_right _ _, List.prefix_refl _, Nat.le_refl _, Fuses.refl _⟩
  cases x <;> first | rfl | (rw [h _ (by simp)] at hx; cases hx)


theorem State.idle_keeps {P : Part → Bool} {s0 : State} (s : State) (h : Parts P [.now, .ft, .regs, .lnk, .pwr])
    (hs : Keeps P s0 s) : Keeps P s0 (State.idle s) := by
  unfold State.idle
  repeat' (first
    | with_reducible assumption
    | ((with_reducible apply Parts.mono h); decide)
    | with_reducible apply State.pass_keeps
    | with_reducible intro _
    | split)

theorem State.passTo_keeps {P : Part → Bool} {s0 : State} (s : State) (t : Nat) (h : Parts P [.now, .ft, .regs, .lnk, .pwr])
    (hs : Keeps P s0 s) : Keeps P s0 (State.passTo s t) := by
  unfold State.passTo
  repeat' (first
    | with_reducible assumption
    | ((with_reducible apply Parts.mono h); decide)
    | with_reducible apply State.pass_keeps
    | with_reducible intro _
    | with_reducible apply Keeps.ite
    | split)

end Sys2Proof.Machine
end

