-- ==== Sys2Proof/Laws/SpaceOps.lean ====
section
/-! SUPPORT. What the operations of Machine/SpaceOps.lean keep. -/

set_option linter.unusedTactic false
set_option linter.unreachableTactic false
set_option linter.unusedVariables false

namespace Sys2Proof.Machine

open Sys2Proof

theorem State.setNp_keeps {P : Part → Bool} {s0 : State} (s : State) (n : Nat) (v : NodePair) (h : Parts P [.tra])
    (hs : Keeps P s0 s) : Keeps P s0 (State.setNp s n v) := by
  unfold State.setNp
  repeat' (first
    | with_reducible assumption
    | ((with_reducible apply Parts.mono h); decide)
    | with_reducible intro _
    | (extract_lets +onlyGivenNames x0; first
        | ((with_reducible refine (have hx0 : Keeps P s0 x0 := ?_; ?_)); (on_goal 2 => clear_value x0); (on_goal 1 => subst x0))
        | clear_value x0)
    | split
    | with_reducible apply Keeps.upd
    | with_reducible apply Fuses.refl
    | ((with_reducible apply Or.inr); with_reducible rfl)
    | ((with_reducible apply Or.inl); exact h _ (by decide)))

theorem State.updSp_keeps {P : Part → Bool} {s0 : State} (s : State) (id : SpaceId) (f : Space → Space) (h : Parts P [.ten, .tra])
    (hs : Keeps P s0 s) : Keeps P s0 (State.updSp s id f) := by
  unfold State.updSp
  repeat' (first
    | with_reducible assumption
    | ((with_reducible apply Parts.mono h); decide)
    | with_reducible apply State.updQp_keeps
    | with_reducible apply State.setNp_keeps
    | with_reducible intro _
    | (extract_lets +onlyGivenNames x0; first
        | ((with_reducible refine (have hx0 : Keeps P s0 x0 := ?_; ?_)); (on_goal 2 => clear_value x0); (on_goal 1 => subst x0))
        | clear_value x0)
    | split
    | with_reducible apply Keeps.upd
    | with_reducible apply Fuses.refl
    | ((with_reducible apply Or.inr); with_reducible rfl)
    | ((with_reducible apply Or.inl); exact h _ (by decide))
    | beta_reduce)

theorem State.tally_keeps {P : Part → Bool} {s0 : State} (s : State) (d : Drop) (h : Parts P [.tra])
    (hs : Keeps P s0 s) : Keeps P s0 (State.tally s d) := by
  unfold State.tally
  repeat' (first
    | with_reducible assumption
    | ((with_reducible apply Parts.mono h); decide)
    | with_reducible intro _
    | (extract_lets +onlyGivenNames x0; first
        | ((with_reducible refine (have hx0 : Keeps P s0 x0 := ?_; ?_)); (on_goal 2 => clear_value x0); (on_goal 1 => subst x0))
        | clear_value x0)
    | with_reducible apply KeepsO.getD
    | split
    | with_reducible apply Keeps.upd
    | with_reducible apply Fuses.refl
    | ((with_reducible apply Or.inr); with_reducible rfl)
    | ((with_reducible apply Or.inl); exact h _ (by decide)))

theorem State.injectFree_keeps {P : Part → Bool} {s0 : State} (s : State) (p : Packet) (h : Parts P [.rte])
    (hs : Keeps P s0 s) : Keeps P s0 (State.injectFree s p) := by
  unfold State.injectFree
  repeat' (first
    | with_reducible assumption
    | ((with_reducible apply Parts.mono h); decide)
    | with_reducible intro _
    | (extract_lets +onlyGivenNames x0; first
        | ((with_reducible refine (have hx0 : Keeps P s0 x0 := ?_; ?_)); (on_goal 2 => clear_value x0); (on_goal 1 => subst x0))
        | clear_value x0)
    | split
    | with_reducible apply Keeps.upd
    | with_reducible apply Fuses.refl
    | ((with_reducible apply Or.inr); with_reducible rfl)
    | ((with_reducible apply Or.inl); exact h _ (by decide)))

theorem State.ack_keeps {P : Part → Bool} {s0 : State} (s : State) (id : SpaceId) (tc : Nat) (pkey : BitVec 16) (h : Parts P [.regs, .ten, .tra, .rte])
    (hs : Keeps P s0 s) : Keeps P s0 (State.ack s id tc pkey) := by
  unfold State.ack
  repeat' (first
    | with_reducible assumption
    | ((with_reducible apply Parts.mono h); decide)
    | with_reducible apply State.event_keeps
    | with_reducible apply State.updSp_keeps
    | with_reducible apply State.injectFree_keeps
    | with_reducible intro _
    | (extract_lets +onlyGivenNames x0; first
        | ((with_reducible refine (have hx0 : Keeps P s0 x0 := ?_; ?_)); (on_goal 2 => clear_value x0); (on_goal 1 => subst x0))
        | clear_value x0)
    | split
    | with_reducible apply Keeps.upd
    | with_reducible apply Fuses.refl
    | ((with_reducible apply Or.inr); with_reducible rfl)
    | ((with_reducible apply Or.inl); exact h _ (by decide))
    | beta_reduce)

theorem State.nak_keeps {P : Part → Bool} {s0 : State} (s : State) (id : SpaceId) (tc : Nat) (pkey : BitVec 16) (psn : Psn) (reason : Nat) (backoff : Nat) (h : Parts P [.regs, .rte])
    (hs : Keeps P s0 s) : Keeps P s0 (State.nak s id tc pkey psn reason backoff) := by
  unfold State.nak
  repeat' (first
    | with_reducible assumption
    | ((with_reducible apply Parts.mono h); decide)
    | with_reducible apply State.event_keeps
    | with_reducible apply State.injectFree_keeps
    | with_reducible intro _
    | (extract_lets +onlyGivenNames x0; first
        | ((with_reducible refine (have hx0 : Keeps P s0 x0 := ?_; ?_)); (on_goal 2 => clear_value x0); (on_goal 1 => subst x0))
        | clear_value x0)
    | split
    | with_reducible apply Keeps.upd
    | with_reducible apply Fuses.refl
    | ((with_reducible apply Or.inr); with_reducible rfl)
    | ((with_reducible apply Or.inl); exact h _ (by decide)))

theorem State.nakStale_keeps {P : Part → Bool} {s0 : State} (s : State) (p : Packet) (h : Parts P [.regs, .rte])
    (hs : Keeps P s0 s) : Keeps P s0 (State.nakStale s p) := by
  unfold State.nakStale
  repeat' (first
    | with_reducible assumption
    | ((with_reducible apply Parts.mono h); decide)
    | with_reducible apply State.event_keeps
    | with_reducible apply State.injectFree_keeps
    | with_reducible intro _
    | (extract_lets +onlyGivenNames x0; first
        | ((with_reducible refine (have hx0 : Keeps P s0 x0 := ?_; ?_)); (on_goal 2 => clear_value x0); (on_goal 1 => subst x0))
        | clear_value x0)
    | split
    | with_reducible apply Keeps.upd
    | with_reducible apply Fuses.refl
    | ((with_reducible apply Or.inr); with_reducible rfl)
    | ((with_reducible apply Or.inl); exact h _ (by decide)))

theorem State.psnTaken_keeps {P : Part → Bool} {s0 : State} (s : State) (id : SpaceId) (psn : Psn) (h : Parts P [.ten, .tra])
    (hs : Keeps P s0 s) : Keeps P s0 (State.psnTaken s id psn) := by
  unfold State.psnTaken
  repeat' (first
    | with_reducible assumption
    | ((with_reducible apply Parts.mono h); decide)
    | with_reducible apply State.updSp_keeps
    | with_reducible intro _
    | (extract_lets +onlyGivenNames x0; first
        | ((with_reducible refine (have hx0 : Keeps P s0 x0 := ?_; ?_)); (on_goal 2 => clear_value x0); (on_goal 1 => subst x0))
        | clear_value x0)
    | with_reducible apply Keeps.ite
    | split
    | with_reducible apply Keeps.upd
    | with_reducible apply Fuses.refl
    | ((with_reducible apply Or.inr); with_reducible rfl)
    | ((with_reducible apply Or.inl); exact h _ (by decide))
    | beta_reduce)

theorem State.accepted_keeps {P : Part → Bool} {s0 : State} (s : State) (id : SpaceId) (k : Packet) (now : Bool) (h : Parts P [.regs, .ten, .tra, .rte])
    (hs : Keeps P s0 s) : Keeps P s0 (State.accepted s id k now) := by
  unfold State.accepted
  repeat' (first
    | with_reducible assumption
    | ((with_reducible apply Parts.mono h); decide)
    | with_reducible apply State.updSp_keeps
    | with_reducible apply State.ack_keeps
    | with_reducible intro _
    | (extract_lets +onlyGivenNames x0; first
        | ((with_reducible refine (have hx0 : Keeps P s0 x0 := ?_; ?_)); (on_goal 2 => clear_value x0); (on_goal 1 => subst x0))
        | clear_value x0)
    | with_reducible apply Keeps.ite
    | with_reducible apply KeepsO.getD
    | split
    | with_reducible apply Keeps.upd
    | with_reducible apply Fuses.refl
    | ((with_reducible apply Or.inr); with_reducible rfl)
    | ((with_reducible apply Or.inl); exact h _ (by decide))
    | beta_reduce)

theorem State.sendNew_keeps {P : Part → Bool} {s0 : State} (s : State) (id : SpaceId) (k : Packet) (owner : Owner) (off : Nat) (busy : Option Nat) (h : Parts P [.regs, .ten, .tra, .rte])
    (hs : Keeps P s0 s) : Keeps P s0 (State.sendNew s id k owner off busy) := by
  unfold State.sendNew
  repeat' (first
    | with_reducible assumption
    | ((with_reducible apply Parts.mono h); decide)
    | with_reducible apply State.event_keeps
    | with_reducible apply State.inject_keeps
    | with_reducible apply State.updSp_keeps
    | with_reducible intro _
    | (extract_lets +onlyGivenNames x0; first
        | ((with_reducible refine (have hx0 : Keeps P s0 x0 := ?_; ?_)); (on_goal 2 => clear_value x0); (on_goal 1 => subst x0))
        | clear_value x0)
    | with_reducible apply Keeps.ite
    | split
    | with_reducible apply Keeps.upd
    | with_reducible apply Fuses.refl
    | ((with_reducible apply Or.inr); with_reducible rfl)
    | ((with_reducible apply Or.inl); exact h _ (by decide))
    | beta_reduce)

theorem State.sendAgain_keeps {P : Part → Bool} {s0 : State} (s : State) (id : SpaceId) (t : Sent) (bs : List Byte) (h : Parts P [.regs, .ten, .tra, .rte])
    (hs : Keeps P s0 s) : Keeps P s0 (State.sendAgain s id t bs) := by
  unfold State.sendAgain
  repeat' (first
    | with_reducible assumption
    | ((with_reducible apply Parts.mono h); decide)
    | with_reducible apply State.event_keeps
    | with_reducible apply State.inject_keeps
    | with_reducible apply State.updSp_keeps
    | with_reducible intro _
    | (extract_lets +onlyGivenNames x0; first
        | ((with_reducible refine (have hx0 : Keeps P s0 x0 := ?_; ?_)); (on_goal 2 => clear_value x0); (on_goal 1 => subst x0))
        | clear_value x0)
    | with_reducible apply Keeps.ite
    | split
    | with_reducible apply Keeps.upd
    | with_reducible apply Fuses.refl
    | ((with_reducible apply Or.inr); with_reducible rfl)
    | ((with_reducible apply Or.inl); exact h _ (by decide))
    | beta_reduce)

theorem State.retransmit_keeps {P : Part → Bool} {s0 : State} (s : State) (id : SpaceId) (pick : Sent → Bool) (h : Parts P [.regs, .ten, .tra, .rte])
    (hs : Keeps P s0 s) : Keeps P s0 (State.retransmit s id pick) := by
  unfold State.retransmit
  repeat' (first
    | with_reducible assumption
    | ((with_reducible apply Parts.mono h); decide)
    | with_reducible apply State.updSp_keeps
    | with_reducible apply State.sendAgain_keeps
    | with_reducible apply foldl_keeps
    | with_reducible apply foldl_keepsP
    | with_reducible intro _
    | (extract_lets +onlyGivenNames x0; first
        | ((with_reducible refine (have hx0 : Keeps P s0 x0 := ?_; ?_)); (on_goal 2 => clear_value x0); (on_goal 1 => subst x0))
        | ((with_reducible refine (have hx0 : KeepsP P s0 x0 := ?_; ?_)); (on_goal 2 => clear_value x0); (on_goal 1 => subst x0))
        | clear_value x0)
    | with_reducible apply Keeps.ite
    | split
    | with_reducible apply KeepsP.mk
    | (with_reducible apply KeepsP.of_eq (by with_reducible assumption))
    | with_reducible apply KeepsP.fst
    | with_reducible apply Keeps.upd
    | with_reducible apply Fuses.refl
    | ((with_reducible apply Or.inr); with_reducible rfl)
    | ((with_reducible apply Or.inl); exact h _ (by decide))
    | beta_reduce)

theorem State.lateNak_keeps {P : Part → Bool} {s0 : State} (s : State) (r : Resp) (reason : Nat) (h : Parts P [.regs, .rte])
    (hs : Keeps P s0 s) : Keeps P s0 (State.lateNak s r reason) := by
  unfold State.lateNak
  repeat' (first
    | with_reducible assumption
    | ((with_reducible apply Parts.mono h); decide)
    | with_reducible apply State.bump_keeps
    | with_reducible apply State.nak_keeps
    | with_reducible intro _
    | with_reducible apply Keeps.ite
    | split)

theorem State.endResps_keeps {P : Part → Bool} {s0 : State} (s : State) (w : Nat) (h : Parts P [.regs, .tra, .rte])
    (hs : Keeps P s0 s) : KeepsP P s0 (State.endResps s w) := by
  unfold State.endResps
  repeat' (first
    | with_reducible assumption
    | ((with_reducible apply Parts.mono h); decide)
    | with_reducible apply State.lateNak_keeps
    | with_reducible apply foldl_keeps
    | with_reducible apply foldl_keepsP
    | with_reducible intro _
    | (extract_lets +onlyGivenNames x0; first
        | ((with_reducible refine (have hx0 : Keeps P s0 x0 := ?_; ?_)); (on_goal 2 => clear_value x0); (on_goal 1 => subst x0))
        | ((with_reducible refine (have hx0 : KeepsP P s0 x0 := ?_; ?_)); (on_goal 2 => clear_value x0); (on_goal 1 => subst x0))
        | clear_value x0)
    | with_reducible apply KeepsP.ite
    | with_reducible apply Keeps.ite
    | split
    | with_reducible apply KeepsP.mk
    | (with_reducible apply KeepsP.of_eq (by with_reducible assumption))
    | with_reducible apply KeepsP.fst
    | with_reducible apply Keeps.upd
    | with_reducible apply Fuses.refl
    | ((with_reducible apply Or.inr); with_reducible rfl)
    | ((with_reducible apply Or.inl); exact h _ (by decide))
    | beta_reduce)

theorem State.closeTransient_keeps {P : Part → Bool} {s0 : State} (s : State) (j : Job) (h : Parts P [.regs, .tra, .wins, .rte])
    (hs : Keeps P s0 s) : Keeps P s0 (State.closeTransient s j) := by
  unfold State.closeTransient
  repeat' (first
    | with_reducible assumption
    | ((with_reducible apply Parts.mono h); decide)
    | with_reducible apply State.endResps_keeps
    | with_reducible intro _
    | (extract_lets +onlyGivenNames x0; first
        | ((with_reducible refine (have hx0 : Keeps P s0 x0 := ?_; ?_)); (on_goal 2 => clear_value x0); (on_goal 1 => subst x0))
        | ((with_reducible refine (have hx0 : KeepsP P s0 x0 := ?_; ?_)); (on_goal 2 => clear_value x0); (on_goal 1 => subst x0))
        | clear_value x0)
    | split
    | with_reducible apply KeepsP.mk
    | (with_reducible apply KeepsP.of_eq (by with_reducible assumption))
    | with_reducible apply KeepsP.fst
    | with_reducible apply Keeps.upd
    | with_reducible apply Fuses.refl
    | ((with_reducible apply Or.inr); with_reducible rfl)
    | ((with_reducible apply Or.inl); exact h _ (by decide))
    | beta_reduce)

theorem State.quietFlows_keeps {P : Part → Bool} {s0 : State} (s : State) (id : SpaceId) (ts : List Sent) (h : Parts P [.tra])
    (hs : Keeps P s0 s) : Keeps P s0 (State.quietFlows s id ts) := by
  unfold State.quietFlows
  repeat' (first
    | with_reducible assumption
    | ((with_reducible apply Parts.mono h); decide)
    | with_reducible apply foldl_keeps
    | with_reducible apply foldl_keepsP
    | with_reducible intro _
    | (extract_lets +onlyGivenNames x0; first
        | ((with_reducible refine (have hx0 : Keeps P s0 x0 := ?_; ?_)); (on_goal 2 => clear_value x0); (on_goal 1 => subst x0))
        | ((with_reducible refine (have hx0 : KeepsP P s0 x0 := ?_; ?_)); (on_goal 2 => clear_value x0); (on_goal 1 => subst x0))
        | clear_value x0)
    | split
    | with_reducible apply KeepsP.mk
    | (with_reducible apply KeepsP.of_eq (by with_reducible assumption))
    | with_reducible apply KeepsP.fst
    | with_reducible apply Keeps.upd
    | with_reducible apply Fuses.refl
    | ((with_reducible apply Or.inr); with_reducible rfl)
    | ((with_reducible apply Or.inl); exact h _ (by decide))
    | beta_reduce)

theorem State.dropResends_keeps {P : Part → Bool} {s0 : State} (s : State) (id : SpaceId) (o : Owner) (h : Parts P [.ten, .tra])
    (hs : Keeps P s0 s) : Keeps P s0 (State.dropResends s id o) := by
  unfold State.dropResends
  repeat' (first
    | with_reducible assumption
    | ((with_reducible apply Parts.mono h); decide)
    | with_reducible apply State.updSp_keeps
    | with_reducible apply State.quietFlows_keeps
    | with_reducible intro _
    | (extract_lets +onlyGivenNames x0; first
        | ((with_reducible refine (have hx0 : Keeps P s0 x0 := ?_; ?_)); (on_goal 2 => clear_value x0); (on_goal 1 => subst x0))
        | clear_value x0)
    | split
    | with_reducible apply Keeps.upd
    | with_reducible apply Fuses.refl
    | ((with_reducible apply Or.inr); with_reducible rfl)
    | ((with_reducible apply Or.inl); exact h _ (by decide))
    | beta_reduce)

theorem State.finish_keeps {P : Part → Bool} {s0 : State} (s : State) (q : Nat) (ring : Count32) (status : Nat) (h : Parts P [.regs, .ten, .tra, .wins, .xlt, .rte])
    (hs : Keeps P s0 s) : Keeps P s0 (State.finish s q ring status) := by
  unfold State.finish
  repeat' (first
    | with_reducible assumption
    | ((with_reducible apply Parts.mono h); decide)
    | with_reducible apply State.forget_keeps
    | with_reducible apply State.updQp_keeps
    | with_reducible apply State.retireAll_keeps
    | with_reducible apply State.updJob_keeps
    | with_reducible apply State.closeTransient_keeps
    | with_reducible apply State.dropResends_keeps
    | with_reducible intro _
    | (extract_lets +onlyGivenNames x0; first
        | ((with_reducible refine (have hx0 : Keeps P s0 x0 := ?_; ?_)); (on_goal 2 => clear_value x0); (on_goal 1 => subst x0))
        | clear_value x0)
    | with_reducible apply Keeps.ite
    | split
    | with_reducible apply Keeps.upd
    | with_reducible apply Fuses.refl
    | ((with_reducible apply Or.inr); with_reducible rfl)
    | ((with_reducible apply Or.inl); exact h _ (by decide))
    | beta_reduce)

theorem State.jobCheck_keeps {P : Part → Bool} {s0 : State} (s : State) (q : Nat) (ring : Count32) (h : Parts P [.regs, .ten, .tra, .wins, .xlt, .rte])
    (hs : Keeps P s0 s) : Keeps P s0 (State.jobCheck s q ring) := by
  unfold State.jobCheck
  repeat' (first
    | with_reducible assumption
    | ((with_reducible apply Parts.mono h); decide)
    | with_reducible apply State.updJob_keeps
    | with_reducible apply State.finish_keeps
    | with_reducible intro _
    | (extract_lets +onlyGivenNames x0; first
        | ((with_reducible refine (have hx0 : Keeps P s0 x0 := ?_; ?_)); (on_goal 2 => clear_value x0); (on_goal 1 => subst x0))
        | clear_value x0)
    | with_reducible apply Keeps.ite
    | split
    | with_reducible apply Keeps.upd
    | with_reducible apply Fuses.refl
    | ((with_reducible apply Or.inr); with_reducible rfl)
    | ((with_reducible apply Or.inl); exact h _ (by decide))
    | beta_reduce)

theorem State.jobsCheck_keeps {P : Part → Bool} {s0 : State} (s : State) (q : Nat) (h : Parts P [.regs, .ten, .tra, .wins, .xlt, .rte])
    (hs : Keeps P s0 s) : Keeps P s0 (State.jobsCheck s q) := by
  unfold State.jobsCheck
  repeat' (first
    | with_reducible assumption
    | ((with_reducible apply Parts.mono h); decide)
    | with_reducible apply State.jobCheck_keeps
    | with_reducible apply foldl_keeps
    | with_reducible apply foldl_keepsP
    | with_reducible intro _
    | (extract_lets +onlyGivenNames x0; first
        | ((with_reducible refine (have hx0 : Keeps P s0 x0 := ?_; ?_)); (on_goal 2 => clear_value x0); (on_goal 1 => subst x0))
        | ((with_reducible refine (have hx0 : KeepsP P s0 x0 := ?_; ?_)); (on_goal 2 => clear_value x0); (on_goal 1 => subst x0))
        | clear_value x0)
    | split
    | with_reducible apply KeepsP.mk
    | (with_reducible apply KeepsP.of_eq (by with_reducible assumption))
    | with_reducible apply KeepsP.fst
    | with_reducible apply Keeps.upd
    | with_reducible apply Fuses.refl
    | ((with_reducible apply Or.inr); with_reducible rfl)
    | ((with_reducible apply Or.inl); exact h _ (by decide))
    | beta_reduce)

theorem State.updFlow_keeps {P : Part → Bool} {s0 : State} (s : State) (q : Nat) (v : Qp) (d : Dest) (f : Flow → Flow) (h : Parts P [.ten, .tra])
    (hs : Keeps P s0 s) : Keeps P s0 (State.updFlow s q v d f) := by
  unfold State.updFlow
  repeat' (first
    | with_reducible assumption
    | ((with_reducible apply Parts.mono h); decide)
    | with_reducible apply State.updQp_keeps
    | with_reducible intro _
    | (extract_lets +onlyGivenNames x0; first
        | ((with_reducible refine (have hx0 : Keeps P s0 x0 := ?_; ?_)); (on_goal 2 => clear_value x0); (on_goal 1 => subst x0))
        | clear_value x0)
    | with_reducible apply Keeps.ite
    | split
    | with_reducible apply Keeps.upd
    | with_reducible apply Fuses.refl
    | ((with_reducible apply Or.inr); with_reducible rfl)
    | ((with_reducible apply Or.inl); exact h _ (by decide))
    | beta_reduce)

theorem State.flowlet_keeps {P : Part → Bool} {s0 : State} (s : State) (q : Nat) (v : Qp) (id : SpaceId) (d : Dest) (h : Parts P [.ten, .tra])
    (hs : Keeps P s0 s) : KeepsP P s0 (State.flowlet s q v id d) := by
  unfold State.flowlet
  repeat' (first
    | with_reducible assumption
    | ((with_reducible apply Parts.mono h); decide)
    | with_reducible apply State.updFlow_keeps
    | with_reducible intro _
    | (extract_lets +onlyGivenNames x0; first
        | ((with_reducible refine (have hx0 : Keeps P s0 x0 := ?_; ?_)); (on_goal 2 => clear_value x0); (on_goal 1 => subst x0))
        | clear_value x0)
    | with_reducible apply KeepsP.ite
    | with_reducible apply Keeps.ite
    | split
    | with_reducible apply KeepsP.mk
    | with_reducible apply Keeps.upd
    | with_reducible apply Fuses.refl
    | ((with_reducible apply Or.inr); with_reducible rfl)
    | ((with_reducible apply Or.inl); exact h _ (by decide))
    | beta_reduce)

theorem State.echo_keeps {P : Part → Bool} {s0 : State} (s : State) (id : SpaceId) (cn : Nat) (news : List Sent) (h : Parts P [.ten, .tra])
    (hs : Keeps P s0 s) : Keeps P s0 (State.echo s id cn news) := by
  unfold State.echo
  repeat' (first
    | with_reducible assumption
    | ((with_reducible apply Parts.mono h); decide)
    | with_reducible apply State.updQp_keeps
    | with_reducible apply State.updSp_keeps
    | with_reducible apply foldl_keeps
    | with_reducible apply foldl_keepsP
    | with_reducible intro _
    | (extract_lets +onlyGivenNames x0; first
        | ((with_reducible refine (have hx0 : Keeps P s0 x0 := ?_; ?_)); (on_goal 2 => clear_value x0); (on_goal 1 => subst x0))
        | ((with_reducible refine (have hx0 : KeepsP P s0 x0 := ?_; ?_)); (on_goal 2 => clear_value x0); (on_goal 1 => subst x0))
        | clear_value x0)
    | with_reducible apply Keeps.ite
    | split
    | with_reducible apply KeepsP.mk
    | (with_reducible apply KeepsP.of_eq (by with_reducible assumption))
    | with_reducible apply KeepsP.fst
    | with_reducible apply Keeps.upd
    | with_reducible apply Fuses.refl
    | ((with_reducible apply Or.inr); with_reducible rfl)
    | ((with_reducible apply Or.inl); exact h _ (by decide))
    | beta_reduce)

theorem State.respCheck_keeps {P : Part → Bool} {s0 : State} (s : State) (id : Nat) (h : Parts P [.regs, .ten, .tra, .wins, .xlt, .rte])
    (hs : Keeps P s0 s) : Keeps P s0 (State.respCheck s id) := by
  unfold State.respCheck
  repeat' (first
    | with_reducible assumption
    | ((with_reducible apply Parts.mono h); decide)
    | with_reducible apply State.forget_keeps
    | with_reducible apply State.jobCheck_keeps
    | with_reducible intro _
    | (extract_lets +onlyGivenNames x0; first
        | ((with_reducible refine (have hx0 : Keeps P s0 x0 := ?_; ?_)); (on_goal 2 => clear_value x0); (on_goal 1 => subst x0))
        | clear_value x0)
    | with_reducible apply Keeps.ite
    | split
    | with_reducible apply Keeps.upd
    | with_reducible apply Fuses.refl
    | ((with_reducible apply Or.inr); with_reducible rfl)
    | ((with_reducible apply Or.inl); exact h _ (by decide))
    | beta_reduce)

theorem State.giveUpResps_keeps {P : Part → Bool} {s0 : State} (s : State) (pick : Nat → Resp → Bool) (h : Parts P [.regs, .ten, .tra, .wins, .xlt, .rte])
    (hs : Keeps P s0 s) : Keeps P s0 (State.giveUpResps s pick) := by
  unfold State.giveUpResps
  repeat' (first
    | with_reducible assumption
    | ((with_reducible apply Parts.mono h); decide)
    | with_reducible apply State.respCheck_keeps
    | with_reducible apply foldl_keeps
    | with_reducible apply foldl_keepsP
    | with_reducible intro _
    | (extract_lets +onlyGivenNames x0; first
        | ((with_reducible refine (have hx0 : Keeps P s0 x0 := ?_; ?_)); (on_goal 2 => clear_value x0); (on_goal 1 => subst x0))
        | ((with_reducible refine (have hx0 : KeepsP P s0 x0 := ?_; ?_)); (on_goal 2 => clear_value x0); (on_goal 1 => subst x0))
        | clear_value x0)
    | with_reducible apply Keeps.ite
    | split
    | with_reducible apply KeepsP.mk
    | (with_reducible apply KeepsP.of_eq (by with_reducible assumption))
    | with_reducible apply KeepsP.fst
    | with_reducible apply Keeps.upd
    | with_reducible apply Fuses.refl
    | ((with_reducible apply Or.inr); with_reducible rfl)
    | ((with_reducible apply Or.inl); exact h _ (by decide))
    | beta_reduce)

theorem State.afterAck_keeps {P : Part → Bool} {s0 : State} (s : State) (news : List Sent) (h : Parts P [.regs, .ten, .tra, .wins, .xlt, .rte])
    (hs : Keeps P s0 s) : Keeps P s0 (State.afterAck s news) := by
  unfold State.afterAck
  repeat' (first
    | with_reducible assumption
    | ((with_reducible apply Parts.mono h); decide)
    | with_reducible apply State.updQp_keeps
    | with_reducible apply State.updJob_keeps
    | with_reducible apply State.jobCheck_keeps
    | with_reducible apply State.respCheck_keeps
    | with_reducible apply foldl_keeps
    | with_reducible apply foldl_keepsP
    | with_reducible intro _
    | (extract_lets +onlyGivenNames x0; first
        | ((with_reducible refine (have hx0 : Keeps P s0 x0 := ?_; ?_)); (on_goal 2 => clear_value x0); (on_goal 1 => subst x0))
        | ((with_reducible refine (have hx0 : KeepsP P s0 x0 := ?_; ?_)); (on_goal 2 => clear_value x0); (on_goal 1 => subst x0))
        | clear_value x0)
    | with_reducible apply Keeps.ite
    | split
    | with_reducible apply KeepsP.mk
    | (with_reducible apply KeepsP.of_eq (by with_reducible assumption))
    | with_reducible apply KeepsP.fst
    | with_reducible apply Keeps.upd
    | with_reducible apply Fuses.refl
    | ((with_reducible apply Or.inr); with_reducible rfl)
    | ((with_reducible apply Or.inl); exact h _ (by decide))
    | beta_reduce)

theorem State.takeAckBut_keeps {P : Part → Bool} {s0 : State} (s : State) (id : SpaceId) (a : Psn) (sack : Word) (cn : Nat) (o : Option Owner) (act : State → State) (h : Parts P [.regs, .ten, .tra, .wins, .xlt, .rte]) (h_act : ∀ a, Keeps P s0 a → Keeps P s0 (act a))
    (hs : Keeps P s0 s) : Keeps P s0 (State.takeAckBut s id a sack cn o act) := by
  unfold State.takeAckBut
  repeat' (first
    | with_reducible assumption
    | ((with_reducible apply Parts.mono h); decide)
    | with_reducible apply h_act
    | with_reducible apply State.updSp_keeps
    | with_reducible apply State.echo_keeps
    | with_reducible apply State.afterAck_keeps
    | with_reducible intro _
    | (extract_lets +onlyGivenNames x0; first
        | ((with_reducible refine (have hx0 : Keeps P s0 x0 := ?_; ?_)); (on_goal 2 => clear_value x0); (on_goal 1 => subst x0))
        | clear_value x0)
    | split
    | with_reducible apply Keeps.upd
    | with_reducible apply Fuses.refl
    | ((with_reducible apply Or.inr); with_reducible rfl)
    | ((with_reducible apply Or.inl); exact h _ (by decide))
    | beta_reduce)

theorem State.takeAck_keeps {P : Part → Bool} {s0 : State} (s : State) (id : SpaceId) (a : Psn) (sack : Word) (cn : Nat) (h : Parts P [.regs, .ten, .tra, .wins, .xlt, .rte])
    (hs : Keeps P s0 s) : Keeps P s0 (State.takeAck s id a sack cn) := by
  unfold State.takeAck
  repeat' (first
    | with_reducible assumption
    | ((with_reducible apply Parts.mono h); decide)
    | with_reducible apply State.takeAckBut_keeps
    | with_reducible intro _
    | split
    | beta_reduce)

end Sys2Proof.Machine
end

