-- ==== Sys2Proof/Laws/MatchOps.lean ====
section
/-! SUPPORT. What the operations of Machine/MatchOps.lean keep. -/

set_option linter.unusedTactic false
set_option linter.unreachableTactic false
set_option linter.unusedVariables false

namespace Sys2Proof.Machine

open Sys2Proof

theorem State.updMctx_keeps {P : Part → Bool} {s0 : State} (s : State) (i : Nat) (f : Mctx → Mctx) (h : Parts P [.mat])
    (hs : Keeps P s0 s) : Keeps P s0 (State.updMctx s i f) := by
  unfold State.updMctx
  repeat' (first
    | with_reducible assumption
    | ((with_reducible apply Parts.mono h); decide)
    | with_reducible intro _
    | (extract_lets +onlyGivenNames x0; first
        | ((with_reducible refine (have hx0 : Keeps P s0 x0 := ?_; ?_)); (on_goal 2 => clear_value x0); (on_goal 1 => subst x0))
        | clear_value x0)
    | split
    | with_reducible apply Keeps.upd
    | with_reducible apply Fuses.refl
    | ((with_reducible apply Or.inr); with_reducible rfl)
    | ((with_reducible apply Or.inl); exact h _ (by decide)))

theorem State.charge_keeps {P : Part → Bool} {s0 : State} (s : State) (m : Msg) (h : Parts P [.out, .regs, .ten, .mat, .xlt, .pwr])
    (hs : Keeps P s0 s) : Keeps P s0 (State.charge s m) := by
  unfold State.charge
  repeat' (first
    | with_reducible assumption
    | ((with_reducible apply Parts.mono h); decide)
    | with_reducible apply State.eqEvent_keeps
    | with_reducible apply State.updQp_keeps
    | with_reducible apply State.updMctx_keeps
    | with_reducible intro _
    | (extract_lets +onlyGivenNames x0; first
        | ((with_reducible refine (have hx0 : Keeps P s0 x0 := ?_; ?_)); (on_goal 2 => clear_value x0); (on_goal 1 => subst x0))
        | clear_value x0)
    | with_reducible apply Keeps.ite
    | split
    | with_reducible apply Keeps.upd
    | with_reducible apply Fuses.refl
    | ((with_reducible apply Or.inr); with_reducible rfl)
    | ((with_reducible apply Or.inl); exact h _ (by decide))
    | beta_reduce)

theorem State.release_keeps {P : Part → Bool} {s0 : State} (s : State) (m : Msg) (h : Parts P [.out, .regs, .ten, .mat, .xlt, .pwr])
    (hs : Keeps P s0 s) : Keeps P s0 (State.release s m) := by
  unfold State.release
  repeat' (first
    | with_reducible assumption
    | ((with_reducible apply Parts.mono h); decide)
    | with_reducible apply State.updQp_keeps
    | with_reducible apply State.updMctx_keeps
    | with_reducible apply State.charge_keeps
    | with_reducible intro _
    | (extract_lets +onlyGivenNames x0; first
        | ((with_reducible refine (have hx0 : Keeps P s0 x0 := ?_; ?_)); (on_goal 2 => clear_value x0); (on_goal 1 => subst x0))
        | clear_value x0)
    | with_reducible apply Keeps.ite
    | split
    | with_reducible apply Keeps.upd
    | with_reducible apply Fuses.refl
    | ((with_reducible apply Or.inr); with_reducible rfl)
    | ((with_reducible apply Or.inl); exact h _ (by decide))
    | beta_reduce)

theorem State.updMsgs_keeps {P : Part → Bool} {s0 : State} (s : State) (pick : Msg → Bool) (f : Msg → Msg) (h : Parts P [.mat])
    (hs : Keeps P s0 s) : Keeps P s0 (State.updMsgs s pick f) := by
  unfold State.updMsgs
  repeat' (first
    | with_reducible assumption
    | ((with_reducible apply Parts.mono h); decide)
    | with_reducible intro _
    | (extract_lets +onlyGivenNames x0; first
        | ((with_reducible refine (have hx0 : Keeps P s0 x0 := ?_; ?_)); (on_goal 2 => clear_value x0); (on_goal 1 => subst x0))
        | clear_value x0)
    | with_reducible apply Keeps.ite
    | split
    | with_reducible apply Keeps.upd
    | with_reducible apply Fuses.refl
    | ((with_reducible apply Or.inr); with_reducible rfl)
    | ((with_reducible apply Or.inl); exact h _ (by decide))
    | beta_reduce)

theorem State.dropMsgs_keeps {P : Part → Bool} {s0 : State} (s : State) (pick : Msg → Bool) (h : Parts P [.mat])
    (hs : Keeps P s0 s) : Keeps P s0 (State.dropMsgs s pick) := by
  unfold State.dropMsgs
  repeat' (first
    | with_reducible assumption
    | ((with_reducible apply Parts.mono h); decide)
    | with_reducible intro _
    | (extract_lets +onlyGivenNames x0; first
        | ((with_reducible refine (have hx0 : Keeps P s0 x0 := ?_; ?_)); (on_goal 2 => clear_value x0); (on_goal 1 => subst x0))
        | clear_value x0)
    | split
    | with_reducible apply Keeps.upd
    | with_reducible apply Fuses.refl
    | ((with_reducible apply Or.inr); with_reducible rfl)
    | ((with_reducible apply Or.inl); exact h _ (by decide))
    | beta_reduce)

theorem State.addFetch_keeps {P : Part → Bool} {s0 : State} (s : State) (f : Fetch) (h : Parts P [.tra, .mat])
    (hs : Keeps P s0 s) : Keeps P s0 (State.addFetch s f) := by
  unfold State.addFetch
  repeat' (first
    | with_reducible assumption
    | ((with_reducible apply Parts.mono h); decide)
    | with_reducible intro _
    | (extract_lets +onlyGivenNames x0; first
        | ((with_reducible refine (have hx0 : Keeps P s0 x0 := ?_; ?_)); (on_goal 2 => clear_value x0); (on_goal 1 => subst x0))
        | clear_value x0)
    | split
    | with_reducible apply Keeps.upd
    | with_reducible apply Fuses.refl
    | ((with_reducible apply Or.inr); with_reducible rfl)
    | ((with_reducible apply Or.inl); exact h _ (by decide)))

theorem State.discardMsg_keeps {P : Part → Bool} {s0 : State} (s : State) (m : Msg) (h : Parts P [.out, .regs, .ten, .tra, .mat, .xlt, .pwr])
    (hs : Keeps P s0 s) : Keeps P s0 (State.discardMsg s m) := by
  unfold State.discardMsg
  repeat' (first
    | with_reducible assumption
    | ((with_reducible apply Parts.mono h); decide)
    | with_reducible apply State.tally_keeps
    | with_reducible apply State.release_keeps
    | with_reducible apply State.addFetch_keeps
    | with_reducible intro _
    | (extract_lets +onlyGivenNames x0; first
        | ((with_reducible refine (have hx0 : Keeps P s0 x0 := ?_; ?_)); (on_goal 2 => clear_value x0); (on_goal 1 => subst x0))
        | clear_value x0)
    | with_reducible apply Keeps.ite
    | split)

theorem State.discardMsgs_keeps {P : Part → Bool} {s0 : State} (s : State) (pick : Msg → Bool) (h : Parts P [.out, .regs, .ten, .tra, .mat, .xlt, .pwr])
    (hs : Keeps P s0 s) : Keeps P s0 (State.discardMsgs s pick) := by
  unfold State.discardMsgs
  repeat' (first
    | with_reducible assumption
    | ((with_reducible apply Parts.mono h); decide)
    | with_reducible apply State.dropMsgs_keeps
    | with_reducible apply State.discardMsg_keeps
    | with_reducible apply foldl_keeps
    | with_reducible apply foldl_keepsP
    | with_reducible intro _
    | split
    | with_reducible apply KeepsP.mk
    | (with_reducible apply KeepsP.of_eq (by with_reducible assumption))
    | with_reducible apply KeepsP.fst
    | beta_reduce)

theorem State.setGate_keeps {P : Part → Bool} {s0 : State} (s : State) (node : Bool) (srcNode : Nat) (srcQp : Nat) (dstQp : Nat) (g : Gate) (h : Parts P [.ten, .tra])
    (hs : Keeps P s0 s) : Keeps P s0 (State.setGate s node srcNode srcQp dstQp g) := by
  unfold State.setGate
  repeat' (first
    | with_reducible assumption
    | ((with_reducible apply Parts.mono h); decide)
    | with_reducible apply State.updQp_keeps
    | with_reducible intro _
    | (extract_lets +onlyGivenNames x0; first
        | ((with_reducible refine (have hx0 : Keeps P s0 x0 := ?_; ?_)); (on_goal 2 => clear_value x0); (on_goal 1 => subst x0))
        | clear_value x0)
    | with_reducible apply Keeps.ite
    | split
    | with_reducible apply Keeps.upd
    | with_reducible apply Fuses.refl
    | ((with_reducible apply Or.inr); with_reducible rfl)
    | ((with_reducible apply Or.inl); exact h _ (by decide))
    | beta_reduce)

theorem State.ungate_keeps {P : Part → Bool} {s0 : State} (s : State) (pick : Msg → Bool) (h : Parts P [.ten, .tra])
    (hs : Keeps P s0 s) : Keeps P s0 (State.ungate s pick) := by
  unfold State.ungate
  repeat' (first
    | with_reducible assumption
    | ((with_reducible apply Parts.mono h); decide)
    | with_reducible apply State.setGate_keeps
    | with_reducible apply foldl_keeps
    | with_reducible apply foldl_keepsP
    | with_reducible intro _
    | (extract_lets +onlyGivenNames x0; first
        | ((with_reducible refine (have hx0 : Keeps P s0 x0 := ?_; ?_)); (on_goal 2 => clear_value x0); (on_goal 1 => subst x0))
        | ((with_reducible refine (have hx0 : KeepsP P s0 x0 := ?_; ?_)); (on_goal 2 => clear_value x0); (on_goal 1 => subst x0))
        | clear_value x0)
    | split
    | with_reducible apply KeepsP.mk
    | (with_reducible apply KeepsP.of_eq (by with_reducible assumption))
    | with_reducible apply KeepsP.fst
    | with_reducible apply Keeps.upd
    | with_reducible apply Fuses.refl
    | ((with_reducible apply Or.inr); with_reducible rfl)
    | ((with_reducible apply Or.inl); exact h _ (by decide))
    | beta_reduce)

theorem State.gateDiscard_keeps {P : Part → Bool} {s0 : State} (s : State) (pick : Msg → Bool) (h : Parts P [.out, .regs, .ten, .tra, .mat, .xlt, .pwr])
    (hs : Keeps P s0 s) : Keeps P s0 (State.gateDiscard s pick) := by
  unfold State.gateDiscard
  repeat' (first
    | with_reducible assumption
    | ((with_reducible apply Parts.mono h); decide)
    | with_reducible apply State.eqEvent_keeps
    | with_reducible apply State.discardMsgs_keeps
    | with_reducible apply State.ungate_keeps
    | with_reducible apply foldl_keeps
    | with_reducible apply foldl_keepsP
    | with_reducible intro _
    | (extract_lets +onlyGivenNames x0; first
        | ((with_reducible refine (have hx0 : Keeps P s0 x0 := ?_; ?_)); (on_goal 2 => clear_value x0); (on_goal 1 => subst x0))
        | ((with_reducible refine (have hx0 : KeepsP P s0 x0 := ?_; ?_)); (on_goal 2 => clear_value x0); (on_goal 1 => subst x0))
        | clear_value x0)
    | split
    | with_reducible apply KeepsP.mk
    | (with_reducible apply KeepsP.of_eq (by with_reducible assumption))
    | with_reducible apply KeepsP.fst
    | with_reducible apply Keeps.upd
    | with_reducible apply Fuses.refl
    | ((with_reducible apply Or.inr); with_reducible rfl)
    | ((with_reducible apply Or.inl); exact h _ (by decide))
    | beta_reduce)

theorem State.flushPosted_keeps {P : Part → Bool} {s0 : State} (s : State) (i : Nat) (c : Mctx) (h : Parts P [.ten, .mat])
    (hs : Keeps P s0 s) : Keeps P s0 (State.flushPosted s i c) := by
  unfold State.flushPosted
  repeat' (first
    | with_reducible assumption
    | ((with_reducible apply Parts.mono h); decide)
    | with_reducible apply State.cqe_keeps
    | with_reducible apply State.updMctx_keeps
    | with_reducible apply foldl_keeps
    | with_reducible apply foldl_keepsP
    | with_reducible intro _
    | (extract_lets +onlyGivenNames x0; first
        | ((with_reducible refine (have hx0 : Keeps P s0 x0 := ?_; ?_)); (on_goal 2 => clear_value x0); (on_goal 1 => subst x0))
        | ((with_reducible refine (have hx0 : KeepsP P s0 x0 := ?_; ?_)); (on_goal 2 => clear_value x0); (on_goal 1 => subst x0))
        | clear_value x0)
    | split
    | with_reducible apply KeepsP.mk
    | (with_reducible apply KeepsP.of_eq (by with_reducible assumption))
    | with_reducible apply KeepsP.fst
    | with_reducible apply Keeps.upd
    | with_reducible apply Fuses.refl
    | ((with_reducible apply Or.inr); with_reducible rfl)
    | ((with_reducible apply Or.inl); exact h _ (by decide))
    | beta_reduce)

theorem State.mctxError_keeps {P : Part → Bool} {s0 : State} (s : State) (i : Nat) (cause : Nat) (h : Parts P [.out, .regs, .ten, .tra, .mat, .xlt, .pwr])
    (hs : Keeps P s0 s) : Keeps P s0 (State.mctxError s i cause) := by
  unfold State.mctxError
  repeat' (first
    | with_reducible assumption
    | ((with_reducible apply Parts.mono h); decide)
    | with_reducible apply State.eqEvent_keeps
    | with_reducible apply State.updMctx_keeps
    | with_reducible apply State.discardMsgs_keeps
    | with_reducible apply State.flushPosted_keeps
    | with_reducible intro _
    | (extract_lets +onlyGivenNames x0; first
        | ((with_reducible refine (have hx0 : Keeps P s0 x0 := ?_; ?_)); (on_goal 2 => clear_value x0); (on_goal 1 => subst x0))
        | clear_value x0)
    | with_reducible apply Keeps.ite
    | split
    | with_reducible apply Keeps.upd
    | with_reducible apply Fuses.refl
    | ((with_reducible apply Or.inr); with_reducible rfl)
    | ((with_reducible apply Or.inl); exact h _ (by decide))
    | beta_reduce)

theorem State.mctxErrors_keeps {P : Part → Bool} {s0 : State} (s : State) (cause : Nat) (pick : Mctx → Bool) (h : Parts P [.out, .regs, .ten, .tra, .mat, .xlt, .pwr])
    (hs : Keeps P s0 s) : Keeps P s0 (State.mctxErrors s cause pick) := by
  unfold State.mctxErrors
  repeat' (first
    | with_reducible assumption
    | ((with_reducible apply Parts.mono h); decide)
    | with_reducible apply State.mctxError_keeps
    | with_reducible apply foldl_keeps
    | with_reducible apply foldl_keepsP
    | with_reducible intro _
    | with_reducible apply Keeps.ite
    | split
    | with_reducible apply KeepsP.mk
    | (with_reducible apply KeepsP.of_eq (by with_reducible assumption))
    | with_reducible apply KeepsP.fst
    | beta_reduce)

end Sys2Proof.Machine
end

