-- ==== Sys2Proof/Laws/FailOps.lean ====
section
/-! SUPPORT. What the operations of Machine/FailOps.lean keep. -/

set_option linter.unusedTactic false
set_option linter.unreachableTactic false
set_option linter.unusedVariables false

namespace Sys2Proof.Machine

open Sys2Proof

theorem State.updGrp_keeps {P : Part → Bool} {s0 : State} (s : State) (g : Nat) (f : Group → Group) (h : Parts P [.grps])
    (hs : Keeps P s0 s) : Keeps P s0 (State.updGrp s g f) := by
  unfold State.updGrp
  repeat' (first
    | with_reducible assumption
    | ((with_reducible apply Parts.mono h); decide)
    | with_reducible intro _
    | (extract_lets +onlyGivenNames x0; first
        | ((with_reducible refine (have hx0 : Keeps P s0 x0 := ?_; ?_)); (on_goal 2 => clear_value x0); (on_goal 1 => subst x0))
        | clear_value x0)
    | split
    | with_reducible apply Keeps.upd
    | with_reducible apply Fuses.refl
    | ((with_reducible apply Or.inr); with_reducible rfl)
    | ((with_reducible apply Or.inl); exact h _ (by decide)))

theorem State.collSend_keeps {P : Part → Bool} {s0 : State} (s : State) (g : Nat) (v : Group) (e : Edge) (type : Nat) (len : Nat) (w4 : Word) (w5 : Word) (w6 : Word) (off : Nat) (payload : List Byte) (h : Parts P [.grps, .rte])
    (hs : Keeps P s0 s) : Keeps P s0 (State.collSend s g v e type len w4 w5 w6 off payload) := by
  unfold State.collSend
  repeat' (first
    | with_reducible assumption
    | ((with_reducible apply Parts.mono h); decide)
    | with_reducible apply State.enter_keeps
    | with_reducible apply State.updGrp_keeps
    | with_reducible intro _
    | (extract_lets +onlyGivenNames x0; first
        | ((with_reducible refine (have hx0 : Keeps P s0 x0 := ?_; ?_)); (on_goal 2 => clear_value x0); (on_goal 1 => subst x0))
        | clear_value x0)
    | with_reducible apply Keeps.ite
    | split
    | with_reducible apply Keeps.upd
    | with_reducible apply Fuses.refl
    | ((with_reducible apply Or.inr); with_reducible rfl)
    | ((with_reducible apply Or.inl); exact h _ (by decide))
    | beta_reduce)

theorem State.groupMark_keeps {P : Part → Bool} {s0 : State} (s : State) (g : Nat) (c : GrpCause) (h : Parts P [.out, .regs, .ten, .grps, .xlt, .rte, .pwr])
    (hs : Keeps P s0 s) : Keeps P s0 (State.groupMark s g c) := by
  unfold State.groupMark
  repeat' (first
    | with_reducible assumption
    | ((with_reducible apply Parts.mono h); decide)
    | with_reducible apply State.forget_keeps
    | with_reducible apply State.eqEvent_keeps
    | with_reducible apply State.updJob_keeps
    | with_reducible apply State.updGrp_keeps
    | with_reducible apply State.collSend_keeps
    | with_reducible apply foldl_keeps
    | with_reducible apply foldl_keepsP
    | with_reducible intro _
    | (extract_lets +onlyGivenNames x0; first
        | ((with_reducible refine (have hx0 : Keeps P s0 x0 := ?_; ?_)); (on_goal 2 => clear_value x0); (on_goal 1 => subst x0))
        | ((with_reducible refine (have hx0 : KeepsP P s0 x0 := ?_; ?_)); (on_goal 2 => clear_value x0); (on_goal 1 => subst x0))
        | clear_value x0)
    | with_reducible apply Keeps.ite
    | split
    | with_reducible apply KeepsP.mk
    | (with_reducible apply KeepsP.of_eq (by with_reducible assumption))
    | with_reducible apply KeepsP.fst
    | with_reducible apply Keeps.upd
    | with_reducible apply Fuses.refl
    | ((with_reducible apply Or.inr); with_reducible rfl)
    | ((with_reducible apply Or.inl); exact h _ (by decide))
    | beta_reduce)

theorem State.dropTrap_keeps {P : Part → Bool} {s0 : State} (s : State) (q : Nat) (h : Parts P [.xlt])
    (hs : Keeps P s0 s) : Keeps P s0 (State.dropTrap s q) := by
  unfold State.dropTrap
  repeat' (first
    | with_reducible assumption
    | ((with_reducible apply Parts.mono h); decide)
    | with_reducible intro _
    | (extract_lets +onlyGivenNames x0; first
        | ((with_reducible refine (have hx0 : Keeps P s0 x0 := ?_; ?_)); (on_goal 2 => clear_value x0); (on_goal 1 => subst x0))
        | clear_value x0)
    | split
    | with_reducible apply Keeps.upd
    | with_reducible apply Fuses.refl
    | ((with_reducible apply Or.inr); with_reducible rfl)
    | ((with_reducible apply Or.inl); exact h _ (by decide))
    | beta_reduce)

theorem State.answerTrap_keeps {P : Part → Bool} {s0 : State} (s : State) (q : Nat) (h : Parts P [.ten, .xlt])
    (hs : Keeps P s0 s) : Keeps P s0 (State.answerTrap s q) := by
  unfold State.answerTrap
  repeat' (first
    | with_reducible assumption
    | ((with_reducible apply Parts.mono h); decide)
    | with_reducible apply State.adminDone_keeps
    | with_reducible apply foldl_keeps
    | with_reducible apply foldl_keepsP
    | with_reducible intro _
    | split
    | with_reducible apply KeepsP.mk
    | (with_reducible apply KeepsP.of_eq (by with_reducible assumption))
    | with_reducible apply KeepsP.fst
    | beta_reduce)

theorem State.flushRq_keeps {P : Part → Bool} {s0 : State} (s : State) (q : Nat) (first : Nat) (h : Parts P [.ten])
    (hs : Keeps P s0 s) : Keeps P s0 (State.flushRq s q first) := by
  unfold State.flushRq
  repeat' (first
    | with_reducible assumption
    | ((with_reducible apply Parts.mono h); decide)
    | with_reducible apply State.cqe_keeps
    | with_reducible apply State.rqDrop_keeps
    | with_reducible apply foldl_keeps
    | with_reducible apply foldl_keepsP
    | with_reducible intro _
    | (extract_lets +onlyGivenNames x0; first
        | ((with_reducible refine (have hx0 : Keeps P s0 x0 := ?_; ?_)); (on_goal 2 => clear_value x0); (on_goal 1 => subst x0))
        | ((with_reducible refine (have hx0 : KeepsP P s0 x0 := ?_; ?_)); (on_goal 2 => clear_value x0); (on_goal 1 => subst x0))
        | clear_value x0)
    | split
    | with_reducible apply KeepsP.mk
    | (with_reducible apply KeepsP.of_eq (by with_reducible assumption))
    | with_reducible apply KeepsP.fst
    | with_reducible apply Keeps.upd
    | with_reducible apply Fuses.refl
    | ((with_reducible apply Or.inr); with_reducible rfl)
    | ((with_reducible apply Or.inl); exact h _ (by decide))
    | beta_reduce)

theorem State.qpFail_keeps {P : Part → Bool} {s0 : State} (s : State) (q : Nat) (cause : Nat) (ring : Option Count32) (param : Option Nat) (h : Parts P [.out, .free, .regs, .ten, .tra, .mat, .wins, .grps, .xlt, .rte, .pwr])
    (hs : Keeps P s0 s) : Keeps P s0 (State.qpFail s q cause ring param) := by
  unfold State.qpFail
  repeat' (first
    | with_reducible assumption
    | ((with_reducible apply Parts.mono h); decide)
    | with_reducible apply State.freeVal_keeps
    | with_reducible apply State.forget_keeps
    | with_reducible apply State.eqEvent_keeps
    | with_reducible apply State.updQp_keeps
    | with_reducible apply State.retireAll_keeps
    | with_reducible apply State.closeTransient_keeps
    | with_reducible apply State.dropResends_keeps
    | with_reducible apply State.gateDiscard_keeps
    | with_reducible apply State.mctxErrors_keeps
    | with_reducible apply State.groupMark_keeps
    | with_reducible apply State.dropTrap_keeps
    | with_reducible apply State.answerTrap_keeps
    | with_reducible apply State.flushRq_keeps
    | with_reducible apply foldl_keeps
    | with_reducible apply foldl_keepsP
    | with_reducible intro _
    | (extract_lets +onlyGivenNames x0; first
        | ((with_reducible refine (have hx0 : Keeps P s0 x0 := ?_; ?_)); (on_goal 2 => clear_value x0); (on_goal 1 => subst x0))
        | ((with_reducible refine (have hx0 : KeepsP P s0 x0 := ?_; ?_)); (on_goal 2 => clear_value x0); (on_goal 1 => subst x0))
        | ((with_reducible refine (have hx0 : Keeps P s0 x0.2 := ?_; ?_)); (on_goal 2 => clear_value x0); (on_goal 1 => subst x0))
        | clear_value x0)
    | with_reducible apply Keeps.ite
    | split
    | with_reducible apply KeepsP.mk
    | (with_reducible apply KeepsP.of_eq (by with_reducible assumption))
    | with_reducible apply KeepsP.fst
    | with_reducible apply Keeps.upd
    | with_reducible apply Fuses.refl
    | ((with_reducible apply Or.inr); with_reducible rfl)
    | ((with_reducible apply Or.inl); exact h _ (by decide))
    | beta_reduce)

theorem State.jobFail_keeps {P : Part → Bool} {s0 : State} (s : State) (q : Nat) (ring : Count32) (cause : Nat) (h : Parts P [.out, .free, .regs, .ten, .tra, .mat, .wins, .grps, .xlt, .rte, .pwr])
    (hs : Keeps P s0 s) : Keeps P s0 (State.jobFail s q ring cause) := by
  unfold State.jobFail
  repeat' (first
    | with_reducible assumption
    | ((with_reducible apply Parts.mono h); decide)
    | with_reducible apply State.qpFail_keeps
    | with_reducible intro _
    | (extract_lets +onlyGivenNames x0; first
        | ((with_reducible refine (have hx0 : Keeps P s0 x0 := ?_; ?_)); (on_goal 2 => clear_value x0); (on_goal 1 => subst x0))
        | clear_value x0)
    | with_reducible apply Keeps.ite
    | split
    | with_reducible apply Keeps.upd
    | with_reducible apply Fuses.refl
    | ((with_reducible apply Or.inr); with_reducible rfl)
    | ((with_reducible apply Or.inl); exact h _ (by decide)))

theorem State.jobsFail_keeps {P : Part → Bool} {s0 : State} (s : State) (jobs : List (Nat × Count32)) (cause : Nat) (h : Parts P [.out, .free, .regs, .ten, .tra, .mat, .wins, .grps, .xlt, .rte, .pwr])
    (hs : Keeps P s0 s) : Keeps P s0 (State.jobsFail s jobs cause) := by
  unfold State.jobsFail
  repeat' (first
    | with_reducible assumption
    | ((with_reducible apply Parts.mono h); decide)
    | with_reducible apply State.updQp_keeps
    | with_reducible apply State.qpFail_keeps
    | with_reducible apply foldl_keeps
    | with_reducible apply foldl_keepsP
    | with_reducible intro _
    | (extract_lets +onlyGivenNames x0; first
        | ((with_reducible refine (have hx0 : Keeps P s0 x0 := ?_; ?_)); (on_goal 2 => clear_value x0); (on_goal 1 => subst x0))
        | ((with_reducible refine (have hx0 : KeepsP P s0 x0 := ?_; ?_)); (on_goal 2 => clear_value x0); (on_goal 1 => subst x0))
        | ((with_reducible have _x0 : _ → _ := x0); clear _x0; subst x0; beta_reduce)
        | clear_value x0)
    | with_reducible apply Keeps.ite
    | split
    | with_reducible apply KeepsP.mk
    | (with_reducible apply KeepsP.of_eq (by with_reducible assumption))
    | with_reducible apply KeepsP.fst
    | with_reducible apply Keeps.upd
    | with_reducible apply Fuses.refl
    | ((with_reducible apply Or.inr); with_reducible rfl)
    | ((with_reducible apply Or.inl); exact h _ (by decide))
    | beta_reduce)

theorem State.groupError_keeps {P : Part → Bool} {s0 : State} (s : State) (g : Nat) (c : GrpCause) (h : Parts P [.out, .free, .regs, .ten, .tra, .mat, .wins, .grps, .xlt, .rte, .pwr])
    (hs : Keeps P s0 s) : Keeps P s0 (State.groupError s g c) := by
  unfold State.groupError
  repeat' (first
    | with_reducible assumption
    | ((with_reducible apply Parts.mono h); decide)
    | with_reducible apply State.groupMark_keeps
    | with_reducible apply State.qpFail_keeps
    | with_reducible intro _
    | (extract_lets +onlyGivenNames x0; first
        | ((with_reducible refine (have hx0 : Keeps P s0 x0 := ?_; ?_)); (on_goal 2 => clear_value x0); (on_goal 1 => subst x0))
        | clear_value x0)
    | with_reducible apply Keeps.ite
    | with_reducible apply KeepsO.getD
    | split
    | with_reducible apply Keeps.upd
    | with_reducible apply Fuses.refl
    | ((with_reducible apply Or.inr); with_reducible rfl)
    | ((with_reducible apply Or.inl); exact h _ (by decide))
    | beta_reduce)

theorem State.groupPortDown_keeps {P : Part → Bool} {s0 : State} (s : State) (p : Nat) (h : Parts P [.out, .free, .regs, .ten, .tra, .mat, .wins, .grps, .xlt, .rte, .pwr])
    (hs : Keeps P s0 s) : Keeps P s0 (State.groupPortDown s p) := by
  unfold State.groupPortDown
  repeat' (first
    | with_reducible assumption
    | ((with_reducible apply Parts.mono h); decide)
    | with_reducible apply State.groupError_keeps
    | with_reducible apply foldl_keeps
    | with_reducible apply foldl_keepsP
    | with_reducible intro _
    | with_reducible apply Keeps.ite
    | split
    | with_reducible apply KeepsP.mk
    | (with_reducible apply KeepsP.of_eq (by with_reducible assumption))
    | with_reducible apply KeepsP.fst
    | beta_reduce)

theorem State.cqError_keeps {P : Part → Bool} {s0 : State} (s : State) (i : Nat) (h : Parts P [.out, .free, .regs, .ten, .tra, .mat, .wins, .grps, .xlt, .rte, .pwr])
    (hs : Keeps P s0 s) : Keeps P s0 (State.cqError s i) := by
  unfold State.cqError
  repeat' (first
    | with_reducible assumption
    | ((with_reducible apply Parts.mono h); decide)
    | with_reducible apply State.forget_keeps
    | with_reducible apply State.eqEvent_keeps
    | with_reducible apply State.updCq_keeps
    | with_reducible apply State.mctxErrors_keeps
    | with_reducible apply State.qpFail_keeps
    | with_reducible apply foldl_keeps
    | with_reducible apply foldl_keepsP
    | with_reducible intro _
    | (extract_lets +onlyGivenNames x0; first
        | ((with_reducible refine (have hx0 : Keeps P s0 x0 := ?_; ?_)); (on_goal 2 => clear_value x0); (on_goal 1 => subst x0))
        | ((with_reducible refine (have hx0 : KeepsP P s0 x0 := ?_; ?_)); (on_goal 2 => clear_value x0); (on_goal 1 => subst x0))
        | clear_value x0)
    | with_reducible apply Keeps.ite
    | split
    | with_reducible apply KeepsP.mk
    | (with_reducible apply KeepsP.of_eq (by with_reducible assumption))
    | with_reducible apply KeepsP.fst
    | with_reducible apply Keeps.upd
    | with_reducible apply Fuses.refl
    | ((with_reducible apply Or.inr); with_reducible rfl)
    | ((with_reducible apply Or.inl); exact h _ (by decide))
    | beta_reduce)

theorem State.mctxDestroy_keeps {P : Part → Bool} {s0 : State} (s : State) (i : Nat) (h : Parts P [.out, .regs, .ten, .tra, .mat, .xlt, .pwr])
    (hs : Keeps P s0 s) : Keeps P s0 (State.mctxDestroy s i) := by
  unfold State.mctxDestroy
  repeat' (first
    | with_reducible assumption
    | ((with_reducible apply Parts.mono h); decide)
    | with_reducible apply State.cqe_keeps
    | with_reducible apply State.updMctx_keeps
    | with_reducible apply State.dropMsgs_keeps
    | with_reducible apply State.discardMsgs_keeps
    | with_reducible apply State.ungate_keeps
    | with_reducible apply State.flushPosted_keeps
    | with_reducible apply foldl_keeps
    | with_reducible apply foldl_keepsP
    | with_reducible intro _
    | (extract_lets +onlyGivenNames x0; first
        | ((with_reducible refine (have hx0 : Keeps P s0 x0 := ?_; ?_)); (on_goal 2 => clear_value x0); (on_goal 1 => subst x0))
        | ((with_reducible refine (have hx0 : KeepsP P s0 x0 := ?_; ?_)); (on_goal 2 => clear_value x0); (on_goal 1 => subst x0))
        | ((with_reducible have _x0 : _ → _ := x0); clear _x0; subst x0; beta_reduce)
        | clear_value x0)
    | with_reducible apply Keeps.ite
    | split
    | with_reducible apply KeepsP.mk
    | (with_reducible apply KeepsP.of_eq (by with_reducible assumption))
    | with_reducible apply KeepsP.fst
    | with_reducible apply Keeps.upd
    | with_reducible apply Fuses.refl
    | ((with_reducible apply Or.inr); with_reducible rfl)
    | ((with_reducible apply Or.inl); exact h _ (by decide))
    | beta_reduce)

theorem State.dropPlacing_keeps {P : Part → Bool} {s0 : State} (s : State) (q : Nat) (v : Qp) (h : Parts P [.ten, .mat])
    (hs : Keeps P s0 s) : Keeps P s0 (State.dropPlacing s q v) := by
  unfold State.dropPlacing
  repeat' (first
    | with_reducible assumption
    | ((with_reducible apply Parts.mono h); decide)
    | with_reducible apply State.cqe_keeps
    | with_reducible apply State.dropMsgs_keeps
    | with_reducible apply foldl_keeps
    | with_reducible apply foldl_keepsP
    | with_reducible intro _
    | (extract_lets +onlyGivenNames x0; first
        | ((with_reducible refine (have hx0 : Keeps P s0 x0 := ?_; ?_)); (on_goal 2 => clear_value x0); (on_goal 1 => subst x0))
        | ((with_reducible refine (have hx0 : KeepsP P s0 x0 := ?_; ?_)); (on_goal 2 => clear_value x0); (on_goal 1 => subst x0))
        | ((with_reducible have _x0 : _ → _ := x0); clear _x0; subst x0; beta_reduce)
        | clear_value x0)
    | with_reducible apply Keeps.ite
    | split
    | with_reducible apply KeepsP.mk
    | (with_reducible apply KeepsP.of_eq (by with_reducible assumption))
    | with_reducible apply KeepsP.fst
    | with_reducible apply Keeps.upd
    | with_reducible apply Fuses.refl
    | ((with_reducible apply Or.inr); with_reducible rfl)
    | ((with_reducible apply Or.inl); exact h _ (by decide))
    | beta_reduce)

theorem State.freeSlot_keeps {P : Part → Bool} {s0 : State} (s : State) (f : Nat) (slot : Nat) (h : Parts P [.ten])
    (hs : Keeps P s0 s) : Keeps P s0 (State.freeSlot s f slot) := by
  unfold State.freeSlot
  repeat' (first
    | with_reducible assumption
    | ((with_reducible apply Parts.mono h); decide)
    | with_reducible apply State.setFn_keeps
    | with_reducible intro _
    | (extract_lets +onlyGivenNames x0; first
        | ((with_reducible refine (have hx0 : Keeps P s0 x0 := ?_; ?_)); (on_goal 2 => clear_value x0); (on_goal 1 => subst x0))
        | clear_value x0)
    | split
    | with_reducible apply Keeps.upd
    | with_reducible apply Fuses.refl
    | ((with_reducible apply Or.inr); with_reducible rfl)
    | ((with_reducible apply Or.inl); exact h _ (by decide)))

theorem State.qpQuarantine_keeps {P : Part → Bool} {s0 : State} (s : State) (q : Nat) (h : Parts P [.out, .regs, .ten, .tra, .mat, .xlt, .pwr])
    (hs : Keeps P s0 s) : Keeps P s0 (State.qpQuarantine s q) := by
  unfold State.qpQuarantine
  repeat' (first
    | with_reducible assumption
    | ((with_reducible apply Parts.mono h); decide)
    | with_reducible apply State.forget_keeps
    | with_reducible apply State.updQp_keeps
    | with_reducible apply State.dropTrap_keeps
    | with_reducible apply State.mctxDestroy_keeps
    | with_reducible apply State.dropPlacing_keeps
    | with_reducible apply State.freeSlot_keeps
    | with_reducible apply foldl_keeps
    | with_reducible apply foldl_keepsP
    | with_reducible intro _
    | (extract_lets +onlyGivenNames x0; first
        | ((with_reducible refine (have hx0 : Keeps P s0 x0 := ?_; ?_)); (on_goal 2 => clear_value x0); (on_goal 1 => subst x0))
        | ((with_reducible refine (have hx0 : KeepsP P s0 x0 := ?_; ?_)); (on_goal 2 => clear_value x0); (on_goal 1 => subst x0))
        | clear_value x0)
    | with_reducible apply Keeps.ite
    | split
    | with_reducible apply KeepsP.mk
    | (with_reducible apply KeepsP.of_eq (by with_reducible assumption))
    | with_reducible apply KeepsP.fst
    | with_reducible apply Keeps.upd
    | with_reducible apply Fuses.refl
    | ((with_reducible apply Or.inr); with_reducible rfl)
    | ((with_reducible apply Or.inl); exact h _ (by decide))
    | beta_reduce)

theorem State.qpReap_keeps {P : Part → Bool} {s0 : State} (s : State) (q : Nat) (h : Parts P [.out, .regs, .ten, .tra, .mat, .xlt, .pwr])
    (hs : Keeps P s0 s) : Keeps P s0 (State.qpReap s q) := by
  unfold State.qpReap
  repeat' (first
    | with_reducible assumption
    | ((with_reducible apply Parts.mono h); decide)
    | with_reducible apply State.adminDone_keeps
    | with_reducible apply State.qpQuarantine_keeps
    | with_reducible intro _
    | (extract_lets +onlyGivenNames x0; first
        | ((with_reducible refine (have hx0 : Keeps P s0 x0 := ?_; ?_)); (on_goal 2 => clear_value x0); (on_goal 1 => subst x0))
        | clear_value x0)
    | with_reducible apply Keeps.ite
    | split
    | with_reducible apply Keeps.upd
    | with_reducible apply Fuses.refl
    | ((with_reducible apply Or.inr); with_reducible rfl)
    | ((with_reducible apply Or.inl); exact h _ (by decide)))

theorem State.reapAll_keeps {P : Part → Bool} {s0 : State} (s : State) (h : Parts P [.out, .regs, .ten, .tra, .mat, .xlt, .pwr])
    (hs : Keeps P s0 s) : Keeps P s0 (State.reapAll s) := by
  unfold State.reapAll
  repeat' (first
    | with_reducible assumption
    | ((with_reducible apply Parts.mono h); decide)
    | with_reducible apply State.qpReap_keeps
    | with_reducible apply foldl_keeps
    | with_reducible apply foldl_keepsP
    | with_reducible intro _
    | with_reducible apply Keeps.ite
    | split
    | with_reducible apply KeepsP.mk
    | (with_reducible apply KeepsP.of_eq (by with_reducible assumption))
    | with_reducible apply KeepsP.fst
    | beta_reduce)

end Sys2Proof.Machine
end

