-- ==== Sys2Proof/Laws/DeliverOps.lean ====
section
/-! SUPPORT. What the operations of Machine/DeliverOps.lean keep. -/

set_option linter.unusedTactic false
set_option linter.unreachableTactic false
set_option linter.unusedVariables false

namespace Sys2Proof.Machine

open Sys2Proof

theorem State.placeAt_keeps {P : Part → Bool} {s0 : State} (s : State) (asid : Nat) (q : Nat) (sges : List Sge) (off : Nat) (bs : List Byte) (h : Parts P [.out, .regs, .hbm, .xlt])
    (hs : Keeps P s0 s) : KeepsP P s0 (State.placeAt s asid q sges off bs) := by
  unfold State.placeAt
  repeat' (first
    | with_reducible assumption
    | ((with_reducible apply Parts.mono h); decide)
    | with_reducible apply State.sgXlate_keeps
    | with_reducible apply State.sgWrite_keeps
    | with_reducible intro _
    | (extract_lets +onlyGivenNames x0; first
        | ((with_reducible refine (have hx0 : Keeps P s0 x0 := ?_; ?_)); (on_goal 2 => clear_value x0); (on_goal 1 => subst x0))
        | ((with_reducible refine (have hx0 : KeepsP P s0 x0 := ?_; ?_)); (on_goal 2 => clear_value x0); (on_goal 1 => subst x0))
        | clear_value x0)
    | split
    | with_reducible apply KeepsP.mk
    | (with_reducible apply KeepsP.of_eq (by with_reducible assumption))
    | with_reducible apply KeepsP.fst
    | with_reducible apply Keeps.upd
    | with_reducible apply Fuses.refl
    | ((with_reducible apply Or.inr); with_reducible rfl)
    | ((with_reducible apply Or.inl); exact h _ (by decide)))

theorem State.placeAll_keeps {P : Part → Bool} {s0 : State} (s : State) (b : Buffer) (z0 : List (Nat × List Byte)) (h : Parts P [.out, .regs, .hbm, .xlt])
    (hs : Keeps P s0 s) : KeepsP P s0 (State.placeAll s b z0) := by
  induction z0 generalizing s with
  | nil => unfold State.placeAll; exact hs
  | cons g gs ih =>
    unfold State.placeAll
    repeat' (first
      | with_reducible assumption
      | ((with_reducible apply Parts.mono h); decide)
      | with_reducible apply ih
      | with_reducible apply State.placeAt_keeps
      | with_reducible intro _
      | (extract_lets +onlyGivenNames x0; first
          | ((with_reducible refine (have hx0 : Keeps P s0 x0 := ?_; ?_)); (on_goal 2 => clear_value x0); (on_goal 1 => subst x0))
          | ((with_reducible refine (have hx0 : KeepsP P s0 x0 := ?_; ?_)); (on_goal 2 => clear_value x0); (on_goal 1 => subst x0))
          | clear_value x0)
      | split
      | with_reducible apply KeepsP.mk
      | (with_reducible apply KeepsP.of_eq (by with_reducible assumption))
      | with_reducible apply KeepsP.fst
      | with_reducible apply Keeps.upd
      | with_reducible apply Fuses.refl
      | ((with_reducible apply Or.inr); with_reducible rfl)
      | ((with_reducible apply Or.inl); exact h _ (by decide)))

theorem State.recvDone_keeps {P : Part → Bool} {s0 : State} (s : State) (m : Msg) (rcv : RecvTo) (bytes : Nat) (status : Nat) (h : Parts P [.ten])
    (hs : Keeps P s0 s) : Keeps P s0 (State.recvDone s m rcv bytes status) := by
  unfold State.recvDone
  repeat' (first
    | with_reducible assumption
    | ((with_reducible apply Parts.mono h); decide)
    | with_reducible apply State.cqe_keeps
    | with_reducible intro _
    | split)

theorem State.fetchCheck_keeps {P : Part → Bool} {s0 : State} (s : State) (id : Nat) (h : Parts P [.ten, .mat])
    (hs : Keeps P s0 s) : Keeps P s0 (State.fetchCheck s id) := by
  unfold State.fetchCheck
  repeat' (first
    | with_reducible assumption
    | ((with_reducible apply Parts.mono h); decide)
    | with_reducible apply State.cqe_keeps
    | with_reducible intro _
    | (extract_lets +onlyGivenNames x0; first
        | ((with_reducible refine (have hx0 : Keeps P s0 x0 := ?_; ?_)); (on_goal 2 => clear_value x0); (on_goal 1 => subst x0))
        | clear_value x0)
    | with_reducible apply Keeps.ite
    | split
    | with_reducible apply Keeps.upd
    | with_reducible apply Fuses.refl
    | ((with_reducible apply Or.inr); with_reducible rfl)
    | ((with_reducible apply Or.inl); exact h _ (by decide)))

theorem State.fetchFail_keeps {P : Part → Bool} {s0 : State} (s : State) (id : Nat) (status : Nat) (h : Parts P [.ten, .mat])
    (hs : Keeps P s0 s) : Keeps P s0 (State.fetchFail s id status) := by
  unfold State.fetchFail
  repeat' (first
    | with_reducible assumption
    | ((with_reducible apply Parts.mono h); decide)
    | with_reducible apply State.cqe_keeps
    | with_reducible intro _
    | (extract_lets +onlyGivenNames x0; first
        | ((with_reducible refine (have hx0 : Keeps P s0 x0 := ?_; ?_)); (on_goal 2 => clear_value x0); (on_goal 1 => subst x0))
        | clear_value x0)
    | with_reducible apply Keeps.ite
    | split
    | with_reducible apply Keeps.upd
    | with_reducible apply Fuses.refl
    | ((with_reducible apply Or.inr); with_reducible rfl)
    | ((with_reducible apply Or.inl); exact h _ (by decide)))

theorem State.deliver_keeps {P : Part → Bool} {s0 : State} (s : State) (m : Msg) (b : Buffer) (rcv : RecvTo) (h : Parts P [.out, .free, .regs, .hbm, .ten, .tra, .mat, .wins, .grps, .xlt, .rte, .pwr])
    (hs : Keeps P s0 s) : KeepsP P s0 (State.deliver s m b rcv) := by
  unfold State.deliver
  repeat' (first
    | with_reducible assumption
    | ((with_reducible apply Parts.mono h); decide)
    | with_reducible apply State.release_keeps
    | with_reducible apply State.addFetch_keeps
    | with_reducible apply State.qpFail_keeps
    | with_reducible apply State.placeAll_keeps
    | with_reducible apply State.recvDone_keeps
    | with_reducible apply State.fetchCheck_keeps
    | with_reducible intro _
    | (extract_lets +onlyGivenNames x0; first
        | ((with_reducible refine (have hx0 : Keeps P s0 x0 := ?_; ?_)); (on_goal 2 => clear_value x0); (on_goal 1 => subst x0))
        | ((with_reducible refine (have hx0 : KeepsP P s0 x0 := ?_; ?_)); (on_goal 2 => clear_value x0); (on_goal 1 => subst x0))
        | clear_value x0)
    | with_reducible apply KeepsP.ite
    | with_reducible apply Keeps.ite
    | split
    | with_reducible apply KeepsP.mk
    | (with_reducible apply KeepsP.of_eq (by with_reducible assumption))
    | with_reducible apply KeepsP.fst
    | with_reducible apply Keeps.upd
    | with_reducible apply Fuses.refl
    | ((with_reducible apply Or.inr); with_reducible rfl)
    | ((with_reducible apply Or.inl); exact h _ (by decide)))

theorem State.rqHead_keeps {P : Part → Bool} {s0 : State} (s : State) (q : Nat) (h : Parts P [.out, .free, .regs, .ten, .tra, .mat, .wins, .grps, .xlt, .rte, .pwr])
    (hs : Keeps P s0 s) : KeepsP P s0 (State.rqHead s q) := by
  unfold State.rqHead
  repeat' (first
    | with_reducible assumption
    | ((with_reducible apply Parts.mono h); decide)
    | with_reducible apply State.rqSkip_keeps
    | with_reducible apply State.qpFail_keeps
    | with_reducible intro _
    | (extract_lets +onlyGivenNames x0; first
        | ((with_reducible refine (have hx0 : Keeps P s0 x0 := ?_; ?_)); (on_goal 2 => clear_value x0); (on_goal 1 => subst x0))
        | clear_value x0)
    | split
    | with_reducible apply KeepsP.mk
    | with_reducible apply Keeps.upd
    | with_reducible apply Fuses.refl
    | ((with_reducible apply Or.inr); with_reducible rfl)
    | ((with_reducible apply Or.inl); exact h _ (by decide))
    | beta_reduce)

theorem State.present_keeps {P : Part → Bool} {s0 : State} (s : State) (m : Msg) (h : Parts P [.out, .free, .regs, .hbm, .ten, .tra, .mat, .wins, .grps, .xlt, .rte, .pwr])
    (hs : Keeps P s0 s) : KeepsP P s0 (State.present s m) := by
  unfold State.present
  repeat' (first
    | with_reducible assumption
    | ((with_reducible apply Parts.mono h); decide)
    | with_reducible apply State.event_keeps
    | with_reducible apply State.rqDrop_keeps
    | with_reducible apply State.updMctx_keeps
    | with_reducible apply State.charge_keeps
    | with_reducible apply State.discardMsg_keeps
    | with_reducible apply State.deliver_keeps
    | with_reducible apply State.rqHead_keeps
    | with_reducible intro _
    | (extract_lets +onlyGivenNames x0; first
        | ((with_reducible refine (have hx0 : Keeps P s0 x0 := ?_; ?_)); (on_goal 2 => clear_value x0); (on_goal 1 => subst x0))
        | ((with_reducible refine (have hx0 : KeepsP P s0 x0 := ?_; ?_)); (on_goal 2 => clear_value x0); (on_goal 1 => subst x0))
        | clear_value x0)
    | with_reducible apply KeepsP.ite
    | with_reducible apply Keeps.ite
    | split
    | with_reducible apply KeepsP.mk
    | (with_reducible apply KeepsP.of_eq (by with_reducible assumption))
    | with_reducible apply KeepsP.fst
    | with_reducible apply Keeps.upd
    | with_reducible apply Fuses.refl
    | ((with_reducible apply Or.inr); with_reducible rfl)
    | ((with_reducible apply Or.inl); exact h _ (by decide))
    | beta_reduce)

theorem State.gateRun_keeps {P : Part → Bool} {s0 : State} (s : State) (node : Bool) (srcNode : Nat) (srcQp : Nat) (dstQp : Nat) (z0 : Nat) (h : Parts P [.out, .free, .regs, .hbm, .ten, .tra, .mat, .wins, .grps, .xlt, .rte, .pwr])
    (hs : Keeps P s0 s) : Keeps P s0 (State.gateRun s node srcNode srcQp dstQp z0) := by
  induction z0 generalizing s with
  | zero =>
    unfold State.gateRun
    repeat' (first
      | with_reducible assumption
      | ((with_reducible apply Parts.mono h); decide)
      | with_reducible apply State.dropMsgs_keeps
      | with_reducible apply State.setGate_keeps
      | with_reducible apply State.rqHead_keeps
      | with_reducible apply State.present_keeps
      | with_reducible intro _
      | (extract_lets +onlyGivenNames x0; first
          | ((with_reducible refine (have hx0 : Keeps P s0 x0 := ?_; ?_)); (on_goal 2 => clear_value x0); (on_goal 1 => subst x0))
          | ((with_reducible refine (have hx0 : KeepsP P s0 x0 := ?_; ?_)); (on_goal 2 => clear_value x0); (on_goal 1 => subst x0))
          | clear_value x0)
      | with_reducible apply Keeps.ite
      | split
      | with_reducible apply KeepsP.mk
      | (with_reducible apply KeepsP.of_eq (by with_reducible assumption))
      | with_reducible apply KeepsP.fst
      | with_reducible apply Keeps.upd
      | with_reducible apply Fuses.refl
      | ((with_reducible apply Or.inr); with_reducible rfl)
      | ((with_reducible apply Or.inl); exact h _ (by decide))
      | beta_reduce)
  | succ n ih =>
    unfold State.gateRun
    repeat' (first
      | with_reducible assumption
      | ((with_reducible apply Parts.mono h); decide)
      | with_reducible apply ih
      | with_reducible apply State.dropMsgs_keeps
      | with_reducible apply State.setGate_keeps
      | with_reducible apply State.rqHead_keeps
      | with_reducible apply State.present_keeps
      | with_reducible intro _
      | (extract_lets +onlyGivenNames x0; first
          | ((with_reducible refine (have hx0 : Keeps P s0 x0 := ?_; ?_)); (on_goal 2 => clear_value x0); (on_goal 1 => subst x0))
          | ((with_reducible refine (have hx0 : KeepsP P s0 x0 := ?_; ?_)); (on_goal 2 => clear_value x0); (on_goal 1 => subst x0))
          | clear_value x0)
      | with_reducible apply Keeps.ite
      | split
      | with_reducible apply KeepsP.mk
      | (with_reducible apply KeepsP.of_eq (by with_reducible assumption))
      | with_reducible apply KeepsP.fst
      | with_reducible apply Keeps.upd
      | with_reducible apply Fuses.refl
      | ((with_reducible apply Or.inr); with_reducible rfl)
      | ((with_reducible apply Or.inl); exact h _ (by decide))
      | beta_reduce)

theorem State.gateLoop_keeps {P : Part → Bool} {s0 : State} (s : State) (node : Bool) (srcNode : Nat) (srcQp : Nat) (dstQp : Nat) (h : Parts P [.out, .free, .regs, .hbm, .ten, .tra, .mat, .wins, .grps, .xlt, .rte, .pwr])
    (hs : Keeps P s0 s) : Keeps P s0 (State.gateLoop s node srcNode srcQp dstQp) := by
  unfold State.gateLoop
  repeat' (first
    | with_reducible assumption
    | ((with_reducible apply Parts.mono h); decide)
    | with_reducible apply State.gateRun_keeps
    | with_reducible intro _
    | (extract_lets +onlyGivenNames x0; first
        | ((with_reducible refine (have hx0 : Keeps P s0 x0 := ?_; ?_)); (on_goal 2 => clear_value x0); (on_goal 1 => subst x0))
        | clear_value x0)
    | split
    | with_reducible apply Keeps.upd
    | with_reducible apply Fuses.refl
    | ((with_reducible apply Or.inr); with_reducible rfl)
    | ((with_reducible apply Or.inl); exact h _ (by decide)))

theorem State.gateLeave_keeps {P : Part → Bool} {s0 : State} (s : State) (node : Bool) (srcNode : Nat) (srcQp : Nat) (dstQp : Nat) (msn : Msn) (h : Parts P [.out, .free, .regs, .hbm, .ten, .tra, .mat, .wins, .grps, .xlt, .rte, .pwr])
    (hs : Keeps P s0 s) : Keeps P s0 (State.gateLeave s node srcNode srcQp dstQp msn) := by
  unfold State.gateLeave
  repeat' (first
    | with_reducible assumption
    | ((with_reducible apply Parts.mono h); decide)
    | with_reducible apply State.setGate_keeps
    | with_reducible apply State.gateLoop_keeps
    | with_reducible intro _
    | (extract_lets +onlyGivenNames x0; first
        | ((with_reducible refine (have hx0 : Keeps P s0 x0 := ?_; ?_)); (on_goal 2 => clear_value x0); (on_goal 1 => subst x0))
        | clear_value x0)
    | with_reducible apply Keeps.ite
    | split
    | with_reducible apply Keeps.upd
    | with_reducible apply Fuses.refl
    | ((with_reducible apply Or.inr); with_reducible rfl)
    | ((with_reducible apply Or.inl); exact h _ (by decide)))

theorem State.rqRelease_keeps {P : Part → Bool} {s0 : State} (s : State) (q : Nat) (h : Parts P [.out, .free, .regs, .hbm, .ten, .tra, .mat, .wins, .grps, .xlt, .rte, .pwr])
    (hs : Keeps P s0 s) : Keeps P s0 (State.rqRelease s q) := by
  unfold State.rqRelease
  repeat' (first
    | with_reducible assumption
    | ((with_reducible apply Parts.mono h); decide)
    | with_reducible apply State.asking_keeps
    | with_reducible apply State.gateLoop_keeps
    | with_reducible apply foldl_keeps
    | with_reducible apply foldl_keepsP
    | with_reducible intro _
    | (extract_lets +onlyGivenNames x0; first
        | ((with_reducible refine (have hx0 : Keeps P s0 x0 := ?_; ?_)); (on_goal 2 => clear_value x0); (on_goal 1 => subst x0))
        | ((with_reducible refine (have hx0 : KeepsP P s0 x0 := ?_; ?_)); (on_goal 2 => clear_value x0); (on_goal 1 => subst x0))
        | clear_value x0)
    | with_reducible apply Keeps.ite
    | split
    | with_reducible apply KeepsP.mk
    | (with_reducible apply KeepsP.of_eq (by with_reducible assumption))
    | with_reducible apply KeepsP.fst
    | with_reducible apply Keeps.upd
    | with_reducible apply Fuses.refl
    | ((with_reducible apply Or.inr); with_reducible rfl)
    | ((with_reducible apply Or.inl); exact h _ (by decide))
    | beta_reduce)

theorem State.admitDirect_keeps {P : Part → Bool} {s0 : State} (s : State) (m : Msg) (h : Parts P [.out, .free, .regs, .ten, .tra, .mat, .wins, .grps, .xlt, .rte, .pwr])
    (hs : Keeps P s0 s) : KeepsP P s0 (State.admitDirect s m) := by
  unfold State.admitDirect
  repeat' (first
    | with_reducible assumption
    | ((with_reducible apply Parts.mono h); decide)
    | with_reducible apply State.rqHead_keeps
    | with_reducible intro _
    | (extract_lets +onlyGivenNames x0; first
        | ((with_reducible refine (have hx0 : Keeps P s0 x0 := ?_; ?_)); (on_goal 2 => clear_value x0); (on_goal 1 => subst x0))
        | ((with_reducible refine (have hx0 : KeepsP P s0 x0 := ?_; ?_)); (on_goal 2 => clear_value x0); (on_goal 1 => subst x0))
        | clear_value x0)
    | with_reducible apply KeepsP.ite
    | with_reducible apply Keeps.ite
    | split
    | with_reducible apply KeepsP.mk
    | (with_reducible apply KeepsP.of_eq (by with_reducible assumption))
    | with_reducible apply KeepsP.fst
    | with_reducible apply Keeps.upd
    | with_reducible apply Fuses.refl
    | ((with_reducible apply Or.inr); with_reducible rfl)
    | ((with_reducible apply Or.inl); exact h _ (by decide))
    | beta_reduce)

theorem State.gateAdmit_keeps {P : Part → Bool} {s0 : State} (s : State) (m : Msg) (h : Parts P [.out, .free, .regs, .hbm, .ten, .tra, .mat, .wins, .grps, .xlt, .rte, .pwr])
    (hs : Keeps P s0 s) : KeepsP P s0 (State.gateAdmit s m) := by
  unfold State.gateAdmit
  repeat' (first
    | with_reducible assumption
    | ((with_reducible apply Parts.mono h); decide)
    | with_reducible apply State.charge_keeps
    | with_reducible apply State.setGate_keeps
    | with_reducible apply State.present_keeps
    | with_reducible apply State.gateLoop_keeps
    | with_reducible apply State.admitDirect_keeps
    | with_reducible intro _
    | (extract_lets +onlyGivenNames x0; first
        | ((with_reducible refine (have hx0 : Keeps P s0 x0 := ?_; ?_)); (on_goal 2 => clear_value x0); (on_goal 1 => subst x0))
        | ((with_reducible refine (have hx0 : KeepsP P s0 x0 := ?_; ?_)); (on_goal 2 => clear_value x0); (on_goal 1 => subst x0))
        | clear_value x0)
    | with_reducible apply KeepsP.ite
    | with_reducible apply Keeps.ite
    | split
    | with_reducible apply KeepsP.mk
    | (with_reducible apply KeepsP.of_eq (by with_reducible assumption))
    | with_reducible apply KeepsP.fst
    | with_reducible apply Keeps.upd
    | with_reducible apply Fuses.refl
    | ((with_reducible apply Or.inr); with_reducible rfl)
    | ((with_reducible apply Or.inl); exact h _ (by decide)))

theorem State.msgMore_keeps {P : Part → Bool} {s0 : State} (s : State) (m : Msg) (off : Nat) (bs : List Byte) (h : Parts P [.out, .free, .regs, .hbm, .ten, .tra, .mat, .wins, .grps, .xlt, .rte, .pwr])
    (hs : Keeps P s0 s) : KeepsP P s0 (State.msgMore s m off bs) := by
  unfold State.msgMore
  repeat' (first
    | with_reducible assumption
    | ((with_reducible apply Parts.mono h); decide)
    | with_reducible apply State.updMsgs_keeps
    | with_reducible apply State.dropMsgs_keeps
    | with_reducible apply State.qpFail_keeps
    | with_reducible apply State.placeAt_keeps
    | with_reducible apply State.recvDone_keeps
    | with_reducible intro _
    | (extract_lets +onlyGivenNames x0; first
        | ((with_reducible refine (have hx0 : Keeps P s0 x0 := ?_; ?_)); (on_goal 2 => clear_value x0); (on_goal 1 => subst x0))
        | ((with_reducible refine (have hx0 : KeepsP P s0 x0 := ?_; ?_)); (on_goal 2 => clear_value x0); (on_goal 1 => subst x0))
        | ((with_reducible have _x0 : _ → _ := x0); clear _x0; subst x0; beta_reduce)
        | clear_value x0)
    | with_reducible apply KeepsP.ite
    | with_reducible apply Keeps.ite
    | split
    | with_reducible apply KeepsP.mk
    | (with_reducible apply KeepsP.of_eq (by with_reducible assumption))
    | with_reducible apply KeepsP.fst
    | with_reducible apply Keeps.upd
    | with_reducible apply Fuses.refl
    | ((with_reducible apply Or.inr); with_reducible rfl)
    | ((with_reducible apply Or.inl); exact h _ (by decide))
    | beta_reduce)

end Sys2Proof.Machine
end

