-- ==== Sys2Proof/Laws/FaultRaise.lean ====
section
/-! SUPPORT. What the operations of Machine/FaultRaise.lean keep. -/

set_option linter.unusedTactic false
set_option linter.unreachableTactic false
set_option linter.unusedVariables false

namespace Sys2Proof.Machine

open Sys2Proof

theorem State.setPend_keeps {P : Part → Bool} {s0 : State} (s : State) (n : Nat) (v : Bool) (h : Parts P [.regs])
    (hs : Keeps P s0 s) : Keeps P s0 (State.setPend s n v) := by
  unfold State.setPend
  repeat' (first
    | with_reducible assumption
    | ((with_reducible apply Parts.mono h); decide)
    | with_reducible apply State.wrF_keeps
    | with_reducible intro _
    | split)

theorem State.ceRaise_keeps {P : Part → Bool} {s0 : State} (s : State) (n : Nat) (forced : Bool) (h : Parts P [.regs, .boot, .flt, .evr])
    (hs : Keeps P s0 s) : KeepsP P s0 (State.ceRaise s n forced) := by
  unfold State.ceRaise
  repeat' (first
    | with_reducible assumption
    | ((with_reducible apply Parts.mono h); decide)
    | with_reducible apply State.bump_keeps
    | with_reducible apply State.record_keeps
    | with_reducible apply State.setPend_keeps
    | with_reducible intro _
    | (extract_lets +onlyGivenNames x0; first
        | ((with_reducible refine (have hx0 : Keeps P s0 x0 := ?_; ?_)); (on_goal 2 => clear_value x0); (on_goal 1 => subst x0))
        | clear_value x0)
    | with_reducible apply KeepsP.ite
    | with_reducible apply Keeps.ite
    | with_reducible apply KeepsO.getD
    | split
    | with_reducible apply KeepsP.mk
    | with_reducible apply Keeps.upd
    | with_reducible apply Fuses.refl
    | ((with_reducible apply Or.inr); with_reducible rfl)
    | ((with_reducible apply Or.inl); exact h _ (by decide)))

theorem State.ucRaise_keeps {P : Part → Bool} {s0 : State} (s : State) (n : Nat) (obj : Nat) (addr : Word) (forced : Bool) (h : Parts P [.regs, .boot, .evr])
    (hs : Keeps P s0 s) : Keeps P s0 (State.ucRaise s n obj addr forced) := by
  unfold State.ucRaise
  repeat' (first
    | with_reducible assumption
    | ((with_reducible apply Parts.mono h); decide)
    | with_reducible apply State.bump_keeps
    | with_reducible apply State.record_keeps
    | with_reducible apply State.setPend_keeps
    | with_reducible intro _
    | split)

end Sys2Proof.Machine
end

