-- ==== Sys2Proof/Laws/SendOps.lean ====
section
/-! SUPPORT. What the operations of Machine/SendOps.lean keep. -/

set_option linter.unusedTactic false
set_option linter.unreachableTactic false
set_option linter.unusedVariables false

namespace Sys2Proof.Machine

open Sys2Proof

theorem State.trapAsk_keeps {P : Part → Bool} {s0 : State} (s : State) (q : Nat) (ring : Count32) (asid : Nat) (page : Nat) (write : Bool) (dirty : Bool) (size : Nat) (h : Parts P [.ten, .xlt])
    (hs : Keeps P s0 s) : Keeps P s0 (State.trapAsk s q ring asid page write dirty size) := by
  unfold State.trapAsk
  repeat' (first
    | with_reducible assumption
    | ((with_reducible apply Parts.mono h); decide)
    | with_reducible apply State.updJob_keeps
    | with_reducible intro _
    | (extract_lets +onlyGivenNames x0; first
        | ((with_reducible refine (have hx0 : Keeps P s0 x0 := ?_; ?_)); (on_goal 2 => clear_value x0); (on_goal 1 => subst x0))
        | clear_value x0)
    | with_reducible apply Keeps.ite
    | split
    | with_reducible apply Keeps.upd
    | with_reducible apply Fuses.refl
    | ((with_reducible apply Or.inr); with_reducible rfl)
    | ((with_reducible apply Or.inl); exact h _ (by decide))
    | beta_reduce)

theorem State.setRd_keeps {P : Part → Bool} {s0 : State} (s : State) (q : Nat) (ring : Count32) (rd : Option ReadBuf) (h : Parts P [.ten])
    (hs : Keeps P s0 s) : Keeps P s0 (State.setRd s q ring rd) := by
  unfold State.setRd
  repeat' (first
    | with_reducible assumption
    | ((with_reducible apply Parts.mono h); decide)
    | with_reducible apply State.updQp_keeps
    | with_reducible intro _
    | (extract_lets +onlyGivenNames x0; first
        | ((with_reducible refine (have hx0 : Keeps P s0 x0 := ?_; ?_)); (on_goal 2 => clear_value x0); (on_goal 1 => subst x0))
        | clear_value x0)
    | with_reducible apply Keeps.ite
    | split
    | with_reducible apply Keeps.upd
    | with_reducible apply Fuses.refl
    | ((with_reducible apply Or.inr); with_reducible rfl)
    | ((with_reducible apply Or.inl); exact h _ (by decide))
    | beta_reduce)

theorem State.jobRead_keeps {P : Part → Bool} {s0 : State} (s : State) (q : Nat) (v : Qp) (j : Job) (off : Nat) (n : Nat) (h : Parts P [.out, .free, .regs, .ten, .tra, .mat, .wins, .grps, .xlt, .rte, .pwr])
    (hs : Keeps P s0 s) : KeepsP P s0 (State.jobRead s q v j off n) := by
  unfold State.jobRead
  repeat' (first
    | with_reducible assumption
    | ((with_reducible apply Parts.mono h); decide)
    | with_reducible apply State.issueRead_keeps
    | with_reducible apply State.sgXlate_keeps
    | with_reducible apply State.jobFail_keeps
    | with_reducible apply State.trapAsk_keeps
    | with_reducible apply State.setRd_keeps
    | with_reducible intro _
    | (extract_lets +onlyGivenNames x0; first
        | ((with_reducible refine (have hx0 : Keeps P s0 x0 := ?_; ?_)); (on_goal 2 => clear_value x0); (on_goal 1 => subst x0))
        | ((with_reducible refine (have hx0 : KeepsP P s0 x0 := ?_; ?_)); (on_goal 2 => clear_value x0); (on_goal 1 => subst x0))
        | clear_value x0)
    | with_reducible apply KeepsP.ite
    | with_reducible apply Keeps.ite
    | split
    | with_reducible apply KeepsP.mk
    | (with_reducible apply KeepsP.of_eq (by with_reducible assumption))
    | with_reducible apply KeepsP.fst
    | with_reducible apply Keeps.upd
    | with_reducible apply Fuses.refl
    | ((with_reducible apply Or.inr); with_reducible rfl)
    | ((with_reducible apply Or.inl); exact h _ (by decide)))

theorem State.copyRead_keeps {P : Part → Bool} {s0 : State} (s : State) (q : Nat) (ring : Count32) (h : Parts P [.out, .free, .regs, .ten, .tra, .mat, .wins, .grps, .xlt, .rte, .pwr])
    (hs : Keeps P s0 s) : Keeps P s0 (State.copyRead s q ring) := by
  unfold State.copyRead
  repeat' (first
    | with_reducible assumption
    | ((with_reducible apply Parts.mono h); decide)
    | with_reducible apply State.issueRead_keeps
    | with_reducible apply State.sgXlate_keeps
    | with_reducible apply State.updJob_keeps
    | with_reducible apply State.jobFail_keeps
    | with_reducible apply State.trapAsk_keeps
    | with_reducible intro _
    | (extract_lets +onlyGivenNames x0; first
        | ((with_reducible refine (have hx0 : Keeps P s0 x0 := ?_; ?_)); (on_goal 2 => clear_value x0); (on_goal 1 => subst x0))
        | ((with_reducible refine (have hx0 : KeepsP P s0 x0 := ?_; ?_)); (on_goal 2 => clear_value x0); (on_goal 1 => subst x0))
        | clear_value x0)
    | with_reducible apply Keeps.ite
    | split
    | with_reducible apply KeepsP.mk
    | (with_reducible apply KeepsP.of_eq (by with_reducible assumption))
    | with_reducible apply KeepsP.fst
    | with_reducible apply Keeps.upd
    | with_reducible apply Fuses.refl
    | ((with_reducible apply Or.inr); with_reducible rfl)
    | ((with_reducible apply Or.inl); exact h _ (by decide))
    | beta_reduce)

theorem State.copyWrite_keeps {P : Part → Bool} {s0 : State} (s : State) (q : Nat) (ring : Count32) (bs : List Byte) (h : Parts P [.out, .free, .regs, .hbm, .ten, .tra, .mat, .wins, .grps, .xlt, .rte, .pwr])
    (hs : Keeps P s0 s) : Keeps P s0 (State.copyWrite s q ring bs) := by
  unfold State.copyWrite
  repeat' (first
    | with_reducible assumption
    | ((with_reducible apply Parts.mono h); decide)
    | with_reducible apply State.asking_keeps
    | with_reducible apply State.sgXlate_keeps
    | with_reducible apply State.sgWrite_keeps
    | with_reducible apply State.updJob_keeps
    | with_reducible apply State.finish_keeps
    | with_reducible apply State.jobFail_keeps
    | with_reducible apply State.trapAsk_keeps
    | with_reducible apply State.copyRead_keeps
    | with_reducible intro _
    | (extract_lets +onlyGivenNames x0; first
        | ((with_reducible refine (have hx0 : Keeps P s0 x0 := ?_; ?_)); (on_goal 2 => clear_value x0); (on_goal 1 => subst x0))
        | ((with_reducible refine (have hx0 : KeepsP P s0 x0 := ?_; ?_)); (on_goal 2 => clear_value x0); (on_goal 1 => subst x0))
        | clear_value x0)
    | with_reducible apply Keeps.ite
    | split
    | with_reducible apply KeepsP.mk
    | (with_reducible apply KeepsP.of_eq (by with_reducible assumption))
    | with_reducible apply KeepsP.fst
    | with_reducible apply Keeps.upd
    | with_reducible apply Fuses.refl
    | ((with_reducible apply Or.inr); with_reducible rfl)
    | ((with_reducible apply Or.inl); exact h _ (by decide))
    | beta_reduce)

theorem State.copyStep_keeps {P : Part → Bool} {s0 : State} (s : State) (q : Nat) (ring : Count32) (h : Parts P [.out, .free, .regs, .hbm, .ten, .tra, .mat, .wins, .grps, .xlt, .rte, .pwr])
    (hs : Keeps P s0 s) : Keeps P s0 (State.copyStep s q ring) := by
  unfold State.copyStep
  repeat' (first
    | with_reducible assumption
    | ((with_reducible apply Parts.mono h); decide)
    | with_reducible apply State.copyRead_keeps
    | with_reducible apply State.copyWrite_keeps
    | with_reducible intro _
    | (extract_lets +onlyGivenNames x0; first
        | ((with_reducible refine (have hx0 : Keeps P s0 x0 := ?_; ?_)); (on_goal 2 => clear_value x0); (on_goal 1 => subst x0))
        | clear_value x0)
    | with_reducible apply Keeps.ite
    | split
    | with_reducible apply Keeps.upd
    | with_reducible apply Fuses.refl
    | ((with_reducible apply Or.inr); with_reducible rfl)
    | ((with_reducible apply Or.inl); exact h _ (by decide)))

theorem State.copyRun_keeps {P : Part → Bool} {s0 : State} (s : State) (h : Parts P [.out, .free, .regs, .hbm, .ten, .tra, .mat, .wins, .grps, .xlt, .rte, .pwr])
    (hs : Keeps P s0 s) : Keeps P s0 (State.copyRun s) := by
  unfold State.copyRun
  repeat' (first
    | with_reducible assumption
    | ((with_reducible apply Parts.mono h); decide)
    | with_reducible apply State.asking_keeps
    | with_reducible apply State.copyStep_keeps
    | with_reducible apply foldl_keeps
    | with_reducible apply foldl_keepsP
    | with_reducible intro _
    | with_reducible apply Keeps.ite
    | split
    | with_reducible apply KeepsP.mk
    | (with_reducible apply KeepsP.of_eq (by with_reducible assumption))
    | with_reducible apply KeepsP.fst
    | beta_reduce)

theorem State.copyData_keeps {P : Part → Bool} {s0 : State} (s : State) (q : Nat) (ring : Count32) (bs : List Byte) (h : Parts P [.out, .free, .regs, .hbm, .ten, .tra, .mat, .wins, .grps, .xlt, .rte, .pwr])
    (hs : Keeps P s0 s) : Keeps P s0 (State.copyData s q ring bs) := by
  unfold State.copyData
  repeat' (first
    | with_reducible assumption
    | ((with_reducible apply Parts.mono h); decide)
    | with_reducible apply State.asking_keeps
    | with_reducible apply State.updJob_keeps
    | with_reducible apply State.copyStep_keeps
    | with_reducible intro _
    | (extract_lets +onlyGivenNames x0; first
        | ((with_reducible refine (have hx0 : Keeps P s0 x0 := ?_; ?_)); (on_goal 2 => clear_value x0); (on_goal 1 => subst x0))
        | clear_value x0)
    | split
    | with_reducible apply Keeps.upd
    | with_reducible apply Fuses.refl
    | ((with_reducible apply Or.inr); with_reducible rfl)
    | ((with_reducible apply Or.inl); exact h _ (by decide))
    | beta_reduce)

theorem State.windowFault_keeps {P : Part → Bool} {s0 : State} (s : State) (w : Nat) (status : Nat) (off : Nat) (srcNode : Nat) (srcQp : Nat) (late : Bool) (h : Parts P [.out, .regs, .ten, .wins, .xlt, .pwr])
    (hs : Keeps P s0 s) : Keeps P s0 (State.windowFault s w status off srcNode srcQp late) := by
  unfold State.windowFault
  repeat' (first
    | with_reducible assumption
    | ((with_reducible apply Parts.mono h); decide)
    | with_reducible apply State.eqEvent_keeps
    | with_reducible intro _
    | (extract_lets +onlyGivenNames x0; first
        | ((with_reducible refine (have hx0 : Keeps P s0 x0 := ?_; ?_)); (on_goal 2 => clear_value x0); (on_goal 1 => subst x0))
        | clear_value x0)
    | with_reducible apply Keeps.ite
    | split
    | with_reducible apply Keeps.upd
    | with_reducible apply Fuses.refl
    | ((with_reducible apply Or.inr); with_reducible rfl)
    | ((with_reducible apply Or.inl); exact h _ (by decide)))

theorem State.respFail_keeps {P : Part → Bool} {s0 : State} (s : State) (id : Nat) (status : Nat) (off : Nat) (h : Parts P [.out, .free, .regs, .ten, .tra, .mat, .wins, .grps, .xlt, .rte, .pwr])
    (hs : Keeps P s0 s) : Keeps P s0 (State.respFail s id status off) := by
  unfold State.respFail
  repeat' (first
    | with_reducible assumption
    | ((with_reducible apply Parts.mono h); decide)
    | with_reducible apply State.lateNak_keeps
    | with_reducible apply State.respCheck_keeps
    | with_reducible apply State.jobFail_keeps
    | with_reducible apply State.windowFault_keeps
    | with_reducible intro _
    | (extract_lets +onlyGivenNames x0; first
        | ((with_reducible refine (have hx0 : Keeps P s0 x0 := ?_; ?_)); (on_goal 2 => clear_value x0); (on_goal 1 => subst x0))
        | clear_value x0)
    | split
    | with_reducible apply Keeps.upd
    | with_reducible apply Fuses.refl
    | ((with_reducible apply Or.inr); with_reducible rfl)
    | ((with_reducible apply Or.inl); exact h _ (by decide)))

theorem State.respRead_keeps {P : Part → Bool} {s0 : State} (s : State) (id : Nat) (r : Resp) (off : Nat) (n : Nat) (h : Parts P [.out, .free, .regs, .ten, .tra, .mat, .wins, .grps, .xlt, .rte, .pwr])
    (hs : Keeps P s0 s) : KeepsP P s0 (State.respRead s id r off n) := by
  unfold State.respRead
  repeat' (first
    | with_reducible assumption
    | ((with_reducible apply Parts.mono h); decide)
    | with_reducible apply State.issueRead_keeps
    | with_reducible apply State.sgXlate_keeps
    | with_reducible apply State.respFail_keeps
    | with_reducible intro _
    | (extract_lets +onlyGivenNames x0; first
        | ((with_reducible refine (have hx0 : Keeps P s0 x0 := ?_; ?_)); (on_goal 2 => clear_value x0); (on_goal 1 => subst x0))
        | ((with_reducible refine (have hx0 : KeepsP P s0 x0 := ?_; ?_)); (on_goal 2 => clear_value x0); (on_goal 1 => subst x0))
        | clear_value x0)
    | with_reducible apply KeepsP.ite
    | with_reducible apply Keeps.ite
    | split
    | with_reducible apply KeepsP.mk
    | (with_reducible apply KeepsP.of_eq (by with_reducible assumption))
    | with_reducible apply KeepsP.fst
    | with_reducible apply Keeps.upd
    | with_reducible apply Fuses.refl
    | ((with_reducible apply Or.inr); with_reducible rfl)
    | ((with_reducible apply Or.inl); exact h _ (by decide)))

end Sys2Proof.Machine
end

