-- ==== Sys2Proof/Laws/CollOps.lean ====
section
/-! SUPPORT. What the operations of Machine/CollOps.lean keep. -/

set_option linter.unusedTactic false
set_option linter.unreachableTactic false
set_option linter.unusedVariables false

namespace Sys2Proof.Machine

open Sys2Proof

theorem State.updEdge_keeps {P : Part → Bool} {s0 : State} (s : State) (g : Nat) (n : Nat) (f : Edge → Edge) (h : Parts P [.grps])
    (hs : Keeps P s0 s) : Keeps P s0 (State.updEdge s g n f) := by
  unfold State.updEdge
  repeat' (first
    | with_reducible assumption
    | ((with_reducible apply Parts.mono h); decide)
    | with_reducible apply State.updGrp_keeps
    | with_reducible intro _
    | (extract_lets +onlyGivenNames x0; first
        | ((with_reducible refine (have hx0 : Keeps P s0 x0 := ?_; ?_)); (on_goal 2 => clear_value x0); (on_goal 1 => subst x0))
        | clear_value x0)
    | with_reducible apply Keeps.ite
    | split
    | with_reducible apply Keeps.upd
    | with_reducible apply Fuses.refl
    | ((with_reducible apply Or.inr); with_reducible rfl)
    | ((with_reducible apply Or.inl); exact h _ (by decide))
    | beta_reduce)

theorem State.sendCredit_keeps {P : Part → Bool} {s0 : State} (s : State) (g : Nat) (n : Nat) (h : Parts P [.grps, .rte])
    (hs : Keeps P s0 s) : Keeps P s0 (State.sendCredit s g n) := by
  unfold State.sendCredit
  repeat' (first
    | with_reducible assumption
    | ((with_reducible apply Parts.mono h); decide)
    | with_reducible apply State.collSend_keeps
    | with_reducible apply State.updEdge_keeps
    | with_reducible intro _
    | (extract_lets +onlyGivenNames x0; first
        | ((with_reducible refine (have hx0 : Keeps P s0 x0 := ?_; ?_)); (on_goal 2 => clear_value x0); (on_goal 1 => subst x0))
        | clear_value x0)
    | split
    | with_reducible apply Keeps.upd
    | with_reducible apply Fuses.refl
    | ((with_reducible apply Or.inr); with_reducible rfl)
    | ((with_reducible apply Or.inl); exact h _ (by decide))
    | beta_reduce)

theorem State.freeSlot16_keeps {P : Part → Bool} {s0 : State} (s : State) (g : Nat) (n : Nat) (h : Parts P [.grps, .rte])
    (hs : Keeps P s0 s) : Keeps P s0 (State.freeSlot16 s g n) := by
  unfold State.freeSlot16
  repeat' (first
    | with_reducible assumption
    | ((with_reducible apply Parts.mono h); decide)
    | with_reducible apply State.updEdge_keeps
    | with_reducible apply State.sendCredit_keeps
    | with_reducible intro _
    | (extract_lets +onlyGivenNames x0; first
        | ((with_reducible refine (have hx0 : Keeps P s0 x0 := ?_; ?_)); (on_goal 2 => clear_value x0); (on_goal 1 => subst x0))
        | clear_value x0)
    | with_reducible apply Keeps.ite
    | split
    | with_reducible apply Keeps.upd
    | with_reducible apply Fuses.refl
    | ((with_reducible apply Or.inr); with_reducible rfl)
    | ((with_reducible apply Or.inl); exact h _ (by decide))
    | beta_reduce)

theorem State.updOp_keeps {P : Part → Bool} {s0 : State} (s : State) (g : Nat) (f : CollOp → CollOp) (h : Parts P [.grps])
    (hs : Keeps P s0 s) : Keeps P s0 (State.updOp s g f) := by
  unfold State.updOp
  repeat' (first
    | with_reducible assumption
    | ((with_reducible apply Parts.mono h); decide)
    | with_reducible apply State.updGrp_keeps
    | with_reducible intro _
    | (extract_lets +onlyGivenNames x0; first
        | ((with_reducible refine (have hx0 : Keeps P s0 x0 := ?_; ?_)); (on_goal 2 => clear_value x0); (on_goal 1 => subst x0))
        | clear_value x0)
    | split
    | with_reducible apply Keeps.upd
    | with_reducible apply Fuses.refl
    | ((with_reducible apply Or.inr); with_reducible rfl)
    | ((with_reducible apply Or.inl); exact h _ (by decide))
    | beta_reduce)

theorem State.oweKids_keeps {P : Part → Bool} {s0 : State} (s : State) (g : Nat) (v : Group) (pass : Nat) (idx : Nat) (bytes : List Byte) (h : Parts P [.grps])
    (hs : Keeps P s0 s) : Keeps P s0 (State.oweKids s g v pass idx bytes) := by
  unfold State.oweKids
  repeat' (first
    | with_reducible assumption
    | ((with_reducible apply Parts.mono h); decide)
    | with_reducible apply State.updOp_keeps
    | with_reducible intro _
    | (extract_lets +onlyGivenNames x0; first
        | ((with_reducible refine (have hx0 : Keeps P s0 x0 := ?_; ?_)); (on_goal 2 => clear_value x0); (on_goal 1 => subst x0))
        | clear_value x0)
    | split
    | with_reducible apply Keeps.upd
    | with_reducible apply Fuses.refl
    | ((with_reducible apply Or.inr); with_reducible rfl)
    | ((with_reducible apply Or.inl); exact h _ (by decide))
    | beta_reduce)

theorem State.freeChunks_keeps {P : Part → Bool} {s0 : State} (s : State) (g : Nat) (cs : List Chunk) (h : Parts P [.grps, .rte])
    (hs : Keeps P s0 s) : Keeps P s0 (State.freeChunks s g cs) := by
  unfold State.freeChunks
  repeat' (first
    | with_reducible assumption
    | ((with_reducible apply Parts.mono h); decide)
    | with_reducible apply State.freeSlot16_keeps
    | with_reducible apply foldl_keeps
    | with_reducible apply foldl_keepsP
    | with_reducible intro _
    | (extract_lets +onlyGivenNames x0; first
        | ((with_reducible refine (have hx0 : Keeps P s0 x0 := ?_; ?_)); (on_goal 2 => clear_value x0); (on_goal 1 => subst x0))
        | ((with_reducible refine (have hx0 : KeepsP P s0 x0 := ?_; ?_)); (on_goal 2 => clear_value x0); (on_goal 1 => subst x0))
        | clear_value x0)
    | split
    | with_reducible apply KeepsP.mk
    | (with_reducible apply KeepsP.of_eq (by with_reducible assumption))
    | with_reducible apply KeepsP.fst
    | with_reducible apply Keeps.upd
    | with_reducible apply Fuses.refl
    | ((with_reducible apply Or.inr); with_reducible rfl)
    | ((with_reducible apply Or.inl); exact h _ (by decide))
    | beta_reduce)

theorem State.useParts_keeps {P : Part → Bool} {s0 : State} (s : State) (g : Nat) (v : Group) (pass : Nat) (idx : Nat) (h : Parts P [.now, .ft, .regs, .grps, .rte, .lnk, .pwr])
    (hs : Keeps P s0 s) : Keeps P s0 (State.useParts s g v pass idx) := by
  unfold State.useParts
  repeat' (first
    | with_reducible assumption
    | ((with_reducible apply Parts.mono h); decide)
    | with_reducible apply State.pass_keeps
    | with_reducible apply State.updGrp_keeps
    | with_reducible apply State.freeChunks_keeps
    | with_reducible intro _
    | (extract_lets +onlyGivenNames x0; first
        | ((with_reducible refine (have hx0 : Keeps P s0 x0 := ?_; ?_)); (on_goal 2 => clear_value x0); (on_goal 1 => subst x0))
        | ((with_reducible have _x0 : _ → _ := x0); clear _x0; subst x0; beta_reduce)
        | clear_value x0)
    | split
    | with_reducible apply Keeps.upd
    | with_reducible apply Fuses.refl
    | ((with_reducible apply Or.inr); with_reducible rfl)
    | ((with_reducible apply Or.inl); exact h _ (by decide))
    | beta_reduce)

theorem State.collLocalFail_keeps {P : Part → Bool} {s0 : State} (s : State) (g : Nat) (q : Nat) (ring : Count32) (status : Nat) (h : Parts P [.out, .free, .regs, .ten, .tra, .mat, .wins, .grps, .xlt, .rte, .pwr])
    (hs : Keeps P s0 s) : Keeps P s0 (State.collLocalFail s g q ring status) := by
  unfold State.collLocalFail
  repeat' (first
    | with_reducible assumption
    | ((with_reducible apply Parts.mono h); decide)
    | with_reducible apply State.updJob_keeps
    | with_reducible apply State.groupError_keeps
    | with_reducible intro _
    | (extract_lets +onlyGivenNames x0; first
        | ((with_reducible refine (have hx0 : Keeps P s0 x0 := ?_; ?_)); (on_goal 2 => clear_value x0); (on_goal 1 => subst x0))
        | clear_value x0)
    | with_reducible apply Keeps.ite
    | split
    | with_reducible apply Keeps.upd
    | with_reducible apply Fuses.refl
    | ((with_reducible apply Or.inr); with_reducible rfl)
    | ((with_reducible apply Or.inl); exact h _ (by decide))
    | beta_reduce)

theorem State.collRead_keeps {P : Part → Bool} {s0 : State} (s : State) (g : Nat) (ring : Count32) (pass : Nat) (idx : Nat) (h : Parts P [.out, .free, .regs, .hbm, .ten, .tra, .mat, .wins, .grps, .xlt, .rte, .pwr])
    (hs : Keeps P s0 s) : Keeps P s0 (State.collRead s g ring pass idx) := by
  unfold State.collRead
  repeat' (first
    | with_reducible assumption
    | ((with_reducible apply Parts.mono h); decide)
    | with_reducible apply State.issueRead_keeps
    | with_reducible apply State.sgXlate_keeps
    | with_reducible apply State.trapAsk_keeps
    | with_reducible apply State.collLocalFail_keeps
    | with_reducible intro _
    | (extract_lets +onlyGivenNames x0; first
        | ((with_reducible refine (have hx0 : Keeps P s0 x0 := ?_; ?_)); (on_goal 2 => clear_value x0); (on_goal 1 => subst x0))
        | ((with_reducible refine (have hx0 : KeepsP P s0 x0 := ?_; ?_)); (on_goal 2 => clear_value x0); (on_goal 1 => subst x0))
        | clear_value x0)
    | with_reducible apply Keeps.ite
    | split
    | with_reducible apply KeepsP.mk
    | (with_reducible apply KeepsP.of_eq (by with_reducible assumption))
    | with_reducible apply KeepsP.fst
    | with_reducible apply Keeps.upd
    | with_reducible apply Fuses.refl
    | ((with_reducible apply Or.inr); with_reducible rfl)
    | ((with_reducible apply Or.inl); exact h _ (by decide))
    | beta_reduce)

theorem State.collPut_keeps {P : Part → Bool} {s0 : State} (s : State) (g : Nat) (v : Group) (c : Chunk) (r : Count32) (h : Parts P [.out, .free, .regs, .hbm, .ten, .tra, .mat, .wins, .grps, .xlt, .rte, .pwr])
    (hs : Keeps P s0 s) : KeepsP P s0 (State.collPut s g v c r) := by
  unfold State.collPut
  repeat' (first
    | with_reducible assumption
    | ((with_reducible apply Parts.mono h); decide)
    | with_reducible apply State.sgXlate_keeps
    | with_reducible apply State.sgWrite_keeps
    | with_reducible apply State.trapAsk_keeps
    | with_reducible apply State.collLocalFail_keeps
    | with_reducible intro _
    | (extract_lets +onlyGivenNames x0; first
        | ((with_reducible refine (have hx0 : Keeps P s0 x0 := ?_; ?_)); (on_goal 2 => clear_value x0); (on_goal 1 => subst x0))
        | ((with_reducible refine (have hx0 : KeepsP P s0 x0 := ?_; ?_)); (on_goal 2 => clear_value x0); (on_goal 1 => subst x0))
        | clear_value x0)
    | with_reducible apply KeepsP.ite
    | with_reducible apply Keeps.ite
    | split
    | with_reducible apply KeepsP.mk
    | (with_reducible apply KeepsP.of_eq (by with_reducible assumption))
    | with_reducible apply KeepsP.fst
    | with_reducible apply Keeps.upd
    | with_reducible apply Fuses.refl
    | ((with_reducible apply Or.inr); with_reducible rfl)
    | ((with_reducible apply Or.inl); exact h _ (by decide)))

theorem State.updChunk_keeps {P : Part → Bool} {s0 : State} (s : State) (g : Nat) (c : Chunk) (f : Chunk → Chunk) (h : Parts P [.grps])
    (hs : Keeps P s0 s) : Keeps P s0 (State.updChunk s g c f) := by
  unfold State.updChunk
  repeat' (first
    | with_reducible assumption
    | ((with_reducible apply Parts.mono h); decide)
    | with_reducible apply State.updGrp_keeps
    | with_reducible intro _
    | (extract_lets +onlyGivenNames x0; first
        | ((with_reducible refine (have hx0 : Keeps P s0 x0 := ?_; ?_)); (on_goal 2 => clear_value x0); (on_goal 1 => subst x0))
        | clear_value x0)
    | with_reducible apply Keeps.ite
    | split
    | with_reducible apply Keeps.upd
    | with_reducible apply Fuses.refl
    | ((with_reducible apply Or.inr); with_reducible rfl)
    | ((with_reducible apply Or.inl); exact h _ (by decide))
    | beta_reduce)

theorem State.collPlace_keeps {P : Part → Bool} {s0 : State} (s : State) (g : Nat) (v : Group) (c : Chunk) (z0 : List Count32) (h : Parts P [.out, .free, .regs, .hbm, .ten, .tra, .mat, .wins, .grps, .xlt, .rte, .pwr])
    (hs : Keeps P s0 s) : KeepsP P s0 (State.collPlace s g v c z0) := by
  induction z0 generalizing s with
  | nil => unfold State.collPlace; repeat' (first
    | with_reducible assumption
    | ((with_reducible apply Parts.mono h); decide)
    | with_reducible apply State.collPut_keeps
    | with_reducible apply State.updChunk_keeps
    | with_reducible intro _
    | (extract_lets +onlyGivenNames x0; first
        | ((with_reducible refine (have hx0 : Keeps P s0 x0 := ?_; ?_)); (on_goal 2 => clear_value x0); (on_goal 1 => subst x0))
        | ((with_reducible refine (have hx0 : KeepsP P s0 x0 := ?_; ?_)); (on_goal 2 => clear_value x0); (on_goal 1 => subst x0))
        | clear_value x0)
    | with_reducible apply KeepsP.ite
    | with_reducible apply Keeps.ite
    | split
    | with_reducible apply KeepsP.mk
    | (with_reducible apply KeepsP.of_eq (by with_reducible assumption))
    | with_reducible apply KeepsP.fst
    | with_reducible apply Keeps.upd
    | with_reducible apply Fuses.refl
    | ((with_reducible apply Or.inr); with_reducible rfl)
    | ((with_reducible apply Or.inl); exact h _ (by decide))
    | beta_reduce)
  | cons x l ih =>
    unfold State.collPlace
    repeat' (first
      | with_reducible assumption
      | ((with_reducible apply Parts.mono h); decide)
      | with_reducible apply ih
      | with_reducible apply State.collPut_keeps
      | with_reducible apply State.updChunk_keeps
      | with_reducible intro _
      | (extract_lets +onlyGivenNames x0; first
          | ((with_reducible refine (have hx0 : Keeps P s0 x0 := ?_; ?_)); (on_goal 2 => clear_value x0); (on_goal 1 => subst x0))
          | ((with_reducible refine (have hx0 : KeepsP P s0 x0 := ?_; ?_)); (on_goal 2 => clear_value x0); (on_goal 1 => subst x0))
          | clear_value x0)
      | with_reducible apply KeepsP.ite
      | with_reducible apply Keeps.ite
      | split
      | with_reducible apply KeepsP.mk
      | (with_reducible apply KeepsP.of_eq (by with_reducible assumption))
      | with_reducible apply KeepsP.fst
      | with_reducible apply Keeps.upd
      | with_reducible apply Fuses.refl
      | ((with_reducible apply Or.inr); with_reducible rfl)
      | ((with_reducible apply Or.inl); exact h _ (by decide))
      | beta_reduce)

theorem State.addResult_keeps {P : Part → Bool} {s0 : State} (s : State) (g : Nat) (idx : Nat) (d : CollDesc) (bs : List Byte) (h : Parts P [.grps])
    (hs : Keeps P s0 s) : Keeps P s0 (State.addResult s g idx d bs) := by
  unfold State.addResult
  repeat' (first
    | with_reducible assumption
    | ((with_reducible apply Parts.mono h); decide)
    | with_reducible apply State.updGrp_keeps
    | with_reducible intro _
    | (extract_lets +onlyGivenNames x0; first
        | ((with_reducible refine (have hx0 : Keeps P s0 x0 := ?_; ?_)); (on_goal 2 => clear_value x0); (on_goal 1 => subst x0))
        | clear_value x0)
    | split
    | with_reducible apply Keeps.upd
    | with_reducible apply Fuses.refl
    | ((with_reducible apply Or.inr); with_reducible rfl)
    | ((with_reducible apply Or.inl); exact h _ (by decide))
    | beta_reduce)

theorem State.rootChunk_keeps {P : Part → Bool} {s0 : State} (s : State) (g : Nat) (v : Group) (o : CollOp) (pass : Nat) (idx : Nat) (h : Parts P [.out, .free, .now, .ft, .regs, .ten, .tra, .mat, .wins, .grps, .xlt, .rte, .lnk, .pwr])
    (hs : Keeps P s0 s) : KeepsP P s0 (State.rootChunk s g v o pass idx) := by
  unfold State.rootChunk
  repeat' (first
    | with_reducible assumption
    | ((with_reducible apply Parts.mono h); decide)
    | with_reducible apply State.event_keeps
    | with_reducible apply State.groupError_keeps
    | with_reducible apply State.updOp_keeps
    | with_reducible apply State.oweKids_keeps
    | with_reducible apply State.useParts_keeps
    | with_reducible apply State.addResult_keeps
    | with_reducible intro _
    | (extract_lets +onlyGivenNames x0; first
        | ((with_reducible refine (have hx0 : Keeps P s0 x0 := ?_; ?_)); (on_goal 2 => clear_value x0); (on_goal 1 => subst x0))
        | clear_value x0)
    | with_reducible apply KeepsP.ite
    | with_reducible apply Keeps.ite
    | with_reducible apply KeepsO.getD
    | split
    | with_reducible apply KeepsP.mk
    | with_reducible apply Keeps.upd
    | with_reducible apply Fuses.refl
    | ((with_reducible apply Or.inr); with_reducible rfl)
    | ((with_reducible apply Or.inl); exact h _ (by decide))
    | beta_reduce)

theorem State.rootCast_keeps {P : Part → Bool} {s0 : State} (s : State) (g : Nat) (v : Group) (o : CollOp) (h : Parts P [.grps])
    (hs : Keeps P s0 s) : KeepsP P s0 (State.rootCast s g v o) := by
  unfold State.rootCast
  repeat' (first
    | with_reducible assumption
    | ((with_reducible apply Parts.mono h); decide)
    | with_reducible apply State.updGrp_keeps
    | with_reducible apply State.updOp_keeps
    | with_reducible apply State.oweKids_keeps
    | with_reducible apply State.addResult_keeps
    | with_reducible intro _
    | (extract_lets +onlyGivenNames x0; first
        | ((with_reducible refine (have hx0 : Keeps P s0 x0 := ?_; ?_)); (on_goal 2 => clear_value x0); (on_goal 1 => subst x0))
        | clear_value x0)
    | split
    | with_reducible apply KeepsP.mk
    | with_reducible apply Keeps.upd
    | with_reducible apply Fuses.refl
    | ((with_reducible apply Or.inr); with_reducible rfl)
    | ((with_reducible apply Or.inl); exact h _ (by decide))
    | beta_reduce)

theorem State.freeDowns_keeps {P : Part → Bool} {s0 : State} (s : State) (g : Nat) (v : Group) (o : CollOp) (h : Parts P [.now, .ft, .regs, .grps, .rte, .lnk, .pwr])
    (hs : Keeps P s0 s) : Keeps P s0 (State.freeDowns s g v o) := by
  unfold State.freeDowns
  repeat' (first
    | with_reducible assumption
    | ((with_reducible apply Parts.mono h); decide)
    | with_reducible apply State.pass_keeps
    | with_reducible apply State.updGrp_keeps
    | with_reducible apply State.freeSlot16_keeps
    | with_reducible apply foldl_keeps
    | with_reducible apply foldl_keepsP
    | with_reducible intro _
    | (extract_lets +onlyGivenNames x0; first
        | ((with_reducible refine (have hx0 : Keeps P s0 x0 := ?_; ?_)); (on_goal 2 => clear_value x0); (on_goal 1 => subst x0))
        | ((with_reducible refine (have hx0 : KeepsP P s0 x0 := ?_; ?_)); (on_goal 2 => clear_value x0); (on_goal 1 => subst x0))
        | clear_value x0)
    | with_reducible apply Keeps.ite
    | split
    | with_reducible apply KeepsP.mk
    | (with_reducible apply KeepsP.of_eq (by with_reducible assumption))
    | with_reducible apply KeepsP.fst
    | with_reducible apply Keeps.upd
    | with_reducible apply Fuses.refl
    | ((with_reducible apply Or.inr); with_reducible rfl)
    | ((with_reducible apply Or.inl); exact h _ (by decide))
    | beta_reduce)

theorem State.collFinish_keeps {P : Part → Bool} {s0 : State} (s : State) (v : Group) (o : CollOp) (h : Parts P [.regs, .ten, .tra, .wins, .xlt, .rte])
    (hs : Keeps P s0 s) : Keeps P s0 (State.collFinish s v o) := by
  unfold State.collFinish
  repeat' (first
    | with_reducible assumption
    | ((with_reducible apply Parts.mono h); decide)
    | with_reducible apply State.updJob_keeps
    | with_reducible apply State.finish_keeps
    | with_reducible apply foldl_keeps
    | with_reducible apply foldl_keepsP
    | with_reducible intro _
    | (extract_lets +onlyGivenNames x0; first
        | ((with_reducible refine (have hx0 : Keeps P s0 x0 := ?_; ?_)); (on_goal 2 => clear_value x0); (on_goal 1 => subst x0))
        | ((with_reducible refine (have hx0 : KeepsP P s0 x0 := ?_; ?_)); (on_goal 2 => clear_value x0); (on_goal 1 => subst x0))
        | clear_value x0)
    | split
    | with_reducible apply KeepsP.mk
    | (with_reducible apply KeepsP.of_eq (by with_reducible assumption))
    | with_reducible apply KeepsP.fst
    | with_reducible apply Keeps.upd
    | with_reducible apply Fuses.refl
    | ((with_reducible apply Or.inr); with_reducible rfl)
    | ((with_reducible apply Or.inl); exact h _ (by decide))
    | beta_reduce)

theorem State.downNow_keeps {P : Part → Bool} {s0 : State} (s : State) (g : Nat) (v : Group) (c : Chunk) (h : Parts P [.now, .ft, .regs, .grps, .lnk, .pwr])
    (hs : Keeps P s0 s) : Keeps P s0 (State.downNow s g v c) := by
  unfold State.downNow
  repeat' (first
    | with_reducible assumption
    | ((with_reducible apply Parts.mono h); decide)
    | with_reducible apply State.pass_keeps
    | with_reducible apply State.updOp_keeps
    | with_reducible apply State.oweKids_keeps
    | with_reducible apply State.updChunk_keeps
    | with_reducible intro _
    | (extract_lets +onlyGivenNames x0; first
        | ((with_reducible refine (have hx0 : Keeps P s0 x0 := ?_; ?_)); (on_goal 2 => clear_value x0); (on_goal 1 => subst x0))
        | clear_value x0)
    | with_reducible apply Keeps.ite
    | split
    | with_reducible apply Keeps.upd
    | with_reducible apply Fuses.refl
    | ((with_reducible apply Or.inr); with_reducible rfl)
    | ((with_reducible apply Or.inl); exact h _ (by decide))
    | beta_reduce)

theorem State.opNext_keeps {P : Part → Bool} {s0 : State} (s : State) (g : Nat) (v : Group) (h : Parts P [.now, .ft, .regs, .grps, .rte, .lnk, .pwr])
    (hs : Keeps P s0 s) : Keeps P s0 (State.opNext s g v) := by
  unfold State.opNext
  repeat' (first
    | with_reducible assumption
    | ((with_reducible apply Parts.mono h); decide)
    | with_reducible apply State.updGrp_keeps
    | with_reducible apply State.freeChunks_keeps
    | with_reducible apply State.downNow_keeps
    | with_reducible apply foldl_keeps
    | with_reducible apply foldl_keepsP
    | with_reducible intro _
    | (extract_lets +onlyGivenNames x0; first
        | ((with_reducible refine (have hx0 : Keeps P s0 x0 := ?_; ?_)); (on_goal 2 => clear_value x0); (on_goal 1 => subst x0))
        | ((with_reducible refine (have hx0 : KeepsP P s0 x0 := ?_; ?_)); (on_goal 2 => clear_value x0); (on_goal 1 => subst x0))
        | clear_value x0)
    | split
    | with_reducible apply KeepsP.mk
    | (with_reducible apply KeepsP.of_eq (by with_reducible assumption))
    | with_reducible apply KeepsP.fst
    | with_reducible apply Keeps.upd
    | with_reducible apply Fuses.refl
    | ((with_reducible apply Or.inr); with_reducible rfl)
    | ((with_reducible apply Or.inl); exact h _ (by decide))
    | beta_reduce)

theorem State.placeStride_keeps {P : Part → Bool} {s0 : State} (s : State) (g : Nat) (v : Group) (o : CollOp) (c : Chunk) (h : Parts P [.out, .free, .now, .ft, .regs, .hbm, .ten, .tra, .mat, .wins, .grps, .xlt, .rte, .lnk, .pwr])
    (hs : Keeps P s0 s) : KeepsP P s0 (State.placeStride s g v o c) := by
  unfold State.placeStride
  repeat' (first
    | with_reducible assumption
    | ((with_reducible apply Parts.mono h); decide)
    | with_reducible apply State.pass_keeps
    | with_reducible apply State.updGrp_keeps
    | with_reducible apply State.collPlace_keeps
    | with_reducible apply State.freeDowns_keeps
    | with_reducible intro _
    | (extract_lets +onlyGivenNames x0; first
        | ((with_reducible refine (have hx0 : Keeps P s0 x0 := ?_; ?_)); (on_goal 2 => clear_value x0); (on_goal 1 => subst x0))
        | ((with_reducible refine (have hx0 : KeepsP P s0 x0 := ?_; ?_)); (on_goal 2 => clear_value x0); (on_goal 1 => subst x0))
        | clear_value x0)
    | with_reducible apply KeepsP.ite
    | with_reducible apply Keeps.ite
    | split
    | with_reducible apply KeepsP.mk
    | (with_reducible apply KeepsP.of_eq (by with_reducible assumption))
    | with_reducible apply KeepsP.fst
    | with_reducible apply Keeps.upd
    | with_reducible apply Fuses.refl
    | ((with_reducible apply Or.inr); with_reducible rfl)
    | ((with_reducible apply Or.inl); exact h _ (by decide))
    | beta_reduce)

theorem State.doneStride_keeps {P : Part → Bool} {s0 : State} (s : State) (g : Nat) (v : Group) (o : CollOp) (h : Parts P [.now, .ft, .regs, .grps, .rte, .lnk, .pwr])
    (hs : Keeps P s0 s) : Keeps P s0 (State.doneStride s g v o) := by
  unfold State.doneStride
  repeat' (first
    | with_reducible assumption
    | ((with_reducible apply Parts.mono h); decide)
    | with_reducible apply State.updOp_keeps
    | with_reducible apply State.oweKids_keeps
    | with_reducible apply State.useParts_keeps
    | with_reducible apply foldl_keeps
    | with_reducible apply foldl_keepsP
    | with_reducible intro _
    | (extract_lets +onlyGivenNames x0; first
        | ((with_reducible refine (have hx0 : Keeps P s0 x0 := ?_; ?_)); (on_goal 2 => clear_value x0); (on_goal 1 => subst x0))
        | ((with_reducible refine (have hx0 : KeepsP P s0 x0 := ?_; ?_)); (on_goal 2 => clear_value x0); (on_goal 1 => subst x0))
        | clear_value x0)
    | with_reducible apply Keeps.ite
    | split
    | with_reducible apply KeepsP.mk
    | (with_reducible apply KeepsP.of_eq (by with_reducible assumption))
    | with_reducible apply KeepsP.fst
    | with_reducible apply Keeps.upd
    | with_reducible apply Fuses.refl
    | ((with_reducible apply Or.inr); with_reducible rfl)
    | ((with_reducible apply Or.inl); exact h _ (by decide))
    | beta_reduce)

theorem State.collStride_keeps {P : Part → Bool} {s0 : State} (s : State) (g : Nat) (h : Parts P [.out, .free, .now, .ft, .regs, .hbm, .ten, .tra, .mat, .wins, .grps, .xlt, .rte, .lnk, .pwr])
    (hs : Keeps P s0 s) : KeepsP P s0 (State.collStride s g) := by
  unfold State.collStride
  repeat' (first
    | with_reducible assumption
    | ((with_reducible apply Parts.mono h); decide)
    | with_reducible apply State.updOp_keeps
    | with_reducible apply State.oweKids_keeps
    | with_reducible apply State.collRead_keeps
    | with_reducible apply State.rootChunk_keeps
    | with_reducible apply State.rootCast_keeps
    | with_reducible apply State.collFinish_keeps
    | with_reducible apply State.opNext_keeps
    | with_reducible apply State.placeStride_keeps
    | with_reducible apply State.doneStride_keeps
    | with_reducible apply foldl_keeps
    | with_reducible apply foldl_keepsP
    | with_reducible intro _
    | (extract_lets +onlyGivenNames x0; first
        | ((with_reducible refine (have hx0 : Keeps P s0 x0 := ?_; ?_)); (on_goal 2 => clear_value x0); (on_goal 1 => subst x0))
        | ((with_reducible refine (have hx0 : KeepsP P s0 x0 := ?_; ?_)); (on_goal 2 => clear_value x0); (on_goal 1 => subst x0))
        | clear_value x0)
    | with_reducible apply KeepsP.ite
    | with_reducible apply Keeps.ite
    | split
    | with_reducible apply KeepsP.mk
    | (with_reducible apply KeepsP.of_eq (by with_reducible assumption))
    | with_reducible apply KeepsP.fst
    | with_reducible apply Keeps.upd
    | with_reducible apply Fuses.refl
    | ((with_reducible apply Or.inr); with_reducible rfl)
    | ((with_reducible apply Or.inl); exact h _ (by decide))
    | beta_reduce)

theorem State.collAdvance_keeps {P : Part → Bool} {s0 : State} (s : State) (g : Nat) (z0 : Nat) (h : Parts P [.out, .free, .now, .ft, .regs, .hbm, .ten, .tra, .mat, .wins, .grps, .xlt, .rte, .lnk, .pwr])
    (hs : Keeps P s0 s) : Keeps P s0 (State.collAdvance s g z0) := by
  induction z0 generalizing s with
  | zero =>
    unfold State.collAdvance
    repeat' (first
      | with_reducible assumption
      | ((with_reducible apply Parts.mono h); decide)
      | with_reducible apply State.collStride_keeps
      | with_reducible intro _
      | (extract_lets +onlyGivenNames x0; first
          | ((with_reducible refine (have hx0 : Keeps P s0 x0 := ?_; ?_)); (on_goal 2 => clear_value x0); (on_goal 1 => subst x0))
          | ((with_reducible refine (have hx0 : KeepsP P s0 x0 := ?_; ?_)); (on_goal 2 => clear_value x0); (on_goal 1 => subst x0))
          | clear_value x0)
      | split
      | with_reducible apply KeepsP.mk
      | (with_reducible apply KeepsP.of_eq (by with_reducible assumption))
      | with_reducible apply KeepsP.fst
      | with_reducible apply Keeps.upd
      | with_reducible apply Fuses.refl
      | ((with_reducible apply Or.inr); with_reducible rfl)
      | ((with_reducible apply Or.inl); exact h _ (by decide)))
  | succ n ih =>
    unfold State.collAdvance
    repeat' (first
      | with_reducible assumption
      | ((with_reducible apply Parts.mono h); decide)
      | with_reducible apply ih
      | with_reducible apply State.collStride_keeps
      | with_reducible intro _
      | (extract_lets +onlyGivenNames x0; first
          | ((with_reducible refine (have hx0 : Keeps P s0 x0 := ?_; ?_)); (on_goal 2 => clear_value x0); (on_goal 1 => subst x0))
          | ((with_reducible refine (have hx0 : KeepsP P s0 x0 := ?_; ?_)); (on_goal 2 => clear_value x0); (on_goal 1 => subst x0))
          | clear_value x0)
      | split
      | with_reducible apply KeepsP.mk
      | (with_reducible apply KeepsP.of_eq (by with_reducible assumption))
      | with_reducible apply KeepsP.fst
      | with_reducible apply Keeps.upd
      | with_reducible apply Fuses.refl
      | ((with_reducible apply Or.inr); with_reducible rfl)
      | ((with_reducible apply Or.inl); exact h _ (by decide)))

theorem State.collGo_keeps {P : Part → Bool} {s0 : State} (s : State) (g : Nat) (h : Parts P [.out, .free, .now, .ft, .regs, .hbm, .ten, .tra, .mat, .wins, .grps, .xlt, .rte, .lnk, .pwr])
    (hs : Keeps P s0 s) : Keeps P s0 (State.collGo s g) := by
  unfold State.collGo
  repeat' (first
    | with_reducible assumption
    | ((with_reducible apply Parts.mono h); decide)
    | with_reducible apply State.collAdvance_keeps
    | with_reducible intro _
    | split)

theorem State.collRun_keeps {P : Part → Bool} {s0 : State} (s : State) (h : Parts P [.out, .free, .now, .ft, .regs, .hbm, .ten, .tra, .mat, .wins, .grps, .xlt, .rte, .lnk, .pwr])
    (hs : Keeps P s0 s) : Keeps P s0 (State.collRun s) := by
  unfold State.collRun
  repeat' (first
    | with_reducible assumption
    | ((with_reducible apply Parts.mono h); decide)
    | with_reducible apply State.asking_keeps
    | with_reducible apply State.collGo_keeps
    | with_reducible apply foldl_keeps
    | with_reducible apply foldl_keepsP
    | with_reducible intro _
    | split
    | with_reducible apply KeepsP.mk
    | (with_reducible apply KeepsP.of_eq (by with_reducible assumption))
    | with_reducible apply KeepsP.fst
    | beta_reduce)

theorem State.collData_keeps {P : Part → Bool} {s0 : State} (s : State) (g : Nat) (ring : Count32) (pass : Nat) (idx : Nat) (bs : List Byte) (h : Parts P [.out, .free, .now, .ft, .regs, .hbm, .ten, .tra, .mat, .wins, .grps, .xlt, .rte, .lnk, .pwr])
    (hs : Keeps P s0 s) : Keeps P s0 (State.collData s g ring pass idx bs) := by
  unfold State.collData
  repeat' (first
    | with_reducible assumption
    | ((with_reducible apply Parts.mono h); decide)
    | with_reducible apply State.asking_keeps
    | with_reducible apply State.updGrp_keeps
    | with_reducible apply State.collGo_keeps
    | with_reducible intro _
    | (extract_lets +onlyGivenNames x0; first
        | ((with_reducible refine (have hx0 : Keeps P s0 x0 := ?_; ?_)); (on_goal 2 => clear_value x0); (on_goal 1 => subst x0))
        | clear_value x0)
    | with_reducible apply Keeps.ite
    | split
    | with_reducible apply Keeps.upd
    | with_reducible apply Fuses.refl
    | ((with_reducible apply Or.inr); with_reducible rfl)
    | ((with_reducible apply Or.inl); exact h _ (by decide))
    | beta_reduce)

theorem State.collJoin_keeps {P : Part → Bool} {s0 : State} (s : State) (g : Nat) (j : Job) (h : Parts P [.out, .free, .now, .ft, .regs, .hbm, .ten, .tra, .mat, .wins, .grps, .xlt, .rte, .lnk, .pwr])
    (hs : Keeps P s0 s) : Keeps P s0 (State.collJoin s g j) := by
  unfold State.collJoin
  repeat' (first
    | with_reducible assumption
    | ((with_reducible apply Parts.mono h); decide)
    | with_reducible apply State.asking_keeps
    | with_reducible apply State.updGrp_keeps
    | with_reducible apply State.groupError_keeps
    | with_reducible apply State.collGo_keeps
    | with_reducible intro _
    | (extract_lets +onlyGivenNames x0; first
        | ((with_reducible refine (have hx0 : Keeps P s0 x0 := ?_; ?_)); (on_goal 2 => clear_value x0); (on_goal 1 => subst x0))
        | clear_value x0)
    | with_reducible apply Keeps.ite
    | with_reducible apply KeepsO.getD
    | split
    | with_reducible apply Keeps.upd
    | with_reducible apply Fuses.refl
    | ((with_reducible apply Or.inr); with_reducible rfl)
    | ((with_reducible apply Or.inl); exact h _ (by decide))
    | beta_reduce)

end Sys2Proof.Machine
end

