-- ==== Sys2Proof/Laws/QuarOps.lean ====
section
/-! SUPPORT. What the operations of Machine/QuarOps.lean keep. -/

set_option linter.unusedTactic false
set_option linter.unreachableTactic false
set_option linter.unusedVariables false

namespace Sys2Proof.Machine

open Sys2Proof

theorem State.syncPacket_keeps {P : Part → Bool} {s0 : State} (s : State) (n : Nat) (type : Nat) (psn : Psn) (id : BitVec 16) (h : Parts P [.regs, .rte])
    (hs : Keeps P s0 s) : Keeps P s0 (State.syncPacket s n type psn id) := by
  unfold State.syncPacket
  repeat' (first
    | with_reducible assumption
    | ((with_reducible apply Parts.mono h); decide)
    | with_reducible apply State.event_keeps
    | with_reducible apply State.inject_keeps
    | with_reducible intro _
    | (extract_lets +onlyGivenNames x0; first
        | ((with_reducible refine (have hx0 : Keeps P s0 x0 := ?_; ?_)); (on_goal 2 => clear_value x0); (on_goal 1 => subst x0))
        | clear_value x0)
    | split
    | with_reducible apply Keeps.upd
    | with_reducible apply Fuses.refl
    | ((with_reducible apply Or.inr); with_reducible rfl)
    | ((with_reducible apply Or.inl); exact h _ (by decide)))

theorem State.syncStart_keeps {P : Part → Bool} {s0 : State} (s : State) (n : Nat) (h : Parts P [.now, .ft, .regs, .tra, .rte, .lnk, .pwr])
    (hs : Keeps P s0 s) : Keeps P s0 (State.syncStart s n) := by
  unfold State.syncStart
  repeat' (first
    | with_reducible assumption
    | ((with_reducible apply Parts.mono h); decide)
    | with_reducible apply State.idle_keeps
    | with_reducible apply State.setNp_keeps
    | with_reducible apply State.syncPacket_keeps
    | with_reducible intro _
    | (extract_lets +onlyGivenNames x0; first
        | ((with_reducible refine (have hx0 : Keeps P s0 x0 := ?_; ?_)); (on_goal 2 => clear_value x0); (on_goal 1 => subst x0))
        | clear_value x0)
    | with_reducible apply Keeps.ite
    | split
    | with_reducible apply Keeps.upd
    | with_reducible apply Fuses.refl
    | ((with_reducible apply Or.inr); with_reducible rfl)
    | ((with_reducible apply Or.inl); exact h _ (by decide)))

theorem State.adminAt_keeps {P : Part → Bool} {s0 : State} (s : State) (c : AdminCmd) (code : Nat) (used : List (Nat × Nat)) (dom : Nat) (body : State → CmdRef → State) (h : Parts P [.regs, .ten, .xlt, .pwr]) (h_body : ∀ a, Keeps P s0 a → ∀ y1, Keeps P s0 (body a y1))
    (hs : Keeps P s0 s) : Keeps P s0 (State.adminAt s c code used dom body) := by
  unfold State.adminAt
  repeat' (first
    | with_reducible assumption
    | ((with_reducible apply Parts.mono h); decide)
    | with_reducible apply h_body
    | with_reducible apply State.adminDone_keeps
    | with_reducible apply State.admin_keeps
    | with_reducible apply State.wake_keeps
    | with_reducible intro _
    | (extract_lets +onlyGivenNames x0; first
        | ((with_reducible refine (have hx0 : Keeps P s0 x0 := ?_; ?_)); (on_goal 2 => clear_value x0); (on_goal 1 => subst x0))
        | clear_value x0)
    | with_reducible apply Keeps.ite
    | split
    | beta_reduce)

end Sys2Proof.Machine
end

