-- ==== Sys2Proof/Laws/Queues.lean ====
section
/-! SUPPORT. What the operations of Machine/Queues.lean keep. -/

set_option linter.unusedTactic false
set_option linter.unreachableTactic false
set_option linter.unusedVariables false

namespace Sys2Proof.Machine

open Sys2Proof

theorem State.dbDrop_keeps {P : Part → Bool} {s0 : State} (s : State) (fn : Nat) (h : Parts P [.ten])
    (hs : Keeps P s0 s) : Keeps P s0 (State.dbDrop s fn) := by
  unfold State.dbDrop
  repeat' (first
    | with_reducible assumption
    | ((with_reducible apply Parts.mono h); decide)
    | with_reducible apply State.setFn_keeps
    | with_reducible intro _
    | (extract_lets +onlyGivenNames x0; first
        | ((with_reducible refine (have hx0 : Keeps P s0 x0 := ?_; ?_)); (on_goal 2 => clear_value x0); (on_goal 1 => subst x0))
        | clear_value x0)
    | split
    | with_reducible apply Keeps.upd
    | with_reducible apply Fuses.refl
    | ((with_reducible apply Or.inr); with_reducible rfl)
    | ((with_reducible apply Or.inl); exact h _ (by decide)))

theorem State.dbRange_keeps {P : Part → Bool} {s0 : State} (s : State) (eq : Nat) (obj : Nat) (w : Word) (h : Parts P [.out, .regs, .ten, .xlt, .pwr])
    (hs : Keeps P s0 s) : Keeps P s0 (State.dbRange s eq obj w) := by
  unfold State.dbRange
  repeat' (first
    | with_reducible assumption
    | ((with_reducible apply Parts.mono h); decide)
    | with_reducible apply State.eqEvent_keeps
    | with_reducible intro _
    | split)

theorem State.dbAdmin_keeps {P : Part → Bool} {s0 : State} (s : State) (fn : Nat) (slot : Nat) (type : Nat) (obj : Nat) (count : Count32) (h : Parts P [.ten])
    (hs : Keeps P s0 s) : Keeps P s0 (State.dbAdmin s fn slot type obj count) := by
  unfold State.dbAdmin
  repeat' (first
    | with_reducible assumption
    | ((with_reducible apply Parts.mono h); decide)
    | with_reducible apply State.setFn_keeps
    | with_reducible apply State.dbDrop_keeps
    | with_reducible intro _
    | (extract_lets +onlyGivenNames x0; first
        | ((with_reducible refine (have hx0 : Keeps P s0 x0 := ?_; ?_)); (on_goal 2 => clear_value x0); (on_goal 1 => subst x0))
        | clear_value x0)
    | with_reducible apply Keeps.ite
    | split
    | with_reducible apply Keeps.upd
    | with_reducible apply Fuses.refl
    | ((with_reducible apply Or.inr); with_reducible rfl)
    | ((with_reducible apply Or.inl); exact h _ (by decide)))

theorem State.rqEntries_keeps {P : Part → Bool} {s0 : State} (s : State) (v : Qp) (c : Count32) (z0 : List RqEnt) (h : Parts P [.out, .regs, .tra, .xlt])
    (hs : Keeps P s0 s) : KeepsP P s0 (State.rqEntries s v c z0) := by
  induction z0 generalizing s c with
  | nil => exact hs
  | cons e es ih =>
    rw [State.rqEntries]
    exact KeepsP.mk (ih _ _ (KeepsP.fst (State.readRange_keeps _ _ _ _ _ (h.mono (by decide)) hs)))


theorem State.rqRead_keeps {P : Part → Bool} {s0 : State} (s : State) (v : Qp) (n : Nat) (fetched : Fetched) (h : Parts P [.out, .regs, .tra, .xlt])
    (hs : Keeps P s0 s) : KeepsP P s0 (State.rqRead s v n fetched) := by
  unfold State.rqRead
  repeat' (first
    | with_reducible assumption
    | ((with_reducible apply Parts.mono h); decide)
    | with_reducible apply State.rqEntries_keeps
    | with_reducible intro _
    | (extract_lets +onlyGivenNames x0; first
        | ((with_reducible refine (have hx0 : Keeps P s0 x0 := ?_; ?_)); (on_goal 2 => clear_value x0); (on_goal 1 => subst x0))
        | ((with_reducible refine (have hx0 : KeepsP P s0 x0 := ?_; ?_)); (on_goal 2 => clear_value x0); (on_goal 1 => subst x0))
        | clear_value x0)
    | with_reducible apply KeepsP.ite
    | with_reducible apply Keeps.ite
    | split
    | with_reducible apply KeepsP.mk
    | (with_reducible apply KeepsP.of_eq (by with_reducible assumption))
    | with_reducible apply KeepsP.fst
    | with_reducible apply Keeps.upd
    | with_reducible apply Fuses.refl
    | ((with_reducible apply Or.inr); with_reducible rfl)
    | ((with_reducible apply Or.inl); exact h _ (by decide))
    | beta_reduce)

theorem State.orHold_keeps {P : Part → Bool} {s0 : State} (s : State) (s' : State) (self : Instr) (h : Parts P [.regs, .xlt, .hst, .pwr]) (hs_s_ : Keeps P s0 s')
    (hs : Keeps P s0 s) : Keeps P s0 (State.orHold s s' self) := by
  unfold State.orHold
  repeat' (first
    | with_reducible assumption
    | ((with_reducible apply Parts.mono h); decide)
    | with_reducible apply State.settle_keeps
    | with_reducible intro _
    | (extract_lets +onlyGivenNames x0; first
        | ((with_reducible refine (have hx0 : Keeps P s0 x0 := ?_; ?_)); (on_goal 2 => clear_value x0); (on_goal 1 => subst x0))
        | clear_value x0)
    | with_reducible apply Keeps.ite
    | split
    | with_reducible apply Keeps.upd
    | with_reducible apply Fuses.refl
    | ((with_reducible apply Or.inr); with_reducible rfl)
    | ((with_reducible apply Or.inl); exact h _ (by decide))
    | beta_reduce)

theorem State.dbQp_keeps {P : Part → Bool} {s0 : State} (s : State) (fn : Nat) (q : Nat) (type : Nat) (w : Word) (fetched : Fetched) (self : Instr) (h : Parts P [.out, .free, .regs, .hbm, .ten, .tra, .mat, .wins, .grps, .xlt, .rte, .hst, .pwr])
    (hs : Keeps P s0 s) : Keeps P s0 (State.dbQp s fn q type w fetched self) := by
  unfold State.dbQp
  repeat' (first
    | with_reducible assumption
    | ((with_reducible apply Parts.mono h); decide)
    | with_reducible apply State.event_keeps
    | with_reducible apply State.updQp_keeps
    | with_reducible apply State.flushRq_keeps
    | with_reducible apply State.qpReap_keeps
    | with_reducible apply State.rqRelease_keeps
    | with_reducible apply State.dbDrop_keeps
    | with_reducible apply State.dbRange_keeps
    | with_reducible apply State.rqRead_keeps
    | with_reducible apply State.orHold_keeps
    | with_reducible intro _
    | (extract_lets +onlyGivenNames x0; first
        | ((with_reducible refine (have hx0 : Keeps P s0 x0 := ?_; ?_)); (on_goal 2 => clear_value x0); (on_goal 1 => subst x0))
        | ((with_reducible refine (have hx0 : KeepsP P s0 x0 := ?_; ?_)); (on_goal 2 => clear_value x0); (on_goal 1 => subst x0))
        | clear_value x0)
    | with_reducible apply Keeps.ite
    | split
    | with_reducible apply KeepsP.mk
    | (with_reducible apply KeepsP.of_eq (by with_reducible assumption))
    | with_reducible apply KeepsP.fst
    | with_reducible apply Keeps.upd
    | with_reducible apply Fuses.refl
    | ((with_reducible apply Or.inr); with_reducible rfl)
    | ((with_reducible apply Or.inl); exact h _ (by decide))
    | beta_reduce)

theorem State.dbCq_keeps {P : Part → Bool} {s0 : State} (s : State) (fn : Nat) (i : Nat) (type : Nat) (w : Word) (h : Parts P [.out, .regs, .ten, .xlt, .pwr])
    (hs : Keeps P s0 s) : Keeps P s0 (State.dbCq s fn i type w) := by
  unfold State.dbCq
  repeat' (first
    | with_reducible assumption
    | ((with_reducible apply Parts.mono h); decide)
    | with_reducible apply State.event_keeps
    | with_reducible apply State.updCq_keeps
    | with_reducible apply State.cqNotify_keeps
    | with_reducible apply State.dbDrop_keeps
    | with_reducible apply State.dbRange_keeps
    | with_reducible intro _
    | (extract_lets +onlyGivenNames x0; first
        | ((with_reducible refine (have hx0 : Keeps P s0 x0 := ?_; ?_)); (on_goal 2 => clear_value x0); (on_goal 1 => subst x0))
        | clear_value x0)
    | with_reducible apply Keeps.ite
    | split
    | with_reducible apply Keeps.upd
    | with_reducible apply Fuses.refl
    | ((with_reducible apply Or.inr); with_reducible rfl)
    | ((with_reducible apply Or.inl); exact h _ (by decide))
    | beta_reduce)

theorem State.dbEq_keeps {P : Part → Bool} {s0 : State} (s : State) (fn : Nat) (i : Nat) (type : Nat) (w : Word) (h : Parts P [.out, .regs, .ten, .xlt, .pwr])
    (hs : Keeps P s0 s) : Keeps P s0 (State.dbEq s fn i type w) := by
  unfold State.dbEq
  repeat' (first
    | with_reducible assumption
    | ((with_reducible apply Parts.mono h); decide)
    | with_reducible apply State.event_keeps
    | with_reducible apply State.updEq_keeps
    | with_reducible apply State.eqFlush_keeps
    | with_reducible apply State.dbDrop_keeps
    | with_reducible apply State.dbRange_keeps
    | with_reducible intro _
    | (extract_lets +onlyGivenNames x0; first
        | ((with_reducible refine (have hx0 : Keeps P s0 x0 := ?_; ?_)); (on_goal 2 => clear_value x0); (on_goal 1 => subst x0))
        | clear_value x0)
    | split
    | with_reducible apply Keeps.upd
    | with_reducible apply Fuses.refl
    | ((with_reducible apply Or.inr); with_reducible rfl)
    | ((with_reducible apply Or.inl); exact h _ (by decide))
    | beta_reduce)

theorem State.doorbell_keeps {P : Part → Bool} {s0 : State} (s : State) (type : Nat) (fn : Nat) (off : Nat) (size : Nat) (w : Word) (fetched : Fetched) (self : Instr) (h : Parts P [.out, .free, .regs, .hbm, .ten, .tra, .mat, .wins, .grps, .xlt, .rte, .hst, .pwr])
    (hs : Keeps P s0 s) : Keeps P s0 (State.doorbell s type fn off size w fetched self) := by
  unfold State.doorbell
  repeat' (first
    | with_reducible assumption
    | ((with_reducible apply Parts.mono h); decide)
    | with_reducible apply State.wake_keeps
    | with_reducible apply State.dbDrop_keeps
    | with_reducible apply State.dbAdmin_keeps
    | with_reducible apply State.dbQp_keeps
    | with_reducible apply State.dbCq_keeps
    | with_reducible apply State.dbEq_keeps
    | with_reducible intro _
    | (extract_lets +onlyGivenNames x0; first
        | ((with_reducible refine (have hx0 : Keeps P s0 x0 := ?_; ?_)); (on_goal 2 => clear_value x0); (on_goal 1 => subst x0))
        | clear_value x0)
    | with_reducible apply Keeps.ite
    | split
    | with_reducible apply Keeps.upd
    | with_reducible apply Fuses.refl
    | ((with_reducible apply Or.inr); with_reducible rfl)
    | ((with_reducible apply Or.inl); exact h _ (by decide)))

theorem execDoorbellSqProducer_keeps {P : Part → Bool} {s0 : State} (fn : Nat) (off : Nat) (size : Nat) (w : Word) (s : State) (h : Parts P [.out, .free, .regs, .hbm, .ten, .tra, .mat, .wins, .grps, .xlt, .rte, .hst, .pwr])
    (hs : Keeps P s0 s) : KeepsR P s0 (execDoorbellSqProducer fn off size w s) := by
  unfold execDoorbellSqProducer
  repeat' (first
    | with_reducible assumption
    | ((with_reducible apply Parts.mono h); decide)
    | with_reducible apply State.doorbell_keeps
    | with_reducible apply KeepsR.next
    | with_reducible intro _
    | split)

theorem execDoorbellRqProducer_keeps {P : Part → Bool} {s0 : State} (fn : Nat) (off : Nat) (size : Nat) (w : Word) (entries : Fetched) (s : State) (h : Parts P [.out, .free, .regs, .hbm, .ten, .tra, .mat, .wins, .grps, .xlt, .rte, .hst, .pwr])
    (hs : Keeps P s0 s) : KeepsR P s0 (execDoorbellRqProducer fn off size w entries s) := by
  unfold execDoorbellRqProducer
  repeat' (first
    | with_reducible assumption
    | ((with_reducible apply Parts.mono h); decide)
    | with_reducible apply State.doorbell_keeps
    | with_reducible apply KeepsR.next
    | with_reducible intro _
    | split)

theorem execDoorbellCqConsumer_keeps {P : Part → Bool} {s0 : State} (fn : Nat) (off : Nat) (size : Nat) (w : Word) (s : State) (h : Parts P [.out, .free, .regs, .hbm, .ten, .tra, .mat, .wins, .grps, .xlt, .rte, .hst, .pwr])
    (hs : Keeps P s0 s) : KeepsR P s0 (execDoorbellCqConsumer fn off size w s) := by
  unfold execDoorbellCqConsumer
  repeat' (first
    | with_reducible assumption
    | ((with_reducible apply Parts.mono h); decide)
    | with_reducible apply State.doorbell_keeps
    | with_reducible apply KeepsR.next
    | with_reducible intro _
    | split)

theorem execDoorbellCqArm_keeps {P : Part → Bool} {s0 : State} (fn : Nat) (off : Nat) (size : Nat) (w : Word) (s : State) (h : Parts P [.out, .free, .regs, .hbm, .ten, .tra, .mat, .wins, .grps, .xlt, .rte, .hst, .pwr])
    (hs : Keeps P s0 s) : KeepsR P s0 (execDoorbellCqArm fn off size w s) := by
  unfold execDoorbellCqArm
  repeat' (first
    | with_reducible assumption
    | ((with_reducible apply Parts.mono h); decide)
    | with_reducible apply State.doorbell_keeps
    | with_reducible apply KeepsR.next
    | with_reducible intro _
    | split)

theorem execDoorbellCqArmSolicited_keeps {P : Part → Bool} {s0 : State} (fn : Nat) (off : Nat) (size : Nat) (w : Word) (s : State) (h : Parts P [.out, .free, .regs, .hbm, .ten, .tra, .mat, .wins, .grps, .xlt, .rte, .hst, .pwr])
    (hs : Keeps P s0 s) : KeepsR P s0 (execDoorbellCqArmSolicited fn off size w s) := by
  unfold execDoorbellCqArmSolicited
  repeat' (first
    | with_reducible assumption
    | ((with_reducible apply Parts.mono h); decide)
    | with_reducible apply State.doorbell_keeps
    | with_reducible apply KeepsR.next
    | with_reducible intro _
    | split)

theorem execDoorbellEqConsumer_keeps {P : Part → Bool} {s0 : State} (fn : Nat) (off : Nat) (size : Nat) (w : Word) (s : State) (h : Parts P [.out, .free, .regs, .hbm, .ten, .tra, .mat, .wins, .grps, .xlt, .rte, .hst, .pwr])
    (hs : Keeps P s0 s) : KeepsR P s0 (execDoorbellEqConsumer fn off size w s) := by
  unfold execDoorbellEqConsumer
  repeat' (first
    | with_reducible assumption
    | ((with_reducible apply Parts.mono h); decide)
    | with_reducible apply State.doorbell_keeps
    | with_reducible apply KeepsR.next
    | with_reducible intro _
    | split)

theorem execDoorbellEqArm_keeps {P : Part → Bool} {s0 : State} (fn : Nat) (off : Nat) (size : Nat) (w : Word) (s : State) (h : Parts P [.out, .free, .regs, .hbm, .ten, .tra, .mat, .wins, .grps, .xlt, .rte, .hst, .pwr])
    (hs : Keeps P s0 s) : KeepsR P s0 (execDoorbellEqArm fn off size w s) := by
  unfold execDoorbellEqArm
  repeat' (first
    | with_reducible assumption
    | ((with_reducible apply Parts.mono h); decide)
    | with_reducible apply State.doorbell_keeps
    | with_reducible apply KeepsR.next
    | with_reducible intro _
    | split)

theorem State.aperture_keeps {P : Part → Bool} {s0 : State} (s : State) (fn : Nat) (off : Nat) (data : List Byte) (h : Parts P [.regs, .hbm, .hst, .pwr])
    (hs : Keeps P s0 s) : Keeps P s0 (State.aperture s fn off data) := by
  unfold State.aperture
  repeat' (first
    | with_reducible assumption
    | ((with_reducible apply Parts.mono h); decide)
    | with_reducible apply State.hbmWrite_keeps
    | with_reducible apply State.wakeOne_keeps
    | with_reducible intro _
    | (extract_lets +onlyGivenNames x0; first
        | ((with_reducible refine (have hx0 : Keeps P s0 x0 := ?_; ?_)); (on_goal 2 => clear_value x0); (on_goal 1 => subst x0))
        | clear_value x0)
    | with_reducible apply Keeps.ite
    | split
    | with_reducible apply Keeps.upd
    | with_reducible apply Fuses.refl
    | ((with_reducible apply Or.inr); with_reducible rfl)
    | ((with_reducible apply Or.inl); exact h _ (by decide))
    | beta_reduce)

theorem execRingApertureWrite_keeps {P : Part → Bool} {s0 : State} (fn : Nat) (off : Nat) (data : List Byte) (s : State) (h : Parts P [.regs, .hbm, .hst, .pwr])
    (hs : Keeps P s0 s) : KeepsR P s0 (execRingApertureWrite fn off data s) := by
  unfold execRingApertureWrite
  repeat' (first
    | with_reducible assumption
    | ((with_reducible apply Parts.mono h); decide)
    | with_reducible apply State.aperture_keeps
    | with_reducible apply KeepsR.next
    | with_reducible intro _
    | split)

theorem State.serveHeld_keeps {P : Part → Bool} {s0 : State} (s : State) (z0 : Instr) (h : Parts P [.out, .free, .regs, .hbm, .ten, .tra, .mat, .wins, .grps, .xlt, .rte, .hst, .pwr])
    (hs : Keeps P s0 s) : Keeps P s0 (State.serveHeld s z0) := by
  unfold State.serveHeld
  repeat' (first
    | with_reducible assumption
    | ((with_reducible apply Parts.mono h); decide)
    | with_reducible apply State.doorbell_keeps
    | with_reducible apply State.aperture_keeps
    | with_reducible intro _
    | split)

theorem State.serveAllHeld_keeps {P : Part → Bool} {s0 : State} (s : State) (h : Parts P [.out, .free, .regs, .hbm, .ten, .tra, .mat, .wins, .grps, .xlt, .rte, .hst, .pwr])
    (hs : Keeps P s0 s) : Keeps P s0 (State.serveAllHeld s) := by
  unfold State.serveAllHeld
  repeat' (first
    | with_reducible assumption
    | ((with_reducible apply Parts.mono h); decide)
    | with_reducible apply State.serveHeld_keeps
    | with_reducible apply foldl_keeps
    | with_reducible apply foldl_keepsP
    | with_reducible intro _
    | (extract_lets +onlyGivenNames x0; first
        | ((with_reducible refine (have hx0 : Keeps P s0 x0 := ?_; ?_)); (on_goal 2 => clear_value x0); (on_goal 1 => subst x0))
        | ((with_reducible refine (have hx0 : KeepsP P s0 x0 := ?_; ?_)); (on_goal 2 => clear_value x0); (on_goal 1 => subst x0))
        | clear_value x0)
    | split
    | with_reducible apply KeepsP.mk
    | (with_reducible apply KeepsP.of_eq (by with_reducible assumption))
    | with_reducible apply KeepsP.fst
    | with_reducible apply Keeps.upd
    | with_reducible apply Fuses.refl
    | ((with_reducible apply Or.inr); with_reducible rfl)
    | ((with_reducible apply Or.inl); exact h _ (by decide))
    | beta_reduce)

theorem State.netStart_keeps {P : Part → Bool} {s0 : State} (s : State) (q : Nat) (v : Qp) (j : Job) (n : Nat) (h : Parts P [.now, .ft, .regs, .ten, .tra, .wins, .rte, .lnk, .pwr])
    (hs : Keeps P s0 s) : Keeps P s0 (State.netStart s q v j n) := by
  unfold State.netStart
  repeat' (first
    | with_reducible assumption
    | ((with_reducible apply Parts.mono h); decide)
    | with_reducible apply State.updQp_keeps
    | with_reducible apply State.updFlow_keeps
    | with_reducible apply State.syncStart_keeps
    | with_reducible intro _
    | (extract_lets +onlyGivenNames x0; first
        | ((with_reducible refine (have hx0 : Keeps P s0 x0 := ?_; ?_)); (on_goal 2 => clear_value x0); (on_goal 1 => subst x0))
        | clear_value x0)
    | with_reducible apply Keeps.ite
    | split
    | with_reducible apply Keeps.upd
    | with_reducible apply Fuses.refl
    | ((with_reducible apply Or.inr); with_reducible rfl)
    | ((with_reducible apply Or.inl); exact h _ (by decide))
    | beta_reduce)

theorem State.startJob_keeps {P : Part → Bool} {s0 : State} (s : State) (q : Nat) (v : Qp) (j : Job) (h : Parts P [.out, .free, .now, .ft, .regs, .hbm, .ten, .tra, .mat, .wins, .grps, .xlt, .rte, .lnk, .pwr])
    (hs : Keeps P s0 s) : Keeps P s0 (State.startJob s q v j) := by
  unfold State.startJob
  repeat' (first
    | with_reducible assumption
    | ((with_reducible apply Parts.mono h); decide)
    | with_reducible apply State.event_keeps
    | with_reducible apply State.asking_keeps
    | with_reducible apply State.updQp_keeps
    | with_reducible apply State.finish_keeps
    | with_reducible apply State.updGrp_keeps
    | with_reducible apply State.jobFail_keeps
    | with_reducible apply State.copyStep_keeps
    | with_reducible apply State.collJoin_keeps
    | with_reducible apply State.netStart_keeps
    | with_reducible intro _
    | (extract_lets +onlyGivenNames x0; first
        | ((with_reducible refine (have hx0 : Keeps P s0 x0 := ?_; ?_)); (on_goal 2 => clear_value x0); (on_goal 1 => subst x0))
        | clear_value x0)
    | with_reducible apply Keeps.ite
    | with_reducible apply KeepsO.getD
    | split
    | with_reducible apply Keeps.upd
    | with_reducible apply Fuses.refl
    | ((with_reducible apply Or.inr); with_reducible rfl)
    | ((with_reducible apply Or.inl); exact h _ (by decide))
    | beta_reduce)

theorem State.sqEntries_keeps {P : Part → Bool} {s0 : State} (s : State) (v : Qp) (c : Count32) (z0 : List Words8) (h : Parts P [.out, .regs, .tra, .xlt])
    (hs : Keeps P s0 s) : KeepsP P s0 (State.sqEntries s v c z0) := by
  induction z0 generalizing s c with
  | nil => exact hs
  | cons e es ih =>
    rw [State.sqEntries]
    have hk := KeepsP.fst (State.readRange_keeps s v.fn v.asid (v.sqBase + 64 * slotOf c v.sqLog) 64 (h.mono (by decide)) hs)
    refine KeepsP.ite ?_ ?_
    · exact KeepsP.mk (ih _ _ hk)
    · exact KeepsP.mk hk


theorem State.sqRead_keeps {P : Part → Bool} {s0 : State} (s : State) (v : Qp) (fetched : Fetched) (h : Parts P [.out, .regs, .tra, .xlt])
    (hs : Keeps P s0 s) : KeepsP P s0 (State.sqRead s v fetched) := by
  unfold State.sqRead
  extract_lets n
  refine KeepsP.ite ?_ ?_
  · exact KeepsP.mk hs
  · split
    · exact State.sqEntries_keeps _ _ _ _ h hs
    · exact KeepsP.mk (KeepsP.fst (State.readRange_keeps _ _ _ _ _ (h.mono (by decide)) hs))


theorem State.pushEnded_keeps {P : Part → Bool} {s0 : State} (s : State) (q : Nat) (j : Job) (h : Parts P [.ten])
    (hs : Keeps P s0 s) : Keeps P s0 (State.pushEnded s q j) := by
  unfold State.pushEnded
  repeat' (first
    | with_reducible assumption
    | ((with_reducible apply Parts.mono h); decide)
    | with_reducible apply State.updQp_keeps
    | with_reducible apply State.retireAll_keeps
    | with_reducible intro _
    | (extract_lets +onlyGivenNames x0; first
        | ((with_reducible refine (have hx0 : Keeps P s0 x0 := ?_; ?_)); (on_goal 2 => clear_value x0); (on_goal 1 => subst x0))
        | clear_value x0)
    | split
    | with_reducible apply Keeps.upd
    | with_reducible apply Fuses.refl
    | ((with_reducible apply Or.inr); with_reducible rfl)
    | ((with_reducible apply Or.inl); exact h _ (by decide))
    | beta_reduce)

theorem State.jobNext_keeps {P : Part → Bool} {s0 : State} (s : State) (q : Nat) (v : Qp) (avail : Nat) (fetched : Fetched) (h : Parts P [.out, .free, .now, .ft, .regs, .hbm, .ten, .tra, .mat, .wins, .grps, .xlt, .rte, .lnk, .pwr])
    (hs : Keeps P s0 s) : Keeps P s0 (State.jobNext s q v avail fetched) := by
  unfold State.jobNext
  repeat' (first
    | with_reducible assumption
    | ((with_reducible apply Parts.mono h); decide)
    | with_reducible apply State.qpFail_keeps
    | with_reducible apply State.startJob_keeps
    | with_reducible apply State.sqRead_keeps
    | with_reducible apply State.pushEnded_keeps
    | with_reducible intro _
    | (extract_lets +onlyGivenNames x0; first
        | ((with_reducible refine (have hx0 : Keeps P s0 x0 := ?_; ?_)); (on_goal 2 => clear_value x0); (on_goal 1 => subst x0))
        | ((with_reducible refine (have hx0 : KeepsP P s0 x0 := ?_; ?_)); (on_goal 2 => clear_value x0); (on_goal 1 => subst x0))
        | clear_value x0)
    | with_reducible apply Keeps.ite
    | split
    | with_reducible apply KeepsP.mk
    | (with_reducible apply KeepsP.of_eq (by with_reducible assumption))
    | with_reducible apply KeepsP.fst
    | with_reducible apply Keeps.upd
    | with_reducible apply Fuses.refl
    | ((with_reducible apply Or.inr); with_reducible rfl)
    | ((with_reducible apply Or.inl); exact h _ (by decide)))

theorem State.flushNext_keeps {P : Part → Bool} {s0 : State} (s : State) (q : Nat) (v : Qp) (avail : Nat) (fetched : Fetched) (h : Parts P [.out, .regs, .ten, .tra, .mat, .xlt, .pwr])
    (hs : Keeps P s0 s) : Keeps P s0 (State.flushNext s q v avail fetched) := by
  unfold State.flushNext
  repeat' (first
    | with_reducible assumption
    | ((with_reducible apply Parts.mono h); decide)
    | with_reducible apply State.updQp_keeps
    | with_reducible apply State.qpReap_keeps
    | with_reducible apply State.sqRead_keeps
    | with_reducible apply State.pushEnded_keeps
    | with_reducible intro _
    | (extract_lets +onlyGivenNames x0; first
        | ((with_reducible refine (have hx0 : Keeps P s0 x0 := ?_; ?_)); (on_goal 2 => clear_value x0); (on_goal 1 => subst x0))
        | ((with_reducible refine (have hx0 : KeepsP P s0 x0 := ?_; ?_)); (on_goal 2 => clear_value x0); (on_goal 1 => subst x0))
        | ((with_reducible have _x0 : _ → _ := x0); clear _x0; subst x0; beta_reduce)
        | clear_value x0)
    | with_reducible apply Keeps.ite
    | with_reducible apply KeepsO.getD
    | split
    | with_reducible apply KeepsP.mk
    | (with_reducible apply KeepsP.of_eq (by with_reducible assumption))
    | with_reducible apply KeepsP.fst
    | with_reducible apply Keeps.upd
    | with_reducible apply Fuses.refl
    | ((with_reducible apply Or.inr); with_reducible rfl)
    | ((with_reducible apply Or.inl); exact h _ (by decide))
    | beta_reduce)

theorem execJobStart_keeps {P : Part → Bool} {s0 : State} (qp : Nat) (fetched : Fetched) (s : State) (h : Parts P [.out, .free, .now, .ft, .regs, .hbm, .ten, .tra, .mat, .wins, .grps, .xlt, .rte, .lnk, .pwr])
    (hs : Keeps P s0 s) : KeepsR P s0 (execJobStart qp fetched s) := by
  unfold execJobStart
  repeat' (first
    | with_reducible assumption
    | ((with_reducible apply Parts.mono h); decide)
    | with_reducible apply State.asking_keeps
    | with_reducible apply State.jobNext_keeps
    | with_reducible apply State.flushNext_keeps
    | with_reducible apply KeepsR.next
    | with_reducible intro _
    | (extract_lets +onlyGivenNames x0; first
        | ((with_reducible refine (have hx0 : Keeps P s0 x0 := ?_; ?_)); (on_goal 2 => clear_value x0); (on_goal 1 => subst x0))
        | clear_value x0)
    | with_reducible apply KeepsR.ite
    | with_reducible apply Keeps.ite
    | split
    | with_reducible apply Keeps.upd
    | with_reducible apply Fuses.refl
    | ((with_reducible apply Or.inr); with_reducible rfl)
    | ((with_reducible apply Or.inl); exact h _ (by decide))
    | beta_reduce)

theorem State.completionWrite_keeps {P : Part → Bool} {s0 : State} (s : State) (i : Nat) (h : Parts P [.out, .free, .regs, .ten, .tra, .mat, .wins, .grps, .xlt, .rte, .pwr])
    (hs : Keeps P s0 s) : Keeps P s0 (State.completionWrite s i) := by
  unfold State.completionWrite
  repeat' (first
    | with_reducible assumption
    | ((with_reducible apply Parts.mono h); decide)
    | with_reducible apply State.translate_keeps
    | with_reducible apply State.hostPut_keeps
    | with_reducible apply State.updCq_keeps
    | with_reducible apply State.freeSq_keeps
    | with_reducible apply State.cqNotify_keeps
    | with_reducible apply State.cqError_keeps
    | with_reducible apply State.reapAll_keeps
    | with_reducible intro _
    | (extract_lets +onlyGivenNames x0; first
        | ((with_reducible refine (have hx0 : Keeps P s0 x0 := ?_; ?_)); (on_goal 2 => clear_value x0); (on_goal 1 => subst x0))
        | ((with_reducible refine (have hx0 : KeepsP P s0 x0 := ?_; ?_)); (on_goal 2 => clear_value x0); (on_goal 1 => subst x0))
        | clear_value x0)
    | with_reducible apply Keeps.ite
    | split
    | with_reducible apply KeepsP.mk
    | (with_reducible apply KeepsP.of_eq (by with_reducible assumption))
    | with_reducible apply KeepsP.fst
    | with_reducible apply Keeps.upd
    | with_reducible apply Fuses.refl
    | ((with_reducible apply Or.inr); with_reducible rfl)
    | ((with_reducible apply Or.inl); exact h _ (by decide))
    | beta_reduce)

theorem execCompletionWrite_keeps {P : Part → Bool} {s0 : State} (cq : Nat) (s : State) (h : Parts P [.out, .free, .regs, .ten, .tra, .mat, .wins, .grps, .xlt, .rte, .pwr])
    (hs : Keeps P s0 s) : KeepsR P s0 (execCompletionWrite cq s) := by
  unfold execCompletionWrite
  repeat' (first
    | with_reducible assumption
    | ((with_reducible apply Parts.mono h); decide)
    | with_reducible apply State.asking_keeps
    | with_reducible apply State.completionWrite_keeps
    | with_reducible apply KeepsR.next
    | with_reducible intro _
    | split
    | beta_reduce)

theorem execCqStallTimeout_keeps {P : Part → Bool} {s0 : State} (cq : Nat) (s : State) (h : Parts P [.out, .free, .now, .ft, .regs, .ten, .tra, .mat, .wins, .grps, .xlt, .rte, .lnk, .pwr])
    (hs : Keeps P s0 s) : KeepsR P s0 (execCqStallTimeout cq s) := by
  unfold execCqStallTimeout
  repeat' (first
    | with_reducible assumption
    | ((with_reducible apply Parts.mono h); decide)
    | with_reducible apply State.passTo_keeps
    | with_reducible apply State.cqError_keeps
    | with_reducible apply KeepsR.next
    | with_reducible intro _
    | (extract_lets +onlyGivenNames x0; first
        | ((with_reducible refine (have hx0 : Keeps P s0 x0 := ?_; ?_)); (on_goal 2 => clear_value x0); (on_goal 1 => subst x0))
        | clear_value x0)
    | with_reducible apply KeepsR.ite
    | with_reducible apply Keeps.ite
    | split
    | with_reducible apply Keeps.upd
    | with_reducible apply Fuses.refl
    | ((with_reducible apply Or.inr); with_reducible rfl)
    | ((with_reducible apply Or.inl); exact h _ (by decide)))

theorem State.drained_keeps {P : Part → Bool} {s0 : State} (s : State) (q : Nat) (v : Qp) (forced : Bool) (h : Parts P [.out, .regs, .ten, .xlt, .pwr])
    (hs : Keeps P s0 s) : Keeps P s0 (State.drained s q v forced) := by
  unfold State.drained
  repeat' (first
    | with_reducible assumption
    | ((with_reducible apply Parts.mono h); decide)
    | with_reducible apply State.eqEvent_keeps
    | with_reducible apply State.updQp_keeps
    | with_reducible intro _
    | (extract_lets +onlyGivenNames x0; first
        | ((with_reducible refine (have hx0 : Keeps P s0 x0 := ?_; ?_)); (on_goal 2 => clear_value x0); (on_goal 1 => subst x0))
        | clear_value x0)
    | with_reducible apply Keeps.ite
    | split
    | with_reducible apply Keeps.upd
    | with_reducible apply Fuses.refl
    | ((with_reducible apply Or.inr); with_reducible rfl)
    | ((with_reducible apply Or.inl); exact h _ (by decide))
    | beta_reduce)

theorem execQpDrainEnd_keeps {P : Part → Bool} {s0 : State} (qp : Nat) (s : State) (h : Parts P [.out, .regs, .ten, .xlt, .pwr])
    (hs : Keeps P s0 s) : KeepsR P s0 (execQpDrainEnd qp s) := by
  unfold execQpDrainEnd
  repeat' (first
    | with_reducible assumption
    | ((with_reducible apply Parts.mono h); decide)
    | with_reducible apply State.drained_keeps
    | with_reducible apply KeepsR.next
    | with_reducible intro _
    | (extract_lets +onlyGivenNames x0; first
        | ((with_reducible refine (have hx0 : Keeps P s0 x0 := ?_; ?_)); (on_goal 2 => clear_value x0); (on_goal 1 => subst x0))
        | clear_value x0)
    | with_reducible apply KeepsR.ite
    | with_reducible apply Keeps.ite
    | split
    | with_reducible apply Keeps.upd
    | with_reducible apply Fuses.refl
    | ((with_reducible apply Or.inr); with_reducible rfl)
    | ((with_reducible apply Or.inl); exact h _ (by decide)))

theorem execQpDrainTimeout_keeps {P : Part → Bool} {s0 : State} (qp : Nat) (s : State) (h : Parts P [.out, .now, .ft, .regs, .ten, .tra, .wins, .xlt, .rte, .lnk, .pwr])
    (hs : Keeps P s0 s) : KeepsR P s0 (execQpDrainTimeout qp s) := by
  unfold execQpDrainTimeout
  repeat' (first
    | with_reducible assumption
    | ((with_reducible apply Parts.mono h); decide)
    | with_reducible apply State.passTo_keeps
    | with_reducible apply State.finish_keeps
    | with_reducible apply State.dropTrap_keeps
    | with_reducible apply State.answerTrap_keeps
    | with_reducible apply State.drained_keeps
    | with_reducible apply KeepsR.next
    | with_reducible apply foldl_keeps
    | with_reducible apply foldl_keepsP
    | with_reducible intro _
    | (extract_lets +onlyGivenNames x0; first
        | ((with_reducible refine (have hx0 : Keeps P s0 x0 := ?_; ?_)); (on_goal 2 => clear_value x0); (on_goal 1 => subst x0))
        | ((with_reducible refine (have hx0 : KeepsP P s0 x0 := ?_; ?_)); (on_goal 2 => clear_value x0); (on_goal 1 => subst x0))
        | clear_value x0)
    | with_reducible apply KeepsR.ite
    | with_reducible apply Keeps.ite
    | split
    | with_reducible apply KeepsP.mk
    | (with_reducible apply KeepsP.of_eq (by with_reducible assumption))
    | with_reducible apply KeepsP.fst
    | with_reducible apply Keeps.upd
    | with_reducible apply Fuses.refl
    | ((with_reducible apply Or.inr); with_reducible rfl)
    | ((with_reducible apply Or.inl); exact h _ (by decide))
    | beta_reduce)

theorem State.cqDrained_keeps {P : Part → Bool} {s0 : State} (s : State) (i : Nat) (h : Parts P [.ten])
    (hs : Keeps P s0 s) : Keeps P s0 (State.cqDrained s i) := by
  unfold State.cqDrained
  repeat' (first
    | with_reducible assumption
    | ((with_reducible apply Parts.mono h); decide)
    | with_reducible apply State.updCq_keeps
    | with_reducible intro _
    | (extract_lets +onlyGivenNames x0; first
        | ((with_reducible refine (have hx0 : Keeps P s0 x0 := ?_; ?_)); (on_goal 2 => clear_value x0); (on_goal 1 => subst x0))
        | clear_value x0)
    | with_reducible apply Keeps.ite
    | split
    | with_reducible apply Keeps.upd
    | with_reducible apply Fuses.refl
    | ((with_reducible apply Or.inr); with_reducible rfl)
    | ((with_reducible apply Or.inl); exact h _ (by decide))
    | beta_reduce)

theorem execCqDrainEnd_keeps {P : Part → Bool} {s0 : State} (cq : Nat) (s : State) (h : Parts P [.ten])
    (hs : Keeps P s0 s) : KeepsR P s0 (execCqDrainEnd cq s) := by
  unfold execCqDrainEnd
  repeat' (first
    | with_reducible assumption
    | ((with_reducible apply Parts.mono h); decide)
    | with_reducible apply State.cqDrained_keeps
    | with_reducible apply KeepsR.next
    | with_reducible intro _
    | (extract_lets +onlyGivenNames x0; first
        | ((with_reducible refine (have hx0 : Keeps P s0 x0 := ?_; ?_)); (on_goal 2 => clear_value x0); (on_goal 1 => subst x0))
        | clear_value x0)
    | with_reducible apply KeepsR.ite
    | with_reducible apply Keeps.ite
    | split
    | with_reducible apply Keeps.upd
    | with_reducible apply Fuses.refl
    | ((with_reducible apply Or.inr); with_reducible rfl)
    | ((with_reducible apply Or.inl); exact h _ (by decide)))

theorem execCqDrainTimeout_keeps {P : Part → Bool} {s0 : State} (cq : Nat) (s : State) (h : Parts P [.now, .ft, .regs, .ten, .lnk, .pwr])
    (hs : Keeps P s0 s) : KeepsR P s0 (execCqDrainTimeout cq s) := by
  unfold execCqDrainTimeout
  repeat' (first
    | with_reducible assumption
    | ((with_reducible apply Parts.mono h); decide)
    | with_reducible apply State.passTo_keeps
    | with_reducible apply State.cqDrained_keeps
    | with_reducible apply KeepsR.next
    | with_reducible intro _
    | (extract_lets +onlyGivenNames x0; first
        | ((with_reducible refine (have hx0 : Keeps P s0 x0 := ?_; ?_)); (on_goal 2 => clear_value x0); (on_goal 1 => subst x0))
        | clear_value x0)
    | with_reducible apply KeepsR.ite
    | with_reducible apply Keeps.ite
    | split
    | with_reducible apply Keeps.upd
    | with_reducible apply Fuses.refl
    | ((with_reducible apply Or.inr); with_reducible rfl)
    | ((with_reducible apply Or.inl); exact h _ (by decide)))

theorem execQpQuarantineEnd_keeps {P : Part → Bool} {s0 : State} (qp : Nat) (s : State) (h : Parts P [.now, .ft, .regs, .ten, .tra, .mat, .wins, .xlt, .rte, .lnk, .pwr])
    (hs : Keeps P s0 s) : KeepsR P s0 (execQpQuarantineEnd qp s) := by
  unfold execQpQuarantineEnd
  repeat' (first
    | with_reducible assumption
    | ((with_reducible apply Parts.mono h); decide)
    | with_reducible apply State.passTo_keeps
    | with_reducible apply State.giveUpResps_keeps
    | with_reducible apply KeepsR.next
    | with_reducible intro _
    | (extract_lets +onlyGivenNames x0; first
        | ((with_reducible refine (have hx0 : Keeps P s0 x0 := ?_; ?_)); (on_goal 2 => clear_value x0); (on_goal 1 => subst x0))
        | clear_value x0)
    | with_reducible apply KeepsR.ite
    | with_reducible apply Keeps.ite
    | split
    | with_reducible apply Keeps.upd
    | with_reducible apply Fuses.refl
    | ((with_reducible apply Or.inr); with_reducible rfl)
    | ((with_reducible apply Or.inl); exact h _ (by decide))
    | beta_reduce)

end Sys2Proof.Machine
end

