-- ==== Sys2Proof/Laws/Admin.lean ====
section
/-! SUPPORT. What the operations of Machine/Admin.lean keep. -/

set_option linter.unusedTactic false
set_option linter.unreachableTactic false
set_option linter.unusedVariables false

namespace Sys2Proof.Machine

open Sys2Proof

theorem State.adminWrite_keeps {P : Part → Bool} {s0 : State} (s : State) (fn : Nat) (off : Nat) (enable : Fld) (base : Fld) (log : Fld) (val : Word) (start : State → State) (hold : Bool → State → State) (h : Parts P [.now, .regs]) (h_start : ∀ a, Keeps P s0 a → Keeps P s0 (start a)) (h_hold : ∀ a, Keeps P s0 a → ∀ y0, Keeps P s0 (hold y0 a))
    (hs : Keeps P s0 s) : Keeps P s0 (State.adminWrite s fn off enable base log val start hold) := by
  unfold State.adminWrite
  repeat' (first
    | with_reducible assumption
    | ((with_reducible apply Parts.mono h); decide)
    | with_reducible apply h_start
    | with_reducible apply h_hold
    | with_reducible apply State.wrF_keeps
    | with_reducible apply State.wrFs_keeps
    | with_reducible intro _
    | (extract_lets +onlyGivenNames x0; first
        | ((with_reducible refine (have hx0 : Keeps P s0 x0 := ?_; ?_)); (on_goal 2 => clear_value x0); (on_goal 1 => subst x0))
        | clear_value x0)
    | with_reducible apply Keeps.ite
    | split)

theorem execAdminSqEnable_keeps {P : Part → Bool} {s0 : State} (rid : Nat) (fn : Nat) (val : Word) (s : State) (h : Parts P [.now, .regs, .ten])
    (hs : Keeps P s0 s) : KeepsR P s0 (execAdminSqEnable rid fn val s) := by
  unfold execAdminSqEnable
  repeat' (first
    | with_reducible assumption
    | ((with_reducible apply Parts.mono h); decide)
    | with_reducible apply State.setFn_keeps
    | with_reducible apply State.viaReg_keeps
    | with_reducible apply State.adminWrite_keeps
    | with_reducible apply KeepsR.next
    | with_reducible intro _
    | (extract_lets +onlyGivenNames x0; first
        | ((with_reducible refine (have hx0 : Keeps P s0 x0 := ?_; ?_)); (on_goal 2 => clear_value x0); (on_goal 1 => subst x0))
        | clear_value x0)
    | with_reducible apply KeepsR.ite
    | with_reducible apply Keeps.ite
    | split
    | with_reducible apply Keeps.upd
    | with_reducible apply Fuses.refl
    | ((with_reducible apply Or.inr); with_reducible rfl)
    | ((with_reducible apply Or.inl); exact h _ (by decide))
    | beta_reduce)

theorem execAdminCqEnable_keeps {P : Part → Bool} {s0 : State} (rid : Nat) (fn : Nat) (val : Word) (s : State) (h : Parts P [.now, .regs, .ten])
    (hs : Keeps P s0 s) : KeepsR P s0 (execAdminCqEnable rid fn val s) := by
  unfold execAdminCqEnable
  repeat' (first
    | with_reducible assumption
    | ((with_reducible apply Parts.mono h); decide)
    | with_reducible apply State.setFn_keeps
    | with_reducible apply State.viaReg_keeps
    | with_reducible apply State.adminWrite_keeps
    | with_reducible apply KeepsR.next
    | with_reducible intro _
    | (extract_lets +onlyGivenNames x0; first
        | ((with_reducible refine (have hx0 : Keeps P s0 x0 := ?_; ?_)); (on_goal 2 => clear_value x0); (on_goal 1 => subst x0))
        | clear_value x0)
    | with_reducible apply KeepsR.ite
    | with_reducible apply Keeps.ite
    | split
    | with_reducible apply Keeps.upd
    | with_reducible apply Fuses.refl
    | ((with_reducible apply Or.inr); with_reducible rfl)
    | ((with_reducible apply Or.inl); exact h _ (by decide))
    | beta_reduce)

theorem execAdminCompletionWrite_keeps {P : Part → Bool} {s0 : State} (fn : Nat) (s : State) (h : Parts P [.out, .regs, .ten])
    (hs : Keeps P s0 s) : KeepsR P s0 (execAdminCompletionWrite fn s) := by
  unfold execAdminCompletionWrite
  repeat' (first
    | with_reducible assumption
    | ((with_reducible apply Parts.mono h); decide)
    | with_reducible apply State.emit_keeps
    | with_reducible apply State.setFn_keeps
    | with_reducible apply State.msix_keeps
    | with_reducible apply KeepsR.next
    | with_reducible intro _
    | (extract_lets +onlyGivenNames x0; first
        | ((with_reducible refine (have hx0 : Keeps P s0 x0 := ?_; ?_)); (on_goal 2 => clear_value x0); (on_goal 1 => subst x0))
        | clear_value x0)
    | with_reducible apply KeepsR.ite
    | with_reducible apply Keeps.ite
    | split
    | with_reducible apply Keeps.upd
    | with_reducible apply Fuses.refl
    | ((with_reducible apply Or.inr); with_reducible rfl)
    | ((with_reducible apply Or.inl); exact h _ (by decide)))

theorem State.checks_keeps {P : Part → Bool} {s0 : State} (s : State) (r : CmdRef) (z0 : List (Bool × Nat)) (z1 : (State → State)) (h : Parts P [.ten, .xlt]) (h_z1 : ∀ a, Keeps P s0 a → Keeps P s0 (z1 a))
    (hs : Keeps P s0 s) : Keeps P s0 (State.checks s r z0 z1) := by
  induction z0 generalizing s z1 with
  | nil => unfold State.checks; repeat' (first
    | with_reducible assumption
    | ((with_reducible apply Parts.mono h); decide)
    | with_reducible apply h_z1
    | with_reducible apply State.adminDone_keeps
    | with_reducible intro _
    | with_reducible apply Keeps.ite
    | split)
  | cons x l ih =>
    unfold State.checks
    repeat' (first
      | with_reducible assumption
      | ((with_reducible apply Parts.mono h); decide)
      | with_reducible apply ih
      | with_reducible apply h_z1
      | with_reducible apply State.adminDone_keeps
      | with_reducible intro _
      | with_reducible apply Keeps.ite
      | split)

theorem State.withQp_keeps {P : Part → Bool} {s0 : State} (s : State) (r : CmdRef) (i : Nat) (body : State → Qp → State) (h : Parts P [.ten, .xlt]) (h_body : ∀ a, Keeps P s0 a → ∀ y1, Keeps P s0 (body a y1))
    (hs : Keeps P s0 s) : Keeps P s0 (State.withQp s r i body) := by
  unfold State.withQp
  repeat' (first
    | with_reducible assumption
    | ((with_reducible apply Parts.mono h); decide)
    | with_reducible apply h_body
    | with_reducible apply State.adminDone_keeps
    | with_reducible intro _
    | (extract_lets +onlyGivenNames x0; first
        | ((with_reducible refine (have hx0 : Keeps P s0 x0 := ?_; ?_)); (on_goal 2 => clear_value x0); (on_goal 1 => subst x0))
        | clear_value x0)
    | with_reducible apply Keeps.ite
    | split
    | with_reducible apply Keeps.upd
    | with_reducible apply Fuses.refl
    | ((with_reducible apply Or.inr); with_reducible rfl)
    | ((with_reducible apply Or.inl); exact h _ (by decide)))

theorem State.withCq_keeps {P : Part → Bool} {s0 : State} (s : State) (r : CmdRef) (i : Nat) (body : State → Cq → State) (h : Parts P [.ten, .xlt]) (h_body : ∀ a, Keeps P s0 a → ∀ y1, Keeps P s0 (body a y1))
    (hs : Keeps P s0 s) : Keeps P s0 (State.withCq s r i body) := by
  unfold State.withCq
  repeat' (first
    | with_reducible assumption
    | ((with_reducible apply Parts.mono h); decide)
    | with_reducible apply h_body
    | with_reducible apply State.adminDone_keeps
    | with_reducible intro _
    | (extract_lets +onlyGivenNames x0; first
        | ((with_reducible refine (have hx0 : Keeps P s0 x0 := ?_; ?_)); (on_goal 2 => clear_value x0); (on_goal 1 => subst x0))
        | clear_value x0)
    | with_reducible apply Keeps.ite
    | split
    | with_reducible apply Keeps.upd
    | with_reducible apply Fuses.refl
    | ((with_reducible apply Or.inr); with_reducible rfl)
    | ((with_reducible apply Or.inl); exact h _ (by decide)))

theorem State.withEq_keeps {P : Part → Bool} {s0 : State} (s : State) (r : CmdRef) (i : Nat) (body : State → Eq → State) (h : Parts P [.ten, .xlt]) (h_body : ∀ a, Keeps P s0 a → ∀ y1, Keeps P s0 (body a y1))
    (hs : Keeps P s0 s) : Keeps P s0 (State.withEq s r i body) := by
  unfold State.withEq
  repeat' (first
    | with_reducible assumption
    | ((with_reducible apply Parts.mono h); decide)
    | with_reducible apply h_body
    | with_reducible apply State.adminDone_keeps
    | with_reducible intro _
    | (extract_lets +onlyGivenNames x0; first
        | ((with_reducible refine (have hx0 : Keeps P s0 x0 := ?_; ?_)); (on_goal 2 => clear_value x0); (on_goal 1 => subst x0))
        | clear_value x0)
    | with_reducible apply Keeps.ite
    | split
    | with_reducible apply Keeps.upd
    | with_reducible apply Fuses.refl
    | ((with_reducible apply Or.inr); with_reducible rfl)
    | ((with_reducible apply Or.inl); exact h _ (by decide)))

theorem State.setSlot_keeps {P : Part → Bool} {s0 : State} (s : State) (f : Nat) (slot : Nat) (o : SlotObj) (h : Parts P [.ten])
    (hs : Keeps P s0 s) : Keeps P s0 (State.setSlot s f slot o) := by
  unfold State.setSlot
  repeat' (first
    | with_reducible assumption
    | ((with_reducible apply Parts.mono h); decide)
    | with_reducible apply State.setFn_keeps
    | with_reducible intro _
    | (extract_lets +onlyGivenNames x0; first
        | ((with_reducible refine (have hx0 : Keeps P s0 x0 := ?_; ?_)); (on_goal 2 => clear_value x0); (on_goal 1 => subst x0))
        | clear_value x0)
    | split
    | with_reducible apply Keeps.upd
    | with_reducible apply Fuses.refl
    | ((with_reducible apply Or.inr); with_reducible rfl)
    | ((with_reducible apply Or.inl); exact h _ (by decide)))

theorem execCreateQp_keeps {P : Part → Bool} {s0 : State} (c : AdminCmd) (s : State) (h : Parts P [.regs, .ten, .xlt, .pwr])
    (hs : Keeps P s0 s) : KeepsR P s0 (execCreateQp c s) := by
  unfold execCreateQp
  repeat' (first
    | with_reducible assumption
    | ((with_reducible apply Parts.mono h); decide)
    | with_reducible apply State.adminDone_keeps
    | with_reducible apply State.ringOrder_keeps
    | with_reducible apply State.adminAt_keeps
    | with_reducible apply State.checks_keeps
    | with_reducible apply State.withCq_keeps
    | with_reducible apply State.withEq_keeps
    | with_reducible apply State.setSlot_keeps
    | with_reducible apply KeepsR.next
    | with_reducible intro _
    | (extract_lets +onlyGivenNames x0; first
        | ((with_reducible refine (have hx0 : Keeps P s0 x0 := ?_; ?_)); (on_goal 2 => clear_value x0); (on_goal 1 => subst x0))
        | clear_value x0)
    | with_reducible apply KeepsR.ite
    | with_reducible apply Keeps.ite
    | with_reducible apply KeepsO.getD
    | split
    | with_reducible apply Keeps.upd
    | with_reducible apply Fuses.refl
    | ((with_reducible apply Or.inr); with_reducible rfl)
    | ((with_reducible apply Or.inl); exact h _ (by decide))
    | beta_reduce)

theorem State.parkGhosts_keeps {P : Part → Bool} {s0 : State} (s : State) (q : Nat) (h : Parts P [.ten, .tra])
    (hs : Keeps P s0 s) : Keeps P s0 (State.parkGhosts s q) := by
  unfold State.parkGhosts
  repeat' (first
    | with_reducible assumption
    | ((with_reducible apply Parts.mono h); decide)
    | with_reducible apply State.updQp_keeps
    | with_reducible intro _
    | (extract_lets +onlyGivenNames x0; first
        | ((with_reducible refine (have hx0 : Keeps P s0 x0 := ?_; ?_)); (on_goal 2 => clear_value x0); (on_goal 1 => subst x0))
        | ((with_reducible have _x0 : _ → _ := x0); clear _x0; subst x0; beta_reduce)
        | clear_value x0)
    | with_reducible apply Keeps.ite
    | split
    | with_reducible apply Keeps.upd
    | with_reducible apply Fuses.refl
    | ((with_reducible apply Or.inr); with_reducible rfl)
    | ((with_reducible apply Or.inl); exact h _ (by decide))
    | beta_reduce)

theorem State.qpChange_keeps {P : Part → Bool} {s0 : State} (s : State) (q : Nat) (v : Qp) (target : Nat) (c : AdminCmd) (h : Parts P [.out, .free, .regs, .ten, .tra, .mat, .wins, .grps, .xlt, .rte, .pwr])
    (hs : Keeps P s0 s) : KeepsO P s0 (State.qpChange s q v target c) := by
  unfold State.qpChange
  repeat' (first
    | with_reducible assumption
    | ((with_reducible apply Parts.mono h); decide)
    | with_reducible apply State.forget_keeps
    | with_reducible apply State.updQp_keeps
    | with_reducible apply State.giveUpResps_keeps
    | with_reducible apply State.qpFail_keeps
    | with_reducible apply State.parkGhosts_keeps
    | exact KeepsO.none
    | with_reducible apply KeepsO.some
    | with_reducible intro _
    | (extract_lets +onlyGivenNames x0; first
        | ((with_reducible refine (have hx0 : Keeps P s0 x0 := ?_; ?_)); (on_goal 2 => clear_value x0); (on_goal 1 => subst x0))
        | clear_value x0)
    | with_reducible apply KeepsO.ite
    | with_reducible apply Keeps.ite
    | split
    | with_reducible apply Keeps.upd
    | with_reducible apply Fuses.refl
    | ((with_reducible apply Or.inr); with_reducible rfl)
    | ((with_reducible apply Or.inl); exact h _ (by decide))
    | beta_reduce)

theorem execModifyQp_keeps {P : Part → Bool} {s0 : State} (c : AdminCmd) (s : State) (h : Parts P [.out, .free, .regs, .ten, .tra, .mat, .wins, .grps, .xlt, .rte, .pwr])
    (hs : Keeps P s0 s) : KeepsR P s0 (execModifyQp c s) := by
  unfold execModifyQp
  repeat' (first
    | with_reducible assumption
    | ((with_reducible apply Parts.mono h); decide)
    | with_reducible apply State.adminDone_keeps
    | with_reducible apply State.ringOrder_keeps
    | with_reducible apply State.adminAt_keeps
    | with_reducible apply State.withQp_keeps
    | with_reducible apply State.qpChange_keeps
    | with_reducible apply KeepsR.next
    | with_reducible intro _
    | (extract_lets +onlyGivenNames x0; first
        | ((with_reducible refine (have hx0 : Keeps P s0 x0 := ?_; ?_)); (on_goal 2 => clear_value x0); (on_goal 1 => subst x0))
        | clear_value x0)
    | split
    | (with_reducible apply KeepsO.of_eq (by with_reducible assumption))
    | with_reducible apply Keeps.upd
    | with_reducible apply Fuses.refl
    | ((with_reducible apply Or.inr); with_reducible rfl)
    | ((with_reducible apply Or.inl); exact h _ (by decide))
    | beta_reduce)

theorem execQueryQp_keeps {P : Part → Bool} {s0 : State} (c : AdminCmd) (s : State) (h : Parts P [.regs, .ten, .xlt, .pwr])
    (hs : Keeps P s0 s) : KeepsR P s0 (execQueryQp c s) := by
  unfold execQueryQp
  repeat' (first
    | with_reducible assumption
    | ((with_reducible apply Parts.mono h); decide)
    | with_reducible apply State.adminDone_keeps
    | with_reducible apply State.ringOrder_keeps
    | with_reducible apply State.adminAt_keeps
    | with_reducible apply State.withQp_keeps
    | with_reducible apply KeepsR.next
    | with_reducible intro _
    | (extract_lets +onlyGivenNames x0; first
        | ((with_reducible refine (have hx0 : Keeps P s0 x0 := ?_; ?_)); (on_goal 2 => clear_value x0); (on_goal 1 => subst x0))
        | clear_value x0)
    | split
    | beta_reduce)

theorem State.qpDestroy_keeps {P : Part → Bool} {s0 : State} (s : State) (q : Nat) (v : Qp) (r : Option CmdRef) (h : Parts P [.out, .free, .regs, .ten, .tra, .mat, .wins, .grps, .xlt, .rte, .pwr])
    (hs : Keeps P s0 s) : Keeps P s0 (State.qpDestroy s q v r) := by
  unfold State.qpDestroy
  repeat' (first
    | with_reducible assumption
    | ((with_reducible apply Parts.mono h); decide)
    | with_reducible apply State.adminDone_keeps
    | with_reducible apply State.updQp_keeps
    | with_reducible apply State.groupMark_keeps
    | with_reducible apply State.qpFail_keeps
    | with_reducible apply State.qpQuarantine_keeps
    | with_reducible apply State.qpReap_keeps
    | with_reducible apply foldl_keeps
    | with_reducible apply foldl_keepsP
    | with_reducible intro _
    | (extract_lets +onlyGivenNames x0; first
        | ((with_reducible refine (have hx0 : Keeps P s0 x0 := ?_; ?_)); (on_goal 2 => clear_value x0); (on_goal 1 => subst x0))
        | ((with_reducible refine (have hx0 : KeepsP P s0 x0 := ?_; ?_)); (on_goal 2 => clear_value x0); (on_goal 1 => subst x0))
        | clear_value x0)
    | with_reducible apply Keeps.ite
    | split
    | with_reducible apply KeepsP.mk
    | (with_reducible apply KeepsP.of_eq (by with_reducible assumption))
    | with_reducible apply KeepsP.fst
    | with_reducible apply Keeps.upd
    | with_reducible apply Fuses.refl
    | ((with_reducible apply Or.inr); with_reducible rfl)
    | ((with_reducible apply Or.inl); exact h _ (by decide))
    | beta_reduce)

theorem execDestroyQp_keeps {P : Part → Bool} {s0 : State} (c : AdminCmd) (s : State) (h : Parts P [.out, .free, .regs, .ten, .tra, .mat, .wins, .grps, .xlt, .rte, .pwr])
    (hs : Keeps P s0 s) : KeepsR P s0 (execDestroyQp c s) := by
  unfold execDestroyQp
  repeat' (first
    | with_reducible assumption
    | ((with_reducible apply Parts.mono h); decide)
    | with_reducible apply State.adminDone_keeps
    | with_reducible apply State.ringOrder_keeps
    | with_reducible apply State.adminAt_keeps
    | with_reducible apply State.withQp_keeps
    | with_reducible apply State.qpDestroy_keeps
    | with_reducible apply KeepsR.next
    | with_reducible intro _
    | (extract_lets +onlyGivenNames x0; first
        | ((with_reducible refine (have hx0 : Keeps P s0 x0 := ?_; ?_)); (on_goal 2 => clear_value x0); (on_goal 1 => subst x0))
        | clear_value x0)
    | with_reducible apply KeepsR.ite
    | with_reducible apply Keeps.ite
    | split
    | beta_reduce)

theorem execCreateCq_keeps {P : Part → Bool} {s0 : State} (c : AdminCmd) (s : State) (h : Parts P [.ten, .xlt])
    (hs : Keeps P s0 s) : KeepsR P s0 (execCreateCq c s) := by
  unfold execCreateCq
  repeat' (first
    | with_reducible assumption
    | ((with_reducible apply Parts.mono h); decide)
    | with_reducible apply State.adminDone_keeps
    | with_reducible apply State.admin_keeps
    | with_reducible apply State.checks_keeps
    | with_reducible apply State.withEq_keeps
    | with_reducible apply State.setSlot_keeps
    | with_reducible apply KeepsR.next
    | with_reducible intro _
    | (extract_lets +onlyGivenNames x0; first
        | ((with_reducible refine (have hx0 : Keeps P s0 x0 := ?_; ?_)); (on_goal 2 => clear_value x0); (on_goal 1 => subst x0))
        | clear_value x0)
    | with_reducible apply KeepsO.getD
    | split
    | with_reducible apply Keeps.upd
    | with_reducible apply Fuses.refl
    | ((with_reducible apply Or.inr); with_reducible rfl)
    | ((with_reducible apply Or.inl); exact h _ (by decide))
    | beta_reduce)

theorem execModifyCq_keeps {P : Part → Bool} {s0 : State} (c : AdminCmd) (s : State) (h : Parts P [.ten, .xlt])
    (hs : Keeps P s0 s) : KeepsR P s0 (execModifyCq c s) := by
  unfold execModifyCq
  repeat' (first
    | with_reducible assumption
    | ((with_reducible apply Parts.mono h); decide)
    | with_reducible apply State.adminDone_keeps
    | with_reducible apply State.admin_keeps
    | with_reducible apply State.withCq_keeps
    | with_reducible apply KeepsR.next
    | with_reducible intro _
    | (extract_lets +onlyGivenNames x0; first
        | ((with_reducible refine (have hx0 : Keeps P s0 x0 := ?_; ?_)); (on_goal 2 => clear_value x0); (on_goal 1 => subst x0))
        | clear_value x0)
    | split
    | with_reducible apply Keeps.upd
    | with_reducible apply Fuses.refl
    | ((with_reducible apply Or.inr); with_reducible rfl)
    | ((with_reducible apply Or.inl); exact h _ (by decide))
    | beta_reduce)

theorem execQueryCq_keeps {P : Part → Bool} {s0 : State} (c : AdminCmd) (s : State) (h : Parts P [.ten, .xlt])
    (hs : Keeps P s0 s) : KeepsR P s0 (execQueryCq c s) := by
  unfold execQueryCq
  repeat' (first
    | with_reducible assumption
    | ((with_reducible apply Parts.mono h); decide)
    | with_reducible apply State.adminDone_keeps
    | with_reducible apply State.admin_keeps
    | with_reducible apply State.withCq_keeps
    | with_reducible apply KeepsR.next
    | with_reducible intro _
    | (extract_lets +onlyGivenNames x0; first
        | ((with_reducible refine (have hx0 : Keeps P s0 x0 := ?_; ?_)); (on_goal 2 => clear_value x0); (on_goal 1 => subst x0))
        | clear_value x0)
    | split
    | beta_reduce)

theorem State.cqDrop_keeps {P : Part → Bool} {s0 : State} (s : State) (i : Nat) (q : Cq) (h : Parts P [.ten, .xlt])
    (hs : Keeps P s0 s) : Keeps P s0 (State.cqDrop s i q) := by
  unfold State.cqDrop
  repeat' (first
    | with_reducible assumption
    | ((with_reducible apply Parts.mono h); decide)
    | with_reducible apply State.forget_keeps
    | with_reducible apply State.freeSlot_keeps
    | with_reducible intro _
    | (extract_lets +onlyGivenNames x0; first
        | ((with_reducible refine (have hx0 : Keeps P s0 x0 := ?_; ?_)); (on_goal 2 => clear_value x0); (on_goal 1 => subst x0))
        | clear_value x0)
    | split
    | with_reducible apply Keeps.upd
    | with_reducible apply Fuses.refl
    | ((with_reducible apply Or.inr); with_reducible rfl)
    | ((with_reducible apply Or.inl); exact h _ (by decide))
    | beta_reduce)

theorem execDestroyCq_keeps {P : Part → Bool} {s0 : State} (c : AdminCmd) (s : State) (h : Parts P [.ten, .xlt])
    (hs : Keeps P s0 s) : KeepsR P s0 (execDestroyCq c s) := by
  unfold execDestroyCq
  repeat' (first
    | with_reducible assumption
    | ((with_reducible apply Parts.mono h); decide)
    | with_reducible apply State.adminDone_keeps
    | with_reducible apply State.admin_keeps
    | with_reducible apply State.withCq_keeps
    | with_reducible apply State.cqDrop_keeps
    | with_reducible apply KeepsR.next
    | with_reducible intro _
    | (extract_lets +onlyGivenNames x0; first
        | ((with_reducible refine (have hx0 : Keeps P s0 x0 := ?_; ?_)); (on_goal 2 => clear_value x0); (on_goal 1 => subst x0))
        | clear_value x0)
    | with_reducible apply KeepsR.ite
    | with_reducible apply Keeps.ite
    | split
    | beta_reduce)

theorem execCreateEq_keeps {P : Part → Bool} {s0 : State} (c : AdminCmd) (s : State) (h : Parts P [.ten, .xlt])
    (hs : Keeps P s0 s) : KeepsR P s0 (execCreateEq c s) := by
  unfold execCreateEq
  repeat' (first
    | with_reducible assumption
    | ((with_reducible apply Parts.mono h); decide)
    | with_reducible apply State.adminDone_keeps
    | with_reducible apply State.admin_keeps
    | with_reducible apply State.checks_keeps
    | with_reducible apply State.setSlot_keeps
    | with_reducible apply KeepsR.next
    | with_reducible intro _
    | (extract_lets +onlyGivenNames x0; first
        | ((with_reducible refine (have hx0 : Keeps P s0 x0 := ?_; ?_)); (on_goal 2 => clear_value x0); (on_goal 1 => subst x0))
        | clear_value x0)
    | with_reducible apply KeepsO.getD
    | split
    | with_reducible apply Keeps.upd
    | with_reducible apply Fuses.refl
    | ((with_reducible apply Or.inr); with_reducible rfl)
    | ((with_reducible apply Or.inl); exact h _ (by decide))
    | beta_reduce)

theorem State.eqDrop_keeps {P : Part → Bool} {s0 : State} (s : State) (i : Nat) (q : Eq) (h : Parts P [.ten, .xlt])
    (hs : Keeps P s0 s) : Keeps P s0 (State.eqDrop s i q) := by
  unfold State.eqDrop
  repeat' (first
    | with_reducible assumption
    | ((with_reducible apply Parts.mono h); decide)
    | with_reducible apply State.forget_keeps
    | with_reducible apply State.freeSlot_keeps
    | with_reducible intro _
    | (extract_lets +onlyGivenNames x0; first
        | ((with_reducible refine (have hx0 : Keeps P s0 x0 := ?_; ?_)); (on_goal 2 => clear_value x0); (on_goal 1 => subst x0))
        | clear_value x0)
    | split
    | with_reducible apply Keeps.upd
    | with_reducible apply Fuses.refl
    | ((with_reducible apply Or.inr); with_reducible rfl)
    | ((with_reducible apply Or.inl); exact h _ (by decide))
    | beta_reduce)

theorem execDestroyEq_keeps {P : Part → Bool} {s0 : State} (c : AdminCmd) (s : State) (h : Parts P [.ten, .xlt])
    (hs : Keeps P s0 s) : KeepsR P s0 (execDestroyEq c s) := by
  unfold execDestroyEq
  repeat' (first
    | with_reducible assumption
    | ((with_reducible apply Parts.mono h); decide)
    | with_reducible apply State.adminDone_keeps
    | with_reducible apply State.admin_keeps
    | with_reducible apply State.withEq_keeps
    | with_reducible apply State.eqDrop_keeps
    | with_reducible apply KeepsR.next
    | with_reducible intro _
    | (extract_lets +onlyGivenNames x0; first
        | ((with_reducible refine (have hx0 : Keeps P s0 x0 := ?_; ?_)); (on_goal 2 => clear_value x0); (on_goal 1 => subst x0))
        | clear_value x0)
    | with_reducible apply KeepsR.ite
    | with_reducible apply Keeps.ite
    | split
    | beta_reduce)

theorem execAllocHbm_keeps {P : Part → Bool} {s0 : State} (c : AdminCmd) (s : State) (h : Parts P [.ten, .xlt])
    (hs : Keeps P s0 s) : KeepsR P s0 (execAllocHbm c s) := by
  unfold execAllocHbm
  repeat' (first
    | with_reducible assumption
    | ((with_reducible apply Parts.mono h); decide)
    | with_reducible apply State.adminDone_keeps
    | with_reducible apply State.admin_keeps
    | with_reducible apply State.checks_keeps
    | with_reducible apply KeepsR.next
    | with_reducible intro _
    | (extract_lets +onlyGivenNames x0; first
        | ((with_reducible refine (have hx0 : Keeps P s0 x0 := ?_; ?_)); (on_goal 2 => clear_value x0); (on_goal 1 => subst x0))
        | ((with_reducible have _x0 : Boot := x0); clear _x0; subst x0)
        | clear_value x0)
    | with_reducible apply KeepsR.ite
    | with_reducible apply Keeps.ite
    | with_reducible apply KeepsO.getD
    | split
    | with_reducible apply Keeps.upd
    | with_reducible apply Fuses.refl
    | ((with_reducible apply Fuses.mk) <;> first | exact fun l => ⟨l, Nat.le_refl _, Nat.le_refl _⟩ | exact fun o => ⟨o, rfl⟩ | exact Nat.le_refl _ | exact fun o => o)
    | ((with_reducible apply Or.inr); with_reducible rfl)
    | ((with_reducible apply Or.inl); exact h _ (by decide))
    | beta_reduce)

theorem execFreeHbm_keeps {P : Part → Bool} {s0 : State} (c : AdminCmd) (s : State) (h : Parts P [.ten, .wins, .xlt])
    (hs : Keeps P s0 s) : KeepsR P s0 (execFreeHbm c s) := by
  unfold execFreeHbm
  repeat' (first
    | with_reducible assumption
    | ((with_reducible apply Parts.mono h); decide)
    | with_reducible apply State.adminDone_keeps
    | with_reducible apply State.admin_keeps
    | with_reducible apply KeepsR.next
    | with_reducible intro _
    | (extract_lets +onlyGivenNames x0; first
        | ((with_reducible refine (have hx0 : Keeps P s0 x0 := ?_; ?_)); (on_goal 2 => clear_value x0); (on_goal 1 => subst x0))
        | clear_value x0)
    | with_reducible apply KeepsR.ite
    | with_reducible apply Keeps.ite
    | split
    | with_reducible apply Keeps.upd
    | with_reducible apply Fuses.refl
    | ((with_reducible apply Or.inr); with_reducible rfl)
    | ((with_reducible apply Or.inl); exact h _ (by decide))
    | beta_reduce)

end Sys2Proof.Machine
end

