-- ==== Sys2Proof/Laws/Counters.lean ====
section
/-! SUPPORT. What the operations of Machine/Counters.lean keep. -/

set_option linter.unusedTactic false
set_option linter.unreachableTactic false
set_option linter.unusedVariables false

namespace Sys2Proof.Machine

open Sys2Proof

theorem State.snapCapture_keeps {P : Part → Bool} {s0 : State} (s : State) (h : Parts P [.regs])
    (hs : Keeps P s0 s) : Keeps P s0 (State.snapCapture s) := by
  unfold State.snapCapture
  repeat' (first
    | with_reducible assumption
    | ((with_reducible apply Parts.mono h); decide)
    | with_reducible apply State.wr_keeps
    | with_reducible apply foldl_keeps
    | with_reducible apply foldl_keepsP
    | with_reducible intro _
    | (extract_lets +onlyGivenNames x0; first
        | ((with_reducible refine (have hx0 : Keeps P s0 x0 := ?_; ?_)); (on_goal 2 => clear_value x0); (on_goal 1 => subst x0))
        | ((with_reducible refine (have hx0 : KeepsP P s0 x0 := ?_; ?_)); (on_goal 2 => clear_value x0); (on_goal 1 => subst x0))
        | clear_value x0)
    | with_reducible apply Keeps.ite
    | split
    | with_reducible apply KeepsP.mk
    | (with_reducible apply KeepsP.of_eq (by with_reducible assumption))
    | with_reducible apply KeepsP.fst
    | beta_reduce)

theorem State.snapStart_keeps {P : Part → Bool} {s0 : State} (s : State) (h : Parts P [.regs])
    (hs : Keeps P s0 s) : Keeps P s0 (State.snapStart s) := by
  unfold State.snapStart
  repeat' (first
    | with_reducible assumption
    | ((with_reducible apply Parts.mono h); decide)
    | with_reducible apply State.wr_keeps
    | with_reducible apply State.wrF_keeps
    | with_reducible apply State.snapCapture_keeps
    | with_reducible intro _
    | with_reducible apply Keeps.ite
    | split)

theorem State.clearPorts_keeps {P : Part → Bool} {s0 : State} (s : State) (h : Parts P [.regs])
    (hs : Keeps P s0 s) : Keeps P s0 (State.clearPorts s) := by
  unfold State.clearPorts
  repeat' (first
    | with_reducible assumption
    | ((with_reducible apply Parts.mono h); decide)
    | with_reducible apply State.wr_keeps
    | with_reducible apply foldl_keeps
    | with_reducible apply foldl_keepsP
    | with_reducible intro _
    | split
    | with_reducible apply KeepsP.mk
    | (with_reducible apply KeepsP.of_eq (by with_reducible assumption))
    | with_reducible apply KeepsP.fst
    | beta_reduce)

theorem State.cntCtl_keeps {P : Part → Bool} {s0 : State} (s : State) (val : Word) (h : Parts P [.regs])
    (hs : Keeps P s0 s) : Keeps P s0 (State.cntCtl s val) := by
  unfold State.cntCtl
  repeat' (first
    | with_reducible assumption
    | ((with_reducible apply Parts.mono h); decide)
    | with_reducible apply State.wrF_keeps
    | with_reducible apply State.snapStart_keeps
    | with_reducible apply State.clearPorts_keeps
    | with_reducible intro _
    | (extract_lets +onlyGivenNames x0; first
        | ((with_reducible refine (have hx0 : Keeps P s0 x0 := ?_; ?_)); (on_goal 2 => clear_value x0); (on_goal 1 => subst x0))
        | clear_value x0)
    | with_reducible apply Keeps.ite
    | split)

theorem execSnap_keeps {P : Part → Bool} {s0 : State} (rid : Nat) (val : Word) (s : State) (h : Parts P [.regs])
    (hs : Keeps P s0 s) : KeepsR P s0 (execSnap rid val s) := by
  unfold execSnap
  repeat' (first
    | with_reducible assumption
    | ((with_reducible apply Parts.mono h); decide)
    | with_reducible apply State.viaReg_keeps
    | with_reducible apply State.cntCtl_keeps
    | with_reducible apply KeepsR.next
    | with_reducible intro _
    | split
    | beta_reduce)

theorem execSnapAtArrival_keeps {P : Part → Bool} {s0 : State} (s : State) (h : Parts P [.now, .ft, .regs, .lnk, .pwr])
    (hs : Keeps P s0 s) : KeepsR P s0 (execSnapAtArrival s) := by
  unfold execSnapAtArrival
  repeat' (first
    | with_reducible assumption
    | ((with_reducible apply Parts.mono h); decide)
    | with_reducible apply State.wrF_keeps
    | with_reducible apply State.passTo_keeps
    | with_reducible apply State.snapStart_keeps
    | with_reducible apply KeepsR.next
    | with_reducible intro _
    | (extract_lets +onlyGivenNames x0; first
        | ((with_reducible refine (have hx0 : Keeps P s0 x0 := ?_; ?_)); (on_goal 2 => clear_value x0); (on_goal 1 => subst x0))
        | clear_value x0)
    | with_reducible apply KeepsR.ite
    | with_reducible apply Keeps.ite
    | split)

theorem execSnapComplete_keeps {P : Part → Bool} {s0 : State} (s : State) (h : Parts P [.regs])
    (hs : Keeps P s0 s) : KeepsR P s0 (execSnapComplete s) := by
  unfold execSnapComplete
  repeat' (first
    | with_reducible assumption
    | ((with_reducible apply Parts.mono h); decide)
    | with_reducible apply State.wrFs_keeps
    | with_reducible apply KeepsR.next
    | with_reducible intro _
    | with_reducible apply KeepsR.ite
    | with_reducible apply Keeps.ite
    | split)

theorem execClrPorts_keeps {P : Part → Bool} {s0 : State} (rid : Nat) (val : Word) (s : State) (h : Parts P [.regs])
    (hs : Keeps P s0 s) : KeepsR P s0 (execClrPorts rid val s) := by
  unfold execClrPorts
  repeat' (first
    | with_reducible assumption
    | ((with_reducible apply Parts.mono h); decide)
    | with_reducible apply State.viaReg_keeps
    | with_reducible apply State.cntCtl_keeps
    | with_reducible apply KeepsR.next
    | with_reducible intro _
    | split
    | beta_reduce)

theorem bwStore_keeps {P : Part → Bool} {s0 : State} (s : State) (p : Nat) (x : PortX) (h : Parts P [.regs])
    (hs : Keeps P s0 s) : Keeps P s0 (bwStore s p x) := by
  unfold bwStore
  repeat' (first
    | with_reducible assumption
    | ((with_reducible apply Parts.mono h); decide)
    | with_reducible apply State.wrFs_keeps
    | with_reducible intro _
    | with_reducible apply Keeps.ite
    | split)

theorem execBwWindowEnd_keeps {P : Part → Bool} {s0 : State} (s : State) (h : Parts P [.now, .ft, .regs, .lnk, .pwr, .cnt])
    (hs : Keeps P s0 s) : KeepsR P s0 (execBwWindowEnd s) := by
  unfold execBwWindowEnd
  repeat' (first
    | with_reducible assumption
    | ((with_reducible apply Parts.mono h); decide)
    | with_reducible apply State.wr_keeps
    | with_reducible apply State.wrFs_keeps
    | with_reducible apply State.passTo_keeps
    | with_reducible apply bwStore_keeps
    | with_reducible apply KeepsR.next
    | with_reducible apply foldl_keeps
    | with_reducible apply foldl_keepsP
    | with_reducible intro _
    | (extract_lets +onlyGivenNames x0; first
        | ((with_reducible refine (have hx0 : Keeps P s0 x0 := ?_; ?_)); (on_goal 2 => clear_value x0); (on_goal 1 => subst x0))
        | ((with_reducible refine (have hx0 : KeepsP P s0 x0 := ?_; ?_)); (on_goal 2 => clear_value x0); (on_goal 1 => subst x0))
        | clear_value x0)
    | split
    | with_reducible apply KeepsP.mk
    | (with_reducible apply KeepsP.of_eq (by with_reducible assumption))
    | with_reducible apply KeepsP.fst
    | with_reducible apply Keeps.upd
    | with_reducible apply Fuses.refl
    | ((with_reducible apply Or.inr); with_reducible rfl)
    | ((with_reducible apply Or.inl); exact h _ (by decide))
    | beta_reduce)

theorem execBwWindowWrite_keeps {P : Part → Bool} {s0 : State} (rid : Nat) (val : Word) (s : State) (h : Parts P [.regs, .cnt])
    (hs : Keeps P s0 s) : KeepsR P s0 (execBwWindowWrite rid val s) := by
  unfold execBwWindowWrite
  repeat' (first
    | with_reducible assumption
    | ((with_reducible apply Parts.mono h); decide)
    | with_reducible apply State.wrF_keeps
    | with_reducible apply State.viaReg_keeps
    | with_reducible apply KeepsR.next
    | with_reducible intro _
    | (extract_lets +onlyGivenNames x0; first
        | ((with_reducible refine (have hx0 : Keeps P s0 x0 := ?_; ?_)); (on_goal 2 => clear_value x0); (on_goal 1 => subst x0))
        | clear_value x0)
    | split
    | with_reducible apply Keeps.upd
    | with_reducible apply Fuses.refl
    | ((with_reducible apply Or.inr); with_reducible rfl)
    | ((with_reducible apply Or.inl); exact h _ (by decide))
    | beta_reduce)

theorem execCounterValueWrite_keeps {P : Part → Bool} {s0 : State} (rid : Nat) (n : Nat) (val : Word) (s : State) (h : Parts P [.regs])
    (hs : Keeps P s0 s) : KeepsR P s0 (execCounterValueWrite rid n val s) := by
  unfold execCounterValueWrite
  repeat' (first
    | with_reducible assumption
    | ((with_reducible apply Parts.mono h); decide)
    | with_reducible apply State.wrF_keeps
    | with_reducible apply State.viaReg_keeps
    | with_reducible apply KeepsR.next
    | with_reducible intro _
    | (extract_lets +onlyGivenNames x0; first
        | ((with_reducible refine (have hx0 : Keeps P s0 x0 := ?_; ?_)); (on_goal 2 => clear_value x0); (on_goal 1 => subst x0))
        | clear_value x0)
    | with_reducible apply KeepsR.ite
    | with_reducible apply Keeps.ite
    | split
    | beta_reduce)

end Sys2Proof.Machine
end

