-- ==== Sys2Proof/Laws/LinkOps.lean ====
section
/-! SUPPORT. What the operations of Machine/LinkOps.lean keep. -/

set_option linter.unusedTactic false
set_option linter.unreachableTactic false
set_option linter.unusedVariables false

namespace Sys2Proof.Machine

open Sys2Proof

theorem State.updP_keeps {P : Part → Bool} {s0 : State} (s : State) (p : Nat) (f : Port → Port) (h : Parts P [.lnk])
    (hs : Keeps P s0 s) : Keeps P s0 (State.updP s p f) := by
  unfold State.updP
  repeat' (first
    | with_reducible assumption
    | ((with_reducible apply Parts.mono h); decide)
    | with_reducible intro _
    | (extract_lets +onlyGivenNames x0; first
        | ((with_reducible refine (have hx0 : Keeps P s0 x0 := ?_; ?_)); (on_goal 2 => clear_value x0); (on_goal 1 => subst x0))
        | clear_value x0)
    | split
    | with_reducible apply Keeps.upd
    | with_reducible apply Fuses.refl
    | ((with_reducible apply Or.inr); with_reducible rfl)
    | ((with_reducible apply Or.inl); exact h _ (by decide)))

theorem State.ctrl_keeps {P : Part → Bool} {s0 : State} (s : State) (p : Nat) (f : Words8) (h : Parts P [.lnk])
    (hs : Keeps P s0 s) : Keeps P s0 (State.ctrl s p f) := by
  unfold State.ctrl
  repeat' (first
    | with_reducible assumption
    | ((with_reducible apply Parts.mono h); decide)
    | with_reducible apply State.updP_keeps
    | with_reducible intro _
    | (extract_lets +onlyGivenNames x0; first
        | ((with_reducible refine (have hx0 : Keeps P s0 x0 := ?_; ?_)); (on_goal 2 => clear_value x0); (on_goal 1 => subst x0))
        | clear_value x0)
    | split
    | with_reducible apply Keeps.upd
    | with_reducible apply Fuses.refl
    | ((with_reducible apply Or.inr); with_reducible rfl)
    | ((with_reducible apply Or.inl); exact h _ (by decide))
    | beta_reduce)

theorem State.stallSet_keeps {P : Part → Bool} {s0 : State} (s : State) (p : Nat) (v : Nat) (anew : Bool) (h : Parts P [.lnk])
    (hs : Keeps P s0 s) : Keeps P s0 (State.stallSet s p v anew) := by
  unfold State.stallSet
  repeat' (first
    | with_reducible assumption
    | ((with_reducible apply Parts.mono h); decide)
    | with_reducible apply State.updP_keeps
    | with_reducible intro _
    | (extract_lets +onlyGivenNames x0; first
        | ((with_reducible refine (have hx0 : Keeps P s0 x0 := ?_; ?_)); (on_goal 2 => clear_value x0); (on_goal 1 => subst x0))
        | clear_value x0)
    | with_reducible apply Keeps.ite
    | with_reducible apply KeepsO.getD
    | split
    | with_reducible apply Keeps.upd
    | with_reducible apply Fuses.refl
    | ((with_reducible apply Or.inr); with_reducible rfl)
    | ((with_reducible apply Or.inl); exact h _ (by decide))
    | beta_reduce)

theorem State.creditAdd_keeps {P : Part → Bool} {s0 : State} (s : State) (p : Nat) (v : Nat) (d : Nat) (h : Parts P [.lnk])
    (hs : Keeps P s0 s) : Keeps P s0 (State.creditAdd s p v d) := by
  unfold State.creditAdd
  repeat' (first
    | with_reducible assumption
    | ((with_reducible apply Parts.mono h); decide)
    | with_reducible apply State.updP_keeps
    | with_reducible apply State.stallSet_keeps
    | with_reducible intro _
    | (extract_lets +onlyGivenNames x0; first
        | ((with_reducible refine (have hx0 : Keeps P s0 x0 := ?_; ?_)); (on_goal 2 => clear_value x0); (on_goal 1 => subst x0))
        | clear_value x0)
    | with_reducible apply Keeps.ite
    | with_reducible apply KeepsO.getD
    | split
    | with_reducible apply Keeps.upd
    | with_reducible apply Fuses.refl
    | ((with_reducible apply Or.inr); with_reducible rfl)
    | ((with_reducible apply Or.inl); exact h _ (by decide))
    | beta_reduce)

theorem State.ctrlFirst_keeps {P : Part → Bool} {s0 : State} (s : State) (p : Nat) (f : Words8) (h : Parts P [.lnk])
    (hs : Keeps P s0 s) : Keeps P s0 (State.ctrlFirst s p f) := by
  unfold State.ctrlFirst
  repeat' (first
    | with_reducible assumption
    | ((with_reducible apply Parts.mono h); decide)
    | with_reducible apply State.updP_keeps
    | with_reducible apply State.ctrl_keeps
    | with_reducible intro _
    | (extract_lets +onlyGivenNames x0; first
        | ((with_reducible refine (have hx0 : Keeps P s0 x0 := ?_; ?_)); (on_goal 2 => clear_value x0); (on_goal 1 => subst x0))
        | clear_value x0)
    | split
    | with_reducible apply Keeps.upd
    | with_reducible apply Fuses.refl
    | ((with_reducible apply Or.inr); with_reducible rfl)
    | ((with_reducible apply Or.inl); exact h _ (by decide))
    | beta_reduce)

theorem State.reqChange_keeps {P : Part → Bool} {s0 : State} (s : State) (p : Nat) (op : Nat) (lanes : BitVec 4) (who : Nat) (speed : Bool) (h : Parts P [.lnk])
    (hs : Keeps P s0 s) : Keeps P s0 (State.reqChange s p op lanes who speed) := by
  unfold State.reqChange
  repeat' (first
    | with_reducible assumption
    | ((with_reducible apply Parts.mono h); decide)
    | with_reducible apply State.updX_keeps
    | with_reducible apply State.ctrl_keeps
    | with_reducible intro _
    | (extract_lets +onlyGivenNames x0; first
        | ((with_reducible refine (have hx0 : Keeps P s0 x0 := ?_; ?_)); (on_goal 2 => clear_value x0); (on_goal 1 => subst x0))
        | clear_value x0)
    | with_reducible apply Keeps.ite
    | split
    | with_reducible apply Keeps.upd
    | with_reducible apply Fuses.refl
    | ((with_reducible apply Or.inr); with_reducible rfl)
    | ((with_reducible apply Or.inl); exact h _ (by decide))
    | beta_reduce)

theorem State.reqAgain_keeps {P : Part → Bool} {s0 : State} (s : State) (p : Nat) (r : ChangeReq) (h : Parts P [.lnk])
    (hs : Keeps P s0 s) : Keeps P s0 (State.reqAgain s p r) := by
  unfold State.reqAgain
  repeat' (first
    | with_reducible assumption
    | ((with_reducible apply Parts.mono h); decide)
    | with_reducible apply State.updX_keeps
    | with_reducible intro _
    | (extract_lets +onlyGivenNames x0; first
        | ((with_reducible refine (have hx0 : Keeps P s0 x0 := ?_; ?_)); (on_goal 2 => clear_value x0); (on_goal 1 => subst x0))
        | clear_value x0)
    | with_reducible apply Keeps.ite
    | split
    | with_reducible apply Keeps.upd
    | with_reducible apply Fuses.refl
    | ((with_reducible apply Or.inr); with_reducible rfl)
    | ((with_reducible apply Or.inl); exact h _ (by decide))
    | beta_reduce)

theorem State.reqOwn_keeps {P : Part → Bool} {s0 : State} (s : State) (p : Nat) (op : Nat) (lanes : BitVec 4) (who : Nat) (speed : Bool) (h : Parts P [.lnk])
    (hs : Keeps P s0 s) : Keeps P s0 (State.reqOwn s p op lanes who speed) := by
  unfold State.reqOwn
  repeat' (first
    | with_reducible assumption
    | ((with_reducible apply Parts.mono h); decide)
    | with_reducible apply State.reqChange_keeps
    | with_reducible apply State.reqAgain_keeps
    | with_reducible intro _
    | with_reducible apply Keeps.ite
    | split)

theorem State.enterChange_keeps {P : Part → Bool} {s0 : State} (s : State) (p : Nat) (r : ChangeReq) (mine : Bool) (result : BitVec 4) (h : Parts P [.regs, .lnk])
    (hs : Keeps P s0 s) : Keeps P s0 (State.enterChange s p r mine result) := by
  unfold State.enterChange
  repeat' (first
    | with_reducible assumption
    | ((with_reducible apply Parts.mono h); decide)
    | with_reducible apply State.wrF_keeps
    | with_reducible apply State.updX_keeps
    | with_reducible intro _
    | (extract_lets +onlyGivenNames x0; first
        | ((with_reducible refine (have hx0 : Keeps P s0 x0 := ?_; ?_)); (on_goal 2 => clear_value x0); (on_goal 1 => subst x0))
        | clear_value x0)
    | with_reducible apply Keeps.ite
    | split
    | with_reducible apply Keeps.upd
    | with_reducible apply Fuses.refl
    | ((with_reducible apply Or.inr); with_reducible rfl)
    | ((with_reducible apply Or.inl); exact h _ (by decide))
    | beta_reduce)

theorem State.laneReturn_keeps {P : Part → Bool} {s0 : State} (s : State) (l : Nat) (h : Parts P [.lnk])
    (hs : Keeps P s0 s) : Keeps P s0 (State.laneReturn s l) := by
  unfold State.laneReturn
  repeat' (first
    | with_reducible assumption
    | ((with_reducible apply Parts.mono h); decide)
    | with_reducible apply State.reqOwn_keeps
    | with_reducible intro _
    | (extract_lets +onlyGivenNames x0; first
        | ((with_reducible refine (have hx0 : Keeps P s0 x0 := ?_; ?_)); (on_goal 2 => clear_value x0); (on_goal 1 => subst x0))
        | clear_value x0)
    | with_reducible apply Keeps.ite
    | split
    | with_reducible apply Keeps.upd
    | with_reducible apply Fuses.refl
    | ((with_reducible apply Or.inr); with_reducible rfl)
    | ((with_reducible apply Or.inl); exact h _ (by decide)))

theorem State.sliceAbandon_keeps {P : Part → Bool} {s0 : State} (s : State) (h : Parts P [.regs, .lnk, .flt])
    (hs : Keeps P s0 s) : Keeps P s0 (State.sliceAbandon s) := by
  unfold State.sliceAbandon
  repeat' (first
    | with_reducible assumption
    | ((with_reducible apply Parts.mono h); decide)
    | with_reducible apply State.wrF_keeps
    | with_reducible apply State.laneReturn_keeps
    | with_reducible intro _
    | (extract_lets +onlyGivenNames x0; first
        | ((with_reducible refine (have hx0 : Keeps P s0 x0 := ?_; ?_)); (on_goal 2 => clear_value x0); (on_goal 1 => subst x0))
        | clear_value x0)
    | with_reducible apply Keeps.ite
    | split
    | with_reducible apply Keeps.upd
    | with_reducible apply Fuses.refl
    | ((with_reducible apply Or.inr); with_reducible rfl)
    | ((with_reducible apply Or.inl); exact h _ (by decide)))

theorem State.unselect_keeps {P : Part → Bool} {s0 : State} (s : State) (p : Nat) (h : Parts P [.rte])
    (hs : Keeps P s0 s) : Keeps P s0 (State.unselect s p) := by
  unfold State.unselect
  repeat' (first
    | with_reducible assumption
    | ((with_reducible apply Parts.mono h); decide)
    | with_reducible apply foldl_keeps
    | with_reducible apply foldl_keepsP
    | with_reducible intro _
    | (extract_lets +onlyGivenNames x0; first
        | ((with_reducible refine (have hx0 : Keeps P s0 x0 := ?_; ?_)); (on_goal 2 => clear_value x0); (on_goal 1 => subst x0))
        | ((with_reducible refine (have hx0 : KeepsP P s0 x0 := ?_; ?_)); (on_goal 2 => clear_value x0); (on_goal 1 => subst x0))
        | clear_value x0)
    | with_reducible apply Keeps.ite
    | with_reducible apply KeepsO.getD
    | split
    | with_reducible apply KeepsP.mk
    | (with_reducible apply KeepsP.of_eq (by with_reducible assumption))
    | with_reducible apply KeepsP.fst
    | with_reducible apply Keeps.upd
    | with_reducible apply Fuses.refl
    | ((with_reducible apply Or.inr); with_reducible rfl)
    | ((with_reducible apply Or.inl); exact h _ (by decide))
    | beta_reduce)

theorem State.lnkCount_keeps {P : Part → Bool} {s0 : State} (s : State) (p : Nat) (k : Nat) (n : Nat) (h : Parts P [.regs])
    (hs : Keeps P s0 s) : Keeps P s0 (State.lnkCount s p k n) := by
  unfold State.lnkCount
  repeat' (first
    | with_reducible assumption
    | ((with_reducible apply Parts.mono h); decide)
    | with_reducible apply State.bump_keeps
    | with_reducible intro _
    | split)

theorem State.lanes_keeps {P : Part → Bool} {s0 : State} (s : State) (p : Nat) (m : BitVec 4) (fs : List (Fld × Nat)) (h : Parts P [.regs])
    (hs : Keeps P s0 s) : Keeps P s0 (State.lanes s p m fs) := by
  unfold State.lanes
  repeat' (first
    | with_reducible assumption
    | ((with_reducible apply Parts.mono h); decide)
    | with_reducible apply State.wrFs_keeps
    | with_reducible apply foldl_keeps
    | with_reducible apply foldl_keepsP
    | with_reducible intro _
    | with_reducible apply Keeps.ite
    | split
    | with_reducible apply KeepsP.mk
    | (with_reducible apply KeepsP.of_eq (by with_reducible assumption))
    | with_reducible apply KeepsP.fst
    | beta_reduce)

theorem State.portDown_keeps {P : Part → Bool} {s0 : State} (s : State) (p : Nat) (cause : Nat) (held : Bool) (h : Parts P [.regs, .lnk])
    (hs : Keeps P s0 s) : Keeps P s0 (State.portDown s p cause held) := by
  unfold State.portDown
  repeat' (first
    | with_reducible assumption
    | ((with_reducible apply Parts.mono h); decide)
    | with_reducible apply State.wrF_keeps
    | with_reducible apply State.wrFs_keeps
    | with_reducible apply State.updX_keeps
    | with_reducible apply State.lanes_keeps
    | with_reducible intro _
    | (extract_lets +onlyGivenNames x0; first
        | ((with_reducible refine (have hx0 : Keeps P s0 x0 := ?_; ?_)); (on_goal 2 => clear_value x0); (on_goal 1 => subst x0))
        | clear_value x0)
    | with_reducible apply Keeps.ite
    | split
    | with_reducible apply Keeps.upd
    | with_reducible apply Fuses.refl
    | ((with_reducible apply Or.inr); with_reducible rfl)
    | ((with_reducible apply Or.inl); exact h _ (by decide))
    | beta_reduce)

theorem State.portBreak_keeps {P : Part → Bool} {s0 : State} (s : State) (p : Nat) (cause : Nat) (held : Bool) (h : Parts P [.out, .free, .regs, .ten, .tra, .mat, .wins, .grps, .xlt, .rte, .lnk, .boot, .pwr, .flt, .evr])
    (hs : Keeps P s0 s) : Keeps P s0 (State.portBreak s p cause held) := by
  unfold State.portBreak
  repeat' (first
    | with_reducible assumption
    | ((with_reducible apply Parts.mono h); decide)
    | with_reducible apply State.note_keeps
    | with_reducible apply State.updX_keeps
    | with_reducible apply State.groupPortDown_keeps
    | with_reducible apply State.ucRaise_keeps
    | with_reducible apply State.sliceAbandon_keeps
    | with_reducible apply State.unselect_keeps
    | with_reducible apply State.lnkCount_keeps
    | with_reducible apply State.portDown_keeps
    | with_reducible intro _
    | (extract_lets +onlyGivenNames x0; first
        | ((with_reducible refine (have hx0 : Keeps P s0 x0 := ?_; ?_)); (on_goal 2 => clear_value x0); (on_goal 1 => subst x0))
        | clear_value x0)
    | with_reducible apply Keeps.ite
    | split
    | with_reducible apply Keeps.upd
    | with_reducible apply Fuses.refl
    | ((with_reducible apply Or.inr); with_reducible rfl)
    | ((with_reducible apply Or.inl); exact h _ (by decide))
    | beta_reduce)

theorem State.portStop_keeps {P : Part → Bool} {s0 : State} (s : State) (p : Nat) (cause : Nat) (held : Bool) (h : Parts P [.out, .free, .regs, .ten, .tra, .mat, .wins, .grps, .xlt, .rte, .lnk, .boot, .pwr, .flt, .evr])
    (hs : Keeps P s0 s) : Keeps P s0 (State.portStop s p cause held) := by
  unfold State.portStop
  repeat' (first
    | with_reducible assumption
    | ((with_reducible apply Parts.mono h); decide)
    | with_reducible apply State.portDown_keeps
    | with_reducible apply State.portBreak_keeps
    | with_reducible intro _
    | with_reducible apply Keeps.ite
    | split)

theorem State.narrow_keeps {P : Part → Bool} {s0 : State} (s : State) (p : Nat) (l : Option (BitVec 4)) (h : Parts P [.out, .free, .regs, .ten, .tra, .mat, .wins, .grps, .xlt, .rte, .lnk, .boot, .pwr, .flt, .evr])
    (hs : Keeps P s0 s) : Keeps P s0 (State.narrow s p l) := by
  unfold State.narrow
  repeat' (first
    | with_reducible assumption
    | ((with_reducible apply Parts.mono h); decide)
    | with_reducible apply State.reqOwn_keeps
    | with_reducible apply State.portBreak_keeps
    | with_reducible intro _
    | (extract_lets +onlyGivenNames x0; first
        | ((with_reducible refine (have hx0 : Keeps P s0 x0 := ?_; ?_)); (on_goal 2 => clear_value x0); (on_goal 1 => subst x0))
        | clear_value x0)
    | split
    | with_reducible apply Keeps.upd
    | with_reducible apply Fuses.refl
    | ((with_reducible apply Or.inr); with_reducible rfl)
    | ((with_reducible apply Or.inl); exact h _ (by decide)))

theorem State.laneFail_keeps {P : Part → Bool} {s0 : State} (s : State) (p : Nat) (lane : Nat) (blames : Nat) (h : Parts P [.out, .free, .regs, .ten, .tra, .mat, .wins, .grps, .xlt, .rte, .lnk, .boot, .pwr, .flt, .evr])
    (hs : Keeps P s0 s) : Keeps P s0 (State.laneFail s p lane blames) := by
  unfold State.laneFail
  repeat' (first
    | with_reducible assumption
    | ((with_reducible apply Parts.mono h); decide)
    | with_reducible apply State.wrF_keeps
    | with_reducible apply State.note_keeps
    | with_reducible apply State.ceRaise_keeps
    | with_reducible apply State.narrow_keeps
    | with_reducible intro _
    | (extract_lets +onlyGivenNames x0; first
        | ((with_reducible refine (have hx0 : Keeps P s0 x0 := ?_; ?_)); (on_goal 2 => clear_value x0); (on_goal 1 => subst x0))
        | ((with_reducible refine (have hx0 : KeepsP P s0 x0 := ?_; ?_)); (on_goal 2 => clear_value x0); (on_goal 1 => subst x0))
        | clear_value x0)
    | split
    | with_reducible apply KeepsP.mk
    | (with_reducible apply KeepsP.of_eq (by with_reducible assumption))
    | with_reducible apply KeepsP.fst)

theorem State.blame_keeps {P : Part → Bool} {s0 : State} (s : State) (p : Nat) (lane : Nat) (n : Nat) (h : Parts P [.out, .free, .regs, .ten, .tra, .mat, .wins, .grps, .xlt, .rte, .lnk, .boot, .pwr, .flt, .evr])
    (hs : Keeps P s0 s) : Keeps P s0 (State.blame s p lane n) := by
  unfold State.blame
  repeat' (first
    | with_reducible assumption
    | ((with_reducible apply Parts.mono h); decide)
    | with_reducible apply State.bump_keeps
    | with_reducible apply State.updX_keeps
    | with_reducible apply State.laneFail_keeps
    | with_reducible intro _
    | (extract_lets +onlyGivenNames x0; first
        | ((with_reducible refine (have hx0 : Keeps P s0 x0 := ?_; ?_)); (on_goal 2 => clear_value x0); (on_goal 1 => subst x0))
        | clear_value x0)
    | with_reducible apply Keeps.ite
    | split
    | with_reducible apply Keeps.upd
    | with_reducible apply Fuses.refl
    | ((with_reducible apply Or.inr); with_reducible rfl)
    | ((with_reducible apply Or.inl); exact h _ (by decide))
    | beta_reduce)

theorem State.again_keeps {P : Part → Bool} {s0 : State} (s : State) (p : Nat) (h : Parts P [.regs, .lnk])
    (hs : Keeps P s0 s) : Keeps P s0 (State.again s p) := by
  unfold State.again
  repeat' (first
    | with_reducible assumption
    | ((with_reducible apply Parts.mono h); decide)
    | with_reducible apply State.updX_keeps
    | with_reducible apply State.reqChange_keeps
    | with_reducible apply State.lanes_keeps
    | with_reducible intro _
    | (extract_lets +onlyGivenNames x0; first
        | ((with_reducible refine (have hx0 : Keeps P s0 x0 := ?_; ?_)); (on_goal 2 => clear_value x0); (on_goal 1 => subst x0))
        | clear_value x0)
    | split
    | with_reducible apply Keeps.upd
    | with_reducible apply Fuses.refl
    | ((with_reducible apply Or.inr); with_reducible rfl)
    | ((with_reducible apply Or.inl); exact h _ (by decide))
    | beta_reduce)

theorem State.acceptChange_keeps {P : Part → Bool} {s0 : State} (s : State) (p : Nat) (r : ChangeReq) (h : Parts P [.regs, .lnk])
    (hs : Keeps P s0 s) : Keeps P s0 (State.acceptChange s p r) := by
  unfold State.acceptChange
  repeat' (first
    | with_reducible assumption
    | ((with_reducible apply Parts.mono h); decide)
    | with_reducible apply State.updX_keeps
    | with_reducible apply State.ctrl_keeps
    | with_reducible apply State.enterChange_keeps
    | with_reducible apply State.lanes_keeps
    | with_reducible intro _
    | (extract_lets +onlyGivenNames x0; first
        | ((with_reducible refine (have hx0 : Keeps P s0 x0 := ?_; ?_)); (on_goal 2 => clear_value x0); (on_goal 1 => subst x0))
        | clear_value x0)
    | split
    | with_reducible apply Keeps.upd
    | with_reducible apply Fuses.refl
    | ((with_reducible apply Or.inr); with_reducible rfl)
    | ((with_reducible apply Or.inl); exact h _ (by decide))
    | beta_reduce)

theorem State.speedDue_keeps {P : Part → Bool} {s0 : State} (s : State) (p : Nat) (h : Parts P [.lnk])
    (hs : Keeps P s0 s) : Keeps P s0 (State.speedDue s p) := by
  unfold State.speedDue
  repeat' (first
    | with_reducible assumption
    | ((with_reducible apply Parts.mono h); decide)
    | with_reducible apply State.reqChange_keeps
    | with_reducible intro _
    | (extract_lets +onlyGivenNames x0; first
        | ((with_reducible refine (have hx0 : Keeps P s0 x0 := ?_; ?_)); (on_goal 2 => clear_value x0); (on_goal 1 => subst x0))
        | clear_value x0)
    | with_reducible apply Keeps.ite
    | split)

theorem State.nowUp_keeps {P : Part → Bool} {s0 : State} (s : State) (p : Nat) (h : Parts P [.regs, .lnk])
    (hs : Keeps P s0 s) : Keeps P s0 (State.nowUp s p) := by
  unfold State.nowUp
  repeat' (first
    | with_reducible assumption
    | ((with_reducible apply Parts.mono h); decide)
    | with_reducible apply State.updX_keeps
    | with_reducible apply State.again_keeps
    | with_reducible apply State.acceptChange_keeps
    | with_reducible apply State.speedDue_keeps
    | with_reducible intro _
    | (extract_lets +onlyGivenNames x0; first
        | ((with_reducible refine (have hx0 : Keeps P s0 x0 := ?_; ?_)); (on_goal 2 => clear_value x0); (on_goal 1 => subst x0))
        | clear_value x0)
    | with_reducible apply Keeps.ite
    | split
    | with_reducible apply Keeps.upd
    | with_reducible apply Fuses.refl
    | ((with_reducible apply Or.inr); with_reducible rfl)
    | ((with_reducible apply Or.inl); exact h _ (by decide))
    | beta_reduce)

theorem State.tryUp_keeps {P : Part → Bool} {s0 : State} (s : State) (p : Nat) (h : Parts P [.regs, .rte, .lnk, .sem, .boot, .evr])
    (hs : Keeps P s0 s) : Keeps P s0 (State.tryUp s p) := by
  unfold State.tryUp
  repeat' (first
    | with_reducible assumption
    | ((with_reducible apply Parts.mono h); decide)
    | with_reducible apply State.wrF_keeps
    | with_reducible apply State.note_keeps
    | with_reducible apply State.notice_keeps
    | with_reducible apply State.updX_keeps
    | with_reducible apply State.stallSet_keeps
    | with_reducible apply State.nowUp_keeps
    | with_reducible apply foldl_keeps
    | with_reducible apply foldl_keepsP
    | with_reducible intro _
    | (extract_lets +onlyGivenNames x0; first
        | ((with_reducible refine (have hx0 : Keeps P s0 x0 := ?_; ?_)); (on_goal 2 => clear_value x0); (on_goal 1 => subst x0))
        | ((with_reducible refine (have hx0 : KeepsP P s0 x0 := ?_; ?_)); (on_goal 2 => clear_value x0); (on_goal 1 => subst x0))
        | clear_value x0)
    | with_reducible apply Keeps.ite
    | split
    | with_reducible apply KeepsP.mk
    | (with_reducible apply KeepsP.of_eq (by with_reducible assumption))
    | with_reducible apply KeepsP.fst
    | with_reducible apply Keeps.upd
    | with_reducible apply Fuses.refl
    | ((with_reducible apply Or.inr); with_reducible rfl)
    | ((with_reducible apply Or.inl); exact h _ (by decide))
    | beta_reduce)

theorem State.trainStart_keeps {P : Part → Bool} {s0 : State} (s : State) (p : Nat) (set : BitVec 4) (change : Bool) (speed : Nat) (h : Parts P [.out, .lnk])
    (hs : Keeps P s0 s) : Keeps P s0 (State.trainStart s p set change speed) := by
  unfold State.trainStart
  repeat' (first
    | with_reducible assumption
    | ((with_reducible apply Parts.mono h); decide)
    | with_reducible apply State.emit_keeps
    | with_reducible apply State.updX_keeps
    | with_reducible apply foldl_keeps
    | with_reducible apply foldl_keepsP
    | with_reducible intro _
    | (extract_lets +onlyGivenNames x0; first
        | ((with_reducible refine (have hx0 : Keeps P s0 x0 := ?_; ?_)); (on_goal 2 => clear_value x0); (on_goal 1 => subst x0))
        | ((with_reducible refine (have hx0 : KeepsP P s0 x0 := ?_; ?_)); (on_goal 2 => clear_value x0); (on_goal 1 => subst x0))
        | clear_value x0)
    | with_reducible apply Keeps.ite
    | split
    | with_reducible apply KeepsP.mk
    | (with_reducible apply KeepsP.of_eq (by with_reducible assumption))
    | with_reducible apply KeepsP.fst
    | with_reducible apply Keeps.upd
    | with_reducible apply Fuses.refl
    | ((with_reducible apply Or.inr); with_reducible rfl)
    | ((with_reducible apply Or.inl); exact h _ (by decide))
    | beta_reduce)

theorem State.laneHand_keeps {P : Part → Bool} {s0 : State} (s : State) (p : Nat) (c : Change) (h : Parts P [.out, .lnk])
    (hs : Keeps P s0 s) : Keeps P s0 (State.laneHand s p c) := by
  unfold State.laneHand
  repeat' (first
    | with_reducible assumption
    | ((with_reducible apply Parts.mono h); decide)
    | with_reducible apply State.updX_keeps
    | with_reducible apply State.trainStart_keeps
    | with_reducible intro _
    | (extract_lets +onlyGivenNames x0; first
        | ((with_reducible refine (have hx0 : Keeps P s0 x0 := ?_; ?_)); (on_goal 2 => clear_value x0); (on_goal 1 => subst x0))
        | clear_value x0)
    | with_reducible apply Keeps.ite
    | split
    | with_reducible apply Keeps.upd
    | with_reducible apply Fuses.refl
    | ((with_reducible apply Or.inr); with_reducible rfl)
    | ((with_reducible apply Or.inl); exact h _ (by decide))
    | beta_reduce)

theorem State.tryTrain_keeps {P : Part → Bool} {s0 : State} (s : State) (p : Nat) (h : Parts P [.out, .regs, .lnk])
    (hs : Keeps P s0 s) : Keeps P s0 (State.tryTrain s p) := by
  unfold State.tryTrain
  repeat' (first
    | with_reducible assumption
    | ((with_reducible apply Parts.mono h); decide)
    | with_reducible apply State.wrF_keeps
    | with_reducible apply State.emit_keeps
    | with_reducible apply State.updX_keeps
    | with_reducible apply State.trainStart_keeps
    | with_reducible intro _
    | (extract_lets +onlyGivenNames x0; first
        | ((with_reducible refine (have hx0 : Keeps P s0 x0 := ?_; ?_)); (on_goal 2 => clear_value x0); (on_goal 1 => subst x0))
        | clear_value x0)
    | with_reducible apply Keeps.ite
    | split
    | with_reducible apply Keeps.upd
    | with_reducible apply Fuses.refl
    | ((with_reducible apply Or.inr); with_reducible rfl)
    | ((with_reducible apply Or.inl); exact h _ (by decide))
    | beta_reduce)

theorem State.markersOut_keeps {P : Part → Bool} {s0 : State} (s : State) (p : Nat) (h : Parts P [.out])
    (hs : Keeps P s0 s) : Keeps P s0 (State.markersOut s p) := by
  unfold State.markersOut
  repeat' (first
    | with_reducible assumption
    | ((with_reducible apply Parts.mono h); decide)
    | with_reducible apply State.emit_keeps
    | with_reducible apply foldl_keeps
    | with_reducible apply foldl_keepsP
    | with_reducible intro _
    | (extract_lets +onlyGivenNames x0; first
        | ((with_reducible refine (have hx0 : Keeps P s0 x0 := ?_; ?_)); (on_goal 2 => clear_value x0); (on_goal 1 => subst x0))
        | ((with_reducible refine (have hx0 : KeepsP P s0 x0 := ?_; ?_)); (on_goal 2 => clear_value x0); (on_goal 1 => subst x0))
        | clear_value x0)
    | with_reducible apply Keeps.ite
    | split
    | with_reducible apply KeepsP.mk
    | (with_reducible apply KeepsP.of_eq (by with_reducible assumption))
    | with_reducible apply KeepsP.fst
    | with_reducible apply Keeps.upd
    | with_reducible apply Fuses.refl
    | ((with_reducible apply Or.inr); with_reducible rfl)
    | ((with_reducible apply Or.inl); exact h _ (by decide))
    | beta_reduce)

theorem State.eiAnnounce_keeps {P : Part → Bool} {s0 : State} (s : State) (p : Nat) (h : Parts P [.out])
    (hs : Keeps P s0 s) : Keeps P s0 (State.eiAnnounce s p) := by
  unfold State.eiAnnounce
  repeat' (first
    | with_reducible assumption
    | ((with_reducible apply Parts.mono h); decide)
    | with_reducible apply State.emit_keeps
    | with_reducible apply foldl_keeps
    | with_reducible apply foldl_keepsP
    | with_reducible intro _
    | (extract_lets +onlyGivenNames x0; first
        | ((with_reducible refine (have hx0 : Keeps P s0 x0 := ?_; ?_)); (on_goal 2 => clear_value x0); (on_goal 1 => subst x0))
        | ((with_reducible refine (have hx0 : KeepsP P s0 x0 := ?_; ?_)); (on_goal 2 => clear_value x0); (on_goal 1 => subst x0))
        | clear_value x0)
    | with_reducible apply Keeps.ite
    | split
    | with_reducible apply KeepsP.mk
    | (with_reducible apply KeepsP.of_eq (by with_reducible assumption))
    | with_reducible apply KeepsP.fst
    | beta_reduce)

theorem State.lanesLost_keeps {P : Part → Bool} {s0 : State} (s : State) (p : Nat) (blamed : BitVec 4) (h : Parts P [.out, .free, .regs, .ten, .tra, .mat, .wins, .grps, .xlt, .rte, .lnk, .boot, .pwr, .flt, .evr])
    (hs : Keeps P s0 s) : Keeps P s0 (State.lanesLost s p blamed) := by
  unfold State.lanesLost
  repeat' (first
    | with_reducible assumption
    | ((with_reducible apply Parts.mono h); decide)
    | with_reducible apply State.portBreak_keeps
    | with_reducible apply State.blame_keeps
    | with_reducible apply foldl_keeps
    | with_reducible apply foldl_keepsP
    | with_reducible intro _
    | (extract_lets +onlyGivenNames x0; first
        | ((with_reducible refine (have hx0 : Keeps P s0 x0 := ?_; ?_)); (on_goal 2 => clear_value x0); (on_goal 1 => subst x0))
        | ((with_reducible refine (have hx0 : KeepsP P s0 x0 := ?_; ?_)); (on_goal 2 => clear_value x0); (on_goal 1 => subst x0))
        | clear_value x0)
    | split
    | with_reducible apply KeepsP.mk
    | (with_reducible apply KeepsP.of_eq (by with_reducible assumption))
    | with_reducible apply KeepsP.fst
    | beta_reduce)

theorem State.portEnable_keeps {P : Part → Bool} {s0 : State} (s : State) (p : Nat) (h : Parts P [.out, .regs, .lnk, .flt])
    (hs : Keeps P s0 s) : Keeps P s0 (State.portEnable s p) := by
  unfold State.portEnable
  repeat' (first
    | with_reducible assumption
    | ((with_reducible apply Parts.mono h); decide)
    | with_reducible apply State.wrF_keeps
    | with_reducible apply State.sliceAbandon_keeps
    | with_reducible apply State.tryTrain_keeps
    | with_reducible intro _
    | (extract_lets +onlyGivenNames x0; first
        | ((with_reducible refine (have hx0 : Keeps P s0 x0 := ?_; ?_)); (on_goal 2 => clear_value x0); (on_goal 1 => subst x0))
        | clear_value x0)
    | with_reducible apply Keeps.ite
    | split)

theorem State.portDisable_keeps {P : Part → Bool} {s0 : State} (s : State) (p : Nat) (h : Parts P [.out, .free, .regs, .ten, .tra, .mat, .wins, .grps, .xlt, .rte, .lnk, .boot, .pwr, .flt, .evr])
    (hs : Keeps P s0 s) : Keeps P s0 (State.portDisable s p) := by
  unfold State.portDisable
  repeat' (first
    | with_reducible assumption
    | ((with_reducible apply Parts.mono h); decide)
    | with_reducible apply State.wrF_keeps
    | with_reducible apply State.updX_keeps
    | with_reducible apply State.lanes_keeps
    | with_reducible apply State.portBreak_keeps
    | with_reducible apply State.eiAnnounce_keeps
    | with_reducible intro _
    | (extract_lets +onlyGivenNames x0; first
        | ((with_reducible refine (have hx0 : Keeps P s0 x0 := ?_; ?_)); (on_goal 2 => clear_value x0); (on_goal 1 => subst x0))
        | clear_value x0)
    | with_reducible apply Keeps.ite
    | split
    | with_reducible apply Keeps.upd
    | with_reducible apply Fuses.refl
    | ((with_reducible apply Or.inr); with_reducible rfl)
    | ((with_reducible apply Or.inl); exact h _ (by decide))
    | beta_reduce)

theorem State.portWake_keeps {P : Part → Bool} {s0 : State} (s : State) (p : Nat) (cause : Nat) (rule : Nat) (h : Parts P [.regs, .boot, .evr])
    (hs : Keeps P s0 s) : Keeps P s0 (State.portWake s p cause rule) := by
  unfold State.portWake
  repeat' (first
    | with_reducible assumption
    | ((with_reducible apply Parts.mono h); decide)
    | with_reducible apply State.wrF_keeps
    | with_reducible apply State.note_keeps
    | with_reducible intro _
    | with_reducible apply Keeps.ite
    | split)

end Sys2Proof.Machine
end

