-- ==== Sys2Proof/Laws/FaultOps.lean ====
section
/-! SUPPORT. What the operations of Machine/FaultOps.lean keep. -/

set_option linter.unusedTactic false
set_option linter.unreachableTactic false
set_option linter.unusedVariables false

namespace Sys2Proof.Machine

open Sys2Proof

theorem State.freeze_keeps {P : Part → Bool} {s0 : State} (s : State) (h : Parts P [.out, .regs, .flt])
    (hs : Keeps P s0 s) : Keeps P s0 (State.freeze s) := by
  unfold State.freeze
  repeat' (first
    | with_reducible assumption
    | ((with_reducible apply Parts.mono h); decide)
    | with_reducible apply State.wrF_keeps
    | with_reducible apply State.eiAnnounce_keeps
    | with_reducible apply foldl_keeps
    | with_reducible apply foldl_keepsP
    | with_reducible intro _
    | (extract_lets +onlyGivenNames x0; first
        | ((with_reducible refine (have hx0 : Keeps P s0 x0 := ?_; ?_)); (on_goal 2 => clear_value x0); (on_goal 1 => subst x0))
        | ((with_reducible refine (have hx0 : KeepsP P s0 x0 := ?_; ?_)); (on_goal 2 => clear_value x0); (on_goal 1 => subst x0))
        | clear_value x0)
    | with_reducible apply Keeps.ite
    | split
    | with_reducible apply KeepsP.mk
    | (with_reducible apply KeepsP.of_eq (by with_reducible assumption))
    | with_reducible apply KeepsP.fst
    | with_reducible apply Keeps.upd
    | with_reducible apply Fuses.refl
    | ((with_reducible apply Or.inr); with_reducible rfl)
    | ((with_reducible apply Or.inl); exact h _ (by decide))
    | beta_reduce)

theorem State.ftRaise_keeps {P : Part → Bool} {s0 : State} (s : State) (n : Nat) (forced : Bool) (h : Parts P [.out, .regs, .boot, .pwr, .flt, .evr])
    (hs : Keeps P s0 s) : Keeps P s0 (State.ftRaise s n forced) := by
  unfold State.ftRaise
  repeat' (first
    | with_reducible assumption
    | ((with_reducible apply Parts.mono h); decide)
    | with_reducible apply State.wrF_keeps
    | with_reducible apply State.wrFs_keeps
    | with_reducible apply State.bump_keeps
    | with_reducible apply State.emit_keeps
    | with_reducible apply State.record_keeps
    | with_reducible apply State.setPend_keeps
    | with_reducible apply State.freeze_keeps
    | with_reducible intro _
    | (extract_lets +onlyGivenNames x0; first
        | ((with_reducible refine (have hx0 : Keeps P s0 x0 := ?_; ?_)); (on_goal 2 => clear_value x0); (on_goal 1 => subst x0))
        | ((with_reducible have _x0 : Boot := x0); clear _x0; subst x0)
        | clear_value x0)
    | with_reducible apply Keeps.ite
    | split
    | with_reducible apply Keeps.upd
    | with_reducible apply Fuses.refl
    | ((with_reducible apply Fuses.mk) <;> first | exact fun l => ⟨l, Nat.le_refl _, Nat.le_refl _⟩ | exact fun o => ⟨o, rfl⟩ | exact Nat.le_refl _ | exact fun o => o)
    | ((with_reducible apply Or.inr); with_reducible rfl)
    | ((with_reducible apply Or.inl); exact h _ (by decide)))

end Sys2Proof.Machine
end

