-- ==== Sys2Proof/Laws/TransOps.lean ====
section
/-! SUPPORT. What the operations of Machine/TransOps.lean keep. -/

set_option linter.unusedTactic false
set_option linter.unreachableTactic false
set_option linter.unusedVariables false

namespace Sys2Proof.Machine

open Sys2Proof

theorem State.atDoms_keeps {P : Part → Bool} {s0 : State} (s : State) (p : Packet) (doms : List Nat) (act : State → State) (h : Parts P [.regs, .xlt, .rte, .lnk, .pwr]) (h_act : ∀ a, Keeps P s0 a → Keeps P s0 (act a))
    (hs : Keeps P s0 s) : Keeps P s0 (State.atDoms s p doms act) := by
  unfold State.atDoms
  repeat' (first
    | with_reducible assumption
    | ((with_reducible apply Parts.mono h); decide)
    | with_reducible apply h_act
    | with_reducible apply State.bump_keeps
    | with_reducible apply State.takeLocal_keeps
    | with_reducible apply State.wake_keeps
    | with_reducible apply foldl_keeps
    | with_reducible apply foldl_keepsP
    | with_reducible intro _
    | (extract_lets +onlyGivenNames x0; first
        | ((with_reducible refine (have hx0 : Keeps P s0 x0 := ?_; ?_)); (on_goal 2 => clear_value x0); (on_goal 1 => subst x0))
        | ((with_reducible refine (have hx0 : KeepsP P s0 x0 := ?_; ?_)); (on_goal 2 => clear_value x0); (on_goal 1 => subst x0))
        | clear_value x0)
    | with_reducible apply Keeps.ite
    | split
    | with_reducible apply KeepsP.mk
    | (with_reducible apply KeepsP.of_eq (by with_reducible assumption))
    | with_reducible apply KeepsP.fst
    | with_reducible apply Keeps.upd
    | with_reducible apply Fuses.refl
    | ((with_reducible apply Or.inr); with_reducible rfl)
    | ((with_reducible apply Or.inl); exact h _ (by decide))
    | beta_reduce)

theorem State.renumber_keeps {P : Part → Bool} {s0 : State} (s : State) (o : Owner) (old : Psn) (new : Psn) (h : Parts P [.ten, .mat])
    (hs : Keeps P s0 s) : Keeps P s0 (State.renumber s o old new) := by
  unfold State.renumber
  repeat' (first
    | with_reducible assumption
    | ((with_reducible apply Parts.mono h); decide)
    | with_reducible apply State.updJob_keeps
    | with_reducible intro _
    | (extract_lets +onlyGivenNames x0; first
        | ((with_reducible refine (have hx0 : Keeps P s0 x0 := ?_; ?_)); (on_goal 2 => clear_value x0); (on_goal 1 => subst x0))
        | ((with_reducible have _x0 : _ → _ := x0); clear _x0; subst x0; beta_reduce)
        | clear_value x0)
    | with_reducible apply Keeps.ite
    | split
    | with_reducible apply Keeps.upd
    | with_reducible apply Fuses.refl
    | ((with_reducible apply Or.inr); with_reducible rfl)
    | ((with_reducible apply Or.inl); exact h _ (by decide))
    | beta_reduce)

theorem State.pathOf_keeps {P : Part → Bool} {s0 : State} (s : State) (id : SpaceId) (k : Packet) (h : Parts P [.ten, .tra])
    (hs : Keeps P s0 s) : KeepsP P s0 (State.pathOf s id k) := by
  unfold State.pathOf
  repeat' (first
    | with_reducible assumption
    | ((with_reducible apply Parts.mono h); decide)
    | with_reducible apply State.flowlet_keeps
    | with_reducible intro _
    | (extract_lets +onlyGivenNames x0; first
        | ((with_reducible refine (have hx0 : Keeps P s0 x0 := ?_; ?_)); (on_goal 2 => clear_value x0); (on_goal 1 => subst x0))
        | ((with_reducible refine (have hx0 : KeepsP P s0 x0 := ?_; ?_)); (on_goal 2 => clear_value x0); (on_goal 1 => subst x0))
        | clear_value x0)
    | split
    | with_reducible apply KeepsP.mk
    | (with_reducible apply KeepsP.of_eq (by with_reducible assumption))
    | with_reducible apply KeepsP.fst
    | with_reducible apply Keeps.upd
    | with_reducible apply Fuses.refl
    | ((with_reducible apply Or.inr); with_reducible rfl)
    | ((with_reducible apply Or.inl); exact h _ (by decide)))

theorem State.sendResend_keeps {P : Part → Bool} {s0 : State} (s : State) (id : SpaceId) (r : Resend) (bs : List Byte) (h : Parts P [.regs, .ten, .tra, .mat, .rte])
    (hs : Keeps P s0 s) : Keeps P s0 (State.sendResend s id r bs) := by
  unfold State.sendResend
  repeat' (first
    | with_reducible assumption
    | ((with_reducible apply Parts.mono h); decide)
    | with_reducible apply State.updSp_keeps
    | with_reducible apply State.sendNew_keeps
    | with_reducible apply State.renumber_keeps
    | with_reducible apply State.pathOf_keeps
    | with_reducible intro _
    | (extract_lets +onlyGivenNames x0; first
        | ((with_reducible refine (have hx0 : Keeps P s0 x0 := ?_; ?_)); (on_goal 2 => clear_value x0); (on_goal 1 => subst x0))
        | ((with_reducible refine (have hx0 : KeepsP P s0 x0 := ?_; ?_)); (on_goal 2 => clear_value x0); (on_goal 1 => subst x0))
        | clear_value x0)
    | split
    | with_reducible apply KeepsP.mk
    | (with_reducible apply KeepsP.of_eq (by with_reducible assumption))
    | with_reducible apply KeepsP.fst
    | with_reducible apply Keeps.upd
    | with_reducible apply Fuses.refl
    | ((with_reducible apply Or.inr); with_reducible rfl)
    | ((with_reducible apply Or.inl); exact h _ (by decide))
    | beta_reduce)

theorem State.flushResends_keeps {P : Part → Bool} {s0 : State} (s : State) (id : SpaceId) (z0 : Nat) (h : Parts P [.regs, .ten, .tra, .mat, .rte])
    (hs : Keeps P s0 s) : Keeps P s0 (State.flushResends s id z0) := by
  induction z0 generalizing s with
  | zero =>
    unfold State.flushResends
    repeat' (first
      | with_reducible assumption
      | ((with_reducible apply Parts.mono h); decide)
      | with_reducible apply State.sendResend_keeps
      | with_reducible intro _
      | (extract_lets +onlyGivenNames x0; first
          | ((with_reducible refine (have hx0 : Keeps P s0 x0 := ?_; ?_)); (on_goal 2 => clear_value x0); (on_goal 1 => subst x0))
          | clear_value x0)
      | with_reducible apply Keeps.ite
      | split
      | with_reducible apply Keeps.upd
      | with_reducible apply Fuses.refl
      | ((with_reducible apply Or.inr); with_reducible rfl)
      | ((with_reducible apply Or.inl); exact h _ (by decide)))
  | succ n ih =>
    unfold State.flushResends
    repeat' (first
      | with_reducible assumption
      | ((with_reducible apply Parts.mono h); decide)
      | with_reducible apply ih
      | with_reducible apply State.sendResend_keeps
      | with_reducible intro _
      | (extract_lets +onlyGivenNames x0; first
          | ((with_reducible refine (have hx0 : Keeps P s0 x0 := ?_; ?_)); (on_goal 2 => clear_value x0); (on_goal 1 => subst x0))
          | clear_value x0)
      | with_reducible apply Keeps.ite
      | split
      | with_reducible apply Keeps.upd
      | with_reducible apply Fuses.refl
      | ((with_reducible apply Or.inr); with_reducible rfl)
      | ((with_reducible apply Or.inl); exact h _ (by decide)))

theorem State.jobPacket_keeps {P : Part → Bool} {s0 : State} (s : State) (q : Nat) (v : Qp) (j : Job) (id : SpaceId) (p : Packet) (off : Nat) (h : Parts P [.regs, .ten, .tra, .rte])
    (hs : Keeps P s0 s) : Keeps P s0 (State.jobPacket s q v j id p off) := by
  unfold State.jobPacket
  repeat' (first
    | with_reducible assumption
    | ((with_reducible apply Parts.mono h); decide)
    | with_reducible apply State.sendNew_keeps
    | with_reducible apply State.flowlet_keeps
    | with_reducible intro _
    | (extract_lets +onlyGivenNames x0; first
        | ((with_reducible refine (have hx0 : Keeps P s0 x0 := ?_; ?_)); (on_goal 2 => clear_value x0); (on_goal 1 => subst x0))
        | ((with_reducible refine (have hx0 : KeepsP P s0 x0 := ?_; ?_)); (on_goal 2 => clear_value x0); (on_goal 1 => subst x0))
        | clear_value x0)
    | with_reducible apply Keeps.ite
    | split
    | with_reducible apply KeepsP.mk
    | (with_reducible apply KeepsP.of_eq (by with_reducible assumption))
    | with_reducible apply KeepsP.fst
    | with_reducible apply Keeps.upd
    | with_reducible apply Fuses.refl
    | ((with_reducible apply Or.inr); with_reducible rfl)
    | ((with_reducible apply Or.inl); exact h _ (by decide)))

theorem State.sendData_keeps {P : Part → Bool} {s0 : State} (s : State) (q : Nat) (v : Qp) (j : Job) (id : SpaceId) (h : Parts P [.out, .free, .regs, .ten, .tra, .mat, .wins, .grps, .xlt, .rte, .pwr])
    (hs : Keeps P s0 s) : Keeps P s0 (State.sendData s q v j id) := by
  unfold State.sendData
  repeat' (first
    | with_reducible assumption
    | ((with_reducible apply Parts.mono h); decide)
    | with_reducible apply State.updJob_keeps
    | with_reducible apply State.jobRead_keeps
    | with_reducible apply State.jobPacket_keeps
    | with_reducible intro _
    | (extract_lets +onlyGivenNames x0; first
        | ((with_reducible refine (have hx0 : Keeps P s0 x0 := ?_; ?_)); (on_goal 2 => clear_value x0); (on_goal 1 => subst x0))
        | ((with_reducible refine (have hx0 : KeepsP P s0 x0 := ?_; ?_)); (on_goal 2 => clear_value x0); (on_goal 1 => subst x0))
        | clear_value x0)
    | with_reducible apply Keeps.ite
    | split
    | with_reducible apply KeepsP.mk
    | (with_reducible apply KeepsP.of_eq (by with_reducible assumption))
    | with_reducible apply KeepsP.fst
    | with_reducible apply Keeps.upd
    | with_reducible apply Fuses.refl
    | ((with_reducible apply Or.inr); with_reducible rfl)
    | ((with_reducible apply Or.inl); exact h _ (by decide))
    | beta_reduce)

theorem State.sendRts_keeps {P : Part → Bool} {s0 : State} (s : State) (q : Nat) (v : Qp) (j : Job) (id : SpaceId) (h : Parts P [.regs, .ten, .tra, .rte])
    (hs : Keeps P s0 s) : Keeps P s0 (State.sendRts s q v j id) := by
  unfold State.sendRts
  repeat' (first
    | with_reducible assumption
    | ((with_reducible apply Parts.mono h); decide)
    | with_reducible apply State.updJob_keeps
    | with_reducible apply State.jobPacket_keeps
    | with_reducible intro _
    | (extract_lets +onlyGivenNames x0; first
        | ((with_reducible refine (have hx0 : Keeps P s0 x0 := ?_; ?_)); (on_goal 2 => clear_value x0); (on_goal 1 => subst x0))
        | clear_value x0)
    | split
    | with_reducible apply Keeps.upd
    | with_reducible apply Fuses.refl
    | ((with_reducible apply Or.inr); with_reducible rfl)
    | ((with_reducible apply Or.inl); exact h _ (by decide))
    | beta_reduce)

theorem State.sendAsk_keeps {P : Part → Bool} {s0 : State} (s : State) (q : Nat) (v : Qp) (j : Job) (id : SpaceId) (p : Packet) (n : Nat) (h : Parts P [.out, .free, .regs, .ten, .tra, .mat, .wins, .grps, .xlt, .rte, .pwr])
    (hs : Keeps P s0 s) : Keeps P s0 (State.sendAsk s q v j id p n) := by
  unfold State.sendAsk
  repeat' (first
    | with_reducible assumption
    | ((with_reducible apply Parts.mono h); decide)
    | with_reducible apply State.sgXlate_keeps
    | with_reducible apply State.updJob_keeps
    | with_reducible apply State.jobFail_keeps
    | with_reducible apply State.trapAsk_keeps
    | with_reducible apply State.jobPacket_keeps
    | with_reducible intro _
    | (extract_lets +onlyGivenNames x0; first
        | ((with_reducible refine (have hx0 : Keeps P s0 x0 := ?_; ?_)); (on_goal 2 => clear_value x0); (on_goal 1 => subst x0))
        | ((with_reducible refine (have hx0 : KeepsP P s0 x0 := ?_; ?_)); (on_goal 2 => clear_value x0); (on_goal 1 => subst x0))
        | clear_value x0)
    | with_reducible apply Keeps.ite
    | split
    | with_reducible apply KeepsP.mk
    | (with_reducible apply KeepsP.of_eq (by with_reducible assumption))
    | with_reducible apply KeepsP.fst
    | with_reducible apply Keeps.upd
    | with_reducible apply Fuses.refl
    | ((with_reducible apply Or.inr); with_reducible rfl)
    | ((with_reducible apply Or.inl); exact h _ (by decide))
    | beta_reduce)

theorem State.sendGet_keeps {P : Part → Bool} {s0 : State} (s : State) (q : Nat) (v : Qp) (j : Job) (id : SpaceId) (h : Parts P [.out, .free, .regs, .ten, .tra, .mat, .wins, .grps, .xlt, .rte, .pwr])
    (hs : Keeps P s0 s) : Keeps P s0 (State.sendGet s q v j id) := by
  unfold State.sendGet
  repeat' (first
    | with_reducible assumption
    | ((with_reducible apply Parts.mono h); decide)
    | with_reducible apply State.sendAsk_keeps
    | with_reducible intro _
    | (extract_lets +onlyGivenNames x0; first
        | ((with_reducible refine (have hx0 : Keeps P s0 x0 := ?_; ?_)); (on_goal 2 => clear_value x0); (on_goal 1 => subst x0))
        | clear_value x0)
    | with_reducible apply Keeps.ite
    | split
    | with_reducible apply Keeps.upd
    | with_reducible apply Fuses.refl
    | ((with_reducible apply Or.inr); with_reducible rfl)
    | ((with_reducible apply Or.inl); exact h _ (by decide))
    | beta_reduce)

theorem State.sendAtomic_keeps {P : Part → Bool} {s0 : State} (s : State) (q : Nat) (v : Qp) (j : Job) (id : SpaceId) (h : Parts P [.out, .free, .regs, .ten, .tra, .mat, .wins, .grps, .xlt, .rte, .pwr])
    (hs : Keeps P s0 s) : Keeps P s0 (State.sendAtomic s q v j id) := by
  unfold State.sendAtomic
  repeat' (first
    | with_reducible assumption
    | ((with_reducible apply Parts.mono h); decide)
    | with_reducible apply State.sendAsk_keeps
    | with_reducible intro _
    | (extract_lets +onlyGivenNames x0; first
        | ((with_reducible refine (have hx0 : Keeps P s0 x0 := ?_; ?_)); (on_goal 2 => clear_value x0); (on_goal 1 => subst x0))
        | clear_value x0)
    | split
    | with_reducible apply Keeps.upd
    | with_reducible apply Fuses.refl
    | ((with_reducible apply Or.inr); with_reducible rfl)
    | ((with_reducible apply Or.inl); exact h _ (by decide)))

theorem State.sendNext_keeps {P : Part → Bool} {s0 : State} (s : State) (q : Nat) (v : Qp) (j : Job) (id : SpaceId) (h : Parts P [.out, .free, .regs, .ten, .tra, .mat, .wins, .grps, .xlt, .rte, .pwr])
    (hs : Keeps P s0 s) : Keeps P s0 (State.sendNext s q v j id) := by
  unfold State.sendNext
  repeat' (first
    | with_reducible assumption
    | ((with_reducible apply Parts.mono h); decide)
    | with_reducible apply State.sendData_keeps
    | with_reducible apply State.sendRts_keeps
    | with_reducible apply State.sendGet_keeps
    | with_reducible apply State.sendAtomic_keeps
    | with_reducible intro _
    | (extract_lets +onlyGivenNames x0; first
        | ((with_reducible refine (have hx0 : Keeps P s0 x0 := ?_; ?_)); (on_goal 2 => clear_value x0); (on_goal 1 => subst x0))
        | clear_value x0)
    | with_reducible apply Keeps.ite
    | split
    | with_reducible apply Keeps.upd
    | with_reducible apply Fuses.refl
    | ((with_reducible apply Or.inr); with_reducible rfl)
    | ((with_reducible apply Or.inl); exact h _ (by decide)))

theorem State.sendJob_keeps {P : Part → Bool} {s0 : State} (s : State) (q : Nat) (ring : Count32) (h : Parts P [.out, .free, .regs, .ten, .tra, .mat, .wins, .grps, .xlt, .rte, .pwr])
    (hs : Keeps P s0 s) : Keeps P s0 (State.sendJob s q ring) := by
  unfold State.sendJob
  repeat' (first
    | with_reducible assumption
    | ((with_reducible apply Parts.mono h); decide)
    | with_reducible apply State.sendAgain_keeps
    | with_reducible apply State.jobRead_keeps
    | with_reducible apply State.sendResend_keeps
    | with_reducible apply State.sendNext_keeps
    | with_reducible intro _
    | (extract_lets +onlyGivenNames x0; first
        | ((with_reducible refine (have hx0 : Keeps P s0 x0 := ?_; ?_)); (on_goal 2 => clear_value x0); (on_goal 1 => subst x0))
        | ((with_reducible refine (have hx0 : KeepsP P s0 x0 := ?_; ?_)); (on_goal 2 => clear_value x0); (on_goal 1 => subst x0))
        | clear_value x0)
    | with_reducible apply Keeps.ite
    | split
    | with_reducible apply KeepsP.mk
    | (with_reducible apply KeepsP.of_eq (by with_reducible assumption))
    | with_reducible apply KeepsP.fst
    | with_reducible apply Keeps.upd
    | with_reducible apply Fuses.refl
    | ((with_reducible apply Or.inr); with_reducible rfl)
    | ((with_reducible apply Or.inl); exact h _ (by decide))
    | beta_reduce)

theorem State.sendResp_keeps {P : Part → Bool} {s0 : State} (s : State) (i : Nat) (h : Parts P [.out, .free, .regs, .ten, .tra, .mat, .wins, .grps, .xlt, .rte, .pwr])
    (hs : Keeps P s0 s) : Keeps P s0 (State.sendResp s i) := by
  unfold State.sendResp
  repeat' (first
    | with_reducible assumption
    | ((with_reducible apply Parts.mono h); decide)
    | with_reducible apply State.sendNew_keeps
    | with_reducible apply State.sendAgain_keeps
    | with_reducible apply State.flowlet_keeps
    | with_reducible apply State.respRead_keeps
    | with_reducible intro _
    | (extract_lets +onlyGivenNames x0; first
        | ((with_reducible refine (have hx0 : Keeps P s0 x0 := ?_; ?_)); (on_goal 2 => clear_value x0); (on_goal 1 => subst x0))
        | ((with_reducible refine (have hx0 : KeepsP P s0 x0 := ?_; ?_)); (on_goal 2 => clear_value x0); (on_goal 1 => subst x0))
        | clear_value x0)
    | with_reducible apply Keeps.ite
    | split
    | with_reducible apply KeepsP.mk
    | (with_reducible apply KeepsP.of_eq (by with_reducible assumption))
    | with_reducible apply KeepsP.fst
    | with_reducible apply Keeps.upd
    | with_reducible apply Fuses.refl
    | ((with_reducible apply Or.inr); with_reducible rfl)
    | ((with_reducible apply Or.inl); exact h _ (by decide))
    | beta_reduce)

theorem State.dropResps_keeps {P : Part → Bool} {s0 : State} (s : State) (id : SpaceId) (pick : Nat → Resp → Bool) (status : Nat) (h : Parts P [.out, .free, .regs, .ten, .tra, .mat, .wins, .grps, .xlt, .rte, .pwr])
    (hs : Keeps P s0 s) : Keeps P s0 (State.dropResps s id pick status) := by
  unfold State.dropResps
  repeat' (first
    | with_reducible assumption
    | ((with_reducible apply Parts.mono h); decide)
    | with_reducible apply State.giveUpResps_keeps
    | with_reducible apply State.jobsFail_keeps
    | with_reducible intro _
    | (extract_lets +onlyGivenNames x0; first
        | ((with_reducible refine (have hx0 : Keeps P s0 x0 := ?_; ?_)); (on_goal 2 => clear_value x0); (on_goal 1 => subst x0))
        | clear_value x0)
    | split
    | beta_reduce)

theorem State.failFetches_keeps {P : Part → Bool} {s0 : State} (s : State) (id : SpaceId) (pick : Nat → Bool) (status : Nat) (h : Parts P [.ten, .mat])
    (hs : Keeps P s0 s) : Keeps P s0 (State.failFetches s id pick status) := by
  unfold State.failFetches
  repeat' (first
    | with_reducible assumption
    | ((with_reducible apply Parts.mono h); decide)
    | with_reducible apply State.fetchFail_keeps
    | with_reducible apply foldl_keeps
    | with_reducible apply foldl_keepsP
    | with_reducible intro _
    | split
    | with_reducible apply KeepsP.mk
    | (with_reducible apply KeepsP.of_eq (by with_reducible assumption))
    | with_reducible apply KeepsP.fst
    | beta_reduce)

theorem State.resync_keeps {P : Part → Bool} {s0 : State} (s : State) (n : Nat) (h : Parts P [.now, .ft, .regs, .tra, .rte, .lnk, .pwr])
    (hs : Keeps P s0 s) : Keeps P s0 (State.resync s n) := by
  unfold State.resync
  repeat' (first
    | with_reducible assumption
    | ((with_reducible apply Parts.mono h); decide)
    | with_reducible apply State.syncStart_keeps
    | with_reducible intro _
    | (extract_lets +onlyGivenNames x0; first
        | ((with_reducible refine (have hx0 : Keeps P s0 x0 := ?_; ?_)); (on_goal 2 => clear_value x0); (on_goal 1 => subst x0))
        | clear_value x0)
    | with_reducible apply Keeps.ite
    | split
    | beta_reduce)

theorem State.spaceFail_keeps {P : Part → Bool} {s0 : State} (s : State) (id : SpaceId) (h : Parts P [.out, .free, .now, .ft, .regs, .ten, .tra, .mat, .wins, .grps, .xlt, .rte, .lnk, .pwr])
    (hs : Keeps P s0 s) : Keeps P s0 (State.spaceFail s id) := by
  unfold State.spaceFail
  repeat' (first
    | with_reducible assumption
    | ((with_reducible apply Parts.mono h); decide)
    | with_reducible apply State.idle_keeps
    | with_reducible apply State.setNp_keeps
    | with_reducible apply State.updSp_keeps
    | with_reducible apply State.quietFlows_keeps
    | with_reducible apply State.qpFail_keeps
    | with_reducible apply State.jobFail_keeps
    | with_reducible apply State.jobsFail_keeps
    | with_reducible apply State.dropResps_keeps
    | with_reducible apply State.failFetches_keeps
    | with_reducible apply State.resync_keeps
    | with_reducible intro _
    | (extract_lets +onlyGivenNames x0; first
        | ((with_reducible refine (have hx0 : Keeps P s0 x0 := ?_; ?_)); (on_goal 2 => clear_value x0); (on_goal 1 => subst x0))
        | ((with_reducible have _x0 : _ → _ := x0); clear _x0; subst x0; beta_reduce)
        | clear_value x0)
    | with_reducible apply Keeps.ite
    | split
    | with_reducible apply Keeps.upd
    | with_reducible apply Fuses.refl
    | ((with_reducible apply Or.inr); with_reducible rfl)
    | ((with_reducible apply Or.inl); exact h _ (by decide))
    | beta_reduce)

theorem State.syncFail_keeps {P : Part → Bool} {s0 : State} (s : State) (n : Nat) (h : Parts P [.out, .free, .now, .ft, .regs, .ten, .tra, .mat, .wins, .grps, .xlt, .rte, .lnk, .pwr])
    (hs : Keeps P s0 s) : Keeps P s0 (State.syncFail s n) := by
  unfold State.syncFail
  repeat' (first
    | with_reducible assumption
    | ((with_reducible apply Parts.mono h); decide)
    | with_reducible apply State.idle_keeps
    | with_reducible apply State.setNp_keeps
    | with_reducible apply State.updSp_keeps
    | with_reducible apply State.quietFlows_keeps
    | with_reducible apply State.jobsFail_keeps
    | with_reducible apply State.dropResps_keeps
    | with_reducible apply State.failFetches_keeps
    | with_reducible intro _
    | (extract_lets +onlyGivenNames x0; first
        | ((with_reducible refine (have hx0 : Keeps P s0 x0 := ?_; ?_)); (on_goal 2 => clear_value x0); (on_goal 1 => subst x0))
        | clear_value x0)
    | with_reducible apply Keeps.ite
    | split
    | with_reducible apply Keeps.upd
    | with_reducible apply Fuses.refl
    | ((with_reducible apply Or.inr); with_reducible rfl)
    | ((with_reducible apply Or.inl); exact h _ (by decide))
    | beta_reduce)

theorem State.respRefused_keeps {P : Part → Bool} {s0 : State} (s : State) (i : Nat) (status : Nat) (h : Parts P [.out, .free, .regs, .ten, .tra, .mat, .wins, .grps, .xlt, .rte, .pwr])
    (hs : Keeps P s0 s) : Keeps P s0 (State.respRefused s i status) := by
  unfold State.respRefused
  repeat' (first
    | with_reducible assumption
    | ((with_reducible apply Parts.mono h); decide)
    | with_reducible apply State.bump_keeps
    | with_reducible apply State.respCheck_keeps
    | with_reducible apply State.jobFail_keeps
    | with_reducible intro _
    | (extract_lets +onlyGivenNames x0; first
        | ((with_reducible refine (have hx0 : Keeps P s0 x0 := ?_; ?_)); (on_goal 2 => clear_value x0); (on_goal 1 => subst x0))
        | clear_value x0)
    | with_reducible apply Keeps.ite
    | split
    | with_reducible apply Keeps.upd
    | with_reducible apply Fuses.refl
    | ((with_reducible apply Or.inr); with_reducible rfl)
    | ((with_reducible apply Or.inl); exact h _ (by decide)))

theorem State.terminal_keeps {P : Part → Bool} {s0 : State} (s : State) (id : SpaceId) (psn : Psn) (reason : Nat) (h : Parts P [.out, .free, .regs, .ten, .tra, .mat, .wins, .grps, .xlt, .rte, .pwr])
    (hs : Keeps P s0 s) : Keeps P s0 (State.terminal s id psn reason) := by
  unfold State.terminal
  repeat' (first
    | with_reducible assumption
    | ((with_reducible apply Parts.mono h); decide)
    | with_reducible apply State.tally_keeps
    | with_reducible apply State.nak_keeps
    | with_reducible apply State.jobFail_keeps
    | with_reducible apply State.fetchFail_keeps
    | with_reducible apply State.respRefused_keeps
    | with_reducible intro _
    | (extract_lets +onlyGivenNames x0; first
        | ((with_reducible refine (have hx0 : Keeps P s0 x0 := ?_; ?_)); (on_goal 2 => clear_value x0); (on_goal 1 => subst x0))
        | clear_value x0)
    | with_reducible apply Keeps.ite
    | split
    | with_reducible apply Keeps.upd
    | with_reducible apply Fuses.refl
    | ((with_reducible apply Or.inr); with_reducible rfl)
    | ((with_reducible apply Or.inl); exact h _ (by decide))
    | beta_reduce)

theorem State.gateSeen_keeps {P : Part → Bool} {s0 : State} (s : State) (p : Packet) (h : Parts P [.tra])
    (hs : Keeps P s0 s) : Keeps P s0 (State.gateSeen s p) := by
  unfold State.gateSeen
  repeat' (first
    | with_reducible assumption
    | ((with_reducible apply Parts.mono h); decide)
    | with_reducible intro _
    | (extract_lets +onlyGivenNames x0; first
        | ((with_reducible refine (have hx0 : Keeps P s0 x0 := ?_; ?_)); (on_goal 2 => clear_value x0); (on_goal 1 => subst x0))
        | clear_value x0)
    | with_reducible apply Keeps.ite
    | split
    | with_reducible apply Keeps.upd
    | with_reducible apply Fuses.refl
    | ((with_reducible apply Or.inr); with_reducible rfl)
    | ((with_reducible apply Or.inl); exact h _ (by decide))
    | beta_reduce)

theorem State.refuse_keeps {P : Part → Bool} {s0 : State} (s : State) (p : Packet) (reason : Nat) (backoff : Nat) (h : Parts P [.regs, .ten, .tra, .rte])
    (hs : Keeps P s0 s) : Keeps P s0 (State.refuse s p reason backoff) := by
  unfold State.refuse
  repeat' (first
    | with_reducible assumption
    | ((with_reducible apply Parts.mono h); decide)
    | with_reducible apply State.nak_keeps
    | with_reducible apply State.psnTaken_keeps
    | with_reducible apply State.gateSeen_keeps
    | with_reducible intro _
    | split)

theorem State.accept_keeps {P : Part → Bool} {s0 : State} (s : State) (p : Packet) (complete : Bool) (h : Parts P [.regs, .ten, .tra, .rte])
    (hs : Keeps P s0 s) : Keeps P s0 (State.accept s p complete) := by
  unfold State.accept
  repeat' (first
    | with_reducible assumption
    | ((with_reducible apply Parts.mono h); decide)
    | with_reducible apply State.psnTaken_keeps
    | with_reducible apply State.accepted_keeps
    | with_reducible apply State.gateSeen_keeps
    | with_reducible intro _
    | split)

theorem State.fnDrop_keeps {P : Part → Bool} {s0 : State} (s : State) (f : Nat) (h : Parts P [.ten])
    (hs : Keeps P s0 s) : Keeps P s0 (State.fnDrop s f) := by
  unfold State.fnDrop
  repeat' (first
    | with_reducible assumption
    | ((with_reducible apply Parts.mono h); decide)
    | with_reducible apply State.setFn_keeps
    | with_reducible intro _
    | (extract_lets +onlyGivenNames x0; first
        | ((with_reducible refine (have hx0 : Keeps P s0 x0 := ?_; ?_)); (on_goal 2 => clear_value x0); (on_goal 1 => subst x0))
        | clear_value x0)
    | split
    | with_reducible apply Keeps.upd
    | with_reducible apply Fuses.refl
    | ((with_reducible apply Or.inr); with_reducible rfl)
    | ((with_reducible apply Or.inl); exact h _ (by decide)))

theorem State.gateReset_keeps {P : Part → Bool} {s0 : State} (s : State) (p : Packet) (h : Parts P [.out, .regs, .ten, .tra, .mat, .xlt, .pwr])
    (hs : Keeps P s0 s) : Keeps P s0 (State.gateReset s p) := by
  unfold State.gateReset
  extract_lets mine n g t
  have h1 : Keeps P s0 t := State.setGate_keeps _ _ _ _ _ _ (h.mono (by decide)) (State.discardMsgs_keeps _ _ (h.mono (by decide)) hs)
  clear_value t
  split
  · exact State.eqEvent_keeps _ _ _ (h.mono (by decide)) h1
  · exact h1


theorem State.gateEntry_keeps {P : Part → Bool} {s0 t : State} (s : State) (p : Packet) (e : s.gateEntry p = .there t)
    (h : Parts P [.out, .regs, .ten, .tra, .mat, .xlt, .pwr]) (hs : Keeps P s0 s) : Keeps P s0 t := by
  unfold State.gateEntry at e
  repeat' (first
    | (split at e)
    | (cases e; done)
    | (cases e; with_reducible assumption)
    | (cases e; exact State.gateReset_keeps _ _ (h.mono (by decide)) hs)
    | (cases e; exact State.setGate_keeps _ _ _ _ _ _ (h.mono (by decide)) hs))

theorem State.refuseOut_keeps {P : Part → Bool} {s0 : State} (s : State) (p : Packet) (reason : Nat) (h : Parts P [.out, .free, .regs, .hbm, .ten, .tra, .mat, .wins, .grps, .xlt, .rte, .pwr])
    (hs : Keeps P s0 s) : Keeps P s0 (State.refuseOut s p reason) := by
  unfold State.refuseOut
  repeat' (first
    | with_reducible assumption
    | ((with_reducible apply Parts.mono h); decide)
    | (with_reducible apply State.gateEntry_keeps _ _ (by with_reducible assumption))
    | with_reducible apply State.gateLeave_keeps
    | with_reducible apply State.refuse_keeps
    | with_reducible intro _
    | (extract_lets +onlyGivenNames x0; first
        | ((with_reducible refine (have hx0 : Keeps P s0 x0 := ?_; ?_)); (on_goal 2 => clear_value x0); (on_goal 1 => subst x0))
        | clear_value x0)
    | with_reducible apply Keeps.ite
    | split
    | with_reducible apply Keeps.upd
    | with_reducible apply Fuses.refl
    | ((with_reducible apply Or.inr); with_reducible rfl)
    | ((with_reducible apply Or.inl); exact h _ (by decide)))

theorem State.pkeyRefused_keeps {P : Part → Bool} {s0 : State} (s : State) (p : Packet) (h : Parts P [.out, .free, .regs, .hbm, .ten, .tra, .mat, .wins, .grps, .xlt, .rte, .boot, .pwr, .evr])
    (hs : Keeps P s0 s) : Keeps P s0 (State.pkeyRefused s p) := by
  unfold State.pkeyRefused
  repeat' (first
    | with_reducible assumption
    | ((with_reducible apply Parts.mono h); decide)
    | with_reducible apply State.bump_keeps
    | with_reducible apply State.note_keeps
    | with_reducible apply State.refuseOut_keeps
    | with_reducible intro _
    | (extract_lets +onlyGivenNames x0; first
        | ((with_reducible refine (have hx0 : Keeps P s0 x0 := ?_; ?_)); (on_goal 2 => clear_value x0); (on_goal 1 => subst x0))
        | clear_value x0)
    | with_reducible apply Keeps.ite
    | split
    | with_reducible apply Keeps.upd
    | with_reducible apply Fuses.refl
    | ((with_reducible apply Or.inr); with_reducible rfl)
    | ((with_reducible apply Or.inl); exact h _ (by decide)))

theorem State.recvSend_keeps {P : Part → Bool} {s0 : State} (s : State) (p : Packet) (v : Qp) (h : Parts P [.out, .free, .regs, .hbm, .ten, .tra, .mat, .wins, .grps, .xlt, .rte, .pwr])
    (hs : Keeps P s0 s) : Keeps P s0 (State.recvSend s p v) := by
  unfold State.recvSend
  repeat' (first
    | with_reducible assumption
    | ((with_reducible apply Parts.mono h); decide)
    | (with_reducible apply State.gateEntry_keeps _ _ (by with_reducible assumption))
    | with_reducible apply State.tally_keeps
    | with_reducible apply State.gateAdmit_keeps
    | with_reducible apply State.msgMore_keeps
    | with_reducible apply State.refuse_keeps
    | with_reducible apply State.accept_keeps
    | with_reducible apply State.refuseOut_keeps
    | with_reducible intro _
    | (extract_lets +onlyGivenNames x0; first
        | ((with_reducible refine (have hx0 : Keeps P s0 x0 := ?_; ?_)); (on_goal 2 => clear_value x0); (on_goal 1 => subst x0))
        | ((with_reducible refine (have hx0 : KeepsP P s0 x0 := ?_; ?_)); (on_goal 2 => clear_value x0); (on_goal 1 => subst x0))
        | clear_value x0)
    | with_reducible apply Keeps.ite
    | split
    | with_reducible apply KeepsP.mk
    | (with_reducible apply KeepsP.of_eq (by with_reducible assumption))
    | with_reducible apply KeepsP.fst
    | with_reducible apply Keeps.upd
    | with_reducible apply Fuses.refl
    | ((with_reducible apply Or.inr); with_reducible rfl)
    | ((with_reducible apply Or.inl); exact h _ (by decide)))

theorem State.winRefuse_keeps {P : Part → Bool} {s0 : State} (s : State) (p : Packet) (reason : Nat) (k : Nat) (h : Parts P [.regs, .ten, .tra, .rte])
    (hs : Keeps P s0 s) : Keeps P s0 (State.winRefuse s p reason k) := by
  unfold State.winRefuse
  repeat' (first
    | with_reducible assumption
    | ((with_reducible apply Parts.mono h); decide)
    | with_reducible apply State.bump_keeps
    | with_reducible apply State.refuse_keeps
    | with_reducible intro _
    | split)

theorem State.winXlate_keeps {P : Part → Bool} {s0 : State} (s : State) (p : Packet) (status : Nat) (off : Nat) (h : Parts P [.out, .regs, .ten, .tra, .wins, .xlt, .rte, .pwr])
    (hs : Keeps P s0 s) : Keeps P s0 (State.winXlate s p status off) := by
  unfold State.winXlate
  repeat' (first
    | with_reducible assumption
    | ((with_reducible apply Parts.mono h); decide)
    | with_reducible apply State.windowFault_keeps
    | with_reducible apply State.winRefuse_keeps
    | with_reducible intro _
    | split)

theorem State.recvPut_keeps {P : Part → Bool} {s0 : State} (s : State) (p : Packet) (w : Window) (h : Parts P [.out, .regs, .hbm, .ten, .tra, .wins, .xlt, .rte, .pwr])
    (hs : Keeps P s0 s) : Keeps P s0 (State.recvPut s p w) := by
  unfold State.recvPut
  repeat' (first
    | with_reducible assumption
    | ((with_reducible apply Parts.mono h); decide)
    | with_reducible apply State.hbmWrite_keeps
    | with_reducible apply State.translate_keeps
    | with_reducible apply State.hostPut_keeps
    | with_reducible apply State.accept_keeps
    | with_reducible apply State.winXlate_keeps
    | with_reducible intro _
    | (extract_lets +onlyGivenNames x0; first
        | ((with_reducible refine (have hx0 : Keeps P s0 x0 := ?_; ?_)); (on_goal 2 => clear_value x0); (on_goal 1 => subst x0))
        | ((with_reducible refine (have hx0 : KeepsP P s0 x0 := ?_; ?_)); (on_goal 2 => clear_value x0); (on_goal 1 => subst x0))
        | clear_value x0)
    | with_reducible apply Keeps.ite
    | split
    | with_reducible apply KeepsP.mk
    | (with_reducible apply KeepsP.of_eq (by with_reducible assumption))
    | with_reducible apply KeepsP.fst
    | with_reducible apply Keeps.upd
    | with_reducible apply Fuses.refl
    | ((with_reducible apply Or.inr); with_reducible rfl)
    | ((with_reducible apply Or.inl); exact h _ (by decide)))

theorem State.addResp_keeps {P : Part → Bool} {s0 : State} (s : State) (r : Resp) (h : Parts P [.tra])
    (hs : Keeps P s0 s) : Keeps P s0 (State.addResp s r) := by
  unfold State.addResp
  repeat' (first
    | with_reducible assumption
    | ((with_reducible apply Parts.mono h); decide)
    | with_reducible intro _
    | (extract_lets +onlyGivenNames x0; first
        | ((with_reducible refine (have hx0 : Keeps P s0 x0 := ?_; ?_)); (on_goal 2 => clear_value x0); (on_goal 1 => subst x0))
        | clear_value x0)
    | split
    | with_reducible apply Keeps.upd
    | with_reducible apply Fuses.refl
    | ((with_reducible apply Or.inr); with_reducible rfl)
    | ((with_reducible apply Or.inl); exact h _ (by decide)))

theorem State.recvGet_keeps {P : Part → Bool} {s0 : State} (s : State) (p : Packet) (v : Qp) (h : Parts P [.out, .free, .regs, .ten, .tra, .mat, .wins, .grps, .xlt, .rte, .pwr])
    (hs : Keeps P s0 s) : Keeps P s0 (State.recvGet s p v) := by
  unfold State.recvGet
  repeat' (first
    | with_reducible assumption
    | ((with_reducible apply Parts.mono h); decide)
    | with_reducible apply State.updJob_keeps
    | with_reducible apply State.psnTaken_keeps
    | with_reducible apply State.jobFail_keeps
    | with_reducible apply State.respRead_keeps
    | with_reducible apply State.accept_keeps
    | with_reducible apply State.addResp_keeps
    | with_reducible intro _
    | (extract_lets +onlyGivenNames x0; first
        | ((with_reducible refine (have hx0 : Keeps P s0 x0 := ?_; ?_)); (on_goal 2 => clear_value x0); (on_goal 1 => subst x0))
        | ((with_reducible refine (have hx0 : KeepsP P s0 x0 := ?_; ?_)); (on_goal 2 => clear_value x0); (on_goal 1 => subst x0))
        | clear_value x0)
    | with_reducible apply Keeps.ite
    | split
    | with_reducible apply KeepsP.mk
    | (with_reducible apply KeepsP.of_eq (by with_reducible assumption))
    | with_reducible apply KeepsP.fst
    | with_reducible apply Keeps.upd
    | with_reducible apply Fuses.refl
    | ((with_reducible apply Or.inr); with_reducible rfl)
    | ((with_reducible apply Or.inl); exact h _ (by decide))
    | beta_reduce)

theorem State.recvAtomic_keeps {P : Part → Bool} {s0 : State} (s : State) (p : Packet) (v : Qp) (w : Window) (h : Parts P [.out, .regs, .ten, .tra, .wins, .xlt, .rte, .pwr])
    (hs : Keeps P s0 s) : Keeps P s0 (State.recvAtomic s p v w) := by
  unfold State.recvAtomic
  repeat' (first
    | with_reducible assumption
    | ((with_reducible apply Parts.mono h); decide)
    | with_reducible apply State.emit_keeps
    | with_reducible apply State.translate_keeps
    | with_reducible apply State.issueRead_keeps
    | with_reducible apply State.accept_keeps
    | with_reducible apply State.winXlate_keeps
    | with_reducible apply State.addResp_keeps
    | with_reducible intro _
    | (extract_lets +onlyGivenNames x0; first
        | ((with_reducible refine (have hx0 : Keeps P s0 x0 := ?_; ?_)); (on_goal 2 => clear_value x0); (on_goal 1 => subst x0))
        | ((with_reducible refine (have hx0 : KeepsP P s0 x0 := ?_; ?_)); (on_goal 2 => clear_value x0); (on_goal 1 => subst x0))
        | ((with_reducible have _x0 : _ → _ := x0); clear _x0; subst x0; beta_reduce)
        | clear_value x0)
    | with_reducible apply Keeps.ite
    | split
    | with_reducible apply KeepsP.mk
    | (with_reducible apply KeepsP.of_eq (by with_reducible assumption))
    | with_reducible apply KeepsP.fst
    | with_reducible apply Keeps.upd
    | with_reducible apply Fuses.refl
    | ((with_reducible apply Or.inr); with_reducible rfl)
    | ((with_reducible apply Or.inl); exact h _ (by decide))
    | beta_reduce)

theorem State.recvRma_keeps {P : Part → Bool} {s0 : State} (s : State) (p : Packet) (v : Qp) (h : Parts P [.out, .free, .regs, .hbm, .ten, .tra, .mat, .wins, .grps, .xlt, .rte, .pwr])
    (hs : Keeps P s0 s) : Keeps P s0 (State.recvRma s p v) := by
  unfold State.recvRma
  repeat' (first
    | with_reducible assumption
    | ((with_reducible apply Parts.mono h); decide)
    | with_reducible apply State.fnDrop_keeps
    | with_reducible apply State.winRefuse_keeps
    | with_reducible apply State.recvPut_keeps
    | with_reducible apply State.recvGet_keeps
    | with_reducible apply State.recvAtomic_keeps
    | with_reducible intro _
    | (extract_lets +onlyGivenNames x0; first
        | ((with_reducible refine (have hx0 : Keeps P s0 x0 := ?_; ?_)); (on_goal 2 => clear_value x0); (on_goal 1 => subst x0))
        | clear_value x0)
    | with_reducible apply Keeps.ite
    | split
    | with_reducible apply Keeps.upd
    | with_reducible apply Fuses.refl
    | ((with_reducible apply Or.inr); with_reducible rfl)
    | ((with_reducible apply Or.inl); exact h _ (by decide)))

theorem State.respJob_keeps {P : Part → Bool} {s0 : State} (s : State) (p : Packet) (q : Nat) (v : Qp) (j : Job) (g : GetReq) (h : Parts P [.out, .free, .regs, .hbm, .ten, .tra, .mat, .wins, .grps, .xlt, .rte, .pwr])
    (hs : Keeps P s0 s) : Keeps P s0 (State.respJob s p q v j g) := by
  unfold State.respJob
  repeat' (first
    | with_reducible assumption
    | ((with_reducible apply Parts.mono h); decide)
    | with_reducible apply State.updJob_keeps
    | with_reducible apply State.jobCheck_keeps
    | with_reducible apply State.jobFail_keeps
    | with_reducible apply State.placeAt_keeps
    | with_reducible apply State.accept_keeps
    | with_reducible intro _
    | (extract_lets +onlyGivenNames x0; first
        | ((with_reducible refine (have hx0 : Keeps P s0 x0 := ?_; ?_)); (on_goal 2 => clear_value x0); (on_goal 1 => subst x0))
        | ((with_reducible refine (have hx0 : KeepsP P s0 x0 := ?_; ?_)); (on_goal 2 => clear_value x0); (on_goal 1 => subst x0))
        | clear_value x0)
    | with_reducible apply Keeps.ite
    | split
    | with_reducible apply KeepsP.mk
    | (with_reducible apply KeepsP.of_eq (by with_reducible assumption))
    | with_reducible apply KeepsP.fst
    | with_reducible apply Keeps.upd
    | with_reducible apply Fuses.refl
    | ((with_reducible apply Or.inr); with_reducible rfl)
    | ((with_reducible apply Or.inl); exact h _ (by decide))
    | beta_reduce)

theorem State.respFetch_keeps {P : Part → Bool} {s0 : State} (s : State) (p : Packet) (i : Nat) (f : Fetch) (psn : Psn) (h : Parts P [.out, .free, .regs, .hbm, .ten, .tra, .mat, .wins, .grps, .xlt, .rte, .pwr])
    (hs : Keeps P s0 s) : Keeps P s0 (State.respFetch s p i f psn) := by
  unfold State.respFetch
  repeat' (first
    | with_reducible assumption
    | ((with_reducible apply Parts.mono h); decide)
    | with_reducible apply State.qpFail_keeps
    | with_reducible apply State.placeAt_keeps
    | with_reducible apply State.fetchCheck_keeps
    | with_reducible apply State.fetchFail_keeps
    | with_reducible apply State.refuse_keeps
    | with_reducible apply State.accept_keeps
    | with_reducible intro _
    | (extract_lets +onlyGivenNames x0; first
        | ((with_reducible refine (have hx0 : Keeps P s0 x0 := ?_; ?_)); (on_goal 2 => clear_value x0); (on_goal 1 => subst x0))
        | ((with_reducible refine (have hx0 : KeepsP P s0 x0 := ?_; ?_)); (on_goal 2 => clear_value x0); (on_goal 1 => subst x0))
        | clear_value x0)
    | with_reducible apply Keeps.ite
    | split
    | with_reducible apply KeepsP.mk
    | (with_reducible apply KeepsP.of_eq (by with_reducible assumption))
    | with_reducible apply KeepsP.fst
    | with_reducible apply Keeps.upd
    | with_reducible apply Fuses.refl
    | ((with_reducible apply Or.inr); with_reducible rfl)
    | ((with_reducible apply Or.inl); exact h _ (by decide))
    | beta_reduce)

theorem State.recvResp_keeps {P : Part → Bool} {s0 : State} (s : State) (p : Packet) (v : Qp) (h : Parts P [.out, .free, .regs, .hbm, .ten, .tra, .mat, .wins, .grps, .xlt, .rte, .pwr])
    (hs : Keeps P s0 s) : Keeps P s0 (State.recvResp s p v) := by
  unfold State.recvResp
  repeat' (first
    | with_reducible assumption
    | ((with_reducible apply Parts.mono h); decide)
    | with_reducible apply State.accept_keeps
    | with_reducible apply State.respJob_keeps
    | with_reducible apply State.respFetch_keeps
    | with_reducible intro _
    | (extract_lets +onlyGivenNames x0; first
        | ((with_reducible refine (have hx0 : Keeps P s0 x0 := ?_; ?_)); (on_goal 2 => clear_value x0); (on_goal 1 => subst x0))
        | clear_value x0)
    | with_reducible apply Keeps.ite
    | split
    | with_reducible apply Keeps.upd
    | with_reducible apply Fuses.refl
    | ((with_reducible apply Or.inr); with_reducible rfl)
    | ((with_reducible apply Or.inl); exact h _ (by decide))
    | beta_reduce)

theorem State.checked_keeps {P : Part → Bool} {s0 : State} (s : State) (p : Packet) (h : Parts P [.out, .free, .regs, .hbm, .ten, .tra, .mat, .wins, .grps, .xlt, .rte, .boot, .pwr, .evr])
    (hs : Keeps P s0 s) : Keeps P s0 (State.checked s p) := by
  unfold State.checked
  repeat' (first
    | with_reducible assumption
    | ((with_reducible apply Parts.mono h); decide)
    | with_reducible apply State.refuse_keeps
    | with_reducible apply State.refuseOut_keeps
    | with_reducible apply State.pkeyRefused_keeps
    | with_reducible apply State.recvSend_keeps
    | with_reducible apply State.recvRma_keeps
    | with_reducible apply State.recvResp_keeps
    | with_reducible intro _
    | (extract_lets +onlyGivenNames x0; first
        | ((with_reducible refine (have hx0 : Keeps P s0 x0 := ?_; ?_)); (on_goal 2 => clear_value x0); (on_goal 1 => subst x0))
        | clear_value x0)
    | with_reducible apply Keeps.ite
    | split
    | with_reducible apply Keeps.upd
    | with_reducible apply Fuses.refl
    | ((with_reducible apply Or.inr); with_reducible rfl)
    | ((with_reducible apply Or.inl); exact h _ (by decide)))

theorem State.classified_keeps {P : Part → Bool} {s0 : State} (s : State) (p : Packet) (h : Parts P [.out, .free, .regs, .hbm, .ten, .tra, .mat, .wins, .grps, .xlt, .rte, .boot, .pwr, .evr])
    (hs : Keeps P s0 s) : Keeps P s0 (State.classified s p) := by
  unfold State.classified
  repeat' (first
    | with_reducible assumption
    | ((with_reducible apply Parts.mono h); decide)
    | with_reducible apply State.updSp_keeps
    | with_reducible apply State.tally_keeps
    | with_reducible apply State.ack_keeps
    | with_reducible apply State.nak_keeps
    | with_reducible apply State.checked_keeps
    | with_reducible intro _
    | (extract_lets +onlyGivenNames x0; first
        | ((with_reducible refine (have hx0 : Keeps P s0 x0 := ?_; ?_)); (on_goal 2 => clear_value x0); (on_goal 1 => subst x0))
        | clear_value x0)
    | with_reducible apply Keeps.ite
    | split
    | with_reducible apply Keeps.upd
    | with_reducible apply Fuses.refl
    | ((with_reducible apply Or.inr); with_reducible rfl)
    | ((with_reducible apply Or.inl); exact h _ (by decide))
    | beta_reduce)

theorem State.receive_keeps {P : Part → Bool} {s0 : State} (s : State) (p : Packet) (h : Parts P [.out, .free, .regs, .hbm, .ten, .tra, .mat, .wins, .grps, .xlt, .rte, .boot, .pwr, .evr])
    (hs : Keeps P s0 s) : Keeps P s0 (State.receive s p) := by
  unfold State.receive
  repeat' (first
    | with_reducible assumption
    | ((with_reducible apply Parts.mono h); decide)
    | with_reducible apply State.tally_keeps
    | with_reducible apply State.nakStale_keeps
    | with_reducible apply State.fnDrop_keeps
    | with_reducible apply State.classified_keeps
    | with_reducible intro _
    | (extract_lets +onlyGivenNames x0; first
        | ((with_reducible refine (have hx0 : Keeps P s0 x0 := ?_; ?_)); (on_goal 2 => clear_value x0); (on_goal 1 => subst x0))
        | clear_value x0)
    | with_reducible apply Keeps.ite
    | split
    | with_reducible apply Keeps.upd
    | with_reducible apply Fuses.refl
    | ((with_reducible apply Or.inr); with_reducible rfl)
    | ((with_reducible apply Or.inl); exact h _ (by decide))
    | beta_reduce)

theorem State.handTo_keeps {P : Part → Bool} {s0 : State} (s : State) (p : Packet) (doms : List Nat) (act : State → State) (h : Parts P [.regs, .xlt, .rte, .lnk, .pwr]) (h_act : ∀ a, Keeps P s0 a → Keeps P s0 (act a))
    (hs : Keeps P s0 s) : Keeps P s0 (State.handTo s p doms act) := by
  unfold State.handTo
  repeat' (first
    | with_reducible assumption
    | ((with_reducible apply Parts.mono h); decide)
    | with_reducible apply h_act
    | with_reducible apply State.atDoms_keeps
    | with_reducible intro _
    | with_reducible apply Keeps.ite
    | split)

end Sys2Proof.Machine
end

