-- ==== Sys2Proof/Laws/Collectives.lean ====
section
/-! SUPPORT. What the operations of Machine/Collectives.lean keep. -/

set_option linter.unusedTactic false
set_option linter.unreachableTactic false
set_option linter.unusedVariables false

namespace Sys2Proof.Machine

open Sys2Proof

theorem State.joinCheck_keeps {P : Part → Bool} {s0 : State} (s : State) (g : Nat) (h : Parts P [.out, .free, .now, .ft, .regs, .hbm, .ten, .tra, .mat, .wins, .grps, .xlt, .rte, .lnk, .pwr])
    (hs : Keeps P s0 s) : Keeps P s0 (State.joinCheck s g) := by
  unfold State.joinCheck
  repeat' (first
    | with_reducible assumption
    | ((with_reducible apply Parts.mono h); decide)
    | with_reducible apply State.eqEvent_keeps
    | with_reducible apply State.updGrp_keeps
    | with_reducible apply State.collGo_keeps
    | with_reducible intro _
    | (extract_lets +onlyGivenNames x0; first
        | ((with_reducible refine (have hx0 : Keeps P s0 x0 := ?_; ?_)); (on_goal 2 => clear_value x0); (on_goal 1 => subst x0))
        | clear_value x0)
    | with_reducible apply Keeps.ite
    | split
    | with_reducible apply Keeps.upd
    | with_reducible apply Fuses.refl
    | ((with_reducible apply Or.inr); with_reducible rfl)
    | ((with_reducible apply Or.inl); exact h _ (by decide))
    | beta_reduce)

theorem execCreateGroup_keeps {P : Part → Bool} {s0 : State} (c : AdminCmd) (tree : FetchedBytes) (s : State) (h : Parts P [.out, .free, .now, .ft, .regs, .hbm, .ten, .tra, .mat, .wins, .grps, .xlt, .rte, .lnk, .pwr])
    (hs : Keeps P s0 s) : KeepsR P s0 (execCreateGroup c tree s) := by
  unfold execCreateGroup
  repeat' (first
    | with_reducible assumption
    | ((with_reducible apply Parts.mono h); decide)
    | with_reducible apply State.adminDone_keeps
    | with_reducible apply State.ringOrder_keeps
    | with_reducible apply State.asking_keeps
    | with_reducible apply State.cmdRead_keeps
    | with_reducible apply State.adminAt_keeps
    | with_reducible apply State.checks_keeps
    | with_reducible apply State.joinCheck_keeps
    | with_reducible apply KeepsR.next
    | with_reducible intro _
    | (extract_lets +onlyGivenNames x0; first
        | ((with_reducible refine (have hx0 : Keeps P s0 x0 := ?_; ?_)); (on_goal 2 => clear_value x0); (on_goal 1 => subst x0))
        | clear_value x0)
    | with_reducible apply KeepsR.ite
    | with_reducible apply Keeps.ite
    | split
    | with_reducible apply Keeps.upd
    | with_reducible apply Fuses.refl
    | ((with_reducible apply Or.inr); with_reducible rfl)
    | ((with_reducible apply Or.inl); exact h _ (by decide))
    | beta_reduce)

theorem execDestroyGroup_keeps {P : Part → Bool} {s0 : State} (c : AdminCmd) (s : State) (h : Parts P [.out, .free, .regs, .ten, .tra, .mat, .wins, .grps, .xlt, .rte, .pwr])
    (hs : Keeps P s0 s) : KeepsR P s0 (execDestroyGroup c s) := by
  unfold execDestroyGroup
  repeat' (first
    | with_reducible assumption
    | ((with_reducible apply Parts.mono h); decide)
    | with_reducible apply State.ringOrder_keeps
    | with_reducible apply State.updGrp_keeps
    | with_reducible apply State.groupError_keeps
    | with_reducible apply State.adminAt_keeps
    | with_reducible apply State.checks_keeps
    | with_reducible apply KeepsR.next
    | with_reducible intro _
    | (extract_lets +onlyGivenNames x0; first
        | ((with_reducible refine (have hx0 : Keeps P s0 x0 := ?_; ?_)); (on_goal 2 => clear_value x0); (on_goal 1 => subst x0))
        | clear_value x0)
    | split
    | with_reducible apply Keeps.upd
    | with_reducible apply Fuses.refl
    | ((with_reducible apply Or.inr); with_reducible rfl)
    | ((with_reducible apply Or.inl); exact h _ (by decide))
    | beta_reduce)

theorem State.groupGone_keeps {P : Part → Bool} {s0 : State} (s : State) (g : Nat) (h : Parts P [.grps])
    (hs : Keeps P s0 s) : Keeps P s0 (State.groupGone s g) := by
  unfold State.groupGone
  repeat' (first
    | with_reducible assumption
    | ((with_reducible apply Parts.mono h); decide)
    | with_reducible apply State.updGrp_keeps
    | with_reducible intro _
    | (extract_lets +onlyGivenNames x0; first
        | ((with_reducible refine (have hx0 : Keeps P s0 x0 := ?_; ?_)); (on_goal 2 => clear_value x0); (on_goal 1 => subst x0))
        | clear_value x0)
    | split
    | with_reducible apply Keeps.upd
    | with_reducible apply Fuses.refl
    | ((with_reducible apply Or.inr); with_reducible rfl)
    | ((with_reducible apply Or.inl); exact h _ (by decide))
    | beta_reduce)

theorem execGroupDestroyComplete_keeps {P : Part → Bool} {s0 : State} (group : Nat) (s : State) (h : Parts P [.ten, .grps, .xlt])
    (hs : Keeps P s0 s) : KeepsR P s0 (execGroupDestroyComplete group s) := by
  unfold execGroupDestroyComplete
  repeat' (first
    | with_reducible assumption
    | ((with_reducible apply Parts.mono h); decide)
    | with_reducible apply State.adminDone_keeps
    | with_reducible apply State.groupGone_keeps
    | with_reducible apply KeepsR.next
    | with_reducible intro _
    | (extract_lets +onlyGivenNames x0; first
        | ((with_reducible refine (have hx0 : Keeps P s0 x0 := ?_; ?_)); (on_goal 2 => clear_value x0); (on_goal 1 => subst x0))
        | clear_value x0)
    | with_reducible apply KeepsR.ite
    | with_reducible apply Keeps.ite
    | split
    | with_reducible apply Keeps.upd
    | with_reducible apply Fuses.refl
    | ((with_reducible apply Or.inr); with_reducible rfl)
    | ((with_reducible apply Or.inl); exact h _ (by decide)))

theorem execQueryGroup_keeps {P : Part → Bool} {s0 : State} (c : AdminCmd) (s : State) (h : Parts P [.regs, .ten, .xlt, .pwr])
    (hs : Keeps P s0 s) : KeepsR P s0 (execQueryGroup c s) := by
  unfold execQueryGroup
  repeat' (first
    | with_reducible assumption
    | ((with_reducible apply Parts.mono h); decide)
    | with_reducible apply State.adminDone_keeps
    | with_reducible apply State.ringOrder_keeps
    | with_reducible apply State.adminAt_keeps
    | with_reducible apply State.checks_keeps
    | with_reducible apply KeepsR.next
    | with_reducible intro _
    | (extract_lets +onlyGivenNames x0; first
        | ((with_reducible refine (have hx0 : Keeps P s0 x0 := ?_; ?_)); (on_goal 2 => clear_value x0); (on_goal 1 => subst x0))
        | clear_value x0)
    | with_reducible apply KeepsR.ite
    | with_reducible apply Keeps.ite
    | split
    | beta_reduce)

theorem execGroupQuarantineEnd_keeps {P : Part → Bool} {s0 : State} (group : Nat) (s : State) (h : Parts P [.now, .ft, .regs, .grps, .lnk, .pwr])
    (hs : Keeps P s0 s) : KeepsR P s0 (execGroupQuarantineEnd group s) := by
  unfold execGroupQuarantineEnd
  repeat' (first
    | with_reducible assumption
    | ((with_reducible apply Parts.mono h); decide)
    | with_reducible apply State.passTo_keeps
    | with_reducible apply KeepsR.next
    | with_reducible intro _
    | (extract_lets +onlyGivenNames x0; first
        | ((with_reducible refine (have hx0 : Keeps P s0 x0 := ?_; ?_)); (on_goal 2 => clear_value x0); (on_goal 1 => subst x0))
        | clear_value x0)
    | with_reducible apply KeepsR.ite
    | with_reducible apply Keeps.ite
    | split
    | with_reducible apply Keeps.upd
    | with_reducible apply Fuses.refl
    | ((with_reducible apply Or.inr); with_reducible rfl)
    | ((with_reducible apply Or.inl); exact h _ (by decide)))

theorem execJoinIntervalExpiry_keeps {P : Part → Bool} {s0 : State} (group : Nat) (s : State) (h : Parts P [.now, .ft, .regs, .grps, .rte, .lnk, .pwr])
    (hs : Keeps P s0 s) : KeepsR P s0 (execJoinIntervalExpiry group s) := by
  unfold execJoinIntervalExpiry
  repeat' (first
    | with_reducible assumption
    | ((with_reducible apply Parts.mono h); decide)
    | with_reducible apply State.passTo_keeps
    | with_reducible apply State.updGrp_keeps
    | with_reducible apply State.sendCredit_keeps
    | with_reducible apply KeepsR.next
    | with_reducible apply foldl_keeps
    | with_reducible apply foldl_keepsP
    | with_reducible intro _
    | (extract_lets +onlyGivenNames x0; first
        | ((with_reducible refine (have hx0 : Keeps P s0 x0 := ?_; ?_)); (on_goal 2 => clear_value x0); (on_goal 1 => subst x0))
        | ((with_reducible refine (have hx0 : KeepsP P s0 x0 := ?_; ?_)); (on_goal 2 => clear_value x0); (on_goal 1 => subst x0))
        | clear_value x0)
    | with_reducible apply KeepsR.ite
    | with_reducible apply Keeps.ite
    | split
    | with_reducible apply KeepsP.mk
    | (with_reducible apply KeepsP.of_eq (by with_reducible assumption))
    | with_reducible apply KeepsP.fst
    | with_reducible apply Keeps.upd
    | with_reducible apply Fuses.refl
    | ((with_reducible apply Or.inr); with_reducible rfl)
    | ((with_reducible apply Or.inl); exact h _ (by decide))
    | beta_reduce)

theorem State.collDiscard_keeps {P : Part → Bool} {s0 : State} (s : State) (k : Nat) (h : Parts P [.regs])
    (hs : Keeps P s0 s) : Keeps P s0 (State.collDiscard s k) := by
  unfold State.collDiscard
  repeat' (first
    | with_reducible assumption
    | ((with_reducible apply Parts.mono h); decide)
    | with_reducible apply State.bump_keeps
    | with_reducible intro _
    | split)

theorem State.heard_keeps {P : Part → Bool} {s0 : State} (s : State) (g : Nat) (n : Nat) (p : Packet) (h : Parts P [.out, .free, .now, .ft, .regs, .hbm, .ten, .tra, .mat, .wins, .grps, .xlt, .rte, .lnk, .pwr])
    (hs : Keeps P s0 s) : Keeps P s0 (State.heard s g n p) := by
  unfold State.heard
  repeat' (first
    | with_reducible assumption
    | ((with_reducible apply Parts.mono h); decide)
    | with_reducible apply State.updEdge_keeps
    | with_reducible apply State.joinCheck_keeps
    | with_reducible intro _
    | (extract_lets +onlyGivenNames x0; first
        | ((with_reducible refine (have hx0 : Keeps P s0 x0 := ?_; ?_)); (on_goal 2 => clear_value x0); (on_goal 1 => subst x0))
        | clear_value x0)
    | with_reducible apply Keeps.ite
    | split
    | with_reducible apply Keeps.upd
    | with_reducible apply Fuses.refl
    | ((with_reducible apply Or.inr); with_reducible rfl)
    | ((with_reducible apply Or.inl); exact h _ (by decide))
    | beta_reduce)

theorem State.collCheck_keeps {P : Part → Bool} {s0 : State} (s : State) (p : Packet) (act : State → Group → Edge → State) (h : Parts P [.regs]) (h_act : ∀ a, Keeps P s0 a → ∀ y1, ∀ y2, Keeps P s0 (act a y1 y2))
    (hs : Keeps P s0 s) : Keeps P s0 (State.collCheck s p act) := by
  unfold State.collCheck
  repeat' (first
    | with_reducible assumption
    | ((with_reducible apply Parts.mono h); decide)
    | with_reducible apply h_act
    | with_reducible apply State.collDiscard_keeps
    | with_reducible intro _
    | (extract_lets +onlyGivenNames x0; first
        | ((with_reducible refine (have hx0 : Keeps P s0 x0 := ?_; ?_)); (on_goal 2 => clear_value x0); (on_goal 1 => subst x0))
        | clear_value x0)
    | with_reducible apply Keeps.ite
    | split
    | with_reducible apply Keeps.upd
    | with_reducible apply Fuses.refl
    | ((with_reducible apply Or.inr); with_reducible rfl)
    | ((with_reducible apply Or.inl); exact h _ (by decide)))

theorem State.collRecv_keeps {P : Part → Bool} {s0 : State} (s : State) (p : Packet) (type : Nat) (act : State → Group → Edge → State) (h : Parts P [.regs, .xlt, .rte, .lnk, .pwr]) (h_act : ∀ a, Keeps P s0 a → ∀ y1, ∀ y2, Keeps P s0 (act a y1 y2))
    (hs : Keeps P s0 s) : Keeps P s0 (State.collRecv s p type act) := by
  unfold State.collRecv
  repeat' (first
    | with_reducible assumption
    | ((with_reducible apply Parts.mono h); decide)
    | with_reducible apply h_act
    | with_reducible apply State.takeLocal_keeps
    | with_reducible apply State.asking_keeps
    | with_reducible apply State.handTo_keeps
    | with_reducible apply State.collCheck_keeps
    | with_reducible intro _
    | with_reducible apply Keeps.ite
    | split
    | beta_reduce)

theorem State.collTake_keeps {P : Part → Bool} {s0 : State} (s : State) (g : Nat) (v : Group) (e : Edge) (p : Packet) (h : Parts P [.grps])
    (hs : Keeps P s0 s) : Keeps P s0 (State.collTake s g v e p) := by
  unfold State.collTake
  repeat' (first
    | with_reducible assumption
    | ((with_reducible apply Parts.mono h); decide)
    | with_reducible apply State.updGrp_keeps
    | with_reducible apply State.updEdge_keeps
    | with_reducible apply State.updOp_keeps
    | with_reducible intro _
    | (extract_lets +onlyGivenNames x0; first
        | ((with_reducible refine (have hx0 : Keeps P s0 x0 := ?_; ?_)); (on_goal 2 => clear_value x0); (on_goal 1 => subst x0))
        | clear_value x0)
    | with_reducible apply Keeps.ite
    | split
    | with_reducible apply Keeps.upd
    | with_reducible apply Fuses.refl
    | ((with_reducible apply Or.inr); with_reducible rfl)
    | ((with_reducible apply Or.inl); exact h _ (by decide))
    | beta_reduce)

theorem execCollUpReceive_keeps {P : Part → Bool} {s0 : State} (_ingress : Nat) (p : Packet) (s : State) (h : Parts P [.out, .free, .now, .ft, .regs, .hbm, .ten, .tra, .mat, .wins, .grps, .xlt, .rte, .lnk, .pwr])
    (hs : Keeps P s0 s) : KeepsR P s0 (execCollUpReceive _ingress p s) := by
  unfold execCollUpReceive
  repeat' (first
    | with_reducible assumption
    | ((with_reducible apply Parts.mono h); decide)
    | with_reducible apply State.groupError_keeps
    | with_reducible apply State.collGo_keeps
    | with_reducible apply State.heard_keeps
    | with_reducible apply State.collRecv_keeps
    | with_reducible apply State.collTake_keeps
    | with_reducible apply KeepsR.next
    | with_reducible intro _
    | (extract_lets +onlyGivenNames x0; first
        | ((with_reducible refine (have hx0 : Keeps P s0 x0 := ?_; ?_)); (on_goal 2 => clear_value x0); (on_goal 1 => subst x0))
        | clear_value x0)
    | with_reducible apply KeepsR.ite
    | with_reducible apply Keeps.ite
    | split
    | beta_reduce)

theorem State.collOn_keeps {P : Part → Bool} {s0 : State} (s : State) (g : Nat) (h : Parts P [.out, .free, .now, .ft, .regs, .hbm, .ten, .tra, .mat, .wins, .grps, .xlt, .rte, .lnk, .pwr])
    (hs : Keeps P s0 s) : Keeps P s0 (State.collOn s g) := by
  unfold State.collOn
  repeat' (first
    | with_reducible assumption
    | ((with_reducible apply Parts.mono h); decide)
    | with_reducible apply State.freeDowns_keeps
    | with_reducible apply State.collGo_keeps
    | with_reducible intro _
    | (extract_lets +onlyGivenNames x0; first
        | ((with_reducible refine (have hx0 : Keeps P s0 x0 := ?_; ?_)); (on_goal 2 => clear_value x0); (on_goal 1 => subst x0))
        | clear_value x0)
    | split
    | with_reducible apply Keeps.upd
    | with_reducible apply Fuses.refl
    | ((with_reducible apply Or.inr); with_reducible rfl)
    | ((with_reducible apply Or.inl); exact h _ (by decide)))

theorem execCollDownReceive_keeps {P : Part → Bool} {s0 : State} (_ingress : Nat) (p : Packet) (s : State) (h : Parts P [.out, .free, .now, .ft, .regs, .hbm, .ten, .tra, .mat, .wins, .grps, .xlt, .rte, .lnk, .pwr])
    (hs : Keeps P s0 s) : KeepsR P s0 (execCollDownReceive _ingress p s) := by
  unfold execCollDownReceive
  repeat' (first
    | with_reducible assumption
    | ((with_reducible apply Parts.mono h); decide)
    | with_reducible apply State.groupError_keeps
    | with_reducible apply State.downNow_keeps
    | with_reducible apply State.heard_keeps
    | with_reducible apply State.collRecv_keeps
    | with_reducible apply State.collTake_keeps
    | with_reducible apply State.collOn_keeps
    | with_reducible apply KeepsR.next
    | with_reducible intro _
    | (extract_lets +onlyGivenNames x0; first
        | ((with_reducible refine (have hx0 : Keeps P s0 x0 := ?_; ?_)); (on_goal 2 => clear_value x0); (on_goal 1 => subst x0))
        | clear_value x0)
    | with_reducible apply KeepsR.ite
    | with_reducible apply Keeps.ite
    | split
    | beta_reduce)

theorem execCollCredit_keeps {P : Part → Bool} {s0 : State} (_ingress : Nat) (p : Packet) (s : State) (h : Parts P [.out, .free, .now, .ft, .regs, .hbm, .ten, .tra, .mat, .wins, .grps, .xlt, .rte, .lnk, .pwr])
    (hs : Keeps P s0 s) : KeepsR P s0 (execCollCredit _ingress p s) := by
  unfold execCollCredit
  repeat' (first
    | with_reducible assumption
    | ((with_reducible apply Parts.mono h); decide)
    | with_reducible apply State.groupError_keeps
    | with_reducible apply State.updEdge_keeps
    | with_reducible apply State.heard_keeps
    | with_reducible apply State.collRecv_keeps
    | with_reducible apply KeepsR.next
    | with_reducible intro _
    | (extract_lets +onlyGivenNames x0; first
        | ((with_reducible refine (have hx0 : Keeps P s0 x0 := ?_; ?_)); (on_goal 2 => clear_value x0); (on_goal 1 => subst x0))
        | clear_value x0)
    | with_reducible apply KeepsR.ite
    | with_reducible apply Keeps.ite
    | split
    | with_reducible apply Keeps.upd
    | with_reducible apply Fuses.refl
    | ((with_reducible apply Or.inr); with_reducible rfl)
    | ((with_reducible apply Or.inl); exact h _ (by decide))
    | beta_reduce)

theorem execCollAbort_keeps {P : Part → Bool} {s0 : State} (_ingress : Nat) (p : Packet) (s : State) (h : Parts P [.out, .free, .regs, .ten, .tra, .mat, .wins, .grps, .xlt, .rte, .lnk, .pwr])
    (hs : Keeps P s0 s) : KeepsR P s0 (execCollAbort _ingress p s) := by
  unfold execCollAbort
  repeat' (first
    | with_reducible assumption
    | ((with_reducible apply Parts.mono h); decide)
    | with_reducible apply State.groupError_keeps
    | with_reducible apply State.collRecv_keeps
    | with_reducible apply KeepsR.next
    | with_reducible intro _
    | split
    | beta_reduce)

theorem State.collPacket_keeps {P : Part → Bool} {s0 : State} (s : State) (g : Nat) (v : Group) (e : Edge) (o : CollOp) (w : Owed) (h : Parts P [.now, .ft, .regs, .grps, .rte, .lnk, .pwr])
    (hs : Keeps P s0 s) : Keeps P s0 (State.collPacket s g v e o w) := by
  unfold State.collPacket
  repeat' (first
    | with_reducible assumption
    | ((with_reducible apply Parts.mono h); decide)
    | with_reducible apply State.pass_keeps
    | with_reducible apply State.collSend_keeps
    | with_reducible apply State.updEdge_keeps
    | with_reducible intro _
    | (extract_lets +onlyGivenNames x0; first
        | ((with_reducible refine (have hx0 : Keeps P s0 x0 := ?_; ?_)); (on_goal 2 => clear_value x0); (on_goal 1 => subst x0))
        | clear_value x0)
    | with_reducible apply Keeps.ite
    | split
    | with_reducible apply Keeps.upd
    | with_reducible apply Fuses.refl
    | ((with_reducible apply Or.inr); with_reducible rfl)
    | ((with_reducible apply Or.inl); exact h _ (by decide))
    | beta_reduce)

theorem State.upSent_keeps {P : Part → Bool} {s0 : State} (s : State) (g : Nat) (v : Group) (w : Owed) (h : Parts P [.now, .ft, .regs, .grps, .rte, .lnk, .pwr])
    (hs : Keeps P s0 s) : Keeps P s0 (State.upSent s g v w) := by
  unfold State.upSent
  repeat' (first
    | with_reducible assumption
    | ((with_reducible apply Parts.mono h); decide)
    | with_reducible apply State.event_keeps
    | with_reducible apply State.pass_keeps
    | with_reducible apply State.updOp_keeps
    | with_reducible apply State.useParts_keeps
    | with_reducible intro _
    | (extract_lets +onlyGivenNames x0; first
        | ((with_reducible refine (have hx0 : Keeps P s0 x0 := ?_; ?_)); (on_goal 2 => clear_value x0); (on_goal 1 => subst x0))
        | clear_value x0)
    | with_reducible apply Keeps.ite
    | split
    | with_reducible apply Keeps.upd
    | with_reducible apply Fuses.refl
    | ((with_reducible apply Or.inr); with_reducible rfl)
    | ((with_reducible apply Or.inl); exact h _ (by decide))
    | beta_reduce)

theorem execCollChunkSend_keeps {P : Part → Bool} {s0 : State} (group : Nat) (up : Bool) (child : Nat) (s : State) (h : Parts P [.out, .free, .now, .ft, .regs, .hbm, .ten, .tra, .mat, .wins, .grps, .xlt, .rte, .lnk, .pwr])
    (hs : Keeps P s0 s) : KeepsR P s0 (execCollChunkSend group up child s) := by
  unfold execCollChunkSend
  repeat' (first
    | with_reducible assumption
    | ((with_reducible apply Parts.mono h); decide)
    | with_reducible apply State.asking_keeps
    | with_reducible apply State.updOp_keeps
    | with_reducible apply State.useParts_keeps
    | with_reducible apply State.collOn_keeps
    | with_reducible apply State.collPacket_keeps
    | with_reducible apply State.upSent_keeps
    | with_reducible apply KeepsR.next
    | with_reducible intro _
    | (extract_lets +onlyGivenNames x0; first
        | ((with_reducible refine (have hx0 : Keeps P s0 x0 := ?_; ?_)); (on_goal 2 => clear_value x0); (on_goal 1 => subst x0))
        | clear_value x0)
    | with_reducible apply KeepsR.ite
    | with_reducible apply Keeps.ite
    | split
    | with_reducible apply Keeps.upd
    | with_reducible apply Fuses.refl
    | ((with_reducible apply Or.inr); with_reducible rfl)
    | ((with_reducible apply Or.inl); exact h _ (by decide))
    | beta_reduce)

theorem execCollKeepalive_keeps {P : Part → Bool} {s0 : State} (group : Nat) (s : State) (h : Parts P [.now, .ft, .regs, .grps, .rte, .lnk, .pwr])
    (hs : Keeps P s0 s) : KeepsR P s0 (execCollKeepalive group s) := by
  unfold execCollKeepalive
  repeat' (first
    | with_reducible assumption
    | ((with_reducible apply Parts.mono h); decide)
    | with_reducible apply State.passTo_keeps
    | with_reducible apply State.sendCredit_keeps
    | with_reducible apply KeepsR.next
    | with_reducible apply foldl_keeps
    | with_reducible apply foldl_keepsP
    | with_reducible intro _
    | (extract_lets +onlyGivenNames x0; first
        | ((with_reducible refine (have hx0 : Keeps P s0 x0 := ?_; ?_)); (on_goal 2 => clear_value x0); (on_goal 1 => subst x0))
        | ((with_reducible refine (have hx0 : KeepsP P s0 x0 := ?_; ?_)); (on_goal 2 => clear_value x0); (on_goal 1 => subst x0))
        | clear_value x0)
    | with_reducible apply KeepsR.ite
    | with_reducible apply Keeps.ite
    | split
    | with_reducible apply KeepsP.mk
    | (with_reducible apply KeepsP.of_eq (by with_reducible assumption))
    | with_reducible apply KeepsP.fst
    | with_reducible apply Keeps.upd
    | with_reducible apply Fuses.refl
    | ((with_reducible apply Or.inr); with_reducible rfl)
    | ((with_reducible apply Or.inl); exact h _ (by decide))
    | beta_reduce)

theorem execEdgeTimeout_keeps {P : Part → Bool} {s0 : State} (group : Nat) (node : Nat) (s : State) (h : Parts P [.out, .free, .now, .ft, .regs, .ten, .tra, .mat, .wins, .grps, .xlt, .rte, .lnk, .pwr])
    (hs : Keeps P s0 s) : KeepsR P s0 (execEdgeTimeout group node s) := by
  unfold execEdgeTimeout
  repeat' (first
    | with_reducible assumption
    | ((with_reducible apply Parts.mono h); decide)
    | with_reducible apply State.passTo_keeps
    | with_reducible apply State.groupError_keeps
    | with_reducible apply KeepsR.next
    | with_reducible intro _
    | (extract_lets +onlyGivenNames x0; first
        | ((with_reducible refine (have hx0 : Keeps P s0 x0 := ?_; ?_)); (on_goal 2 => clear_value x0); (on_goal 1 => subst x0))
        | clear_value x0)
    | with_reducible apply KeepsR.ite
    | with_reducible apply Keeps.ite
    | split
    | with_reducible apply Keeps.upd
    | with_reducible apply Fuses.refl
    | ((with_reducible apply Or.inr); with_reducible rfl)
    | ((with_reducible apply Or.inl); exact h _ (by decide)))

theorem execOpTimeout_keeps {P : Part → Bool} {s0 : State} (group : Nat) (s : State) (h : Parts P [.out, .free, .now, .ft, .regs, .ten, .tra, .mat, .wins, .grps, .xlt, .rte, .lnk, .pwr])
    (hs : Keeps P s0 s) : KeepsR P s0 (execOpTimeout group s) := by
  unfold execOpTimeout
  repeat' (first
    | with_reducible assumption
    | ((with_reducible apply Parts.mono h); decide)
    | with_reducible apply State.passTo_keeps
    | with_reducible apply State.groupError_keeps
    | with_reducible apply KeepsR.next
    | with_reducible intro _
    | (extract_lets +onlyGivenNames x0; first
        | ((with_reducible refine (have hx0 : Keeps P s0 x0 := ?_; ?_)); (on_goal 2 => clear_value x0); (on_goal 1 => subst x0))
        | clear_value x0)
    | with_reducible apply KeepsR.ite
    | with_reducible apply Keeps.ite
    | split
    | with_reducible apply Keeps.upd
    | with_reducible apply Fuses.refl
    | ((with_reducible apply Or.inr); with_reducible rfl)
    | ((with_reducible apply Or.inl); exact h _ (by decide)))

end Sys2Proof.Machine
end

