-- ==== Sys2Proof/Laws/IrcOps.lean ====
section
/-! SUPPORT. What the operations of Machine/IrcOps.lean keep. -/

set_option linter.unusedTactic false
set_option linter.unreachableTactic false
set_option linter.unusedVariables false

namespace Sys2Proof.Machine

open Sys2Proof

theorem State.ircDeliver_keeps {P : Part → Bool} {s0 : State} (s : State) (t : Nat) (h : Parts P [.out, .regs, .ten, .irc])
    (hs : Keeps P s0 s) : Keeps P s0 (State.ircDeliver s t) := by
  unfold State.ircDeliver
  repeat' (first
    | with_reducible assumption
    | ((with_reducible apply Parts.mono h); decide)
    | with_reducible apply State.wrF_keeps
    | with_reducible apply State.emit_keeps
    | with_reducible apply State.msix_keeps
    | with_reducible intro _
    | (extract_lets +onlyGivenNames x0; first
        | ((with_reducible refine (have hx0 : Keeps P s0 x0 := ?_; ?_)); (on_goal 2 => clear_value x0); (on_goal 1 => subst x0))
        | clear_value x0)
    | with_reducible apply Keeps.ite
    | split
    | with_reducible apply Keeps.upd
    | with_reducible apply Fuses.refl
    | ((with_reducible apply Or.inr); with_reducible rfl)
    | ((with_reducible apply Or.inl); exact h _ (by decide)))

theorem State.resample_keeps {P : Part → Bool} {s0 : State} (s : State) (t : Nat) (h : Parts P [.out, .regs, .ten, .irc])
    (hs : Keeps P s0 s) : Keeps P s0 (State.resample s t) := by
  unfold State.resample
  repeat' (first
    | with_reducible assumption
    | ((with_reducible apply Parts.mono h); decide)
    | with_reducible apply State.ircDeliver_keeps
    | with_reducible intro _
    | with_reducible apply Keeps.ite
    | split)

theorem State.tgtClear_keeps {P : Part → Bool} {s0 : State} (s : State) (t : Nat) (h : Parts P [.regs, .irc])
    (hs : Keeps P s0 s) : Keeps P s0 (State.tgtClear s t) := by
  unfold State.tgtClear
  repeat' (first
    | with_reducible assumption
    | ((with_reducible apply Parts.mono h); decide)
    | with_reducible apply State.wrF_keeps
    | with_reducible intro _
    | (extract_lets +onlyGivenNames x0; first
        | ((with_reducible refine (have hx0 : Keeps P s0 x0 := ?_; ?_)); (on_goal 2 => clear_value x0); (on_goal 1 => subst x0))
        | clear_value x0)
    | split
    | with_reducible apply Keeps.upd
    | with_reducible apply Fuses.refl
    | ((with_reducible apply Or.inr); with_reducible rfl)
    | ((with_reducible apply Or.inl); exact h _ (by decide))
    | beta_reduce)

theorem State.vecResample_keeps {P : Part → Bool} {s0 : State} (s : State) (f : Nat) (vec : Nat) (h : Parts P [.out, .regs, .ten])
    (hs : Keeps P s0 s) : Keeps P s0 (State.vecResample s f vec) := by
  unfold State.vecResample
  repeat' (first
    | with_reducible assumption
    | ((with_reducible apply Parts.mono h); decide)
    | with_reducible apply State.setFn_keeps
    | with_reducible apply State.msix_keeps
    | with_reducible intro _
    | (extract_lets +onlyGivenNames x0; first
        | ((with_reducible refine (have hx0 : Keeps P s0 x0 := ?_; ?_)); (on_goal 2 => clear_value x0); (on_goal 1 => subst x0))
        | clear_value x0)
    | with_reducible apply Keeps.ite
    | split
    | with_reducible apply Keeps.upd
    | with_reducible apply Fuses.refl
    | ((with_reducible apply Or.inr); with_reducible rfl)
    | ((with_reducible apply Or.inl); exact h _ (by decide))
    | beta_reduce)

end Sys2Proof.Machine
end

