-- ==== Sys2Proof/Laws/Rma.lean ====
section
/-! SUPPORT. What the operations of Machine/Rma.lean keep. -/

set_option linter.unusedTactic false
set_option linter.unreachableTactic false
set_option linter.unusedVariables false

namespace Sys2Proof.Machine

open Sys2Proof

theorem execOpenWindow_keeps {P : Part → Bool} {s0 : State} (c : AdminCmd) (s : State) (h : Parts P [.hbm, .ten, .wins, .xlt])
    (hs : Keeps P s0 s) : KeepsR P s0 (execOpenWindow c s) := by
  unfold execOpenWindow
  repeat' (first
    | with_reducible assumption
    | ((with_reducible apply Parts.mono h); decide)
    | with_reducible apply State.adminDone_keeps
    | with_reducible apply State.admin_keeps
    | with_reducible apply State.ringOrder_keeps
    | with_reducible apply State.checks_keeps
    | with_reducible apply KeepsR.next
    | with_reducible intro _
    | (extract_lets +onlyGivenNames x0; first
        | ((with_reducible refine (have hx0 : Keeps P s0 x0 := ?_; ?_)); (on_goal 2 => clear_value x0); (on_goal 1 => subst x0))
        | clear_value x0)
    | with_reducible apply KeepsR.ite
    | with_reducible apply Keeps.ite
    | with_reducible apply KeepsO.getD
    | split
    | with_reducible apply Keeps.upd
    | with_reducible apply Fuses.refl
    | ((with_reducible apply Or.inr); with_reducible rfl)
    | ((with_reducible apply Or.inl); exact h _ (by decide))
    | beta_reduce)

theorem State.winRevoke_keeps {P : Part → Bool} {s0 : State} (s : State) (i : Nat) (r : Option CmdRef) (h : Parts P [.regs, .tra, .wins, .rte])
    (hs : Keeps P s0 s) : Keeps P s0 (State.winRevoke s i r) := by
  unfold State.winRevoke
  repeat' (first
    | with_reducible assumption
    | ((with_reducible apply Parts.mono h); decide)
    | with_reducible apply State.endResps_keeps
    | with_reducible intro _
    | (extract_lets +onlyGivenNames x0; first
        | ((with_reducible refine (have hx0 : Keeps P s0 x0 := ?_; ?_)); (on_goal 2 => clear_value x0); (on_goal 1 => subst x0))
        | ((with_reducible refine (have hx0 : KeepsP P s0 x0 := ?_; ?_)); (on_goal 2 => clear_value x0); (on_goal 1 => subst x0))
        | clear_value x0)
    | split
    | with_reducible apply KeepsP.mk
    | (with_reducible apply KeepsP.of_eq (by with_reducible assumption))
    | with_reducible apply KeepsP.fst
    | with_reducible apply Keeps.upd
    | with_reducible apply Fuses.refl
    | ((with_reducible apply Or.inr); with_reducible rfl)
    | ((with_reducible apply Or.inl); exact h _ (by decide))
    | beta_reduce)

theorem execRevokeWindow_keeps {P : Part → Bool} {s0 : State} (c : AdminCmd) (s : State) (h : Parts P [.regs, .ten, .tra, .wins, .xlt, .rte])
    (hs : Keeps P s0 s) : KeepsR P s0 (execRevokeWindow c s) := by
  unfold execRevokeWindow
  repeat' (first
    | with_reducible assumption
    | ((with_reducible apply Parts.mono h); decide)
    | with_reducible apply State.admin_keeps
    | with_reducible apply State.ringOrder_keeps
    | with_reducible apply State.checks_keeps
    | with_reducible apply State.winRevoke_keeps
    | with_reducible apply KeepsR.next
    | with_reducible intro _
    | (extract_lets +onlyGivenNames x0; first
        | ((with_reducible refine (have hx0 : Keeps P s0 x0 := ?_; ?_)); (on_goal 2 => clear_value x0); (on_goal 1 => subst x0))
        | clear_value x0)
    | split
    | beta_reduce)

theorem State.winClosed_keeps {P : Part → Bool} {s0 : State} (s : State) (i : Nat) (v : Window) (h : Parts P [.ten, .tra, .wins, .xlt])
    (hs : Keeps P s0 s) : Keeps P s0 (State.winClosed s i v) := by
  unfold State.winClosed
  repeat' (first
    | with_reducible assumption
    | ((with_reducible apply Parts.mono h); decide)
    | with_reducible apply State.adminDone_keeps
    | with_reducible intro _
    | (extract_lets +onlyGivenNames x0; first
        | ((with_reducible refine (have hx0 : Keeps P s0 x0 := ?_; ?_)); (on_goal 2 => clear_value x0); (on_goal 1 => subst x0))
        | clear_value x0)
    | split
    | with_reducible apply Keeps.upd
    | with_reducible apply Fuses.refl
    | ((with_reducible apply Or.inr); with_reducible rfl)
    | ((with_reducible apply Or.inl); exact h _ (by decide))
    | beta_reduce)

theorem execRevokeComplete_keeps {P : Part → Bool} {s0 : State} (window : Nat) (s : State) (h : Parts P [.ten, .tra, .wins, .xlt])
    (hs : Keeps P s0 s) : KeepsR P s0 (execRevokeComplete window s) := by
  unfold execRevokeComplete
  repeat' (first
    | with_reducible assumption
    | ((with_reducible apply Parts.mono h); decide)
    | with_reducible apply State.winClosed_keeps
    | with_reducible apply KeepsR.next
    | with_reducible intro _
    | (extract_lets +onlyGivenNames x0; first
        | ((with_reducible refine (have hx0 : Keeps P s0 x0 := ?_; ?_)); (on_goal 2 => clear_value x0); (on_goal 1 => subst x0))
        | clear_value x0)
    | with_reducible apply KeepsR.ite
    | with_reducible apply Keeps.ite
    | split
    | beta_reduce)

theorem execQueryWindow_keeps {P : Part → Bool} {s0 : State} (c : AdminCmd) (s : State) (h : Parts P [.ten, .xlt])
    (hs : Keeps P s0 s) : KeepsR P s0 (execQueryWindow c s) := by
  unfold execQueryWindow
  repeat' (first
    | with_reducible assumption
    | ((with_reducible apply Parts.mono h); decide)
    | with_reducible apply State.adminDone_keeps
    | with_reducible apply State.admin_keeps
    | with_reducible apply State.ringOrder_keeps
    | with_reducible apply State.checks_keeps
    | with_reducible apply KeepsR.next
    | with_reducible intro _
    | (extract_lets +onlyGivenNames x0; first
        | ((with_reducible refine (have hx0 : Keeps P s0 x0 := ?_; ?_)); (on_goal 2 => clear_value x0); (on_goal 1 => subst x0))
        | clear_value x0)
    | split
    | with_reducible apply Keeps.upd
    | with_reducible apply Fuses.refl
    | ((with_reducible apply Or.inr); with_reducible rfl)
    | ((with_reducible apply Or.inl); exact h _ (by decide))
    | beta_reduce)

theorem execWindowQuarantineEnd_keeps {P : Part → Bool} {s0 : State} (window : Nat) (s : State) (h : Parts P [.now, .ft, .regs, .wins, .lnk, .pwr])
    (hs : Keeps P s0 s) : KeepsR P s0 (execWindowQuarantineEnd window s) := by
  unfold execWindowQuarantineEnd
  repeat' (first
    | with_reducible assumption
    | ((with_reducible apply Parts.mono h); decide)
    | with_reducible apply State.passTo_keeps
    | with_reducible apply KeepsR.next
    | with_reducible intro _
    | (extract_lets +onlyGivenNames x0; first
        | ((with_reducible refine (have hx0 : Keeps P s0 x0 := ?_; ?_)); (on_goal 2 => clear_value x0); (on_goal 1 => subst x0))
        | clear_value x0)
    | with_reducible apply KeepsR.ite
    | with_reducible apply Keeps.ite
    | split
    | with_reducible apply Keeps.upd
    | with_reducible apply Fuses.refl
    | ((with_reducible apply Or.inr); with_reducible rfl)
    | ((with_reducible apply Or.inl); exact h _ (by decide)))

end Sys2Proof.Machine
end

