-- ==== Sys2Proof/Laws/WalkOps.lean ====
section
/-! SUPPORT. What the operations of Machine/WalkOps.lean keep. -/

set_option linter.unusedTactic false
set_option linter.unreachableTactic false
set_option linter.unusedVariables false

namespace Sys2Proof.Machine

open Sys2Proof

theorem State.walkResume_keeps {P : Part → Bool} {s0 : State} (s : State) (h : Parts P [.out, .free, .now, .ft, .regs, .hbm, .ten, .tra, .mat, .wins, .grps, .xlt, .rte, .lnk, .hst, .pwr])
    (hs : Keeps P s0 s) : Keeps P s0 (State.walkResume s) := by
  unfold State.walkResume
  repeat' (first
    | with_reducible assumption
    | ((with_reducible apply Parts.mono h); decide)
    | with_reducible apply State.eqFlushAll_keeps
    | with_reducible apply State.rqRelease_keeps
    | with_reducible apply State.copyRun_keeps
    | with_reducible apply State.collRun_keeps
    | with_reducible apply State.serveAllHeld_keeps
    | with_reducible apply foldl_keeps
    | with_reducible apply foldl_keepsP
    | with_reducible intro _
    | (extract_lets +onlyGivenNames x0; first
        | ((with_reducible refine (have hx0 : Keeps P s0 x0 := ?_; ?_)); (on_goal 2 => clear_value x0); (on_goal 1 => subst x0))
        | ((with_reducible refine (have hx0 : KeepsP P s0 x0 := ?_; ?_)); (on_goal 2 => clear_value x0); (on_goal 1 => subst x0))
        | clear_value x0)
    | with_reducible apply Keeps.ite
    | split
    | with_reducible apply KeepsP.mk
    | (with_reducible apply KeepsP.of_eq (by with_reducible assumption))
    | with_reducible apply KeepsP.fst
    | beta_reduce)

theorem State.markRequest_keeps {P : Part → Bool} {s0 : State} (s : State) (q : Nat) (t : Trap) (h : Parts P [.out, .regs, .ten, .xlt, .pwr])
    (hs : Keeps P s0 s) : Keeps P s0 (State.markRequest s q t) := by
  unfold State.markRequest
  repeat' (first
    | with_reducible assumption
    | ((with_reducible apply Parts.mono h); decide)
    | with_reducible apply State.eqEvent_keeps
    | with_reducible intro _
    | (extract_lets +onlyGivenNames x0; first
        | ((with_reducible refine (have hx0 : Keeps P s0 x0 := ?_; ?_)); (on_goal 2 => clear_value x0); (on_goal 1 => subst x0))
        | clear_value x0)
    | split
    | with_reducible apply Keeps.upd
    | with_reducible apply Fuses.refl
    | ((with_reducible apply Or.inr); with_reducible rfl)
    | ((with_reducible apply Or.inl); exact h _ (by decide)))

theorem State.unpause_keeps {P : Part → Bool} {s0 : State} (s : State) (q : Nat) (h : Parts P [.ten])
    (hs : Keeps P s0 s) : Keeps P s0 (State.unpause s q) := by
  unfold State.unpause
  repeat' (first
    | with_reducible assumption
    | ((with_reducible apply Parts.mono h); decide)
    | with_reducible apply State.updQp_keeps
    | with_reducible intro _
    | (extract_lets +onlyGivenNames x0; first
        | ((with_reducible refine (have hx0 : Keeps P s0 x0 := ?_; ?_)); (on_goal 2 => clear_value x0); (on_goal 1 => subst x0))
        | clear_value x0)
    | split
    | with_reducible apply Keeps.upd
    | with_reducible apply Fuses.refl
    | ((with_reducible apply Or.inr); with_reducible rfl)
    | ((with_reducible apply Or.inl); exact h _ (by decide))
    | beta_reduce)

theorem State.rewalked_keeps {P : Part → Bool} {s0 : State} (s : State) (q : Nat) (end_ : Option WalkEnd) (h : Parts P [.out, .regs, .ten, .xlt, .pwr])
    (hs : Keeps P s0 s) : Keeps P s0 (State.rewalked s q end_) := by
  unfold State.rewalked
  repeat' (first
    | with_reducible assumption
    | ((with_reducible apply Parts.mono h); decide)
    | with_reducible apply State.event_keeps
    | with_reducible apply State.adminDone_keeps
    | with_reducible apply State.markRequest_keeps
    | with_reducible apply State.unpause_keeps
    | with_reducible apply foldl_keeps
    | with_reducible apply foldl_keepsP
    | with_reducible intro _
    | (extract_lets +onlyGivenNames x0; first
        | ((with_reducible refine (have hx0 : Keeps P s0 x0 := ?_; ?_)); (on_goal 2 => clear_value x0); (on_goal 1 => subst x0))
        | ((with_reducible refine (have hx0 : KeepsP P s0 x0 := ?_; ?_)); (on_goal 2 => clear_value x0); (on_goal 1 => subst x0))
        | clear_value x0)
    | split
    | with_reducible apply KeepsP.mk
    | (with_reducible apply KeepsP.of_eq (by with_reducible assumption))
    | with_reducible apply KeepsP.fst
    | with_reducible apply Keeps.upd
    | with_reducible apply Fuses.refl
    | ((with_reducible apply Or.inr); with_reducible rfl)
    | ((with_reducible apply Or.inl); exact h _ (by decide))
    | beta_reduce)

theorem State.walkEnd_keeps {P : Part → Bool} {s0 : State} (s : State) (id : Nat) (r : WalkReq) (e : WalkEnd) (h : Parts P [.out, .regs, .ten, .xlt, .pwr])
    (hs : Keeps P s0 s) : Keeps P s0 (State.walkEnd s id r e) := by
  unfold State.walkEnd
  repeat' (first
    | with_reducible assumption
    | ((with_reducible apply Parts.mono h); decide)
    | with_reducible apply State.bump_keeps
    | with_reducible apply State.rewalked_keeps
    | with_reducible intro _
    | (extract_lets +onlyGivenNames x0; first
        | ((with_reducible refine (have hx0 : Keeps P s0 x0 := ?_; ?_)); (on_goal 2 => clear_value x0); (on_goal 1 => subst x0))
        | clear_value x0)
    | with_reducible apply Keeps.ite
    | split
    | with_reducible apply Keeps.upd
    | with_reducible apply Fuses.refl
    | ((with_reducible apply Or.inr); with_reducible rfl)
    | ((with_reducible apply Or.inl); exact h _ (by decide)))

theorem State.walkDown_keeps {P : Part → Bool} {s0 : State} (s : State) (id : Nat) (w : Walk) (owner : Nat) (z0 : Nat) (z1 : Nat) (h : Parts P [.out, .regs, .ten, .tra, .xlt, .pwr])
    (hs : Keeps P s0 s) : Keeps P s0 (State.walkDown s id w owner z0 z1) := by
  induction z0 generalizing s z1 with
  | zero =>
    unfold State.walkDown
    repeat' (first
      | with_reducible assumption
      | ((with_reducible apply Parts.mono h); decide)
      | with_reducible apply State.emit_keeps
      | with_reducible apply State.event_keeps
      | with_reducible apply State.walkEnd_keeps
      | with_reducible intro _
      | (extract_lets +onlyGivenNames x0; first
          | ((with_reducible refine (have hx0 : Keeps P s0 x0 := ?_; ?_)); (on_goal 2 => clear_value x0); (on_goal 1 => subst x0))
          | clear_value x0)
      | with_reducible apply Keeps.ite
      | split
      | with_reducible apply Keeps.upd
      | with_reducible apply Fuses.refl
      | ((with_reducible apply Or.inr); with_reducible rfl)
      | ((with_reducible apply Or.inl); exact h _ (by decide))
      | beta_reduce)
  | succ n ih =>
    unfold State.walkDown
    repeat' (first
      | with_reducible assumption
      | ((with_reducible apply Parts.mono h); decide)
      | with_reducible apply ih
      | with_reducible apply State.emit_keeps
      | with_reducible apply State.event_keeps
      | with_reducible apply State.walkEnd_keeps
      | with_reducible intro _
      | (extract_lets +onlyGivenNames x0; first
          | ((with_reducible refine (have hx0 : Keeps P s0 x0 := ?_; ?_)); (on_goal 2 => clear_value x0); (on_goal 1 => subst x0))
          | clear_value x0)
      | with_reducible apply Keeps.ite
      | split
      | with_reducible apply Keeps.upd
      | with_reducible apply Fuses.refl
      | ((with_reducible apply Or.inr); with_reducible rfl)
      | ((with_reducible apply Or.inl); exact h _ (by decide))
      | beta_reduce)

theorem State.tlbFill_keeps {P : Part → Bool} {s0 : State} (s : State) (l : Leaf) (h : Parts P [.free, .xlt])
    (hs : Keeps P s0 s) : Keeps P s0 (State.tlbFill s l) := by
  unfold State.tlbFill
  repeat' (first
    | with_reducible assumption
    | ((with_reducible apply Parts.mono h); decide)
    | with_reducible apply State.freeVal_keeps
    | with_reducible intro _
    | (extract_lets +onlyGivenNames x0; first
        | ((with_reducible refine (have hx0 : Keeps P s0 x0 := ?_; ?_)); (on_goal 2 => clear_value x0); (on_goal 1 => subst x0))
        | ((with_reducible refine (have hx0 : Keeps P s0 x0.2 := ?_; ?_)); (on_goal 2 => clear_value x0); (on_goal 1 => subst x0))
        | clear_value x0)
    | with_reducible apply Keeps.ite
    | split
    | with_reducible apply Keeps.upd
    | with_reducible apply Fuses.refl
    | ((with_reducible apply Or.inr); with_reducible rfl)
    | ((with_reducible apply Or.inl); exact h _ (by decide))
    | beta_reduce)

theorem State.wcacheFill_keeps {P : Part → Bool} {s0 : State} (s : State) (c : WalkEnt) (h : Parts P [.free, .xlt])
    (hs : Keeps P s0 s) : Keeps P s0 (State.wcacheFill s c) := by
  unfold State.wcacheFill
  repeat' (first
    | with_reducible assumption
    | ((with_reducible apply Parts.mono h); decide)
    | with_reducible apply State.freeVal_keeps
    | with_reducible intro _
    | (extract_lets +onlyGivenNames x0; first
        | ((with_reducible refine (have hx0 : Keeps P s0 x0 := ?_; ?_)); (on_goal 2 => clear_value x0); (on_goal 1 => subst x0))
        | ((with_reducible refine (have hx0 : Keeps P s0 x0.2 := ?_; ?_)); (on_goal 2 => clear_value x0); (on_goal 1 => subst x0))
        | clear_value x0)
    | with_reducible apply Keeps.ite
    | split
    | with_reducible apply Keeps.upd
    | with_reducible apply Fuses.refl
    | ((with_reducible apply Or.inr); with_reducible rfl)
    | ((with_reducible apply Or.inl); exact h _ (by decide)))

theorem State.cacheFill_keeps {P : Part → Bool} {s0 : State} (s : State) (l : Leaf) (path : List WalkEnt) (h : Parts P [.free, .xlt])
    (hs : Keeps P s0 s) : Keeps P s0 (State.cacheFill s l path) := by
  unfold State.cacheFill
  repeat' (first
    | with_reducible assumption
    | ((with_reducible apply Parts.mono h); decide)
    | with_reducible apply State.tlbFill_keeps
    | with_reducible apply State.wcacheFill_keeps
    | with_reducible apply foldl_keeps
    | with_reducible apply foldl_keepsP
    | with_reducible intro _
    | split
    | with_reducible apply KeepsP.mk
    | (with_reducible apply KeepsP.of_eq (by with_reducible assumption))
    | with_reducible apply KeepsP.fst
    | beta_reduce)

theorem State.walkLeaf_keeps {P : Part → Bool} {s0 : State} (s : State) (id : Nat) (w : Walk) (owner : Nat) (e : Word) (h : Parts P [.out, .free, .regs, .ten, .xlt, .pwr])
    (hs : Keeps P s0 s) : Keeps P s0 (State.walkLeaf s id w owner e) := by
  unfold State.walkLeaf
  repeat' (first
    | with_reducible assumption
    | ((with_reducible apply Parts.mono h); decide)
    | with_reducible apply State.rewalked_keeps
    | with_reducible apply State.walkEnd_keeps
    | with_reducible apply State.cacheFill_keeps
    | with_reducible intro _
    | (extract_lets +onlyGivenNames x0; first
        | ((with_reducible refine (have hx0 : Keeps P s0 x0 := ?_; ?_)); (on_goal 2 => clear_value x0); (on_goal 1 => subst x0))
        | clear_value x0)
    | with_reducible apply Keeps.ite
    | split
    | with_reducible apply Keeps.upd
    | with_reducible apply Fuses.refl
    | ((with_reducible apply Or.inr); with_reducible rfl)
    | ((with_reducible apply Or.inl); exact h _ (by decide)))

theorem State.walkEntry_keeps {P : Part → Bool} {s0 : State} (s : State) (id : Nat) (w : Walk) (owner : Nat) (e : Word) (h : Parts P [.out, .free, .regs, .ten, .tra, .xlt, .pwr])
    (hs : Keeps P s0 s) : Keeps P s0 (State.walkEntry s id w owner e) := by
  unfold State.walkEntry
  repeat' (first
    | with_reducible assumption
    | ((with_reducible apply Parts.mono h); decide)
    | with_reducible apply State.bump_keeps
    | with_reducible apply State.walkEnd_keeps
    | with_reducible apply State.walkDown_keeps
    | with_reducible apply State.walkLeaf_keeps
    | with_reducible intro _
    | (extract_lets +onlyGivenNames x0; first
        | ((with_reducible refine (have hx0 : Keeps P s0 x0 := ?_; ?_)); (on_goal 2 => clear_value x0); (on_goal 1 => subst x0))
        | clear_value x0)
    | with_reducible apply Keeps.ite
    | split
    | with_reducible apply Keeps.upd
    | with_reducible apply Fuses.refl
    | ((with_reducible apply Or.inr); with_reducible rfl)
    | ((with_reducible apply Or.inl); exact h _ (by decide)))

theorem State.walkFail_keeps {P : Part → Bool} {s0 : State} (s : State) (id : Nat) (h : Parts P [.out, .free, .now, .ft, .regs, .hbm, .ten, .tra, .mat, .wins, .grps, .xlt, .rte, .lnk, .hst, .pwr])
    (hs : Keeps P s0 s) : Keeps P s0 (State.walkFail s id) := by
  unfold State.walkFail
  repeat' (first
    | with_reducible assumption
    | ((with_reducible apply Parts.mono h); decide)
    | with_reducible apply State.walkResume_keeps
    | with_reducible apply State.walkEnd_keeps
    | with_reducible intro _
    | (extract_lets +onlyGivenNames x0; first
        | ((with_reducible refine (have hx0 : Keeps P s0 x0 := ?_; ?_)); (on_goal 2 => clear_value x0); (on_goal 1 => subst x0))
        | clear_value x0)
    | split
    | with_reducible apply Keeps.upd
    | with_reducible apply Fuses.refl
    | ((with_reducible apply Or.inr); with_reducible rfl)
    | ((with_reducible apply Or.inl); exact h _ (by decide)))

theorem State.walkBegin_keeps {P : Part → Bool} {s0 : State} (s : State) (r : WalkReq) (h : Parts P [.out, .free, .now, .ft, .regs, .hbm, .ten, .tra, .mat, .wins, .grps, .xlt, .rte, .lnk, .hst, .pwr])
    (hs : Keeps P s0 s) : Keeps P s0 (State.walkBegin s r) := by
  unfold State.walkBegin
  repeat' (first
    | with_reducible assumption
    | ((with_reducible apply Parts.mono h); decide)
    | with_reducible apply State.bump_keeps
    | with_reducible apply State.walkResume_keeps
    | with_reducible apply State.walkDown_keeps
    | with_reducible intro _
    | (extract_lets +onlyGivenNames x0; first
        | ((with_reducible refine (have hx0 : Keeps P s0 x0 := ?_; ?_)); (on_goal 2 => clear_value x0); (on_goal 1 => subst x0))
        | clear_value x0)
    | with_reducible apply Keeps.ite
    | split
    | with_reducible apply Keeps.upd
    | with_reducible apply Fuses.refl
    | ((with_reducible apply Or.inr); with_reducible rfl)
    | ((with_reducible apply Or.inl); exact h _ (by decide)))

end Sys2Proof.Machine
end

