-- ==== Sys2Proof/Laws/Transport.lean ====
section
/-! SUPPORT. What the operations of Machine/Transport.lean keep. -/

set_option linter.unusedTactic false
set_option linter.unreachableTactic false
set_option linter.unusedVariables false

namespace Sys2Proof.Machine

open Sys2Proof

theorem execTransportPacketSend_keeps {P : Part → Bool} {s0 : State} (what : SendWhat) (s : State) (h : Parts P [.out, .free, .regs, .ten, .tra, .mat, .wins, .grps, .xlt, .rte, .pwr])
    (hs : Keeps P s0 s) : KeepsR P s0 (execTransportPacketSend what s) := by
  unfold execTransportPacketSend
  repeat' (first
    | with_reducible assumption
    | ((with_reducible apply Parts.mono h); decide)
    | with_reducible apply State.asking_keeps
    | with_reducible apply State.sendJob_keeps
    | with_reducible apply State.sendResp_keeps
    | with_reducible apply KeepsR.next
    | with_reducible intro _
    | (extract_lets +onlyGivenNames x0; first
        | ((with_reducible refine (have hx0 : Keeps P s0 x0 := ?_; ?_)); (on_goal 2 => clear_value x0); (on_goal 1 => subst x0))
        | clear_value x0)
    | split
    | with_reducible apply Keeps.upd
    | with_reducible apply Fuses.refl
    | ((with_reducible apply Or.inr); with_reducible rfl)
    | ((with_reducible apply Or.inl); exact h _ (by decide))
    | beta_reduce)

theorem execTransportPacketReceive_keeps {P : Part → Bool} {s0 : State} (p : Packet) (s : State) (h : Parts P [.out, .free, .regs, .hbm, .ten, .tra, .mat, .wins, .grps, .xlt, .rte, .lnk, .boot, .pwr, .evr])
    (hs : Keeps P s0 s) : KeepsR P s0 (execTransportPacketReceive p s) := by
  unfold execTransportPacketReceive
  repeat' (first
    | with_reducible assumption
    | ((with_reducible apply Parts.mono h); decide)
    | with_reducible apply State.takeLocal_keeps
    | with_reducible apply State.asking_keeps
    | with_reducible apply State.tally_keeps
    | with_reducible apply State.receive_keeps
    | with_reducible apply State.handTo_keeps
    | with_reducible apply KeepsR.next
    | with_reducible intro _
    | with_reducible apply KeepsR.ite
    | with_reducible apply Keeps.ite
    | split
    | beta_reduce)

theorem execAckDelayExpiry_keeps {P : Part → Bool} {s0 : State} (sp : SpaceId) (s : State) (h : Parts P [.now, .ft, .regs, .ten, .tra, .rte, .lnk, .pwr])
    (hs : Keeps P s0 s) : KeepsR P s0 (execAckDelayExpiry sp s) := by
  unfold execAckDelayExpiry
  repeat' (first
    | with_reducible assumption
    | ((with_reducible apply Parts.mono h); decide)
    | with_reducible apply State.passTo_keeps
    | with_reducible apply State.ack_keeps
    | with_reducible apply KeepsR.next
    | with_reducible intro _
    | (extract_lets +onlyGivenNames x0; first
        | ((with_reducible refine (have hx0 : Keeps P s0 x0 := ?_; ?_)); (on_goal 2 => clear_value x0); (on_goal 1 => subst x0))
        | clear_value x0)
    | with_reducible apply KeepsR.ite
    | with_reducible apply Keeps.ite
    | split
    | with_reducible apply Keeps.upd
    | with_reducible apply Fuses.refl
    | ((with_reducible apply Or.inr); with_reducible rfl)
    | ((with_reducible apply Or.inl); exact h _ (by decide)))

theorem execAckReceive_keeps {P : Part → Bool} {s0 : State} (p : Packet) (s : State) (h : Parts P [.regs, .ten, .tra, .wins, .xlt, .rte, .lnk, .pwr])
    (hs : Keeps P s0 s) : KeepsR P s0 (execAckReceive p s) := by
  unfold execAckReceive
  repeat' (first
    | with_reducible assumption
    | ((with_reducible apply Parts.mono h); decide)
    | with_reducible apply State.takeLocal_keeps
    | with_reducible apply State.tally_keeps
    | with_reducible apply State.ack_keeps
    | with_reducible apply State.takeAck_keeps
    | with_reducible apply State.handTo_keeps
    | with_reducible apply KeepsR.next
    | with_reducible intro _
    | (extract_lets +onlyGivenNames x0; first
        | ((with_reducible refine (have hx0 : Keeps P s0 x0 := ?_; ?_)); (on_goal 2 => clear_value x0); (on_goal 1 => subst x0))
        | clear_value x0)
    | with_reducible apply KeepsR.ite
    | with_reducible apply Keeps.ite
    | split
    | with_reducible apply Keeps.upd
    | with_reducible apply Fuses.refl
    | ((with_reducible apply Or.inr); with_reducible rfl)
    | ((with_reducible apply Or.inl); exact h _ (by decide))
    | beta_reduce)

theorem State.busyNak_keeps {P : Part → Bool} {s0 : State} (s : State) (id : SpaceId) (psn : Psn) (backoff : Nat) (h : Parts P [.regs, .ten, .tra])
    (hs : Keeps P s0 s) : Keeps P s0 (State.busyNak s id psn backoff) := by
  unfold State.busyNak
  repeat' (first
    | with_reducible assumption
    | ((with_reducible apply Parts.mono h); decide)
    | with_reducible apply State.event_keeps
    | with_reducible apply State.updSp_keeps
    | with_reducible apply State.quietFlows_keeps
    | with_reducible intro _
    | (extract_lets +onlyGivenNames x0; first
        | ((with_reducible refine (have hx0 : Keeps P s0 x0 := ?_; ?_)); (on_goal 2 => clear_value x0); (on_goal 1 => subst x0))
        | ((with_reducible have _x0 : _ → _ := x0); clear _x0; subst x0; beta_reduce)
        | clear_value x0)
    | with_reducible apply Keeps.ite
    | with_reducible apply KeepsO.getD
    | split
    | with_reducible apply Keeps.upd
    | with_reducible apply Fuses.refl
    | ((with_reducible apply Or.inr); with_reducible rfl)
    | ((with_reducible apply Or.inl); exact h _ (by decide))
    | beta_reduce)

theorem execNakReceive_keeps {P : Part → Bool} {s0 : State} (p : Packet) (s : State) (h : Parts P [.out, .free, .regs, .ten, .tra, .mat, .wins, .grps, .xlt, .rte, .lnk, .pwr])
    (hs : Keeps P s0 s) : KeepsR P s0 (execNakReceive p s) := by
  unfold execNakReceive
  repeat' (first
    | with_reducible assumption
    | ((with_reducible apply Parts.mono h); decide)
    | with_reducible apply State.takeLocal_keeps
    | with_reducible apply State.tally_keeps
    | with_reducible apply State.ack_keeps
    | with_reducible apply State.nak_keeps
    | with_reducible apply State.retransmit_keeps
    | with_reducible apply State.takeAckBut_keeps
    | with_reducible apply State.takeAck_keeps
    | with_reducible apply State.terminal_keeps
    | with_reducible apply State.handTo_keeps
    | with_reducible apply State.busyNak_keeps
    | with_reducible apply KeepsR.next
    | with_reducible intro _
    | (extract_lets +onlyGivenNames x0; first
        | ((with_reducible refine (have hx0 : Keeps P s0 x0 := ?_; ?_)); (on_goal 2 => clear_value x0); (on_goal 1 => subst x0))
        | clear_value x0)
    | with_reducible apply KeepsR.ite
    | with_reducible apply Keeps.ite
    | split
    | with_reducible apply Keeps.upd
    | with_reducible apply Fuses.refl
    | ((with_reducible apply Or.inr); with_reducible rfl)
    | ((with_reducible apply Or.inl); exact h _ (by decide))
    | beta_reduce)

theorem execBusyBackoffExpiry_keeps {P : Part → Bool} {s0 : State} (sp : SpaceId) (psn : Psn) (s : State) (h : Parts P [.now, .ft, .regs, .ten, .tra, .mat, .rte, .lnk, .pwr])
    (hs : Keeps P s0 s) : KeepsR P s0 (execBusyBackoffExpiry sp psn s) := by
  unfold execBusyBackoffExpiry
  repeat' (first
    | with_reducible assumption
    | ((with_reducible apply Parts.mono h); decide)
    | with_reducible apply State.passTo_keeps
    | with_reducible apply State.updSp_keeps
    | with_reducible apply State.flushResends_keeps
    | with_reducible apply KeepsR.next
    | with_reducible intro _
    | (extract_lets +onlyGivenNames x0; first
        | ((with_reducible refine (have hx0 : Keeps P s0 x0 := ?_; ?_)); (on_goal 2 => clear_value x0); (on_goal 1 => subst x0))
        | clear_value x0)
    | with_reducible apply KeepsR.ite
    | with_reducible apply Keeps.ite
    | split
    | with_reducible apply Keeps.upd
    | with_reducible apply Fuses.refl
    | ((with_reducible apply Or.inr); with_reducible rfl)
    | ((with_reducible apply Or.inl); exact h _ (by decide))
    | beta_reduce)

theorem execRetransmitTimeout_keeps {P : Part → Bool} {s0 : State} (sp : SpaceId) (s : State) (h : Parts P [.out, .free, .now, .ft, .regs, .ten, .tra, .mat, .wins, .grps, .xlt, .rte, .lnk, .pwr])
    (hs : Keeps P s0 s) : KeepsR P s0 (execRetransmitTimeout sp s) := by
  unfold execRetransmitTimeout
  repeat' (first
    | with_reducible assumption
    | ((with_reducible apply Parts.mono h); decide)
    | with_reducible apply State.passTo_keeps
    | with_reducible apply State.updSp_keeps
    | with_reducible apply State.retransmit_keeps
    | with_reducible apply State.syncPacket_keeps
    | with_reducible apply State.spaceFail_keeps
    | with_reducible apply State.syncFail_keeps
    | with_reducible apply KeepsR.next
    | with_reducible intro _
    | (extract_lets +onlyGivenNames x0; first
        | ((with_reducible refine (have hx0 : Keeps P s0 x0 := ?_; ?_)); (on_goal 2 => clear_value x0); (on_goal 1 => subst x0))
        | clear_value x0)
    | with_reducible apply KeepsR.ite
    | with_reducible apply Keeps.ite
    | split
    | with_reducible apply Keeps.upd
    | with_reducible apply Fuses.refl
    | ((with_reducible apply Or.inr); with_reducible rfl)
    | ((with_reducible apply Or.inl); exact h _ (by decide))
    | beta_reduce)

theorem execBusyLimitExpiry_keeps {P : Part → Bool} {s0 : State} (sp : SpaceId) (psn : Psn) (s : State) (h : Parts P [.out, .free, .now, .ft, .regs, .ten, .tra, .mat, .wins, .grps, .xlt, .rte, .lnk, .pwr])
    (hs : Keeps P s0 s) : KeepsR P s0 (execBusyLimitExpiry sp psn s) := by
  unfold execBusyLimitExpiry
  repeat' (first
    | with_reducible assumption
    | ((with_reducible apply Parts.mono h); decide)
    | with_reducible apply State.passTo_keeps
    | with_reducible apply State.updSp_keeps
    | with_reducible apply State.quietFlows_keeps
    | with_reducible apply State.jobFail_keeps
    | with_reducible apply State.fetchFail_keeps
    | with_reducible apply KeepsR.next
    | with_reducible intro _
    | (extract_lets +onlyGivenNames x0; first
        | ((with_reducible refine (have hx0 : Keeps P s0 x0 := ?_; ?_)); (on_goal 2 => clear_value x0); (on_goal 1 => subst x0))
        | clear_value x0)
    | with_reducible apply KeepsR.ite
    | with_reducible apply Keeps.ite
    | split
    | with_reducible apply Keeps.upd
    | with_reducible apply Fuses.refl
    | ((with_reducible apply Or.inr); with_reducible rfl)
    | ((with_reducible apply Or.inl); exact h _ (by decide))
    | beta_reduce)

theorem execFlowEntryRelease_keeps {P : Part → Bool} {s0 : State} (qp : Nat) (dstNode : Nat) (dstQp : Nat) (s : State) (h : Parts P [.now, .ft, .regs, .tra, .lnk, .pwr])
    (hs : Keeps P s0 s) : KeepsR P s0 (execFlowEntryRelease qp dstNode dstQp s) := by
  unfold execFlowEntryRelease
  repeat' (first
    | with_reducible assumption
    | ((with_reducible apply Parts.mono h); decide)
    | with_reducible apply State.passTo_keeps
    | with_reducible apply KeepsR.next
    | with_reducible intro _
    | (extract_lets +onlyGivenNames x0; first
        | ((with_reducible refine (have hx0 : Keeps P s0 x0 := ?_; ?_)); (on_goal 2 => clear_value x0); (on_goal 1 => subst x0))
        | ((with_reducible have _x0 : _ → _ := x0); clear _x0; subst x0; beta_reduce)
        | clear_value x0)
    | with_reducible apply KeepsR.ite
    | with_reducible apply Keeps.ite
    | split
    | with_reducible apply Keeps.upd
    | with_reducible apply Fuses.refl
    | ((with_reducible apply Or.inr); with_reducible rfl)
    | ((with_reducible apply Or.inl); exact h _ (by decide))
    | beta_reduce)

theorem State.newIncarnation_keeps {P : Part → Bool} {s0 : State} (s : State) (n : Nat) (h : Parts P [.out, .regs, .ten, .tra, .mat, .xlt, .pwr])
    (hs : Keeps P s0 s) : Keeps P s0 (State.newIncarnation s n) := by
  unfold State.newIncarnation
  repeat' (first
    | with_reducible assumption
    | ((with_reducible apply Parts.mono h); decide)
    | with_reducible apply State.gateDiscard_keeps
    | with_reducible intro _
    | (extract_lets +onlyGivenNames x0; first
        | ((with_reducible refine (have hx0 : Keeps P s0 x0 := ?_; ?_)); (on_goal 2 => clear_value x0); (on_goal 1 => subst x0))
        | clear_value x0)
    | split
    | with_reducible apply Keeps.upd
    | with_reducible apply Fuses.refl
    | ((with_reducible apply Or.inr); with_reducible rfl)
    | ((with_reducible apply Or.inl); exact h _ (by decide))
    | beta_reduce)

theorem State.syncTaken_keeps {P : Part → Bool} {s0 : State} (s : State) (n : Nat) (psn : Psn) (inc : BitVec 16) (h : Parts P [.ten, .tra])
    (hs : Keeps P s0 s) : Keeps P s0 (State.syncTaken s n psn inc) := by
  unfold State.syncTaken
  repeat' (first
    | with_reducible assumption
    | ((with_reducible apply Parts.mono h); decide)
    | with_reducible apply State.setNp_keeps
    | with_reducible apply State.updSp_keeps
    | with_reducible intro _
    | (extract_lets +onlyGivenNames x0; first
        | ((with_reducible refine (have hx0 : Keeps P s0 x0 := ?_; ?_)); (on_goal 2 => clear_value x0); (on_goal 1 => subst x0))
        | clear_value x0)
    | split
    | with_reducible apply Keeps.upd
    | with_reducible apply Fuses.refl
    | ((with_reducible apply Or.inr); with_reducible rfl)
    | ((with_reducible apply Or.inl); exact h _ (by decide))
    | beta_reduce)

theorem State.staleJobs_keeps {P : Part → Bool} {s0 : State} (s : State) (n : Nat) (h : Parts P [.out, .free, .regs, .ten, .tra, .mat, .wins, .grps, .xlt, .rte, .pwr])
    (hs : Keeps P s0 s) : Keeps P s0 (State.staleJobs s n) := by
  unfold State.staleJobs
  repeat' (first
    | with_reducible assumption
    | ((with_reducible apply Parts.mono h); decide)
    | with_reducible apply State.updSp_keeps
    | with_reducible apply State.quietFlows_keeps
    | with_reducible apply State.giveUpResps_keeps
    | with_reducible apply State.jobsFail_keeps
    | with_reducible intro _
    | (extract_lets +onlyGivenNames x0; first
        | ((with_reducible refine (have hx0 : Keeps P s0 x0 := ?_; ?_)); (on_goal 2 => clear_value x0); (on_goal 1 => subst x0))
        | ((with_reducible have _x0 : _ → _ := x0); clear _x0; subst x0; beta_reduce)
        | clear_value x0)
    | split
    | beta_reduce)

theorem execSyncReceive_keeps {P : Part → Bool} {s0 : State} (p : Packet) (s : State) (h : Parts P [.out, .free, .now, .ft, .regs, .ten, .tra, .mat, .wins, .grps, .xlt, .rte, .lnk, .pwr])
    (hs : Keeps P s0 s) : KeepsR P s0 (execSyncReceive p s) := by
  unfold execSyncReceive
  repeat' (first
    | with_reducible assumption
    | ((with_reducible apply Parts.mono h); decide)
    | with_reducible apply State.takeLocal_keeps
    | with_reducible apply State.idle_keeps
    | with_reducible apply State.setNp_keeps
    | with_reducible apply State.updSp_keeps
    | with_reducible apply State.syncPacket_keeps
    | with_reducible apply State.handTo_keeps
    | with_reducible apply State.newIncarnation_keeps
    | with_reducible apply State.syncTaken_keeps
    | with_reducible apply State.staleJobs_keeps
    | with_reducible apply KeepsR.next
    | with_reducible intro _
    | (extract_lets +onlyGivenNames x0; first
        | ((with_reducible refine (have hx0 : Keeps P s0 x0 := ?_; ?_)); (on_goal 2 => clear_value x0); (on_goal 1 => subst x0))
        | clear_value x0)
    | with_reducible apply KeepsR.ite
    | with_reducible apply Keeps.ite
    | split
    | with_reducible apply Keeps.upd
    | with_reducible apply Fuses.refl
    | ((with_reducible apply Or.inr); with_reducible rfl)
    | ((with_reducible apply Or.inl); exact h _ (by decide))
    | beta_reduce)

theorem execSyncAckReceive_keeps {P : Part → Bool} {s0 : State} (p : Packet) (s : State) (h : Parts P [.out, .regs, .ten, .tra, .mat, .xlt, .rte, .lnk, .pwr])
    (hs : Keeps P s0 s) : KeepsR P s0 (execSyncAckReceive p s) := by
  unfold execSyncAckReceive
  repeat' (first
    | with_reducible assumption
    | ((with_reducible apply Parts.mono h); decide)
    | with_reducible apply State.takeLocal_keeps
    | with_reducible apply State.setNp_keeps
    | with_reducible apply State.updSp_keeps
    | with_reducible apply State.handTo_keeps
    | with_reducible apply State.newIncarnation_keeps
    | with_reducible apply State.syncTaken_keeps
    | with_reducible apply KeepsR.next
    | with_reducible intro _
    | (extract_lets +onlyGivenNames x0; first
        | ((with_reducible refine (have hx0 : Keeps P s0 x0 := ?_; ?_)); (on_goal 2 => clear_value x0); (on_goal 1 => subst x0))
        | clear_value x0)
    | with_reducible apply KeepsR.ite
    | with_reducible apply Keeps.ite
    | split
    | with_reducible apply Keeps.upd
    | with_reducible apply Fuses.refl
    | ((with_reducible apply Or.inr); with_reducible rfl)
    | ((with_reducible apply Or.inl); exact h _ (by decide))
    | beta_reduce)

theorem State.msgAbandon_keeps {P : Part → Bool} {s0 : State} (s : State) (m : Msg) (h : Parts P [.out, .free, .regs, .hbm, .ten, .tra, .mat, .wins, .grps, .xlt, .rte, .pwr])
    (hs : Keeps P s0 s) : Keeps P s0 (State.msgAbandon s m) := by
  unfold State.msgAbandon
  repeat' (first
    | with_reducible assumption
    | ((with_reducible apply Parts.mono h); decide)
    | with_reducible apply State.dropMsgs_keeps
    | with_reducible apply State.discardMsgs_keeps
    | with_reducible apply State.ungate_keeps
    | with_reducible apply State.recvDone_keeps
    | with_reducible apply State.gateLoop_keeps
    | with_reducible intro _
    | (extract_lets +onlyGivenNames x0; first
        | ((with_reducible refine (have hx0 : Keeps P s0 x0 := ?_; ?_)); (on_goal 2 => clear_value x0); (on_goal 1 => subst x0))
        | ((with_reducible have _x0 : _ → _ := x0); clear _x0; subst x0; beta_reduce)
        | clear_value x0)
    | split
    | with_reducible apply Keeps.upd
    | with_reducible apply Fuses.refl
    | ((with_reducible apply Or.inr); with_reducible rfl)
    | ((with_reducible apply Or.inl); exact h _ (by decide))
    | beta_reduce)

theorem State.respAbandon_keeps {P : Part → Bool} {s0 : State} (s : State) (sp : SpaceId) (psn : Psn) (h : Parts P [.out, .free, .regs, .ten, .tra, .mat, .wins, .grps, .xlt, .rte, .pwr])
    (hs : Keeps P s0 s) : Keeps P s0 (State.respAbandon s sp psn) := by
  unfold State.respAbandon
  repeat' (first
    | with_reducible assumption
    | ((with_reducible apply Parts.mono h); decide)
    | with_reducible apply State.jobFail_keeps
    | with_reducible apply State.fetchFail_keeps
    | with_reducible intro _
    | (extract_lets +onlyGivenNames x0; first
        | ((with_reducible refine (have hx0 : Keeps P s0 x0 := ?_; ?_)); (on_goal 2 => clear_value x0); (on_goal 1 => subst x0))
        | clear_value x0)
    | split
    | with_reducible apply Keeps.upd
    | with_reducible apply Fuses.refl
    | ((with_reducible apply Or.inr); with_reducible rfl)
    | ((with_reducible apply Or.inl); exact h _ (by decide))
    | beta_reduce)

theorem execPlacementAbandon_keeps {P : Part → Bool} {s0 : State} (m : MsgId) (s : State) (h : Parts P [.out, .free, .now, .ft, .regs, .hbm, .ten, .tra, .mat, .wins, .grps, .xlt, .rte, .lnk, .pwr])
    (hs : Keeps P s0 s) : KeepsR P s0 (execPlacementAbandon m s) := by
  unfold execPlacementAbandon
  repeat' (first
    | with_reducible assumption
    | ((with_reducible apply Parts.mono h); decide)
    | with_reducible apply State.asking_keeps
    | with_reducible apply State.passTo_keeps
    | with_reducible apply State.msgAbandon_keeps
    | with_reducible apply State.respAbandon_keeps
    | with_reducible apply KeepsR.next
    | with_reducible intro _
    | (extract_lets +onlyGivenNames x0; first
        | ((with_reducible refine (have hx0 : Keeps P s0 x0 := ?_; ?_)); (on_goal 2 => clear_value x0); (on_goal 1 => subst x0))
        | clear_value x0)
    | with_reducible apply KeepsR.ite
    | with_reducible apply Keeps.ite
    | split
    | with_reducible apply Keeps.upd
    | with_reducible apply Fuses.refl
    | ((with_reducible apply Or.inr); with_reducible rfl)
    | ((with_reducible apply Or.inl); exact h _ (by decide))
    | beta_reduce)

theorem State.readDone_keeps {P : Part → Bool} {s0 : State} (s : State) (tag : Nat) (r : HReq) (data : List Byte) (h : Parts P [.out, .free, .now, .ft, .regs, .hbm, .ten, .tra, .mat, .wins, .grps, .xlt, .rte, .lnk, .pwr])
    (hs : Keeps P s0 s) : Keeps P s0 (State.readDone s tag r data) := by
  unfold State.readDone
  repeat' (first
    | with_reducible assumption
    | ((with_reducible apply Parts.mono h); decide)
    | with_reducible apply State.respCheck_keeps
    | with_reducible apply State.setRd_keeps
    | with_reducible apply State.copyData_keeps
    | with_reducible apply State.collData_keeps
    | with_reducible intro _
    | (extract_lets +onlyGivenNames x0; first
        | ((with_reducible refine (have hx0 : Keeps P s0 x0 := ?_; ?_)); (on_goal 2 => clear_value x0); (on_goal 1 => subst x0))
        | ((with_reducible have _x0 : _ → _ := x0); clear _x0; subst x0; beta_reduce)
        | clear_value x0)
    | with_reducible apply Keeps.ite
    | split
    | with_reducible apply Keeps.upd
    | with_reducible apply Fuses.refl
    | ((with_reducible apply Or.inr); with_reducible rfl)
    | ((with_reducible apply Or.inl); exact h _ (by decide))
    | beta_reduce)

theorem State.readFail_keeps {P : Part → Bool} {s0 : State} (s : State) (r : HReq) (h : Parts P [.out, .free, .now, .ft, .regs, .hbm, .ten, .tra, .mat, .wins, .grps, .xlt, .rte, .lnk, .hst, .pwr])
    (hs : Keeps P s0 s) : Keeps P s0 (State.readFail s r) := by
  unfold State.readFail
  repeat' (first
    | with_reducible assumption
    | ((with_reducible apply Parts.mono h); decide)
    | with_reducible apply State.updJob_keeps
    | with_reducible apply State.respCheck_keeps
    | with_reducible apply State.jobFail_keeps
    | with_reducible apply State.setRd_keeps
    | with_reducible apply State.respFail_keeps
    | with_reducible apply State.collLocalFail_keeps
    | with_reducible apply State.walkFail_keeps
    | with_reducible intro _
    | (extract_lets +onlyGivenNames x0; first
        | ((with_reducible refine (have hx0 : Keeps P s0 x0 := ?_; ?_)); (on_goal 2 => clear_value x0); (on_goal 1 => subst x0))
        | clear_value x0)
    | with_reducible apply Keeps.ite
    | with_reducible apply KeepsO.getD
    | split
    | with_reducible apply Keeps.upd
    | with_reducible apply Fuses.refl
    | ((with_reducible apply Or.inr); with_reducible rfl)
    | ((with_reducible apply Or.inl); exact h _ (by decide))
    | beta_reduce)

theorem State.hostFault_keeps {P : Part → Bool} {s0 : State} (s : State) (r : HReq) (k : Nat) (h : Parts P [.regs, .boot, .evr])
    (hs : Keeps P s0 s) : Keeps P s0 (State.hostFault s r k) := by
  unfold State.hostFault
  repeat' (first
    | with_reducible assumption
    | ((with_reducible apply Parts.mono h); decide)
    | with_reducible apply State.ucRaise_keeps
    | with_reducible intro _
    | (extract_lets +onlyGivenNames x0; first
        | ((with_reducible refine (have hx0 : Keeps P s0 x0 := ?_; ?_)); (on_goal 2 => clear_value x0); (on_goal 1 => subst x0))
        | clear_value x0)
    | split
    | with_reducible apply Keeps.upd
    | with_reducible apply Fuses.refl
    | ((with_reducible apply Or.inr); with_reducible rfl)
    | ((with_reducible apply Or.inl); exact h _ (by decide))
    | beta_reduce)

theorem State.dropReq_keeps {P : Part → Bool} {s0 : State} (s : State) (tag : Nat) (h : Parts P [.tra])
    (hs : Keeps P s0 s) : Keeps P s0 (State.dropReq s tag) := by
  unfold State.dropReq
  repeat' (first
    | with_reducible assumption
    | ((with_reducible apply Parts.mono h); decide)
    | with_reducible intro _
    | (extract_lets +onlyGivenNames x0; first
        | ((with_reducible refine (have hx0 : Keeps P s0 x0 := ?_; ?_)); (on_goal 2 => clear_value x0); (on_goal 1 => subst x0))
        | clear_value x0)
    | split
    | with_reducible apply Keeps.upd
    | with_reducible apply Fuses.refl
    | ((with_reducible apply Or.inr); with_reducible rfl)
    | ((with_reducible apply Or.inl); exact h _ (by decide)))

theorem execHostReadComplete_keeps {P : Part → Bool} {s0 : State} (tag : Nat) (status : HostStatus) (data : List Byte) (s : State) (h : Parts P [.out, .free, .now, .ft, .regs, .hbm, .ten, .tra, .mat, .wins, .grps, .xlt, .rte, .lnk, .hst, .boot, .pwr, .evr])
    (hs : Keeps P s0 s) : KeepsR P s0 (execHostReadComplete tag status data s) := by
  unfold execHostReadComplete
  repeat' (first
    | with_reducible assumption
    | ((with_reducible apply Parts.mono h); decide)
    | with_reducible apply State.readDone_keeps
    | with_reducible apply State.readFail_keeps
    | with_reducible apply State.hostFault_keeps
    | with_reducible apply State.dropReq_keeps
    | with_reducible apply KeepsR.next
    | with_reducible intro _
    | (extract_lets +onlyGivenNames x0; first
        | ((with_reducible refine (have hx0 : Keeps P s0 x0 := ?_; ?_)); (on_goal 2 => clear_value x0); (on_goal 1 => subst x0))
        | clear_value x0)
    | with_reducible apply KeepsR.ite
    | with_reducible apply Keeps.ite
    | split
    | with_reducible apply Keeps.upd
    | with_reducible apply Fuses.refl
    | ((with_reducible apply Or.inr); with_reducible rfl)
    | ((with_reducible apply Or.inl); exact h _ (by decide)))

theorem execHostAtomicopComplete_keeps {P : Part → Bool} {s0 : State} (tag : Nat) (status : HostStatus) (old : Word) (s : State) (h : Parts P [.out, .free, .now, .ft, .regs, .hbm, .ten, .tra, .mat, .wins, .grps, .xlt, .rte, .lnk, .hst, .boot, .pwr, .evr])
    (hs : Keeps P s0 s) : KeepsR P s0 (execHostAtomicopComplete tag status old s) := by
  unfold execHostAtomicopComplete
  repeat' (first
    | with_reducible assumption
    | ((with_reducible apply Parts.mono h); decide)
    | with_reducible apply State.respCheck_keeps
    | with_reducible apply State.readFail_keeps
    | with_reducible apply State.hostFault_keeps
    | with_reducible apply State.dropReq_keeps
    | with_reducible apply KeepsR.next
    | with_reducible intro _
    | (extract_lets +onlyGivenNames x0; first
        | ((with_reducible refine (have hx0 : Keeps P s0 x0 := ?_; ?_)); (on_goal 2 => clear_value x0); (on_goal 1 => subst x0))
        | clear_value x0)
    | with_reducible apply KeepsR.ite
    | with_reducible apply Keeps.ite
    | split
    | with_reducible apply Keeps.upd
    | with_reducible apply Fuses.refl
    | ((with_reducible apply Or.inr); with_reducible rfl)
    | ((with_reducible apply Or.inl); exact h _ (by decide))
    | beta_reduce)

theorem execHostCompletionTimeout_keeps {P : Part → Bool} {s0 : State} (tag : Nat) (s : State) (h : Parts P [.out, .free, .now, .ft, .regs, .hbm, .ten, .tra, .mat, .wins, .grps, .xlt, .rte, .lnk, .hst, .boot, .pwr, .evr])
    (hs : Keeps P s0 s) : KeepsR P s0 (execHostCompletionTimeout tag s) := by
  unfold execHostCompletionTimeout
  repeat' (first
    | with_reducible assumption
    | ((with_reducible apply Parts.mono h); decide)
    | with_reducible apply State.readFail_keeps
    | with_reducible apply State.hostFault_keeps
    | with_reducible apply State.dropReq_keeps
    | with_reducible apply KeepsR.next
    | with_reducible intro _
    | (extract_lets +onlyGivenNames x0; first
        | ((with_reducible refine (have hx0 : Keeps P s0 x0 := ?_; ?_)); (on_goal 2 => clear_value x0); (on_goal 1 => subst x0))
        | clear_value x0)
    | with_reducible apply KeepsR.ite
    | with_reducible apply Keeps.ite
    | split
    | with_reducible apply Keeps.upd
    | with_reducible apply Fuses.refl
    | ((with_reducible apply Or.inr); with_reducible rfl)
    | ((with_reducible apply Or.inl); exact h _ (by decide)))

theorem execHbmAccessComplete_keeps {P : Part → Bool} {s0 : State} (tag : Nat) (s : State) (h : Parts P [.out, .free, .now, .ft, .regs, .hbm, .ten, .tra, .mat, .wins, .grps, .xlt, .rte, .lnk, .pwr])
    (hs : Keeps P s0 s) : KeepsR P s0 (execHbmAccessComplete tag s) := by
  unfold execHbmAccessComplete
  repeat' (first
    | with_reducible assumption
    | ((with_reducible apply Parts.mono h); decide)
    | with_reducible apply State.hbmWrite_keeps
    | with_reducible apply State.respCheck_keeps
    | with_reducible apply State.readDone_keeps
    | with_reducible apply State.dropReq_keeps
    | with_reducible apply KeepsR.next
    | with_reducible intro _
    | (extract_lets +onlyGivenNames x0; first
        | ((with_reducible refine (have hx0 : Keeps P s0 x0 := ?_; ?_)); (on_goal 2 => clear_value x0); (on_goal 1 => subst x0))
        | clear_value x0)
    | with_reducible apply KeepsR.ite
    | with_reducible apply Keeps.ite
    | split
    | with_reducible apply Keeps.upd
    | with_reducible apply Fuses.refl
    | ((with_reducible apply Or.inr); with_reducible rfl)
    | ((with_reducible apply Or.inl); exact h _ (by decide))
    | beta_reduce)

end Sys2Proof.Machine
end

