-- ==== Sys2Proof/Laws/Xlt.lean ====
section
/-! SUPPORT. What the operations of Machine/Xlt.lean keep. -/

set_option linter.unusedTactic false
set_option linter.unreachableTactic false
set_option linter.unusedVariables false

namespace Sys2Proof.Machine

open Sys2Proof

theorem State.ownAsid_keeps {P : Part → Bool} {s0 : State} (s : State) (r : CmdRef) (asid : Nat) (body : State → Asid → State) (h : Parts P [.ten, .xlt]) (h_body : ∀ a, Keeps P s0 a → ∀ y1, Keeps P s0 (body a y1))
    (hs : Keeps P s0 s) : Keeps P s0 (State.ownAsid s r asid body) := by
  unfold State.ownAsid
  repeat' (first
    | with_reducible assumption
    | ((with_reducible apply Parts.mono h); decide)
    | with_reducible apply h_body
    | with_reducible apply State.adminDone_keeps
    | with_reducible intro _
    | (extract_lets +onlyGivenNames x0; first
        | ((with_reducible refine (have hx0 : Keeps P s0 x0 := ?_; ?_)); (on_goal 2 => clear_value x0); (on_goal 1 => subst x0))
        | clear_value x0)
    | with_reducible apply Keeps.ite
    | split
    | with_reducible apply Keeps.upd
    | with_reducible apply Fuses.refl
    | ((with_reducible apply Or.inr); with_reducible rfl)
    | ((with_reducible apply Or.inl); exact h _ (by decide)))

theorem execCreateAsid_keeps {P : Part → Bool} {s0 : State} (c : AdminCmd) (s : State) (h : Parts P [.free, .regs, .ten, .xlt, .pwr])
    (hs : Keeps P s0 s) : KeepsR P s0 (execCreateAsid c s) := by
  unfold execCreateAsid
  repeat' (first
    | with_reducible assumption
    | ((with_reducible apply Parts.mono h); decide)
    | with_reducible apply State.adminDone_keeps
    | with_reducible apply State.adminAt_keeps
    | with_reducible apply State.checks_keeps
    | with_reducible apply KeepsR.next
    | with_reducible intro _
    | (extract_lets +onlyGivenNames x0; first
        | ((with_reducible refine (have hx0 : Keeps P s0 x0 := ?_; ?_)); (on_goal 2 => clear_value x0); (on_goal 1 => subst x0))
        | clear_value x0)
    | with_reducible apply KeepsR.ite
    | with_reducible apply Keeps.ite
    | split
    | with_reducible apply Keeps.upd
    | with_reducible apply Fuses.refl
    | ((with_reducible apply Or.inr); with_reducible rfl)
    | ((with_reducible apply Or.inl); exact h _ (by decide))
    | beta_reduce)

theorem State.uncache_keeps {P : Part → Bool} {s0 : State} (s : State) (asid : Nat) (lo : Nat) (hi : Nat) (h : Parts P [.xlt])
    (hs : Keeps P s0 s) : Keeps P s0 (State.uncache s asid lo hi) := by
  unfold State.uncache
  repeat' (first
    | with_reducible assumption
    | ((with_reducible apply Parts.mono h); decide)
    | with_reducible intro _
    | (extract_lets +onlyGivenNames x0; first
        | ((with_reducible refine (have hx0 : Keeps P s0 x0 := ?_; ?_)); (on_goal 2 => clear_value x0); (on_goal 1 => subst x0))
        | clear_value x0)
    | with_reducible apply Keeps.ite
    | split
    | with_reducible apply Keeps.upd
    | with_reducible apply Fuses.refl
    | ((with_reducible apply Or.inr); with_reducible rfl)
    | ((with_reducible apply Or.inl); exact h _ (by decide))
    | beta_reduce)

theorem State.asidGone_keeps {P : Part → Bool} {s0 : State} (s : State) (i : Nat) (h : Parts P [.tra, .xlt])
    (hs : Keeps P s0 s) : Keeps P s0 (State.asidGone s i) := by
  unfold State.asidGone
  repeat' (first
    | with_reducible assumption
    | ((with_reducible apply Parts.mono h); decide)
    | with_reducible apply State.uncache_keeps
    | with_reducible intro _
    | (extract_lets +onlyGivenNames x0; first
        | ((with_reducible refine (have hx0 : Keeps P s0 x0 := ?_; ?_)); (on_goal 2 => clear_value x0); (on_goal 1 => subst x0))
        | clear_value x0)
    | with_reducible apply Keeps.ite
    | split
    | with_reducible apply Keeps.upd
    | with_reducible apply Fuses.refl
    | ((with_reducible apply Or.inr); with_reducible rfl)
    | ((with_reducible apply Or.inl); exact h _ (by decide))
    | beta_reduce)

theorem execDestroyAsid_keeps {P : Part → Bool} {s0 : State} (c : AdminCmd) (s : State) (h : Parts P [.regs, .ten, .tra, .xlt, .pwr])
    (hs : Keeps P s0 s) : KeepsR P s0 (execDestroyAsid c s) := by
  unfold execDestroyAsid
  repeat' (first
    | with_reducible assumption
    | ((with_reducible apply Parts.mono h); decide)
    | with_reducible apply State.adminDone_keeps
    | with_reducible apply State.ringOrder_keeps
    | with_reducible apply State.adminAt_keeps
    | with_reducible apply State.checks_keeps
    | with_reducible apply State.ownAsid_keeps
    | with_reducible apply State.asidGone_keeps
    | with_reducible apply KeepsR.next
    | with_reducible intro _
    | (extract_lets +onlyGivenNames x0; first
        | ((with_reducible refine (have hx0 : Keeps P s0 x0 := ?_; ?_)); (on_goal 2 => clear_value x0); (on_goal 1 => subst x0))
        | clear_value x0)
    | split
    | beta_reduce)

theorem State.invalidate_keeps {P : Part → Bool} {s0 : State} (s : State) (asid : Nat) (lo : Nat) (hi : Nat) (r : CmdRef) (h : Parts P [.xlt])
    (hs : Keeps P s0 s) : Keeps P s0 (State.invalidate s asid lo hi r) := by
  unfold State.invalidate
  repeat' (first
    | with_reducible assumption
    | ((with_reducible apply Parts.mono h); decide)
    | with_reducible apply State.uncache_keeps
    | with_reducible intro _
    | (extract_lets +onlyGivenNames x0; first
        | ((with_reducible refine (have hx0 : Keeps P s0 x0 := ?_; ?_)); (on_goal 2 => clear_value x0); (on_goal 1 => subst x0))
        | clear_value x0)
    | with_reducible apply KeepsO.getD
    | split
    | with_reducible apply Keeps.upd
    | with_reducible apply Fuses.refl
    | ((with_reducible apply Or.inr); with_reducible rfl)
    | ((with_reducible apply Or.inl); exact h _ (by decide)))

theorem execModifyAsid_keeps {P : Part → Bool} {s0 : State} (c : AdminCmd) (s : State) (h : Parts P [.regs, .ten, .xlt, .pwr])
    (hs : Keeps P s0 s) : KeepsR P s0 (execModifyAsid c s) := by
  unfold execModifyAsid
  repeat' (first
    | with_reducible assumption
    | ((with_reducible apply Parts.mono h); decide)
    | with_reducible apply State.adminAt_keeps
    | with_reducible apply State.ownAsid_keeps
    | with_reducible apply State.invalidate_keeps
    | with_reducible apply KeepsR.next
    | with_reducible intro _
    | (extract_lets +onlyGivenNames x0; first
        | ((with_reducible refine (have hx0 : Keeps P s0 x0 := ?_; ?_)); (on_goal 2 => clear_value x0); (on_goal 1 => subst x0))
        | clear_value x0)
    | split
    | with_reducible apply Keeps.upd
    | with_reducible apply Fuses.refl
    | ((with_reducible apply Or.inr); with_reducible rfl)
    | ((with_reducible apply Or.inl); exact h _ (by decide))
    | beta_reduce)

theorem execInvalidate_keeps {P : Part → Bool} {s0 : State} (c : AdminCmd) (s : State) (h : Parts P [.regs, .ten, .xlt, .pwr])
    (hs : Keeps P s0 s) : KeepsR P s0 (execInvalidate c s) := by
  unfold execInvalidate
  repeat' (first
    | with_reducible assumption
    | ((with_reducible apply Parts.mono h); decide)
    | with_reducible apply State.adminAt_keeps
    | with_reducible apply State.checks_keeps
    | with_reducible apply State.ownAsid_keeps
    | with_reducible apply State.invalidate_keeps
    | with_reducible apply KeepsR.next
    | with_reducible intro _
    | (extract_lets +onlyGivenNames x0; first
        | ((with_reducible refine (have hx0 : Keeps P s0 x0 := ?_; ?_)); (on_goal 2 => clear_value x0); (on_goal 1 => subst x0))
        | clear_value x0)
    | with_reducible apply KeepsR.ite
    | with_reducible apply Keeps.ite
    | split
    | beta_reduce)

theorem execInvalidateComplete_keeps {P : Part → Bool} {s0 : State} (asid : Nat) (s : State) (h : Parts P [.ten, .xlt])
    (hs : Keeps P s0 s) : KeepsR P s0 (execInvalidateComplete asid s) := by
  unfold execInvalidateComplete
  repeat' (first
    | with_reducible assumption
    | ((with_reducible apply Parts.mono h); decide)
    | with_reducible apply State.adminDone_keeps
    | with_reducible apply KeepsR.next
    | with_reducible apply foldl_keeps
    | with_reducible apply foldl_keepsP
    | with_reducible intro _
    | (extract_lets +onlyGivenNames x0; first
        | ((with_reducible refine (have hx0 : Keeps P s0 x0 := ?_; ?_)); (on_goal 2 => clear_value x0); (on_goal 1 => subst x0))
        | ((with_reducible refine (have hx0 : KeepsP P s0 x0 := ?_; ?_)); (on_goal 2 => clear_value x0); (on_goal 1 => subst x0))
        | clear_value x0)
    | with_reducible apply KeepsR.ite
    | with_reducible apply Keeps.ite
    | split
    | with_reducible apply KeepsP.mk
    | (with_reducible apply KeepsP.of_eq (by with_reducible assumption))
    | with_reducible apply KeepsP.fst
    | with_reducible apply Keeps.upd
    | with_reducible apply Fuses.refl
    | ((with_reducible apply Or.inr); with_reducible rfl)
    | ((with_reducible apply Or.inl); exact h _ (by decide))
    | beta_reduce)

theorem execWalkStart_keeps {P : Part → Bool} {s0 : State} (s : State) (h : Parts P [.out, .free, .now, .ft, .regs, .hbm, .ten, .tra, .mat, .wins, .grps, .xlt, .rte, .lnk, .hst, .pwr])
    (hs : Keeps P s0 s) : KeepsR P s0 (execWalkStart s) := by
  unfold execWalkStart
  repeat' (first
    | with_reducible assumption
    | ((with_reducible apply Parts.mono h); decide)
    | with_reducible apply State.walkBegin_keeps
    | with_reducible apply KeepsR.next
    | with_reducible intro _
    | (extract_lets +onlyGivenNames x0; first
        | ((with_reducible refine (have hx0 : Keeps P s0 x0 := ?_; ?_)); (on_goal 2 => clear_value x0); (on_goal 1 => subst x0))
        | ((with_reducible have _x0 : _ → _ := x0); clear _x0; subst x0; beta_reduce)
        | clear_value x0)
    | with_reducible apply KeepsR.ite
    | with_reducible apply Keeps.ite
    | split
    | with_reducible apply Keeps.upd
    | with_reducible apply Fuses.refl
    | ((with_reducible apply Or.inr); with_reducible rfl)
    | ((with_reducible apply Or.inl); exact h _ (by decide))
    | beta_reduce)

theorem execWalkReadComplete_keeps {P : Part → Bool} {s0 : State} (walk : Nat) (status : HostStatus) (entry : Word) (s : State) (h : Parts P [.out, .free, .now, .ft, .regs, .hbm, .ten, .tra, .mat, .wins, .grps, .xlt, .rte, .lnk, .hst, .boot, .pwr, .evr])
    (hs : Keeps P s0 s) : KeepsR P s0 (execWalkReadComplete walk status entry s) := by
  unfold execWalkReadComplete
  repeat' (first
    | with_reducible assumption
    | ((with_reducible apply Parts.mono h); decide)
    | with_reducible apply State.walkResume_keeps
    | with_reducible apply State.walkEntry_keeps
    | with_reducible apply State.walkFail_keeps
    | with_reducible apply State.hostFault_keeps
    | with_reducible apply State.dropReq_keeps
    | with_reducible apply KeepsR.next
    | with_reducible intro _
    | (extract_lets +onlyGivenNames x0; first
        | ((with_reducible refine (have hx0 : Keeps P s0 x0 := ?_; ?_)); (on_goal 2 => clear_value x0); (on_goal 1 => subst x0))
        | clear_value x0)
    | with_reducible apply KeepsR.ite
    | with_reducible apply Keeps.ite
    | split
    | with_reducible apply Keeps.upd
    | with_reducible apply Fuses.refl
    | ((with_reducible apply Or.inr); with_reducible rfl)
    | ((with_reducible apply Or.inl); exact h _ (by decide))
    | beta_reduce)

theorem execTrapStart_keeps {P : Part → Bool} {s0 : State} (qp : Nat) (s : State) (h : Parts P [.out, .regs, .ten, .xlt, .pwr])
    (hs : Keeps P s0 s) : KeepsR P s0 (execTrapStart qp s) := by
  unfold execTrapStart
  repeat' (first
    | with_reducible assumption
    | ((with_reducible apply Parts.mono h); decide)
    | with_reducible apply State.event_keeps
    | with_reducible apply State.markRequest_keeps
    | with_reducible apply KeepsR.next
    | with_reducible intro _
    | (extract_lets +onlyGivenNames x0; first
        | ((with_reducible refine (have hx0 : Keeps P s0 x0 := ?_; ?_)); (on_goal 2 => clear_value x0); (on_goal 1 => subst x0))
        | clear_value x0)
    | with_reducible apply KeepsR.ite
    | with_reducible apply Keeps.ite
    | split
    | with_reducible apply Keeps.upd
    | with_reducible apply Fuses.refl
    | ((with_reducible apply Or.inr); with_reducible rfl)
    | ((with_reducible apply Or.inl); exact h _ (by decide)))

theorem State.trapFail_keeps {P : Part → Bool} {s0 : State} (s : State) (q : Nat) (status : Nat) (h : Parts P [.out, .free, .regs, .ten, .tra, .mat, .wins, .grps, .xlt, .rte, .pwr])
    (hs : Keeps P s0 s) : Keeps P s0 (State.trapFail s q status) := by
  unfold State.trapFail
  repeat' (first
    | with_reducible assumption
    | ((with_reducible apply Parts.mono h); decide)
    | with_reducible apply State.jobFail_keeps
    | with_reducible apply State.collLocalFail_keeps
    | with_reducible intro _
    | (extract_lets +onlyGivenNames x0; first
        | ((with_reducible refine (have hx0 : Keeps P s0 x0 := ?_; ?_)); (on_goal 2 => clear_value x0); (on_goal 1 => subst x0))
        | clear_value x0)
    | with_reducible apply Keeps.ite
    | split
    | with_reducible apply Keeps.upd
    | with_reducible apply Fuses.refl
    | ((with_reducible apply Or.inr); with_reducible rfl)
    | ((with_reducible apply Or.inl); exact h _ (by decide))
    | beta_reduce)

theorem execMarkTimeout_keeps {P : Part → Bool} {s0 : State} (qp : Nat) (s : State) (h : Parts P [.out, .free, .now, .ft, .regs, .ten, .tra, .mat, .wins, .grps, .xlt, .rte, .lnk, .pwr])
    (hs : Keeps P s0 s) : KeepsR P s0 (execMarkTimeout qp s) := by
  unfold execMarkTimeout
  repeat' (first
    | with_reducible assumption
    | ((with_reducible apply Parts.mono h); decide)
    | with_reducible apply State.passTo_keeps
    | with_reducible apply State.trapFail_keeps
    | with_reducible apply KeepsR.next
    | with_reducible intro _
    | (extract_lets +onlyGivenNames x0; first
        | ((with_reducible refine (have hx0 : Keeps P s0 x0 := ?_; ?_)); (on_goal 2 => clear_value x0); (on_goal 1 => subst x0))
        | clear_value x0)
    | with_reducible apply KeepsR.ite
    | with_reducible apply Keeps.ite
    | split
    | with_reducible apply Keeps.upd
    | with_reducible apply Fuses.refl
    | ((with_reducible apply Or.inr); with_reducible rfl)
    | ((with_reducible apply Or.inl); exact h _ (by decide))
    | beta_reduce)

theorem execResume_keeps {P : Part → Bool} {s0 : State} (c : AdminCmd) (s : State) (h : Parts P [.out, .free, .regs, .ten, .tra, .mat, .wins, .grps, .xlt, .rte, .pwr])
    (hs : Keeps P s0 s) : KeepsR P s0 (execResume c s) := by
  unfold execResume
  repeat' (first
    | with_reducible assumption
    | ((with_reducible apply Parts.mono h); decide)
    | with_reducible apply State.adminDone_keeps
    | with_reducible apply State.ringOrder_keeps
    | with_reducible apply State.askWalks_keeps
    | with_reducible apply State.adminAt_keeps
    | with_reducible apply State.withQp_keeps
    | with_reducible apply State.trapFail_keeps
    | with_reducible apply KeepsR.next
    | with_reducible intro _
    | (extract_lets +onlyGivenNames x0; first
        | ((with_reducible refine (have hx0 : Keeps P s0 x0 := ?_; ?_)); (on_goal 2 => clear_value x0); (on_goal 1 => subst x0))
        | clear_value x0)
    | with_reducible apply KeepsR.ite
    | with_reducible apply Keeps.ite
    | split
    | with_reducible apply Keeps.upd
    | with_reducible apply Fuses.refl
    | ((with_reducible apply Or.inr); with_reducible rfl)
    | ((with_reducible apply Or.inl); exact h _ (by decide))
    | beta_reduce)

end Sys2Proof.Machine
end

