-- ==== Sys2Proof/Laws/HostOps.lean ====
section
/-! SUPPORT. What the operations of Machine/HostOps.lean keep. -/

set_option linter.unusedTactic false
set_option linter.unreachableTactic false
set_option linter.unusedVariables false

namespace Sys2Proof.Machine

open Sys2Proof

theorem State.closeQp_keeps {P : Part → Bool} {s0 : State} (s : State) (q : Nat) (h : Parts P [.out, .free, .regs, .ten, .tra, .mat, .wins, .grps, .xlt, .rte, .pwr])
    (hs : Keeps P s0 s) : Keeps P s0 (State.closeQp s q) := by
  unfold State.closeQp
  repeat' (first
    | with_reducible assumption
    | ((with_reducible apply Parts.mono h); decide)
    | with_reducible apply State.updQp_keeps
    | with_reducible apply State.groupMark_keeps
    | with_reducible apply State.qpFail_keeps
    | with_reducible apply State.qpQuarantine_keeps
    | with_reducible apply foldl_keeps
    | with_reducible apply foldl_keepsP
    | with_reducible intro _
    | (extract_lets +onlyGivenNames x0; first
        | ((with_reducible refine (have hx0 : Keeps P s0 x0 := ?_; ?_)); (on_goal 2 => clear_value x0); (on_goal 1 => subst x0))
        | ((with_reducible refine (have hx0 : KeepsP P s0 x0 := ?_; ?_)); (on_goal 2 => clear_value x0); (on_goal 1 => subst x0))
        | clear_value x0)
    | with_reducible apply Keeps.ite
    | split
    | with_reducible apply KeepsP.mk
    | (with_reducible apply KeepsP.of_eq (by with_reducible assumption))
    | with_reducible apply KeepsP.fst
    | with_reducible apply Keeps.upd
    | with_reducible apply Fuses.refl
    | ((with_reducible apply Or.inr); with_reducible rfl)
    | ((with_reducible apply Or.inl); exact h _ (by decide))
    | beta_reduce)

theorem State.orphanCmds_keeps {P : Part → Bool} {s0 : State} (s : State) (f : Nat) (h : Parts P [.regs, .sem, .boot, .evr])
    (hs : Keeps P s0 s) : Keeps P s0 (State.orphanCmds s f) := by
  unfold State.orphanCmds
  repeat' (first
    | with_reducible assumption
    | ((with_reducible apply Parts.mono h); decide)
    | with_reducible apply State.orphan_keeps
    | with_reducible intro _
    | (extract_lets +onlyGivenNames x0; first
        | ((with_reducible refine (have hx0 : Keeps P s0 x0 := ?_; ?_)); (on_goal 2 => clear_value x0); (on_goal 1 => subst x0))
        | ((with_reducible have _x0 : Boot := x0); clear _x0; subst x0)
        | clear_value x0)
    | split
    | with_reducible apply Keeps.upd
    | with_reducible apply Fuses.refl
    | ((with_reducible apply Fuses.mk) <;> first | exact fun l => ⟨l, Nat.le_refl _, Nat.le_refl _⟩ | exact fun o => ⟨o, rfl⟩ | exact Nat.le_refl _ | exact fun o => o)
    | ((with_reducible apply Or.inr); with_reducible rfl)
    | ((with_reducible apply Or.inl); exact h _ (by decide))
    | beta_reduce)

theorem State.closeFn_keeps {P : Part → Bool} {s0 : State} (s : State) (f : Nat) (h : Parts P [.out, .free, .regs, .ten, .tra, .mat, .wins, .grps, .xlt, .rte, .hst, .sem, .boot, .pwr, .evr])
    (hs : Keeps P s0 s) : Keeps P s0 (State.closeFn s f) := by
  unfold State.closeFn
  repeat' (first
    | with_reducible assumption
    | ((with_reducible apply Parts.mono h); decide)
    | with_reducible apply State.wrF_keeps
    | with_reducible apply State.setFn_keeps
    | with_reducible apply State.groupError_keeps
    | with_reducible apply State.mctxDestroy_keeps
    | with_reducible apply State.cqDrop_keeps
    | with_reducible apply State.eqDrop_keeps
    | with_reducible apply State.groupGone_keeps
    | with_reducible apply State.winRevoke_keeps
    | with_reducible apply State.asidGone_keeps
    | with_reducible apply State.closeQp_keeps
    | with_reducible apply State.orphanCmds_keeps
    | with_reducible apply foldl_keeps
    | with_reducible apply foldl_keepsP
    | with_reducible intro _
    | (extract_lets +onlyGivenNames x0; first
        | ((with_reducible refine (have hx0 : Keeps P s0 x0 := ?_; ?_)); (on_goal 2 => clear_value x0); (on_goal 1 => subst x0))
        | ((with_reducible refine (have hx0 : KeepsP P s0 x0 := ?_; ?_)); (on_goal 2 => clear_value x0); (on_goal 1 => subst x0))
        | clear_value x0)
    | with_reducible apply Keeps.ite
    | split
    | with_reducible apply KeepsP.mk
    | (with_reducible apply KeepsP.of_eq (by with_reducible assumption))
    | with_reducible apply KeepsP.fst
    | with_reducible apply Keeps.upd
    | with_reducible apply Fuses.refl
    | ((with_reducible apply Or.inr); with_reducible rfl)
    | ((with_reducible apply Or.inl); exact h _ (by decide))
    | beta_reduce)

theorem State.configReset_keeps {P : Part → Bool} {s0 : State} (s : State) (f : Nat) (h : Parts P [.out, .ten])
    (hs : Keeps P s0 s) : Keeps P s0 (State.configReset s f) := by
  unfold State.configReset
  repeat' (first
    | with_reducible assumption
    | ((with_reducible apply Parts.mono h); decide)
    | with_reducible apply State.emit_keeps
    | with_reducible apply State.setFn_keeps
    | with_reducible intro _
    | (extract_lets +onlyGivenNames x0; first
        | ((with_reducible refine (have hx0 : Keeps P s0 x0 := ?_; ?_)); (on_goal 2 => clear_value x0); (on_goal 1 => subst x0))
        | clear_value x0)
    | split
    | with_reducible apply Keeps.upd
    | with_reducible apply Fuses.refl
    | ((with_reducible apply Or.inr); with_reducible rfl)
    | ((with_reducible apply Or.inl); exact h _ (by decide))
    | beta_reduce)

theorem State.doeAbort_keeps {P : Part → Bool} {s0 : State} (s : State) (host : Nat) (h : Parts P [.hst])
    (hs : Keeps P s0 s) : Keeps P s0 (State.doeAbort s host) := by
  unfold State.doeAbort
  repeat' (first
    | with_reducible assumption
    | ((with_reducible apply Parts.mono h); decide)
    | with_reducible intro _
    | (extract_lets +onlyGivenNames x0; first
        | ((with_reducible refine (have hx0 : Keeps P s0 x0 := ?_; ?_)); (on_goal 2 => clear_value x0); (on_goal 1 => subst x0))
        | clear_value x0)
    | split
    | with_reducible apply Keeps.upd
    | with_reducible apply Fuses.refl
    | ((with_reducible apply Or.inr); with_reducible rfl)
    | ((with_reducible apply Or.inl); exact h _ (by decide)))

theorem State.drainOne_keeps {P : Part → Bool} {s0 : State} (s : State) (f : Nat) (cause : Nat) (h : Parts P [.out, .free, .regs, .ten, .tra, .mat, .wins, .grps, .xlt, .rte, .hst, .irc, .sem, .boot, .pwr, .evr])
    (hs : Keeps P s0 s) : Keeps P s0 (State.drainOne s f cause) := by
  unfold State.drainOne
  repeat' (first
    | with_reducible assumption
    | ((with_reducible apply Parts.mono h); decide)
    | with_reducible apply State.wrF_keeps
    | with_reducible apply State.setFn_keeps
    | with_reducible apply State.orphanId_keeps
    | with_reducible apply State.tgtClear_keeps
    | with_reducible apply State.closeFn_keeps
    | with_reducible apply State.configReset_keeps
    | with_reducible apply State.doeAbort_keeps
    | with_reducible intro _
    | (extract_lets +onlyGivenNames x0; first
        | ((with_reducible refine (have hx0 : Keeps P s0 x0 := ?_; ?_)); (on_goal 2 => clear_value x0); (on_goal 1 => subst x0))
        | clear_value x0)
    | with_reducible apply Keeps.ite
    | split
    | with_reducible apply Keeps.upd
    | with_reducible apply Fuses.refl
    | ((with_reducible apply Or.inr); with_reducible rfl)
    | ((with_reducible apply Or.inl); exact h _ (by decide)))

theorem State.drainFn_keeps {P : Part → Bool} {s0 : State} (s : State) (f : Nat) (cause : Nat) (h : Parts P [.out, .free, .regs, .ten, .tra, .mat, .wins, .grps, .xlt, .rte, .hst, .irc, .sem, .boot, .pwr, .evr])
    (hs : Keeps P s0 s) : Keeps P s0 (State.drainFn s f cause) := by
  unfold State.drainFn
  repeat' (first
    | with_reducible assumption
    | ((with_reducible apply Parts.mono h); decide)
    | with_reducible apply State.drainOne_keeps
    | with_reducible apply foldl_keeps
    | with_reducible apply foldl_keepsP
    | with_reducible intro _
    | (extract_lets +onlyGivenNames x0; first
        | ((with_reducible refine (have hx0 : Keeps P s0 x0 := ?_; ?_)); (on_goal 2 => clear_value x0); (on_goal 1 => subst x0))
        | ((with_reducible refine (have hx0 : KeepsP P s0 x0 := ?_; ?_)); (on_goal 2 => clear_value x0); (on_goal 1 => subst x0))
        | clear_value x0)
    | with_reducible apply Keeps.ite
    | split
    | with_reducible apply KeepsP.mk
    | (with_reducible apply KeepsP.of_eq (by with_reducible assumption))
    | with_reducible apply KeepsP.fst
    | beta_reduce)

theorem State.drainPort_keeps {P : Part → Bool} {s0 : State} (s : State) (host : Nat) (h : Parts P [.out, .free, .regs, .ten, .tra, .mat, .wins, .grps, .xlt, .rte, .hst, .irc, .sem, .boot, .pwr, .evr])
    (hs : Keeps P s0 s) : Keeps P s0 (State.drainPort s host) := by
  unfold State.drainPort
  repeat' (first
    | with_reducible assumption
    | ((with_reducible apply Parts.mono h); decide)
    | with_reducible apply State.drainOne_keeps
    | with_reducible apply foldl_keeps
    | with_reducible apply foldl_keepsP
    | with_reducible intro _
    | split
    | with_reducible apply KeepsP.mk
    | (with_reducible apply KeepsP.of_eq (by with_reducible assumption))
    | with_reducible apply KeepsP.fst
    | beta_reduce)

theorem State.quarStart_keeps {P : Part → Bool} {s0 : State} (s : State) (f : Nat) (start : Nat) (h : Parts P [.ten, .mat, .wins, .grps])
    (hs : Keeps P s0 s) : Keeps P s0 (State.quarStart s f start) := by
  unfold State.quarStart
  repeat' (first
    | with_reducible assumption
    | ((with_reducible apply Parts.mono h); decide)
    | with_reducible intro _
    | (extract_lets +onlyGivenNames x0; first
        | ((with_reducible refine (have hx0 : Keeps P s0 x0 := ?_; ?_)); (on_goal 2 => clear_value x0); (on_goal 1 => subst x0))
        | ((with_reducible have _x0 : _ → _ := x0); clear _x0; subst x0; beta_reduce)
        | clear_value x0)
    | with_reducible apply Keeps.ite
    | split
    | with_reducible apply Keeps.upd
    | with_reducible apply Fuses.refl
    | ((with_reducible apply Or.inr); with_reducible rfl)
    | ((with_reducible apply Or.inl); exact h _ (by decide))
    | beta_reduce)

theorem State.becameReady_keeps {P : Part → Bool} {s0 : State} (s : State) (f : Nat) (h : Parts P [.out, .free, .now, .ft, .regs, .hbm, .ten, .tra, .mat, .wins, .grps, .xlt, .rte, .lnk, .hst, .irc, .pwr])
    (hs : Keeps P s0 s) : Keeps P s0 (State.becameReady s f) := by
  unfold State.becameReady
  repeat' (first
    | with_reducible assumption
    | ((with_reducible apply Parts.mono h); decide)
    | with_reducible apply State.eqFlushAll_keeps
    | with_reducible apply State.resample_keeps
    | with_reducible apply State.vecResample_keeps
    | with_reducible apply State.walkResume_keeps
    | with_reducible apply foldl_keeps
    | with_reducible apply foldl_keepsP
    | with_reducible intro _
    | (extract_lets +onlyGivenNames x0; first
        | ((with_reducible refine (have hx0 : Keeps P s0 x0 := ?_; ?_)); (on_goal 2 => clear_value x0); (on_goal 1 => subst x0))
        | ((with_reducible refine (have hx0 : KeepsP P s0 x0 := ?_; ?_)); (on_goal 2 => clear_value x0); (on_goal 1 => subst x0))
        | clear_value x0)
    | with_reducible apply Keeps.ite
    | split
    | with_reducible apply KeepsP.mk
    | (with_reducible apply KeepsP.of_eq (by with_reducible assumption))
    | with_reducible apply KeepsP.fst
    | beta_reduce)

theorem State.drainEnd_keeps {P : Part → Bool} {s0 : State} (s : State) (f : Nat) (d : Drain) (forced : Bool) (h : Parts P [.out, .free, .now, .ft, .regs, .hbm, .ten, .tra, .mat, .wins, .grps, .xlt, .rte, .lnk, .hst, .irc, .boot, .pwr, .evr])
    (hs : Keeps P s0 s) : Keeps P s0 (State.drainEnd s f d forced) := by
  unfold State.drainEnd
  repeat' (first
    | with_reducible assumption
    | ((with_reducible apply Parts.mono h); decide)
    | with_reducible apply State.wrF_keeps
    | with_reducible apply State.setFn_keeps
    | with_reducible apply State.note_keeps
    | with_reducible apply State.quarStart_keeps
    | with_reducible apply State.becameReady_keeps
    | with_reducible intro _
    | (extract_lets +onlyGivenNames x0; first
        | ((with_reducible refine (have hx0 : Keeps P s0 x0 := ?_; ?_)); (on_goal 2 => clear_value x0); (on_goal 1 => subst x0))
        | clear_value x0)
    | with_reducible apply Keeps.ite
    | split
    | with_reducible apply Keeps.upd
    | with_reducible apply Fuses.refl
    | ((with_reducible apply Or.inr); with_reducible rfl)
    | ((with_reducible apply Or.inl); exact h _ (by decide)))

theorem State.drainForce_keeps {P : Part → Bool} {s0 : State} (s : State) (f : Nat) (h : Parts P [.regs, .ten, .tra, .wins, .xlt, .rte])
    (hs : Keeps P s0 s) : Keeps P s0 (State.drainForce s f) := by
  unfold State.drainForce
  repeat' (first
    | with_reducible assumption
    | ((with_reducible apply Parts.mono h); decide)
    | with_reducible apply State.respCheck_keeps
    | with_reducible apply foldl_keeps
    | with_reducible apply foldl_keepsP
    | with_reducible intro _
    | (extract_lets +onlyGivenNames x0; first
        | ((with_reducible refine (have hx0 : Keeps P s0 x0 := ?_; ?_)); (on_goal 2 => clear_value x0); (on_goal 1 => subst x0))
        | ((with_reducible refine (have hx0 : KeepsP P s0 x0 := ?_; ?_)); (on_goal 2 => clear_value x0); (on_goal 1 => subst x0))
        | ((with_reducible have _x0 : _ → _ := x0); clear _x0; subst x0; beta_reduce)
        | clear_value x0)
    | split
    | with_reducible apply KeepsP.mk
    | (with_reducible apply KeepsP.of_eq (by with_reducible assumption))
    | with_reducible apply KeepsP.fst
    | with_reducible apply Keeps.upd
    | with_reducible apply Fuses.refl
    | ((with_reducible apply Or.inr); with_reducible rfl)
    | ((with_reducible apply Or.inl); exact h _ (by decide))
    | beta_reduce)

theorem State.drainTimeout_keeps {P : Part → Bool} {s0 : State} (s : State) (f : Nat) (d : Drain) (h : Parts P [.out, .free, .now, .ft, .regs, .hbm, .ten, .tra, .mat, .wins, .grps, .xlt, .rte, .lnk, .hst, .irc, .boot, .pwr, .evr])
    (hs : Keeps P s0 s) : Keeps P s0 (State.drainTimeout s f d) := by
  unfold State.drainTimeout
  repeat' (first
    | with_reducible assumption
    | ((with_reducible apply Parts.mono h); decide)
    | with_reducible apply State.drainEnd_keeps
    | with_reducible apply State.drainForce_keeps
    | with_reducible intro _
    | split)

theorem State.hostLinkRec_keeps {P : Part → Bool} {s0 : State} (s : State) (host : Nat) (h : Parts P [.regs, .boot, .evr])
    (hs : Keeps P s0 s) : Keeps P s0 (State.hostLinkRec s host) := by
  unfold State.hostLinkRec
  repeat' (first
    | with_reducible assumption
    | ((with_reducible apply Parts.mono h); decide)
    | with_reducible apply State.wrF_keeps
    | with_reducible apply State.note_keeps
    | with_reducible intro _
    | (extract_lets +onlyGivenNames x0; first
        | ((with_reducible refine (have hx0 : Keeps P s0 x0 := ?_; ?_)); (on_goal 2 => clear_value x0); (on_goal 1 => subst x0))
        | clear_value x0)
    | split)

theorem State.perst_keeps {P : Part → Bool} {s0 : State} (s : State) (host : Nat) (asserted : Bool) (h : Parts P [.regs, .boot, .evr])
    (hs : Keeps P s0 s) : Keeps P s0 (State.perst s host asserted) := by
  unfold State.perst
  repeat' (first
    | with_reducible assumption
    | ((with_reducible apply Parts.mono h); decide)
    | with_reducible apply State.wrF_keeps
    | with_reducible apply State.hostLinkRec_keeps
    | with_reducible intro _
    | split)

theorem State.linkLost_keeps {P : Part → Bool} {s0 : State} (s : State) (host : Nat) (h : Parts P [.regs, .ten, .tra, .wins, .xlt, .rte])
    (hs : Keeps P s0 s) : Keeps P s0 (State.linkLost s host) := by
  unfold State.linkLost
  repeat' (first
    | with_reducible assumption
    | ((with_reducible apply Parts.mono h); decide)
    | with_reducible apply State.giveUpResps_keeps
    | with_reducible intro _
    | (extract_lets +onlyGivenNames x0; first
        | ((with_reducible refine (have hx0 : Keeps P s0 x0 := ?_; ?_)); (on_goal 2 => clear_value x0); (on_goal 1 => subst x0))
        | ((with_reducible have _x0 : _ → _ := x0); clear _x0; subst x0; beta_reduce)
        | clear_value x0)
    | with_reducible apply Keeps.ite
    | split
    | with_reducible apply Keeps.upd
    | with_reducible apply Fuses.refl
    | ((with_reducible apply Or.inr); with_reducible rfl)
    | ((with_reducible apply Or.inl); exact h _ (by decide))
    | beta_reduce)

theorem State.hostLinkDown_keeps {P : Part → Bool} {s0 : State} (s : State) (host : Nat) (h : Parts P [.out, .free, .regs, .ten, .tra, .mat, .wins, .grps, .xlt, .rte, .hst, .irc, .sem, .boot, .pwr, .evr])
    (hs : Keeps P s0 s) : Keeps P s0 (State.hostLinkDown s host) := by
  unfold State.hostLinkDown
  repeat' (first
    | with_reducible assumption
    | ((with_reducible apply Parts.mono h); decide)
    | with_reducible apply State.wrFs_keeps
    | with_reducible apply State.ucRaise_keeps
    | with_reducible apply State.drainPort_keeps
    | with_reducible apply State.hostLinkRec_keeps
    | with_reducible apply State.linkLost_keeps
    | with_reducible intro _
    | (extract_lets +onlyGivenNames x0; first
        | ((with_reducible refine (have hx0 : Keeps P s0 x0 := ?_; ?_)); (on_goal 2 => clear_value x0); (on_goal 1 => subst x0))
        | clear_value x0)
    | with_reducible apply Keeps.ite
    | split)

end Sys2Proof.Machine
end

