-- ==== Sys2Proof/Laws/Matching.lean ====
section
/-! SUPPORT. What the operations of Machine/Matching.lean keep. -/

set_option linter.unusedTactic false
set_option linter.unreachableTactic false
set_option linter.unusedVariables false

namespace Sys2Proof.Machine

open Sys2Proof

theorem State.matAdmin_keeps {P : Part → Bool} {s0 : State} (s : State) (c : AdminCmd) (code : Nat) (used : List (Nat × Nat)) (ctx : Nat) (body : State → CmdRef → State) (h : Parts P [.regs, .ten, .xlt, .pwr]) (h_body : ∀ a, Keeps P s0 a → ∀ y1, Keeps P s0 (body a y1))
    (hs : Keeps P s0 s) : Keeps P s0 (State.matAdmin s c code used ctx body) := by
  unfold State.matAdmin
  repeat' (first
    | with_reducible assumption
    | ((with_reducible apply Parts.mono h); decide)
    | with_reducible apply h_body
    | with_reducible apply State.adminAt_keeps
    | with_reducible intro _
    | with_reducible apply Keeps.ite
    | split)

theorem State.withMctx_keeps {P : Part → Bool} {s0 : State} (s : State) (r : CmdRef) (i : Nat) (body : State → Mctx → State) (h : Parts P [.ten, .xlt]) (h_body : ∀ a, Keeps P s0 a → ∀ y1, Keeps P s0 (body a y1))
    (hs : Keeps P s0 s) : Keeps P s0 (State.withMctx s r i body) := by
  unfold State.withMctx
  repeat' (first
    | with_reducible assumption
    | ((with_reducible apply Parts.mono h); decide)
    | with_reducible apply h_body
    | with_reducible apply State.adminDone_keeps
    | with_reducible intro _
    | (extract_lets +onlyGivenNames x0; first
        | ((with_reducible refine (have hx0 : Keeps P s0 x0 := ?_; ?_)); (on_goal 2 => clear_value x0); (on_goal 1 => subst x0))
        | clear_value x0)
    | with_reducible apply Keeps.ite
    | split
    | with_reducible apply Keeps.upd
    | with_reducible apply Fuses.refl
    | ((with_reducible apply Or.inr); with_reducible rfl)
    | ((with_reducible apply Or.inl); exact h _ (by decide)))

theorem execCreateMctx_keeps {P : Part → Bool} {s0 : State} (c : AdminCmd) (s : State) (h : Parts P [.regs, .ten, .mat, .xlt, .pwr])
    (hs : Keeps P s0 s) : KeepsR P s0 (execCreateMctx c s) := by
  unfold execCreateMctx
  repeat' (first
    | with_reducible assumption
    | ((with_reducible apply Parts.mono h); decide)
    | with_reducible apply State.adminDone_keeps
    | with_reducible apply State.checks_keeps
    | with_reducible apply State.matAdmin_keeps
    | with_reducible apply KeepsR.next
    | with_reducible intro _
    | (extract_lets +onlyGivenNames x0; first
        | ((with_reducible refine (have hx0 : Keeps P s0 x0 := ?_; ?_)); (on_goal 2 => clear_value x0); (on_goal 1 => subst x0))
        | clear_value x0)
    | with_reducible apply KeepsR.ite
    | with_reducible apply Keeps.ite
    | with_reducible apply KeepsO.getD
    | split
    | with_reducible apply Keeps.upd
    | with_reducible apply Fuses.refl
    | ((with_reducible apply Or.inr); with_reducible rfl)
    | ((with_reducible apply Or.inl); exact h _ (by decide))
    | beta_reduce)

theorem execDestroyMctx_keeps {P : Part → Bool} {s0 : State} (c : AdminCmd) (s : State) (h : Parts P [.out, .regs, .ten, .tra, .mat, .xlt, .pwr])
    (hs : Keeps P s0 s) : KeepsR P s0 (execDestroyMctx c s) := by
  unfold execDestroyMctx
  repeat' (first
    | with_reducible assumption
    | ((with_reducible apply Parts.mono h); decide)
    | with_reducible apply State.adminDone_keeps
    | with_reducible apply State.mctxDestroy_keeps
    | with_reducible apply State.matAdmin_keeps
    | with_reducible apply State.withMctx_keeps
    | with_reducible apply KeepsR.next
    | with_reducible intro _
    | (extract_lets +onlyGivenNames x0; first
        | ((with_reducible refine (have hx0 : Keeps P s0 x0 := ?_; ?_)); (on_goal 2 => clear_value x0); (on_goal 1 => subst x0))
        | clear_value x0)
    | split
    | beta_reduce)

theorem execQueryMctx_keeps {P : Part → Bool} {s0 : State} (c : AdminCmd) (s : State) (h : Parts P [.out, .regs, .ten, .mat, .xlt, .pwr])
    (hs : Keeps P s0 s) : KeepsR P s0 (execQueryMctx c s) := by
  unfold execQueryMctx
  repeat' (first
    | with_reducible assumption
    | ((with_reducible apply Parts.mono h); decide)
    | with_reducible apply State.adminDone_keeps
    | with_reducible apply State.charge_keeps
    | with_reducible apply State.matAdmin_keeps
    | with_reducible apply State.withMctx_keeps
    | with_reducible apply KeepsR.next
    | with_reducible intro _
    | (extract_lets +onlyGivenNames x0; first
        | ((with_reducible refine (have hx0 : Keeps P s0 x0 := ?_; ?_)); (on_goal 2 => clear_value x0); (on_goal 1 => subst x0))
        | clear_value x0)
    | split
    | beta_reduce)

theorem State.postOne_keeps {P : Part → Bool} {s0 : State} (s : State) (i : Nat) (e : Words8) (h : Parts P [.out, .free, .regs, .hbm, .ten, .tra, .mat, .wins, .grps, .xlt, .rte, .pwr])
    (hs : Keeps P s0 s) : KeepsP P s0 (State.postOne s i e) := by
  unfold State.postOne
  repeat' (first
    | with_reducible assumption
    | ((with_reducible apply Parts.mono h); decide)
    | with_reducible apply State.event_keeps
    | with_reducible apply State.updMctx_keeps
    | with_reducible apply State.dropMsgs_keeps
    | with_reducible apply State.deliver_keeps
    | with_reducible intro _
    | (extract_lets +onlyGivenNames x0; first
        | ((with_reducible refine (have hx0 : Keeps P s0 x0 := ?_; ?_)); (on_goal 2 => clear_value x0); (on_goal 1 => subst x0))
        | ((with_reducible refine (have hx0 : KeepsP P s0 x0 := ?_; ?_)); (on_goal 2 => clear_value x0); (on_goal 1 => subst x0))
        | clear_value x0)
    | with_reducible apply KeepsP.ite
    | with_reducible apply Keeps.ite
    | split
    | with_reducible apply KeepsP.mk
    | (with_reducible apply KeepsP.of_eq (by with_reducible assumption))
    | with_reducible apply KeepsP.fst
    | with_reducible apply Keeps.upd
    | with_reducible apply Fuses.refl
    | ((with_reducible apply Or.inr); with_reducible rfl)
    | ((with_reducible apply Or.inl); exact h _ (by decide))
    | beta_reduce)

theorem State.postAll_keeps {P : Part → Bool} {s0 : State} (s : State) (i : Nat) (fn : Nat) (asid : Nat) (list : Nat) (z0 : List Words8) (z1 : Nat) (z2 : Nat) (h : Parts P [.out, .free, .regs, .hbm, .ten, .tra, .mat, .wins, .grps, .xlt, .rte, .pwr])
    (hs : Keeps P s0 s) : KeepsP P s0 (State.postAll s i fn asid list z0 z1 z2) := by
  induction z0 generalizing s z1 z2 with
  | nil => unfold State.postAll; repeat' (first
    | with_reducible assumption
    | ((with_reducible apply Parts.mono h); decide)
    | with_reducible apply State.readRange_keeps
    | with_reducible apply State.postOne_keeps
    | with_reducible intro _
    | (extract_lets +onlyGivenNames x0; first
        | ((with_reducible refine (have hx0 : Keeps P s0 x0 := ?_; ?_)); (on_goal 2 => clear_value x0); (on_goal 1 => subst x0))
        | ((with_reducible refine (have hx0 : KeepsP P s0 x0 := ?_; ?_)); (on_goal 2 => clear_value x0); (on_goal 1 => subst x0))
        | clear_value x0)
    | split
    | with_reducible apply KeepsP.mk
    | (with_reducible apply KeepsP.of_eq (by with_reducible assumption))
    | with_reducible apply KeepsP.fst
    | with_reducible apply Keeps.upd
    | with_reducible apply Fuses.refl
    | ((with_reducible apply Or.inr); with_reducible rfl)
    | ((with_reducible apply Or.inl); exact h _ (by decide)))
  | cons x l ih =>
    unfold State.postAll
    repeat' (first
      | with_reducible assumption
      | ((with_reducible apply Parts.mono h); decide)
      | with_reducible apply ih
      | with_reducible apply State.readRange_keeps
      | with_reducible apply State.postOne_keeps
      | with_reducible intro _
      | (extract_lets +onlyGivenNames x0; first
          | ((with_reducible refine (have hx0 : Keeps P s0 x0 := ?_; ?_)); (on_goal 2 => clear_value x0); (on_goal 1 => subst x0))
          | ((with_reducible refine (have hx0 : KeepsP P s0 x0 := ?_; ?_)); (on_goal 2 => clear_value x0); (on_goal 1 => subst x0))
          | clear_value x0)
      | split
      | with_reducible apply KeepsP.mk
      | (with_reducible apply KeepsP.of_eq (by with_reducible assumption))
      | with_reducible apply KeepsP.fst
      | with_reducible apply Keeps.upd
      | with_reducible apply Fuses.refl
      | ((with_reducible apply Or.inr); with_reducible rfl)
      | ((with_reducible apply Or.inl); exact h _ (by decide)))

theorem execPostRecv_keeps {P : Part → Bool} {s0 : State} (c : AdminCmd) (list : Fetched) (s : State) (h : Parts P [.out, .free, .regs, .hbm, .ten, .tra, .mat, .wins, .grps, .xlt, .rte, .pwr])
    (hs : Keeps P s0 s) : KeepsR P s0 (execPostRecv c list s) := by
  unfold execPostRecv
  extract_lets i n
  refine KeepsR.next (State.asking_keeps _ _ _ (h.mono (by decide)) (fun a ha => ?_) hs)
  refine State.matAdmin_keeps _ _ _ _ _ _ (h.mono (by decide)) (fun b hb r => ?_) ha
  refine State.withMctx_keeps _ _ _ _ (h.mono (by decide)) (fun t ht v => ?_) hb
  refine Keeps.ite (State.adminDone_keeps _ _ _ _ (h.mono (by decide)) ht) ?_
  extract_lets asid
  split
  · exact State.adminDone_keeps _ _ _ _ (h.mono (by decide)) (KeepsP.fst (State.readRange_keeps _ _ _ _ _ (h.mono (by decide)) ht))
  · refine Keeps.ite ha ?_
    exact State.adminDone_keeps _ _ _ _ (h.mono (by decide))
      (KeepsP.fst (State.postAll_keeps _ _ _ _ _ _ _ _ (h.mono (by decide)) ht))


theorem execCancelRecv_keeps {P : Part → Bool} {s0 : State} (c : AdminCmd) (s : State) (h : Parts P [.regs, .ten, .mat, .xlt, .pwr])
    (hs : Keeps P s0 s) : KeepsR P s0 (execCancelRecv c s) := by
  unfold execCancelRecv
  repeat' (first
    | with_reducible assumption
    | ((with_reducible apply Parts.mono h); decide)
    | with_reducible apply State.adminDone_keeps
    | with_reducible apply State.updMctx_keeps
    | with_reducible apply State.matAdmin_keeps
    | with_reducible apply State.withMctx_keeps
    | with_reducible apply KeepsR.next
    | with_reducible intro _
    | (extract_lets +onlyGivenNames x0; first
        | ((with_reducible refine (have hx0 : Keeps P s0 x0 := ?_; ?_)); (on_goal 2 => clear_value x0); (on_goal 1 => subst x0))
        | clear_value x0)
    | split
    | with_reducible apply Keeps.upd
    | with_reducible apply Fuses.refl
    | ((with_reducible apply Or.inr); with_reducible rfl)
    | ((with_reducible apply Or.inl); exact h _ (by decide))
    | beta_reduce)

theorem execProbe_keeps {P : Part → Bool} {s0 : State} (c : AdminCmd) (s : State) (h : Parts P [.out, .regs, .ten, .xlt, .pwr])
    (hs : Keeps P s0 s) : KeepsR P s0 (execProbe c s) := by
  unfold execProbe
  repeat' (first
    | with_reducible assumption
    | ((with_reducible apply Parts.mono h); decide)
    | with_reducible apply State.adminDone_keeps
    | with_reducible apply State.translate_keeps
    | with_reducible apply State.asking_keeps
    | with_reducible apply State.hostPut_keeps
    | with_reducible apply State.matAdmin_keeps
    | with_reducible apply State.withMctx_keeps
    | with_reducible apply KeepsR.next
    | with_reducible intro _
    | (extract_lets +onlyGivenNames x0; first
        | ((with_reducible refine (have hx0 : Keeps P s0 x0 := ?_; ?_)); (on_goal 2 => clear_value x0); (on_goal 1 => subst x0))
        | ((with_reducible refine (have hx0 : KeepsP P s0 x0 := ?_; ?_)); (on_goal 2 => clear_value x0); (on_goal 1 => subst x0))
        | clear_value x0)
    | with_reducible apply KeepsR.ite
    | with_reducible apply Keeps.ite
    | split
    | with_reducible apply KeepsP.mk
    | (with_reducible apply KeepsP.of_eq (by with_reducible assumption))
    | with_reducible apply KeepsP.fst
    | with_reducible apply Keeps.upd
    | with_reducible apply Fuses.refl
    | ((with_reducible apply Or.inr); with_reducible rfl)
    | ((with_reducible apply Or.inl); exact h _ (by decide))
    | beta_reduce)

theorem execSpillRestore_keeps {P : Part → Bool} {s0 : State} (slice : Nat) (s : State) (h : Parts P [.mat])
    (hs : Keeps P s0 s) : KeepsR P s0 (execSpillRestore slice s) := by
  unfold execSpillRestore
  repeat' (first
    | with_reducible assumption
    | ((with_reducible apply Parts.mono h); decide)
    | with_reducible apply State.updMctx_keeps
    | with_reducible apply KeepsR.next
    | with_reducible intro _
    | (extract_lets +onlyGivenNames x0; first
        | ((with_reducible refine (have hx0 : Keeps P s0 x0 := ?_; ?_)); (on_goal 2 => clear_value x0); (on_goal 1 => subst x0))
        | clear_value x0)
    | with_reducible apply KeepsR.ite
    | with_reducible apply Keeps.ite
    | split
    | with_reducible apply Keeps.upd
    | with_reducible apply Fuses.refl
    | ((with_reducible apply Or.inr); with_reducible rfl)
    | ((with_reducible apply Or.inl); exact h _ (by decide))
    | beta_reduce)

theorem execMctxQuarantineEnd_keeps {P : Part → Bool} {s0 : State} (ctx : Nat) (s : State) (h : Parts P [.now, .ft, .regs, .mat, .lnk, .pwr])
    (hs : Keeps P s0 s) : KeepsR P s0 (execMctxQuarantineEnd ctx s) := by
  unfold execMctxQuarantineEnd
  repeat' (first
    | with_reducible assumption
    | ((with_reducible apply Parts.mono h); decide)
    | with_reducible apply State.passTo_keeps
    | with_reducible apply KeepsR.next
    | with_reducible intro _
    | (extract_lets +onlyGivenNames x0; first
        | ((with_reducible refine (have hx0 : Keeps P s0 x0 := ?_; ?_)); (on_goal 2 => clear_value x0); (on_goal 1 => subst x0))
        | clear_value x0)
    | with_reducible apply KeepsR.ite
    | with_reducible apply Keeps.ite
    | split
    | with_reducible apply Keeps.upd
    | with_reducible apply Fuses.refl
    | ((with_reducible apply Or.inr); with_reducible rfl)
    | ((with_reducible apply Or.inl); exact h _ (by decide)))

theorem State.gateExpire_keeps {P : Part → Bool} {s0 : State} (s : State) (m : Msg) (g : Gate) (h : Parts P [.out, .free, .regs, .hbm, .ten, .tra, .mat, .wins, .grps, .xlt, .rte, .pwr])
    (hs : Keeps P s0 s) : Keeps P s0 (State.gateExpire s m g) := by
  unfold State.gateExpire
  repeat' (first
    | with_reducible assumption
    | ((with_reducible apply Parts.mono h); decide)
    | with_reducible apply State.eqEvent_keeps
    | with_reducible apply State.setGate_keeps
    | with_reducible apply State.gateLoop_keeps
    | with_reducible apply State.setSlot_keeps
    | with_reducible apply foldl_keeps
    | with_reducible apply foldl_keepsP
    | with_reducible intro _
    | (extract_lets +onlyGivenNames x0; first
        | ((with_reducible refine (have hx0 : Keeps P s0 x0 := ?_; ?_)); (on_goal 2 => clear_value x0); (on_goal 1 => subst x0))
        | ((with_reducible refine (have hx0 : KeepsP P s0 x0 := ?_; ?_)); (on_goal 2 => clear_value x0); (on_goal 1 => subst x0))
        | clear_value x0)
    | split
    | with_reducible apply KeepsP.mk
    | (with_reducible apply KeepsP.of_eq (by with_reducible assumption))
    | with_reducible apply KeepsP.fst
    | with_reducible apply Keeps.upd
    | with_reducible apply Fuses.refl
    | ((with_reducible apply Or.inr); with_reducible rfl)
    | ((with_reducible apply Or.inl); exact h _ (by decide))
    | beta_reduce)

theorem execGateHoldExpiry_keeps {P : Part → Bool} {s0 : State} (srcNode : Nat) (srcQp : Nat) (dstQp : Nat) (msn : Msn) (s : State) (h : Parts P [.out, .free, .now, .ft, .regs, .hbm, .ten, .tra, .mat, .wins, .grps, .xlt, .rte, .lnk, .pwr])
    (hs : Keeps P s0 s) : KeepsR P s0 (execGateHoldExpiry srcNode srcQp dstQp msn s) := by
  unfold execGateHoldExpiry
  repeat' (first
    | with_reducible assumption
    | ((with_reducible apply Parts.mono h); decide)
    | with_reducible apply State.asking_keeps
    | with_reducible apply State.passTo_keeps
    | with_reducible apply State.gateExpire_keeps
    | with_reducible apply KeepsR.next
    | with_reducible intro _
    | (extract_lets +onlyGivenNames x0; first
        | ((with_reducible refine (have hx0 : Keeps P s0 x0 := ?_; ?_)); (on_goal 2 => clear_value x0); (on_goal 1 => subst x0))
        | clear_value x0)
    | with_reducible apply KeepsR.ite
    | with_reducible apply Keeps.ite
    | split
    | with_reducible apply Keeps.upd
    | with_reducible apply Fuses.refl
    | ((with_reducible apply Or.inr); with_reducible rfl)
    | ((with_reducible apply Or.inl); exact h _ (by decide))
    | beta_reduce)

theorem execGateEntryRelease_keeps {P : Part → Bool} {s0 : State} (srcNode : Nat) (srcQp : Nat) (dstQp : Nat) (s : State) (h : Parts P [.now, .ft, .regs, .tra, .lnk, .pwr])
    (hs : Keeps P s0 s) : KeepsR P s0 (execGateEntryRelease srcNode srcQp dstQp s) := by
  unfold execGateEntryRelease
  repeat' (first
    | with_reducible assumption
    | ((with_reducible apply Parts.mono h); decide)
    | with_reducible apply State.passTo_keeps
    | with_reducible apply KeepsR.next
    | with_reducible intro _
    | (extract_lets +onlyGivenNames x0; first
        | ((with_reducible refine (have hx0 : Keeps P s0 x0 := ?_; ?_)); (on_goal 2 => clear_value x0); (on_goal 1 => subst x0))
        | clear_value x0)
    | with_reducible apply KeepsR.ite
    | with_reducible apply Keeps.ite
    | split
    | with_reducible apply Keeps.upd
    | with_reducible apply Fuses.refl
    | ((with_reducible apply Or.inr); with_reducible rfl)
    | ((with_reducible apply Or.inl); exact h _ (by decide))
    | beta_reduce)

theorem State.fetchSend_keeps {P : Part → Bool} {s0 : State} (s : State) (i : Nat) (f : Fetch) (v : Qp) (addr : Word) (n : Nat) (h : Parts P [.regs, .ten, .tra, .rte])
    (hs : Keeps P s0 s) : Keeps P s0 (State.fetchSend s i f v addr n) := by
  unfold State.fetchSend
  repeat' (first
    | with_reducible assumption
    | ((with_reducible apply Parts.mono h); decide)
    | with_reducible apply State.sendNew_keeps
    | with_reducible apply State.flowlet_keeps
    | with_reducible intro _
    | (extract_lets +onlyGivenNames x0; first
        | ((with_reducible refine (have hx0 : Keeps P s0 x0 := ?_; ?_)); (on_goal 2 => clear_value x0); (on_goal 1 => subst x0))
        | ((with_reducible refine (have hx0 : KeepsP P s0 x0 := ?_; ?_)); (on_goal 2 => clear_value x0); (on_goal 1 => subst x0))
        | clear_value x0)
    | with_reducible apply Keeps.ite
    | split
    | with_reducible apply KeepsP.mk
    | (with_reducible apply KeepsP.of_eq (by with_reducible assumption))
    | with_reducible apply KeepsP.fst
    | with_reducible apply Keeps.upd
    | with_reducible apply Fuses.refl
    | ((with_reducible apply Or.inr); with_reducible rfl)
    | ((with_reducible apply Or.inl); exact h _ (by decide)))

theorem State.fetchNext_keeps {P : Part → Bool} {s0 : State} (s : State) (i : Nat) (f : Fetch) (v : Qp) (h : Parts P [.out, .free, .regs, .ten, .tra, .mat, .wins, .grps, .xlt, .rte, .pwr])
    (hs : Keeps P s0 s) : Keeps P s0 (State.fetchNext s i f v) := by
  unfold State.fetchNext
  repeat' (first
    | with_reducible assumption
    | ((with_reducible apply Parts.mono h); decide)
    | with_reducible apply State.sendNext_keeps
    | with_reducible apply State.fetchSend_keeps
    | with_reducible intro _
    | (extract_lets +onlyGivenNames x0; first
        | ((with_reducible refine (have hx0 : Keeps P s0 x0 := ?_; ?_)); (on_goal 2 => clear_value x0); (on_goal 1 => subst x0))
        | clear_value x0)
    | with_reducible apply Keeps.ite
    | split
    | with_reducible apply Keeps.upd
    | with_reducible apply Fuses.refl
    | ((with_reducible apply Or.inr); with_reducible rfl)
    | ((with_reducible apply Or.inl); exact h _ (by decide))
    | beta_reduce)

theorem execRendezvousGetIssue_keeps {P : Part → Bool} {s0 : State} (recv : Nat) (s : State) (h : Parts P [.out, .free, .regs, .ten, .tra, .mat, .wins, .grps, .xlt, .rte, .pwr])
    (hs : Keeps P s0 s) : KeepsR P s0 (execRendezvousGetIssue recv s) := by
  unfold execRendezvousGetIssue
  repeat' (first
    | with_reducible assumption
    | ((with_reducible apply Parts.mono h); decide)
    | with_reducible apply State.sendResend_keeps
    | with_reducible apply State.fetchNext_keeps
    | with_reducible apply KeepsR.next
    | with_reducible intro _
    | (extract_lets +onlyGivenNames x0; first
        | ((with_reducible refine (have hx0 : Keeps P s0 x0 := ?_; ?_)); (on_goal 2 => clear_value x0); (on_goal 1 => subst x0))
        | clear_value x0)
    | with_reducible apply KeepsR.ite
    | with_reducible apply Keeps.ite
    | split
    | with_reducible apply Keeps.upd
    | with_reducible apply Fuses.refl
    | ((with_reducible apply Or.inr); with_reducible rfl)
    | ((with_reducible apply Or.inl); exact h _ (by decide)))

end Sys2Proof.Machine
end

