-- ==== Sys2Proof/Laws/RouteOps.lean ====
section
/-! SUPPORT. What the operations of Machine/RouteOps.lean keep. -/

set_option linter.unusedTactic false
set_option linter.unreachableTactic false
set_option linter.unusedVariables false

namespace Sys2Proof.Machine

open Sys2Proof

theorem State.choose_keeps {P : Part → Bool} {s0 : State} (s : State) (ingress : Nat) (p : Packet) (phase : Nat) (h : Parts P [.out, .rte])
    (hs : Keeps P s0 s) : KeepsP P s0 (State.choose s ingress p phase) := by
  unfold State.choose
  repeat' (first
    | with_reducible assumption
    | ((with_reducible apply Parts.mono h); decide)
    | with_reducible apply foldl_keeps
    | with_reducible apply foldl_keepsP
    | with_reducible intro _
    | (extract_lets +onlyGivenNames x0; first
        | ((with_reducible refine (have hx0 : Keeps P s0 x0 := ?_; ?_)); (on_goal 2 => clear_value x0); (on_goal 1 => subst x0))
        | ((with_reducible refine (have hx0 : KeepsP P s0 x0 := ?_; ?_)); (on_goal 2 => clear_value x0); (on_goal 1 => subst x0))
        | ((with_reducible have _x0 : _ → _ := x0); clear _x0; subst x0; beta_reduce)
        | clear_value x0)
    | with_reducible apply KeepsP.ite
    | with_reducible apply Keeps.ite
    | with_reducible apply KeepsO.getD
    | split
    | with_reducible apply KeepsP.mk
    | (with_reducible apply KeepsP.of_eq (by with_reducible assumption))
    | with_reducible apply KeepsP.fst
    | with_reducible apply Keeps.upd
    | with_reducible apply Fuses.refl
    | ((with_reducible apply Or.inr); with_reducible rfl)
    | ((with_reducible apply Or.inl); exact h _ (by decide))
    | beta_reduce)

theorem State.routeDiscard_keeps {P : Part → Bool} {s0 : State} (s : State) (kind : Nat) (ingress : Nat) (p : Packet) (h : Parts P [.regs, .rte, .boot, .evr])
    (hs : Keeps P s0 s) : Keeps P s0 (State.routeDiscard s kind ingress p) := by
  unfold State.routeDiscard
  repeat' (first
    | with_reducible assumption
    | ((with_reducible apply Parts.mono h); decide)
    | with_reducible apply State.bump_keeps
    | with_reducible apply State.capture_keeps
    | with_reducible apply State.event_keeps
    | with_reducible apply State.note_keeps
    | with_reducible intro _
    | (extract_lets +onlyGivenNames x0; first
        | ((with_reducible refine (have hx0 : Keeps P s0 x0 := ?_; ?_)); (on_goal 2 => clear_value x0); (on_goal 1 => subst x0))
        | clear_value x0)
    | with_reducible apply Keeps.ite
    | split
    | with_reducible apply Keeps.upd
    | with_reducible apply Fuses.refl
    | ((with_reducible apply Or.inr); with_reducible rfl)
    | ((with_reducible apply Or.inl); exact h _ (by decide)))

theorem State.inputDiscard_keeps {P : Part → Bool} {s0 : State} (s : State) (kind : Nat) (ingress : Nat) (p : Packet) (h : Parts P [.regs, .rte, .lnk, .boot, .evr])
    (hs : Keeps P s0 s) : Keeps P s0 (State.inputDiscard s kind ingress p) := by
  unfold State.inputDiscard
  repeat' (first
    | with_reducible assumption
    | ((with_reducible apply Parts.mono h); decide)
    | with_reducible apply State.creditBack_keeps
    | with_reducible apply State.routeDiscard_keeps
    | with_reducible intro _
    | (extract_lets +onlyGivenNames x0; first
        | ((with_reducible refine (have hx0 : Keeps P s0 x0 := ?_; ?_)); (on_goal 2 => clear_value x0); (on_goal 1 => subst x0))
        | clear_value x0)
    | with_reducible apply Keeps.ite
    | split)

theorem State.takeGrains_keeps {P : Part → Bool} {s0 : State} (s : State) (pool : Bool) (ingress : Nat) (p : Packet) (h : Parts P [.regs, .rte, .lnk])
    (hs : Keeps P s0 s) : Keeps P s0 (State.takeGrains s pool ingress p) := by
  unfold State.takeGrains
  repeat' (first
    | with_reducible assumption
    | ((with_reducible apply Parts.mono h); decide)
    | with_reducible apply State.event_keeps
    | with_reducible apply State.creditBack_keeps
    | with_reducible intro _
    | (extract_lets +onlyGivenNames x0; first
        | ((with_reducible refine (have hx0 : Keeps P s0 x0 := ?_; ?_)); (on_goal 2 => clear_value x0); (on_goal 1 => subst x0))
        | clear_value x0)
    | with_reducible apply Keeps.ite
    | with_reducible apply KeepsO.getD
    | split
    | with_reducible apply Keeps.upd
    | with_reducible apply Fuses.refl
    | ((with_reducible apply Or.inr); with_reducible rfl)
    | ((with_reducible apply Or.inl); exact h _ (by decide)))

theorem State.reroute_keeps {P : Part → Bool} {s0 : State} (s : State) (b : BPkt) (h : Parts P [.out, .regs, .rte, .lnk, .boot, .evr])
    (hs : Keeps P s0 s) : Keeps P s0 (State.reroute s b) := by
  unfold State.reroute
  repeat' (first
    | with_reducible assumption
    | ((with_reducible apply Parts.mono h); decide)
    | with_reducible apply State.freeGrains_keeps
    | with_reducible apply State.choose_keeps
    | with_reducible apply State.routeDiscard_keeps
    | with_reducible intro _
    | (extract_lets +onlyGivenNames x0; first
        | ((with_reducible refine (have hx0 : Keeps P s0 x0 := ?_; ?_)); (on_goal 2 => clear_value x0); (on_goal 1 => subst x0))
        | ((with_reducible refine (have hx0 : KeepsP P s0 x0 := ?_; ?_)); (on_goal 2 => clear_value x0); (on_goal 1 => subst x0))
        | clear_value x0)
    | split
    | with_reducible apply KeepsP.mk
    | (with_reducible apply KeepsP.of_eq (by with_reducible assumption))
    | with_reducible apply KeepsP.fst
    | with_reducible apply Keeps.upd
    | with_reducible apply Fuses.refl
    | ((with_reducible apply Or.inr); with_reducible rfl)
    | ((with_reducible apply Or.inl); exact h _ (by decide)))

end Sys2Proof.Machine
end

