-- ==== Sys2Proof/Laws/Routing.lean ====
section
/-! SUPPORT. What the operations of Machine/Routing.lean keep. -/

set_option linter.unusedTactic false
set_option linter.unreachableTactic false
set_option linter.unusedVariables false

namespace Sys2Proof.Machine

open Sys2Proof

theorem State.routeIn_keeps {P : Part → Bool} {s0 : State} (s : State) (ingress : Nat) (p : Packet) (leave : State → State) (h : Parts P [.out, .regs, .rte, .lnk, .boot, .pwr, .evr]) (h_leave : ∀ a, Keeps P s0 a → Keeps P s0 (leave a))
    (hs : Keeps P s0 s) : Keeps P s0 (State.routeIn s ingress p leave) := by
  unfold State.routeIn
  repeat' (first
    | with_reducible assumption
    | ((with_reducible apply Parts.mono h); decide)
    | with_reducible apply h_leave
    | with_reducible apply State.bump_keeps
    | with_reducible apply State.creditBack_keeps
    | with_reducible apply State.wake_keeps
    | with_reducible apply State.choose_keeps
    | with_reducible apply State.inputDiscard_keeps
    | with_reducible apply State.takeGrains_keeps
    | with_reducible apply foldl_keeps
    | with_reducible apply foldl_keepsP
    | with_reducible intro _
    | (extract_lets +onlyGivenNames x0; first
        | ((with_reducible refine (have hx0 : Keeps P s0 x0 := ?_; ?_)); (on_goal 2 => clear_value x0); (on_goal 1 => subst x0))
        | ((with_reducible refine (have hx0 : KeepsP P s0 x0 := ?_; ?_)); (on_goal 2 => clear_value x0); (on_goal 1 => subst x0))
        | clear_value x0)
    | with_reducible apply Keeps.ite
    | split
    | with_reducible apply KeepsP.mk
    | (with_reducible apply KeepsP.of_eq (by with_reducible assumption))
    | with_reducible apply KeepsP.fst
    | with_reducible apply Keeps.upd
    | with_reducible apply Fuses.refl
    | ((with_reducible apply Or.inr); with_reducible rfl)
    | ((with_reducible apply Or.inl); exact h _ (by decide))
    | beta_reduce)

theorem State.enterPort_keeps {P : Part → Bool} {s0 : State} (s : State) (ingress : Nat) (e : Nat × Packet) (h : Parts P [.regs, .rte, .lnk])
    (hs : Keeps P s0 s) : Keeps P s0 (State.enterPort s ingress e) := by
  unfold State.enterPort
  repeat' (first
    | with_reducible assumption
    | ((with_reducible apply Parts.mono h); decide)
    | with_reducible apply State.takeGrains_keeps
    | with_reducible intro _
    | (extract_lets +onlyGivenNames x0; first
        | ((with_reducible refine (have hx0 : Keeps P s0 x0 := ?_; ?_)); (on_goal 2 => clear_value x0); (on_goal 1 => subst x0))
        | clear_value x0)
    | split
    | with_reducible apply Keeps.upd
    | with_reducible apply Fuses.refl
    | ((with_reducible apply Or.inr); with_reducible rfl)
    | ((with_reducible apply Or.inl); exact h _ (by decide)))

theorem execPacketInput_keeps {P : Part → Bool} {s0 : State} (ingress : Nat) (p : Packet) (s : State) (h : Parts P [.out, .regs, .rte, .lnk, .boot, .pwr, .evr])
    (hs : Keeps P s0 s) : KeepsR P s0 (execPacketInput ingress p s) := by
  unfold execPacketInput
  repeat' (first
    | with_reducible assumption
    | ((with_reducible apply Parts.mono h); decide)
    | with_reducible apply State.inputDiscard_keeps
    | with_reducible apply State.routeIn_keeps
    | with_reducible apply State.enterPort_keeps
    | with_reducible apply KeepsR.next
    | with_reducible intro _
    | (extract_lets +onlyGivenNames x0; first
        | ((with_reducible refine (have hx0 : Keeps P s0 x0 := ?_; ?_)); (on_goal 2 => clear_value x0); (on_goal 1 => subst x0))
        | ((with_reducible have _x0 : _ → _ := x0); clear _x0; subst x0; beta_reduce)
        | clear_value x0)
    | with_reducible apply KeepsR.ite
    | with_reducible apply Keeps.ite
    | split
    | with_reducible apply Keeps.upd
    | with_reducible apply Fuses.refl
    | ((with_reducible apply Or.inr); with_reducible rfl)
    | ((with_reducible apply Or.inl); exact h _ (by decide))
    | beta_reduce)

/-- Tables of which every key of one lies below every key of the next. -/
theorem Tbl.append_wf {α : Type} {t u : Tbl α} (ht : t.wf = true) (hu : u.wf = true) (m : Nat) (h1 : ∀ p ∈ t, p.1 < m)
    (h2 : ∀ p ∈ u, m ≤ p.1) : Tbl.wf (t ++ u) = true := by
  rw [Tbl.wf_iff] at *
  simp only [Tbl.keys, List.map_append] at *
  refine List.pairwise_append.2 ⟨ht, hu, fun a ha b hb => ?_⟩
  obtain ⟨p, hp, rfl⟩ := List.mem_map.1 ha
  obtain ⟨q, hq, rfl⟩ := List.mem_map.1 hb
  exact Nat.lt_of_lt_of_le (h1 p hp) (h2 q hq)

/-- A table whose keys are all moved up. -/
theorem Tbl.shift_wf {α : Type} {t : Tbl α} (n : Nat) (h : t.wf = true) : Tbl.wf (t.map fun q => (q.1 + n, q.2)) = true := by
  rw [Tbl.wf_iff] at *
  simp only [Tbl.keys, List.map_map] at *
  rw [List.pairwise_map] at *
  exact h.imp fun e => Nat.add_lt_add_right e n

theorem bankOf_wf (t : Tbl Word) (base : Nat) (h : t.wf = true) : (bankOf t base).wf = true := by
  have h := Tbl.filter_wf t (fun q => decide (base ≤ q.1) && decide (q.1 < base + bankLen)) h
  rw [Tbl.wf_iff] at *
  simp only [bankOf, Tbl.keys, List.map_map] at *
  rw [List.pairwise_map] at *
  refine (List.Pairwise.and_mem.1 h).imp ?_
  rintro a b ⟨ha, hb, e⟩
  simp only [List.mem_filter, Bool.and_eq_true, decide_eq_true_eq] at ha hb
  simp only [Function.comp]
  omega

theorem bankOf_lt (t : Tbl Word) (base : Nat) : ∀ p ∈ bankOf t base, p.1 < bankLen := by
  intro p hp
  obtain ⟨q, hq, rfl⟩ := List.mem_map.1 hp
  simp only [List.mem_filter, Bool.and_eq_true, decide_eq_true_eq] at hq
  simp only
  omega

/-- The register table keeps its form when both banks of the route table are set. -/
theorem putBanks_wf (t a b : Tbl Word) (ht : t.wf = true) (ha : a.wf = true) (hb : b.wf = true) (la : ∀ p ∈ a, p.1 < bankLen)
    (lb : ∀ p ∈ b, p.1 < bankLen) : (putBanks t a b).wf = true := by
  have e : actBase + bankLen ≤ shdBase := by decide
  unfold putBanks
  refine Tbl.append_wf (m := shdBase + bankLen) (Tbl.append_wf (m := shdBase) (Tbl.append_wf (m := actBase + bankLen)
    (Tbl.append_wf (m := actBase) (Tbl.filter_wf _ _ ht) (Tbl.shift_wf _ ha) ?_ ?_) (Tbl.filter_wf _ _ ht) ?_ ?_)
    (Tbl.shift_wf _ hb) ?_ ?_) (Tbl.filter_wf _ _ ht) ?_ ?_
  all_goals simp only [List.mem_append, List.mem_filter, List.mem_map, Bool.and_eq_true, decide_eq_true_eq]
  · rintro p ⟨_, h⟩; exact h
  · rintro p ⟨q, hq, rfl⟩; simp only; omega
  · rintro p (⟨_, h⟩ | ⟨q, hq, rfl⟩)
    · omega
    · have := la q hq; simp only; omega
  · rintro p ⟨_, h, _⟩; exact h
  · rintro p ((⟨_, h⟩ | ⟨q, hq, rfl⟩) | ⟨_, _, h⟩)
    · omega
    · have := la q hq; simp only; omega
    · exact h
  · rintro p ⟨q, hq, rfl⟩; simp only; omega
  · rintro p (((⟨_, h⟩ | ⟨q, hq, rfl⟩) | ⟨_, _, h⟩) | ⟨q, hq, rfl⟩)
    · omega
    · have := la q hq; simp only; omega
    · omega
    · have := lb q hq; simp only; omega
  · rintro p ⟨_, h⟩; exact h

theorem State.epochWrite_keeps {P : Part → Bool} {s0 : State} (s : State) (rid : Nat) (val : Word) (h : Parts P [.regs, .rte])
    (hs : Keeps P s0 s) : Keeps P s0 (State.epochWrite s rid val) := by
  unfold State.epochWrite
  repeat' (first
    | with_reducible assumption
    | ((with_reducible apply Parts.mono h); decide)
    | with_reducible apply State.wrF_keeps
    | with_reducible intro _
    | (extract_lets +onlyGivenNames x0; first
        | ((with_reducible refine (have hx0 : Keeps P s0 x0 := ?_; ?_)); (on_goal 2 => clear_value x0); (on_goal 1 => subst x0))
        | clear_value x0)
    | with_reducible apply Keeps.ite
    | split
    | with_reducible apply Keeps.upd
    | with_reducible apply Fuses.refl
    | ((with_reducible apply Or.inr); with_reducible rfl)
    | ((with_reducible apply Or.inl); exact h _ (by decide)))

theorem execEpochFlip_keeps {P : Part → Bool} {s0 : State} (rid : Nat) (val : Word) (s : State) (h : Parts P [.regs, .rte])
    (hs : Keeps P s0 s) : KeepsR P s0 (execEpochFlip rid val s) := by
  unfold execEpochFlip
  repeat' (first
    | with_reducible assumption
    | ((with_reducible apply Parts.mono h); decide)
    | with_reducible apply State.viaReg_keeps
    | with_reducible apply State.epochWrite_keeps
    | with_reducible apply KeepsR.next
    | with_reducible intro _
    | with_reducible apply KeepsR.ite
    | with_reducible apply Keeps.ite
    | split
    | beta_reduce)

theorem execEpochFlipComplete_keeps {P : Part → Bool} {s0 : State} (s : State) (h : Parts P [.regs, .rte, .boot, .evr])
    (hs : Keeps P s0 s) : KeepsR P s0 (execEpochFlipComplete s) := by
  have swap : Keeps P s0 { s with rte.flipBy := none, regs := putBanks s.regs (bankOf s.regs shdBase) (bankOf s.regs actBase) } := by
    refine hs.trans ⟨rfl, fun x hx => ?_, fun w => putBanks_wf _ _ _ w (bankOf_wf _ _ w) (bankOf_wf _ _ w) (bankOf_lt _ _)
      (bankOf_lt _ _), id, Nat.le_refl _, List.prefix_refl _, Nat.le_refl _, Fuses.refl _⟩
    cases x <;> first | rfl | (rw [h _ (by simp)] at hx; cases hx)
  unfold execEpochFlipComplete
  split
  · exact KeepsR.next hs
  · split
    · exact KeepsR.next hs
    · exact KeepsR.next (State.record_keeps _ _ _ _ _ _ _ _ _ (h.mono (by decide))
        (State.wrFs_keeps _ _ _ (h.mono (by decide)) swap))


theorem execRouteCopy_keeps {P : Part → Bool} {s0 : State} (rid : Nat) (val : Word) (s : State) (h : Parts P [.regs, .rte])
    (hs : Keeps P s0 s) : KeepsR P s0 (execRouteCopy rid val s) := by
  unfold execRouteCopy
  repeat' (first
    | with_reducible assumption
    | ((with_reducible apply Parts.mono h); decide)
    | with_reducible apply State.viaReg_keeps
    | with_reducible apply State.epochWrite_keeps
    | with_reducible apply KeepsR.next
    | with_reducible intro _
    | with_reducible apply KeepsR.ite
    | with_reducible apply Keeps.ite
    | split
    | beta_reduce)

theorem mixBanks_wf (a b : Tbl Word) (k n : Nat) (le : k ≤ n) (ha : a.wf = true) (hb : b.wf = true) :
    Tbl.wf ((b.filter fun q => q.1 < 8 * k) ++ (a.filter fun q => 8 * k ≤ q.1 && q.1 < 8 * n) ++ b.filter fun q => 8 * n ≤ q.1)
      = true := by
  refine Tbl.append_wf (m := 8 * n) (Tbl.append_wf (m := 8 * k) (Tbl.filter_wf _ _ hb) (Tbl.filter_wf _ _ ha) ?_ ?_)
    (Tbl.filter_wf _ _ hb) ?_ ?_
  all_goals simp only [List.mem_append, List.mem_filter, Bool.and_eq_true, decide_eq_true_eq]
  · rintro p ⟨_, h⟩; exact h
  · rintro p ⟨_, h, _⟩; exact h
  · rintro p (⟨_, h⟩ | ⟨_, _, h⟩)
    · omega
    · exact h
  · rintro p ⟨_, h⟩; exact h

theorem mixBanks_lt (a b : Tbl Word) (f g e : Nat × Word → Bool) (m : Nat) (ha : ∀ p ∈ a, p.1 < m) (hb : ∀ p ∈ b, p.1 < m) :
    ∀ p ∈ b.filter f ++ a.filter g ++ b.filter e, p.1 < m := by
  simp only [List.mem_append, List.mem_filter]
  rintro p ((⟨h, _⟩ | ⟨h, _⟩) | ⟨h, _⟩)
  · exact hb p h
  · exact ha p h
  · exact hb p h

theorem State.copyRange_keeps {P : Part → Bool} {s0 : State} (s : State) (k : Nat) (n : Nat) (h : Parts P [.regs, .rte])
    (hs : Keeps P s0 s) : Keeps P s0 (State.copyRange s k n) := by
  unfold State.copyRange
  extract_lets k act shd
  refine hs.trans ⟨rfl, fun x hx => ?_, fun w => putBanks_wf _ _ _ w (bankOf_wf _ _ w)
    (mixBanks_wf _ _ _ _ (Nat.min_le_right _ _) (bankOf_wf _ _ w) (bankOf_wf _ _ w)) (bankOf_lt _ _)
    (mixBanks_lt _ _ _ _ _ _ (bankOf_lt _ _) (bankOf_lt _ _)), id, Nat.le_refl _, List.prefix_refl _, Nat.le_refl _, Fuses.refl _⟩
  cases x <;> first | rfl | (rw [h _ (by simp)] at hx; cases hx)


theorem State.copyGo_keeps {P : Part → Bool} {s0 : State} (s : State) (h : Parts P [.free, .regs, .rte])
    (hs : Keeps P s0 s) : Keeps P s0 (State.copyGo s) := by
  unfold State.copyGo
  repeat' (first
    | with_reducible assumption
    | ((with_reducible apply Parts.mono h); decide)
    | with_reducible apply State.freeVal_keeps
    | with_reducible apply State.copyRange_keeps
    | with_reducible intro _
    | (extract_lets +onlyGivenNames x0; first
        | ((with_reducible refine (have hx0 : Keeps P s0 x0 := ?_; ?_)); (on_goal 2 => clear_value x0); (on_goal 1 => subst x0))
        | ((with_reducible refine (have hx0 : Keeps P s0 x0.2 := ?_; ?_)); (on_goal 2 => clear_value x0); (on_goal 1 => subst x0))
        | clear_value x0)
    | split
    | with_reducible apply Keeps.upd
    | with_reducible apply Fuses.refl
    | ((with_reducible apply Or.inr); with_reducible rfl)
    | ((with_reducible apply Or.inl); exact h _ (by decide)))

theorem execRouteCopyComplete_keeps {P : Part → Bool} {s0 : State} (s : State) (h : Parts P [.regs, .rte])
    (hs : Keeps P s0 s) : KeepsR P s0 (execRouteCopyComplete s) := by
  unfold execRouteCopyComplete
  repeat' (first
    | with_reducible assumption
    | ((with_reducible apply Parts.mono h); decide)
    | with_reducible apply State.wrF_keeps
    | with_reducible apply State.copyRange_keeps
    | with_reducible apply KeepsR.next
    | with_reducible intro _
    | (extract_lets +onlyGivenNames x0; first
        | ((with_reducible refine (have hx0 : Keeps P s0 x0 := ?_; ?_)); (on_goal 2 => clear_value x0); (on_goal 1 => subst x0))
        | clear_value x0)
    | with_reducible apply KeepsR.ite
    | with_reducible apply Keeps.ite
    | split
    | with_reducible apply Keeps.upd
    | with_reducible apply Fuses.refl
    | ((with_reducible apply Or.inr); with_reducible rfl)
    | ((with_reducible apply Or.inl); exact h _ (by decide)))

theorem State.activeWrite_keeps {P : Part → Bool} {s0 : State} (s : State) (off : Nat) (val : Word) (h : Parts P [.free, .regs, .rte])
    (hs : Keeps P s0 s) : Keeps P s0 (State.activeWrite s off val) := by
  unfold State.activeWrite
  repeat' (first
    | with_reducible assumption
    | ((with_reducible apply Parts.mono h); decide)
    | with_reducible apply State.wr_keeps
    | with_reducible apply State.copyGo_keeps
    | with_reducible intro _
    | split)

theorem State.shadowSeen_keeps {P : Part → Bool} {s0 : State} (s : State) (off : Nat) (h : Parts P [.free, .regs, .rte])
    (hs : Keeps P s0 s) : Keeps P s0 (State.shadowSeen s off) := by
  unfold State.shadowSeen
  repeat' (first
    | with_reducible assumption
    | ((with_reducible apply Parts.mono h); decide)
    | with_reducible apply State.copyGo_keeps
    | with_reducible intro _
    | with_reducible apply Keeps.ite
    | split)

theorem execRouteShadowWrite_keeps {P : Part → Bool} {s0 : State} (rid : Nat) (off : Nat) (val : Word) (s : State) (h : Parts P [.regs])
    (hs : Keeps P s0 s) : KeepsR P s0 (execRouteShadowWrite rid off val s) := by
  unfold execRouteShadowWrite
  repeat' (first
    | with_reducible assumption
    | ((with_reducible apply Parts.mono h); decide)
    | with_reducible apply State.wr_keeps
    | with_reducible apply State.wrF_keeps
    | with_reducible apply State.viaReg_keeps
    | with_reducible apply KeepsR.next
    | with_reducible intro _
    | with_reducible apply KeepsR.ite
    | with_reducible apply Keeps.ite
    | split
    | beta_reduce)

theorem execPortRoleWrite_keeps {P : Part → Bool} {s0 : State} (rid : Nat) (port : Nat) (val : Word) (s : State) (h : Parts P [.regs, .boot, .evr])
    (hs : Keeps P s0 s) : KeepsR P s0 (execPortRoleWrite rid port val s) := by
  unfold execPortRoleWrite
  repeat' (first
    | with_reducible assumption
    | ((with_reducible apply Parts.mono h); decide)
    | with_reducible apply State.wrFs_keeps
    | with_reducible apply State.note_keeps
    | with_reducible apply State.viaReg_keeps
    | with_reducible apply KeepsR.next
    | with_reducible intro _
    | (extract_lets +onlyGivenNames x0; first
        | ((with_reducible refine (have hx0 : Keeps P s0 x0 := ?_; ?_)); (on_goal 2 => clear_value x0); (on_goal 1 => subst x0))
        | clear_value x0)
    | with_reducible apply KeepsR.ite
    | with_reducible apply Keeps.ite
    | split
    | beta_reduce)

theorem execStaleLimitWrite_keeps {P : Part → Bool} {s0 : State} (rid : Nat) (val : Word) (s : State) (h : Parts P [.regs, .tra, .boot, .evr])
    (hs : Keeps P s0 s) : KeepsR P s0 (execStaleLimitWrite rid val s) := by
  unfold execStaleLimitWrite
  repeat' (first
    | with_reducible assumption
    | ((with_reducible apply Parts.mono h); decide)
    | with_reducible apply State.wrF_keeps
    | with_reducible apply State.note_keeps
    | with_reducible apply State.viaReg_keeps
    | with_reducible apply KeepsR.next
    | with_reducible intro _
    | (extract_lets +onlyGivenNames x0; first
        | ((with_reducible refine (have hx0 : Keeps P s0 x0 := ?_; ?_)); (on_goal 2 => clear_value x0); (on_goal 1 => subst x0))
        | clear_value x0)
    | with_reducible apply KeepsR.ite
    | with_reducible apply Keeps.ite
    | split
    | with_reducible apply Keeps.upd
    | with_reducible apply Fuses.refl
    | ((with_reducible apply Or.inr); with_reducible rfl)
    | ((with_reducible apply Or.inl); exact h _ (by decide))
    | beta_reduce)

theorem execSetPkeys_keeps {P : Part → Bool} {s0 : State} (c : AdminCmd) (s : State) (h : Parts P [.ten, .xlt])
    (hs : Keeps P s0 s) : KeepsR P s0 (execSetPkeys c s) := by
  unfold execSetPkeys
  repeat' (first
    | with_reducible assumption
    | ((with_reducible apply Parts.mono h); decide)
    | with_reducible apply State.setFn_keeps
    | with_reducible apply State.adminDone_keeps
    | with_reducible apply State.admin_keeps
    | with_reducible apply State.checks_keeps
    | with_reducible apply KeepsR.next
    | with_reducible intro _
    | (extract_lets +onlyGivenNames x0; first
        | ((with_reducible refine (have hx0 : Keeps P s0 x0 := ?_; ?_)); (on_goal 2 => clear_value x0); (on_goal 1 => subst x0))
        | clear_value x0)
    | split
    | with_reducible apply Keeps.upd
    | with_reducible apply Fuses.refl
    | ((with_reducible apply Or.inr); with_reducible rfl)
    | ((with_reducible apply Or.inl); exact h _ (by decide))
    | beta_reduce)

theorem State.clearQueues_keeps {P : Part → Bool} {s0 : State} (s : State) (p : Nat) (h : Parts P [.rte])
    (hs : Keeps P s0 s) : Keeps P s0 (State.clearQueues s p) := by
  unfold State.clearQueues
  repeat' (first
    | with_reducible assumption
    | ((with_reducible apply Parts.mono h); decide)
    | with_reducible apply foldl_keeps
    | with_reducible apply foldl_keepsP
    | with_reducible intro _
    | (extract_lets +onlyGivenNames x0; first
        | ((with_reducible refine (have hx0 : Keeps P s0 x0 := ?_; ?_)); (on_goal 2 => clear_value x0); (on_goal 1 => subst x0))
        | ((with_reducible refine (have hx0 : KeepsP P s0 x0 := ?_; ?_)); (on_goal 2 => clear_value x0); (on_goal 1 => subst x0))
        | clear_value x0)
    | split
    | with_reducible apply KeepsP.mk
    | (with_reducible apply KeepsP.of_eq (by with_reducible assumption))
    | with_reducible apply KeepsP.fst
    | with_reducible apply Keeps.upd
    | with_reducible apply Fuses.refl
    | ((with_reducible apply Or.inr); with_reducible rfl)
    | ((with_reducible apply Or.inl); exact h _ (by decide))
    | beta_reduce)

theorem execGraceExpiry_keeps {P : Part → Bool} {s0 : State} (port : Nat) (s : State) (h : Parts P [.out, .now, .ft, .regs, .rte, .lnk, .boot, .pwr, .evr])
    (hs : Keeps P s0 s) : KeepsR P s0 (execGraceExpiry port s) := by
  unfold execGraceExpiry
  repeat' (first
    | with_reducible assumption
    | ((with_reducible apply Parts.mono h); decide)
    | with_reducible apply State.updX_keeps
    | with_reducible apply State.passTo_keeps
    | with_reducible apply State.reroute_keeps
    | with_reducible apply State.clearQueues_keeps
    | with_reducible apply KeepsR.next
    | with_reducible apply foldl_keeps
    | with_reducible apply foldl_keepsP
    | with_reducible intro _
    | (extract_lets +onlyGivenNames x0; first
        | ((with_reducible refine (have hx0 : Keeps P s0 x0 := ?_; ?_)); (on_goal 2 => clear_value x0); (on_goal 1 => subst x0))
        | ((with_reducible refine (have hx0 : KeepsP P s0 x0 := ?_; ?_)); (on_goal 2 => clear_value x0); (on_goal 1 => subst x0))
        | clear_value x0)
    | with_reducible apply KeepsR.ite
    | with_reducible apply Keeps.ite
    | split
    | with_reducible apply KeepsP.mk
    | (with_reducible apply KeepsP.of_eq (by with_reducible assumption))
    | with_reducible apply KeepsP.fst
    | with_reducible apply Keeps.upd
    | with_reducible apply Fuses.refl
    | ((with_reducible apply Or.inr); with_reducible rfl)
    | ((with_reducible apply Or.inl); exact h _ (by decide))
    | beta_reduce)

end Sys2Proof.Machine
end

