-- ==== Sys2Proof/Laws/PowerOps.lean ====
section
/-! SUPPORT. What the operations of Machine/PowerOps.lean keep. -/

set_option linter.unusedTactic false
set_option linter.unreachableTactic false
set_option linter.unusedVariables false

namespace Sys2Proof.Machine

open Sys2Proof

theorem State.pwrReject_keeps {P : Part → Bool} {s0 : State} (s : State) (rid : Nat) (d : Nat) (cause : Nat) (h : Parts P [.regs])
    (hs : Keeps P s0 s) : Keeps P s0 (State.pwrReject s rid d cause) := by
  unfold State.pwrReject
  repeat' (first
    | with_reducible assumption
    | ((with_reducible apply Parts.mono h); decide)
    | with_reducible apply State.capture_keeps
    | with_reducible intro _
    | split)

theorem State.domMove_keeps {P : Part → Bool} {s0 : State} (s : State) (d : Nat) (new : Nat) (rid : Nat) (p4 : Nat) (h : Parts P [.regs, .boot, .evr])
    (hs : Keeps P s0 s) : Keeps P s0 (State.domMove s d new rid p4) := by
  unfold State.domMove
  repeat' (first
    | with_reducible assumption
    | ((with_reducible apply Parts.mono h); decide)
    | with_reducible apply State.wrF_keeps
    | with_reducible apply State.record_keeps
    | with_reducible intro _
    | (extract_lets +onlyGivenNames x0; first
        | ((with_reducible refine (have hx0 : Keeps P s0 x0 := ?_; ?_)); (on_goal 2 => clear_value x0); (on_goal 1 => subst x0))
        | clear_value x0)
    | split)

theorem State.portLost_keeps {P : Part → Bool} {s0 : State} (s : State) (p : Nat) (h : Parts P [.lnk])
    (hs : Keeps P s0 s) : Keeps P s0 (State.portLost s p) := by
  unfold State.portLost
  repeat' (first
    | with_reducible assumption
    | ((with_reducible apply Parts.mono h); decide)
    | with_reducible apply State.updX_keeps
    | with_reducible intro _
    | (extract_lets +onlyGivenNames x0; first
        | ((with_reducible refine (have hx0 : Keeps P s0 x0 := ?_; ?_)); (on_goal 2 => clear_value x0); (on_goal 1 => subst x0))
        | clear_value x0)
    | split
    | with_reducible apply Keeps.upd
    | with_reducible apply Fuses.refl
    | ((with_reducible apply Or.inr); with_reducible rfl)
    | ((with_reducible apply Or.inl); exact h _ (by decide))
    | beta_reduce)

theorem State.spillAll_keeps {P : Part → Bool} {s0 : State} (s : State) (c : Nat) (h : Parts P [.mat])
    (hs : Keeps P s0 s) : Keeps P s0 (State.spillAll s c) := by
  unfold State.spillAll
  repeat' (first
    | with_reducible assumption
    | ((with_reducible apply Parts.mono h); decide)
    | with_reducible intro _
    | (extract_lets +onlyGivenNames x0; first
        | ((with_reducible refine (have hx0 : Keeps P s0 x0 := ?_; ?_)); (on_goal 2 => clear_value x0); (on_goal 1 => subst x0))
        | clear_value x0)
    | with_reducible apply Keeps.ite
    | split
    | with_reducible apply Keeps.upd
    | with_reducible apply Fuses.refl
    | ((with_reducible apply Or.inr); with_reducible rfl)
    | ((with_reducible apply Or.inl); exact h _ (by decide))
    | beta_reduce)

theorem State.domCold_keeps {P : Part → Bool} {s0 : State} (s : State) (d : Nat) (h : Parts P [.mat, .xlt])
    (hs : Keeps P s0 s) : Keeps P s0 (State.domCold s d) := by
  unfold State.domCold
  repeat' (first
    | with_reducible assumption
    | ((with_reducible apply Parts.mono h); decide)
    | with_reducible apply State.spillAll_keeps
    | with_reducible intro _
    | (extract_lets +onlyGivenNames x0; first
        | ((with_reducible refine (have hx0 : Keeps P s0 x0 := ?_; ?_)); (on_goal 2 => clear_value x0); (on_goal 1 => subst x0))
        | clear_value x0)
    | with_reducible apply Keeps.ite
    | split
    | with_reducible apply Keeps.upd
    | with_reducible apply Fuses.refl
    | ((with_reducible apply Or.inr); with_reducible rfl)
    | ((with_reducible apply Or.inl); exact h _ (by decide)))

theorem State.domLost_keeps {P : Part → Bool} {s0 : State} (s : State) (d : Nat) (h : Parts P [.regs, .mat, .xlt, .lnk])
    (hs : Keeps P s0 s) : Keeps P s0 (State.domLost s d) := by
  unfold State.domLost
  repeat' (first
    | with_reducible assumption
    | ((with_reducible apply Parts.mono h); decide)
    | with_reducible apply State.wrF_keeps
    | with_reducible apply State.keepRegs_keeps
    | with_reducible apply State.portLost_keeps
    | with_reducible apply State.domCold_keeps
    | with_reducible intro _
    | (extract_lets +onlyGivenNames x0; first
        | ((with_reducible refine (have hx0 : Keeps P s0 x0 := ?_; ?_)); (on_goal 2 => clear_value x0); (on_goal 1 => subst x0))
        | clear_value x0)
    | with_reducible apply Keeps.ite
    | split
    | with_reducible apply Keeps.upd
    | with_reducible apply Fuses.refl
    | ((with_reducible apply Or.inr); with_reducible rfl)
    | ((with_reducible apply Or.inl); exact h _ (by decide))
    | beta_reduce)

theorem State.sliceDom_keeps {P : Part → Bool} {s0 : State} (s : State) (d : Nat) (h : Parts P [.regs, .lnk, .flt])
    (hs : Keeps P s0 s) : Keeps P s0 (State.sliceDom s d) := by
  unfold State.sliceDom
  repeat' (first
    | with_reducible assumption
    | ((with_reducible apply Parts.mono h); decide)
    | with_reducible apply State.sliceAbandon_keeps
    | with_reducible intro _
    | (extract_lets +onlyGivenNames x0; first
        | ((with_reducible refine (have hx0 : Keeps P s0 x0 := ?_; ?_)); (on_goal 2 => clear_value x0); (on_goal 1 => subst x0))
        | clear_value x0)
    | with_reducible apply Keeps.ite
    | split
    | with_reducible apply Keeps.upd
    | with_reducible apply Fuses.refl
    | ((with_reducible apply Or.inr); with_reducible rfl)
    | ((with_reducible apply Or.inl); exact h _ (by decide)))

theorem State.domDrain_keeps {P : Part → Bool} {s0 : State} (s : State) (d : Nat) (rid : Nat) (h : Parts P [.out, .free, .regs, .ten, .tra, .mat, .wins, .grps, .xlt, .rte, .lnk, .boot, .pwr, .flt, .evr])
    (hs : Keeps P s0 s) : Keeps P s0 (State.domDrain s d rid) := by
  unfold State.domDrain
  repeat' (first
    | with_reducible assumption
    | ((with_reducible apply Parts.mono h); decide)
    | with_reducible apply State.updDom_keeps
    | with_reducible apply State.groupError_keeps
    | with_reducible apply State.groupPortDown_keeps
    | with_reducible apply State.portStop_keeps
    | with_reducible apply State.domMove_keeps
    | with_reducible apply State.sliceDom_keeps
    | with_reducible apply foldl_keeps
    | with_reducible apply foldl_keepsP
    | with_reducible intro _
    | (extract_lets +onlyGivenNames x0; first
        | ((with_reducible refine (have hx0 : Keeps P s0 x0 := ?_; ?_)); (on_goal 2 => clear_value x0); (on_goal 1 => subst x0))
        | ((with_reducible refine (have hx0 : KeepsP P s0 x0 := ?_; ?_)); (on_goal 2 => clear_value x0); (on_goal 1 => subst x0))
        | clear_value x0)
    | with_reducible apply Keeps.ite
    | split
    | with_reducible apply KeepsP.mk
    | (with_reducible apply KeepsP.of_eq (by with_reducible assumption))
    | with_reducible apply KeepsP.fst
    | with_reducible apply Keeps.upd
    | with_reducible apply Fuses.refl
    | ((with_reducible apply Or.inr); with_reducible rfl)
    | ((with_reducible apply Or.inl); exact h _ (by decide))
    | beta_reduce)

theorem State.tenForce_keeps {P : Part → Bool} {s0 : State} (s : State) (c : Nat) (h : Parts P [.out, .free, .now, .ft, .regs, .ten, .tra, .mat, .wins, .grps, .xlt, .rte, .lnk, .pwr])
    (hs : Keeps P s0 s) : Keeps P s0 (State.tenForce s c) := by
  unfold State.tenForce
  repeat' (first
    | with_reducible assumption
    | ((with_reducible apply Parts.mono h); decide)
    | with_reducible apply State.idle_keeps
    | with_reducible apply State.finish_keeps
    | with_reducible apply State.dropMsgs_keeps
    | with_reducible apply State.recvDone_keeps
    | with_reducible apply State.fetchFail_keeps
    | with_reducible apply State.spaceFail_keeps
    | with_reducible apply foldl_keeps
    | with_reducible apply foldl_keepsP
    | with_reducible intro _
    | (extract_lets +onlyGivenNames x0; first
        | ((with_reducible refine (have hx0 : Keeps P s0 x0 := ?_; ?_)); (on_goal 2 => clear_value x0); (on_goal 1 => subst x0))
        | ((with_reducible refine (have hx0 : KeepsP P s0 x0 := ?_; ?_)); (on_goal 2 => clear_value x0); (on_goal 1 => subst x0))
        | clear_value x0)
    | with_reducible apply Keeps.ite
    | split
    | with_reducible apply KeepsP.mk
    | (with_reducible apply KeepsP.of_eq (by with_reducible assumption))
    | with_reducible apply KeepsP.fst
    | with_reducible apply Keeps.upd
    | with_reducible apply Fuses.refl
    | ((with_reducible apply Or.inr); with_reducible rfl)
    | ((with_reducible apply Or.inl); exact h _ (by decide))
    | beta_reduce)

theorem State.colForce_keeps {P : Part → Bool} {s0 : State} (s : State) (c : Nat) (h : Parts P [.ten])
    (hs : Keeps P s0 s) : Keeps P s0 (State.colForce s c) := by
  unfold State.colForce
  repeat' (first
    | with_reducible assumption
    | ((with_reducible apply Parts.mono h); decide)
    | with_reducible apply State.updCq_keeps
    | with_reducible apply State.freeSq_keeps
    | with_reducible apply foldl_keeps
    | with_reducible apply foldl_keepsP
    | with_reducible intro _
    | (extract_lets +onlyGivenNames x0; first
        | ((with_reducible refine (have hx0 : Keeps P s0 x0 := ?_; ?_)); (on_goal 2 => clear_value x0); (on_goal 1 => subst x0))
        | ((with_reducible refine (have hx0 : KeepsP P s0 x0 := ?_; ?_)); (on_goal 2 => clear_value x0); (on_goal 1 => subst x0))
        | ((with_reducible have _x0 : _ → _ := x0); clear _x0; subst x0; beta_reduce)
        | clear_value x0)
    | split
    | with_reducible apply KeepsP.mk
    | (with_reducible apply KeepsP.of_eq (by with_reducible assumption))
    | with_reducible apply KeepsP.fst
    | with_reducible apply Keeps.upd
    | with_reducible apply Fuses.refl
    | ((with_reducible apply Or.inr); with_reducible rfl)
    | ((with_reducible apply Or.inl); exact h _ (by decide))
    | beta_reduce)

theorem State.domForce_keeps {P : Part → Bool} {s0 : State} (s : State) (d : Nat) (h : Parts P [.out, .free, .now, .ft, .regs, .hbm, .ten, .tra, .mat, .wins, .grps, .xlt, .rte, .lnk, .hst, .irc, .boot, .pwr, .evr])
    (hs : Keeps P s0 s) : Keeps P s0 (State.domForce s d) := by
  unfold State.domForce
  repeat' (first
    | with_reducible assumption
    | ((with_reducible apply Parts.mono h); decide)
    | with_reducible apply State.freeGrains_keeps
    | with_reducible apply State.lnkCount_keeps
    | with_reducible apply State.drainTimeout_keeps
    | with_reducible apply State.clearQueues_keeps
    | with_reducible apply State.tenForce_keeps
    | with_reducible apply State.colForce_keeps
    | with_reducible apply foldl_keeps
    | with_reducible apply foldl_keepsP
    | with_reducible intro _
    | (extract_lets +onlyGivenNames x0; first
        | ((with_reducible refine (have hx0 : Keeps P s0 x0 := ?_; ?_)); (on_goal 2 => clear_value x0); (on_goal 1 => subst x0))
        | ((with_reducible refine (have hx0 : KeepsP P s0 x0 := ?_; ?_)); (on_goal 2 => clear_value x0); (on_goal 1 => subst x0))
        | clear_value x0)
    | with_reducible apply Keeps.ite
    | split
    | with_reducible apply KeepsP.mk
    | (with_reducible apply KeepsP.of_eq (by with_reducible assumption))
    | with_reducible apply KeepsP.fst
    | with_reducible apply Keeps.upd
    | with_reducible apply Fuses.refl
    | ((with_reducible apply Or.inr); with_reducible rfl)
    | ((with_reducible apply Or.inl); exact h _ (by decide))
    | beta_reduce)

theorem State.domUpOne_keeps {P : Part → Bool} {s0 : State} (s : State) (d : Nat) (rid : Nat) (h : Parts P [.regs, .boot, .pwr, .evr])
    (hs : Keeps P s0 s) : Keeps P s0 (State.domUpOne s d rid) := by
  unfold State.domUpOne
  repeat' (first
    | with_reducible assumption
    | ((with_reducible apply Parts.mono h); decide)
    | with_reducible apply State.updDom_keeps
    | with_reducible apply State.domMove_keeps
    | with_reducible intro _
    | (extract_lets +onlyGivenNames x0; first
        | ((with_reducible refine (have hx0 : Keeps P s0 x0 := ?_; ?_)); (on_goal 2 => clear_value x0); (on_goal 1 => subst x0))
        | clear_value x0)
    | split
    | with_reducible apply Keeps.upd
    | with_reducible apply Fuses.refl
    | ((with_reducible apply Or.inr); with_reducible rfl)
    | ((with_reducible apply Or.inl); exact h _ (by decide))
    | beta_reduce)

theorem State.domUp_keeps {P : Part → Bool} {s0 : State} (s : State) (d : Nat) (rid : Nat) (h : Parts P [.regs, .boot, .pwr, .evr])
    (hs : Keeps P s0 s) : Keeps P s0 (State.domUp s d rid) := by
  unfold State.domUp
  repeat' (first
    | with_reducible assumption
    | ((with_reducible apply Parts.mono h); decide)
    | with_reducible apply State.wrF_keeps
    | with_reducible apply State.wakeOne_keeps
    | with_reducible apply State.domUpOne_keeps
    | with_reducible apply foldl_keeps
    | with_reducible apply foldl_keepsP
    | with_reducible intro _
    | (extract_lets +onlyGivenNames x0; first
        | ((with_reducible refine (have hx0 : Keeps P s0 x0 := ?_; ?_)); (on_goal 2 => clear_value x0); (on_goal 1 => subst x0))
        | ((with_reducible refine (have hx0 : KeepsP P s0 x0 := ?_; ?_)); (on_goal 2 => clear_value x0); (on_goal 1 => subst x0))
        | clear_value x0)
    | with_reducible apply Keeps.ite
    | split
    | with_reducible apply KeepsP.mk
    | (with_reducible apply KeepsP.of_eq (by with_reducible assumption))
    | with_reducible apply KeepsP.fst
    | beta_reduce)

theorem State.domEnable_keeps {P : Part → Bool} {s0 : State} (s : State) (d : Nat) (rid : Nat) (h : Parts P [.regs, .boot, .pwr, .evr])
    (hs : Keeps P s0 s) : Keeps P s0 (State.domEnable s d rid) := by
  unfold State.domEnable
  repeat' (first
    | with_reducible assumption
    | ((with_reducible apply Parts.mono h); decide)
    | with_reducible apply State.wrF_keeps
    | with_reducible apply State.pwrReject_keeps
    | with_reducible apply State.domUp_keeps
    | with_reducible intro _
    | (extract_lets +onlyGivenNames x0; first
        | ((with_reducible refine (have hx0 : Keeps P s0 x0 := ?_; ?_)); (on_goal 2 => clear_value x0); (on_goal 1 => subst x0))
        | clear_value x0)
    | with_reducible apply Keeps.ite
    | split)

theorem State.domDisable_keeps {P : Part → Bool} {s0 : State} (s : State) (d : Nat) (rid : Nat) (h : Parts P [.out, .free, .regs, .ten, .tra, .mat, .wins, .grps, .xlt, .rte, .lnk, .boot, .pwr, .flt, .evr])
    (hs : Keeps P s0 s) : Keeps P s0 (State.domDisable s d rid) := by
  unfold State.domDisable
  repeat' (first
    | with_reducible assumption
    | ((with_reducible apply Parts.mono h); decide)
    | with_reducible apply State.wrF_keeps
    | with_reducible apply State.updDom_keeps
    | with_reducible apply State.pwrReject_keeps
    | with_reducible apply State.domLost_keeps
    | with_reducible apply State.domDrain_keeps
    | with_reducible intro _
    | (extract_lets +onlyGivenNames x0; first
        | ((with_reducible refine (have hx0 : Keeps P s0 x0 := ?_; ?_)); (on_goal 2 => clear_value x0); (on_goal 1 => subst x0))
        | clear_value x0)
    | with_reducible apply Keeps.ite
    | split
    | with_reducible apply Keeps.upd
    | with_reducible apply Fuses.refl
    | ((with_reducible apply Or.inr); with_reducible rfl)
    | ((with_reducible apply Or.inl); exact h _ (by decide))
    | beta_reduce)

theorem State.domEnd_keeps {P : Part → Bool} {s0 : State} (s : State) (d : Nat) (forced : Bool) (h : Parts P [.regs, .mat, .xlt, .lnk, .boot, .pwr, .evr])
    (hs : Keeps P s0 s) : Keeps P s0 (State.domEnd s d forced) := by
  unfold State.domEnd
  repeat' (first
    | with_reducible assumption
    | ((with_reducible apply Parts.mono h); decide)
    | with_reducible apply State.wrFs_keeps
    | with_reducible apply State.updDom_keeps
    | with_reducible apply State.domMove_keeps
    | with_reducible apply State.domLost_keeps
    | with_reducible intro _
    | (extract_lets +onlyGivenNames x0; first
        | ((with_reducible refine (have hx0 : Keeps P s0 x0 := ?_; ?_)); (on_goal 2 => clear_value x0); (on_goal 1 => subst x0))
        | clear_value x0)
    | with_reducible apply KeepsO.getD
    | split
    | with_reducible apply Keeps.upd
    | with_reducible apply Fuses.refl
    | ((with_reducible apply Or.inr); with_reducible rfl)
    | ((with_reducible apply Or.inl); exact h _ (by decide))
    | beta_reduce)

theorem State.domIsolate_keeps {P : Part → Bool} {s0 : State} (s : State) (d : Nat) (h : Parts P [.out, .free, .now, .ft, .regs, .hbm, .ten, .tra, .mat, .wins, .grps, .xlt, .rte, .lnk, .hst, .irc, .boot, .pwr, .flt, .evr])
    (hs : Keeps P s0 s) : Keeps P s0 (State.domIsolate s d) := by
  unfold State.domIsolate
  repeat' (first
    | with_reducible assumption
    | ((with_reducible apply Parts.mono h); decide)
    | with_reducible apply State.wrF_keeps
    | with_reducible apply State.updDom_keeps
    | with_reducible apply State.domMove_keeps
    | with_reducible apply State.domLost_keeps
    | with_reducible apply State.domDrain_keeps
    | with_reducible apply State.domForce_keeps
    | with_reducible apply State.domEnd_keeps
    | with_reducible intro _
    | (extract_lets +onlyGivenNames x0; first
        | ((with_reducible refine (have hx0 : Keeps P s0 x0 := ?_; ?_)); (on_goal 2 => clear_value x0); (on_goal 1 => subst x0))
        | clear_value x0)
    | with_reducible apply Keeps.ite
    | split
    | with_reducible apply Keeps.upd
    | with_reducible apply Fuses.refl
    | ((with_reducible apply Or.inr); with_reducible rfl)
    | ((with_reducible apply Or.inl); exact h _ (by decide))
    | beta_reduce)

theorem State.rethrottle_keeps {P : Part → Bool} {s0 : State} (s : State) (d : Nat) (rid : Nat) (rule : Nat) (h : Parts P [.regs, .boot, .evr])
    (hs : Keeps P s0 s) : Keeps P s0 (State.rethrottle s d rid rule) := by
  unfold State.rethrottle
  repeat' (first
    | with_reducible assumption
    | ((with_reducible apply Parts.mono h); decide)
    | with_reducible apply State.wrF_keeps
    | with_reducible apply State.record_keeps
    | with_reducible intro _
    | (extract_lets +onlyGivenNames x0; first
        | ((with_reducible refine (have hx0 : Keeps P s0 x0 := ?_; ?_)); (on_goal 2 => clear_value x0); (on_goal 1 => subst x0))
        | clear_value x0)
    | with_reducible apply Keeps.ite
    | split)

theorem State.domCtl_keeps {P : Part → Bool} {s0 : State} (s : State) (rid : Nat) (d : Nat) (val : Word) (h : Parts P [.out, .free, .regs, .ten, .tra, .mat, .wins, .grps, .xlt, .rte, .lnk, .boot, .pwr, .flt, .evr])
    (hs : Keeps P s0 s) : Keeps P s0 (State.domCtl s rid d val) := by
  unfold State.domCtl
  repeat' (first
    | with_reducible assumption
    | ((with_reducible apply Parts.mono h); decide)
    | with_reducible apply State.wrFs_keeps
    | with_reducible apply State.wake_keeps
    | with_reducible apply State.pwrReject_keeps
    | with_reducible apply State.domEnable_keeps
    | with_reducible apply State.domDisable_keeps
    | with_reducible apply State.rethrottle_keeps
    | with_reducible intro _
    | (extract_lets +onlyGivenNames x0; first
        | ((with_reducible refine (have hx0 : Keeps P s0 x0 := ?_; ?_)); (on_goal 2 => clear_value x0); (on_goal 1 => subst x0))
        | clear_value x0)
    | with_reducible apply Keeps.ite
    | with_reducible apply KeepsO.getD
    | split)

theorem State.domReached_keeps {P : Part → Bool} {s0 : State} (s : State) (d : Nat) (h : Parts P [.out, .free, .now, .ft, .regs, .hbm, .ten, .tra, .mat, .wins, .grps, .xlt, .rte, .lnk, .hst, .boot, .pwr, .flt, .evr])
    (hs : Keeps P s0 s) : Keeps P s0 (State.domReached s d) := by
  unfold State.domReached
  repeat' (first
    | with_reducible assumption
    | ((with_reducible apply Parts.mono h); decide)
    | with_reducible apply State.wrFs_keeps
    | with_reducible apply State.updDom_keeps
    | with_reducible apply State.updX_keeps
    | with_reducible apply State.serveAllHeld_keeps
    | with_reducible apply State.tryTrain_keeps
    | with_reducible apply State.walkResume_keeps
    | with_reducible apply State.domDrain_keeps
    | with_reducible intro _
    | (extract_lets +onlyGivenNames x0; first
        | ((with_reducible refine (have hx0 : Keeps P s0 x0 := ?_; ?_)); (on_goal 2 => clear_value x0); (on_goal 1 => subst x0))
        | clear_value x0)
    | with_reducible apply Keeps.ite
    | split
    | with_reducible apply Keeps.upd
    | with_reducible apply Fuses.refl
    | ((with_reducible apply Or.inr); with_reducible rfl)
    | ((with_reducible apply Or.inl); exact h _ (by decide))
    | beta_reduce)

end Sys2Proof.Machine
end

