-- ==== Sys2Proof/Laws/FathomOps.lean ====
section
/-! SUPPORT. What the operations of Machine/FathomOps.lean keep. -/

set_option linter.unusedTactic false
set_option linter.unreachableTactic false
set_option linter.unusedVariables false

namespace Sys2Proof.Machine

open Sys2Proof

theorem State.stCheck_keeps {P : Part → Bool} {s0 : State} (s : State) (h : Parts P [.regs, .lnk, .flt])
    (hs : Keeps P s0 s) : Keeps P s0 (State.stCheck s) := by
  unfold State.stCheck
  repeat' (first
    | with_reducible assumption
    | ((with_reducible apply Parts.mono h); decide)
    | with_reducible apply State.sliceAbandon_keeps
    | with_reducible intro _
    | with_reducible apply Keeps.ite
    | split)

theorem State.ruleNote_keeps {P : Part → Bool} {s0 : State} (s : State) (r : Nat) (entry : Bool) (h : Parts P [.boot, .pwr, .evr])
    (hs : Keeps P s0 s) : Keeps P s0 (State.ruleNote s r entry) := by
  unfold State.ruleNote
  repeat' (first
    | with_reducible assumption
    | ((with_reducible apply Parts.mono h); decide)
    | with_reducible apply State.record_keeps
    | with_reducible intro _
    | (extract_lets +onlyGivenNames x0; first
        | ((with_reducible refine (have hx0 : Keeps P s0 x0 := ?_; ?_)); (on_goal 2 => clear_value x0); (on_goal 1 => subst x0))
        | clear_value x0)
    | with_reducible apply Keeps.ite
    | split
    | with_reducible apply Keeps.upd
    | with_reducible apply Fuses.refl
    | ((with_reducible apply Or.inr); with_reducible rfl)
    | ((with_reducible apply Or.inl); exact h _ (by decide))
    | beta_reduce)

theorem State.wakePorts_keeps {P : Part → Bool} {s0 : State} (s : State) (mask : Word) (r : Nat) (h : Parts P [.out, .regs, .lnk, .boot, .flt, .evr])
    (hs : Keeps P s0 s) : Keeps P s0 (State.wakePorts s mask r) := by
  unfold State.wakePorts
  repeat' (first
    | with_reducible assumption
    | ((with_reducible apply Parts.mono h); decide)
    | with_reducible apply State.portEnable_keeps
    | with_reducible apply State.portWake_keeps
    | with_reducible apply foldl_keeps
    | with_reducible apply foldl_keepsP
    | with_reducible intro _
    | with_reducible apply Keeps.ite
    | split
    | with_reducible apply KeepsP.mk
    | (with_reducible apply KeepsP.of_eq (by with_reducible assumption))
    | with_reducible apply KeepsP.fst
    | beta_reduce)

theorem State.fathomWidth_keeps {P : Part → Bool} {s0 : State} (s : State) (p : Nat) (m : BitVec 4) (h : Parts P [.lnk])
    (hs : Keeps P s0 s) : Keeps P s0 (State.fathomWidth s p m) := by
  unfold State.fathomWidth
  repeat' (first
    | with_reducible assumption
    | ((with_reducible apply Parts.mono h); decide)
    | with_reducible apply State.reqOwn_keeps
    | with_reducible intro _
    | with_reducible apply Keeps.ite
    | split)

theorem State.fathomRecal_keeps {P : Part → Bool} {s0 : State} (s : State) (p : Nat) (h : Parts P [.regs, .lnk])
    (hs : Keeps P s0 s) : Keeps P s0 (State.fathomRecal s p) := by
  unfold State.fathomRecal
  repeat' (first
    | with_reducible assumption
    | ((with_reducible apply Parts.mono h); decide)
    | with_reducible apply State.wrF_keeps
    | with_reducible apply State.reqOwn_keeps
    | with_reducible apply foldl_keeps
    | with_reducible apply foldl_keepsP
    | with_reducible intro _
    | (extract_lets +onlyGivenNames x0; first
        | ((with_reducible refine (have hx0 : Keeps P s0 x0 := ?_; ?_)); (on_goal 2 => clear_value x0); (on_goal 1 => subst x0))
        | ((with_reducible refine (have hx0 : KeepsP P s0 x0 := ?_; ?_)); (on_goal 2 => clear_value x0); (on_goal 1 => subst x0))
        | clear_value x0)
    | with_reducible apply Keeps.ite
    | split
    | with_reducible apply KeepsP.mk
    | (with_reducible apply KeepsP.of_eq (by with_reducible assumption))
    | with_reducible apply KeepsP.fst
    | beta_reduce)

theorem State.ruleAct_keeps {P : Part → Bool} {s0 : State} (s : State) (r : Nat) (action : Nat) (arg : Word) (h : Parts P [.out, .free, .regs, .ten, .tra, .mat, .wins, .grps, .xlt, .rte, .lnk, .boot, .pwr, .flt, .evr])
    (hs : Keeps P s0 s) : Keeps P s0 (State.ruleAct s r action arg) := by
  unfold State.ruleAct
  repeat' (first
    | with_reducible assumption
    | ((with_reducible apply Parts.mono h); decide)
    | with_reducible apply State.ucRaise_keeps
    | with_reducible apply State.domEnable_keeps
    | with_reducible apply State.domDisable_keeps
    | with_reducible apply State.rethrottle_keeps
    | with_reducible apply State.wakePorts_keeps
    | with_reducible apply State.fathomWidth_keeps
    | with_reducible apply State.fathomRecal_keeps
    | with_reducible intro _
    | (extract_lets +onlyGivenNames x0; first
        | ((with_reducible refine (have hx0 : Keeps P s0 x0 := ?_; ?_)); (on_goal 2 => clear_value x0); (on_goal 1 => subst x0))
        | clear_value x0)
    | with_reducible apply Keeps.ite
    | split
    | with_reducible apply Keeps.upd
    | with_reducible apply Fuses.refl
    | ((with_reducible apply Or.inr); with_reducible rfl)
    | ((with_reducible apply Or.inl); exact h _ (by decide)))

theorem State.ruleUndo_keeps {P : Part → Bool} {s0 : State} (s : State) (action : Nat) (arg : Word) (h : Parts P [.out, .free, .regs, .ten, .tra, .mat, .wins, .grps, .xlt, .rte, .lnk, .boot, .pwr, .flt, .evr])
    (hs : Keeps P s0 s) : Keeps P s0 (State.ruleUndo s action arg) := by
  unfold State.ruleUndo
  repeat' (first
    | with_reducible assumption
    | ((with_reducible apply Parts.mono h); decide)
    | with_reducible apply State.domEnable_keeps
    | with_reducible apply State.domDisable_keeps
    | with_reducible apply State.fathomWidth_keeps
    | with_reducible intro _
    | (extract_lets +onlyGivenNames x0; first
        | ((with_reducible refine (have hx0 : Keeps P s0 x0 := ?_; ?_)); (on_goal 2 => clear_value x0); (on_goal 1 => subst x0))
        | clear_value x0)
    | with_reducible apply Keeps.ite
    | split
    | with_reducible apply Keeps.upd
    | with_reducible apply Fuses.refl
    | ((with_reducible apply Or.inr); with_reducible rfl)
    | ((with_reducible apply Or.inl); exact h _ (by decide)))

theorem State.ruleEnter_keeps {P : Part → Bool} {s0 : State} (s : State) (r : Nat) (h : Parts P [.out, .free, .regs, .ten, .tra, .mat, .wins, .grps, .xlt, .rte, .lnk, .boot, .pwr, .flt, .evr])
    (hs : Keeps P s0 s) : Keeps P s0 (State.ruleEnter s r) := by
  unfold State.ruleEnter
  repeat' (first
    | with_reducible assumption
    | ((with_reducible apply Parts.mono h); decide)
    | with_reducible apply State.wrF_keeps
    | with_reducible apply State.ruleNote_keeps
    | with_reducible apply State.ruleAct_keeps
    | with_reducible intro _
    | (extract_lets +onlyGivenNames x0; first
        | ((with_reducible refine (have hx0 : Keeps P s0 x0 := ?_; ?_)); (on_goal 2 => clear_value x0); (on_goal 1 => subst x0))
        | clear_value x0)
    | split
    | with_reducible apply Keeps.upd
    | with_reducible apply Fuses.refl
    | ((with_reducible apply Or.inr); with_reducible rfl)
    | ((with_reducible apply Or.inl); exact h _ (by decide)))

theorem State.ruleLeave_keeps {P : Part → Bool} {s0 : State} (s : State) (r : Nat) (h : Parts P [.out, .free, .regs, .ten, .tra, .mat, .wins, .grps, .xlt, .rte, .lnk, .boot, .pwr, .flt, .evr])
    (hs : Keeps P s0 s) : Keeps P s0 (State.ruleLeave s r) := by
  unfold State.ruleLeave
  repeat' (first
    | with_reducible assumption
    | ((with_reducible apply Parts.mono h); decide)
    | with_reducible apply State.wrF_keeps
    | with_reducible apply State.rethrottle_keeps
    | with_reducible apply State.ruleNote_keeps
    | with_reducible apply State.ruleUndo_keeps
    | with_reducible intro _
    | (extract_lets +onlyGivenNames x0; first
        | ((with_reducible refine (have hx0 : Keeps P s0 x0 := ?_; ?_)); (on_goal 2 => clear_value x0); (on_goal 1 => subst x0))
        | clear_value x0)
    | with_reducible apply Keeps.ite
    | split)

theorem State.ruleEval_keeps {P : Part → Bool} {s0 : State} (s : State) (c : Nat) (y : Nat) (r : Nat) (h : Parts P [.out, .free, .regs, .ten, .tra, .mat, .wins, .grps, .xlt, .rte, .lnk, .boot, .pwr, .flt, .evr])
    (hs : Keeps P s0 s) : Keeps P s0 (State.ruleEval s c y r) := by
  unfold State.ruleEval
  repeat' (first
    | with_reducible assumption
    | ((with_reducible apply Parts.mono h); decide)
    | with_reducible apply State.ruleEnter_keeps
    | with_reducible apply State.ruleLeave_keeps
    | with_reducible intro _
    | (extract_lets +onlyGivenNames x0; first
        | ((with_reducible refine (have hx0 : Keeps P s0 x0 := ?_; ?_)); (on_goal 2 => clear_value x0); (on_goal 1 => subst x0))
        | clear_value x0)
    | with_reducible apply Keeps.ite
    | split)

theorem State.thermalGuard_keeps {P : Part → Bool} {s0 : State} (s : State) (c : Nat) (raw : Nat) (h : Parts P [.regs, .boot, .pwr, .evr])
    (hs : Keeps P s0 s) : Keeps P s0 (State.thermalGuard s c raw) := by
  unfold State.thermalGuard
  repeat' (first
    | with_reducible assumption
    | ((with_reducible apply Parts.mono h); decide)
    | with_reducible apply State.note_keeps
    | with_reducible apply State.rethrottle_keeps
    | with_reducible apply foldl_keeps
    | with_reducible apply foldl_keepsP
    | with_reducible intro _
    | (extract_lets +onlyGivenNames x0; first
        | ((with_reducible refine (have hx0 : Keeps P s0 x0 := ?_; ?_)); (on_goal 2 => clear_value x0); (on_goal 1 => subst x0))
        | ((with_reducible refine (have hx0 : KeepsP P s0 x0 := ?_; ?_)); (on_goal 2 => clear_value x0); (on_goal 1 => subst x0))
        | ((with_reducible have _x0 : _ → _ := x0); clear _x0; subst x0; beta_reduce)
        | clear_value x0)
    | with_reducible apply Keeps.ite
    | split
    | with_reducible apply KeepsP.mk
    | (with_reducible apply KeepsP.of_eq (by with_reducible assumption))
    | with_reducible apply KeepsP.fst
    | with_reducible apply Keeps.upd
    | with_reducible apply Fuses.refl
    | ((with_reducible apply Or.inr); with_reducible rfl)
    | ((with_reducible apply Or.inl); exact h _ (by decide))
    | beta_reduce)

theorem State.sampled_keeps {P : Part → Bool} {s0 : State} (s : State) (c : Nat) (x : Nat) (h : Parts P [.out, .free, .regs, .ten, .tra, .mat, .wins, .grps, .xlt, .rte, .lnk, .boot, .pwr, .flt, .evr])
    (hs : Keeps P s0 s) : Keeps P s0 (State.sampled s c x) := by
  unfold State.sampled
  repeat' (first
    | with_reducible assumption
    | ((with_reducible apply Parts.mono h); decide)
    | with_reducible apply State.wrFs_keeps
    | with_reducible apply State.stCheck_keeps
    | with_reducible apply State.ruleEval_keeps
    | with_reducible apply State.thermalGuard_keeps
    | with_reducible apply foldl_keeps
    | with_reducible apply foldl_keepsP
    | with_reducible intro _
    | (extract_lets +onlyGivenNames x0; first
        | ((with_reducible refine (have hx0 : Keeps P s0 x0 := ?_; ?_)); (on_goal 2 => clear_value x0); (on_goal 1 => subst x0))
        | ((with_reducible refine (have hx0 : KeepsP P s0 x0 := ?_; ?_)); (on_goal 2 => clear_value x0); (on_goal 1 => subst x0))
        | clear_value x0)
    | split
    | with_reducible apply KeepsP.mk
    | (with_reducible apply KeepsP.of_eq (by with_reducible assumption))
    | with_reducible apply KeepsP.fst
    | with_reducible apply Keeps.upd
    | with_reducible apply Fuses.refl
    | ((with_reducible apply Or.inr); with_reducible rfl)
    | ((with_reducible apply Or.inl); exact h _ (by decide))
    | beta_reduce)

theorem State.calSource_keeps {P : Part → Bool} {s0 : State} (s : State) (h : Parts P [.regs, .boot, .pwr, .evr])
    (hs : Keeps P s0 s) : Keeps P s0 (State.calSource s) := by
  unfold State.calSource
  repeat' (first
    | with_reducible assumption
    | ((with_reducible apply Parts.mono h); decide)
    | with_reducible apply State.wrFs_keeps
    | with_reducible apply State.note_keeps
    | with_reducible intro _
    | (extract_lets +onlyGivenNames x0; first
        | ((with_reducible refine (have hx0 : Keeps P s0 x0 := ?_; ?_)); (on_goal 2 => clear_value x0); (on_goal 1 => subst x0))
        | clear_value x0)
    | with_reducible apply Keeps.ite
    | split
    | with_reducible apply Keeps.upd
    | with_reducible apply Fuses.refl
    | ((with_reducible apply Or.inr); with_reducible rfl)
    | ((with_reducible apply Or.inl); exact h _ (by decide)))

theorem State.calSet_keeps {P : Part → Bool} {s0 : State} (s : State) (rid : Nat) (atPps : Bool) (h : Parts P [.regs, .boot, .pwr, .evr])
    (hs : Keeps P s0 s) : Keeps P s0 (State.calSet s rid atPps) := by
  unfold State.calSet
  repeat' (first
    | with_reducible assumption
    | ((with_reducible apply Parts.mono h); decide)
    | with_reducible apply State.wrF_keeps
    | with_reducible apply State.note_keeps
    | with_reducible intro _
    | (extract_lets +onlyGivenNames x0; first
        | ((with_reducible refine (have hx0 : Keeps P s0 x0 := ?_; ?_)); (on_goal 2 => clear_value x0); (on_goal 1 => subst x0))
        | clear_value x0)
    | split
    | with_reducible apply Keeps.upd
    | with_reducible apply Fuses.refl
    | ((with_reducible apply Or.inr); with_reducible rfl)
    | ((with_reducible apply Or.inl); exact h _ (by decide)))

end Sys2Proof.Machine
end

