-- ==== Sys2Proof/Laws/ReactOps.lean ====
section
/-! SUPPORT. What the operations of Machine/ReactOps.lean keep. -/

set_option linter.unusedTactic false
set_option linter.unreachableTactic false
set_option linter.unusedVariables false

namespace Sys2Proof.Machine

open Sys2Proof

theorem State.setUpdate_keeps {P : Part → Bool} {s0 : State} (s : State) (k : Nat) (u : Update) (h : Parts P [.boot])
    (hs : Keeps P s0 s) : Keeps P s0 (State.setUpdate s k u) := by
  unfold State.setUpdate
  repeat' (first
    | with_reducible assumption
    | ((with_reducible apply Parts.mono h); decide)
    | with_reducible intro _
    | (extract_lets +onlyGivenNames x0; first
        | ((with_reducible refine (have hx0 : Keeps P s0 x0 := ?_; ?_)); (on_goal 2 => clear_value x0); (on_goal 1 => subst x0))
        | ((with_reducible have _x0 : Boot := x0); clear _x0; subst x0)
        | clear_value x0)
    | split
    | with_reducible apply Keeps.upd
    | with_reducible apply Fuses.refl
    | ((with_reducible apply Fuses.mk) <;> first | exact fun l => ⟨l, Nat.le_refl _, Nat.le_refl _⟩ | exact fun o => ⟨o, rfl⟩ | exact Nat.le_refl _ | exact fun o => o)
    | ((with_reducible apply Or.inr); with_reducible rfl)
    | ((with_reducible apply Or.inl); exact h _ (by decide)))

theorem State.coreLost_keeps {P : Part → Bool} {s0 : State} (s : State) (n : Nat) (h : Parts P [.regs, .rte, .irc, .sem, .boot, .evr])
    (hs : Keeps P s0 s) : Keeps P s0 (State.coreLost s n) := by
  unfold State.coreLost
  repeat' (first
    | with_reducible assumption
    | ((with_reducible apply Parts.mono h); decide)
    | with_reducible apply State.orphanId_keeps
    | with_reducible apply State.tgtClear_keeps
    | with_reducible intro _
    | split)

theorem State.activateFail_keeps {P : Part → Bool} {s0 : State} (s : State) (k : Nat) (reason : Nat) (h : Parts P [.regs, .ten, .xlt, .boot])
    (hs : Keeps P s0 s) : Keeps P s0 (State.activateFail s k reason) := by
  unfold State.activateFail
  repeat' (first
    | with_reducible assumption
    | ((with_reducible apply Parts.mono h); decide)
    | with_reducible apply State.wrFs_keeps
    | with_reducible apply State.adminDone_keeps
    | with_reducible apply State.setUpdate_keeps
    | with_reducible intro _
    | (extract_lets +onlyGivenNames x0; first
        | ((with_reducible refine (have hx0 : Keeps P s0 x0 := ?_; ?_)); (on_goal 2 => clear_value x0); (on_goal 1 => subst x0))
        | clear_value x0)
    | with_reducible apply Keeps.ite
    | split
    | with_reducible apply Keeps.upd
    | with_reducible apply Fuses.refl
    | ((with_reducible apply Or.inr); with_reducible rfl)
    | ((with_reducible apply Or.inl); exact h _ (by decide)))

theorem State.coreFail_keeps {P : Part → Bool} {s0 : State} (s : State) (n : Nat) (h : Parts P [.out, .regs, .ten, .xlt, .rte, .irc, .sem, .boot, .pwr, .flt, .evr])
    (hs : Keeps P s0 s) : Keeps P s0 (State.coreFail s n) := by
  unfold State.coreFail
  repeat' (first
    | with_reducible assumption
    | ((with_reducible apply Parts.mono h); decide)
    | with_reducible apply State.wrF_keeps
    | with_reducible apply State.wrFs_keeps
    | with_reducible apply State.ftRaise_keeps
    | with_reducible apply State.setUpdate_keeps
    | with_reducible apply State.coreLost_keeps
    | with_reducible apply State.activateFail_keeps
    | with_reducible intro _
    | (extract_lets +onlyGivenNames x0; first
        | ((with_reducible refine (have hx0 : Keeps P s0 x0 := ?_; ?_)); (on_goal 2 => clear_value x0); (on_goal 1 => subst x0))
        | clear_value x0)
    | with_reducible apply Keeps.ite
    | split
    | with_reducible apply Keeps.upd
    | with_reducible apply Fuses.refl
    | ((with_reducible apply Or.inr); with_reducible rfl)
    | ((with_reducible apply Or.inl); exact h _ (by decide)))

theorem State.bufDrop_keeps {P : Part → Bool} {s0 : State} (s : State) (p : Packet) (at_ : Nat → Bool) (h : Parts P [.rte, .lnk])
    (hs : Keeps P s0 s) : Keeps P s0 (State.bufDrop s p at_) := by
  unfold State.bufDrop
  repeat' (first
    | with_reducible assumption
    | ((with_reducible apply Parts.mono h); decide)
    | with_reducible apply State.freeGrains_keeps
    | with_reducible intro _
    | (extract_lets +onlyGivenNames x0; first
        | ((with_reducible refine (have hx0 : Keeps P s0 x0 := ?_; ?_)); (on_goal 2 => clear_value x0); (on_goal 1 => subst x0))
        | ((with_reducible have _x0 : _ → _ := x0); clear _x0; subst x0; beta_reduce)
        | clear_value x0)
    | split
    | with_reducible apply Keeps.upd
    | with_reducible apply Fuses.refl
    | ((with_reducible apply Or.inr); with_reducible rfl)
    | ((with_reducible apply Or.inl); exact h _ (by decide))
    | beta_reduce)

theorem State.setSpare_keeps {P : Part → Bool} {s0 : State} (s : State) (k : Nat) (u : SpareUse) (h : Parts P [.flt])
    (hs : Keeps P s0 s) : Keeps P s0 (State.setSpare s k u) := by
  unfold State.setSpare
  repeat' (first
    | with_reducible assumption
    | ((with_reducible apply Parts.mono h); decide)
    | with_reducible intro _
    | (extract_lets +onlyGivenNames x0; first
        | ((with_reducible refine (have hx0 : Keeps P s0 x0 := ?_; ?_)); (on_goal 2 => clear_value x0); (on_goal 1 => subst x0))
        | clear_value x0)
    | split
    | with_reducible apply Keeps.upd
    | with_reducible apply Fuses.refl
    | ((with_reducible apply Or.inr); with_reducible rfl)
    | ((with_reducible apply Or.inl); exact h _ (by decide)))

theorem State.bankRepair_keeps {P : Part → Bool} {s0 : State} (s : State) (b : Nat) (h : Parts P [.regs, .lnk, .flt])
    (hs : Keeps P s0 s) : KeepsP P s0 (State.bankRepair s b) := by
  unfold State.bankRepair
  repeat' (first
    | with_reducible assumption
    | ((with_reducible apply Parts.mono h); decide)
    | with_reducible apply State.sliceAbandon_keeps
    | with_reducible apply State.setSpare_keeps
    | with_reducible intro _
    | (extract_lets +onlyGivenNames x0; first
        | ((with_reducible refine (have hx0 : Keeps P s0 x0 := ?_; ?_)); (on_goal 2 => clear_value x0); (on_goal 1 => subst x0))
        | clear_value x0)
    | with_reducible apply KeepsP.ite
    | with_reducible apply Keeps.ite
    | split
    | with_reducible apply KeepsP.mk
    | with_reducible apply Keeps.upd
    | with_reducible apply Fuses.refl
    | ((with_reducible apply Or.inr); with_reducible rfl)
    | ((with_reducible apply Or.inl); exact h _ (by decide))
    | beta_reduce)

theorem State.grainFault_keeps {P : Part → Bool} {s0 : State} (s : State) (n : Nat) (h : Parts P [.regs, .lnk, .boot, .flt, .evr])
    (hs : Keeps P s0 s) : Keeps P s0 (State.grainFault s n) := by
  unfold State.grainFault
  repeat' (first
    | with_reducible assumption
    | ((with_reducible apply Parts.mono h); decide)
    | with_reducible apply State.ucRaise_keeps
    | with_reducible apply State.bankRepair_keeps
    | with_reducible intro _
    | (extract_lets +onlyGivenNames x0; first
        | ((with_reducible refine (have hx0 : Keeps P s0 x0 := ?_; ?_)); (on_goal 2 => clear_value x0); (on_goal 1 => subst x0))
        | ((with_reducible refine (have hx0 : KeepsP P s0 x0 := ?_; ?_)); (on_goal 2 => clear_value x0); (on_goal 1 => subst x0))
        | clear_value x0)
    | with_reducible apply Keeps.ite
    | split
    | with_reducible apply KeepsP.mk
    | (with_reducible apply KeepsP.of_eq (by with_reducible assumption))
    | with_reducible apply KeepsP.fst
    | with_reducible apply Keeps.upd
    | with_reducible apply Fuses.refl
    | ((with_reducible apply Or.inr); with_reducible rfl)
    | ((with_reducible apply Or.inl); exact h _ (by decide)))

theorem State.hbmRepair_keeps {P : Part → Bool} {s0 : State} (s : State) (i : Nat) (c : Nat) (h : Parts P [.regs, .flt])
    (hs : Keeps P s0 s) : Keeps P s0 (State.hbmRepair s i c) := by
  unfold State.hbmRepair
  repeat' (first
    | with_reducible assumption
    | ((with_reducible apply Parts.mono h); decide)
    | with_reducible apply State.wrFs_keeps
    | with_reducible intro _
    | (extract_lets +onlyGivenNames x0; first
        | ((with_reducible refine (have hx0 : Keeps P s0 x0 := ?_; ?_)); (on_goal 2 => clear_value x0); (on_goal 1 => subst x0))
        | clear_value x0)
    | with_reducible apply Keeps.ite
    | split
    | with_reducible apply Keeps.upd
    | with_reducible apply Fuses.refl
    | ((with_reducible apply Or.inr); with_reducible rfl)
    | ((with_reducible apply Or.inl); exact h _ (by decide)))

theorem State.repairRec_keeps {P : Part → Bool} {s0 : State} (s : State) (src : Nat) (spare : Nat) (us : Nat) (yielded : Bool) (h : Parts P [.boot, .evr])
    (hs : Keeps P s0 s) : Keeps P s0 (State.repairRec s src spare us yielded) := by
  unfold State.repairRec
  repeat' (first
    | with_reducible assumption
    | ((with_reducible apply Parts.mono h); decide)
    | with_reducible apply State.record_keeps
    | with_reducible intro _
    | split)

theorem State.ownerFail_keeps {P : Part → Bool} {s0 : State} (s : State) (n : Nat) (d : FaultDetail) (h : Parts P [.out, .free, .regs, .ten, .tra, .mat, .wins, .grps, .xlt, .rte, .pwr])
    (hs : Keeps P s0 s) : Keeps P s0 (State.ownerFail s n d) := by
  unfold State.ownerFail
  repeat' (first
    | with_reducible assumption
    | ((with_reducible apply Parts.mono h); decide)
    | with_reducible apply State.mctxError_keeps
    | with_reducible apply State.qpFail_keeps
    | with_reducible apply State.groupError_keeps
    | with_reducible intro _
    | (extract_lets +onlyGivenNames x0; first
        | ((with_reducible refine (have hx0 : Keeps P s0 x0 := ?_; ?_)); (on_goal 2 => clear_value x0); (on_goal 1 => subst x0))
        | clear_value x0)
    | with_reducible apply Keeps.ite
    | split
    | with_reducible apply Keeps.upd
    | with_reducible apply Fuses.refl
    | ((with_reducible apply Or.inr); with_reducible rfl)
    | ((with_reducible apply Or.inl); exact h _ (by decide)))

theorem State.slotSpoil_keeps {P : Part → Bool} {s0 : State} (s : State) (i : Nat) (h : Parts P [.free, .evr])
    (hs : Keeps P s0 s) : Keeps P s0 (State.slotSpoil s i) := by
  unfold State.slotSpoil
  repeat' (first
    | with_reducible assumption
    | ((with_reducible apply Parts.mono h); decide)
    | with_reducible apply State.freeVal_keeps
    | with_reducible intro _
    | (extract_lets +onlyGivenNames x0; first
        | ((with_reducible refine (have hx0 : Keeps P s0 x0 := ?_; ?_)); (on_goal 2 => clear_value x0); (on_goal 1 => subst x0))
        | ((with_reducible refine (have hx0 : Keeps P s0 x0.2 := ?_; ?_)); (on_goal 2 => clear_value x0); (on_goal 1 => subst x0))
        | clear_value x0)
    | split
    | with_reducible apply Keeps.upd
    | with_reducible apply Fuses.refl
    | ((with_reducible apply Or.inr); with_reducible rfl)
    | ((with_reducible apply Or.inl); exact h _ (by decide)))

theorem State.lifeSpoil_keeps {P : Part → Bool} {s0 : State} (s : State) (w : Nat) (h : Parts P [.regs, .evr])
    (hs : Keeps P s0 s) : Keeps P s0 (State.lifeSpoil s w) := by
  unfold State.lifeSpoil
  repeat' (first
    | with_reducible assumption
    | ((with_reducible apply Parts.mono h); decide)
    | with_reducible apply State.wrF_keeps
    | with_reducible intro _
    | (extract_lets +onlyGivenNames x0; first
        | ((with_reducible refine (have hx0 : Keeps P s0 x0 := ?_; ?_)); (on_goal 2 => clear_value x0); (on_goal 1 => subst x0))
        | clear_value x0)
    | with_reducible apply Keeps.ite
    | split
    | with_reducible apply Keeps.upd
    | with_reducible apply Fuses.refl
    | ((with_reducible apply Or.inr); with_reducible rfl)
    | ((with_reducible apply Or.inl); exact h _ (by decide)))

theorem State.insSpoil_keeps {P : Part → Bool} {s0 : State} (s : State) (d : FaultDetail) (h : Parts P [.regs])
    (hs : Keeps P s0 s) : Keeps P s0 (State.insSpoil s d) := by
  unfold State.insSpoil
  repeat' (first
    | with_reducible assumption
    | ((with_reducible apply Parts.mono h); decide)
    | with_reducible apply State.wrFs_keeps
    | with_reducible apply foldl_keeps
    | with_reducible apply foldl_keepsP
    | with_reducible intro _
    | (extract_lets +onlyGivenNames x0; first
        | ((with_reducible refine (have hx0 : Keeps P s0 x0 := ?_; ?_)); (on_goal 2 => clear_value x0); (on_goal 1 => subst x0))
        | ((with_reducible refine (have hx0 : KeepsP P s0 x0 := ?_; ?_)); (on_goal 2 => clear_value x0); (on_goal 1 => subst x0))
        | ((with_reducible have _x0 : _ → _ := x0); clear _x0; subst x0; beta_reduce)
        | clear_value x0)
    | with_reducible apply Keeps.ite
    | split
    | with_reducible apply KeepsP.mk
    | (with_reducible apply KeepsP.of_eq (by with_reducible assumption))
    | with_reducible apply KeepsP.fst
    | with_reducible apply Keeps.upd
    | with_reducible apply Fuses.refl
    | ((with_reducible apply Or.inr); with_reducible rfl)
    | ((with_reducible apply Or.inl); exact h _ (by decide))
    | beta_reduce)

theorem State.tlbSpoil_keeps {P : Part → Bool} {s0 : State} (s : State) (i : Nat) (h : Parts P [.xlt])
    (hs : Keeps P s0 s) : Keeps P s0 (State.tlbSpoil s i) := by
  unfold State.tlbSpoil
  repeat' (first
    | with_reducible assumption
    | ((with_reducible apply Parts.mono h); decide)
    | with_reducible intro _
    | (extract_lets +onlyGivenNames x0; first
        | ((with_reducible refine (have hx0 : Keeps P s0 x0 := ?_; ?_)); (on_goal 2 => clear_value x0); (on_goal 1 => subst x0))
        | clear_value x0)
    | split
    | with_reducible apply Keeps.upd
    | with_reducible apply Fuses.refl
    | ((with_reducible apply Or.inr); with_reducible rfl)
    | ((with_reducible apply Or.inl); exact h _ (by decide)))

theorem State.ucReact_keeps {P : Part → Bool} {s0 : State} (s : State) (n : Nat) (d : FaultDetail) (forced : Bool) (h : Parts P [.out, .free, .now, .ft, .regs, .hbm, .ten, .tra, .mat, .wins, .grps, .xlt, .rte, .lnk, .hst, .irc, .sem, .boot, .pwr, .flt, .evr])
    (hs : Keeps P s0 s) : Keeps P s0 (State.ucReact s n d forced) := by
  unfold State.ucReact
  repeat' (first
    | with_reducible assumption
    | ((with_reducible apply Parts.mono h); decide)
    | with_reducible apply State.portDisable_keeps
    | with_reducible apply State.drainPort_keeps
    | with_reducible apply State.domIsolate_keeps
    | with_reducible apply State.coreFail_keeps
    | with_reducible apply State.bufDrop_keeps
    | with_reducible apply State.ownerFail_keeps
    | with_reducible apply State.slotSpoil_keeps
    | with_reducible apply State.lifeSpoil_keeps
    | with_reducible apply State.insSpoil_keeps
    | with_reducible apply State.tlbSpoil_keeps
    | with_reducible intro _
    | (extract_lets +onlyGivenNames x0; first
        | ((with_reducible refine (have hx0 : Keeps P s0 x0 := ?_; ?_)); (on_goal 2 => clear_value x0); (on_goal 1 => subst x0))
        | clear_value x0)
    | with_reducible apply Keeps.ite
    | split
    | with_reducible apply Keeps.upd
    | with_reducible apply Fuses.refl
    | ((with_reducible apply Or.inr); with_reducible rfl)
    | ((with_reducible apply Or.inl); exact h _ (by decide))
    | beta_reduce)

theorem State.repairSome_keeps {P : Part → Bool} {s0 : State} (s : State) (b : Option Nat) (h : Parts P [.regs, .lnk, .flt])
    (hs : Keeps P s0 s) : Keeps P s0 (State.repairSome s b) := by
  unfold State.repairSome
  repeat' (first
    | with_reducible assumption
    | ((with_reducible apply Parts.mono h); decide)
    | with_reducible apply State.bankRepair_keeps
    | with_reducible intro _
    | (extract_lets +onlyGivenNames x0; first
        | ((with_reducible refine (have hx0 : Keeps P s0 x0 := ?_; ?_)); (on_goal 2 => clear_value x0); (on_goal 1 => subst x0))
        | ((with_reducible refine (have hx0 : KeepsP P s0 x0 := ?_; ?_)); (on_goal 2 => clear_value x0); (on_goal 1 => subst x0))
        | clear_value x0)
    | split
    | with_reducible apply KeepsP.mk
    | (with_reducible apply KeepsP.of_eq (by with_reducible assumption))
    | with_reducible apply KeepsP.fst
    | with_reducible apply Keeps.upd
    | with_reducible apply Fuses.refl
    | ((with_reducible apply Or.inr); with_reducible rfl)
    | ((with_reducible apply Or.inl); exact h _ (by decide)))

theorem State.ceOccur_keeps {P : Part → Bool} {s0 : State} (s : State) (n : Nat) (d : FaultDetail) (forced : Bool) (h : Parts P [.regs, .rte, .lnk, .boot, .flt, .evr])
    (hs : Keeps P s0 s) : Keeps P s0 (State.ceOccur s n d forced) := by
  unfold State.ceOccur
  repeat' (first
    | with_reducible assumption
    | ((with_reducible apply Parts.mono h); decide)
    | with_reducible apply State.ceRaise_keeps
    | with_reducible apply State.bufDrop_keeps
    | with_reducible apply State.grainFault_keeps
    | with_reducible apply State.hbmRepair_keeps
    | with_reducible apply State.repairSome_keeps
    | with_reducible intro _
    | (extract_lets +onlyGivenNames x0; first
        | ((with_reducible refine (have hx0 : Keeps P s0 x0 := ?_; ?_)); (on_goal 2 => clear_value x0); (on_goal 1 => subst x0))
        | ((with_reducible refine (have hx0 : KeepsP P s0 x0 := ?_; ?_)); (on_goal 2 => clear_value x0); (on_goal 1 => subst x0))
        | clear_value x0)
    | with_reducible apply Keeps.ite
    | split
    | with_reducible apply KeepsP.mk
    | (with_reducible apply KeepsP.of_eq (by with_reducible assumption))
    | with_reducible apply KeepsP.fst
    | with_reducible apply Keeps.upd
    | with_reducible apply Fuses.refl
    | ((with_reducible apply Or.inr); with_reducible rfl)
    | ((with_reducible apply Or.inl); exact h _ (by decide))
    | beta_reduce)

theorem State.ucOccur_keeps {P : Part → Bool} {s0 : State} (s : State) (n : Nat) (d : FaultDetail) (forced : Bool) (h : Parts P [.out, .free, .now, .ft, .regs, .hbm, .ten, .tra, .mat, .wins, .grps, .xlt, .rte, .lnk, .hst, .irc, .sem, .boot, .pwr, .flt, .evr])
    (hs : Keeps P s0 s) : Keeps P s0 (State.ucOccur s n d forced) := by
  unfold State.ucOccur
  repeat' (first
    | with_reducible assumption
    | ((with_reducible apply Parts.mono h); decide)
    | with_reducible apply State.ucRaise_keeps
    | with_reducible apply State.ucReact_keeps
    | with_reducible intro _
    | (extract_lets +onlyGivenNames x0; first
        | ((with_reducible refine (have hx0 : Keeps P s0 x0 := ?_; ?_)); (on_goal 2 => clear_value x0); (on_goal 1 => subst x0))
        | clear_value x0)
    | with_reducible apply Keeps.ite
    | split)

theorem State.pendClear_keeps {P : Part → Bool} {s0 : State} (s : State) (rid : Nat) (n : Nat) (h : Parts P [.regs, .boot, .evr])
    (hs : Keeps P s0 s) : Keeps P s0 (State.pendClear s rid n) := by
  unfold State.pendClear
  repeat' (first
    | with_reducible assumption
    | ((with_reducible apply Parts.mono h); decide)
    | with_reducible apply State.wrF_keeps
    | with_reducible apply State.record_keeps
    | with_reducible apply State.setPend_keeps
    | with_reducible intro _
    | (extract_lets +onlyGivenNames x0; first
        | ((with_reducible refine (have hx0 : Keeps P s0 x0 := ?_; ?_)); (on_goal 2 => clear_value x0); (on_goal 1 => subst x0))
        | clear_value x0)
    | with_reducible apply Keeps.ite
    | split
    | with_reducible apply Keeps.upd
    | with_reducible apply Fuses.refl
    | ((with_reducible apply Or.inr); with_reducible rfl)
    | ((with_reducible apply Or.inl); exact h _ (by decide)))

theorem State.pendWrite_keeps {P : Part → Bool} {s0 : State} (s : State) (rid : Nat) (k : Nat) (val : Word) (h : Parts P [.regs, .boot, .evr])
    (hs : Keeps P s0 s) : Keeps P s0 (State.pendWrite s rid k val) := by
  unfold State.pendWrite
  repeat' (first
    | with_reducible assumption
    | ((with_reducible apply Parts.mono h); decide)
    | with_reducible apply State.pendClear_keeps
    | with_reducible apply foldl_keeps
    | with_reducible apply foldl_keepsP
    | with_reducible intro _
    | with_reducible apply Keeps.ite
    | split
    | with_reducible apply KeepsP.mk
    | (with_reducible apply KeepsP.of_eq (by with_reducible assumption))
    | with_reducible apply KeepsP.fst
    | beta_reduce)

theorem State.srcWrite_keeps {P : Part → Bool} {s0 : State} (s : State) (n : Nat) (val : Word) (h : Parts P [.out, .free, .now, .ft, .regs, .hbm, .ten, .tra, .mat, .wins, .grps, .xlt, .rte, .lnk, .hst, .irc, .sem, .boot, .pwr, .flt, .evr])
    (hs : Keeps P s0 s) : Keeps P s0 (State.srcWrite s n val) := by
  unfold State.srcWrite
  repeat' (first
    | with_reducible assumption
    | ((with_reducible apply Parts.mono h); decide)
    | with_reducible apply State.wrF_keeps
    | with_reducible apply State.wrFs_keeps
    | with_reducible apply State.ftRaise_keeps
    | with_reducible apply State.ceOccur_keeps
    | with_reducible apply State.ucOccur_keeps
    | with_reducible intro _
    | (extract_lets +onlyGivenNames x0; first
        | ((with_reducible refine (have hx0 : Keeps P s0 x0 := ?_; ?_)); (on_goal 2 => clear_value x0); (on_goal 1 => subst x0))
        | clear_value x0)
    | with_reducible apply Keeps.ite
    | split
    | with_reducible apply Keeps.upd
    | with_reducible apply Fuses.refl
    | ((with_reducible apply Or.inr); with_reducible rfl)
    | ((with_reducible apply Or.inl); exact h _ (by decide)))

end Sys2Proof.Machine
end

