-- ==== Sys2Proof/Laws/BootOps.lean ====
section
/-! SUPPORT. What the operations of Machine/BootOps.lean keep. -/

set_option linter.unusedTactic false
set_option linter.unreachableTactic false
set_option linter.unusedVariables false

namespace Sys2Proof.Machine

open Sys2Proof

theorem State.extend_keeps {P : Part → Bool} {s0 : State} (s : State) (i : Nat) (d : BitVec 384) (h : Parts P [.regs])
    (hs : Keeps P s0 s) : Keeps P s0 (State.extend s i d) := by
  unfold State.extend
  repeat' (first
    | with_reducible assumption
    | ((with_reducible apply Parts.mono h); decide)
    | with_reducible apply State.wr_keeps
    | with_reducible apply foldl_keeps
    | with_reducible apply foldl_keepsP
    | with_reducible intro _
    | (extract_lets +onlyGivenNames x0; first
        | ((with_reducible refine (have hx0 : Keeps P s0 x0 := ?_; ?_)); (on_goal 2 => clear_value x0); (on_goal 1 => subst x0))
        | ((with_reducible refine (have hx0 : KeepsP P s0 x0 := ?_; ?_)); (on_goal 2 => clear_value x0); (on_goal 1 => subst x0))
        | clear_value x0)
    | split
    | with_reducible apply KeepsP.mk
    | (with_reducible apply KeepsP.of_eq (by with_reducible assumption))
    | with_reducible apply KeepsP.fst
    | beta_reduce)

theorem State.bootNote_keeps {P : Part → Bool} {s0 : State} (s : State) (code : Nat) (p0 : Nat) (p1 : Nat) (p2 : Nat) (p3 : Nat) (p4 : Nat) (h : Parts P [.boot, .evr])
    (hs : Keeps P s0 s) : Keeps P s0 (State.bootNote s code p0 p1 p2 p3 p4) := by
  unfold State.bootNote
  repeat' (first
    | with_reducible assumption
    | ((with_reducible apply Parts.mono h); decide)
    | with_reducible apply State.record_keeps
    | with_reducible intro _
    | split)

theorem State.measure_keeps {P : Part → Bool} {s0 : State} (s : State) (i : Nat) (code : Nat) (d : BitVec 384) (ver : Word) (h : Parts P [.regs, .boot, .evr])
    (hs : Keeps P s0 s) : Keeps P s0 (State.measure s i code d ver) := by
  unfold State.measure
  repeat' (first
    | with_reducible assumption
    | ((with_reducible apply Parts.mono h); decide)
    | with_reducible apply State.record_keeps
    | with_reducible apply State.extend_keeps
    | with_reducible intro _
    | (extract_lets +onlyGivenNames x0; first
        | ((with_reducible refine (have hx0 : Keeps P s0 x0 := ?_; ?_)); (on_goal 2 => clear_value x0); (on_goal 1 => subst x0))
        | clear_value x0)
    | split)

theorem State.measureFree_keeps {P : Part → Bool} {s0 : State} (s : State) (i : Nat) (code : Nat) (d : BitVec 384) (h : Parts P [.free, .regs, .boot, .evr])
    (hs : Keeps P s0 s) : Keeps P s0 (State.measureFree s i code d) := by
  unfold State.measureFree
  repeat' (first
    | with_reducible assumption
    | ((with_reducible apply Parts.mono h); decide)
    | with_reducible apply State.freeVal_keeps
    | with_reducible apply State.measure_keeps
    | with_reducible intro _
    | (extract_lets +onlyGivenNames x0; first
        | ((with_reducible refine (have hx0 : Keeps P s0 x0 := ?_; ?_)); (on_goal 2 => clear_value x0); (on_goal 1 => subst x0))
        | ((with_reducible refine (have hx0 : Keeps P s0 x0.2 := ?_; ?_)); (on_goal 2 => clear_value x0); (on_goal 1 => subst x0))
        | clear_value x0)
    | split)

theorem State.wipe_keeps {P : Part → Bool} {s0 : State} (s : State) (h : Parts P [.out, .free, .now, .ft, .regs, .hbm, .ten, .tra, .mat, .wins, .grps, .xlt, .rte, .tcs, .lnk, .hst, .irc, .sem, .boot, .pwr, .flt, .evr, .cnt])
    (hs : Keeps P s0 s) : Keeps P s0 (State.wipe s) := by
  have base : Keeps P s0 { State.reset with
      pending := s.pending, out := s.out, free := s.free, now := s.now, ft := s.ft, regs := s.regs.filter fun p => s.regOfDom 92 p.1,
      boot := s.boot, pwr := s.pwr, flt := s.flt,
      evr := { s.evr with clearing := s.evr.clearing.map fun c => ({ c.1 with fn := 0xFFF }, c.2) } } := by
    refine hs.trans ⟨rfl, fun x hx => ?_, Tbl.filter_wf _ _, fun _ => rfl, Nat.le_refl _, List.prefix_refl _, Nat.le_refl _,
      Fuses.refl _⟩
    cases x <;> (rw [h _ (by simp)] at hx; cases hx)
  exact State.wrF_keeps _ _ _ _ (h.mono (by decide)) (State.wrF_keeps _ _ _ _ (h.mono (by decide)) base)


theorem State.recover_keeps {P : Part → Bool} {s0 : State} (s : State) (cause : Nat) (h : Parts P [.out, .free, .now, .ft, .regs, .hbm, .ten, .tra, .mat, .wins, .grps, .xlt, .rte, .tcs, .lnk, .hst, .irc, .sem, .boot, .pwr, .flt, .evr, .cnt])
    (hs : Keeps P s0 s) : Keeps P s0 (State.recover s cause) := by
  unfold State.recover
  repeat' (first
    | with_reducible assumption
    | ((with_reducible apply Parts.mono h); decide)
    | with_reducible apply State.wrF_keeps
    | with_reducible apply State.wrFs_keeps
    | with_reducible apply State.emit_keeps
    | with_reducible apply State.domMove_keeps
    | with_reducible apply State.bootNote_keeps
    | with_reducible apply State.wipe_keeps
    | with_reducible apply foldl_keeps
    | with_reducible apply foldl_keepsP
    | with_reducible intro _
    | (extract_lets +onlyGivenNames x0; first
        | ((with_reducible refine (have hx0 : Keeps P s0 x0 := ?_; ?_)); (on_goal 2 => clear_value x0); (on_goal 1 => subst x0))
        | ((with_reducible refine (have hx0 : KeepsP P s0 x0 := ?_; ?_)); (on_goal 2 => clear_value x0); (on_goal 1 => subst x0))
        | ((with_reducible have _x0 : Boot := x0); clear _x0; subst x0)
        | clear_value x0)
    | with_reducible apply Keeps.ite
    | split
    | with_reducible apply KeepsP.mk
    | (with_reducible apply KeepsP.of_eq (by with_reducible assumption))
    | with_reducible apply KeepsP.fst
    | with_reducible apply Keeps.upd
    | with_reducible apply Fuses.refl
    | ((with_reducible apply Fuses.mk) <;> first | exact fun l => ⟨l, Nat.le_refl _, Nat.le_refl _⟩ | exact fun o => ⟨o, rfl⟩ | exact Nat.le_refl _ | exact fun o => o)
    | ((with_reducible apply Or.inr); with_reducible rfl)
    | ((with_reducible apply Or.inl); exact h _ (by decide))
    | beta_reduce)

theorem State.domStart_keeps {P : Part → Bool} {s0 : State} (s : State) (d : Nat) (h : Parts P [.regs, .boot, .evr])
    (hs : Keeps P s0 s) : Keeps P s0 (State.domStart s d) := by
  unfold State.domStart
  repeat' (first
    | with_reducible assumption
    | ((with_reducible apply Parts.mono h); decide)
    | with_reducible apply State.wrF_keeps
    | with_reducible apply State.domMove_keeps
    | with_reducible intro _
    | (extract_lets +onlyGivenNames x0; first
        | ((with_reducible refine (have hx0 : Keeps P s0 x0 := ?_; ?_)); (on_goal 2 => clear_value x0); (on_goal 1 => subst x0))
        | clear_value x0)
    | with_reducible apply Keeps.ite
    | split
    | with_reducible apply Keeps.upd
    | with_reducible apply Fuses.refl
    | ((with_reducible apply Or.inr); with_reducible rfl)
    | ((with_reducible apply Or.inl); exact h _ (by decide)))

theorem State.bootFirst_keeps {P : Part → Bool} {s0 : State} (s : State) (h : Parts P [.free, .regs, .boot, .evr])
    (hs : Keeps P s0 s) : Keeps P s0 (State.bootFirst s) := by
  unfold State.bootFirst
  repeat' (first
    | with_reducible assumption
    | ((with_reducible apply Parts.mono h); decide)
    | with_reducible apply State.wrF_keeps
    | with_reducible apply State.record_keeps
    | with_reducible apply State.measureFree_keeps
    | with_reducible apply State.domStart_keeps
    | with_reducible intro _
    | (extract_lets +onlyGivenNames x0; first
        | ((with_reducible refine (have hx0 : Keeps P s0 x0 := ?_; ?_)); (on_goal 2 => clear_value x0); (on_goal 1 => subst x0))
        | ((with_reducible have _x0 : Boot := x0); clear _x0; subst x0)
        | ((with_reducible have _x0 : _ → _ := x0); clear _x0; subst x0; beta_reduce)
        | clear_value x0)
    | with_reducible apply Keeps.ite
    | split
    | with_reducible apply Keeps.upd
    | with_reducible apply Fuses.refl
    | ((with_reducible apply Fuses.mk) <;> first | exact fun l => ⟨l, Nat.le_refl _, Nat.le_refl _⟩ | exact fun o => ⟨o, rfl⟩ | exact Nat.le_refl _ | exact fun o => o)
    | ((with_reducible apply Or.inr); with_reducible rfl)
    | ((with_reducible apply Or.inl); exact h _ (by decide))
    | beta_reduce)

theorem State.bootGo_keeps {P : Part → Bool} {s0 : State} (s : State) (h : Parts P [.out, .free, .now, .ft, .regs, .hbm, .ten, .tra, .mat, .wins, .grps, .xlt, .rte, .tcs, .lnk, .hst, .irc, .sem, .boot, .pwr, .flt, .evr, .cnt])
    (hs : Keeps P s0 s) : Keeps P s0 (State.bootGo s) := by
  unfold State.bootGo
  repeat' (first
    | with_reducible assumption
    | ((with_reducible apply Parts.mono h); decide)
    | with_reducible apply State.emit_keeps
    | with_reducible apply State.recover_keeps
    | with_reducible intro _
    | (extract_lets +onlyGivenNames x0; first
        | ((with_reducible refine (have hx0 : Keeps P s0 x0 := ?_; ?_)); (on_goal 2 => clear_value x0); (on_goal 1 => subst x0))
        | ((with_reducible have _x0 : Boot := x0); clear _x0; subst x0)
        | clear_value x0)
    | with_reducible apply Keeps.ite
    | split
    | with_reducible apply Keeps.upd
    | with_reducible apply Fuses.refl
    | ((with_reducible apply Fuses.mk) <;> first | exact fun l => ⟨l, Nat.le_refl _, Nat.le_refl _⟩ | exact fun o => ⟨o, rfl⟩ | exact Nat.le_refl _ | exact fun o => o)
    | ((with_reducible apply Or.inr); with_reducible rfl)
    | ((with_reducible apply Or.inl); exact h _ (by decide)))

theorem State.bootRun_keeps {P : Part → Bool} {s0 : State} (s : State) (h : Parts P [.out, .free, .now, .ft, .regs, .hbm, .ten, .tra, .mat, .wins, .grps, .xlt, .rte, .tcs, .lnk, .hst, .irc, .sem, .boot, .pwr, .flt, .evr, .cnt])
    (hs : Keeps P s0 s) : Keeps P s0 (State.bootRun s) := by
  unfold State.bootRun
  repeat' (first
    | with_reducible assumption
    | ((with_reducible apply Parts.mono h); decide)
    | with_reducible apply State.bootFirst_keeps
    | with_reducible apply State.bootGo_keeps
    | with_reducible intro _
    | split)

theorem State.bootTry_keeps {P : Part → Bool} {s0 : State} (s : State) (h : Parts P [.out, .free, .now, .ft, .regs, .hbm, .ten, .tra, .mat, .wins, .grps, .xlt, .rte, .tcs, .lnk, .hst, .irc, .sem, .boot, .pwr, .flt, .evr, .cnt])
    (hs : Keeps P s0 s) : Keeps P s0 (State.bootTry s) := by
  unfold State.bootTry
  repeat' (first
    | with_reducible assumption
    | ((with_reducible apply Parts.mono h); decide)
    | with_reducible apply State.pass_keeps
    | with_reducible apply State.bootRun_keeps
    | with_reducible intro _
    | with_reducible apply Keeps.ite
    | split)

theorem State.rise_keeps {P : Part → Bool} {s0 : State} (s : State) (bootSrc : Bool) (spanPos : BitVec 2) (h : Parts P [.out, .free, .now, .ft, .regs, .hbm, .ten, .tra, .mat, .wins, .grps, .xlt, .rte, .tcs, .lnk, .hst, .irc, .sem, .boot, .pwr, .flt, .evr, .cnt])
    (hs : Keeps P s0 s) : Keeps P s0 (State.rise s bootSrc spanPos) := by
  unfold State.rise
  repeat' (first
    | with_reducible assumption
    | ((with_reducible apply Parts.mono h); decide)
    | with_reducible apply State.wrF_keeps
    | with_reducible apply State.pass_keeps
    | with_reducible apply State.bootTry_keeps
    | with_reducible intro _
    | (extract_lets +onlyGivenNames x0; first
        | ((with_reducible refine (have hx0 : Keeps P s0 x0 := ?_; ?_)); (on_goal 2 => clear_value x0); (on_goal 1 => subst x0))
        | ((with_reducible have _x0 : Boot := x0); clear _x0; subst x0)
        | clear_value x0)
    | split
    | with_reducible apply Keeps.upd
    | with_reducible apply Fuses.refl
    | ((with_reducible apply Fuses.mk) <;> first | exact fun l => ⟨l, Nat.le_refl _, Nat.le_refl _⟩ | exact fun o => ⟨o, rfl⟩ | exact Nat.le_refl _ | exact fun o => o)
    | ((with_reducible apply Or.inr); with_reducible rfl)
    | ((with_reducible apply Or.inl); exact h _ (by decide)))

theorem State.pinsDown_keeps {P : Part → Bool} {s0 : State} (s : State) (h : Parts P [.out])
    (hs : Keeps P s0 s) : Keeps P s0 (State.pinsDown s) := by
  unfold State.pinsDown
  repeat' (first
    | with_reducible assumption
    | ((with_reducible apply Parts.mono h); decide)
    | with_reducible apply State.emit_keeps
    | with_reducible apply foldl_keeps
    | with_reducible apply foldl_keepsP
    | with_reducible intro _
    | (extract_lets +onlyGivenNames x0; first
        | ((with_reducible refine (have hx0 : Keeps P s0 x0 := ?_; ?_)); (on_goal 2 => clear_value x0); (on_goal 1 => subst x0))
        | ((with_reducible refine (have hx0 : KeepsP P s0 x0 := ?_; ?_)); (on_goal 2 => clear_value x0); (on_goal 1 => subst x0))
        | ((with_reducible have _x0 : Boot := x0); clear _x0; subst x0)
        | clear_value x0)
    | with_reducible apply Keeps.ite
    | split
    | with_reducible apply KeepsP.mk
    | (with_reducible apply KeepsP.of_eq (by with_reducible assumption))
    | with_reducible apply KeepsP.fst
    | beta_reduce)

theorem fallenBoot_fuses (b : Boot) (now : Nat) : Fuses b (fallenBoot b now) :=
  ⟨fun l => ⟨⟨Nat.le_refl _, l.2⟩, l.1, Nat.le_refl _⟩, fun o => ⟨o, rfl⟩, Nat.le_refl _, fun o => o⟩

theorem State.fall_keeps {P : Part → Bool} {s0 : State} (s : State) (h : Parts P [.out, .free, .now, .ft, .regs, .hbm, .ten, .tra, .mat, .wins, .grps, .xlt, .rte, .tcs, .lnk, .hst, .irc, .sem, .boot, .pwr, .flt, .evr, .cnt])
    (hs : Keeps P s0 s) : Keeps P s0 (State.fall s) := by
  unfold State.fall
  repeat' (first
    | with_reducible assumption
    | ((with_reducible apply Parts.mono h); decide)
    | with_reducible apply fallenBoot_fuses
    | with_reducible apply State.wrF_keeps
    | with_reducible apply State.keepRegs_keeps
    | with_reducible apply State.calSource_keeps
    | with_reducible apply State.wipe_keeps
    | with_reducible apply State.pinsDown_keeps
    | with_reducible apply foldl_keeps
    | with_reducible apply foldl_keepsP
    | with_reducible intro _
    | (extract_lets +onlyGivenNames x0; first
        | ((with_reducible refine (have hx0 : Keeps P s0 x0 := ?_; ?_)); (on_goal 2 => clear_value x0); (on_goal 1 => subst x0))
        | ((with_reducible refine (have hx0 : KeepsP P s0 x0 := ?_; ?_)); (on_goal 2 => clear_value x0); (on_goal 1 => subst x0))
        | ((with_reducible have _x0 : Boot := x0); clear _x0; subst x0)
        | clear_value x0)
    | with_reducible apply Keeps.ite
    | split
    | with_reducible apply KeepsP.mk
    | (with_reducible apply KeepsP.of_eq (by with_reducible assumption))
    | with_reducible apply KeepsP.fst
    | with_reducible apply Keeps.upd
    | with_reducible apply Fuses.refl
    | ((with_reducible apply Fuses.mk) <;> first | exact fun l => ⟨l, Nat.le_refl _, Nat.le_refl _⟩ | exact fun o => ⟨o, rfl⟩ | exact Nat.le_refl _ | exact fun o => o)
    | ((with_reducible apply Or.inr); with_reducible rfl)
    | ((with_reducible apply Or.inl); exact h _ (by decide))
    | beta_reduce)

theorem State.aoLoss_keeps {P : Part → Bool} {s0 : State} (s : State) (h : Parts P [.out, .free, .now, .ft, .regs, .hbm, .ten, .tra, .mat, .wins, .grps, .xlt, .rte, .tcs, .lnk, .hst, .irc, .sem, .boot, .pwr, .flt, .evr, .cnt])
    (hs : Keeps P s0 s) : Keeps P s0 (State.aoLoss s) := by
  unfold State.aoLoss
  repeat' (first
    | with_reducible assumption
    | ((with_reducible apply Parts.mono h); decide)
    | with_reducible apply State.keepRegs_keeps
    | with_reducible apply State.wipe_keeps
    | with_reducible apply State.fall_keeps
    | with_reducible intro _
    | (extract_lets +onlyGivenNames x0; first
        | ((with_reducible refine (have hx0 : Keeps P s0 x0 := ?_; ?_)); (on_goal 2 => clear_value x0); (on_goal 1 => subst x0))
        | ((with_reducible have _x0 : Boot := x0); clear _x0; subst x0)
        | clear_value x0)
    | with_reducible apply Keeps.ite
    | split
    | with_reducible apply Keeps.upd
    | with_reducible apply Fuses.refl
    | ((with_reducible apply Fuses.mk) <;> first | exact fun l => ⟨l, Nat.le_refl _, Nat.le_refl _⟩ | exact fun o => ⟨o, rfl⟩ | exact Nat.le_refl _ | exact fun o => o)
    | ((with_reducible apply Or.inr); with_reducible rfl)
    | ((with_reducible apply Or.inl); exact h _ (by decide))
    | beta_reduce)

end Sys2Proof.Machine
end

