-- ==== Sys2Proof/Laws/Faults.lean ====
section
/-! SUPPORT. What the operations of Machine/Faults.lean keep. -/

set_option linter.unusedTactic false
set_option linter.unreachableTactic false
set_option linter.unusedVariables false

namespace Sys2Proof.Machine

open Sys2Proof

theorem execCeOccurrence_keeps {P : Part → Bool} {s0 : State} (source : Nat) (detail : FaultDetail) (s : State) (h : Parts P [.regs, .rte, .lnk, .boot, .flt, .evr])
    (hs : Keeps P s0 s) : KeepsR P s0 (execCeOccurrence source detail s) := by
  unfold execCeOccurrence
  repeat' (first
    | with_reducible assumption
    | ((with_reducible apply Parts.mono h); decide)
    | with_reducible apply State.ceOccur_keeps
    | with_reducible apply KeepsR.next
    | with_reducible intro _
    | (extract_lets +onlyGivenNames x0; first
        | ((with_reducible refine (have hx0 : Keeps P s0 x0 := ?_; ?_)); (on_goal 2 => clear_value x0); (on_goal 1 => subst x0))
        | clear_value x0)
    | with_reducible apply KeepsR.ite
    | with_reducible apply Keeps.ite
    | split)

theorem execUcOccurrence_keeps {P : Part → Bool} {s0 : State} (source : Nat) (detail : FaultDetail) (s : State) (h : Parts P [.out, .free, .now, .ft, .regs, .hbm, .ten, .tra, .mat, .wins, .grps, .xlt, .rte, .lnk, .hst, .irc, .sem, .boot, .pwr, .flt, .evr])
    (hs : Keeps P s0 s) : KeepsR P s0 (execUcOccurrence source detail s) := by
  unfold execUcOccurrence
  repeat' (first
    | with_reducible assumption
    | ((with_reducible apply Parts.mono h); decide)
    | with_reducible apply State.hostLinkDown_keeps
    | with_reducible apply State.ucOccur_keeps
    | with_reducible apply KeepsR.next
    | with_reducible intro _
    | (extract_lets +onlyGivenNames x0; first
        | ((with_reducible refine (have hx0 : Keeps P s0 x0 := ?_; ?_)); (on_goal 2 => clear_value x0); (on_goal 1 => subst x0))
        | clear_value x0)
    | with_reducible apply KeepsR.ite
    | with_reducible apply Keeps.ite
    | split)

theorem execFtOccurrence_keeps {P : Part → Bool} {s0 : State} (source : Nat) (s : State) (h : Parts P [.out, .regs, .boot, .pwr, .flt, .evr])
    (hs : Keeps P s0 s) : KeepsR P s0 (execFtOccurrence source s) := by
  unfold execFtOccurrence
  repeat' (first
    | with_reducible assumption
    | ((with_reducible apply Parts.mono h); decide)
    | with_reducible apply State.ftRaise_keeps
    | with_reducible apply KeepsR.next
    | with_reducible intro _
    | with_reducible apply KeepsR.ite
    | with_reducible apply Keeps.ite
    | split)

theorem execCeWindowExpiry_keeps {P : Part → Bool} {s0 : State} (s : State) (h : Parts P [.now, .ft, .regs, .lnk, .pwr, .flt])
    (hs : Keeps P s0 s) : KeepsR P s0 (execCeWindowExpiry s) := by
  unfold execCeWindowExpiry
  repeat' (first
    | with_reducible assumption
    | ((with_reducible apply Parts.mono h); decide)
    | with_reducible apply State.passTo_keeps
    | with_reducible apply KeepsR.next
    | with_reducible intro _
    | (extract_lets +onlyGivenNames x0; first
        | ((with_reducible refine (have hx0 : Keeps P s0 x0 := ?_; ?_)); (on_goal 2 => clear_value x0); (on_goal 1 => subst x0))
        | ((with_reducible have _x0 : Boot := x0); clear _x0; subst x0)
        | clear_value x0)
    | with_reducible apply KeepsR.ite
    | with_reducible apply Keeps.ite
    | split
    | with_reducible apply Keeps.upd
    | with_reducible apply Fuses.refl
    | ((with_reducible apply Fuses.mk) <;> first | exact fun l => ⟨l, Nat.le_refl _, Nat.le_refl _⟩ | exact fun o => ⟨o, rfl⟩ | exact Nat.le_refl _ | exact fun o => o)
    | ((with_reducible apply Or.inr); with_reducible rfl)
    | ((with_reducible apply Or.inl); exact h _ (by decide)))

theorem execFaultPendClear_keeps {P : Part → Bool} {s0 : State} (rid : Nat) (k : Nat) (val : Word) (s : State) (h : Parts P [.regs, .boot, .evr])
    (hs : Keeps P s0 s) : KeepsR P s0 (execFaultPendClear rid k val s) := by
  unfold execFaultPendClear
  repeat' (first
    | with_reducible assumption
    | ((with_reducible apply Parts.mono h); decide)
    | with_reducible apply State.viaReg_keeps
    | with_reducible apply State.pendWrite_keeps
    | with_reducible apply KeepsR.next
    | with_reducible intro _
    | with_reducible apply KeepsR.ite
    | with_reducible apply Keeps.ite
    | split
    | beta_reduce)

theorem execFaultForce_keeps {P : Part → Bool} {s0 : State} (rid : Nat) (source : Nat) (val : Word) (s : State) (h : Parts P [.out, .free, .now, .ft, .regs, .hbm, .ten, .tra, .mat, .wins, .grps, .xlt, .rte, .lnk, .hst, .irc, .sem, .boot, .pwr, .flt, .evr])
    (hs : Keeps P s0 s) : KeepsR P s0 (execFaultForce rid source val s) := by
  unfold execFaultForce
  repeat' (first
    | with_reducible assumption
    | ((with_reducible apply Parts.mono h); decide)
    | with_reducible apply State.viaReg_keeps
    | with_reducible apply State.srcWrite_keeps
    | with_reducible apply KeepsR.next
    | with_reducible intro _
    | with_reducible apply KeepsR.ite
    | with_reducible apply Keeps.ite
    | split
    | beta_reduce)

theorem execBankRepairComplete_keeps {P : Part → Bool} {s0 : State} (bank : Nat) (copyUs : Nat) (s : State) (h : Parts P [.boot, .flt, .evr])
    (hs : Keeps P s0 s) : KeepsR P s0 (execBankRepairComplete bank copyUs s) := by
  unfold execBankRepairComplete
  repeat' (first
    | with_reducible assumption
    | ((with_reducible apply Parts.mono h); decide)
    | with_reducible apply State.setSpare_keeps
    | with_reducible apply State.repairRec_keeps
    | with_reducible apply KeepsR.next
    | with_reducible intro _
    | (extract_lets +onlyGivenNames x0; first
        | ((with_reducible refine (have hx0 : Keeps P s0 x0 := ?_; ?_)); (on_goal 2 => clear_value x0); (on_goal 1 => subst x0))
        | ((with_reducible have _x0 : _ → _ := x0); clear _x0; subst x0; beta_reduce)
        | clear_value x0)
    | with_reducible apply KeepsR.ite
    | with_reducible apply Keeps.ite
    | split
    | with_reducible apply Keeps.upd
    | with_reducible apply Fuses.refl
    | ((with_reducible apply Or.inr); with_reducible rfl)
    | ((with_reducible apply Or.inl); exact h _ (by decide))
    | beta_reduce)

theorem execHbmRebuildComplete_keeps {P : Part → Bool} {s0 : State} (iface : Nat) (copyUs : Nat) (s : State) (h : Parts P [.regs, .boot, .flt, .evr])
    (hs : Keeps P s0 s) : KeepsR P s0 (execHbmRebuildComplete iface copyUs s) := by
  unfold execHbmRebuildComplete
  repeat' (first
    | with_reducible assumption
    | ((with_reducible apply Parts.mono h); decide)
    | with_reducible apply State.wrF_keeps
    | with_reducible apply State.repairRec_keeps
    | with_reducible apply KeepsR.next
    | with_reducible intro _
    | (extract_lets +onlyGivenNames x0; first
        | ((with_reducible refine (have hx0 : Keeps P s0 x0 := ?_; ?_)); (on_goal 2 => clear_value x0); (on_goal 1 => subst x0))
        | clear_value x0)
    | with_reducible apply KeepsR.ite
    | with_reducible apply Keeps.ite
    | split
    | with_reducible apply Keeps.upd
    | with_reducible apply Fuses.refl
    | ((with_reducible apply Or.inr); with_reducible rfl)
    | ((with_reducible apply Or.inl); exact h _ (by decide)))

theorem execHeartbeatTimeout_keeps {P : Part → Bool} {s0 : State} (core : Nat) (s : State) (h : Parts P [.out, .free, .now, .ft, .regs, .hbm, .ten, .tra, .mat, .wins, .grps, .xlt, .rte, .lnk, .hst, .irc, .sem, .boot, .pwr, .flt, .evr])
    (hs : Keeps P s0 s) : KeepsR P s0 (execHeartbeatTimeout core s) := by
  unfold execHeartbeatTimeout
  repeat' (first
    | with_reducible assumption
    | ((with_reducible apply Parts.mono h); decide)
    | with_reducible apply State.ucOccur_keeps
    | with_reducible apply KeepsR.next
    | with_reducible intro _
    | with_reducible apply KeepsR.ite
    | with_reducible apply Keeps.ite
    | split)

theorem execCoreReloadComplete_keeps {P : Part → Bool} {s0 : State} (core : Nat) (s : State) (h : Parts P [.regs])
    (hs : Keeps P s0 s) : KeepsR P s0 (execCoreReloadComplete core s) := by
  unfold execCoreReloadComplete
  repeat' (first
    | with_reducible assumption
    | ((with_reducible apply Parts.mono h); decide)
    | with_reducible apply State.wrF_keeps
    | with_reducible apply KeepsR.next
    | with_reducible intro _
    | (extract_lets +onlyGivenNames x0; first
        | ((with_reducible refine (have hx0 : Keeps P s0 x0 := ?_; ?_)); (on_goal 2 => clear_value x0); (on_goal 1 => subst x0))
        | clear_value x0)
    | with_reducible apply KeepsR.ite
    | with_reducible apply Keeps.ite
    | split)

theorem execAliveToggle_keeps {P : Part → Bool} {s0 : State} (s : State) (h : Parts P [.out, .now, .ft, .regs, .lnk, .pwr, .flt])
    (hs : Keeps P s0 s) : KeepsR P s0 (execAliveToggle s) := by
  unfold execAliveToggle
  repeat' (first
    | with_reducible assumption
    | ((with_reducible apply Parts.mono h); decide)
    | with_reducible apply State.emit_keeps
    | with_reducible apply State.passTo_keeps
    | with_reducible apply KeepsR.next
    | with_reducible intro _
    | (extract_lets +onlyGivenNames x0; first
        | ((with_reducible refine (have hx0 : Keeps P s0 x0 := ?_; ?_)); (on_goal 2 => clear_value x0); (on_goal 1 => subst x0))
        | ((with_reducible have _x0 : Boot := x0); clear _x0; subst x0)
        | clear_value x0)
    | with_reducible apply KeepsR.ite
    | with_reducible apply Keeps.ite
    | split
    | with_reducible apply Keeps.upd
    | with_reducible apply Fuses.refl
    | ((with_reducible apply Fuses.mk) <;> first | exact fun l => ⟨l, Nat.le_refl _, Nat.le_refl _⟩ | exact fun o => ⟨o, rfl⟩ | exact Nat.le_refl _ | exact fun o => o)
    | ((with_reducible apply Or.inr); with_reducible rfl)
    | ((with_reducible apply Or.inl); exact h _ (by decide)))

end Sys2Proof.Machine
end

