-- ==== Sys2Proof/Laws/Inspect.lean ====
section
/-! SUPPORT. What the operations of Machine/Inspect.lean keep. -/

set_option linter.unusedTactic false
set_option linter.unreachableTactic false
set_option linter.unusedVariables false

namespace Sys2Proof.Machine

open Sys2Proof

theorem State.insEnd_keeps {P : Part → Bool} {s0 : State} (s : State) (w : Nat) (status : Nat) (h : Parts P [.regs])
    (hs : Keeps P s0 s) : Keeps P s0 (State.insEnd s w status) := by
  unfold State.insEnd
  repeat' (first
    | with_reducible assumption
    | ((with_reducible apply Parts.mono h); decide)
    | with_reducible apply State.wrFs_keeps
    | with_reducible intro _
    | split)

theorem State.insWrite_keeps {P : Part → Bool} {s0 : State} (s : State) (rid : Nat) (w : Nat) (val : Word) (h : Parts P [.regs])
    (hs : Keeps P s0 s) : Keeps P s0 (State.insWrite s rid w val) := by
  unfold State.insWrite
  repeat' (first
    | with_reducible assumption
    | ((with_reducible apply Parts.mono h); decide)
    | with_reducible apply State.wrFs_keeps
    | with_reducible apply State.insEnd_keeps
    | with_reducible intro _
    | (extract_lets +onlyGivenNames x0; first
        | ((with_reducible refine (have hx0 : Keeps P s0 x0 := ?_; ?_)); (on_goal 2 => clear_value x0); (on_goal 1 => subst x0))
        | clear_value x0)
    | with_reducible apply Keeps.ite
    | split
    | with_reducible apply Keeps.upd
    | with_reducible apply Fuses.refl
    | ((with_reducible apply Or.inr); with_reducible rfl)
    | ((with_reducible apply Or.inl); exact h _ (by decide)))

theorem execInspectStart_keeps {P : Part → Bool} {s0 : State} (rid : Nat) (window : Nat) (val : Word) (s : State) (h : Parts P [.regs])
    (hs : Keeps P s0 s) : KeepsR P s0 (execInspectStart rid window val s) := by
  unfold execInspectStart
  repeat' (first
    | with_reducible assumption
    | ((with_reducible apply Parts.mono h); decide)
    | with_reducible apply State.viaReg_keeps
    | with_reducible apply State.insWrite_keeps
    | with_reducible apply KeepsR.next
    | with_reducible intro _
    | with_reducible apply KeepsR.ite
    | with_reducible apply Keeps.ite
    | split
    | beta_reduce)

theorem execInspectComplete_keeps {P : Part → Bool} {s0 : State} (window : Nat) (s : State) (h : Parts P [.free, .regs, .rte])
    (hs : Keeps P s0 s) : KeepsR P s0 (execInspectComplete window s) := by
  unfold execInspectComplete
  repeat' (first
    | with_reducible assumption
    | ((with_reducible apply Parts.mono h); decide)
    | with_reducible apply State.wr_keeps
    | with_reducible apply State.wrFs_keeps
    | with_reducible apply State.copyGo_keeps
    | with_reducible apply State.insEnd_keeps
    | with_reducible apply KeepsR.next
    | with_reducible apply foldl_keeps
    | with_reducible apply foldl_keepsP
    | with_reducible intro _
    | (extract_lets +onlyGivenNames x0; first
        | ((with_reducible refine (have hx0 : Keeps P s0 x0 := ?_; ?_)); (on_goal 2 => clear_value x0); (on_goal 1 => subst x0))
        | ((with_reducible refine (have hx0 : KeepsP P s0 x0 := ?_; ?_)); (on_goal 2 => clear_value x0); (on_goal 1 => subst x0))
        | clear_value x0)
    | with_reducible apply KeepsR.ite
    | with_reducible apply Keeps.ite
    | split
    | with_reducible apply KeepsP.mk
    | (with_reducible apply KeepsP.of_eq (by with_reducible assumption))
    | with_reducible apply KeepsP.fst
    | with_reducible apply Keeps.upd
    | with_reducible apply Fuses.refl
    | ((with_reducible apply Or.inr); with_reducible rfl)
    | ((with_reducible apply Or.inl); exact h _ (by decide))
    | beta_reduce)

end Sys2Proof.Machine
end

