-- ==== Sys2Proof/Laws/Irc.lean ====
section
/-! SUPPORT. What the operations of Machine/Irc.lean keep. -/

set_option linter.unusedTactic false
set_option linter.unreachableTactic false
set_option linter.unusedVariables false

namespace Sys2Proof.Machine

open Sys2Proof

theorem execIrcSourceRise_keeps {P : Part → Bool} {s0 : State} (source : Nat) (s : State) (h : Parts P [.out, .regs, .ten, .irc])
    (hs : Keeps P s0 s) : KeepsR P s0 (execIrcSourceRise source s) := by
  unfold execIrcSourceRise
  repeat' (first
    | with_reducible assumption
    | ((with_reducible apply Parts.mono h); decide)
    | with_reducible apply State.resample_keeps
    | with_reducible apply KeepsR.next
    | with_reducible apply foldl_keeps
    | with_reducible apply foldl_keepsP
    | with_reducible intro _
    | with_reducible apply KeepsR.ite
    | with_reducible apply Keeps.ite
    | split
    | with_reducible apply KeepsP.mk
    | (with_reducible apply KeepsP.of_eq (by with_reducible assumption))
    | with_reducible apply KeepsP.fst
    | beta_reduce)

theorem execIrcWindowEnd_keeps {P : Part → Bool} {s0 : State} (target : Nat) (s : State) (h : Parts P [.out, .now, .ft, .regs, .ten, .lnk, .irc, .pwr])
    (hs : Keeps P s0 s) : KeepsR P s0 (execIrcWindowEnd target s) := by
  unfold execIrcWindowEnd
  repeat' (first
    | with_reducible assumption
    | ((with_reducible apply Parts.mono h); decide)
    | with_reducible apply State.wrF_keeps
    | with_reducible apply State.passTo_keeps
    | with_reducible apply State.resample_keeps
    | with_reducible apply KeepsR.next
    | with_reducible intro _
    | (extract_lets +onlyGivenNames x0; first
        | ((with_reducible refine (have hx0 : Keeps P s0 x0 := ?_; ?_)); (on_goal 2 => clear_value x0); (on_goal 1 => subst x0))
        | clear_value x0)
    | split
    | with_reducible apply Keeps.upd
    | with_reducible apply Fuses.refl
    | ((with_reducible apply Or.inr); with_reducible rfl)
    | ((with_reducible apply Or.inl); exact h _ (by decide)))

theorem State.ircClaim_keeps {P : Part → Bool} {s0 : State} (s : State) (rid : Nat) (target : Nat) (bytes : Nat) (h : Parts P [.out, .regs, .irc])
    (hs : Keeps P s0 s) : Keeps P s0 (State.ircClaim s rid target bytes) := by
  unfold State.ircClaim
  repeat' (first
    | with_reducible assumption
    | ((with_reducible apply Parts.mono h); decide)
    | with_reducible apply State.emit_keeps
    | with_reducible apply State.accessErr_keeps
    | with_reducible intro _
    | (extract_lets +onlyGivenNames x0; first
        | ((with_reducible refine (have hx0 : Keeps P s0 x0 := ?_; ?_)); (on_goal 2 => clear_value x0); (on_goal 1 => subst x0))
        | clear_value x0)
    | split
    | with_reducible apply Keeps.upd
    | with_reducible apply Fuses.refl
    | ((with_reducible apply Or.inr); with_reducible rfl)
    | ((with_reducible apply Or.inl); exact h _ (by decide)))

theorem execIrcClaim_keeps {P : Part → Bool} {s0 : State} (rid : Nat) (target : Nat) (s : State) (h : Parts P [.out, .regs, .irc])
    (hs : Keeps P s0 s) : KeepsR P s0 (execIrcClaim rid target s) := by
  unfold execIrcClaim
  repeat' (first
    | with_reducible assumption
    | ((with_reducible apply Parts.mono h); decide)
    | with_reducible apply State.ircClaim_keeps
    | with_reducible apply KeepsR.next
    | with_reducible intro _
    | with_reducible apply KeepsR.ite
    | with_reducible apply Keeps.ite
    | split)

theorem execIrcEoi_keeps {P : Part → Bool} {s0 : State} (rid : Nat) (target : Nat) (val : Word) (s : State) (h : Parts P [.out, .regs, .ten, .irc])
    (hs : Keeps P s0 s) : KeepsR P s0 (execIrcEoi rid target val s) := by
  unfold execIrcEoi
  repeat' (first
    | with_reducible assumption
    | ((with_reducible apply Parts.mono h); decide)
    | with_reducible apply State.viaReg_keeps
    | with_reducible apply State.resample_keeps
    | with_reducible apply KeepsR.next
    | with_reducible intro _
    | (extract_lets +onlyGivenNames x0; first
        | ((with_reducible refine (have hx0 : Keeps P s0 x0 := ?_; ?_)); (on_goal 2 => clear_value x0); (on_goal 1 => subst x0))
        | clear_value x0)
    | with_reducible apply KeepsR.ite
    | with_reducible apply Keeps.ite
    | split
    | with_reducible apply Keeps.upd
    | with_reducible apply Fuses.refl
    | ((with_reducible apply Or.inr); with_reducible rfl)
    | ((with_reducible apply Or.inl); exact h _ (by decide))
    | beta_reduce)

theorem execIrcConfigWrite_keeps {P : Part → Bool} {s0 : State} (rid : Nat) (off : Nat) (val : Word) (s : State) (h : Parts P [.out, .regs, .ten, .irc])
    (hs : Keeps P s0 s) : KeepsR P s0 (execIrcConfigWrite rid off val s) := by
  unfold execIrcConfigWrite
  repeat' (first
    | with_reducible assumption
    | ((with_reducible apply Parts.mono h); decide)
    | with_reducible apply State.wrFs_keeps
    | with_reducible apply State.viaReg_keeps
    | with_reducible apply State.resample_keeps
    | with_reducible apply KeepsR.next
    | with_reducible apply foldl_keeps
    | with_reducible apply foldl_keepsP
    | with_reducible intro _
    | (extract_lets +onlyGivenNames x0; first
        | ((with_reducible refine (have hx0 : Keeps P s0 x0 := ?_; ?_)); (on_goal 2 => clear_value x0); (on_goal 1 => subst x0))
        | ((with_reducible refine (have hx0 : KeepsP P s0 x0 := ?_; ?_)); (on_goal 2 => clear_value x0); (on_goal 1 => subst x0))
        | clear_value x0)
    | with_reducible apply KeepsR.ite
    | with_reducible apply Keeps.ite
    | split
    | with_reducible apply KeepsP.mk
    | (with_reducible apply KeepsP.of_eq (by with_reducible assumption))
    | with_reducible apply KeepsP.fst
    | beta_reduce)

end Sys2Proof.Machine
end

