-- ==== Sys2Proof/Laws/Link.lean ====
section
/-! SUPPORT. What the operations of Machine/Link.lean keep. -/

set_option linter.unusedTactic false
set_option linter.unreachableTactic false
set_option linter.unusedVariables false

namespace Sys2Proof.Machine

open Sys2Proof

theorem State.tryHand_keeps {P : Part → Bool} {s0 : State} (s : State) (p : Nat) (h : Parts P [.out, .lnk])
    (hs : Keeps P s0 s) : Keeps P s0 (State.tryHand s p) := by
  unfold State.tryHand
  repeat' (first
    | with_reducible assumption
    | ((with_reducible apply Parts.mono h); decide)
    | with_reducible apply State.laneHand_keeps
    | with_reducible intro _
    | (extract_lets +onlyGivenNames x0; first
        | ((with_reducible refine (have hx0 : Keeps P s0 x0 := ?_; ?_)); (on_goal 2 => clear_value x0); (on_goal 1 => subst x0))
        | clear_value x0)
    | with_reducible apply Keeps.ite
    | split
    | with_reducible apply Keeps.upd
    | with_reducible apply Fuses.refl
    | ((with_reducible apply Or.inr); with_reducible rfl)
    | ((with_reducible apply Or.inl); exact h _ (by decide)))

theorem State.startReplay_keeps {P : Part → Bool} {s0 : State} (s : State) (p : Nat) (kind : Nat) (h : Parts P [.regs, .lnk, .boot, .flt, .evr])
    (hs : Keeps P s0 s) : Keeps P s0 (State.startReplay s p kind) := by
  unfold State.startReplay
  repeat' (first
    | with_reducible assumption
    | ((with_reducible apply Parts.mono h); decide)
    | with_reducible apply State.ceRaise_keeps
    | with_reducible apply State.updP_keeps
    | with_reducible apply State.reqOwn_keeps
    | with_reducible apply State.lnkCount_keeps
    | with_reducible intro _
    | (extract_lets +onlyGivenNames x0; first
        | ((with_reducible refine (have hx0 : Keeps P s0 x0 := ?_; ?_)); (on_goal 2 => clear_value x0); (on_goal 1 => subst x0))
        | ((with_reducible refine (have hx0 : KeepsP P s0 x0 := ?_; ?_)); (on_goal 2 => clear_value x0); (on_goal 1 => subst x0))
        | clear_value x0)
    | with_reducible apply Keeps.ite
    | split
    | with_reducible apply KeepsP.mk
    | (with_reducible apply KeepsP.of_eq (by with_reducible assumption))
    | with_reducible apply KeepsP.fst
    | with_reducible apply Keeps.upd
    | with_reducible apply Fuses.refl
    | ((with_reducible apply Or.inr); with_reducible rfl)
    | ((with_reducible apply Or.inl); exact h _ (by decide))
    | beta_reduce)

theorem State.changeDone_keeps {P : Part → Bool} {s0 : State} (s : State) (p : Nat) (c : Change) (h : Parts P [.regs, .lnk, .boot, .evr])
    (hs : Keeps P s0 s) : Keeps P s0 (State.changeDone s p c) := by
  unfold State.changeDone
  repeat' (first
    | with_reducible assumption
    | ((with_reducible apply Parts.mono h); decide)
    | with_reducible apply State.wrF_keeps
    | with_reducible apply State.wrFs_keeps
    | with_reducible apply State.note_keeps
    | with_reducible apply State.updX_keeps
    | with_reducible apply State.nowUp_keeps
    | with_reducible intro _
    | (extract_lets +onlyGivenNames x0; first
        | ((with_reducible refine (have hx0 : Keeps P s0 x0 := ?_; ?_)); (on_goal 2 => clear_value x0); (on_goal 1 => subst x0))
        | clear_value x0)
    | with_reducible apply Keeps.ite
    | split
    | with_reducible apply Keeps.upd
    | with_reducible apply Fuses.refl
    | ((with_reducible apply Or.inr); with_reducible rfl)
    | ((with_reducible apply Or.inl); exact h _ (by decide))
    | beta_reduce)

theorem State.startAck_keeps {P : Part → Bool} {s0 : State} (s : State) (p : Nat) (a : BitVec 12) (h : Parts P [.lnk])
    (hs : Keeps P s0 s) : Keeps P s0 (State.startAck s p a) := by
  unfold State.startAck
  repeat' (first
    | with_reducible assumption
    | ((with_reducible apply Parts.mono h); decide)
    | with_reducible apply State.updP_keeps
    | with_reducible intro _
    | (extract_lets +onlyGivenNames x0; first
        | ((with_reducible refine (have hx0 : Keeps P s0 x0 := ?_; ?_)); (on_goal 2 => clear_value x0); (on_goal 1 => subst x0))
        | clear_value x0)
    | with_reducible apply Keeps.ite
    | split
    | with_reducible apply Keeps.upd
    | with_reducible apply Fuses.refl
    | ((with_reducible apply Or.inr); with_reducible rfl)
    | ((with_reducible apply Or.inl); exact h _ (by decide))
    | beta_reduce)

theorem State.useTrailer_keeps {P : Part → Bool} {s0 : State} (s : State) (p : Nat) (t : Trailer) (h : Parts P [.out, .free, .regs, .ten, .tra, .mat, .wins, .grps, .xlt, .rte, .lnk, .boot, .pwr, .flt, .evr])
    (hs : Keeps P s0 s) : Keeps P s0 (State.useTrailer s p t) := by
  unfold State.useTrailer
  repeat' (first
    | with_reducible assumption
    | ((with_reducible apply Parts.mono h); decide)
    | with_reducible apply State.nak_keeps
    | with_reducible apply State.updP_keeps
    | with_reducible apply State.creditAdd_keeps
    | with_reducible apply State.portBreak_keeps
    | with_reducible apply State.tryHand_keeps
    | with_reducible apply State.startReplay_keeps
    | with_reducible apply State.changeDone_keeps
    | with_reducible apply State.startAck_keeps
    | with_reducible apply foldl_keeps
    | with_reducible apply foldl_keepsP
    | with_reducible intro _
    | (extract_lets +onlyGivenNames x0; first
        | ((with_reducible refine (have hx0 : Keeps P s0 x0 := ?_; ?_)); (on_goal 2 => clear_value x0); (on_goal 1 => subst x0))
        | ((with_reducible refine (have hx0 : KeepsP P s0 x0 := ?_; ?_)); (on_goal 2 => clear_value x0); (on_goal 1 => subst x0))
        | clear_value x0)
    | with_reducible apply Keeps.ite
    | with_reducible apply KeepsO.getD
    | split
    | with_reducible apply KeepsP.mk
    | (with_reducible apply KeepsP.of_eq (by with_reducible assumption))
    | with_reducible apply KeepsP.fst
    | with_reducible apply Keeps.upd
    | with_reducible apply Fuses.refl
    | ((with_reducible apply Or.inr); with_reducible rfl)
    | ((with_reducible apply Or.inl); exact h _ (by decide))
    | beta_reduce)

theorem State.badBlock_keeps {P : Part → Bool} {s0 : State} (s : State) (p : Nat) (blamed : BitVec 4) (h : Parts P [.out, .free, .regs, .ten, .tra, .mat, .wins, .grps, .xlt, .rte, .lnk, .boot, .pwr, .flt, .evr])
    (hs : Keeps P s0 s) : Keeps P s0 (State.badBlock s p blamed) := by
  unfold State.badBlock
  repeat' (first
    | with_reducible assumption
    | ((with_reducible apply Parts.mono h); decide)
    | with_reducible apply State.lifeAdd_keeps
    | with_reducible apply State.nak_keeps
    | with_reducible apply State.updP_keeps
    | with_reducible apply State.lnkCount_keeps
    | with_reducible apply State.blame_keeps
    | with_reducible apply foldl_keeps
    | with_reducible apply foldl_keepsP
    | with_reducible intro _
    | (extract_lets +onlyGivenNames x0; first
        | ((with_reducible refine (have hx0 : Keeps P s0 x0 := ?_; ?_)); (on_goal 2 => clear_value x0); (on_goal 1 => subst x0))
        | ((with_reducible refine (have hx0 : KeepsP P s0 x0 := ?_; ?_)); (on_goal 2 => clear_value x0); (on_goal 1 => subst x0))
        | clear_value x0)
    | with_reducible apply Keeps.ite
    | split
    | with_reducible apply KeepsP.mk
    | (with_reducible apply KeepsP.of_eq (by with_reducible assumption))
    | with_reducible apply KeepsP.fst
    | with_reducible apply Keeps.upd
    | with_reducible apply Fuses.refl
    | ((with_reducible apply Or.inr); with_reducible rfl)
    | ((with_reducible apply Or.inl); exact h _ (by decide))
    | beta_reduce)

theorem State.markMiss_keeps {P : Part → Bool} {s0 : State} (s : State) (p : Nat) (lane : Nat) (bad : Bool) (h : Parts P [.lnk])
    (hs : Keeps P s0 s) : Keeps P s0 (State.markMiss s p lane bad) := by
  unfold State.markMiss
  repeat' (first
    | with_reducible assumption
    | ((with_reducible apply Parts.mono h); decide)
    | with_reducible apply State.updX_keeps
    | with_reducible intro _
    | (extract_lets +onlyGivenNames x0; first
        | ((with_reducible refine (have hx0 : Keeps P s0 x0 := ?_; ?_)); (on_goal 2 => clear_value x0); (on_goal 1 => subst x0))
        | clear_value x0)
    | with_reducible apply Keeps.ite
    | with_reducible apply KeepsO.getD
    | split
    | with_reducible apply Keeps.upd
    | with_reducible apply Fuses.refl
    | ((with_reducible apply Or.inr); with_reducible rfl)
    | ((with_reducible apply Or.inl); exact h _ (by decide))
    | beta_reduce)

theorem State.markerSeen_keeps {P : Part → Bool} {s0 : State} (s : State) (p : Nat) (n : Nat) (w : Nat) (lane : Nat) (j : Nat) (m : Option (BitVec 120)) (h : Parts P [.regs, .lnk])
    (hs : Keeps P s0 s) : Keeps P s0 (State.markerSeen s p n w lane j m) := by
  have w := fun v : Nat => State.wrF_keeps (P := P) (s0 := s0) s (R.LAN_STAT (4 * p + lane)) F.LAN_STAT_ORDER_ERR v (h.mono (by decide)) hs
  unfold State.markerSeen
  split
  · exact hs
  · split
    · exact hs
    · refine State.markMiss_keeps _ p lane _ (h.mono (by decide)) ?_
      split
      · split
        · exact w _
        · exact hs
      · exact hs


theorem State.codeword_keeps {P : Part → Bool} {s0 : State} (s : State) (p : Nat) (lane : Nat) (c : Option Nat) (h : Parts P [.out, .free, .regs, .ten, .tra, .mat, .wins, .grps, .xlt, .rte, .lnk, .boot, .pwr, .flt, .evr])
    (hs : Keeps P s0 s) : Keeps P s0 (State.codeword s p lane c) := by
  unfold State.codeword
  repeat' (first
    | with_reducible assumption
    | ((with_reducible apply Parts.mono h); decide)
    | with_reducible apply State.bump_keeps
    | with_reducible apply State.updX_keeps
    | with_reducible apply State.ceRaise_keeps
    | with_reducible apply State.blame_keeps
    | with_reducible intro _
    | (extract_lets +onlyGivenNames x0; first
        | ((with_reducible refine (have hx0 : Keeps P s0 x0 := ?_; ?_)); (on_goal 2 => clear_value x0); (on_goal 1 => subst x0))
        | ((with_reducible refine (have hx0 : KeepsP P s0 x0 := ?_; ?_)); (on_goal 2 => clear_value x0); (on_goal 1 => subst x0))
        | clear_value x0)
    | with_reducible apply Keeps.ite
    | with_reducible apply KeepsO.getD
    | split
    | with_reducible apply KeepsP.mk
    | (with_reducible apply KeepsP.of_eq (by with_reducible assumption))
    | with_reducible apply KeepsP.fst
    | with_reducible apply Keeps.upd
    | with_reducible apply Fuses.refl
    | ((with_reducible apply Or.inr); with_reducible rfl)
    | ((with_reducible apply Or.inl); exact h _ (by decide))
    | beta_reduce)

theorem State.fecForget_keeps {P : Part → Bool} {s0 : State} (s : State) (p : Nat) (n : Nat) (h : Parts P [.lnk])
    (hs : Keeps P s0 s) : Keeps P s0 (State.fecForget s p n) := by
  unfold State.fecForget
  repeat' (first
    | with_reducible assumption
    | ((with_reducible apply Parts.mono h); decide)
    | with_reducible apply State.updX_keeps
    | with_reducible intro _
    | (extract_lets +onlyGivenNames x0; first
        | ((with_reducible refine (have hx0 : Keeps P s0 x0 := ?_; ?_)); (on_goal 2 => clear_value x0); (on_goal 1 => subst x0))
        | clear_value x0)
    | split
    | with_reducible apply Keeps.upd
    | with_reducible apply Fuses.refl
    | ((with_reducible apply Or.inr); with_reducible rfl)
    | ((with_reducible apply Or.inl); exact h _ (by decide))
    | beta_reduce)

theorem State.lanesReport_keeps {P : Part → Bool} {s0 : State} (s : State) (p : Nat) (n : Nat) (rx : List LaneRx) (h : Parts P [.out, .free, .regs, .ten, .tra, .mat, .wins, .grps, .xlt, .rte, .lnk, .boot, .pwr, .flt, .evr])
    (hs : Keeps P s0 s) : Keeps P s0 (State.lanesReport s p n rx) := by
  unfold State.lanesReport
  repeat' (first
    | with_reducible assumption
    | ((with_reducible apply Parts.mono h); decide)
    | with_reducible apply State.updX_keeps
    | with_reducible apply State.lanesLost_keeps
    | with_reducible apply State.markerSeen_keeps
    | with_reducible apply State.codeword_keeps
    | with_reducible apply foldl_keeps
    | with_reducible apply foldl_keepsP
    | with_reducible intro _
    | (extract_lets +onlyGivenNames x0; first
        | ((with_reducible refine (have hx0 : Keeps P s0 x0 := ?_; ?_)); (on_goal 2 => clear_value x0); (on_goal 1 => subst x0))
        | ((with_reducible refine (have hx0 : KeepsP P s0 x0 := ?_; ?_)); (on_goal 2 => clear_value x0); (on_goal 1 => subst x0))
        | ((with_reducible have _x0 : _ → _ := x0); clear _x0; subst x0; beta_reduce)
        | clear_value x0)
    | with_reducible apply Keeps.ite
    | with_reducible apply KeepsO.getD
    | split
    | with_reducible apply KeepsP.mk
    | (with_reducible apply KeepsP.of_eq (by with_reducible assumption))
    | with_reducible apply KeepsP.fst
    | with_reducible apply Keeps.upd
    | with_reducible apply Fuses.refl
    | ((with_reducible apply Or.inr); with_reducible rfl)
    | ((with_reducible apply Or.inl); exact h _ (by decide))
    | beta_reduce)

theorem State.laneErrs_keeps {P : Part → Bool} {s0 : State} (s : State) (p : Nat) (ls : List Nat) (h : Parts P [.regs])
    (hs : Keeps P s0 s) : Keeps P s0 (State.laneErrs s p ls) := by
  unfold State.laneErrs
  repeat' (first
    | with_reducible assumption
    | ((with_reducible apply Parts.mono h); decide)
    | with_reducible apply State.bump_keeps
    | with_reducible apply foldl_keeps
    | with_reducible apply foldl_keepsP
    | with_reducible intro _
    | split
    | with_reducible apply KeepsP.mk
    | (with_reducible apply KeepsP.of_eq (by with_reducible assumption))
    | with_reducible apply KeepsP.fst
    | beta_reduce)

theorem State.rxWake_keeps {P : Part → Bool} {s0 : State} (s : State) (p : Nat) (h : Parts P [.regs, .lnk])
    (hs : Keeps P s0 s) : Keeps P s0 (State.rxWake s p) := by
  unfold State.rxWake
  repeat' (first
    | with_reducible assumption
    | ((with_reducible apply Parts.mono h); decide)
    | with_reducible apply State.wrF_keeps
    | with_reducible apply State.updX_keeps
    | with_reducible intro _
    | (extract_lets +onlyGivenNames x0; first
        | ((with_reducible refine (have hx0 : Keeps P s0 x0 := ?_; ?_)); (on_goal 2 => clear_value x0); (on_goal 1 => subst x0))
        | clear_value x0)
    | with_reducible apply Keeps.ite
    | split
    | with_reducible apply Keeps.upd
    | with_reducible apply Fuses.refl
    | ((with_reducible apply Or.inr); with_reducible rfl)
    | ((with_reducible apply Or.inl); exact h _ (by decide))
    | beta_reduce)

theorem State.rowsIn_keeps {P : Part → Bool} {s0 : State} (s : State) (p : Nat) (rows : List Row10) (h : Parts P [.lnk])
    (hs : Keeps P s0 s) : Keeps P s0 (State.rowsIn s p rows).2 := by
  unfold State.rowsIn
  extract_lets r
  dsimp only
  exact State.updX_keeps s p (fun x => { x with rxRd := r.2 }) h hs


theorem State.comRow_keeps {P : Part → Bool} {s0 : State} (s : State) (p : Nat) (n : Nat) (com : Option Row10) (h : Parts P [.out, .free, .regs, .ten, .tra, .mat, .wins, .grps, .xlt, .rte, .lnk, .boot, .pwr, .flt, .evr])
    (hs : Keeps P s0 s) : Keeps P s0 (State.comRow s p n com) := by
  unfold State.comRow
  extract_lets ls r s1 miss s2 lost
  have h1 : Keeps P s0 s1 := State.rowsIn_keeps _ _ _ (h.mono (by decide)) hs
  refine Keeps.ite h1 ?_
  have h2 : Keeps P s0 s2 := foldl_keeps _ _ (fun _ ha _ => State.markMiss_keeps _ _ _ _ (h.mono (by decide)) ha) h1
  exact Keeps.ite h2 (State.lanesLost_keeps _ _ _ h (State.updX_keeps _ _ _ (h.mono (by decide)) h2))


theorem State.blockIn_keeps {P : Part → Bool} {s0 : State} (s : State) (port : Nat) (n : Nat) (b : Block) (wrong : Bool) (named : BitVec 4) (spare : BitVec 4) (h : Parts P [.out, .free, .regs, .ten, .tra, .mat, .wins, .grps, .xlt, .rte, .lnk, .boot, .pwr, .flt, .evr])
    (hs : Keeps P s0 s) : Keeps P s0 (State.blockIn s port n b wrong named spare) := by
  unfold State.blockIn
  repeat' (first
    | with_reducible assumption
    | ((with_reducible apply Parts.mono h); decide)
    | with_reducible apply State.portCount_keeps
    | with_reducible apply State.updX_keeps
    | with_reducible apply State.tally_keeps
    | with_reducible apply State.nak_keeps
    | with_reducible apply State.updP_keeps
    | with_reducible apply State.lnkCount_keeps
    | with_reducible apply State.useTrailer_keeps
    | with_reducible apply State.badBlock_keeps
    | with_reducible apply foldl_keeps
    | with_reducible apply foldl_keepsP
    | with_reducible intro _
    | (extract_lets +onlyGivenNames x0; first
        | ((with_reducible refine (have hx0 : Keeps P s0 x0 := ?_; ?_)); (on_goal 2 => clear_value x0); (on_goal 1 => subst x0))
        | ((with_reducible refine (have hx0 : KeepsP P s0 x0 := ?_; ?_)); (on_goal 2 => clear_value x0); (on_goal 1 => subst x0))
        | clear_value x0)
    | with_reducible apply Keeps.ite
    | split
    | with_reducible apply KeepsP.mk
    | (with_reducible apply KeepsP.of_eq (by with_reducible assumption))
    | with_reducible apply KeepsP.fst
    | with_reducible apply Keeps.upd
    | with_reducible apply Fuses.refl
    | ((with_reducible apply Or.inr); with_reducible rfl)
    | ((with_reducible apply Or.inl); exact h _ (by decide))
    | beta_reduce)

theorem execBlockReceive_keeps {P : Part → Bool} {s0 : State} (port : Nat) (rx : BlockRx) (lanes : List LaneRx) (s : State) (h : Parts P [.out, .free, .regs, .ten, .tra, .mat, .wins, .grps, .xlt, .rte, .lnk, .boot, .pwr, .flt, .evr])
    (hs : Keeps P s0 s) : KeepsR P s0 (execBlockReceive port rx lanes s) := by
  unfold execBlockReceive
  refine KeepsR.ite (KeepsR.next hs) ?_
  extract_lets n s1 s2
  have h1 : Keeps P s0 s1 := State.updX_keeps _ _ _ (h.mono (by decide)) hs
  split
  · refine KeepsR.ite (KeepsR.next hs) ?_
    have h2 : Keeps P s0 s2 := State.lanesReport_keeps _ _ _ _ (h.mono (by decide)) h1
    exact KeepsR.ite (KeepsR.next h2) (KeepsR.next (State.fecForget_keeps _ _ _ (h.mono (by decide))
      (State.blockIn_keeps _ _ _ _ _ _ _ (h.mono (by decide)) h2)))
  · refine KeepsR.ite (KeepsR.next hs) ?_
    extract_lets s2
    have h2 : Keeps P s0 s2 := State.comRow_keeps _ _ _ _ (h.mono (by decide)) (State.rxWake_keeps _ _ (h.mono (by decide)) h1)
    refine KeepsR.ite (KeepsR.next h2) ?_
    extract_lets ls r errs
    exact KeepsR.next (State.blockIn_keeps _ _ _ _ _ _ _ (h.mono (by decide)) (State.laneErrs_keeps _ _ _ (h.mono (by decide))
      (State.rowsIn_keeps _ _ _ (h.mono (by decide)) h2)))


theorem execReplayTimeout_keeps {P : Part → Bool} {s0 : State} (port : Nat) (s : State) (h : Parts P [.now, .ft, .regs, .lnk, .boot, .pwr, .flt, .evr])
    (hs : Keeps P s0 s) : KeepsR P s0 (execReplayTimeout port s) := by
  unfold execReplayTimeout
  repeat' (first
    | with_reducible assumption
    | ((with_reducible apply Parts.mono h); decide)
    | with_reducible apply State.passTo_keeps
    | with_reducible apply State.updP_keeps
    | with_reducible apply State.startReplay_keeps
    | with_reducible apply KeepsR.next
    | with_reducible intro _
    | (extract_lets +onlyGivenNames x0; first
        | ((with_reducible refine (have hx0 : Keeps P s0 x0 := ?_; ?_)); (on_goal 2 => clear_value x0); (on_goal 1 => subst x0))
        | clear_value x0)
    | with_reducible apply KeepsR.ite
    | with_reducible apply Keeps.ite
    | split
    | with_reducible apply Keeps.upd
    | with_reducible apply Fuses.refl
    | ((with_reducible apply Or.inr); with_reducible rfl)
    | ((with_reducible apply Or.inl); exact h _ (by decide))
    | beta_reduce)

theorem State.creditTotal_keeps {P : Part → Bool} {s0 : State} (s : State) (p : Nat) (v : Nat) (t : BitVec 24) (h : Parts P [.lnk])
    (hs : Keeps P s0 s) : Keeps P s0 (State.creditTotal s p v t) := by
  unfold State.creditTotal
  repeat' (first
    | with_reducible assumption
    | ((with_reducible apply Parts.mono h); decide)
    | with_reducible apply State.creditAdd_keeps
    | with_reducible intro _
    | (extract_lets +onlyGivenNames x0; first
        | ((with_reducible refine (have hx0 : Keeps P s0 x0 := ?_; ?_)); (on_goal 2 => clear_value x0); (on_goal 1 => subst x0))
        | clear_value x0)
    | with_reducible apply Keeps.ite
    | with_reducible apply KeepsO.getD
    | split)

theorem execCreditFlit_keeps {P : Part → Bool} {s0 : State} (port : Nat) (half : Bool) (totals : List (BitVec 24)) (s : State) (h : Parts P [.regs, .rte, .lnk, .sem, .boot, .evr])
    (hs : Keeps P s0 s) : KeepsR P s0 (execCreditFlit port half totals s) := by
  unfold execCreditFlit
  repeat' (first
    | with_reducible assumption
    | ((with_reducible apply Parts.mono h); decide)
    | with_reducible apply State.updX_keeps
    | with_reducible apply State.tryUp_keeps
    | with_reducible apply State.creditTotal_keeps
    | with_reducible apply KeepsR.next
    | with_reducible apply foldl_keeps
    | with_reducible apply foldl_keepsP
    | with_reducible intro _
    | (extract_lets +onlyGivenNames x0; first
        | ((with_reducible refine (have hx0 : Keeps P s0 x0 := ?_; ?_)); (on_goal 2 => clear_value x0); (on_goal 1 => subst x0))
        | ((with_reducible refine (have hx0 : KeepsP P s0 x0 := ?_; ?_)); (on_goal 2 => clear_value x0); (on_goal 1 => subst x0))
        | clear_value x0)
    | with_reducible apply KeepsR.ite
    | with_reducible apply Keeps.ite
    | split
    | with_reducible apply KeepsP.mk
    | (with_reducible apply KeepsP.of_eq (by with_reducible assumption))
    | with_reducible apply KeepsP.fst
    | with_reducible apply Keeps.upd
    | with_reducible apply Fuses.refl
    | ((with_reducible apply Or.inr); with_reducible rfl)
    | ((with_reducible apply Or.inl); exact h _ (by decide))
    | beta_reduce)

theorem State.initStart_keeps {P : Part → Bool} {s0 : State} (s : State) (p : Nat) (set : BitVec 4) (h : Parts P [.regs, .lnk])
    (hs : Keeps P s0 s) : Keeps P s0 (State.initStart s p set) := by
  unfold State.initStart
  repeat' (first
    | with_reducible assumption
    | ((with_reducible apply Parts.mono h); decide)
    | with_reducible apply State.wr_keeps
    | with_reducible apply State.wrFs_keeps
    | with_reducible apply State.updX_keeps
    | with_reducible apply State.ctrl_keeps
    | with_reducible intro _
    | (extract_lets +onlyGivenNames x0; first
        | ((with_reducible refine (have hx0 : Keeps P s0 x0 := ?_; ?_)); (on_goal 2 => clear_value x0); (on_goal 1 => subst x0))
        | clear_value x0)
    | split
    | with_reducible apply Keeps.upd
    | with_reducible apply Fuses.refl
    | ((with_reducible apply Or.inr); with_reducible rfl)
    | ((with_reducible apply Or.inl); exact h _ (by decide))
    | beta_reduce)

theorem State.lanesTrained_keeps {P : Part → Bool} {s0 : State} (s : State) (p : Nat) (set : BitVec 4) (ends : LaneEnds) (us deskew : Nat) (h : Parts P [.regs, .lnk, .evr])
    (hs : Keeps P s0 s) : Keeps P s0 (State.lanesTrained s p set ends us deskew) := by
  unfold State.lanesTrained
  repeat' (first
    | with_reducible assumption
    | ((with_reducible apply Parts.mono h); decide)
    | with_reducible apply State.wrF_keeps
    | with_reducible apply State.wrFs_keeps
    | with_reducible apply State.lifeAdd_keeps
    | with_reducible apply State.updX_keeps
    | with_reducible apply State.lanes_keeps
    | with_reducible apply foldl_keeps
    | with_reducible apply foldl_keepsP
    | with_reducible intro _
    | (extract_lets +onlyGivenNames x0; first
        | ((with_reducible refine (have hx0 : Keeps P s0 x0 := ?_; ?_)); (on_goal 2 => clear_value x0); (on_goal 1 => subst x0))
        | ((with_reducible refine (have hx0 : KeepsP P s0 x0 := ?_; ?_)); (on_goal 2 => clear_value x0); (on_goal 1 => subst x0))
        | clear_value x0)
    | split
    | with_reducible apply KeepsP.mk
    | (with_reducible apply KeepsP.of_eq (by with_reducible assumption))
    | with_reducible apply KeepsP.fst
    | with_reducible apply Keeps.upd
    | with_reducible apply Fuses.refl
    | ((with_reducible apply Or.inr); with_reducible rfl)
    | ((with_reducible apply Or.inl); exact h _ (by decide))
    | beta_reduce)

theorem State.trainingFails_keeps {P : Part → Bool} {s0 : State} (s : State) (p : Nat) (h : Parts P [.out, .free, .regs, .ten, .tra, .mat, .wins, .grps, .xlt, .rte, .lnk, .boot, .pwr, .flt, .evr])
    (hs : Keeps P s0 s) : Keeps P s0 (State.trainingFails s p) := by
  unfold State.trainingFails
  repeat' (first
    | with_reducible assumption
    | ((with_reducible apply Parts.mono h); decide)
    | with_reducible apply State.wrF_keeps
    | with_reducible apply State.updX_keeps
    | with_reducible apply State.lanes_keeps
    | with_reducible apply State.portBreak_keeps
    | with_reducible intro _
    | (extract_lets +onlyGivenNames x0; first
        | ((with_reducible refine (have hx0 : Keeps P s0 x0 := ?_; ?_)); (on_goal 2 => clear_value x0); (on_goal 1 => subst x0))
        | clear_value x0)
    | split
    | with_reducible apply Keeps.upd
    | with_reducible apply Fuses.refl
    | ((with_reducible apply Or.inr); with_reducible rfl)
    | ((with_reducible apply Or.inl); exact h _ (by decide))
    | beta_reduce)

theorem execLaneTrainingComplete_keeps {P : Part → Bool} {s0 : State} (port : Nat) (lanes : BitVec 4) (ends : LaneEnds) (us deskew : Nat) (s : State) (h : Parts P [.out, .free, .regs, .ten, .tra, .mat, .wins, .grps, .xlt, .rte, .lnk, .boot, .pwr, .flt, .evr])
    (hs : Keeps P s0 s) : KeepsR P s0 (execLaneTrainingComplete port lanes ends us deskew s) := by
  unfold execLaneTrainingComplete
  repeat' (first
    | with_reducible assumption
    | ((with_reducible apply Parts.mono h); decide)
    | with_reducible apply State.wrF_keeps
    | with_reducible apply State.updX_keeps
    | with_reducible apply State.initStart_keeps
    | with_reducible apply State.lanesTrained_keeps
    | with_reducible apply State.trainingFails_keeps
    | with_reducible apply KeepsR.next
    | with_reducible intro _
    | (extract_lets +onlyGivenNames x0; first
        | ((with_reducible refine (have hx0 : Keeps P s0 x0 := ?_; ?_)); (on_goal 2 => clear_value x0); (on_goal 1 => subst x0))
        | clear_value x0)
    | with_reducible apply KeepsR.ite
    | with_reducible apply Keeps.ite
    | split
    | with_reducible apply Keeps.upd
    | with_reducible apply Fuses.refl
    | ((with_reducible apply Or.inr); with_reducible rfl)
    | ((with_reducible apply Or.inl); exact h _ (by decide))
    | beta_reduce)

theorem State.hold_keeps {P : Part → Bool} {s0 : State} (s : State) (p : Nat) (cause : Nat) (h : Parts P [.regs, .lnk])
    (hs : Keeps P s0 s) : Keeps P s0 (State.hold s p cause) := by
  unfold State.hold
  repeat' (first
    | with_reducible assumption
    | ((with_reducible apply Parts.mono h); decide)
    | with_reducible apply State.portDown_keeps
    | with_reducible intro _
    | split)

theorem State.rttHold_keeps {P : Part → Bool} {s0 : State} (s : State) (p : Nat) (rtt : Nat) (h : Parts P [.regs, .lnk, .boot, .evr])
    (hs : Keeps P s0 s) : Keeps P s0 (State.rttHold s p rtt) := by
  unfold State.rttHold
  repeat' (first
    | with_reducible assumption
    | ((with_reducible apply Parts.mono h); decide)
    | with_reducible apply State.note_keeps
    | with_reducible apply State.updX_keeps
    | with_reducible apply State.hold_keeps
    | with_reducible intro _
    | (extract_lets +onlyGivenNames x0; first
        | ((with_reducible refine (have hx0 : Keeps P s0 x0 := ?_; ?_)); (on_goal 2 => clear_value x0); (on_goal 1 => subst x0))
        | clear_value x0)
    | split
    | with_reducible apply Keeps.upd
    | with_reducible apply Fuses.refl
    | ((with_reducible apply Or.inr); with_reducible rfl)
    | ((with_reducible apply Or.inl); exact h _ (by decide))
    | beta_reduce)

theorem State.miswire_keeps {P : Part → Bool} {s0 : State} (s : State) (p : Nat) (peerNode : Nat) (peerPort : Nat) (h : Parts P [.regs, .lnk, .boot, .evr])
    (hs : Keeps P s0 s) : Keeps P s0 (State.miswire s p peerNode peerPort) := by
  unfold State.miswire
  repeat' (first
    | with_reducible assumption
    | ((with_reducible apply Parts.mono h); decide)
    | with_reducible apply State.note_keeps
    | with_reducible apply State.hold_keeps
    | with_reducible intro _
    | split)

theorem execInit_keeps {P : Part → Bool} {s0 : State} (port : Nat) (peerPort : Nat) (peerNode : Nat) (usable : BitVec 4) (ident : Word) (s : State) (h : Parts P [.regs, .lnk, .boot, .evr])
    (hs : Keeps P s0 s) : KeepsR P s0 (execInit port peerPort peerNode usable ident s) := by
  unfold execInit
  repeat' (first
    | with_reducible assumption
    | ((with_reducible apply Parts.mono h); decide)
    | with_reducible apply State.wr_keeps
    | with_reducible apply State.wrFs_keeps
    | with_reducible apply State.updX_keeps
    | with_reducible apply State.ctrl_keeps
    | with_reducible apply State.portDown_keeps
    | with_reducible apply State.hold_keeps
    | with_reducible apply State.miswire_keeps
    | with_reducible apply KeepsR.next
    | with_reducible apply foldl_keeps
    | with_reducible apply foldl_keepsP
    | with_reducible intro _
    | (extract_lets +onlyGivenNames x0; first
        | ((with_reducible refine (have hx0 : Keeps P s0 x0 := ?_; ?_)); (on_goal 2 => clear_value x0); (on_goal 1 => subst x0))
        | ((with_reducible refine (have hx0 : KeepsP P s0 x0 := ?_; ?_)); (on_goal 2 => clear_value x0); (on_goal 1 => subst x0))
        | clear_value x0)
    | with_reducible apply KeepsR.ite
    | with_reducible apply Keeps.ite
    | split
    | with_reducible apply KeepsP.mk
    | (with_reducible apply KeepsP.of_eq (by with_reducible assumption))
    | with_reducible apply KeepsP.fst
    | with_reducible apply Keeps.upd
    | with_reducible apply Fuses.refl
    | ((with_reducible apply Or.inr); with_reducible rfl)
    | ((with_reducible apply Or.inl); exact h _ (by decide))
    | beta_reduce)

theorem execProbeFlit_keeps {P : Part → Bool} {s0 : State} (port : Nat) (probeId : BitVec 8) (time : Word) (s : State) (h : Parts P [.lnk])
    (hs : Keeps P s0 s) : KeepsR P s0 (execProbeFlit port probeId time s) := by
  unfold execProbeFlit
  repeat' (first
    | with_reducible assumption
    | ((with_reducible apply Parts.mono h); decide)
    | with_reducible apply State.ctrlFirst_keeps
    | with_reducible apply KeepsR.next
    | with_reducible intro _
    | with_reducible apply KeepsR.ite
    | with_reducible apply Keeps.ite
    | split)

theorem execProbeEcho_keeps {P : Part → Bool} {s0 : State} (port : Nat) (_probeId : BitVec 8) (time : Word) (s : State) (h : Parts P [.regs, .rte, .lnk, .sem, .boot, .evr])
    (hs : Keeps P s0 s) : KeepsR P s0 (execProbeEcho port _probeId time s) := by
  unfold execProbeEcho
  repeat' (first
    | with_reducible assumption
    | ((with_reducible apply Parts.mono h); decide)
    | with_reducible apply State.wrF_keeps
    | with_reducible apply State.updX_keeps
    | with_reducible apply State.updP_keeps
    | with_reducible apply State.ctrl_keeps
    | with_reducible apply State.tryUp_keeps
    | with_reducible apply State.rttHold_keeps
    | with_reducible apply KeepsR.next
    | with_reducible apply foldl_keeps
    | with_reducible apply foldl_keepsP
    | with_reducible intro _
    | (extract_lets +onlyGivenNames x0; first
        | ((with_reducible refine (have hx0 : Keeps P s0 x0 := ?_; ?_)); (on_goal 2 => clear_value x0); (on_goal 1 => subst x0))
        | ((with_reducible refine (have hx0 : KeepsP P s0 x0 := ?_; ?_)); (on_goal 2 => clear_value x0); (on_goal 1 => subst x0))
        | clear_value x0)
    | with_reducible apply KeepsR.ite
    | with_reducible apply Keeps.ite
    | split
    | with_reducible apply KeepsP.mk
    | (with_reducible apply KeepsP.of_eq (by with_reducible assumption))
    | with_reducible apply KeepsP.fst
    | with_reducible apply Keeps.upd
    | with_reducible apply Fuses.refl
    | ((with_reducible apply Or.inr); with_reducible rfl)
    | ((with_reducible apply Or.inl); exact h _ (by decide))
    | beta_reduce)

theorem State.cmdChange_keeps {P : Part → Bool} {s0 : State} (s : State) (rid : Nat) (p : Nat) (op : Nat) (lanes : BitVec 4) (h : Parts P [.regs, .lnk])
    (hs : Keeps P s0 s) : Keeps P s0 (State.cmdChange s rid p op lanes) := by
  unfold State.cmdChange
  repeat' (first
    | with_reducible assumption
    | ((with_reducible apply Parts.mono h); decide)
    | with_reducible apply State.wrF_keeps
    | with_reducible apply State.updX_keeps
    | with_reducible apply State.reqChange_keeps
    | with_reducible intro _
    | (extract_lets +onlyGivenNames x0; first
        | ((with_reducible refine (have hx0 : Keeps P s0 x0 := ?_; ?_)); (on_goal 2 => clear_value x0); (on_goal 1 => subst x0))
        | clear_value x0)
    | with_reducible apply Keeps.ite
    | split
    | with_reducible apply Keeps.upd
    | with_reducible apply Fuses.refl
    | ((with_reducible apply Or.inr); with_reducible rfl)
    | ((with_reducible apply Or.inl); exact h _ (by decide))
    | beta_reduce)

theorem execLnkRetrain_keeps {P : Part → Bool} {s0 : State} (rid : Nat) (port : Nat) (s : State) (h : Parts P [.regs, .lnk])
    (hs : Keeps P s0 s) : KeepsR P s0 (execLnkRetrain rid port s) := by
  unfold execLnkRetrain
  repeat' (first
    | with_reducible assumption
    | ((with_reducible apply Parts.mono h); decide)
    | with_reducible apply State.viaReg_keeps
    | with_reducible apply State.cmdChange_keeps
    | with_reducible apply KeepsR.next
    | with_reducible intro _
    | with_reducible apply KeepsR.ite
    | with_reducible apply Keeps.ite
    | split
    | beta_reduce)

theorem execLnkWidthChange_keeps {P : Part → Bool} {s0 : State} (rid : Nat) (port : Nat) (lanes : BitVec 4) (s : State) (h : Parts P [.regs, .lnk])
    (hs : Keeps P s0 s) : KeepsR P s0 (execLnkWidthChange rid port lanes s) := by
  unfold execLnkWidthChange
  repeat' (first
    | with_reducible assumption
    | ((with_reducible apply Parts.mono h); decide)
    | with_reducible apply State.viaReg_keeps
    | with_reducible apply State.cmdChange_keeps
    | with_reducible apply KeepsR.next
    | with_reducible intro _
    | with_reducible apply KeepsR.ite
    | with_reducible apply Keeps.ite
    | split
    | beta_reduce)

theorem execLnkReleaseHold_keeps {P : Part → Bool} {s0 : State} (rid : Nat) (port : Nat) (s : State) (h : Parts P [.regs, .lnk])
    (hs : Keeps P s0 s) : KeepsR P s0 (execLnkReleaseHold rid port s) := by
  unfold execLnkReleaseHold
  repeat' (first
    | with_reducible assumption
    | ((with_reducible apply Parts.mono h); decide)
    | with_reducible apply State.wrF_keeps
    | with_reducible apply State.viaReg_keeps
    | with_reducible apply State.updX_keeps
    | with_reducible apply KeepsR.next
    | with_reducible intro _
    | (extract_lets +onlyGivenNames x0; first
        | ((with_reducible refine (have hx0 : Keeps P s0 x0 := ?_; ?_)); (on_goal 2 => clear_value x0); (on_goal 1 => subst x0))
        | clear_value x0)
    | with_reducible apply KeepsR.ite
    | with_reducible apply Keeps.ite
    | split
    | with_reducible apply Keeps.upd
    | with_reducible apply Fuses.refl
    | ((with_reducible apply Or.inr); with_reducible rfl)
    | ((with_reducible apply Or.inl); exact h _ (by decide))
    | beta_reduce)

theorem State.withdraw_keeps {P : Part → Bool} {s0 : State} (s : State) (p : Nat) (own : ChangeReq) (ident : Word) (h : Parts P [.regs, .lnk, .boot, .evr])
    (hs : Keeps P s0 s) : Keeps P s0 (State.withdraw s p own ident) := by
  unfold State.withdraw
  repeat' (first
    | with_reducible assumption
    | ((with_reducible apply Parts.mono h); decide)
    | with_reducible apply State.wrF_keeps
    | with_reducible apply State.record_keeps
    | with_reducible apply State.updX_keeps
    | with_reducible apply State.reqAgain_keeps
    | with_reducible intro _
    | (extract_lets +onlyGivenNames x0; first
        | ((with_reducible refine (have hx0 : Keeps P s0 x0 := ?_; ?_)); (on_goal 2 => clear_value x0); (on_goal 1 => subst x0))
        | clear_value x0)
    | with_reducible apply Keeps.ite
    | split
    | with_reducible apply Keeps.upd
    | with_reducible apply Fuses.refl
    | ((with_reducible apply Or.inr); with_reducible rfl)
    | ((with_reducible apply Or.inl); exact h _ (by decide))
    | beta_reduce)

theorem execChangeReq_keeps {P : Part → Bool} {s0 : State} (port : Nat) (reqId : BitVec 8) (op : Nat) (lanes : BitVec 4) (peerPort : Nat) (ident : Word) (speed : Bool) (s : State) (h : Parts P [.regs, .lnk, .boot, .evr])
    (hs : Keeps P s0 s) : KeepsR P s0 (execChangeReq port reqId op lanes peerPort ident speed s) := by
  unfold execChangeReq
  repeat' (first
    | with_reducible assumption
    | ((with_reducible apply Parts.mono h); decide)
    | with_reducible apply State.updX_keeps
    | with_reducible apply State.acceptChange_keeps
    | with_reducible apply State.withdraw_keeps
    | with_reducible apply KeepsR.next
    | with_reducible intro _
    | (extract_lets +onlyGivenNames x0; first
        | ((with_reducible refine (have hx0 : Keeps P s0 x0 := ?_; ?_)); (on_goal 2 => clear_value x0); (on_goal 1 => subst x0))
        | clear_value x0)
    | with_reducible apply KeepsR.ite
    | with_reducible apply Keeps.ite
    | split
    | with_reducible apply Keeps.upd
    | with_reducible apply Fuses.refl
    | ((with_reducible apply Or.inr); with_reducible rfl)
    | ((with_reducible apply Or.inl); exact h _ (by decide))
    | beta_reduce)

theorem execChangeAck_keeps {P : Part → Bool} {s0 : State} (port : Nat) (reqId : BitVec 8) (lanes : BitVec 4) (_ident : Word) (s : State) (h : Parts P [.out, .free, .regs, .ten, .tra, .mat, .wins, .grps, .xlt, .rte, .lnk, .boot, .pwr, .flt, .evr])
    (hs : Keeps P s0 s) : KeepsR P s0 (execChangeAck port reqId lanes _ident s) := by
  unfold execChangeAck
  repeat' (first
    | with_reducible assumption
    | ((with_reducible apply Parts.mono h); decide)
    | with_reducible apply State.enterChange_keeps
    | with_reducible apply State.portBreak_keeps
    | with_reducible apply KeepsR.next
    | with_reducible intro _
    | (extract_lets +onlyGivenNames x0; first
        | ((with_reducible refine (have hx0 : Keeps P s0 x0 := ?_; ?_)); (on_goal 2 => clear_value x0); (on_goal 1 => subst x0))
        | clear_value x0)
    | with_reducible apply KeepsR.ite
    | with_reducible apply Keeps.ite
    | split
    | with_reducible apply Keeps.upd
    | with_reducible apply Fuses.refl
    | ((with_reducible apply Or.inr); with_reducible rfl)
    | ((with_reducible apply Or.inl); exact h _ (by decide)))

theorem execPause_keeps {P : Part → Bool} {s0 : State} (port : Nat) (_reqId : BitVec 8) (s : State) (h : Parts P [.out, .lnk])
    (hs : Keeps P s0 s) : KeepsR P s0 (execPause port _reqId s) := by
  unfold execPause
  repeat' (first
    | with_reducible assumption
    | ((with_reducible apply Parts.mono h); decide)
    | with_reducible apply State.updX_keeps
    | with_reducible apply State.tryHand_keeps
    | with_reducible apply KeepsR.next
    | with_reducible intro _
    | (extract_lets +onlyGivenNames x0; first
        | ((with_reducible refine (have hx0 : Keeps P s0 x0 := ?_; ?_)); (on_goal 2 => clear_value x0); (on_goal 1 => subst x0))
        | clear_value x0)
    | with_reducible apply KeepsR.ite
    | with_reducible apply Keeps.ite
    | split
    | with_reducible apply Keeps.upd
    | with_reducible apply Fuses.refl
    | ((with_reducible apply Or.inr); with_reducible rfl)
    | ((with_reducible apply Or.inl); exact h _ (by decide))
    | beta_reduce)

theorem execPauseWaitExpiry_keeps {P : Part → Bool} {s0 : State} (port : Nat) (s : State) (h : Parts P [.out, .free, .now, .ft, .regs, .ten, .tra, .mat, .wins, .grps, .xlt, .rte, .lnk, .boot, .pwr, .flt, .evr])
    (hs : Keeps P s0 s) : KeepsR P s0 (execPauseWaitExpiry port s) := by
  unfold execPauseWaitExpiry
  repeat' (first
    | with_reducible assumption
    | ((with_reducible apply Parts.mono h); decide)
    | with_reducible apply State.passTo_keeps
    | with_reducible apply State.portBreak_keeps
    | with_reducible apply State.laneHand_keeps
    | with_reducible apply KeepsR.next
    | with_reducible intro _
    | (extract_lets +onlyGivenNames x0; first
        | ((with_reducible refine (have hx0 : Keeps P s0 x0 := ?_; ?_)); (on_goal 2 => clear_value x0); (on_goal 1 => subst x0))
        | clear_value x0)
    | with_reducible apply KeepsR.ite
    | with_reducible apply Keeps.ite
    | split
    | with_reducible apply Keeps.upd
    | with_reducible apply Fuses.refl
    | ((with_reducible apply Or.inr); with_reducible rfl)
    | ((with_reducible apply Or.inl); exact h _ (by decide)))

theorem execChangeLimitExpiry_keeps {P : Part → Bool} {s0 : State} (port : Nat) (s : State) (h : Parts P [.out, .free, .now, .ft, .regs, .ten, .tra, .mat, .wins, .grps, .xlt, .rte, .lnk, .boot, .pwr, .flt, .evr])
    (hs : Keeps P s0 s) : KeepsR P s0 (execChangeLimitExpiry port s) := by
  unfold execChangeLimitExpiry
  repeat' (first
    | with_reducible assumption
    | ((with_reducible apply Parts.mono h); decide)
    | with_reducible apply State.passTo_keeps
    | with_reducible apply State.portDown_keeps
    | with_reducible apply State.portBreak_keeps
    | with_reducible apply KeepsR.next
    | with_reducible intro _
    | (extract_lets +onlyGivenNames x0; first
        | ((with_reducible refine (have hx0 : Keeps P s0 x0 := ?_; ?_)); (on_goal 2 => clear_value x0); (on_goal 1 => subst x0))
        | clear_value x0)
    | with_reducible apply KeepsR.ite
    | with_reducible apply Keeps.ite
    | split
    | with_reducible apply Keeps.upd
    | with_reducible apply Fuses.refl
    | ((with_reducible apply Or.inr); with_reducible rfl)
    | ((with_reducible apply Or.inl); exact h _ (by decide)))

theorem execFailWindowExpiry_keeps {P : Part → Bool} {s0 : State} (port : Nat) (lane : Nat) (s : State) (h : Parts P [.now, .ft, .regs, .lnk, .pwr])
    (hs : Keeps P s0 s) : KeepsR P s0 (execFailWindowExpiry port lane s) := by
  unfold execFailWindowExpiry
  repeat' (first
    | with_reducible assumption
    | ((with_reducible apply Parts.mono h); decide)
    | with_reducible apply State.updX_keeps
    | with_reducible apply State.passTo_keeps
    | with_reducible apply KeepsR.next
    | with_reducible intro _
    | (extract_lets +onlyGivenNames x0; first
        | ((with_reducible refine (have hx0 : Keeps P s0 x0 := ?_; ?_)); (on_goal 2 => clear_value x0); (on_goal 1 => subst x0))
        | clear_value x0)
    | split
    | with_reducible apply Keeps.upd
    | with_reducible apply Fuses.refl
    | ((with_reducible apply Or.inr); with_reducible rfl)
    | ((with_reducible apply Or.inl); exact h _ (by decide))
    | beta_reduce)

theorem State.ftStep_keeps {P : Part → Bool} {s0 : State} (s : State) (p : Nat) (ofs : Nat) (half : Nat) (h : Parts P [.ft, .regs, .lnk, .boot, .pwr, .evr])
    (hs : Keeps P s0 s) : Keeps P s0 (State.ftStep s p ofs half) := by
  unfold State.ftStep
  repeat' (first
    | with_reducible assumption
    | ((with_reducible apply Parts.mono h); decide)
    | with_reducible apply State.wrF_keeps
    | with_reducible apply State.bump_keeps
    | with_reducible apply State.note_keeps
    | with_reducible intro _
    | (extract_lets +onlyGivenNames x0; first
        | ((with_reducible refine (have hx0 : Keeps P s0 x0 := ?_; ?_)); (on_goal 2 => clear_value x0); (on_goal 1 => subst x0))
        | clear_value x0)
    | split
    | with_reducible apply Keeps.upd
    | with_reducible apply Fuses.refl
    | ((with_reducible apply Or.inr); with_reducible rfl)
    | ((with_reducible apply Or.inl); exact h _ (by decide)))

theorem execTime_keeps {P : Part → Bool} {s0 : State} (port : Nat) (_locked : Bool) (tTx : Word) (echoTx : Word) (echoRx : Word) (rx : Word) (s : State) (h : Parts P [.ft, .regs, .rte, .lnk, .sem, .boot, .pwr, .evr])
    (hs : Keeps P s0 s) : KeepsR P s0 (execTime port _locked tTx echoTx echoRx rx s) := by
  unfold execTime
  repeat' (first
    | with_reducible assumption
    | ((with_reducible apply Parts.mono h); decide)
    | with_reducible apply State.wrF_keeps
    | with_reducible apply State.wrFs_keeps
    | with_reducible apply State.updX_keeps
    | with_reducible apply State.tryUp_keeps
    | with_reducible apply State.ftStep_keeps
    | with_reducible apply KeepsR.next
    | with_reducible intro _
    | (extract_lets +onlyGivenNames x0; first
        | ((with_reducible refine (have hx0 : Keeps P s0 x0 := ?_; ?_)); (on_goal 2 => clear_value x0); (on_goal 1 => subst x0))
        | clear_value x0)
    | with_reducible apply KeepsR.ite
    | with_reducible apply Keeps.ite
    | split
    | with_reducible apply Keeps.upd
    | with_reducible apply Fuses.refl
    | ((with_reducible apply Or.inr); with_reducible rfl)
    | ((with_reducible apply Or.inl); exact h _ (by decide))
    | beta_reduce)

theorem State.stepRefused_keeps {P : Part → Bool} {s0 : State} (s : State) (p : Nat) (ofs : Nat) (half : Nat) (h : Parts P [.out, .free, .regs, .ten, .tra, .mat, .wins, .grps, .xlt, .rte, .lnk, .boot, .pwr, .flt, .evr])
    (hs : Keeps P s0 s) : Keeps P s0 (State.stepRefused s p ofs half) := by
  unfold State.stepRefused
  repeat' (first
    | with_reducible assumption
    | ((with_reducible apply Parts.mono h); decide)
    | with_reducible apply State.note_keeps
    | with_reducible apply State.updX_keeps
    | with_reducible apply State.portBreak_keeps
    | with_reducible intro _
    | (extract_lets +onlyGivenNames x0; first
        | ((with_reducible refine (have hx0 : Keeps P s0 x0 := ?_; ?_)); (on_goal 2 => clear_value x0); (on_goal 1 => subst x0))
        | clear_value x0)
    | with_reducible apply Keeps.ite
    | split
    | with_reducible apply Keeps.upd
    | with_reducible apply Fuses.refl
    | ((with_reducible apply Or.inr); with_reducible rfl)
    | ((with_reducible apply Or.inl); exact h _ (by decide))
    | beta_reduce)

theorem execSyncIntervalTick_keeps {P : Part → Bool} {s0 : State} (s : State) (h : Parts P [.out, .free, .now, .ft, .regs, .ten, .tra, .mat, .wins, .grps, .xlt, .rte, .lnk, .boot, .pwr, .flt, .evr])
    (hs : Keeps P s0 s) : KeepsR P s0 (execSyncIntervalTick s) := by
  unfold execSyncIntervalTick
  repeat' (first
    | with_reducible assumption
    | ((with_reducible apply Parts.mono h); decide)
    | with_reducible apply State.passTo_keeps
    | with_reducible apply State.ctrl_keeps
    | with_reducible apply State.ftStep_keeps
    | with_reducible apply State.stepRefused_keeps
    | with_reducible apply KeepsR.next
    | with_reducible apply foldl_keeps
    | with_reducible apply foldl_keepsP
    | with_reducible intro _
    | (extract_lets +onlyGivenNames x0; first
        | ((with_reducible refine (have hx0 : Keeps P s0 x0 := ?_; ?_)); (on_goal 2 => clear_value x0); (on_goal 1 => subst x0))
        | ((with_reducible refine (have hx0 : KeepsP P s0 x0 := ?_; ?_)); (on_goal 2 => clear_value x0); (on_goal 1 => subst x0))
        | clear_value x0)
    | with_reducible apply KeepsR.ite
    | with_reducible apply Keeps.ite
    | split
    | with_reducible apply KeepsP.mk
    | (with_reducible apply KeepsP.of_eq (by with_reducible assumption))
    | with_reducible apply KeepsP.fst
    | with_reducible apply Keeps.upd
    | with_reducible apply Fuses.refl
    | ((with_reducible apply Or.inr); with_reducible rfl)
    | ((with_reducible apply Or.inl); exact h _ (by decide))
    | beta_reduce)

end Sys2Proof.Machine
end

