-- ==== Sys2Proof/Laws/Lanes.lean ====
section
/-! SUPPORT. What the operations of Machine/Lanes.lean keep. -/

set_option linter.unusedTactic false
set_option linter.unreachableTactic false
set_option linter.unusedVariables false

namespace Sys2Proof.Machine

open Sys2Proof

theorem execCreditTimeout_keeps {P : Part → Bool} {s0 : State} (port : Nat) (vl : Nat) (s : State) (h : Parts P [.out, .free, .now, .ft, .regs, .ten, .tra, .mat, .wins, .grps, .xlt, .rte, .lnk, .boot, .pwr, .flt, .evr])
    (hs : Keeps P s0 s) : KeepsR P s0 (execCreditTimeout port vl s) := by
  unfold execCreditTimeout
  repeat' (first
    | with_reducible assumption
    | ((with_reducible apply Parts.mono h); decide)
    | with_reducible apply State.passTo_keeps
    | with_reducible apply State.portBreak_keeps
    | with_reducible apply KeepsR.next
    | with_reducible intro _
    | (extract_lets +onlyGivenNames x0; first
        | ((with_reducible refine (have hx0 : Keeps P s0 x0 := ?_; ?_)); (on_goal 2 => clear_value x0); (on_goal 1 => subst x0))
        | clear_value x0)
    | with_reducible apply KeepsR.ite
    | with_reducible apply Keeps.ite
    | split
    | with_reducible apply Keeps.upd
    | with_reducible apply Fuses.refl
    | ((with_reducible apply Or.inr); with_reducible rfl)
    | ((with_reducible apply Or.inl); exact h _ (by decide)))

theorem execTrainingRetry_keeps {P : Part → Bool} {s0 : State} (port : Nat) (s : State) (h : Parts P [.out, .now, .ft, .regs, .lnk, .pwr])
    (hs : Keeps P s0 s) : KeepsR P s0 (execTrainingRetry port s) := by
  unfold execTrainingRetry
  repeat' (first
    | with_reducible assumption
    | ((with_reducible apply Parts.mono h); decide)
    | with_reducible apply State.passTo_keeps
    | with_reducible apply State.tryTrain_keeps
    | with_reducible apply KeepsR.next
    | with_reducible intro _
    | (extract_lets +onlyGivenNames x0; first
        | ((with_reducible refine (have hx0 : Keeps P s0 x0 := ?_; ?_)); (on_goal 2 => clear_value x0); (on_goal 1 => subst x0))
        | clear_value x0)
    | with_reducible apply KeepsR.ite
    | with_reducible apply Keeps.ite
    | split
    | with_reducible apply Keeps.upd
    | with_reducible apply Fuses.refl
    | ((with_reducible apply Or.inr); with_reducible rfl)
    | ((with_reducible apply Or.inl); exact h _ (by decide))
    | beta_reduce)

theorem execTrainingFail_keeps {P : Part → Bool} {s0 : State} (port : Nat) (s : State) (h : Parts P [.out, .free, .regs, .ten, .tra, .mat, .wins, .grps, .xlt, .rte, .lnk, .boot, .pwr, .flt, .evr])
    (hs : Keeps P s0 s) : KeepsR P s0 (execTrainingFail port s) := by
  unfold execTrainingFail
  repeat' (first
    | with_reducible assumption
    | ((with_reducible apply Parts.mono h); decide)
    | with_reducible apply State.trainingFails_keeps
    | with_reducible apply KeepsR.next
    | with_reducible intro _
    | with_reducible apply KeepsR.ite
    | with_reducible apply Keeps.ite
    | split)

theorem State.linkCtl_keeps {P : Part → Bool} {s0 : State} (s : State) (p : Nat) (val : Word) (h : Parts P [.regs])
    (hs : Keeps P s0 s) : Keeps P s0 (State.linkCtl s p val) := by
  unfold State.linkCtl
  repeat' (first
    | with_reducible assumption
    | ((with_reducible apply Parts.mono h); decide)
    | with_reducible apply State.wrFs_keeps
    | with_reducible intro _
    | split)

theorem execPortEnable_keeps {P : Part → Bool} {s0 : State} (rid : Nat) (port : Nat) (val : Word) (s : State) (h : Parts P [.out, .regs, .lnk, .boot, .flt, .evr])
    (hs : Keeps P s0 s) : KeepsR P s0 (execPortEnable rid port val s) := by
  unfold execPortEnable
  repeat' (first
    | with_reducible assumption
    | ((with_reducible apply Parts.mono h); decide)
    | with_reducible apply State.viaReg_keeps
    | with_reducible apply State.portEnable_keeps
    | with_reducible apply State.portWake_keeps
    | with_reducible apply State.linkCtl_keeps
    | with_reducible apply KeepsR.next
    | with_reducible intro _
    | with_reducible apply KeepsR.ite
    | with_reducible apply Keeps.ite
    | split
    | beta_reduce)

theorem execPortDisable_keeps {P : Part → Bool} {s0 : State} (rid : Nat) (port : Nat) (val : Word) (s : State) (h : Parts P [.out, .free, .regs, .ten, .tra, .mat, .wins, .grps, .xlt, .rte, .lnk, .boot, .pwr, .flt, .evr])
    (hs : Keeps P s0 s) : KeepsR P s0 (execPortDisable rid port val s) := by
  unfold execPortDisable
  repeat' (first
    | with_reducible assumption
    | ((with_reducible apply Parts.mono h); decide)
    | with_reducible apply State.viaReg_keeps
    | with_reducible apply State.portDisable_keeps
    | with_reducible apply State.portWake_keeps
    | with_reducible apply State.linkCtl_keeps
    | with_reducible apply KeepsR.next
    | with_reducible intro _
    | with_reducible apply KeepsR.ite
    | with_reducible apply Keeps.ite
    | split
    | beta_reduce)

theorem execLaneLost_keeps {P : Part → Bool} {s0 : State} (port : Nat) (lanes : BitVec 4) (clockLane : Bool) (s : State) (h : Parts P [.out, .free, .regs, .ten, .tra, .mat, .wins, .grps, .xlt, .rte, .lnk, .boot, .pwr, .flt, .evr])
    (hs : Keeps P s0 s) : KeepsR P s0 (execLaneLost port lanes clockLane s) := by
  unfold execLaneLost
  repeat' (first
    | with_reducible assumption
    | ((with_reducible apply Parts.mono h); decide)
    | with_reducible apply State.wrF_keeps
    | with_reducible apply State.lanesLost_keeps
    | with_reducible apply KeepsR.next
    | with_reducible intro _
    | (extract_lets +onlyGivenNames x0; first
        | ((with_reducible refine (have hx0 : Keeps P s0 x0 := ?_; ?_)); (on_goal 2 => clear_value x0); (on_goal 1 => subst x0))
        | clear_value x0)
    | with_reducible apply KeepsR.ite
    | with_reducible apply Keeps.ite
    | split)

theorem execEiNextReceive_keeps {P : Part → Bool} {s0 : State} (port : Nat) (s : State) (h : Parts P [.out, .free, .regs, .ten, .tra, .mat, .wins, .grps, .xlt, .rte, .lnk, .boot, .pwr, .flt, .evr])
    (hs : Keeps P s0 s) : KeepsR P s0 (execEiNextReceive port s) := by
  unfold execEiNextReceive
  repeat' (first
    | with_reducible assumption
    | ((with_reducible apply Parts.mono h); decide)
    | with_reducible apply State.wrF_keeps
    | with_reducible apply State.lanes_keeps
    | with_reducible apply State.portBreak_keeps
    | with_reducible apply KeepsR.next
    | with_reducible intro _
    | with_reducible apply KeepsR.ite
    | with_reducible apply Keeps.ite
    | split)

theorem execExitSignalDetect_keeps {P : Part → Bool} {s0 : State} (port : Nat) (lanes : BitVec 4) (s : State) (h : Parts P [.out, .regs, .lnk, .boot, .flt, .evr])
    (hs : Keeps P s0 s) : KeepsR P s0 (execExitSignalDetect port lanes s) := by
  unfold execExitSignalDetect
  repeat' (first
    | with_reducible assumption
    | ((with_reducible apply Parts.mono h); decide)
    | with_reducible apply State.lanes_keeps
    | with_reducible apply State.tryTrain_keeps
    | with_reducible apply State.portEnable_keeps
    | with_reducible apply State.portWake_keeps
    | with_reducible apply KeepsR.next
    | with_reducible intro _
    | (extract_lets +onlyGivenNames x0; first
        | ((with_reducible refine (have hx0 : Keeps P s0 x0 := ?_; ?_)); (on_goal 2 => clear_value x0); (on_goal 1 => subst x0))
        | clear_value x0)
    | with_reducible apply KeepsR.ite
    | with_reducible apply Keeps.ite
    | split)

theorem execCrdSequence_keeps {P : Part → Bool} {s0 : State} (port : Nat) (crd vl : List (BitVec 10)) (total : List (List (BitVec 10))) (crc8 : List (BitVec 10)) (s : State) (h : Parts P [.regs, .lnk])
    (hs : Keeps P s0 s) : KeepsR P s0 (execCrdSequence port crd vl total crc8 s) := by
  unfold execCrdSequence
  refine KeepsR.ite (KeepsR.next hs) ?_
  extract_lets ls r errs s1
  have h1 : Keeps P s0 s1 := State.laneErrs_keeps _ _ _ (h.mono (by decide)) (State.rowsIn_keeps _ _ _ (h.mono (by decide)) hs)
  refine KeepsR.ite (KeepsR.next h1) ?_
  split
  · exact KeepsR.next (State.creditTotal_keeps _ _ _ _ (h.mono (by decide)) h1)
  · exact KeepsR.next h1


theorem execSpanSpeedWrite_keeps {P : Part → Bool} {s0 : State} (rid : Nat) (span : Nat) (val : Word) (s : State) (h : Parts P [.regs, .lnk])
    (hs : Keeps P s0 s) : KeepsR P s0 (execSpanSpeedWrite rid span val s) := by
  unfold execSpanSpeedWrite
  repeat' (first
    | with_reducible assumption
    | ((with_reducible apply Parts.mono h); decide)
    | with_reducible apply State.wrFs_keeps
    | with_reducible apply State.viaReg_keeps
    | with_reducible apply State.reqOwn_keeps
    | with_reducible apply KeepsR.next
    | with_reducible intro _
    | (extract_lets +onlyGivenNames x0; first
        | ((with_reducible refine (have hx0 : Keeps P s0 x0 := ?_; ?_)); (on_goal 2 => clear_value x0); (on_goal 1 => subst x0))
        | clear_value x0)
    | with_reducible apply KeepsR.ite
    | with_reducible apply Keeps.ite
    | split
    | beta_reduce)

end Sys2Proof.Machine
end

