-- ==== Sys2Proof/Laws/HostIf.lean ====
section
/-! SUPPORT. What the operations of Machine/HostIf.lean keep. -/

set_option linter.unusedTactic false
set_option linter.unreachableTactic false
set_option linter.unusedVariables false

namespace Sys2Proof.Machine

open Sys2Proof

theorem execFunctionLevelReset_keeps {P : Part → Bool} {s0 : State} (fn : Nat) (s : State) (h : Parts P [.out, .free, .regs, .ten, .tra, .mat, .wins, .grps, .xlt, .rte, .hst, .irc, .sem, .boot, .pwr, .evr])
    (hs : Keeps P s0 s) : KeepsR P s0 (execFunctionLevelReset fn s) := by
  unfold execFunctionLevelReset
  repeat' (first
    | with_reducible assumption
    | ((with_reducible apply Parts.mono h); decide)
    | with_reducible apply State.drainFn_keeps
    | with_reducible apply KeepsR.next
    | with_reducible intro _
    | with_reducible apply KeepsR.ite
    | with_reducible apply Keeps.ite
    | split)

theorem execD3hotToD0_keeps {P : Part → Bool} {s0 : State} (fn : Nat) (s : State) (h : Parts P [.out, .free, .regs, .ten, .tra, .mat, .wins, .grps, .xlt, .rte, .hst, .irc, .sem, .boot, .pwr, .evr])
    (hs : Keeps P s0 s) : KeepsR P s0 (execD3hotToD0 fn s) := by
  unfold execD3hotToD0
  repeat' (first
    | with_reducible assumption
    | ((with_reducible apply Parts.mono h); decide)
    | with_reducible apply State.drainFn_keeps
    | with_reducible apply KeepsR.next
    | with_reducible intro _
    | with_reducible apply KeepsR.ite
    | with_reducible apply Keeps.ite
    | split)

theorem execVfEnableClear_keeps {P : Part → Bool} {s0 : State} (host : Nat) (s : State) (h : Parts P [.out, .free, .regs, .ten, .tra, .mat, .wins, .grps, .xlt, .rte, .hst, .irc, .sem, .boot, .pwr, .evr])
    (hs : Keeps P s0 s) : KeepsR P s0 (execVfEnableClear host s) := by
  unfold execVfEnableClear
  repeat' (first
    | with_reducible assumption
    | ((with_reducible apply Parts.mono h); decide)
    | with_reducible apply State.drainOne_keeps
    | with_reducible apply KeepsR.next
    | with_reducible apply foldl_keeps
    | with_reducible apply foldl_keepsP
    | with_reducible intro _
    | with_reducible apply KeepsR.ite
    | with_reducible apply Keeps.ite
    | split
    | with_reducible apply KeepsP.mk
    | (with_reducible apply KeepsP.of_eq (by with_reducible assumption))
    | with_reducible apply KeepsP.fst
    | beta_reduce)

theorem execPerstAssert_keeps {P : Part → Bool} {s0 : State} (host : Nat) (s : State) (h : Parts P [.out, .free, .regs, .ten, .tra, .mat, .wins, .grps, .xlt, .rte, .hst, .irc, .sem, .boot, .pwr, .evr])
    (hs : Keeps P s0 s) : KeepsR P s0 (execPerstAssert host s) := by
  unfold execPerstAssert
  repeat' (first
    | with_reducible assumption
    | ((with_reducible apply Parts.mono h); decide)
    | with_reducible apply State.wrF_keeps
    | with_reducible apply State.drainPort_keeps
    | with_reducible apply State.perst_keeps
    | with_reducible apply KeepsR.next
    | with_reducible intro _
    | with_reducible apply KeepsR.ite
    | with_reducible apply Keeps.ite
    | split)

theorem execHotReset_keeps {P : Part → Bool} {s0 : State} (host : Nat) (s : State) (h : Parts P [.out, .free, .regs, .ten, .tra, .mat, .wins, .grps, .xlt, .rte, .hst, .irc, .sem, .boot, .pwr, .evr])
    (hs : Keeps P s0 s) : KeepsR P s0 (execHotReset host s) := by
  unfold execHotReset
  repeat' (first
    | with_reducible assumption
    | ((with_reducible apply Parts.mono h); decide)
    | with_reducible apply State.drainPort_keeps
    | with_reducible apply KeepsR.next
    | with_reducible intro _
    | with_reducible apply KeepsR.ite
    | with_reducible apply Keeps.ite
    | split)

theorem execHostLinkDown_keeps {P : Part → Bool} {s0 : State} (host : Nat) (s : State) (h : Parts P [.out, .free, .regs, .ten, .tra, .mat, .wins, .grps, .xlt, .rte, .hst, .irc, .sem, .boot, .pwr, .evr])
    (hs : Keeps P s0 s) : KeepsR P s0 (execHostLinkDown host s) := by
  unfold execHostLinkDown
  repeat' (first
    | with_reducible assumption
    | ((with_reducible apply Parts.mono h); decide)
    | with_reducible apply State.hostLinkDown_keeps
    | with_reducible apply KeepsR.next
    | with_reducible intro _
    | with_reducible apply KeepsR.ite
    | with_reducible apply Keeps.ite
    | split)

theorem execHostLinkChange_keeps {P : Part → Bool} {s0 : State} (host : Nat) (up : Bool) (speed : Nat) (width : Nat) (flit : Bool) (l0p : Bool) (l1 : Bool) (s : State) (h : Parts P [.regs, .boot, .evr])
    (hs : Keeps P s0 s) : KeepsR P s0 (execHostLinkChange host up speed width flit l0p l1 s) := by
  unfold execHostLinkChange
  repeat' (first
    | with_reducible assumption
    | ((with_reducible apply Parts.mono h); decide)
    | with_reducible apply State.wrFs_keeps
    | with_reducible apply State.hostLinkRec_keeps
    | with_reducible apply KeepsR.next
    | with_reducible intro _
    | (extract_lets +onlyGivenNames x0; first
        | ((with_reducible refine (have hx0 : Keeps P s0 x0 := ?_; ?_)); (on_goal 2 => clear_value x0); (on_goal 1 => subst x0))
        | clear_value x0)
    | with_reducible apply KeepsR.ite
    | with_reducible apply Keeps.ite
    | split)

theorem execResetDrainEnd_keeps {P : Part → Bool} {s0 : State} (fn : Nat) (s : State) (h : Parts P [.out, .free, .now, .ft, .regs, .hbm, .ten, .tra, .mat, .wins, .grps, .xlt, .rte, .lnk, .hst, .irc, .boot, .pwr, .evr])
    (hs : Keeps P s0 s) : KeepsR P s0 (execResetDrainEnd fn s) := by
  unfold execResetDrainEnd
  repeat' (first
    | with_reducible assumption
    | ((with_reducible apply Parts.mono h); decide)
    | with_reducible apply State.drainEnd_keeps
    | with_reducible apply KeepsR.next
    | with_reducible intro _
    | (extract_lets +onlyGivenNames x0; first
        | ((with_reducible refine (have hx0 : Keeps P s0 x0 := ?_; ?_)); (on_goal 2 => clear_value x0); (on_goal 1 => subst x0))
        | clear_value x0)
    | with_reducible apply KeepsR.ite
    | with_reducible apply Keeps.ite
    | split
    | with_reducible apply Keeps.upd
    | with_reducible apply Fuses.refl
    | ((with_reducible apply Or.inr); with_reducible rfl)
    | ((with_reducible apply Or.inl); exact h _ (by decide)))

theorem execResetDrainTimeout_keeps {P : Part → Bool} {s0 : State} (fn : Nat) (s : State) (h : Parts P [.out, .free, .now, .ft, .regs, .hbm, .ten, .tra, .mat, .wins, .grps, .xlt, .rte, .lnk, .hst, .irc, .boot, .pwr, .evr])
    (hs : Keeps P s0 s) : KeepsR P s0 (execResetDrainTimeout fn s) := by
  unfold execResetDrainTimeout
  repeat' (first
    | with_reducible assumption
    | ((with_reducible apply Parts.mono h); decide)
    | with_reducible apply State.passTo_keeps
    | with_reducible apply State.drainTimeout_keeps
    | with_reducible apply KeepsR.next
    | with_reducible apply foldl_keeps
    | with_reducible apply foldl_keepsP
    | with_reducible intro _
    | (extract_lets +onlyGivenNames x0; first
        | ((with_reducible refine (have hx0 : Keeps P s0 x0 := ?_; ?_)); (on_goal 2 => clear_value x0); (on_goal 1 => subst x0))
        | ((with_reducible refine (have hx0 : KeepsP P s0 x0 := ?_; ?_)); (on_goal 2 => clear_value x0); (on_goal 1 => subst x0))
        | clear_value x0)
    | with_reducible apply KeepsR.ite
    | with_reducible apply Keeps.ite
    | split
    | with_reducible apply KeepsP.mk
    | (with_reducible apply KeepsP.of_eq (by with_reducible assumption))
    | with_reducible apply KeepsP.fst
    | with_reducible apply Keeps.upd
    | with_reducible apply Fuses.refl
    | ((with_reducible apply Or.inr); with_reducible rfl)
    | ((with_reducible apply Or.inl); exact h _ (by decide))
    | beta_reduce)

theorem execBusMasterEnableWrite_keeps {P : Part → Bool} {s0 : State} (fn : Nat) (bme : Bool) (s : State) (h : Parts P [.out, .free, .now, .ft, .regs, .hbm, .ten, .tra, .mat, .wins, .grps, .xlt, .rte, .lnk, .hst, .irc, .pwr])
    (hs : Keeps P s0 s) : KeepsR P s0 (execBusMasterEnableWrite fn bme s) := by
  unfold execBusMasterEnableWrite
  repeat' (first
    | with_reducible assumption
    | ((with_reducible apply Parts.mono h); decide)
    | with_reducible apply State.setFn_keeps
    | with_reducible apply State.becameReady_keeps
    | with_reducible apply KeepsR.next
    | with_reducible intro _
    | (extract_lets +onlyGivenNames x0; first
        | ((with_reducible refine (have hx0 : Keeps P s0 x0 := ?_; ?_)); (on_goal 2 => clear_value x0); (on_goal 1 => subst x0))
        | clear_value x0)
    | with_reducible apply KeepsR.ite
    | with_reducible apply Keeps.ite
    | split
    | with_reducible apply Keeps.upd
    | with_reducible apply Fuses.refl
    | ((with_reducible apply Or.inr); with_reducible rfl)
    | ((with_reducible apply Or.inl); exact h _ (by decide)))

theorem State.vecUnmask_keeps {P : Part → Bool} {s0 : State} (s : State) (fn : Nat) (vec : Nat) (h : Parts P [.out, .regs, .ten, .irc])
    (hs : Keeps P s0 s) : Keeps P s0 (State.vecUnmask s fn vec) := by
  unfold State.vecUnmask
  repeat' (first
    | with_reducible assumption
    | ((with_reducible apply Parts.mono h); decide)
    | with_reducible apply State.setFn_keeps
    | with_reducible apply State.resample_keeps
    | with_reducible apply State.vecResample_keeps
    | with_reducible intro _
    | (extract_lets +onlyGivenNames x0; first
        | ((with_reducible refine (have hx0 : Keeps P s0 x0 := ?_; ?_)); (on_goal 2 => clear_value x0); (on_goal 1 => subst x0))
        | clear_value x0)
    | with_reducible apply Keeps.ite
    | split
    | with_reducible apply Keeps.upd
    | with_reducible apply Fuses.refl
    | ((with_reducible apply Or.inr); with_reducible rfl)
    | ((with_reducible apply Or.inl); exact h _ (by decide)))

theorem execMsixUnmask_keeps {P : Part → Bool} {s0 : State} (fn : Nat) (vec : Nat) (s : State) (h : Parts P [.out, .regs, .ten, .irc])
    (hs : Keeps P s0 s) : KeepsR P s0 (execMsixUnmask fn vec s) := by
  unfold execMsixUnmask
  repeat' (first
    | with_reducible assumption
    | ((with_reducible apply Parts.mono h); decide)
    | with_reducible apply State.vecUnmask_keeps
    | with_reducible apply KeepsR.next
    | with_reducible intro _
    | with_reducible apply KeepsR.ite
    | with_reducible apply Keeps.ite
    | split)

theorem execIdeIntegrityFail_keeps {P : Part → Bool} {s0 : State} (host : Nat) (stream : Nat) (s : State) (h : Parts P [.regs, .hst, .boot, .evr])
    (hs : Keeps P s0 s) : KeepsR P s0 (execIdeIntegrityFail host stream s) := by
  unfold execIdeIntegrityFail
  repeat' (first
    | with_reducible assumption
    | ((with_reducible apply Parts.mono h); decide)
    | with_reducible apply State.wrF_keeps
    | with_reducible apply State.wrFs_keeps
    | with_reducible apply State.note_keeps
    | with_reducible apply KeepsR.next
    | with_reducible intro _
    | (extract_lets +onlyGivenNames x0; first
        | ((with_reducible refine (have hx0 : Keeps P s0 x0 := ?_; ?_)); (on_goal 2 => clear_value x0); (on_goal 1 => subst x0))
        | clear_value x0)
    | with_reducible apply KeepsR.ite
    | with_reducible apply Keeps.ite
    | split
    | with_reducible apply Keeps.upd
    | with_reducible apply Fuses.refl
    | ((with_reducible apply Or.inr); with_reducible rfl)
    | ((with_reducible apply Or.inl); exact h _ (by decide)))

theorem State.setDoe_keeps {P : Part → Bool} {s0 : State} (s : State) (host : Nat) (d : Doe) (h : Parts P [.hst])
    (hs : Keeps P s0 s) : Keeps P s0 (State.setDoe s host d) := by
  unfold State.setDoe
  repeat' (first
    | with_reducible assumption
    | ((with_reducible apply Parts.mono h); decide)
    | with_reducible intro _
    | (extract_lets +onlyGivenNames x0; first
        | ((with_reducible refine (have hx0 : Keeps P s0 x0 := ?_; ?_)); (on_goal 2 => clear_value x0); (on_goal 1 => subst x0))
        | clear_value x0)
    | split
    | with_reducible apply Keeps.upd
    | with_reducible apply Fuses.refl
    | ((with_reducible apply Or.inr); with_reducible rfl)
    | ((with_reducible apply Or.inl); exact h _ (by decide)))

theorem State.doeAnswer_keeps {P : Part → Bool} {s0 : State} (s : State) (host : Nat) (h : Parts P [.out, .regs, .ten, .hst])
    (hs : Keeps P s0 s) : Keeps P s0 (State.doeAnswer s host) := by
  unfold State.doeAnswer
  repeat' (first
    | with_reducible assumption
    | ((with_reducible apply Parts.mono h); decide)
    | with_reducible apply State.emit_keeps
    | with_reducible apply State.msix_keeps
    | with_reducible apply State.setDoe_keeps
    | with_reducible intro _
    | split)

theorem execDoeRequest_keeps {P : Part → Bool} {s0 : State} (host : Nat) (type : DoeType) (length : Nat) (s : State) (h : Parts P [.out, .regs, .ten, .hst])
    (hs : Keeps P s0 s) : KeepsR P s0 (execDoeRequest host type length s) := by
  unfold execDoeRequest
  repeat' (first
    | with_reducible assumption
    | ((with_reducible apply Parts.mono h); decide)
    | with_reducible apply State.setDoe_keeps
    | with_reducible apply State.doeAnswer_keeps
    | with_reducible apply KeepsR.next
    | with_reducible intro _
    | (extract_lets +onlyGivenNames x0; first
        | ((with_reducible refine (have hx0 : Keeps P s0 x0 := ?_; ?_)); (on_goal 2 => clear_value x0); (on_goal 1 => subst x0))
        | clear_value x0)
    | with_reducible apply KeepsR.ite
    | with_reducible apply Keeps.ite
    | split
    | with_reducible apply Keeps.upd
    | with_reducible apply Fuses.refl
    | ((with_reducible apply Or.inr); with_reducible rfl)
    | ((with_reducible apply Or.inl); exact h _ (by decide)))

theorem execDoeAbort_keeps {P : Part → Bool} {s0 : State} (host : Nat) (s : State) (h : Parts P [.hst])
    (hs : Keeps P s0 s) : KeepsR P s0 (execDoeAbort host s) := by
  unfold execDoeAbort
  repeat' (first
    | with_reducible assumption
    | ((with_reducible apply Parts.mono h); decide)
    | with_reducible apply State.doeAbort_keeps
    | with_reducible apply KeepsR.next
    | with_reducible intro _
    | with_reducible apply KeepsR.ite
    | with_reducible apply Keeps.ite
    | split)

end Sys2Proof.Machine
end

