-- ==== Sys2Proof/Laws/Power.lean ====
section
/-! SUPPORT. What the operations of Machine/Power.lean keep. -/

set_option linter.unusedTactic false
set_option linter.unreachableTactic false
set_option linter.unusedVariables false

namespace Sys2Proof.Machine

open Sys2Proof

theorem State.domWrite_keeps {P : Part → Bool} {s0 : State} (s : State) (rid : Nat) (dom : Nat) (val : Word) (h : Parts P [.out, .free, .regs, .ten, .tra, .mat, .wins, .grps, .xlt, .rte, .lnk, .boot, .pwr, .flt, .evr])
    (hs : Keeps P s0 s) : Keeps P s0 (State.domWrite s rid dom val) := by
  unfold State.domWrite
  repeat' (first
    | with_reducible assumption
    | ((with_reducible apply Parts.mono h); decide)
    | with_reducible apply State.viaReg_keeps
    | with_reducible apply State.domCtl_keeps
    | with_reducible intro _
    | with_reducible apply Keeps.ite
    | split
    | beta_reduce)

theorem execDomainEnable_keeps {P : Part → Bool} {s0 : State} (rid : Nat) (dom : Nat) (val : Word) (s : State) (h : Parts P [.out, .free, .regs, .ten, .tra, .mat, .wins, .grps, .xlt, .rte, .lnk, .boot, .pwr, .flt, .evr])
    (hs : Keeps P s0 s) : KeepsR P s0 (execDomainEnable rid dom val s) := by
  unfold execDomainEnable
  repeat' (first
    | with_reducible assumption
    | ((with_reducible apply Parts.mono h); decide)
    | with_reducible apply State.domWrite_keeps
    | with_reducible apply KeepsR.next
    | with_reducible intro _
    | split)

theorem execDomainDisable_keeps {P : Part → Bool} {s0 : State} (rid : Nat) (dom : Nat) (val : Word) (s : State) (h : Parts P [.out, .free, .regs, .ten, .tra, .mat, .wins, .grps, .xlt, .rte, .lnk, .boot, .pwr, .flt, .evr])
    (hs : Keeps P s0 s) : KeepsR P s0 (execDomainDisable rid dom val s) := by
  unfold execDomainDisable
  repeat' (first
    | with_reducible assumption
    | ((with_reducible apply Parts.mono h); decide)
    | with_reducible apply State.domWrite_keeps
    | with_reducible apply KeepsR.next
    | with_reducible intro _
    | split)

theorem execDomainWake_keeps {P : Part → Bool} {s0 : State} (rid : Nat) (dom : Nat) (val : Word) (s : State) (h : Parts P [.out, .free, .regs, .ten, .tra, .mat, .wins, .grps, .xlt, .rte, .lnk, .boot, .pwr, .flt, .evr])
    (hs : Keeps P s0 s) : KeepsR P s0 (execDomainWake rid dom val s) := by
  unfold execDomainWake
  repeat' (first
    | with_reducible assumption
    | ((with_reducible apply Parts.mono h); decide)
    | with_reducible apply State.domWrite_keeps
    | with_reducible apply KeepsR.next
    | with_reducible intro _
    | split)

theorem execThrottleWrite_keeps {P : Part → Bool} {s0 : State} (rid : Nat) (dom : Nat) (val : Word) (s : State) (h : Parts P [.out, .free, .regs, .ten, .tra, .mat, .wins, .grps, .xlt, .rte, .lnk, .boot, .pwr, .flt, .evr])
    (hs : Keeps P s0 s) : KeepsR P s0 (execThrottleWrite rid dom val s) := by
  unfold execThrottleWrite
  repeat' (first
    | with_reducible assumption
    | ((with_reducible apply Parts.mono h); decide)
    | with_reducible apply State.domWrite_keeps
    | with_reducible apply KeepsR.next
    | with_reducible intro _
    | split)

theorem execDomainDrainEnd_keeps {P : Part → Bool} {s0 : State} (dom : Nat) (s : State) (h : Parts P [.regs, .mat, .xlt, .lnk, .boot, .pwr, .evr])
    (hs : Keeps P s0 s) : KeepsR P s0 (execDomainDrainEnd dom s) := by
  unfold execDomainDrainEnd
  repeat' (first
    | with_reducible assumption
    | ((with_reducible apply Parts.mono h); decide)
    | with_reducible apply State.domEnd_keeps
    | with_reducible apply KeepsR.next
    | with_reducible intro _
    | with_reducible apply KeepsR.ite
    | with_reducible apply Keeps.ite
    | split)

theorem execDomainDrainTimeout_keeps {P : Part → Bool} {s0 : State} (dom : Nat) (s : State) (h : Parts P [.out, .free, .now, .ft, .regs, .hbm, .ten, .tra, .mat, .wins, .grps, .xlt, .rte, .lnk, .hst, .irc, .boot, .pwr, .evr])
    (hs : Keeps P s0 s) : KeepsR P s0 (execDomainDrainTimeout dom s) := by
  unfold execDomainDrainTimeout
  repeat' (first
    | with_reducible assumption
    | ((with_reducible apply Parts.mono h); decide)
    | with_reducible apply State.passTo_keeps
    | with_reducible apply State.domForce_keeps
    | with_reducible apply State.domEnd_keeps
    | with_reducible apply KeepsR.next
    | with_reducible intro _
    | (extract_lets +onlyGivenNames x0; first
        | ((with_reducible refine (have hx0 : Keeps P s0 x0 := ?_; ?_)); (on_goal 2 => clear_value x0); (on_goal 1 => subst x0))
        | clear_value x0)
    | with_reducible apply KeepsR.ite
    | with_reducible apply Keeps.ite
    | split
    | with_reducible apply Keeps.upd
    | with_reducible apply Fuses.refl
    | ((with_reducible apply Or.inr); with_reducible rfl)
    | ((with_reducible apply Or.inl); exact h _ (by decide)))

theorem execDomainPowerUpComplete_keeps {P : Part → Bool} {s0 : State} (dom : Nat) (s : State) (h : Parts P [.out, .free, .now, .ft, .regs, .hbm, .ten, .tra, .mat, .wins, .grps, .xlt, .rte, .lnk, .hst, .boot, .pwr, .flt, .evr])
    (hs : Keeps P s0 s) : KeepsR P s0 (execDomainPowerUpComplete dom s) := by
  unfold execDomainPowerUpComplete
  repeat' (first
    | with_reducible assumption
    | ((with_reducible apply Parts.mono h); decide)
    | with_reducible apply State.wrF_keeps
    | with_reducible apply State.passTo_keeps
    | with_reducible apply State.domMove_keeps
    | with_reducible apply State.domReached_keeps
    | with_reducible apply KeepsR.next
    | with_reducible intro _
    | (extract_lets +onlyGivenNames x0; first
        | ((with_reducible refine (have hx0 : Keeps P s0 x0 := ?_; ?_)); (on_goal 2 => clear_value x0); (on_goal 1 => subst x0))
        | clear_value x0)
    | with_reducible apply KeepsR.ite
    | with_reducible apply Keeps.ite
    | split)

theorem execEngIdleExpiry_keeps {P : Part → Bool} {s0 : State} (dom : Nat) (s : State) (h : Parts P [.regs, .lnk, .pwr, .flt])
    (hs : Keeps P s0 s) : KeepsR P s0 (execEngIdleExpiry dom s) := by
  unfold execEngIdleExpiry
  repeat' (first
    | with_reducible assumption
    | ((with_reducible apply Parts.mono h); decide)
    | with_reducible apply State.wrF_keeps
    | with_reducible apply State.updDom_keeps
    | with_reducible apply State.sliceDom_keeps
    | with_reducible apply KeepsR.next
    | with_reducible intro _
    | (extract_lets +onlyGivenNames x0; first
        | ((with_reducible refine (have hx0 : Keeps P s0 x0 := ?_; ?_)); (on_goal 2 => clear_value x0); (on_goal 1 => subst x0))
        | clear_value x0)
    | with_reducible apply KeepsR.ite
    | with_reducible apply Keeps.ite
    | split
    | with_reducible apply Keeps.upd
    | with_reducible apply Fuses.refl
    | ((with_reducible apply Or.inr); with_reducible rfl)
    | ((with_reducible apply Or.inl); exact h _ (by decide))
    | beta_reduce)

theorem execSleepEntryComplete_keeps {P : Part → Bool} {s0 : State} (dom : Nat) (s : State) (h : Parts P [.mat, .xlt, .pwr])
    (hs : Keeps P s0 s) : KeepsR P s0 (execSleepEntryComplete dom s) := by
  unfold execSleepEntryComplete
  repeat' (first
    | with_reducible assumption
    | ((with_reducible apply Parts.mono h); decide)
    | with_reducible apply State.updDom_keeps
    | with_reducible apply State.domCold_keeps
    | with_reducible apply KeepsR.next
    | with_reducible intro _
    | (extract_lets +onlyGivenNames x0; first
        | ((with_reducible refine (have hx0 : Keeps P s0 x0 := ?_; ?_)); (on_goal 2 => clear_value x0); (on_goal 1 => subst x0))
        | clear_value x0)
    | with_reducible apply KeepsR.ite
    | with_reducible apply Keeps.ite
    | split
    | with_reducible apply Keeps.upd
    | with_reducible apply Fuses.refl
    | ((with_reducible apply Or.inr); with_reducible rfl)
    | ((with_reducible apply Or.inl); exact h _ (by decide))
    | beta_reduce)

theorem execPortIdleExpiry_keeps {P : Part → Bool} {s0 : State} (port : Nat) (s : State) (h : Parts P [.out, .free, .now, .ft, .regs, .ten, .tra, .mat, .wins, .grps, .xlt, .rte, .lnk, .boot, .pwr, .flt, .evr])
    (hs : Keeps P s0 s) : KeepsR P s0 (execPortIdleExpiry port s) := by
  unfold execPortIdleExpiry
  repeat' (first
    | with_reducible assumption
    | ((with_reducible apply Parts.mono h); decide)
    | with_reducible apply State.wrF_keeps
    | with_reducible apply State.note_keeps
    | with_reducible apply State.passTo_keeps
    | with_reducible apply State.portDisable_keeps
    | with_reducible apply KeepsR.next
    | with_reducible intro _
    | (extract_lets +onlyGivenNames x0; first
        | ((with_reducible refine (have hx0 : Keeps P s0 x0 := ?_; ?_)); (on_goal 2 => clear_value x0); (on_goal 1 => subst x0))
        | clear_value x0)
    | with_reducible apply KeepsR.ite
    | with_reducible apply Keeps.ite
    | split)

theorem execPerstDeassert_keeps {P : Part → Bool} {s0 : State} (host : Nat) (s : State) (h : Parts P [.regs, .boot, .pwr, .evr])
    (hs : Keeps P s0 s) : KeepsR P s0 (execPerstDeassert host s) := by
  unfold execPerstDeassert
  repeat' (first
    | with_reducible assumption
    | ((with_reducible apply Parts.mono h); decide)
    | with_reducible apply State.wrF_keeps
    | with_reducible apply State.perst_keeps
    | with_reducible apply State.domEnable_keeps
    | with_reducible apply KeepsR.next
    | with_reducible intro _
    | (extract_lets +onlyGivenNames x0; first
        | ((with_reducible refine (have hx0 : Keeps P s0 x0 := ?_; ?_)); (on_goal 2 => clear_value x0); (on_goal 1 => subst x0))
        | ((with_reducible have _x0 : Boot := x0); clear _x0; subst x0)
        | clear_value x0)
    | with_reducible apply KeepsR.ite
    | with_reducible apply Keeps.ite
    | split)

end Sys2Proof.Machine
end

