-- ==== Sys2Proof/Laws/TestOps.lean ====
section
/-! SUPPORT. What the operations of Machine/TestOps.lean keep. -/

set_option linter.unusedTactic false
set_option linter.unreachableTactic false
set_option linter.unusedVariables false

namespace Sys2Proof.Machine

open Sys2Proof

theorem State.stRefusedRec_keeps {P : Part → Bool} {s0 : State} (s : State) (cause : Nat) (input : Nat) (n : Nat) (kind : Nat) (unit : Nat) (h : Parts P [.boot, .evr])
    (hs : Keeps P s0 s) : Keeps P s0 (State.stRefusedRec s cause input n kind unit) := by
  unfold State.stRefusedRec
  repeat' (first
    | with_reducible assumption
    | ((with_reducible apply Parts.mono h); decide)
    | with_reducible apply State.record_keeps
    | with_reducible intro _
    | split)

theorem State.stRefuse_keeps {P : Part → Bool} {s0 : State} (s : State) (cause : Nat) (input : Nat) (kind : Nat) (unit : Nat) (h : Parts P [.regs, .boot, .flt, .evr])
    (hs : Keeps P s0 s) : Keeps P s0 (State.stRefuse s cause input kind unit) := by
  unfold State.stRefuse
  repeat' (first
    | with_reducible assumption
    | ((with_reducible apply Parts.mono h); decide)
    | with_reducible apply State.bump_keeps
    | with_reducible apply State.stRefusedRec_keeps
    | with_reducible intro _
    | (extract_lets +onlyGivenNames x0; first
        | ((with_reducible refine (have hx0 : Keeps P s0 x0 := ?_; ?_)); (on_goal 2 => clear_value x0); (on_goal 1 => subst x0))
        | clear_value x0)
    | with_reducible apply Keeps.ite
    | split
    | with_reducible apply Keeps.upd
    | with_reducible apply Fuses.refl
    | ((with_reducible apply Or.inr); with_reducible rfl)
    | ((with_reducible apply Or.inl); exact h _ (by decide))
    | beta_reduce)

theorem State.cmdEnd_keeps {P : Part → Bool} {s0 : State} (s : State) (status : Nat) (h : Parts P [.regs])
    (hs : Keeps P s0 s) : Keeps P s0 (State.cmdEnd s status) := by
  unfold State.cmdEnd
  repeat' (first
    | with_reducible assumption
    | ((with_reducible apply Parts.mono h); decide)
    | with_reducible apply State.wrF_keeps
    | with_reducible intro _
    | split)

theorem State.sliceStart_keeps {P : Part → Bool} {s0 : State} (s : State) (kind : Nat) (u : Nat) (commanded : Bool) (h : Parts P [.regs, .xlt, .lnk, .flt])
    (hs : Keeps P s0 s) : Keeps P s0 (State.sliceStart s kind u commanded) := by
  unfold State.sliceStart
  repeat' (first
    | with_reducible assumption
    | ((with_reducible apply Parts.mono h); decide)
    | with_reducible apply State.wrF_keeps
    | with_reducible apply State.reqOwn_keeps
    | with_reducible apply State.setSpare_keeps
    | with_reducible intro _
    | (extract_lets +onlyGivenNames x0; first
        | ((with_reducible refine (have hx0 : Keeps P s0 x0 := ?_; ?_)); (on_goal 2 => clear_value x0); (on_goal 1 => subst x0))
        | clear_value x0)
    | with_reducible apply Keeps.ite
    | split
    | with_reducible apply Keeps.upd
    | with_reducible apply Fuses.refl
    | ((with_reducible apply Or.inr); with_reducible rfl)
    | ((with_reducible apply Or.inl); exact h _ (by decide))
    | beta_reduce)

theorem State.periodicGo_keeps {P : Part → Bool} {s0 : State} (s : State) (k : Nat × Nat) (rot : Nat) (cause : Option (Nat × Nat)) (h : Parts P [.regs, .xlt, .lnk, .boot, .flt, .evr])
    (hs : Keeps P s0 s) : Keeps P s0 (State.periodicGo s k rot cause) := by
  unfold State.periodicGo
  repeat' (first
    | with_reducible assumption
    | ((with_reducible apply Parts.mono h); decide)
    | with_reducible apply State.stRefuse_keeps
    | with_reducible apply State.sliceStart_keeps
    | with_reducible intro _
    | (extract_lets +onlyGivenNames x0; first
        | ((with_reducible refine (have hx0 : Keeps P s0 x0 := ?_; ?_)); (on_goal 2 => clear_value x0); (on_goal 1 => subst x0))
        | clear_value x0)
    | split
    | with_reducible apply Keeps.upd
    | with_reducible apply Fuses.refl
    | ((with_reducible apply Or.inr); with_reducible rfl)
    | ((with_reducible apply Or.inl); exact h _ (by decide)))

theorem State.periodic_keeps {P : Part → Bool} {s0 : State} (s : State) (h : Parts P [.regs, .xlt, .lnk, .boot, .flt, .evr])
    (hs : Keeps P s0 s) : Keeps P s0 (State.periodic s) := by
  unfold State.periodic
  repeat' (first
    | with_reducible assumption
    | ((with_reducible apply Parts.mono h); decide)
    | with_reducible apply State.bump_keeps
    | with_reducible apply State.periodicGo_keeps
    | with_reducible intro _
    | (extract_lets +onlyGivenNames x0; first
        | ((with_reducible refine (have hx0 : Keeps P s0 x0 := ?_; ?_)); (on_goal 2 => clear_value x0); (on_goal 1 => subst x0))
        | clear_value x0)
    | with_reducible apply Keeps.ite
    | split
    | with_reducible apply Keeps.upd
    | with_reducible apply Fuses.refl
    | ((with_reducible apply Or.inr); with_reducible rfl)
    | ((with_reducible apply Or.inl); exact h _ (by decide)))

theorem State.stResult_keeps {P : Part → Bool} {s0 : State} (s : State) (kind : Nat) (u : Nat) (repair : Nat) (bit : Nat) (address : BitVec 32) (expected : Word) (h : Parts P [.regs, .boot, .evr])
    (hs : Keeps P s0 s) : Keeps P s0 (State.stResult s kind u repair bit address expected) := by
  unfold State.stResult
  repeat' (first
    | with_reducible assumption
    | ((with_reducible apply Parts.mono h); decide)
    | with_reducible apply State.capture_keeps
    | with_reducible apply State.record_keeps
    | with_reducible intro _
    | (extract_lets +onlyGivenNames x0; first
        | ((with_reducible refine (have hx0 : Keeps P s0 x0 := ?_; ?_)); (on_goal 2 => clear_value x0); (on_goal 1 => subst x0))
        | clear_value x0)
    | split)

theorem State.stFault_keeps {P : Part → Bool} {s0 : State} (s : State) (repaired : Bool) (h : Parts P [.out, .free, .now, .ft, .regs, .hbm, .ten, .tra, .mat, .wins, .grps, .xlt, .rte, .lnk, .hst, .irc, .sem, .boot, .pwr, .flt, .evr])
    (hs : Keeps P s0 s) : Keeps P s0 (State.stFault s repaired) := by
  unfold State.stFault
  repeat' (first
    | with_reducible assumption
    | ((with_reducible apply Parts.mono h); decide)
    | with_reducible apply State.ceOccur_keeps
    | with_reducible apply State.ucOccur_keeps
    | with_reducible intro _
    | with_reducible apply Keeps.ite
    | split)

theorem State.stRepair_keeps {P : Part → Bool} {s0 : State} (s : State) (kind : Nat) (u : Nat) (h : Parts P [.regs, .lnk, .boot, .flt, .evr])
    (hs : Keeps P s0 s) : KeepsP P s0 (State.stRepair s kind u) := by
  unfold State.stRepair
  repeat' (first
    | with_reducible assumption
    | ((with_reducible apply Parts.mono h); decide)
    | with_reducible apply State.wrF_keeps
    | with_reducible apply State.note_keeps
    | with_reducible apply State.ceRaise_keeps
    | with_reducible apply State.laneReturn_keeps
    | with_reducible apply State.setSpare_keeps
    | with_reducible intro _
    | (extract_lets +onlyGivenNames x0; first
        | ((with_reducible refine (have hx0 : Keeps P s0 x0 := ?_; ?_)); (on_goal 2 => clear_value x0); (on_goal 1 => subst x0))
        | ((with_reducible refine (have hx0 : KeepsP P s0 x0 := ?_; ?_)); (on_goal 2 => clear_value x0); (on_goal 1 => subst x0))
        | clear_value x0)
    | split
    | with_reducible apply KeepsP.mk
    | (with_reducible apply KeepsP.of_eq (by with_reducible assumption))
    | with_reducible apply KeepsP.fst
    | with_reducible apply Keeps.upd
    | with_reducible apply Fuses.refl
    | ((with_reducible apply Or.inr); with_reducible rfl)
    | ((with_reducible apply Or.inl); exact h _ (by decide)))

theorem State.sliceDone_keeps {P : Part → Bool} {s0 : State} (s : State) (sl : Slice) (h : Parts P [.regs, .flt])
    (hs : Keeps P s0 s) : Keeps P s0 (State.sliceDone s sl) := by
  unfold State.sliceDone
  repeat' (first
    | with_reducible assumption
    | ((with_reducible apply Parts.mono h); decide)
    | with_reducible apply State.wrF_keeps
    | with_reducible apply State.bump_keeps
    | with_reducible apply State.cmdEnd_keeps
    | with_reducible intro _
    | (extract_lets +onlyGivenNames x0; first
        | ((with_reducible refine (have hx0 : Keeps P s0 x0 := ?_; ?_)); (on_goal 2 => clear_value x0); (on_goal 1 => subst x0))
        | clear_value x0)
    | with_reducible apply Keeps.ite
    | split
    | with_reducible apply Keeps.upd
    | with_reducible apply Fuses.refl
    | ((with_reducible apply Or.inr); with_reducible rfl)
    | ((with_reducible apply Or.inl); exact h _ (by decide)))

theorem State.fullStart_keeps {P : Part → Bool} {s0 : State} (s : State) (h : Parts P [.regs, .hbm, .ten, .tra, .mat, .wins, .grps, .xlt, .rte, .flt])
    (hs : Keeps P s0 s) : Keeps P s0 (State.fullStart s) := by
  have base : Keeps P s0 { s with
      flt.full := true, ten.qps := [], ten.cqs := [], ten.eqs := [], ten.allocs := [],
      tra := { State.reset.tra with peerInc := s.tra.peerInc, stales := s.tra.stales, tag := s.tra.tag },
      mat := State.reset.mat, wins := [], grps := [], xlt := State.reset.xlt, rte := State.reset.rte, hbm := [] } := by
    refine hs.trans ⟨rfl, fun x hx => ?_, id, fun _ => rfl, Nat.le_refl _, List.prefix_refl _, Nat.le_refl _, Fuses.refl _⟩
    cases x <;> first | rfl | (rw [h _ (by simp)] at hx; cases hx)
  exact State.wrF_keeps _ _ _ _ (h.mono (by decide)) base


theorem State.fuse_keeps {P : Part → Bool} {s0 : State} (s : State) (h : Parts P [.regs, .boot, .flt, .evr])
    (hs : Keeps P s0 s) : Keeps P s0 (State.fuse s) := by
  unfold State.fuse
  repeat' (first
    | with_reducible assumption
    | ((with_reducible apply Parts.mono h); decide)
    | with_reducible apply State.setSpare_keeps
    | with_reducible apply State.cmdEnd_keeps
    | with_reducible apply State.stResult_keeps
    | with_reducible apply foldl_keeps
    | with_reducible apply foldl_keepsP
    | with_reducible intro _
    | (extract_lets +onlyGivenNames x0; first
        | ((with_reducible refine (have hx0 : Keeps P s0 x0 := ?_; ?_)); (on_goal 2 => clear_value x0); (on_goal 1 => subst x0))
        | ((with_reducible refine (have hx0 : KeepsP P s0 x0 := ?_; ?_)); (on_goal 2 => clear_value x0); (on_goal 1 => subst x0))
        | ((with_reducible have _x0 : Boot := x0); clear _x0; subst x0)
        | clear_value x0)
    | split
    | with_reducible apply KeepsP.mk
    | (with_reducible apply KeepsP.of_eq (by with_reducible assumption))
    | with_reducible apply KeepsP.fst
    | with_reducible apply Keeps.upd
    | with_reducible apply Fuses.refl
    | ((with_reducible apply Fuses.mk) <;> first | exact fun l => ⟨l, Nat.le_refl _, Nat.le_refl _⟩ | exact fun o => ⟨o, rfl⟩ | exact Nat.le_refl _ | exact fun o => o)
    | ((with_reducible apply Or.inr); with_reducible rfl)
    | ((with_reducible apply Or.inl); exact h _ (by decide))
    | beta_reduce)

theorem State.cmdRun_keeps {P : Part → Bool} {s0 : State} (s : State) (kind : Nat) (u : Nat) (h : Parts P [.regs, .hbm, .ten, .tra, .mat, .wins, .grps, .xlt, .rte, .lnk, .boot, .flt, .evr])
    (hs : Keeps P s0 s) : Keeps P s0 (State.cmdRun s kind u) := by
  unfold State.cmdRun
  repeat' (first
    | with_reducible assumption
    | ((with_reducible apply Parts.mono h); decide)
    | with_reducible apply State.stRefusedRec_keeps
    | with_reducible apply State.stRefuse_keeps
    | with_reducible apply State.cmdEnd_keeps
    | with_reducible apply State.sliceStart_keeps
    | with_reducible apply State.fullStart_keeps
    | with_reducible apply State.fuse_keeps
    | with_reducible intro _
    | (extract_lets +onlyGivenNames x0; first
        | ((with_reducible refine (have hx0 : Keeps P s0 x0 := ?_; ?_)); (on_goal 2 => clear_value x0); (on_goal 1 => subst x0))
        | clear_value x0)
    | with_reducible apply Keeps.ite
    | split
    | with_reducible apply Keeps.upd
    | with_reducible apply Fuses.refl
    | ((with_reducible apply Or.inr); with_reducible rfl)
    | ((with_reducible apply Or.inl); exact h _ (by decide)))

theorem State.stcCmd_keeps {P : Part → Bool} {s0 : State} (s : State) (val : Word) (h : Parts P [.regs, .hbm, .ten, .tra, .mat, .wins, .grps, .xlt, .rte, .lnk, .boot, .flt, .evr])
    (hs : Keeps P s0 s) : Keeps P s0 (State.stcCmd s val) := by
  unfold State.stcCmd
  repeat' (first
    | with_reducible assumption
    | ((with_reducible apply Parts.mono h); decide)
    | with_reducible apply State.wrF_keeps
    | with_reducible apply State.stRefusedRec_keeps
    | with_reducible apply State.cmdEnd_keeps
    | with_reducible apply State.cmdRun_keeps
    | with_reducible intro _
    | (extract_lets +onlyGivenNames x0; first
        | ((with_reducible refine (have hx0 : Keeps P s0 x0 := ?_; ?_)); (on_goal 2 => clear_value x0); (on_goal 1 => subst x0))
        | clear_value x0)
    | with_reducible apply Keeps.ite
    | split
    | with_reducible apply Keeps.upd
    | with_reducible apply Fuses.refl
    | ((with_reducible apply Or.inr); with_reducible rfl)
    | ((with_reducible apply Or.inl); exact h _ (by decide)))

end Sys2Proof.Machine
end

