-- ==== Sys2Proof/Laws/SelfTest.lean ====
section
/-! SUPPORT. What the operations of Machine/SelfTest.lean keep. -/

set_option linter.unusedTactic false
set_option linter.unreachableTactic false
set_option linter.unusedVariables false

namespace Sys2Proof.Machine

open Sys2Proof

theorem execSelftestPeriod_keeps {P : Part → Bool} {s0 : State} (s : State) (h : Parts P [.now, .ft, .regs, .hbm, .ten, .tra, .mat, .wins, .grps, .xlt, .rte, .lnk, .boot, .pwr, .flt, .evr])
    (hs : Keeps P s0 s) : KeepsR P s0 (execSelftestPeriod s) := by
  unfold execSelftestPeriod
  repeat' (first
    | with_reducible assumption
    | ((with_reducible apply Parts.mono h); decide)
    | with_reducible apply State.passTo_keeps
    | with_reducible apply State.periodic_keeps
    | with_reducible apply State.cmdRun_keeps
    | with_reducible apply KeepsR.next
    | with_reducible intro _
    | (extract_lets +onlyGivenNames x0; first
        | ((with_reducible refine (have hx0 : Keeps P s0 x0 := ?_; ?_)); (on_goal 2 => clear_value x0); (on_goal 1 => subst x0))
        | clear_value x0)
    | with_reducible apply KeepsR.ite
    | with_reducible apply Keeps.ite
    | split
    | with_reducible apply Keeps.upd
    | with_reducible apply Fuses.refl
    | ((with_reducible apply Or.inr); with_reducible rfl)
    | ((with_reducible apply Or.inl); exact h _ (by decide)))

theorem execSliceEnd_keeps {P : Part → Bool} {s0 : State} (finding : SliceFinding) (s : State) (h : Parts P [.out, .free, .now, .ft, .regs, .hbm, .ten, .tra, .mat, .wins, .grps, .xlt, .rte, .lnk, .hst, .irc, .sem, .boot, .pwr, .flt, .evr])
    (hs : Keeps P s0 s) : KeepsR P s0 (execSliceEnd finding s) := by
  unfold execSliceEnd
  repeat' (first
    | with_reducible assumption
    | ((with_reducible apply Parts.mono h); decide)
    | with_reducible apply State.laneReturn_keeps
    | with_reducible apply State.setSpare_keeps
    | with_reducible apply State.stResult_keeps
    | with_reducible apply State.stFault_keeps
    | with_reducible apply State.stRepair_keeps
    | with_reducible apply State.sliceDone_keeps
    | with_reducible apply KeepsR.next
    | with_reducible intro _
    | (extract_lets +onlyGivenNames x0; first
        | ((with_reducible refine (have hx0 : Keeps P s0 x0 := ?_; ?_)); (on_goal 2 => clear_value x0); (on_goal 1 => subst x0))
        | ((with_reducible refine (have hx0 : KeepsP P s0 x0 := ?_; ?_)); (on_goal 2 => clear_value x0); (on_goal 1 => subst x0))
        | clear_value x0)
    | with_reducible apply KeepsR.ite
    | with_reducible apply Keeps.ite
    | split
    | with_reducible apply KeepsP.mk
    | (with_reducible apply KeepsP.of_eq (by with_reducible assumption))
    | with_reducible apply KeepsP.fst
    | with_reducible apply Keeps.upd
    | with_reducible apply Fuses.refl
    | ((with_reducible apply Or.inr); with_reducible rfl)
    | ((with_reducible apply Or.inl); exact h _ (by decide)))

theorem State.spareFreed_keeps {P : Part → Bool} {s0 : State} (s : State) (k : Nat) (h : Parts P [.flt])
    (hs : Keeps P s0 s) : Keeps P s0 (State.spareFreed s k) := by
  unfold State.spareFreed
  repeat' (first
    | with_reducible assumption
    | ((with_reducible apply Parts.mono h); decide)
    | with_reducible apply State.setSpare_keeps
    | with_reducible intro _
    | (extract_lets +onlyGivenNames x0; first
        | ((with_reducible refine (have hx0 : Keeps P s0 x0 := ?_; ?_)); (on_goal 2 => clear_value x0); (on_goal 1 => subst x0))
        | clear_value x0)
    | split
    | with_reducible apply Keeps.upd
    | with_reducible apply Fuses.refl
    | ((with_reducible apply Or.inr); with_reducible rfl)
    | ((with_reducible apply Or.inl); exact h _ (by decide))
    | beta_reduce)

theorem execBankCopyComplete_keeps {P : Part → Bool} {s0 : State} (bank : Nat) (_copyUs : Nat) (s : State) (h : Parts P [.regs, .flt])
    (hs : Keeps P s0 s) : KeepsR P s0 (execBankCopyComplete bank _copyUs s) := by
  unfold execBankCopyComplete
  repeat' (first
    | with_reducible assumption
    | ((with_reducible apply Parts.mono h); decide)
    | with_reducible apply State.setSpare_keeps
    | with_reducible apply State.sliceDone_keeps
    | with_reducible apply State.spareFreed_keeps
    | with_reducible apply KeepsR.next
    | with_reducible intro _
    | (extract_lets +onlyGivenNames x0; first
        | ((with_reducible refine (have hx0 : Keeps P s0 x0 := ?_; ?_)); (on_goal 2 => clear_value x0); (on_goal 1 => subst x0))
        | clear_value x0)
    | with_reducible apply KeepsR.ite
    | with_reducible apply Keeps.ite
    | split
    | with_reducible apply Keeps.upd
    | with_reducible apply Fuses.refl
    | ((with_reducible apply Or.inr); with_reducible rfl)
    | ((with_reducible apply Or.inl); exact h _ (by decide)))

theorem execSliceCommand_keeps {P : Part → Bool} {s0 : State} (rid : Nat) (val : Word) (s : State) (h : Parts P [.regs, .hbm, .ten, .tra, .mat, .wins, .grps, .xlt, .rte, .lnk, .boot, .flt, .evr])
    (hs : Keeps P s0 s) : KeepsR P s0 (execSliceCommand rid val s) := by
  unfold execSliceCommand
  repeat' (first
    | with_reducible assumption
    | ((with_reducible apply Parts.mono h); decide)
    | with_reducible apply State.viaReg_keeps
    | with_reducible apply State.stcCmd_keeps
    | with_reducible apply KeepsR.next
    | with_reducible intro _
    | with_reducible apply KeepsR.ite
    | with_reducible apply Keeps.ite
    | split
    | beta_reduce)

theorem execFullTest_keeps {P : Part → Bool} {s0 : State} (rid : Nat) (val : Word) (s : State) (h : Parts P [.regs, .hbm, .ten, .tra, .mat, .wins, .grps, .xlt, .rte, .lnk, .boot, .flt, .evr])
    (hs : Keeps P s0 s) : KeepsR P s0 (execFullTest rid val s) := by
  unfold execFullTest
  repeat' (first
    | with_reducible assumption
    | ((with_reducible apply Parts.mono h); decide)
    | with_reducible apply State.viaReg_keeps
    | with_reducible apply State.stcCmd_keeps
    | with_reducible apply KeepsR.next
    | with_reducible intro _
    | split
    | beta_reduce)

theorem execFullTestEnd_keeps {P : Part → Bool} {s0 : State} (finding : SliceFinding) (s : State) (h : Parts P [.out, .free, .now, .ft, .regs, .hbm, .ten, .tra, .mat, .wins, .grps, .xlt, .rte, .lnk, .hst, .irc, .sem, .boot, .pwr, .flt, .evr])
    (hs : Keeps P s0 s) : KeepsR P s0 (execFullTestEnd finding s) := by
  unfold execFullTestEnd
  repeat' (first
    | with_reducible assumption
    | ((with_reducible apply Parts.mono h); decide)
    | with_reducible apply State.wrFs_keeps
    | with_reducible apply State.pass_keeps
    | with_reducible apply State.cmdEnd_keeps
    | with_reducible apply State.stResult_keeps
    | with_reducible apply State.stFault_keeps
    | with_reducible apply KeepsR.next
    | with_reducible intro _
    | (extract_lets +onlyGivenNames x0; first
        | ((with_reducible refine (have hx0 : Keeps P s0 x0 := ?_; ?_)); (on_goal 2 => clear_value x0); (on_goal 1 => subst x0))
        | clear_value x0)
    | with_reducible apply KeepsR.ite
    | with_reducible apply Keeps.ite
    | split
    | with_reducible apply Keeps.upd
    | with_reducible apply Fuses.refl
    | ((with_reducible apply Or.inr); with_reducible rfl)
    | ((with_reducible apply Or.inl); exact h _ (by decide)))

theorem execFuse_keeps {P : Part → Bool} {s0 : State} (rid : Nat) (val : Word) (s : State) (h : Parts P [.regs, .hbm, .ten, .tra, .mat, .wins, .grps, .xlt, .rte, .lnk, .boot, .flt, .evr])
    (hs : Keeps P s0 s) : KeepsR P s0 (execFuse rid val s) := by
  unfold execFuse
  repeat' (first
    | with_reducible assumption
    | ((with_reducible apply Parts.mono h); decide)
    | with_reducible apply State.viaReg_keeps
    | with_reducible apply State.stcCmd_keeps
    | with_reducible apply KeepsR.next
    | with_reducible intro _
    | split
    | beta_reduce)

end Sys2Proof.Machine
end

