-- ==== Sys2Proof/Laws/RegAccess.lean ====
section
/-! SUPPORT. What the operations of Machine/RegAccess.lean keep. -/

set_option linter.unusedTactic false
set_option linter.unreachableTactic false
set_option linter.unusedVariables false

namespace Sys2Proof.Machine

open Sys2Proof

theorem nextOr_keeps {P : Part → Bool} {s0 : State} (o : Host.Outcome State Fault Refusal) (s : State) (h : Parts P []) (h_o : KeepsR P s0 o)
    (hs : Keeps P s0 s) : Keeps P s0 (nextOr o s) := by
  cases o with
  | next t => exact h_o t rfl
  | fault r => exact hs
  | refused r => exact hs


theorem State.plainWrite_keeps {P : Part → Bool} {s0 : State} (s : State) (r : RegRow) (off : Nat) (val : Word) (h : Parts P [.regs])
    (hs : Keeps P s0 s) : Keeps P s0 (State.plainWrite s r off val) := by
  unfold State.plainWrite
  repeat' (first
    | with_reducible assumption
    | ((with_reducible apply Parts.mono h); decide)
    | with_reducible apply State.wr_keeps
    | with_reducible intro _
    | (extract_lets +onlyGivenNames x0; first
        | ((with_reducible refine (have hx0 : Keeps P s0 x0 := ?_; ?_)); (on_goal 2 => clear_value x0); (on_goal 1 => subst x0))
        | clear_value x0)
    | with_reducible apply Keeps.ite
    | split)

theorem lnkCmd_keeps {P : Part → Bool} {s0 : State} (rid : Nat) (p : Nat) (val : Word) (s : State) (h : Parts P [.regs, .lnk])
    (hs : Keeps P s0 s) : Keeps P s0 (lnkCmd rid p val s) := by
  unfold lnkCmd
  repeat' (first
    | with_reducible assumption
    | ((with_reducible apply Parts.mono h); decide)
    | with_reducible apply execLnkRetrain_keeps
    | with_reducible apply execLnkWidthChange_keeps
    | with_reducible apply execLnkReleaseHold_keeps
    | with_reducible apply nextOr_keeps
    | with_reducible intro _
    | (extract_lets +onlyGivenNames x0; first
        | ((with_reducible refine (have hx0 : Keeps P s0 x0 := ?_; ?_)); (on_goal 2 => clear_value x0); (on_goal 1 => subst x0))
        | clear_value x0)
    | split
    | with_reducible apply Keeps.upd
    | with_reducible apply Fuses.refl
    | ((with_reducible apply Or.inr); with_reducible rfl)
    | ((with_reducible apply Or.inl); exact h _ (by decide)))

theorem fthTime_keeps {P : Part → Bool} {s0 : State} (rid : Nat) (val : Word) (s : State) (h : Parts P [.regs, .boot, .pwr, .evr])
    (hs : Keeps P s0 s) : Keeps P s0 (fthTime rid val s) := by
  unfold fthTime
  repeat' (first
    | with_reducible assumption
    | ((with_reducible apply Parts.mono h); decide)
    | with_reducible apply State.wrF_keeps
    | with_reducible apply execCalSetNow_keeps
    | with_reducible apply execCalSetAtPps_keeps
    | with_reducible apply nextOr_keeps
    | with_reducible intro _
    | (extract_lets +onlyGivenNames x0; first
        | ((with_reducible refine (have hx0 : Keeps P s0 x0 := ?_; ?_)); (on_goal 2 => clear_value x0); (on_goal 1 => subst x0))
        | clear_value x0)
    | with_reducible apply Keeps.ite
    | split)

theorem State.ownWrite_keeps {P : Part → Bool} {s0 : State} (s : State) (rid : Nat) (off : Nat) (base : Nat) (i : Nat) (val : Word) (h : Parts P [.out, .free, .now, .ft, .regs, .hbm, .ten, .tra, .mat, .wins, .grps, .xlt, .rte, .tcs, .lnk, .hst, .irc, .sem, .boot, .pwr, .flt, .evr, .cnt])
    (hs : Keeps P s0 s) : KeepsO P s0 (State.ownWrite s rid off base i val) := by
  unfold State.ownWrite
  repeat' (first
    | with_reducible assumption
    | ((with_reducible apply Parts.mono h); decide)
    | with_reducible apply State.tcsReject_keeps
    | with_reducible apply execAdminSqEnable_keeps
    | with_reducible apply execAdminCqEnable_keeps
    | with_reducible apply State.cntCtl_keeps
    | with_reducible apply execBwWindowWrite_keeps
    | with_reducible apply execCounterValueWrite_keeps
    | with_reducible apply State.epochWrite_keeps
    | with_reducible apply State.activeWrite_keeps
    | with_reducible apply execRouteShadowWrite_keeps
    | with_reducible apply execPortRoleWrite_keeps
    | with_reducible apply execStaleLimitWrite_keeps
    | with_reducible apply State.srcWrite_keeps
    | with_reducible apply execEvrRdIdxWrite_keeps
    | with_reducible apply execRuleWrite_keeps
    | with_reducible apply execFaultPendClear_keeps
    | with_reducible apply execInspectStart_keeps
    | with_reducible apply execIrcEoi_keeps
    | with_reducible apply execIrcConfigWrite_keeps
    | with_reducible apply execPortEnable_keeps
    | with_reducible apply execPortDisable_keeps
    | with_reducible apply execSpanSpeedWrite_keeps
    | with_reducible apply execThrottleWrite_keeps
    | with_reducible apply State.stcCmd_keeps
    | with_reducible apply execTcsStageWrite_keeps
    | with_reducible apply execTcsCommit_keeps
    | with_reducible apply nextOr_keeps
    | with_reducible apply lnkCmd_keeps
    | with_reducible apply fthTime_keeps
    | exact KeepsO.none
    | with_reducible apply KeepsO.some
    | with_reducible intro _
    | with_reducible apply KeepsO.ite
    | with_reducible apply Keeps.ite
    | split)

theorem State.regWrite_keeps {P : Part → Bool} {s0 : State} (s : State) (rid : Nat) (off : Nat) (val : Word) (h : Parts P [.out, .free, .now, .ft, .regs, .hbm, .ten, .tra, .mat, .wins, .grps, .xlt, .rte, .tcs, .lnk, .hst, .irc, .sem, .boot, .pwr, .flt, .evr, .cnt])
    (hs : Keeps P s0 s) : Keeps P s0 (State.regWrite s rid off val) := by
  unfold State.regWrite
  repeat' (first
    | with_reducible assumption
    | ((with_reducible apply Parts.mono h); decide)
    | with_reducible apply State.accessErr_keeps
    | with_reducible apply State.plainWrite_keeps
    | with_reducible apply State.ownWrite_keeps
    | with_reducible intro _
    | (extract_lets +onlyGivenNames x0; first
        | ((with_reducible refine (have hx0 : Keeps P s0 x0 := ?_; ?_)); (on_goal 2 => clear_value x0); (on_goal 1 => subst x0))
        | clear_value x0)
    | with_reducible apply KeepsO.getD
    | split
    | (with_reducible apply KeepsO.of_eq (by with_reducible assumption))
    | with_reducible apply Keeps.upd
    | with_reducible apply Fuses.refl
    | ((with_reducible apply Or.inr); with_reducible rfl)
    | ((with_reducible apply Or.inl); exact h _ (by decide)))

theorem State.halfWrite_keeps {P : Part → Bool} {s0 : State} (s : State) (rid : Nat) (off : Nat) (val : Word) (h : Parts P [.out, .free, .now, .ft, .regs, .hbm, .ten, .tra, .mat, .wins, .grps, .xlt, .rte, .tcs, .lnk, .hst, .irc, .sem, .boot, .pwr, .flt, .evr, .cnt])
    (hs : Keeps P s0 s) : Keeps P s0 (State.halfWrite s rid off val) := by
  unfold State.halfWrite
  repeat' (first
    | with_reducible assumption
    | ((with_reducible apply Parts.mono h); decide)
    | with_reducible apply State.regWrite_keeps
    | with_reducible intro _
    | (extract_lets +onlyGivenNames x0; first
        | ((with_reducible refine (have hx0 : Keeps P s0 x0 := ?_; ?_)); (on_goal 2 => clear_value x0); (on_goal 1 => subst x0))
        | clear_value x0)
    | with_reducible apply Keeps.ite
    | split
    | with_reducible apply Keeps.upd
    | with_reducible apply Fuses.refl
    | ((with_reducible apply Or.inr); with_reducible rfl)
    | ((with_reducible apply Or.inl); exact h _ (by decide)))

theorem State.msixWrite_keeps {P : Part → Bool} {s0 : State} (s : State) (f : Nat) (w : Nat) (val : Word) (h : Parts P [.out, .regs, .ten, .irc])
    (hs : Keeps P s0 s) : Keeps P s0 (State.msixWrite s f w val) := by
  unfold State.msixWrite
  repeat' (first
    | with_reducible assumption
    | ((with_reducible apply Parts.mono h); decide)
    | with_reducible apply State.setFn_keeps
    | with_reducible apply State.vecUnmask_keeps
    | with_reducible intro _
    | (extract_lets +onlyGivenNames x0; first
        | ((with_reducible refine (have hx0 : Keeps P s0 x0 := ?_; ?_)); (on_goal 2 => clear_value x0); (on_goal 1 => subst x0))
        | clear_value x0)
    | with_reducible apply Keeps.ite
    | split
    | with_reducible apply Keeps.upd
    | with_reducible apply Fuses.refl
    | ((with_reducible apply Or.inr); with_reducible rfl)
    | ((with_reducible apply Or.inl); exact h _ (by decide)))

theorem State.rcClear_keeps {P : Part → Bool} {s0 : State} (s : State) (rid : Nat) (off : Nat) (size : Nat) (h : Parts P [.regs, .ten])
    (hs : Keeps P s0 s) : Keeps P s0 (State.rcClear s rid off size) := by
  unfold State.rcClear
  repeat' (first
    | with_reducible assumption
    | ((with_reducible apply Parts.mono h); decide)
    | with_reducible apply State.wr_keeps
    | with_reducible apply State.setFn_keeps
    | with_reducible apply State.dbDrop_keeps
    | with_reducible apply foldl_keeps
    | with_reducible apply foldl_keepsP
    | with_reducible intro _
    | (extract_lets +onlyGivenNames x0; first
        | ((with_reducible refine (have hx0 : Keeps P s0 x0 := ?_; ?_)); (on_goal 2 => clear_value x0); (on_goal 1 => subst x0))
        | ((with_reducible refine (have hx0 : KeepsP P s0 x0 := ?_; ?_)); (on_goal 2 => clear_value x0); (on_goal 1 => subst x0))
        | clear_value x0)
    | with_reducible apply Keeps.ite
    | split
    | with_reducible apply KeepsP.mk
    | (with_reducible apply KeepsP.of_eq (by with_reducible assumption))
    | with_reducible apply KeepsP.fst
    | with_reducible apply Keeps.upd
    | with_reducible apply Fuses.refl
    | ((with_reducible apply Or.inr); with_reducible rfl)
    | ((with_reducible apply Or.inl); exact h _ (by decide))
    | beta_reduce)

theorem State.returnBytes_keeps {P : Part → Bool} {s0 : State} (s : State) (rid : Nat) (z0 : List Byte) (h : Parts P [.out])
    (hs : Keeps P s0 s) : Keeps P s0 (State.returnBytes s rid z0) := by
  fun_induction State.returnBytes s rid z0 with
  | case1 s b0 b1 b2 b3 b4 b5 b6 b7 rest ih => exact ih (State.emit_keeps _ _ h hs)
  | case2 s => exact hs
  | case3 s bs _ _ => exact State.emit_keeps _ _ h hs


end Sys2Proof.Machine
end

