-- ==== Sys2Proof/Laws/BlobOps.lean ====
section
/-! SUPPORT. What the operations of Machine/BlobOps.lean keep. -/

set_option linter.unusedTactic false
set_option linter.unreachableTactic false
set_option linter.unusedVariables false

namespace Sys2Proof.Machine

open Sys2Proof

theorem State.applyIdentity_keeps {P : Part → Bool} {s0 : State} (s : State) (w : Word) (h : Parts P [.regs, .boot])
    (hs : Keeps P s0 s) : Keeps P s0 (State.applyIdentity s w) := by
  unfold State.applyIdentity
  repeat' (first
    | with_reducible assumption
    | ((with_reducible apply Parts.mono h); decide)
    | with_reducible apply State.wrF_keeps
    | with_reducible apply State.wrFs_keeps
    | with_reducible intro _
    | (extract_lets +onlyGivenNames x0; first
        | ((with_reducible refine (have hx0 : Keeps P s0 x0 := ?_; ?_)); (on_goal 2 => clear_value x0); (on_goal 1 => subst x0))
        | ((with_reducible have _x0 : Boot := x0); clear _x0; subst x0)
        | clear_value x0)
    | split
    | with_reducible apply Keeps.upd
    | with_reducible apply Fuses.refl
    | ((with_reducible apply Fuses.mk) <;> first | exact fun l => ⟨l, Nat.le_refl _, Nat.le_refl _⟩ | exact fun o => ⟨o, rfl⟩ | exact Nat.le_refl _ | exact fun o => o)
    | ((with_reducible apply Or.inr); with_reducible rfl)
    | ((with_reducible apply Or.inl); exact h _ (by decide)))

theorem State.applyRoute_keeps {P : Part → Bool} {s0 : State} (s : State) (i : Nat) (w : Word) (h : Parts P [.regs])
    (hs : Keeps P s0 s) : Keeps P s0 (State.applyRoute s i w) := by
  unfold State.applyRoute
  repeat' (first
    | with_reducible assumption
    | ((with_reducible apply Parts.mono h); decide)
    | with_reducible apply State.wr_keeps
    | with_reducible intro _
    | split)

theorem State.applySection_keeps {P : Part → Bool} {s0 : State} (s : State) (x : Section) (h : Parts P [.out, .free, .now, .ft, .regs, .hbm, .ten, .tra, .mat, .wins, .grps, .xlt, .rte, .tcs, .lnk, .hst, .irc, .sem, .boot, .pwr, .flt, .evr, .cnt])
    (hs : Keeps P s0 s) : Keeps P s0 (State.applySection s x) := by
  unfold State.applySection
  repeat' (first
    | with_reducible assumption
    | ((with_reducible apply Parts.mono h); decide)
    | with_reducible apply State.regWrite_keeps
    | with_reducible apply State.applyIdentity_keeps
    | with_reducible apply State.applyRoute_keeps
    | with_reducible apply foldl_keeps
    | with_reducible apply foldl_keepsP
    | with_reducible intro _
    | (extract_lets +onlyGivenNames x0; first
        | ((with_reducible refine (have hx0 : Keeps P s0 x0 := ?_; ?_)); (on_goal 2 => clear_value x0); (on_goal 1 => subst x0))
        | ((with_reducible refine (have hx0 : KeepsP P s0 x0 := ?_; ?_)); (on_goal 2 => clear_value x0); (on_goal 1 => subst x0))
        | clear_value x0)
    | with_reducible apply KeepsO.getD
    | split
    | with_reducible apply KeepsP.mk
    | (with_reducible apply KeepsP.of_eq (by with_reducible assumption))
    | with_reducible apply KeepsP.fst
    | with_reducible apply Keeps.upd
    | with_reducible apply Fuses.refl
    | ((with_reducible apply Or.inr); with_reducible rfl)
    | ((with_reducible apply Or.inl); exact h _ (by decide))
    | beta_reduce)

theorem State.stageAt_keeps {P : Part → Bool} {s0 : State} (s : State) (n : Nat) (h : Parts P [.regs])
    (hs : Keeps P s0 s) : Keeps P s0 (State.stageAt s n) := by
  unfold State.stageAt
  repeat' (first
    | with_reducible assumption
    | ((with_reducible apply Parts.mono h); decide)
    | with_reducible apply State.wrF_keeps
    | with_reducible intro _
    | split)

theorem State.bootUp_keeps {P : Part → Bool} {s0 : State} (s : State) (i : Image) (h : Parts P [.out, .regs, .boot, .pwr, .flt, .evr])
    (hs : Keeps P s0 s) : Keeps P s0 (State.bootUp s i) := by
  unfold State.bootUp
  repeat' (first
    | with_reducible assumption
    | ((with_reducible apply Parts.mono h); decide)
    | with_reducible apply State.wrF_keeps
    | with_reducible apply State.wrFs_keeps
    | with_reducible apply State.emit_keeps
    | with_reducible apply State.calSource_keeps
    | with_reducible apply State.setSpare_keeps
    | with_reducible apply State.domStart_keeps
    | with_reducible apply State.stageAt_keeps
    | with_reducible apply foldl_keeps
    | with_reducible apply foldl_keepsP
    | with_reducible intro _
    | (extract_lets +onlyGivenNames x0; first
        | ((with_reducible refine (have hx0 : Keeps P s0 x0 := ?_; ?_)); (on_goal 2 => clear_value x0); (on_goal 1 => subst x0))
        | ((with_reducible refine (have hx0 : KeepsP P s0 x0 := ?_; ?_)); (on_goal 2 => clear_value x0); (on_goal 1 => subst x0))
        | ((with_reducible have _x0 : Boot := x0); clear _x0; subst x0)
        | clear_value x0)
    | split
    | with_reducible apply KeepsP.mk
    | (with_reducible apply KeepsP.of_eq (by with_reducible assumption))
    | with_reducible apply KeepsP.fst
    | with_reducible apply Keeps.upd
    | with_reducible apply Fuses.refl
    | ((with_reducible apply Fuses.mk) <;> first | exact fun l => ⟨l, Nat.le_refl _, Nat.le_refl _⟩ | exact fun o => ⟨o, rfl⟩ | exact Nat.le_refl _ | exact fun o => o)
    | ((with_reducible apply Or.inr); with_reducible rfl)
    | ((with_reducible apply Or.inl); exact h _ (by decide))
    | beta_reduce)

theorem State.portsRelease_keeps {P : Part → Bool} {s0 : State} (s : State) (h : Parts P [.out, .regs, .lnk])
    (hs : Keeps P s0 s) : Keeps P s0 (State.portsRelease s) := by
  unfold State.portsRelease
  repeat' (first
    | with_reducible assumption
    | ((with_reducible apply Parts.mono h); decide)
    | with_reducible apply State.tryTrain_keeps
    | with_reducible apply State.stageAt_keeps
    | with_reducible apply foldl_keeps
    | with_reducible apply foldl_keepsP
    | with_reducible intro _
    | with_reducible apply Keeps.ite
    | split
    | with_reducible apply KeepsP.mk
    | (with_reducible apply KeepsP.of_eq (by with_reducible assumption))
    | with_reducible apply KeepsP.fst
    | beta_reduce)

theorem State.imageFail_keeps {P : Part → Bool} {s0 : State} (s : State) (region : Nat) (reason : Nat) (offset : Nat) (h : Parts P [.regs, .boot, .evr])
    (hs : Keeps P s0 s) : Keeps P s0 (State.imageFail s region reason offset) := by
  unfold State.imageFail
  repeat' (first
    | with_reducible assumption
    | ((with_reducible apply Parts.mono h); decide)
    | with_reducible apply State.wrF_keeps
    | with_reducible apply State.bootNote_keeps
    | with_reducible intro _
    | (extract_lets +onlyGivenNames x0; first
        | ((with_reducible refine (have hx0 : Keeps P s0 x0 := ?_; ?_)); (on_goal 2 => clear_value x0); (on_goal 1 => subst x0))
        | ((with_reducible have _x0 : Boot := x0); clear _x0; subst x0)
        | clear_value x0)
    | split
    | with_reducible apply Keeps.upd
    | with_reducible apply Fuses.refl
    | ((with_reducible apply Fuses.mk) <;> first | exact fun l => ⟨l, Nat.le_refl _, Nat.le_refl _⟩ | exact fun o => ⟨o, rfl⟩ | exact Nat.le_refl _ | exact fun o => o)
    | ((with_reducible apply Or.inr); with_reducible rfl)
    | ((with_reducible apply Or.inl); exact h _ (by decide)))

theorem State.slotFail_keeps {P : Part → Bool} {s0 : State} (s : State) (b : Bool) (second : Bool) (reason : Nat) (offset : Nat) (h : Parts P [.out, .free, .now, .ft, .regs, .hbm, .ten, .tra, .mat, .wins, .grps, .xlt, .rte, .tcs, .lnk, .hst, .irc, .sem, .boot, .pwr, .flt, .evr, .cnt])
    (hs : Keeps P s0 s) : Keeps P s0 (State.slotFail s b second reason offset) := by
  unfold State.slotFail
  repeat' (first
    | with_reducible assumption
    | ((with_reducible apply Parts.mono h); decide)
    | with_reducible apply State.emit_keeps
    | with_reducible apply State.recover_keeps
    | with_reducible apply State.imageFail_keeps
    | with_reducible intro _
    | (extract_lets +onlyGivenNames x0; first
        | ((with_reducible refine (have hx0 : Keeps P s0 x0 := ?_; ?_)); (on_goal 2 => clear_value x0); (on_goal 1 => subst x0))
        | ((with_reducible have _x0 : Boot := x0); clear _x0; subst x0)
        | clear_value x0)
    | with_reducible apply Keeps.ite
    | split
    | with_reducible apply Keeps.upd
    | with_reducible apply Fuses.refl
    | ((with_reducible apply Fuses.mk) <;> first | exact fun l => ⟨l, Nat.le_refl _, Nat.le_refl _⟩ | exact fun o => ⟨o, rfl⟩ | exact Nat.le_refl _ | exact fun o => o)
    | ((with_reducible apply Or.inr); with_reducible rfl)
    | ((with_reducible apply Or.inl); exact h _ (by decide)))

theorem State.blobFail_keeps {P : Part → Bool} {s0 : State} (s : State) (reason : Nat) (offset : Nat) (h : Parts P [.out, .free, .now, .ft, .regs, .hbm, .ten, .tra, .mat, .wins, .grps, .xlt, .rte, .tcs, .lnk, .hst, .irc, .sem, .boot, .pwr, .flt, .evr, .cnt])
    (hs : Keeps P s0 s) : Keeps P s0 (State.blobFail s reason offset) := by
  unfold State.blobFail
  repeat' (first
    | with_reducible assumption
    | ((with_reducible apply Parts.mono h); decide)
    | with_reducible apply State.recover_keeps
    | with_reducible apply State.imageFail_keeps
    | with_reducible intro _
    | split)

theorem State.dirRead_keeps {P : Part → Bool} {s0 : State} (s : State) (octal : Bool) (size : Nat) (d0 : Directory) (d1 : Directory) (h : Parts P [.out, .free, .now, .ft, .regs, .hbm, .ten, .tra, .mat, .wins, .grps, .xlt, .rte, .tcs, .lnk, .hst, .irc, .sem, .boot, .pwr, .flt, .evr, .cnt])
    (hs : Keeps P s0 s) : Keeps P s0 (State.dirRead s octal size d0 d1) := by
  unfold State.dirRead
  repeat' (first
    | with_reducible assumption
    | ((with_reducible apply Parts.mono h); decide)
    | with_reducible apply State.wrF_keeps
    | with_reducible apply State.emit_keeps
    | with_reducible apply State.recover_keeps
    | with_reducible intro _
    | (extract_lets +onlyGivenNames x0; first
        | ((with_reducible refine (have hx0 : Keeps P s0 x0 := ?_; ?_)); (on_goal 2 => clear_value x0); (on_goal 1 => subst x0))
        | ((with_reducible have _x0 : Boot := x0); clear _x0; subst x0)
        | ((with_reducible have _x0 : _ → _ := x0); clear _x0; subst x0; beta_reduce)
        | clear_value x0)
    | with_reducible apply Keeps.ite
    | split
    | with_reducible apply Keeps.upd
    | with_reducible apply Fuses.refl
    | ((with_reducible apply Fuses.mk) <;> first | exact fun l => ⟨l, Nat.le_refl _, Nat.le_refl _⟩ | exact fun o => ⟨o, rfl⟩ | exact Nat.le_refl _ | exact fun o => o)
    | ((with_reducible apply Or.inr); with_reducible rfl)
    | ((with_reducible apply Or.inl); exact h _ (by decide))
    | beta_reduce)

theorem raisedBoot_fuses (b : Boot) (i : Image) : Fuses b (raisedBoot b i) := by
  unfold raisedBoot
  split
  · next h =>
    refine ⟨fun l => ⟨l, Nat.le_refl _, Nat.le_refl _⟩, fun o => ⟨o, rfl⟩, ?_, fun o => o⟩
    simp only [Bool.and_eq_true, decide_eq_true_eq] at h
    exact Nat.le_of_lt h.2
  · exact Fuses.refl _

theorem State.imageTake_keeps {P : Part → Bool} {s0 : State} (s : State) (b : Bool) (i : Image) (h : Parts P [.out, .regs, .boot, .evr])
    (hs : Keeps P s0 s) : Keeps P s0 (State.imageTake s b i) := by
  have base : Keeps P s0 { s with boot := raisedBoot s.boot i } := by
    with_reducible apply Keeps.upd hs (raisedBoot_fuses _ _)
    all_goals first
      | ((with_reducible apply Or.inr); with_reducible rfl)
      | ((with_reducible apply Or.inl); exact h _ (by decide))
  have out : ∀ a : State, Keeps P s0 a → Keeps P s0 { a with boot.image := some i, boot.wait := .blob } := by
    intro a ha
    refine Keeps.upd (boot_ := { a.boot with image := some i, wait := .blob }) ha ⟨fun l => ⟨l, Nat.le_refl _, Nat.le_refl _⟩, fun o => ⟨o, rfl⟩, Nat.le_refl _, id⟩ ?_ ?_ ?_ ?_ ?_ ?_ ?_ ?_ ?_ ?_ ?_ ?_ ?_ ?_ ?_ ?_ ?_ ?_
    all_goals first
      | ((with_reducible apply Or.inr); with_reducible rfl)
      | ((with_reducible apply Or.inl); exact h _ (by decide))
  exact State.emit_keeps _ _ (h.mono (by decide)) (out _ (State.stageAt_keeps _ _ (h.mono (by decide))
    (State.wrF_keeps _ _ _ _ (h.mono (by decide)) (State.measure_keeps _ _ _ _ _ (h.mono (by decide))
      (State.measure_keeps _ _ _ _ _ (h.mono (by decide)) (State.measure_keeps _ _ _ _ _ (h.mono (by decide))
        (State.measure_keeps _ _ _ _ _ (h.mono (by decide)) base)))))))


theorem State.slotRead_keeps {P : Part → Bool} {s0 : State} (s : State) (b : Bool) (second : Bool) (i : Image) (offset : Nat) (h : Parts P [.out, .free, .now, .ft, .regs, .hbm, .ten, .tra, .mat, .wins, .grps, .xlt, .rte, .tcs, .lnk, .hst, .irc, .sem, .boot, .pwr, .flt, .evr, .cnt])
    (hs : Keeps P s0 s) : Keeps P s0 (State.slotRead s b second i offset) := by
  unfold State.slotRead
  repeat' (first
    | with_reducible assumption
    | ((with_reducible apply Parts.mono h); decide)
    | with_reducible apply State.slotFail_keeps
    | with_reducible apply State.imageTake_keeps
    | with_reducible intro _
    | (extract_lets +onlyGivenNames x0; first
        | ((with_reducible refine (have hx0 : Keeps P s0 x0 := ?_; ?_)); (on_goal 2 => clear_value x0); (on_goal 1 => subst x0))
        | clear_value x0)
    | split
    | with_reducible apply Keeps.upd
    | with_reducible apply Fuses.refl
    | ((with_reducible apply Or.inr); with_reducible rfl)
    | ((with_reducible apply Or.inl); exact h _ (by decide)))

theorem State.blobTake_keeps {P : Part → Bool} {s0 : State} (s : State) (b : Blob) (i : Image) (offset : Nat) (h : Parts P [.out, .free, .now, .ft, .regs, .hbm, .ten, .tra, .mat, .wins, .grps, .xlt, .rte, .tcs, .lnk, .hst, .irc, .sem, .boot, .pwr, .flt, .evr, .cnt])
    (hs : Keeps P s0 s) : Keeps P s0 (State.blobTake s b i offset) := by
  unfold State.blobTake
  repeat' (first
    | with_reducible assumption
    | ((with_reducible apply Parts.mono h); decide)
    | with_reducible apply State.freeVal_keeps
    | with_reducible apply State.tcsBoot_keeps
    | with_reducible apply State.measure_keeps
    | with_reducible apply State.applySection_keeps
    | with_reducible apply State.bootUp_keeps
    | with_reducible apply State.portsRelease_keeps
    | with_reducible apply State.blobFail_keeps
    | with_reducible apply foldl_keeps
    | with_reducible apply foldl_keepsP
    | with_reducible intro _
    | (extract_lets +onlyGivenNames x0; first
        | ((with_reducible refine (have hx0 : Keeps P s0 x0 := ?_; ?_)); (on_goal 2 => clear_value x0); (on_goal 1 => subst x0))
        | ((with_reducible refine (have hx0 : KeepsP P s0 x0 := ?_; ?_)); (on_goal 2 => clear_value x0); (on_goal 1 => subst x0))
        | ((with_reducible refine (have hx0 : Keeps P s0 x0.2 := ?_; ?_)); (on_goal 2 => clear_value x0); (on_goal 1 => subst x0))
        | ((with_reducible have _x0 : Boot := x0); clear _x0; subst x0)
        | clear_value x0)
    | with_reducible apply Keeps.ite
    | split
    | with_reducible apply KeepsP.mk
    | (with_reducible apply KeepsP.of_eq (by with_reducible assumption))
    | with_reducible apply KeepsP.fst
    | with_reducible apply Keeps.upd
    | with_reducible apply Fuses.refl
    | ((with_reducible apply Fuses.mk) <;> first | exact fun l => ⟨l, Nat.le_refl _, Nat.le_refl _⟩ | exact fun o => ⟨o, rfl⟩ | exact Nat.le_refl _ | exact fun o => o)
    | ((with_reducible apply Or.inr); with_reducible rfl)
    | ((with_reducible apply Or.inl); exact h _ (by decide)))

theorem State.blobRead_keeps {P : Part → Bool} {s0 : State} (s : State) (b : Blob) (i : Image) (offset : Nat) (h : Parts P [.out, .free, .now, .ft, .regs, .hbm, .ten, .tra, .mat, .wins, .grps, .xlt, .rte, .tcs, .lnk, .hst, .irc, .sem, .boot, .pwr, .flt, .evr, .cnt])
    (hs : Keeps P s0 s) : Keeps P s0 (State.blobRead s b i offset) := by
  unfold State.blobRead
  repeat' (first
    | with_reducible assumption
    | ((with_reducible apply Parts.mono h); decide)
    | with_reducible apply State.blobFail_keeps
    | with_reducible apply State.blobTake_keeps
    | with_reducible intro _
    | (extract_lets +onlyGivenNames x0; first
        | ((with_reducible refine (have hx0 : Keeps P s0 x0 := ?_; ?_)); (on_goal 2 => clear_value x0); (on_goal 1 => subst x0))
        | clear_value x0)
    | split
    | with_reducible apply Keeps.upd
    | with_reducible apply Fuses.refl
    | ((with_reducible apply Or.inr); with_reducible rfl)
    | ((with_reducible apply Or.inl); exact h _ (by decide)))

end Sys2Proof.Machine
end

