-- ==== Sys2Proof/Laws/Lifecycle.lean ====
section
/-! SUPPORT. What the operations of Machine/Lifecycle.lean keep. -/

set_option linter.unusedTactic false
set_option linter.unreachableTactic false
set_option linter.unusedVariables false

namespace Sys2Proof.Machine

open Sys2Proof

theorem burntBoot_fuses (b : Boot) (dest : Nat) (e : b.lc = b.lcNext) (hd : b.lc ≤ 5 → b.lc ≤ dest ∧ dest ≤ 5) :
    Fuses b (burntBoot b dest) := by
  refine ⟨fun l => ?_, fun o => ⟨o, rfl⟩, Nat.le_refl _, fun o => ?_⟩
  · unfold LcLegal at *
    simp only [burntBoot]
    omega
  · simp only [burntBoot, o, Bool.true_or]

theorem ownedBoot_fuses (b : Boot) (h : BitVec 384) (e : ¬((b.lc != 2 || b.ownerFused) = true)) : Fuses b (ownedBoot b h) := by
  refine ⟨fun l => ⟨l, Nat.le_refl _, Nat.le_refl _⟩, fun o => ?_, Nat.le_refl _, fun o => o⟩
  exact absurd (by simp only [o, Bool.or_true]) e

theorem lcStep_up (a dest : Nat) (x : Bool) (h : lcStep a dest = some x) (l : a ≤ 5) : a ≤ dest ∧ dest ≤ 5 := by
  unfold lcStep at h
  split at h
  · cases h
  · split at h
    · omega
    · repeat' (split at h)
      all_goals first | cases h; done | simp only [Bool.and_eq_true, decide_eq_true_eq] at *; omega

theorem State.lcBurn_keeps {P : Part → Bool} {s0 : State} (s : State) (r : CmdRef) (dest : Nat) (h : Parts P [.ten, .xlt, .boot, .evr]) (hd : s.boot.lc = s.boot.lcNext ∧ (s.boot.lc ≤ 5 → s.boot.lc ≤ dest ∧ dest ≤ 5))
    (hs : Keeps P s0 s) : Keeps P s0 (State.lcBurn s r dest) := by
  unfold State.lcBurn
  repeat' (first
    | with_reducible assumption
    | ((with_reducible apply Parts.mono h); decide)
    | (exact burntBoot_fuses _ _ hd.1 hd.2)
    | with_reducible apply State.note_keeps
    | with_reducible apply State.adminDone_keeps
    | with_reducible intro _
    | (extract_lets +onlyGivenNames x0; first
        | ((with_reducible refine (have hx0 : Keeps P s0 x0 := ?_; ?_)); (on_goal 2 => clear_value x0); (on_goal 1 => subst x0))
        | ((with_reducible have _x0 : Boot := x0); clear _x0; subst x0)
        | clear_value x0)
    | split
    | with_reducible apply Keeps.upd
    | with_reducible apply Fuses.refl
    | ((with_reducible apply Fuses.mk) <;> first | exact fun l => ⟨l, Nat.le_refl _, Nat.le_refl _⟩ | exact fun o => ⟨o, rfl⟩ | exact Nat.le_refl _ | exact fun o => o)
    | ((with_reducible apply Or.inr); with_reducible rfl)
    | ((with_reducible apply Or.inl); exact h _ (by decide)))

theorem State.readRange_boot (s : State) (fn asid va n : Nat) : (s.readRange fn asid va n).1.boot = s.boot :=
  (State.readRange_keeps (P := fun x => [.out, .regs, .tra, .xlt].contains x) s fn asid va n (by unfold Parts; decide) (Keeps.refl _ s)).parts .boot (by decide)

/-- A read of a command's bytes leaves what the fuses hold to its body. -/
theorem State.cmdRead_keepsBoot {P : Part → Bool} {s0 : State} (s : State) (r : CmdRef) (asid : Nat) (va : Word) (n : Nat)
    (body : State → State) (h : Parts P [.out, .regs, .ten, .tra, .xlt])
    (hb : ∀ a, a.boot = s.boot → Keeps P s0 a → Keeps P s0 (body a)) (hs : Keeps P s0 s) :
    Keeps P s0 (State.cmdRead s r asid va n body) := by
  unfold State.cmdRead
  refine Keeps.ite (State.adminDone_keeps _ _ _ _ (h.mono (by decide)) hs) ?_
  extract_lets t
  have ht : Keeps P s0 t.1 := KeepsP.fst (State.readRange_keeps _ _ _ _ _ (h.mono (by decide)) hs)
  exact Keeps.ite (hb _ (State.readRange_boot _ _ _ _ _) ht) (State.adminDone_keeps _ _ _ _ (h.mono (by decide)) ht)

theorem State.lcAdvance_keeps {P : Part → Bool} {s0 : State} (s : State) (r : CmdRef) (dest : Nat) (tr : Option Bool) (asid : Nat) (va : Word) (token : FetchedToken) (h : Parts P [.out, .regs, .ten, .tra, .xlt, .boot, .evr]) (ht : tr = lcStep s.boot.lc dest)
    (hs : Keeps P s0 s) : Keeps P s0 (State.lcAdvance s r dest tr asid va token) := by
  have go : ∀ (u : State) need, u.boot = s.boot → Keeps P s0 u → tr = some need →
      ¬((s.boot.lcNext != s.boot.lc || (s.boot.lc == 1 && dest == 2 && !s.boot.idCert)) = true) → Keeps P s0 (u.lcBurn r dest) := by
    intro u need eu hu e c
    refine State.lcBurn_keeps _ _ _ (h.mono (by decide)) ?_ hu
    rw [eu]
    refine ⟨?_, lcStep_up _ _ need (ht.symm.trans e)⟩
    simp only [Bool.or_eq_true, not_or, bne_iff_ne, ne_eq, Decidable.not_not] at c
    exact c.1.symm
  unfold State.lcAdvance
  split
  · exact State.adminDone_keeps _ _ _ _ (h.mono (by decide)) hs
  · split
    · exact State.adminDone_keeps _ _ _ _ (h.mono (by decide)) hs
    · next c =>
      split
      · exact go s _ rfl hs rfl c
      · refine State.cmdRead_keepsBoot _ _ _ _ _ _ (h.mono (by decide)) (fun a ea ha => ?_) hs
        split
        · exact State.adminDone_keeps _ _ _ _ (h.mono (by decide)) ha
        · split
          · exact go a _ ea ha rfl c
          · exact State.adminDone_keeps _ _ _ _ (h.mono (by decide)) ha


theorem execLcAdvance_keeps {P : Part → Bool} {s0 : State} (c : AdminCmd) (token : FetchedToken) (s : State) (h : Parts P [.out, .regs, .ten, .tra, .xlt, .boot, .pwr, .evr])
    (hs : Keeps P s0 s) : KeepsR P s0 (execLcAdvance c token s) := by
  unfold execLcAdvance
  repeat' (first
    | with_reducible assumption
    | ((with_reducible apply Parts.mono h); decide)
    | with_reducible rfl
    | with_reducible apply State.admin_keeps
    | with_reducible apply State.pfOnly_keeps
    | with_reducible apply State.asking_keeps
    | with_reducible apply State.lcAdvance_keeps
    | with_reducible apply KeepsR.next
    | with_reducible intro _
    | with_reducible apply KeepsR.ite
    | with_reducible apply Keeps.ite
    | split
    | beta_reduce)

theorem State.ownerBurn_keeps {P : Part → Bool} {s0 : State} (s : State) (r : CmdRef) (hash : BitVec 384) (h : Parts P [.ten, .xlt, .boot, .evr]) (e : ¬((s.boot.lc != 2 || s.boot.ownerFused) = true))
    (hs : Keeps P s0 s) : Keeps P s0 (State.ownerBurn s r hash) := by
  unfold State.ownerBurn
  repeat' (first
    | with_reducible assumption
    | ((with_reducible apply Parts.mono h); decide)
    | exact ownedBoot_fuses _ _ e
    | with_reducible apply State.record_keeps
    | with_reducible apply State.adminDone_keeps
    | with_reducible intro _
    | (extract_lets +onlyGivenNames x0; first
        | ((with_reducible refine (have hx0 : Keeps P s0 x0 := ?_; ?_)); (on_goal 2 => clear_value x0); (on_goal 1 => subst x0))
        | ((with_reducible have _x0 : Boot := x0); clear _x0; subst x0)
        | clear_value x0)
    | split
    | with_reducible apply Keeps.upd
    | with_reducible apply Fuses.refl
    | ((with_reducible apply Fuses.mk) <;> first | exact fun l => ⟨l, Nat.le_refl _, Nat.le_refl _⟩ | exact fun o => ⟨o, rfl⟩ | exact Nat.le_refl _ | exact fun o => o)
    | ((with_reducible apply Or.inr); with_reducible rfl)
    | ((with_reducible apply Or.inl); exact h _ (by decide)))

theorem execSetOwnerKey_keeps {P : Part → Bool} {s0 : State} (c : AdminCmd) (key : FetchedKey) (s : State) (h : Parts P [.out, .regs, .ten, .tra, .xlt, .boot, .pwr, .evr])
    (hs : Keeps P s0 s) : KeepsR P s0 (execSetOwnerKey c key s) := by
  unfold execSetOwnerKey
  split
  · exact KeepsR.next hs
  · refine KeepsR.next (State.asking_keeps _ _ _ (h.mono (by decide)) (fun z hz => ?_) hs)
    refine State.admin_keeps _ _ _ _ _ (h.mono (by decide)) (fun a ha r => ?_) hz
    refine State.pfOnly_keeps _ _ _ _ (h.mono (by decide)) (fun a ha r => ?_) ha
    beta_reduce
    split
    · exact State.adminDone_keeps _ _ _ _ (h.mono (by decide)) ha
    · next e =>
      refine State.cmdRead_keepsBoot _ _ _ _ _ _ (h.mono (by decide)) (fun b eb hb => ?_) ha
      split
      · exact State.adminDone_keeps _ _ _ _ (h.mono (by decide)) hb
      · exact State.ownerBurn_keeps _ _ _ (h.mono (by decide)) (by rw [eb]; exact e) hb


theorem State.fwFail_keeps {P : Part → Bool} {s0 : State} (s : State) (r : CmdRef) (k : Nat) (reason : Nat) (version : Nat) (h : Parts P [.regs, .ten, .xlt])
    (hs : Keeps P s0 s) : Keeps P s0 (State.fwFail s r k reason version) := by
  unfold State.fwFail
  repeat' (first
    | with_reducible assumption
    | ((with_reducible apply Parts.mono h); decide)
    | with_reducible apply State.wrF_keeps
    | with_reducible apply State.adminDone_keeps
    | with_reducible intro _
    | split)

theorem State.fwHold_keeps {P : Part → Bool} {s0 : State} (s : State) (r : CmdRef) (k : Nat) (i : Image) (h : Parts P [.regs, .ten, .xlt, .boot])
    (hs : Keeps P s0 s) : Keeps P s0 (State.fwHold s r k i) := by
  unfold State.fwHold
  repeat' (first
    | with_reducible assumption
    | ((with_reducible apply Parts.mono h); decide)
    | with_reducible apply State.wrF_keeps
    | with_reducible apply State.adminDone_keeps
    | with_reducible apply State.setUpdate_keeps
    | with_reducible apply State.fwFail_keeps
    | with_reducible intro _
    | (extract_lets +onlyGivenNames x0; first
        | ((with_reducible refine (have hx0 : Keeps P s0 x0 := ?_; ?_)); (on_goal 2 => clear_value x0); (on_goal 1 => subst x0))
        | clear_value x0)
    | with_reducible apply Keeps.ite
    | split
    | with_reducible apply Keeps.upd
    | with_reducible apply Fuses.refl
    | ((with_reducible apply Or.inr); with_reducible rfl)
    | ((with_reducible apply Or.inl); exact h _ (by decide)))

theorem execFwStage_keeps {P : Part → Bool} {s0 : State} (c : AdminCmd) (image : FetchedImage) (s : State) (h : Parts P [.out, .regs, .ten, .tra, .xlt, .boot, .pwr])
    (hs : Keeps P s0 s) : KeepsR P s0 (execFwStage c image s) := by
  unfold execFwStage
  repeat' (first
    | with_reducible assumption
    | ((with_reducible apply Parts.mono h); decide)
    | with_reducible apply State.adminDone_keeps
    | with_reducible apply State.admin_keeps
    | with_reducible apply State.pfOnly_keeps
    | with_reducible apply State.asking_keeps
    | with_reducible apply State.cmdRead_keeps
    | with_reducible apply State.fwFail_keeps
    | with_reducible apply State.fwHold_keeps
    | with_reducible apply KeepsR.next
    | with_reducible intro _
    | (extract_lets +onlyGivenNames x0; first
        | ((with_reducible refine (have hx0 : Keeps P s0 x0 := ?_; ?_)); (on_goal 2 => clear_value x0); (on_goal 1 => subst x0))
        | clear_value x0)
    | with_reducible apply KeepsR.ite
    | with_reducible apply Keeps.ite
    | split
    | with_reducible apply Keeps.upd
    | with_reducible apply Fuses.refl
    | ((with_reducible apply Or.inr); with_reducible rfl)
    | ((with_reducible apply Or.inl); exact h _ (by decide))
    | beta_reduce)

theorem execFwActivate_keeps {P : Part → Bool} {s0 : State} (c : AdminCmd) (s : State) (h : Parts P [.regs, .ten, .xlt, .boot])
    (hs : Keeps P s0 s) : KeepsR P s0 (execFwActivate c s) := by
  unfold execFwActivate
  repeat' (first
    | with_reducible assumption
    | ((with_reducible apply Parts.mono h); decide)
    | with_reducible apply State.wrFs_keeps
    | with_reducible apply State.admin_keeps
    | with_reducible apply State.pfOnly_keeps
    | with_reducible apply State.setUpdate_keeps
    | with_reducible apply State.fwFail_keeps
    | with_reducible apply KeepsR.next
    | with_reducible intro _
    | (extract_lets +onlyGivenNames x0; first
        | ((with_reducible refine (have hx0 : Keeps P s0 x0 := ?_; ?_)); (on_goal 2 => clear_value x0); (on_goal 1 => subst x0))
        | clear_value x0)
    | with_reducible apply KeepsR.ite
    | with_reducible apply Keeps.ite
    | split
    | with_reducible apply Keeps.upd
    | with_reducible apply Fuses.refl
    | ((with_reducible apply Or.inr); with_reducible rfl)
    | ((with_reducible apply Or.inl); exact h _ (by decide))
    | beta_reduce)

theorem State.handOver_keeps {P : Part → Bool} {s0 : State} (s : State) (k : Nat) (r : CmdRef) (i : Image) (u : Update) (h : Parts P [.regs, .ten, .xlt, .rte, .irc, .sem, .boot, .evr])
    (hs : Keeps P s0 s) : Keeps P s0 (State.handOver s k r i u) := by
  unfold State.handOver
  repeat' (first
    | with_reducible assumption
    | ((with_reducible apply Parts.mono h); decide)
    | with_reducible apply State.wrF_keeps
    | with_reducible apply State.wrFs_keeps
    | with_reducible apply State.adminDone_keeps
    | with_reducible apply State.setUpdate_keeps
    | with_reducible apply State.coreLost_keeps
    | with_reducible apply State.bootNote_keeps
    | with_reducible apply State.measure_keeps
    | with_reducible intro _
    | (extract_lets +onlyGivenNames x0; first
        | ((with_reducible refine (have hx0 : Keeps P s0 x0 := ?_; ?_)); (on_goal 2 => clear_value x0); (on_goal 1 => subst x0))
        | ((with_reducible have _x0 : Boot := x0); clear _x0; subst x0)
        | clear_value x0)
    | with_reducible apply Keeps.ite
    | split)

theorem execFwStandbyLoaded_keeps {P : Part → Bool} {s0 : State} (pair : Nat) (digestOk : Bool) (s : State) (h : Parts P [.out, .regs, .ten, .xlt, .rte, .irc, .sem, .boot, .pwr, .flt, .evr])
    (hs : Keeps P s0 s) : KeepsR P s0 (execFwStandbyLoaded pair digestOk s) := by
  unfold execFwStandbyLoaded
  repeat' (first
    | with_reducible assumption
    | ((with_reducible apply Parts.mono h); decide)
    | with_reducible apply State.wrF_keeps
    | with_reducible apply State.ftRaise_keeps
    | with_reducible apply State.activateFail_keeps
    | with_reducible apply State.handOver_keeps
    | with_reducible apply KeepsR.next
    | with_reducible intro _
    | (extract_lets +onlyGivenNames x0; first
        | ((with_reducible refine (have hx0 : Keeps P s0 x0 := ?_; ?_)); (on_goal 2 => clear_value x0); (on_goal 1 => subst x0))
        | clear_value x0)
    | with_reducible apply KeepsR.ite
    | with_reducible apply Keeps.ite
    | split
    | with_reducible apply Keeps.upd
    | with_reducible apply Fuses.refl
    | ((with_reducible apply Or.inr); with_reducible rfl)
    | ((with_reducible apply Or.inl); exact h _ (by decide)))

theorem execFwStandbyReloaded_keeps {P : Part → Bool} {s0 : State} (pair : Nat) (ok : Bool) (s : State) (h : Parts P [.regs, .boot, .evr])
    (hs : Keeps P s0 s) : KeepsR P s0 (execFwStandbyReloaded pair ok s) := by
  unfold execFwStandbyReloaded
  repeat' (first
    | with_reducible assumption
    | ((with_reducible apply Parts.mono h); decide)
    | with_reducible apply State.wrF_keeps
    | with_reducible apply State.wrFs_keeps
    | with_reducible apply State.ucRaise_keeps
    | with_reducible apply KeepsR.next
    | with_reducible intro _
    | (extract_lets +onlyGivenNames x0; first
        | ((with_reducible refine (have hx0 : Keeps P s0 x0 := ?_; ?_)); (on_goal 2 => clear_value x0); (on_goal 1 => subst x0))
        | clear_value x0)
    | with_reducible apply KeepsR.ite
    | with_reducible apply Keeps.ite
    | split)

end Sys2Proof.Machine
end

