-- ==== Sys2Proof/Laws/Registers.lean ====
section
/-! SUPPORT. What the operations of Machine/Registers.lean keep. -/

set_option linter.unusedTactic false
set_option linter.unreachableTactic false
set_option linter.unusedVariables false

namespace Sys2Proof.Machine

open Sys2Proof

theorem State.configWrite_keeps {P : Part → Bool} {s0 : State} (s : State) (rid off : Nat) (val : Word) (h : Parts P [.ten])
    (hs : Keeps P s0 s) : Keeps P s0 (State.configWrite s rid off val) := by
  unfold State.configWrite
  exact Keeps.ite (State.setFn_keeps _ _ _ (h.mono (by decide)) hs) hs

theorem execRegisterWrite_keeps {P : Part → Bool} {s0 : State} (rid : Nat) (off : Nat) (size : Nat) (val : Word) (s : State) (h : Parts P [.out, .free, .now, .ft, .regs, .hbm, .ten, .tra, .mat, .wins, .grps, .xlt, .rte, .tcs, .lnk, .hst, .irc, .sem, .boot, .pwr, .flt, .evr, .cnt])
    (hs : Keeps P s0 s) : KeepsR P s0 (execRegisterWrite rid off size val s) := by
  unfold execRegisterWrite
  repeat' (first
    | with_reducible assumption
    | ((with_reducible apply Parts.mono h); decide)
    | with_reducible apply State.configWrite_keeps
    | with_reducible apply State.accessErr_keeps
    | with_reducible apply State.regWrite_keeps
    | with_reducible apply State.halfWrite_keeps
    | with_reducible apply State.msixWrite_keeps
    | with_reducible apply KeepsR.next
    | with_reducible intro _
    | (extract_lets +onlyGivenNames x0; first
        | ((with_reducible refine (have hx0 : Keeps P s0 x0 := ?_; ?_)); (on_goal 2 => clear_value x0); (on_goal 1 => subst x0))
        | clear_value x0)
    | with_reducible apply KeepsR.ite
    | with_reducible apply Keeps.ite
    | split
    | with_reducible apply Keeps.upd
    | with_reducible apply Fuses.refl
    | ((with_reducible apply Or.inr); with_reducible rfl)
    | ((with_reducible apply Or.inl); exact h _ (by decide)))

theorem execRegisterRead_keeps {P : Part → Bool} {s0 : State} (rid : Nat) (off : Nat) (size : Nat) (s : State) (h : Parts P [.out, .free, .regs, .ten, .rte, .irc])
    (hs : Keeps P s0 s) : KeepsR P s0 (execRegisterRead rid off size s) := by
  unfold execRegisterRead
  repeat' (first
    | with_reducible assumption
    | ((with_reducible apply Parts.mono h); decide)
    | with_reducible apply State.accessErr_keeps
    | with_reducible apply State.shadowSeen_keeps
    | with_reducible apply State.ircClaim_keeps
    | with_reducible apply State.rcClear_keeps
    | with_reducible apply State.returnBytes_keeps
    | with_reducible apply KeepsR.next
    | with_reducible intro _
    | (extract_lets +onlyGivenNames x0; first
        | ((with_reducible refine (have hx0 : Keeps P s0 x0 := ?_; ?_)); (on_goal 2 => clear_value x0); (on_goal 1 => subst x0))
        | clear_value x0)
    | with_reducible apply KeepsR.ite
    | with_reducible apply Keeps.ite
    | split
    | with_reducible apply Keeps.upd
    | with_reducible apply Fuses.refl
    | ((with_reducible apply Or.inr); with_reducible rfl)
    | ((with_reducible apply Or.inl); exact h _ (by decide)))

end Sys2Proof.Machine
end

