-- ==== Sys2Proof/Laws/Semaphore.lean ====
section
/-! SUPPORT. What the operations of Machine/Semaphore.lean keep. -/

set_option linter.unusedTactic false
set_option linter.unreachableTactic false
set_option linter.unusedVariables false

namespace Sys2Proof.Machine

open Sys2Proof

theorem State.spanReq_keeps {P : Part → Bool} {s0 : State} (s : State) (rid : Nat) (q : Nat) (c : Nat) (kind : Nat) (size : Nat) (low : Nat) (wide : Bool) (high : Bool) (cmd : Word) (h : Parts P [.out, .regs, .rte, .sem])
    (hs : Keeps P s0 s) : Keeps P s0 (State.spanReq s rid q c kind size low wide high cmd) := by
  unfold State.spanReq
  repeat' (first
    | with_reducible assumption
    | ((with_reducible apply Parts.mono h); decide)
    | with_reducible apply State.bump_keeps
    | with_reducible apply State.emit_keeps
    | with_reducible apply State.spanSend_keeps
    | with_reducible intro _
    | (extract_lets +onlyGivenNames x0; first
        | ((with_reducible refine (have hx0 : Keeps P s0 x0 := ?_; ?_)); (on_goal 2 => clear_value x0); (on_goal 1 => subst x0))
        | clear_value x0)
    | with_reducible apply Keeps.ite
    | split
    | with_reducible apply Keeps.upd
    | with_reducible apply Fuses.refl
    | ((with_reducible apply Or.inr); with_reducible rfl)
    | ((with_reducible apply Or.inl); exact h _ (by decide))
    | beta_reduce)

theorem State.cellWrite_keeps {P : Part → Bool} {s0 : State} (s : State) (rid : Nat) (off : Nat) (size : Nat) (cmd : Word) (h : Parts P [.out, .regs, .rte, .sem, .boot, .evr])
    (hs : Keeps P s0 s) : Keeps P s0 (State.cellWrite s rid off size cmd) := by
  unfold State.cellWrite
  repeat' (first
    | with_reducible assumption
    | ((with_reducible apply Parts.mono h); decide)
    | with_reducible apply State.bump_keeps
    | with_reducible apply State.semRefuse_keeps
    | with_reducible apply State.cellDo_keeps
    | with_reducible apply State.spanReq_keeps
    | with_reducible intro _
    | (extract_lets +onlyGivenNames x0; first
        | ((with_reducible refine (have hx0 : Keeps P s0 x0 := ?_; ?_)); (on_goal 2 => clear_value x0); (on_goal 1 => subst x0))
        | clear_value x0)
    | with_reducible apply Keeps.ite
    | split)

theorem execCellClaim_keeps {P : Part → Bool} {s0 : State} (rid : Nat) (off : Nat) (size : Nat) (cmd : Word) (s : State) (h : Parts P [.out, .regs, .rte, .sem, .boot, .evr])
    (hs : Keeps P s0 s) : KeepsR P s0 (execCellClaim rid off size cmd s) := by
  unfold execCellClaim
  repeat' (first
    | with_reducible assumption
    | ((with_reducible apply Parts.mono h); decide)
    | with_reducible apply State.cellWrite_keeps
    | with_reducible apply KeepsR.next
    | with_reducible intro _
    | split)

theorem execCellRelease_keeps {P : Part → Bool} {s0 : State} (rid : Nat) (off : Nat) (size : Nat) (cmd : Word) (s : State) (h : Parts P [.out, .regs, .rte, .sem, .boot, .evr])
    (hs : Keeps P s0 s) : KeepsR P s0 (execCellRelease rid off size cmd s) := by
  unfold execCellRelease
  repeat' (first
    | with_reducible assumption
    | ((with_reducible apply Parts.mono h); decide)
    | with_reducible apply State.cellWrite_keeps
    | with_reducible apply KeepsR.next
    | with_reducible intro _
    | split)

theorem execCellForce_keeps {P : Part → Bool} {s0 : State} (rid : Nat) (off : Nat) (size : Nat) (cmd : Word) (s : State) (h : Parts P [.out, .regs, .rte, .sem, .boot, .evr])
    (hs : Keeps P s0 s) : KeepsR P s0 (execCellForce rid off size cmd s) := by
  unfold execCellForce
  repeat' (first
    | with_reducible assumption
    | ((with_reducible apply Parts.mono h); decide)
    | with_reducible apply State.cellWrite_keeps
    | with_reducible apply KeepsR.next
    | with_reducible intro _
    | split)

theorem execCellAtomicop_keeps {P : Part → Bool} {s0 : State} (rid : Nat) (off : Nat) (form : AtomicForm) (s : State) (h : Parts P [.out, .regs, .rte, .sem, .boot, .evr])
    (hs : Keeps P s0 s) : KeepsR P s0 (execCellAtomicop rid off form s) := by
  unfold execCellAtomicop
  repeat' (first
    | with_reducible assumption
    | ((with_reducible apply Parts.mono h); decide)
    | with_reducible apply State.emit_keeps
    | with_reducible apply State.semRefuse_keeps
    | with_reducible apply State.cellCmd_keeps
    | with_reducible apply State.spanReq_keeps
    | with_reducible apply KeepsR.next
    | with_reducible intro _
    | (extract_lets +onlyGivenNames x0; first
        | ((with_reducible refine (have hx0 : Keeps P s0 x0 := ?_; ?_)); (on_goal 2 => clear_value x0); (on_goal 1 => subst x0))
        | clear_value x0)
    | with_reducible apply KeepsR.ite
    | with_reducible apply Keeps.ite
    | with_reducible apply KeepsO.getD
    | split
    | with_reducible apply Keeps.upd
    | with_reducible apply Fuses.refl
    | ((with_reducible apply Or.inr); with_reducible rfl)
    | ((with_reducible apply Or.inl); exact h _ (by decide)))

theorem State.cellRead_keeps {P : Part → Bool} {s0 : State} (s : State) (rid : Nat) (off : Nat) (size : Nat) (h : Parts P [.out, .regs, .rte, .sem])
    (hs : Keeps P s0 s) : Keeps P s0 (State.cellRead s rid off size) := by
  unfold State.cellRead
  repeat' (first
    | with_reducible assumption
    | ((with_reducible apply Parts.mono h); decide)
    | with_reducible apply State.emit_keeps
    | with_reducible apply State.semRefuse_keeps
    | with_reducible apply State.spanReq_keeps
    | with_reducible intro _
    | (extract_lets +onlyGivenNames x0; first
        | ((with_reducible refine (have hx0 : Keeps P s0 x0 := ?_; ?_)); (on_goal 2 => clear_value x0); (on_goal 1 => subst x0))
        | clear_value x0)
    | with_reducible apply Keeps.ite
    | split)

theorem execCellRead_keeps {P : Part → Bool} {s0 : State} (rid : Nat) (off : Nat) (size : Nat) (s : State) (h : Parts P [.out, .regs, .rte, .sem])
    (hs : Keeps P s0 s) : KeepsR P s0 (execCellRead rid off size s) := by
  unfold execCellRead
  repeat' (first
    | with_reducible assumption
    | ((with_reducible apply Parts.mono h); decide)
    | with_reducible apply State.cellRead_keeps
    | with_reducible apply KeepsR.next
    | with_reducible apply foldl_keeps
    | with_reducible apply foldl_keepsP
    | with_reducible intro _
    | split
    | with_reducible apply KeepsP.mk
    | (with_reducible apply KeepsP.of_eq (by with_reducible assumption))
    | with_reducible apply KeepsP.fst
    | beta_reduce)

theorem State.spanDiscard_keeps {P : Part → Bool} {s0 : State} (s : State) (k : Nat) (h : Parts P [.regs])
    (hs : Keeps P s0 s) : Keeps P s0 (State.spanDiscard s k) := by
  unfold State.spanDiscard
  repeat' (first
    | with_reducible assumption
    | ((with_reducible apply Parts.mono h); decide)
    | with_reducible apply State.bump_keeps
    | with_reducible intro _
    | with_reducible apply Keeps.ite
    | split)

theorem State.peerIncCheck_keeps {P : Part → Bool} {s0 : State} (s : State) (pos : Nat) (inc : BitVec 16) (h : Parts P [.regs, .sem, .boot, .evr])
    (hs : Keeps P s0 s) : Keeps P s0 (State.peerIncCheck s pos inc) := by
  unfold State.peerIncCheck
  repeat' (first
    | with_reducible assumption
    | ((with_reducible apply Parts.mono h); decide)
    | with_reducible apply State.orphan_keeps
    | with_reducible intro _
    | (extract_lets +onlyGivenNames x0; first
        | ((with_reducible refine (have hx0 : Keeps P s0 x0 := ?_; ?_)); (on_goal 2 => clear_value x0); (on_goal 1 => subst x0))
        | clear_value x0)
    | with_reducible apply Keeps.ite
    | with_reducible apply KeepsO.getD
    | split
    | with_reducible apply Keeps.upd
    | with_reducible apply Fuses.refl
    | ((with_reducible apply Or.inr); with_reducible rfl)
    | ((with_reducible apply Or.inl); exact h _ (by decide))
    | beta_reduce)

theorem State.spanAnswer_keeps {P : Part → Bool} {s0 : State} (s : State) (k : Nat) (p : Packet) (word : Word) (refused : Bool) (h : Parts P [.rte])
    (hs : Keeps P s0 s) : Keeps P s0 (State.spanAnswer s k p word refused) := by
  unfold State.spanAnswer
  repeat' (first
    | with_reducible assumption
    | ((with_reducible apply Parts.mono h); decide)
    | with_reducible apply State.spanSend_keeps
    | with_reducible intro _
    | (extract_lets +onlyGivenNames x0; first
        | ((with_reducible refine (have hx0 : Keeps P s0 x0 := ?_; ?_)); (on_goal 2 => clear_value x0); (on_goal 1 => subst x0))
        | clear_value x0)
    | with_reducible apply Keeps.ite
    | split
    | with_reducible apply Keeps.upd
    | with_reducible apply Fuses.refl
    | ((with_reducible apply Or.inr); with_reducible rfl)
    | ((with_reducible apply Or.inl); exact h _ (by decide)))

theorem State.spanServe_keeps {P : Part → Bool} {s0 : State} (s : State) (k : Nat) (kind : Nat) (p : Packet) (act : State → Nat → State) (h : Parts P [.regs, .xlt, .rte, .lnk, .sem, .boot, .evr]) (h_act : ∀ a, Keeps P s0 a → ∀ y1, Keeps P s0 (act a y1))
    (hs : Keeps P s0 s) : Keeps P s0 (State.spanServe s k kind p act) := by
  unfold State.spanServe
  repeat' (first
    | with_reducible assumption
    | ((with_reducible apply Parts.mono h); decide)
    | with_reducible apply h_act
    | with_reducible apply State.takeLocal_keeps
    | with_reducible apply State.spanDiscard_keeps
    | with_reducible apply State.peerIncCheck_keeps
    | with_reducible intro _
    | (extract_lets +onlyGivenNames x0; first
        | ((with_reducible refine (have hx0 : Keeps P s0 x0 := ?_; ?_)); (on_goal 2 => clear_value x0); (on_goal 1 => subst x0))
        | clear_value x0)
    | with_reducible apply Keeps.ite
    | split)

theorem execSpanReqRead_keeps {P : Part → Bool} {s0 : State} (span : Nat) (p : Packet) (s : State) (h : Parts P [.regs, .xlt, .rte, .lnk, .sem, .boot, .evr])
    (hs : Keeps P s0 s) : KeepsR P s0 (execSpanReqRead span p s) := by
  unfold execSpanReqRead
  repeat' (first
    | with_reducible assumption
    | ((with_reducible apply Parts.mono h); decide)
    | with_reducible apply State.semRefuse_keeps
    | with_reducible apply State.spanAnswer_keeps
    | with_reducible apply State.spanServe_keeps
    | with_reducible apply KeepsR.next
    | with_reducible intro _
    | with_reducible apply KeepsR.ite
    | with_reducible apply Keeps.ite
    | split
    | beta_reduce)

theorem execSpanReqWrite_keeps {P : Part → Bool} {s0 : State} (span : Nat) (p : Packet) (s : State) (h : Parts P [.regs, .xlt, .rte, .lnk, .sem, .boot, .evr])
    (hs : Keeps P s0 s) : KeepsR P s0 (execSpanReqWrite span p s) := by
  unfold execSpanReqWrite
  repeat' (first
    | with_reducible assumption
    | ((with_reducible apply Parts.mono h); decide)
    | with_reducible apply State.semRefuse_keeps
    | with_reducible apply State.cellCmd_keeps
    | with_reducible apply State.spanAnswer_keeps
    | with_reducible apply State.spanServe_keeps
    | with_reducible apply KeepsR.next
    | with_reducible intro _
    | (extract_lets +onlyGivenNames x0; first
        | ((with_reducible refine (have hx0 : Keeps P s0 x0 := ?_; ?_)); (on_goal 2 => clear_value x0); (on_goal 1 => subst x0))
        | clear_value x0)
    | with_reducible apply KeepsR.ite
    | with_reducible apply Keeps.ite
    | split
    | beta_reduce)

theorem execSpanReqAtomic_keeps {P : Part → Bool} {s0 : State} (span : Nat) (p : Packet) (s : State) (h : Parts P [.regs, .xlt, .rte, .lnk, .sem, .boot, .evr])
    (hs : Keeps P s0 s) : KeepsR P s0 (execSpanReqAtomic span p s) := by
  unfold execSpanReqAtomic
  repeat' (first
    | with_reducible assumption
    | ((with_reducible apply Parts.mono h); decide)
    | with_reducible apply State.semRefuse_keeps
    | with_reducible apply State.cellCmd_keeps
    | with_reducible apply State.spanAnswer_keeps
    | with_reducible apply State.spanServe_keeps
    | with_reducible apply KeepsR.next
    | with_reducible intro _
    | (extract_lets +onlyGivenNames x0; first
        | ((with_reducible refine (have hx0 : Keeps P s0 x0 := ?_; ?_)); (on_goal 2 => clear_value x0); (on_goal 1 => subst x0))
        | clear_value x0)
    | with_reducible apply KeepsR.ite
    | with_reducible apply Keeps.ite
    | split
    | beta_reduce)

theorem execNotice_keeps {P : Part → Bool} {s0 : State} (span : Nat) (p : Packet) (s : State) (h : Parts P [.regs, .xlt, .rte, .lnk, .sem, .boot, .evr])
    (hs : Keeps P s0 s) : KeepsR P s0 (execNotice span p s) := by
  unfold execNotice
  repeat' (first
    | with_reducible assumption
    | ((with_reducible apply Parts.mono h); decide)
    | with_reducible apply State.orphan_keeps
    | with_reducible apply State.spanAnswer_keeps
    | with_reducible apply State.spanServe_keeps
    | with_reducible apply KeepsR.next
    | with_reducible intro _
    | (extract_lets +onlyGivenNames x0; first
        | ((with_reducible refine (have hx0 : Keeps P s0 x0 := ?_; ?_)); (on_goal 2 => clear_value x0); (on_goal 1 => subst x0))
        | clear_value x0)
    | with_reducible apply KeepsR.ite
    | with_reducible apply Keeps.ite
    | split
    | beta_reduce)

theorem execSpanResp_keeps {P : Part → Bool} {s0 : State} (span : Nat) (p : Packet) (s : State) (h : Parts P [.out, .regs, .xlt, .rte, .lnk, .sem])
    (hs : Keeps P s0 s) : KeepsR P s0 (execSpanResp span p s) := by
  unfold execSpanResp
  repeat' (first
    | with_reducible assumption
    | ((with_reducible apply Parts.mono h); decide)
    | with_reducible apply State.emit_keeps
    | with_reducible apply State.takeLocal_keeps
    | with_reducible apply State.spanDiscard_keeps
    | with_reducible apply KeepsR.next
    | with_reducible intro _
    | (extract_lets +onlyGivenNames x0; first
        | ((with_reducible refine (have hx0 : Keeps P s0 x0 := ?_; ?_)); (on_goal 2 => clear_value x0); (on_goal 1 => subst x0))
        | clear_value x0)
    | with_reducible apply KeepsR.ite
    | with_reducible apply Keeps.ite
    | split
    | with_reducible apply Keeps.upd
    | with_reducible apply Fuses.refl
    | ((with_reducible apply Or.inr); with_reducible rfl)
    | ((with_reducible apply Or.inl); exact h _ (by decide))
    | beta_reduce)

theorem execSpanReqTimeout_keeps {P : Part → Bool} {s0 : State} (span : Nat) (tag : Nat) (s : State) (h : Parts P [.out, .now, .ft, .regs, .lnk, .sem, .pwr])
    (hs : Keeps P s0 s) : KeepsR P s0 (execSpanReqTimeout span tag s) := by
  unfold execSpanReqTimeout
  repeat' (first
    | with_reducible assumption
    | ((with_reducible apply Parts.mono h); decide)
    | with_reducible apply State.bump_keeps
    | with_reducible apply State.emit_keeps
    | with_reducible apply State.passTo_keeps
    | with_reducible apply KeepsR.next
    | with_reducible intro _
    | (extract_lets +onlyGivenNames x0; first
        | ((with_reducible refine (have hx0 : Keeps P s0 x0 := ?_; ?_)); (on_goal 2 => clear_value x0); (on_goal 1 => subst x0))
        | clear_value x0)
    | with_reducible apply KeepsR.ite
    | with_reducible apply Keeps.ite
    | split
    | with_reducible apply Keeps.upd
    | with_reducible apply Fuses.refl
    | ((with_reducible apply Or.inr); with_reducible rfl)
    | ((with_reducible apply Or.inl); exact h _ (by decide)))

theorem execNoticeResend_keeps {P : Part → Bool} {s0 : State} (span : Nat) (s : State) (h : Parts P [.now, .ft, .regs, .rte, .lnk, .sem, .pwr])
    (hs : Keeps P s0 s) : KeepsR P s0 (execNoticeResend span s) := by
  unfold execNoticeResend
  repeat' (first
    | with_reducible assumption
    | ((with_reducible apply Parts.mono h); decide)
    | with_reducible apply State.noticeSend_keeps
    | with_reducible apply State.passTo_keeps
    | with_reducible apply KeepsR.next
    | with_reducible intro _
    | (extract_lets +onlyGivenNames x0; first
        | ((with_reducible refine (have hx0 : Keeps P s0 x0 := ?_; ?_)); (on_goal 2 => clear_value x0); (on_goal 1 => subst x0))
        | clear_value x0)
    | with_reducible apply KeepsR.ite
    | with_reducible apply Keeps.ite
    | split
    | with_reducible apply Keeps.upd
    | with_reducible apply Fuses.refl
    | ((with_reducible apply Or.inr); with_reducible rfl)
    | ((with_reducible apply Or.inl); exact h _ (by decide)))

end Sys2Proof.Machine
end

