-- ==== Sys2Proof/Laws/Spdm.lean ====
section
/-! SUPPORT. What the operations of Machine/Spdm.lean keep. -/

set_option linter.unusedTactic false
set_option linter.unreachableTactic false
set_option linter.unusedVariables false

namespace Sys2Proof.Machine

open Sys2Proof

theorem State.setConn_keeps {P : Part → Bool} {s0 : State} (s : State) (ep : Endpoint) (c : Spdm) (h : Parts P [.hst])
    (hs : Keeps P s0 s) : Keeps P s0 (State.setConn s ep c) := by
  unfold State.setConn
  repeat' (first
    | with_reducible assumption
    | ((with_reducible apply Parts.mono h); decide)
    | with_reducible intro _
    | (extract_lets +onlyGivenNames x0; first
        | ((with_reducible refine (have hx0 : Keeps P s0 x0 := ?_; ?_)); (on_goal 2 => clear_value x0); (on_goal 1 => subst x0))
        | clear_value x0)
    | split
    | with_reducible apply Keeps.upd
    | with_reducible apply Fuses.refl
    | ((with_reducible apply Or.inr); with_reducible rfl)
    | ((with_reducible apply Or.inl); exact h _ (by decide)))

theorem State.answer_keeps {P : Part → Bool} {s0 : State} (s : State) (ep : Endpoint) (code : Nat) (body : List Byte) (h : Parts P [.out, .regs, .ten, .hst])
    (hs : Keeps P s0 s) : Keeps P s0 (State.answer s ep code body) := by
  unfold State.answer
  repeat' (first
    | with_reducible assumption
    | ((with_reducible apply Parts.mono h); decide)
    | with_reducible apply State.emit_keeps
    | with_reducible apply State.doeAnswer_keeps
    | with_reducible intro _
    | (extract_lets +onlyGivenNames x0; first
        | ((with_reducible refine (have hx0 : Keeps P s0 x0 := ?_; ?_)); (on_goal 2 => clear_value x0); (on_goal 1 => subst x0))
        | clear_value x0)
    | split
    | with_reducible apply Keeps.upd
    | with_reducible apply Fuses.refl
    | ((with_reducible apply Or.inr); with_reducible rfl)
    | ((with_reducible apply Or.inl); exact h _ (by decide)))

theorem State.spdmError_keeps {P : Part → Bool} {s0 : State} (s : State) (ep : Endpoint) (e : Nat) (h : Parts P [.out, .regs, .ten, .hst])
    (hs : Keeps P s0 s) : Keeps P s0 (State.spdmError s ep e) := by
  unfold State.spdmError
  repeat' (first
    | with_reducible assumption
    | ((with_reducible apply Parts.mono h); decide)
    | with_reducible apply State.answer_keeps
    | with_reducible intro _
    | split)

theorem State.spdmReq_keeps {P : Part → Bool} {s0 : State} (s : State) (ep : Endpoint) (need : Nat) (body : State → State) (h : Parts P [.out, .regs, .ten, .hst]) (h_body : ∀ a, Keeps P s0 a → Keeps P s0 (body a))
    (hs : Keeps P s0 s) : KeepsR P s0 (State.spdmReq s ep need body) := by
  unfold State.spdmReq
  repeat' (first
    | with_reducible assumption
    | ((with_reducible apply Parts.mono h); decide)
    | with_reducible apply h_body
    | with_reducible apply State.spdmError_keeps
    | with_reducible apply KeepsR.next
    | with_reducible intro _
    | with_reducible apply KeepsR.ite
    | with_reducible apply Keeps.ite
    | split)

theorem State.signed_keeps {P : Part → Bool} {s0 : State} (s : State) (ep : Endpoint) (body : State → State) (h : Parts P [.out, .regs, .ten, .hst]) (h_body : ∀ a, Keeps P s0 a → Keeps P s0 (body a))
    (hs : Keeps P s0 s) : Keeps P s0 (State.signed s ep body) := by
  unfold State.signed
  repeat' (first
    | with_reducible assumption
    | ((with_reducible apply Parts.mono h); decide)
    | with_reducible apply h_body
    | with_reducible apply State.spdmError_keeps
    | with_reducible intro _
    | with_reducible apply Keeps.ite
    | split)

theorem State.inSession_keeps {P : Part → Bool} {s0 : State} (s : State) (ep : Endpoint) (body : State → State) (h : Parts P [.out, .regs, .ten, .hst]) (h_body : ∀ a, Keeps P s0 a → Keeps P s0 (body a))
    (hs : Keeps P s0 s) : Keeps P s0 (State.inSession s ep body) := by
  unfold State.inSession
  repeat' (first
    | with_reducible assumption
    | ((with_reducible apply Parts.mono h); decide)
    | with_reducible apply h_body
    | with_reducible apply State.spdmError_keeps
    | with_reducible intro _
    | with_reducible apply Keeps.ite
    | split)

theorem execGetVersion_keeps {P : Part → Bool} {s0 : State} (ep : Endpoint) (s : State) (h : Parts P [.out, .regs, .ten, .hst])
    (hs : Keeps P s0 s) : KeepsR P s0 (execGetVersion ep s) := by
  unfold execGetVersion
  repeat' (first
    | with_reducible assumption
    | ((with_reducible apply Parts.mono h); decide)
    | with_reducible apply State.setConn_keeps
    | with_reducible apply State.answer_keeps
    | with_reducible apply State.spdmReq_keeps
    | with_reducible apply KeepsR.next
    | with_reducible intro _
    | (extract_lets +onlyGivenNames x0; first
        | ((with_reducible refine (have hx0 : Keeps P s0 x0 := ?_; ?_)); (on_goal 2 => clear_value x0); (on_goal 1 => subst x0))
        | clear_value x0)
    | split
    | with_reducible apply Keeps.upd
    | with_reducible apply Fuses.refl
    | ((with_reducible apply Or.inr); with_reducible rfl)
    | ((with_reducible apply Or.inl); exact h _ (by decide))
    | beta_reduce)

theorem execGetCapabilities_keeps {P : Part → Bool} {s0 : State} (ep : Endpoint) (s : State) (h : Parts P [.out, .regs, .ten, .hst])
    (hs : Keeps P s0 s) : KeepsR P s0 (execGetCapabilities ep s) := by
  unfold execGetCapabilities
  repeat' (first
    | with_reducible assumption
    | ((with_reducible apply Parts.mono h); decide)
    | with_reducible apply State.setConn_keeps
    | with_reducible apply State.answer_keeps
    | with_reducible apply State.spdmReq_keeps
    | with_reducible apply KeepsR.next
    | with_reducible intro _
    | (extract_lets +onlyGivenNames x0; first
        | ((with_reducible refine (have hx0 : Keeps P s0 x0 := ?_; ?_)); (on_goal 2 => clear_value x0); (on_goal 1 => subst x0))
        | clear_value x0)
    | split
    | with_reducible apply Keeps.upd
    | with_reducible apply Fuses.refl
    | ((with_reducible apply Or.inr); with_reducible rfl)
    | ((with_reducible apply Or.inl); exact h _ (by decide))
    | beta_reduce)

theorem execNegotiateAlgorithms_keeps {P : Part → Bool} {s0 : State} (ep : Endpoint) (s : State) (h : Parts P [.out, .regs, .ten, .hst])
    (hs : Keeps P s0 s) : KeepsR P s0 (execNegotiateAlgorithms ep s) := by
  unfold execNegotiateAlgorithms
  repeat' (first
    | with_reducible assumption
    | ((with_reducible apply Parts.mono h); decide)
    | with_reducible apply State.setConn_keeps
    | with_reducible apply State.answer_keeps
    | with_reducible apply State.spdmReq_keeps
    | with_reducible apply KeepsR.next
    | with_reducible intro _
    | (extract_lets +onlyGivenNames x0; first
        | ((with_reducible refine (have hx0 : Keeps P s0 x0 := ?_; ?_)); (on_goal 2 => clear_value x0); (on_goal 1 => subst x0))
        | clear_value x0)
    | split
    | with_reducible apply Keeps.upd
    | with_reducible apply Fuses.refl
    | ((with_reducible apply Or.inr); with_reducible rfl)
    | ((with_reducible apply Or.inl); exact h _ (by decide))
    | beta_reduce)

theorem execGetDigests_keeps {P : Part → Bool} {s0 : State} (ep : Endpoint) (s : State) (h : Parts P [.out, .regs, .ten, .hst])
    (hs : Keeps P s0 s) : KeepsR P s0 (execGetDigests ep s) := by
  unfold execGetDigests
  repeat' (first
    | with_reducible assumption
    | ((with_reducible apply Parts.mono h); decide)
    | with_reducible apply State.answer_keeps
    | with_reducible apply State.spdmReq_keeps
    | with_reducible apply KeepsR.next
    | with_reducible intro _
    | split
    | beta_reduce)

theorem execGetCertificate_keeps {P : Part → Bool} {s0 : State} (ep : Endpoint) (slot : Nat) (offset : Nat) (length : Nat) (s : State) (h : Parts P [.out, .regs, .ten, .hst])
    (hs : Keeps P s0 s) : KeepsR P s0 (execGetCertificate ep slot offset length s) := by
  unfold execGetCertificate
  repeat' (first
    | with_reducible assumption
    | ((with_reducible apply Parts.mono h); decide)
    | with_reducible apply State.answer_keeps
    | with_reducible apply State.spdmError_keeps
    | with_reducible apply State.spdmReq_keeps
    | with_reducible apply KeepsR.next
    | with_reducible intro _
    | with_reducible apply KeepsR.ite
    | with_reducible apply Keeps.ite
    | split
    | beta_reduce)

theorem execChallenge_keeps {P : Part → Bool} {s0 : State} (ep : Endpoint) (nonce : BitVec 256) (s : State) (h : Parts P [.out, .regs, .ten, .hst])
    (hs : Keeps P s0 s) : KeepsR P s0 (execChallenge ep nonce s) := by
  unfold execChallenge
  repeat' (first
    | with_reducible assumption
    | ((with_reducible apply Parts.mono h); decide)
    | with_reducible apply State.answer_keeps
    | with_reducible apply State.spdmReq_keeps
    | with_reducible apply State.signed_keeps
    | with_reducible apply KeepsR.next
    | with_reducible intro _
    | split
    | beta_reduce)

theorem execGetMeasurements_keeps {P : Part → Bool} {s0 : State} (ep : Endpoint) (index : Nat) (nonce : BitVec 256) (s : State) (h : Parts P [.out, .regs, .ten, .hst])
    (hs : Keeps P s0 s) : KeepsR P s0 (execGetMeasurements ep index nonce s) := by
  unfold execGetMeasurements
  repeat' (first
    | with_reducible assumption
    | ((with_reducible apply Parts.mono h); decide)
    | with_reducible apply State.answer_keeps
    | with_reducible apply State.spdmError_keeps
    | with_reducible apply State.spdmReq_keeps
    | with_reducible apply State.signed_keeps
    | with_reducible apply KeepsR.next
    | with_reducible intro _
    | (extract_lets +onlyGivenNames x0; first
        | ((with_reducible refine (have hx0 : Keeps P s0 x0 := ?_; ?_)); (on_goal 2 => clear_value x0); (on_goal 1 => subst x0))
        | ((with_reducible have _x0 : Boot := x0); clear _x0; subst x0)
        | clear_value x0)
    | split
    | with_reducible apply Keeps.upd
    | with_reducible apply Fuses.refl
    | ((with_reducible apply Fuses.mk) <;> first | exact fun l => ⟨l, Nat.le_refl _, Nat.le_refl _⟩ | exact fun o => ⟨o, rfl⟩ | exact Nat.le_refl _ | exact fun o => o)
    | ((with_reducible apply Or.inr); with_reducible rfl)
    | ((with_reducible apply Or.inl); exact h _ (by decide))
    | beta_reduce)

theorem execKeyExchange_keeps {P : Part → Bool} {s0 : State} (ep : Endpoint) (session : Nat) (s : State) (h : Parts P [.out, .regs, .ten, .hst])
    (hs : Keeps P s0 s) : KeepsR P s0 (execKeyExchange ep session s) := by
  unfold execKeyExchange
  repeat' (first
    | with_reducible assumption
    | ((with_reducible apply Parts.mono h); decide)
    | with_reducible apply State.setConn_keeps
    | with_reducible apply State.answer_keeps
    | with_reducible apply State.spdmError_keeps
    | with_reducible apply State.spdmReq_keeps
    | with_reducible apply State.signed_keeps
    | with_reducible apply State.inSession_keeps
    | with_reducible apply KeepsR.next
    | with_reducible intro _
    | (extract_lets +onlyGivenNames x0; first
        | ((with_reducible refine (have hx0 : Keeps P s0 x0 := ?_; ?_)); (on_goal 2 => clear_value x0); (on_goal 1 => subst x0))
        | ((with_reducible have _x0 : Boot := x0); clear _x0; subst x0)
        | clear_value x0)
    | with_reducible apply KeepsR.ite
    | with_reducible apply Keeps.ite
    | split
    | with_reducible apply Keeps.upd
    | with_reducible apply Fuses.refl
    | ((with_reducible apply Fuses.mk) <;> first | exact fun l => ⟨l, Nat.le_refl _, Nat.le_refl _⟩ | exact fun o => ⟨o, rfl⟩ | exact Nat.le_refl _ | exact fun o => o)
    | ((with_reducible apply Or.inr); with_reducible rfl)
    | ((with_reducible apply Or.inl); exact h _ (by decide))
    | beta_reduce)

theorem execFinish_keeps {P : Part → Bool} {s0 : State} (ep : Endpoint) (session : Nat) (s : State) (h : Parts P [.out, .regs, .ten, .hst])
    (hs : Keeps P s0 s) : KeepsR P s0 (execFinish ep session s) := by
  unfold execFinish
  repeat' (first
    | with_reducible assumption
    | ((with_reducible apply Parts.mono h); decide)
    | with_reducible apply State.setConn_keeps
    | with_reducible apply State.answer_keeps
    | with_reducible apply State.spdmError_keeps
    | with_reducible apply State.spdmReq_keeps
    | with_reducible apply State.inSession_keeps
    | with_reducible apply KeepsR.next
    | with_reducible intro _
    | (extract_lets +onlyGivenNames x0; first
        | ((with_reducible refine (have hx0 : Keeps P s0 x0 := ?_; ?_)); (on_goal 2 => clear_value x0); (on_goal 1 => subst x0))
        | clear_value x0)
    | with_reducible apply KeepsR.ite
    | with_reducible apply Keeps.ite
    | split
    | with_reducible apply Keeps.upd
    | with_reducible apply Fuses.refl
    | ((with_reducible apply Or.inr); with_reducible rfl)
    | ((with_reducible apply Or.inl); exact h _ (by decide))
    | beta_reduce)

theorem State.established_keeps {P : Part → Bool} {s0 : State} (s : State) (ep : Endpoint) (session : Nat) (body : State → State) (h : Parts P [.out, .regs, .ten, .hst]) (h_body : ∀ a, Keeps P s0 a → Keeps P s0 (body a))
    (hs : Keeps P s0 s) : Keeps P s0 (State.established s ep session body) := by
  unfold State.established
  repeat' (first
    | with_reducible assumption
    | ((with_reducible apply Parts.mono h); decide)
    | with_reducible apply h_body
    | with_reducible apply State.spdmError_keeps
    | with_reducible apply State.inSession_keeps
    | with_reducible intro _
    | with_reducible apply Keeps.ite
    | split
    | beta_reduce)

theorem execEndSession_keeps {P : Part → Bool} {s0 : State} (ep : Endpoint) (session : Nat) (s : State) (h : Parts P [.out, .regs, .ten, .hst])
    (hs : Keeps P s0 s) : KeepsR P s0 (execEndSession ep session s) := by
  unfold execEndSession
  repeat' (first
    | with_reducible assumption
    | ((with_reducible apply Parts.mono h); decide)
    | with_reducible apply State.setConn_keeps
    | with_reducible apply State.answer_keeps
    | with_reducible apply State.spdmReq_keeps
    | with_reducible apply State.established_keeps
    | with_reducible apply KeepsR.next
    | with_reducible intro _
    | split
    | beta_reduce)

theorem execHeartbeat_keeps {P : Part → Bool} {s0 : State} (ep : Endpoint) (session : Nat) (s : State) (h : Parts P [.out, .regs, .ten, .hst])
    (hs : Keeps P s0 s) : KeepsR P s0 (execHeartbeat ep session s) := by
  unfold execHeartbeat
  repeat' (first
    | with_reducible assumption
    | ((with_reducible apply Parts.mono h); decide)
    | with_reducible apply State.answer_keeps
    | with_reducible apply State.spdmReq_keeps
    | with_reducible apply State.established_keeps
    | with_reducible apply KeepsR.next
    | with_reducible intro _
    | split
    | beta_reduce)

theorem execKeyUpdate_keeps {P : Part → Bool} {s0 : State} (ep : Endpoint) (session : Nat) (s : State) (h : Parts P [.out, .regs, .ten, .hst])
    (hs : Keeps P s0 s) : KeepsR P s0 (execKeyUpdate ep session s) := by
  unfold execKeyUpdate
  repeat' (first
    | with_reducible assumption
    | ((with_reducible apply Parts.mono h); decide)
    | with_reducible apply State.answer_keeps
    | with_reducible apply State.spdmReq_keeps
    | with_reducible apply State.established_keeps
    | with_reducible apply KeepsR.next
    | with_reducible intro _
    | split
    | beta_reduce)

theorem State.ideSecure_keeps {P : Part → Bool} {s0 : State} (s : State) (host : Nat) (stream : Nat) (h : Parts P [.out, .free, .now, .ft, .regs, .hbm, .ten, .tra, .mat, .wins, .grps, .xlt, .rte, .lnk, .hst, .irc, .pwr])
    (hs : Keeps P s0 s) : Keeps P s0 (State.ideSecure s host stream) := by
  unfold State.ideSecure
  repeat' (first
    | with_reducible assumption
    | ((with_reducible apply Parts.mono h); decide)
    | with_reducible apply State.wrF_keeps
    | with_reducible apply State.becameReady_keeps
    | with_reducible apply foldl_keeps
    | with_reducible apply foldl_keepsP
    | with_reducible intro _
    | (extract_lets +onlyGivenNames x0; first
        | ((with_reducible refine (have hx0 : Keeps P s0 x0 := ?_; ?_)); (on_goal 2 => clear_value x0); (on_goal 1 => subst x0))
        | ((with_reducible refine (have hx0 : KeepsP P s0 x0 := ?_; ?_)); (on_goal 2 => clear_value x0); (on_goal 1 => subst x0))
        | clear_value x0)
    | with_reducible apply Keeps.ite
    | split
    | with_reducible apply KeepsP.mk
    | (with_reducible apply KeepsP.of_eq (by with_reducible assumption))
    | with_reducible apply KeepsP.fst
    | with_reducible apply Keeps.upd
    | with_reducible apply Fuses.refl
    | ((with_reducible apply Or.inr); with_reducible rfl)
    | ((with_reducible apply Or.inl); exact h _ (by decide))
    | beta_reduce)

theorem execVendorDefinedRequest_keeps {P : Part → Bool} {s0 : State} (ep : Endpoint) (session : Nat) (stream : Nat) (s : State) (h : Parts P [.out, .free, .now, .ft, .regs, .hbm, .ten, .tra, .mat, .wins, .grps, .xlt, .rte, .lnk, .hst, .irc, .pwr])
    (hs : Keeps P s0 s) : KeepsR P s0 (execVendorDefinedRequest ep session stream s) := by
  unfold execVendorDefinedRequest
  repeat' (first
    | with_reducible assumption
    | ((with_reducible apply Parts.mono h); decide)
    | with_reducible apply State.answer_keeps
    | with_reducible apply State.spdmError_keeps
    | with_reducible apply State.spdmReq_keeps
    | with_reducible apply State.established_keeps
    | with_reducible apply State.ideSecure_keeps
    | with_reducible apply KeepsR.next
    | with_reducible intro _
    | (extract_lets +onlyGivenNames x0; first
        | ((with_reducible refine (have hx0 : Keeps P s0 x0 := ?_; ?_)); (on_goal 2 => clear_value x0); (on_goal 1 => subst x0))
        | clear_value x0)
    | with_reducible apply KeepsR.ite
    | with_reducible apply Keeps.ite
    | split
    | with_reducible apply Keeps.upd
    | with_reducible apply Fuses.refl
    | ((with_reducible apply Or.inr); with_reducible rfl)
    | ((with_reducible apply Or.inl); exact h _ (by decide))
    | beta_reduce)

theorem execChunkSend_keeps {P : Part → Bool} {s0 : State} (ep : Endpoint) (handle : Nat) (seq : Nat) (last : Bool) (s : State) (h : Parts P [.out, .regs, .ten, .hst])
    (hs : Keeps P s0 s) : KeepsR P s0 (execChunkSend ep handle seq last s) := by
  unfold execChunkSend
  repeat' (first
    | with_reducible assumption
    | ((with_reducible apply Parts.mono h); decide)
    | with_reducible apply State.setConn_keeps
    | with_reducible apply State.answer_keeps
    | with_reducible apply State.spdmError_keeps
    | with_reducible apply State.spdmReq_keeps
    | with_reducible apply KeepsR.next
    | with_reducible intro _
    | (extract_lets +onlyGivenNames x0; first
        | ((with_reducible refine (have hx0 : Keeps P s0 x0 := ?_; ?_)); (on_goal 2 => clear_value x0); (on_goal 1 => subst x0))
        | clear_value x0)
    | with_reducible apply KeepsR.ite
    | with_reducible apply Keeps.ite
    | split
    | with_reducible apply Keeps.upd
    | with_reducible apply Fuses.refl
    | ((with_reducible apply Or.inr); with_reducible rfl)
    | ((with_reducible apply Or.inl); exact h _ (by decide))
    | beta_reduce)

theorem execChunkGet_keeps {P : Part → Bool} {s0 : State} (ep : Endpoint) (handle : Nat) (seq : Nat) (s : State) (h : Parts P [.out, .regs, .ten, .hst])
    (hs : Keeps P s0 s) : KeepsR P s0 (execChunkGet ep handle seq s) := by
  unfold execChunkGet
  repeat' (first
    | with_reducible assumption
    | ((with_reducible apply Parts.mono h); decide)
    | with_reducible apply State.answer_keeps
    | with_reducible apply State.spdmReq_keeps
    | with_reducible apply KeepsR.next
    | with_reducible intro _
    | split
    | beta_reduce)

theorem execSpdmUnsupportedRequest_keeps {P : Part → Bool} {s0 : State} (ep : Endpoint) (code : BitVec 8) (s : State) (h : Parts P [.out, .regs, .ten, .hst])
    (hs : Keeps P s0 s) : KeepsR P s0 (execSpdmUnsupportedRequest ep code s) := by
  unfold execSpdmUnsupportedRequest
  repeat' (first
    | with_reducible assumption
    | ((with_reducible apply Parts.mono h); decide)
    | with_reducible apply State.answer_keeps
    | with_reducible apply State.spdmReq_keeps
    | with_reducible apply KeepsR.next
    | with_reducible intro _
    | split
    | beta_reduce)

end Sys2Proof.Machine
end

