-- ==== Sys2Proof/Laws/Traffic.lean ====
section
/-! SUPPORT. What the operations of Machine/Traffic.lean keep. -/

set_option linter.unusedTactic false
set_option linter.unreachableTactic false
set_option linter.unusedVariables false

namespace Sys2Proof.Machine

open Sys2Proof

theorem State.queueJoin_keeps {P : Part → Bool} {s0 : State} (s : State) (p : Nat) (b : BPkt) (h : Parts P [.rte, .lnk])
    (hs : Keeps P s0 s) : Keeps P s0 (State.queueJoin s p b) := by
  unfold State.queueJoin
  repeat' (first
    | with_reducible assumption
    | ((with_reducible apply Parts.mono h); decide)
    | with_reducible apply State.stallSet_keeps
    | with_reducible intro _
    | (extract_lets +onlyGivenNames x0; first
        | ((with_reducible refine (have hx0 : Keeps P s0 x0 := ?_; ?_)); (on_goal 2 => clear_value x0); (on_goal 1 => subst x0))
        | clear_value x0)
    | with_reducible apply Keeps.ite
    | with_reducible apply KeepsO.getD
    | split
    | with_reducible apply Keeps.upd
    | with_reducible apply Fuses.refl
    | ((with_reducible apply Or.inr); with_reducible rfl)
    | ((with_reducible apply Or.inl); exact h _ (by decide)))

theorem execOutputQueueJoin_keeps {P : Part → Bool} {s0 : State} (port : Nat) (s : State) (h : Parts P [.regs, .rte, .lnk])
    (hs : Keeps P s0 s) : KeepsR P s0 (execOutputQueueJoin port s) := by
  unfold execOutputQueueJoin
  repeat' (first
    | with_reducible assumption
    | ((with_reducible apply Parts.mono h); decide)
    | with_reducible apply State.bump_keeps
    | with_reducible apply State.event_keeps
    | with_reducible apply State.queueJoin_keeps
    | with_reducible apply KeepsR.next
    | with_reducible intro _
    | (extract_lets +onlyGivenNames x0; first
        | ((with_reducible refine (have hx0 : Keeps P s0 x0 := ?_; ?_)); (on_goal 2 => clear_value x0); (on_goal 1 => subst x0))
        | clear_value x0)
    | with_reducible apply KeepsR.ite
    | with_reducible apply Keeps.ite
    | split
    | with_reducible apply Keeps.upd
    | with_reducible apply Fuses.refl
    | ((with_reducible apply Or.inr); with_reducible rfl)
    | ((with_reducible apply Or.inl); exact h _ (by decide)))

theorem State.dropAged_keeps {P : Part → Bool} {s0 : State} (s : State) (p : Nat) (v : Nat) (z0 : Nat) (h : Parts P [.regs, .rte, .lnk, .boot, .evr])
    (hs : Keeps P s0 s) : Keeps P s0 (State.dropAged s p v z0) := by
  induction z0 generalizing s with
  | zero =>
    unfold State.dropAged
    repeat' (first
      | with_reducible assumption
      | ((with_reducible apply Parts.mono h); decide)
      | with_reducible apply State.freeGrains_keeps
      | with_reducible apply State.stallSet_keeps
      | with_reducible apply State.routeDiscard_keeps
      | with_reducible intro _
      | (extract_lets +onlyGivenNames x0; first
          | ((with_reducible refine (have hx0 : Keeps P s0 x0 := ?_; ?_)); (on_goal 2 => clear_value x0); (on_goal 1 => subst x0))
          | clear_value x0)
      | with_reducible apply Keeps.ite
      | split
      | with_reducible apply Keeps.upd
      | with_reducible apply Fuses.refl
      | ((with_reducible apply Or.inr); with_reducible rfl)
      | ((with_reducible apply Or.inl); exact h _ (by decide)))
  | succ n ih =>
    unfold State.dropAged
    repeat' (first
      | with_reducible assumption
      | ((with_reducible apply Parts.mono h); decide)
      | with_reducible apply ih
      | with_reducible apply State.freeGrains_keeps
      | with_reducible apply State.stallSet_keeps
      | with_reducible apply State.routeDiscard_keeps
      | with_reducible intro _
      | (extract_lets +onlyGivenNames x0; first
          | ((with_reducible refine (have hx0 : Keeps P s0 x0 := ?_; ?_)); (on_goal 2 => clear_value x0); (on_goal 1 => subst x0))
          | clear_value x0)
      | with_reducible apply Keeps.ite
      | split
      | with_reducible apply Keeps.upd
      | with_reducible apply Fuses.refl
      | ((with_reducible apply Or.inr); with_reducible rfl)
      | ((with_reducible apply Or.inl); exact h _ (by decide)))

theorem State.dropAll_keeps {P : Part → Bool} {s0 : State} (s : State) (p : Nat) (h : Parts P [.regs, .rte, .lnk, .boot, .evr])
    (hs : Keeps P s0 s) : Keeps P s0 (State.dropAll s p) := by
  unfold State.dropAll
  repeat' (first
    | with_reducible assumption
    | ((with_reducible apply Parts.mono h); decide)
    | with_reducible apply State.dropAged_keeps
    | with_reducible apply foldl_keeps
    | with_reducible apply foldl_keepsP
    | with_reducible intro _
    | split
    | with_reducible apply KeepsP.mk
    | (with_reducible apply KeepsP.of_eq (by with_reducible assumption))
    | with_reducible apply KeepsP.fst
    | beta_reduce)

theorem State.tagsAfter_keeps {P : Part → Bool} {s0 : State} (s : State) (p : Nat) (c : Nat) (n : Nat) (h : Parts P [.rte])
    (hs : Keeps P s0 s) : Keeps P s0 (State.tagsAfter s p c n) := by
  unfold State.tagsAfter
  repeat' (first
    | with_reducible assumption
    | ((with_reducible apply Parts.mono h); decide)
    | with_reducible intro _
    | (extract_lets +onlyGivenNames x0; first
        | ((with_reducible refine (have hx0 : Keeps P s0 x0 := ?_; ?_)); (on_goal 2 => clear_value x0); (on_goal 1 => subst x0))
        | clear_value x0)
    | with_reducible apply Keeps.ite
    | with_reducible apply KeepsO.getD
    | split
    | with_reducible apply Keeps.upd
    | with_reducible apply Fuses.refl
    | ((with_reducible apply Or.inr); with_reducible rfl)
    | ((with_reducible apply Or.inl); exact h _ (by decide)))

theorem State.leaveQueue_keeps {P : Part → Bool} {s0 : State} (s : State) (p : Nat) (v : Nat) (b : BPkt) (h : Parts P [.out, .regs, .rte, .lnk])
    (hs : Keeps P s0 s) : Keeps P s0 (State.leaveQueue s p v b) := by
  unfold State.leaveQueue
  repeat' (first
    | with_reducible assumption
    | ((with_reducible apply Parts.mono h); decide)
    | with_reducible apply State.event_keeps
    | with_reducible apply State.freeGrains_keeps
    | with_reducible apply State.updP_keeps
    | with_reducible apply State.stallSet_keeps
    | with_reducible apply State.tagsAfter_keeps
    | with_reducible intro _
    | (extract_lets +onlyGivenNames x0; first
        | ((with_reducible refine (have hx0 : Keeps P s0 x0 := ?_; ?_)); (on_goal 2 => clear_value x0); (on_goal 1 => subst x0))
        | clear_value x0)
    | with_reducible apply Keeps.ite
    | split
    | with_reducible apply Keeps.upd
    | with_reducible apply Fuses.refl
    | ((with_reducible apply Or.inr); with_reducible rfl)
    | ((with_reducible apply Or.inl); exact h _ (by decide))
    | beta_reduce)

theorem execOutputSelect_keeps {P : Part → Bool} {s0 : State} (port : Nat) (s : State) (h : Parts P [.out, .regs, .rte, .lnk, .boot, .evr])
    (hs : Keeps P s0 s) : KeepsR P s0 (execOutputSelect port s) := by
  unfold execOutputSelect
  repeat' (first
    | with_reducible assumption
    | ((with_reducible apply Parts.mono h); decide)
    | with_reducible apply State.dropAll_keeps
    | with_reducible apply State.leaveQueue_keeps
    | with_reducible apply KeepsR.next
    | with_reducible intro _
    | (extract_lets +onlyGivenNames x0; first
        | ((with_reducible refine (have hx0 : Keeps P s0 x0 := ?_; ?_)); (on_goal 2 => clear_value x0); (on_goal 1 => subst x0))
        | clear_value x0)
    | with_reducible apply KeepsR.ite
    | with_reducible apply Keeps.ite
    | split
    | with_reducible apply Keeps.upd
    | with_reducible apply Fuses.refl
    | ((with_reducible apply Or.inr); with_reducible rfl)
    | ((with_reducible apply Or.inl); exact h _ (by decide)))

theorem execInjectionAdmit_keeps {P : Part → Bool} {s0 : State} (cls : Nat) (s : State) (h : Parts P [.rte])
    (hs : Keeps P s0 s) : KeepsR P s0 (execInjectionAdmit cls s) := by
  unfold execInjectionAdmit
  repeat' (first
    | with_reducible assumption
    | ((with_reducible apply Parts.mono h); decide)
    | with_reducible apply State.inject_keeps
    | with_reducible apply KeepsR.next
    | with_reducible intro _
    | (extract_lets +onlyGivenNames x0; first
        | ((with_reducible refine (have hx0 : Keeps P s0 x0 := ?_; ?_)); (on_goal 2 => clear_value x0); (on_goal 1 => subst x0))
        | clear_value x0)
    | with_reducible apply KeepsR.ite
    | with_reducible apply Keeps.ite
    | with_reducible apply KeepsO.getD
    | split
    | with_reducible apply Keeps.upd
    | with_reducible apply Fuses.refl
    | ((with_reducible apply Or.inr); with_reducible rfl)
    | ((with_reducible apply Or.inl); exact h _ (by decide)))

end Sys2Proof.Machine
end

