-- ==== Sys2Proof/Laws/Transmit.lean ====
section
/-! SUPPORT. What the operations of Machine/Transmit.lean keep. -/

set_option linter.unusedTactic false
set_option linter.unreachableTactic false
set_option linter.unusedVariables false

namespace Sys2Proof.Machine

open Sys2Proof

theorem State.tcFirst_keeps {P : Part → Bool} {s0 : State} (s : State) (p : Nat) (h : Parts P [.out, .free, .regs, .rte, .lnk, .boot, .evr])
    (hs : Keeps P s0 s) : Keeps P s0 (State.tcFirst s p) := by
  unfold State.tcFirst
  repeat' (first
    | with_reducible assumption
    | ((with_reducible apply Parts.mono h); decide)
    | with_reducible apply State.dropAged_keeps
    | with_reducible apply State.leaveQueue_keeps
    | with_reducible apply foldl_keeps
    | with_reducible apply foldl_keepsP
    | with_reducible intro _
    | (extract_lets +onlyGivenNames x0; first
        | ((with_reducible refine (have hx0 : Keeps P s0 x0 := ?_; ?_)); (on_goal 2 => clear_value x0); (on_goal 1 => subst x0))
        | ((with_reducible refine (have hx0 : KeepsP P s0 x0 := ?_; ?_)); (on_goal 2 => clear_value x0); (on_goal 1 => subst x0))
        | clear_value x0)
    | with_reducible apply Keeps.ite
    | split
    | with_reducible apply KeepsP.mk
    | (with_reducible apply KeepsP.of_eq (by with_reducible assumption))
    | with_reducible apply KeepsP.fst
    | with_reducible apply Keeps.upd
    | with_reducible apply Fuses.refl
    | ((with_reducible apply Or.inr); with_reducible rfl)
    | ((with_reducible apply Or.inl); exact h _ (by decide))
    | beta_reduce)

theorem State.headOut_keeps {P : Part → Bool} {s0 : State} (s : State) (p : Nat) (k : Packet) (h : Parts P [.regs, .lnk])
    (hs : Keeps P s0 s) : Keeps P s0 (State.headOut s p k) := by
  unfold State.headOut
  repeat' (first
    | with_reducible assumption
    | ((with_reducible apply Parts.mono h); decide)
    | with_reducible apply State.portCount_keeps
    | with_reducible apply State.updX_keeps
    | with_reducible apply State.updP_keeps
    | with_reducible apply State.stallSet_keeps
    | with_reducible intro _
    | (extract_lets +onlyGivenNames x0; first
        | ((with_reducible refine (have hx0 : Keeps P s0 x0 := ?_; ?_)); (on_goal 2 => clear_value x0); (on_goal 1 => subst x0))
        | clear_value x0)
    | with_reducible apply Keeps.ite
    | with_reducible apply KeepsO.getD
    | split
    | with_reducible apply Keeps.upd
    | with_reducible apply Fuses.refl
    | ((with_reducible apply Or.inr); with_reducible rfl)
    | ((with_reducible apply Or.inl); exact h _ (by decide))
    | beta_reduce)

theorem State.ctrlOut_keeps {P : Part → Bool} {s0 : State} (s : State) (p : Nat) (f : Words8) (h : Parts P [.lnk])
    (hs : Keeps P s0 s) : Keeps P s0 (State.ctrlOut s p f).2 := by
  have u := fun f => State.updX_keeps (P := P) (s0 := s0) s p f (h.mono (by decide)) hs
  have v := fun f => State.updP_keeps (P := P) (s0 := s0) s p f (h.mono (by decide)) hs
  unfold State.ctrlOut
  extract_lets q
  split
  · (dsimp only; apply v)
  · exact hs
  · split
    · (dsimp only; apply u)
    · exact hs
  · (dsimp only; apply u)
  · exact hs
  · exact hs


theorem State.placeFlit_keeps {P : Part → Bool} {s0 : State} (s : State) (p : Nat) (h : Parts P [.out, .free, .regs, .rte, .lnk, .boot, .evr])
    (hs : Keeps P s0 s) : Keeps P s0 (State.placeFlit s p).2 := by
  unfold State.placeFlit
  split
  · exact hs
  · extract_lets s1 r s2
    have h1 : Keeps P s0 s1 := State.tcFirst_keeps _ _ (h.mono (by decide)) hs
    have h2 : Keeps P s0 s2 := State.updP_keeps _ _ _ (h.mono (by decide)) h1
    split
    · exact State.ctrlOut_keeps _ _ _ (h.mono (by decide)) h2
    · split
      · exact State.headOut_keeps _ _ _ (h.mono (by decide)) h2
      · exact h2


theorem State.placeFlits_keeps {P : Part → Bool} {s0 : State} (s : State) (p : Nat) (z0 : Nat) (h : Parts P [.out, .free, .regs, .rte, .lnk, .boot, .evr])
    (hs : Keeps P s0 s) : Keeps P s0 (State.placeFlits s p z0).2 := by
  induction z0 generalizing s with
  | zero => unfold State.placeFlits; exact hs
  | succ n ih =>
    unfold State.placeFlits
    exact ih _ (State.placeFlit_keeps _ _ (h.mono (by decide)) hs)


theorem State.rowsOut_keeps {P : Part → Bool} {s0 : State} (s : State) (p : Nat) (rows : List (List Sym)) (h : Parts P [.out, .lnk])
    (hs : Keeps P s0 s) : Keeps P s0 (State.rowsOut s p rows) := by
  unfold State.rowsOut
  repeat' (first
    | with_reducible assumption
    | ((with_reducible apply Parts.mono h); decide)
    | with_reducible apply State.emit_keeps
    | with_reducible apply State.updX_keeps
    | with_reducible intro _
    | (extract_lets +onlyGivenNames x0; first
        | ((with_reducible refine (have hx0 : Keeps P s0 x0 := ?_; ?_)); (on_goal 2 => clear_value x0); (on_goal 1 => subst x0))
        | clear_value x0)
    | split
    | with_reducible apply Keeps.upd
    | with_reducible apply Fuses.refl
    | ((with_reducible apply Or.inr); with_reducible rfl)
    | ((with_reducible apply Or.inl); exact h _ (by decide))
    | beta_reduce)

theorem State.blockOut_keeps {P : Part → Bool} {s0 : State} (s : State) (p : Nat) (n : Nat) (b : Block) (h : Parts P [.out, .lnk])
    (hs : Keeps P s0 s) : Keeps P s0 (State.blockOut s p n b) := by
  unfold State.blockOut
  repeat' (first
    | with_reducible assumption
    | ((with_reducible apply Parts.mono h); decide)
    | with_reducible apply State.emit_keeps
    | with_reducible apply State.markersOut_keeps
    | with_reducible apply State.rowsOut_keeps
    | with_reducible intro _
    | (extract_lets +onlyGivenNames x0; first
        | ((with_reducible refine (have hx0 : Keeps P s0 x0 := ?_; ?_)); (on_goal 2 => clear_value x0); (on_goal 1 => subst x0))
        | clear_value x0)
    | with_reducible apply Keeps.ite
    | split)

theorem State.sendBlock_keeps {P : Part → Bool} {s0 : State} (s : State) (p : Nat) (bsn : BitVec 12) (fs : List Flit) (h : Parts P [.out, .lnk])
    (hs : Keeps P s0 s) : Keeps P s0 (State.sendBlock s p bsn fs) := by
  unfold State.sendBlock
  repeat' (first
    | with_reducible assumption
    | ((with_reducible apply Parts.mono h); decide)
    | with_reducible apply State.updX_keeps
    | with_reducible apply State.updP_keeps
    | with_reducible apply State.blockOut_keeps
    | with_reducible intro _
    | (extract_lets +onlyGivenNames x0; first
        | ((with_reducible refine (have hx0 : Keeps P s0 x0 := ?_; ?_)); (on_goal 2 => clear_value x0); (on_goal 1 => subst x0))
        | clear_value x0)
    | with_reducible apply Keeps.ite
    | split
    | with_reducible apply Keeps.upd
    | with_reducible apply Fuses.refl
    | ((with_reducible apply Or.inr); with_reducible rfl)
    | ((with_reducible apply Or.inl); exact h _ (by decide))
    | beta_reduce)

theorem State.sendIdle_keeps {P : Part → Bool} {s0 : State} (s : State) (p : Nat) (h : Parts P [.out, .lnk])
    (hs : Keeps P s0 s) : Keeps P s0 (State.sendIdle s p) := by
  unfold State.sendIdle
  repeat' (first
    | with_reducible assumption
    | ((with_reducible apply Parts.mono h); decide)
    | with_reducible apply State.sendBlock_keeps
    | with_reducible intro _
    | split)

theorem State.pauseQueue_keeps {P : Part → Bool} {s0 : State} (s : State) (p : Nat) (h : Parts P [.lnk])
    (hs : Keeps P s0 s) : Keeps P s0 (State.pauseQueue s p) := by
  unfold State.pauseQueue
  repeat' (first
    | with_reducible assumption
    | ((with_reducible apply Parts.mono h); decide)
    | with_reducible apply State.updX_keeps
    | with_reducible apply State.ctrl_keeps
    | with_reducible intro _
    | (extract_lets +onlyGivenNames x0; first
        | ((with_reducible refine (have hx0 : Keeps P s0 x0 := ?_; ?_)); (on_goal 2 => clear_value x0); (on_goal 1 => subst x0))
        | clear_value x0)
    | with_reducible apply Keeps.ite
    | split
    | with_reducible apply Keeps.upd
    | with_reducible apply Fuses.refl
    | ((with_reducible apply Or.inr); with_reducible rfl)
    | ((with_reducible apply Or.inl); exact h _ (by decide))
    | beta_reduce)

theorem State.crdSend_keeps {P : Part → Bool} {s0 : State} (s : State) (p : Nat) (h : Parts P [.out, .lnk])
    (hs : Keeps P s0 s) : Keeps P s0 (State.crdSend s p) := by
  unfold State.crdSend
  repeat' (first
    | with_reducible assumption
    | ((with_reducible apply Parts.mono h); decide)
    | with_reducible apply State.updP_keeps
    | with_reducible apply State.rowsOut_keeps
    | with_reducible apply foldl_keeps
    | with_reducible apply foldl_keepsP
    | with_reducible intro _
    | (extract_lets +onlyGivenNames x0; first
        | ((with_reducible refine (have hx0 : Keeps P s0 x0 := ?_; ?_)); (on_goal 2 => clear_value x0); (on_goal 1 => subst x0))
        | ((with_reducible refine (have hx0 : KeepsP P s0 x0 := ?_; ?_)); (on_goal 2 => clear_value x0); (on_goal 1 => subst x0))
        | clear_value x0)
    | with_reducible apply Keeps.ite
    | with_reducible apply KeepsO.getD
    | split
    | with_reducible apply KeepsP.mk
    | (with_reducible apply KeepsP.of_eq (by with_reducible assumption))
    | with_reducible apply KeepsP.fst
    | with_reducible apply Keeps.upd
    | with_reducible apply Fuses.refl
    | ((with_reducible apply Or.inr); with_reducible rfl)
    | ((with_reducible apply Or.inl); exact h _ (by decide))
    | beta_reduce)

theorem State.afterBlock_keeps {P : Part → Bool} {s0 : State} (s : State) (p : Nat) (h : Parts P [.out, .lnk])
    (hs : Keeps P s0 s) : Keeps P s0 (State.afterBlock s p) := by
  unfold State.afterBlock
  repeat' (first
    | with_reducible assumption
    | ((with_reducible apply Parts.mono h); decide)
    | with_reducible apply State.updX_keeps
    | with_reducible apply State.tryHand_keeps
    | with_reducible apply State.crdSend_keeps
    | with_reducible intro _
    | (extract_lets +onlyGivenNames x0; first
        | ((with_reducible refine (have hx0 : Keeps P s0 x0 := ?_; ?_)); (on_goal 2 => clear_value x0); (on_goal 1 => subst x0))
        | clear_value x0)
    | split
    | with_reducible apply Keeps.upd
    | with_reducible apply Fuses.refl
    | ((with_reducible apply Or.inr); with_reducible rfl)
    | ((with_reducible apply Or.inl); exact h _ (by decide))
    | beta_reduce)

theorem State.newBlock_keeps {P : Part → Bool} {s0 : State} (s : State) (p : Nat) (h : Parts P [.out, .free, .regs, .rte, .lnk, .boot, .evr])
    (hs : Keeps P s0 s) : Keeps P s0 (State.newBlock s p) := by
  unfold State.newBlock
  refine Keeps.ite (State.sendIdle_keeps _ _ (h.mono (by decide)) hs) ?_
  extract_lets r s1 q due
  have h1 : Keeps P s0 s1 := State.placeFlits_keeps _ _ _ (h.mono (by decide)) hs
  exact Keeps.ite (State.sendIdle_keeps _ _ (h.mono (by decide)) h1) (State.sendBlock_keeps _ _ _ _ (h.mono (by decide))
    (State.updP_keeps _ _ _ (h.mono (by decide)) h1))


theorem State.replayBlock_keeps {P : Part → Bool} {s0 : State} (s : State) (p : Nat) (b : BitVec 12) (h : Parts P [.out, .lnk])
    (hs : Keeps P s0 s) : Keeps P s0 (State.replayBlock s p b) := by
  unfold State.replayBlock
  repeat' (first
    | with_reducible assumption
    | ((with_reducible apply Parts.mono h); decide)
    | with_reducible apply State.updP_keeps
    | with_reducible apply State.sendBlock_keeps
    | with_reducible apply State.sendIdle_keeps
    | with_reducible intro _
    | (extract_lets +onlyGivenNames x0; first
        | ((with_reducible refine (have hx0 : Keeps P s0 x0 := ?_; ?_)); (on_goal 2 => clear_value x0); (on_goal 1 => subst x0))
        | clear_value x0)
    | with_reducible apply Keeps.ite
    | split
    | with_reducible apply Keeps.upd
    | with_reducible apply Fuses.refl
    | ((with_reducible apply Or.inr); with_reducible rfl)
    | ((with_reducible apply Or.inl); exact h _ (by decide))
    | beta_reduce)

theorem execBlockTransmit_keeps {P : Part → Bool} {s0 : State} (port : Nat) (s : State) (h : Parts P [.out, .free, .regs, .rte, .lnk, .boot, .evr])
    (hs : Keeps P s0 s) : KeepsR P s0 (execBlockTransmit port s) := by
  unfold execBlockTransmit
  repeat' (first
    | with_reducible assumption
    | ((with_reducible apply Parts.mono h); decide)
    | with_reducible apply State.updP_keeps
    | with_reducible apply State.sendIdle_keeps
    | with_reducible apply State.pauseQueue_keeps
    | with_reducible apply State.afterBlock_keeps
    | with_reducible apply State.newBlock_keeps
    | with_reducible apply State.replayBlock_keeps
    | with_reducible apply KeepsR.next
    | with_reducible intro _
    | (extract_lets +onlyGivenNames x0; first
        | ((with_reducible refine (have hx0 : Keeps P s0 x0 := ?_; ?_)); (on_goal 2 => clear_value x0); (on_goal 1 => subst x0))
        | clear_value x0)
    | with_reducible apply KeepsR.ite
    | with_reducible apply Keeps.ite
    | split
    | with_reducible apply Keeps.upd
    | with_reducible apply Fuses.refl
    | ((with_reducible apply Or.inr); with_reducible rfl)
    | ((with_reducible apply Or.inl); exact h _ (by decide)))

theorem execSpanEiEntry_keeps {P : Part → Bool} {s0 : State} (span : Nat) (s : State) (h : Parts P [.out, .regs, .lnk])
    (hs : Keeps P s0 s) : KeepsR P s0 (execSpanEiEntry span s) := by
  unfold execSpanEiEntry
  repeat' (first
    | with_reducible assumption
    | ((with_reducible apply Parts.mono h); decide)
    | with_reducible apply State.wrF_keeps
    | with_reducible apply State.emit_keeps
    | with_reducible apply State.rowsOut_keeps
    | with_reducible apply KeepsR.next
    | with_reducible intro _
    | (extract_lets +onlyGivenNames x0; first
        | ((with_reducible refine (have hx0 : Keeps P s0 x0 := ?_; ?_)); (on_goal 2 => clear_value x0); (on_goal 1 => subst x0))
        | clear_value x0)
    | with_reducible apply KeepsR.ite
    | with_reducible apply Keeps.ite
    | split)

theorem execSpanEiExit_keeps {P : Part → Bool} {s0 : State} (span : Nat) (s : State) (h : Parts P [.out, .now, .ft, .regs, .lnk, .pwr])
    (hs : Keeps P s0 s) : KeepsR P s0 (execSpanEiExit span s) := by
  unfold execSpanEiExit
  repeat' (first
    | with_reducible assumption
    | ((with_reducible apply Parts.mono h); decide)
    | with_reducible apply State.wrF_keeps
    | with_reducible apply State.emit_keeps
    | with_reducible apply State.updX_keeps
    | with_reducible apply State.pass_keeps
    | with_reducible apply State.rowsOut_keeps
    | with_reducible apply KeepsR.next
    | with_reducible intro _
    | (extract_lets +onlyGivenNames x0; first
        | ((with_reducible refine (have hx0 : Keeps P s0 x0 := ?_; ?_)); (on_goal 2 => clear_value x0); (on_goal 1 => subst x0))
        | clear_value x0)
    | with_reducible apply KeepsR.ite
    | with_reducible apply Keeps.ite
    | split
    | with_reducible apply Keeps.upd
    | with_reducible apply Fuses.refl
    | ((with_reducible apply Or.inr); with_reducible rfl)
    | ((with_reducible apply Or.inl); exact h _ (by decide))
    | beta_reduce)

end Sys2Proof.Machine
end

