-- ==== Sys2Proof/Laws/Dispatch.lean ====
section
/-! SUPPORT. What the operations of Machine/Dispatch.lean keep. -/

set_option linter.unusedTactic false
set_option linter.unreachableTactic false
set_option linter.unusedVariables false

namespace Sys2Proof.Machine

open Sys2Proof

theorem exec_keeps {P : Part → Bool} {s0 : State} (i : Instr) (s : State) (h : Parts P [.out, .free, .now, .ft, .regs, .hbm, .ten, .tra, .mat, .wins, .grps, .xlt, .rte, .tcs, .lnk, .hst, .irc, .sem, .boot, .pwr, .flt, .evr, .cnt])
    (hs : Keeps P s0 s) : KeepsR P s0 (exec i s) := by
  cases i with
  | registerWrite rid off size val => exact execRegisterWrite_keeps rid off size val s (h.mono (by decide)) hs
  | doorbellSqProducer fn off size w => exact execDoorbellSqProducer_keeps fn off size w s (h.mono (by decide)) hs
  | doorbellRqProducer fn off size w entries => exact execDoorbellRqProducer_keeps fn off size w entries s (h.mono (by decide)) hs
  | doorbellCqConsumer fn off size w => exact execDoorbellCqConsumer_keeps fn off size w s (h.mono (by decide)) hs
  | doorbellCqArm fn off size w => exact execDoorbellCqArm_keeps fn off size w s (h.mono (by decide)) hs
  | doorbellCqArmSolicited fn off size w => exact execDoorbellCqArmSolicited_keeps fn off size w s (h.mono (by decide)) hs
  | doorbellEqConsumer fn off size w => exact execDoorbellEqConsumer_keeps fn off size w s (h.mono (by decide)) hs
  | doorbellEqArm fn off size w => exact execDoorbellEqArm_keeps fn off size w s (h.mono (by decide)) hs
  | ringApertureWrite fn off data => exact execRingApertureWrite_keeps fn off data s (h.mono (by decide)) hs
  | jobStart qp fetched => exact execJobStart_keeps qp fetched s (h.mono (by decide)) hs
  | completionWrite cq => exact execCompletionWrite_keeps cq s (h.mono (by decide)) hs
  | cqStallTimeout cq => exact execCqStallTimeout_keeps cq s (h.mono (by decide)) hs
  | qpDrainEnd qp => exact execQpDrainEnd_keeps qp s (h.mono (by decide)) hs
  | qpDrainTimeout qp => exact execQpDrainTimeout_keeps qp s (h.mono (by decide)) hs
  | cqDrainEnd cq => exact execCqDrainEnd_keeps cq s (h.mono (by decide)) hs
  | cqDrainTimeout cq => exact execCqDrainTimeout_keeps cq s (h.mono (by decide)) hs
  | qpQuarantineEnd qp => exact execQpQuarantineEnd_keeps qp s (h.mono (by decide)) hs
  | adminSqEnable rid fn val => exact execAdminSqEnable_keeps rid fn val s (h.mono (by decide)) hs
  | adminCqEnable rid fn val => exact execAdminCqEnable_keeps rid fn val s (h.mono (by decide)) hs
  | adminCompletionWrite fn => exact execAdminCompletionWrite_keeps fn s (h.mono (by decide)) hs
  | createQp c => exact execCreateQp_keeps c s (h.mono (by decide)) hs
  | modifyQp c => exact execModifyQp_keeps c s (h.mono (by decide)) hs
  | queryQp c => exact execQueryQp_keeps c s (h.mono (by decide)) hs
  | destroyQp c => exact execDestroyQp_keeps c s (h.mono (by decide)) hs
  | createCq c => exact execCreateCq_keeps c s (h.mono (by decide)) hs
  | modifyCq c => exact execModifyCq_keeps c s (h.mono (by decide)) hs
  | queryCq c => exact execQueryCq_keeps c s (h.mono (by decide)) hs
  | destroyCq c => exact execDestroyCq_keeps c s (h.mono (by decide)) hs
  | createEq c => exact execCreateEq_keeps c s (h.mono (by decide)) hs
  | destroyEq c => exact execDestroyEq_keeps c s (h.mono (by decide)) hs
  | allocHbm c => exact execAllocHbm_keeps c s (h.mono (by decide)) hs
  | freeHbm c => exact execFreeHbm_keeps c s (h.mono (by decide)) hs
  | transportPacketSend what => exact execTransportPacketSend_keeps what s (h.mono (by decide)) hs
  | transportPacketReceive p => exact execTransportPacketReceive_keeps p s (h.mono (by decide)) hs
  | ackDelayExpiry sp => exact execAckDelayExpiry_keeps sp s (h.mono (by decide)) hs
  | ackReceive p => exact execAckReceive_keeps p s (h.mono (by decide)) hs
  | nakReceive p => exact execNakReceive_keeps p s (h.mono (by decide)) hs
  | busyBackoffExpiry sp psn => exact execBusyBackoffExpiry_keeps sp psn s (h.mono (by decide)) hs
  | retransmitTimeout sp => exact execRetransmitTimeout_keeps sp s (h.mono (by decide)) hs
  | busyLimitExpiry sp psn => exact execBusyLimitExpiry_keeps sp psn s (h.mono (by decide)) hs
  | flowEntryRelease qp dstNode dstQp => exact execFlowEntryRelease_keeps qp dstNode dstQp s (h.mono (by decide)) hs
  | syncReceive p => exact execSyncReceive_keeps p s (h.mono (by decide)) hs
  | syncAckReceive p => exact execSyncAckReceive_keeps p s (h.mono (by decide)) hs
  | placementAbandon m => exact execPlacementAbandon_keeps m s (h.mono (by decide)) hs
  | createMctx c => exact execCreateMctx_keeps c s (h.mono (by decide)) hs
  | destroyMctx c => exact execDestroyMctx_keeps c s (h.mono (by decide)) hs
  | queryMctx c => exact execQueryMctx_keeps c s (h.mono (by decide)) hs
  | postRecv c list => exact execPostRecv_keeps c list s (h.mono (by decide)) hs
  | cancelRecv c => exact execCancelRecv_keeps c s (h.mono (by decide)) hs
  | probe c => exact execProbe_keeps c s (h.mono (by decide)) hs
  | gateHoldExpiry srcNode srcQp dstQp msn => exact execGateHoldExpiry_keeps srcNode srcQp dstQp msn s (h.mono (by decide)) hs
  | gateEntryRelease srcNode srcQp dstQp => exact execGateEntryRelease_keeps srcNode srcQp dstQp s (h.mono (by decide)) hs
  | rendezvousGetIssue recv => exact execRendezvousGetIssue_keeps recv s (h.mono (by decide)) hs
  | spillRestore slice => exact execSpillRestore_keeps slice s (h.mono (by decide)) hs
  | openWindow c => exact execOpenWindow_keeps c s (h.mono (by decide)) hs
  | revokeWindow c => exact execRevokeWindow_keeps c s (h.mono (by decide)) hs
  | revokeComplete window => exact execRevokeComplete_keeps window s (h.mono (by decide)) hs
  | queryWindow c => exact execQueryWindow_keeps c s (h.mono (by decide)) hs
  | windowQuarantineEnd window => exact execWindowQuarantineEnd_keeps window s (h.mono (by decide)) hs
  | hostAtomicopComplete tag status old => exact execHostAtomicopComplete_keeps tag status old s (h.mono (by decide)) hs
  | hostReadComplete tag status data => exact execHostReadComplete_keeps tag status data s (h.mono (by decide)) hs
  | hostCompletionTimeout tag => exact execHostCompletionTimeout_keeps tag s (h.mono (by decide)) hs
  | createGroup c tree => exact execCreateGroup_keeps c tree s (h.mono (by decide)) hs
  | destroyGroup c => exact execDestroyGroup_keeps c s (h.mono (by decide)) hs
  | groupDestroyComplete group => exact execGroupDestroyComplete_keeps group s (h.mono (by decide)) hs
  | queryGroup c => exact execQueryGroup_keeps c s (h.mono (by decide)) hs
  | groupQuarantineEnd group => exact execGroupQuarantineEnd_keeps group s (h.mono (by decide)) hs
  | joinIntervalExpiry group => exact execJoinIntervalExpiry_keeps group s (h.mono (by decide)) hs
  | collUpReceive ingress p => exact execCollUpReceive_keeps ingress p s (h.mono (by decide)) hs
  | collDownReceive ingress p => exact execCollDownReceive_keeps ingress p s (h.mono (by decide)) hs
  | collCredit ingress p => exact execCollCredit_keeps ingress p s (h.mono (by decide)) hs
  | collAbort ingress p => exact execCollAbort_keeps ingress p s (h.mono (by decide)) hs
  | collChunkSend group up child => exact execCollChunkSend_keeps group up child s (h.mono (by decide)) hs
  | collKeepalive group => exact execCollKeepalive_keeps group s (h.mono (by decide)) hs
  | edgeTimeout group node => exact execEdgeTimeout_keeps group node s (h.mono (by decide)) hs
  | opTimeout group => exact execOpTimeout_keeps group s (h.mono (by decide)) hs
  | createAsid c => exact execCreateAsid_keeps c s (h.mono (by decide)) hs
  | modifyAsid c => exact execModifyAsid_keeps c s (h.mono (by decide)) hs
  | destroyAsid c => exact execDestroyAsid_keeps c s (h.mono (by decide)) hs
  | invalidate c => exact execInvalidate_keeps c s (h.mono (by decide)) hs
  | invalidateComplete asid => exact execInvalidateComplete_keeps asid s (h.mono (by decide)) hs
  | resume c => exact execResume_keeps c s (h.mono (by decide)) hs
  | walkStart => exact execWalkStart_keeps s (h.mono (by decide)) hs
  | walkReadComplete walk status entry => exact execWalkReadComplete_keeps walk status entry s (h.mono (by decide)) hs
  | trapStart qp => exact execTrapStart_keeps qp s (h.mono (by decide)) hs
  | markTimeout qp => exact execMarkTimeout_keeps qp s (h.mono (by decide)) hs
  | packetInput ingress p => exact execPacketInput_keeps ingress p s (h.mono (by decide)) hs
  | epochFlip rid val => exact execEpochFlip_keeps rid val s (h.mono (by decide)) hs
  | epochFlipComplete => exact execEpochFlipComplete_keeps s (h.mono (by decide)) hs
  | routeCopy rid val => exact execRouteCopy_keeps rid val s (h.mono (by decide)) hs
  | routeCopyComplete => exact execRouteCopyComplete_keeps s (h.mono (by decide)) hs
  | routeShadowWrite rid off val => exact execRouteShadowWrite_keeps rid off val s (h.mono (by decide)) hs
  | portRoleWrite rid port val => exact execPortRoleWrite_keeps rid port val s (h.mono (by decide)) hs
  | staleLimitWrite rid val => exact execStaleLimitWrite_keeps rid val s (h.mono (by decide)) hs
  | setPkeys c => exact execSetPkeys_keeps c s (h.mono (by decide)) hs
  | outputQueueJoin port => exact execOutputQueueJoin_keeps port s (h.mono (by decide)) hs
  | outputSelect port => exact execOutputSelect_keeps port s (h.mono (by decide)) hs
  | injectionAdmit cls => exact execInjectionAdmit_keeps cls s (h.mono (by decide)) hs
  | tcsStageWrite rid off val => exact execTcsStageWrite_keeps rid off val s (h.mono (by decide)) hs
  | tcsCommit rid val => exact execTcsCommit_keeps rid val s (h.mono (by decide)) hs
  | commitInForce => exact execCommitInForce_keeps s (h.mono (by decide)) hs
  | blockTransmit port => exact execBlockTransmit_keeps port s (h.mono (by decide)) hs
  | blockReceive port rx lanes => exact execBlockReceive_keeps port rx lanes s (h.mono (by decide)) hs
  | replayTimeout port => exact execReplayTimeout_keeps port s (h.mono (by decide)) hs
  | creditFlit port half totals => exact execCreditFlit_keeps port half totals s (h.mono (by decide)) hs
  | init port peerPort peerNode usable ident => exact execInit_keeps port peerPort peerNode usable ident s (h.mono (by decide)) hs
  | probeFlit port probeId time => exact execProbeFlit_keeps port probeId time s (h.mono (by decide)) hs
  | probeEcho port probeId time => exact execProbeEcho_keeps port probeId time s (h.mono (by decide)) hs
  | changeReq port reqId op lanes peerPort ident speed => exact execChangeReq_keeps port reqId op lanes peerPort ident speed s (h.mono (by decide)) hs
  | changeAck port reqId lanes ident => exact execChangeAck_keeps port reqId lanes ident s (h.mono (by decide)) hs
  | pause port reqId => exact execPause_keeps port reqId s (h.mono (by decide)) hs
  | time port locked tTx echoTx echoRx rx => exact execTime_keeps port locked tTx echoTx echoRx rx s (h.mono (by decide)) hs
  | pauseWaitExpiry port => exact execPauseWaitExpiry_keeps port s (h.mono (by decide)) hs
  | laneTrainingComplete port lanes ends us deskew => exact execLaneTrainingComplete_keeps port lanes ends us deskew s (h.mono (by decide)) hs
  | changeLimitExpiry port => exact execChangeLimitExpiry_keeps port s (h.mono (by decide)) hs
  | creditTimeout port vl => exact execCreditTimeout_keeps port vl s (h.mono (by decide)) hs
  | graceExpiry port => exact execGraceExpiry_keeps port s (h.mono (by decide)) hs
  | trainingRetry port => exact execTrainingRetry_keeps port s (h.mono (by decide)) hs
  | failWindowExpiry port lane => exact execFailWindowExpiry_keeps port lane s (h.mono (by decide)) hs
  | lnkRetrain rid port => exact execLnkRetrain_keeps rid port s (h.mono (by decide)) hs
  | lnkWidthChange rid port lanes => exact execLnkWidthChange_keeps rid port lanes s (h.mono (by decide)) hs
  | lnkReleaseHold rid port => exact execLnkReleaseHold_keeps rid port s (h.mono (by decide)) hs
  | portEnable rid port val => exact execPortEnable_keeps rid port val s (h.mono (by decide)) hs
  | portDisable rid port val => exact execPortDisable_keeps rid port val s (h.mono (by decide)) hs
  | syncIntervalTick => exact execSyncIntervalTick_keeps s (h.mono (by decide)) hs
  | laneLost port lanes clockLane => exact execLaneLost_keeps port lanes clockLane s (h.mono (by decide)) hs
  | eiNextReceive port => exact execEiNextReceive_keeps port s (h.mono (by decide)) hs
  | exitSignalDetect port lanes => exact execExitSignalDetect_keeps port lanes s (h.mono (by decide)) hs
  | crdSequence port crd vl total crc8 => exact execCrdSequence_keeps port crd vl total crc8 s (h.mono (by decide)) hs
  | spanEiEntry span => exact execSpanEiEntry_keeps span s (h.mono (by decide)) hs
  | spanEiExit span => exact execSpanEiExit_keeps span s (h.mono (by decide)) hs
  | spanSpeedWrite rid span val => exact execSpanSpeedWrite_keeps rid span val s (h.mono (by decide)) hs
  | spanReqRead span p => exact execSpanReqRead_keeps span p s (h.mono (by decide)) hs
  | spanReqWrite span p => exact execSpanReqWrite_keeps span p s (h.mono (by decide)) hs
  | spanReqAtomic span p => exact execSpanReqAtomic_keeps span p s (h.mono (by decide)) hs
  | notice span p => exact execNotice_keeps span p s (h.mono (by decide)) hs
  | spanResp span p => exact execSpanResp_keeps span p s (h.mono (by decide)) hs
  | spanReqTimeout span tag => exact execSpanReqTimeout_keeps span tag s (h.mono (by decide)) hs
  | noticeResend span => exact execNoticeResend_keeps span s (h.mono (by decide)) hs
  | cellClaim rid off size cmd => exact execCellClaim_keeps rid off size cmd s (h.mono (by decide)) hs
  | cellRelease rid off size cmd => exact execCellRelease_keeps rid off size cmd s (h.mono (by decide)) hs
  | cellForce rid off size cmd => exact execCellForce_keeps rid off size cmd s (h.mono (by decide)) hs
  | cellAtomicop rid off form => exact execCellAtomicop_keeps rid off form s (h.mono (by decide)) hs
  | cellRead rid off size => exact execCellRead_keeps rid off size s (h.mono (by decide)) hs
  | functionLevelReset fn => exact execFunctionLevelReset_keeps fn s (h.mono (by decide)) hs
  | d3hotToD0 fn => exact execD3hotToD0_keeps fn s (h.mono (by decide)) hs
  | vfEnableClear host => exact execVfEnableClear_keeps host s (h.mono (by decide)) hs
  | perstAssert host => exact execPerstAssert_keeps host s (h.mono (by decide)) hs
  | perstDeassert host => exact execPerstDeassert_keeps host s (h.mono (by decide)) hs
  | hotReset host => exact execHotReset_keeps host s (h.mono (by decide)) hs
  | hostLinkDown host => exact execHostLinkDown_keeps host s (h.mono (by decide)) hs
  | hostLinkChange host up speed width flit l0p l1 => exact execHostLinkChange_keeps host up speed width flit l0p l1 s (h.mono (by decide)) hs
  | resetDrainEnd fn => exact execResetDrainEnd_keeps fn s (h.mono (by decide)) hs
  | resetDrainTimeout fn => exact execResetDrainTimeout_keeps fn s (h.mono (by decide)) hs
  | busMasterEnableWrite fn bme => exact execBusMasterEnableWrite_keeps fn bme s (h.mono (by decide)) hs
  | msixUnmask fn vec => exact execMsixUnmask_keeps fn vec s (h.mono (by decide)) hs
  | ideIntegrityFail host stream => exact execIdeIntegrityFail_keeps host stream s (h.mono (by decide)) hs
  | doeRequest host type length => exact execDoeRequest_keeps host type length s (h.mono (by decide)) hs
  | doeAbort host => exact execDoeAbort_keeps host s (h.mono (by decide)) hs
  | ircSourceRise source => exact execIrcSourceRise_keeps source s (h.mono (by decide)) hs
  | ircWindowEnd target => exact execIrcWindowEnd_keeps target s (h.mono (by decide)) hs
  | ircClaim rid target => exact execIrcClaim_keeps rid target s (h.mono (by decide)) hs
  | ircEoi rid target val => exact execIrcEoi_keeps rid target val s (h.mono (by decide)) hs
  | ircConfigWrite rid off val => exact execIrcConfigWrite_keeps rid off val s (h.mono (by decide)) hs
  | pwrGoodRise bootSrc spanPos => exact execPwrGoodRise_keeps bootSrc spanPos s (h.mono (by decide)) hs
  | flashReadComplete region data offset => exact execFlashReadComplete_keeps region data offset s (h.mono (by decide)) hs
  | flashReadTimeout region offset => exact execFlashReadTimeout_keeps region offset s (h.mono (by decide)) hs
  | bootDone => exact execBootDone_keeps s (h.mono (by decide)) hs
  | mctpControl m => exact execMctpControl_keeps m s (h.mono (by decide)) hs
  | getVersion ep => exact execGetVersion_keeps ep s (h.mono (by decide)) hs
  | getCapabilities ep => exact execGetCapabilities_keeps ep s (h.mono (by decide)) hs
  | negotiateAlgorithms ep => exact execNegotiateAlgorithms_keeps ep s (h.mono (by decide)) hs
  | getDigests ep => exact execGetDigests_keeps ep s (h.mono (by decide)) hs
  | getCertificate ep slot offset length => exact execGetCertificate_keeps ep slot offset length s (h.mono (by decide)) hs
  | challenge ep nonce => exact execChallenge_keeps ep nonce s (h.mono (by decide)) hs
  | getMeasurements ep index nonce => exact execGetMeasurements_keeps ep index nonce s (h.mono (by decide)) hs
  | keyExchange ep session => exact execKeyExchange_keeps ep session s (h.mono (by decide)) hs
  | finish ep session => exact execFinish_keeps ep session s (h.mono (by decide)) hs
  | endSession ep session => exact execEndSession_keeps ep session s (h.mono (by decide)) hs
  | heartbeat ep session => exact execHeartbeat_keeps ep session s (h.mono (by decide)) hs
  | keyUpdate ep session => exact execKeyUpdate_keeps ep session s (h.mono (by decide)) hs
  | vendorDefinedRequest ep session stream => exact execVendorDefinedRequest_keeps ep session stream s (h.mono (by decide)) hs
  | chunkSend ep handle seq last => exact execChunkSend_keeps ep handle seq last s (h.mono (by decide)) hs
  | chunkGet ep handle seq => exact execChunkGet_keeps ep handle seq s (h.mono (by decide)) hs
  | spdmUnsupportedRequest ep code => exact execSpdmUnsupportedRequest_keeps ep code s (h.mono (by decide)) hs
  | getBootStat => exact execGetBootStat_keeps s (h.mono (by decide)) hs
  | readEvr first count => exact execReadEvr_keeps first count s (h.mono (by decide)) hs
  | readFathom page => exact execReadFathom_keeps page s (h.mono (by decide)) hs
  | reset bootSrc spanPos => exact execReset_keeps bootSrc spanPos s (h.mono (by decide)) hs
  | fwStage c image => exact execFwStage_keeps c image s (h.mono (by decide)) hs
  | fwActivate c => exact execFwActivate_keeps c s (h.mono (by decide)) hs
  | fwStandbyLoaded pair digestOk => exact execFwStandbyLoaded_keeps pair digestOk s (h.mono (by decide)) hs
  | fwStandbyReloaded pair ok => exact execFwStandbyReloaded_keeps pair ok s (h.mono (by decide)) hs
  | lcAdvance c token => exact execLcAdvance_keeps c token s (h.mono (by decide)) hs
  | setOwnerKey c key => exact execSetOwnerKey_keeps c key s (h.mono (by decide)) hs
  | domainEnable rid dom val => exact execDomainEnable_keeps rid dom val s (h.mono (by decide)) hs
  | domainDisable rid dom val => exact execDomainDisable_keeps rid dom val s (h.mono (by decide)) hs
  | domainWake rid dom val => exact execDomainWake_keeps rid dom val s (h.mono (by decide)) hs
  | throttleWrite rid dom val => exact execThrottleWrite_keeps rid dom val s (h.mono (by decide)) hs
  | domainDrainEnd dom => exact execDomainDrainEnd_keeps dom s (h.mono (by decide)) hs
  | domainDrainTimeout dom => exact execDomainDrainTimeout_keeps dom s (h.mono (by decide)) hs
  | domainPowerUpComplete dom => exact execDomainPowerUpComplete_keeps dom s (h.mono (by decide)) hs
  | engIdleExpiry dom => exact execEngIdleExpiry_keeps dom s (h.mono (by decide)) hs
  | sleepEntryComplete dom => exact execSleepEntryComplete_keeps dom s (h.mono (by decide)) hs
  | portIdleExpiry port => exact execPortIdleExpiry_keeps port s (h.mono (by decide)) hs
  | channelSample channel x => exact execChannelSample_keeps channel x s (h.mono (by decide)) hs
  | ruleWrite rid rule val => exact execRuleWrite_keeps rid rule val s (h.mono (by decide)) hs
  | vcoreTargetStep => exact execVcoreTargetStep_keeps s (h.mono (by decide)) hs
  | thermalTrip channel raw => exact execThermalTrip_keeps channel raw s (h.mono (by decide)) hs
  | clockCheck input present within1 within01 => exact execClockCheck_keeps input present within1 within01 s (h.mono (by decide)) hs
  | clockHoldoverExpiry quadrant => exact execClockHoldoverExpiry_keeps quadrant s (h.mono (by decide)) hs
  | ppsEdge => exact execPpsEdge_keeps s (h.mono (by decide)) hs
  | ppsLoss => exact execPpsLoss_keeps s (h.mono (by decide)) hs
  | calSetNow rid => exact execCalSetNow_keeps rid s (h.mono (by decide)) hs
  | calSetAtPps rid => exact execCalSetAtPps_keeps rid s (h.mono (by decide)) hs
  | lifetimeSecondSample => exact execLifetimeSecondSample_keeps s (h.mono (by decide)) hs
  | lifetimeHourlyWrite => exact execLifetimeHourlyWrite_keeps s (h.mono (by decide)) hs
  | ceOccurrence source detail => exact execCeOccurrence_keeps source detail s (h.mono (by decide)) hs
  | ucOccurrence source detail => exact execUcOccurrence_keeps source detail s (h.mono (by decide)) hs
  | ftOccurrence source => exact execFtOccurrence_keeps source s (h.mono (by decide)) hs
  | ceWindowExpiry => exact execCeWindowExpiry_keeps s (h.mono (by decide)) hs
  | faultPendClear rid k val => exact execFaultPendClear_keeps rid k val s (h.mono (by decide)) hs
  | faultForce rid source val => exact execFaultForce_keeps rid source val s (h.mono (by decide)) hs
  | bankRepairComplete bank copyUs => exact execBankRepairComplete_keeps bank copyUs s (h.mono (by decide)) hs
  | hbmRebuildComplete iface copyUs => exact execHbmRebuildComplete_keeps iface copyUs s (h.mono (by decide)) hs
  | heartbeatTimeout core => exact execHeartbeatTimeout_keeps core s (h.mono (by decide)) hs
  | aliveToggle => exact execAliveToggle_keeps s (h.mono (by decide)) hs
  | selftestPeriod => exact execSelftestPeriod_keeps s (h.mono (by decide)) hs
  | sliceEnd finding => exact execSliceEnd_keeps finding s (h.mono (by decide)) hs
  | sliceCommand rid val => exact execSliceCommand_keeps rid val s (h.mono (by decide)) hs
  | fullTest rid val => exact execFullTest_keeps rid val s (h.mono (by decide)) hs
  | fullTestEnd finding => exact execFullTestEnd_keeps finding s (h.mono (by decide)) hs
  | fuse rid val => exact execFuse_keeps rid val s (h.mono (by decide)) hs
  | recordSlotWrite => exact execRecordSlotWrite_keeps s (h.mono (by decide)) hs
  | evrClear c token => exact execEvrClear_keeps c token s (h.mono (by decide)) hs
  | evrClearComplete => exact execEvrClearComplete_keeps s (h.mono (by decide)) hs
  | evrRdIdxWrite rid val => exact execEvrRdIdxWrite_keeps rid val s (h.mono (by decide)) hs
  | snap rid val => exact execSnap_keeps rid val s (h.mono (by decide)) hs
  | snapAtArrival => exact execSnapAtArrival_keeps s (h.mono (by decide)) hs
  | snapComplete => exact execSnapComplete_keeps s (h.mono (by decide)) hs
  | clrPorts rid val => exact execClrPorts_keeps rid val s (h.mono (by decide)) hs
  | bwWindowEnd => exact execBwWindowEnd_keeps s (h.mono (by decide)) hs
  | bwWindowWrite rid val => exact execBwWindowWrite_keeps rid val s (h.mono (by decide)) hs
  | counterValueWrite rid n val => exact execCounterValueWrite_keeps rid n val s (h.mono (by decide)) hs
  | aoPowerOn => exact execAoPowerOn_keeps s (h.mono (by decide)) hs
  | pwrGoodFall => exact execPwrGoodFall_keeps s (h.mono (by decide)) hs
  | closingWriteComplete => exact execClosingWriteComplete_keeps s (h.mono (by decide)) hs
  | inspectStart rid window val => exact execInspectStart_keeps rid window val s (h.mono (by decide)) hs
  | inspectComplete window => exact execInspectComplete_keeps window s (h.mono (by decide)) hs
  | mctxQuarantineEnd ctx => exact execMctxQuarantineEnd_keeps ctx s (h.mono (by decide)) hs
  | registerRead rid off size => exact execRegisterRead_keeps rid off size s (h.mono (by decide)) hs
  | hbmAccessComplete tag => exact execHbmAccessComplete_keeps tag s (h.mono (by decide)) hs
  | vddAoLoss => exact execVddAoLoss_keeps s (h.mono (by decide)) hs
  | trainingFail port => exact execTrainingFail_keeps port s (h.mono (by decide)) hs
  | bankCopyComplete bank copyUs => exact execBankCopyComplete_keeps bank copyUs s (h.mono (by decide)) hs
  | coreReloadComplete core => exact execCoreReloadComplete_keeps core s (h.mono (by decide)) hs

end Sys2Proof.Machine
end

