-- ==== Sys2Proof/Laws/State.lean ====
section
/-! SUPPORT. What the updates of the state leave alone, field by field; reading tables, registers and memory after a write. -/

namespace Sys2Proof.Machine

open Sys2Proof

/-! ### Tables -/

namespace Tbl

@[simp] theorem get?_nil {α : Type} (k : Nat) : get? ([] : Tbl α) k = none := rfl

theorem get?_cons {α : Type} (j : Nat) (a : α) (t : Tbl α) (k : Nat) :
    get? ((j, a) :: t) k = if j = k then some a else get? t k := rfl

@[simp] theorem get?_set_self {α : Type} (t : Tbl α) (k : Nat) (a : α) : (t.set k a).get? k = some a := by
  induction t with
  | nil => simp [set, get?]
  | cons p t ih =>
    obtain ⟨j, b⟩ := p
    simp only [set]
    split
    · simp [get?]
    · split
      · simp [get?]
      · next h => simp only [get?, if_neg (Ne.symm h)]; exact ih

theorem get?_set_ne {α : Type} (t : Tbl α) (k l : Nat) (a : α) (h : l ≠ k) : (t.set k a).get? l = t.get? l := by
  induction t with
  | nil => simp [set, get?, Ne.symm h]
  | cons p t ih =>
    obtain ⟨j, b⟩ := p
    simp only [set]
    split
    · simp only [get?, if_neg (Ne.symm h)]
    · split
      · next e => subst e; simp only [get?, if_neg (Ne.symm h)]
      · simp only [get?, ih]

theorem get?_set {α : Type} (t : Tbl α) (k l : Nat) (a : α) : (t.set k a).get? l = if l = k then some a else t.get? l := by
  split
  · next h => subst h; exact get?_set_self t l a
  · next h => exact get?_set_ne t k l a h

theorem set_set {α : Type} (t : Tbl α) (k : Nat) (a b : α) : (t.set k a).set k b = t.set k b := by
  induction t with
  | nil => simp [set]
  | cons p t ih =>
    obtain ⟨j, c⟩ := p
    by_cases h1 : k < j
    · simp [set, h1]
    · by_cases h2 : k = j
      · subst h2; simp [set]
      · simp [set, h1, h2, ih]

theorem get?_upd_self {α : Type} (t : Tbl α) (k : Nat) (f : α → α) : (t.upd k f).get? k = (t.get? k).map f := by
  unfold upd
  split
  · next a h => simp [h]
  · next h => simp [h]

theorem get?_upd_ne {α : Type} (t : Tbl α) (k l : Nat) (f : α → α) (h : l ≠ k) : (t.upd k f).get? l = t.get? l := by
  unfold upd
  split
  · exact get?_set_ne _ _ _ _ h
  · rfl

/-- A change of an entry that is there. -/
theorem upd_of_get? {α : Type} (t : Tbl α) (k : Nat) (f : α → α) (a : α) (h : t.get? k = some a) : t.upd k f = t.set k (f a) := by
  unfold upd
  rw [h]

theorem get?_erase_ne {α : Type} (t : Tbl α) (k l : Nat) (h : l ≠ k) : (t.erase k).get? l = t.get? l := by
  induction t with
  | nil => rfl
  | cons p t ih =>
    obtain ⟨j, b⟩ := p
    simp only [erase]
    split
    · next e => subst e; simp [get?, Ne.symm h]
    · simp only [get?, ih]

theorem get?_of_lt {α : Type} (t : Tbl α) (k : Nat) (h : ∀ p ∈ t, k < p.1) : t.get? k = none := by
  induction t with
  | nil => rfl
  | cons p t ih =>
    obtain ⟨j, b⟩ := p
    have := h (j, b) (List.mem_cons_self ..)
    simp only [get?, if_neg (Nat.ne_of_gt this)]
    exact ih fun q hq => h q (List.mem_cons_of_mem _ hq)

/-- In a table whose keys rise, an erased key has no entry. -/
theorem get?_erase_self {α : Type} (t : Tbl α) (k : Nat) (w : t.wf = true) : (t.erase k).get? k = none := by
  induction t with
  | nil => rfl
  | cons p t ih =>
    obtain ⟨j, b⟩ := p
    rw [wf_iff] at w
    simp only [keys, List.map_cons, List.pairwise_cons] at w
    simp only [erase]
    split
    · next e =>
      subst e
      exact get?_of_lt _ _ fun q hq => w.1 _ (List.mem_map_of_mem hq)
    · next e =>
      simp only [get?, e, if_false]
      exact ih ((wf_iff _).2 w.2)

end Tbl

/-! ### Registers -/

theorem rd_wr_ne (s : State) (a b : Nat) (w : Word) (h : b ≠ a) : (s.wr a w).rd b = s.rd b := by
  unfold State.rd State.wr
  have e : (regPut s.regs a w).get? b = s.regs.get? b := by
    unfold regPut
    split
    · exact Tbl.get?_erase_ne _ _ _ h
    · exact Tbl.get?_set_ne _ _ _ _ h
  simp only [e]

/-- A register reads as what was last stored in it. -/
theorem rd_wr (s : State) (a : Nat) (w : Word) (h : s.regs.wf = true) : (s.wr a w).rd a = w := by
  unfold State.rd State.wr regPut
  by_cases e : w = resetOf a
  · rw [if_pos e, Tbl.get?_erase_self _ _ h, e]
  · simp only [if_neg e, Tbl.get?_set_self]

/-! ### Memory -/

theorem memGet_of_lt (m : List Host.Cell) (a : Nat) (h : ∀ c ∈ m, a < c.1) : memGet m a = 0 := by
  induction m with
  | nil => rfl
  | cons c m ih =>
    have := h c (List.mem_cons_self ..)
    simp only [memGet, if_neg (Nat.ne_of_gt this)]
    exact ih fun d hd => h d (List.mem_cons_of_mem _ hd)

theorem memGet_memPut_ne (m : List Host.Cell) (a b : Nat) (v : Byte) (h : b ≠ a) : memGet (memPut m a v) b = memGet m b := by
  induction m with
  | nil => unfold memPut; split <;> simp [memGet, Ne.symm h]
  | cons c m ih =>
    obtain ⟨k, w⟩ := c
    unfold memPut
    split
    · split
      · rfl
      · simp only [memGet, if_neg (Ne.symm h)]
    · split
      · next e =>
        subst e
        split <;> simp only [memGet, if_neg (Ne.symm h)]
      · simp only [memGet, ih]

theorem memGet_memPut (m : List Host.Cell) (a : Nat) (v : Byte) (w : memWf m = true) : memGet (memPut m a v) a = v := by
  induction m with
  | nil => unfold memPut; split <;> simp_all [memGet]
  | cons c m ih =>
    obtain ⟨k, b⟩ := c
    have w' : memWf m = true := by
      simp only [memWf, Bool.and_eq_true, decide_eq_true_eq, List.map_cons, List.pairwise_cons, List.all_cons] at w ⊢
      exact ⟨w.1.2, w.2.2⟩
    have lt : ∀ d ∈ m, k < d.1 := by
      simp only [memWf, Bool.and_eq_true, decide_eq_true_eq, List.map_cons, List.pairwise_cons] at w
      intro d hd
      exact w.1.1 _ (List.mem_map_of_mem hd)
    unfold memPut
    split
    · next h =>
      split
      · next e =>
        rw [e]
        refine memGet_of_lt _ _ fun d hd => ?_
        rcases List.mem_cons.1 hd with rfl | hd
        · exact h
        · exact Nat.lt_trans h (lt d hd)
      · simp [memGet]
    · split
      · next e =>
        subst e
        split
        · next e => rw [e]; exact memGet_of_lt _ _ lt
        · simp [memGet]
      · next e => simp only [memGet, if_neg (Ne.symm e)]; exact ih w'

/-! ### Fields that an update leaves alone -/

@[simp] theorem fn_setFn (s : State) (f : Nat) (v : Fn) : (s.setFn f v).fn f = v := by
  simp [State.fn, State.setFn]

theorem setFn_setFn (s : State) (f : Nat) (v w : Fn) : (s.setFn f v).setFn f w = s.setFn f w := by
  simp [State.setFn, Tbl.set_set]

@[simp] theorem rd_setFn (s : State) (f : Nat) (v : Fn) (o : Nat) : (s.setFn f v).rd o = s.rd o := rfl
@[simp] theorem rd_updQp (s : State) (i : Nat) (g : Qp → Qp) (o : Nat) : (s.updQp i g).rd o = s.rd o := rfl
@[simp] theorem rd_updCq (s : State) (i : Nat) (g : Cq → Cq) (o : Nat) : (s.updCq i g).rd o = s.rd o := rfl
@[simp] theorem rd_emit (s : State) (x : Out) (o : Nat) : (s.emit x).rd o = s.rd o := rfl

@[simp] theorem State.setFn_pending (s : State) (f : Nat) (v : Fn) : (s.setFn f v).pending = s.pending := rfl
@[simp] theorem State.setFn_out (s : State) (f : Nat) (v : Fn) : (s.setFn f v).out = s.out := rfl
@[simp] theorem State.setFn_free (s : State) (f : Nat) (v : Fn) : (s.setFn f v).free = s.free := rfl
@[simp] theorem State.setFn_now (s : State) (f : Nat) (v : Fn) : (s.setFn f v).now = s.now := rfl
@[simp] theorem State.setFn_ft (s : State) (f : Nat) (v : Fn) : (s.setFn f v).ft = s.ft := rfl
@[simp] theorem State.setFn_regs (s : State) (f : Nat) (v : Fn) : (s.setFn f v).regs = s.regs := rfl
@[simp] theorem State.setFn_hbm (s : State) (f : Nat) (v : Fn) : (s.setFn f v).hbm = s.hbm := rfl
@[simp] theorem State.setFn_tra (s : State) (f : Nat) (v : Fn) : (s.setFn f v).tra = s.tra := rfl
@[simp] theorem State.setFn_mat (s : State) (f : Nat) (v : Fn) : (s.setFn f v).mat = s.mat := rfl
@[simp] theorem State.setFn_wins (s : State) (f : Nat) (v : Fn) : (s.setFn f v).wins = s.wins := rfl
@[simp] theorem State.setFn_grps (s : State) (f : Nat) (v : Fn) : (s.setFn f v).grps = s.grps := rfl
@[simp] theorem State.setFn_xlt (s : State) (f : Nat) (v : Fn) : (s.setFn f v).xlt = s.xlt := rfl
@[simp] theorem State.setFn_rte (s : State) (f : Nat) (v : Fn) : (s.setFn f v).rte = s.rte := rfl
@[simp] theorem State.setFn_tcs (s : State) (f : Nat) (v : Fn) : (s.setFn f v).tcs = s.tcs := rfl
@[simp] theorem State.setFn_lnk (s : State) (f : Nat) (v : Fn) : (s.setFn f v).lnk = s.lnk := rfl
@[simp] theorem State.setFn_hst (s : State) (f : Nat) (v : Fn) : (s.setFn f v).hst = s.hst := rfl
@[simp] theorem State.setFn_irc (s : State) (f : Nat) (v : Fn) : (s.setFn f v).irc = s.irc := rfl
@[simp] theorem State.setFn_sem (s : State) (f : Nat) (v : Fn) : (s.setFn f v).sem = s.sem := rfl
@[simp] theorem State.setFn_boot (s : State) (f : Nat) (v : Fn) : (s.setFn f v).boot = s.boot := rfl
@[simp] theorem State.setFn_pwr (s : State) (f : Nat) (v : Fn) : (s.setFn f v).pwr = s.pwr := rfl
@[simp] theorem State.setFn_flt (s : State) (f : Nat) (v : Fn) : (s.setFn f v).flt = s.flt := rfl
@[simp] theorem State.setFn_evr (s : State) (f : Nat) (v : Fn) : (s.setFn f v).evr = s.evr := rfl
@[simp] theorem State.setFn_cnt (s : State) (f : Nat) (v : Fn) : (s.setFn f v).cnt = s.cnt := rfl
@[simp] theorem State.updQp_pending (s : State) (i : Nat) (g : Qp → Qp) : (s.updQp i g).pending = s.pending := rfl
@[simp] theorem State.updQp_out (s : State) (i : Nat) (g : Qp → Qp) : (s.updQp i g).out = s.out := rfl
@[simp] theorem State.updQp_free (s : State) (i : Nat) (g : Qp → Qp) : (s.updQp i g).free = s.free := rfl
@[simp] theorem State.updQp_now (s : State) (i : Nat) (g : Qp → Qp) : (s.updQp i g).now = s.now := rfl
@[simp] theorem State.updQp_ft (s : State) (i : Nat) (g : Qp → Qp) : (s.updQp i g).ft = s.ft := rfl
@[simp] theorem State.updQp_regs (s : State) (i : Nat) (g : Qp → Qp) : (s.updQp i g).regs = s.regs := rfl
@[simp] theorem State.updQp_hbm (s : State) (i : Nat) (g : Qp → Qp) : (s.updQp i g).hbm = s.hbm := rfl
@[simp] theorem State.updQp_tra (s : State) (i : Nat) (g : Qp → Qp) : (s.updQp i g).tra = s.tra := rfl
@[simp] theorem State.updQp_mat (s : State) (i : Nat) (g : Qp → Qp) : (s.updQp i g).mat = s.mat := rfl
@[simp] theorem State.updQp_wins (s : State) (i : Nat) (g : Qp → Qp) : (s.updQp i g).wins = s.wins := rfl
@[simp] theorem State.updQp_grps (s : State) (i : Nat) (g : Qp → Qp) : (s.updQp i g).grps = s.grps := rfl
@[simp] theorem State.updQp_xlt (s : State) (i : Nat) (g : Qp → Qp) : (s.updQp i g).xlt = s.xlt := rfl
@[simp] theorem State.updQp_rte (s : State) (i : Nat) (g : Qp → Qp) : (s.updQp i g).rte = s.rte := rfl
@[simp] theorem State.updQp_tcs (s : State) (i : Nat) (g : Qp → Qp) : (s.updQp i g).tcs = s.tcs := rfl
@[simp] theorem State.updQp_lnk (s : State) (i : Nat) (g : Qp → Qp) : (s.updQp i g).lnk = s.lnk := rfl
@[simp] theorem State.updQp_hst (s : State) (i : Nat) (g : Qp → Qp) : (s.updQp i g).hst = s.hst := rfl
@[simp] theorem State.updQp_irc (s : State) (i : Nat) (g : Qp → Qp) : (s.updQp i g).irc = s.irc := rfl
@[simp] theorem State.updQp_sem (s : State) (i : Nat) (g : Qp → Qp) : (s.updQp i g).sem = s.sem := rfl
@[simp] theorem State.updQp_boot (s : State) (i : Nat) (g : Qp → Qp) : (s.updQp i g).boot = s.boot := rfl
@[simp] theorem State.updQp_pwr (s : State) (i : Nat) (g : Qp → Qp) : (s.updQp i g).pwr = s.pwr := rfl
@[simp] theorem State.updQp_flt (s : State) (i : Nat) (g : Qp → Qp) : (s.updQp i g).flt = s.flt := rfl
@[simp] theorem State.updQp_evr (s : State) (i : Nat) (g : Qp → Qp) : (s.updQp i g).evr = s.evr := rfl
@[simp] theorem State.updQp_cnt (s : State) (i : Nat) (g : Qp → Qp) : (s.updQp i g).cnt = s.cnt := rfl
@[simp] theorem State.updCq_pending (s : State) (i : Nat) (g : Cq → Cq) : (s.updCq i g).pending = s.pending := rfl
@[simp] theorem State.updCq_out (s : State) (i : Nat) (g : Cq → Cq) : (s.updCq i g).out = s.out := rfl
@[simp] theorem State.updCq_free (s : State) (i : Nat) (g : Cq → Cq) : (s.updCq i g).free = s.free := rfl
@[simp] theorem State.updCq_now (s : State) (i : Nat) (g : Cq → Cq) : (s.updCq i g).now = s.now := rfl
@[simp] theorem State.updCq_ft (s : State) (i : Nat) (g : Cq → Cq) : (s.updCq i g).ft = s.ft := rfl
@[simp] theorem State.updCq_regs (s : State) (i : Nat) (g : Cq → Cq) : (s.updCq i g).regs = s.regs := rfl
@[simp] theorem State.updCq_hbm (s : State) (i : Nat) (g : Cq → Cq) : (s.updCq i g).hbm = s.hbm := rfl
@[simp] theorem State.updCq_tra (s : State) (i : Nat) (g : Cq → Cq) : (s.updCq i g).tra = s.tra := rfl
@[simp] theorem State.updCq_mat (s : State) (i : Nat) (g : Cq → Cq) : (s.updCq i g).mat = s.mat := rfl
@[simp] theorem State.updCq_wins (s : State) (i : Nat) (g : Cq → Cq) : (s.updCq i g).wins = s.wins := rfl
@[simp] theorem State.updCq_grps (s : State) (i : Nat) (g : Cq → Cq) : (s.updCq i g).grps = s.grps := rfl
@[simp] theorem State.updCq_xlt (s : State) (i : Nat) (g : Cq → Cq) : (s.updCq i g).xlt = s.xlt := rfl
@[simp] theorem State.updCq_rte (s : State) (i : Nat) (g : Cq → Cq) : (s.updCq i g).rte = s.rte := rfl
@[simp] theorem State.updCq_tcs (s : State) (i : Nat) (g : Cq → Cq) : (s.updCq i g).tcs = s.tcs := rfl
@[simp] theorem State.updCq_lnk (s : State) (i : Nat) (g : Cq → Cq) : (s.updCq i g).lnk = s.lnk := rfl
@[simp] theorem State.updCq_hst (s : State) (i : Nat) (g : Cq → Cq) : (s.updCq i g).hst = s.hst := rfl
@[simp] theorem State.updCq_irc (s : State) (i : Nat) (g : Cq → Cq) : (s.updCq i g).irc = s.irc := rfl
@[simp] theorem State.updCq_sem (s : State) (i : Nat) (g : Cq → Cq) : (s.updCq i g).sem = s.sem := rfl
@[simp] theorem State.updCq_boot (s : State) (i : Nat) (g : Cq → Cq) : (s.updCq i g).boot = s.boot := rfl
@[simp] theorem State.updCq_pwr (s : State) (i : Nat) (g : Cq → Cq) : (s.updCq i g).pwr = s.pwr := rfl
@[simp] theorem State.updCq_flt (s : State) (i : Nat) (g : Cq → Cq) : (s.updCq i g).flt = s.flt := rfl
@[simp] theorem State.updCq_evr (s : State) (i : Nat) (g : Cq → Cq) : (s.updCq i g).evr = s.evr := rfl
@[simp] theorem State.updCq_cnt (s : State) (i : Nat) (g : Cq → Cq) : (s.updCq i g).cnt = s.cnt := rfl
@[simp] theorem State.updEq_pending (s : State) (i : Nat) (g : Eq → Eq) : (s.updEq i g).pending = s.pending := rfl
@[simp] theorem State.updEq_out (s : State) (i : Nat) (g : Eq → Eq) : (s.updEq i g).out = s.out := rfl
@[simp] theorem State.updEq_free (s : State) (i : Nat) (g : Eq → Eq) : (s.updEq i g).free = s.free := rfl
@[simp] theorem State.updEq_now (s : State) (i : Nat) (g : Eq → Eq) : (s.updEq i g).now = s.now := rfl
@[simp] theorem State.updEq_ft (s : State) (i : Nat) (g : Eq → Eq) : (s.updEq i g).ft = s.ft := rfl
@[simp] theorem State.updEq_regs (s : State) (i : Nat) (g : Eq → Eq) : (s.updEq i g).regs = s.regs := rfl
@[simp] theorem State.updEq_hbm (s : State) (i : Nat) (g : Eq → Eq) : (s.updEq i g).hbm = s.hbm := rfl
@[simp] theorem State.updEq_tra (s : State) (i : Nat) (g : Eq → Eq) : (s.updEq i g).tra = s.tra := rfl
@[simp] theorem State.updEq_mat (s : State) (i : Nat) (g : Eq → Eq) : (s.updEq i g).mat = s.mat := rfl
@[simp] theorem State.updEq_wins (s : State) (i : Nat) (g : Eq → Eq) : (s.updEq i g).wins = s.wins := rfl
@[simp] theorem State.updEq_grps (s : State) (i : Nat) (g : Eq → Eq) : (s.updEq i g).grps = s.grps := rfl
@[simp] theorem State.updEq_xlt (s : State) (i : Nat) (g : Eq → Eq) : (s.updEq i g).xlt = s.xlt := rfl
@[simp] theorem State.updEq_rte (s : State) (i : Nat) (g : Eq → Eq) : (s.updEq i g).rte = s.rte := rfl
@[simp] theorem State.updEq_tcs (s : State) (i : Nat) (g : Eq → Eq) : (s.updEq i g).tcs = s.tcs := rfl
@[simp] theorem State.updEq_lnk (s : State) (i : Nat) (g : Eq → Eq) : (s.updEq i g).lnk = s.lnk := rfl
@[simp] theorem State.updEq_hst (s : State) (i : Nat) (g : Eq → Eq) : (s.updEq i g).hst = s.hst := rfl
@[simp] theorem State.updEq_irc (s : State) (i : Nat) (g : Eq → Eq) : (s.updEq i g).irc = s.irc := rfl
@[simp] theorem State.updEq_sem (s : State) (i : Nat) (g : Eq → Eq) : (s.updEq i g).sem = s.sem := rfl
@[simp] theorem State.updEq_boot (s : State) (i : Nat) (g : Eq → Eq) : (s.updEq i g).boot = s.boot := rfl
@[simp] theorem State.updEq_pwr (s : State) (i : Nat) (g : Eq → Eq) : (s.updEq i g).pwr = s.pwr := rfl
@[simp] theorem State.updEq_flt (s : State) (i : Nat) (g : Eq → Eq) : (s.updEq i g).flt = s.flt := rfl
@[simp] theorem State.updEq_evr (s : State) (i : Nat) (g : Eq → Eq) : (s.updEq i g).evr = s.evr := rfl
@[simp] theorem State.updEq_cnt (s : State) (i : Nat) (g : Eq → Eq) : (s.updEq i g).cnt = s.cnt := rfl
@[simp] theorem State.updGrp_pending (s : State) (i : Nat) (g : Group → Group) : (s.updGrp i g).pending = s.pending := rfl
@[simp] theorem State.updGrp_out (s : State) (i : Nat) (g : Group → Group) : (s.updGrp i g).out = s.out := rfl
@[simp] theorem State.updGrp_free (s : State) (i : Nat) (g : Group → Group) : (s.updGrp i g).free = s.free := rfl
@[simp] theorem State.updGrp_now (s : State) (i : Nat) (g : Group → Group) : (s.updGrp i g).now = s.now := rfl
@[simp] theorem State.updGrp_ft (s : State) (i : Nat) (g : Group → Group) : (s.updGrp i g).ft = s.ft := rfl
@[simp] theorem State.updGrp_regs (s : State) (i : Nat) (g : Group → Group) : (s.updGrp i g).regs = s.regs := rfl
@[simp] theorem State.updGrp_hbm (s : State) (i : Nat) (g : Group → Group) : (s.updGrp i g).hbm = s.hbm := rfl
@[simp] theorem State.updGrp_ten (s : State) (i : Nat) (g : Group → Group) : (s.updGrp i g).ten = s.ten := rfl
@[simp] theorem State.updGrp_tra (s : State) (i : Nat) (g : Group → Group) : (s.updGrp i g).tra = s.tra := rfl
@[simp] theorem State.updGrp_mat (s : State) (i : Nat) (g : Group → Group) : (s.updGrp i g).mat = s.mat := rfl
@[simp] theorem State.updGrp_wins (s : State) (i : Nat) (g : Group → Group) : (s.updGrp i g).wins = s.wins := rfl
@[simp] theorem State.updGrp_xlt (s : State) (i : Nat) (g : Group → Group) : (s.updGrp i g).xlt = s.xlt := rfl
@[simp] theorem State.updGrp_rte (s : State) (i : Nat) (g : Group → Group) : (s.updGrp i g).rte = s.rte := rfl
@[simp] theorem State.updGrp_tcs (s : State) (i : Nat) (g : Group → Group) : (s.updGrp i g).tcs = s.tcs := rfl
@[simp] theorem State.updGrp_lnk (s : State) (i : Nat) (g : Group → Group) : (s.updGrp i g).lnk = s.lnk := rfl
@[simp] theorem State.updGrp_hst (s : State) (i : Nat) (g : Group → Group) : (s.updGrp i g).hst = s.hst := rfl
@[simp] theorem State.updGrp_irc (s : State) (i : Nat) (g : Group → Group) : (s.updGrp i g).irc = s.irc := rfl
@[simp] theorem State.updGrp_sem (s : State) (i : Nat) (g : Group → Group) : (s.updGrp i g).sem = s.sem := rfl
@[simp] theorem State.updGrp_boot (s : State) (i : Nat) (g : Group → Group) : (s.updGrp i g).boot = s.boot := rfl
@[simp] theorem State.updGrp_pwr (s : State) (i : Nat) (g : Group → Group) : (s.updGrp i g).pwr = s.pwr := rfl
@[simp] theorem State.updGrp_flt (s : State) (i : Nat) (g : Group → Group) : (s.updGrp i g).flt = s.flt := rfl
@[simp] theorem State.updGrp_evr (s : State) (i : Nat) (g : Group → Group) : (s.updGrp i g).evr = s.evr := rfl
@[simp] theorem State.updGrp_cnt (s : State) (i : Nat) (g : Group → Group) : (s.updGrp i g).cnt = s.cnt := rfl
@[simp] theorem State.wr_pending (s : State) (off : Nat) (w : Word) : (s.wr off w).pending = s.pending := rfl
@[simp] theorem State.wr_out (s : State) (off : Nat) (w : Word) : (s.wr off w).out = s.out := rfl
@[simp] theorem State.wr_free (s : State) (off : Nat) (w : Word) : (s.wr off w).free = s.free := rfl
@[simp] theorem State.wr_now (s : State) (off : Nat) (w : Word) : (s.wr off w).now = s.now := rfl
@[simp] theorem State.wr_ft (s : State) (off : Nat) (w : Word) : (s.wr off w).ft = s.ft := rfl
@[simp] theorem State.wr_hbm (s : State) (off : Nat) (w : Word) : (s.wr off w).hbm = s.hbm := rfl
@[simp] theorem State.wr_ten (s : State) (off : Nat) (w : Word) : (s.wr off w).ten = s.ten := rfl
@[simp] theorem State.wr_tra (s : State) (off : Nat) (w : Word) : (s.wr off w).tra = s.tra := rfl
@[simp] theorem State.wr_mat (s : State) (off : Nat) (w : Word) : (s.wr off w).mat = s.mat := rfl
@[simp] theorem State.wr_wins (s : State) (off : Nat) (w : Word) : (s.wr off w).wins = s.wins := rfl
@[simp] theorem State.wr_grps (s : State) (off : Nat) (w : Word) : (s.wr off w).grps = s.grps := rfl
@[simp] theorem State.wr_xlt (s : State) (off : Nat) (w : Word) : (s.wr off w).xlt = s.xlt := rfl
@[simp] theorem State.wr_rte (s : State) (off : Nat) (w : Word) : (s.wr off w).rte = s.rte := rfl
@[simp] theorem State.wr_tcs (s : State) (off : Nat) (w : Word) : (s.wr off w).tcs = s.tcs := rfl
@[simp] theorem State.wr_lnk (s : State) (off : Nat) (w : Word) : (s.wr off w).lnk = s.lnk := rfl
@[simp] theorem State.wr_hst (s : State) (off : Nat) (w : Word) : (s.wr off w).hst = s.hst := rfl
@[simp] theorem State.wr_irc (s : State) (off : Nat) (w : Word) : (s.wr off w).irc = s.irc := rfl
@[simp] theorem State.wr_sem (s : State) (off : Nat) (w : Word) : (s.wr off w).sem = s.sem := rfl
@[simp] theorem State.wr_boot (s : State) (off : Nat) (w : Word) : (s.wr off w).boot = s.boot := rfl
@[simp] theorem State.wr_pwr (s : State) (off : Nat) (w : Word) : (s.wr off w).pwr = s.pwr := rfl
@[simp] theorem State.wr_flt (s : State) (off : Nat) (w : Word) : (s.wr off w).flt = s.flt := rfl
@[simp] theorem State.wr_evr (s : State) (off : Nat) (w : Word) : (s.wr off w).evr = s.evr := rfl
@[simp] theorem State.wr_cnt (s : State) (off : Nat) (w : Word) : (s.wr off w).cnt = s.cnt := rfl
@[simp] theorem State.wrF_pending (s : State) (off : Nat) (f : Fld) (v : Nat) : (s.wrF off f v).pending = s.pending := rfl
@[simp] theorem State.wrF_out (s : State) (off : Nat) (f : Fld) (v : Nat) : (s.wrF off f v).out = s.out := rfl
@[simp] theorem State.wrF_free (s : State) (off : Nat) (f : Fld) (v : Nat) : (s.wrF off f v).free = s.free := rfl
@[simp] theorem State.wrF_now (s : State) (off : Nat) (f : Fld) (v : Nat) : (s.wrF off f v).now = s.now := rfl
@[simp] theorem State.wrF_ft (s : State) (off : Nat) (f : Fld) (v : Nat) : (s.wrF off f v).ft = s.ft := rfl
@[simp] theorem State.wrF_hbm (s : State) (off : Nat) (f : Fld) (v : Nat) : (s.wrF off f v).hbm = s.hbm := rfl
@[simp] theorem State.wrF_ten (s : State) (off : Nat) (f : Fld) (v : Nat) : (s.wrF off f v).ten = s.ten := rfl
@[simp] theorem State.wrF_tra (s : State) (off : Nat) (f : Fld) (v : Nat) : (s.wrF off f v).tra = s.tra := rfl
@[simp] theorem State.wrF_mat (s : State) (off : Nat) (f : Fld) (v : Nat) : (s.wrF off f v).mat = s.mat := rfl
@[simp] theorem State.wrF_wins (s : State) (off : Nat) (f : Fld) (v : Nat) : (s.wrF off f v).wins = s.wins := rfl
@[simp] theorem State.wrF_grps (s : State) (off : Nat) (f : Fld) (v : Nat) : (s.wrF off f v).grps = s.grps := rfl
@[simp] theorem State.wrF_xlt (s : State) (off : Nat) (f : Fld) (v : Nat) : (s.wrF off f v).xlt = s.xlt := rfl
@[simp] theorem State.wrF_rte (s : State) (off : Nat) (f : Fld) (v : Nat) : (s.wrF off f v).rte = s.rte := rfl
@[simp] theorem State.wrF_tcs (s : State) (off : Nat) (f : Fld) (v : Nat) : (s.wrF off f v).tcs = s.tcs := rfl
@[simp] theorem State.wrF_lnk (s : State) (off : Nat) (f : Fld) (v : Nat) : (s.wrF off f v).lnk = s.lnk := rfl
@[simp] theorem State.wrF_hst (s : State) (off : Nat) (f : Fld) (v : Nat) : (s.wrF off f v).hst = s.hst := rfl
@[simp] theorem State.wrF_irc (s : State) (off : Nat) (f : Fld) (v : Nat) : (s.wrF off f v).irc = s.irc := rfl
@[simp] theorem State.wrF_sem (s : State) (off : Nat) (f : Fld) (v : Nat) : (s.wrF off f v).sem = s.sem := rfl
@[simp] theorem State.wrF_boot (s : State) (off : Nat) (f : Fld) (v : Nat) : (s.wrF off f v).boot = s.boot := rfl
@[simp] theorem State.wrF_pwr (s : State) (off : Nat) (f : Fld) (v : Nat) : (s.wrF off f v).pwr = s.pwr := rfl
@[simp] theorem State.wrF_flt (s : State) (off : Nat) (f : Fld) (v : Nat) : (s.wrF off f v).flt = s.flt := rfl
@[simp] theorem State.wrF_evr (s : State) (off : Nat) (f : Fld) (v : Nat) : (s.wrF off f v).evr = s.evr := rfl
@[simp] theorem State.wrF_cnt (s : State) (off : Nat) (f : Fld) (v : Nat) : (s.wrF off f v).cnt = s.cnt := rfl
@[simp] theorem State.wrFs_pending (s : State) (off : Nat) (fs : List (Fld × Nat)) : (s.wrFs off fs).pending = s.pending := rfl
@[simp] theorem State.wrFs_out (s : State) (off : Nat) (fs : List (Fld × Nat)) : (s.wrFs off fs).out = s.out := rfl
@[simp] theorem State.wrFs_free (s : State) (off : Nat) (fs : List (Fld × Nat)) : (s.wrFs off fs).free = s.free := rfl
@[simp] theorem State.wrFs_now (s : State) (off : Nat) (fs : List (Fld × Nat)) : (s.wrFs off fs).now = s.now := rfl
@[simp] theorem State.wrFs_ft (s : State) (off : Nat) (fs : List (Fld × Nat)) : (s.wrFs off fs).ft = s.ft := rfl
@[simp] theorem State.wrFs_hbm (s : State) (off : Nat) (fs : List (Fld × Nat)) : (s.wrFs off fs).hbm = s.hbm := rfl
@[simp] theorem State.wrFs_ten (s : State) (off : Nat) (fs : List (Fld × Nat)) : (s.wrFs off fs).ten = s.ten := rfl
@[simp] theorem State.wrFs_tra (s : State) (off : Nat) (fs : List (Fld × Nat)) : (s.wrFs off fs).tra = s.tra := rfl
@[simp] theorem State.wrFs_mat (s : State) (off : Nat) (fs : List (Fld × Nat)) : (s.wrFs off fs).mat = s.mat := rfl
@[simp] theorem State.wrFs_wins (s : State) (off : Nat) (fs : List (Fld × Nat)) : (s.wrFs off fs).wins = s.wins := rfl
@[simp] theorem State.wrFs_grps (s : State) (off : Nat) (fs : List (Fld × Nat)) : (s.wrFs off fs).grps = s.grps := rfl
@[simp] theorem State.wrFs_xlt (s : State) (off : Nat) (fs : List (Fld × Nat)) : (s.wrFs off fs).xlt = s.xlt := rfl
@[simp] theorem State.wrFs_rte (s : State) (off : Nat) (fs : List (Fld × Nat)) : (s.wrFs off fs).rte = s.rte := rfl
@[simp] theorem State.wrFs_tcs (s : State) (off : Nat) (fs : List (Fld × Nat)) : (s.wrFs off fs).tcs = s.tcs := rfl
@[simp] theorem State.wrFs_lnk (s : State) (off : Nat) (fs : List (Fld × Nat)) : (s.wrFs off fs).lnk = s.lnk := rfl
@[simp] theorem State.wrFs_hst (s : State) (off : Nat) (fs : List (Fld × Nat)) : (s.wrFs off fs).hst = s.hst := rfl
@[simp] theorem State.wrFs_irc (s : State) (off : Nat) (fs : List (Fld × Nat)) : (s.wrFs off fs).irc = s.irc := rfl
@[simp] theorem State.wrFs_sem (s : State) (off : Nat) (fs : List (Fld × Nat)) : (s.wrFs off fs).sem = s.sem := rfl
@[simp] theorem State.wrFs_boot (s : State) (off : Nat) (fs : List (Fld × Nat)) : (s.wrFs off fs).boot = s.boot := rfl
@[simp] theorem State.wrFs_pwr (s : State) (off : Nat) (fs : List (Fld × Nat)) : (s.wrFs off fs).pwr = s.pwr := rfl
@[simp] theorem State.wrFs_flt (s : State) (off : Nat) (fs : List (Fld × Nat)) : (s.wrFs off fs).flt = s.flt := rfl
@[simp] theorem State.wrFs_evr (s : State) (off : Nat) (fs : List (Fld × Nat)) : (s.wrFs off fs).evr = s.evr := rfl
@[simp] theorem State.wrFs_cnt (s : State) (off : Nat) (fs : List (Fld × Nat)) : (s.wrFs off fs).cnt = s.cnt := rfl
@[simp] theorem State.bump_pending (s : State) (off : Nat) (f : Fld) (n : Nat) : (s.bump off f n).pending = s.pending := rfl
@[simp] theorem State.bump_out (s : State) (off : Nat) (f : Fld) (n : Nat) : (s.bump off f n).out = s.out := rfl
@[simp] theorem State.bump_free (s : State) (off : Nat) (f : Fld) (n : Nat) : (s.bump off f n).free = s.free := rfl
@[simp] theorem State.bump_now (s : State) (off : Nat) (f : Fld) (n : Nat) : (s.bump off f n).now = s.now := rfl
@[simp] theorem State.bump_ft (s : State) (off : Nat) (f : Fld) (n : Nat) : (s.bump off f n).ft = s.ft := rfl
@[simp] theorem State.bump_hbm (s : State) (off : Nat) (f : Fld) (n : Nat) : (s.bump off f n).hbm = s.hbm := rfl
@[simp] theorem State.bump_ten (s : State) (off : Nat) (f : Fld) (n : Nat) : (s.bump off f n).ten = s.ten := rfl
@[simp] theorem State.bump_tra (s : State) (off : Nat) (f : Fld) (n : Nat) : (s.bump off f n).tra = s.tra := rfl
@[simp] theorem State.bump_mat (s : State) (off : Nat) (f : Fld) (n : Nat) : (s.bump off f n).mat = s.mat := rfl
@[simp] theorem State.bump_wins (s : State) (off : Nat) (f : Fld) (n : Nat) : (s.bump off f n).wins = s.wins := rfl
@[simp] theorem State.bump_grps (s : State) (off : Nat) (f : Fld) (n : Nat) : (s.bump off f n).grps = s.grps := rfl
@[simp] theorem State.bump_xlt (s : State) (off : Nat) (f : Fld) (n : Nat) : (s.bump off f n).xlt = s.xlt := rfl
@[simp] theorem State.bump_rte (s : State) (off : Nat) (f : Fld) (n : Nat) : (s.bump off f n).rte = s.rte := rfl
@[simp] theorem State.bump_tcs (s : State) (off : Nat) (f : Fld) (n : Nat) : (s.bump off f n).tcs = s.tcs := rfl
@[simp] theorem State.bump_lnk (s : State) (off : Nat) (f : Fld) (n : Nat) : (s.bump off f n).lnk = s.lnk := rfl
@[simp] theorem State.bump_hst (s : State) (off : Nat) (f : Fld) (n : Nat) : (s.bump off f n).hst = s.hst := rfl
@[simp] theorem State.bump_irc (s : State) (off : Nat) (f : Fld) (n : Nat) : (s.bump off f n).irc = s.irc := rfl
@[simp] theorem State.bump_sem (s : State) (off : Nat) (f : Fld) (n : Nat) : (s.bump off f n).sem = s.sem := rfl
@[simp] theorem State.bump_boot (s : State) (off : Nat) (f : Fld) (n : Nat) : (s.bump off f n).boot = s.boot := rfl
@[simp] theorem State.bump_pwr (s : State) (off : Nat) (f : Fld) (n : Nat) : (s.bump off f n).pwr = s.pwr := rfl
@[simp] theorem State.bump_flt (s : State) (off : Nat) (f : Fld) (n : Nat) : (s.bump off f n).flt = s.flt := rfl
@[simp] theorem State.bump_evr (s : State) (off : Nat) (f : Fld) (n : Nat) : (s.bump off f n).evr = s.evr := rfl
@[simp] theorem State.bump_cnt (s : State) (off : Nat) (f : Fld) (n : Nat) : (s.bump off f n).cnt = s.cnt := rfl
@[simp] theorem State.keepRegs_pending (s : State) (k : Nat → Bool) : (s.keepRegs k).pending = s.pending := rfl
@[simp] theorem State.keepRegs_out (s : State) (k : Nat → Bool) : (s.keepRegs k).out = s.out := rfl
@[simp] theorem State.keepRegs_free (s : State) (k : Nat → Bool) : (s.keepRegs k).free = s.free := rfl
@[simp] theorem State.keepRegs_now (s : State) (k : Nat → Bool) : (s.keepRegs k).now = s.now := rfl
@[simp] theorem State.keepRegs_ft (s : State) (k : Nat → Bool) : (s.keepRegs k).ft = s.ft := rfl
@[simp] theorem State.keepRegs_hbm (s : State) (k : Nat → Bool) : (s.keepRegs k).hbm = s.hbm := rfl
@[simp] theorem State.keepRegs_ten (s : State) (k : Nat → Bool) : (s.keepRegs k).ten = s.ten := rfl
@[simp] theorem State.keepRegs_tra (s : State) (k : Nat → Bool) : (s.keepRegs k).tra = s.tra := rfl
@[simp] theorem State.keepRegs_mat (s : State) (k : Nat → Bool) : (s.keepRegs k).mat = s.mat := rfl
@[simp] theorem State.keepRegs_wins (s : State) (k : Nat → Bool) : (s.keepRegs k).wins = s.wins := rfl
@[simp] theorem State.keepRegs_grps (s : State) (k : Nat → Bool) : (s.keepRegs k).grps = s.grps := rfl
@[simp] theorem State.keepRegs_xlt (s : State) (k : Nat → Bool) : (s.keepRegs k).xlt = s.xlt := rfl
@[simp] theorem State.keepRegs_rte (s : State) (k : Nat → Bool) : (s.keepRegs k).rte = s.rte := rfl
@[simp] theorem State.keepRegs_tcs (s : State) (k : Nat → Bool) : (s.keepRegs k).tcs = s.tcs := rfl
@[simp] theorem State.keepRegs_lnk (s : State) (k : Nat → Bool) : (s.keepRegs k).lnk = s.lnk := rfl
@[simp] theorem State.keepRegs_hst (s : State) (k : Nat → Bool) : (s.keepRegs k).hst = s.hst := rfl
@[simp] theorem State.keepRegs_irc (s : State) (k : Nat → Bool) : (s.keepRegs k).irc = s.irc := rfl
@[simp] theorem State.keepRegs_sem (s : State) (k : Nat → Bool) : (s.keepRegs k).sem = s.sem := rfl
@[simp] theorem State.keepRegs_boot (s : State) (k : Nat → Bool) : (s.keepRegs k).boot = s.boot := rfl
@[simp] theorem State.keepRegs_pwr (s : State) (k : Nat → Bool) : (s.keepRegs k).pwr = s.pwr := rfl
@[simp] theorem State.keepRegs_flt (s : State) (k : Nat → Bool) : (s.keepRegs k).flt = s.flt := rfl
@[simp] theorem State.keepRegs_evr (s : State) (k : Nat → Bool) : (s.keepRegs k).evr = s.evr := rfl
@[simp] theorem State.keepRegs_cnt (s : State) (k : Nat → Bool) : (s.keepRegs k).cnt = s.cnt := rfl
@[simp] theorem State.emit_pending (s : State) (o : Out) : (s.emit o).pending = s.pending := rfl
@[simp] theorem State.emit_free (s : State) (o : Out) : (s.emit o).free = s.free := rfl
@[simp] theorem State.emit_now (s : State) (o : Out) : (s.emit o).now = s.now := rfl
@[simp] theorem State.emit_ft (s : State) (o : Out) : (s.emit o).ft = s.ft := rfl
@[simp] theorem State.emit_regs (s : State) (o : Out) : (s.emit o).regs = s.regs := rfl
@[simp] theorem State.emit_hbm (s : State) (o : Out) : (s.emit o).hbm = s.hbm := rfl
@[simp] theorem State.emit_ten (s : State) (o : Out) : (s.emit o).ten = s.ten := rfl
@[simp] theorem State.emit_tra (s : State) (o : Out) : (s.emit o).tra = s.tra := rfl
@[simp] theorem State.emit_mat (s : State) (o : Out) : (s.emit o).mat = s.mat := rfl
@[simp] theorem State.emit_wins (s : State) (o : Out) : (s.emit o).wins = s.wins := rfl
@[simp] theorem State.emit_grps (s : State) (o : Out) : (s.emit o).grps = s.grps := rfl
@[simp] theorem State.emit_xlt (s : State) (o : Out) : (s.emit o).xlt = s.xlt := rfl
@[simp] theorem State.emit_rte (s : State) (o : Out) : (s.emit o).rte = s.rte := rfl
@[simp] theorem State.emit_tcs (s : State) (o : Out) : (s.emit o).tcs = s.tcs := rfl
@[simp] theorem State.emit_lnk (s : State) (o : Out) : (s.emit o).lnk = s.lnk := rfl
@[simp] theorem State.emit_hst (s : State) (o : Out) : (s.emit o).hst = s.hst := rfl
@[simp] theorem State.emit_irc (s : State) (o : Out) : (s.emit o).irc = s.irc := rfl
@[simp] theorem State.emit_sem (s : State) (o : Out) : (s.emit o).sem = s.sem := rfl
@[simp] theorem State.emit_boot (s : State) (o : Out) : (s.emit o).boot = s.boot := rfl
@[simp] theorem State.emit_pwr (s : State) (o : Out) : (s.emit o).pwr = s.pwr := rfl
@[simp] theorem State.emit_flt (s : State) (o : Out) : (s.emit o).flt = s.flt := rfl
@[simp] theorem State.emit_evr (s : State) (o : Out) : (s.emit o).evr = s.evr := rfl
@[simp] theorem State.emit_cnt (s : State) (o : Out) : (s.emit o).cnt = s.cnt := rfl
@[simp] theorem State.hbmWrite_pending (s : State) (a : Nat) (bs : List Byte) : (s.hbmWrite a bs).pending = s.pending := rfl
@[simp] theorem State.hbmWrite_out (s : State) (a : Nat) (bs : List Byte) : (s.hbmWrite a bs).out = s.out := rfl
@[simp] theorem State.hbmWrite_free (s : State) (a : Nat) (bs : List Byte) : (s.hbmWrite a bs).free = s.free := rfl
@[simp] theorem State.hbmWrite_now (s : State) (a : Nat) (bs : List Byte) : (s.hbmWrite a bs).now = s.now := rfl
@[simp] theorem State.hbmWrite_ft (s : State) (a : Nat) (bs : List Byte) : (s.hbmWrite a bs).ft = s.ft := rfl
@[simp] theorem State.hbmWrite_regs (s : State) (a : Nat) (bs : List Byte) : (s.hbmWrite a bs).regs = s.regs := rfl
@[simp] theorem State.hbmWrite_ten (s : State) (a : Nat) (bs : List Byte) : (s.hbmWrite a bs).ten = s.ten := rfl
@[simp] theorem State.hbmWrite_tra (s : State) (a : Nat) (bs : List Byte) : (s.hbmWrite a bs).tra = s.tra := rfl
@[simp] theorem State.hbmWrite_mat (s : State) (a : Nat) (bs : List Byte) : (s.hbmWrite a bs).mat = s.mat := rfl
@[simp] theorem State.hbmWrite_wins (s : State) (a : Nat) (bs : List Byte) : (s.hbmWrite a bs).wins = s.wins := rfl
@[simp] theorem State.hbmWrite_grps (s : State) (a : Nat) (bs : List Byte) : (s.hbmWrite a bs).grps = s.grps := rfl
@[simp] theorem State.hbmWrite_xlt (s : State) (a : Nat) (bs : List Byte) : (s.hbmWrite a bs).xlt = s.xlt := rfl
@[simp] theorem State.hbmWrite_rte (s : State) (a : Nat) (bs : List Byte) : (s.hbmWrite a bs).rte = s.rte := rfl
@[simp] theorem State.hbmWrite_tcs (s : State) (a : Nat) (bs : List Byte) : (s.hbmWrite a bs).tcs = s.tcs := rfl
@[simp] theorem State.hbmWrite_lnk (s : State) (a : Nat) (bs : List Byte) : (s.hbmWrite a bs).lnk = s.lnk := rfl
@[simp] theorem State.hbmWrite_hst (s : State) (a : Nat) (bs : List Byte) : (s.hbmWrite a bs).hst = s.hst := rfl
@[simp] theorem State.hbmWrite_irc (s : State) (a : Nat) (bs : List Byte) : (s.hbmWrite a bs).irc = s.irc := rfl
@[simp] theorem State.hbmWrite_sem (s : State) (a : Nat) (bs : List Byte) : (s.hbmWrite a bs).sem = s.sem := rfl
@[simp] theorem State.hbmWrite_boot (s : State) (a : Nat) (bs : List Byte) : (s.hbmWrite a bs).boot = s.boot := rfl
@[simp] theorem State.hbmWrite_pwr (s : State) (a : Nat) (bs : List Byte) : (s.hbmWrite a bs).pwr = s.pwr := rfl
@[simp] theorem State.hbmWrite_flt (s : State) (a : Nat) (bs : List Byte) : (s.hbmWrite a bs).flt = s.flt := rfl
@[simp] theorem State.hbmWrite_evr (s : State) (a : Nat) (bs : List Byte) : (s.hbmWrite a bs).evr = s.evr := rfl
@[simp] theorem State.hbmWrite_cnt (s : State) (a : Nat) (bs : List Byte) : (s.hbmWrite a bs).cnt = s.cnt := rfl
@[simp] theorem State.updDom_pending (s : State) (d : Nat) (g : Dom → Dom) : (s.updDom d g).pending = s.pending := rfl
@[simp] theorem State.updDom_out (s : State) (d : Nat) (g : Dom → Dom) : (s.updDom d g).out = s.out := rfl
@[simp] theorem State.updDom_free (s : State) (d : Nat) (g : Dom → Dom) : (s.updDom d g).free = s.free := rfl
@[simp] theorem State.updDom_now (s : State) (d : Nat) (g : Dom → Dom) : (s.updDom d g).now = s.now := rfl
@[simp] theorem State.updDom_ft (s : State) (d : Nat) (g : Dom → Dom) : (s.updDom d g).ft = s.ft := rfl
@[simp] theorem State.updDom_regs (s : State) (d : Nat) (g : Dom → Dom) : (s.updDom d g).regs = s.regs := rfl
@[simp] theorem State.updDom_hbm (s : State) (d : Nat) (g : Dom → Dom) : (s.updDom d g).hbm = s.hbm := rfl
@[simp] theorem State.updDom_ten (s : State) (d : Nat) (g : Dom → Dom) : (s.updDom d g).ten = s.ten := rfl
@[simp] theorem State.updDom_tra (s : State) (d : Nat) (g : Dom → Dom) : (s.updDom d g).tra = s.tra := rfl
@[simp] theorem State.updDom_mat (s : State) (d : Nat) (g : Dom → Dom) : (s.updDom d g).mat = s.mat := rfl
@[simp] theorem State.updDom_wins (s : State) (d : Nat) (g : Dom → Dom) : (s.updDom d g).wins = s.wins := rfl
@[simp] theorem State.updDom_grps (s : State) (d : Nat) (g : Dom → Dom) : (s.updDom d g).grps = s.grps := rfl
@[simp] theorem State.updDom_xlt (s : State) (d : Nat) (g : Dom → Dom) : (s.updDom d g).xlt = s.xlt := rfl
@[simp] theorem State.updDom_rte (s : State) (d : Nat) (g : Dom → Dom) : (s.updDom d g).rte = s.rte := rfl
@[simp] theorem State.updDom_tcs (s : State) (d : Nat) (g : Dom → Dom) : (s.updDom d g).tcs = s.tcs := rfl
@[simp] theorem State.updDom_lnk (s : State) (d : Nat) (g : Dom → Dom) : (s.updDom d g).lnk = s.lnk := rfl
@[simp] theorem State.updDom_hst (s : State) (d : Nat) (g : Dom → Dom) : (s.updDom d g).hst = s.hst := rfl
@[simp] theorem State.updDom_irc (s : State) (d : Nat) (g : Dom → Dom) : (s.updDom d g).irc = s.irc := rfl
@[simp] theorem State.updDom_sem (s : State) (d : Nat) (g : Dom → Dom) : (s.updDom d g).sem = s.sem := rfl
@[simp] theorem State.updDom_boot (s : State) (d : Nat) (g : Dom → Dom) : (s.updDom d g).boot = s.boot := rfl
@[simp] theorem State.updDom_flt (s : State) (d : Nat) (g : Dom → Dom) : (s.updDom d g).flt = s.flt := rfl
@[simp] theorem State.updDom_evr (s : State) (d : Nat) (g : Dom → Dom) : (s.updDom d g).evr = s.evr := rfl
@[simp] theorem State.updDom_cnt (s : State) (d : Nat) (g : Dom → Dom) : (s.updDom d g).cnt = s.cnt := rfl
@[simp] theorem State.lifeAdd_pending (s : State) (w n : Nat) : (s.lifeAdd w n).pending = s.pending := rfl
@[simp] theorem State.lifeAdd_out (s : State) (w n : Nat) : (s.lifeAdd w n).out = s.out := rfl
@[simp] theorem State.lifeAdd_free (s : State) (w n : Nat) : (s.lifeAdd w n).free = s.free := rfl
@[simp] theorem State.lifeAdd_now (s : State) (w n : Nat) : (s.lifeAdd w n).now = s.now := rfl
@[simp] theorem State.lifeAdd_ft (s : State) (w n : Nat) : (s.lifeAdd w n).ft = s.ft := rfl
@[simp] theorem State.lifeAdd_regs (s : State) (w n : Nat) : (s.lifeAdd w n).regs = s.regs := rfl
@[simp] theorem State.lifeAdd_hbm (s : State) (w n : Nat) : (s.lifeAdd w n).hbm = s.hbm := rfl
@[simp] theorem State.lifeAdd_ten (s : State) (w n : Nat) : (s.lifeAdd w n).ten = s.ten := rfl
@[simp] theorem State.lifeAdd_tra (s : State) (w n : Nat) : (s.lifeAdd w n).tra = s.tra := rfl
@[simp] theorem State.lifeAdd_mat (s : State) (w n : Nat) : (s.lifeAdd w n).mat = s.mat := rfl
@[simp] theorem State.lifeAdd_wins (s : State) (w n : Nat) : (s.lifeAdd w n).wins = s.wins := rfl
@[simp] theorem State.lifeAdd_grps (s : State) (w n : Nat) : (s.lifeAdd w n).grps = s.grps := rfl
@[simp] theorem State.lifeAdd_xlt (s : State) (w n : Nat) : (s.lifeAdd w n).xlt = s.xlt := rfl
@[simp] theorem State.lifeAdd_rte (s : State) (w n : Nat) : (s.lifeAdd w n).rte = s.rte := rfl
@[simp] theorem State.lifeAdd_tcs (s : State) (w n : Nat) : (s.lifeAdd w n).tcs = s.tcs := rfl
@[simp] theorem State.lifeAdd_lnk (s : State) (w n : Nat) : (s.lifeAdd w n).lnk = s.lnk := rfl
@[simp] theorem State.lifeAdd_hst (s : State) (w n : Nat) : (s.lifeAdd w n).hst = s.hst := rfl
@[simp] theorem State.lifeAdd_irc (s : State) (w n : Nat) : (s.lifeAdd w n).irc = s.irc := rfl
@[simp] theorem State.lifeAdd_sem (s : State) (w n : Nat) : (s.lifeAdd w n).sem = s.sem := rfl
@[simp] theorem State.lifeAdd_boot (s : State) (w n : Nat) : (s.lifeAdd w n).boot = s.boot := rfl
@[simp] theorem State.lifeAdd_pwr (s : State) (w n : Nat) : (s.lifeAdd w n).pwr = s.pwr := rfl
@[simp] theorem State.lifeAdd_flt (s : State) (w n : Nat) : (s.lifeAdd w n).flt = s.flt := rfl
@[simp] theorem State.lifeAdd_cnt (s : State) (w n : Nat) : (s.lifeAdd w n).cnt = s.cnt := rfl

end Sys2Proof.Machine
end

