-- ==== Sys2Proof/Machine/Package.lean ====
section
/-! DEFINITION. The package as data (20_package): the names and uses of the balls, the signals, and the limits and conditions that the
chapter gives in numbers. No step reads them: they are fixed, and hold at every moment. -/

namespace Sys2Proof.Machine

open Sys2Proof

/-! ### Balls (R406 to R410) -/

/-- The letters that rows are named with. -/
def rowLetters : List String := ["A", "B", "C", "D", "E", "F", "G", "H", "J", "K", "L", "M", "N", "P", "T", "U", "V", "W", "Y"]

/-- The name of row `i`, 1 to 94 (R406). -/
def rowName (i : Nat) : String :=
  let l := (rowLetters[(i - 1) % 19]?).getD ""
  match (i - 1) / 19 with
  | 0 => l
  | n + 1 => (rowLetters[n]?).getD "" ++ l

/-- The name of the ball at row `i` and column `j`. -/
def ballName (i j : Nat) : String := rowName i ++ toString j

/-- What a ball is used for (Table 20.1). `tx` is the transmit direction, `neg` the _N ball of a pair. -/
inductive BallUse where
  | fabric (lane : Nat) (tx neg : Bool)
  | host (port lane : Nat) (tx neg : Bool)
  | span (port lane : Nat) (tx neg : Bool)
  | pcieRefclk (port : Nat) (neg : Bool)
  | refclkFab (quadrant : Nat) (neg : Bool)
  | sideband (name : String)
  | vddCore | vddSram | vdda09 | vdda12 | vddIo | vddAo | reserved | vss
deriving DecidableEq, Repr

/-- A ball of the lane bands (R408): the tier of its row, and the direction. -/
def laneRow (i : Nat) : Option (Nat × Bool) :=
  if i % 2 = 0 && 2 ≤ i && i ≤ 16 then some ((i - 2) / 2 % 4, decide (i < 10))
  else if i % 2 = 1 && 79 ≤ i && i ≤ 93 then some ((93 - i) / 2 % 4, decide (86 < i))
  else none

/-- The fabric lane whose ball lies at a row and a column (R408). -/
def fabricBall (i j : Nat) : Option BallUse :=
  let side := if 7 ≤ j && j ≤ 38 then some (0, j - 7) else if 57 ≤ j && j ≤ 88 then some (1, j - 57) else none
  match laneRow i, side with
  | some (r, tx), some (h, d) => some (.fabric (64 * ((if i < 40 then 0 else 2) + h) + 16 * r + d / 2) tx (d % 2 == 1))
  | _, _ => none

/-- A lane of a side strip, by its column in the strip (R409): the transmit pair in the first two columns, the receive pair in the
fourth and fifth. -/
def stripPair (c : Nat) : Option (Bool × Bool) :=
  match c with
  | 0 => some (true, false)
  | 1 => some (true, true)
  | 3 => some (false, false)
  | 4 => some (false, true)
  | _ => none

/-- The sideband and supply balls of the right strip, by row from BT (Table 20.4). -/
def sideRows : List (List String) := [
  ["ALIVE", "THERMTRIP_N", "PWR_GOOD", "PERST0_N", "PERST1_N", "PPS_IN"],
  ["XTAL_32K_I", "XTAL_32K_O", "SPAN_POS0", "SPAN_POS1", "BOOT_SRC", "SMB_CLK"],
  ["SMB_DAT", "FL_CLK", "FL_CS_N", "FL_DQS", "FL_RESET_N", "TCK"],
  ["FL_DQ0", "FL_DQ1", "FL_DQ2", "FL_DQ3", "FL_DQ4", "FL_DQ5"],
  ["FL_DQ6", "FL_DQ7", "TMS", "TDI", "TDO", "TRST_N"],
  ["CORE_VSEL0", "CORE_VSEL1", "CORE_VSEL2", "CORE_VSEL3", "CORE_VSEL_EN"],
  ["CORE_SENSE_P", "CORE_SENSE_N", "SRAM_SENSE_P", "SRAM_SENSE_N"] ]

/-- The right strip from row BT, index 53 (R410). -/
def sideBall (i c : Nat) : BallUse :=
  if i < 60 then (match ((sideRows[i - 53]?).getD [])[c]? with
    | some n => .sideband n
    | none => .vss)
  else if i < 62 || (i = 62 && c < 4) then .vddAo
  else if i < 66 || (i = 66 && c < 4) then .vddIo
  else if i < 74 then .reserved
  else .vss

/-- A ball of the left strip, column 1 first, or of the right one, column 89 first (Table 20.3). -/
def stripBall (right : Bool) (i c : Nat) : BallUse :=
  match stripPair c with
  | some (tx, neg) =>
    if 17 ≤ i && i ≤ 32 then .host (b2n right) (i - 17) tx neg
    else if i = 33 && tx then .pcieRefclk (b2n right) neg
    else if 34 ≤ i && i ≤ 50 then .span (b2n right) (i - 34) tx neg
    else if !right && 52 ≤ i && i ≤ 68 then .span 2 (i - 52) tx neg
    else if !right && (i = 70 || i = 72) then .refclkFab (i - 70 + b2n (!tx)) neg
    else if right && 53 ≤ i then sideBall i c
    else .vss
  | none => if right && 53 ≤ i then sideBall i c else .vss

/-- The use of the ball at row `i` and column `j`, both from 1 to 94 (R407 to R410). -/
def ballUse (i j : Nat) : BallUse :=
  let odd := decide ((i + j) % 2 = 1)
  if i ≤ 16 || 79 ≤ i then
    match fabricBall i j with
    | some u => u
    | none =>
      if 39 ≤ j && j ≤ 56 then (if odd then .vdda09 else .vss)
      else if j ≤ 6 || 89 ≤ j then (if odd then .vdda12 else .vss)
      else .vss
  else if j ≤ 6 then stripBall false i (j - 1)
  else if 89 ≤ j then stripBall true i (j - 89)
  else if !odd then .vss
  else if j ≤ 10 || 85 ≤ j then .vddSram
  else .vddCore

/-! ### Signals (R411) -/

/-- The direction of a signal. -/
inductive SigDir where
  | input | output | both
deriving DecidableEq, Repr

/-- The pull of a signal. -/
inductive Pull where
  | none | up | down
deriving DecidableEq, Repr

/-- A single-ended signal (Table 20.5): open drain, and driven or not up to its tolerance while its supply is off. -/
structure Signal where
  name      : String
  dir       : SigDir
  pull      : Pull
  openDrain : Bool
  failSafe  : Bool
deriving DecidableEq, Repr

/-- The signals of Table 20.5. -/
def signals : List Signal := [
  ⟨"PWR_GOOD", .input, .down, false, true⟩, ⟨"PERST0_N", .input, .none, false, true⟩, ⟨"PERST1_N", .input, .none, false, true⟩,
  ⟨"ALIVE", .output, .none, false, false⟩, ⟨"THERMTRIP_N", .output, .none, true, false⟩, ⟨"PPS_IN", .input, .down, false, false⟩,
  ⟨"XTAL_32K_I", .input, .none, false, false⟩, ⟨"XTAL_32K_O", .output, .none, false, false⟩,
  ⟨"SPAN_POS0", .input, .down, false, false⟩, ⟨"SPAN_POS1", .input, .down, false, false⟩, ⟨"BOOT_SRC", .input, .down, false, false⟩,
  ⟨"SMB_CLK", .both, .none, true, true⟩, ⟨"SMB_DAT", .both, .none, true, true⟩,
  ⟨"FL_CLK", .output, .none, false, false⟩, ⟨"FL_CS_N", .output, .none, false, false⟩, ⟨"FL_RESET_N", .output, .none, false, false⟩,
  ⟨"FL_DQS", .both, .none, false, false⟩, ⟨"FL_DQ", .both, .none, false, false⟩,
  ⟨"TCK", .input, .down, false, false⟩, ⟨"TMS", .input, .up, false, false⟩, ⟨"TDI", .input, .up, false, false⟩,
  ⟨"TRST_N", .input, .down, false, false⟩, ⟨"TDO", .output, .none, false, false⟩,
  ⟨"CORE_VSEL", .output, .down, false, false⟩, ⟨"CORE_VSEL_EN", .output, .down, false, false⟩ ]

/-! ### Limits and conditions (R412 to R415) -/

/-- A rail: its absolute limits in mV (Table 20.6; the minimum is below 0), its operating minimum, nominal and maximum in mV (Table
20.7; for VDD_CORE relative to the target), and its typical current, maximum current and largest step in mA (Table 20.8). -/
structure Rail where
  name   : String
  absMin : Int
  absMax : Int
  opMin  : Int
  opNom  : Int
  opMax  : Int
  typMa  : Nat
  maxMa  : Nat
  stepMa : Nat
deriving DecidableEq, Repr

/-- The rails on balls. -/
def rails : List Rail := [
  ⟨"VDD_CORE", -300, 950, -30, 0, 30, 520000, 690000, 180000⟩,
  ⟨"VDD_SRAM", -300, 950, 776, 800, 824, 60000, 85000, 25000⟩,
  ⟨"VDD_AO", -300, 950, 776, 800, 824, 500, 750, 200⟩,
  ⟨"VDDA_LANE_09", -300, 1050, 882, 900, 918, 130000, 150000, 10000⟩,
  ⟨"VDDA_LANE_12", -300, 1350, 1176, 1200, 1224, 48000, 62000, 8000⟩,
  ⟨"VDD_IO", -300, 2000, 1710, 1800, 1890, 3000, 4500, 1000⟩ ]

/-- The DC levels of VDD_IO pins in mV (R414): the least high and the greatest low input, the least hysteresis of Schmitt inputs, the
least high and greatest low output at the rated current, and the greatest open-drain low output. -/
def ioVih : Nat := 1170
def ioVil : Nat := 630
def ioHyst : Nat := 100
def ioVoh : Nat := 1350
def ioVol : Nat := 450
def ioOdVol : Nat := 400

/-- The junction temperatures of operation in °C, and the highest time average (R413). -/
def tjMin : Int := -5
def tjMax : Int := 105
def tjMean : Int := 85

/-- The power that the whole device never exceeds in W (R415). -/
def powerMax : Nat := 800

/-- The core voltage that a CORE_VSEL code asks for in mV, and the one that holds while CORE_VSEL_EN is low (R416). -/
def vselMv (en : Bool) (code : Nat) : Nat := if en then 700 + 10 * code else 750

/-! ### Ordering codes (R425) -/

/-- The ordering codes (Table 20.15), with the life-cycle code at shipment (14_start Table 14.12): 2 PROVISIONED, 3 FIELD. -/
def orderCodes : List (String × Nat) := [("LK7400-B1-LP", 2), ("LK7400-B1-LF", 3)]

end Sys2Proof.Machine
end

