-- ==== Sys2Proof/WellFormed.lean ====
section
/-! DEFINITION. Well-formed commands: every operand that names a thing of the device names one that exists, and every operand that
stands for a field of the manual fits it. The meanings do not rely on it: a command out of range has no effect, or the one that the
manual gives. -/

namespace Sys2Proof

/-- Below a bound. -/
def lt (n x : Nat) : Bool := decide (x < n)

/-- A function number (12_host R270): indices 0 to 1,024 of each host port. -/
def fnWf (x : Nat) : Bool := decide (x < 4096) && decide (x % 2048 ≤ 1024)

/-- A requester identity that Table 0.5 lists (00_scope R6): a class in [15:12] and an index in [11:0]. -/
def ridWf (x : Nat) : Bool :=
  match x / 4096 with
  | 0 => fnWf x
  | 1 => decide (x % 4096 < 4)
  | 2 => decide (x % 4096 < 4)
  | 3 => decide (x % 4096 = 0)
  | 4 => decide (x % 4096 = 0)
  | _ => false

/-- A node ID (08_routing R174): 18 bits. -/
def nodeWf (x : Nat) : Bool := decide (x < 262144)

/-- A READ_EVR count (14_start Table 14.11). -/
def count16 (x : Nat) : Bool := decide (1 ≤ x) && decide (x ≤ 16)

/-- A packet's fields fit the header of Table 3.3, and its payload its PAY_LEN. -/
def pktWf (p : Packet) : Bool :=
  nodeWf p.dstNode && nodeWf p.srcNode && lt 32 p.vl && lt 32 p.hops && lt 32 p.type && lt 8 p.tc && lt 2097152 p.dstQp
    && lt 8 p.dstGen && lt 2097152 p.srcQp && lt 8 p.srcGen && lt 16 p.flowlet && lt 16 p.cn && lt 4294967296 p.offset
    && lt 4294967296 p.msgLen && lt 4097 p.payload.length

/-- An admin command comes from a function that exists. -/
def adminWf (c : AdminCmd) : Bool := fnWf c.fn

/-- A PSN space is that of a queue pair or of a node. -/
def spaceWf : SpaceId → Bool
  | .conn q => lt 2097152 q
  | .node n => nodeWf n

/-- The identity of a message in placement. -/
def msgIdWf : MsgId → Bool
  | .send n q d _ => nodeWf n && lt 2097152 q && lt 2097152 d
  | .resp sp _ => spaceWf sp

/-- What a slice sends for. -/
def whatWf : SendWhat → Bool
  | .job q _ => lt 2097152 q
  | .resp _ => true

/-- A block has eight flits of 2-bit kinds (10_link R215). -/
def blockWf (b : Block) : Bool := b.flits.length == 8 && b.flits.all fun f => lt 4 f.kind

/-- The code groups of a symbol time: on at most sixteen data lanes. -/
def rowWf (r : List (BitVec 10)) : Bool := lt 17 r.length

/-- A block as handed over. -/
def blockRxWf : BlockRx → Bool
  | .fabric b => blockWf b
  | .span com rows => com.all rowWf && rows.all rowWf

/-- What lanes reported: lanes 0 to 3, each at most once. -/
def reportsWf (lanes : List LaneRx) : Bool := lanes.all (fun l => lt 4 l.lane) && decide (lanes.map LaneRx.lane).Nodup

/-- The rows of a credit total: three. -/
def totalWf (t : List (List (BitVec 10))) : Bool := t.length == 3 && t.all rowWf

/-- What ended a training: lanes 0 to 3 each at most once. -/
def laneEndsWf : LaneEnds → Bool
  | .fabric marks => marks.all (fun m => lt 4 m.lane) && decide (marks.map LaneMark.lane).Nodup
  | .span _ => true

/-- Where a fault found its error. -/
def detailWf : FaultDetail → Bool
  | .none => true
  | .packet p => pktWf p
  | .grain p => pktWf p
  | .ownerQp q => lt 2097152 q
  | .ownerMctx c => lt 65536 c
  | .ownerGroup g => lt 65536 g
  | .address _ => true

/-- A well-formed command. -/
def instrWf : Instr → Bool
  | .registerWrite rid _ _ _ => ridWf rid
  | .doorbellSqProducer fn _ _ _ => fnWf fn
  | .doorbellRqProducer fn _ _ _ _ => fnWf fn
  | .doorbellCqConsumer fn _ _ _ => fnWf fn
  | .doorbellCqArm fn _ _ _ => fnWf fn
  | .doorbellCqArmSolicited fn _ _ _ => fnWf fn
  | .doorbellEqConsumer fn _ _ _ => fnWf fn
  | .doorbellEqArm fn _ _ _ => fnWf fn
  | .ringApertureWrite fn _ _ => fnWf fn
  | .jobStart qp _ => (lt 2097152) qp
  | .completionWrite cq => (lt 2097152) cq
  | .cqStallTimeout cq => (lt 2097152) cq
  | .qpDrainEnd qp => (lt 2097152) qp
  | .qpDrainTimeout qp => (lt 2097152) qp
  | .cqDrainEnd cq => (lt 2097152) cq
  | .cqDrainTimeout cq => (lt 2097152) cq
  | .qpQuarantineEnd qp => (lt 2097152) qp
  | .adminSqEnable rid fn _ => ridWf rid && fnWf fn
  | .adminCqEnable rid fn _ => ridWf rid && fnWf fn
  | .adminCompletionWrite fn => fnWf fn
  | .createQp c => adminWf c
  | .modifyQp c => adminWf c
  | .queryQp c => adminWf c
  | .destroyQp c => adminWf c
  | .createCq c => adminWf c
  | .modifyCq c => adminWf c
  | .queryCq c => adminWf c
  | .destroyCq c => adminWf c
  | .createEq c => adminWf c
  | .destroyEq c => adminWf c
  | .allocHbm c => adminWf c
  | .freeHbm c => adminWf c
  | .transportPacketSend what => whatWf what
  | .transportPacketReceive p => pktWf p
  | .ackDelayExpiry sp => spaceWf sp
  | .ackReceive p => pktWf p
  | .nakReceive p => pktWf p
  | .busyBackoffExpiry sp _ => spaceWf sp
  | .retransmitTimeout sp => spaceWf sp
  | .busyLimitExpiry sp _ => spaceWf sp
  | .flowEntryRelease qp dstNode dstQp => (lt 2097152) qp && nodeWf dstNode && (lt 2097152) dstQp
  | .syncReceive p => pktWf p
  | .syncAckReceive p => pktWf p
  | .placementAbandon m => msgIdWf m
  | .createMctx c => adminWf c
  | .destroyMctx c => adminWf c
  | .queryMctx c => adminWf c
  | .postRecv c _ => adminWf c
  | .cancelRecv c => adminWf c
  | .probe c => adminWf c
  | .gateHoldExpiry srcNode srcQp dstQp _ => nodeWf srcNode && (lt 2097152) srcQp && (lt 2097152) dstQp
  | .gateEntryRelease srcNode srcQp dstQp => nodeWf srcNode && (lt 2097152) srcQp && (lt 2097152) dstQp
  | .rendezvousGetIssue _ => true
  | .spillRestore slice => (lt 4) slice
  | .openWindow c => adminWf c
  | .revokeWindow c => adminWf c
  | .revokeComplete window => (lt 16777216) window
  | .queryWindow c => adminWf c
  | .windowQuarantineEnd window => (lt 16777216) window
  | .hostAtomicopComplete _ _ _ => true
  | .hostReadComplete _ _ _ => true
  | .hostCompletionTimeout _ => true
  | .createGroup c _ => adminWf c
  | .destroyGroup c => adminWf c
  | .groupDestroyComplete group => (lt 65536) group
  | .queryGroup c => adminWf c
  | .groupQuarantineEnd group => (lt 65536) group
  | .joinIntervalExpiry group => (lt 65536) group
  | .collUpReceive ingress p => (lt 71) ingress && pktWf p
  | .collDownReceive ingress p => (lt 71) ingress && pktWf p
  | .collCredit ingress p => (lt 71) ingress && pktWf p
  | .collAbort ingress p => (lt 71) ingress && pktWf p
  | .collChunkSend group _ _ => (lt 65536) group
  | .collKeepalive group => (lt 65536) group
  | .edgeTimeout group node => (lt 65536) group && nodeWf node
  | .opTimeout group => (lt 65536) group
  | .createAsid c => adminWf c
  | .modifyAsid c => adminWf c
  | .destroyAsid c => adminWf c
  | .invalidate c => adminWf c
  | .invalidateComplete asid => (lt 1048576) asid
  | .resume c => adminWf c
  | .walkStart => true
  | .walkReadComplete _ _ _ => true
  | .trapStart qp => (lt 2097152) qp
  | .markTimeout qp => (lt 2097152) qp
  | .packetInput ingress p => (lt 74) ingress && pktWf p
  | .epochFlip rid _ => ridWf rid
  | .epochFlipComplete => true
  | .routeCopy rid _ => ridWf rid
  | .routeCopyComplete => true
  | .routeShadowWrite rid _ _ => ridWf rid
  | .portRoleWrite rid port _ => ridWf rid && (lt 67) port
  | .staleLimitWrite rid _ => ridWf rid
  | .setPkeys c => adminWf c
  | .outputQueueJoin port => (lt 67) port
  | .outputSelect port => (lt 67) port
  | .injectionAdmit cls => (lt 8) cls
  | .tcsStageWrite rid _ _ => ridWf rid
  | .tcsCommit rid _ => ridWf rid
  | .commitInForce => true
  | .blockTransmit port => (lt 67) port
  | .blockReceive port rx lanes => (lt 67) port && blockRxWf rx && reportsWf lanes
  | .replayTimeout port => (lt 67) port
  | .creditFlit port _ _ => (lt 67) port
  | .init port peerPort peerNode _ _ => (lt 67) port && (lt 128) peerPort && nodeWf peerNode
  | .probeFlit port _ _ => (lt 67) port
  | .probeEcho port _ _ => (lt 67) port
  | .changeReq port _ op _ peerPort _ _ => (lt 67) port && (lt 16) op && (lt 128) peerPort
  | .changeAck port _ _ _ => (lt 67) port
  | .pause port _ => (lt 67) port
  | .time port _ _ _ _ _ => (lt 67) port
  | .pauseWaitExpiry port => (lt 67) port
  | .laneTrainingComplete port _ ends _ deskew => (lt 67) port && laneEndsWf ends && (lt 16) deskew
  | .changeLimitExpiry port => (lt 67) port
  | .creditTimeout port vl => (lt 67) port && (lt 32) vl
  | .graceExpiry port => (lt 67) port
  | .trainingRetry port => (lt 67) port
  | .failWindowExpiry port lane => (lt 67) port && (lt 4) lane
  | .lnkRetrain rid port => ridWf rid && (lt 67) port
  | .lnkWidthChange rid port _ => ridWf rid && (lt 67) port
  | .lnkReleaseHold rid port => ridWf rid && (lt 67) port
  | .portEnable rid port _ => ridWf rid && (lt 67) port
  | .portDisable rid port _ => ridWf rid && (lt 67) port
  | .syncIntervalTick => true
  | .laneLost port _ _ => (lt 67) port
  | .eiNextReceive port => (lt 67) port
  | .exitSignalDetect port _ => (lt 67) port
  | .crdSequence port crd vl total crc8 => (lt 67) port && rowWf crd && rowWf vl && totalWf total && rowWf crc8
  | .spanEiEntry span => (lt 3) span
  | .spanEiExit span => (lt 3) span
  | .spanSpeedWrite rid span _ => ridWf rid && (lt 3) span
  | .spanReqRead span p => (lt 3) span && pktWf p
  | .spanReqWrite span p => (lt 3) span && pktWf p
  | .spanReqAtomic span p => (lt 3) span && pktWf p
  | .notice span p => (lt 3) span && pktWf p
  | .spanResp span p => (lt 3) span && pktWf p
  | .spanReqTimeout span _ => (lt 3) span
  | .noticeResend span => (lt 3) span
  | .cellClaim rid _ _ _ => ridWf rid
  | .cellRelease rid _ _ _ => ridWf rid
  | .cellForce rid _ _ _ => ridWf rid
  | .cellAtomicop rid _ _ => ridWf rid
  | .cellRead rid _ _ => ridWf rid
  | .functionLevelReset fn => fnWf fn
  | .d3hotToD0 fn => fnWf fn
  | .vfEnableClear host => (lt 2) host
  | .perstAssert host => (lt 2) host
  | .perstDeassert host => (lt 2) host
  | .hotReset host => (lt 2) host
  | .hostLinkDown host => (lt 2) host
  | .hostLinkChange host _ _ _ _ _ _ => (lt 2) host
  | .resetDrainEnd fn => fnWf fn
  | .resetDrainTimeout fn => fnWf fn
  | .busMasterEnableWrite fn _ => fnWf fn
  | .msixUnmask fn vec => fnWf fn && (lt 2048) vec
  | .ideIntegrityFail host stream => (lt 2) host && (lt 9) stream
  | .doeRequest host _ _ => (lt 2) host
  | .doeAbort host => (lt 2) host
  | .ircSourceRise source => (lt 640) source
  | .ircWindowEnd target => (lt 6) target
  | .ircClaim rid target => ridWf rid && (lt 6) target
  | .ircEoi rid target _ => ridWf rid && (lt 6) target
  | .ircConfigWrite rid _ _ => ridWf rid
  | .pwrGoodRise _ _ => true
  | .flashReadComplete _ _ _ => true
  | .flashReadTimeout _ _ => true
  | .bootDone => true
  | .mctpControl _ => true
  | .getVersion _ => true
  | .getCapabilities _ => true
  | .negotiateAlgorithms _ => true
  | .getDigests _ => true
  | .getCertificate _ _ _ _ => true
  | .challenge _ _ => true
  | .getMeasurements _ _ _ => true
  | .keyExchange _ _ => true
  | .finish _ _ => true
  | .endSession _ _ => true
  | .heartbeat _ _ => true
  | .keyUpdate _ _ => true
  | .vendorDefinedRequest _ _ stream => (lt 9) stream
  | .chunkSend _ _ _ _ => true
  | .chunkGet _ _ _ => true
  | .spdmUnsupportedRequest _ _ => true
  | .getBootStat => true
  | .readEvr _ count => count16 count
  | .readFathom _ => true
  | .reset _ _ => true
  | .fwStage c _ => adminWf c
  | .fwActivate c => adminWf c
  | .fwStandbyLoaded pair _ => (lt 2) pair
  | .fwStandbyReloaded pair _ => (lt 2) pair
  | .lcAdvance c _ => adminWf c
  | .setOwnerKey c _ => adminWf c
  | .domainEnable rid dom _ => ridWf rid && (lt 93) dom
  | .domainDisable rid dom _ => ridWf rid && (lt 93) dom
  | .domainWake rid dom _ => ridWf rid && (lt 93) dom
  | .throttleWrite rid dom _ => ridWf rid && (lt 93) dom
  | .domainDrainEnd dom => (lt 93) dom
  | .domainDrainTimeout dom => (lt 93) dom
  | .domainPowerUpComplete dom => (lt 93) dom
  | .engIdleExpiry dom => (lt 93) dom
  | .sleepEntryComplete dom => (lt 93) dom
  | .portIdleExpiry port => (lt 67) port
  | .channelSample channel _ => (lt 128) channel
  | .ruleWrite rid rule _ => ridWf rid && (lt 256) rule
  | .vcoreTargetStep => true
  | .thermalTrip channel _ => (lt 128) channel
  | .clockCheck input _ _ _ => (lt 8) input
  | .clockHoldoverExpiry quadrant => (lt 4) quadrant
  | .ppsEdge => true
  | .ppsLoss => true
  | .calSetNow rid => ridWf rid
  | .calSetAtPps rid => ridWf rid
  | .lifetimeSecondSample => true
  | .lifetimeHourlyWrite => true
  | .ceOccurrence source detail => (lt 640) source && detailWf detail
  | .ucOccurrence source detail => (lt 640) source && detailWf detail
  | .ftOccurrence source => (lt 640) source
  | .ceWindowExpiry => true
  | .faultPendClear rid k _ => ridWf rid && (lt 10) k
  | .faultForce rid source _ => ridWf rid && (lt 640) source
  | .bankRepairComplete bank _ => (lt 128) bank
  | .hbmRebuildComplete iface _ => (lt 2) iface
  | .heartbeatTimeout core => (lt 4) core
  | .aliveToggle => true
  | .selftestPeriod => true
  | .sliceEnd _ => true
  | .sliceCommand rid _ => ridWf rid
  | .fullTest rid _ => ridWf rid
  | .fullTestEnd _ => true
  | .fuse rid _ => ridWf rid
  | .recordSlotWrite => true
  | .evrClear c _ => adminWf c
  | .evrClearComplete => true
  | .evrRdIdxWrite rid _ => ridWf rid
  | .snap rid _ => ridWf rid
  | .snapAtArrival => true
  | .snapComplete => true
  | .clrPorts rid _ => ridWf rid
  | .bwWindowEnd => true
  | .bwWindowWrite rid _ => ridWf rid
  | .counterValueWrite rid n _ => ridWf rid && (lt 512) n
  | .aoPowerOn => true
  | .pwrGoodFall => true
  | .closingWriteComplete => true
  | .inspectStart rid window _ => ridWf rid && (lt 6) window
  | .inspectComplete window => (lt 6) window
  | .mctxQuarantineEnd ctx => (lt 65536) ctx
  | .registerRead rid _ _ => ridWf rid
  | .hbmAccessComplete _ => true
  | .vddAoLoss => true
  | .trainingFail port => (lt 67) port
  | .bankCopyComplete bank _ => (lt 128) bank
  | .coreReloadComplete core => (lt 4) core

end Sys2Proof
end

