-- ==== Sys2Proof/Tests/Slice0.lean ====
section
/-! SUPPORT. Tests of single steps and operations against the manual's worked examples, ill-formed commands that the checks refuse, and for
every statement with hypotheses one theorem that shows values which meet them. -/

namespace Sys2Proof.Tests

open Sys2Proof Sys2Proof.Machine

set_option Elab.async false

/-! ### States and values for the tests -/

/-- A device in STAGE 6 with the domains `ds` ON and enabled, and function 0 and the physical function of host port 1 READY. -/
def upWith (ds : List Nat) : State := { State.reset with
  regs := [(R.TEN_ADMIN_SQ 0, 1), (R.TEN_ADMIN_CQ 0, 1), (R.BOOT_STAT, putF 0 F.BOOT_STAT_STAGE 6)]
    ++ ds.map (fun d => (R.PWR_DOM_CTL d, 1)) ++ ds.map (fun d => (R.PWR_DOM_STAT d, 2)),
  boot := { State.reset.boot with pwrGood := true, counted := true },
  ten.quotas := [],
  ten.fns := [(0, { fnInit with bme := true, asqProd := 1 }), (0x800, { fnInit with bme := true })] }
/-- All domains ON. -/
def up : State := upWith (List.range 93)

/-- An admin command of function 0: the eight words. -/
def cmd (w0 w1 w2 w3 w4 w5 w6 w7 : Word) : AdminCmd := { fn := 0, e := ⟨w0, w1, w2, w3, w4, w5, w6, w7⟩ }

/-- A READY queue pair of function 0 with CONNECTED peer node 5. -/
def qp0 : Qp := { qpNew (cmd 0 0 0x8700 0 0 0 0 0) 1 2 with
  st := .ready, enable := true, everReady := true, pkey := 0x8001, asid := 9, eq := 3, remote := { node := 5, qp := 8, gen := 1 }, sp := { spaceInit with rto := 1000 } }

/-- A READY CQ and an EQ of function 0. -/
def cq0 : Cq := {
  fn := 0, logSize := 4, eq := 3, asid := 9, base := 0x10000, stallMs := 0, slot := 3, st := .ready, enable := true,
  prod := 0, cons := 0, arm := .none, quals := [], waiting := [], stallAt := none, drainAt := none }
def eq0 : Eq := {
  fn := 0, logSize := 4, vector := 1, asid := 9, base := 0x20000, slot := 4, prod := 0, cons := 0, armed := false,
  raised := none, lost := 0, waiting := [] }

/-- `up` with a queue pair, a CQ, an EQ and an address space of function 0 with its pages cached. -/
def upq : State := { up with
  ten.fns := [(0, { fnInit with bme := true, asqProd := 1, keys := [0x8001], slots := [(2, .qp 0), (3, .cq 0), (4, .eq 3)] }), (0x800, { fnInit with bme := true })],
  ten.qps := [(0, qp0)], ten.cqs := [(0, cq0)], ten.eqs := [(3, eq0)], ten.gens := [(0, 1)],
  xlt.asids := [(9, { root := 0x1000, owner := 0, grant := 0 })],
  xlt.tlb := [{ asid := 9, page := 0x10, size := 0, w := true, attr := 0, a := true, d := true, dev := false, bus := 0x90000 },
    { asid := 9, page := 0x20, size := 0, w := true, attr := 0, a := true, d := true, dev := false, bus := 0x91000 },
    { asid := 9, page := 0, size := 0, w := true, attr := 0, a := true, d := true, dev := false, bus := 0x92000 }] }
/-- `upq` with few domains, which the kernel reads faster. -/
def upi : State := { upq with regs := (upWith [64, 65, 81, 91, 92]).regs }
def upv (f : Qp → Qp) : State := { upq with ten.qps := [(0, f qp0)] }
def upc (f : Cq → Cq) : State := { upq with ten.cqs := [(0, f cq0)] }
def upe (f : Machine.Eq → Machine.Eq) : State := { upq with ten.eqs := [(3, f eq0)] }
def upfn (f : Fn → Fn) : State := upq.setFn 0 (f (upq.fn 0))
/-- A doorbell word. -/
def db (type obj count : Nat) : Word := w64 (type * 2 ^ 61 + obj * 2 ^ 36 + count)

/-- A PUT packet from queue pair 8 of node 5 to queue pair 0. -/
def pk0 : Packet := {
  dstNode := 0, srcNode := 5, vl := 0, hops := 1, age := 0, type := 3, tc := 0, dstQp := 0, dstGen := 1, srcQp := 8, srcGen := 1,
  node := false, ord := false, ackReq := false, solicit := false, retx := false, flowNew := false, psn := 0, msn := 0, pkey := 0x8001,
  flowlet := 0, cn := 0, offset := 0, msgLen := 4, w4 := 0, w5 := 0x200000000 ||| (4 : BitVec 64) <<< 40, w6 := 0, inc := 0, hcrc := 0, payload := [1, 2, 3, 4] }

/-- A running PUT_INLINE job of 24 bytes. -/
def job0 : Job := { jobBase 0 qp0 ⟨w64 (4 + 2 ^ 8 + 2 ^ 9 + 2 ^ 24), 77, 0, 0, 24, 0, 0, 0⟩ zeroEntry 1 with inl := List.range 24 |>.map (BitVec.ofNat 8), ord := false }

/-- A window of function 0 in HBM at generation 2. -/
def win0 : Window := { winInit with base := 0x4000, hbm := true, read := true, write := true, atomic := true, anySrc := true, anyQp := true, st := .open_, gen := 2, len := 0x1000,
                                    asid := 9, eq := 3 }
def upw : State := { upq with wins := [(4, win0)] }

/-- A packet sent and not acknowledged. -/
def sent0 : Sent := { psn := 0, hdr := pk0, owner := .job 0 0, off := 0, len := 4, marked := false, due := false, busy := none }

/-- A message in placement into a receive. -/
def buf0 : Buffer := { qp := 0, asid := 9, sges := [{ addr := 0x10000, len := 64, hbm := false }], cap := 64 }
def rcv0 : RecvTo := { kind := 1, cq := 0, cookie := 5, ring := 0, ctx := 0 }
def msg0 : Msg := {
  srcNode := 5, srcQp := 8, srcGen := 1, dstQp := 0, msn := 0, len := 8, bits := 3, ctx := 0, matched := false, rts := false, key := 0, srcOff := 0,
  tc := 0, pkey := 0x8001, solicit := false, node := false, count := 4, store := [], at_ := .placing buf0 rcv0, since := 0, holdEnd := 0, charged := false }

/-- A READY matching context of queue pair 0 at index 0. -/
def mctx0 : Mctx := { fn := 0, qp := 0, cq := 0, postMax := 4, limit := 1, st := .ready, posted := [], charge := 0, high := false, quarAt := 0 }
def upm (f : Mctx → Mctx) : State := { upq with mat.ctxs := [(0, f mctx0)] }
/-- A receive entry of 64 bytes for MATCH_BITS 3 from anyone. -/
def re0 : Words8 := { w0 := 3, w1 := 0, w2 := 55, w3 := w64 (2 ^ 39 + 2 ^ 40), w4 := 0x10000, w5 := 64, w6 := 0, w7 := 0 }
def posted0 : Posted := { e := re0, onDie := true }
def unexp0 : Msg := { msg0 with at_ := .unexpected, matched := true, count := 8 }
/-- A rendezvous fetch. -/
def fetch0 : Fetch := {
  sp := .conn 0, dst := { node := 5, qp := 8, gen := 1 }, localQp := 0, tc := 1, pkey := 0x8001, node := false, key := 0x1234, srcOff := 64, srcNode := 5,
  srcQp := 8, bits := 3, solicit := false, total := 64, want := 64, next := 0, outs := [], placed := 0, closing := .due 7, disc := false, ended := false, buf := buf0, rcv := rcv0 }
def resp0 : Resp := {
  sp := .conn 0, psn := 3, atomic := false, qp := 0, dst := { node := 5, qp := 8, gen := 1 }, node := false, tc := 0, pkey := 0x8001, mtu := 256, win := 4, base := 0x4000, len := 8, pos := 0,
  allSent := false, value := 0, ready := false, rd := none, gone := false, refused := false, rdv := none }

/-- A group at an inner vertex: its parent is node 5, its children nodes 6 and 7. -/
def edge0 (node port : Nat) (up : Bool) : Edge := {
  port := port, node := node, up := up, joined := true, sendSeq := 0, limit := 16, recvd := 0, freed := 0, granted := 16,
  sentByPeer := 0, rxDue := 1000, txDue := 500, gapDue := none, peerOp := none }
def grp0 : Group := { grpInit (some 2) with
  st := .ready, gen := 2, fn := 0, pkey := 0x8001, asid := 9, bindQp := 0, eq := 3, localN := 1, cwin := 16,
  edges := [edge0 5 1 true, edge0 6 2 false, edge0 7 3 false], staging := 3 }
def upg (f : Group → Group) : State := { upq with grps := [(0, f grp0)] }
/-- A one-chunk ALL_REDUCE. -/
def desc0 : CollDesc := { op := 3, dtype := 0, oper := 0, mode := 0, len := 8 }
def pkc (type node pass : Nat) : Packet := { pk0 with
  type := type, srcNode := node, msgLen := 8, tc := 1, w4 := collWord4 0 2 0 pass 0, w5 := descWord desc0 0, w6 := 1,
  payload := [1, 0, 0, 0, 2, 0, 0, 0] }
def chunk0 (node : Nat) : Chunk := { src := .edge node, pass := 1, idx := 0, bytes := [1, 0, 0, 0, 2, 0, 0, 0], count := 1, next := false, desc := desc0, put := [], used := false }

/-- `upq` with fabric ports 1 and 2 in row 1, UP on all lanes, and a route to node 5 over both. -/
def upr : State := ((((((upq.wrF (R.RTE_PORT_ROLE 1) F.RTE_PORT_ROLE_ROLE 1).wrF (R.RTE_PORT_ROLE 2) F.RTE_PORT_ROLE_ROLE 1).wr (R.RTE_TBL_ACT 4101 0) 0x301302).wrF (R.LNK_STATE 1) F.LNK_STATE_STATE 3).wrF (R.LNK_STATE 2) F.LNK_STATE_STATE 3).wrF (R.LNK_STATE 1) F.LNK_STATE_ACTIVE 15).wrF (R.LNK_STATE 2) F.LNK_STATE_ACTIVE 15
/-- A packet for node 5 with its HCRC. -/
def hc (p : Packet) : Packet := { p with hcrc := hcrcOf p }
def bp0 : BPkt := { pkt := hc { pk0 with dstNode := 5, srcNode := 0 }, ingress := 70, egress := 2, arr := 0, age := 0, grains := 2, bank := 0, pool := true, cls := 0, lane := 0, phase0 := 0 }
/-- An image whose keys hash to what `btk` holds. -/
def img0 : Image := {
  magicFormatOk := true, version := 0x10, svn := 2, raiseSvn := true, count := 3,
  components := [3, 4, 5].map fun c => { code := c, inSlot := true, len := 64, listed := 0x77, computed := 0x77 },
  manifest := 5, beniusKey := 7, beniusSig := 1, ownerKey := 9, ownerSig := 1 }
def dir0 : Directory := {
  magic := 0x4C4B4452, format := 1, prefer := 1, slotA := (0x2000, 0x1000), slotB := (0x4000, 0x1000), config := (0x6000, 0x1000), crcOk := true }
def blob0 : Blob := {
  magicFormatOk := true, lengthFits := true, count := 1, version := 3, listed := 6, computed := 6, hdrDigest := 8, ownerKey := 9, ownerSig := 1,
  sections := [{ type := 1, wellFormed := true, ws := [w64 (7 + 2 ^ 18 + 20 * 2 ^ 26)] }] }
/-- A device in production with an owner, whose fuses hold the hashes of the keys 7 and 9. -/
def btk : State := { up with
  boot.lc := 3, boot.lcNext := 3, boot.ownerFused := true, boot.beniusHash := Config.sha384 (keyBytes 7), boot.ownerHash := Config.sha384 (keyBytes 9), boot.idCert := true }
/-- The voltage channels within their limits. -/
def rails (s : State) : State := (List.range 31).foldl (fun s i => s.wrF (R.FTH_CHAN (64 + i)) F.FTH_CHAN_FILTERED (((s.railLimits (64 + i)).1 + 10) * 32)) s
/-- The conditions of self-test hold: clocks good, rails at their nominal values, every kind enabled. -/
def stb : State :=
  ((List.range 31).foldl (fun s i => s.wrF (R.FTH_CHAN (64 + i)) F.FTH_CHAN_FILTERED (s.nominal (64 + i) * 32)) (((upWith [64, 65, 81, 87, 88, 89, 90, 91, 92]).wr R.PWR_CLK_STAT 0xFF).wr R.STC_CTL 0xFFFFF)).wrF
    (R.FTH_CHAN 95) F.FTH_CHAN_FILTERED 38400
/-- The row, indices and offset that the register table has at an offset. -/
def rowOf (off : Nat) : RegRow × Nat × Nat := (findReg off).getD (⟨0, 0, 0, 0, 0, .fixed 0, []⟩, 0, 0)
/-- An idle flit, and a block of flits with its CRC. -/
def idl : Flit := ⟨0, words8 []⟩
def blk (fs : List Flit) (bsn : BitVec 12) : Block :=
  { flits := fs, trl := { bsn := bsn, fmt := true, nak := false, body := 0, lpar := 0 }, crc := blockCrc fs { bsn := bsn, fmt := true, nak := false, body := 0, lpar := 0 } }
theorem succ_ne (x : BitVec 32) : x + 1 ≠ x := by bv_omega
/-- What a check of a list's elements says of each. -/
theorem all_of {α : Type} {l : List α} {P : α → Prop} [DecidablePred P] (h : (l.all fun k => decide (P k)) = true) : ∀ k ∈ l, P k :=
  fun k hk => of_decide_eq_true (List.all_eq_true.1 h k hk)
/-- The outcome is a next state. -/
def ran (o : Host.Outcome State Fault Refusal) : Bool :=
  match o with
  | .next _ => true
  | _ => false
theorem next_of {o : Host.Outcome State Fault Refusal} (h : ran o = true) : o = .next (nextOr o up) := by
  cases o <;> first | rfl | cases h
theorem img0_ok (hv : ∀ k d g, Config.ecdsaVerify k d g = true) (s : State) (hk : s.boot.beniusHash = Config.sha384 (keyBytes 7))
    (ho : s.boot.ownerHash = Config.sha384 (keyBytes 9)) (hs : s.boot.svnMin ≤ 2) (codes : List Nat) : s.imageReason img0 codes = none := by
  have hs' : ¬ 2 < s.boot.svnMin := Nat.not_lt.2 hs
  simp [State.imageReason, img0, imgCoded, State.ownerOk, hv, hk, ho, hs']
theorem blob_ok (hv : ∀ k d g, Config.ecdsaVerify k d g = true) (s : State) (ho : s.boot.ownerHash = Config.sha384 (keyBytes 9)) (b : Blob)
    (h1 : (b.magicFormatOk && b.lengthFits) = true) (h2 : (b.listed != b.computed) = false) (h3 : b.ownerKey = 9)
    (h4 : (b.count == b.sections.length && decide (1 ≤ b.count) && decide (b.count ≤ 4096) && b.sections.all sectionOk) = true)
    (h5 : identityFirst b.sections = true)
    (h6 : (b.sections.all fun x => x.type != 2 || (pairs x.ws).all fun p => (blobReg p.1.toNat).isSome) = true) : s.blobReason b = none := by
  simp only [State.blobReason, State.ownerOk, h1, h2, h3, h4, h5, h6, hv, ho]
  simp
theorem token_ok (hv : ∀ k d g, Config.ecdsaVerify k d g = true) (s : State) (d : Nat) :
    s.lcToken d { body := ⟨w64 d, s.devId, 0, 0, 0, 0, 0, 0⟩, sig := 1 } = true := by
  simp [State.lcToken, tokenBenius, hv]
theorem clear_ok (hv : ∀ k d g, Config.ecdsaVerify k d g = true) (s : State) :
    clearTokenOk s { body := ⟨w64 s.evr.era.toNat, s.devId, 0x4C4B4552, 0, 0, 0, 0, 0⟩, sig := 1 } = true := by
  simp [clearTokenOk, tokenBenius, hv]
theorem rail_ok (hb : Config.vddHbm = 1200) (s : State) (h : ∀ i, i < 31 → s.railOk (64 + i) = true)
    (h5 : s.rdF (R.FTH_CHAN 95) F.FTH_CHAN_FILTERED = 38400) (hc : ((List.range 4).find? fun q => !bitAt (s.rd R.PWR_CLK_STAT) q) = none)
    (hg : s.pwr.guard = false) : s.stCause = none := by
  have h31 : s.railOk 95 = true := by simp [State.railOk, State.nominal, hb, h5]
  have : ((List.range 32).find? fun i => !s.railOk (64 + i)) = none := by
    rw [List.find?_eq_none]
    intro i hi
    have hi := List.mem_range.1 hi
    by_cases e : i < 31
    · simp [h i e]
    · have : i = 31 := by omega
      subst this; simp [h31]
  simp [State.stCause, hc, this, hg]

/-! ### Worked examples of the manual, and check values of its codes -/

/-- 13_semaphore Table 13.5: cell 0x0283, free, under virtual function 5 with the rights of group 5. -/
def lockS (w : Word) : State := { (upi.wr (R.SEM_GRP 5) (putF (putF (putF (putF 0 F.SEM_GRP_USER 5) F.SEM_GRP_USER_EN 1) F.SEM_GRP_SUPER_EN 1) F.SEM_GRP_PF 1)) with
  sem.cells := [(0x283, w)], ten.fns := [(0, { fnInit with bme := true }), (5, { fnInit with bme := true })] }
/-- The Swap grants the CLAIM: SEQ 0x43, owner and origin 5. -/
theorem test_cell_claim : (nextOr (exec (.cellAtomicop 5 0x1418 (.wide 0x1A2C0000)) (lockS 0x000500051A2B0210)) up).cell 0x283 = 0x000500051A2C0219 := by
  decide +kernel
/-- The reset of the holder orphans the cell. -/
theorem test_cell_orphan : (nextOr (exec (.functionLevelReset 5) (lockS 0x000500051A2C0219)) up).cell 0x283 = 0x000500051A2C021B := by decide +kernel
/-- The new guest's RELEASE of an orphan is not performed. -/
theorem test_cell_release_orphan :
    (nextOr (exec (.cellRelease 5 0x1418 8 0x1A2C0001) (lockS 0x000500051A2C021B)) up).cell 0x283 = 0x000500051A2C021B := by decide +kernel
/-- The supervisor's FORCE. -/
theorem test_cell_force : (nextOr (exec (.cellForce 0 0x1418 8 2) (lockS 0x000500051A2C021B)) up).cell 0x283 = 0x000500051A2C021C := by decide +kernel

/-- 06_collectives Table 6.8: the exponent codes of 2^53 and 1.0, their slices, the root's result, and the sum in FIXED order. -/
theorem test_slice_codes : (expCode true 0x4340000000000000, expCode true 0x3FF0000000000000) = (0x0482, 0x044D) := by decide +kernel
theorem test_slices : (slicesOf true 0x0482 0x4340000000000000, slicesOf true 0x0482 0x3FF0000000000000, slicesOf true 0x0482 0xC340000000000000) =
    ((4398046511104, 0, 0), (0, 4294967296, 0), (-4398046511104, 0, 0)) := by decide +kernel
theorem test_slice_result : sliceResult true 0x0482 0 4294967296 0 = 0x3FF0000000000000 := by decide +kernel
theorem test_fixed_sum : fpAdd true (fpAdd true 0x4340000000000000 0x3FF0000000000000) 0xC340000000000000 = 0 := by decide +kernel

/-- 08_routing Table 8.11: candidates 1, 2 and 6 of league entry 57, their queues in TC 2, and their scores under CN_LAST 3. -/
def routeS : State := { ((upq.wrF R.RTE_NODE F.RTE_NODE_NODE_ID 0x1C2A).wr (R.RTE_TBL_ACT 57 0) 0x040440640340180A).wr (R.RTE_TBL_ACT 57 1) 0x000000029028F28E with
  ten.qps := [(0, { qp0 with sp := { qp0.sp with cnLast := 3 } })],
  rte.queues := [(1 * 32 + 8, List.replicate 60 { bp0 with pkt := { pk0 with payload := [] } }),
    (3 * 32 + 8, List.replicate 20 { bp0 with pkt := { pk0 with payload := [] } })] }
def routeP : Packet := { pk0 with dstNode := 0x0E40, srcNode := 0x1C2A, srcQp := 0, tc := 2 }
theorem test_scores : ((routeS.cands (routeS.routeEntry 0x0E40)).map fun c => (c.port, c.nonmin, c.weight)) =
      [(10, false, 8), (1, false, 4), (3, false, 4), (6, false, 4), (4, false, 4), (14, true, 2), (15, true, 2), (16, true, 2)] ∧
    (((routeS.cands 57).filter fun c => c.i = 1 ∨ c.i = 2 ∨ c.i = 6).map (routeS.scoreOf 67 routeP)) = [1008, 848, 1024] := by decide +kernel

/-- 07_address Table 7.7: the indices of the second page. -/
theorem test_walk_indices : ([4, 3, 2, 1].map fun l => walkIdx 0x7F3A4C216 l) = [254, 233, 97, 22] := by decide +kernel

/-- 21_registers Table 21.4: the first snapshot of the context for peer 0x2371. -/
def snapS : State := { upq with
  now := 3900
  ft := 0x0F0000000000 + 3900
  tra.nodes := [(0x2371, { npInit with
    st := .active
    peerInc := 0x2A
    syncId := 7
    ownSync := 0x11
    sp := { spaceInit with
      sendNext := 0x3A13
      sendUna := 0x3A10
      recvE := 0x51C0
      rto := 20000
      deadline := some 20000
      sent := [{ sent0 with psn := 0x3A10 }, { sent0 with psn := 0x3A11 }, { sent0 with psn := 0x3A12, marked := true }] } })] }
theorem test_node_snapshot : (snapS.snapNode 0x2371).take 5 =
    [0x0000110007002A02, 0x0000003A10003A13, 0x00000000140051C0, 0x00000F0000004E20, 4] := by decide +kernel

/-- 00_scope: virtual function 37 on H1 is identity 0x0825. -/
theorem test_identity : (ridClass 0x0825, fnPort (0x0825 % 4096), 0x0825 % 2048) = (0, 1, 37) := by decide +kernel

/-- 19_performance Table 19.4: CNT_SEL of counters 0 to 2 select event 0x0103 of P3 in TC2 with modes THRESH, CYCLES and SUM. -/
theorem test_counter_selection : ([0x9000040004030103, 0xB000000004030103, 0xA000000004030103].map fun w =>
    (getF w F.CNT_SEL_ENABLE, getF w F.CNT_SEL_MODE, getF w F.CNT_SEL_EVENT, getF w F.CNT_SEL_UNIT, getF w F.CNT_SEL_TC_MASK)) =
    [(1, 1, 0x103, 3, 4), (1, 3, 0x103, 3, 4), (1, 2, 0x103, 3, 4)] ∧
    (selAdds 0x9000040004030103 0x103 3 2 true 1024, selAdds 0x9000040004030103 0x103 3 2 true 1025) = (0, 1) := by decide +kernel

/-- The codes of the manual over the nine digits "123456789", whose remainders are widely published: CRC-32C E3069283, CRC-32 CBF43926,
CRC-8 with polynomial 07 F4. -/
theorem test_crcs : let d := (List.range 9).map fun i => BitVec.ofNat 8 (0x31 + i)
    (crc32c d, crc32 d, crc8 d) = (0xE3069283, 0xCBF43926, 0xF4) := by decide +kernel

/-! ### Steps -/

/-- An idle step lets a nanosecond pass. -/
theorem test_idle : (nextOr (step State.reset) up).now = State.reset.now + 1 := by decide +kernel
/-- A step takes the front command and leaves the rest. -/
theorem test_front : (nextOr (step { upi with pending := [.ircSourceRise 3, .bootDone] }) up).pending = [.bootDone] := by decide +kernel
/-- No word spells a command: the table's rows give no bits. -/
theorem test_no_words : decodeTableWord 64 0 = none ∧ State.reset.withFetchWord 64 0 = State.reset := ⟨rfl, rfl⟩
/-- What stands at reset meets the invariant. -/
theorem test_reset_inv : Inv State.reset := ⟨by decide +kernel, by decide +kernel, ⟨by decide +kernel, by decide +kernel⟩⟩

/-- 02_queues, the malformed entry in mid-ring: slots 40 and 41 are one malformed run, slot 42 a job, and slot 43 a run of one entry. -/
def ring0 : List Words8 := [⟨w64 (1 + 2 ^ 8 + 2 * 2 ^ 24), 40, 0, 0, 0, 0, 0, 0⟩, ⟨w64 (3 + 2 ^ 9), 0, 0, 0, 0, 0, 0, 0⟩,
  ⟨w64 (4 + 2 ^ 8 + 2 ^ 9 + 2 ^ 11 + 2 ^ 24 + 8 * 2 ^ 32), 42, 0, 0, 8, 0, 0, 0⟩, ⟨w64 1, 0, 0, 0, 0, 0, 0, 0⟩, ⟨w64 (3 + 2 ^ 8 + 2 ^ 24), 44, 0, 0, 0, 0, 0, 0⟩]
theorem test_malformed_run : (match parseJob qp0 40 ring0 with | .run n => n | _ => 0) = 2 ∧
    (match parseJob qp0 42 (ring0.drop 2) with | .job j => j.inl.length | _ => 0) = 8 ∧
    (match parseJob qp0 43 (ring0.drop 3) with | .run n => n | _ => 0) = 1 := by decide +kernel

/-- 20_package R408: the balls of lanes 77 and 130. -/
theorem test_lane_balls :
    [(2, 83), (2, 84), (10, 83), (10, 84), (93, 11), (93, 12), (85, 11), (85, 12)].map (fun p : Nat × Nat => (ballName p.1 p.2, ballUse p.1 p.2)) =
      [("B83", .fabric 77 true false), ("B84", .fabric 77 true true), ("K83", .fabric 77 false false), ("K84", .fabric 77 false true),
       ("DV11", .fabric 130 true false), ("DV12", .fabric 130 true true), ("DJ11", .fabric 130 false false),
       ("DJ12", .fabric 130 false true)] := by decide +kernel

/-! ### Well-formed commands -/

/-- Commands with one operand out of its range each, for every check of every command. -/
theorem test_ill_formed_refused_0 : ((
  [.registerWrite 65536 0 0 0, .doorbellSqProducer 4096 0 0 0, .doorbellRqProducer 4096 0 0 0 (.failed 6), .doorbellCqConsumer 4096 0 0 0,
   .doorbellCqArm 4096 0 0 0, .doorbellCqArmSolicited 4096 0 0 0, .doorbellEqConsumer 4096 0 0 0, .doorbellEqArm 4096 0 0 0,
   .ringApertureWrite 4096 0 [], .jobStart 2097152 (.failed 6), .completionWrite 2097152, .cqStallTimeout 2097152, .qpDrainEnd 2097152,
   .qpDrainTimeout 2097152, .cqDrainEnd 2097152, .cqDrainTimeout 2097152, .qpQuarantineEnd 2097152, .adminSqEnable 65536 0 0,
   .adminSqEnable 0 4096 0, .adminCqEnable 65536 0 0, .adminCqEnable 0 4096 0, .adminCompletionWrite 4096,
   .createQp { cmd 0 0 0 0 0 0 0 0 with fn := 1025 }, .modifyQp { cmd 0 0 0 0 0 0 0 0 with fn := 1025 },
   .queryQp { cmd 0 0 0 0 0 0 0 0 with fn := 1025 }, .destroyQp { cmd 0 0 0 0 0 0 0 0 with fn := 1025 },
   .createCq { cmd 0 0 0 0 0 0 0 0 with fn := 1025 }, .modifyCq { cmd 0 0 0 0 0 0 0 0 with fn := 1025 },
   .queryCq { cmd 0 0 0 0 0 0 0 0 with fn := 1025 }, .destroyCq { cmd 0 0 0 0 0 0 0 0 with fn := 1025 },
   .createEq { cmd 0 0 0 0 0 0 0 0 with fn := 1025 }, .destroyEq { cmd 0 0 0 0 0 0 0 0 with fn := 1025 },
   .allocHbm { cmd 0 0 0 0 0 0 0 0 with fn := 1025 }, .freeHbm { cmd 0 0 0 0 0 0 0 0 with fn := 1025 },
   .transportPacketSend (.job 2097152 0), .transportPacketReceive { pk0 with vl := 32 }, .ackDelayExpiry (.conn 2097152),
   .ackReceive { pk0 with hops := 32 }, .nakReceive { pk0 with type := 32 }, .busyBackoffExpiry (.conn 2097152) 0] : List Instr).all fun i => !instrWf i) = true := by decide +kernel
theorem test_ill_formed_refused_1 : ((
  [.retransmitTimeout (.conn 2097152), .busyLimitExpiry (.conn 2097152) 0, .flowEntryRelease 2097152 0 0, .flowEntryRelease 0 262144 0,
   .flowEntryRelease 0 0 2097152, .syncReceive { pk0 with tc := 8 }, .syncAckReceive { pk0 with dstQp := 2097152 },
   .placementAbandon (.send 262144 0 0 0), .createMctx { cmd 0 0 0 0 0 0 0 0 with fn := 1025 },
   .destroyMctx { cmd 0 0 0 0 0 0 0 0 with fn := 1025 }, .queryMctx { cmd 0 0 0 0 0 0 0 0 with fn := 1025 },
   .postRecv { cmd 0 0 0 0 0 0 0 0 with fn := 1025 } (.failed 6), .cancelRecv { cmd 0 0 0 0 0 0 0 0 with fn := 1025 },
   .probe { cmd 0 0 0 0 0 0 0 0 with fn := 1025 }, .gateHoldExpiry 262144 0 0 0, .gateHoldExpiry 0 2097152 0 0,
   .gateHoldExpiry 0 0 2097152 0, .gateEntryRelease 262144 0 0, .gateEntryRelease 0 2097152 0, .gateEntryRelease 0 0 2097152,
   .spillRestore 4, .openWindow { cmd 0 0 0 0 0 0 0 0 with fn := 1025 }, .revokeWindow { cmd 0 0 0 0 0 0 0 0 with fn := 1025 },
   .revokeComplete 16777216, .queryWindow { cmd 0 0 0 0 0 0 0 0 with fn := 1025 }, .windowQuarantineEnd 16777216,
   .createGroup { cmd 0 0 0 0 0 0 0 0 with fn := 1025 } (.failed 6), .destroyGroup { cmd 0 0 0 0 0 0 0 0 with fn := 1025 },
   .groupDestroyComplete 65536, .queryGroup { cmd 0 0 0 0 0 0 0 0 with fn := 1025 }, .groupQuarantineEnd 65536, .joinIntervalExpiry 65536,
   .collUpReceive 71 pk0, .collUpReceive 0 { pk0 with dstGen := 8 }, .collDownReceive 71 pk0,
   .collDownReceive 0 { pk0 with srcQp := 2097152 }, .collCredit 71 pk0, .collCredit 0 { pk0 with srcGen := 8 }, .collAbort 71 pk0,
   .collAbort 0 { pk0 with flowlet := 16 }] : List Instr).all fun i => !instrWf i) = true := by decide +kernel
theorem test_ill_formed_refused_2 : ((
  [.collChunkSend 65536 false 0, .collKeepalive 65536, .edgeTimeout 65536 0, .edgeTimeout 0 262144, .opTimeout 65536,
   .createAsid { cmd 0 0 0 0 0 0 0 0 with fn := 1025 }, .modifyAsid { cmd 0 0 0 0 0 0 0 0 with fn := 1025 },
   .destroyAsid { cmd 0 0 0 0 0 0 0 0 with fn := 1025 }, .invalidate { cmd 0 0 0 0 0 0 0 0 with fn := 1025 }, .invalidateComplete 1048576,
   .resume { cmd 0 0 0 0 0 0 0 0 with fn := 1025 }, .trapStart 2097152, .markTimeout 2097152, .packetInput 74 pk0,
   .packetInput 0 { pk0 with cn := 16 }, .epochFlip 65536 0, .routeCopy 65536 0, .routeShadowWrite 65536 0 0, .portRoleWrite 65536 0 0,
   .portRoleWrite 0 67 0, .staleLimitWrite 65536 0, .setPkeys { cmd 0 0 0 0 0 0 0 0 with fn := 1025 }, .outputQueueJoin 67,
   .outputSelect 67, .injectionAdmit 8, .tcsStageWrite 65536 0 0, .tcsCommit 65536 0, .blockTransmit 67,
   .blockReceive 67 (.fabric (blk (List.replicate 8 idl) 0)) [], .blockReceive 0 (.fabric (blk [] 0)) [],
   .blockReceive 0 (.fabric (blk (List.replicate 8 idl) 0)) [{ lane := 4, codewords := [], marker := none }], .replayTimeout 67,
   .creditFlit 67 false [], .init 67 0 0 0 0, .init 0 128 0 0 0, .init 0 0 262144 0 0, .probeFlit 67 0 0, .probeEcho 67 0 0,
   .changeReq 67 0 0 0 0 0 false, .changeReq 0 0 16 0 0 0 false] : List Instr).all fun i => !instrWf i) = true := by decide +kernel
theorem test_ill_formed_refused_3 : ((
  [.changeReq 0 0 0 0 128 0 false, .changeAck 67 0 0 0, .pause 67 0, .time 67 false 0 0 0 0, .pauseWaitExpiry 67,
   .laneTrainingComplete 67 0 (.span 0) 0 0, .laneTrainingComplete 0 0 (.fabric [{ lane := 4, marker := 0, skew := 0 }]) 0 0,
   .laneTrainingComplete 0 0 (.span 0) 0 16, .changeLimitExpiry 67, .creditTimeout 67 0, .creditTimeout 0 32, .graceExpiry 67,
   .trainingRetry 67, .failWindowExpiry 67 0, .failWindowExpiry 0 4, .lnkRetrain 65536 0, .lnkRetrain 0 67, .lnkWidthChange 65536 0 0,
   .lnkWidthChange 0 67 0, .lnkReleaseHold 65536 0, .lnkReleaseHold 0 67, .portEnable 65536 0 0, .portEnable 0 67 0,
   .portDisable 65536 0 0, .portDisable 0 67 0, .laneLost 67 0 false, .eiNextReceive 67, .exitSignalDetect 67 0,
   .crdSequence 67 [] [] [[], [], []] [], .crdSequence 0 (List.replicate 17 0) [] [[], [], []] [],
   .crdSequence 0 [] (List.replicate 17 0) [[], [], []] [], .crdSequence 0 [] [] [] [],
   .crdSequence 0 [] [] [[], [], []] (List.replicate 17 0), .spanEiEntry 3, .spanEiExit 3, .spanSpeedWrite 65536 0 0,
   .spanSpeedWrite 0 3 0, .spanReqRead 3 pk0, .spanReqRead 0 { pk0 with offset := 4294967296 }, .spanReqWrite 3 pk0] : List Instr).all fun i => !instrWf i) = true := by decide +kernel
theorem test_ill_formed_refused_4 : ((
  [.spanReqWrite 0 { pk0 with msgLen := 4294967296 }, .spanReqAtomic 3 pk0, .spanReqAtomic 0 { pk0 with dstNode := 262144 }, .notice 3 pk0,
   .notice 0 { pk0 with srcNode := 262144 }, .spanResp 3 pk0, .spanResp 0 { pk0 with payload := List.replicate 4097 0 },
   .spanReqTimeout 3 0, .noticeResend 3, .cellClaim 65536 0 0 0, .cellRelease 65536 0 0 0, .cellForce 65536 0 0 0,
   .cellAtomicop 65536 0 (.wide 0), .cellRead 65536 0 0, .functionLevelReset 4096, .d3hotToD0 4096, .vfEnableClear 2, .perstAssert 2,
   .perstDeassert 2, .hotReset 2, .hostLinkDown 2, .hostLinkChange 2 false 0 0 false false false, .resetDrainEnd 4096,
   .resetDrainTimeout 4096, .busMasterEnableWrite 1025 false, .msixUnmask 1025 0, .msixUnmask 0 2048, .ideIntegrityFail 2 0,
   .ideIntegrityFail 0 9, .doeRequest 2 .other 0, .doeAbort 2, .ircSourceRise 640, .ircWindowEnd 6, .ircClaim 65536 0, .ircClaim 0 6,
   .ircEoi 65536 0 0, .ircEoi 0 6 0, .ircConfigWrite 65536 0 0, .vendorDefinedRequest .mctp 0 9, .readEvr 0 17] : List Instr).all fun i => !instrWf i) = true := by decide +kernel
theorem test_ill_formed_refused_5 : ((
  [.fwStage { cmd 0 0 0 0 0 0 0 0 with fn := 1025 } (.failed 6), .fwActivate { cmd 0 0 0 0 0 0 0 0 with fn := 1025 },
   .fwStandbyLoaded 2 false, .fwStandbyReloaded 2 false, .lcAdvance { cmd 0 0 0 0 0 0 0 0 with fn := 1025 } (.failed 6),
   .setOwnerKey { cmd 0 0 0 0 0 0 0 0 with fn := 1025 } (.failed 6), .domainEnable 65536 0 0, .domainEnable 0 93 0,
   .domainDisable 65536 0 0, .domainDisable 0 93 0, .domainWake 65536 0 0, .domainWake 0 93 0, .throttleWrite 65536 0 0,
   .throttleWrite 0 93 0, .domainDrainEnd 93, .domainDrainTimeout 93, .domainPowerUpComplete 93, .engIdleExpiry 93, .sleepEntryComplete 93,
   .portIdleExpiry 67, .channelSample 128 0, .ruleWrite 65536 0 0, .ruleWrite 0 256 0, .thermalTrip 128 0, .clockCheck 8 false false false,
   .clockHoldoverExpiry 4, .calSetNow 65536, .calSetAtPps 65536, .ceOccurrence 640 .none, .ceOccurrence 0 (.ownerMctx 65536),
   .ucOccurrence 640 .none, .ucOccurrence 0 (.ownerMctx 65536), .ftOccurrence 640, .faultPendClear 65536 0 0, .faultPendClear 0 10 0,
   .faultForce 65536 0 0, .faultForce 0 640 0, .bankRepairComplete 128 0, .hbmRebuildComplete 2 0, .heartbeatTimeout 4] : List Instr).all fun i => !instrWf i) = true := by decide +kernel
theorem test_ill_formed_refused_6 : ((
  [.sliceCommand 65536 0, .fullTest 65536 0, .fuse 65536 0, .evrClear { cmd 0 0 0 0 0 0 0 0 with fn := 1025 } (.failed 6),
   .evrRdIdxWrite 65536 0, .snap 65536 0, .clrPorts 65536 0, .bwWindowWrite 65536 0, .counterValueWrite 65536 0 0,
   .counterValueWrite 0 512 0, .inspectStart 65536 0 0, .inspectStart 0 6 0, .inspectComplete 6, .mctxQuarantineEnd 65536,
   .registerRead 65536 0 0, .trainingFail 67, .bankCopyComplete 128 0, .coreReloadComplete 4] : List Instr).all fun i => !instrWf i) = true := by decide +kernel
/-- With all operands in range they are taken. -/
theorem test_well_formed_taken :
    ([.registerWrite 0 0 0 0, .doorbellSqProducer 0 0 0 0, .jobStart 0 (.failed 6), .createQp (cmd 0 0 0 0 0 0 0 0), .transportPacketSend (.resp 0), .flowEntryRelease 0 0 0, .hostReadComplete 0 .ok [], .invalidateComplete 0, .outputQueueJoin 0, .pause 0 0, .laneLost 0 0 false, .cellRelease 0 0 0 0, .ircWindowEnd 0, .getMeasurements .mctp 0 0, .fwActivate (cmd 0 0 0 0 0 0 0 0), .channelSample 0 0, .ceWindowExpiry, .evrClearComplete, .registerRead 0 0 0] : List Instr).all instrWf = true := by decide +kernel

/-! ### Witnesses of the statements -/

/-- Concrete values meet the hypotheses of every clause of `Obligations.BadAdminCommandsCompleteMalformed`, taken for DESTROY_QP and MODIFY_QP: a
reserved bit of word 0, a reserved argument bit, an unknown code, and another command's code. -/
theorem witness_BadAdminCommandsCompleteMalformed :
    (∃ s : State, ∃ c : AdminCmd, fnOk c.fn = true ∧ s.adminReady c.fn = true ∧ s.keyBusy = false ∧ s.xlt.missed = [] ∧
      (∀ d, (69 ≤ d ∧ d ≤ 78) ∨ d = 85 → s.domState d = 2) ∧ bitsOf c.e.w0 0 16 = 0x04 ∧ c.e.w0.toNat / 65536 ≠ 0) ∧
    (∃ c : AdminCmd, bitsOf c.e.w0 0 16 = 0x02 ∧
      argsOk c.e [(2, ones 0 21 + ones 32 3), (3, ones 0 42), (4, ones 0 48), (5, 0), (6, 0), (7, 0)] = false) ∧
    (∃ c : AdminCmd, adminCodes.contains (bitsOf c.e.w0 0 16) = false) ∧
    (∃ c : AdminCmd, bitsOf c.e.w0 0 16 ≠ 0x04 ∧ adminCodes.contains (bitsOf c.e.w0 0 16) = true) :=
  ⟨⟨upq, cmd 0x10004 77 0 0 0 0 0 0, by decide +kernel, by decide +kernel, by decide +kernel, by decide +kernel,
      fun d h => all_of (l := List.range 93) (P := fun d => upq.domState d = 2) (by decide +kernel) d (List.mem_range.2 (by omega)),
      by decide +kernel, by decide +kernel⟩,
    ⟨cmd 0x02 77 0 0 0 0 0 (w64 (2 ^ 63)), by decide +kernel⟩, ⟨cmd 0xFFFF 77 0 0 0 0 0 0, by decide +kernel⟩, ⟨cmd 0x63 77 0 0 0 0 0 0, by decide +kernel⟩⟩

/-- Concrete values meet the hypotheses of both clauses of `Obligations.StepRunsTheFrontCommand`. -/
theorem witness_StepRunsTheFrontCommand :
    (∃ (s : State) (c : Instr) (q : List Instr), s.pending = c :: q) ∧ (∃ s : State, s.pending = []) :=
  ⟨⟨{ up with pending := [.bootDone, .aliveToggle] }, .bootDone, [.aliveToggle], rfl⟩, ⟨State.reset, rfl⟩⟩

/-- Commands that the hypotheses of `Obligations.CommandsAnswerAndTouchOnlyTheirs` name. -/
theorem witness_CommandsAnswerAndTouchOnlyTheirs :
    (∃ c : Instr, storesHbm c = false) ∧ (∃ c : Instr, changesTcs c = false) :=
  ⟨⟨.cellClaim 5 0 8 0, rfl⟩, ⟨.aliveToggle, rfl⟩⟩

/-- A state that meets the invariant and steps on, for `Obligations.EveryStepKeepsTheInvariant` and `Obligations.EveryStepGoesOnward`. -/
theorem witness_EveryStepKeepsTheInvariant :
    ∃ s t : State, Inv s ∧ step s = .next t :=
  ⟨{ upi with pending := [.ircSourceRise 3] }, nextOr (step { upi with pending := [.ircSourceRise 3] }) up,
    ⟨by decide +kernel, by decide +kernel, ⟨by decide +kernel, by decide +kernel⟩⟩, next_of (by decide +kernel)⟩
theorem witness_EveryStepGoesOnward : ∃ s t : State, step s = .next t :=
  ⟨{ upi with pending := [.aliveToggle] }, nextOr (step { upi with pending := [.aliveToggle] }) up, next_of (by decide +kernel)⟩

/-- The first and last number of each range of `Obligations.ResetLeavesTheTabledValues`. -/
theorem witness_ResetLeavesTheTabledValues :
    (∃ d, d < 93) ∧ (∃ n, n < 640) ∧ (∃ p, p < 67) := ⟨⟨92, by decide⟩, ⟨639, by decide⟩, ⟨66, by decide⟩⟩

/-- Concrete values meet the hypotheses of every clause of `Obligations.DoorbellsAndAperturesAdvanceQueues`. -/
theorem witness_DoorbellsAndAperturesAdvanceQueues :
    (∃ (s : State) (fn : Nat) (off : Nat) (q : Nat) (w : Word) (v : Qp), Rings s fn off w 0 q ∧ 16 ≤ off ∧
      (s.fn fn).slots.get? (off / 8) = some (.qp q) ∧ s.domState (tenDom q) = 2 ∧ s.ten.qps.get? q = some v ∧ v.st ≠ .reset ∧
      (dbCount w - v.sqProd).toNat < 2 ^ 31 ∧ (dbCount w - v.sqCons).toNat ≤ 2 ^ v.sqLog) ∧
    (∃ (s : State) (fn : Nat) (off : Nat) (q : Nat) (w : Word) (v : Qp), Rings s fn off w 1 q ∧ 16 ≤ off ∧
      (s.fn fn).slots.get? (off / 8) = some (.qp q) ∧ s.domState (tenDom q) = 2 ∧ s.ten.qps.get? q = some v ∧ v.st = .init ∧
      v.noRq = false ∧ v.rqDev = true ∧ (dbCount w - v.rqProd).toNat < 2 ^ 31 ∧ (dbCount w - v.rqCons).toNat ≤ 2 ^ v.rqLog ∧
      s.rqDbHeld fn off = false ∧ s.xlt.missed = [] ∧ (∀ m ∈ s.mat.msgs, m.dstQp = q → m.at_ ≠ .held)) ∧
    (∃ (s : State) (fn : Nat) (off : Nat) (q : Nat) (w : Word) (v : Qp) (es : List Words8), Rings s fn off w 1 q ∧ 16 ≤ off ∧
      (s.fn fn).slots.get? (off / 8) = some (.qp q) ∧ s.domState (tenDom q) = 2 ∧ s.ten.qps.get? q = some v ∧ v.st = .init ∧
      v.noRq = false ∧ v.rqDev = false ∧ (dbCount w - v.rqProd).toNat < 2 ^ 31 ∧ (dbCount w - v.rqCons).toNat ≤ 2 ^ v.rqLog ∧
      s.rqDbHeld fn off = false ∧ Calm s ∧ es.length = (dbCount w - v.rqProd).toNat ∧
      RingSeen s v.asid v.rqBase v.rqLog v.rqProd es.length ∧ (∀ m ∈ s.mat.msgs, m.dstQp = q → m.at_ ≠ .held)) ∧
    (∃ (s : State) (fn : Nat) (w : Word), Rings s fn 0 w 0 0 ∧ (dbCount w - (s.fn fn).asqProd).toNat < 2 ^ 31 ∧
      (dbCount w - (s.fn fn).asqCons).toNat ≤ 2 ^ clamp 7 12 (s.rdF (R.TEN_ADMIN_SQ fn) F.TEN_ADMIN_SQ_LOG_SIZE)) ∧
    (∃ (s : State) (fn : Nat) (off : Nat) (i : Nat) (w : Word) (c : Cq), Rings s fn off w 2 i ∧ 16 ≤ off ∧
      (s.fn fn).slots.get? (off / 8) = some (.cq i) ∧ s.ten.cqs.get? i = some c ∧ (dbCount w - c.cons).toNat < 2 ^ 31 ∧
      (dbCount w - c.cons).toNat ≤ (c.prod - c.cons).toNat) ∧
    (∃ (s : State) (fn : Nat) (off : Nat) (i : Nat) (w : Word) (c : Cq), Rings s fn off w 3 i ∧ 16 ≤ off ∧
      (s.fn fn).slots.get? (off / 8) = some (.cq i) ∧ s.ten.cqs.get? i = some c ∧ (dbCount w - c.cons).toNat < 2 ^ 31 ∧
      (dbCount w - c.cons).toNat ≤ (c.prod - c.cons).toNat ∧ c.quals.drop (dbCount w - c.cons).toNat = []) ∧
    (∃ (s : State) (fn : Nat) (off : Nat) (i : Nat) (w : Word) (c : Cq), Rings s fn off w 4 i ∧ 16 ≤ off ∧
      (s.fn fn).slots.get? (off / 8) = some (.cq i) ∧ s.ten.cqs.get? i = some c ∧ (dbCount w - c.cons).toNat < 2 ^ 31 ∧
      (dbCount w - c.cons).toNat ≤ (c.prod - c.cons).toNat ∧ (∀ b ∈ c.quals.drop (dbCount w - c.cons).toNat, b = false)) ∧
    (∃ (s : State) (fn : Nat) (off : Nat) (i : Nat) (w : Word) (e : Eq), Rings s fn off w 5 i ∧ 16 ≤ off ∧
      (s.fn fn).slots.get? (off / 8) = some (.eq i) ∧ s.ten.eqs.get? i = some e ∧ e.waiting = [] ∧ e.lost = 0 ∧
      (dbCount w - e.cons).toNat < 2 ^ 31 ∧ (dbCount w - e.cons).toNat ≤ (e.prod - e.cons).toNat) ∧
    (∃ (s : State) (fn : Nat) (off : Nat) (i : Nat) (w : Word) (e : Eq), Rings s fn off w 6 i ∧ 16 ≤ off ∧
      (s.fn fn).slots.get? (off / 8) = some (.eq i) ∧ s.ten.eqs.get? i = some e ∧ e.waiting = [] ∧ e.lost = 0 ∧
      (dbCount w - e.cons).toNat < 2 ^ 31 ∧ (dbCount w - e.cons).toNat ≤ (e.prod - e.cons).toNat) ∧
    (∃ (s : State) (fn : Nat) (off : Nat) (size : Nat) (w : Word) (es : Fetched) (p : _), s.fatal = false ∧
      s.rdF R.STC_STAT F.STC_STAT_RESET_NEEDED = 0 ∧ fnOk fn = true ∧ s.domRuns (64 + fnPort fn) = true ∧ s.linkSecure fn = true ∧
      off < 0x1000000 ∧ p ∈ [(0, Instr.doorbellSqProducer fn off size w), (1, .doorbellRqProducer fn off size w es), (2,
      .doorbellCqConsumer fn off size w), (3, .doorbellCqArm fn off size w), (4, .doorbellCqArmSolicited fn off size w), (5,
      .doorbellEqConsumer fn off size w), (6, .doorbellEqArm fn off size w)] ∧ (size ≠ 8 ∨ (bitsOf w 61 3 = p.1 ∧
      (off % 8 ≠ 0 ∨ (bitsOf w 58 3 ≠ 0 ∨ (bitsOf w 32 4 ≠ 0 ∨ (16 ≤ off ∧ (s.fn fn).slots.get? (off / 8) = none))))))) ∧
    (∃ (s : State) (fn : Nat) (off : Nat) (q : Nat) (w : Word) (v : Qp), Rings s fn off w 0 q ∧ 16 ≤ off ∧
      (s.fn fn).slots.get? (off / 8) = some (.qp q) ∧ s.domState (tenDom q) = 2 ∧ s.ten.qps.get? q = some v ∧ v.st ≠ .reset ∧
      2 ^ 31 ≤ (dbCount w - v.sqProd).toNat) ∧
    (∃ (s : State) (fn : Nat) (off : Nat) (q : Nat) (w : Word) (v : Qp), Rings s fn off w 0 q ∧ 16 ≤ off ∧
      (s.fn fn).slots.get? (off / 8) = some (.qp q) ∧ s.domState (tenDom q) = 2 ∧ s.ten.qps.get? q = some v ∧ v.st ≠ .reset ∧
      (dbCount w - v.sqProd).toNat < 2 ^ 31 ∧ 2 ^ v.sqLog < (dbCount w - v.sqCons).toNat) ∧
    (∃ (s : State) (fn : Nat) (off : Nat) (i : Nat) (w : Word) (c : Cq), Rings s fn off w 2 i ∧ 16 ≤ off ∧
      (s.fn fn).slots.get? (off / 8) = some (.cq i) ∧ s.ten.cqs.get? i = some c ∧ (dbCount w - c.cons).toNat < 2 ^ 31 ∧
      (c.prod - c.cons).toNat < (dbCount w - c.cons).toNat) ∧
    (∃ (s : State) (fn : Nat) (w : Word), Rings s fn 8 w 2 0 ∧ (dbCount w - (s.fn fn).acqCons).toNat < 2 ^ 31 ∧
      ((s.fn fn).acqProd - (s.fn fn).acqCons).toNat < (dbCount w - (s.fn fn).acqCons).toNat) ∧
    (∃ (s : State) (fn : Nat) (off : Nat) (data : List Byte) (a : Alloc), memWf s.hbm = true ∧ s.fatal = false ∧ fnOk fn = true ∧
      s.domRuns (64 + fnPort fn) = true ∧ s.linkSecure fn = true ∧ (s.fn fn).drain = none ∧ 0x1000000 ≤ off ∧
      off % 4096 + data.length ≤ 4096 ∧ s.domLater 79 = false ∧ s.domLater 80 = false ∧
      ((s.ten.allocs.find? fun a => a.fn == fn && a.aper != 0 && decide (a.aper ≤ off / 4096) && decide (off / 4096 < a.aper + a.size)) = some a)) :=
  ⟨⟨(upq : State), (0 : Nat), (16 : Nat), (0 : Nat), (db 0 0 128 : Word), (qp0 : Qp), by decide +kernel⟩,
   ⟨((upv fun v => { v with st := .init, rqDev := true }) : State), (0 : Nat), (16 : Nat), (0 : Nat), (db 1 0 2 : Word),
     ({ qp0 with st := .init, rqDev := true } : Qp), by decide +kernel⟩,
   ⟨((upv fun v => { v with st := .init, rqDev := false }) : State), (0 : Nat), (16 : Nat), (0 : Nat), (db 1 0 2 : Word),
     ({ qp0 with st := .init, rqDev := false } : Qp), ([zeroEntry,zeroEntry] : List Words8), by decide +kernel⟩,
   ⟨(upq : State), (0 : Nat), (db 0 0 128 : Word), by decide +kernel⟩,
   ⟨((upc fun v => { v with prod := 5, quals := [true,false,true,true,false] }) : State), (0 : Nat), (24 : Nat), (0 : Nat),
     (db 2 0 5 : Word), ({cq0 with prod := 5, quals := [true,false,true,true,false]} : Cq), by decide +kernel⟩,
   ⟨((upc fun v => { v with prod := 5, quals := [true,false,true,true,false] }) : State), (0 : Nat), (24 : Nat), (0 : Nat),
     (db 3 0 5 : Word), ({cq0 with prod := 5, quals := [true,false,true,true,false]} : Cq), by decide +kernel⟩,
   ⟨((upc fun v => { v with prod := 5, quals := [true,false,true,true,false] }) : State), (0 : Nat), (24 : Nat), (0 : Nat),
     (db 4 0 4 : Word), ({cq0 with prod := 5, quals := [true,false,true,true,false]} : Cq), by decide +kernel⟩,
   ⟨((upe fun v => { v with prod := 2 }) : State), (0 : Nat), (32 : Nat), (3 : Nat), (db 5 3 2 : Word), ({ eq0 with prod := 2 } : Eq),
     by decide +kernel⟩,
   ⟨((upe fun v => { v with prod := 2 }) : State), (0 : Nat), (32 : Nat), (3 : Nat), (db 6 3 2 : Word), ({ eq0 with prod := 2 } : Eq),
     by decide +kernel⟩,
   ⟨(upq : State), (0 : Nat), (16 : Nat), (4 : Nat), (db 0 0 0 : Word), (.entries [] : Fetched), (0,
     Instr.doorbellSqProducer (0) (16) (4) (db 0 0 0)), by decide +kernel⟩,
   ⟨((upv fun v => { v with sqProd := 3 }) : State), (0 : Nat), (16 : Nat), (0 : Nat), (db 0 0 2 : Word), ({ qp0 with sqProd := 3 } : Qp),
     by decide +kernel⟩,
   ⟨(upq : State), (0 : Nat), (16 : Nat), (0 : Nat), (db 0 0 129 : Word), (qp0 : Qp), by decide +kernel⟩,
   ⟨((upc fun v => { v with prod := 5 }) : State), (0 : Nat), (24 : Nat), (0 : Nat), (db 2 0 6 : Word), ({cq0 with prod := 5} : Cq),
     by decide +kernel⟩,
   ⟨(upq : State), (0 : Nat), (db 2 0 1 : Word), by decide +kernel⟩,
   ⟨({ upq with ten.allocs := [{ fn := 0, off := 7, size := 2, aper := 0x1000 }] } : State), (0 : Nat), (0x1000FFE : Nat),
     ([1,2] : List Byte), ({ fn := 0, off := 7, size := 2, aper := 0x1000 } : Alloc), by decide +kernel⟩⟩

/-- Concrete values meet the hypotheses of every clause of `Obligations.JobsStartOrCompleteMalformed`. -/
theorem witness_JobsStartOrCompleteMalformed :
    (∃ (s : State) (q : Nat) (v : Qp) (f : Fetched) (es : List Words8) (j : Job), s.ten.qps.get? q = some v ∧ s.fatal = false ∧
      v.st = .ready ∧ s.domState (tenDom q) = 2 ∧ s.sqStalled q v = false ∧ v.sqProd ≠ v.sqNext ∧ SqHas s v f es ∧
      parseJob v v.sqNext es = .job j ∧ 3 ≤ j.op ∧ j.op ≤ 6 ∧ v.node = false ∧ (j.fence = true → v.jobs = []) ∧ v.pkey ∈ (s.fn v.fn).keys ∧
      (∀ g ∈ j.sges, g.hbm = false)) ∧
    (∃ (s : State) (q : Nat) (n : Nat) (v : Qp) (c : Cq) (f : Fetched) (e : Words8) (es : List Words8), s.ten.qps.get? q = some v ∧
      s.fatal = false ∧ v.st = .ready ∧ s.domState (tenDom q) = 2 ∧ s.sqStalled q v = false ∧ v.jobs = [] ∧ v.sqProd ≠ v.sqNext ∧
      SqHas s v f (e :: es) ∧ parseJob v v.sqNext (e :: es) = .run n ∧ v.uncov + n ≤ 65535 ∧ s.ten.cqs.get? v.sendCq = some c ∧
      c.st ≠ .error ∧ (s.fn c.fn).drain = none) :=
  ⟨⟨((upv fun v => { v with sqProd := 1, sqDev := false }) : State), (0 : Nat), ({ qp0 with sqProd := 1, sqDev := false } : Qp),
     (.entries [⟨w64 (3 + 2^8 + 2^9 + 2^24), 77, 0, 0, 16, 0x5000, 16, 0⟩] : Fetched), ([⟨w64 (3 + 2^8 + 2^9 + 2^24), 77, 0, 0, 16, 0x5000,
     16, 0⟩] : List Words8), (match parseJob { qp0 with sqProd := 1, sqDev := false } 0 [⟨w64 (3 + 2^8 + 2^9 + 2^24), 77, 0, 0, 16, 0x5000,
     16, 0⟩] with | .job j => j | _ => jobBase 0 qp0 zeroEntry zeroEntry 1 : Job), by decide +kernel⟩,
   ⟨((upv fun v => { v with sqProd := 2, sqDev := false }) : State), (0 : Nat), (2 : Nat), ({ qp0 with sqProd := 2, sqDev := false } : Qp),
     (cq0 : Cq), (.entries [zeroEntry, zeroEntry] : Fetched), (zeroEntry : Words8), ([zeroEntry] : List Words8), by decide +kernel⟩⟩

/-- Concrete values meet the hypotheses of every clause of `Obligations.CompletionsAreWrittenAndDrainsEnd`. -/
theorem witness_CompletionsAreWrittenAndDrainsEnd :
    (∃ (s : State) (i : Nat) (bus : Nat) (attr : Nat) (c : Cq) (e : Cqe) (rest : List Cqe), s.ten.cqs.get? i = some c ∧
      c.waiting = e :: rest ∧ s.fatal = false ∧ c.st = .ready ∧ (c.prod - c.cons).toNat < 2 ^ c.logSize ∧ s.fnReady c.fn = true ∧
      c.arm = .none ∧ (∀ p ∈ s.ten.qps, p.2.destroy = none) ∧ Calm s ∧ c.base % 4096 = 0 ∧
      s.look c.asid ((c.base + 32 * (c.prod.toNat % 2 ^ c.logSize)) / 4096) true = .ok bus attr) ∧
    (∃ (s : State) (i : Nat) (t0 : Nat) (c : Cq), s.ten.cqs.get? i = some c ∧ c.stallAt = some t0 ∧ s.fatal = false ∧ c.st = .ready ∧
      s.ten.qps = [] ∧ s.mat.ctxs = []) ∧
    (∃ (s : State) (q : Nat) (v : Qp), s.ten.qps.get? q = some v ∧ v.st = .draining ∧ s.qpIdle q v = true ∧ s.fatal = false) ∧
    (∃ (s : State) (q : Nat) (t0 : Nat) (v : Qp), s.ten.qps.get? q = some v ∧ v.st = .draining ∧ v.drainAt = some t0 ∧ s.fatal = false ∧
      v.jobs = []) ∧
    (∃ (s : State) (i : Nat) (c : Cq), s.ten.cqs.get? i = some c ∧ c.st = .draining ∧ s.fatal = false) ∧
    (∃ (s : State) (i : Nat) (t0 : Nat) (c : Cq), s.ten.cqs.get? i = some c ∧ c.st = .draining ∧ c.drainAt = some t0 ∧ s.fatal = false) :=
  ⟨⟨(((upc fun v => { v with prod := 16, cons := 1, waiting := [{ cookie := 7, bytes := 0, status := 0, qp := 0, kind := 0, info := 1, batch := false, implicit := false, solicited := false, srcValid := false, w3 := 5, frees := some (0, 1) }] }).wrF R.XLT_CTL F.XLT_CTL_PREFETCH 0) : State),
     (0 : Nat), (0x90000 : Nat), (0 : Nat),
     ({cq0 with prod := 16, cons := 1, waiting := [{ cookie := 7, bytes := 0, status := 0, qp := 0, kind := 0, info := 1, batch := false, implicit := false, solicited := false, srcValid := false, w3 := 5, frees := some (0, 1) }]} : Cq),
     ({ cookie := 7, bytes := 0, status := 0, qp := 0, kind := 0, info := 1, batch := false, implicit := false, solicited := false, srcValid := false, w3 := 5, frees := some (0, 1) } : Cqe),
     ([] : List Cqe), by decide +kernel⟩,
   ⟨({ (upc fun v => { v with prod := 16, stallAt := some 5, waiting := [{ cookie := 7, bytes := 0, status := 0, qp := 0, kind := 0, info := 1, batch := false, implicit := false, solicited := false, srcValid := false, w3 := 5, frees := some (0, 1) }] }) with ten.qps := [] } : State),
     (0 : Nat), (5 : Nat),
     ({cq0 with prod := 16, stallAt := some 5, waiting := [{ cookie := 7, bytes := 0, status := 0, qp := 0, kind := 0, info := 1, batch := false, implicit := false, solicited := false, srcValid := false, w3 := 5, frees := some (0, 1) }]} : Cq),
     by decide +kernel⟩,
   ⟨((upv fun v => { v with st := .draining, enable := true }) : State), (0 : Nat), ({ qp0 with st := .draining, enable := true } : Qp),
     by decide +kernel⟩,
   ⟨((upv fun v => { v with st := .draining, drainAt := some 5, enable := true }) : State), (0 : Nat), (5 : Nat),
     ({ qp0 with st := .draining, drainAt := some 5, enable := true } : Qp), by decide +kernel⟩,
   ⟨((upc fun v => { v with st := .draining, enable := true }) : State), (0 : Nat), ({cq0 with st := .draining, enable := true} : Cq),
     by decide +kernel⟩,
   ⟨((upc fun v => { v with st := .draining, drainAt := some 5, enable := true }) : State), (0 : Nat), (5 : Nat),
     ({cq0 with st := .draining, drainAt := some 5, enable := true} : Cq), by decide +kernel⟩⟩

/-- Concrete values meet the hypotheses of every clause of `Obligations.AdminQueuesStartAndComplete`. -/
theorem witness_AdminQueuesStartAndComplete :
    (∃ (s : State) (rid : Nat) (fn : Nat) (val : Word), s.regs.wf = true ∧ fnOk fn = true ∧ ridFull rid = true ∧ s.barOpen rid = true ∧
      s.regCause (R.TEN_ADMIN_SQ fn) = none ∧ (s.fn fn).drain = none ∧ s.rdF (R.TEN_ADMIN_SQ fn) F.TEN_ADMIN_SQ_ENABLE = 0 ∧
      getF val F.TEN_ADMIN_SQ_ENABLE = 1) ∧
    (∃ (s : State) (rid : Nat) (fn : Nat) (val : Word), s.regs.wf = true ∧ fnOk fn = true ∧ ridFull rid = true ∧ s.barOpen rid = true ∧
      s.regCause (R.TEN_ADMIN_CQ fn) = none ∧ (s.fn fn).drain = none ∧ s.rdF (R.TEN_ADMIN_CQ fn) F.TEN_ADMIN_CQ_ENABLE = 0 ∧
      getF val F.TEN_ADMIN_CQ_ENABLE = 1) ∧
    (∃ (s : State) (fn : Nat) (st : Nat) (r : CmdRef) (res : Word) (rest : List (CmdRef × Nat × Word)), (s.fn fn).acqWait = (r, st,
      res) :: rest ∧ s.fnReady fn = true ∧ s.rdF (R.TEN_ADMIN_CQ fn) F.TEN_ADMIN_CQ_ENABLE = 1 ∧
      ((s.fn fn).acqProd - (s.fn fn).acqCons).toNat < 2 ^ clamp 4 12 (s.rdF (R.TEN_ADMIN_CQ fn) F.TEN_ADMIN_CQ_LOG_SIZE)) :=
  ⟨⟨((upq.wrF (R.TEN_ADMIN_SQ 0) F.TEN_ADMIN_SQ_ENABLE 0) : State), (0x1000 : Nat), (0 : Nat), (w64 (1 + 4096 * 5 + 2 * 7) : Word),
     by decide +kernel⟩,
   ⟨((upq.wrF (R.TEN_ADMIN_CQ 0) F.TEN_ADMIN_CQ_ENABLE 0) : State), (0x1000 : Nat), (0 : Nat), (w64 (1 + 4096 * 5 + 2 * 7) : Word),
     by decide +kernel⟩,
   ⟨((upfn fun v => {v with acqWait := [({fn:=0,cookie:=5,index:=1},2,9)] }) : State), (0 : Nat), (2 : Nat),
     ({fn:=0,cookie:=5,index:=1} : CmdRef), (9 : Word), ([] : List (CmdRef × Nat × Word)), by decide +kernel⟩⟩

/-- Concrete values meet the hypotheses of every clause of `Obligations.QueuePairsAreCreatedQueriedAndDestroyed`. -/
theorem witness_QueuePairsAreCreatedQueriedAndDestroyed :
    (∃ (s : State) (c : AdminCmd) (i : Nat) (slot : Nat), s.domState (tenDom i) = 2 ∧ Takes s c 0x01 [(2, ones 0 7 + ones 8 50), (3,
      ones 0 48 + ones 63 1), (4, ones 0 64), (5, ones 0 64), (6, ones 0 21), (7, 0)] ∧
      ((if bitAt c.e.w3 63 then some (bitsOf c.e.w6 0 21) else s.pickQp) = some i) ∧ s.ten.qps.get? i = none ∧ s.qpBusy i = false ∧
      7 ≤ bitsOf c.e.w2 8 5 ∧ bitsOf c.e.w2 8 5 ≤ 16 ∧ s.granted c.fn (bitsOf c.e.w3 28 20) = true ∧
      (s.ten.cqs.get? (bitsOf c.e.w2 18 20)).map Cq.fn = some c.fn ∧ (s.ten.eqs.get? (bitsOf c.e.w3 0 12)).map Eq.fn = some c.fn ∧
      s.ringBaseOk c.fn c.e.w4 (bitAt c.e.w2 4) (64 * 2 ^ bitsOf c.e.w2 8 5) = true ∧ (bitAt c.e.w2 6 = false → (4 ≤ bitsOf c.e.w2 13 5 ∧
      (bitsOf c.e.w2 13 5 ≤ 16 ∧ ((s.ten.cqs.get? (bitsOf c.e.w2 38 20)).map Cq.fn = some c.fn ∧
      s.ringBaseOk c.fn c.e.w5 (bitAt c.e.w2 5) (64 * 2 ^ bitsOf c.e.w2 13 5) = true)))) ∧ s.freeDb c.fn = some slot ∧
      s.quotaOk c.fn .qp 1 = true) ∧
    (∃ (s : State) (c : AdminCmd) (q : Nat) (v : Qp), q = bitsOf c.e.w2 0 21 ∧ s.domState (tenDom q) = 2 ∧ Takes s c 0x03 [(2, ones 0 21),
      (3, 0), (4, 0), (5, 0), (6, 0), (7, 0)] ∧ s.ten.qps.get? q = some v ∧ v.fn = c.fn ∧ v.st ≠ .quarantine ∧ s.qpBusy q = false) ∧
    (∃ (s : State) (c : AdminCmd) (q : Nat) (v : Qp), q = bitsOf c.e.w2 0 21 ∧ s.domState (tenDom q) = 2 ∧ Takes s c 0x04 [(2, ones 0 21),
      (3, 0), (4, 0), (5, 0), (6, 0), (7, 0)] ∧ s.ten.qps.get? q = some v ∧ v.fn = c.fn ∧ v.st = .reset ∧ s.qpBusy q = false ∧ s.grps = [] ∧
      s.mat.ctxs = [] ∧ s.mat.msgs = [] ∧ s.mat.fetches = []) ∧
    (∃ (s : State) (q : Nat) (v : Qp), s.ten.qps.wf = true ∧ s.ten.qps.get? q = some v ∧ v.st = .quarantine ∧ (s.fn v.fn).drain = none ∧
      (∀ r ∈ s.tra.resps, r.2.sp ≠ .conn q)) ∧
    (∃ (s : State) (c : AdminCmd), s.adminReady c.fn = true ∧ s.qpBusy (bitsOf c.e.w2 0 21) = true ∧ bitsOf c.e.w0 0 16 = 0x02) ∧
    (∃ (s : State) (c : AdminCmd), s.adminReady c.fn = true ∧ s.qpBusy (bitsOf c.e.w2 0 21) = true ∧ bitsOf c.e.w0 0 16 = 0x03) ∧
    (∃ (s : State) (c : AdminCmd), s.adminReady c.fn = true ∧ s.qpBusy (bitsOf c.e.w2 0 21) = true ∧ bitsOf c.e.w0 0 16 = 0x04) :=
  ⟨⟨(upq : State), (cmd 1 77 (w64 (7*2^8 + 4*2^13)) (w64 (3 + 9*2^28)) 0 0 0 0 : AdminCmd), (1 : Nat), (5 : Nat), by decide +kernel⟩,
   ⟨(upq : State), (cmd 3 77 0 0 0 0 0 0 : AdminCmd), (0 : Nat), (qp0 : Qp), by decide +kernel⟩,
   ⟨((upv fun v => { v with st := .reset }) : State), (cmd 4 77 0 0 0 0 0 0 : AdminCmd), (0 : Nat), ({ qp0 with st := .reset } : Qp),
     by decide +kernel⟩,
   ⟨((upv fun v => { v with st := .quarantine }) : State), (0 : Nat), ({ qp0 with st := .quarantine } : Qp), by decide +kernel⟩,
   ⟨((upv fun v => { v with st := .error, destroy := some { fn := 0, cookie := 7, index := 1 } }) : State),
     (cmd 2 77 0 0 0 0 0 0 : AdminCmd), by decide +kernel⟩,
   ⟨((upv fun v => { v with st := .error, destroy := some { fn := 0, cookie := 7, index := 1 } }) : State),
     (cmd 3 77 0 0 0 0 0 0 : AdminCmd), by decide +kernel⟩,
   ⟨((upv fun v => { v with st := .error, destroy := some { fn := 0, cookie := 7, index := 1 } }) : State),
     (cmd 4 77 0 0 0 0 0 0 : AdminCmd), by decide +kernel⟩⟩

/-- Concrete values meet the hypotheses of every clause of `Obligations.QueuePairsChangeStateAsTabled`. -/
theorem witness_QueuePairsChangeStateAsTabled :
    (∃ (s : State) (c : AdminCmd) (q : Nat) (v : Qp), q = bitsOf c.e.w2 0 21 ∧ s.domState (tenDom q) = 2 ∧ Takes s c 0x02 [(2,
      ones 0 21 + ones 32 3), (3, ones 0 42), (4, ones 0 48), (5, 0), (6, 0), (7, 0)] ∧ s.ten.qps.get? q = some v ∧ v.fn = c.fn ∧
      s.qpBusy q = false ∧ v.st = .reset ∧ bitsOf c.e.w2 32 3 = 1) ∧
    (∃ (s : State) (c : AdminCmd) (q : Nat) (v : Qp), q = bitsOf c.e.w2 0 21 ∧ s.domState (tenDom q) = 2 ∧ Takes s c 0x02 [(2,
      ones 0 21 + ones 32 3), (3, ones 0 42), (4, ones 0 48), (5, 0), (6, 0), (7, 0)] ∧ s.ten.qps.get? q = some v ∧ v.fn = c.fn ∧
      s.qpBusy q = false ∧ v.st = .init ∧ bitsOf c.e.w2 32 3 = 2 ∧ v.node = true) ∧
    (∃ (s : State) (c : AdminCmd) (q : Nat) (v : Qp), q = bitsOf c.e.w2 0 21 ∧ s.domState (tenDom q) = 2 ∧ Takes s c 0x02 [(2,
      ones 0 21 + ones 32 3), (3, ones 0 42), (4, ones 0 48), (5, 0), (6, 0), (7, 0)] ∧ s.ten.qps.get? q = some v ∧ v.fn = c.fn ∧
      s.qpBusy q = false ∧ v.st = .error ∧ bitsOf c.e.w2 32 3 = 0 ∧ s.flushed q v = true) ∧
    (∃ (s : State) (c : AdminCmd) (q : Nat) (v : Qp), q = bitsOf c.e.w2 0 21 ∧ s.domState (tenDom q) = 2 ∧ Takes s c 0x02 [(2,
      ones 0 21 + ones 32 3), (3, ones 0 42), (4, ones 0 48), (5, 0), (6, 0), (7, 0)] ∧ s.ten.qps.get? q = some v ∧ v.fn = c.fn ∧
      s.qpBusy q = false ∧ v.st = .init ∧ bitsOf c.e.w2 32 3 = 2 ∧ v.node = false ∧ (∀ r ∈ s.tra.resps, r.2.sp ≠ .conn q)) ∧
    (∃ (s : State) (c : AdminCmd) (q : Nat) (v : Qp), q = bitsOf c.e.w2 0 21 ∧ s.domState (tenDom q) = 2 ∧ Takes s c 0x02 [(2,
      ones 0 21 + ones 32 3), (3, ones 0 42), (4, ones 0 48), (5, 0), (6, 0), (7, 0)] ∧ s.ten.qps.get? q = some v ∧ v.fn = c.fn ∧
      s.qpBusy q = false ∧ v.st = .ready ∧ bitsOf c.e.w2 32 3 = 3) ∧
    (∃ (s : State) (c : AdminCmd) (q : Nat) (v : Qp), q = bitsOf c.e.w2 0 21 ∧ s.domState (tenDom q) = 2 ∧ Takes s c 0x02 [(2,
      ones 0 21 + ones 32 3), (3, ones 0 42), (4, ones 0 48), (5, 0), (6, 0), (7, 0)] ∧ s.ten.qps.get? q = some v ∧ v.fn = c.fn ∧
      s.qpBusy q = false ∧ v.st = .draining ∧ bitsOf c.e.w2 32 3 = 2) ∧
    (∃ (s : State) (c : AdminCmd) (q : Nat) (v : Qp), q = bitsOf c.e.w2 0 21 ∧ s.domState (tenDom q) = 2 ∧ Takes s c 0x02 [(2,
      ones 0 21 + ones 32 3), (3, ones 0 42), (4, ones 0 48), (5, 0), (6, 0), (7, 0)] ∧ s.ten.qps.get? q = some v ∧ v.fn = c.fn ∧
      v.st ≠ .quarantine ∧ s.qpBusy q = false ∧ (v.st, bitsOf c.e.w2 32 3) ∉ [(.reset, 1), (.init, 2), (.init, 4), (.ready, 3), (.ready, 4),
      (.draining, 1), (.draining, 2), (.draining, 3), (.draining, 4), (.error, 0)]) :=
  ⟨⟨((upv fun v => { v with st := .reset, sqProd := 5 }) : State),
     (cmd 2 77 (w64 (1*2^32)) (w64 (7+9*2^18)) (w64 (3+4*2^24)) 0 0 0 : AdminCmd), (0 : Nat), ({ qp0 with st := .reset, sqProd := 5 } : Qp),
     by decide +kernel⟩,
   ⟨((upv fun v => { v with st := .init, sqProd := 5, node := true }) : State),
     (cmd 2 77 (w64 (2*2^32)) (w64 (7+9*2^18)) (w64 (3+4*2^24)) 0 0 0 : AdminCmd), (0 : Nat),
     ({ qp0 with st := .init, sqProd := 5, node := true } : Qp), by decide +kernel⟩,
   ⟨((upv fun v => { v with st := .error }) : State), (cmd 2 77 0 0 0 0 0 0 : AdminCmd), (0 : Nat), ({ qp0 with st := .error } : Qp),
     by decide +kernel⟩,
   ⟨((upv fun v => { v with st := .init, sqProd := 5 }) : State),
     (cmd 2 77 (w64 (2*2^32)) (w64 (7+9*2^18)) (w64 (3+4*2^24)) 0 0 0 : AdminCmd), (0 : Nat), ({ qp0 with st := .init, sqProd := 5 } : Qp),
     by decide +kernel⟩,
   ⟨((upv fun v => { v with st := .ready, sqProd := 5 }) : State),
     (cmd 2 77 (w64 (3*2^32)) (w64 (7+9*2^18)) (w64 (3+4*2^24)) 0 0 0 : AdminCmd), (0 : Nat), ({ qp0 with st := .ready, sqProd := 5 } : Qp),
     by decide +kernel⟩,
   ⟨((upv fun v => { v with st := .draining, sqProd := 5 }) : State),
     (cmd 2 77 (w64 (2*2^32)) (w64 (7+9*2^18)) (w64 (3+4*2^24)) 0 0 0 : AdminCmd), (0 : Nat),
     ({ qp0 with st := .draining, sqProd := 5 } : Qp), by decide +kernel⟩,
   ⟨((upv fun v => { v with st := .reset, sqProd := 5 }) : State),
     (cmd 2 77 (w64 (0*2^32)) (w64 (7+9*2^18)) (w64 (3+4*2^24)) 0 0 0 : AdminCmd), (0 : Nat), ({ qp0 with st := .reset, sqProd := 5 } : Qp),
     by decide +kernel⟩⟩

/-- Concrete values meet the hypotheses of every clause of `Obligations.QueueAndHbmCommandsDoAsTabled`. -/
theorem witness_QueueAndHbmCommandsDoAsTabled :
    (∃ (s : State) (c : AdminCmd) (i : Nat) (slot : Nat), Takes s c 0x10 [(2, ones 0 53), (3, ones 0 64), (4, 0), (5, 0), (6, 0), (7, 0)] ∧
      4 ≤ bitsOf c.e.w2 0 5 ∧ bitsOf c.e.w2 0 5 ≤ 22 ∧ s.granted c.fn (bitsOf c.e.w2 17 20) = true ∧ bitsOf c.e.w3 0 12 = 0 ∧
      bitsOf c.e.w3 48 16 = 0 ∧ (s.ten.eqs.get? (bitsOf c.e.w2 5 12)).map Eq.fn = some c.fn ∧ i = firstFree 0 s.ten.cqs.keys ∧ i < 2 ^ 20 ∧
      s.freeDb c.fn = some slot ∧ s.quotaOk c.fn .cq 1 = true) ∧
    (∃ (s : State) (c : AdminCmd) (d : Cq), Takes s c 0x11 [(2, ones 0 20 + ones 32 1), (3, 0), (4, 0), (5, 0), (6, 0), (7, 0)] ∧
      s.ten.cqs.get? (bitsOf c.e.w2 0 20) = some d ∧ d.fn = c.fn ∧ bitAt c.e.w2 32 = false ∧ d.st = .ready) ∧
    (∃ (s : State) (c : AdminCmd) (d : Cq), Takes s c 0x11 [(2, ones 0 20 + ones 32 1), (3, 0), (4, 0), (5, 0), (6, 0), (7, 0)] ∧
      s.ten.cqs.get? (bitsOf c.e.w2 0 20) = some d ∧ d.fn = c.fn ∧ bitAt c.e.w2 32 = true ∧ d.st = .draining) ∧
    (∃ (s : State) (c : AdminCmd) (d : Cq), Takes s c 0x11 [(2, ones 0 20 + ones 32 1), (3, 0), (4, 0), (5, 0), (6, 0), (7, 0)] ∧
      s.ten.cqs.get? (bitsOf c.e.w2 0 20) = some d ∧ d.fn = c.fn ∧ bitAt c.e.w2 32 = true ∧ d.st = .error) ∧
    (∃ (s : State) (c : AdminCmd) (d : Cq), Takes s c 0x12 [(2, ones 0 20), (3, 0), (4, 0), (5, 0), (6, 0), (7, 0)] ∧
      s.ten.cqs.get? (bitsOf c.e.w2 0 20) = some d ∧ d.fn = c.fn) ∧
    (∃ (s : State) (c : AdminCmd) (d : Cq), Takes s c 0x13 [(2, ones 0 20), (3, 0), (4, 0), (5, 0), (6, 0), (7, 0)] ∧
      s.ten.cqs.get? (bitsOf c.e.w2 0 20) = some d ∧ d.fn = c.fn ∧ ((∃ p ∈ s.ten.qps, p.2.onCq (bitsOf c.e.w2 0 20) = true))) ∧
    (∃ (s : State) (c : AdminCmd) (d : Cq), Takes s c 0x13 [(2, ones 0 20), (3, 0), (4, 0), (5, 0), (6, 0), (7, 0)] ∧
      s.ten.cqs.get? (bitsOf c.e.w2 0 20) = some d ∧ d.fn = c.fn ∧ (∀ p ∈ s.ten.qps, p.2.onCq (bitsOf c.e.w2 0 20) = false)) ∧
    (∃ (s : State) (c : AdminCmd) (i : Nat) (slot : Nat), Takes s c 0x18 [(2, ones 0 36), (3, ones 0 64), (4, 0), (5, 0), (6, 0), (7, 0)] ∧
      6 ≤ bitsOf c.e.w2 0 5 ∧ bitsOf c.e.w2 0 5 ≤ 16 ∧ s.granted c.fn (bitsOf c.e.w2 16 20) = true ∧ bitsOf c.e.w3 0 12 = 0 ∧
      bitsOf c.e.w3 48 16 = 0 ∧ i = firstFree 0 s.ten.eqs.keys ∧ i < 4096 ∧ s.freeDb c.fn = some slot ∧ s.quotaOk c.fn .eq 1 = true) ∧
    (∃ (s : State) (c : AdminCmd) (e : Eq), Takes s c 0x19 [(2, ones 0 12), (3, 0), (4, 0), (5, 0), (6, 0), (7, 0)] ∧
      s.ten.eqs.get? (bitsOf c.e.w2 0 12) = some e ∧ e.fn = c.fn ∧ (∀ p ∈ s.ten.qps, p.2.st ≠ .quarantine → p.2.eq ≠ bitsOf c.e.w2 0 12) ∧
      (∀ p ∈ s.ten.cqs, p.2.eq ≠ bitsOf c.e.w2 0 12)) ∧
    (∃ (s : State) (c : AdminCmd) (off : Nat) (aper : Nat), Takes s c 0x20 [(2, ones 0 33), (3, 0), (4, 0), (5, 0), (6, 0), (7, 0)] ∧
      bitsOf c.e.w2 0 32 % 4096 = 0 ∧ bitsOf c.e.w2 0 32 ≠ 0 ∧ s.quotaOk c.fn .hbm (bitsOf c.e.w2 0 32 / 4096) = true ∧
      ((if bitAt c.e.w2 32 = true then findRoom 0x1000 (aperEnd c.fn) (bitsOf c.e.w2 0 32 / 4096) ((s.ten.allocs.filter fun a => a.fn == c.fn && a.aper != 0).map fun a => (a.aper,
      a.size)) else some 0) = some aper) ∧
      (findRoom (ringBase / 4096) (ringBase / 4096 + s.boot.ringUnits * 2 ^ 17) (bitsOf c.e.w2 0 32 / 4096) (s.ten.allocs.map fun a => (a.off,
      a.size)) = some off)) ∧
    (∃ (s : State) (c : AdminCmd) (a : Alloc), Takes s c 0x21 [(2, ones 0 24), (3, 0), (4, 0), (5, 0), (6, 0), (7, 0)] ∧
      ((s.ten.allocs.find? fun a => a.off == bitsOf c.e.w2 0 24) = some a) ∧ a.fn = c.fn ∧ (∀ p ∈ s.ten.qps, p.2.st ≠ .quarantine →
      (p.2.sqDev = false ∧ p.2.rqDev = false)) ∧ (∀ w ∈ s.wins, w.2.hbm = false)) :=
  ⟨⟨(upq : State), (cmd 0x10 77 (w64 (22 + 3*2^5 + 9*2^17 + 65535*2^37)) 0x1000 0 0 0 0 : AdminCmd), (1 : Nat), (5 : Nat),
     by decide +kernel⟩,
   ⟨((upc fun v => { v with st := .ready }) : State), (cmd 0x11 77 (w64 (0*2^32)) 0 0 0 0 0 : AdminCmd), ({ cq0 with st := .ready } : Cq),
     by decide +kernel⟩,
   ⟨((upc fun v => { v with st := .draining }) : State), (cmd 0x11 77 (w64 (1*2^32)) 0 0 0 0 0 : AdminCmd),
     ({ cq0 with st := .draining } : Cq), by decide +kernel⟩,
   ⟨((upc fun v => { v with st := .error }) : State), (cmd 0x11 77 (w64 (1*2^32)) 0 0 0 0 0 : AdminCmd), ({ cq0 with st := .error } : Cq),
     by decide +kernel⟩,
   ⟨(upq : State), (cmd 0x12 77 0 0 0 0 0 0 : AdminCmd), (cq0 : Cq), by decide +kernel⟩,
   ⟨(upq : State), (cmd 0x13 77 0 0 0 0 0 0 : AdminCmd), (cq0 : Cq), by decide +kernel⟩,
   ⟨({ upq with ten.qps := [] } : State), (cmd 0x13 77 0 0 0 0 0 0 : AdminCmd), (cq0 : Cq), by decide +kernel⟩,
   ⟨(upq : State), (cmd 0x18 77 (w64 (16 + 7*2^5 + 9*2^16)) 0x1000 0 0 0 0 : AdminCmd), (0 : Nat), (5 : Nat), by decide +kernel⟩,
   ⟨({ upq with ten.qps := [], ten.cqs := [] } : State), (cmd 0x19 77 3 0 0 0 0 0 : AdminCmd), (eq0 : Eq), by decide +kernel⟩,
   ⟨({ upq with boot.ringUnits := 1, ten.allocs := [{ fn := 0, off := 7*2^18, size := 2, aper := 0 }] } : State),
     (cmd 0x20 77 0x3000 0 0 0 0 0 : AdminCmd), (7*2^18+2 : Nat), (0 : Nat), by decide +kernel⟩,
   ⟨({ upq with ten.allocs := [{ fn := 0, off := 7*2^18, size := 2, aper := 0 }] } : State),
     (cmd 0x21 77 (w64 (7*2^18)) 0 0 0 0 0 : AdminCmd), ({ fn := 0, off := 7*2^18, size := 2, aper := 0 } : Alloc), by decide +kernel⟩⟩

/-- Concrete values meet the hypotheses of every clause of `Obligations.PacketsGoOutAndArriveInOrder`. -/
theorem witness_PacketsGoOutAndArriveInOrder :
    (∃ (s : State) (q : Nat) (v : Qp) (j : Job), s.ten.qps.get? q = some v ∧ v.node = false ∧ v.spray = true ∧ v.st = .ready ∧
      v.jobs = [j] ∧ (j.op = 2 ∨ j.op = 4) ∧ j.rts = false ∧ j.ord = false ∧ j.status = none ∧ j.allSent = false ∧ j.trapped = false ∧
      j.pos < j.len ∧ 0 < v.mtu ∧ v.sp.resends = [] ∧ v.sp.sent = [] ∧ v.sp.sendNext = v.sp.sendUna ∧ s.fatal = false ∧
      s.domState (tenDom q) = 2 ∧ s.tra.resps = [] ∧ s.xlt.missed = []) ∧
    (∃ (s : State) (p : Packet), Served s (recvDoms p) ∧ 1 ≤ p.type ∧ p.type ≤ 7 ∧ p.node = false ∧ s.target p = none) ∧
    (∃ (s : State) (p : Packet) (v : Qp), Served s (recvDoms p) ∧ p.type = 3 ∧ p.node = false ∧ s.target p = some v ∧ v.everReady = true ∧
      256 ≤ (p.psn - v.sp.recvE).toNat ∧ (p.psn - v.sp.recvE).toNat < 2 ^ 23) ∧
    (∃ (s : State) (p : Packet) (v : Qp), Served s (recvDoms p) ∧ p.type = 3 ∧ p.node = false ∧ s.target p = some v ∧ v.everReady = true ∧
      2 ^ 23 ≤ (p.psn - v.sp.recvE).toNat) ∧
    (∃ (s : State) (p : Packet) (v : Qp), Served s (recvDoms p) ∧ p.type = 3 ∧ p.node = false ∧ s.target p = some v ∧ v.everReady = true ∧
      (p.psn - v.sp.recvE).toNat < 256 ∧ v.sp.recvMap.getLsbD (p.psn - v.sp.recvE).toNat = true) ∧
    (∃ (s : State) (p : Packet) (v : Qp), Served s (recvDoms p) ∧ p.type = 3 ∧ p.node = false ∧ s.target p = some v ∧ v.everReady = true ∧
      (p.psn - v.sp.recvE).toNat < 256 ∧ v.sp.recvMap.getLsbD (p.psn - v.sp.recvE).toNat = false ∧ p.ord = true ∧ p.psn ≠ v.sp.recvE ∧
      v.sp.nakSeq ≠ some v.sp.recvE) :=
  ⟨⟨((upv fun v => { v with spray := true, mtu := 16, jobs := [job0] }) : State), (0 : Nat),
     ({ qp0 with spray := true, mtu := 16, jobs := [job0] } : Qp), (job0 : Job), by decide +kernel⟩,
   ⟨(upq : State), ({ pk0 with type := 1, dstGen := 2 } : Packet), by decide +kernel⟩,
   ⟨((upv fun v => { v with sp := { qp0.sp with recvE := 10, recvMap := 4 } }) : State), ({ pk0 with psn := 266, ord := true } : Packet),
     ({ qp0 with sp := { qp0.sp with recvE := 10, recvMap := 4 } } : Qp), by decide +kernel⟩,
   ⟨((upv fun v => { v with sp := { qp0.sp with recvE := 10, recvMap := 4 } }) : State), ({ pk0 with psn := 9, ord := true } : Packet),
     ({ qp0 with sp := { qp0.sp with recvE := 10, recvMap := 4 } } : Qp), by decide +kernel⟩,
   ⟨((upv fun v => { v with sp := { qp0.sp with recvE := 10, recvMap := 4 } }) : State), ({ pk0 with psn := 12, ord := true } : Packet),
     ({ qp0 with sp := { qp0.sp with recvE := 10, recvMap := 4 } } : Qp), by decide +kernel⟩,
   ⟨((upv fun v => { v with sp := { qp0.sp with recvE := 10, recvMap := 4 } }) : State), ({ pk0 with psn := 265, ord := true } : Packet),
     ({ qp0 with sp := { qp0.sp with recvE := 10, recvMap := 4 } } : Qp), by decide +kernel⟩⟩

/-- Concrete values meet the hypotheses of every clause of `Obligations.PacketsArePlacedAndAcknowledged`. -/
theorem witness_PacketsArePlacedAndAcknowledged :
    (∃ (s : State) (p : Packet) (v : Qp), Served s (recvDoms p) ∧ p.type = 3 ∧ p.node = false ∧ memWf s.hbm = true ∧ s.target p = some v ∧
      v.everReady = true ∧ v.st = .ready ∧ v.sp.recvE = p.psn ∧ v.sp.recvMap = 0 ∧ v.pkey = p.pkey ∧ p.pkey ∈ (s.fn v.fn).keys ∧
      (s.win (winIdx p)).hbm = true ∧ s.winCheck p v = none) ∧
    (∃ (s : State) (p : Packet) (v : Qp), Served s [ackDom p] ∧ p.type = 8 ∧ p.node = false ∧ s.ten.qps.get? p.dstQp = some v ∧
      v.node = false ∧ v.gen = p.dstGen) ∧
    (∃ (s : State) (p : Packet), Served s [ackDom p] ∧ p.type = 8 ∧ p.node = false ∧ s.ten.qps.get? p.dstQp = none) ∧
    (∃ (x : Space) (a : Psn), 1 ≤ ((a - x.sendUna).toNat) ∧ ((a - x.sendUna).toNat) ≤ ((x.sendNext - x.sendUna).toNat)) ∧
    (∃ (x : Space) (a : Psn), (((a - x.sendUna).toNat) = 0 ∨ ((x.sendNext - x.sendUna).toNat) < ((a - x.sendUna).toNat))) ∧
    (∃ (x : Space) (a : Psn) (sack : Word) (now : Nat) (rto : Nat) (t : _), t ∈ ((x.acked a sack now rto).2).sent ∧ t.marked = true) ∧
    (∃ (x : Space) (a : Psn) (sack : Word) (now : Nat) (rto : Nat) (t : _), t ∈ ((x.acked a sack now rto).2).sent ∧ ((∃ i, i < 64 ∧
      (bitAt sack i = true ∧ t.psn = a + 1 + BitVec.ofNat 24 i)))) ∧
    (∃ (s : State) (p : Packet) (v : Qp), Served s [ackDom p] ∧ p.type = 9 ∧ p.node = false ∧ s.ten.qps.get? p.dstQp = some v ∧
      v.node = false ∧ v.gen = p.dstGen ∧ bitsOf p.w5 0 8 = 1) ∧
    (∃ (s : State) (p : Packet) (v : Qp), Served s [ackDom p] ∧ p.type = 9 ∧ p.node = false ∧ s.ten.qps.get? p.dstQp = some v ∧
      v.node = false ∧ v.gen = p.dstGen ∧ bitsOf p.w5 0 8 = 2) ∧
    (∃ (s : State) (p : Packet) (v : Qp), Served s [ackDom p] ∧ p.type = 9 ∧ p.node = false ∧ s.ten.qps.get? p.dstQp = some v ∧
      v.node = false ∧ v.gen = p.dstGen ∧ bitsOf p.w5 0 8 = 3) ∧
    (∃ (s : State) (p : Packet) (v : Qp) (r : _), Served s [ackDom p] ∧ p.type = 9 ∧ p.node = false ∧ s.ten.qps.get? p.dstQp = some v ∧
      v.node = false ∧ v.gen = p.dstGen ∧ r = bitsOf p.w5 0 8 ∧ 4 ≤ r ∧ r ≤ 7) ∧
    (∃ (s : State) (p : Packet) (v : Qp), Served s [ackDom p] ∧ p.type = 9 ∧ p.node = false ∧ s.ten.qps.get? p.dstQp = some v ∧
      v.node = false ∧ v.gen = p.dstGen ∧ 7 < bitsOf p.w5 0 8) ∧
    (∃ (s : State) (p : Packet) (v : Qp) (x : _), Served s [ackDom p] ∧ p.type = 9 ∧ p.node = false ∧ s.ten.qps.get? p.dstQp = some v ∧
      v.node = false ∧ v.gen = p.dstGen ∧ x ∈ v.sp.sent ∧ x.psn = p.psn ∧ x.marked = false ∧ ((∃ r, x.owner = .job p.dstQp r ∧
      (s.job? p.dstQp r).any (·.status.isNone))) ∧ (∀ y ∈ v.sp.sent, y.psn = p.psn → y = x) ∧ v.sp.resends = []) :=
  ⟨⟨(upw : State), (pk0 : Packet), (qp0 : Qp), by decide +kernel⟩,
   ⟨((upv fun v => { v with sp := { qp0.sp with sent := [{ sent0 with psn := 10 }, { sent0 with psn := 11 }, { sent0 with psn := 13 }], sendUna := 10, sendNext := 14 }, jobs := [{ job0 with allSent := true }] }) : State),
     ({ pk0 with type := 8, psn := 12 } : Packet),
     ({ qp0 with sp := { qp0.sp with sent := [{ sent0 with psn := 10 }, { sent0 with psn := 11 }, { sent0 with psn := 13 }], sendUna := 10, sendNext := 14 }, jobs := [{ job0 with allSent := true }] } : Qp),
     by decide +kernel⟩,
   ⟨(upq : State), ({ pk0 with type := 8, dstQp := 77 } : Packet), by decide +kernel⟩,
   ⟨({ qp0.sp with sent := [{ sent0 with psn := 10 }, { sent0 with psn := 11 }, { sent0 with psn := 13 }], sendUna := 10, sendNext := 14 } : Space),
     (11 : Psn), by decide +kernel⟩,
   ⟨({ qp0.sp with sent := [{ sent0 with psn := 10 }, { sent0 with psn := 11 }, { sent0 with psn := 13 }], sendUna := 10, sendNext := 14 } : Space),
     (10 : Psn), by decide +kernel⟩,
   ⟨({ qp0.sp with sent := [{ sent0 with psn := 10 }, { sent0 with psn := 11 }, { sent0 with psn := 13 }], sendUna := 10, sendNext := 14 } : Space),
     (10 : Psn), (5 : Word), (5 : Nat), (9 : Nat),
     ((({ qp0.sp with sent := [{ sent0 with psn := 10 }, { sent0 with psn := 11 }, { sent0 with psn := 13 }], sendUna := 10, sendNext := 14 } : Space).acked 10 5 5 9).2.sent.getLast?).getD sent0,
     by decide +kernel⟩,
   ⟨({ qp0.sp with sent := [{ sent0 with psn := 10 }, { sent0 with psn := 11 }, { sent0 with psn := 13 }], sendUna := 10, sendNext := 14 } : Space),
     (10 : Psn), (5 : Word), (5 : Nat), (9 : Nat),
     ((({ qp0.sp with sent := [{ sent0 with psn := 10 }, { sent0 with psn := 11 }, { sent0 with psn := 13 }], sendUna := 10, sendNext := 14 } : Space).acked 10 5 5 9).2.sent.getLast?).getD sent0,
     by decide +kernel⟩,
   ⟨((upv fun v => { v with sp := { qp0.sp with sent := [{ sent0 with psn := 10 }, { sent0 with psn := 11 }, { sent0 with psn := 13 }], sendUna := 10, sendNext := 14 }, jobs := [{ job0 with allSent := true }] }) : State),
     ({ pk0 with type := 9, psn := 11, w5 := 1, w6 := 11 } : Packet),
     ({ qp0 with sp := { qp0.sp with sent := [{ sent0 with psn := 10 }, { sent0 with psn := 11 }, { sent0 with psn := 13 }], sendUna := 10, sendNext := 14 }, jobs := [{ job0 with allSent := true }] } : Qp),
     by decide +kernel⟩,
   ⟨((upv fun v => { v with sp := { qp0.sp with sent := [{ sent0 with psn := 10 }, { sent0 with psn := 11 }, { sent0 with psn := 13 }], sendUna := 10, sendNext := 14 }, jobs := [{ job0 with allSent := true }] }) : State),
     ({ pk0 with type := 9, psn := 11, w5 := 0x702, w6 := 11 } : Packet),
     ({ qp0 with sp := { qp0.sp with sent := [{ sent0 with psn := 10 }, { sent0 with psn := 11 }, { sent0 with psn := 13 }], sendUna := 10, sendNext := 14 }, jobs := [{ job0 with allSent := true }] } : Qp),
     by decide +kernel⟩,
   ⟨((upv fun v => { v with sp := { qp0.sp with sent := [{ sent0 with psn := 10 }, { sent0 with psn := 11 }, { sent0 with psn := 13 }], sendUna := 10, sendNext := 14 }, jobs := [{ job0 with allSent := true }] }) : State),
     ({ pk0 with type := 9, psn := 11, w5 := 3, w6 := 11 } : Packet),
     ({ qp0 with sp := { qp0.sp with sent := [{ sent0 with psn := 10 }, { sent0 with psn := 11 }, { sent0 with psn := 13 }], sendUna := 10, sendNext := 14 }, jobs := [{ job0 with allSent := true }] } : Qp),
     by decide +kernel⟩,
   ⟨((upv fun v => { v with sp := { qp0.sp with sent := [{ sent0 with psn := 10 }, { sent0 with psn := 11 }, { sent0 with psn := 13 }], sendUna := 10, sendNext := 14 }, jobs := [{ job0 with allSent := true }] }) : State),
     ({ pk0 with type := 9, psn := 11, w5 := 4, w6 := 11 } : Packet),
     ({ qp0 with sp := { qp0.sp with sent := [{ sent0 with psn := 10 }, { sent0 with psn := 11 }, { sent0 with psn := 13 }], sendUna := 10, sendNext := 14 }, jobs := [{ job0 with allSent := true }] } : Qp),
     bitsOf ({ pk0 with type := 9, psn := 11, w5 := 4, w6 := 11 }).w5 0 8, by decide +kernel⟩,
   ⟨((upv fun v => { v with sp := { qp0.sp with sent := [{ sent0 with psn := 10 }, { sent0 with psn := 11 }, { sent0 with psn := 13 }], sendUna := 10, sendNext := 14 }, jobs := [{ job0 with allSent := true }] }) : State),
     ({ pk0 with type := 9, psn := 11, w5 := 8, w6 := 11 } : Packet),
     ({ qp0 with sp := { qp0.sp with sent := [{ sent0 with psn := 10 }, { sent0 with psn := 11 }, { sent0 with psn := 13 }], sendUna := 10, sendNext := 14 }, jobs := [{ job0 with allSent := true }] } : Qp),
     by decide +kernel⟩,
   ⟨((upv fun v => { v with sp := { qp0.sp with sent := [{ sent0 with psn := 10 }], sendUna := 10, sendNext := 14 }, jobs := [{ job0 with allSent := true }] }) : State),
     ({ pk0 with type := 9, psn := 10, w5 := 0x702, w6 := 10 } : Packet),
     ({ qp0 with sp := { qp0.sp with sent := [{ sent0 with psn := 10 }], sendUna := 10, sendNext := 14 }, jobs := [{ job0 with allSent := true }] } : Qp),
     { sent0 with psn := 10 }, by decide +kernel, by decide +kernel, by decide +kernel, by decide +kernel, by decide +kernel,
     by decide +kernel, by decide +kernel, by decide +kernel, by decide +kernel, ⟨0, by decide +kernel⟩, by decide +kernel⟩⟩

/-- Concrete values meet the hypotheses of every clause of `Obligations.TransportTimersExpire`. -/
theorem witness_TransportTimersExpire :
    (∃ (s : State) (q : Nat) (t0 : Nat) (v : Qp), s.ten.qps.get? q = some v ∧ v.sp.ackAt = some t0 ∧ s.fatal = false ∧
      s.domState (tenDom q) = 2) ∧
    (∃ (s : State) (q : Nat) (t0 : Nat) (v : Qp), s.ten.qps.get? q = some v ∧ v.sp.deadline = some t0 ∧ s.fatal = false ∧
      s.domState (tenDom q) = 2 ∧ s.now ≤ t0 ∧ v.sp.retries + 1 ≤ s.retryLimit) ∧
    (∃ (s : State) (q : Nat) (t0 : Nat) (v : Qp), s.ten.qps.get? q = some v ∧ v.sp.deadline = some t0 ∧ s.fatal = false ∧
      s.domState (tenDom q) = 2 ∧ s.retryLimit ≤ v.sp.retries) ∧
    (∃ (s : State) (q : Nat) (v : Qp) (r : Resend), s.ten.qps.get? q = some v ∧ v.sp.resends = [r] ∧ r.ready = false ∧ s.fatal = false ∧
      s.domState (tenDom q) = 2 ∧ s.ownBytes r.sent.owner r.sent.off r.sent.len = none) ∧
    (∃ (s : State) (q : Nat) (t0 : Nat) (v : Qp) (r : Resend) (ring : Count32), s.ten.qps.get? q = some v ∧ v.sp.resends = [r] ∧
      r.sent.busy = some t0 ∧ r.sent.owner = .job q ring ∧ s.fatal = false ∧ s.domState (tenDom q) = 2 ∧
      s.rdF R.TEN_XPORT_CTL F.TEN_XPORT_CTL_BUSY_LIMIT ≠ 0) ∧
    (∃ (s : State) (m : Msg) (buf : Buffer) (rcv : RecvTo) (c : Cq), s.fatal = false ∧ s.xlt.missed = [] ∧
      s.msg? m.srcNode m.srcQp m.dstQp m.msn = some m ∧ m.at_ = .placing buf rcv ∧ s.domState (tenDom m.dstQp) = 2 ∧
      s.ten.cqs.get? rcv.cq = some c ∧ c.st ≠ .error ∧ (s.fn c.fn).drain = none) :=
  ⟨⟨((upv fun v => { v with sp := { qp0.sp with ackAt := some 5 } }) : State), (0 : Nat), (5 : Nat),
     ({ qp0 with sp := { qp0.sp with ackAt := some 5 } } : Qp), by decide +kernel⟩,
   ⟨((upv fun v => { v with sp := { qp0.sp with deadline := some 5 }, mtu := 256 }) : State), (0 : Nat), (5 : Nat),
     ({ qp0 with sp := { qp0.sp with deadline := some 5 }, mtu := 256 } : Qp), by decide +kernel⟩,
   ⟨((upv fun v => { v with sp := { qp0.sp with deadline := some 5, retries := 20 } }) : State), (0 : Nat), (5 : Nat),
     ({ qp0 with sp := { qp0.sp with deadline := some 5, retries := 20 } } : Qp), by decide +kernel⟩,
   ⟨((upv fun v => { v with sp := { qp0.sp with resends := [{ sent := { sent0 with busy := some 7 }, until_ := 100, ready := false }] } }) : State),
     (0 : Nat),
     ({ qp0 with sp := { qp0.sp with resends := [{ sent := { sent0 with busy := some 7 }, until_ := 100, ready := false }] } } : Qp),
     ({ sent := { sent0 with busy := some 7 }, until_ := 100, ready := false } : Resend), by decide +kernel⟩,
   ⟨(((upv fun v => { v with sp := { qp0.sp with resends := [{ sent := { sent0 with busy := some 7 }, until_ := 100, ready := false }] } }).wrF R.TEN_XPORT_CTL F.TEN_XPORT_CTL_BUSY_LIMIT 3) : State),
     (0 : Nat), (7 : Nat),
     ({ qp0 with sp := { qp0.sp with resends := [{ sent := { sent0 with busy := some 7 }, until_ := 100, ready := false }] } } : Qp),
     ({ sent := { sent0 with busy := some 7 }, until_ := 100, ready := false } : Resend), (0 : Count32), by decide +kernel⟩,
   ⟨({ upq with mat.msgs := [msg0] } : State), (msg0 : Msg), (buf0 : Buffer), (rcv0 : RecvTo), (cq0 : Cq), by decide +kernel⟩⟩

/-- Concrete values meet the hypotheses of every clause of `Obligations.NodePairsSynchronise`. -/
theorem witness_NodePairsSynchronise :
    (∃ (s : State) (p : Packet), Served s [69 + p.srcNode % 4] ∧ p.type = 0x0A ∧ (s.np p.srcNode).st = .idle ∧
      ((s.np p.srcNode).known = true → (s.np p.srcNode).peerInc = p.inc)) ∧
    (∃ (s : State) (p : Packet), Served s [69 + p.srcNode % 4] ∧ p.type = 0x0B ∧ (s.np p.srcNode).st = .syncing ∧
      bitsOf p.w4 24 16 = (s.np p.srcNode).ownSync.toNat ∧ ((s.np p.srcNode).known = true → (s.np p.srcNode).peerInc = p.inc)) ∧
    (∃ (s : State) (q : Nat) (n : Nat) (d : Nat) (f : Flow), s.tra.flows.wf = true ∧ s.tra.flows.get? (flowKey q n d) = some f ∧
      s.fatal = false ∧ s.domState (tenDom q) = 2 ∧ (∀ v, s.ten.qps.get? q = some v → v.jobs = []) ∧ (s.np n).sp.sent = [] ∧
      (s.np n).sp.resends = []) :=
  ⟨⟨({ upq with ft := 123456789 } : State), ({ pk0 with type := 10, w4 := w64 (9 + 77*2^24), inc := 4 } : Packet), by decide +kernel⟩,
   ⟨({ upq with tra.nodes := [(5, { npInit with st := .syncing, ownSync := 77, sp := { spaceInit with deadline := some 5, sendNext := 44 } })] } : State),
     ({ pk0 with type := 11, w4 := w64 (9 + 77*2^24), inc := 4 } : Packet), by decide +kernel⟩,
   ⟨({ upq with tra.flows := [(flowKey 0 5 8, flowInit)] } : State), (0 : Nat), (5 : Nat), (8 : Nat), (flowInit : Flow), by decide +kernel⟩⟩

/-- Concrete values meet the hypotheses of every clause of `Obligations.MatchingContextsDoAsTabled`. -/
theorem witness_MatchingContextsDoAsTabled :
    (∃ (s : State) (c : AdminCmd) (i : Nat) (v : Qp) (d : Cq), s.domState (matDom i) = 2 ∧ Takes s c 0x30 [(2, ones 0 41), (3,
      ones 0 25 + ones 32 16 + ones 63 1), (4, ones 0 16), (5, 0), (6, 0), (7, 0)] ∧
      ((if bitAt c.e.w3 63 then some (bitsOf c.e.w4 0 16) else s.pickMctx) = some i) ∧ s.mat.ctxs.get? i = none ∧ 1 ≤ bitsOf c.e.w3 0 25 ∧
      bitsOf c.e.w3 0 25 ≤ 2 ^ 24 ∧ 1 ≤ bitsOf c.e.w3 32 16 ∧ s.ten.qps.get? (bitsOf c.e.w2 0 21) = some v ∧ v.fn = c.fn ∧ v.st ≠ .error ∧
      v.st ≠ .quarantine ∧ s.ten.cqs.get? (bitsOf c.e.w2 21 20) = some d ∧ d.fn = c.fn ∧ d.st = .ready ∧ s.quotaOk c.fn .ctx 1 = true) ∧
    (∃ (s : State) (c : AdminCmd) (v : Mctx), s.domState (matDom (bitsOf c.e.w2 0 16)) = 2 ∧ Takes s c 0x32 [(2, ones 0 16), (3, 0), (4, 0),
      (5, 0), (6, 0), (7, 0)] ∧ s.mat.ctxs.get? (bitsOf c.e.w2 0 16) = some v ∧ v.fn = c.fn ∧ v.st ≠ .quarantine) ∧
    (∃ (s : State) (c : AdminCmd) (v : Mctx), s.domState (matDom (bitsOf c.e.w2 0 16)) = 2 ∧ Takes s c 0x34 [(2, ones 0 16), (3, ones 0 64),
      (4, 0), (5, 0), (6, 0), (7, 0)] ∧ s.mat.ctxs.get? (bitsOf c.e.w2 0 16) = some v ∧ v.fn = c.fn ∧ v.st ≠ .quarantine ∧ (∀ p ∈ v.posted,
      p.e.w2 ≠ c.e.w3)) ∧
    (∃ (s : State) (c : AdminCmd) (v : Mctx) (a : List Posted) (b : List Posted) (p : Posted),
      s.domState (matDom (bitsOf c.e.w2 0 16)) = 2 ∧ Takes s c 0x34 [(2, ones 0 16), (3, ones 0 64), (4, 0), (5, 0), (6, 0), (7, 0)] ∧
      s.mat.ctxs.get? (bitsOf c.e.w2 0 16) = some v ∧ v.fn = c.fn ∧ v.st ≠ .quarantine ∧ v.posted = a ++ p :: b ∧ p.e.w2 = c.e.w3 ∧
      (∀ x ∈ a, x.e.w2 ≠ c.e.w3)) ∧
    (∃ (s : State) (c : AdminCmd) (v : Mctx) (d : Cq), s.domState (matDom (bitsOf c.e.w2 0 16)) = 2 ∧ Takes s c 0x31 [(2, ones 0 16), (3,
      0), (4, 0), (5, 0), (6, 0), (7, 0)] ∧ s.mat.ctxs.get? (bitsOf c.e.w2 0 16) = some v ∧ v.fn = c.fn ∧ v.st ≠ .quarantine ∧
      s.mat.msgs = [] ∧ s.mat.fetches = [] ∧ s.ten.cqs.get? v.cq = some d ∧ d.st ≠ .error ∧ (s.fn d.fn).drain = none) ∧
    (∃ (s : State) (i : Nat) (v : Mctx), s.mat.ctxs.wf = true ∧ s.mat.ctxs.get? i = some v ∧ v.st = .quarantine ∧ (s.fn v.fn).drain = none) :=
  ⟨⟨(upq : State), (cmd 0x30 77 0 (w64 (2^24 + 65535*2^32)) 0 0 0 0 : AdminCmd), (0 : Nat), (qp0 : Qp), (cq0 : Cq), by decide +kernel⟩,
   ⟨((upm fun v => { v with posted := [posted0], charge := 7 }) : State), (cmd 0x32 77 0 0 0 0 0 0 : AdminCmd),
     ({ mctx0 with posted := [posted0], charge := 7 } : Mctx), by decide +kernel⟩,
   ⟨((upm fun v => { v with posted := [posted0, posted0] }) : State), (cmd 0x34 77 0 66 0 0 0 0 : AdminCmd),
     ({ mctx0 with posted := [posted0, posted0] } : Mctx), by decide +kernel⟩,
   ⟨((upm fun v => { v with posted := [posted0, posted0] }) : State), (cmd 0x34 77 0 55 0 0 0 0 : AdminCmd),
     ({ mctx0 with posted := [posted0, posted0] } : Mctx), ([] : List Posted), ([posted0] : List Posted), (posted0 : Posted),
     by decide +kernel⟩,
   ⟨((upm fun v => { v with posted := [posted0, posted0] }) : State), (cmd 0x31 77 0 0 0 0 0 0 : AdminCmd),
     ({ mctx0 with posted := [posted0, posted0] } : Mctx), (cq0 : Cq), by decide +kernel⟩,
   ⟨((upm fun v => { v with st := .quarantine }) : State), (0 : Nat), ({ mctx0 with st := .quarantine } : Mctx), by decide +kernel⟩⟩

/-- Concrete values meet the hypotheses of every clause of `Obligations.ReceivesMeetMessages`. -/
theorem witness_ReceivesMeetMessages :
    (∃ (s : State) (c : AdminCmd) (v : Mctx) (q : Qp) (e : Words8) (bus : Nat) (attr : Nat), s.domState (matDom (bitsOf c.e.w2 0 16)) = 2 ∧
      Takes s c 0x33 [(2, ones 0 33), (3, ones 0 64), (4, 0), (5, 0), (6, 0), (7, 0)] ∧ s.mat.ctxs.get? (bitsOf c.e.w2 0 16) = some v ∧
      v.fn = c.fn ∧ v.st = .ready ∧ bitsOf c.e.w2 16 17 = 1 ∧ c.e.w3.toNat % 64 = 0 ∧ bitsOf c.e.w3 48 16 = 0 ∧
      s.ten.qps.get? v.qp = some q ∧ Calm s ∧ s.look q.asid (c.e.w3.toNat / 4096) false = .ok bus attr ∧ reOk e = true ∧
      (bitAt e.w5 32 = true → s.hbmOwned c.fn e.w4.toNat (reLen e) = true) ∧ (∀ m ∈ s.mat.msgs, m.matched = true →
      (m.ctx = (bitsOf c.e.w2 0 16) → (m.at_ = .unexpected → matches_ e m = false))) ∧ v.posted.length < v.postMax ∧ s.postedAll < 2 ^ 24) ∧
    (∃ (s : State) (c : AdminCmd) (v : Mctx) (q : Qp) (e : Words8) (bus : Nat) (attr : Nat), s.domState (matDom (bitsOf c.e.w2 0 16)) = 2 ∧
      Takes s c 0x33 [(2, ones 0 33), (3, ones 0 64), (4, 0), (5, 0), (6, 0), (7, 0)] ∧ s.mat.ctxs.get? (bitsOf c.e.w2 0 16) = some v ∧
      v.fn = c.fn ∧ v.st = .ready ∧ bitsOf c.e.w2 16 17 = 1 ∧ c.e.w3.toNat % 64 = 0 ∧ bitsOf c.e.w3 48 16 = 0 ∧
      s.ten.qps.get? v.qp = some q ∧ Calm s ∧ s.look q.asid (c.e.w3.toNat / 4096) false = .ok bus attr ∧ reOk e = true ∧
      (bitAt e.w5 32 = true → s.hbmOwned c.fn e.w4.toNat (reLen e) = true) ∧ (v.postMax ≤ v.posted.length ∨ 2 ^ 24 ≤ s.postedAll)) ∧
    (∃ (s : State) (c : AdminCmd) (v : Mctx) (q : Qp) (e : Words8) (bus : Nat) (attr : Nat) (m : _),
      s.domState (matDom (bitsOf c.e.w2 0 16)) = 2 ∧ Takes s c 0x33 [(2, ones 0 33), (3, ones 0 64), (4, 0), (5, 0), (6, 0), (7, 0)] ∧
      s.mat.ctxs.get? (bitsOf c.e.w2 0 16) = some v ∧ v.fn = c.fn ∧ v.st = .ready ∧ bitsOf c.e.w2 16 17 = 1 ∧ c.e.w3.toNat % 64 = 0 ∧
      bitsOf c.e.w3 48 16 = 0 ∧ s.ten.qps.get? v.qp = some q ∧ Calm s ∧ s.look q.asid (c.e.w3.toNat / 4096) false = .ok bus attr ∧
      reOk e = true ∧ (bitAt e.w5 32 = true → s.hbmOwned c.fn e.w4.toNat (reLen e) = true) ∧
      ((s.mat.msgs.find? fun m => m.matched && m.ctx == (bitsOf c.e.w2 0 16) && m.at_ == .unexpected && matches_ e m) = some m) ∧
      m.rts = true ∧ v.posted.length < v.postMax ∧ s.postedAll < 2 ^ 24 ∧ (∀ k, s.tra.tag ≤ k → s.mat.fetches.get? k = none) ∧ 0 < m.len ∧
      0 < reLen e ∧ s.mat.fetches.wf = true) ∧
    (∃ (s : State) (c : AdminCmd) (v : Mctx) (q : Qp), s.domState (matDom (bitsOf c.e.w2 0 16)) = 2 ∧ Takes s c 0x35 [(2, ones 0 16), (3,
      ones 0 64), (4, ones 0 64), (5, ones 0 64), (6, ones 0 64), (7, 0)] ∧ s.mat.ctxs.get? (bitsOf c.e.w2 0 16) = some v ∧ v.fn = c.fn ∧
      v.st = .ready ∧ bitsOf c.e.w5 42 22 = 0 ∧ c.e.w6.toNat % 32 = 0 ∧ bitsOf c.e.w6 48 16 = 0 ∧ s.ten.qps.get? v.qp = some q ∧ Calm s ∧
      (∀ m ∈ s.mat.msgs, m.matched = true → (m.ctx = (bitsOf c.e.w2 0 16) → (m.at_ = .unexpected →
      matches_ ({ w0 := c.e.w3, w1 := c.e.w4, w2 := 0, w3 := w64 (bitsOf c.e.w5 0 41), w4 := 0, w5 := 0, w6 := 0, w7 := 0 } : Words8) m = false)))) ∧
    (∃ (s : State) (c : AdminCmd) (v : Mctx) (q : Qp) (bus : Nat) (attr : Nat) (m : _), s.domState (matDom (bitsOf c.e.w2 0 16)) = 2 ∧
      Takes s c 0x35 [(2, ones 0 16), (3, ones 0 64), (4, ones 0 64), (5, ones 0 64), (6, ones 0 64), (7, 0)] ∧
      s.mat.ctxs.get? (bitsOf c.e.w2 0 16) = some v ∧ v.fn = c.fn ∧ v.st = .ready ∧ bitsOf c.e.w5 42 22 = 0 ∧ c.e.w6.toNat % 32 = 0 ∧
      bitsOf c.e.w6 48 16 = 0 ∧ s.ten.qps.get? v.qp = some q ∧ Calm s ∧
      ((s.mat.msgs.find? fun m => m.matched && m.ctx == (bitsOf c.e.w2 0 16) && m.at_ == .unexpected && matches_ ({ w0 := c.e.w3, w1 := c.e.w4, w2 := 0, w3 := w64 (bitsOf c.e.w5 0 41), w4 := 0, w5 := 0, w6 := 0, w7 := 0 } : Words8) m) = some m) ∧
      s.look q.asid (c.e.w6.toNat / 4096) true = .ok bus attr) :=
  ⟨⟨(((upm fun v => v).wrF R.XLT_CTL F.XLT_CTL_PREFETCH 0) : State), (cmd 0x33 77 (w64 (2^16)) 0x10000 0 0 0 0 : AdminCmd), (mctx0 : Mctx),
     (qp0 : Qp), (re0 : Words8), (0x90000 : Nat), (0 : Nat), by decide +kernel⟩,
   ⟨(((upm fun v => { v with postMax := 1, posted := [posted0] }).wrF R.XLT_CTL F.XLT_CTL_PREFETCH 0) : State),
     (cmd 0x33 77 (w64 (2^16)) 0x10000 0 0 0 0 : AdminCmd), ({ mctx0 with postMax := 1, posted := [posted0] } : Mctx), (qp0 : Qp),
     (re0 : Words8), (0x90000 : Nat), (0 : Nat), by decide +kernel⟩,
   ⟨(({ (upm fun v => v) with mat.msgs := [{ unexp0 with rts := true, len := 8, count := 0 }] }.wrF R.XLT_CTL F.XLT_CTL_PREFETCH 0) : State),
     (cmd 0x33 77 (w64 (2^16)) 0x10000 0 0 0 0 : AdminCmd), (mctx0 : Mctx), (qp0 : Qp), (re0 : Words8), (0x90000 : Nat), (0 : Nat),
     ({ unexp0 with rts := true, len := 8, count := 0 } : Msg), by decide +kernel, by decide +kernel, by decide +kernel, by decide +kernel,
     by decide +kernel, by decide +kernel, by decide +kernel, by decide +kernel, by decide +kernel, by decide +kernel, by decide +kernel,
     by decide +kernel, by decide +kernel, by decide +kernel, by decide +kernel, by decide +kernel, by decide +kernel, fun _ _ => rfl,
     by decide +kernel⟩,
   ⟨(((upm fun v => v).wrF R.XLT_CTL F.XLT_CTL_PREFETCH 0) : State), (cmd 0x35 77 0 3 0 (w64 (2^39 + 2^40)) 0x10000 0 : AdminCmd),
     (mctx0 : Mctx), (qp0 : Qp), by decide +kernel⟩,
   ⟨(({ (upm fun v => v) with mat.msgs := [{ unexp0 with len := 8 }] }.wrF R.XLT_CTL F.XLT_CTL_PREFETCH 0) : State),
     (cmd 0x35 77 0 3 0 (w64 (2^39 + 2^40)) 0x10000 0 : AdminCmd), (mctx0 : Mctx), (qp0 : Qp), (0x90000 : Nat), (0 : Nat),
     ({ unexp0 with len := 8 } : Msg), by decide +kernel⟩⟩

/-- Concrete values meet the hypotheses of every clause of `Obligations.HeldMessagesAndFetchesGoOn`. -/
theorem witness_HeldMessagesAndFetchesGoOn :
    (∃ (s : State) (m : Msg) (g : Gate) (v : Qp) (x : Mctx), s.mat.msgs = [m] ∧ m.at_ = .held ∧ m.matched = true ∧ m.charged = true ∧
      s.gate? m.node m.srcNode m.srcQp m.dstQp = some g ∧ g.slots = [(m.msn, .held)] ∧ m.msn ≠ g.next ∧ s.ten.qps.get? m.dstQp = some v ∧
      s.mctx? m.ctx = some x ∧ x.st = .ready ∧ x.posted = [] ∧ s.fatal = false ∧ s.domState (matDom m.dstQp) = 2 ∧ s.xlt.missed = []) ∧
    (∃ (s : State) (n : Nat) (q : Nat) (d : Nat) (g : Gate), s.tra.gates.wf = true ∧ s.tra.gates.get? (gateKey n q d) = some g ∧
      s.fatal = false ∧ s.domState (matDom d) = 2 ∧ (∀ m ∈ s.mat.msgs, m.srcNode ≠ n ∨ (m.srcQp ≠ q ∨ m.dstQp ≠ d))) ∧
    (∃ (s : State) (i : Nat) (f : Fetch) (v : Qp), s.mat.fetches.get? i = some f ∧ s.ten.qps.get? f.localQp = some v ∧ s.fatal = false ∧
      s.domState (tenDom f.localQp) = 2 ∧ s.maySend f.sp none = true ∧ (s.space f.sp).resends = [] ∧ f.outs.length < 4 ∧ (∀ k,
      f.sp = .conn k → k = f.localQp) ∧ s.tableFull (f.localQp % 4) = false ∧ f.next < f.want) ∧
    (∃ (s : State) (i : Nat) (f : Fetch) (v : Qp) (a : _), s.mat.fetches.get? i = some f ∧ s.ten.qps.get? f.localQp = some v ∧
      s.fatal = false ∧ s.domState (tenDom f.localQp) = 2 ∧ s.maySend f.sp none = true ∧ (s.space f.sp).resends = [] ∧ f.outs.length < 4 ∧
      (∀ k, f.sp = .conn k → k = f.localQp) ∧ s.tableFull (f.localQp % 4) = false ∧ f.want ≤ f.next ∧ f.closing = .due a) ∧
    (∃ (s : State) (slice : Nat) (i : Nat) (x : Mctx) (a : List Posted) (b : List Posted) (p : Posted), s.fatal = false ∧ slice < 4 ∧
      s.domState (73 + slice) = 2 ∧ s.postedOf slice true < 65536 ∧
      ((s.mat.ctxs.find? fun c => c.1 % 4 == slice && c.2.posted.any fun p => !p.onDie) = some (i, x)) ∧ s.mat.ctxs.get? i = some x ∧
      x.posted = a ++ p :: b ∧ (∀ y ∈ a, y.onDie = true) ∧ p.onDie = false) :=
  ⟨⟨({ (upm fun v => v) with mat.msgs := [{ unexp0 with at_ := .held, charged := true, msn := 4 }], ten.qps := [(0, { qp0 with gate := { gateInit with slots := [(4, .held)] } })] } : State),
     ({ unexp0 with at_ := .held, charged := true, msn := 4 } : Msg), ({ gateInit with slots := [(4, .held)] } : Gate),
     ({ qp0 with gate := { gateInit with slots := [(4, .held)] } } : Qp), (mctx0 : Mctx), by decide +kernel⟩,
   ⟨({ upq with tra.gates := [(gateKey 5 8 0, { gateInit with last := 9 })] } : State), (5 : Nat), (8 : Nat), (0 : Nat),
     ({ gateInit with last := 9 } : Gate), by decide +kernel⟩,
   ⟨({ (upv fun v => { v with spray := true }) with mat.fetches := [(0, { fetch0 with want := 64 })] } : State), (0 : Nat),
     ({ fetch0 with want := 64 } : Fetch), ({ qp0 with spray := true } : Qp), by decide +kernel, by decide +kernel, by decide +kernel,
     by decide +kernel, by decide +kernel, by decide +kernel, by decide +kernel, fun _ h => by cases h; rfl, by decide +kernel⟩,
   ⟨({ (upv fun v => { v with spray := true }) with mat.fetches := [(0, { fetch0 with next := 64 })] } : State), (0 : Nat),
     ({ fetch0 with next := 64 } : Fetch), ({ qp0 with spray := true } : Qp), 7, by decide +kernel, by decide +kernel, by decide +kernel,
     by decide +kernel, by decide +kernel, by decide +kernel, by decide +kernel, fun _ h => by cases h; rfl, by decide +kernel⟩,
   ⟨({ upq with mat.ctxs := [(0, mctx0), (4, { mctx0 with posted := [posted0, { posted0 with onDie := false }, { posted0 with onDie := false }] })] } : State),
     (0 : Nat), (4 : Nat), ({ mctx0 with posted := [posted0, { posted0 with onDie := false }, { posted0 with onDie := false }] } : Mctx),
     ([posted0] : List Posted), ([{ posted0 with onDie := false }] : List Posted), ({ posted0 with onDie := false } : Posted),
     by decide +kernel⟩⟩

/-- Concrete values meet the hypotheses of every clause of `Obligations.WindowsOpenRevokeAndFree`. -/
theorem witness_WindowsOpenRevokeAndFree :
    (∃ (s : State) (c : AdminCmd) (i : Nat), Takes s c 0x40 [(2, ones 0 54 + ones 63 1), (3, ones 0 48), (4, ones 0 53), (5, ones 0 39), (6,
      ones 0 24), (7, 0)] ∧ ((if bitAt c.e.w2 63 then some (bitsOf c.e.w6 0 24) else s.freeWin) = some i) ∧ transient i = false ∧
      (s.win i).st = .free ∧ (s.win i).revoke = none ∧ s.quotaOk c.fn .window 1 = true ∧
      (bitAt c.e.w2 49 = true ∨ (bitAt c.e.w2 50 = true ∨ bitAt c.e.w2 51 = true)) ∧ 0 < bitsOf c.e.w3 0 48 ∧
      bitsOf c.e.w2 0 48 + bitsOf c.e.w3 0 48 ≤ 2 ^ 48 ∧ (bitAt c.e.w2 51 = true → bitsOf c.e.w2 0 48 % 8 = 0) ∧ (bitAt c.e.w2 48 = true →
      s.hbmOwned c.fn (bitsOf c.e.w2 0 48) (bitsOf c.e.w3 0 48) = true) ∧ (bitAt c.e.w2 48 = false →
      s.granted c.fn (bitsOf c.e.w4 21 20) = true) ∧ (bitAt c.e.w2 53 = true ∨ ((∃ q, s.ten.qps.get? (bitsOf c.e.w4 0 21) = some q ∧
      (q.fn = c.fn ∧ (q.st ≠ .error ∧ q.st ≠ .quarantine))))) ∧ (s.ten.eqs.get? (bitsOf c.e.w4 41 12)).map Eq.fn = some c.fn) ∧
    (∃ (s : State) (c : AdminCmd) (v : Window), Takes s c 0x41 [(2, ones 0 32), (3, 0), (4, 0), (5, 0), (6, 0), (7, 0)] ∧
      s.wins.get? (bitsOf c.e.w2 8 24) = some v ∧ transient (bitsOf c.e.w2 8 24) = false ∧ v.st = .open_ ∧ v.owner = c.fn ∧
      v.gen.toNat = bitsOf c.e.w2 0 8 ∧ v.revoke = none) ∧
    (∃ (s : State) (i : Nat) (v : Window) (r : CmdRef), s.wins.get? i = some v ∧ v.st = .revoking ∧ v.revoke = some r ∧ s.fatal = false ∧
      (∀ x ∈ s.tra.resps, x.2.win ≠ i) ∧ fnOk r.fn = true ∧ (s.fn r.fn).drain = none) ∧
    (∃ (s : State) (c : AdminCmd) (v : Window), Takes s c 0x42 [(2, ones 0 24), (3, 0), (4, 0), (5, 0), (6, 0), (7, 0)] ∧
      s.wins.get? (bitsOf c.e.w2 0 24) = some v ∧ transient (bitsOf c.e.w2 0 24) = false ∧ v.owner = c.fn ∧ v.st = .open_ ∧ v.revoke = none) ∧
    (∃ (s : State) (i : Nat) (v : Window), s.wins.get? i = some v ∧ v.st = .quarantine ∧ (s.fn v.owner).drain = none) :=
  ⟨⟨({ upq with wins := [(4, { win0 with st := .free })] } : State),
     (cmd 0x40 77 (w64 (0x4000 + 2^49 + 2^53+2^63)) 64 (w64 (9*2^21 + 3*2^41)) 0 4 0 : AdminCmd), (4 : Nat), by decide +kernel⟩,
   ⟨({ { upq with wins := [(4, { win0 with len := 64 })] } with tra.resps := [(0, resp0),(1,{ resp0 with allSent := true }),(2,{ resp0 with win := 5 })] } : State),
     (cmd 0x41 77 (w64 (4*256+2)) 0 0 0 0 0 : AdminCmd), ({ win0 with len := 64 } : Window), by decide +kernel⟩,
   ⟨({ upq with wins := [(4, { win0 with st := .revoking, revoke := some { fn := 0, cookie := 7, index := 1 } })] } : State), (4 : Nat),
     ({ win0 with st := .revoking, revoke := some { fn := 0, cookie := 7, index := 1 } } : Window),
     ({ fn := 0, cookie := 7, index := 1 } : CmdRef), by decide +kernel⟩,
   ⟨({ upq with wins := [(4, { win0 with len := 64 })] } : State), (cmd 0x42 77 4 0 0 0 0 0 : AdminCmd), ({ win0 with len := 64 } : Window),
     by decide +kernel⟩,
   ⟨({ upq with wins := [(4, { win0 with st := .quarantine })] } : State), (4 : Nat), ({ win0 with st := .quarantine } : Window),
     by decide +kernel⟩⟩

/-- Concrete values meet the hypotheses of every clause of `Obligations.WindowAccessesAreCheckedAndComplete`. -/
theorem witness_WindowAccessesAreCheckedAndComplete :
    (∃ (s : State) (p : Packet) (v : Qp), Served s (recvDoms p) ∧ (p.type = 3 ∨ (p.type = 4 ∨ p.type = 6)) ∧ p.node = false ∧
      s.target p = some v ∧ v.everReady = true ∧ v.st = .ready ∧ v.sp.recvE = p.psn ∧ v.sp.recvMap = 0 ∧ v.pkey = p.pkey ∧
      p.pkey ∈ (s.fn v.fn).keys ∧ ((s.fn v.fn).state = 1 ∨ (s.win (winIdx p)).hbm = true) ∧ transient (winIdx p) = false ∧
      (s.win (winIdx p)).gen ≠ winGen p) ∧
    (∃ (s : State) (p : Packet) (v : Qp), Served s (recvDoms p) ∧ (p.type = 3 ∨ (p.type = 4 ∨ p.type = 6)) ∧ p.node = false ∧
      s.target p = some v ∧ v.everReady = true ∧ v.st = .ready ∧ v.sp.recvE = p.psn ∧ v.sp.recvMap = 0 ∧ v.pkey = p.pkey ∧
      p.pkey ∈ (s.fn v.fn).keys ∧ ((s.fn v.fn).state = 1 ∨ (s.win (winIdx p)).hbm = true) ∧ transient (winIdx p) = false ∧
      (s.win (winIdx p)).gen = winGen p ∧ (s.win (winIdx p)).st ≠ .open_) ∧
    (∃ (s : State) (p : Packet) (v : Qp), Served s (recvDoms p) ∧ (p.type = 3 ∨ (p.type = 4 ∨ p.type = 6)) ∧ p.node = false ∧
      s.target p = some v ∧ v.everReady = true ∧ v.st = .ready ∧ v.sp.recvE = p.psn ∧ v.sp.recvMap = 0 ∧ v.pkey = p.pkey ∧
      p.pkey ∈ (s.fn v.fn).keys ∧ ((s.fn v.fn).state = 1 ∨ (s.win (winIdx p)).hbm = true) ∧ transient (winIdx p) = false ∧
      (s.win (winIdx p)).gen = winGen p ∧ (s.win (winIdx p)).st = .open_ ∧
      ((s.win (winIdx p)).owner ≠ v.fn ∨ ((s.win (winIdx p)).anyQp = false ∧ (s.win (winIdx p)).bindQp ≠ p.dstQp))) ∧
    (∃ (s : State) (p : Packet) (v : Qp), Served s (recvDoms p) ∧ (p.type = 3 ∨ (p.type = 4 ∨ p.type = 6)) ∧ p.node = false ∧
      s.target p = some v ∧ v.everReady = true ∧ v.st = .ready ∧ v.sp.recvE = p.psn ∧ v.sp.recvMap = 0 ∧ v.pkey = p.pkey ∧
      p.pkey ∈ (s.fn v.fn).keys ∧ ((s.fn v.fn).state = 1 ∨ (s.win (winIdx p)).hbm = true) ∧ transient (winIdx p) = false ∧
      (s.win (winIdx p)).gen = winGen p ∧ (s.win (winIdx p)).st = .open_ ∧ (s.win (winIdx p)).owner = v.fn ∧
      ((s.win (winIdx p)).anyQp = true ∨ (s.win (winIdx p)).bindQp = p.dstQp) ∧ ((s.win (winIdx p)).anySrc = false ∧
      ((s.win (winIdx p)).srcNode ≠ p.srcNode ∨ (s.win (winIdx p)).srcQp ≠ p.srcQp))) ∧
    (∃ (s : State) (p : Packet) (v : Qp), Served s (recvDoms p) ∧ (p.type = 3 ∨ (p.type = 4 ∨ p.type = 6)) ∧ p.node = false ∧
      s.target p = some v ∧ v.everReady = true ∧ v.st = .ready ∧ v.sp.recvE = p.psn ∧ v.sp.recvMap = 0 ∧ v.pkey = p.pkey ∧
      p.pkey ∈ (s.fn v.fn).keys ∧ ((s.fn v.fn).state = 1 ∨ (s.win (winIdx p)).hbm = true) ∧ transient (winIdx p) = false ∧
      (s.win (winIdx p)).gen = winGen p ∧ (s.win (winIdx p)).st = .open_ ∧ (s.win (winIdx p)).owner = v.fn ∧
      ((s.win (winIdx p)).anyQp = true ∨ (s.win (winIdx p)).bindQp = p.dstQp) ∧
      ((s.win (winIdx p)).anySrc = true ∨ ((s.win (winIdx p)).srcNode = p.srcNode ∧ (s.win (winIdx p)).srcQp = p.srcQp)) ∧ ((p.type = 3 ∧
      (s.win (winIdx p)).write = false) ∨ ((p.type = 4 ∧ (s.win (winIdx p)).read = false) ∨ (p.type = 6 ∧
      (s.win (winIdx p)).atomic = false)))) ∧
    (∃ (s : State) (p : Packet) (v : Qp), Served s (recvDoms p) ∧ (p.type = 3 ∨ (p.type = 4 ∨ p.type = 6)) ∧ p.node = false ∧
      s.target p = some v ∧ v.everReady = true ∧ v.st = .ready ∧ v.sp.recvE = p.psn ∧ v.sp.recvMap = 0 ∧ v.pkey = p.pkey ∧
      p.pkey ∈ (s.fn v.fn).keys ∧ ((s.fn v.fn).state = 1 ∨ (s.win (winIdx p)).hbm = true) ∧ transient (winIdx p) = false ∧
      (s.win (winIdx p)).gen = winGen p ∧ (s.win (winIdx p)).st = .open_ ∧ (s.win (winIdx p)).owner = v.fn ∧
      ((s.win (winIdx p)).anyQp = true ∨ (s.win (winIdx p)).bindQp = p.dstQp) ∧
      ((s.win (winIdx p)).anySrc = true ∨ ((s.win (winIdx p)).srcNode = p.srcNode ∧ (s.win (winIdx p)).srcQp = p.srcQp)) ∧ p.type = 4 ∧
      (s.win (winIdx p)).read = true ∧ (s.win (winIdx p)).len < p.w4.toNat + p.msgLen) ∧
    (∃ (s : State) (p : Packet) (v : Qp), Served s (recvDoms p) ∧ (p.type = 3 ∨ (p.type = 4 ∨ p.type = 6)) ∧ p.node = false ∧
      s.target p = some v ∧ v.everReady = true ∧ v.st = .ready ∧ v.sp.recvE = p.psn ∧ v.sp.recvMap = 0 ∧ v.pkey = p.pkey ∧
      p.pkey ∈ (s.fn v.fn).keys ∧ ((s.fn v.fn).state = 1 ∨ (s.win (winIdx p)).hbm = true) ∧ transient (winIdx p) = false ∧
      (s.win (winIdx p)).gen = winGen p ∧ (s.win (winIdx p)).st = .open_ ∧ (s.win (winIdx p)).owner = v.fn ∧
      ((s.win (winIdx p)).anyQp = true ∨ (s.win (winIdx p)).bindQp = p.dstQp) ∧
      ((s.win (winIdx p)).anySrc = true ∨ ((s.win (winIdx p)).srcNode = p.srcNode ∧ (s.win (winIdx p)).srcQp = p.srcQp)) ∧ p.type = 4 ∧
      (s.win (winIdx p)).read = true ∧ p.w4.toNat + p.msgLen ≤ (s.win (winIdx p)).len ∧ 0 < p.msgLen ∧ 0 < v.mtu ∧ Calm s ∧
      (s.win (winIdx p)).hbm = true) ∧
    (∃ (s : State) (p : Packet) (v : Qp) (bus : _) (attr : _), Served s (recvDoms p) ∧ (p.type = 3 ∨ (p.type = 4 ∨ p.type = 6)) ∧
      p.node = false ∧ s.target p = some v ∧ v.everReady = true ∧ v.st = .ready ∧ v.sp.recvE = p.psn ∧ v.sp.recvMap = 0 ∧ v.pkey = p.pkey ∧
      p.pkey ∈ (s.fn v.fn).keys ∧ ((s.fn v.fn).state = 1 ∨ (s.win (winIdx p)).hbm = true) ∧ transient (winIdx p) = false ∧
      (s.win (winIdx p)).gen = winGen p ∧ (s.win (winIdx p)).st = .open_ ∧ (s.win (winIdx p)).owner = v.fn ∧
      ((s.win (winIdx p)).anyQp = true ∨ (s.win (winIdx p)).bindQp = p.dstQp) ∧
      ((s.win (winIdx p)).anySrc = true ∨ ((s.win (winIdx p)).srcNode = p.srcNode ∧ (s.win (winIdx p)).srcQp = p.srcQp)) ∧ p.type = 4 ∧
      (s.win (winIdx p)).read = true ∧ p.w4.toNat + p.msgLen ≤ (s.win (winIdx p)).len ∧ 0 < p.msgLen ∧ 0 < v.mtu ∧ Calm s ∧
      (s.win (winIdx p)).hbm = false ∧ ((s.win (winIdx p)).base + p.w4.toNat) % 4096 + (Nat.min v.mtu p.msgLen) ≤ 4096 ∧
      s.look (s.win (winIdx p)).asid (((s.win (winIdx p)).base + p.w4.toNat) / 4096) false = .ok bus attr ∧
      s.fnReady (s.win (winIdx p)).owner = true ∧ s.portRoom (s.win (winIdx p)).owner = true) ∧
    (∃ (s : State) (p : Packet) (v : Qp), Served s (recvDoms p) ∧ (p.type = 3 ∨ (p.type = 4 ∨ p.type = 6)) ∧ p.node = false ∧
      s.target p = some v ∧ v.everReady = true ∧ v.st = .ready ∧ v.sp.recvE = p.psn ∧ v.sp.recvMap = 0 ∧ v.pkey = p.pkey ∧
      p.pkey ∈ (s.fn v.fn).keys ∧ ((s.fn v.fn).state = 1 ∨ (s.win (winIdx p)).hbm = true) ∧ transient (winIdx p) = false ∧
      (s.win (winIdx p)).gen = winGen p ∧ (s.win (winIdx p)).st = .open_ ∧ (s.win (winIdx p)).owner = v.fn ∧
      ((s.win (winIdx p)).anyQp = true ∨ (s.win (winIdx p)).bindQp = p.dstQp) ∧
      ((s.win (winIdx p)).anySrc = true ∨ ((s.win (winIdx p)).srcNode = p.srcNode ∧ (s.win (winIdx p)).srcQp = p.srcQp)) ∧ p.type = 6 ∧
      (s.win (winIdx p)).atomic = true ∧ bitsOf p.w5 0 2 ≠ 3 ∧ p.w4.toNat + atomSize p ≤ (s.win (winIdx p)).len ∧
      p.w4.toNat % atomSize p = 0 ∧ (s.win (winIdx p)).hbm = true) ∧
    (∃ (s : State) (p : Packet) (v : Qp) (bus : _) (attr : _), Served s (recvDoms p) ∧ (p.type = 3 ∨ (p.type = 4 ∨ p.type = 6)) ∧
      p.node = false ∧ s.target p = some v ∧ v.everReady = true ∧ v.st = .ready ∧ v.sp.recvE = p.psn ∧ v.sp.recvMap = 0 ∧ v.pkey = p.pkey ∧
      p.pkey ∈ (s.fn v.fn).keys ∧ ((s.fn v.fn).state = 1 ∨ (s.win (winIdx p)).hbm = true) ∧ transient (winIdx p) = false ∧
      (s.win (winIdx p)).gen = winGen p ∧ (s.win (winIdx p)).st = .open_ ∧ (s.win (winIdx p)).owner = v.fn ∧
      ((s.win (winIdx p)).anyQp = true ∨ (s.win (winIdx p)).bindQp = p.dstQp) ∧
      ((s.win (winIdx p)).anySrc = true ∨ ((s.win (winIdx p)).srcNode = p.srcNode ∧ (s.win (winIdx p)).srcQp = p.srcQp)) ∧ p.type = 6 ∧
      (s.win (winIdx p)).atomic = true ∧ bitsOf p.w5 0 2 ≠ 3 ∧ p.w4.toNat + atomSize p ≤ (s.win (winIdx p)).len ∧
      p.w4.toNat % atomSize p = 0 ∧ (s.win (winIdx p)).hbm = false ∧ (s.win (winIdx p)).base % 8 = 0 ∧
      s.atomUsable (fnPort (s.win (winIdx p)).owner) = true ∧ s.atomsOut (fnPort (s.win (winIdx p)).owner) < 256 ∧ Calm s ∧
      s.look (s.win (winIdx p)).asid (((s.win (winIdx p)).base + p.w4.toNat) / 4096) true = .ok bus attr) ∧
    (∃ (s : State) (tag : Nat) (i : Nat) (a : Nat) (n : Nat) (r : HReq) (op : AtomOp) (v : Resp), memWf s.hbm = true ∧
      s.tra.hreqs.get? tag = some r ∧ s.fatal = false ∧ r.for_ = .atom i ∧ r.atom = some op ∧ (n = (if op.wide then 8 else 4)) ∧
      r.segs = [(true, a, n)] ∧ s.tra.resps.get? i = some v ∧ v.allSent = false) ∧
    (∃ (s : State) (tag : Nat) (i : Nat) (r : HReq) (op : AtomOp) (v : Resp) (st : HostStatus), s.tra.hreqs.get? tag = some r ∧
      s.fatal = false ∧ r.for_ = .atom i ∧ r.atom = some op ∧ 0 < r.hostLen ∧ s.tra.resps.get? i = some v ∧ s.linkSecure r.fn = true ∧
      v.allSent = false ∧ v.gone = false ∧ st ≠ .ok) ∧
    (∃ (s : State) (tag : Nat) (i : Nat) (bus : Nat) (data : List Byte) (r : HReq) (v : Resp) (b : ReadBuf), s.tra.hreqs.get? tag = some r ∧
      s.fatal = false ∧ r.for_ = .resp i ∧ r.atom = none ∧ data ≠ [] ∧ r.segs = [(false, bus, data.length)] ∧ s.tra.resps.get? i = some v ∧
      v.rd = some b ∧ b.tag = some tag ∧ v.allSent = false ∧ s.linkSecure r.fn = true) :=
  ⟨⟨({ upq with wins := [(4, { win0 with gen := 3 })] } : State), ({ pk0 with type := 3,  w5 := pk0.w5 ||| 4 } : Packet), (qp0 : Qp),
     by decide +kernel⟩,
   ⟨({ upq with wins := [(4, { win0 with st := .revoking })] } : State), ({ pk0 with type := 4,  w5 := pk0.w5 ||| 4 } : Packet), (qp0 : Qp),
     by decide +kernel⟩,
   ⟨({ upq with wins := [(4, { win0 with owner := 0x800 })] } : State), ({ pk0 with type := 6,  w5 := pk0.w5 ||| 4 } : Packet), (qp0 : Qp),
     by decide +kernel⟩,
   ⟨({ upq with wins := [(4, { win0 with anySrc := false })] } : State), ({ pk0 with type := 3,  w5 := pk0.w5 ||| 4 } : Packet), (qp0 : Qp),
     by decide +kernel⟩,
   ⟨({ upq with wins := [(4, { win0 with write := false })] } : State), ({ pk0 with type := 3,  w5 := pk0.w5 ||| 4 } : Packet), (qp0 : Qp),
     by decide +kernel⟩,
   ⟨({ upq with wins := [(4, { win0 with len := 4 })] } : State), ({ pk0 with type := 4, w4 := 1, w5 := pk0.w5 ||| 4 } : Packet),
     (qp0 : Qp), by decide +kernel⟩,
   ⟨({ upq with wins := [(4, { win0 with write := false })] } : State), ({ pk0 with type := 4,  w5 := pk0.w5 ||| 4 } : Packet), (qp0 : Qp),
     by decide +kernel⟩,
   ⟨(({ upq with wins := [(4, { win0 with hbm := false, base := 0x10000 })] }).setFn 0 { upq.fn 0 with atomEn := true } : State),
     ({ pk0 with type := 4, w4 := 8, w5 := pk0.w5 ||| 4 } : Packet), (qp0 : Qp), 0x90000, 0, by decide +kernel⟩,
   ⟨({ upq with wins := [(4, { win0 with write := false })] } : State), ({ pk0 with type := 6,  w5 := pk0.w5 ||| 4 } : Packet), (qp0 : Qp),
     by decide +kernel⟩,
   ⟨(({ upq with wins := [(4, { win0 with hbm := false, base := 0x10000 })] }).setFn 0 { upq.fn 0 with atomEn := true } : State),
     ({ pk0 with type := 6, w4 := 8, w5 := pk0.w5 ||| 4 } : Packet), (qp0 : Qp), 0x90000, 0, by decide +kernel⟩,
   ⟨({ upw with tra.hreqs := [(5, { fn := 0, for_ := .atom 0, segs := [(true, 0x4000, 4)], reqs := 0, atom := some { aop := 0, wide := false, operand := 0xFFFFFFFFFFFFFFFF, compare := 7 } })], tra.resps := [(0, { resp0 with atomic := true })], hbm := [(0x4000, 7),(0x4004, 9)] } : State),
     (5 : Nat), (0 : Nat), (0x4000 : Nat), (4 : Nat),
     ({ fn := 0, for_ := .atom 0, segs := [(true, 0x4000, 4)], reqs := 0, atom := some { aop := 0, wide := false, operand := 0xFFFFFFFFFFFFFFFF, compare := 7 } } : HReq),
     ({ aop := 0, wide := false, operand := 0xFFFFFFFFFFFFFFFF, compare := 7 } : AtomOp), ({ resp0 with atomic := true } : Resp),
     by decide +kernel⟩,
   ⟨({ upw with tra.hreqs := [(5, { fn := 0, for_ := .atom 0, segs := [(false, 0x4000, 8)], reqs := 1, atom := some { aop := 0, wide := true, operand := 1, compare := 0 } })], tra.resps := [(0, { resp0 with atomic := true })] } : State),
     (5 : Nat), (0 : Nat),
     ({ fn := 0, for_ := .atom 0, segs := [(false, 0x4000, 8)], reqs := 1, atom := some { aop := 0, wide := true, operand := 1, compare := 0 } } : HReq),
     ({ aop := 0, wide := true, operand := 1, compare := 0 } : AtomOp), ({ resp0 with atomic := true } : Resp), HostStatus.ur,
     by decide +kernel⟩,
   ⟨({ upw with tra.hreqs := [(5, { fn := 0, for_ := .resp 0, segs := [(false, 0x9000, 3)], reqs := 1, atom := none })], tra.resps := [(0, { resp0 with rd := some { off := 0, len := 3, tag := some 5, bytes := [] } })] } : State),
     (5 : Nat), (0 : Nat), (0x9000 : Nat), ([7,8,9] : List Byte),
     ({ fn := 0, for_ := .resp 0, segs := [(false, 0x9000, 3)], reqs := 1, atom := none } : HReq),
     ({ resp0 with rd := some { off := 0, len := 3, tag := some 5, bytes := [] } } : Resp),
     ({ off := 0, len := 3, tag := some 5, bytes := [] } : ReadBuf), by decide +kernel⟩⟩

/-- Concrete values meet the hypotheses of every clause of `Obligations.GroupsAreCreatedAndDestroyed`. -/
theorem witness_GroupsAreCreatedAndDestroyed :
    (∃ (s : State) (c : AdminCmd) (bs : List Byte), s.domState (colDom (bitsOf c.e.w2 0 16)) = 2 ∧ Takes s c 0x50 [(2, ones 0 60), (3,
      ones 0 41), (4, ones 0 64), (5, 0), (6, 0), (7, 0)] ∧ s.grps.get? (bitsOf c.e.w2 0 16) = none ∧ c.e.w4.toNat % 64 = 0 ∧
      CmdSees s c.fn (bitsOf c.e.w2 40 20) c.e.w4 (treeLen (.bytes bs)) ∧ s.quotaOk c.fn .group 1 = true ∧ ((bitsOf c.e.w3 33 8) ≠ 0 →
      ((∃ v, s.ten.qps.get? (bitsOf c.e.w3 0 21) = some v ∧ (v.fn = c.fn ∧ (v.st ≠ .error ∧ v.st ≠ .quarantine))))) ∧
      (s.ten.eqs.get? (bitsOf c.e.w3 21 12)).map Eq.fn = some c.fn ∧ BitVec.ofNat 16 (bitsOf c.e.w2 24 16) ∈ (s.fn c.fn).keys ∧
      s.treeOk bs = true ∧ treeEdges bs (s.now + s.edgeT) ≠ [] ∧
      ((bitsOf c.e.w3 33 8) ≠ 0 ∨ (treeEdges bs (s.now + s.edgeT)).any (·.up) = true) ∧
      s.storeUsed + stagingOf (bitsOf (treeWord bs 0) 26 7) s.cwin * 64 ≤ s.storeGrains) ∧
    (∃ (s : State) (c : AdminCmd) (v : Group), s.domState (colDom (bitsOf c.e.w2 0 16)) = 2 ∧ Takes s c 0x51 [(2, ones 0 16), (3, 0), (4,
      0), (5, 0), (6, 0), (7, 0)] ∧ s.grps.get? (bitsOf c.e.w2 0 16) = some v ∧ v.fn = c.fn ∧ v.live = true ∧ v.op = none ∧
      v.destroy = none ∧ s.xlt.missed = []) ∧
    (∃ (s : State) (g : Nat) (v : Group) (r : CmdRef), s.grps.get? g = some v ∧ v.destroy = some r ∧ s.fatal = false ∧
      (v.localN = 0 ∨ s.ten.qps.get? v.bindQp = none) ∧ fnOk r.fn = true ∧ (s.fn r.fn).drain = none) ∧
    (∃ (s : State) (c : AdminCmd) (v : Group), s.domState (colDom (bitsOf c.e.w2 0 16)) = 2 ∧ Takes s c 0x52 [(2, ones 0 16), (3, 0), (4,
      0), (5, 0), (6, 0), (7, 0)] ∧ s.grps.get? (bitsOf c.e.w2 0 16) = some v ∧ v.fn = c.fn ∧ v.destroy = none) ∧
    (∃ (s : State) (g : Nat) (v : Group), s.grps.get? g = some v ∧ v.st = .quarantine ∧ (s.fn v.fn).drain = none) :=
  ⟨⟨(upq : State), (cmd 0x50 77 (w64 (2*2^16+0x8001*2^24+9*2^40)) (w64 (3*2^21 + 2*2^33)) 0x40 0 0 0 : AdminCmd),
     (bytesOfWords [w64 (1+5*2^8+2*2^26), w64 (2+6*2^8), w64 (3+7*2^8)] : List Byte), by decide +kernel⟩,
   ⟨((upg fun v => { v with st := .ready }) : State), (cmd 0x51 77 0 0 0 0 0 0 : AdminCmd), ({ grp0 with st := .ready } : Group),
     by decide +kernel⟩,
   ⟨((upg fun v => { v with st := .error, localN := 0, destroy := some { fn := 0, cookie := 7, index := 1 } }) : State), (0 : Nat),
     ({ grp0 with st := .error, localN := 0, destroy := some { fn := 0, cookie := 7, index := 1 } } : Group),
     ({ fn := 0, cookie := 7, index := 1 } : CmdRef), by decide +kernel⟩,
   ⟨((upg fun v => { v with st := .ready }) : State), (cmd 0x52 77 0 0 0 0 0 0 : AdminCmd), ({ grp0 with st := .ready } : Group),
     by decide +kernel⟩,
   ⟨((upg fun v => { v with st := .quarantine }) : State), (0 : Nat), ({ grp0 with st := .quarantine } : Group), by decide +kernel⟩⟩

/-- Concrete values meet the hypotheses of every clause of `Obligations.CollectivePacketsAreCheckedAndAct`. -/
theorem witness_CollectivePacketsAreCheckedAndAct :
    (∃ (s : State) (i : Nat) (p : Packet) (c : _), Served s [colDom (pkGroup p)] ∧ c ∈ [(0x10, Instr.collUpReceive i p), (0x11,
      .collDownReceive i p), (0x12, .collCredit i p), (0x13, .collAbort i p)] ∧ 0x14 ≤ p.type ∧ p.type ≤ 0x17) ∧
    (∃ (s : State) (i : Nat) (p : Packet) (c : _), Served s [colDom (pkGroup p)] ∧ c ∈ [(0x10, Instr.collUpReceive i p), (0x11,
      .collDownReceive i p), (0x12, .collCredit i p), (0x13, .collAbort i p)] ∧ p.type = c.1 ∧ pkPass p = 3) ∧
    (∃ (s : State) (i : Nat) (p : Packet) (c : _), Served s [colDom (pkGroup p)] ∧ c ∈ [(0x10, Instr.collUpReceive i p), (0x11,
      .collDownReceive i p), (0x12, .collCredit i p), (0x13, .collAbort i p)] ∧ p.type = c.1 ∧ pkPass p ≠ 3 ∧
      s.grps.get? (pkGroup p) = none) ∧
    (∃ (s : State) (i : Nat) (p : Packet) (c : _) (v : _), Served s [colDom (pkGroup p)] ∧ c ∈ [(0x10, Instr.collUpReceive i p), (0x11,
      .collDownReceive i p), (0x12, .collCredit i p), (0x13, .collAbort i p)] ∧ p.type = c.1 ∧ pkPass p ≠ 3 ∧
      s.grps.get? (pkGroup p) = some v ∧ v.gen ≠ pkGen p) ∧
    (∃ (s : State) (i : Nat) (p : Packet) (c : _) (v : _), Served s [colDom (pkGroup p)] ∧ c ∈ [(0x10, Instr.collUpReceive i p), (0x11,
      .collDownReceive i p), (0x12, .collCredit i p), (0x13, .collAbort i p)] ∧ p.type = c.1 ∧ pkPass p ≠ 3 ∧
      s.grps.get? (pkGroup p) = some v ∧ v.gen = pkGen p ∧ v.st = .error) ∧
    (∃ (s : State) (i : Nat) (p : Packet) (c : _) (v : _), Served s [colDom (pkGroup p)] ∧ c ∈ [(0x10, Instr.collUpReceive i p), (0x11,
      .collDownReceive i p), (0x12, .collCredit i p), (0x13, .collAbort i p)] ∧ p.type = c.1 ∧ pkPass p ≠ 3 ∧
      s.grps.get? (pkGroup p) = some v ∧ (v.st = .free ∨ v.st = .quarantine)) ∧
    (∃ (s : State) (i : Nat) (p : Packet) (c : _) (v : _), Served s [colDom (pkGroup p)] ∧ c ∈ [(0x10, Instr.collUpReceive i p), (0x11,
      .collDownReceive i p), (0x12, .collCredit i p), (0x13, .collAbort i p)] ∧ p.type = c.1 ∧ pkPass p ≠ 3 ∧
      s.grps.get? (pkGroup p) = some v ∧ v.gen = pkGen p ∧ v.live = true ∧ v.pkey ≠ p.pkey) ∧
    (∃ (s : State) (i : Nat) (p : Packet) (c : _) (v : _), Served s [colDom (pkGroup p)] ∧ c ∈ [(0x10, Instr.collUpReceive i p), (0x11,
      .collDownReceive i p), (0x12, .collCredit i p), (0x13, .collAbort i p)] ∧ p.type = c.1 ∧ pkPass p ≠ 3 ∧
      s.grps.get? (pkGroup p) = some v ∧ v.gen = pkGen p ∧ v.live = true ∧ v.pkey = p.pkey ∧ v.edge? p.srcNode = none) ∧
    (∃ (s : State) (i : Nat) (p : Packet) (c : _) (v : _) (e : _), Served s [colDom (pkGroup p)] ∧ c ∈ [(0x10, Instr.collUpReceive i p),
      (0x11, .collDownReceive i p), (0x12, .collCredit i p), (0x13, .collAbort i p)] ∧ p.type = c.1 ∧ pkPass p ≠ 3 ∧
      s.grps.get? (pkGroup p) = some v ∧ v.gen = pkGen p ∧ v.live = true ∧ v.pkey = p.pkey ∧ v.edge? p.srcNode = some e ∧ v.op = none ∧
      ((c.1 = 0x10 ∧ e.up = true) ∨ ((c.1 = 0x11 ∧ e.up = false) ∨ (c.1 = 0x12 ∧ e.up = bitAt p.w6 32)))) ∧
    (∃ (s : State) (p : Packet) (v : Group) (e : Edge), Served s [colDom (pkGroup p)] ∧ pkPass p ≠ 3 ∧ s.grps.get? (pkGroup p) = some v ∧
      v.gen = pkGen p ∧ v.pkey = p.pkey ∧ v.edge? p.srcNode = some e ∧ v.op = none ∧ v.st = .ready ∧ v.localN ≠ 0 ∧
      collFits v e p true = true ∧ pkOpSeq p = v.opSeq ∧ p.type = 0x10 ∧ pkPass p = 1) ∧
    (∃ (s : State) (p : Packet) (v : Group) (e : Edge), Served s [colDom (pkGroup p)] ∧ pkPass p ≠ 3 ∧ s.grps.get? (pkGroup p) = some v ∧
      v.gen = pkGen p ∧ v.pkey = p.pkey ∧ v.edge? p.srcNode = some e ∧ v.op = none ∧ v.st = .ready ∧ v.localN ≠ 0 ∧
      collFits v e p false = true ∧ pkOpSeq p = v.opSeq ∧ p.type = 0x11 ∧ pkPass p = 1 ∧ (∀ k ∈ v.chunks, k.used = false)) ∧
    (∃ (s : State) (p : Packet) (v : Group) (e : Edge), Served s [colDom (pkGroup p)] ∧ pkPass p ≠ 3 ∧ s.grps.get? (pkGroup p) = some v ∧
      v.gen = pkGen p ∧ v.pkey = p.pkey ∧ v.edge? p.srcNode = some e ∧ v.op = none ∧ v.live = true ∧ p.type = 0x12 ∧ e.up ≠ bitAt p.w6 32) ∧
    (∃ (s : State) (p : Packet) (v : Group) (e : Edge), Served s [colDom (pkGroup p)] ∧ pkPass p ≠ 3 ∧ s.grps.get? (pkGroup p) = some v ∧
      v.gen = pkGen p ∧ v.pkey = p.pkey ∧ v.edge? p.srcNode = some e ∧ v.op = none ∧ v.live = true ∧ p.type = 0x13) :=
  ⟨⟨(upq : State), (0 : Nat), (pkc 0x15 5 1 : Packet), (0x10, Instr.collUpReceive (0) (pkc 0x15 5 1)), by decide +kernel⟩,
   ⟨((upg fun v => { v with localN := 1 }) : State), (0 : Nat), (pkc 16 5 3 : Packet), (0x10, Instr.collUpReceive (0) (pkc 16 5 3)),
     by decide +kernel⟩,
   ⟨(upq : State), (0 : Nat), (pkc 16 5 1 : Packet), (0x10, Instr.collUpReceive (0) (pkc 16 5 1)), by decide +kernel⟩,
   ⟨((upg fun v => { v with gen := 3 }) : State), (0 : Nat), (pkc 16 5 1 : Packet), (0x10, Instr.collUpReceive (0) (pkc 16 5 1)),
     ({ grp0 with gen := 3 } : Group), by decide +kernel⟩,
   ⟨((upg fun v => { v with st := .error }) : State), (0 : Nat), (pkc 16 5 1 : Packet), (0x10, Instr.collUpReceive (0) (pkc 16 5 1)),
     ({ grp0 with st := .error } : Group), by decide +kernel⟩,
   ⟨((upg fun v => { v with st := .quarantine }) : State), (0 : Nat), (pkc 16 5 1 : Packet), (0x10, Instr.collUpReceive (0) (pkc 16 5 1)),
     ({ grp0 with st := .quarantine } : Group), by decide +kernel⟩,
   ⟨((upg fun v => { v with pkey := 0x8002 }) : State), (0 : Nat), (pkc 16 5 1 : Packet), (0x10, Instr.collUpReceive (0) (pkc 16 5 1)),
     ({ grp0 with pkey := 0x8002 } : Group), by decide +kernel⟩,
   ⟨((upg fun v => { v with localN := 1 }) : State), (0 : Nat), (pkc 16 9 1 : Packet), (0x10, Instr.collUpReceive (0) (pkc 16 9 1)),
     (grp0 : Group), by decide +kernel⟩,
   ⟨((upg fun v => { v with localN := 1 }) : State), (0 : Nat), (pkc 16 5 1 : Packet), (0x10, Instr.collUpReceive (0) (pkc 16 5 1)),
     (grp0 : Group), (edge0 5 1 true : Edge), by decide +kernel⟩,
   ⟨((upg fun v => { v with localN := 1 }) : State), (pkc 16 6 1 : Packet), (grp0 : Group), (edge0 6 2 false : Edge), by decide +kernel⟩,
   ⟨((upg fun v => { v with localN := 1 }) : State), (pkc 17 5 1 : Packet), (grp0 : Group), (edge0 5 1 true : Edge), by decide +kernel⟩,
   ⟨((upg fun v => { v with localN := 1 }) : State), ({ pkc 18 6 1 with w6 := w64 (40+2^32) } : Packet), (grp0 : Group),
     (edge0 6 2 false : Edge), by decide +kernel⟩,
   ⟨((upg fun v => { v with localN := 1 }) : State), ({ pkc 19 6 1 with w6 := 9 } : Packet), (grp0 : Group), (edge0 6 2 false : Edge),
     by decide +kernel⟩⟩

/-- Concrete values meet the hypotheses of every clause of `Obligations.CollectiveChunksMoveAndTimersExpire`. -/
theorem witness_CollectiveChunksMoveAndTimersExpire :
    (∃ (s : State) (g : Nat) (v : Group) (o : CollOp) (e : Edge) (bs : List Byte) (n : Nat), s.live = true ∧ s.domState (colDom g) = 2 ∧
      s.xlt.missed = [] ∧ s.grps.get? g = some v ∧ v.st = .ready ∧ v.op = some o ∧ v.localN = 0 ∧ o.jobs = [] ∧
      v.edges.find? (·.up) = some e ∧ mayNumber e.limit e.sendSeq = true ∧ o.owed = [] ∧ o.desc.op = 3 ∧ o.desc.mode = 0 ∧
      o.dataUp < o.desc.chunks ∧ v.combined o 1 o.dataUp = some (bs, n)) ∧
    (∃ (s : State) (g : Nat) (k : Nat) (v : Group) (o : CollOp) (e : Edge) (w : Owed), s.live = true ∧ s.domState (colDom g) = 2 ∧
      s.xlt.missed = [] ∧ s.grps.get? g = some v ∧ v.st = .ready ∧ v.op = some o ∧ o.active = false ∧ v.chunks = [] ∧ v.kids[k]? = some e ∧
      mayNumber e.limit e.sendSeq = true ∧ ((o.owed.find? fun w => !w.up && w.node == e.node) = some w)) ∧
    (∃ (s : State) (g : Nat) (v : Group), s.fatal = false ∧ s.domState (colDom g) = 2 ∧ s.grps.get? g = some v ∧ v.st = .joining) ∧
    (∃ (s : State) (g : Nat) (v : Group) (o : CollOp) (e : Edge), s.fatal = false ∧ s.domState (colDom g) = 2 ∧ s.grps.get? g = some v ∧
      v.st = .ready ∧ v.op = some o ∧ o.active = true ∧ ((v.edges.filter fun e => v.owes o e) = [e]) ∧ v.edge? e.node = some e) ∧
    (∃ (s : State) (g : Nat) (n : Nat) (v : Group) (o : CollOp) (e : Edge), s.fatal = false ∧ s.domState (colDom g) = 2 ∧
      s.grps.get? g = some v ∧ v.st = .ready ∧ v.op = some o ∧ o.active = true ∧ v.edge? n = some e ∧ v.needs o e = true ∧
      e.peerOp = some v.opSeq ∧ e.gapDue = none) ∧
    (∃ (s : State) (g : Nat) (t0 : Nat) (v : Group) (o : CollOp), s.fatal = false ∧ s.domState (colDom g) = 2 ∧ s.grps.get? g = some v ∧
      v.live = true ∧ v.op = some o ∧ o.jobs ≠ [] ∧ o.due = some t0) :=
  ⟨⟨((upg fun v => { v with localN := 0, op := some ({ opInit desc0 true with due := none }), chunks := [chunk0 6, chunk0 7] }) : State),
     (0 : Nat), ({ grp0 with localN := 0, op := some ({ opInit desc0 true with due := none }), chunks := [chunk0 6, chunk0 7] } : Group),
     ({ opInit desc0 true with due := none } : CollOp), (edge0 5 1 true : Edge), ([2,0,0,0,4,0,0,0] : List Byte), (2 : Nat),
     by decide +kernel⟩,
   ⟨((upg fun v => { v with op := some ({ opInit desc0 false with owed := [{ node := 6, up := false, pass := 1, idx := 0, bytes := [1,2], count := 0 },{ node := 7, up := false, pass := 1, idx := 0, bytes := [1,2], count := 0 }] }) }) : State),
     (0 : Nat), (1 : Nat),
     ({ grp0 with op := some ({ opInit desc0 false with owed := [{ node := 6, up := false, pass := 1, idx := 0, bytes := [1,2], count := 0 },{ node := 7, up := false, pass := 1, idx := 0, bytes := [1,2], count := 0 }] }) } : Group),
     ({ opInit desc0 false with owed := [{ node := 6, up := false, pass := 1, idx := 0, bytes := [1,2], count := 0 },{ node := 7, up := false, pass := 1, idx := 0, bytes := [1,2], count := 0 }] } : CollOp),
     (edge0 7 3 false : Edge), ({ node := 7, up := false, pass := 1, idx := 0, bytes := [1,2], count := 0 } : Owed), by decide +kernel⟩,
   ⟨((upg fun v => { v with st := .joining, joinAt := 9, edges := [{ edge0 5 1 true with joined := false }, edge0 7 3 false] }) : State),
     (0 : Nat), ({ grp0 with st := .joining, joinAt := 9, edges := [{ edge0 5 1 true with joined := false }, edge0 7 3 false] } : Group),
     by decide +kernel⟩,
   ⟨((upg fun v => { v with edges := [edge0 5 1 true], op := some ({ opInit desc0 true with due := none }) }) : State), (0 : Nat),
     ({ grp0 with edges := [edge0 5 1 true], op := some ({ opInit desc0 true with due := none }) } : Group),
     ({ opInit desc0 true with due := none } : CollOp), (edge0 5 1 true : Edge), by decide +kernel⟩,
   ⟨((upg fun v => { v with op := some ({ opInit desc0 true with due := none }), edges := [edge0 5 1 true, { edge0 6 2 false with peerOp := some 0 }] }) : State),
     (0 : Nat), (6 : Nat),
     ({ grp0 with op := some ({ opInit desc0 true with due := none }), edges := [edge0 5 1 true, { edge0 6 2 false with peerOp := some 0 }] } : Group),
     ({ opInit desc0 true with due := none } : CollOp), ({ edge0 6 2 false with peerOp := some 0 } : Edge), by decide +kernel⟩,
   ⟨((upg fun v => { v with op := some ({ opInit desc0 true with jobs := [0], due := some 7 }) }) : State), (0 : Nat), (7 : Nat),
     ({ grp0 with op := some ({ opInit desc0 true with jobs := [0], due := some 7 }) } : Group),
     ({ opInit desc0 true with jobs := [0], due := some 7 } : CollOp), by decide +kernel⟩⟩

/-- Concrete values meet the hypotheses of every clause of `Obligations.SliceSumsDoNotDependOnOrder`. -/
theorem witness_SliceSumsDoNotDependOnOrder :
    ∃ (d : CollDesc) (pass : Nat) (n : Nat) (a : List Byte) (b : List Byte) (as : List (List Byte)) (bs : List (List Byte)), d.mode = 1 ∧
      pass ≤ 1 ∧ (n % (if pass = 0 then 2 else 8) = 0) ∧ (∀ x ∈ a :: as, x.length = n) ∧ (a :: as).Perm (b :: bs) :=
  ⟨(({op:=3,dtype:=5,oper:=0,mode:=1,len:=8} : CollDesc) : CollDesc), (0 : Nat), (8 : Nat), ([1,0,0x80,0x7f,1,0,0,0xc0] : List Byte),
    ([1,2,3,4,5,6,7,8] : List Byte), ([[0,0,0,0,0,0,0x80,0x3f],[1,2,3,4,5,6,7,8]] : List (List Byte)),
    ([[1,0,0x80,0x7f,1,0,0,0xc0],[0,0,0,0,0,0,0x80,0x3f]] : List (List Byte)), by decide +kernel⟩

/-- Concrete values meet the hypotheses of every clause of `Obligations.AddressSpacesAndTrapsDoAsTabled`. -/
theorem witness_AddressSpacesAndTrapsDoAsTabled :
    (∃ (s : State) (c : AdminCmd) (i : _), s.domState 85 = 2 ∧ Takes s c 0x60 [(2, ones 12 40 + ones 63 1), (3, ones 0 31), (4, 0), (5, 0),
      (6, 0), (7, 0)] ∧ (bitsOf c.e.w3 20 11 = 0 ∨ (isPf c.fn = true ∧ bitsOf c.e.w3 20 11 ≤ 1024)) ∧
      (if bitAt c.e.w2 63 then i = bitsOf c.e.w3 0 20 ∧ i ≠ 0 ∧ s.xlt.asids.get? i = none else i = firstFree 1 s.xlt.asids.keys ∧
      i < 2 ^ 20) ∧ s.quotaOk c.fn .asid 1 = true) ∧
    (∃ (s : State) (c : AdminCmd) (a : Asid), s.domState 85 = 2 ∧ s.xlt.asids.get? (bitsOf c.e.w2 0 20) = some a ∧ a.owner = c.fn ∧
      Takes s c 0x61 [(2, ones 0 20), (3, ones 12 40), (4, 0), (5, 0), (6, 0), (7, 0)]) ∧
    (∃ (s : State) (c : AdminCmd) (a : Asid), s.domState 85 = 2 ∧ s.xlt.asids.get? (bitsOf c.e.w2 0 20) = some a ∧ a.owner = c.fn ∧
      Takes s c 0x63 [(2, ones 0 21), (3, ones 12 36), (4, ones 0 37), (5, 0), (6, 0), (7, 0)] ∧ bitAt c.e.w2 20 = true) ∧
    (∃ (s : State) (c : AdminCmd) (a : Asid), s.domState 85 = 2 ∧ s.xlt.asids.get? (bitsOf c.e.w2 0 20) = some a ∧ a.owner = c.fn ∧
      Takes s c 0x63 [(2, ones 0 21), (3, ones 12 36), (4, ones 0 37), (5, 0), (6, 0), (7, 0)] ∧ bitAt c.e.w2 20 = false ∧
      1 ≤ bitsOf c.e.w4 0 37 ∧ bitsOf c.e.w3 12 36 + bitsOf c.e.w4 0 37 ≤ 2 ^ 36) ∧
    (∃ (s : State) (i : Nat) (r : CmdRef), s.xlt.invals.get? i = some [r] ∧ s.fatal = false ∧ (∀ w ∈ s.xlt.walks, w.2.req.asid = i →
      w.2.fills = true) ∧ (∀ e ∈ s.xlt.ends, e.1.asid = i → ((∀ bus attr, e.2 ≠ .once bus attr))) ∧ fnOk r.fn = true ∧
      (s.fn r.fn).drain = none) ∧
    (∃ (s : State) (c : AdminCmd) (a : Asid), s.domState 85 = 2 ∧ Takes s c 0x62 [(2, ones 0 20), (3, 0), (4, 0), (5, 0), (6, 0), (7, 0)] ∧
      s.xlt.asids.get? (bitsOf c.e.w2 0 20) = some a ∧ a.owner = c.fn ∧ s.xlt.invals.get? (bitsOf c.e.w2 0 20) = none ∧
      s.asidBound (bitsOf c.e.w2 0 20) = true) ∧
    (∃ (s : State) (c : AdminCmd) (a : Asid), s.domState 85 = 2 ∧ Takes s c 0x62 [(2, ones 0 20), (3, 0), (4, 0), (5, 0), (6, 0), (7, 0)] ∧
      s.xlt.asids.get? (bitsOf c.e.w2 0 20) = some a ∧ a.owner = c.fn ∧ s.xlt.invals.get? (bitsOf c.e.w2 0 20) = none ∧
      s.asidBound (bitsOf c.e.w2 0 20) = false) ∧
    (∃ (s : State) (q : Nat) (v : Qp) (t : TrapReq), s.xlt.trapWait.get? q = some t ∧ s.fatal = false ∧ s.xlt.traps.length < 8192 ∧
      s.ten.qps.get? q = some v) ∧
    (∃ (s : State) (q : Nat) (k : Nat) (v : Qp) (t : Trap) (j : Job), ((s.xlt.traps.find? fun t => t.2.qp == q) = some (k, t)) ∧
      t.resume = [] ∧ s.fatal = false ∧ s.ten.qps.get? q = some v ∧ ((v.jobs.find? fun j => j.trapped) = some j) ∧ j.op ≠ 7) ∧
    (∃ (s : State) (c : AdminCmd) (v : Qp), s.domState 85 = 2 ∧ Takes s c 0x64 [(2, ones 0 21 + ones 32 1), (3, 0), (4, 0), (5, 0), (6, 0),
      (7, 0)] ∧ s.ten.qps.get? (bitsOf c.e.w2 0 21) = some v ∧ v.fn = c.fn ∧ v.destroy = none ∧ (∀ t ∈ s.xlt.traps,
      t.2.qp ≠ (bitsOf c.e.w2 0 21)) ∧ v.st ≠ .quarantine) ∧
    (∃ (s : State) (c : AdminCmd) (v : Qp) (k : _) (t : _), s.domState 85 = 2 ∧ Takes s c 0x64 [(2, ones 0 21 + ones 32 1), (3, 0), (4, 0),
      (5, 0), (6, 0), (7, 0)] ∧ s.ten.qps.get? (bitsOf c.e.w2 0 21) = some v ∧ v.fn = c.fn ∧ v.destroy = none ∧
      ((s.xlt.traps.find? fun t => t.2.qp == (bitsOf c.e.w2 0 21)) = some (k, t)) ∧ (∀ x ∈ s.xlt.traps, x.2.qp = (bitsOf c.e.w2 0 21) →
      x.2.resume = []) ∧ bitAt c.e.w2 32 = false ∧ v.st ≠ .quarantine ∧
      s.newReq ({ asid := t.asid, page := t.page, write := t.write, spec := false, trap := some (bitsOf c.e.w2 0 21), who := .none_ } : WalkReq) = true) ∧
    (∃ (s : State) (c : AdminCmd) (v : Qp) (k : _) (t : _) (j : _), s.domState 85 = 2 ∧ Takes s c 0x64 [(2, ones 0 21 + ones 32 1), (3, 0),
      (4, 0), (5, 0), (6, 0), (7, 0)] ∧ s.ten.qps.get? (bitsOf c.e.w2 0 21) = some v ∧ v.fn = c.fn ∧ v.destroy = none ∧
      ((s.xlt.traps.find? fun t => t.2.qp == (bitsOf c.e.w2 0 21)) = some (k, t)) ∧ (∀ x ∈ s.xlt.traps, x.2.qp = (bitsOf c.e.w2 0 21) →
      x.2.resume = []) ∧ bitAt c.e.w2 32 = true ∧ v.st = .ready ∧ v.jobs = [j] ∧ j.trapped = true ∧ j.op ≠ 7 ∧ j.status = none) :=
  ⟨⟨(upq : State), (cmd 0x60 77 (w64 (0x5000+0*2^63)) (w64 (77+0*2^20)) 0 0 0 0 : AdminCmd), 1, by decide +kernel⟩,
   ⟨(({ upq with xlt.asids := [(9, { root := 0x1000, owner := 0, grant := 0 }), (8, { root := 0x2000, owner := 0, grant := 0 })], xlt.tlb := upq.xlt.tlb ++ [{ asid := 8, page := 0x10, size := 0, w := true, attr := 0, a := true, d := true, dev := false, bus := 0x90000 }], xlt.walks := [(0,{ req := { asid := 9, page := 5, write := false, spec := false, trap := none, who := .none_ }, level := 3, addr := 0x1000, fills := true, path := [] })] } : State) : State),
     (cmd 0x61 77 9 0x7000 0 0 0 0 : AdminCmd), ({ root := 0x1000, owner := 0, grant := 0 } : Asid), by decide +kernel⟩,
   ⟨(({ upq with xlt.asids := [(9, { root := 0x1000, owner := 0, grant := 0 }), (8, { root := 0x2000, owner := 0, grant := 0 })], xlt.tlb := upq.xlt.tlb ++ [{ asid := 8, page := 0x10, size := 0, w := true, attr := 0, a := true, d := true, dev := false, bus := 0x90000 }], xlt.walks := [(0,{ req := { asid := 9, page := 5, write := false, spec := false, trap := none, who := .none_ }, level := 3, addr := 0x1000, fills := true, path := [] })] } : State) : State),
     (cmd 0x63 77 (w64 (9+2^20)) 0 0 0 0 0 : AdminCmd), ({ root := 0x1000, owner := 0, grant := 0 } : Asid), by decide +kernel⟩,
   ⟨(({ upq with xlt.asids := [(9, { root := 0x1000, owner := 0, grant := 0 }), (8, { root := 0x2000, owner := 0, grant := 0 })], xlt.tlb := upq.xlt.tlb ++ [{ asid := 8, page := 0x10, size := 0, w := true, attr := 0, a := true, d := true, dev := false, bus := 0x90000 }], xlt.walks := [(0,{ req := { asid := 9, page := 5, write := false, spec := false, trap := none, who := .none_ }, level := 3, addr := 0x1000, fills := true, path := [] })] } : State) : State),
     (cmd 0x63 77 (w64 9) 0x10000 1 0 0 0 : AdminCmd), ({ root := 0x1000, owner := 0, grant := 0 } : Asid), by decide +kernel⟩,
   ⟨({ ({ upq with xlt.asids := [(9, { root := 0x1000, owner := 0, grant := 0 }), (8, { root := 0x2000, owner := 0, grant := 0 })], xlt.tlb := upq.xlt.tlb ++ [{ asid := 8, page := 0x10, size := 0, w := true, attr := 0, a := true, d := true, dev := false, bus := 0x90000 }], xlt.walks := [(0,{ req := { asid := 9, page := 5, write := false, spec := false, trap := none, who := .none_ }, level := 3, addr := 0x1000, fills := true, path := [] })] } : State) with xlt.invals := [(9, [{ fn := 0, cookie := 7, index := 1 }])] } : State),
     (9 : Nat), ({ fn := 0, cookie := 7, index := 1 } : CmdRef), by decide +kernel, by decide +kernel, by decide +kernel,
     fun _ h => absurd h List.not_mem_nil, by decide +kernel⟩,
   ⟨(upq : State), (cmd 0x62 77 9 0 0 0 0 0 : AdminCmd), ({ root := 0x1000, owner := 0, grant := 0 } : Asid), by decide +kernel⟩,
   ⟨({ ({ upq with xlt.asids := [(9, { root := 0x1000, owner := 0, grant := 0 }), (8, { root := 0x2000, owner := 0, grant := 0 })], xlt.tlb := upq.xlt.tlb ++ [{ asid := 8, page := 0x10, size := 0, w := true, attr := 0, a := true, d := true, dev := false, bus := 0x90000 }], xlt.walks := [(0,{ req := { asid := 8, page := 5, write := false, spec := false, trap := none, who := .none_ }, level := 3, addr := 0x1000, fills := true, path := [] })] } : State) with ten.qps := [], ten.cqs := [], ten.eqs := [] } : State),
     (cmd 0x62 77 9 0 0 0 0 0 : AdminCmd), ({ root := 0x1000, owner := 0, grant := 0 } : Asid), by decide +kernel⟩,
   ⟨({ upq with xlt.trapWait := [(0, { asid := 9, page := 0x10, write := true, dirty := true, size := 0 })] } : State), (0 : Nat),
     (qp0 : Qp), ({ asid := 9, page := 0x10, write := true, dirty := true, size := 0 } : TrapReq), by decide +kernel⟩,
   ⟨({ upq with xlt.traps := [(0, { qp := 0, asid := 9, page := 0x10, write := true, dirty := true, size := 0, since := 0, due := 50, resume := [] })], ten.qps := [(0, { qp0 with jobs := [{ job0 with trapped := true }] })] } : State),
     (0 : Nat), (0 : Nat), ({ qp0 with jobs := [{ job0 with trapped := true }] } : Qp),
     ({ qp := 0, asid := 9, page := 0x10, write := true, dirty := true, size := 0, since := 0, due := 50, resume := [] } : Trap),
     ({ job0 with trapped := true } : Job), by decide +kernel⟩,
   ⟨(upq : State), (cmd 0x64 77 0 0 0 0 0 0 : AdminCmd), (qp0 : Qp), by decide +kernel⟩,
   ⟨({ upq with xlt.traps := [(0, { qp := 0, asid := 9, page := 0x10, write := true, dirty := true, size := 0, since := 0, due := 50, resume := [] })], ten.qps := [(0, { qp0 with jobs := [{ job0 with trapped := true }] })] } : State),
     (cmd 0x64 77 (w64 (0*2^32)) 0 0 0 0 0 : AdminCmd), ({ qp0 with jobs := [{ job0 with trapped := true }] } : Qp), 0,
     ({ qp := 0, asid := 9, page := 0x10, write := true, dirty := true, size := 0, since := 0, due := 50, resume := [] } : Trap),
     by decide +kernel⟩,
   ⟨({ upq with xlt.traps := [(0, { qp := 0, asid := 9, page := 0x10, write := true, dirty := true, size := 0, since := 0, due := 50, resume := [] })], ten.qps := [(0, { qp0 with jobs := [{ job0 with trapped := true }] })] } : State),
     (cmd 0x64 77 (w64 (1*2^32)) 0 0 0 0 0 : AdminCmd), ({ qp0 with jobs := [{ job0 with trapped := true }] } : Qp), 0,
     ({ qp := 0, asid := 9, page := 0x10, write := true, dirty := true, size := 0, since := 0, due := 50, resume := [] } : Trap),
     ({ job0 with trapped := true } : Job), by decide +kernel⟩⟩

/-- Concrete values meet the hypotheses of every clause of `Obligations.WalksFollowThePageTable`. -/
theorem witness_WalksFollowThePageTable :
    (∃ (s : State) (r : WalkReq) (rest : List WalkReq) (a : Asid), s.xlt.waiting = r :: rest ∧ s.xlt.asids.get? r.asid = some a ∧
      s.fnReady a.owner = true ∧ s.portRoom a.owner = true ∧ s.fatal = false ∧ s.domState 85 = 2 ∧ s.xlt.walks.length < 64 ∧ r.trap = none ∧
      ({ s with xlt.asker := r.who }).look r.asid r.page r.write = .miss ∧ s.xlt.wcache = [] ∧
      s.region (fnPort a.owner) (a.root + 8 * (r.page / 2 ^ 27 % 512)) = 1) ∧
    (∃ (s : State) (k : Nat) (tag : Nat) (e : Word) (w : Walk) (h : HReq), ((s.tra.hreqs.find? fun h => h.2.for_ == .walk k) = some (tag,
      h)) ∧ s.fatal = false ∧ s.xlt.walks.wf = true ∧ s.xlt.walks.get? k = some w ∧ w.req.spec = false ∧ w.req.trap = none ∧
      w.req.who ≠ .none_ ∧ s.linkSecure h.fn = true ∧ bitAt e 0 = false) ∧
    (∃ (s : State) (k : Nat) (tag : Nat) (e : Word) (w : Walk) (h : HReq), ((s.tra.hreqs.find? fun h => h.2.for_ == .walk k) = some (tag,
      h)) ∧ s.fatal = false ∧ s.xlt.walks.wf = true ∧ s.xlt.walks.get? k = some w ∧ w.req.spec = false ∧ w.req.trap = none ∧
      w.req.who ≠ .none_ ∧ s.linkSecure h.fn = true ∧ bitAt e 0 = true ∧ pteBad e w.level = true) ∧
    (∃ (s : State) (k : Nat) (tag : Nat) (e : Word) (w : Walk) (h : HReq), ((s.tra.hreqs.find? fun h => h.2.for_ == .walk k) = some (tag,
      h)) ∧ s.fatal = false ∧ s.xlt.walks.wf = true ∧ s.xlt.walks.get? k = some w ∧ w.req.spec = false ∧ w.req.trap = none ∧
      w.req.who ≠ .none_ ∧ s.linkSecure h.fn = true ∧ bitAt e 0 = true ∧ pteBad e w.level = false ∧ bitAt e 2 = false ∧ 2 ≤ w.level ∧
      w.level ≤ 4 ∧ s.xlt.wcache = [] ∧ s.region (fnPort h.fn) (bitsOf e 12 40 * 4096 + 8 * (w.req.page / 512 ^ (w.level - 2) % 512)) = 1) ∧
    (∃ (s : State) (k : Nat) (tag : Nat) (e : Word) (w : Walk) (h : HReq), ((s.tra.hreqs.find? fun h => h.2.for_ == .walk k) = some (tag,
      h)) ∧ s.fatal = false ∧ s.xlt.walks.wf = true ∧ s.xlt.walks.get? k = some w ∧ w.req.spec = false ∧ w.req.trap = none ∧
      w.req.who ≠ .none_ ∧ s.linkSecure h.fn = true ∧ bitAt e 0 = true ∧ pteBad e w.level = false ∧ (w.level = 1 ∨ bitAt e 2 = true) ∧
      (w.req.write = true → (leafOf w.req.asid w.req.page w.level e).w = true) ∧
      s.region (fnPort h.fn) ((leafOf w.req.asid w.req.page w.level e).bus + (w.req.page - (leafOf w.req.asid w.req.page w.level e).page) * 4096) ≠ 0 ∧
      ((leafOf w.req.asid w.req.page w.level e).a = false ∨ (w.req.write = true ∧ (leafOf w.req.asid w.req.page w.level e).d = false))) ∧
    (∃ (s : State) (k : Nat) (tag : Nat) (e : Word) (w : Walk) (h : HReq), ((s.tra.hreqs.find? fun h => h.2.for_ == .walk k) = some (tag,
      h)) ∧ s.fatal = false ∧ s.xlt.walks.wf = true ∧ s.xlt.walks.get? k = some w ∧ w.req.spec = false ∧ w.req.trap = none ∧
      w.req.who ≠ .none_ ∧ s.linkSecure h.fn = true ∧ bitAt e 0 = true ∧ pteBad e w.level = false ∧ (w.level = 1 ∨ bitAt e 2 = true) ∧
      (w.req.write = true → (leafOf w.req.asid w.req.page w.level e).w = true) ∧
      s.region (fnPort h.fn) ((leafOf w.req.asid w.req.page w.level e).bus + (w.req.page - (leafOf w.req.asid w.req.page w.level e).page) * 4096) ≠ 0 ∧
      (leafOf w.req.asid w.req.page w.level e).a = true ∧ (w.req.write = true → (leafOf w.req.asid w.req.page w.level e).d = true) ∧
      w.fills = true) ∧
    (∃ (s : State) (k : Nat) (tag : Nat) (w : Walk) (h : HReq) (st : HostStatus),
      ((s.tra.hreqs.find? fun h => h.2.for_ == .walk k) = some (tag, h)) ∧ s.fatal = false ∧ s.xlt.walks.wf = true ∧
      s.xlt.walks.get? k = some w ∧ w.req.spec = false ∧ w.req.trap = none ∧ w.req.who ≠ .none_ ∧ s.linkSecure h.fn = true ∧ st ≠ .ok) ∧
    (∃ (s : State) (k : Nat) (tag : Nat) (w : Walk) (h : HReq) (x : State), ((s.tra.hreqs.find? fun h => h.2.for_ == .walk k) = some (tag,
      h)) ∧ s.fatal = false ∧ s.xlt.walks.wf = true ∧ s.xlt.walks.get? k = some w ∧ w.req.spec = false ∧ w.req.trap = none ∧
      w.req.who ≠ .none_ ∧ s.linkSecure h.fn = true ∧ x.xlt.walks = s.xlt.walks) :=
  ⟨⟨({ ((upq.wr (R.XLT_RAT_BASE 0) (w64 (2^63+2^59+2^61))).wr (R.XLT_RAT_LIMIT 0) (w64 ((2^40-1)*2^12))) with xlt.waiting := [{ asid := 9, page := 0, write := true, spec := false, trap := none, who := .none_ }] , xlt.tlb := []} : State),
     ({ asid := 9, page := 0, write := true, spec := false, trap := none, who := .none_ } : WalkReq), ([] : List WalkReq),
     ({ root := 0x1000, owner := 0, grant := 0 } : Asid), by decide +kernel⟩,
   ⟨({ ((upq.wr (R.XLT_RAT_BASE 0) (w64 (2^63+2^59+2^61))).wr (R.XLT_RAT_LIMIT 0) (w64 ((2^40-1)*2^12))) with xlt.walks := [(0, { req := { asid := 9, page := 0x10, write := true, spec := false, trap := none, who := (.job 0 0) }, level := 4, addr := 0x1000, fills := true, path := [] })], tra.hreqs := [(3, { fn := 0, for_ := .walk 0, segs := [(false, 0x1000, 8)], reqs := 1, atom := none })] } : State),
     (0 : Nat), (3 : Nat), (w64 (0) : Word),
     ({ req := { asid := 9, page := 0x10, write := true, spec := false, trap := none, who := (.job 0 0) }, level := 4, addr := 0x1000, fills := true, path := [] } : Walk),
     ({ fn := 0, for_ := .walk 0, segs := [(false, 0x1000, 8)], reqs := 1, atom := none } : HReq), by decide +kernel⟩,
   ⟨({ ((upq.wr (R.XLT_RAT_BASE 0) (w64 (2^63+2^59+2^61))).wr (R.XLT_RAT_LIMIT 0) (w64 ((2^40-1)*2^12))) with xlt.walks := [(0, { req := { asid := 9, page := 0x10, write := true, spec := false, trap := none, who := (.job 0 0) }, level := 1, addr := 0x1000, fills := true, path := [] })], tra.hreqs := [(3, { fn := 0, for_ := .walk 0, segs := [(false, 0x1000, 8)], reqs := 1, atom := none })] } : State),
     (0 : Nat), (3 : Nat), (w64 (0x87) : Word),
     ({ req := { asid := 9, page := 0x10, write := true, spec := false, trap := none, who := (.job 0 0) }, level := 1, addr := 0x1000, fills := true, path := [] } : Walk),
     ({ fn := 0, for_ := .walk 0, segs := [(false, 0x1000, 8)], reqs := 1, atom := none } : HReq), by decide +kernel⟩,
   ⟨({ ((upq.wr (R.XLT_RAT_BASE 0) (w64 (2^63+2^59+2^61))).wr (R.XLT_RAT_LIMIT 0) (w64 ((2^40-1)*2^12))) with xlt.walks := [(0, { req := { asid := 9, page := 0x10, write := true, spec := false, trap := none, who := (.job 0 0) }, level := 4, addr := 0x1000, fills := true, path := [] })], tra.hreqs := [(3, { fn := 0, for_ := .walk 0, segs := [(false, 0x1000, 8)], reqs := 1, atom := none })] } : State),
     (0 : Nat), (3 : Nat), (w64 (1) : Word),
     ({ req := { asid := 9, page := 0x10, write := true, spec := false, trap := none, who := (.job 0 0) }, level := 4, addr := 0x1000, fills := true, path := [] } : Walk),
     ({ fn := 0, for_ := .walk 0, segs := [(false, 0x1000, 8)], reqs := 1, atom := none } : HReq), by decide +kernel⟩,
   ⟨({ ((upq.wr (R.XLT_RAT_BASE 0) (w64 (2^63+2^59+2^61))).wr (R.XLT_RAT_LIMIT 0) (w64 ((2^40-1)*2^12))) with xlt.walks := [(0, { req := { asid := 9, page := 0x10, write := true, spec := false, trap := none, who := (.job 0 0) }, level := 1, addr := 0x1000, fills := true, path := [] })], tra.hreqs := [(3, { fn := 0, for_ := .walk 0, segs := [(false, 0x1000, 8)], reqs := 1, atom := none })] } : State),
     (0 : Nat), (3 : Nat), (w64 (0x23+0x7000) : Word),
     ({ req := { asid := 9, page := 0x10, write := true, spec := false, trap := none, who := (.job 0 0) }, level := 1, addr := 0x1000, fills := true, path := [] } : Walk),
     ({ fn := 0, for_ := .walk 0, segs := [(false, 0x1000, 8)], reqs := 1, atom := none } : HReq), by decide +kernel⟩,
   ⟨({ ((upq.wr (R.XLT_RAT_BASE 0) (w64 (2^63+2^59+2^61))).wr (R.XLT_RAT_LIMIT 0) (w64 ((2^40-1)*2^12))) with xlt.walks := [(0, { req := { asid := 9, page := 0x10, write := true, spec := false, trap := none, who := (.job 0 0) }, level := 1, addr := 0x1000, fills := true, path := [] })], tra.hreqs := [(3, { fn := 0, for_ := .walk 0, segs := [(false, 0x1000, 8)], reqs := 1, atom := none })] } : State),
     (0 : Nat), (3 : Nat), (w64 (0x63+0x7000) : Word),
     ({ req := { asid := 9, page := 0x10, write := true, spec := false, trap := none, who := (.job 0 0) }, level := 1, addr := 0x1000, fills := true, path := [] } : Walk),
     ({ fn := 0, for_ := .walk 0, segs := [(false, 0x1000, 8)], reqs := 1, atom := none } : HReq), by decide +kernel⟩,
   ⟨({ ((upq.wr (R.XLT_RAT_BASE 0) (w64 (2^63+2^59+2^61))).wr (R.XLT_RAT_LIMIT 0) (w64 ((2^40-1)*2^12))) with xlt.walks := [(0, { req := { asid := 9, page := 0x10, write := true, spec := false, trap := none, who := (.job 0 0) }, level := 4, addr := 0x1000, fills := true, path := [] })], tra.hreqs := [(3, { fn := 0, for_ := .walk 0, segs := [(false, 0x1000, 8)], reqs := 1, atom := none })] } : State),
     (0 : Nat), (3 : Nat),
     ({ req := { asid := 9, page := 0x10, write := true, spec := false, trap := none, who := (.job 0 0) }, level := 4, addr := 0x1000, fills := true, path := [] } : Walk),
     ({ fn := 0, for_ := .walk 0, segs := [(false, 0x1000, 8)], reqs := 1, atom := none } : HReq), HostStatus.poisoned, by decide +kernel⟩,
   ⟨({ ((upq.wr (R.XLT_RAT_BASE 0) (w64 (2^63+2^59+2^61))).wr (R.XLT_RAT_LIMIT 0) (w64 ((2^40-1)*2^12))) with xlt.walks := [(0, { req := { asid := 9, page := 0x10, write := true, spec := false, trap := none, who := (.job 0 0) }, level := 4, addr := 0x1000, fills := true, path := [] })], tra.hreqs := [(3, { fn := 0, for_ := .walk 0, segs := [(false, 0x1000, 8)], reqs := 1, atom := none })] } : State),
     (0 : Nat), (3 : Nat),
     ({ req := { asid := 9, page := 0x10, write := true, spec := false, trap := none, who := (.job 0 0) }, level := 4, addr := 0x1000, fills := true, path := [] } : Walk),
     ({ fn := 0, for_ := .walk 0, segs := [(false, 0x1000, 8)], reqs := 1, atom := none } : HReq),
     (({ ({ ((upq.wr (R.XLT_RAT_BASE 0) (w64 (2^63+2^59+2^61))).wr (R.XLT_RAT_LIMIT 0) (w64 ((2^40-1)*2^12))) with xlt.walks := [(0, { req := { asid := 9, page := 0x10, write := true, spec := false, trap := none, who := (.job 0 0) }, level := 4, addr := 0x1000, fills := true, path := [] })], tra.hreqs := [(3, { fn := 0, for_ := .walk 0, segs := [(false, 0x1000, 8)], reqs := 1, atom := none })] }) with now := 7 } : State) : State),
     by decide +kernel⟩⟩

/-- Concrete values meet the hypotheses of every clause of `Obligations.RouteTablesFlipCopyAndTakeWrites`. -/
theorem witness_RouteTablesFlipCopyAndTakeWrites :
    (∃ (s : State) (rid : Nat) (val : Word), ridFull rid = true ∧ s.barOpen rid = true ∧ s.regCause R.RTE_EPOCH = none ∧
      bitAt val 19 = false ∧ bitAt val 16 = true ∧ bitAt val 17 = false ∧ s.rteBusy = false) ∧
    (∃ (s : State) (rid : Nat) (val : Word), ridFull rid = true ∧ s.barOpen rid = true ∧ s.regCause R.RTE_EPOCH = none ∧
      bitAt val 19 = false ∧ bitAt val 16 = true ∧ bitAt val 17 = false ∧ s.rteBusy = true) ∧
    (∃ (s : State) (rid : Nat) (val : Word), ridFull rid = true ∧ s.barOpen rid = true ∧ s.regCause R.RTE_EPOCH = none ∧
      bitAt val 19 = false ∧ bitAt val 17 = true ∧ bitAt val 16 = false ∧ s.rteBusy = false) ∧
    (∃ (s : State) (rid : Nat) (val : Word), ridFull rid = true ∧ s.barOpen rid = true ∧ s.regCause R.RTE_EPOCH = none ∧
      bitAt val 19 = false ∧ bitAt val 17 = true ∧ (bitAt val 16 = true ∨ s.rteBusy = true)) ∧
    (∃ (s : State) (rid : Nat), s.regs.wf = true ∧ s.rte.flipBy = some rid ∧ s.fatal = false) ∧
    (∃ (s : State) (k : Nat), s.regs.wf = true ∧ s.rte.copying = some k ∧ s.fatal = false) ∧
    (∃ (s : State) (rid : Nat) (off : Nat), ridFull rid = true ∧ s.barOpen rid = true ∧ s.regCause off = none ∧ shdBase ≤ off ∧
      off < shdBase + bankLen ∧ off % 8 = 0) ∧
    (∃ (s : State) (rid : Nat) (p : Nat), p < 67 ∧ ridFull rid = true ∧ s.barOpen rid = true ∧ s.regCause (R.RTE_PORT_ROLE p) = none) ∧
    (∃ (s : State) (rid : Nat) (val : Word), s.regs.wf = true ∧ ridFull rid = true ∧ s.barOpen rid = true ∧ s.regCause R.RTE_CTL = none ∧
      getF val F.RTE_CTL_STALE_LIMIT ≠ s.rdF R.RTE_CTL F.RTE_CTL_STALE_LIMIT) :=
  ⟨⟨(upq : State), (0x1000 : Nat), (0x10000 : Word), by decide +kernel⟩,
   ⟨((upq.wrF R.RTE_EPOCH F.RTE_EPOCH_BUSY 1) : State), (0x1000 : Nat), (0x10000 : Word), by decide +kernel⟩,
   ⟨(upq : State), (0x1000 : Nat), (0x20000 : Word), by decide +kernel⟩,
   ⟨(upq : State), (0x1000 : Nat), (0x30000 : Word), by decide +kernel⟩,
   ⟨({ ((upr.wr (R.RTE_TBL_SHD 3 1) 7).wrF R.RTE_EPOCH F.RTE_EPOCH_EPOCH 255).wrF R.RTE_EPOCH F.RTE_EPOCH_BUSY 1 with rte.flipBy := some 0x1000 } : State),
     (0x1000 : Nat), by decide +kernel⟩,
   ⟨({ ((upr.wr (R.RTE_TBL_SHD 3 1) 7).wrF R.RTE_EPOCH F.RTE_EPOCH_EPOCH 255).wrF R.RTE_EPOCH F.RTE_EPOCH_BUSY 1 with rte.copying := some 0 } : State),
     (0 : Nat), by decide +kernel⟩,
   ⟨(upq : State), (0x1000 : Nat), (shdBase : Nat), by decide +kernel⟩,
   ⟨(upr : State), (0x1000 : Nat), (1 : Nat), by decide +kernel⟩,
   ⟨(upq : State), (0x1000 : Nat), (0 : Word), by decide +kernel⟩⟩

/-- Concrete values meet the hypotheses of every clause of `Obligations.PacketsAreCheckedAndRouted`. -/
theorem witness_PacketsAreCheckedAndRouted :
    (∃ (s : State) (i : Nat) (p : Packet), s.live = true ∧ i < 67 ∧ (s.rte.arrived.find? (fun a => a.1 == i) = some (i, p)) ∧
      p.hcrc ≠ hcrcOf p) ∧
    (∃ (s : State) (i : Nat) (p : Packet), s.live = true ∧ i < 67 ∧ (s.rte.arrived.find? (fun a => a.1 == i) = some (i, p)) ∧
      p.hcrc = hcrcOf p ∧ p.hops = 31 ∧ p.dstNode ≠ s.node) ∧
    (∃ (s : State) (i : Nat) (p : Packet), s.live = true ∧ i < 67 ∧ (s.rte.arrived.find? (fun a => a.1 == i) = some (i, p)) ∧
      p.hcrc = hcrcOf p ∧ (p.hops ≠ 31 ∨ p.dstNode = s.node) ∧ s.ageUnits ≤ s.ageOf p) ∧
    (∃ (s : State) (i : Nat) (p : Packet), s.live = true ∧ i < 67 ∧ (s.rte.arrived.find? (fun a => a.1 == i) = some (i, p)) ∧
      p.hcrc = hcrcOf p ∧ (p.hops ≠ 31 ∨ p.dstNode = s.node) ∧ s.ageOf p < s.ageUnits ∧ p.dstNode = s.node ∧ ((p.type ≠ 0x0C ∧
      p.type ≠ 0x0D) ∨ 64 ≤ i)) ∧
    (∃ (s : State) (i : Nat) (p : Packet), s.live = true ∧ i < 67 ∧ (s.rte.arrived.find? (fun a => a.1 == i) = some (i, p)) ∧
      p.hcrc = hcrcOf p ∧ (p.hops ≠ 31 ∨ p.dstNode = s.node) ∧ s.ageOf p < s.ageUnits ∧ p.dstNode ≠ s.node ∧ p.type ≠ 0x0C ∧ p.type ≠ 0x0D ∧
      s.role i = 0) ∧
    (∃ (s : State) (i : Nat) (p : Packet) (ph : _), s.live = true ∧ i < 67 ∧ (s.rte.arrived.find? (fun a => a.1 == i) = some (i, p)) ∧
      p.hcrc = hcrcOf p ∧ (p.hops ≠ 31 ∨ p.dstNode = s.node) ∧ s.ageOf p < s.ageUnits ∧ p.dstNode ≠ s.node ∧ p.type ≠ 0x0C ∧ p.type ≠ 0x0D ∧
      s.role i ≠ 0 ∧ (ph = (if s.lent i p then 0 else p.vl % 4)) ∧
      (({ s with rte.arrived := s.rte.arrived.erase (i, p) } : State).choose i p ph).2 = none) ∧
    (∃ (s : State) (i : Nat) (p : Packet) (ph : _) (port : _) (x : _), s.live = true ∧ i < 67 ∧
      (s.rte.arrived.find? (fun a => a.1 == i) = some (i, p)) ∧ p.hcrc = hcrcOf p ∧ (p.hops ≠ 31 ∨ p.dstNode = s.node) ∧
      s.ageOf p < s.ageUnits ∧ p.dstNode ≠ s.node ∧ p.type ≠ 0x0C ∧ p.type ≠ 0x0D ∧ s.role i ≠ 0 ∧
      (ph = (if s.lent i p then 0 else p.vl % 4)) ∧
      (({ s with rte.arrived := s.rte.arrived.erase (i, p) } : State).choose i p ph).2 = some (port, x)) ∧
    (∃ (s : State) (i : Nat) (p : Packet), s.live = true ∧ 67 ≤ i ∧ i < 71 ∧ (s.rte.injected.find? (fun q => homePos q == i) = some p) ∧
      s.grainSource i p = none) ∧
    (∃ (s : State) (i : Nat) (p : Packet) (port : _) (x : _), s.live = true ∧ 67 ≤ i ∧ i < 71 ∧
      (s.rte.injected.find? (fun q => homePos q == i) = some p) ∧ (s.grainSource i p).isSome = true ∧ p.dstNode ≠ s.node ∧
      (({ s with rte.injected := s.rte.injected.erase p } : State).choose i p 0).2 = some (port, x)) ∧
    (∃ (s : State) (i : Nat) (port : Nat) (p : Packet), s.live = true ∧ 71 ≤ i ∧
      (s.rte.entering.find? (fun e => homePos e.2 == i) = some (port, p)) ∧ s.grainSource i p = none) ∧
    (∃ (s : State) (i : Nat) (port : Nat) (p : Packet), s.live = true ∧ 71 ≤ i ∧
      (s.rte.entering.find? (fun e => homePos e.2 == i) = some (port, p)) ∧ (s.grainSource i p).isSome = true ∧ s.role port ≠ 0) ∧
    (∃ (s : State) (i : Nat) (ph : Nat) (port : Nat) (x : Nat) (p : Packet), (s.choose i p ph).2 = some (port, x)) :=
  ⟨⟨({ upr with rte.arrived := [(1, pk0)] } : State), (1 : Nat), (pk0 : Packet), by decide +kernel⟩,
   ⟨({ upr with rte.arrived := [(1, hc { pk0 with dstNode := 5, srcNode := 0, hops := 31 })] } : State), (1 : Nat),
     (hc { pk0 with dstNode := 5, srcNode := 0, hops := 31 } : Packet), by decide +kernel⟩,
   ⟨({ upr with rte.arrived := [(1, hc { pk0 with dstNode := 5, srcNode := 0, age := 1 })] } : State), (1 : Nat),
     (hc { pk0 with dstNode := 5, srcNode := 0, age := 1 } : Packet), by decide +kernel⟩,
   ⟨({ upr with rte.arrived := [(1, hc pk0)] } : State), (1 : Nat), (hc pk0 : Packet), by decide +kernel⟩,
   ⟨({ upr with rte.arrived := [(3, hc { pk0 with dstNode := 5, srcNode := 0, type := 5 })] } : State), (3 : Nat),
     (hc { pk0 with dstNode := 5, srcNode := 0, type := 5 } : Packet), by decide +kernel⟩,
   ⟨({ (upr.wr (R.RTE_TBL_ACT 4101 0) 0) with rte.arrived := [(1, hc { pk0 with dstNode := 5, srcNode := 0, type := 5 })] } : State),
     (1 : Nat), (hc { pk0 with dstNode := 5, srcNode := 0, type := 5 } : Packet), 0, by decide +kernel⟩,
   ⟨({ upr with rte.arrived := [(1, hc { pk0 with dstNode := 5, srcNode := 0, type := 5 })] } : State), (1 : Nat),
     (hc { pk0 with dstNode := 5, srcNode := 0, type := 5 } : Packet), 0, 2, 1, by decide +kernel⟩,
   ⟨({ { upr with rte.poolHeld := [(0,3145728),(1,3145728)], rte.resHeld := [(67*32+1,130),(67*32,130),(71*32,130),(73*32,130),(71*32+1,130),(73*32+1,130)] } with rte.injected := [hc { pk0 with dstNode := 5, srcNode := 0, tc := 1 }] } : State),
     (67 : Nat), (hc { pk0 with dstNode := 5, srcNode := 0, tc := 1 } : Packet), by decide +kernel⟩,
   ⟨({ upr with rte.injected := [hc { pk0 with dstNode := 5, srcNode := 0, tc := 1 }] } : State), (67 : Nat),
     (hc { pk0 with dstNode := 5, srcNode := 0, tc := 1 } : Packet), 2, 0, by decide +kernel⟩,
   ⟨({ { upr with rte.poolHeld := [(0,3145728),(1,3145728)], rte.resHeld := [(67*32+1,130),(67*32,130),(71*32,130),(73*32,130),(71*32+1,130),(73*32+1,130)] } with rte.entering := [(1, hc { pk0 with dstNode := 5, srcNode := 0, type := 0x0C })] } : State),
     (73 : Nat), (1 : Nat), (hc { pk0 with dstNode := 5, srcNode := 0, type := 0x0C } : Packet), by decide +kernel⟩,
   ⟨({ upr with rte.entering := [(1, hc { pk0 with dstNode := 5, srcNode := 0, type := 0x0C })] } : State), (73 : Nat), (1 : Nat),
     (hc { pk0 with dstNode := 5, srcNode := 0, type := 0x0C } : Packet), by decide +kernel⟩,
   ⟨(upr : State), (67 : Nat), (0 : Nat), (2 : Nat), (0 : Nat), (hc { pk0 with dstNode := 5, srcNode := 0, ord := true } : Packet),
     by decide +kernel⟩⟩

/-- Concrete values meet the hypotheses of every clause of `Obligations.PortChoicesKeysAndBrokenPorts`. -/
theorem witness_PortChoicesKeysAndBrokenPorts :
    (∃ (s : State) (t : State) (p : Packet) (q : Packet), t.regs = s.regs ∧ p.ord = true ∧ q.ord = true ∧ q.srcNode = p.srcNode ∧
      q.srcQp = p.srcQp ∧ q.dstNode = p.dstNode ∧ q.dstQp = p.dstQp ∧ (q.flowlet = p.flowlet) ∧ q.tc = p.tc ∧ q.type = p.type ∧
      q.hops = p.hops) ∧
    (∃ (s : State) (i : Nat) (ph : Nat) (port : Nat) (x : Nat) (p : Packet), p.ord = false ∧ (s.choose i p ph).2 = some (port, x)) ∧
    (∃ (p : Packet), p.ord = false) ∧
    (∃ (s : State) (c : AdminCmd), Takes s c 0x70 [(2, ones 0 11 + ones 16 5), (3, ones 0 64), (4, ones 0 64), (5, ones 0 64), (6,
      ones 0 64), (7, 0)] ∧ isPf c.fn = false) ∧
    (∃ (s : State) (c : AdminCmd), Takes s c 0x70 [(2, ones 0 11 + ones 16 5), (3, ones 0 64), (4, ones 0 64), (5, ones 0 64), (6,
      ones 0 64), (7, 0)] ∧ isPf c.fn = true ∧ (bitsOf c.e.w2 0 11) ≤ 1024 ∧
      (16 < (bitsOf c.e.w2 16 5) ∨ ((∃ k ∈ keysOf c.e (bitsOf c.e.w2 16 5), k = 0 ∨ k = 0xFFFF)))) ∧
    (∃ (s : State) (c : AdminCmd), Takes s c 0x70 [(2, ones 0 11 + ones 16 5), (3, ones 0 64), (4, ones 0 64), (5, ones 0 64), (6,
      ones 0 64), (7, 0)] ∧ isPf c.fn = true ∧ (bitsOf c.e.w2 0 11) ≤ 1024 ∧ (bitsOf c.e.w2 16 5) ≤ 16 ∧
      (∀ k ∈ keysOf c.e (bitsOf c.e.w2 16 5), k ≠ 0 ∧ k ≠ 0xFFFF) ∧ (∀ k ∈ (keysOf c.e 16).drop (bitsOf c.e.w2 16 5), k = 0)) ∧
    (∃ (s : State) (p : Nat) (t0 : Nat), (s.px p).graceAt = some t0 ∧ s.live = true ∧ s.carrying p = false) :=
  ⟨⟨(upr : State), ({ upr with now := 9, rte.ptrs := [(67,3)] } : State),
     (hc { pk0 with dstNode := 5, srcNode := 0, ord := true } : Packet),
     ({ hc { pk0 with dstNode := 5, srcNode := 0, ord := true } with psn := 99, offset := 4096 } : Packet), by decide +kernel⟩,
   ⟨(upr : State), (67 : Nat), (0 : Nat), (2 : Nat), (0 : Nat), (hc { pk0 with dstNode := 5, srcNode := 0, tc := 1 } : Packet),
     by decide +kernel⟩,
   ⟨(hc { pk0 with dstNode := 5, srcNode := 0, tc := 1 } : Packet), by decide +kernel⟩,
   ⟨((upq.setFn 1 { upq.fn 0 with slots := [] }).wrF (R.TEN_ADMIN_SQ 1) F.TEN_ADMIN_SQ_ENABLE 1 : State),
     ({ cmd 0x70 77 0 0 0 0 0 0 with fn := 1 } : AdminCmd), by decide +kernel⟩,
   ⟨(upq : State), (cmd 0x70 77 (w64 (0 + 17*2^16)) 0x800280018001 0 0 0 0 : AdminCmd), by decide +kernel⟩,
   ⟨(upq : State), (cmd 0x70 77 (w64 (1024 + 3*2^16)) 0x800280018001 0 0 0 0 : AdminCmd), by decide +kernel, by decide +kernel,
     by decide +kernel, by decide +kernel, all_of (by decide +kernel), all_of (by decide +kernel)⟩,
   ⟨({ (upr.wrF (R.LNK_STATE 2) F.LNK_STATE_STATE 0).updX 2 fun x => { x with graceAt := some 7 } with rte.buffered := [bp0], rte.queues := [(64,[bp0])] } : State),
     (2 : Nat), (7 : Nat), by decide +kernel⟩⟩

/-- Concrete values meet the hypotheses of every clause of `Obligations.OutputsServeAndTrafficSetsAreChecked`. -/
theorem witness_OutputsServeAndTrafficSetsAreChecked :
    (∃ (s : State) (port : Nat) (b : BPkt) (x : _), s.joiner port = some b ∧ x ∈ s.rte.buffered ∧ x.egress = port) ∧
    (∃ (s : State) (port : Nat), s.joiner port = none) ∧
    (∃ (s : State) (port : Nat) (b : BPkt), s.live = true ∧ port < 67 ∧ s.joiner port = some b) ∧
    (∃ (s : State) (p : Nat) (v : Nat) (b : BPkt), s.selects p = some (v, b) ∧ v / 4 ≠ 0) ∧
    (∃ (s : State) (p : Nat) (v : Nat) (b : BPkt), s.selects p = some (v, b) ∧ 2 ≤ v / 4) ∧
    (∃ (s : State) (p : Nat) (v : Nat) (b : BPkt) (k : _), s.selects p = some (v, b) ∧ (s.port p).txMain = some k) ∧
    (∃ (s : State) (port : Nat) (v : Nat) (b : BPkt), s.live = true ∧ port < 67 ∧ s.portUp port = true ∧ s.silent port = false ∧
      s.dropAll port = s ∧ s.selects port = some (v, b) ∧ s.rte.queues.wf = true) ∧
    (∃ (s : State) (cls : Nat) (p : Packet) (ps : List Packet), s.live = true ∧ cls < 8 ∧ s.rte.inject.get? cls = some (p :: ps) ∧
      s.rte.inject.wf = true ∧
      (((s.policer (R.TCS_IPOL cls)).colour ((s.policer (R.TCS_IPOL cls)).fill ((s.rte.ipol.get? cls).getD ((s.policer (R.TCS_IPOL cls)).full s.ft)) 100 s.ft) (polLen p) false) = .red ∨ (cls = 0 ∧
      ((s.policer (R.TCS_IPOL cls)).colour ((s.policer (R.TCS_IPOL cls)).fill ((s.rte.ipol.get? cls).getD ((s.policer (R.TCS_IPOL cls)).full s.ft)) 100 s.ft) (polLen p) false) = .yellow))) ∧
    (∃ (s : State) (cls : Nat) (p : Packet) (ps : List Packet), s.live = true ∧ cls < 8 ∧ s.rte.inject.get? cls = some (p :: ps) ∧
      s.rte.inject.wf = true ∧
      (((s.policer (R.TCS_IPOL cls)).colour ((s.policer (R.TCS_IPOL cls)).fill ((s.rte.ipol.get? cls).getD ((s.policer (R.TCS_IPOL cls)).full s.ft)) 100 s.ft) (polLen p) false) = .green ∨ (cls ≠ 0 ∧
      ((s.policer (R.TCS_IPOL cls)).colour ((s.policer (R.TCS_IPOL cls)).fill ((s.rte.ipol.get? cls).getD ((s.policer (R.TCS_IPOL cls)).full s.ft)) 100 s.ft) (polLen p) false) = .yellow))) ∧
    (∃ (s : State) (rid : Nat) (off : Nat) (i : Nat) (j : Nat) (r : RegRow), ridFull rid = true ∧ s.barOpen rid = true ∧
      s.regCause off = none ∧ isTcsStaged off = true ∧ s.regs.wf = true ∧ findReg off = some (r, i, j) ∧ s.tcsBusy = true) ∧
    (∃ (s : State) (rid : Nat) (off : Nat) (i : Nat) (j : Nat) (r : RegRow), ridFull rid = true ∧ s.barOpen rid = true ∧
      s.regCause off = none ∧ isTcsStaged off = true ∧ s.regs.wf = true ∧ findReg off = some (r, i, j) ∧ s.tcsBusy = false) ∧
    (∃ (s : State) (rid : Nat), ridFull rid = true ∧ s.barOpen rid = true ∧ s.regCause R.TCS_COMMIT = none ∧ s.tcsBusy = true) ∧
    (∃ (s : State) (rid : Nat) (val : Word), ridFull rid = true ∧ s.barOpen rid = true ∧ s.regCause R.TCS_COMMIT = none ∧
      s.tcsBusy = false ∧ getF val F.TCS_COMMIT_COMMIT = 1 ∧ getF val F.TCS_COMMIT_REJECT = 0 ∧ tcsCheck s.rd s.portsUsed = none) ∧
    (∃ (s : State) (rid : Nat) (val : Word) (cause : _) (port : _) (cls : _), ridFull rid = true ∧ s.barOpen rid = true ∧
      s.regCause R.TCS_COMMIT = none ∧ s.tcsBusy = false ∧ getF val F.TCS_COMMIT_COMMIT = 1 ∧ getF val F.TCS_COMMIT_REJECT = 0 ∧
      tcsCheck s.rd s.portsUsed = some (cause, port, cls)) ∧
    (∃ (s : State) (set : Tbl Word), s.tcs.coming = some set ∧ s.regs.wf = true) ∧
    (∃ (get : Nat → Word) (used : List Nat) (c : _), tcsCheck get used = none ∧ c < 8) :=
  ⟨⟨({ upr with rte.buffered := [bp0], rte.opol := [] } : State), (2 : Nat), (bp0 : BPkt), bp0, by decide +kernel⟩,
   ⟨(upr : State), (2 : Nat), by decide +kernel⟩,
   ⟨({ upr with rte.buffered := [bp0], rte.opol := [] } : State), (2 : Nat), (bp0 : BPkt), by decide +kernel⟩,
   ⟨({ (upr.updP 2 fun q => { q with credit := [(0,20),(4,20),(5,20),(8,20)] }) with rte.queues := [(69,[{ bp0 with pkt := hc { bp0.pkt with tc := 1 } }])] } : State),
     (2 : Nat), (5 : Nat), ({ bp0 with pkt := hc { bp0.pkt with tc := 1 } } : BPkt), by decide +kernel⟩,
   ⟨({ (upr.updP 2 fun q => { q with credit := [(0,20),(4,20),(5,20),(8,20)] }) with rte.queues := [(72,[{ bp0 with pkt := hc { bp0.pkt with tc := 2 } }])] } : State),
     (2 : Nat), (8 : Nat), ({ bp0 with pkt := hc { bp0.pkt with tc := 2 } } : BPkt), by decide +kernel⟩,
   ⟨({ ((upr.updP 2 fun q => { q with txMain := some { pkt := { pk0 with tc := 3 }, flits := [], n := 2, from_ := none } }).updP 2 fun q => { q with credit := [(0,20),(4,20),(5,20),(8,20)] }) with rte.queues := [(64,[bp0])] } : State),
     (2 : Nat), (0 : Nat), (bp0 : BPkt), ({ pkt := { pk0 with tc := 3 }, flits := [], n := 2, from_ := none } : LinkPkt), by decide +kernel⟩,
   ⟨({ (upr.updP 2 fun q => { q with credit := [(0,20),(4,20),(5,20),(8,20)] }) with rte.queues := [(64,[bp0])] } : State), (2 : Nat),
     (0 : Nat), (bp0 : BPkt), by decide +kernel⟩,
   ⟨({ upq with rte.inject := [(0, [pk0, { pk0 with psn := 4 }])], rte.ipol := [(0, { c := 0, p := 0, tc := 0, tp := 0 })] } : State),
     (0 : Nat), (pk0 : Packet), ([{ pk0 with psn := 4 }] : List Packet), by decide +kernel⟩,
   ⟨({ upq with rte.inject := [(0, [pk0, { pk0 with psn := 4 }])], rte.ipol := [] } : State), (0 : Nat), (pk0 : Packet),
     ([{ pk0 with psn := 4 }] : List Packet), by decide +kernel⟩,
   ⟨((upq.wrF R.TCS_COMMIT F.TCS_COMMIT_BUSY 1) : State), (0x1000 : Nat), (R.TCS_SHARE 0 : Nat), ((rowOf (R.TCS_SHARE 0)).2.1 : Nat),
     ((rowOf (R.TCS_SHARE 0)).2.2 : Nat), ((rowOf (R.TCS_SHARE 0)).1 : RegRow), by decide +kernel⟩,
   ⟨(upq : State), (0x1000 : Nat), (R.TCS_SHARE 0 : Nat), ((rowOf (R.TCS_SHARE 0)).2.1 : Nat), ((rowOf (R.TCS_SHARE 0)).2.2 : Nat),
     ((rowOf (R.TCS_SHARE 0)).1 : RegRow), by decide +kernel⟩,
   ⟨((upr.wrF R.TCS_COMMIT F.TCS_COMMIT_BUSY 1) : State), (0x1000 : Nat), by decide +kernel⟩,
   ⟨((((upr.wr (R.TCS_RES_A 1) 0x0082008200820082).wr (R.TCS_RES_B 1) 0x0082008200820082).wr (R.TCS_RES_A 2) 0x0082008200820082).wr (R.TCS_RES_B 2) 0x0082008200820082 : State),
     (0x1000 : Nat), (w64 1 : Word), by decide +kernel⟩,
   ⟨(upr : State), (0x1000 : Nat), (w64 1 : Word), 4, 1, 0, by decide +kernel⟩,
   ⟨({ upr with tcs.coming := some [(R.TCS_SHARE 0, 7)] } : State), ([(R.TCS_SHARE 0, 7)] : Tbl Word), by decide +kernel⟩,
   ⟨(((upr.wr (R.TCS_RES_A 1) 0x0082008200820082).wr (R.TCS_RES_B 1) 0x0082008200820082).rd : Nat → Word), ([1] : List Nat), 0,
     by decide +kernel⟩⟩

/-- Concrete values meet the hypotheses of every clause of `Obligations.BlocksAreReplayedAndTakenOnce`. -/
theorem witness_BlocksAreReplayedAndTakenOnce :
    (∃ (s : State) (p : Nat), p < 64 ∧ s.linked p = true ∧ s.fatal = false ∧ s.silent p = false ∧ (s.px p).change = none ∧
      (s.port p).replay = none ∧ 512 ≤ (s.port p).outstanding) ∧
    (∃ (s : State) (p : Nat), p < 64 ∧ s.linked p = true ∧ s.fatal = false ∧ s.silent p = false ∧ (s.px p).change = none ∧
      (s.port p).replay = none ∧ (s.port p).outstanding < 512 ∧ (∀ f ∈ ((s.updP p creditFlits).placeFlits p 8).1, f.kind = 0)) ∧
    (∃ (s : State) (p : Nat), p < 64 ∧ s.linked p = true ∧ s.fatal = false ∧ s.silent p = false ∧ (s.px p).change = none ∧
      (s.port p).replay = none ∧ (s.port p).outstanding < 512 ∧ ((∃ f ∈ ((s.updP p creditFlits).placeFlits p 8).1, f.kind ≠ 0))) ∧
    (∃ (s : State) (p : Nat) (n : _) (k : _), p < 64 ∧ s.linked p = true ∧ s.fatal = false ∧ s.silent p = false ∧ (s.px p).change = none ∧
      (s.port p).replay = some n ∧ ((s.port p).store.find? (fun k => k.bsn == n) = some k)) ∧
    (∃ (s : State) (p : Nat) (k : LinkPkt) (f : Words8) (fs : List Words8), s.paused p = false ∧ s.tcFirst p = s ∧
      ((s.port p).txPre = some k ∨ ((s.port p).txPre = none ∧ ((s.port p).txMain = some k ∧ (k.pkt.tc = 0 ∨ (s.port p).ctrl = [])))) ∧
      k.flits = f :: fs) ∧
    (∃ (s : State) (p : Nat) (c : Words8) (cs : List Words8), s.paused p = false ∧ s.tcFirst p = s ∧ (s.port p).txPre = none ∧ (∀ k,
      (s.port p).txMain = some k → k.pkt.tc ≠ 0) ∧ (s.port p).ctrl = c :: cs) ∧
    (∃ (s : State) (p : Nat) (v : Nat) (b : BPkt) (m : LinkPkt), s.portUp p = true ∧ (s.port p).txPre = none ∧ (s.port p).txMain = some m ∧
      m.pkt.tc ≠ 0 ∧ (∀ v, v < 4 → ((∀ x ∈ s.laneQ p v, s.aged x = false))) ∧ s.classHead p 0 = some (v, b)) ∧
    (∃ (s : State) (p : Nat), s.linked p = true ∧ s.fatal = false ∧ 0 < (s.port p).outstanding ∧ (s.port p).replay = none) ∧
    (∃ (s : State) (p : Nat) (lanes : List LaneRx), p < 64 ∧ s.linked p = true ∧ s.fatal = false ∧ s.retraining p = false ∧
      (s.carrying p = false ∨ ((s.updX p fun x => { x with rxBlocks := x.rxBlocks + 1 }).lanesReport p ((s.px p).rxBlocks) lanes).carrying p = true)) ∧
    (∃ (s : State) (p : Nat) (lanes : List LaneRx), p < 64 ∧ s.linked p = true ∧ s.fatal = false ∧ s.retraining p = false ∧
      s.carrying p = true ∧
      (((s.updX p fun x => { x with rxBlocks := x.rxBlocks + 1 }).lanesReport p ((s.px p).rxBlocks) lanes).carrying p = false)) ∧
    (∃ (s : State) (p : Nat) (com : Option (List (BitVec 10))), 64 ≤ p ∧ p < 67 ∧ s.linked p = true ∧ s.fatal = false ∧
      s.retraining p = false ∧
      (s.carrying p = false ∨ (((s.updX p fun x => { x with rxBlocks := x.rxBlocks + 1 }).rxWake p).comRow p ((s.px p).rxBlocks) com).carrying p = true)) ∧
    (∃ (p : Nat) (b : Block) (wrong : Bool), p < 67 ∧ (wrong = true ∨ b.crc ≠ blockCrc b.flits b.trl)) ∧
    (∃ (s : State) (p : Nat) (b : Block) (wrong : Bool), p < 67 ∧ wrong = false ∧ b.crc = blockCrc b.flits b.trl ∧ (((∀ f ∈ b.flits,
      f.kind = 0)) ∨ (s.useTrailer p b.trl).linked p = false)) ∧
    (∃ (s : State) (p : Nat) (b : Block) (wrong : Bool), p < 67 ∧ wrong = false ∧ b.crc = blockCrc b.flits b.trl ∧ ((∃ f ∈ b.flits,
      f.kind ≠ 0)) ∧ (s.useTrailer p b.trl).linked p = true ∧ 0x800 ≤ ((b.trl.bsn - ((s.useTrailer p b.trl).port p).e).toNat)) ∧
    (∃ (s : State) (p : Nat) (b : Block) (wrong : Bool), p < 67 ∧ wrong = false ∧ b.crc = blockCrc b.flits b.trl ∧ ((∃ f ∈ b.flits,
      f.kind ≠ 0)) ∧ (s.useTrailer p b.trl).linked p = true ∧ 0 < ((b.trl.bsn - ((s.useTrailer p b.trl).port p).e).toNat) ∧
      ((b.trl.bsn - ((s.useTrailer p b.trl).port p).e).toNat) < 0x800 ∧ ((s.useTrailer p b.trl).port p).nak = true) ∧
    (∃ (s : State) (p : Nat) (b : Block) (wrong : Bool), p < 67 ∧ wrong = false ∧ b.crc = blockCrc b.flits b.trl ∧ ((∃ f ∈ b.flits,
      f.kind ≠ 0)) ∧ (s.useTrailer p b.trl).linked p = true ∧ 0 < ((b.trl.bsn - ((s.useTrailer p b.trl).port p).e).toNat) ∧
      ((b.trl.bsn - ((s.useTrailer p b.trl).port p).e).toNat) < 0x800 ∧ ((s.useTrailer p b.trl).port p).nak = false) ∧
    (∃ (s : State) (p : Nat) (b : Block) (wrong : Bool), p < 67 ∧ wrong = false ∧ b.crc = blockCrc b.flits b.trl ∧ ((∃ f ∈ b.flits,
      f.kind ≠ 0)) ∧ (s.useTrailer p b.trl).linked p = true ∧ ((b.trl.bsn - ((s.useTrailer p b.trl).port p).e).toNat) = 0 ∧
      (b.flits.foldl frameFlit { main := ((s.useTrailer p b.trl).port p).rxMain, pre := ((s.useTrailer p b.trl).port p).rxPre, done := [], bad := false }).bad = true) ∧
    (∃ (s : State) (p : Nat) (b : Block) (wrong : Bool), p < 67 ∧ wrong = false ∧ b.crc = blockCrc b.flits b.trl ∧ ((∃ f ∈ b.flits,
      f.kind ≠ 0)) ∧ (s.useTrailer p b.trl).linked p = true ∧ ((b.trl.bsn - ((s.useTrailer p b.trl).port p).e).toNat) = 0 ∧
      (b.flits.foldl frameFlit { main := ((s.useTrailer p b.trl).port p).rxMain, pre := ((s.useTrailer p b.trl).port p).rxPre, done := [], bad := false }).bad = false) ∧
    (∃ (s : State) (t : State) (p : Nat) (rx : BlockRx) (lanes : List LaneRx), s.regs.wf = true ∧
      exec (.blockReceive p rx lanes) s = .next t ∧ t.linked p = true) ∧
    (∃ (s : State) (p : Nat) (lane : Nat) (c : Option Nat), (c = none ∨ ((∃ k, c = some k ∧ s.blameSym < k))) ∧ 1 < s.failCount ∧
      (s.px p).blames.get? lane = none) ∧
    (∃ (s : State) (p : Nat) (v : Nat) (f : Count32), (f - (((s.port p).seen.get? v).getD 0)).toNat < 2 ^ 23) ∧
    (∃ (s : State) (p : Nat) (v : Nat) (f : Count32), 0 < ((((s.port p).seen.get? v).getD 0) - f).toNat ∧
      ((((s.port p).seen.get? v).getD 0) - f).toNat ≤ 2 ^ 23) ∧
    (∃ (s : State) (p : Nat), s.linked p = true ∧ s.fatal = false) :=
  ⟨⟨(((upr).updP 1 fun q => { q with next := 512 }) : State), (1 : Nat), by decide +kernel⟩,
   ⟨(upr : State), (1 : Nat), by decide +kernel⟩,
   ⟨(((upr).updP 1 fun q => { q with txMain := some { pkt := hc { pk0 with vl := 4 }, flits := pktFlits (hc { pk0 with vl := 4 }), n := 2, from_ := none }, credit := [(4,20)] }) : State),
     (1 : Nat), by decide +kernel⟩,
   ⟨(((upr).updP 1 fun q => { q with replay := some 7, next := 8, una := 7, store := [{ bsn := 7, flits := [(⟨1, hdrFlit pk0⟩ : Flit)] }] }) : State),
     (1 : Nat), 7, ({ bsn := 7, flits := [(⟨1, hdrFlit pk0⟩ : Flit)] } : Stored), by decide +kernel⟩,
   ⟨(((((upr).wrF (R.LNK_STATE 1) F.LNK_STATE_STATE 2)).updP 1 fun q => { q with txMain := some { pkt := pk0, flits := [words8 [1], words8 [2]], n := 2, from_ := none }, credit := [(0,20),(4,20),(5,20),(8,20)] }) : State),
     (1 : Nat), (({ pkt := pk0, flits := [words8 [1], words8 [2]], n := 2, from_ := none } : LinkPkt) : LinkPkt),
     ((({ pkt := pk0, flits := [words8 [1], words8 [2]], n := 2, from_ := none } : LinkPkt)).flits.headD (words8 []) : Words8),
     ([words8 [2]] : List Words8), by decide +kernel⟩,
   ⟨(((upr).updP 1 fun q => { q with ctrl := [words8 [3], words8 [4]] }) : State), (1 : Nat), (words8 [3] : Words8),
     ([words8 [4]] : List Words8), by decide +kernel⟩,
   ⟨({ ((upr).updP 2 fun q => { q with txMain := some { pkt := { pk0 with tc := 2 }, flits := [words8 [1]], n := 2, from_ := none }, credit := [(0,20),(4,20),(5,20),(8,20)] }) with rte.queues := [(64,[bp0])] } : State),
     (2 : Nat), (0 : Nat), (bp0 : BPkt),
     (({ pkt := { pk0 with tc := 2 }, flits := [words8 [1]], n := 2, from_ := none } : LinkPkt) : LinkPkt), by decide +kernel⟩,
   ⟨(((upr).updP 1 fun q => { q with next := 9, una := 7 }) : State), (1 : Nat), by decide +kernel⟩,
   ⟨(upr : State), (1 : Nat), ([] : List LaneRx), by decide +kernel⟩,
   ⟨(((upr).updX 1 fun x => { x with missed := [(0,2),(1,2)], rxBlocks := 0 }) : State), (1 : Nat), ([] : List LaneRx), by decide +kernel⟩,
   ⟨(((((((upr).wrF (R.LNK_STATE 64) F.LNK_STATE_STATE 3)).wrF (R.LNK_STATE 64) F.LNK_STATE_ACTIVE 15)).updP 64 fun q => { q with una := 0, next := 0 }) : State),
     (64 : Nat), (none : Option (List (BitVec 10))), by decide +kernel⟩,
   ⟨(1 : Nat),
     (({ blk [idl,idl,idl,idl,idl,idl,idl,idl] 0 with crc := blockCrc [idl,idl,idl,idl,idl,idl,idl,idl] (blk [idl,idl,idl,idl,idl,idl,idl,idl] 0).trl + 1 }) : Block),
     (false : Bool), by decide +kernel, .inr (succ_ne _)⟩,
   ⟨(upr : State), (1 : Nat), ((blk [idl,idl,idl,idl,idl,idl,idl,idl] 0) : Block), (false : Bool), by decide +kernel, by decide +kernel,
     rfl, by decide +kernel⟩,
   ⟨(upr : State), (1 : Nat), ((blk [⟨1, hdrFlit (hc pk0)⟩,⟨2, words8 []⟩,idl,idl,idl,idl,idl,idl] 0xFFF) : Block), (false : Bool),
     by decide +kernel, by decide +kernel, rfl, by decide +kernel⟩,
   ⟨(((upr).updP 1 fun q => { q with nak := true }) : State), (1 : Nat), ((blk [⟨3, words8 []⟩,idl,idl,idl,idl,idl,idl,idl] 3) : Block),
     (false : Bool), by decide +kernel, by decide +kernel, rfl, by decide +kernel⟩,
   ⟨(upr : State), (1 : Nat), ((blk [⟨3, words8 []⟩,idl,idl,idl,idl,idl,idl,idl] 3) : Block), (false : Bool), by decide +kernel,
     by decide +kernel, rfl, by decide +kernel⟩,
   ⟨(upr : State), (1 : Nat), ((blk [⟨2, words8 []⟩,idl,idl,idl,idl,idl,idl,idl] 0) : Block), (false : Bool), by decide +kernel,
     by decide +kernel, rfl, by decide +kernel⟩,
   ⟨(upr : State), (1 : Nat), ((blk [⟨1, hdrFlit (hc pk0)⟩,⟨2, entryOfBytes pk0.payload⟩,idl,idl,idl,idl,idl,idl] 0) : Block),
     (false : Bool), by decide +kernel, by decide +kernel, rfl, by decide +kernel⟩,
   ⟨(upr : State), nextOr (exec (.blockReceive 1 (.fabric (blk [] 0)) []) upr) up, (1 : Nat), ((.fabric (blk [] 0)) : BlockRx),
     ([] : List LaneRx), by decide +kernel, next_of (by decide +kernel), by decide +kernel⟩,
   ⟨(upr : State), (1 : Nat), (0 : Nat), (none : Option Nat), by decide +kernel⟩,
   ⟨(((upr).updP 1 fun q => { q with seen := [(3,0)], credit := [(3,4)] }) : State), (1 : Nat), (3 : Nat), (0 : Count32), by decide +kernel⟩,
   ⟨(((upr).updP 1 fun q => { q with seen := [(3,0xFFFFFF)], credit := [(3,4)] }) : State), (1 : Nat), (3 : Nat), (0x800005 : Count32),
     by decide +kernel⟩,
   ⟨(upr : State), (1 : Nat), by decide +kernel⟩⟩

/-- Concrete values meet the hypotheses of every clause of `Obligations.PortsTrainThroughChecks`. -/
theorem witness_PortsTrainThroughChecks :
    (∃ (s : State) (p : Nat) (bound : Nat) (us : Nat) (deskew : Nat) (set : BitVec 4) (ends : LaneEnds), s.regs.wf = true ∧ p < 67 ∧
      s.fatal = false ∧ s.domOn (portDom p) = true ∧ (s.px p).change = none ∧ (s.px p).training = some (set, bound) ∧
      (s.mediumOk p = false ∨ trainingHolds p set bound us deskew ends = false)) ∧
    (∃ (s : State) (p : Nat) (bound : Nat) (us : Nat) (deskew : Nat) (set : BitVec 4) (ends : LaneEnds), s.regs.wf = true ∧ p < 67 ∧
      s.fatal = false ∧ s.domOn (portDom p) = true ∧ (s.px p).change = none ∧ (s.px p).training = some (set, bound) ∧ s.mediumOk p = true ∧
      trainingHolds p set bound us deskew ends = true ∧ s.portState p = 1 ∧ s.rdF (R.LNK_CTL p) F.LNK_CTL_ENABLE = 1 ∧
      s.rdF (R.LNK_STATE p) F.LNK_STATE_HELD = 0) ∧
    (∃ (s : State) (p : Nat) (ident : Word), s.regs.wf = true ∧ p < 67 ∧ s.fatal = false ∧ s.portState p = 2 ∧ ident = s.devId) ∧
    (∃ (s : State) (p : Nat) (peerPort : Nat) (ident : Word), s.regs.wf = true ∧ p < 67 ∧ s.fatal = false ∧ s.portState p = 2 ∧
      ident ≠ s.devId ∧ 64 ≤ p ∧ peerPort ≠ 64 + (2 - (p - 64))) ∧
    (∃ (s : State) (p : Nat) (peerPort : Nat) (peerNode : Nat) (ident : Word), s.regs.wf = true ∧ p < 67 ∧ s.fatal = false ∧
      s.portState p = 2 ∧ ident ≠ s.devId ∧ (p < 64 ∨ peerPort = 64 + (2 - (p - 64))) ∧ (s.rdF (R.LNK_CTL p) F.LNK_CTL_NO_WIRE_CHECK) = 0 ∧
      peerNode ≠ (s.rdF (R.RTE_PORT_ROLE p) F.RTE_PORT_ROLE_FAR_NODE)) ∧
    (∃ (s : State) (p : Nat) (peerPort : Nat) (peerNode : Nat) (usable : BitVec 4) (ident : Word), s.regs.wf = true ∧ p < 67 ∧
      s.fatal = false ∧ s.portState p = 2 ∧ ident ≠ s.devId ∧ (p < 64 ∨ peerPort = 64 + (2 - (p - 64))) ∧
      ((s.rdF (R.LNK_CTL p) F.LNK_CTL_NO_WIRE_CHECK) = 1 ∨ peerNode = (s.rdF (R.RTE_PORT_ROLE p) F.RTE_PORT_ROLE_FAR_NODE)) ∧
      s.active p &&& ~~~ (usable &&& s.ordered p) ≠ 0) ∧
    (∃ (s : State) (p : Nat) (peerPort : Nat) (peerNode : Nat) (usable : BitVec 4) (ident : Word), s.regs.wf = true ∧ p < 67 ∧
      s.fatal = false ∧ s.portState p = 2 ∧ ident ≠ s.devId ∧ (p < 64 ∨ peerPort = 64 + (2 - (p - 64))) ∧
      ((s.rdF (R.LNK_CTL p) F.LNK_CTL_NO_WIRE_CHECK) = 1 ∨ peerNode = (s.rdF (R.RTE_PORT_ROLE p) F.RTE_PORT_ROLE_FAR_NODE)) ∧
      s.active p &&& ~~~ (usable &&& s.ordered p) = 0) ∧
    (∃ (s : State) (p : Nat), s.linked p = true ∧ s.fatal = false) ∧
    (∃ (s : State) (p : Nat), s.regs.wf = true ∧ p < 67 ∧ s.portState p = 2 ∧ s.fatal = false ∧ 0 < (s.px p).probesTx ∧
      (s.px p).probesRx + 1 < 16) ∧
    (∃ (s : State) (p : Nat) (time : Word), s.regs.wf = true ∧ p < 67 ∧ s.portState p = 2 ∧ s.fatal = false ∧ 0 < (s.px p).probesTx ∧
      (s.px p).probesRx + 1 = 16 ∧ s.rttMax p < (Nat.max (s.px p).rtt (s.ftWord - time).toNat)) ∧
    (∃ (s : State) (p : Nat) (time : Word), s.regs.wf = true ∧ p < 67 ∧ s.portState p = 2 ∧ s.fatal = false ∧ 0 < (s.px p).probesTx ∧
      (s.px p).probesRx + 1 = 16 ∧ (Nat.max (s.px p).rtt (s.ftWord - time).toNat) ≤ s.rttMax p ∧ (s.px p).credRx0 = false) ∧
    (∃ (s : State) (p : Nat), s.regs.wf = true ∧ p < 67 ∧ s.portState p = 2 ∧ s.silent p = false ∧ s.resOk p = true ∧
      (s.px p).initRx = true ∧ 16 ≤ (s.px p).probesRx ∧ (s.px p).credRx0 = true ∧ (s.px p).credRx1 = true ∧ (s.px p).timed = true ∧
      (s.px p).peerReq = none) ∧
    (∃ (s : State) (p : Nat), (s.resOk p = false ∨ s.silent p = true)) ∧
    (∃ (s : State) (p : Nat), s.regs.wf = true ∧ p < 67 ∧ s.linked p = true ∧ s.fatal = false) :=
  ⟨⟨(((((((((upr).wrF (R.LNK_STATE 1) F.LNK_STATE_STATE 1)).wrF (R.LNK_CTL 1) F.LNK_CTL_ENABLE 1)).wrF (R.LAN_CTL 5) F.LAN_CTL_MEDIUM 3)).updX 1 fun x => { x with training := some (15, 9) }) : State),
     (1 : Nat), (9 : Nat), (9 : Nat), (0 : Nat), (15 : BitVec 4), ((.fabric [{ lane := 0, marker := markerBits 0 15 false 0, skew := 3 },
     { lane := 1, marker := markerBits 1 15 false 0, skew := 3 }, { lane := 2, marker := markerBits 2 15 false 0, skew := 3 },
     { lane := 3, marker := markerBits 3 15 false 0, skew := 3 }]) : LaneEnds), by decide +kernel⟩,
   ⟨(((((((upr).wrF (R.LNK_STATE 1) F.LNK_STATE_STATE 1)).wrF (R.LNK_CTL 1) F.LNK_CTL_ENABLE 1)).updX 1 fun x => { x with training := some (15, 9) }) : State),
     (1 : Nat), (9 : Nat), (9 : Nat), (0 : Nat), (15 : BitVec 4), ((.fabric [{ lane := 0, marker := markerBits 0 15 false 0, skew := 3 },
     { lane := 1, marker := markerBits 1 15 false 0, skew := 3 }, { lane := 2, marker := markerBits 2 15 false 0, skew := 3 },
     { lane := 3, marker := markerBits 3 15 false 0, skew := 3 }]) : LaneEnds), by decide +kernel⟩,
   ⟨(((((upr).wrF (R.LNK_STATE 1) F.LNK_STATE_STATE 2)).wrF (R.RTE_PORT_ROLE 1) F.RTE_PORT_ROLE_FAR_NODE 5) : State), (1 : Nat),
     (upr.devId : Word), by decide +kernel⟩,
   ⟨(((((((upr).wrF (R.LNK_STATE 64) F.LNK_STATE_STATE 2)).wrF (R.LNK_STATE 64) F.LNK_STATE_ACTIVE 15)).wrF (R.RTE_PORT_ROLE 64) F.RTE_PORT_ROLE_FAR_NODE 5) : State),
     (64 : Nat), (65 : Nat), (77 : Word), by decide +kernel⟩,
   ⟨(((((upr).wrF (R.LNK_STATE 1) F.LNK_STATE_STATE 2)).wrF (R.RTE_PORT_ROLE 1) F.RTE_PORT_ROLE_FAR_NODE 5) : State), (1 : Nat), (66 : Nat),
     (6 : Nat), (77 : Word), by decide +kernel⟩,
   ⟨(((((upr).wrF (R.LNK_STATE 1) F.LNK_STATE_STATE 2)).wrF (R.RTE_PORT_ROLE 1) F.RTE_PORT_ROLE_FAR_NODE 5) : State), (1 : Nat), (66 : Nat),
     (5 : Nat), (3 : BitVec 4), (77 : Word), by decide +kernel⟩,
   ⟨(((((upr).wrF (R.LNK_STATE 1) F.LNK_STATE_STATE 2)).wrF (R.RTE_PORT_ROLE 1) F.RTE_PORT_ROLE_FAR_NODE 5) : State), (1 : Nat), (66 : Nat),
     (5 : Nat), (15 : BitVec 4), (77 : Word), by decide +kernel⟩,
   ⟨(upr : State), (1 : Nat), by decide +kernel⟩,
   ⟨((((({ upr with tcs.force := [(R.TCS_PORT 1, w64 (20*2^48))] }).updX 1 fun x => { x with probesTx := 16, probesRx := 14, rtt := 3 })).wrF (R.LNK_STATE 1) F.LNK_STATE_STATE 2) : State),
     (1 : Nat), by decide +kernel⟩,
   ⟨((((({ upr with tcs.force := [(R.TCS_PORT 1, w64 (20*2^48))] }).updX 1 fun x => { x with probesTx := 16, probesRx := 15, rtt := 3 })).wrF (R.LNK_STATE 1) F.LNK_STATE_STATE 2) : State),
     (1 : Nat), (w64 (2^64-50) : Word), by decide +kernel⟩,
   ⟨((((({ upr with tcs.force := [(R.TCS_PORT 1, w64 (20*2^48))] }).updX 1 fun x => { x with probesTx := 16, probesRx := 15, rtt := 3 })).wrF (R.LNK_STATE 1) F.LNK_STATE_STATE 2) : State),
     (1 : Nat), (w64 (2^64-0) : Word), by decide +kernel⟩,
   ⟨({ ((((upr).updX 1 fun x => { x with initRx := true, probesTx := 16, probesRx := 16, credRx0 := true, credRx1 := true, timed := true, rtt := 70000 })).wrF (R.LNK_STATE 1) F.LNK_STATE_STATE 2) with tcs.force := [(R.TCS_RES_A 1, 0x0082008200820082),(R.TCS_RES_B 1, 0x0082008200820082)] } : State),
     (1 : Nat), by decide +kernel⟩,
   ⟨(((((upr).updX 1 fun x => { x with initRx := true, probesTx := 16, probesRx := 16, credRx0 := true, credRx1 := true, timed := true, rtt := 70000 })).wrF (R.LNK_STATE 1) F.LNK_STATE_STATE 2) : State),
     (1 : Nat), by decide +kernel⟩,
   ⟨(upr : State), (1 : Nat), by decide +kernel⟩⟩

/-- Concrete values meet the hypotheses of every clause of `Obligations.ChangesAreAgreedAndCarriedOut`. -/
theorem witness_ChangesAreAgreedAndCarriedOut :
    (∃ (s : State) (rid : Nat) (p : Nat), s.regs.wf = true ∧ p < 67 ∧ ridFull rid = true ∧ s.barOpen rid = true ∧
      s.regCause (R.LNK_CMD p) = none ∧ s.cmdPending p = true) ∧
    (∃ (s : State) (rid : Nat) (p : Nat), s.regs.wf = true ∧ p < 67 ∧ ridFull rid = true ∧ s.barOpen rid = true ∧
      s.regCause (R.LNK_CMD p) = none ∧ s.cmdPending p = false ∧ s.portState p ≠ 3) ∧
    (∃ (s : State) (rid : Nat) (p : Nat) (l : _), s.regs.wf = true ∧ p < 67 ∧ ridFull rid = true ∧ s.barOpen rid = true ∧
      s.regCause (R.LNK_CMD p) = none ∧ s.cmdPending p = false ∧ s.portState p = 3 ∧ (s.px p).ownReq = none ∧ (s.px p).change = none ∧
      legalSets.contains l = false) ∧
    (∃ (s : State) (rid : Nat) (p : Nat) (l : _), s.regs.wf = true ∧ p < 67 ∧ ridFull rid = true ∧ s.barOpen rid = true ∧
      s.regCause (R.LNK_CMD p) = none ∧ s.cmdPending p = false ∧ s.portState p = 3 ∧ (s.px p).ownReq = none ∧ (s.px p).change = none ∧
      legalSets.contains l = true) ∧
    (∃ (s : State) (rid : Nat) (p : Nat), s.regs.wf = true ∧ p < 67 ∧ ridFull rid = true ∧ s.barOpen rid = true ∧
      s.regCause (R.LNK_CMD p) = none ∧ s.cmdPending p = false ∧ (s.rdF (R.LNK_STATE p) F.LNK_STATE_HELD = 0 ∨ ((s.px p).tcsHeld = true ∧
      s.tcsReleases p = false))) ∧
    (∃ (s : State) (rid : Nat) (p : Nat), s.regs.wf = true ∧ p < 67 ∧ ridFull rid = true ∧ s.barOpen rid = true ∧
      s.regCause (R.LNK_CMD p) = none ∧ s.cmdPending p = false ∧ s.rdF (R.LNK_STATE p) F.LNK_STATE_HELD = 1 ∧
      ((s.px p).tcsHeld = false ∨ s.tcsReleases p = true)) ∧
    (∃ (s : State) (p : Nat), p < 67 ∧ s.fatal = false ∧ (s.portState p = 2 ∨ s.portState p = 4)) ∧
    (∃ (s : State) (p : Nat), p < 67 ∧ s.fatal = false ∧ s.portState p = 3 ∧ (s.px p).ownReq = none) ∧
    (∃ (s : State) (p : Nat) (peer : Nat) (ident : Word) (own : _), p < 67 ∧ s.fatal = false ∧ s.portState p = 3 ∧
      (s.px p).ownReq = some own ∧ ident.toNat * 128 + peer < s.devId.toNat * 128 + p) ∧
    (∃ (s : State) (p : Nat) (peer : Nat) (ident : Word) (own : _), p < 67 ∧ s.fatal = false ∧ s.portState p = 3 ∧
      (s.px p).ownReq = some own ∧ s.devId.toNat * 128 + p ≤ ident.toNat * 128 + peer) ∧
    (∃ (s : State) (p : Nat) (lanes : BitVec 4) (l : _), p < 67 ∧ s.fatal = false ∧ widest (lanes &&& s.usable p) = some l ∧
      s.regs.wf = true) ∧
    (∃ (s : State) (p : Nat) (lanes : BitVec 4), p < 67 ∧ s.fatal = false ∧ widest (lanes &&& s.usable p) = none) ∧
    (∃ (s : State) (p : Nat) (f : Words8), ctypeOf f = 6 ∧ bitsOf f.w0 18 4 = 0 ∧ (s.px p).breakAt = some none) ∧
    (∃ (s : State) (p : Nat) (r : ChangeReq) (rest : List ChangeReq), s.portState p = 3 ∧ (s.px p).ownReq = none ∧ (s.px p).change = none ∧
      (((s.px p).again.filter fun r => !s.reqMet p r) = r :: rest)) ∧
    (∃ (m : _) (l : _) (k : _), widest m = some l ∧ k ∈ legalSets ∧ k &&& m = k) ∧
    (∃ (s : State) (p : Nat) (lanes : BitVec 4) (own : ChangeReq), s.fatal = false ∧ s.portState p = 3 ∧ (s.px p).ownReq = some own ∧
      lanes = 0) ∧
    (∃ (s : State) (p : Nat) (lanes : BitVec 4) (own : ChangeReq), s.fatal = false ∧ s.portState p = 3 ∧ (s.px p).ownReq = some own ∧
      lanes ≠ 0 ∧ s.regs.wf = true) ∧
    (∃ (s : State) (p : Nat) (c : Change), s.fatal = false ∧ (s.px p).change = some c ∧
      (c.handed = true ∨ ((c.pauseAcked || decide ((s.port p).lastAck = (s.port p).e)) = false ∨ c.pauseBsn = none))) ∧
    (∃ (s : State) (p : Nat) (c : Change) (b : _), s.fatal = false ∧ (s.px p).change = some c ∧ c.handed = false ∧
      (c.pauseAcked || decide ((s.port p).lastAck = (s.port p).e)) = true ∧ c.pauseBsn = some b ∧ (s.port p).una ≠ b ∧
      ((s.port p).una - b).toNat < 2048) ∧
    (∃ (s : State) (p : Nat) (c : Change) (t0 : _), s.fatal = false ∧ (s.px p).change = some c ∧ c.handed = false ∧ c.pauseTx = some t0 ∧
      (s.px p).breakAt = none) ∧
    (∃ (s : State) (p : Nat) (c : Change), s.fatal = false ∧ (s.px p).change = some c ∧ s.portState p ≠ 2) ∧
    (∃ (s : State) (p : Nat) (c : Change) (set : BitVec 4) (bound : Nat) (us : Nat) (deskew : Nat) (ends : LaneEnds), s.fatal = false ∧
      (s.px p).change = some c ∧ p < 67 ∧ s.domOn (portDom p) = true ∧ (s.px p).training = some (set, bound) ∧ s.mediumOk p = true ∧
      trainingHolds p set bound us deskew ends = true ∧ s.regs.wf = true ∧ s.portState p = 4) ∧
    (∃ (s : State) (p : Nat) (c : Change) (set : BitVec 4) (bound : Nat) (us : Nat) (deskew : Nat) (ends : LaneEnds), s.fatal = false ∧
      (s.px p).change = some c ∧ p < 67 ∧ s.domOn (portDom p) = true ∧ (s.px p).training = some (set, bound) ∧
      (s.mediumOk p = false ∨ trainingHolds p set bound us deskew ends = false)) ∧
    (∃ (s : State) (p : Nat) (b : BitVec 12) (t0 : Nat), (s.px p).breakAt = some (some (b, t0))) ∧
    (∃ (s : State) (p : Nat), s.portState p = 2) :=
  ⟨⟨(((upr).wrF (R.LNK_CMD 1) F.LNK_CMD_STATUS 1) : State), (0x1000 : Nat), (1 : Nat), by decide +kernel⟩,
   ⟨(((upr).wrF (R.LNK_STATE 1) F.LNK_STATE_STATE 1) : State), (0x1000 : Nat), (1 : Nat), by decide +kernel⟩,
   ⟨(upr : State), (0x1000 : Nat), (1 : Nat), (5#4), by decide +kernel⟩,
   ⟨(upr : State), (0x1000 : Nat), (1 : Nat), (3#4), by decide +kernel⟩,
   ⟨(upr : State), (0x1000 : Nat), (1 : Nat), by decide +kernel⟩,
   ⟨(((upr).wrF (R.LNK_STATE 1) F.LNK_STATE_HELD 1) : State), (0x1000 : Nat), (1 : Nat), by decide +kernel⟩,
   ⟨(((upr).wrF (R.LNK_STATE 1) F.LNK_STATE_STATE 2) : State), (1 : Nat), by decide +kernel⟩,
   ⟨(upr : State), (1 : Nat), by decide +kernel⟩,
   ⟨(((upr).updX 1 fun x => { x with ownReq := some { id := 3, op := 1, lanes := 3, who := 0x1000, speed := false } }) : State), (1 : Nat),
     (0 : Nat), (upr.devId : Word), ({ id := 3, op := 1, lanes := 3, who := 0x1000, speed := false } : ChangeReq), by decide +kernel⟩,
   ⟨(((upr).updX 1 fun x => { x with ownReq := some { id := 3, op := 1, lanes := 3, who := 0x1000, speed := false } }) : State), (1 : Nat),
     (1 : Nat), (upr.devId : Word), ({ id := 3, op := 1, lanes := 3, who := 0x1000, speed := false } : ChangeReq), by decide +kernel⟩,
   ⟨(upr : State), (1 : Nat), (3 : BitVec 4), (3 : BitVec 4), by decide +kernel⟩,
   ⟨(upr : State), (1 : Nat), (0 : BitVec 4), by decide +kernel⟩,
   ⟨(((((upr).updP 1 fun q => { q with next := 9 })).updX 1 fun x => { x with breakAt := some none }) : State), (1 : Nat),
     (ctrlFlit (6 + 5 * 256) [7] : Words8), by decide +kernel⟩,
   ⟨(((upr).updX 1 fun x => { x with again := [{ id := 3, op := 1, lanes := 3, who := 0x1000, speed := false }] }) : State), (1 : Nat),
     (({ id := 3, op := 1, lanes := 3, who := 0x1000, speed := false } : ChangeReq) : ChangeReq), ([] : List ChangeReq), by decide +kernel⟩,
   ⟨5, (1 : BitVec 4), (1 : BitVec 4), by decide +kernel⟩,
   ⟨(((upr).updX 1 fun x => { x with ownReq := some { id := 3, op := 1, lanes := 3, who := 0x1000, speed := false } }) : State), (1 : Nat),
     (0 : BitVec 4), ({ id := 3, op := 1, lanes := 3, who := 0x1000, speed := false } : ChangeReq), by decide +kernel⟩,
   ⟨(((upr).updX 1 fun x => { x with ownReq := some { id := 3, op := 1, lanes := 3, who := 0x1000, speed := false } }) : State), (1 : Nat),
     (1 : BitVec 4), ({ id := 3, op := 1, lanes := 3, who := 0x1000, speed := false } : ChangeReq), by decide +kernel⟩,
   ⟨(((((((((upr).wrF (R.LNK_STATE 1) F.LNK_STATE_STATE 3)).updX 1 fun x => { x with training := some (15, 9) })).updP 1 fun q => { q with una := 4 })).updX 1 fun x => { x with change := some ({ req := { id := 3, op := 1, lanes := 3, who := 0x1000, speed := false }, mine := true, result := 3, before := 15, due := 5, pausing := true, pauseTx := none, pauseBsn := none, pauseRx := false, pauseAcked := false, handed := false, trained := false }) }) : State),
     (1 : Nat),
     (({ req := { id := 3, op := 1, lanes := 3, who := 0x1000, speed := false }, mine := true, result := 3, before := 15, due := 5, pausing := true, pauseTx := none, pauseBsn := none, pauseRx := false, pauseAcked := false, handed := false, trained := false } : Change) : Change),
     by decide +kernel⟩,
   ⟨(((((((((upr).wrF (R.LNK_STATE 1) F.LNK_STATE_STATE 3)).updX 1 fun x => { x with training := some (15, 9) })).updP 1 fun q => { q with una := 4 })).updX 1 fun x => { x with change := some ({ ({ req := { id := 3, op := 1, lanes := 3, who := 0x1000, speed := false }, mine := true, result := 3, before := 15, due := 5, pausing := true, pauseTx := none, pauseBsn := none, pauseRx := false, pauseAcked := false, handed := false, trained := false } : Change) with pauseAcked := true, pauseBsn := some 3 }) }) : State),
     (1 : Nat),
     (({ ({ req := { id := 3, op := 1, lanes := 3, who := 0x1000, speed := false }, mine := true, result := 3, before := 15, due := 5, pausing := true, pauseTx := none, pauseBsn := none, pauseRx := false, pauseAcked := false, handed := false, trained := false } : Change) with pauseAcked := true, pauseBsn := some 3 } : Change) : Change),
     (3 : BitVec 12), by decide +kernel⟩,
   ⟨(((((((((upr).wrF (R.LNK_STATE 1) F.LNK_STATE_STATE 3)).updX 1 fun x => { x with training := some (15, 9) })).updP 1 fun q => { q with una := 4 })).updX 1 fun x => { x with change := some ({ ({ req := { id := 3, op := 1, lanes := 3, who := 0x1000, speed := false }, mine := true, result := 3, before := 15, due := 5, pausing := true, pauseTx := none, pauseBsn := none, pauseRx := false, pauseAcked := false, handed := false, trained := false } : Change) with pauseTx := some 5 }) }) : State),
     (1 : Nat),
     (({ ({ req := { id := 3, op := 1, lanes := 3, who := 0x1000, speed := false }, mine := true, result := 3, before := 15, due := 5, pausing := true, pauseTx := none, pauseBsn := none, pauseRx := false, pauseAcked := false, handed := false, trained := false } : Change) with pauseTx := some 5 } : Change) : Change),
     (5:Nat), by decide +kernel⟩,
   ⟨(((((((((upr).wrF (R.LNK_STATE 1) F.LNK_STATE_STATE 3)).updX 1 fun x => { x with training := some (15, 9) })).updP 1 fun q => { q with una := 4 })).updX 1 fun x => { x with change := some ({ req := { id := 3, op := 1, lanes := 3, who := 0x1000, speed := false }, mine := true, result := 3, before := 15, due := 5, pausing := true, pauseTx := none, pauseBsn := none, pauseRx := false, pauseAcked := false, handed := false, trained := false }) }) : State),
     (1 : Nat),
     (({ req := { id := 3, op := 1, lanes := 3, who := 0x1000, speed := false }, mine := true, result := 3, before := 15, due := 5, pausing := true, pauseTx := none, pauseBsn := none, pauseRx := false, pauseAcked := false, handed := false, trained := false } : Change) : Change),
     by decide +kernel⟩,
   ⟨(((((((((upr).wrF (R.LNK_STATE 1) F.LNK_STATE_STATE 4)).updX 1 fun x => { x with training := some (15, 9) })).updP 1 fun q => { q with una := 4 })).updX 1 fun x => { x with change := some ({ req := { id := 3, op := 1, lanes := 3, who := 0x1000, speed := false }, mine := true, result := 3, before := 15, due := 5, pausing := true, pauseTx := none, pauseBsn := none, pauseRx := false, pauseAcked := false, handed := false, trained := false }) }) : State),
     (1 : Nat),
     (({ req := { id := 3, op := 1, lanes := 3, who := 0x1000, speed := false }, mine := true, result := 3, before := 15, due := 5, pausing := true, pauseTx := none, pauseBsn := none, pauseRx := false, pauseAcked := false, handed := false, trained := false } : Change) : Change),
     ((15 : BitVec 4) : BitVec 4), ((9:Nat) : Nat), (9 : Nat), ((0 : Nat) : Nat),
     ((.fabric [{ lane := 0, marker := markerBits 0 15 false 0, skew := 3 }, { lane := 1, marker := markerBits 1 15 false 0, skew := 3 },
     { lane := 2, marker := markerBits 2 15 false 0, skew := 3 }, { lane := 3, marker := markerBits 3 15 false 0, skew := 3 }]) : LaneEnds),
     by decide +kernel⟩,
   ⟨(((((((((upr).updX 1 fun x => { x with training := some (15, 9) })).wrF (R.LAN_CTL 5) F.LAN_CTL_MEDIUM 3)).updP 1 fun q => { q with una := 4 })).updX 1 fun x => { x with change := some ({ req := { id := 3, op := 1, lanes := 3, who := 0x1000, speed := false }, mine := true, result := 3, before := 15, due := 5, pausing := true, pauseTx := none, pauseBsn := none, pauseRx := false, pauseAcked := false, handed := false, trained := false }) }) : State),
     (1 : Nat),
     (({ req := { id := 3, op := 1, lanes := 3, who := 0x1000, speed := false }, mine := true, result := 3, before := 15, due := 5, pausing := true, pauseTx := none, pauseBsn := none, pauseRx := false, pauseAcked := false, handed := false, trained := false } : Change) : Change),
     ((15 : BitVec 4) : BitVec 4), ((9:Nat) : Nat), (9 : Nat), ((0 : Nat) : Nat),
     ((.fabric [{ lane := 0, marker := markerBits 0 15 false 0, skew := 3 }, { lane := 1, marker := markerBits 1 15 false 0, skew := 3 },
     { lane := 2, marker := markerBits 2 15 false 0, skew := 3 }, { lane := 3, marker := markerBits 3 15 false 0, skew := 3 }]) : LaneEnds),
     by decide +kernel⟩,
   ⟨(((upr).updX 1 fun x => { x with breakAt := some (some (3,5)) }) : State), (1 : Nat), (3 : BitVec 12), (5 : Nat), by decide +kernel⟩,
   ⟨(((upr).wrF (R.LNK_STATE 1) F.LNK_STATE_STATE 2) : State), (1 : Nat), by decide +kernel⟩⟩

/-- Concrete values meet the hypotheses of every clause of `Obligations.PortsBreakEnableAndRetry`. -/
theorem witness_PortsBreakEnableAndRetry :
    (∃ (s : State) (p : Nat) (cause : Nat), s.regs.wf = true ∧ p < 67 ∧ s.carrying p = true ∧ cause < 16) ∧
    (∃ (s : State) (p : Nat) (v : Nat) (b : BPkt) (bs : List BPkt) (due : _), s.laneQ p v = b :: bs ∧ s.carrying p = true ∧
      s.fatal = false ∧ (s.port p).stall.get? v = some due) ∧
    (∃ (s : State) (p : Nat) (v : Nat) (b : BPkt) (bs : List BPkt) (anew : _), s.laneQ p v = b :: bs ∧ s.carrying p = true ∧
      s.fatal = false ∧ ((s.port p).credit.get? v).getD 0 < grainsOf b.pkt ∧ (anew = true ∨ (s.port p).stall.get? v = none)) ∧
    (∃ (s : State) (p : Nat) (v : Nat) (b : BPkt) (bs : List BPkt), s.laneQ p v = b :: bs ∧ s.carrying p = true ∧ s.fatal = false ∧
      ((s.port p).credit.get? v).getD 0 < grainsOf b.pkt ∧ (s.port p).stall.get? v ≠ none) ∧
    (∃ (s : State) (p : Nat) (lanes : BitVec 4), s.linked p = true ∧ s.fatal = false ∧ p < 64 ∧ lanes &&& s.active p = 0) ∧
    (∃ (s : State) (p : Nat) (lanes : BitVec 4), s.linked p = true ∧ s.fatal = false ∧ p < 64 ∧ lanes &&& s.active p ≠ 0 ∧
      (s.pwr.clkLost.get? (quadrant p)).isSome = true) ∧
    (∃ (s : State) (p : Nat) (lanes : BitVec 4), s.linked p = true ∧ s.fatal = false ∧ p < 64 ∧ lanes &&& s.active p ≠ 0 ∧
      s.pwr.clkLost.get? (quadrant p) = none) ∧
    (∃ (s : State) (p : Nat) (clockLane : Bool), s.linked p = true ∧ s.fatal = false ∧ 64 ≤ p ∧ p < 67 ∧ clockLane = false) ∧
    (∃ (s : State) (p : Nat) (lane : Nat) (n : Nat) (c : Nat) (t0 : Nat), s.regs.wf = true ∧ p < 67 ∧ lane < 4 ∧
      (s.failed p).getLsbD lane = false ∧ (s.px p).blames.get? lane = some (c, t0) ∧ s.now ≤ t0 ∧ c + n < s.failCount) ∧
    (∃ (s : State) (p : Nat) (lane : Nat) (n : Nat) (c : Nat) (t0 : Nat), s.regs.wf = true ∧ p < 67 ∧ lane < 4 ∧
      (s.failed p).getLsbD lane = false ∧ (s.px p).blames.get? lane = some (c, t0) ∧ s.now ≤ t0 ∧ s.failCount ≤ c + n) ∧
    (∃ (s : State) (p : Nat) (lane : Nat) (c : Nat) (t0 : Nat), (s.px p).blames.get? lane = some (c, t0) ∧ (s.px p).blames.wf = true) ∧
    (∃ (s : State) (p : Nat), s.regs.wf = true ∧ s.linked p = true ∧ s.fatal = false ∧ p < 64) ∧
    (∃ (s : State) (p : Nat), s.regs.wf = true ∧ s.linked p = true ∧ s.fatal = false ∧ 64 ≤ p ∧ p < 67) ∧
    (∃ (s : State) (p : Nat) (lanes : BitVec 4), s.regs.wf = true ∧ p < 64 ∧ s.fatal = false ∧ s.domOn p = true ∧ lanes ≠ 0 ∧
      s.slept p = false) ∧
    (∃ (s : State) (p : Nat) (lanes : BitVec 4), s.regs.wf = true ∧ p < 64 ∧ s.fatal = false ∧ s.domOn p = true ∧ lanes ≠ 0 ∧
      s.slept p = true) ∧
    (∃ (s : State) (rid : Nat) (p : Nat) (val : Word), s.regs.wf = true ∧ p < 67 ∧ ridFull rid = true ∧ s.barOpen rid = true ∧
      s.regCause (R.LNK_CTL p) = none ∧ s.rdF R.STC_STAT F.STC_STAT_RESET_NEEDED = 0 ∧ bitAt val 0 = true ∧ s.pend (portSrc p + 3) = true) ∧
    (∃ (s : State) (rid : Nat) (p : Nat) (val : Word), s.regs.wf = true ∧ p < 67 ∧ ridFull rid = true ∧ s.barOpen rid = true ∧
      s.regCause (R.LNK_CTL p) = none ∧ s.rdF R.STC_STAT F.STC_STAT_RESET_NEEDED = 0 ∧ bitAt val 0 = true ∧ s.pend (portSrc p + 3) = false) ∧
    (∃ (s : State) (rid : Nat) (p : Nat) (val : Word), s.regs.wf = true ∧ p < 67 ∧ ridFull rid = true ∧ s.barOpen rid = true ∧
      s.regCause (R.LNK_CTL p) = none ∧ s.rdF R.STC_STAT F.STC_STAT_RESET_NEEDED = 0 ∧ bitAt val 0 = false) ∧
    (∃ (s : State) (p : Nat) (l : BitVec 4), s.mayTrain p = true ∧ s.rdF R.STC_STAT F.STC_STAT_RESET_NEEDED = 0 ∧ s.trainSet p = some l ∧
      (64 ≤ p ∨ ((∃ i, i < 4 ∧ s.rdF (R.LAN_STAT (4 * p + i)) F.LAN_STAT_PEER_EI ≠ 1))) ∧ (s.px p).training = none) ∧
    (∃ (s : State) (p : Nat) (bound : Nat) (set : BitVec 4), s.fatal = false ∧ s.domOn (portDom p) = true ∧ (s.px p).training = some (set,
      bound) ∧ (s.px p).change = none) ∧
    (∃ (s : State) (p : Nat) (bound : Nat) (set : BitVec 4), s.fatal = false ∧ s.domOn (portDom p) = true ∧ (s.px p).training = some (set,
      bound) ∧ (s.px p).change ≠ none) :=
  ⟨⟨(upr : State), (1 : Nat), (0 : Nat), by decide +kernel⟩,
   ⟨({ ((upr).updP 1 fun q => { q with stall := [(0,9)] }) with rte.queues := [(32,[bp0])] } : State), (1 : Nat), (0 : Nat), (bp0 : BPkt),
     ([] : List BPkt), (9:Nat), by decide +kernel⟩,
   ⟨({ upr with rte.queues := [(32,[bp0])] } : State), (1 : Nat), (0 : Nat), (bp0 : BPkt), ([] : List BPkt), true, by decide +kernel⟩,
   ⟨({ ((upr).updP 1 fun q => { q with stall := [(0,9)] }) with rte.queues := [(32,[bp0])] } : State), (1 : Nat), (0 : Nat), (bp0 : BPkt),
     ([] : List BPkt), by decide +kernel⟩,
   ⟨(upr : State), (1 : Nat), (0 : BitVec 4), by decide +kernel⟩,
   ⟨({ upr with pwr.clkLost := [(0,1)] } : State), (1 : Nat), (1 : BitVec 4), by decide +kernel⟩,
   ⟨(upr : State), (1 : Nat), (1 : BitVec 4), by decide +kernel⟩,
   ⟨(((upr).wrF (R.LNK_STATE 65) F.LNK_STATE_STATE 3) : State), (65 : Nat), (false : Bool), by decide +kernel⟩,
   ⟨(((upr).updX 1 fun x => { x with blames := [(3,(2,5))] }) : State), (1 : Nat), (3 : Nat), (0 : Nat), (2 : Nat), (5 : Nat),
     by decide +kernel⟩,
   ⟨(((upr).updX 1 fun x => { x with blames := [(3,(2,5))] }) : State), (1 : Nat), (3 : Nat), (200 : Nat), (2 : Nat), (5 : Nat),
     by decide +kernel⟩,
   ⟨(((upr).updX 1 fun x => { x with blames := [(3,(2,5))] }) : State), (1 : Nat), (3 : Nat), (2 : Nat), (5 : Nat), by decide +kernel⟩,
   ⟨(upr : State), (1 : Nat), by decide +kernel⟩,
   ⟨(((upr).wrF (R.LNK_STATE 66) F.LNK_STATE_STATE 2) : State), (66 : Nat), by decide +kernel⟩,
   ⟨(((((upr).wrF (R.LNK_STATE 1) F.LNK_STATE_STATE 1)).wrF (R.LNK_CTL 1) F.LNK_CTL_ENABLE 1) : State), (1 : Nat), (1 : BitVec 4),
     by decide +kernel⟩,
   ⟨(((((((upr).wrF (R.LNK_STATE 1) F.LNK_STATE_STATE 1)).wrF (R.LNK_CTL 1) F.LNK_CTL_ENABLE 1)).wr R.PWR_PORT_SLEPT 2) : State), (1 : Nat),
     (1 : BitVec 4), by decide +kernel⟩,
   ⟨((upr.setPend (portSrc 1 + 3) true) : State), (0x1000 : Nat), (1 : Nat), (1 : Word), by decide +kernel⟩,
   ⟨(upr : State), (0x1000 : Nat), (1 : Nat), (1 : Word), by decide +kernel⟩,
   ⟨(upr : State), (0x1000 : Nat), (1 : Nat), (0 : Word), by decide +kernel⟩,
   ⟨(((((upr).wrF (R.LNK_STATE 66) F.LNK_STATE_STATE 1)).wrF (R.LNK_CTL 66) F.LNK_CTL_ENABLE 1) : State), (66 : Nat), (15 : BitVec 4),
     by decide +kernel⟩,
   ⟨(((((((upr).wrF (R.LNK_STATE 1) F.LNK_STATE_STATE 1)).wrF (R.LNK_CTL 1) F.LNK_CTL_ENABLE 1)).updX 1 fun x => { x with training := some (15, 9) }) : State),
     (1 : Nat), (9 : Nat), (15 : BitVec 4), by decide +kernel⟩,
   ⟨(((((((upr).updX 1 fun x => { x with change := some ({ ({ req := { id := 3, op := 1, lanes := 3, who := 0x1000, speed := false }, mine := true, result := 3, before := 15, due := 5, pausing := true, pauseTx := none, pauseBsn := none, pauseRx := false, pauseAcked := false, handed := false, trained := false } : Change) with handed := true }) })).wrF (R.LNK_STATE 1) F.LNK_STATE_STATE 4)).updX 1 fun x => { x with training := some (15, 9) }) : State),
     (1 : Nat), (9 : Nat), (15 : BitVec 4), by decide +kernel⟩⟩

/-- Concrete values meet the hypotheses of every clause of `Obligations.SpanLinksAndFabricTime`. -/
theorem witness_SpanLinksAndFabricTime :
    (∃ (ls : List Nat) (rows : List (List Sym)), (∀ r ∈ rows, r.length = ls.length)) ∧
    (∃ (ls : List Nat) (image : List Byte), ls ≠ [] ∧ image.length = 522) ∧
    (∃ (b : Block), b.flits.length = 8 ∧ (∀ f ∈ b.flits, f.kind < 4)) ∧
    (∃ (s : State) (k : Nat) (crd : List (BitVec 10)) (vl : List (BitVec 10)) (total : List (List (BitVec 10))) (crc : List (BitVec 10)),
      k < 3 ∧ s.linked (64 + k) = true ∧ s.fatal = false ∧ s.retraining (64 + k) = false ∧
      (((s.rowsIn (64 + k) (crd :: vl :: (total ++ [crc]))).1.flatMap fun row => (List.range (dataLanes (s.active (64 + k))).length).flatMap fun j => if row.getD j none = none then [(dataLanes (s.active (64 + k))).getD j 0] else []) ≠ [])) ∧
    (∃ (s : State) (k : Nat) (crd : List (BitVec 10)) (vl : List (BitVec 10)) (total : List (List (BitVec 10))) (crc : List (BitVec 10)),
      k < 3 ∧ s.linked (64 + k) = true ∧ s.fatal = false ∧ s.retraining (64 + k) = false ∧
      (((s.rowsIn (64 + k) (crd :: vl :: (total ++ [crc]))).1.flatMap fun row => (List.range (dataLanes (s.active (64 + k))).length).flatMap fun j => if row.getD j none = none then [(dataLanes (s.active (64 + k))).getD j 0] else []) = []) ∧
      ((crdParse ((s.rowsIn (64 + k) (crd :: vl :: (total ++ [crc]))).1.map fun row => row.getD 0 none)) = none)) ∧
    (∃ (s : State) (k : Nat) (crd : List (BitVec 10)) (vl : List (BitVec 10)) (total : List (List (BitVec 10))) (crc : List (BitVec 10)) (v : _) (t : _),
      k < 3 ∧ s.linked (64 + k) = true ∧ s.fatal = false ∧ s.retraining (64 + k) = false ∧
      (((s.rowsIn (64 + k) (crd :: vl :: (total ++ [crc]))).1.flatMap fun row => (List.range (dataLanes (s.active (64 + k))).length).flatMap fun j => if row.getD j none = none then [(dataLanes (s.active (64 + k))).getD j 0] else []) = []) ∧
      ((crdParse ((s.rowsIn (64 + k) (crd :: vl :: (total ++ [crc]))).1.map fun row => row.getD 0 none)) = some (v, t))) ∧
    (∃ (v : Nat), v < 32) ∧
    (∃ (v : Byte) (b0 : Byte) (b1 : Byte) (b2 : Byte) (c : Byte), c ≠ crc8 [v, b0, b1, b2]) ∧
    (∃ (s : State) (k : Nat), s.regs.wf = true ∧ k < 3 ∧ s.fatal = false ∧ s.silent (64 + k) = false ∧ s.eiAllowed k = true) ∧
    (∃ (s : State) (k : Nat), s.regs.wf = true ∧ k < 3 ∧ s.fatal = false ∧ s.silent (64 + k) = false ∧ s.eiAllowed k = false) ∧
    (∃ (s : State) (k : Nat) (v : _), s.eiAllowed k = true ∧ v < 32) ∧
    (∃ (s : State) (k : Nat), s.regs.wf = true ∧ k < 3 ∧ s.fatal = false ∧ s.silent (64 + k) = true ∧ s.carrying (64 + k) = true ∧
      s.eiAllowed k = false) ∧
    (∃ (s : State) (rid : Nat) (k : Nat), s.regs.wf = true ∧ k < 3 ∧ ridFull rid = true ∧ s.barOpen rid = true ∧
      s.regCause (R.SPN_CTL k) = none) ∧
    (∃ (s : State), s.fatal = false ∧ s.domOn 91 = true) :=
  ⟨⟨([0,1,2,3] : List Nat), ([] : List (List Sym)), by decide +kernel⟩,
   ⟨([0,1,2,3] : List Nat), (((List.range 522).map (BitVec.ofNat 8)) : List Byte), by decide +kernel⟩,
   ⟨((⟨(List.range 8).map fun i => ⟨i % 4, words8 [77, w64 i, 0, 5, 6, 7, 8, w64 (2^64-1)]⟩, ⟨0xABC, true, false, 0x1234, 9⟩,
     0xDEADBEEF⟩ : Block) : Block), by decide +kernel⟩,
   ⟨((((upr.wrF (R.LNK_STATE 66) F.LNK_STATE_STATE 3)).wrF (R.LNK_STATE 66) F.LNK_STATE_ACTIVE 15) : State), (2 : Nat),
     ((([]).getD 0 []) : List (BitVec 10)), ((([]).getD 1 []) : List (BitVec 10)), (((([]).drop 2).take 3) : List (List (BitVec 10))),
     ((([]).getD 5 []) : List (BitVec 10)), by decide +kernel⟩,
   ⟨((((upr.wrF (R.LNK_STATE 66) F.LNK_STATE_STATE 3)).wrF (R.LNK_STATE 66) F.LNK_STATE_ACTIVE 15) : State), (2 : Nat),
     (((((encodeRows (dataLanes 15) 0 (([Sym.crd, .data 1, .data 2, .data 3, .data 4,
     .data 5]).map fun y => List.replicate 16 y)).1)).getD 0 []) : List (BitVec 10)), (((((encodeRows (dataLanes 15) 0 (([Sym.crd, .data 1,
     .data 2, .data 3, .data 4, .data 5]).map fun y => List.replicate 16 y)).1)).getD 1 []) : List (BitVec 10)),
     ((((((encodeRows (dataLanes 15) 0 (([Sym.crd, .data 1, .data 2, .data 3, .data 4,
     .data 5]).map fun y => List.replicate 16 y)).1)).drop 2).take 3) : List (List (BitVec 10))),
     (((((encodeRows (dataLanes 15) 0 (([Sym.crd, .data 1, .data 2, .data 3, .data 4,
     .data 5]).map fun y => List.replicate 16 y)).1)).getD 5 []) : List (BitVec 10)), by decide +kernel⟩,
   ⟨((((upr.wrF (R.LNK_STATE 66) F.LNK_STATE_STATE 3)).wrF (R.LNK_STATE 66) F.LNK_STATE_ACTIVE 15) : State), (2 : Nat),
     (((((encodeRows (dataLanes 15) 0 (([Sym.crd] ++ (crdBytes 3 9).map Sym.data).map fun y => List.replicate 16 y)).1)).getD 0 []) : List (BitVec 10)),
     (((((encodeRows (dataLanes 15) 0 (([Sym.crd] ++ (crdBytes 3 9).map Sym.data).map fun y => List.replicate 16 y)).1)).getD 1 []) : List (BitVec 10)),
     ((((((encodeRows (dataLanes 15) 0 (([Sym.crd] ++ (crdBytes 3 9).map Sym.data).map fun y => List.replicate 16 y)).1)).drop 2).take 3) : List (List (BitVec 10))),
     (((((encodeRows (dataLanes 15) 0 (([Sym.crd] ++ (crdBytes 3 9).map Sym.data).map fun y => List.replicate 16 y)).1)).getD 5 []) : List (BitVec 10)),
     3, 9, by decide +kernel⟩,
   ⟨(0 : Nat), by decide +kernel⟩,
   ⟨(0 : Byte), (0xAB : Byte), (1 : Byte), (0 : Byte), (0 : Byte), by decide +kernel⟩,
   ⟨(((((((upr.wrF (R.LNK_STATE 66) F.LNK_STATE_STATE 3)).wrF (R.LNK_STATE 66) F.LNK_STATE_ACTIVE 15)).wrF (R.SPN_CTL 2) F.SPN_CTL_EI_EN 1).updX 66 fun x => { x with idleRun := 300 }) : State),
     (2 : Nat), by decide +kernel⟩,
   ⟨((((upr.wrF (R.LNK_STATE 66) F.LNK_STATE_STATE 3)).wrF (R.LNK_STATE 66) F.LNK_STATE_ACTIVE 15) : State), (2 : Nat), by decide +kernel⟩,
   ⟨(((((((upr.wrF (R.LNK_STATE 66) F.LNK_STATE_STATE 3)).wrF (R.LNK_STATE 66) F.LNK_STATE_ACTIVE 15)).wrF (R.SPN_CTL 2) F.SPN_CTL_EI_EN 1).updX 66 fun x => { x with idleRun := 300 }) : State),
     (2 : Nat), 31, by decide +kernel⟩,
   ⟨((((((upr.wrF (R.LNK_STATE 66) F.LNK_STATE_STATE 3)).wrF (R.LNK_STATE 66) F.LNK_STATE_ACTIVE 15)).wrF (R.SPN_STAT 2) F.SPN_STAT_EI 1) : State),
     (2 : Nat), by decide +kernel⟩,
   ⟨((((upr.wrF (R.LNK_STATE 66) F.LNK_STATE_STATE 3)).wrF (R.LNK_STATE 66) F.LNK_STATE_ACTIVE 15) : State), (0x1000 : Nat), (2 : Nat),
     by decide +kernel⟩,
   ⟨(upr : State), by decide +kernel⟩⟩

/-- Concrete values meet the hypotheses of every clause of `Obligations.FunctionsDrainAndRestart`. -/
theorem witness_FunctionsDrainAndRestart :
    (∃ (s : State) (f : Nat), fnOk f = true ∧ s.domRuns (64 + fnPort f) = true ∧ isPf f = false) ∧
    (∃ (s : State) (f : Nat) (cause : Nat) (q : _) (v : _), fnOk f = true ∧ isPf f = false ∧ (s.fn f).drain = none ∧ s.regs.wf = true ∧
      s.ten.qps.wf = true ∧ s.wins.wf = true ∧ s.ten.fns.wf = true ∧ (s.drainOne f cause).ten.qps.get? q = some v ∧ v.fn = f) ∧
    (∃ (s : State) (f : Nat) (cause : Nat) (w : _) (v : _), fnOk f = true ∧ isPf f = false ∧ (s.fn f).drain = none ∧ s.regs.wf = true ∧
      s.ten.qps.wf = true ∧ s.wins.wf = true ∧ s.ten.fns.wf = true ∧ (s.drainOne f cause).wins.get? w = some v ∧ v.owner = f) ∧
    (∃ (s : State) (f : Nat) (d : Drain), (s.fn f).drain = some d ∧ s.ten.fns.wf = true) ∧
    (∃ (s : State) (h : Nat), h < 2 ∧ s.domRuns (64 + h) = true ∧ s.rdF (R.HST_PORT_STAT h) F.HST_PORT_STAT_PERST = 0) ∧
    (∃ (s : State) (h : Nat) (f : _), h < 2 ∧ s.domRuns (64 + h) = true ∧ s.ten.fns.wf = true ∧ f ∈ h * 0x800 :: s.vfs h) ∧
    (∃ (s : State) (h : Nat), h < 2 ∧ s.domRuns (64 + h) = true ∧ s.regs.wf = true) ∧
    (∃ (s : State) (f : Nat) (d : Drain), (s.fn f).drain = some d ∧ s.fatal = false ∧ fnOk f = true ∧ s.ten.fns.wf = true ∧
      s.drainOver f = false) ∧
    (∃ (s : State) (f : Nat) (d : Drain), (s.fn f).drain = some d ∧ s.fatal = false ∧ fnOk f = true ∧ s.ten.fns.wf = true ∧
      s.drainOver f = true) ∧
    (∃ (s : State) (f : Nat) (d : Drain), (s.fn f).drain = some d ∧ s.fatal = false ∧ fnOk f = true ∧ s.ten.fns.wf = true ∧ isPf f = false) ∧
    (∃ (s : State) (f : Nat) (d : Drain), (s.fn f).drain = some d ∧ s.fatal = false ∧ fnOk f = true ∧ s.ten.fns.wf = true ∧
      s.domRuns (64 + fnPort f) = true) ∧
    (∃ (s : State) (f : Nat), fnOk f = true ∧ s.domRuns (64 + fnPort f) = true ∧ (s.fn f).drain = none ∧ (s.fn f).bme = false) ∧
    (∃ (s : State) (f : Nat), fnOk f = true ∧ s.domRuns (64 + fnPort f) = true ∧ (s.fn f).drain = none ∧ (s.fn f).bme = true) :=
  ⟨⟨(upq : State), (1 : Nat), by decide +kernel⟩,
   ⟨({ (upq.setFn 1 { upq.fn 0 with slots := [] }) with ten.qps := [(0,qp0),(4,{ qp0 with fn := 1 })], wins := [(4,{ win0 with owner := 1 }),(5,win0)], ten.allocs := [{ fn := 1, off := 7*2^18, size := 2, aper := 0 },{ fn := 0x800, off := 7*2^18, size := 2, aper := 0 }] } : State),
     (1 : Nat), (0 : Nat), 4,
     (((({ (upq.setFn 1 { upq.fn 0 with slots := [] }) with ten.qps := [(0,qp0),(4,{ qp0 with fn := 1 })], wins := [(4,{ win0 with owner := 1 }),(5,win0)], ten.allocs := [{ fn := 1, off := 7*2^18, size := 2, aper := 0 },{ fn := 0x800, off := 7*2^18, size := 2, aper := 0 }] }).drainOne (1) (0)).ten.qps.get? 4).getD qp0),
     by decide +kernel⟩,
   ⟨({ (upq.setFn 1 { upq.fn 0 with slots := [] }) with ten.qps := [(0,qp0),(4,{ qp0 with fn := 1 })], wins := [(4,{ win0 with owner := 1 }),(5,win0)], ten.allocs := [{ fn := 1, off := 7*2^18, size := 2, aper := 0 },{ fn := 0x800, off := 7*2^18, size := 2, aper := 0 }] } : State),
     (1 : Nat), (0 : Nat), 4,
     (((({ (upq.setFn 1 { upq.fn 0 with slots := [] }) with ten.qps := [(0,qp0),(4,{ qp0 with fn := 1 })], wins := [(4,{ win0 with owner := 1 }),(5,win0)], ten.allocs := [{ fn := 1, off := 7*2^18, size := 2, aper := 0 },{ fn := 0x800, off := 7*2^18, size := 2, aper := 0 }] }).drainOne (1) (0)).wins.get? 4).getD win0),
     by decide +kernel⟩,
   ⟨((upq.setFn 1 { ({ upq.fn 0 with slots := [] } : Fn) with drain := some { start := 5, cause := 1 }, held := true, asqHeld := true }) : State),
     (1 : Nat), ({ start := 5, cause := 1 } : Drain), by decide +kernel⟩,
   ⟨(upq : State), (0 : Nat), by decide +kernel⟩,
   ⟨(upq : State), (0 : Nat), 0, by decide +kernel⟩,
   ⟨(upq : State), (0 : Nat), by decide +kernel⟩,
   ⟨({ (upq.setFn 1 { upq.fn 0 with drain := some { start := 5, cause := 1 } }) with wins := [(4,{ win0 with owner := 1, st := .revoking })] } : State),
     (1 : Nat), ({ start := 5, cause := 1 } : Drain), by decide +kernel⟩,
   ⟨((upq.setFn 1 { upq.fn 0 with drain := some { start := 5, cause := 1 }, held := true, asqHeld := true }) : State), (1 : Nat),
     ({ start := 5, cause := 1 } : Drain), by decide +kernel⟩,
   ⟨((upq.setFn 1 { upq.fn 0 with drain := some { start := 5, cause := 1 }, held := true, asqHeld := true }) : State), (1 : Nat),
     ({ start := 5, cause := 1 } : Drain), by decide +kernel⟩,
   ⟨((upq.setFn 1 { upq.fn 0 with drain := some { start := 5, cause := 1 }, held := true, asqHeld := true }) : State), (1 : Nat),
     ({ start := 5, cause := 1 } : Drain), by decide +kernel⟩,
   ⟨((upfn fun v => { v with bme := false }) : State), (0 : Nat), by decide +kernel⟩,
   ⟨(upq : State), (0 : Nat), by decide +kernel⟩⟩

/-- Concrete values meet the hypotheses of every clause of `Obligations.HostPortsShowMasksIdeDoeAndLink`. -/
theorem witness_HostPortsShowMasksIdeDoeAndLink :
    (∃ (s : State) (fn : Nat) (ps : List Piece) (data : List Byte) (r : _), (ps.map Piece.len).sum = data.length ∧ r ∈ s.hostReads fn ps ∧
      r.2.2 = true) ∧
    (∃ (s : State) (f : Nat) (vec : Nat), fnOk f = true ∧ s.domRuns (64 + fnPort f) = true ∧ isPf f = false ∧ s.ten.fns.wf = true ∧
      vec < 2048 ∧ (s.fn f).unmasked.contains vec = false ∧ (s.fn f).funcMask = false ∧ s.fnReady f = true) ∧
    (∃ (s : State) (h : Nat) (i : Nat), s.regs.wf = true ∧ h < 2 ∧ s.domRuns (64 + h) = true ∧ i ≤ 8 ∧
      s.rdF (R.HST_IDE_STAT h) (ideBit i) = 0) ∧
    (∃ (s : State) (h : Nat) (i : Nat), s.regs.wf = true ∧ h < 2 ∧ s.domRuns (64 + h) = true ∧ i ≤ 8 ∧
      s.rdF (R.HST_IDE_STAT h) (ideBit i) = 1) ∧
    (∃ (s : State) (h : Nat) (n : Nat) (ty : DoeType), h < 2 ∧ s.domRuns (64 + h) = true ∧ s.fatal = false ∧ (s.doe h).error = false ∧
      (s.fn (h * 0x800)).drain = none ∧ (65536 < n ∨ (ty = .other ∨ (s.doe h).busy = true))) ∧
    (∃ (s : State) (h : Nat) (n : Nat) (ty : DoeType), h < 2 ∧ s.domRuns (64 + h) = true ∧ s.fatal = false ∧ (s.doe h).error = false ∧
      (s.fn (h * 0x800)).drain = none ∧ n ≤ 65536 ∧ ty = .discovery ∧ (s.doe h).busy = false) ∧
    (∃ (s : State) (h : Nat) (n : Nat) (ty : DoeType), h < 2 ∧ s.domRuns (64 + h) = true ∧ s.fatal = false ∧ (s.doe h).error = false ∧
      (s.fn (h * 0x800)).drain = none ∧ n ≤ 65536 ∧ ty ≠ .discovery ∧ ty ≠ .other ∧ (s.doe h).busy = false) ∧
    (∃ (s : State) (h : Nat), h < 2 ∧ s.domRuns (64 + h) = true ∧ s.fatal = false ∧ (s.doe h).error = false ∧
      (s.fn (h * 0x800)).drain = none ∧ s.hst.doe.wf = true) ∧
    (∃ (s : State) (h : Nat) (speed : Nat) (width : Nat), s.regs.wf = true ∧ h < 2 ∧ s.domRuns (64 + h) = true ∧ 1 ≤ speed ∧ speed ≤ 6 ∧
      width ∈ [1, 2, 4, 8, 16]) ∧
    (∃ (s : State) (h : Nat), s.regs.wf = true ∧ h < 2 ∧ s.domRuns (64 + h) = true ∧ s.boot.pwrGood = true ∧
      s.rdF (R.HST_PORT_STAT h) F.HST_PORT_STAT_PERST = 1) :=
  ⟨⟨(upq : State), (0 : Nat), ([{ bus := 0x90003, len := 700, attr := 1 }, { bus := 0x92000, len := 4096, attr := 2 },
     { bus := 0x95FFF, len := 1, attr := 0 }] : List Piece), ((List.replicate 4797 7) : List Byte),
     (((upq).hostReads (0) ([{ bus := 0x90003, len := 700, attr := 1 }, { bus := 0x92000, len := 4096, attr := 2 },
     { bus := 0x95FFF, len := 1, attr := 0 }])).getD 0 (0,0,false)), by decide +kernel⟩,
   ⟨((upq.setFn 1 { ({ upq.fn 0 with slots := [] } : Fn) with bme := true, pend := [], acqProd := 0 }) : State), (1 : Nat), (0 : Nat),
     by decide +kernel⟩,
   ⟨(upq : State), (1 : Nat), (0 : Nat), by decide +kernel⟩,
   ⟨(((upq.wrF (R.HST_IDE_STAT 1) (ideBit 0) 1).wrF (R.HST_IDE_STAT 1) (ideBit 3) 1) : State), (1 : Nat), (0 : Nat), by decide +kernel⟩,
   ⟨({ upq with hst.doe := [(0, { busy := true, pending := false, error := false })] } : State), (0 : Nat), (65536 : Nat),
     (.discovery : DoeType), by decide +kernel⟩,
   ⟨(upq : State), (0 : Nat), (65536 : Nat), (.discovery : DoeType), by decide +kernel⟩,
   ⟨(upq : State), (0 : Nat), (65536 : Nat), (.cmaSpdm : DoeType), by decide +kernel⟩,
   ⟨(upq : State), (0 : Nat), by decide +kernel⟩,
   ⟨(upq : State), (1 : Nat), (1 : Nat), (1 : Nat), by decide +kernel⟩,
   ⟨(((upq).wrF (R.HST_PORT_STAT 1) F.HST_PORT_STAT_PERST 1) : State), (1 : Nat), by decide +kernel⟩⟩

/-- Concrete values meet the hypotheses of every clause of `Obligations.InterruptsAreDeliveredClaimedAndEnded`. -/
theorem witness_InterruptsAreDeliveredClaimedAndEnded :
    (∃ (s : State) (t : Nat) (n : Nat) (m : _), s.ircBest t = some n ∧ m < 256 ∧ s.claimable t m = true) ∧
    (∃ (s : State) (t : Nat) (n : Nat), s.ircBest t = none ∧ n < 256) ∧
    (∃ (s : State) (t : Nat) (n : Nat), s.claimable t n = true) ∧
    (∃ (s : State) (n : Nat), s.ircLevel n = true) ∧
    (∃ (s : State) (n : Nat), s.ircLevel n = false) ∧
    (∃ (s : State) (t : Nat), s.fatal = false ∧ (s.ircBest t).isSome = true ∧ s.tgtOpen t = true ∧ t < 4 ∧
      s.rdF (R.IRC_TGT t) F.IRC_TGT_WINDOW ≠ 0) ∧
    (∃ (s : State) (t : Nat), (s.fatal = true ∨ (s.ircBest t = none ∨ s.tgtOpen t = false))) ∧
    (∃ (s : State) (t : Nat) (e : Nat), s.irc.windows.get? t = some e) ∧
    (∃ (s : State) (rid : Nat) (t : Nat), ridFull rid = true ∧ s.barOpen rid = true ∧ t < 6 ∧ s.regCause (R.IRC_CLAIM t) = none ∧
      s.ircBest t = none) ∧
    (∃ (s : State) (rid : Nat) (t : Nat) (n : _), ridFull rid = true ∧ s.barOpen rid = true ∧ t < 6 ∧ s.regCause (R.IRC_CLAIM t) = none ∧
      s.ircBest t = some n) ∧
    (∃ (s : State) (rid : Nat) (t : Nat) (val : Word), ridFull rid = true ∧ s.barOpen rid = true ∧ t < 6 ∧ s.regCause (R.IRC_EOI t) = none ∧
      getF val F.IRC_EOI_SOURCE ≤ 0xFF) ∧
    (∃ (s : State) (rid : Nat) (t : Nat) (val : Word), ridFull rid = true ∧ s.barOpen rid = true ∧ t < 6 ∧ s.regCause (R.IRC_EOI t) = none ∧
      0xFF < getF val F.IRC_EOI_SOURCE) ∧
    (∃ (s : State) (rid : Nat) (n : Nat), s.regs.wf = true ∧ n < 256 ∧ ridFull rid = true ∧ s.barOpen rid = true ∧
      s.regCause (R.IRC_SRC n) = none) :=
  ⟨⟨((((((upi.wrF R.TOP_ACCESS_ERR F.TOP_ACCESS_ERR_VALID 1).wrF (R.IRC_SRC 1) F.IRC_SRC_PRIORITY 3).wrF (R.IRC_SRC 1) F.IRC_SRC_TARGETS 63).wrF (R.IRC_SRC 7) F.IRC_SRC_PRIORITY 3).wrF (R.IRC_SRC 7) F.IRC_SRC_TARGETS 63).wrF (R.HST_PORT_STAT 0) F.HST_PORT_STAT_CHANGE 1 : State),
     (3 : Nat), (1 : Nat), 7, by decide +kernel⟩,
   ⟨(upi : State), (3 : Nat), (1 : Nat), by decide +kernel⟩,
   ⟨((((upi.wrF R.TOP_ACCESS_ERR F.TOP_ACCESS_ERR_VALID 1).wrF (R.IRC_SRC 1) F.IRC_SRC_PRIORITY 3).wrF (R.IRC_SRC 1) F.IRC_SRC_TARGETS 63) : State),
     (3 : Nat), (1 : Nat), by decide +kernel⟩,
   ⟨((((upi.wrF R.TOP_ACCESS_ERR F.TOP_ACCESS_ERR_VALID 1).wrF (R.IRC_SRC 1) F.IRC_SRC_PRIORITY 3).wrF (R.IRC_SRC 1) F.IRC_SRC_TARGETS 63) : State),
     (1 : Nat), by decide +kernel⟩,
   ⟨(upi : State), (1 : Nat), by decide +kernel⟩,
   ⟨((((upi.wrF R.TOP_ACCESS_ERR F.TOP_ACCESS_ERR_VALID 1).wrF (R.IRC_SRC 1) F.IRC_SRC_PRIORITY 3).wrF (R.IRC_SRC 1) F.IRC_SRC_TARGETS 63) : State),
     (3 : Nat), by decide +kernel⟩,
   ⟨(upi : State), (3 : Nat), by decide +kernel⟩,
   ⟨({ (((upi.wrF R.TOP_ACCESS_ERR F.TOP_ACCESS_ERR_VALID 1).wrF (R.IRC_SRC 1) F.IRC_SRC_PRIORITY 3).wrF (R.IRC_SRC 1) F.IRC_SRC_TARGETS 63) with irc.windows := [(3,5)] } : State),
     (3 : Nat), (5 : Nat), by decide +kernel⟩,
   ⟨(upi : State), (0x1000 : Nat), (0 : Nat), by decide +kernel⟩,
   ⟨((((upi.wrF R.TOP_ACCESS_ERR F.TOP_ACCESS_ERR_VALID 1).wrF (R.IRC_SRC 1) F.IRC_SRC_PRIORITY 3).wrF (R.IRC_SRC 1) F.IRC_SRC_TARGETS 63) : State),
     (0x1000 : Nat), (0 : Nat), 1, by decide +kernel⟩,
   ⟨({ (((upi.wrF R.TOP_ACCESS_ERR F.TOP_ACCESS_ERR_VALID 1).wrF (R.IRC_SRC 1) F.IRC_SRC_PRIORITY 3).wrF (R.IRC_SRC 1) F.IRC_SRC_TARGETS 63) with irc.service := [(3,1),(2,1)] } : State),
     (0x1000 : Nat), (3 : Nat), (1 : Word), by decide +kernel⟩,
   ⟨({ (((upi.wrF R.TOP_ACCESS_ERR F.TOP_ACCESS_ERR_VALID 1).wrF (R.IRC_SRC 1) F.IRC_SRC_PRIORITY 3).wrF (R.IRC_SRC 1) F.IRC_SRC_TARGETS 63) with irc.service := [(3,1),(2,1)] } : State),
     (0x1000 : Nat), (3 : Nat), (256 : Word), by decide +kernel⟩,
   ⟨((((upi.wrF R.TOP_ACCESS_ERR F.TOP_ACCESS_ERR_VALID 1).wrF (R.IRC_SRC 1) F.IRC_SRC_PRIORITY 3).wrF (R.IRC_SRC 1) F.IRC_SRC_TARGETS 63) : State),
     (0x1000 : Nat), (255 : Nat), by decide +kernel⟩⟩

/-- Concrete values meet the hypotheses of every clause of `Obligations.CellCommandsFollowTable13_2`. -/
theorem witness_CellCommandsFollowTable13_2 :
    (∃ (s : State) (rid : Nat) (off : Nat), s.semOpen rid = true ∧ cellPos off = s.spanPos ∧ off % 8 = 0 ∧ rid < 2 ^ 16 ∧
      s.sem.cells.wf = true ∧ s.mayUse rid ((cellNo off) / 128) = false) ∧
    (∃ (s : State) (rid : Nat) (off : Nat), s.semOpen rid = true ∧ cellPos off = s.spanPos ∧ off % 8 = 0 ∧ rid < 2 ^ 16 ∧
      s.sem.cells.wf = true ∧ s.supervises rid ((cellNo off) / 128) = false) ∧
    (∃ (s : State) (rid : Nat) (off : Nat), s.semOpen rid = true ∧ cellPos off = s.spanPos ∧ off % 8 = 0 ∧ rid < 2 ^ 16 ∧
      s.sem.cells.wf = true ∧ s.mayUse rid ((cellNo off) / 128) = true ∧ getF (s.cell (cellNo off)) Cell.held = 0) ∧
    (∃ (s : State) (rid : Nat) (off : Nat) (cmd : Word), s.semOpen rid = true ∧ cellPos off = s.spanPos ∧ off % 8 = 0 ∧ rid < 2 ^ 16 ∧
      s.sem.cells.wf = true ∧ s.mayUse rid ((cellNo off) / 128) = true ∧ getF (s.cell (cellNo off)) Cell.held = 1 ∧
      getF (s.cell (cellNo off)) Cell.orphan = 0 ∧ ((getF (s.cell (cellNo off)) Cell.owner = rid ∧
      getF (s.cell (cellNo off)) Cell.origin = rid ∧ getF (s.cell (cellNo off)) Cell.token = (bitsOf cmd 16 16)))) ∧
    (∃ (s : State) (rid : Nat) (off : Nat) (cmd : Word), s.semOpen rid = true ∧ cellPos off = s.spanPos ∧ off % 8 = 0 ∧ rid < 2 ^ 16 ∧
      s.sem.cells.wf = true ∧ s.mayUse rid ((cellNo off) / 128) = true ∧
      (getF (s.cell (cellNo off)) Cell.held = 0 ∨ (getF (s.cell (cellNo off)) Cell.orphan = 1 ∨ ¬ (getF (s.cell (cellNo off)) Cell.owner = rid ∧
      getF (s.cell (cellNo off)) Cell.origin = rid ∧ getF (s.cell (cellNo off)) Cell.token = (bitsOf cmd 16 16))))) ∧
    (∃ (s : State) (rid : Nat) (off : Nat) (op : Word), s.semOpen rid = true ∧ cellPos off = s.spanPos ∧ off % 8 = 0 ∧ rid < 2 ^ 16 ∧
      s.sem.cells.wf = true ∧ s.mayUse rid ((cellNo off) / 128) = true ∧ bitsOf op 0 2 ≠ 2) ∧
    (∃ (s : State) (rid : Nat) (off : Nat), s.semOpen rid = true ∧ cellPos off = s.spanPos ∧ off % 8 = 0 ∧ rid < 2 ^ 16 ∧
      s.sem.cells.wf = true ∧ s.supervises rid ((cellNo off) / 128) = true ∧ getF (s.cell (cellNo off)) Cell.held = 1) ∧
    (∃ (s : State) (rid : Nat) (off : Nat), s.semOpen rid = true ∧ cellPos off = s.spanPos ∧ off % 8 = 0 ∧ rid < 2 ^ 16 ∧
      s.sem.cells.wf = true ∧ s.supervises rid ((cellNo off) / 128) = true ∧ getF (s.cell (cellNo off)) Cell.held = 0) ∧
    (∃ (s : State) (rid : Nat) (off : Nat) (size : _), s.semOpen rid = true ∧ cellPos off = s.spanPos ∧ off % 8 = 0 ∧ rid < 2 ^ 16 ∧
      s.sem.cells.wf = true ∧ size ≠ 8 ∧ size ≠ 4) :=
  ⟨⟨(((upq).wr (R.SEM_GRP 0) (0)) : State), (0x1000 : Nat), (40 : Nat), by decide +kernel⟩,
   ⟨(((upq).wr (R.SEM_GRP 0) (0)) : State), (0x1000 : Nat), (40 : Nat), by decide +kernel⟩,
   ⟨(((upq).wr (R.SEM_GRP 0) (putF 0 F.SEM_GRP_MGMT 1)) : State), (0x1000 : Nat), (40 : Nat), by decide +kernel⟩,
   ⟨({ ((upq).wr (R.SEM_GRP 0) (putF 0 F.SEM_GRP_MGMT 1)) with sem.cells := [(5, putF (putF (putF (putF (putF 0 Cell.held 1) Cell.owner 0x1000) Cell.origin 0x1000) Cell.token 0x77) Cell.seq 8191)] } : State),
     (0x1000 : Nat), (40 : Nat), (0x770000 : Word), by decide +kernel⟩,
   ⟨(((upq).wr (R.SEM_GRP 0) (putF 0 F.SEM_GRP_MGMT 1)) : State), (0x1000 : Nat), (40 : Nat), (0x770000 : Word), by decide +kernel⟩,
   ⟨(((upq).wr (R.SEM_GRP 0) (putF 0 F.SEM_GRP_MGMT 1)) : State), (0x1000 : Nat), (40 : Nat), ((1:Word) : Word), by decide +kernel⟩,
   ⟨({ ((upq).wr (R.SEM_GRP 0) (putF (putF (putF 0 F.SEM_GRP_SUPER_EN 1) F.SEM_GRP_SUPER 0x1000) F.SEM_GRP_MGMT 1)) with sem.cells := [(5, putF (putF (putF (putF (putF 0 Cell.held 1) Cell.owner 0x1000) Cell.origin 0x1000) Cell.token 0x77) Cell.seq 8191)] } : State),
     (0x1000 : Nat), (40 : Nat), by decide +kernel⟩,
   ⟨(((upq).wr (R.SEM_GRP 0) (putF (putF (putF 0 F.SEM_GRP_SUPER_EN 1) F.SEM_GRP_SUPER 0x1000) F.SEM_GRP_MGMT 1)) : State), (0x1000 : Nat),
     (40 : Nat), by decide +kernel⟩,
   ⟨(((upq).wr (R.SEM_GRP 0) (0)) : State), (0x1000 : Nat), (40 : Nat), (2:Nat), by decide +kernel⟩⟩

/-- Concrete values meet the hypotheses of every clause of `Obligations.SpanRequestsAreServedAndAnswered`. -/
theorem witness_SpanRequestsAreServedAndAnswered :
    (∃ (s : State) (k : Nat) (p : Packet), s.live = true ∧ s.rte.localQ = [] ∧ p.type = 0x0C ∧ s.spanOk k p = true ∧ bitsOf p.w4 16 2 = 0 ∧
      (s.peerIncCheck (s.posOf k) p.inc).mayUse (0x2000 + s.posOf k) ((reqCell p) / 128) = true) ∧
    (∃ (s : State) (k : Nat) (p : Packet), s.live = true ∧ s.rte.localQ = [] ∧ p.type = 0x0C ∧ s.spanOk k p = true ∧ bitsOf p.w4 16 2 = 0 ∧
      (s.peerIncCheck (s.posOf k) p.inc).mayUse (0x2000 + s.posOf k) ((reqCell p) / 128) = false) ∧
    (∃ (s : State) (k : Nat) (p : Packet), s.live = true ∧ s.rte.localQ = [] ∧ p.type = 0x0C ∧ s.spanOk k p = true ∧ bitsOf p.w4 16 2 = 1 ∧
      (s.peerIncCheck (s.posOf k) p.inc).cmdRight (0x2000 + s.posOf k) (reqCell p) p.w5 = true) ∧
    (∃ (s : State) (k : Nat) (p : Packet), s.live = true ∧ s.rte.localQ = [] ∧ p.type = 0x0C ∧ s.spanOk k p = true ∧ bitsOf p.w4 16 2 = 1 ∧
      (s.peerIncCheck (s.posOf k) p.inc).cmdRight (0x2000 + s.posOf k) (reqCell p) p.w5 = false) ∧
    (∃ (s : State) (k : Nat) (p : Packet), s.live = true ∧ s.rte.localQ = [] ∧ p.type = 0x0C ∧ s.spanOk k p = true ∧ bitsOf p.w4 16 2 = 2 ∧
      (s.peerIncCheck (s.posOf k) p.inc).mayUse (0x2000 + s.posOf k) ((reqCell p) / 128) = true ∧
      (s.peerIncCheck (s.posOf k) p.inc).cmdRight (0x2000 + s.posOf k) (reqCell p) p.w5 = true) ∧
    (∃ (s : State) (k : Nat) (p : Packet), s.live = true ∧ s.rte.localQ = [] ∧ p.type = 0x0C ∧ s.spanOk k p = true ∧ bitsOf p.w4 16 2 = 3) ∧
    (∃ (s : State) (k : Nat) (p : Packet), s.live = true ∧ s.rte.localQ = [] ∧ k < 3 ∧ s.spanOk k p = false ∧ p.type = 0x0C ∧
      bitsOf p.w4 16 2 = 0) ∧
    (∃ (s : State) (k : Nat) (p : Packet), s.live = true ∧ s.rte.localQ = [] ∧ k < 3 ∧ s.spanOk k p = false ∧ p.type = 0x0D) ∧
    (∃ (s : State) (k : Nat) (p : Packet) (q : SpanReq), s.live = true ∧ s.rte.localQ = [] ∧ p.type = 0x0D ∧ s.spanOk k p = true ∧
      s.sem.reqs.get? (k * 256 + bitsOf p.w4 24 8) = some q ∧ q.kind = 0) ∧
    (∃ (s : State) (k : Nat) (p : Packet) (q : SpanReq), s.live = true ∧ s.rte.localQ = [] ∧ p.type = 0x0D ∧ s.spanOk k p = true ∧
      s.sem.reqs.get? (k * 256 + bitsOf p.w4 24 8) = some q ∧ q.kind = 1) ∧
    (∃ (s : State) (k : Nat) (p : Packet) (q : SpanReq), s.live = true ∧ s.rte.localQ = [] ∧ p.type = 0x0D ∧ s.spanOk k p = true ∧
      s.sem.reqs.get? (k * 256 + bitsOf p.w4 24 8) = some q ∧ q.kind = 2) ∧
    (∃ (s : State) (k : Nat) (p : Packet), s.live = true ∧ s.rte.localQ = [] ∧ p.type = 0x0D ∧ s.spanOk k p = true ∧
      s.sem.reqs.get? (k * 256 + bitsOf p.w4 24 8) = none) ∧
    (∃ (s : State) (k : Nat) (tag : Nat) (q : SpanReq), s.sem.reqs.get? (k * 256 + tag) = some q) ∧
    (∃ (s : State) (k : Nat) (n : NoticeReq) (ns : List NoticeReq), s.sem.notices.get? k = some (n :: ns) ∧ s.portState (64 + k) = 3) ∧
    (∃ (s : State) (k : Nat), ((s.sem.notices.get? k).getD []).length < 64) ∧
    (∃ (s : State) (k : Nat), 64 ≤ ((s.sem.notices.get? k).getD []).length) ∧
    (∃ (s : State) (rid : Nat) (off : Nat), s.semOpen rid = true ∧ off % 8 = 0 ∧ cellPos off ≠ s.spanPos ∧ s.peerAt (cellPos off) = false) ∧
    (∃ (s : State) (rid : Nat) (off : Nat), s.semOpen rid = true ∧ off % 8 = 0 ∧ cellPos off ≠ s.spanPos ∧ s.peerAt (cellPos off) = true ∧
      (ridClass rid = 1 ∨ s.mayUse rid (cellNo off / 128) = true) ∧ s.portState (64 + s.spanTo (cellPos off)) ≠ 3) :=
  ⟨⟨(((((upr.wrF (R.RTE_PORT_ROLE 66) F.RTE_PORT_ROLE_ROLE 4).wrF (R.RTE_PORT_ROLE 66) F.RTE_PORT_ROLE_FAR_NODE 9)).wr (R.SEM_GRP 0) (putF 0 F.SEM_GRP_PEERS 15)) : State),
     (2 : Nat), ({ pk0 with type := 0x0C, srcNode := 9, hops := 1, dstNode := 0, w4 := w64 (5 + 0*2^16 + 7*2^24), w6 := 0x1000 } : Packet),
     by decide +kernel⟩,
   ⟨(((((upr.wrF (R.RTE_PORT_ROLE 66) F.RTE_PORT_ROLE_ROLE 4).wrF (R.RTE_PORT_ROLE 66) F.RTE_PORT_ROLE_FAR_NODE 9)).wr (R.SEM_GRP 0) (0)) : State),
     (2 : Nat), ({ pk0 with type := 0x0C, srcNode := 9, hops := 1, dstNode := 0, w4 := w64 (5 + 0*2^16 + 7*2^24), w6 := 0x1000 } : Packet),
     by decide +kernel⟩,
   ⟨(((((upr.wrF (R.RTE_PORT_ROLE 66) F.RTE_PORT_ROLE_ROLE 4).wrF (R.RTE_PORT_ROLE 66) F.RTE_PORT_ROLE_FAR_NODE 9)).wr (R.SEM_GRP 0) (putF 0 F.SEM_GRP_PEERS 15)) : State),
     (2 : Nat),
     ({ ({ pk0 with type := 0x0C, srcNode := 9, hops := 1, dstNode := 0, w4 := w64 (5 + 1*2^16 + 7*2^24), w6 := 0x1000 } : Packet) with w5 := 0x770000 } : Packet),
     by decide +kernel⟩,
   ⟨(((((upr.wrF (R.RTE_PORT_ROLE 66) F.RTE_PORT_ROLE_ROLE 4).wrF (R.RTE_PORT_ROLE 66) F.RTE_PORT_ROLE_FAR_NODE 9)).wr (R.SEM_GRP 0) (putF 0 F.SEM_GRP_PEERS 15)) : State),
     (2 : Nat),
     ({ ({ pk0 with type := 0x0C, srcNode := 9, hops := 1, dstNode := 0, w4 := w64 (5 + 1*2^16 + 7*2^24), w6 := 0x1000 } : Packet) with w5 := 2 } : Packet),
     by decide +kernel⟩,
   ⟨(((((upr.wrF (R.RTE_PORT_ROLE 66) F.RTE_PORT_ROLE_ROLE 4).wrF (R.RTE_PORT_ROLE 66) F.RTE_PORT_ROLE_FAR_NODE 9)).wr (R.SEM_GRP 0) (putF 0 F.SEM_GRP_PEERS 15)) : State),
     (2 : Nat),
     ({ ({ pk0 with type := 0x0C, srcNode := 9, hops := 1, dstNode := 0, w4 := w64 (5 + 2*2^16 + 7*2^24), w6 := 0x1000 } : Packet) with w5 := 0x770000 } : Packet),
     by decide +kernel⟩,
   ⟨(((((upr.wrF (R.RTE_PORT_ROLE 66) F.RTE_PORT_ROLE_ROLE 4).wrF (R.RTE_PORT_ROLE 66) F.RTE_PORT_ROLE_FAR_NODE 9)).wr (R.SEM_GRP 0) (putF 0 F.SEM_GRP_PEERS 15)) : State),
     (2 : Nat), ({ pk0 with type := 0x0C, srcNode := 9, hops := 1, dstNode := 0, w4 := w64 (5 + 3*2^16 + 7*2^24), w6 := 0x1000 } : Packet),
     by decide +kernel⟩,
   ⟨(upr : State), (2 : Nat),
     ({ pk0 with type := 0x0C, srcNode := 9, hops := 1, dstNode := 0, w4 := w64 (5 + 0*2^16 + 7*2^24), w6 := 0x1000 } : Packet),
     by decide +kernel⟩,
   ⟨(upr : State), (2 : Nat),
     ({ pk0 with type := 0x0D, srcNode := 9, hops := 1, dstNode := 0, w4 := w64 (5 + 7*2^24), w5 := 0x123456789A } : Packet),
     by decide +kernel⟩,
   ⟨({ ((upr.wrF (R.RTE_PORT_ROLE 66) F.RTE_PORT_ROLE_ROLE 4).wrF (R.RTE_PORT_ROLE 66) F.RTE_PORT_ROLE_FAR_NODE 9) with sem.reqs := [(2*256+7, { rid := 0x1000, kind := 0, cell := 5, size := 4, low := 4, due := 9 })], sem.notices := [(2, [{ tag := 200, origin := 5, all := false, due := 9 }])] } : State),
     (2 : Nat), ({ pk0 with type := 0x0D, srcNode := 9, hops := 1, dstNode := 0, w4 := w64 (5 + 7*2^24), w5 := 0x123456789A } : Packet),
     ({ rid := 0x1000, kind := 0, cell := 5, size := 4, low := 4, due := 9 } : SpanReq), by decide +kernel⟩,
   ⟨({ ((upr.wrF (R.RTE_PORT_ROLE 66) F.RTE_PORT_ROLE_ROLE 4).wrF (R.RTE_PORT_ROLE 66) F.RTE_PORT_ROLE_FAR_NODE 9) with sem.reqs := [(2*256+7, { rid := 0x1000, kind := 1, cell := 5, size := 4, low := 4, due := 9 })], sem.notices := [(2, [{ tag := 200, origin := 5, all := false, due := 9 }])] } : State),
     (2 : Nat), ({ pk0 with type := 0x0D, srcNode := 9, hops := 1, dstNode := 0, w4 := w64 (5 + 7*2^24), w5 := 0x123456789A } : Packet),
     ({ rid := 0x1000, kind := 1, cell := 5, size := 4, low := 4, due := 9 } : SpanReq), by decide +kernel⟩,
   ⟨({ ((upr.wrF (R.RTE_PORT_ROLE 66) F.RTE_PORT_ROLE_ROLE 4).wrF (R.RTE_PORT_ROLE 66) F.RTE_PORT_ROLE_FAR_NODE 9) with sem.reqs := [(2*256+7, { rid := 0x1000, kind := 2, cell := 5, size := 4, low := 4, due := 9 })], sem.notices := [(2, [{ tag := 200, origin := 5, all := false, due := 9 }])] } : State),
     (2 : Nat), ({ pk0 with type := 0x0D, srcNode := 9, hops := 1, dstNode := 0, w4 := w64 (5 + 7*2^24), w5 := 0x123456789A } : Packet),
     ({ rid := 0x1000, kind := 2, cell := 5, size := 4, low := 4, due := 9 } : SpanReq), by decide +kernel⟩,
   ⟨({ ((upr.wrF (R.RTE_PORT_ROLE 66) F.RTE_PORT_ROLE_ROLE 4).wrF (R.RTE_PORT_ROLE 66) F.RTE_PORT_ROLE_FAR_NODE 9) with sem.reqs := [(2*256+7, { rid := 0x1000, kind := 0, cell := 5, size := 4, low := 4, due := 9 })], sem.notices := [(2, [{ tag := 200, origin := 5, all := false, due := 9 }])] } : State),
     (2 : Nat),
     ({ ({ pk0 with type := 0x0D, srcNode := 9, hops := 1, dstNode := 0, w4 := w64 (5 + 7*2^24), w5 := 0x123456789A } : Packet) with w4 := w64 (5+200*2^24) } : Packet),
     by decide +kernel⟩,
   ⟨({ ((upr.wrF (R.RTE_PORT_ROLE 66) F.RTE_PORT_ROLE_ROLE 4).wrF (R.RTE_PORT_ROLE 66) F.RTE_PORT_ROLE_FAR_NODE 9) with sem.reqs := [(2*256+7, { rid := 0x1000, kind := 0, cell := 5, size := 4, low := 4, due := 9 })] } : State),
     (2 : Nat), (7 : Nat), ({ rid := 0x1000, kind := 0, cell := 5, size := 4, low := 4, due := 9 } : SpanReq), by decide +kernel⟩,
   ⟨({ ((((upr.wrF (R.RTE_PORT_ROLE 66) F.RTE_PORT_ROLE_ROLE 4).wrF (R.RTE_PORT_ROLE 66) F.RTE_PORT_ROLE_FAR_NODE 9)).wrF (R.LNK_STATE 66) F.LNK_STATE_STATE 3) with sem.notices := [(2, [{ tag := 200, origin := 5, all := false, due := 9 }])] } : State),
     (2 : Nat), ({ tag := 200, origin := 5, all := false, due := 9 } : NoticeReq), ([] : List NoticeReq), by decide +kernel⟩,
   ⟨(upr : State), (2 : Nat), by decide +kernel⟩,
   ⟨({ upr with sem.notices := [(2, (List.range 64).map fun i => { tag := i, origin := 5, all := false, due := 9 })] } : State), (2 : Nat),
     by decide +kernel⟩,
   ⟨(((upq).wr (R.SEM_GRP 0) (putF 0 F.SEM_GRP_MGMT 1)) : State), (0x1000 : Nat), (3*0x20000+40 : Nat), by decide +kernel⟩,
   ⟨(((((upr.wrF (R.RTE_PORT_ROLE 66) F.RTE_PORT_ROLE_ROLE 4).wrF (R.RTE_PORT_ROLE 66) F.RTE_PORT_ROLE_FAR_NODE 9)).wr (R.SEM_GRP 0) (putF 0 F.SEM_GRP_MGMT 1)) : State),
     (0x1000 : Nat), (3*0x20000+40 : Nat), by decide +kernel⟩⟩

/-- Concrete values meet the hypotheses of every clause of `Obligations.LocksAreNeverTakenAway`. -/
theorem witness_LocksAreNeverTakenAway :
    (∃ (i : Instr) (s : State) (t : State) (c : Nat), (unlocks i = false ∨ (s.boot.holding = false ∧ ((∃ k x, i = .channelSample k x)))) ∧
      s.sem.cells.wf = true ∧ exec i s = .next t ∧ getF (s.cell c) Cell.held = 1 ∧ getF (s.cell c) Cell.orphan = 1) ∧
    (∃ (s : State) (t : State) (rid : Nat) (off : Nat) (size : Nat) (c : Nat) (cmd : Word), s.sem.cells.wf = true ∧
      getF (s.cell c) Cell.held = 1 ∧ getF (s.cell c) Cell.orphan = 1 ∧
      (exec (.cellClaim rid off size cmd) s = .next t ∨ exec (.cellRelease rid off size cmd) s = .next t)) :=
  ⟨⟨(.cellClaim 0x1000 40 8 0x990000 : Instr),
     ({ ((upq).wr (R.SEM_GRP 0) (putF 0 F.SEM_GRP_MGMT 1)) with sem.cells := [(5, putF (putF (putF (putF (putF (putF 0 Cell.held 1) Cell.owner 0x1000) Cell.origin 0x1000) Cell.token 0x77) Cell.seq 8191) Cell.orphan 1)] } : State),
     nextOr (exec (.cellClaim 0x1000 40 8 0x990000) ({ ((upq).wr (R.SEM_GRP 0) (putF 0 F.SEM_GRP_MGMT 1)) with sem.cells := [(5, putF (putF (putF (putF (putF (putF 0 Cell.held 1) Cell.owner 0x1000) Cell.origin 0x1000) Cell.token 0x77) Cell.seq 8191) Cell.orphan 1)] })) up,
     (5 : Nat), .inl (by decide +kernel), by decide +kernel, next_of (by decide +kernel), by decide +kernel⟩,
   ⟨({ ((upq).wr (R.SEM_GRP 0) (putF 0 F.SEM_GRP_MGMT 1)) with sem.cells := [(5, putF (putF (putF (putF (putF (putF 0 Cell.held 1) Cell.owner 0x1000) Cell.origin 0x1000) Cell.token 0x77) Cell.seq 8191) Cell.orphan 1)] } : State),
     nextOr (exec (.cellClaim 0x1000 40 8 0x770001) ({ ((upq).wr (R.SEM_GRP 0) (putF 0 F.SEM_GRP_MGMT 1)) with sem.cells := [(5, putF (putF (putF (putF (putF (putF 0 Cell.held 1) Cell.owner 0x1000) Cell.origin 0x1000) Cell.token 0x77) Cell.seq 8191) Cell.orphan 1)] })) up,
     (0x1000 : Nat), (40 : Nat), (8 : Nat), (5 : Nat), (0x770001 : Word), by decide +kernel, by decide +kernel, by decide +kernel,
     .inl (next_of (by decide +kernel))⟩⟩

/-- Concrete values meet the hypotheses of every clause of `Obligations.DevicesBootFallAndRecover`. -/
theorem witness_DevicesBootFallAndRecover :
    (∃ (s : State), (s.boot.ao = false ∨ s.boot.pwrGood = true)) ∧
    (∃ (s : State), s.stage = 15 ∧ s.boot.pwrGood = true ∧ s.fatal = false) ∧
    (∃ (s : State), (s.stage ≠ 15 ∨ (s.boot.pwrGood = false ∨ s.fatal = true))) ∧
    (∃ (s : State), s.evr.closing = true ∧ s.boot.ao = true ∧ s.boot.pwrGood = false) ∧
    (∃ (s : State), s.regs.wf = true ∧ s.railsIn = false ∧ s.boot.ao = true ∧ s.boot.pwrGood = false) ∧
    (∃ (s : State), s.boot.pwrGood = true ∧ s.boot.holding = true ∧ s.railsIn = true ∧ s.early = false) ∧
    (∃ (s : State) (w : _), s.regs.wf = true ∧ s.evr.words.wf = true ∧ w < 6) ∧
    (∃ (s : State), s.regs.wf = true ∧ s.evr.words.wf = true ∧ s.boot.log.length ≤ 1018) ∧
    (∃ (s : State), s.boot.bootSrc = true) ∧
    (∃ (s : State), s.boot.bootSrc = false ∧ (s.boot.lc = 0 ∨ s.boot.lc = 5)) ∧
    (∃ (s : State), s.boot.bootSrc = false ∧ s.boot.lc ≠ 0 ∧ s.boot.lc ≠ 5) ∧
    (∃ (s : State) (cause : Nat) (d : _), s.regs.wf = true ∧ cause < 8 ∧ d < 93 ∧ keptDom d = false) ∧
    (∃ (s : State) (d : _), s.regs.wf = true ∧ d < 92) :=
  ⟨⟨(btk : State), by decide +kernel⟩,
   ⟨((btk.stageAt 15) : State), by decide +kernel⟩,
   ⟨(btk : State), by decide +kernel⟩,
   ⟨({btk with boot.ao:=true,boot.pwrGood:=false,evr.closing:=true} : State), by decide +kernel⟩,
   ⟨({btk with boot.pwrGood := false} : State), by decide +kernel⟩,
   ⟨((rails {btk with boot.pwrGood := true, boot.holding := true}) : State), by decide +kernel⟩,
   ⟨(btk : State), 0, by decide +kernel⟩,
   ⟨(btk : State), by decide +kernel⟩,
   ⟨({btk with boot.bootSrc:=true} : State), by decide +kernel⟩,
   ⟨({btk with boot.lc:=0} : State), by decide +kernel⟩,
   ⟨(btk : State), by decide +kernel⟩,
   ⟨(btk : State), (2 : Nat), 0, by decide +kernel⟩,
   ⟨(btk : State), 0, by decide +kernel⟩⟩

/-- Concrete values meet the hypotheses of every clause of `Obligations.BootsTakeOnlyCheckedImagesAndBlobs` (at configurations as the hypothesis says: a signature check, a trim or a rail of `Config` has no body). -/
theorem witness_BootsTakeOnlyCheckedImagesAndBlobs (hv : ∀ k d g, Config.ecdsaVerify k d g = true) :
    (∃ (s : State) (size : Nat) (d0 : Directory) (d1 : Directory), s.boot.wait = .directory ∧ dirValid d0 size = false ∧
      dirValid d1 size = false) ∧
    (∃ (s : State) (size : Nat) (d0 : Directory) (d1 : Directory) (d : _), s.boot.wait = .directory ∧ ((dirValid d0 size = true ∧
      d = d0) ∨ (dirValid d0 size = false ∧ (dirValid d1 size = true ∧ d = d1)))) ∧
    (∃ (s : State) (second : Bool) (i : Image), s.boot.wait = .slot false second ∧ s.imageReason i (imgCodes i) = none) ∧
    (∃ (s : State) (second : Bool) (i : Image) (r : _), s.boot.wait = .slot false second ∧ s.imageReason i (imgCodes i) = some r) ∧
    (∃ (s : State) (second : Bool) (i : Image), s.boot.wait = .slot true second ∧ s.imageReason i (imgCodes i) = none) ∧
    (∃ (s : State) (second : Bool) (i : Image) (r : _), s.boot.wait = .slot true second ∧ s.imageReason i (imgCodes i) = some r) ∧
    (∃ (s : State) (second : Bool) (reason : Nat), s.regs.wf = true ∧ reason < 32 ∧ second = false) ∧
    (∃ (s : State) (second : Bool) (reason : Nat), s.regs.wf = true ∧ reason < 32 ∧ second = true) ∧
    (∃ (s : State) (i : Image) (codes : List Nat), s.imageReason i codes = none ∧ s.boot.ownerFused = true ∧ s.boot.lc ≠ 4) ∧
    (∃ (s : State) (i : Image) (codes : List Nat) (c : _), s.imageReason i codes = none ∧ c ∈ i.components ∧ c.code ∈ codes) ∧
    (∃ (s : State) (w : _), s.regs.wf = true ∧ w < 6) ∧
    (∃ (s : State) (b : Blob) (i : Image) (r : _), s.boot.wait = .blob ∧ s.boot.image = some i ∧ s.blobReason b = some r) ∧
    (∃ (s : State) (b : Blob) (i : Image), s.boot.wait = .blob ∧ s.boot.image = some i ∧ s.blobReason b = none ∧ s.boot.ownerFused = true) ∧
    (∃ (s : State) (b : Blob) (i : Image) (x : _) (p : _), s.boot.wait = .blob ∧ s.boot.image = some i ∧ s.blobReason b = none ∧
      x ∈ b.sections ∧ x.type = 2 ∧ p ∈ pairs x.ws) ∧
    (∃ (s : State), s.regs.wf = true ∧ s.fatal = false ∧ s.stage = 5 ∧ (∀ p, p < 67 → s.portTried p = true)) :=
  ⟨⟨({btk with boot.wait := .directory} : State), (0x800000 : Nat), (({dir0 with crcOk:=false}) : Directory),
     (({dir0 with format:=2}) : Directory), by decide +kernel⟩,
   ⟨({btk with boot.wait := .directory} : State), (0x800000 : Nat), (({dir0 with prefer:=2}) : Directory),
     (({dir0 with prefer:=1}) : Directory), ({dir0 with prefer:=2}), by decide +kernel⟩,
   ⟨({{btk with boot.wait := (.slot false true)} with boot.svnMin := 1} : State), (true : Bool), ((img0 : Image) : Image),
     by decide +kernel, img0_ok hv _ rfl rfl (by decide +kernel) _⟩,
   ⟨({{btk with boot.wait := (.slot false true)} with boot.svnMin := 1} : State), (true : Bool),
     (({img0 with magicFormatOk:=false} : Image) : Image), (Rsn.header), by decide +kernel⟩,
   ⟨({{btk with boot.wait := (.slot true true)} with boot.svnMin := 1} : State), (true : Bool), ((img0 : Image) : Image), by decide +kernel,
     img0_ok hv _ rfl rfl (by decide +kernel) _⟩,
   ⟨({{btk with boot.wait := (.slot true true)} with boot.svnMin := 1} : State), (true : Bool),
     (({img0 with magicFormatOk:=false} : Image) : Image), (Rsn.header), by decide +kernel⟩,
   ⟨(btk : State), (false : Bool), (7 : Nat), by decide +kernel⟩,
   ⟨(btk : State), (true : Bool), (7 : Nat), by decide +kernel⟩,
   ⟨({btk with boot.svnMin := 1} : State), ((img0 : Image) : Image), ([3,4,5] : List Nat), img0_ok hv _ rfl rfl (by decide +kernel) _,
     by decide +kernel⟩,
   ⟨({btk with boot.svnMin := 1} : State), ((img0 : Image) : Image), ([3,4,5] : List Nat),
     ({code:=4,inSlot:=true,len:=64,listed:=0x77,computed:=0x77} : Component), img0_ok hv _ rfl rfl (by decide +kernel) _,
     by decide +kernel⟩,
   ⟨(btk : State), 0, by decide +kernel⟩,
   ⟨(({btk with boot.wait := .blob, boot.image := some img0}) : State), (({blob0 with magicFormatOk:=false} : Blob) : Blob), (img0 : Image),
     (Rsn.header), by decide +kernel⟩,
   ⟨(({btk with boot.wait := .blob, boot.image := some img0}) : State), ((blob0 : Blob) : Blob), (img0 : Image), by decide +kernel,
     by decide +kernel,
     blob_ok hv _ rfl _ (by decide +kernel) (by decide +kernel) rfl (by decide +kernel) (by decide +kernel) (by decide +kernel),
     by decide +kernel⟩,
   ⟨(({btk with boot.wait := .blob, boot.image := some img0}) : State),
     (({blob0 with count:=2,sections:=blob0.sections++[{type:=2,wellFormed:=true,ws:=[w64 (R.LNK_CTL 3),1]}]} : Blob) : Blob),
     (img0 : Image), ({type:=2,wellFormed:=true,ws:=[w64 (R.LNK_CTL 3),1]} : Section), ((w64 (R.LNK_CTL 3),1) : Word × Word),
     by decide +kernel, by decide +kernel,
     blob_ok hv _ rfl _ (by decide +kernel) (by decide +kernel) rfl (by decide +kernel) (by decide +kernel) (by decide +kernel),
     by decide +kernel⟩,
   ⟨(((List.range 67).foldl (fun s p => (s.wrF (R.LNK_STATE p) F.LNK_STATE_STATE 3)) (up.stageAt 5)) : State), by decide +kernel⟩⟩

/-- Concrete values meet the hypotheses of every clause of `Obligations.SmbusAndSpdmRequestsAreAnswered`. -/
theorem witness_SmbusAndSpdmRequestsAreAnswered :
    (∃ (s : State), s.boot.pwrGood = true) ∧
    (∃ (s : State) (n : _), s.boot.pwrGood = true ∧ s.stage ≠ 0 ∧ 1 ≤ n ∧ n ≤ 16) ∧
    (∃ (s : State) (page : _), s.boot.pwrGood = true ∧ s.stage ≠ 0 ∧ 2 ≤ page ∧ page ≤ 5) ∧
    (∃ (s : State) (ep : Endpoint), Spoken s ep 0 ∧ (s.conn ep).stage < 3) ∧
    (∃ (s : State) (ep : Endpoint), s.spdmHere ep = true ∧ s.pend 0x256 = true) ∧
    (∃ (s : State) (ep : Endpoint), s.spdmHere ep = false) ∧
    (∃ (s : State) (ep : Endpoint), Spoken s ep 1) ∧
    (∃ (s : State) (ep : Endpoint) (hd : _) (seq : _), Spoken s ep 2 ∧ (seq = 0 ∨ (s.conn ep).chunk = some (hd, seq))) ∧
    (∃ (s : State) (ep : Endpoint), Spoken s ep 3 ∧ s.boot.noSecret = true) ∧
    (∃ (s : State) (ep : Endpoint) (k : _), Spoken s ep 3 ∧ s.boot.noSecret = false ∧ 1 ≤ k ∧ k ≤ 8) ∧
    (∃ (s : State) (ep : Endpoint), Spoken s ep 3 ∧ s.stage = 15) ∧
    (∃ (s : State) (ep : Endpoint), Spoken s ep 3 ∧ s.stage ≠ 15 ∧ s.boot.noSecret = false ∧ 4 ≤ (s.conn ep).sessions.length) ∧
    (∃ (s : State) (ep : Endpoint) (x : _), Spoken s ep 3 ∧ s.stage ≠ 15 ∧ s.boot.noSecret = false ∧ (s.conn ep).sessions.length < 4 ∧
      (s.conn ep).session x = none) ∧
    (∃ (s : State) (ep : Endpoint) (x : _), Spoken s ep 3 ∧ s.stage ≠ 15 ∧ (s.conn ep).session x = some false) ∧
    (∃ (s : State) (ep : Endpoint) (x : _), Spoken s ep 3 ∧ s.stage ≠ 15 ∧ (s.conn ep).session x = some true ∧ ep = .mctp) ∧
    (∃ (s : State) (ep : Endpoint) (x : _) (h : _) (n : _), Spoken s ep 3 ∧ s.stage ≠ 15 ∧ (s.conn ep).session x = some true ∧
      epHost ep = some h ∧ n ≤ 8 ∧ s.regs.wf = true) :=
  ⟨⟨(up : State), by decide +kernel⟩,
   ⟨(up : State), 4, by decide +kernel⟩,
   ⟨(up : State), 2, by decide +kernel⟩,
   ⟨(({btk with hst.spdm := (List.range 3).map fun k => (k, {stage := 0, sessions := [], chunk := none}), hst.doe := [(0, {State.reset.doe 0 with busy := true}),(1, {State.reset.doe 0 with busy := true})]}) : State),
     (.doe0 : Endpoint), by decide +kernel⟩,
   ⟨((({btk with hst.spdm := (List.range 3).map fun k => (k, {stage := 0, sessions := [], chunk := none}), hst.doe := [(0, {State.reset.doe 0 with busy := true}),(1, {State.reset.doe 0 with busy := true})]}).setPend 0x256 true) : State),
     (.doe0 : Endpoint), by decide +kernel⟩,
   ⟨(btk : State), (.doe0 : Endpoint), by decide +kernel⟩,
   ⟨(({btk with hst.spdm := (List.range 3).map fun k => (k, {stage := 1, sessions := [], chunk := none}), hst.doe := [(0, {State.reset.doe 0 with busy := true}),(1, {State.reset.doe 0 with busy := true})]}) : State),
     (.doe0 : Endpoint), by decide +kernel⟩,
   ⟨(({btk with hst.spdm := (List.range 3).map fun k => (k, {stage := 2, sessions := [], chunk := none}), hst.doe := [(0, {State.reset.doe 0 with busy := true}),(1, {State.reset.doe 0 with busy := true})]}) : State),
     (.doe0 : Endpoint), 3, 0, by decide +kernel⟩,
   ⟨(({btk with hst.spdm := (List.range 3).map fun k => (k, {stage := 3, sessions := [], chunk := none}), hst.doe := [(0, {State.reset.doe 0 with busy := true}),(1, {State.reset.doe 0 with busy := true})], boot.noSecret:=true}) : State),
     (.doe0 : Endpoint), by decide +kernel⟩,
   ⟨(({btk with hst.spdm := (List.range 3).map fun k => (k, {stage := 3, sessions := [], chunk := none}), hst.doe := [(0, {State.reset.doe 0 with busy := true}),(1, {State.reset.doe 0 with busy := true})]}) : State),
     (.doe0 : Endpoint), 1, by decide +kernel⟩,
   ⟨((({btk with hst.spdm := (List.range 3).map fun k => (k, {stage := 3, sessions := [], chunk := none}), hst.doe := [(0, {State.reset.doe 0 with busy := true}),(1, {State.reset.doe 0 with busy := true})]}).stageAt 15) : State),
     (.doe0 : Endpoint), by decide +kernel⟩,
   ⟨(({btk with hst.spdm := (List.range 3).map fun k => (k, {stage := 3, sessions := [(1,true),(2,true),(3,true),(4,true)], chunk := none}), hst.doe := [(0, {State.reset.doe 0 with busy := true}),(1, {State.reset.doe 0 with busy := true})]}) : State),
     (.doe0 : Endpoint), by decide +kernel⟩,
   ⟨(({btk with hst.spdm := (List.range 3).map fun k => (k, {stage := 3, sessions := [], chunk := none}), hst.doe := [(0, {State.reset.doe 0 with busy := true}),(1, {State.reset.doe 0 with busy := true})]}) : State),
     (.doe0 : Endpoint), 5, by decide +kernel⟩,
   ⟨(({btk with hst.spdm := (List.range 3).map fun k => (k, {stage := 3, sessions := [(5,false)], chunk := none}), hst.doe := [(0, {State.reset.doe 0 with busy := true}),(1, {State.reset.doe 0 with busy := true})]}) : State),
     (.doe0 : Endpoint), 5, by decide +kernel⟩,
   ⟨(({btk with hst.spdm := (List.range 3).map fun k => (k, {stage := 3, sessions := [(4,false),(5,true)], chunk := none}), hst.doe := [(0, {State.reset.doe 0 with busy := true}),(1, {State.reset.doe 0 with busy := true})]}) : State),
     (.mctp : Endpoint), 5, by decide +kernel⟩,
   ⟨(({btk with hst.spdm := (List.range 3).map fun k => (k, {stage := 3, sessions := [(4,false),(5,true)], chunk := none}), hst.doe := [(0, {State.reset.doe 0 with busy := true}),(1, {State.reset.doe 0 with busy := true})]}) : State),
     (.doe0 : Endpoint), 5, 0, 7, by decide +kernel⟩⟩

/-- Concrete values meet the hypotheses of every clause of `Obligations.UpdatesAndLifeCycleGoForward` (at configurations as the hypothesis says: a signature check, a trim or a rail of `Config` has no body). -/
theorem witness_UpdatesAndLifeCycleGoForward (hv : ∀ k d g, Config.ecdsaVerify k d g = true) :
    (∃ (s : State) (c : AdminCmd), s.keyBusy = false ∧ Takes s c 0x80 [(2, ones 0 21), (4, ones 0 32), (5, 0), (6, 0), (7, 0)] ∧
      isPf c.fn = false ∧ s.xlt.missed = []) ∧
    (∃ (s : State) (c : AdminCmd), s.keyBusy = false ∧ Takes s c 0x80 [(2, ones 0 21), (4, ones 0 32), (5, 0), (6, 0), (7, 0)] ∧
      isPf c.fn = true ∧ s.activating (bitsOf c.e.w2 0 1) = false ∧ bitsOf c.e.w4 0 32 ≤ 24 * 2 ^ 20 ∧ s.xlt.missed = [] ∧
      (s.granted c.fn (bitsOf c.e.w2 1 20) = false ∨ bitsOf c.e.w3 48 16 ≠ 0)) ∧
    (∃ (s : State) (c : AdminCmd), s.keyBusy = false ∧ Takes s c 0x80 [(2, ones 0 21), (4, ones 0 32), (5, 0), (6, 0), (7, 0)] ∧
      isPf c.fn = true ∧ s.activating (bitsOf c.e.w2 0 1) = false ∧ 24 * 2 ^ 20 < bitsOf c.e.w4 0 32 ∧ s.xlt.missed = [] ∧ s.regs.wf = true) ∧
    (∃ (s : State) (c : AdminCmd) (i : _), s.keyBusy = false ∧ Takes s c 0x80 [(2, ones 0 21), (4, ones 0 32), (5, 0), (6, 0), (7, 0)] ∧
      isPf c.fn = true ∧ s.activating (bitsOf c.e.w2 0 1) = false ∧ bitsOf c.e.w4 0 32 ≤ 24 * 2 ^ 20 ∧
      CmdSees s c.fn (bitsOf c.e.w2 1 20) c.e.w3 (bitsOf c.e.w4 0 32) ∧ s.imageReason i [pairCode (bitsOf c.e.w2 0 1)] = none ∧
      imgCoded i (pairCode (bitsOf c.e.w2 0 1)) ≠ [] ∧ s.regs.wf = true) ∧
    (∃ (s : State) (c : AdminCmd) (i : _) (r : _), s.keyBusy = false ∧ Takes s c 0x80 [(2, ones 0 21), (4, ones 0 32), (5, 0), (6, 0), (7,
      0)] ∧ isPf c.fn = true ∧ s.activating (bitsOf c.e.w2 0 1) = false ∧ bitsOf c.e.w4 0 32 ≤ 24 * 2 ^ 20 ∧
      CmdSees s c.fn (bitsOf c.e.w2 1 20) c.e.w3 (bitsOf c.e.w4 0 32) ∧ s.imageReason i [pairCode (bitsOf c.e.w2 0 1)] = some r) ∧
    (∃ (s : State) (c : AdminCmd), s.keyBusy = false ∧ Takes s c 0x80 [(2, ones 0 21), (4, ones 0 32), (5, 0), (6, 0), (7, 0)] ∧
      isPf c.fn = true ∧ s.activating (bitsOf c.e.w2 0 1) = true ∧ s.xlt.missed = [] ∧ s.regs.wf = true) ∧
    (∃ (s : State) (c : AdminCmd) (e : _), s.keyBusy = false ∧ isPf c.fn = true ∧ s.regs.wf = true ∧ Takes s c 0x81 [(2, 1), (3, 0), (4, 0),
      (5, 0), (6, 0), (7, 0)] ∧ s.activateBar (bitsOf c.e.w2 0 1) = some e) ∧
    (∃ (s : State) (c : AdminCmd), s.keyBusy = false ∧ isPf c.fn = true ∧ s.regs.wf = true ∧ Takes s c 0x81 [(2, 1), (3, 0), (4, 0), (5, 0),
      (6, 0), (7, 0)] ∧ s.activateBar (bitsOf c.e.w2 0 1) = none) ∧
    (∃ (s : State) (k : Nat) (i : Image) (r : CmdRef), s.regs.wf = true ∧ s.fwRuns = true ∧ k < 2 ∧ (s.update k).running = some r ∧
      (s.update k).staged = some i ∧ s.rdF (R.BOOT_FW k) F.BOOT_FW_UPD = 3 ∧ (s.update k).lost = false) ∧
    (∃ (s : State) (k : Nat), s.regs.wf = true ∧ s.fwRuns = true ∧ k < 2 ∧ s.rdF (R.BOOT_FW k) F.BOOT_FW_UPD = 4) ∧
    (∃ (s : State) (c : AdminCmd), s.keyBusy = false ∧ isPf c.fn = true ∧ Takes s c 0x82 [(2, ones 0 23), (4, 0), (5, 0), (6, 0), (7, 0)] ∧
      s.xlt.missed = [] ∧ (lcStep s.boot.lc (bitsOf c.e.w2 0 3) = none ∨ (s.boot.lcNext ≠ s.boot.lc ∨ (s.boot.lc = 1 ∧
      ((bitsOf c.e.w2 0 3) = 2 ∧ s.boot.idCert = false))))) ∧
    (∃ (s : State) (c : AdminCmd) (tok : FetchedToken) (need : _), s.keyBusy = false ∧ isPf c.fn = true ∧ Takes s c 0x82 [(2, ones 0 23),
      (4, 0), (5, 0), (6, 0), (7, 0)] ∧ lcStep s.boot.lc (bitsOf c.e.w2 0 3) = some need ∧ s.boot.lcNext = s.boot.lc ∧
      s.boot.idCert = true ∧ s.xlt.missed = [] ∧ (need = true → CmdSees s c.fn (bitsOf c.e.w2 3 20) c.e.w3 160) ∧ (need = false ∨ ((∃ x,
      tok = .token x ∧ s.lcToken (bitsOf c.e.w2 0 3) x = true)))) ∧
    (∃ (s : State) (c : AdminCmd) (tok : FetchedToken) (need : _) (x : _), s.keyBusy = false ∧ isPf c.fn = true ∧ Takes s c 0x82 [(2,
      ones 0 23), (4, 0), (5, 0), (6, 0), (7, 0)] ∧ lcStep s.boot.lc (bitsOf c.e.w2 0 3) = some need ∧ s.boot.lcNext = s.boot.lc ∧
      s.boot.idCert = true ∧ s.xlt.missed = [] ∧ (need = true → CmdSees s c.fn (bitsOf c.e.w2 3 20) c.e.w3 160) ∧ need = true ∧
      tok = .token x ∧ s.lcToken (bitsOf c.e.w2 0 3) x = false) ∧
    (∃ (s : State) (c : AdminCmd) (tok : FetchedToken) (need : _) (st : _), s.keyBusy = false ∧ isPf c.fn = true ∧ Takes s c 0x82 [(2,
      ones 0 23), (4, 0), (5, 0), (6, 0), (7, 0)] ∧ lcStep s.boot.lc (bitsOf c.e.w2 0 3) = some need ∧ s.boot.lcNext = s.boot.lc ∧
      s.boot.idCert = true ∧ s.xlt.missed = [] ∧ (need = true → CmdSees s c.fn (bitsOf c.e.w2 3 20) c.e.w3 160) ∧ need = true ∧
      tok = .failed st) ∧
    (∃ (a : _) (d : _) (need : _), lcStep a d = some need ∧ need = false) ∧
    (∃ (s : State) (c : AdminCmd), s.keyBusy = false ∧ isPf c.fn = true ∧ Takes s c 0x83 [(2, ones 0 20), (4, 0), (5, 0), (6, 0), (7, 0)] ∧
      s.xlt.missed = [] ∧ (s.boot.lc ≠ 2 ∨ s.boot.ownerFused = true)) ∧
    (∃ (s : State) (c : AdminCmd), s.keyBusy = false ∧ isPf c.fn = true ∧ Takes s c 0x83 [(2, ones 0 20), (4, 0), (5, 0), (6, 0), (7, 0)] ∧
      s.boot.lc = 2 ∧ s.boot.ownerFused = false ∧ CmdSees s c.fn (bitsOf c.e.w2 0 20) c.e.w3 96) :=
  ⟨⟨(({ ((btk.setFn 5 { fnInit with bme := true, asqProd := 1 }).wrF (R.TEN_ADMIN_SQ 5) ⟨0,64⟩ 1 |>.wrF (R.TEN_ADMIN_CQ 5) ⟨0,64⟩ 1 : State) with xlt := upq.xlt } : State) : State),
     ({(cmd 0x80 77 (0+w64 (9*2^1)) 0x10000 0 0 0 0) with fn:=5} : AdminCmd), by decide +kernel⟩,
   ⟨(btk : State), ((cmd 0x80 77 (0+w64 (9*2^1)) 0x10000 0 0 0 0) : AdminCmd), by decide +kernel⟩,
   ⟨(({ (btk : State) with xlt := upq.xlt } : State) : State), ((cmd 0x80 77 (0+w64 (9*2^1)) 0x10000 (24*2^20+1) 0 0 0) : AdminCmd),
     by decide +kernel⟩,
   ⟨(({ (btk : State) with xlt := upq.xlt } : State) : State), ((cmd 0x80 77 (0+w64 (9*2^1)) 0x10000 0 0 0 0) : AdminCmd), (img0 : Image),
     by decide +kernel, by decide +kernel, by decide +kernel, by decide +kernel, by decide +kernel, by decide +kernel,
     img0_ok hv _ rfl rfl (by decide +kernel) _, by decide +kernel⟩,
   ⟨(({ (btk : State) with xlt := upq.xlt } : State) : State), ((cmd 0x80 77 (0+w64 (9*2^1)) 0x10000 0 0 0 0) : AdminCmd),
     ({img0 with magicFormatOk:=false} : Image), Rsn.header, by decide +kernel⟩,
   ⟨(({ ((btk.wrF (R.BOOT_FW 0) F.BOOT_FW_UPD 3) : State) with xlt := upq.xlt } : State) : State),
     ((cmd 0x80 77 (0+w64 (9*2^1)) 0x10000 0 0 0 0) : AdminCmd), by decide +kernel⟩,
   ⟨(btk : State), ((cmd 0x81 77 0 0 0 0 0 0) : AdminCmd), (Rsn.notStaged), by decide +kernel⟩,
   ⟨(((({btk with boot.updates:=[(0,{staged:=some img0,running:=none,lost:=false}),(1,{staged:=some img0,running:=none,lost:=false})]}.wrF (R.BOOT_FW 0) F.BOOT_FW_STANDBY 2).wrF (R.BOOT_FW 1) F.BOOT_FW_STANDBY 2)) : State),
     ((cmd 0x81 77 0 0 0 0 0 0) : AdminCmd), by decide +kernel⟩,
   ⟨((((({btk with boot.updates:=[(0,{staged:=some img0,running:=some {fn:=0,cookie:=3,index:=1},lost:=false}),(1,{staged:=some img0,running:=some {fn:=0,cookie:=3,index:=1},lost:=false})]}.wrF (R.BOOT_FW 0) F.BOOT_FW_STANDBY 2).wrF (R.BOOT_FW 1) F.BOOT_FW_STANDBY 2)).wrF (R.BOOT_FW 0) F.BOOT_FW_UPD 3) : State),
     (0 : Nat), (img0 : Image), ({fn:=0,cookie:=3,index:=1} : CmdRef), by decide +kernel⟩,
   ⟨((btk.wrF (R.BOOT_FW 0) F.BOOT_FW_UPD 4) : State), (0 : Nat), by decide +kernel⟩,
   ⟨(({ ({btk with boot.lc:=1,boot.lcNext:=1} : State) with xlt := upq.xlt } : State) : State),
     ((cmd 0x82 77 (3+w64 (9*2^3)) 0x10000 0 0 0 0) : AdminCmd), by decide +kernel⟩,
   ⟨(({ ({btk with boot.lc:=2,boot.lcNext:=2} : State) with xlt := upq.xlt } : State) : State),
     ((cmd 0x82 77 (3+w64 (9*2^3)) 0x10000 0 0 0 0) : AdminCmd),
     (.token ({body:=⟨w64 3,(({ ({btk with boot.lc:=2,boot.lcNext:=2} : State) with xlt := upq.xlt } : State)).devId,0,0,0,0,0,0⟩,sig:=1} : Token) : FetchedToken),
     false, by decide +kernel, by decide +kernel, by decide +kernel, by decide +kernel, by decide +kernel, by decide +kernel,
     by decide +kernel, by decide +kernel, .inl rfl⟩,
   ⟨(({ ({btk with boot.lc:=1,boot.lcNext:=1} : State) with xlt := upq.xlt } : State) : State),
     ((cmd 0x82 77 (2+w64 (9*2^3)) 0x10000 0 0 0 0) : AdminCmd), (.token ({body:=⟨w64 2,0xFFF,0,0,0,0,0,0⟩,sig:=1} : Token) : FetchedToken),
     true, ({body:=⟨w64 2,0xFFF,0,0,0,0,0,0⟩,sig:=1} : Token), by decide +kernel⟩,
   ⟨(({ ({btk with boot.lc:=1,boot.lcNext:=1} : State) with xlt := upq.xlt } : State) : State),
     ((cmd 0x82 77 (2+w64 (9*2^3)) 0x10000 0 0 0 0) : AdminCmd), ((.failed 9) : FetchedToken), true, 9, by decide +kernel⟩,
   ⟨2, 3, false, by decide +kernel⟩,
   ⟨(({ ({btk with boot.lc:=2,boot.lcNext:=2} : State) with xlt := upq.xlt } : State) : State),
     ((cmd 0x83 77 (0+w64 (9*2^0)) 0x10000 0 0 0 0) : AdminCmd), by decide +kernel⟩,
   ⟨(({ ({btk with boot.lc:=2,boot.ownerFused:=false} : State) with xlt := upq.xlt } : State) : State),
     ((cmd 0x83 77 (0+w64 (9*2^0)) 0x10000 0 0 0 0) : AdminCmd), by decide +kernel⟩⟩

/-- Concrete values meet the hypotheses of every clause of `Obligations.DomainsSwitchAndDrain`. -/
theorem witness_DomainsSwitchAndDrain :
    (∃ (s : State) (rid : Nat) (d : Nat) (c : _), d < 93 ∧ ridFull rid = true ∧ s.barOpen rid = true ∧ s.regCause (R.PWR_DOM_CTL d) = none ∧
      s.offCause d = some c) ∧
    (∃ (s : State) (rid : Nat) (d : Nat), d < 93 ∧ ridFull rid = true ∧ s.barOpen rid = true ∧ s.regCause (R.PWR_DOM_CTL d) = none ∧
      s.isolated d = true) ∧
    (∃ (s : State) (rid : Nat) (d : Nat), d < 93 ∧ ridFull rid = true ∧ s.barOpen rid = true ∧ s.regCause (R.PWR_DOM_CTL d) = none ∧
      switchable d = false) ∧
    (∃ (s : State) (rid : Nat) (d : Nat), d < 93 ∧ ridFull rid = true ∧ s.barOpen rid = true ∧ s.regCause (R.PWR_DOM_CTL d) = none ∧
      s.regs.wf = true ∧ s.isolated d = false ∧ 4 ≤ s.stage ∧ s.stage ≤ 6 ∧ s.domState d = 0 ∧
      s.rdF (R.PWR_DOM_CTL d) F.PWR_DOM_CTL_ENABLE = 0) ∧
    (∃ (s : State) (rid : Nat) (d : Nat), d < 93 ∧ ridFull rid = true ∧ s.barOpen rid = true ∧ s.regCause (R.PWR_DOM_CTL d) = none ∧
      s.regs.wf = true ∧ s.offCause d = none ∧ s.domState d = 2 ∧ s.rdF (R.PWR_DOM_CTL d) F.PWR_DOM_CTL_ENABLE = 1 ∧ 69 ≤ d ∧ d ≠ 77 ∧
      d ≠ 78) ∧
    (∃ (s : State) (rid : Nat) (d : Nat) (val : Word), d < 93 ∧ ridFull rid = true ∧ s.barOpen rid = true ∧
      s.regCause (R.PWR_DOM_CTL d) = none ∧ s.offCause d = none ∧ s.domState d = 2 ∧ s.regs.wf = true ∧
      s.rdF (R.PWR_DOM_CTL d) F.PWR_DOM_CTL_ENABLE = 1 ∧ d < 69 ∧ getF val F.PWR_DOM_CTL_WAKE = 0) ∧
    (∃ (s : State) (d : Nat) (t0 : Nat), (d ≤ 80 ∨ d = 85) ∧ s.regs.wf = true ∧ s.fatal = false ∧ s.domState d = 3 ∧
      (s.dom d).drainAt = some t0 ∧ s.domDrained d = false) ∧
    (∃ (s : State) (d : Nat) (t0 : Nat), (d ≤ 80 ∨ d = 85) ∧ s.regs.wf = true ∧ s.fatal = false ∧ s.domState d = 3 ∧
      (s.dom d).drainAt = some t0 ∧ s.domDrained d = true) ∧
    (∃ (s : State) (d : Nat) (t0 : Nat), (d ≤ 80 ∨ d = 85) ∧ s.regs.wf = true ∧ s.fatal = false ∧ s.domState d = 3 ∧
      (s.dom d).drainAt = some t0 ∧ d ≠ 79 ∧ d ≠ 80 ∧ d ≠ 85) ∧
    (∃ (s : State) (d : Nat) (t0 : Nat), (d ≤ 80 ∨ d = 85) ∧ s.regs.wf = true ∧ s.fatal = false ∧ s.domState d = 3 ∧
      (s.dom d).drainAt = some t0 ∧ (d = 79 ∨ (d = 80 ∨ d = 85))) ∧
    (∃ (s : State) (d : Nat), s.regs.wf = true ∧ (d ≤ 80 ∨ d = 85) ∧ s.domState d = 3) ∧
    (∃ (s : State) (d : Nat), s.regs.wf = true ∧ d < 93 ∧ s.fatal = false ∧ s.hbmThere d = true ∧ s.domState d = 5) ∧
    (∃ (s : State) (d : Nat), s.regs.wf = true ∧ d < 93 ∧ s.fatal = false ∧ s.hbmThere d = true ∧ (s.domState d = 1 ∨ s.domState d = 5)) ∧
    (∃ (s : State) (d : Nat), s.regs.wf = true ∧ d < 93 ∧ s.fatal = false ∧ s.hbmThere d = true ∧ s.domState d ≠ 1 ∧ s.domState d ≠ 5) ∧
    (∃ (s : State) (d : Nat), s.regs.wf = true ∧ d < 93 ∧ s.fatal = false ∧ s.hbmThere d = true ∧ s.domState d = 1 ∧ 69 ≤ d ∧ d ≠ 77 ∧
      d ≠ 78 ∧ s.rdF (R.PWR_DOM_CTL d) F.PWR_DOM_CTL_ENABLE = 0 ∧ s.offCause d = none) ∧
    (∃ (s : State) (d : Nat), s.regs.wf = true ∧ d < 93 ∧ s.fatal = false ∧ s.hbmThere d = true ∧ s.domState d = 1 ∧ 69 ≤ d ∧
      s.rdF (R.PWR_DOM_CTL d) F.PWR_DOM_CTL_ENABLE = 1) :=
  ⟨⟨(up : State), (0x1000 : Nat), (92 : Nat), 1, by decide +kernel⟩,
   ⟨(((up.wrF (R.PWR_DOM_CTL 73) F.PWR_DOM_CTL_ENABLE 0).setPend 0x214 true) : State), (0x1000 : Nat), (73 : Nat), by decide +kernel⟩,
   ⟨(up : State), (0x1000 : Nat), (92 : Nat), by decide +kernel⟩,
   ⟨(((((up).wrF (R.PWR_DOM_STAT 0) F.PWR_DOM_STAT_STATE 0)).wrF (R.PWR_DOM_CTL 0) F.PWR_DOM_CTL_ENABLE 0) : State), (0x1000 : Nat),
     (0 : Nat), by decide +kernel⟩,
   ⟨(up : State), (0x1000 : Nat), (69 : Nat), by decide +kernel⟩,
   ⟨(up : State), (0x1000 : Nat), (0 : Nat), (0 : Word), by decide +kernel⟩,
   ⟨((((((up.setFn 0 { up.fn 0 with drain := some { start := 0, cause := 0 } })).wrF (R.PWR_DOM_STAT 64) F.PWR_DOM_STAT_STATE 3)).updDom 64 fun v => { v with drainAt := some 0, by_ := 0x800 }) : State),
     (64 : Nat), (0 : Nat), by decide +kernel⟩,
   ⟨((({((up).wrF (R.PWR_DOM_STAT 0) F.PWR_DOM_STAT_STATE 3) with now := 70000000000}).updDom 0 fun v => { v with drainAt := some 0, by_ := 0x800 }) : State),
     (0 : Nat), (0 : Nat), by decide +kernel⟩,
   ⟨((({((up).wrF (R.PWR_DOM_STAT 0) F.PWR_DOM_STAT_STATE 3) with now := 70000000000}).updDom 0 fun v => { v with drainAt := some 0, by_ := 0x800 }) : State),
     (0 : Nat), (0 : Nat), by decide +kernel⟩,
   ⟨((({((up).wrF (R.PWR_DOM_STAT 79) F.PWR_DOM_STAT_STATE 3) with now := 70000000000}).updDom 79 fun v => { v with drainAt := some 0, by_ := 0x800 }) : State),
     (79 : Nat), (0 : Nat), by decide +kernel⟩,
   ⟨(((up).wrF (R.PWR_DOM_STAT 0) F.PWR_DOM_STAT_STATE 3) : State), (0 : Nat), by decide +kernel⟩,
   ⟨(((up).wrF (R.PWR_DOM_STAT 0) F.PWR_DOM_STAT_STATE 5) : State), (0 : Nat), by decide +kernel⟩,
   ⟨(((up).wrF (R.PWR_DOM_STAT 0) F.PWR_DOM_STAT_STATE 1) : State), (0 : Nat), by decide +kernel⟩,
   ⟨(up : State), (0 : Nat), by decide +kernel⟩,
   ⟨(((((up).wrF (R.PWR_DOM_STAT 69) F.PWR_DOM_STAT_STATE 1)).wrF (R.PWR_DOM_CTL 69) F.PWR_DOM_CTL_ENABLE 0) : State), (69 : Nat),
     by decide +kernel⟩,
   ⟨(((up).wrF (R.PWR_DOM_STAT 69) F.PWR_DOM_STAT_STATE 1) : State), (69 : Nat), by decide +kernel⟩⟩

/-- Concrete values meet the hypotheses of every clause of `Obligations.EnginesAndPortsSleepAndThrottle`. -/
theorem witness_EnginesAndPortsSleepAndThrottle :
    (∃ (s : State) (d : Nat), s.regs.wf = true ∧ engineDom d = true ∧ s.fatal = false ∧ s.domState d = 2 ∧
      s.rdF (R.PWR_DOM_CTL d) F.PWR_DOM_CTL_ENABLE = 1 ∧ s.rdF (R.PWR_DOM_CTL d) F.PWR_DOM_CTL_SLEEP_EN = 1 ∧ s.domIdle d = true) ∧
    (∃ (s : State) (d : Nat), s.regs.wf = true ∧ engineDom d = true ∧ s.fatal = false ∧ s.domState d = 2 ∧
      s.rdF (R.PWR_DOM_CTL d) F.PWR_DOM_CTL_ENABLE = 1 ∧ (s.rdF (R.PWR_DOM_CTL d) F.PWR_DOM_CTL_SLEEP_EN = 0 ∨ s.domIdle d = false)) ∧
    (∃ (s : State) (d : Nat), s.fatal = false ∧ s.domState d = 4 ∧ (s.dom d).entry = true) ∧
    (∃ (s : State) (d : Nat), s.fatal = false ∧ s.domState d = 4 ∧ (s.dom d).entry = false) ∧
    (∃ (s : State) (rid : Nat) (d : Nat) (val : Word), s.regs.wf = true ∧ engineDom d = true ∧ ridFull rid = true ∧ s.barOpen rid = true ∧
      s.regCause (R.PWR_DOM_CTL d) = none ∧ s.domState d = 4 ∧ s.rdF (R.PWR_DOM_CTL d) F.PWR_DOM_CTL_ENABLE = 1 ∧
      getF val F.PWR_DOM_CTL_ENABLE = 1) ∧
    (∃ (s : State) (rid : Nat) (d : Nat) (val : Word), s.regs.wf = true ∧ engineDom d = true ∧ ridFull rid = true ∧ s.barOpen rid = true ∧
      s.regCause (R.PWR_DOM_CTL d) = none ∧ s.domState d = 2 ∧ s.rdF (R.PWR_DOM_CTL d) F.PWR_DOM_CTL_ENABLE = 1 ∧
      getF val F.PWR_DOM_CTL_ENABLE = 1 ∧ getF val F.PWR_DOM_CTL_WAKE = 0) ∧
    (∃ (d : Nat), engineDom d = false) ∧
    (∃ (s : State) (d : Nat), engineDom d = true ∧ s.pwr.guard = true) ∧
    (∃ (s : State) (d : Nat) (r : _), engineDom d = true ∧ r < 256 ∧ s.rdF (R.FTH_RULE_A r) F.FTH_RULE_A_ACTIVE = 1 ∧
      s.rdF (R.FTH_RULE_A r) F.FTH_RULE_A_ACTION = 1 ∧ (s.rule r).arg.toNat % 128 = d) ∧
    (∃ (s : State) (p : Nat), s.regs.wf = true ∧ p < 64 ∧ s.fatal = false ∧ bitAt (s.rd R.PWR_PORT_SLEEP) p = true ∧
      bitAt (s.rd R.PWR_PORT_NOSLEEP) p = false ∧ s.portUp p = true ∧ s.portInGroup p = false) ∧
    (∃ (s : State) (p : Nat), s.regs.wf = true ∧ p < 64 ∧ s.fatal = false ∧
      (bitAt (s.rd R.PWR_PORT_SLEEP) p = false ∨ (bitAt (s.rd R.PWR_PORT_NOSLEEP) p = true ∨ (s.portUp p = false ∨ s.portInGroup p = true)))) :=
  ⟨⟨((up.wrF (R.PWR_DOM_CTL 69) F.PWR_DOM_CTL_SLEEP_EN 1) : State), (69 : Nat), by decide +kernel⟩,
   ⟨(up : State), (69 : Nat), by decide +kernel⟩,
   ⟨((((up).wrF (R.PWR_DOM_STAT 85) F.PWR_DOM_STAT_STATE 4).updDom 85 fun v => { v with entry := true }) : State), (85 : Nat),
     by decide +kernel⟩,
   ⟨(((up).wrF (R.PWR_DOM_STAT 69) F.PWR_DOM_STAT_STATE 4) : State), (69 : Nat), by decide +kernel⟩,
   ⟨(((up).wrF (R.PWR_DOM_STAT 69) F.PWR_DOM_STAT_STATE 4) : State), (0x1000 : Nat), (69 : Nat), (0x705 : Word), by decide +kernel⟩,
   ⟨(up : State), (0x1000 : Nat), (69 : Nat), (0x303 : Word), by decide +kernel⟩,
   ⟨(91 : Nat), by decide +kernel⟩,
   ⟨({up with pwr.guard := true} : State), (69 : Nat), by decide +kernel⟩,
   ⟨(((({up with pwr.rules := [(7,{ruleInit with arg := 0x545})]}).wrF (R.FTH_RULE_A 7) F.FTH_RULE_A_ACTIVE 1).wrF (R.FTH_RULE_A 7) F.FTH_RULE_A_ACTION 1) : State),
     (69 : Nat), 7, by decide +kernel⟩,
   ⟨(((up.wrF R.PWR_PORT_SLEEP ⟨0,64⟩ (2^64-1)).wrF (R.LNK_STATE 0) F.LNK_STATE_STATE 3) : State), (0 : Nat), by decide +kernel⟩,
   ⟨(up : State), (0 : Nat), by decide +kernel⟩⟩

/-- Concrete values meet the hypotheses of every clause of `Obligations.FathomSamplesRulesAndGuards` (at configurations as the hypothesis says: a signature check, a trim or a rail of `Config` has no body). -/
theorem witness_FathomSamplesRulesAndGuards (hf : ∀ x, Config.fusedVcore x = 7) :
    (∃ (s : State) (c : Nat), (s.boot.ao = false ∨ (128 ≤ c ∨ s.rdF (R.FTH_CHAN c) F.FTH_CHAN_ENABLE = 0))) ∧
    (∃ (s : State) (c : Nat), s.regs.wf = true ∧ s.boot.ao = true ∧ s.boot.holding = false ∧ c < 128 ∧
      s.rdF (R.FTH_CHAN c) F.FTH_CHAN_ENABLE = 1 ∧ s.flt.slice = none ∧ (∀ r, r < 256 → s.rdF (R.FTH_RULE_A r) F.FTH_RULE_A_ENABLE = 0)) ∧
    (∃ (c : Nat), c < 96) ∧
    (∃ (s : State) (c : Nat) (i : _), 96 ≤ c ∧ c < 112 ∧ ((∃ i, i < 16 ∧ s.laneActive (16 * (c - 96) + i) = true)) ∧ i < 16 ∧
      s.laneActive (16 * (c - 96) + i) = true) ∧
    (∃ (c : Nat) (p : _), 112 ≤ c ∧ p ∈ actPorts c) ∧
    (∃ (s : State) (c : Nat) (r : Nat), getF (s.rd (R.FTH_RULE_A r)) F.FTH_RULE_A_ENABLE = 1 ∧
      getF (s.rd (R.FTH_RULE_A r)) F.FTH_RULE_A_CHANNEL = c ∧ getF (s.rd (R.FTH_RULE_A r)) F.FTH_RULE_A_ACTION < 9 ∧
      getF (s.rd (R.FTH_RULE_A r)) F.FTH_RULE_A_ACTIVE = 0 ∧ getF (s.rd (R.FTH_RULE_A r)) F.FTH_RULE_A_BELOW = 0) ∧
    (∃ (s : State) (c : Nat) (r : Nat), getF (s.rd (R.FTH_RULE_A r)) F.FTH_RULE_A_ENABLE = 1 ∧
      getF (s.rd (R.FTH_RULE_A r)) F.FTH_RULE_A_CHANNEL = c ∧ getF (s.rd (R.FTH_RULE_A r)) F.FTH_RULE_A_ACTION < 9 ∧
      getF (s.rd (R.FTH_RULE_A r)) F.FTH_RULE_A_ACTIVE = 0 ∧ getF (s.rd (R.FTH_RULE_A r)) F.FTH_RULE_A_BELOW = 1) ∧
    (∃ (s : State) (c : Nat) (r : Nat), getF (s.rd (R.FTH_RULE_A r)) F.FTH_RULE_A_ENABLE = 1 ∧
      getF (s.rd (R.FTH_RULE_A r)) F.FTH_RULE_A_CHANNEL = c ∧ getF (s.rd (R.FTH_RULE_A r)) F.FTH_RULE_A_ACTION < 9 ∧
      getF (s.rd (R.FTH_RULE_A r)) F.FTH_RULE_A_ACTIVE = 1 ∧ getF (s.rd (R.FTH_RULE_A r)) F.FTH_RULE_A_BELOW = 0) ∧
    (∃ (s : State) (c : Nat) (r : Nat), getF (s.rd (R.FTH_RULE_A r)) F.FTH_RULE_A_ENABLE = 1 ∧
      getF (s.rd (R.FTH_RULE_A r)) F.FTH_RULE_A_CHANNEL = c ∧ getF (s.rd (R.FTH_RULE_A r)) F.FTH_RULE_A_ACTION < 9 ∧
      getF (s.rd (R.FTH_RULE_A r)) F.FTH_RULE_A_ACTIVE = 1 ∧ getF (s.rd (R.FTH_RULE_A r)) F.FTH_RULE_A_BELOW = 1) ∧
    (∃ (s : State) (r : Nat) (d : Nat), s.regs.wf = true ∧ r < 256 ∧ s.rdF (R.FTH_RULE_A r) F.FTH_RULE_A_ACTION = 1 ∧ engineDom d = true ∧
      (s.rd (R.FTH_RULE_B r)).toNat % 128 = d) ∧
    (∃ (s : State) (rid : Nat) (r : Nat), s.regs.wf = true ∧ r < 256 ∧ ridFull rid = true ∧ s.barOpen rid = true ∧
      s.regCause (R.FTH_RULE_A r) = none ∧
      (s.rdF (R.FTH_RULE_A r) F.FTH_RULE_A_ACTIVE = 0 ∨ s.rdF (R.FTH_RULE_A r) F.FTH_RULE_A_REVERT = 0)) ∧
    (∃ (s : State) (c : Nat) (raw : Nat) (d : _), s.regs.wf = true ∧ c < 64 ∧ s.pwr.guard = false ∧ 13440 ≤ raw ∧ engineDom d = true) ∧
    (∃ (s : State) (c : Nat) (raw : Nat), s.regs.wf = true ∧ c < 64 ∧ s.pwr.guard = false ∧ raw < 13440) ∧
    (∃ (s : State) (c : Nat), s.regs.wf = true ∧ c < 64 ∧ s.pwr.guard = true ∧ ((∃ i, i < 64 ∧
      13120 ≤ s.rdF (R.FTH_CHAN i) F.FTH_CHAN_RAW))) ∧
    (∃ (s : State) (c : Nat), s.regs.wf = true ∧ c < 64 ∧ s.pwr.guard = true ∧ (∀ i, i < 64 → s.rdF (R.FTH_CHAN i) F.FTH_CHAN_RAW < 13120)) ∧
    (∃ (s : State), s.regs.wf = true ∧ s.boot.pwrGood = true ∧ s.pwr.trip = false) ∧
    (∃ (s : State), (s.pwr.vselEn = false ∨ (Nat.min 10 (Config.fusedVcore s.dieTemp)) = s.pwr.vcore)) ∧
    (∃ (s : State), s.pwr.vselEn = true ∧ (Nat.min 10 (Config.fusedVcore s.dieTemp)) ≠ s.pwr.vcore ∧ s.pwr.vcore ≤ 10) :=
  ⟨⟨({up with boot.ao:=false} : State), (3 : Nat), by decide +kernel⟩,
   ⟨((up |>.wrF (R.FTH_CHAN 0) F.FTH_CHAN_ENABLE 1) : State), (0 : Nat), by decide +kernel⟩,
   ⟨(0 : Nat), by decide +kernel⟩,
   ⟨(upr : State), (96 : Nat), 4, by decide +kernel⟩,
   ⟨(112 : Nat), 1, by decide +kernel⟩,
   ⟨(((up).wr (R.FTH_RULE_A 9) (putF (putF (putF (putF (putF (putF (putF (0) F.FTH_RULE_A_ENABLE 1) F.FTH_RULE_A_CHANNEL 5) F.FTH_RULE_A_ACTION 1) F.FTH_RULE_A_THRESHOLD 100) F.FTH_RULE_A_HYST 0) F.FTH_RULE_A_ACTIVE 0) F.FTH_RULE_A_BELOW 0)) : State),
     (5 : Nat), (9 : Nat), by decide +kernel⟩,
   ⟨(((up).wr (R.FTH_RULE_A 9) (putF (putF (putF (putF (putF (putF (putF (0) F.FTH_RULE_A_ENABLE 1) F.FTH_RULE_A_CHANNEL 5) F.FTH_RULE_A_ACTION 1) F.FTH_RULE_A_THRESHOLD 100) F.FTH_RULE_A_HYST 0) F.FTH_RULE_A_ACTIVE 0) F.FTH_RULE_A_BELOW 1)) : State),
     (5 : Nat), (9 : Nat), by decide +kernel⟩,
   ⟨(((up).wr (R.FTH_RULE_A 9) (putF (putF (putF (putF (putF (putF (putF (0) F.FTH_RULE_A_ENABLE 1) F.FTH_RULE_A_CHANNEL 5) F.FTH_RULE_A_ACTION 1) F.FTH_RULE_A_THRESHOLD 100) F.FTH_RULE_A_HYST 0) F.FTH_RULE_A_ACTIVE 1) F.FTH_RULE_A_BELOW 0)) : State),
     (5 : Nat), (9 : Nat), by decide +kernel⟩,
   ⟨(((up).wr (R.FTH_RULE_A 9) (putF (putF (putF (putF (putF (putF (putF (0) F.FTH_RULE_A_ENABLE 1) F.FTH_RULE_A_CHANNEL 5) F.FTH_RULE_A_ACTION 1) F.FTH_RULE_A_THRESHOLD 100) F.FTH_RULE_A_HYST 0) F.FTH_RULE_A_ACTIVE 1) F.FTH_RULE_A_BELOW 1)) : State),
     (5 : Nat), (9 : Nat), by decide +kernel⟩,
   ⟨((((up.wr (R.FTH_RULE_B 7) 0x545)).wr (R.FTH_RULE_A 7) (putF (putF (0) F.FTH_RULE_A_ENABLE 1) F.FTH_RULE_A_ACTION 1)) : State),
     (7 : Nat), (69 : Nat), by decide +kernel⟩,
   ⟨(((up).wr (R.FTH_RULE_A 7) (putF (putF (putF (0) F.FTH_RULE_A_ENABLE 1) F.FTH_RULE_A_ACTION 1) F.FTH_RULE_A_ACTIVE 1)) : State),
     (0x1000 : Nat), (0 : Nat), by decide +kernel⟩,
   ⟨(up : State), (0 : Nat), (13440 : Nat), 69, by decide +kernel⟩,
   ⟨(up : State), (0 : Nat), (13439 : Nat), by decide +kernel⟩,
   ⟨(((List.range 64).foldl (fun s i => s.wrF (R.FTH_CHAN i) F.FTH_CHAN_RAW 13120) {up with pwr.guard := true}) : State), (0 : Nat),
     by decide +kernel⟩,
   ⟨(((List.range 64).foldl (fun s i => s.wrF (R.FTH_CHAN i) F.FTH_CHAN_RAW 13119) {up with pwr.guard := true}) : State), (0 : Nat),
     by decide +kernel⟩,
   ⟨(up : State), by decide +kernel⟩,
   ⟨({(up |>.wrF (R.FTH_CHAN 0) F.FTH_CHAN_FILTERED 0 |>.wrF (R.FTH_CHAN 0) F.FTH_CHAN_ENABLE 1) with pwr.vcore:=0,pwr.vselEn:=false} : State),
     by decide +kernel⟩,
   ⟨({(up |>.wrF (R.FTH_CHAN 0) F.FTH_CHAN_FILTERED 0 |>.wrF (R.FTH_CHAN 0) F.FTH_CHAN_ENABLE 1) with pwr.vcore:=5,pwr.vselEn:=true} : State),
     by decide +kernel, by rw [hf]; decide +kernel, by decide +kernel⟩⟩

/-- Concrete values meet the hypotheses of every clause of `Obligations.ClocksAndCalendarKeepTime`. -/
theorem witness_ClocksAndCalendarKeepTime :
    (∃ (s : State) (i : Nat) (present : Bool) (w1 : Bool), s.regs.wf = true ∧ s.boot.ao = true ∧ i < 7 ∧ s.flt.slice = none ∧
      s.pwr.clkLost.get? i = none ∧ present = true ∧ w1 = true) ∧
    (∃ (s : State) (i : Nat) (present : Bool) (w1 : Bool), s.regs.wf = true ∧ s.boot.ao = true ∧ i < 7 ∧ s.flt.slice = none ∧
      s.pwr.clkLost.get? i = none ∧ (present = false ∨ w1 = false) ∧ s.pwr.clkBad.get? i = none) ∧
    (∃ (s : State) (i : Nat) (present : Bool) (w1 : Bool) (n : _), s.regs.wf = true ∧ s.boot.ao = true ∧ i < 7 ∧ s.flt.slice = none ∧
      s.pwr.clkLost.get? i = none ∧ (present = false ∨ w1 = false) ∧ s.pwr.clkBad.get? i = some n ∧ 1 ≤ n ∧ i = 6) ∧
    (∃ (s : State) (i : Nat) (present : Bool) (w01 : Bool) (l : _), s.regs.wf = true ∧ s.boot.ao = true ∧ i < 7 ∧ s.flt.slice = none ∧
      s.pwr.clkLost.get? i = some l ∧ (present = false ∨ w01 = false) ∧ s.pwr.clkBack.wf = true) ∧
    (∃ (s : State) (i : Nat) (present : Bool) (w01 : Bool) (l : _) (b : _), s.regs.wf = true ∧ s.boot.ao = true ∧ i < 7 ∧
      s.flt.slice = none ∧ s.pwr.clkLost.get? i = some l ∧ present = true ∧ w01 = true ∧ s.pwr.clkBack.get? i = some b ∧
      s.pwr.clkLost.wf = true ∧ ((match s.pwr.clkAt.get? i with | some t => s.passTo (t + 10000) | none => s : State).now < b + 1000000)) ∧
    (∃ (s : State) (i : Nat) (present : Bool) (w01 : Bool) (l : _) (b : _), s.regs.wf = true ∧ s.boot.ao = true ∧ i < 7 ∧
      s.flt.slice = none ∧ s.pwr.clkLost.get? i = some l ∧ present = true ∧ w01 = true ∧ s.pwr.clkBack.get? i = some b ∧
      s.pwr.clkLost.wf = true ∧ (b + 1000000 ≤ (match s.pwr.clkAt.get? i with | some t => s.passTo (t + 10000) | none => s : State).now)) ∧
    (∃ (s : State) (q : Nat) (l : Nat), s.regs.wf = true ∧ q < 4 ∧ s.boot.pwrGood = true ∧ s.pwr.clkLost.get? q = some l ∧
      s.pend (0x25C + q) = false) ∧
    (∃ (s : State) (q : Nat), s.pwr.clkLost.get? q = none) ∧
    (∃ (s : State) (rid : Nat), s.regs.wf = true ∧ ridFull rid = true ∧ s.barOpen rid = true ∧ s.regCause R.FTH_TIME = none) ∧
    (∃ (s : State) (rid : _), s.regs.wf = true ∧ s.boot.ao = true ∧ s.pwr.clkLost.get? 7 = none ∧ s.pwr.setAtPps = some rid) ∧
    (∃ (s : State), s.regs.wf = true ∧ s.boot.ao = true ∧ s.pwr.clkLost.get? 7 = none ∧ s.pwr.setAtPps = none) ∧
    (∃ (s : State) (a : Nat), s.regs.wf = true ∧ s.boot.ao = true ∧ s.pwr.ppsAt = some a) ∧
    (∃ (s : State), s.pwr.ppsAt = none) :=
  ⟨⟨(up : State), (0 : Nat), (true : Bool), (true : Bool), by decide +kernel⟩,
   ⟨(up : State), (0 : Nat), (true : Bool), (false : Bool), by decide +kernel⟩,
   ⟨(({up with pwr.clkBad:=[(6,1)],pwr.clkAt:=[(6,0)]}) : State), (6 : Nat), (true : Bool), (false : Bool), 1, by decide +kernel⟩,
   ⟨(({up with pwr.clkLost:=[(0,3)],pwr.clkBack:=[(0,100)]}) : State), (0 : Nat), (true : Bool), (false : Bool), 3, by decide +kernel⟩,
   ⟨(({up with pwr.clkLost:=[(0,3)],pwr.clkBack:=[(0,100)]}) : State), (0 : Nat), (true : Bool), (true : Bool), 3, 100, by decide +kernel⟩,
   ⟨(({up with now:=2000000,pwr.clkLost:=[(0,3)],pwr.clkBack:=[(0,100)]}) : State), (0 : Nat), (true : Bool), (true : Bool), 3, 100,
     by decide +kernel⟩,
   ⟨(({up with pwr.clkLost:=[(0,77)]}) : State), (0 : Nat), (77 : Nat), by decide +kernel⟩,
   ⟨(up : State), (2 : Nat), by decide +kernel⟩,
   ⟨((up.wr R.FTH_CAL_SET 0x1234567890) : State), (0x1000 : Nat), by decide +kernel⟩,
   ⟨({up with pwr.setAtPps := some 0x1000} : State), 0x1000, by decide +kernel⟩,
   ⟨({up with now:=2000000000,pwr.ppsAt:=some 1000000000,pwr.ppsRun:=2} : State), by decide +kernel⟩,
   ⟨({up with pwr.ppsAt:=some 7} : State), (7 : Nat), by decide +kernel⟩,
   ⟨(up : State), by decide +kernel⟩⟩

/-- Concrete values meet the hypotheses of every clause of `Obligations.FaultsCountFlagAndClear`. -/
theorem witness_FaultsCountFlagAndClear :
    (∃ (s : State) (n : Nat), (fltClass n ≠ 0 ∨ s.srcLive n = false)) ∧
    (∃ (s : State) (n : Nat), fltClass n = 0 ∧ s.srcLive n = true ∧ (n < 0x160 ∨ 0x240 ≤ n)) ∧
    (∃ (s : State) (n : Nat), 0x160 ≤ n ∧ n < 0x1E8 ∧ s.srcBank n = none) ∧
    (∃ (s : State) (n : Nat), (fltClass n ≠ 1 ∨ s.srcLive n = false)) ∧
    (∃ (s : State) (n : Nat), fltClass n = 1 ∧ s.srcLive n = true ∧ n ≠ 0x155 ∧ n ≠ 0x15B) ∧
    (∃ (s : State) (n : Nat), s.regs.wf = true ∧ n < 640 ∧
      ((s.rdF (R.FLT_SRC n) F.FLT_SRC_THRESHOLD) = 0 ∨ ((s.rdF (R.FLT_SRC n) F.FLT_SRC_THRESHOLD) ≤ ((s.flt.window.get? n).getD 0 + 1) ∧
      n ∉ s.flt.reported))) ∧
    (∃ (s : State) (n : Nat), s.regs.wf = true ∧ n < 640 ∧ (s.rdF (R.FLT_SRC n) F.FLT_SRC_THRESHOLD) ≠ 0 ∧
      (((s.flt.window.get? n).getD 0 + 1) < (s.rdF (R.FLT_SRC n) F.FLT_SRC_THRESHOLD) ∨ n ∈ s.flt.reported)) ∧
    (∃ (s : State), s.boot.pwrGood = false) ∧
    (∃ (s : State), s.boot.pwrGood = true) ∧
    (∃ (s : State) (n : Nat), s.regs.wf = true ∧ n < 640) ∧
    (∃ (s : State) (j : _), s.regs.wf = true ∧ s.fatal = false ∧ j < 16) ∧
    (∃ (s : State) (p : _), s.regs.wf = true ∧ s.fatal = false ∧ p < 64) ∧
    (∃ (s : State) (u : _), s.regs.wf = true ∧ s.fatal = false ∧ 4 ≤ u ∧ u < 8) ∧
    (∃ (s : State) (n : Nat), s.regs.wf = true ∧ n < 640 ∧ fltClass n = 0) ∧
    (∃ (s : State) (n : Nat), s.regs.wf = true ∧ n < 640 ∧ fltClass n = 1 ∧ s.clearBarred n = true) ∧
    (∃ (s : State) (n : Nat), s.regs.wf = true ∧ n < 640 ∧ fltClass n = 1 ∧ s.clearBarred n = false) ∧
    (∃ (s : State) (n : Nat), s.regs.wf = true ∧ n < 640 ∧ s.active_ n = false) ∧
    (∃ (s : State) (n : Nat), s.regs.wf = true ∧ n < 640 ∧ s.active_ n = true ∧ selfStands n = false) ∧
    (∃ (s : State) (n : Nat), s.regs.wf = true ∧ n < 640 ∧ s.rdF (R.FLT_SRC n) F.FLT_SRC_FORCE = 1) ∧
    (∃ (s : State) (n : Nat) (m : _), s.regs.wf = true ∧ n < 640 ∧ m < 640 ∧ m ≠ n) ∧
    (∃ (s : State) (rid : Nat) (k : Nat) (i : Nat), k < 10 ∧ i < 64 ∧ ridFull rid = true ∧ s.barOpen rid = true ∧
      s.regCause (R.FLT_PEND k) = none) ∧
    (∃ (s : State) (rid : Nat) (n : Nat), s.regs.wf = true ∧ n < 640 ∧ ridFull rid = true ∧ s.barOpen rid = true ∧
      s.regCause (R.FLT_SRC n) = none ∧ fltClass n = 3) ∧
    (∃ (s : State) (rid : Nat) (n : Nat), s.regs.wf = true ∧ n < 640 ∧ ridFull rid = true ∧ s.barOpen rid = true ∧
      s.regCause (R.FLT_SRC n) = none ∧ isFt n = true ∧ s.rdF R.FLT_CTL F.FLT_CTL_FORCE_FT = 0) ∧
    (∃ (s : State) (rid : Nat) (n : Nat), s.regs.wf = true ∧ n < 640 ∧ ridFull rid = true ∧ s.barOpen rid = true ∧
      s.regCause (R.FLT_SRC n) = none ∧ isFt n = true ∧ s.rdF R.FLT_CTL F.FLT_CTL_FORCE_FT = 1 ∧ s.rdF (R.FLT_SRC n) F.FLT_SRC_FORCE = 0 ∧
      s.boot.pwrGood = true) ∧
    (∃ (s : State) (rid : Nat) (n : Nat), s.regs.wf = true ∧ n < 640 ∧ ridFull rid = true ∧ s.barOpen rid = true ∧
      s.regCause (R.FLT_SRC n) = none ∧ fltClass n < 2 ∧ s.rdF (R.FLT_SRC n) F.FLT_SRC_FORCE = 1) ∧
    (∃ (s : State) (rid : Nat) (n : Nat), s.regs.wf = true ∧ n < 640 ∧ ridFull rid = true ∧ s.barOpen rid = true ∧
      s.regCause (R.FLT_SRC n) = none ∧ fltClass n < 2 ∧ s.rdF (R.FLT_SRC n) F.FLT_SRC_FORCE = 0) :=
  ⟨⟨(upq : State), (3 : Nat), by decide +kernel⟩,
   ⟨(upq : State), (0 : Nat), by decide +kernel⟩,
   ⟨(upq : State), (487 : Nat), by decide +kernel⟩,
   ⟨(upq : State), (0 : Nat), by decide +kernel⟩,
   ⟨(upq : State), (3 : Nat), by decide +kernel⟩,
   ⟨(up : State), (0 : Nat), by decide +kernel⟩,
   ⟨(((up).wrF (R.FLT_SRC 0) F.FLT_SRC_THRESHOLD 2) : State), (0 : Nat), by decide +kernel⟩,
   ⟨(State.reset : State), by decide +kernel⟩,
   ⟨({up with flt.window:=[(3,1)],flt.reported:=[3]} : State), by decide +kernel⟩,
   ⟨(up : State), (3 : Nat), by decide +kernel⟩,
   ⟨(up : State), 0, by decide +kernel⟩,
   ⟨(up : State), 0, by decide +kernel⟩,
   ⟨(up : State), 4, by decide +kernel⟩,
   ⟨(up : State), (0 : Nat), by decide +kernel⟩,
   ⟨((((up.setPend 3 true)).wrF (R.FLT_SRC 3) F.FLT_SRC_FORCE 1) : State), (3 : Nat), by decide +kernel⟩,
   ⟨(up : State), (3 : Nat), by decide +kernel⟩,
   ⟨(up : State), (0 : Nat), by decide +kernel⟩,
   ⟨((((up.setPend 0 true)).wrF (R.FLT_SRC 0) F.FLT_SRC_FORCE 1) : State), (0 : Nat), by decide +kernel⟩,
   ⟨((((up.setPend 0 true)).wrF (R.FLT_SRC 0) F.FLT_SRC_FORCE 1) : State), (0 : Nat), by decide +kernel⟩,
   ⟨(up : State), (0 : Nat), 5, by decide +kernel⟩,
   ⟨(up : State), (0x1000 : Nat), (0 : Nat), (0 : Nat), by decide +kernel⟩,
   ⟨(up : State), (0x1000 : Nat), (335 : Nat), by decide +kernel⟩,
   ⟨(up : State), (0x1000 : Nat), (596 : Nat), by decide +kernel⟩,
   ⟨((up.wrF R.FLT_CTL F.FLT_CTL_FORCE_FT 1) : State), (0x1000 : Nat), (596 : Nat), by decide +kernel⟩,
   ⟨(((up).wrF (R.FLT_SRC 0) F.FLT_SRC_FORCE 1) : State), (0x1000 : Nat), (0 : Nat), by decide +kernel⟩,
   ⟨(up : State), (0x1000 : Nat), (0 : Nat), by decide +kernel⟩⟩

/-- Concrete values meet the hypotheses of every clause of `Obligations.FatalFaultsRepairsAndTakeovers`. -/
theorem witness_FatalFaultsRepairsAndTakeovers :
    (∃ (s : State) (n : Nat), s.regs.wf = true ∧ n < 640 ∧ (isFt n = false ∨ s.boot.pwrGood = false)) ∧
    (∃ (s : State) (n : Nat), s.regs.wf = true ∧ n < 640 ∧ isFt n = true ∧ s.boot.pwrGood = true ∧ s.fatal = true) ∧
    (∃ (s : State) (n : Nat), s.regs.wf = true ∧ n < 640 ∧ isFt n = true ∧ s.boot.pwrGood = true ∧ s.fatal = false) ∧
    (∃ (s : State), (s.boot.pwrGood = false ∨ (s.fatal = true ∨ s.stage ≠ 6))) ∧
    (∃ (s : State), s.boot.pwrGood = true ∧ s.fatal = false ∧ s.stage = 6) ∧
    (∃ (s : State) (b : Nat) (k : _), s.fatal = false ∧ s.repairing b = false ∧ s.freeSpare (b / 32) = some k) ∧
    (∃ (s : State) (b : Nat), s.fatal = false ∧ s.repairing b = false ∧ s.freeSpare (b / 32) = none ∧ (∀ k ∈ sparesOf (b / 32),
      (s.spare k).held = false)) ∧
    (∃ (s : State) (b : Nat) (k : Nat), s.fatal = false ∧ b < 128 ∧ k ∈ sparesOf (b / 32) ∧ s.spare k = .copying b false ∧
      (∀ j ∈ sparesOf (b / 32), j ≠ k → ((s.spare j).stands ≠ some b ∧ s.spare j ≠ .copying b false))) ∧
    (∃ (s : State) (b : Nat), (∀ k ∈ sparesOf (b / 32), s.spare k ≠ .copying b false ∧ s.spare k ≠ .copying b true)) ∧
    (∃ (s : State) (i : Nat) (c : Nat), s.regs.wf = true ∧ i < 2 ∧ c < 15 ∧ s.fatal = false ∧
      s.rdF (R.TOP_HBM_STAT i) F.TOP_HBM_STAT_SPARE_USED = 0 ∧ s.srcLive (0x220 + 16 * i + c) = true ∧
      (s.ceRaise (0x220 + 16 * i + c) false).2 = true) ∧
    (∃ (s : State) (i : Nat) (c : Nat), s.regs.wf = true ∧ i < 2 ∧ s.fatal = false ∧ s.flt.rebuild.get? i = some c ∧
      s.flt.rebuild.wf = true) ∧
    (∃ (s : State) (i : Nat), s.flt.rebuild.get? i = none) ∧
    (∃ (s : State) (c : Nat), c < 4 ∧ s.fwRuns = true ∧ s.srcLive (0x250 + c) = true) ∧
    (∃ (s : State), s.fwRuns = false) ∧
    (∃ (s : State) (c : Nat), s.regs.wf = true ∧ c < 4 ∧ s.activeCore (c / 2) = c ∧ s.rdF (R.BOOT_FW (c / 2)) F.BOOT_FW_UPD ≠ 3 ∧
      s.rdF (R.BOOT_FW (c / 2)) F.BOOT_FW_STANDBY = 2) ∧
    (∃ (s : State) (c : Nat), s.regs.wf = true ∧ c < 4 ∧ s.activeCore (c / 2) = c ∧ s.rdF (R.BOOT_FW (c / 2)) F.BOOT_FW_UPD ≠ 3 ∧
      s.rdF (R.BOOT_FW (c / 2)) F.BOOT_FW_STANDBY ≠ 2 ∧ s.boot.pwrGood = true) ∧
    (∃ (s : State) (c : Nat), s.regs.wf = true ∧ c < 4 ∧ s.fwRuns = true ∧ s.activeCore (c / 2) ≠ c ∧
      s.rdF (R.BOOT_FW (c / 2)) F.BOOT_FW_STANDBY = 1 ∧ s.rdF (R.BOOT_FW (c / 2)) F.BOOT_FW_UPD < 3) :=
  ⟨⟨({upr with flt.rebuild:=[(0,3)],flt.waitRep:=[3]} : State), (0 : Nat), by decide +kernel⟩,
   ⟨((up.wrF R.FLT_STAT F.FLT_STAT_FATAL 1) : State), (596 : Nat), by decide +kernel⟩,
   ⟨({upr with flt.rebuild:=[(0,3)],flt.waitRep:=[3]} : State), (596 : Nat), by decide +kernel⟩,
   ⟨(State.reset : State), by decide +kernel⟩,
   ⟨(up : State), by decide +kernel⟩,
   ⟨(up : State), (0 : Nat), 0, by decide +kernel⟩,
   ⟨(({up with flt.spares:=[(0,.retired),(1,.retired),(2,.retired),(3,.retired),(4,.retired),(5,.retired),(6,.retired),(7,.retired)]}) : State),
     (0 : Nat), by decide +kernel⟩,
   ⟨(({up with flt.spares:=[(0,.copying 0 false)]}) : State), (0 : Nat), (0 : Nat), by decide +kernel⟩,
   ⟨(up : State), (5 : Nat), by decide +kernel⟩,
   ⟨(up : State), (0 : Nat), (0 : Nat), by decide +kernel⟩,
   ⟨(((({up with flt.rebuild:=[(0,3)]}).wrF (R.TOP_HBM_STAT 0) F.TOP_HBM_STAT_REBUILDING 1)) : State), (0 : Nat), (3 : Nat),
     by decide +kernel⟩,
   ⟨(up : State), (0 : Nat), by decide +kernel⟩,
   ⟨((up) : State), (0 : Nat), by decide +kernel⟩,
   ⟨(State.reset : State), by decide +kernel⟩,
   ⟨((up.wrF (R.BOOT_FW (0/2)) F.BOOT_FW_STANDBY 2) : State), (0 : Nat), by decide +kernel⟩,
   ⟨(up : State), (0 : Nat), by decide +kernel⟩,
   ⟨(((up.wrF (R.BOOT_FW (0/2)) F.BOOT_FW_STANDBY 1).wrF (R.BOOT_FW (0/2)) F.BOOT_FW_ACTIVE 1) : State), (0 : Nat), by decide +kernel⟩⟩

/-- Concrete values meet the hypotheses of every clause of `Obligations.SelfTestRunsAsPermitted` (at configurations as the hypothesis says: a signature check, a trim or a rail of `Config` has no body). -/
theorem witness_SelfTestRunsAsPermitted (hb : Config.vddHbm = 1200) :
    (∃ (s : State),
      (s.stAllowed = false ∨ (s.flt.full = true ∨ (s.flt.slice.isSome = true ∨ s.rdF R.STC_STAT F.STC_STAT_RESET_NEEDED = 1)))) ∧
    (∃ (s : State) (k : _) (n : _), s.stAllowed = true ∧ s.flt.full = false ∧ s.flt.slice = none ∧
      s.rdF R.STC_STAT F.STC_STAT_RESET_NEEDED = 0 ∧ s.flt.cmd = some (k, n)) ∧
    (∃ (s : State), s.stAllowed = true ∧ s.flt.full = false ∧ s.flt.slice = none ∧ s.rdF R.STC_STAT F.STC_STAT_RESET_NEEDED = 0 ∧
      s.flt.cmd = none ∧ s.rdF R.STC_CTL F.STC_CTL_ENABLE = 1) ∧
    (∃ (s : State), s.stAllowed = true ∧ s.flt.full = false ∧ s.flt.slice = none ∧ s.rdF R.STC_STAT F.STC_STAT_RESET_NEEDED = 0 ∧
      s.flt.cmd = none ∧ s.rdF R.STC_CTL F.STC_CTL_ENABLE = 0) ∧
    (∃ (s : State), s.regs.wf = true ∧ s.flt.rot < 712 ∧ s.kindOn (rotUnit s.flt.rot).1 = true ∧
      s.runnable (rotUnit s.flt.rot).1 (rotUnit s.flt.rot).2 = true ∧ (rotUnit s.flt.rot).1 = 4 ∧ s.activating 1 = true) ∧
    (∃ (s : State) (c : _), s.regs.wf = true ∧ s.flt.rot < 712 ∧ s.kindOn (rotUnit s.flt.rot).1 = true ∧
      s.runnable (rotUnit s.flt.rot).1 (rotUnit s.flt.rot).2 = true ∧ s.stCause = some c ∧
      ((rotUnit s.flt.rot).1 ≠ 4 ∨ s.activating 1 = false)) ∧
    (∃ (s : State), s.regs.wf = true ∧ s.flt.rot < 712 ∧ s.kindOn (rotUnit s.flt.rot).1 = true ∧
      s.runnable (rotUnit s.flt.rot).1 (rotUnit s.flt.rot).2 = true ∧ s.stCause = none ∧
      ((rotUnit s.flt.rot).1 ≠ 4 ∨ s.activating 1 = false) ∧ (rotUnit s.flt.rot).1 = 1) ∧
    (∃ (s : State), s.regs.wf = true ∧ s.flt.rot < 712 ∧ s.kindOn (rotUnit s.flt.rot).1 = true ∧
      s.runnable (rotUnit s.flt.rot).1 (rotUnit s.flt.rot).2 = true ∧ s.stCause = none ∧
      ((rotUnit s.flt.rot).1 ≠ 4 ∨ s.activating 1 = false) ∧ (rotUnit s.flt.rot).1 = 2) ∧
    (∃ (s : State), s.flt.slice = none) ∧
    (∃ (s : State) (sl : Slice), s.flt.slice = some sl ∧ (s.fatal = true ∨ s.sliceBusy sl = true)) ∧
    (∃ (s : State) (sl : Slice), s.regs.wf = true ∧ s.flt.slice = some sl ∧ s.fatal = false ∧ s.sliceBusy sl = false ∧
      (sl.kind = 2 ∨ (sl.kind = 3 ∨ sl.kind = 5))) ∧
    (∃ (s : State) (sl : Slice) (a : BitVec 32), s.regs.wf = true ∧ s.flt.slice = some sl ∧ s.fatal = false ∧ s.sliceBusy sl = false ∧
      sl.kind = 4 ∧ a.toNat ≤ s.rdF R.STC_CTL F.STC_CTL_LANE_ERR) ∧
    (∃ (s : State) (sl : Slice), s.regs.wf = true ∧ s.flt.slice = some sl ∧ s.fatal = false ∧ s.sliceBusy sl = false ∧ sl.kind = 1) ∧
    (∃ (s : State) (sl : Slice), s.regs.wf = true ∧ s.flt.slice = some sl ∧ s.fatal = false ∧ s.sliceBusy sl = false ∧
      (sl.kind = 1 ∨ (sl.kind = 2 ∨ sl.kind = 3))) ∧
    (∃ (s : State) (b : Nat) (k : Nat), s.fatal = false ∧ s.bankSpare b = some k ∧ s.spare k = .testing b false) ∧
    (∃ (s : State) (b : Nat) (k : Nat), s.fatal = false ∧ s.bankSpare b = some k ∧ s.spare k = .returning b ∧ s.flt.waitRep = []) ∧
    (∃ (s : State) (b : Nat) (k : Nat) (w : _), s.fatal = false ∧ s.bankSpare b = some k ∧ s.spare k = .returning b ∧ w / 32 = k / 2 ∧
      s.flt.waitRep = [w]) ∧
    (∃ (s : State) (b : Nat), s.bankSpare b = none) ∧
    (∃ (s : State) (sl : Slice) (k : _) (b : _), s.flt.slice = some sl ∧ s.spare k = .testing b true) ∧
    (∃ (s : State) (sl : Slice) (k : _) (b : _), s.flt.slice = some sl ∧ s.spare k = .testing b false) ∧
    (∃ (s : State) (sl : Slice) (k : _), s.flt.slice = some sl ∧ s.spare k = .marching) ∧
    (∃ (s : State) (rid : Nat), ridFull rid = true ∧ s.barOpen rid = true ∧ s.regCause R.STC_CMD = none ∧
      s.rdF R.STC_CMD F.STC_CMD_STATUS = 1) ∧
    (∃ (s : State) (rid : Nat) (val : Word), ridFull rid = true ∧ s.barOpen rid = true ∧ s.regCause R.STC_CMD = none ∧
      1 ≤ getF val F.STC_CMD_KIND ∧ getF val F.STC_CMD_KIND ≤ 5 ∧ s.rdF R.STC_CMD F.STC_CMD_STATUS ≠ 1 ∧ s.stAllowed = true) ∧
    (∃ (s : State) (rid : Nat) (val : Word), ridFull rid = true ∧ s.barOpen rid = true ∧ s.regCause R.STC_CMD = none ∧
      (getF val F.STC_CMD_KIND = 0 ∨ 6 ≤ getF val F.STC_CMD_KIND)) ∧
    (∃ (s : State) (rid : Nat), ridFull rid = true ∧ s.barOpen rid = true ∧ s.regCause R.STC_CMD = none ∧ s.regs.wf = true ∧
      s.rdF R.STC_CMD F.STC_CMD_STATUS ≠ 1 ∧ s.fatal = false ∧ (s.stAllowed = false ∨ s.stFull = false)) ∧
    (∃ (s : State) (rid : Nat), ridFull rid = true ∧ s.barOpen rid = true ∧ s.regCause R.STC_CMD = none ∧ s.regs.wf = true ∧
      s.rdF R.STC_CMD F.STC_CMD_STATUS ≠ 1 ∧ s.stAllowed = true ∧ s.stFull = true ∧ s.flt.slice = none ∧ s.fullReady = false) ∧
    (∃ (s : State) (rid : Nat), ridFull rid = true ∧ s.barOpen rid = true ∧ s.regCause R.STC_CMD = none ∧ s.regs.wf = true ∧
      s.rdF R.STC_CMD F.STC_CMD_STATUS ≠ 1 ∧ s.stAllowed = true ∧ s.stFull = true ∧ s.flt.slice = none ∧ s.fullReady = true) ∧
    (∃ (s : State), (s.flt.full = false ∨ s.fatal = true)) ∧
    (∃ (s : State), s.regs.wf = true ∧ s.flt.full = true ∧ s.fatal = false) :=
  ⟨⟨(({stb with flt.full:=true}) : State), by decide +kernel⟩,
   ⟨(({stb with flt.cmd:=some (3,7)}) : State), 3, 7, by decide +kernel⟩,
   ⟨(stb : State), by decide +kernel⟩,
   ⟨((stb.wrF R.STC_CTL F.STC_CTL_ENABLE 0) : State), by decide +kernel⟩,
   ⟨((((({stb with flt.rot:=232})).wrF (R.BOOT_FW 1) F.BOOT_FW_UPD 3).wrF (R.LNK_STATE 0) F.LNK_STATE_STATE 1) : State), by decide +kernel⟩,
   ⟨(({(stb.wrF R.PWR_CLK_STAT ⟨2,1⟩ 0) with flt.rot:=0}) : State), (1,2), by decide +kernel⟩,
   ⟨(({stb with flt.rot:=0}) : State), by decide +kernel, by decide +kernel, by decide +kernel, by decide +kernel,
     rail_ok hb _ (by decide +kernel) (by decide +kernel) (by decide +kernel) (by decide +kernel), by decide +kernel⟩,
   ⟨(({stb with flt.rot:=128}) : State), by decide +kernel, by decide +kernel, by decide +kernel, by decide +kernel,
     rail_ok hb _ (by decide +kernel) (by decide +kernel) (by decide +kernel) (by decide +kernel), by decide +kernel⟩,
   ⟨(stb : State), by decide +kernel⟩,
   ⟨(({stb with flt.slice:=some {kind:=1,unit_:=5,commanded:=true,back:=false}}) : State),
     ({kind:=1,unit_:=5,commanded:=true,back:=false} : Slice), by decide +kernel⟩,
   ⟨(({stb with flt.slice:=some {kind:=2,unit_:=3,commanded:=true,back:=false},flt.spares:=[(3,.marching)]}) : State),
     ({kind:=2,unit_:=3,commanded:=true,back:=false} : Slice), by decide +kernel⟩,
   ⟨(({stb with flt.slice:=some {kind:=4,unit_:=5,commanded:=true,back:=false}}) : State),
     ({kind:=4,unit_:=5,commanded:=true,back:=false} : Slice), 0, by decide +kernel⟩,
   ⟨(({stb with flt.slice:=some {kind:=1,unit_:=5,commanded:=true,back:=false},flt.spares:=[(0,.testing 5 true)]}) : State),
     ({kind:=1,unit_:=5,commanded:=true,back:=false} : Slice), by decide +kernel⟩,
   ⟨(({stb with flt.slice:=some {kind:=1,unit_:=5,commanded:=true,back:=false},flt.spares:=[(0,.testing 5 true)]}) : State),
     ({kind:=1,unit_:=5,commanded:=true,back:=false} : Slice), by decide +kernel⟩,
   ⟨(({stb with flt.spares:=[(0,.testing 5 false)]}) : State), (5 : Nat), (0 : Nat), by decide +kernel⟩,
   ⟨(({stb with flt.spares:=[(0,.returning 5)]}) : State), (5 : Nat), (0 : Nat), by decide +kernel⟩,
   ⟨(({stb with flt.spares:=[(0,.returning 5)],flt.waitRep:=[9]}) : State), (5 : Nat), (0 : Nat), 9, by decide +kernel⟩,
   ⟨(stb : State), (3 : Nat), by decide +kernel⟩,
   ⟨(({stb with flt.spares:=[(0,.testing 5 true)],flt.slice:=some {kind:=1,unit_:=5,commanded:=true,back:=false}}) : State),
     ({kind:=1,unit_:=5,commanded:=true,back:=false} : Slice), 0, 5, by decide +kernel⟩,
   ⟨(({stb with flt.spares:=[(1,.testing 5 false)],flt.slice:=some {kind:=1,unit_:=5,commanded:=true,back:=false}}) : State),
     ({kind:=1,unit_:=5,commanded:=true,back:=false} : Slice), 1, 5, by decide +kernel⟩,
   ⟨(({stb with flt.spares:=[(3,.marching)],flt.slice:=some {kind:=2,unit_:=3,commanded:=true,back:=false}}) : State),
     ({kind:=2,unit_:=3,commanded:=true,back:=false} : Slice), 3, by decide +kernel⟩,
   ⟨((stb.wrF R.STC_CMD F.STC_CMD_STATUS 1) : State), (0x1000 : Nat), by decide +kernel⟩,
   ⟨(stb : State), (0x1000 : Nat), ((putF (putF 0 F.STC_CMD_KIND 1) F.STC_CMD_UNIT 3) : Word), by decide +kernel⟩,
   ⟨(stb : State), (0x1000 : Nat), ((putF (putF 0 F.STC_CMD_KIND 0) F.STC_CMD_UNIT 3) : Word), by decide +kernel⟩,
   ⟨(stb : State), (0x1000 : Nat), by decide +kernel⟩,
   ⟨(({stb with boot.lc:=4}) : State), (0x1000 : Nat), by decide +kernel⟩,
   ⟨(({((List.range 67).foldl (fun s p => s.wrF (R.LNK_STATE p) F.LNK_STATE_STATE 1) stb) with boot.lc:=1, ten.fns:=[], flt.spares:=[(2,.repairs 33)]}) : State),
     (0x1000 : Nat), by decide +kernel⟩,
   ⟨(stb : State), by decide +kernel⟩,
   ⟨(({stb with flt.full:=true}) : State), by decide +kernel⟩⟩

/-- Concrete values meet the hypotheses of every clause of `Obligations.RecorderKeepsRecordsInOrder` (at configurations as the hypothesis says: a signature check, a trim or a rail of `Config` has no body). -/
theorem witness_RecorderKeepsRecordsInOrder (hv : ∀ k d g, Config.ecdsaVerify k d g = true) :
    (∃ (s : State), s.evr.queue.length < 512 ∧ (s.evr.used < 65536 ∨ s.evr.clearing.isSome = true)) ∧
    (∃ (s : State), (512 ≤ s.evr.queue.length ∨ (65536 ≤ s.evr.used ∧ s.evr.clearing = none))) ∧
    (∃ (s : State), s.rdF R.FTH_TIME F.FTH_TIME_TIME_VALID = 1) ∧
    (∃ (s : State), s.rdF R.FTH_TIME F.FTH_TIME_TIME_VALID = 0) ∧
    (∃ (s : State) (r : Rec) (q : List Rec), s.evr.queue = r :: q ∧ s.boot.ao = true ∧ s.boot.counted = true ∧ s.evr.clearing = none ∧
      s.evr.used < 65536) ∧
    (∃ (s : State) (r : Rec) (q : List Rec), s.evr.queue = r :: q ∧
      (s.boot.ao = false ∨ (s.boot.counted = false ∨ (s.evr.clearing.isSome = true ∨ 65536 ≤ s.evr.used)))) ∧
    (∃ (s : State), s.evr.queue = []) ∧
    (∃ (r : Rec) (seq : Nat), seq < 65536 ∧ r.code < 65536 ∧ r.severity < 4 ∧ r.source < 128) ∧
    (∃ (s : State) (rid : Nat), s.regs.wf = true ∧ ridFull rid = true ∧ s.barOpen rid = true ∧ s.regCause R.EVR_RD_IDX = none) ∧
    (∃ (s : State) (c : AdminCmd), Takes s c 0x90 [(2, ones 0 20), (4, 0), (5, 0), (6, 0), (7, 0)] ∧ s.keyBusy = true) ∧
    (∃ (s : State) (c : AdminCmd), Takes s c 0x90 [(2, ones 0 20), (4, 0), (5, 0), (6, 0), (7, 0)] ∧ s.keyBusy = false ∧ isPf c.fn = false ∧
      s.xlt.missed = []) ∧
    (∃ (s : State) (c : AdminCmd), Takes s c 0x90 [(2, ones 0 20), (4, 0), (5, 0), (6, 0), (7, 0)] ∧ s.keyBusy = false ∧ isPf c.fn = true ∧
      s.xlt.missed = [] ∧ (s.granted c.fn (bitsOf c.e.w2 0 20) = false ∨ bitsOf c.e.w3 48 16 ≠ 0)) ∧
    (∃ (s : State) (c : AdminCmd) (f : FetchedToken) (st : _), Takes s c 0x90 [(2, ones 0 20), (4, 0), (5, 0), (6, 0), (7, 0)] ∧
      s.keyBusy = false ∧ isPf c.fn = true ∧ CmdSees s c.fn (bitsOf c.e.w2 0 20) c.e.w3 160 ∧ f = .failed st) ∧
    (∃ (s : State) (c : AdminCmd) (f : FetchedToken) (tk : _), Takes s c 0x90 [(2, ones 0 20), (4, 0), (5, 0), (6, 0), (7, 0)] ∧
      s.keyBusy = false ∧ isPf c.fn = true ∧ CmdSees s c.fn (bitsOf c.e.w2 0 20) c.e.w3 160 ∧ f = .token tk ∧ clearTokenOk s tk = false) ∧
    (∃ (s : State) (c : AdminCmd) (f : FetchedToken) (tk : _), Takes s c 0x90 [(2, ones 0 20), (4, 0), (5, 0), (6, 0), (7, 0)] ∧
      s.keyBusy = false ∧ isPf c.fn = true ∧ CmdSees s c.fn (bitsOf c.e.w2 0 20) c.e.w3 160 ∧ f = .token tk ∧ clearTokenOk s tk = true) ∧
    (∃ (s : State) (r : CmdRef) (cr : Rec), s.evr.clearing = some (r, cr) ∧ fnOk r.fn = true ∧ (s.fn r.fn).drain = none) ∧
    (∃ (s : State), s.evr.clearing = none) :=
  ⟨⟨(btk : State), by decide +kernel⟩,
   ⟨(({btk with evr.queue:=List.replicate 512 {code:=0x0203,severity:=2,source:=69,valid:=true,time:=9,p0:=1,p1:=2,p2:=3,p3:=4,p4:=5}}) : State),
     by decide +kernel⟩,
   ⟨((up.wrF R.FTH_TIME F.FTH_TIME_TIME_VALID 1) : State), by decide +kernel⟩,
   ⟨(up : State), by decide +kernel⟩,
   ⟨(({btk with evr.queue:=[{code:=0x0203,severity:=2,source:=69,valid:=true,time:=9,p0:=1,p1:=2,p2:=3,p3:=4,p4:=5}]}) : State),
     ({code:=0x0203,severity:=2,source:=69,valid:=true,time:=9,p0:=1,p1:=2,p2:=3,p3:=4,p4:=5} : Rec), ([] : List Rec), by decide +kernel⟩,
   ⟨(({btk with evr.queue:=[{code:=0x0203,severity:=2,source:=69,valid:=true,time:=9,p0:=1,p1:=2,p2:=3,p3:=4,p4:=5}],boot.counted:=false}) : State),
     ({code:=0x0203,severity:=2,source:=69,valid:=true,time:=9,p0:=1,p1:=2,p2:=3,p3:=4,p4:=5} : Rec), ([] : List Rec), by decide +kernel⟩,
   ⟨(btk : State), by decide +kernel⟩,
   ⟨({code:=0x0203,severity:=2,source:=69,valid:=true,time:=9,p0:=1,p1:=2,p2:=3,p3:=4,p4:=5} : Rec), (65535 : Nat), by decide +kernel⟩,
   ⟨(({btk with evr.slots:=[(3,[1,2,3,4,5,6,7,8])]}) : State), (0x1000 : Nat), by decide +kernel⟩,
   ⟨(({btk with evr.clearing:=(some ({fn:=0,cookie:=3,index:=1},{code:=0x0203,severity:=2,source:=69,valid:=true,time:=9,p0:=1,p1:=2,p2:=3,p3:=4,p4:=5}))}) : State),
     (({(cmd 0x90 77 0 0x10000 0 0 0 0) with fn := 0}) : AdminCmd), by decide +kernel⟩,
   ⟨(((btk.setFn 5 { fnInit with bme := true, asqProd := 1 }).wrF (R.TEN_ADMIN_SQ 5) ⟨0,64⟩ 1 |>.wrF (R.TEN_ADMIN_CQ 5) ⟨0,64⟩ 1) : State),
     (({(cmd 0x90 77 0 0x10000 0 0 0 0) with fn := 5}) : AdminCmd), by decide +kernel⟩,
   ⟨(btk : State), (({(cmd 0x90 77 0 0x10000 0 0 0 0) with fn := 0}) : AdminCmd), by decide +kernel⟩,
   ⟨(({ btk with xlt := upq.xlt } : State) : State), (({(cmd 0x90 77 9 0x10000 0 0 0 0) with fn := 0}) : AdminCmd),
     (.failed 9 : FetchedToken), 9, by decide +kernel⟩,
   ⟨(({ btk with xlt := upq.xlt } : State) : State), (({(cmd 0x90 77 9 0x10000 0 0 0 0) with fn := 0}) : AdminCmd),
     ((.token ({body:=⟨w64 1,btk.devId,0x4C4B4552,0,0,0,0,0⟩,sig:=1} : Token)) : FetchedToken),
     ({body:=⟨w64 1,btk.devId,0x4C4B4552,0,0,0,0,0⟩,sig:=1} : Token), by decide +kernel, by decide +kernel, by decide +kernel,
     by decide +kernel, rfl, by decide +kernel⟩,
   ⟨(({ btk with xlt := upq.xlt } : State) : State), (({(cmd 0x90 77 9 0x10000 0 0 0 0) with fn := 0}) : AdminCmd),
     ((.token ({body:=⟨w64 0,btk.devId,0x4C4B4552,0,0,0,0,0⟩,sig:=1} : Token)) : FetchedToken),
     ({body:=⟨w64 0,btk.devId,0x4C4B4552,0,0,0,0,0⟩,sig:=1} : Token), by decide +kernel, by decide +kernel, by decide +kernel,
     by decide +kernel, rfl, clear_ok hv _⟩,
   ⟨(({btk with evr.era:=4,evr.slots:=[(0,[1]),(4,[2])],evr.used:=9,evr.clearing:=(some ({fn:=0,cookie:=3,index:=1},{code:=0x0203,severity:=2,source:=69,valid:=true,time:=9,p0:=1,p1:=2,p2:=3,p3:=4,p4:=5}))}) : State),
     ({fn:=0,cookie:=3,index:=1} : CmdRef), ({code:=0x0203,severity:=2,source:=69,valid:=true,time:=9,p0:=1,p1:=2,p2:=3,p3:=4,p4:=5} : Rec),
     by decide +kernel⟩,
   ⟨(btk : State), by decide +kernel⟩⟩

/-- Concrete values meet the hypotheses of every clause of `Obligations.LifetimeAndCountersKeepCount`. -/
theorem witness_LifetimeAndCountersKeepCount :
    (∃ (s : State), s.boot.pwrGood = false) ∧
    (∃ (s : State), s.boot.pwrGood = true ∧ s.regs.wf = true) ∧
    (∃ (v : Nat), 5760 ≤ v ∧ v < 15680) ∧
    (∃ (s : State) (rid : Nat) (n : Nat), s.regs.wf = true ∧ n < 512 ∧ ridFull rid = true ∧ s.barOpen rid = true ∧
      s.regCause (R.CNT_VAL n) = none) ∧
    (∃ (s : State) (rid : Nat), s.regs.wf = true ∧ ridFull rid = true ∧ s.barOpen rid = true ∧ s.regCause R.CNT_CTL = none ∧
      s.rdF R.CNT_CTL F.CNT_CTL_BUSY = 1) ∧
    (∃ (s : State) (rid : Nat) (val : Word), s.regs.wf = true ∧ ridFull rid = true ∧ s.barOpen rid = true ∧ s.regCause R.CNT_CTL = none ∧
      s.rdF R.CNT_CTL F.CNT_CTL_BUSY = 0 ∧ getF val F.CNT_CTL_CLR_PORTS = 0) ∧
    (∃ (s : State) (rid : Nat) (val : Word), s.regs.wf = true ∧ ridFull rid = true ∧ s.barOpen rid = true ∧ s.regCause R.CNT_CTL = none ∧
      getF val F.CNT_CTL_SNAP = 0) ∧
    (∃ (s : State), s.regs.wf = true ∧ s.rdF R.CNT_CTL F.CNT_CTL_BUSY = 0) ∧
    (∃ (s : State), s.regs.wf = true ∧ s.rdF R.CNT_CTL F.CNT_CTL_BUSY = 1) ∧
    (∃ (s : State), s.regs.wf = true ∧ s.rdF R.CNT_SNAP_AT F.CNT_SNAP_AT_ARM = 0) ∧
    (∃ (s : State), s.regs.wf = true ∧ s.rdF R.CNT_SNAP_AT F.CNT_SNAP_AT_ARM = 1) ∧
    (∃ (s : State), s.regs.wf = true) ∧
    (∃ (s : State) (rid : Nat), s.regs.wf = true ∧ ridFull rid = true ∧ s.barOpen rid = true ∧ s.regCause R.CNT_BW_CTL = none) ∧
    (∃ (n : Nat) (v : Nat) (o : _), n < 2 ^ 48 ∧ v < 2 ^ 48 ∧ (o = 0 ∨ o = 2 ^ 63)) :=
  ⟨⟨(State.reset : State), by decide +kernel⟩,
   ⟨(up : State), by decide +kernel⟩,
   ⟨(5760 : Nat), by decide +kernel⟩,
   ⟨(((up.wr (R.CNT_VAL 0) 0x8000000000000009).wr (R.CNT_SHD 0) 7) : State), (0x1000 : Nat), (0 : Nat), by decide +kernel⟩,
   ⟨((up.wrF R.CNT_CTL F.CNT_CTL_BUSY 1) : State), (0x1000 : Nat), by decide +kernel⟩,
   ⟨((((up.wr (R.CNT_VAL 3) 77).wr (R.CNT_SHD 9) 7).wr (R.CNT_PORT 3 2) 8) : State), (0x1000 : Nat), ((putF 0 F.CNT_CTL_SNAP 1) : Word),
     by decide +kernel⟩,
   ⟨((((up.wr (R.CNT_VAL 3) 77).wr (R.CNT_SHD 9) 7).wr (R.CNT_PORT 3 2) 8) : State), (0x1000 : Nat),
     ((putF 0 F.CNT_CTL_CLR_PORTS 1) : Word), by decide +kernel⟩,
   ⟨(up : State), by decide +kernel⟩,
   ⟨((up.wrF R.CNT_CTL F.CNT_CTL_BUSY 1) : State), by decide +kernel⟩,
   ⟨(up : State), by decide +kernel⟩,
   ⟨(((up.wrF R.CNT_CTL F.CNT_CTL_BUSY 1).wrF R.CNT_SNAP_AT F.CNT_SNAP_AT_ARM 1) : State), by decide +kernel⟩,
   ⟨({ up with lnk.exch := [(3, { (up.px 3) with winTx := 2^33+5, winRx := 9 })], cnt.cut:=true } : State), by decide +kernel⟩,
   ⟨(up : State), (0x1000 : Nat), by decide +kernel⟩,
   ⟨(0 : Nat), (0 : Nat), 0, by decide +kernel⟩⟩

/-- Concrete values meet the hypotheses of every clause of `Obligations.RegistersTakeAccessesAsTyped`. -/
theorem witness_RegistersTakeAccessesAsTyped :
    (∃ (s : State) (rid : Nat), s.barOpen rid = false) ∧
    (∃ (s : State) (rid : Nat) (off : Nat), s.barOpen rid = true ∧ ridFull rid = true ∧ msixPlace rid (off / 8 * 8) = none ∧
      findReg (off / 8 * 8) = none ∧ statusPlace rid (off / 8 * 8) = none ∧ off ≠ atomCfg ∧ off ≠ devCtlCfg) ∧
    (∃ (s : State) (rid : Nat) (off : Nat) (size : Nat), s.barOpen rid = true ∧ ridFull rid = true ∧ msixPlace rid (off / 8 * 8) = none ∧
      ((findReg (off / 8 * 8)).isSome = true ∨ (statusPlace rid (off / 8 * 8)).isSome = true) ∧ off ≠ atomCfg ∧ off ≠ devCtlCfg ∧
      (size ≠ 8 ∨ off % 8 ≠ 0) ∧ (size ≠ 4 ∨ off % 4 ≠ 0)) ∧
    (∃ (s : State) (rid : Nat) (off : Nat) (size : Nat), s.barOpen rid = true ∧ off < atomCfg ∧
      (msixPlace rid (off / 8 * 8)).isSome = true ∧ (size ≠ 8 ∨ off % 8 ≠ 0) ∧ (size ≠ 4 ∨ off % 4 ≠ 0)) ∧
    (∃ (s : State) (rid : Nat), s.barOpen rid = true ∧ ridClass rid = 0 ∧ isPf (rid % 4096) = true) ∧
    (∃ (s : State) (rid : Nat) (off : Nat), s.barOpen rid = true ∧ bar2Base ≤ off ∧ ridClass rid = 0) ∧
    (∃ (s : State) (rid : Nat) (off : Nat) (val : Word) (r : RegRow) (i : Nat) (k : Nat), s.regs.wf = true ∧ s.barOpen rid = true ∧
      ridFull rid = true ∧ off % 8 = 0 ∧ msixPlace rid off = none ∧ findReg off = some (r, i, k) ∧ s.regCause off = none ∧
      s.ownWrite rid off r.base i val = none ∧ off ≠ R.FLT_CTL) ∧
    (∃ (s : State) (rid : Nat) (off : Nat) (val : Word) (r : RegRow) (i : Nat) (k : Nat) (t : _), s.regs.wf = true ∧ s.barOpen rid = true ∧
      ridFull rid = true ∧ off % 8 = 0 ∧ msixPlace rid off = none ∧ findReg off = some (r, i, k) ∧ s.regCause off = none ∧
      s.ownWrite rid off r.base i val = some t) ∧
    (∃ (s : State) (rid : Nat) (off : Nat) (r : RegRow) (i : Nat) (k : Nat), s.regs.wf = true ∧ s.barOpen rid = true ∧ ridFull rid = true ∧
      off % 8 = 0 ∧ msixPlace rid off = none ∧ findReg off = some (r, i, k) ∧ statusPlace rid off = none ∧
      (off < R.IRC_CLAIM 0 ∨ R.IRC_CLAIM 6 ≤ off) ∧ (s.rte.copying = none ∨ (off < shdBase ∨ shdBase + bankLen ≤ off))) ∧
    (∃ (s : State) (rid : Nat) (off : Nat) (r : RegRow) (i : Nat) (k : Nat) (c : _) (d : _), s.regs.wf = true ∧ s.barOpen rid = true ∧
      ridFull rid = true ∧ off % 8 = 0 ∧ msixPlace rid off = none ∧ findReg off = some (r, i, k) ∧ statusPlace rid off = none ∧
      (off < R.IRC_CLAIM 0 ∨ R.IRC_CLAIM 6 ≤ off) ∧ s.regCause off = some (c, d)) ∧
    (∃ (s : State) (rid : Nat) (off : Nat) (r : RegRow) (i : Nat) (k : Nat), s.regs.wf = true ∧ s.barOpen rid = true ∧ ridFull rid = true ∧
      off % 8 = 0 ∧ msixPlace rid off = none ∧ findReg off = some (r, i, k) ∧ statusPlace rid off = none ∧
      (off < R.IRC_CLAIM 0 ∨ R.IRC_CLAIM 6 ≤ off) ∧ s.regCause off = none) ∧
    (∃ (s : State) (rid : Nat) (off : Nat), s.barOpen rid = true ∧ ridFull rid = false ∧ off % 8 = 0 ∧ msixPlace rid off = none ∧
      statusPlace rid off = none) ∧
    (∃ (s : State) (rid : Nat) (off : Nat) (c : Nat) (d : Nat) (a : _), s.regs.wf = true ∧ rid < 65536 ∧ off / 8 < 2 ^ 23 ∧ c < 256 ∧
      d < 256 ∧ a ≠ R.TOP_ACCESS_ERR) ∧
    (∃ (s : State) (rid : Nat) (off : Nat) (c : Nat) (d : Nat), s.regs.wf = true ∧ rid < 65536 ∧ off / 8 < 2 ^ 23 ∧ c < 256 ∧ d < 256 ∧
      s.rdF R.TOP_ACCESS_ERR F.TOP_ACCESS_ERR_VALID = 0) ∧
    (∃ (s : State) (rid : Nat) (off : Nat) (c : Nat) (d : Nat), s.regs.wf = true ∧ rid < 65536 ∧ off / 8 < 2 ^ 23 ∧ c < 256 ∧ d < 256 ∧
      s.rdF R.TOP_ACCESS_ERR F.TOP_ACCESS_ERR_VALID = 1) :=
  ⟨⟨(State.reset : State), (0 : Nat), by decide +kernel⟩,
   ⟨(upq : State), (0 : Nat), (0x2F0000 : Nat), by decide +kernel⟩,
   ⟨(upq : State), (0 : Nat), (R.LNK_CTL 3 : Nat), (3 : Nat), by decide +kernel⟩,
   ⟨((up.setFn 5 {fnInit with bme:=true}) : State), (0 : Nat), (0x180000 : Nat), (2 : Nat), by decide +kernel⟩,
   ⟨(upq : State), (0 : Nat), by decide +kernel⟩,
   ⟨(upq : State), (0 : Nat), (bar2Base : Nat), by decide +kernel⟩,
   ⟨(upq : State), (0 : Nat), (R.FLT_STAT : Nat), (0 : Word), ((rowOf (R.FLT_STAT)).1 : RegRow), ((rowOf (R.FLT_STAT)).2.1 : Nat),
     ((rowOf (R.FLT_STAT)).2.2 : Nat), by decide +kernel⟩,
   ⟨(upq : State), (0 : Nat), (R.LNK_CTL 3 : Nat), (0 : Word), ((rowOf (R.LNK_CTL 3)).1 : RegRow), ((rowOf (R.LNK_CTL 3)).2.1 : Nat),
     ((rowOf (R.LNK_CTL 3)).2.2 : Nat),
     (match (upq).ownWrite (0) (R.LNK_CTL 3) ((rowOf (R.LNK_CTL 3)).1).base ((rowOf (R.LNK_CTL 3)).2.1) (0) with | some u => u | none => (upq)),
     by decide +kernel⟩,
   ⟨(upq : State), (0 : Nat), (R.LNK_CTL 3 : Nat), ((rowOf (R.LNK_CTL 3)).1 : RegRow), ((rowOf (R.LNK_CTL 3)).2.1 : Nat),
     ((rowOf (R.LNK_CTL 3)).2.2 : Nat), by decide +kernel⟩,
   ⟨((upq.wrF (R.PWR_DOM_STAT 92) F.PWR_DOM_STAT_STATE 0) : State), (0 : Nat), (R.FLT_STAT : Nat), ((rowOf (R.FLT_STAT)).1 : RegRow),
     ((rowOf (R.FLT_STAT)).2.1 : Nat), ((rowOf (R.FLT_STAT)).2.2 : Nat), 1, 92, by decide +kernel⟩,
   ⟨(upq : State), (0 : Nat), (R.LNK_CTL 3 : Nat), ((rowOf (R.LNK_CTL 3)).1 : RegRow), ((rowOf (R.LNK_CTL 3)).2.1 : Nat),
     ((rowOf (R.LNK_CTL 3)).2.2 : Nat), by decide +kernel⟩,
   ⟨((up.setFn 5 {fnInit with bme:=true}) : State), (5 : Nat), (R.LNK_CTL 3 : Nat), by decide +kernel⟩,
   ⟨(up : State), (0 : Nat), (0 : Nat), (1 : Nat), (92 : Nat), 0, by decide +kernel⟩,
   ⟨(up : State), (0 : Nat), (0 : Nat), (1 : Nat), (92 : Nat), by decide +kernel⟩,
   ⟨((up.wrF R.TOP_ACCESS_ERR F.TOP_ACCESS_ERR_VALID 1) : State), (0 : Nat), (0 : Nat), (1 : Nat), (92 : Nat), by decide +kernel⟩⟩

/-- Concrete values meet the hypotheses of every clause of `Obligations.SnapshotsCopyOneObject`. -/
theorem witness_SnapshotsCopyOneObject :
    (∃ (s : State) (rid : Nat) (w : Nat), s.regs.wf = true ∧ w < 6 ∧ s.barOpen rid = true ∧ s.regCause (R.INS_CMD w) = none ∧
      ridFull rid = true ∧ (rid ≠ insOwner w ∨ s.rdF (R.INS_CMD w) F.INS_CMD_STATUS = 1)) ∧
    (∃ (s : State) (rid : Nat) (w : Nat), s.regs.wf = true ∧ w < 6 ∧ s.barOpen rid = true ∧ s.regCause (R.INS_CMD w) = none ∧
      ridFull rid = true ∧ rid = insOwner w ∧ s.rdF (R.INS_CMD w) F.INS_CMD_STATUS ≠ 1 ∧ s.fatal = false) ∧
    (∃ (s : State) (w : Nat), s.regs.wf = true ∧ w < 6 ∧ s.fatal = false ∧ s.rdF (R.INS_CMD w) F.INS_CMD_STATUS ≠ 1) ∧
    (∃ (s : State) (w : Nat), s.regs.wf = true ∧ w < 6 ∧ s.fatal = false ∧ s.rdF (R.INS_CMD w) F.INS_CMD_STATUS = 1 ∧ s.rte.copying = none) ∧
    (∃ (s : State) (i : Nat), i < 2 ^ 14 ∧ s.domOn 91 = true) ∧
    (∃ (s : State) (i : Nat), i < 2 ^ 24 ∧ s.domOn 91 = true) ∧
    (∃ (s : State) (i : Nat), i < 128 ∧ s.domOn 92 = false) ∧
    (∃ (s : State) (i : Nat) (c : _), c < 2 ^ 16 ∧ (∀ v, s.mat.ctxs.get? c = some v → v.posted.length ≤ i) ∧ i < 2 ^ 24) :=
  ⟨⟨(upq : State), (0x1000 : Nat), (0 : Nat), by decide +kernel⟩,
   ⟨(upq : State), (0 : Nat), (0 : Nat), by decide +kernel⟩,
   ⟨(((upq.wr (R.INS_CMD 0) (putF (putF 0 F.INS_CMD_TYPE 1) F.INS_CMD_INDEX 0)).wrF (R.INS_CMD 0) F.INS_CMD_STATUS 0) : State), (0 : Nat),
     by decide +kernel⟩,
   ⟨(((upq.wr (R.INS_CMD 0) (putF (putF 0 F.INS_CMD_TYPE 1) F.INS_CMD_INDEX 0)).wrF (R.INS_CMD 0) F.INS_CMD_STATUS 1) : State), (0 : Nat),
     by decide +kernel⟩,
   ⟨(upq : State), (0 : Nat), by decide +kernel⟩,
   ⟨(upq : State), (0 : Nat), by decide +kernel⟩,
   ⟨((upq.wrF (R.PWR_DOM_STAT 92) F.PWR_DOM_STAT_STATE 0) : State), (0 : Nat), by decide +kernel⟩,
   ⟨(upq : State), (0 : Nat), 0, by decide +kernel⟩⟩

/-- Concrete values meet the hypotheses of every clause of `Obligations.PowerAndFaultSourcesAreLevels`. -/
theorem witness_PowerAndFaultSourcesAreLevels :
    (∃ (k : Nat), k < 10) ∧
    (∃ (l : _), l < 16) ∧
    (∃ (n : Nat), ((0x4A ≤ n ∧ n ≤ 0x4F) ∨ ((0x5A ≤ n ∧ n ≤ 0x5F) ∨ ((0x62 ≤ n ∧ n ≤ 0x7F) ∨ (0x84 ≤ n ∧ n ≤ 0x8F))))) :=
  ⟨⟨(0 : Nat), by decide +kernel⟩,
   ⟨0, by decide +kernel⟩,
   ⟨(0x4A : Nat), by decide +kernel⟩⟩

/-- Concrete values meet the hypotheses of every clause of `Obligations.RecorderTestAndBootSourcesAreLevels`. -/
theorem witness_RecorderTestAndBootSourcesAreLevels :
    ∃ (n : Nat), ((0xA3 ≤ n ∧ n ≤ 0xAF) ∨ ((0xBA ≤ n ∧ n ≤ 0xBF) ∨ (0xC2 ≤ n ∧ n ≤ 0xCF))) :=
  ⟨(0xA3 : Nat), by decide +kernel⟩

end Sys2Proof.Tests
end

namespace Sys2Proof.Machine
open Sys2Proof

/-! ### EVR_STAT, its two flags -/

/-- The bits of EVR_STAT below HIGH: USED, ERA and CLEARING (R398). -/
def State.evrStatLow (s : State) : Nat :=
  Nat.min recSlots s.evr.used + s.evr.era.toNat * 2 ^ 32 + b2n s.evr.clearing.isSome * 2 ^ 60

theorem b2n_lt_two (b : Bool) : b2n b < 2 := by
  cases b <;> decide

theorem b2n_eq_one_iff (b : Bool) : b2n b = 1 ↔ b = true := by
  cases b <;> decide

theorem State.evrStatLow_lt (s : State) : s.evrStatLow < 2 ^ 62 := by
  have hused : Nat.min recSlots s.evr.used ≤ 65536 := Nat.min_le_left _ _
  have hera := s.evr.era.isLt
  have hclr := b2n_lt_two s.evr.clearing.isSome
  unfold State.evrStatLow
  omega

theorem State.shown_evrStat (s : State) :
    s.shown R.EVR_STAT R.EVR_STAT 0
      = w64 (s.evrStatLow + b2n s.evrHigh * 2 ^ 62 + b2n (decide (recSlots ≤ s.evr.used)) * 2 ^ 63) := rfl

theorem bitsOf_w64_bit62 {lo : Nat} (hlo : lo < 2 ^ 62) (b c : Bool) :
    bitsOf (w64 (lo + b2n b * 2 ^ 62 + b2n c * 2 ^ 63)) 62 1 = b2n b := by
  have hb := b2n_lt_two b
  have hc := b2n_lt_two c
  simp only [bitsOf, w64, BitVec.toNat_ofNat]
  omega

theorem bitsOf_w64_bit63 {lo : Nat} (hlo : lo < 2 ^ 62) (b c : Bool) :
    bitsOf (w64 (lo + b2n b * 2 ^ 62 + b2n c * 2 ^ 63)) 63 1 = b2n c := by
  have hb := b2n_lt_two b
  have hc := b2n_lt_two c
  simp only [bitsOf, w64, BitVec.toNat_ofNat]
  omega

theorem State.shown_evrStat_high (s : State) :
    getF (s.shown R.EVR_STAT R.EVR_STAT 0) F.EVR_STAT_HIGH = b2n s.evrHigh := by
  rw [s.shown_evrStat]
  exact bitsOf_w64_bit62 s.evrStatLow_lt _ _

theorem State.shown_evrStat_full (s : State) :
    getF (s.shown R.EVR_STAT R.EVR_STAT 0) F.EVR_STAT_FULL = b2n (decide (recSlots ≤ s.evr.used)) := by
  rw [s.shown_evrStat]
  exact bitsOf_w64_bit63 s.evrStatLow_lt _ _

/-! ### The interrupt sources from 0xA0 on -/

theorem State.ircLevel_evrHigh (s : State) : s.ircLevel 0xA0 = s.evrHigh := rfl

theorem State.ircLevel_evrFull (s : State) : s.ircLevel 0xA1 = decide (recSlots ≤ s.evr.used) := rfl

theorem State.ircLevel_lifInvalidNew (s : State) :
    s.ircLevel 0xA2 = (s.rdF R.LIF_STAT F.LIF_STAT_INVALID_NEW == 1) := rfl

theorem State.ircLevel_stcValid (s : State) :
    s.ircLevel 0xB8 = (s.rdF R.STC_RESULT F.STC_RESULT_VALID == 1) := rfl

theorem State.ircLevel_stcCmdDone (s : State) :
    s.ircLevel 0xB9 = (s.rdF R.STC_STAT F.STC_STAT_CMD_DONE == 1) := rfl

theorem State.ircLevel_bootUpdDone (s : State) :
    s.ircLevel 0xC0 = (s.rdF R.BOOT_STAT F.BOOT_STAT_UPD_DONE == 1) := rfl

theorem State.ircLevel_bootFailover (s : State) :
    s.ircLevel 0xC1 = (s.rdF R.BOOT_STAT F.BOOT_STAT_FAILOVER == 1) := rfl

/-- Beyond LIF_STAT's source only SEM, STC and BOOT have interrupt sources, two each. -/
theorem State.ircLevel_eq_false (s : State) {n : Nat} (h : 0xA2 < n)
    (hsem : n ≠ 0xB0 ∧ n ≠ 0xB1) (hstc : n ≠ 0xB8 ∧ n ≠ 0xB9) (hboot : n ≠ 0xC0 ∧ n ≠ 0xC1) :
    s.ircLevel n = false := by
  have ne (k : Nat) (hk : k ≤ 0xA2) : n ≠ k := by omega
  have above (a b : Nat) (hb : b ≤ 0xA2) : ¬ (a ≤ n ∧ n ≤ b) := by omega
  simp [State.ircLevel, ne, above, hsem, hstc, hboot]

/-- Settles O54: each source is the bit the rule names, the two recorder flags through the word that a read of EVR_STAT makes. -/
theorem recorderTestAndBootSourcesAreLevels : Obligations.RecorderTestAndBootSourcesAreLevels := by
  unfold Obligations.RecorderTestAndBootSourcesAreLevels
  refine ⟨fun s => ⟨?updDone, ?failover, ?valid, ?cmdDone, ?high, ?full, ?invalidNew⟩, fun s n hn => ?reserved⟩
  case updDone => rw [s.ircLevel_bootUpdDone, beq_iff_eq]
  case failover => rw [s.ircLevel_bootFailover, beq_iff_eq]
  case valid => rw [s.ircLevel_stcValid, beq_iff_eq]
  case cmdDone => rw [s.ircLevel_stcCmdDone, beq_iff_eq]
  case high => rw [s.ircLevel_evrHigh, s.shown_evrStat_high, b2n_eq_one_iff]
  case full => rw [s.ircLevel_evrFull, s.shown_evrStat_full, b2n_eq_one_iff]
  case invalidNew => rw [s.ircLevel_lifInvalidNew, beq_iff_eq]
  case reserved => exact s.ircLevel_eq_false (by omega) (by omega) (by omega) (by omega)
end Sys2Proof.Machine


namespace Sys2Proof.Machine
open Sys2Proof

/-! ### Bits of a word -/

theorem bitAt_eq_testBit (w : Word) (i : Nat) : bitAt w i = w.toNat.testBit i := by
  simp [bitAt, bitsOf, Nat.testBit_eq_decide_div_mod_eq, ← Bool.beq_eq_decide_eq]

theorem bitAt_zero (i : Nat) : bitAt 0 i = false := by
  simp [bitAt_eq_testBit]

/-- A bit field is not 0 exactly when one of its bits is 1. -/
theorem bitsOf_ne_zero_iff (w : Word) (lo n : Nat) :
    bitsOf w lo n ≠ 0 ↔ ∃ i, i < n ∧ bitAt w (lo + i) = true := by
  have testBit_bitsOf (i : Nat) : (bitsOf w lo n).testBit i = (decide (i < n) && bitAt w (lo + i)) := by
    rw [bitsOf, Nat.testBit_mod_two_pow, Nat.testBit_div_two_pow, bitAt_eq_testBit, Nat.add_comm]
  constructor
  · intro h
    obtain ⟨i, hi⟩ := Nat.exists_testBit_of_ne_zero h
    rw [testBit_bitsOf, Bool.and_eq_true, decide_eq_true_iff] at hi
    exact ⟨i, hi⟩
  · rintro ⟨i, hi, hbit⟩ h
    have := testBit_bitsOf i
    simp [h, hi, hbit] at this

/-! ### The interrupt sources 0x40 to 0x9F -/

/-- The CE and UC lines: bit i of word k of FLT_PEND is PEND of the source 64k + i (R372). -/
theorem State.pendOf_iff (s : State) (k cls : Nat) :
    s.pendOf k cls = true ↔
      ∃ n, 64 * k ≤ n ∧ n < 64 * k + 64 ∧ fltClass n = cls ∧ s.pend n = true := by
  have pend_add {i : Nat} (hi : i < 64) : s.pend (64 * k + i) = bitAt (s.rd (R.FLT_PEND k)) i := by
    rw [State.pend, show (64 * k + i) / 64 = k by omega, show (64 * k + i) % 64 = i by omega]
  have nonzero {i : Nat} (hi : bitAt (s.rd (R.FLT_PEND k)) i = true) : s.rd (R.FLT_PEND k) ≠ 0 := by
    intro h
    rw [h, bitAt_zero] at hi
    cases hi
  simp only [State.pendOf, Bool.and_eq_true, bne_iff_ne, List.any_eq_true, List.mem_range, beq_iff_eq]
  constructor
  · rintro ⟨-, i, hi, hbit, hcls⟩
    exact ⟨64 * k + i, by omega, by omega, hcls, by rw [pend_add hi, hbit]⟩
  · rintro ⟨n, hlo, hhi, hcls, hpend⟩
    obtain ⟨i, rfl⟩ := Nat.exists_eq_add_of_le hlo
    have hi : i < 64 := by omega
    rw [pend_add hi] at hpend
    exact ⟨nonzero hpend, i, hi, hpend, hcls⟩

/-- A rule line is high while an enabled rule that names it is ACTIVE (Table 15.4). -/
theorem State.ruleLine_iff (s : State) (l : Nat) :
    s.ruleLine l = true ↔ ∃ r, r < 256 ∧ s.rdF (R.FTH_RULE_A r) F.FTH_RULE_A_ENABLE = 1 ∧
      s.rdF (R.FTH_RULE_A r) F.FTH_RULE_A_ACTIVE = 1 ∧ s.rdF (R.FTH_RULE_A r) F.FTH_RULE_A_ACTION = 8 ∧
      (s.rule r).arg.toNat % 16 = l := by
  simp only [State.ruleLine, State.rdF, List.any_eq_true, List.mem_range, Bool.and_eq_true, beq_iff_eq]
  refine exists_congr fun r => and_congr_right fun _ => ?_
  tauto

theorem State.clkLoss_iff (s : State) :
    s.rdF R.PWR_CLK_STAT F.PWR_CLK_STAT_LOSS ≠ 0 ↔
      ∃ i, i < 8 ∧ bitAt (s.rd R.PWR_CLK_STAT) (16 + i) = true :=
  bitsOf_ne_zero_iff _ 16 8

theorem State.ircLevel_ce (s : State) {k : Nat} (hk : k < 10) : s.ircLevel (0x40 + k) = s.pendOf k 0 := by
  have ne (m : Nat) (hm : m < 0x40) : 0x40 + k ≠ m := by omega
  have top : 0x40 + k ≤ 0x49 := by omega
  simp [State.ircLevel, ne, top]

theorem State.ircLevel_uc (s : State) {k : Nat} (hk : k < 10) : s.ircLevel (0x50 + k) = s.pendOf k 1 := by
  have ne (m : Nat) (hm : m < 0x50) : 0x50 + k ≠ m := by omega
  have ce : ¬ 0x50 + k ≤ 0x49 := by omega
  have top : 0x50 + k ≤ 0x59 := by omega
  simp [State.ircLevel, ne, ce, top]

theorem State.ircLevel_ruleLine (s : State) {l : Nat} (hl : l < 16) :
    s.ircLevel (0x90 + l) = s.ruleLine l := by
  have ne (m : Nat) (hm : m < 0x90) : 0x90 + l ≠ m := by omega
  have ce : ¬ 0x90 + l ≤ 0x49 := by omega
  have uc : ¬ 0x90 + l ≤ 0x59 := by omega
  have top : 0x90 + l ≤ 0x9F := by omega
  simp [State.ircLevel, ne, ce, uc, top]

theorem State.ircLevel_fatal (s : State) : s.ircLevel 0x60 = s.fatal := rfl

theorem State.ircLevel_clrRefused (s : State) :
    s.ircLevel 0x61 = (s.rdF R.FLT_STAT F.FLT_STAT_CLR_REFUSED == 1) := rfl

theorem State.ircLevel_pwrReject (s : State) :
    s.ircLevel 0x80 = (s.rdF R.PWR_REJECT F.PWR_REJECT_VALID == 1) := rfl

theorem State.ircLevel_clkLoss (s : State) :
    s.ircLevel 0x81 = (s.rdF R.PWR_CLK_STAT F.PWR_CLK_STAT_LOSS != 0) := rfl

theorem State.ircLevel_guard (s : State) : s.ircLevel 0x82 = s.pwr.guard := rfl

theorem State.ircLevel_srcChg (s : State) :
    s.ircLevel 0x83 = (s.rdF R.FTH_TIME F.FTH_TIME_SRC_CHG == 1) := rfl

/-- Between 0x0D and 0x8F only the CE, UC, FLT_STAT and power lines have sources. -/
theorem State.ircLevel_eq_false_below_ruleLines (s : State) {n : Nat} (hlo : 0x0C < n) (hhi : n < 0x90)
    (hce : ¬ (0x40 ≤ n ∧ n ≤ 0x49)) (huc : ¬ (0x50 ≤ n ∧ n ≤ 0x59)) (hflt : n ≠ 0x60 ∧ n ≠ 0x61)
    (hpwr : ¬ (0x80 ≤ n ∧ n ≤ 0x83)) : s.ircLevel n = false := by
  have neLow (m : Nat) (hm : m ≤ 0x0C) : n ≠ m := by omega
  have neHigh (m : Nat) (hm : 0x90 ≤ m) : n ≠ m := by omega
  have nePwr (m : Nat) (hm : 0x80 ≤ m ∧ m ≤ 0x83) : n ≠ m := by omega
  have rule : ¬ 0x90 ≤ n := by omega
  simp [State.ircLevel, neLow, neHigh, nePwr, hce, huc, hflt, rule]

/-- Settles O53: each line is the register bit the rule names; CE and UC lines are searches of a FLT_PEND word, the
rule lines of the rules, and the loss line a field with several bits. -/
theorem powerAndFaultSourcesAreLevels : Obligations.PowerAndFaultSourcesAreLevels := by
  unfold Obligations.PowerAndFaultSourcesAreLevels
  refine ⟨fun s k hk => ⟨?ce, ?uc⟩,
    fun s => ⟨?fatal, ?clrRefused, ?reject, ?loss, ?guard, ?srcChg, fun l hl => ?ruleLine⟩, fun s n hn => ?reserved⟩
  case ce => rw [s.ircLevel_ce hk, s.pendOf_iff]
  case uc => rw [s.ircLevel_uc hk, s.pendOf_iff]
  case fatal => rw [s.ircLevel_fatal, State.fatal, beq_iff_eq]
  case clrRefused => rw [s.ircLevel_clrRefused, beq_iff_eq]
  case reject => rw [s.ircLevel_pwrReject, beq_iff_eq]
  case loss => rw [s.ircLevel_clkLoss, bne_iff_ne, s.clkLoss_iff]
  case guard => exact s.ircLevel_guard
  case srcChg => rw [s.ircLevel_srcChg, beq_iff_eq]
  case ruleLine => rw [s.ircLevel_ruleLine hl, s.ruleLine_iff]
  case reserved =>
    exact s.ircLevel_eq_false_below_ruleLines (by omega) (by omega) (by omega) (by omega) (by omega) (by omega)
end Sys2Proof.Machine
